-- ==== Sys2Proof/Word.lean ====
section
/-! DEFINITION. The word types of the Dorja ISA and the plainest helpers over lists and Booleans (R13, R15, R49). -/
namespace Sys2Proof

/-- A 32-bit register word (R24, R28). -/
abbrev Word := BitVec 32

/-- One byte of memory (R13). -/
abbrev Byte := BitVec 8

/-- A 16-bit code parcel (R73). -/
abbrev Parcel := BitVec 16

/-- One bit from a Boolean. -/
def bit (b : Bool) : BitVec 1 := BitVec.ofBool b

/-- A Boolean from one bit. -/
def unbit (b : BitVec 1) : Bool := b.getLsbD 0

theorem unbit_bit (b : Bool) : unbit (bit b) = b := by cases b <;> rfl

/-- Update the elements that satisfy `p`. -/
def updWhere {α : Type} (p : α → Bool) (f : α → α) (l : List α) : List α :=
  l.map fun x => if p x then f x else x

/-- Remove the elements that satisfy `p`. -/
def dropWhere {α : Type} (p : α → Bool) (l : List α) : List α :=
  l.filter fun x => !p x

/-- Insert before the first element whose key is larger; the order of equal keys is kept. -/
def insertByKey {α : Type} (key : α → Nat) (x : α) : List α → List α
  | [] => [x]
  | y :: ys => if key x < key y then x :: y :: ys else y :: insertByKey key x ys

/-- Sort by a key, equal keys in their given order. -/
def sortByKey {α : Type} (key : α → Nat) : List α → List α
  | [] => []
  | x :: xs => insertLeft x (sortByKey key xs)
where
  /-- Insert before the first element whose key is not smaller. -/
  insertLeft (x : α) : List α → List α
    | [] => [x]
    | y :: ys => if key x ≤ key y then x :: y :: ys else y :: insertLeft x ys

/-- The element with the least key, the first one among equals. -/
def minByKey {α : Type} (key : α → Nat) : List α → Option α
  | [] => none
  | x :: xs =>
    match minByKey key xs with
    | none => some x
    | some y => if key x ≤ key y then some x else some y

/-- Fold a state through a list. -/
def foldList {α σ : Type} (f : σ → α → σ) : σ → List α → σ
  | s, [] => s
  | s, x :: xs => foldList f (f s x) xs

/-- Saturating 32-bit addition of counts (R281, R346, R443). -/
def satAdd32 (a b : Nat) : Nat := min (a + b) 0xFFFFFFFF

end Sys2Proof
end

