-- ==== Sys2Proof/Syntax.lean ====
section
/-! DEFINITION. The instructions and the device's own steps, one constructor for each row of spec/opcode_table.json:
rows with a word layout (majors 0 to 60 and the compact forms, R75 to R88) first, then the steps and commands that have
no encoding. The operands of a step say where it happens and what an outside party supplied. -/
namespace Sys2Proof

/-- Register width codes (R84). -/
inductive Width where
  | x1 | x2 | x4 | x8
deriving DecidableEq, Repr

def Width.code : Width → BitVec 2
  | .x1 => 0 | .x2 => 1 | .x4 => 2 | .x8 => 3

def Width.ofCode (c : BitVec 2) : Width :=
  if c = 0 then .x1 else if c = 1 then .x2 else if c = 2 then .x4 else .x8

/-- How many registers a width names (R24). -/
def Width.regs : Width → Nat
  | .x1 => 1 | .x2 => 2 | .x4 => 4 | .x8 => 8

/-- Rounding modes (R57). -/
inductive Rnd where
  | rn | rz | rd | ru
deriving DecidableEq, Repr

def Rnd.code : Rnd → BitVec 2
  | .rn => 0 | .rz => 1 | .rd => 2 | .ru => 3

def Rnd.ofCode (c : BitVec 2) : Rnd :=
  if c = 0 then .rn else if c = 1 then .rz else if c = 2 then .rd else .ru

/-- Address spaces, SP3 codes 0 to 3 (R86). -/
inductive Space where
  | glb | scr | win | far
deriving DecidableEq, Repr

def Space.code : Space → BitVec 2
  | .glb => 0 | .scr => 1 | .win => 2 | .far => 3

def Space.ofCode (c : BitVec 2) : Space :=
  if c = 0 then .glb else if c = 1 then .scr else if c = 2 then .win else .far

/-- Access codes, SZ3 (R86). -/
inductive Access where
  | z8 | s8 | z16 | s16 | b4 | b8 | b16 | b32
deriving DecidableEq, Repr

def Access.code : Access → BitVec 3
  | .z8 => 0 | .s8 => 1 | .z16 => 2 | .s16 => 3 | .b4 => 4 | .b8 => 5 | .b16 => 6 | .b32 => 7

def Access.ofCode (c : BitVec 3) : Access :=
  if c = 0 then .z8 else if c = 1 then .s8 else if c = 2 then .z16 else if c = 3 then .s16
  else if c = 4 then .b4 else if c = 5 then .b8 else if c = 6 then .b16 else .b32

/-- The byte count of an access (R86). -/
def Access.size : Access → Nat
  | .z8 | .s8 => 1 | .z16 | .s16 => 2 | .b4 => 4 | .b8 => 8 | .b16 => 16 | .b32 => 32

/-- The width of the T6 group of an access (R86). -/
def Access.width : Access → Width
  | .z8 | .s8 | .z16 | .s16 | .b4 => .x1 | .b8 => .x2 | .b16 => .x4 | .b32 => .x8

/-- ORD codes of atomics (R184). -/
inductive Ord where
  | rlx | acq | rel | ar
deriving DecidableEq, Repr

def Ord.code : Ord → BitVec 2
  | .rlx => 0 | .acq => 1 | .rel => 2 | .ar => 3

def Ord.ofCode (c : BitVec 2) : Ord :=
  if c = 0 then .rlx else if c = 1 then .acq else if c = 2 then .rel else .ar

/-- Fence scopes, codes 0 to 6 (R184). -/
inductive Scope where
  | th | cg | wg | nb | rd | dv | dm
deriving DecidableEq, Repr

def Scope.code : Scope → BitVec 3
  | .th => 0 | .cg => 1 | .wg => 2 | .nb => 3 | .rd => 4 | .dv => 5 | .dm => 6

def Scope.ofCode? (c : BitVec 3) : Option Scope :=
  if c = 0 then some .th else if c = 1 then some .cg else if c = 2 then some .wg
  else if c = 3 then some .nb else if c = 4 then some .rd else if c = 5 then some .dv
  else if c = 6 then some .dm else none

/-- Integer conditions (R121). -/
inductive ICond where
  | eq | ne | lt | le | gt | ge | tst | tsn
deriving DecidableEq, Repr

def ICond.code : ICond → BitVec 4
  | .eq => 0 | .ne => 1 | .lt => 2 | .le => 3 | .gt => 4 | .ge => 5 | .tst => 6 | .tsn => 7

def ICond.ofCode? (c : BitVec 4) : Option ICond :=
  if c = 0 then some .eq else if c = 1 then some .ne else if c = 2 then some .lt
  else if c = 3 then some .le else if c = 4 then some .gt else if c = 5 then some .ge
  else if c = 6 then some .tst else if c = 7 then some .tsn else none

/-- Floating-point conditions (R138). -/
inductive FCond where
  | eq | ne | lt | le | gt | ge | un | or | ueq | ult | ule | ugt | uge | one
deriving DecidableEq, Repr

def FCond.code : FCond → BitVec 4
  | .eq => 0 | .ne => 1 | .lt => 2 | .le => 3 | .gt => 4 | .ge => 5 | .un => 6 | .or => 7
  | .ueq => 8 | .ult => 9 | .ule => 10 | .ugt => 11 | .uge => 12 | .one => 13

def FCond.ofCode? (c : BitVec 4) : Option FCond :=
  if c = 0 then some .eq else if c = 1 then some .ne else if c = 2 then some .lt
  else if c = 3 then some .le else if c = 4 then some .gt else if c = 5 then some .ge
  else if c = 6 then some .un else if c = 7 then some .or else if c = 8 then some .ueq
  else if c = 9 then some .ult else if c = 10 then some .ule else if c = 11 then some .ugt
  else if c = 12 then some .uge else if c = 13 then some .one else none

/-- The second source of V and PC forms, selected by B7 (R85). -/
inductive BSrc where
  | reg (r : BitVec 6)
  | unif (k : BitVec 5)
  | imm (i : BitVec 5)
deriving DecidableEq, Repr

def BSrc.code : BSrc → BitVec 7
  | .reg r => 0#1 ++ r
  | .unif k => 2#2 ++ k
  | .imm i => 3#2 ++ i

def BSrc.ofCode (c : BitVec 7) : BSrc :=
  if c.getLsbD 6 = false then .reg (c.extractLsb' 0 6)
  else if c.getLsbD 5 = false then .unif (c.extractLsb' 0 5)
  else .imm (c.extractLsb' 0 5)

/-- The stop bit P and the switch marker S of a 32-bit word (R77). -/
structure Marks where
  stop : Bool
  sw : Bool
deriving DecidableEq, Repr

/-- Compact register forms (R75). -/
structure CompactReg where
  d : BitVec 6
  b : BitVec 5
deriving DecidableEq, Repr

/-- Compact immediate forms (R75). -/
structure CompactImm where
  d : BitVec 6
  i : BitVec 5
deriving DecidableEq, Repr

/-- V format (R82). -/
structure VOps where
  b : BSrc
  wa : Width
  a : BitVec 6
  wd : Width
  d : BitVec 6
  m : Marks
deriving DecidableEq, Repr

/-- VF format with two sources (R82). -/
structure VF3 where
  w : Width
  b : BitVec 6
  a : BitVec 6
  d : BitVec 6
  m : Marks
deriving DecidableEq, Repr

/-- VF format with one source (R82). -/
structure VF2 where
  w : Width
  a : BitVec 6
  d : BitVec 6
  m : Marks
deriving DecidableEq, Repr

/-- VF format at x1 only, two sources. -/
structure R3 where
  b : BitVec 6
  a : BitVec 6
  d : BitVec 6
  m : Marks
deriving DecidableEq, Repr

/-- VF format at x1 only, one source. -/
structure R2 where
  a : BitVec 6
  d : BitVec 6
  m : Marks
deriving DecidableEq, Repr

/-- Immediate shifts (R105, R115). -/
structure ShiftI where
  x2 : Bool
  n : BitVec 6
  a : BitVec 6
  d : BitVec 6
  m : Marks
deriving DecidableEq, Repr

/-- I format (R108). -/
structure AddI where
  i : BitVec 11
  a : BitVec 6
  d : BitVec 6
  m : Marks
deriving DecidableEq, Repr

/-- WM format (R125). -/
structure MovW where
  i : BitVec 16
  d : BitVec 6
  m : Marks
deriving DecidableEq, Repr

/-- Integer compare (R121). -/
structure ICmp where
  signed : Bool
  w : Width
  b : BSrc
  a : BitVec 6
  c : ICond
  q : BitVec 3
  m : Marks
deriving DecidableEq, Repr

/-- Select (R122). -/
structure Sel where
  n : BitVec 3
  w : Width
  b : BitVec 6
  a : BitVec 6
  d : BitVec 6
  m : Marks
deriving DecidableEq, Repr

/-- Two-source predicate logic (R123). -/
structure PLog where
  d : BitVec 3
  nb : Bool
  na : Bool
  b : BitVec 3
  a : BitVec 3
  m : Marks
deriving DecidableEq, Repr

/-- pnot (R123). -/
structure PNot where
  d : BitVec 3
  a : BitVec 3
  m : Marks
deriving DecidableEq, Repr

/-- One register operand. -/
structure R1 where
  r : BitVec 6
  m : Marks
deriving DecidableEq, Repr

/-- v2p, mask bit i-1 for p_i (R123). -/
structure V2P where
  mask : BitVec 7
  a : BitVec 6
  m : Marks
deriving DecidableEq, Repr

/-- lea (R120). -/
structure Lea where
  s : BitVec 3
  w : Width
  b : BitVec 6
  a : BitVec 6
  d : BitVec 6
  m : Marks
deriving DecidableEq, Repr

/-- sread (R127). -/
structure SRead where
  x2 : Bool
  n : BitVec 6
  d : BitVec 6
  m : Marks
deriving DecidableEq, Repr

/-- mov (R126). -/
structure Mov where
  b : BSrc
  wa : Width
  toK : Bool
  wd : Width
  d : BitVec 6
  m : Marks
deriving DecidableEq, Repr

/-- fadd, fmul, ffma (R130). -/
structure FArith where
  r : Rnd
  w : Width
  b : BitVec 6
  a : BitVec 6
  d : BitVec 6
  m : Marks
deriving DecidableEq, Repr

/-- Floating-point compare (R138). -/
structure FCmp where
  w : Width
  b : BSrc
  a : BitVec 6
  c : FCond
  q : BitVec 3
  m : Marks
deriving DecidableEq, Repr

/-- Packed 16-bit forms, two sources (R130). -/
structure H3 where
  bf : Bool
  w : Width
  b : BitVec 6
  a : BitVec 6
  d : BitVec 6
  m : Marks
deriving DecidableEq, Repr

/-- Packed 16-bit forms, one source (R131). -/
structure H2 where
  bf : Bool
  w : Width
  a : BitVec 6
  d : BitVec 6
  m : Marks
deriving DecidableEq, Repr

/-- Direct conversions (R147). -/
structure Cvt where
  r : Rnd
  w : Width
  k : BitVec 4
  a : BitVec 6
  d : BitVec 6
  m : Marks
deriving DecidableEq, Repr

/-- Slot conversions (R147). -/
structure CvtSlot where
  f : BitVec 3
  e : BitVec 3
  a : BitVec 6
  d : BitVec 6
  m : Marks
deriving DecidableEq, Repr

/-- bfpq and bfpdq (R130). -/
structure Bfp where
  f : BitVec 3
  a : BitVec 6
  d : BitVec 6
  m : Marks
deriving DecidableEq, Repr

/-- BR format (R87). -/
structure Bra where
  o : BitVec 19
  n : Bool
  g : BitVec 3
  m : Marks
deriving DecidableEq, Repr

/-- call (R154). -/
structure Call where
  l : BitVec 6
  t : BitVec 6
  m : Marks
deriving DecidableEq, Repr

/-- No operand. -/
structure M0 where
  m : Marks
deriving DecidableEq, Repr

/-- await kind 0 (R165). -/
structure AwaitBar where
  q : Bool
  b : BitVec 6
  a : BitVec 6
  m : Marks
deriving DecidableEq, Repr

/-- await kinds 1 and 5 (R165). -/
structure AwaitQ where
  q : Bool
  a : BitVec 6
  m : Marks
deriving DecidableEq, Repr

/-- await kind 3 (R165). -/
structure AwaitGd where
  g : BitVec 4
  d : BitVec 6
  m : Marks
deriving DecidableEq, Repr

/-- part (R154). -/
structure Part where
  s : BitVec 2
  n : BitVec 3
  m : Marks
deriving DecidableEq, Repr

/-- vote (R155). -/
structure Vote where
  g : BitVec 3
  a : BitVec 6
  d : BitVec 6
  m : Marks
deriving DecidableEq, Repr

/-- shfl (R155). -/
structure Shfl where
  g : BitVec 3
  b : BitVec 6
  a : BitVec 6
  d : BitVec 6
  m : Marks
deriving DecidableEq, Repr

/-- gred (R155). -/
structure Gred where
  x2 : Bool
  g : BitVec 3
  a : BitVec 6
  d : BitVec 6
  m : Marks
deriving DecidableEq, Repr

/-- gscan (R155). -/
structure Gscan where
  exc : Bool
  g : BitVec 3
  a : BitVec 6
  d : BitVec 6
  m : Marks
deriving DecidableEq, Repr

/-- trap (R154). -/
structure Trap where
  c : BitVec 8
  m : Marks
deriving DecidableEq, Repr

/-- gdarm (R154). -/
structure GdArm where
  n : BitVec 4
  m : Marks
deriving DecidableEq, Repr

/-- gdset (R154). -/
structure GdSet where
  i : Bool
  v : Bool
  n : BitVec 4
  a : BitVec 6
  m : Marks
deriving DecidableEq, Repr

/-- M1 format (R183). -/
structure Mem1 where
  o : BitVec 5
  c : Space
  a : BitVec 6
  k : Access
  t : BitVec 6
  m : Marks
deriving DecidableEq, Repr

/-- M2 format (R183). -/
structure Mem2 where
  sx : Bool
  c : Space
  x : BitVec 6
  n : BitVec 4
  k : Access
  t : BitVec 6
  m : Marks
deriving DecidableEq, Repr

/-- A format (R184). -/
structure Atom where
  r : Ord
  n : BitVec 5
  ret : Bool
  p : BitVec 5
  x2 : Bool
  d : BitVec 6
  m : Marks
deriving DecidableEq, Repr

/-- fence (R184). -/
structure Fence where
  s : Scope
  m : Marks
deriving DecidableEq, Repr

/-- cinv and cwb (R184). -/
structure Range where
  l : BitVec 6
  a : BitVec 6
  m : Marks
deriving DecidableEq, Repr

/-- bar.init, bar.arr, bar.wait (R184). -/
structure BarOp where
  glb : Bool
  b : BitVec 6
  a : BitVec 6
  m : Marks
deriving DecidableEq, Repr

/-- bar.exp (R184). -/
structure BarExp where
  glb : Bool
  out : Bool
  b : BitVec 6
  a : BitVec 6
  m : Marks
deriving DecidableEq, Repr

/-- bar.inval (R184). -/
structure BarInval where
  glb : Bool
  a : BitVec 6
  m : Marks
deriving DecidableEq, Repr

/-- rinit (R184). -/
structure RInit where
  r : BitVec 8
  m : Marks
deriving DecidableEq, Repr

/-- rpush and rpop (R184). -/
structure RingOp where
  r : BitVec 8
  a : BitVec 6
  m : Marks
deriving DecidableEq, Repr

/-- rpeek (R184). -/
structure RPeek where
  r : BitVec 8
  b : BitVec 6
  a : BitVec 6
  m : Marks
deriving DecidableEq, Repr

/-- cpy and cpyx (R207). -/
structure Cpy where
  q : BitVec 2
  a : BitVec 6
  sense : Bool
  gd : BitVec 4
  m : Marks
deriving DecidableEq, Repr

/-- mxmma (R207). -/
structure MxMma where
  n : BitVec 3
  f : BitVec 3
  b : BitVec 6
  a : BitVec 6
  sense : Bool
  gd : BitVec 4
  m : Marks
deriving DecidableEq, Repr

/-- mxz (R207). -/
structure Mxz where
  n : BitVec 3
  sense : Bool
  gd : BitVec 4
  m : Marks
deriving DecidableEq, Repr

/-- mxld and mxst (R207). -/
structure MxLS where
  n : BitVec 3
  b : BitVec 6
  a : BitVec 6
  sense : Bool
  gd : BitVec 4
  m : Marks
deriving DecidableEq, Repr

/-- mxstat (R207). -/
structure MxStat where
  n : BitVec 3
  d : BitVec 6
  m : Marks
deriving DecidableEq, Repr

/-- tsbind (R208). -/
structure TsBind where
  mask : BitVec 8
  b : BitVec 6
  a : BitVec 6
  m : Marks
deriving DecidableEq, Repr

/-- lnch (R208). -/
structure Lnch where
  q : BitVec 8
  d : BitVec 6
  a : BitVec 6
  m : Marks
deriving DecidableEq, Repr


/-! ### Names used by the device's own steps -/

/-- A core of the module (R5). -/
structure CoreKey where
  cluster : Nat
  core : Nat
deriving DecidableEq, Repr

/-- A gang slot of a core, 0 to 15 (R45 %gang). -/
structure SlotKey where
  cluster : Nat
  core : Nat
  slot : Nat
deriving DecidableEq, Repr

/-- A seat of a core, 0 to 511 (R21). -/
structure SeatKey where
  cluster : Nat
  core : Nat
  seat : Nat
deriving DecidableEq, Repr

/-- A bounded queue of a workgroup (R277). -/
inductive QueueRef where
  | ring (r : Nat) | copy (q : Nat) | matrix (half : Nat)
deriving DecidableEq, Repr

/-- Who wrote a command to its mailbox (R399). -/
inductive Issuer where
  | hypervisor | guest (vd : Nat)
deriving DecidableEq, Repr

/-- The common words of a command descriptor (R399). -/
structure CmdHead where
  issuer : Issuer
  charter : Nat
  ctx : Nat
  seq : Nat
  /-- The reserved bits of its first two words, [31:16] of the one at 0x00 and [31:24] of the one at 0x04 (R399). -/
  reserved : Nat
  /-- The operand bytes that the function's table does not name, of class 10 (R452). -/
  spare : Nat
deriving DecidableEq, Repr

/-- The shape of a virtual device (R394). -/
inductive VdShape where
  | run (base log2 : Nat)
  | side (rood side : Nat)
deriving DecidableEq, Repr

/-- Where frames of a grant come from (R407). -/
inductive FrameSource where
  | rood (r : Nat)
  | cxl (frame : Nat)
  | host (frame : Nat)
deriving DecidableEq, Repr

/-- A frozen master (R418). -/
inductive Master where
  | queue (q : Nat) | context | engine (e : Nat)
deriving DecidableEq, Repr

/-- A safe-point entry (R98): offset in parcels, flags word, live mask. -/
structure StopEntry where
  off : Nat
  flags : Word
  live : BitVec 64
deriving DecidableEq, Repr

/-- A region declaration of a kernel (R95). -/
structure RegionDecl where
  n : Nat
  mode : Nat
  scope : Nat
deriving DecidableEq, Repr

/-- A kernel of a module: its parcels [first, last), its role sections and its declarations (R95). -/
structure KernelDecl where
  first : Nat
  last : Nat
  hasRoles : Bool
  copyEntry : Option Nat
  matrixEntry : Option Nat
  vectorEntry : Option Nat
  rings : List (Nat × Nat)
  ringConsumers : List (List Nat)
  regions : List RegionDecl
  formats : List (Nat × Word)
  barriers : List Nat
  trap : Option Nat
  coverage : Bool
deriving DecidableEq, Repr

/-- A module: parcels, kernels, safe-point table in ordinal order, constant image (R73, R95 to R99). -/
structure ModuleImage where
  code : List Parcel
  kernels : List KernelDecl
  stops : List StopEntry
  data : List Word
deriving DecidableEq, Repr

/-- What a far access does at its home (R193, R194). -/
inductive FarOp where
  | load (size : Nat)
  | store (data : List Byte)
  | atom (atomx : Bool) (op : Nat) (w64 : Bool) (operand : List Byte)
deriving DecidableEq, Repr

/-- An access that arrives from another device of the domain: the device it is for (R475), context there, address, operation
(R189). -/
structure FarIn where
  dev : Nat
  ctx : Nat
  va : Nat
  op : FarOp
deriving DecidableEq, Repr

/-- A context image that another device sends (R429): the device it is for, its handle and rood count, its bytes, the hash that
the source's Notary keeps, and the number by which this model names the KI that comes with it. -/
structure SentImage where
  dev : Nat
  handle : Nat
  roods : Nat
  bytes : List Byte
  hash : List Byte
  ki : Nat
deriving DecidableEq, Repr

/-- What reaches this device over a fabric port, or its own home: a far access of one of its own threads, one of another
device, or an image. -/
inductive FarSource where
  | own (id : Nat)
  | other (x : FarIn)
  | image (x : SentImage)
deriving DecidableEq, Repr

/-- What another device's home answers (R193): bytes, an acknowledgement with no bytes, or a violation. -/
inductive FarAnswer where
  | value (data : List Byte)
  | violation
  /-- The reply came marked poisoned (R440). -/
  | poisoned
deriving DecidableEq, Repr

/-- An ingress ring descriptor (R390). -/
structure RingDesc where
  base : Nat
  index : Nat
  slog : Nat
  zlog : Nat
  ports : Nat
  etherType : Nat
  vlan : Nat
  matchVlan : Bool
  mac : Nat
  reservedZero : Bool
deriving DecidableEq, Repr

/-- STREAM_SET operands (R455). -/
structure StreamOps where
  base : Nat
  off : Nat
  rlog : Nat
  k : Nat
  mask : Nat
  index : Nat
  vd : Nat
deriving DecidableEq, Repr

/-- TRACE_SET operands (R452). -/
structure TraceOps where
  handle : Nat
  off : Nat
  rlog : Nat
  kinds : Nat
  index : Nat
  clusters : Nat
deriving DecidableEq, Repr

/-- A host access over CXL.mem (R474). -/
structure CxlAccess where
  ctx : Nat
  va : Nat
  inRun : Bool
  write : Option (List Byte)
  size : Nat
deriving DecidableEq, Repr

/-- One reading of the monitors of a rood or stack (R450): temperature in 1/16 degree, supply in microvolts. -/
structure MonitorReading where
  isStack : Bool
  n : Nat
  temp : Nat
  supply : Nat
  lowCycles : Nat
  process : Nat
deriving DecidableEq, Repr

/-- The structures whose errors are counted, in the order of R443. -/
inductive Structure where
  | registers | sram | tiles | l2 | btier | hbm | mesh | fabric
deriving DecidableEq, Repr

/-- Which reader meets an uncorrectable error, and where (R350); `st` is the structure that held the value. -/
inductive ErrSite where
  /-- A register of a thread in its seat. -/
  | register (k : SeatKey) (v : BitVec 6)
  /-- A word of its workgroup's scratch. -/
  | scratchWord (k : SeatKey) (off : Nat)
  /-- A word of the entry at the head of a stage ring. -/
  | ringWord (k : SeatKey) (ring word : Nat)
  /-- A word of the i-th pending result: an L1 sector, a slice line, memory or a reply. -/
  | pending (k : SeatKey) (i word : Nat) (st : Structure)
  /-- Its predicates, or a subgroup descriptor. -/
  | predicates (k : SeatKey)
  | descriptor (k : SeatKey) (i : Fin 8)
  /-- The status word of its gang, as just read into a register. -/
  | gangStatus (k : SeatKey) (v : BitVec 6)
  /-- A word of a record in the record buffer: a saved register, or from 64 on the word with the predicates. -/
  | recordWord (rec_ word : Nat)
  /-- A 16-byte granule of a copy job; the word of the structure that held it, as R445 counts. -/
  | copyGranule (cmd granule : Nat) (st : Structure) (place : Nat)
  | matrix (cmd : Nat) (st : Structure) (place : Nat)
  | recon (wg x y : Nat) (st : Structure) (place : Nat)
  /-- A dirty L1 sector that is to be written back. -/
  | dirtySector (cluster side asid addr : Nat)
  /-- A 32-byte unit of a dirty slice line (R441). -/
  | dirtyLine (slice unit : Nat)
  /-- The tag of a slice line (R439). -/
  | lineTag (slice line : Nat)
deriving DecidableEq, Repr

/-- A link whose flits carry a CRC (R440). -/
structure Link where
  mesh : Nat
  x : Nat
  y : Nat
  port : Nat
deriving DecidableEq, Repr

/-- A unit that can be retired (R445). -/
inductive RetireUnit where
  | cluster (c : Nat) | slice (s : Nat) | channel (g c : Nat)
deriving DecidableEq, Repr

/-- What a fabric port learns of its peer in the LINKS stage (R475). -/
structure PortPeer where
  port : Nat
  dom : Nat
  dev : Nat
  reach : List (Nat × Nat)
  /-- The tick the peer has latched last (R453). -/
  tick : Nat
deriving DecidableEq, Repr

/-- A frame on an Ethernet port (R391). -/
structure EthFrame where
  port : Nat
  bytes : List Byte
  goodFcs : Bool
  stampSkew : Nat
deriving DecidableEq, Repr

/-- A frame that goes out, and its Ethernet port (R476). -/
structure PortFrame where
  port : Nat
  bytes : List Byte
deriving DecidableEq, Repr

/-- A message of the IEEE 1588 clock: the Ethernet port it comes to, and whether it is a Sync (R476). -/
structure PtpMsg where
  port : Nat
  sync : Bool
deriving DecidableEq, Repr

/-- TDISP requests that move a device interface (R398). -/
inductive TdispMsg where
  | lock | start | stop | error
deriving DecidableEq, Repr

/-- One constructor for each row of spec/opcode_table.json. -/
inductive Instr where
  | movC (x : CompactReg)
  | movi (x : CompactImm)
  | iaddC (x : CompactReg)
  | iaddiC (x : CompactImm)
  | isubC (x : CompactReg)
  | imulC (x : CompactReg)
  | andC (x : CompactReg)
  | orC (x : CompactReg)
  | xorC (x : CompactReg)
  | shlC (x : CompactReg)
  | shrC (x : CompactReg)
  | sarC (x : CompactReg)
  | faddC (x : CompactReg)
  | fmulC (x : CompactReg)
  | fminC (x : CompactReg)
  | fmaxC (x : CompactReg)
  | iadd (x : VOps)
  | isub (x : VOps)
  | imad (x : VOps)
  | imulLo (x : VF3)
  | imulHis (x : VF3)
  | imulHiz (x : VF3)
  | imulWds (x : R3)
  | imulWdz (x : R3)
  | mins (x : VF3)
  | maxs (x : VF3)
  | minz (x : VF3)
  | maxz (x : VF3)
  | iabs (x : VF2)
  | ineg (x : VF2)
  | sadds (x : VF3)
  | saddz (x : VF3)
  | divs (x : VF3)
  | divz (x : VF3)
  | rems (x : VF3)
  | remz (x : VF3)
  | logAnd (x : VF3)
  | logOr (x : VF3)
  | logXor (x : VF3)
  | logAndn (x : VF3)
  | logOrn (x : VF3)
  | logXnor (x : VF3)
  | logNot (x : VF2)
  | shl (x : VF3)
  | shr (x : VF3)
  | sar (x : VF3)
  | rol (x : VF3)
  | fshl (x : VF3)
  | fshr (x : VF3)
  | shlI (x : ShiftI)
  | shrI (x : ShiftI)
  | sarI (x : ShiftI)
  | rolI (x : ShiftI)
  | bfxs (x : R3)
  | bfxz (x : R3)
  | bfi (x : R3)
  | popc (x : VF2)
  | clz (x : VF2)
  | ctz (x : VF2)
  | brev (x : VF2)
  | bperm (x : R3)
  | dot4ss (x : R3)
  | dot4zz (x : R3)
  | dot4sz (x : R3)
  | dot2s (x : R3)
  | dot2z (x : R3)
  | iaddi (x : AddI)
  | movl (x : MovW)
  | movh (x : MovW)
  | icmp (x : ICmp)
  | sel (x : Sel)
  | pand (x : PLog)
  | por (x : PLog)
  | pxor (x : PLog)
  | pnot (x : PNot)
  | p2v (x : R1)
  | v2p (x : V2P)
  | lea (x : Lea)
  | sread (x : SRead)
  | mov (x : Mov)
  | fadd (x : FArith)
  | fsub (x : FArith)
  | fmul (x : FArith)
  | ffma (x : FArith)
  | fnma (x : FArith)
  | fmin (x : VF3)
  | fmax (x : VF3)
  | fminNan (x : VF3)
  | fmaxNan (x : VF3)
  | fabs (x : VF2)
  | fneg (x : VF2)
  | fcsgn (x : VF3)
  | fclass (x : VF2)
  | fcmp (x : FCmp)
  | frcp (x : VF2)
  | frsq (x : VF2)
  | fsqrt (x : VF2)
  | fexp2 (x : R2)
  | flog2 (x : R2)
  | fsin (x : R2)
  | fcos (x : R2)
  | ftanh (x : R2)
  | fldexp (x : VF3)
  | frndRn (x : VF2)
  | frndRz (x : VF2)
  | frndRd (x : VF2)
  | frndRu (x : VF2)
  | fexpof (x : VF2)
  | ffract (x : VF2)
  | hadd (x : H3)
  | hsub (x : H3)
  | hmul (x : H3)
  | hfma (x : H3)
  | hmin (x : H3)
  | hmax (x : H3)
  | hcmp (x : H3)
  | habs (x : H2)
  | hneg (x : H2)
  | cvtDirect (x : Cvt)
  | cvtTo (x : CvtSlot)
  | cvtFrom (x : CvtSlot)
  | bfpq (x : Bfp)
  | bfpdq (x : Bfp)
  | bra (x : Bra)
  | jmp (x : R1)
  | call (x : Call)
  | ret (x : R1)
  | reform (x : M0)
  | awaitBar (x : AwaitBar)
  | awaitRing (x : AwaitQ)
  | awaitFar (x : M0)
  | awaitGd (x : AwaitGd)
  | awaitIng (x : R1)
  | awaitTmr (x : AwaitQ)
  | exit (x : M0)
  | abort (x : R1)
  | part (x : Part)
  | voteAny (x : Vote)
  | voteAll (x : Vote)
  | voteBallot (x : Vote)
  | voteUeq (x : Vote)
  | shflIdx (x : Shfl)
  | shflUp (x : Shfl)
  | shflDown (x : Shfl)
  | shflXor (x : Shfl)
  | gredIadd (x : Gred)
  | gredMins (x : Gred)
  | gredMaxs (x : Gred)
  | gredAnd (x : Gred)
  | gredOr (x : Gred)
  | gredXor (x : Gred)
  | gredFadd (x : Gred)
  | gredFmax (x : Gred)
  | gscanIadd (x : Gscan)
  | gscanMins (x : Gscan)
  | gscanMaxs (x : Gscan)
  | gscanAnd (x : Gscan)
  | gscanOr (x : Gscan)
  | gscanXor (x : Gscan)
  | gscanFadd (x : Gscan)
  | gscanFmax (x : Gscan)
  | nop (x : M0)
  | trap (x : Trap)
  | brk (x : M0)
  | gdarm (x : GdArm)
  | gdset (x : GdSet)
  | ld (x : Mem1)
  | st (x : Mem1)
  | ldk (x : Mem2)
  | stk (x : Mem2)
  | atomAdd (x : Atom)
  | atomSub (x : Atom)
  | atomMins (x : Atom)
  | atomMaxs (x : Atom)
  | atomMinz (x : Atom)
  | atomMaxz (x : Atom)
  | atomAnd (x : Atom)
  | atomOr (x : Atom)
  | atomxCas (x : Atom)
  | atomxXchg (x : Atom)
  | atomxIncw (x : Atom)
  | atomxDecw (x : Atom)
  | atomxFadd (x : Atom)
  | atomxFmin (x : Atom)
  | atomxFmax (x : Atom)
  | atomxXor (x : Atom)
  | acq (x : R1)
  | rel (x : R1)
  | acqrel (x : R1)
  | fence (x : Fence)
  | cinv (x : Range)
  | cwb (x : Range)
  | pf (x : R1)
  | barInit (x : BarOp)
  | barArr (x : BarOp)
  | barWait (x : BarOp)
  | barExp (x : BarExp)
  | barInval (x : BarInval)
  | rinit (x : RInit)
  | rpush (x : RingOp)
  | rpop (x : RingOp)
  | rpeek (x : RPeek)
  | cpyG2s (x : Cpy)
  | cpyS2g (x : Cpy)
  | cpyG2b (x : Cpy)
  | cpyS2b (x : Cpy)
  | cpyChain (x : Cpy)
  | cpyWin (x : Cpy)
  | cpyFill (x : Cpy)
  | cpyScrub (x : Cpy)
  | cpyxG2s (x : Cpy)
  | cpyxG2b (x : Cpy)
  | cpyxS2b (x : Cpy)
  | cpyxChain (x : Cpy)
  | mxmma (x : MxMma)
  | mxz (x : Mxz)
  | mxld (x : MxLS)
  | mxst (x : MxLS)
  | mxstat (x : MxStat)
  | tsbind (x : TsBind)
  | tsrel (x : M0)
  | tsq (x : R1)
  | lnch (x : Lnch)
  | post (x : R1)
  | postOr (x : R1)
  | postMaxz (x : R1)
  | wkpt (x : R1)
  | rcmark (x : M0)
  | assay (x : R1)
  | illegalEncoding (w : BitVec 32)
  | logReplay (k : SlotKey)
  | gangDraw (k : SlotKey)
  | recordDrain (k : CoreKey)
  | blockCreate (wg : Nat)
  | seatReclaim (k : CoreKey)
  | pendingResultWrite (k : SeatKey) (i : Nat)
  | overrun (k : SeatKey)
  | barrierTimeout (rid : Nat)
  | gatherTimeout (k : SeatKey)
  | trapUnresolved (ctx : Nat)
  | poolDeadlock (ctx : Nat)
  | timerWake (rid : Nat)
  | farRequest (src : FarSource)
  | farReply (id : Nat) (remote : FarAnswer)
  | farAcknowledgement (id : Nat) (remote : FarAnswer)
  | homeSliceRequest (id : Nat)
  | atomicPerform (id : Nat)
  | peerRequest (id : Nat)
  | lineFill (id : Nat)
  | tableWalkComplete (cluster asid page : Nat)
  | pageRequest (ctx : Nat)
  | copyJobStart (wg q : Nat)
  | copyPieceLand (cmd : Nat)
  | chainReservation (cmd : Nat)
  | mxaCommandStart (wg half : Nat)
  | mxaCommandComplete (cmd : Nat)
  | probeTokenSend (wg : Nat) (q : QueueRef)
  | probeTokenReceive (wg : Nat) (i : Nat)
  | workgroupPlace (launch : Nat)
  | workgroupStart (wg : Nat)
  | workgroupEnd (wg : Nat)
  | workgroupMove (wg dest : Nat)
  | moveComplete (wg : Nat)
  | reconPointWrite (wg x y : Nat)
  | sampleCompare (wg i : Nat)
  | updateInstant (launch : Nat)
  | launchEnd (launch : Nat)
  | hostRingEntry (ctx q : Nat)
  | coalescingTimeout (ctx q : Nat)
  | graphSuccessor (ctx q : Nat)
  | packetIntake (ctx q : Nat)
  | submitDoorbell (ctx q : Nat) (value : Word)
  | hostRingDoorbell (ctx q : Nat) (value : Word)
  | graphStart (ctx q : Nat) (node : Word)
  | qcbStore (ctx q off : Nat) (b : Byte)
  | registerWrite (fn off : Nat) (value : Word)
  | roodMode (h : CmdHead) (rood : Nat) (split : Bool)
  | vdCreate (h : CmdHead) (shape : VdShape) (engines : List Nat)
  | vdDestroy (h : CmdHead) (vd : Nat)
  | copyAssign (h : CmdHead) (vd : Nat) (engines : List Nat)
  | tenantCreate (h : CmdHead) (publicKey : List Byte)
  | charterInstall (h : CmdHead) (bytes : List Byte)
  | tenantTeardown (h : CmdHead)
  | ctxCreate (h : CmdHead) (vd prHandle prOffset prLog : Nat)
  | ctxDestroy (h : CmdHead)
  | queueBind (h : CmdHead) (qcb : Nat)
  | queueUnbind (h : CmdHead) (q : Nat)
  | queueReload (h : CmdHead) (q : Nat)
  | unfreeze (h : CmdHead) (m : Master)
  | kill (h : CmdHead)
  | frameGrant (h : CmdHead) (k : Nat) (src : FrameSource)
  | frameRevoke (h : CmdHead) (handle : Nat)
  | cmdMap (h : CmdHead) (handle off count : Nat)
  | unmap (h : CmdHead) (handle off first count : Nat)
  | violate (h : CmdHead) (va : Nat)
  | migrateOut (h : CmdHead) (va : Nat)
  | preempt (h : CmdHead) (dest : Option Nat)
  | resume (h : CmdHead) (image : Nat)
  | evict (h : CmdHead)
  | imagePlace (h : CmdHead) (vd cls : Nat) (image : Option Nat) (loc addr : Nat)
  | moduleLoad (h : CmdHead) (spf : List Byte)
  | moduleUnload (h : CmdHead) (handle : Nat)
  | ringSet (h : CmdHead) (n : Nat) (desc : RingDesc)
  | ringClear (h : CmdHead) (n : Nat)
  | attach (h : CmdHead) (breakpoints : List Nat)
  | detach (h : CmdHead)
  | release (h : CmdHead) (rid : Nat)
  | stepCmd (h : CmdHead) (rid : Nat)
  | discard (h : CmdHead) (rid : Nat)
  | powerSet (h : CmdHead) (vd g w : Nat)
  | streamSet (h : CmdHead) (o : StreamOps)
  | streamClear (h : CmdHead) (handle : Nat)
  | traceSet (h : CmdHead) (o : TraceOps)
  | sampleSet (h : CmdHead) (n : Nat)
  | dump (h : CmdHead) (handle off len : Nat) (word : Word)
  | record (h : CmdHead) (handle off len q : Nat)
  | replay (h : CmdHead) (handle off q : Nat)
  | coeffRead (h : CmdHead) (target off : Nat)
  | countRead (h : CmdHead) (target : Nat)
  | accountRead (h : CmdHead) (handle off account : Nat)
  | deferredChangeApply (ctx : Nat)
  | migrationCopyComplete (ctx va : Nat)
  | migrationPinExpiry (ctx va : Nat)
  | cxlMemAccess (x : CxlAccess)
  | quarantineScrubComplete (frame : Nat)
  | contextStopComplete (ctx : Nat)
  | imageClose (ctx : Nat)
  | spanStart (readings : List Nat)
  | allowanceExhausted (vd : Nat)
  | monitorRead (r : MonitorReading)
  | inputUndervoltage (millivolts microseconds : Nat)
  | uncorrectableError (site : ErrSite)
  | correctableError (rood : Nat) (st : Structure) (sub : Nat)
  | patrolScrub (rood : Nat) (st : Structure) (sub corrected : Nat)
  | flitCrcFailure (link : Link) (msg : Option Nat)
  | linkRetrainComplete (link : Link)
  | retirement (us : List RetireUnit)
  | countCommit
  | baseTick
  | tickReceive (n : Nat)
  | sampleTick (ctx : Nat)
  | replayDivergence (ctx : Nat) (reason ordinal : Nat)
  | coldReset
  | warmReset
  | bootStageComplete (err : Nat) (peers : List PortPeer)
  | functionLevelReset (fn : Option Nat)
  | domainWordWrite (w : Word)
  | frameReceive (f : EthFrame)
  | hostTransmit (f : PortFrame)
  | ptpMessage (m : PtpMsg) (offset : Int)
  | ptpLock
  | ptpSyncTimeout
  | spdmVersion (vd : Nat)
  | spdmCapabilities (vd : Nat)
  | spdmAlgorithms (vd : Nat)
  | spdmCertificate (vd : Nat)
  | spdmChallenge (vd : Nat) (nonce : List Byte)
  | spdmMeasurements (vd : Nat) (nonce : List Byte)
  | spdmKeyExchange (vd : Nat) (share : List Byte)
  | spdmFinish (vd : Nat) (proof : List Byte)
  | tdispMessage (vd : Nat) (m : TdispMsg)
  | moduleTranslationComplete (handle : Nat) (linked native : ModuleImage)
  | routeLost (dev : Nat)
  | windowAccess (id : Nat)
  | sliceMissFill (id : Nat)
  | writeBackAcknowledgement (id : Nat)
deriving DecidableEq, Repr

end Sys2Proof
end

