-- ==== Sys2Proof/WellFormed.lean ====
section
/-! DEFINITION. Which operands an instruction word may hold (R24, R83 to R89 and each instruction's own description). -/
namespace Sys2Proof

/-- Why a word is no instruction (R74, R89). -/
inductive DecodeError where
  /-- the parcel lies outside the module's code (R74) -/
  | outsideCode
  /-- OP6 31, 44, 61, 62 or 63 (R89) -/
  | reservedMajor
  /-- a function, condition or kind code that the major does not assign (R89) -/
  | reservedFunction
  /-- SP3 4 to 7 (R86) -/
  | reservedSpace
  /-- a width that is not allowed, a misaligned group, or a disallowed source class (R24, R84, R85) -/
  | misaligned
  /-- an access code the major does not accept (R183) -/
  | badFunction
  /-- Pg3 = 0 with N = 1 (R87) -/
  | branchPredicate
  /-- a group or slot number of 0 (R154) -/
  | zeroSlot
  /-- sense 1 with gd4 = 0 (R207) -/
  | badGuard
  /-- a destination names k0 to k15 (R29) or a file the instruction lacks -/
  | uniformDestination
  /-- a special register that R45 does not list, or x2 of a 32-bit one -/
  | badSpecial
  /-- an unused or reserved field is non-zero (R83) -/
  | unusedField
  /-- a step of the device: no word encodes it -/
  | noEncoding
deriving DecidableEq, Repr

/-- A register number aligned to its group (R24). -/
def aligned (r : BitVec 6) (w : Width) : Bool := r.toNat % w.regs == 0

def even (r : BitVec 6) : Bool := aligned r .x2

/-- Widths x1 and x2 only. -/
def narrow (w : Width) : Bool := w == .x1 || w == .x2

/-- A second source at a width: aligned register; even uniform at x2; immediates at x1 and x2 (R85, R126). -/
def BSrc.legal (b : BSrc) (w : Width) : Bool :=
  match b with
  | .reg r => aligned r w
  | .unif k => narrow w ∧ (w = .x2 → k.toNat % 2 = 0)
  | .imm _ => narrow w

/-- The first operand rule that fails makes the word illegal (R84). -/
def firstOf (l : List Bool) : Option DecodeError :=
  if l.all id then none else some .misaligned

/-- gd0 names no slot, so it takes sense 0 (R207). -/
def checkGuard (sense : Bool) (gd : BitVec 4) : Option DecodeError :=
  if sense ∧ gd = 0 then some .badGuard else none

def checkICmp (x : ICmp) : Option DecodeError :=
  match x.c with
  | .lt | .le | .gt | .ge => firstOf [narrow x.w, aligned x.a x.w, x.b.legal x.w]
  | _ => if x.signed then some .reservedFunction else firstOf [narrow x.w, aligned x.a x.w, x.b.legal x.w]

/-- The special registers of R45; 32 and 33 are 64 bits wide. -/
def specialExists (n : Nat) : Bool := (n ≤ 26 ∧ n ≠ 12) ∨ n = 32 ∨ n = 33

def checkSRead (x : SRead) : Option DecodeError :=
  if ¬ specialExists x.n.toNat then some .badSpecial
  else if x.x2 ∧ x.n.toNat < 32 then some .badSpecial
  else firstOf [¬ x.x2 ∨ even x.d]

def checkMov (x : Mov) : Option DecodeError :=
  if x.toK then
    if x.d.toNat < 16 ∨ 31 < x.d.toNat then some .uniformDestination
    else firstOf [x.wa = x.wd, narrow x.wd, aligned x.d x.wd, x.b.legal x.wa]
  else firstOf [x.wa = x.wd, aligned x.d x.wd, x.b.legal x.wa]

/-- Destination and source widths of the direct conversions (R147). -/
def cvtWidths (k : Nat) : Option (Width × Width) :=
  match k with
  | 0 => some (.x1, .x2) | 1 => some (.x2, .x1) | 2 => some (.x1, .x1) | 3 => some (.x1, .x1)
  | 4 => some (.x1, .x1) | 5 => some (.x1, .x1) | 6 => some (.x2, .x2) | 7 => some (.x2, .x2)
  | 8 => some (.x2, .x2) | 9 => some (.x2, .x2) | 10 => some (.x1, .x2) | 11 => some (.x2, .x1)
  | 12 => some (.x2, .x1) | 13 => some (.x1, .x2) | _ => none

def checkCvt (x : Cvt) : Option DecodeError :=
  match cvtWidths x.k.toNat with
  | none => some .reservedFunction
  | some (wd, wa) =>
    firstOf [x.w = (if wd = .x2 ∨ wa = .x2 then .x2 else .x1), aligned x.d wd, aligned x.a wa]

/-- Stores take SZ3 0, 2 and 4 to 7 (R183). -/
def storeAccess (k : Access) : Bool := k ≠ .s8 ∧ k ≠ .s16

/-- Global and far addresses come from an even pair (R86). -/
def checkMem (c : Space) (a : BitVec 6) (k : Access) (t : BitVec 6) : Option DecodeError :=
  firstOf [c = .scr ∨ c = .win ∨ even a, aligned t k.width]

/-- Operand group and destination of an atomic (R184). -/
def checkAtom (x : Atom) (cas : Bool) : Option DecodeError :=
  if ¬ x.ret ∧ x.d ≠ 0 then some .unusedField
  else firstOf [¬ (cas ∧ x.x2) ∨ x.n.toNat % 2 = 0, ¬ x.x2 ∨ even x.d]

/-- The first reason why no word encodes an instruction with these operands. -/
def Instr.check : Instr → Option DecodeError
  | .movC _ => none
  | .movi _ => none
  | .iaddC _ => none
  | .iaddiC _ => none
  | .isubC _ => none
  | .imulC _ => none
  | .andC _ => none
  | .orC _ => none
  | .xorC _ => none
  | .shlC _ => none
  | .shrC _ => none
  | .sarC _ => none
  | .faddC _ => none
  | .fmulC _ => none
  | .fminC _ => none
  | .fmaxC _ => none
  | .iadd x => firstOf [x.wa = x.wd ∧ narrow x.wd, aligned x.a x.wa ∧ aligned x.d x.wd, x.b.legal x.wa]
  | .isub x => firstOf [x.wa = x.wd ∧ narrow x.wd, aligned x.a x.wa ∧ aligned x.d x.wd, x.b.legal x.wa]
  | .imad x => firstOf [x.wa = x.wd ∧ narrow x.wd, aligned x.a x.wa ∧ aligned x.d x.wd, x.b.legal x.wa]
  | .imulLo x => firstOf [narrow x.w, aligned x.a x.w ∧ aligned x.b x.w ∧ aligned x.d x.w]
  | .imulHis x => firstOf [narrow x.w, aligned x.a x.w ∧ aligned x.b x.w ∧ aligned x.d x.w]
  | .imulHiz x => firstOf [narrow x.w, aligned x.a x.w ∧ aligned x.b x.w ∧ aligned x.d x.w]
  | .imulWds x => firstOf [even x.d]
  | .imulWdz x => firstOf [even x.d]
  | .mins x => firstOf [narrow x.w, aligned x.a x.w ∧ aligned x.b x.w ∧ aligned x.d x.w]
  | .maxs x => firstOf [narrow x.w, aligned x.a x.w ∧ aligned x.b x.w ∧ aligned x.d x.w]
  | .minz x => firstOf [narrow x.w, aligned x.a x.w ∧ aligned x.b x.w ∧ aligned x.d x.w]
  | .maxz x => firstOf [narrow x.w, aligned x.a x.w ∧ aligned x.b x.w ∧ aligned x.d x.w]
  | .iabs x => firstOf [narrow x.w, aligned x.a x.w ∧ aligned x.d x.w]
  | .ineg x => firstOf [narrow x.w, aligned x.a x.w ∧ aligned x.d x.w]
  | .sadds x => firstOf [narrow x.w, aligned x.a x.w ∧ aligned x.b x.w ∧ aligned x.d x.w]
  | .saddz x => firstOf [narrow x.w, aligned x.a x.w ∧ aligned x.b x.w ∧ aligned x.d x.w]
  | .divs x => firstOf [narrow x.w, aligned x.a x.w ∧ aligned x.b x.w ∧ aligned x.d x.w]
  | .divz x => firstOf [narrow x.w, aligned x.a x.w ∧ aligned x.b x.w ∧ aligned x.d x.w]
  | .rems x => firstOf [narrow x.w, aligned x.a x.w ∧ aligned x.b x.w ∧ aligned x.d x.w]
  | .remz x => firstOf [narrow x.w, aligned x.a x.w ∧ aligned x.b x.w ∧ aligned x.d x.w]
  | .logAnd x => firstOf [aligned x.a x.w ∧ aligned x.b x.w ∧ aligned x.d x.w]
  | .logOr x => firstOf [aligned x.a x.w ∧ aligned x.b x.w ∧ aligned x.d x.w]
  | .logXor x => firstOf [aligned x.a x.w ∧ aligned x.b x.w ∧ aligned x.d x.w]
  | .logAndn x => firstOf [aligned x.a x.w ∧ aligned x.b x.w ∧ aligned x.d x.w]
  | .logOrn x => firstOf [aligned x.a x.w ∧ aligned x.b x.w ∧ aligned x.d x.w]
  | .logXnor x => firstOf [aligned x.a x.w ∧ aligned x.b x.w ∧ aligned x.d x.w]
  | .logNot x => firstOf [aligned x.a x.w ∧ aligned x.d x.w]
  | .shl x => firstOf [narrow x.w, aligned x.a x.w ∧ aligned x.b x.w ∧ aligned x.d x.w]
  | .shr x => firstOf [narrow x.w, aligned x.a x.w ∧ aligned x.b x.w ∧ aligned x.d x.w]
  | .sar x => firstOf [narrow x.w, aligned x.a x.w ∧ aligned x.b x.w ∧ aligned x.d x.w]
  | .rol x => firstOf [narrow x.w, aligned x.a x.w ∧ aligned x.b x.w ∧ aligned x.d x.w]
  | .fshl x => firstOf [narrow x.w, aligned x.a x.w ∧ aligned x.b x.w ∧ aligned x.d x.w]
  | .fshr x => firstOf [narrow x.w, aligned x.a x.w ∧ aligned x.b x.w ∧ aligned x.d x.w]
  | .shlI x => firstOf [¬ x.x2 ∨ (even x.a ∧ even x.d)]
  | .shrI x => firstOf [¬ x.x2 ∨ (even x.a ∧ even x.d)]
  | .sarI x => firstOf [¬ x.x2 ∨ (even x.a ∧ even x.d)]
  | .rolI x => firstOf [¬ x.x2 ∨ (even x.a ∧ even x.d)]
  | .bfxs _ => none
  | .bfxz _ => none
  | .bfi _ => none
  | .popc x => firstOf [narrow x.w, aligned x.a x.w ∧ aligned x.d x.w]
  | .clz x => firstOf [narrow x.w, aligned x.a x.w ∧ aligned x.d x.w]
  | .ctz x => firstOf [narrow x.w, aligned x.a x.w ∧ aligned x.d x.w]
  | .brev x => firstOf [narrow x.w, aligned x.a x.w ∧ aligned x.d x.w]
  | .bperm _ => none
  | .dot4ss _ => none
  | .dot4zz _ => none
  | .dot4sz _ => none
  | .dot2s _ => none
  | .dot2z _ => none
  | .iaddi _ => none
  | .movl _ => none
  | .movh _ => none
  | .icmp x => checkICmp x
  | .sel x => firstOf [aligned x.a x.w ∧ aligned x.b x.w ∧ aligned x.d x.w]
  | .pand _ => none
  | .por _ => none
  | .pxor _ => none
  | .pnot _ => none
  | .p2v _ => none
  | .v2p _ => none
  | .lea x => firstOf [narrow x.w, aligned x.a x.w ∧ aligned x.b x.w ∧ aligned x.d x.w]
  | .sread x => checkSRead x
  | .mov x => checkMov x
  | .fadd x => firstOf [narrow x.w, aligned x.a x.w ∧ aligned x.b x.w ∧ aligned x.d x.w]
  | .fsub x => firstOf [narrow x.w, aligned x.a x.w ∧ aligned x.b x.w ∧ aligned x.d x.w]
  | .fmul x => firstOf [narrow x.w, aligned x.a x.w ∧ aligned x.b x.w ∧ aligned x.d x.w]
  | .ffma x => firstOf [narrow x.w, aligned x.a x.w ∧ aligned x.b x.w ∧ aligned x.d x.w]
  | .fnma x => firstOf [narrow x.w, aligned x.a x.w ∧ aligned x.b x.w ∧ aligned x.d x.w]
  | .fmin x => firstOf [narrow x.w, aligned x.a x.w ∧ aligned x.b x.w ∧ aligned x.d x.w]
  | .fmax x => firstOf [narrow x.w, aligned x.a x.w ∧ aligned x.b x.w ∧ aligned x.d x.w]
  | .fminNan x => firstOf [narrow x.w, aligned x.a x.w ∧ aligned x.b x.w ∧ aligned x.d x.w]
  | .fmaxNan x => firstOf [narrow x.w, aligned x.a x.w ∧ aligned x.b x.w ∧ aligned x.d x.w]
  | .fabs x => firstOf [narrow x.w, aligned x.a x.w ∧ aligned x.d x.w]
  | .fneg x => firstOf [narrow x.w, aligned x.a x.w ∧ aligned x.d x.w]
  | .fcsgn x => firstOf [narrow x.w, aligned x.a x.w ∧ aligned x.b x.w ∧ aligned x.d x.w]
  | .fclass x => firstOf [narrow x.w, aligned x.a x.w ∧ aligned x.d x.w]
  | .fcmp x => firstOf [narrow x.w, aligned x.a x.w, x.b.legal x.w]
  | .frcp x => firstOf [narrow x.w, aligned x.a x.w ∧ aligned x.d x.w]
  | .frsq x => firstOf [narrow x.w, aligned x.a x.w ∧ aligned x.d x.w]
  | .fsqrt x => firstOf [narrow x.w, aligned x.a x.w ∧ aligned x.d x.w]
  | .fexp2 _ => none
  | .flog2 _ => none
  | .fsin _ => none
  | .fcos _ => none
  | .ftanh _ => none
  | .fldexp x => firstOf [narrow x.w, aligned x.a x.w ∧ aligned x.b x.w ∧ aligned x.d x.w]
  | .frndRn x => firstOf [narrow x.w, aligned x.a x.w ∧ aligned x.d x.w]
  | .frndRz x => firstOf [narrow x.w, aligned x.a x.w ∧ aligned x.d x.w]
  | .frndRd x => firstOf [narrow x.w, aligned x.a x.w ∧ aligned x.d x.w]
  | .frndRu x => firstOf [narrow x.w, aligned x.a x.w ∧ aligned x.d x.w]
  | .fexpof x => firstOf [narrow x.w, aligned x.a x.w ∧ aligned x.d x.w]
  | .ffract x => firstOf [narrow x.w, aligned x.a x.w ∧ aligned x.d x.w]
  | .hadd x => firstOf [narrow x.w, aligned x.a x.w ∧ aligned x.b x.w ∧ aligned x.d x.w]
  | .hsub x => firstOf [narrow x.w, aligned x.a x.w ∧ aligned x.b x.w ∧ aligned x.d x.w]
  | .hmul x => firstOf [narrow x.w, aligned x.a x.w ∧ aligned x.b x.w ∧ aligned x.d x.w]
  | .hfma x => firstOf [narrow x.w, aligned x.a x.w ∧ aligned x.b x.w ∧ aligned x.d x.w]
  | .hmin x => firstOf [narrow x.w, aligned x.a x.w ∧ aligned x.b x.w ∧ aligned x.d x.w]
  | .hmax x => firstOf [narrow x.w, aligned x.a x.w ∧ aligned x.b x.w ∧ aligned x.d x.w]
  | .hcmp x => firstOf [narrow x.w, aligned x.a x.w ∧ aligned x.b x.w ∧ aligned x.d x.w]
  | .habs x => firstOf [narrow x.w, aligned x.a x.w ∧ aligned x.d x.w]
  | .hneg x => firstOf [narrow x.w, aligned x.a x.w ∧ aligned x.d x.w]
  | .cvtDirect x => checkCvt x
  | .cvtTo _ => none
  | .cvtFrom _ => none
  | .bfpq x => firstOf [even x.d]
  | .bfpdq _ => none
  | .bra x => if x.g = 0 ∧ x.n then some .branchPredicate else none
  | .jmp _ => none
  | .call _ => none
  | .ret _ => none
  | .reform _ => none
  | .awaitBar x => firstOf [¬ x.q ∨ even x.a]
  | .awaitRing _ => none
  | .awaitFar _ => none
  | .awaitGd x => if x.g = 0 then some .zeroSlot else none
  | .awaitIng _ => none
  | .awaitTmr x => firstOf [even x.a]
  | .exit _ => none
  | .abort _ => none
  | .part x => if x.n = 0 then some .zeroSlot else none
  | .voteAny _ => none
  | .voteAll _ => none
  | .voteBallot _ => none
  | .voteUeq _ => none
  | .shflIdx _ => none
  | .shflUp _ => none
  | .shflDown _ => none
  | .shflXor _ => none
  | .gredIadd x => firstOf [¬ x.x2 ∨ (even x.a ∧ even x.d)]
  | .gredMins x => firstOf [¬ x.x2 ∨ (even x.a ∧ even x.d)]
  | .gredMaxs x => firstOf [¬ x.x2 ∨ (even x.a ∧ even x.d)]
  | .gredAnd x => firstOf [¬ x.x2 ∨ (even x.a ∧ even x.d)]
  | .gredOr x => firstOf [¬ x.x2 ∨ (even x.a ∧ even x.d)]
  | .gredXor x => firstOf [¬ x.x2 ∨ (even x.a ∧ even x.d)]
  | .gredFadd x => firstOf [¬ x.x2 ∨ (even x.a ∧ even x.d)]
  | .gredFmax x => firstOf [¬ x.x2 ∨ (even x.a ∧ even x.d)]
  | .gscanIadd _ => none
  | .gscanMins _ => none
  | .gscanMaxs _ => none
  | .gscanAnd _ => none
  | .gscanOr _ => none
  | .gscanXor _ => none
  | .gscanFadd _ => none
  | .gscanFmax _ => none
  | .nop _ => none
  | .trap _ => none
  | .brk _ => none
  | .gdarm x => if x.n = 0 then some .zeroSlot else none
  | .gdset x => if x.n = 0 then some .zeroSlot else if x.i ∧ x.a ≠ 0 then some .unusedField else none
  | .ld x => checkMem x.c x.a x.k x.t
  | .st x => if storeAccess x.k then checkMem x.c x.a x.k x.t else some .badFunction
  | .ldk x => firstOf [aligned x.t x.k.width]
  | .stk x => if storeAccess x.k then firstOf [aligned x.t x.k.width] else some .badFunction
  | .atomAdd x => checkAtom x false
  | .atomSub x => checkAtom x false
  | .atomMins x => checkAtom x false
  | .atomMaxs x => checkAtom x false
  | .atomMinz x => checkAtom x false
  | .atomMaxz x => checkAtom x false
  | .atomAnd x => checkAtom x false
  | .atomOr x => checkAtom x false
  | .atomxCas x => checkAtom x true
  | .atomxXchg x => checkAtom x false
  | .atomxIncw x => checkAtom x false
  | .atomxDecw x => checkAtom x false
  | .atomxFadd x => checkAtom x false
  | .atomxFmin x => checkAtom x false
  | .atomxFmax x => checkAtom x false
  | .atomxXor x => checkAtom x false
  | .acq x => firstOf [even x.r]
  | .rel x => firstOf [even x.r]
  | .acqrel x => firstOf [even x.r]
  | .fence _ => none
  | .cinv x => firstOf [even x.a]
  | .cwb x => firstOf [even x.a]
  | .pf x => firstOf [even x.r]
  | .barInit x => firstOf [¬ x.glb ∨ even x.a]
  | .barArr x => firstOf [¬ x.glb ∨ even x.a]
  | .barWait x => firstOf [¬ x.glb ∨ even x.a]
  | .barExp x => firstOf [¬ x.glb ∨ even x.a]
  | .barInval x => firstOf [¬ x.glb ∨ even x.a]
  | .rinit _ => none
  | .rpush x => firstOf [aligned x.a .x8]
  | .rpop x => firstOf [aligned x.a .x8]
  | .rpeek x => firstOf [aligned x.a .x8]
  | .cpyG2s x => checkGuard x.sense x.gd
  | .cpyS2g x => checkGuard x.sense x.gd
  | .cpyG2b x => checkGuard x.sense x.gd
  | .cpyS2b x => checkGuard x.sense x.gd
  | .cpyChain x => checkGuard x.sense x.gd
  | .cpyWin x => checkGuard x.sense x.gd
  | .cpyFill x => checkGuard x.sense x.gd
  | .cpyScrub x => checkGuard x.sense x.gd
  | .cpyxG2s x => checkGuard x.sense x.gd
  | .cpyxG2b x => checkGuard x.sense x.gd
  | .cpyxS2b x => checkGuard x.sense x.gd
  | .cpyxChain x => checkGuard x.sense x.gd
  | .mxmma x => if even x.a then checkGuard x.sense x.gd else some .misaligned
  | .mxz x => checkGuard x.sense x.gd
  | .mxld x => if even x.a then checkGuard x.sense x.gd else some .misaligned
  | .mxst x => if even x.a then checkGuard x.sense x.gd else some .misaligned
  | .mxstat _ => none
  | .tsbind _ => none
  | .tsrel _ => none
  | .tsq _ => none
  | .lnch x => firstOf [even x.a]
  | .post x => firstOf [even x.r]
  | .postOr x => firstOf [even x.r]
  | .postMaxz x => firstOf [even x.r]
  | .wkpt x => firstOf [even x.r]
  | .rcmark _ => none
  | .assay _ => none
  | .illegalEncoding _ => some .noEncoding
  | .logReplay _ => some .noEncoding
  | .gangDraw _ => some .noEncoding
  | .recordDrain _ => some .noEncoding
  | .blockCreate _ => some .noEncoding
  | .seatReclaim _ => some .noEncoding
  | .pendingResultWrite _ _ => some .noEncoding
  | .overrun _ => some .noEncoding
  | .barrierTimeout _ => some .noEncoding
  | .gatherTimeout _ => some .noEncoding
  | .trapUnresolved _ => some .noEncoding
  | .poolDeadlock _ => some .noEncoding
  | .timerWake _ => some .noEncoding
  | .farRequest _ => some .noEncoding
  | .farReply _ _ => some .noEncoding
  | .farAcknowledgement _ _ => some .noEncoding
  | .homeSliceRequest _ => some .noEncoding
  | .atomicPerform _ => some .noEncoding
  | .peerRequest _ => some .noEncoding
  | .lineFill _ => some .noEncoding
  | .tableWalkComplete _ _ _ => some .noEncoding
  | .pageRequest _ => some .noEncoding
  | .copyJobStart _ _ => some .noEncoding
  | .copyPieceLand _ => some .noEncoding
  | .chainReservation _ => some .noEncoding
  | .mxaCommandStart _ _ => some .noEncoding
  | .mxaCommandComplete _ => some .noEncoding
  | .probeTokenSend _ _ => some .noEncoding
  | .probeTokenReceive _ _ => some .noEncoding
  | .workgroupPlace _ => some .noEncoding
  | .workgroupStart _ => some .noEncoding
  | .workgroupEnd _ => some .noEncoding
  | .workgroupMove _ _ => some .noEncoding
  | .moveComplete _ => some .noEncoding
  | .reconPointWrite _ _ _ => some .noEncoding
  | .sampleCompare _ _ => some .noEncoding
  | .updateInstant _ => some .noEncoding
  | .launchEnd _ => some .noEncoding
  | .hostRingEntry _ _ => some .noEncoding
  | .coalescingTimeout _ _ => some .noEncoding
  | .graphSuccessor _ _ => some .noEncoding
  | .packetIntake _ _ => some .noEncoding
  | .submitDoorbell _ _ _ => some .noEncoding
  | .hostRingDoorbell _ _ _ => some .noEncoding
  | .graphStart _ _ _ => some .noEncoding
  | .qcbStore _ _ _ _ => some .noEncoding
  | .registerWrite _ _ _ => some .noEncoding
  | .roodMode _ _ _ => some .noEncoding
  | .vdCreate _ _ _ => some .noEncoding
  | .vdDestroy _ _ => some .noEncoding
  | .copyAssign _ _ _ => some .noEncoding
  | .tenantCreate _ _ => some .noEncoding
  | .charterInstall _ _ => some .noEncoding
  | .tenantTeardown _ => some .noEncoding
  | .ctxCreate _ _ _ _ _ => some .noEncoding
  | .ctxDestroy _ => some .noEncoding
  | .queueBind _ _ => some .noEncoding
  | .queueUnbind _ _ => some .noEncoding
  | .queueReload _ _ => some .noEncoding
  | .unfreeze _ _ => some .noEncoding
  | .kill _ => some .noEncoding
  | .frameGrant _ _ _ => some .noEncoding
  | .frameRevoke _ _ => some .noEncoding
  | .cmdMap _ _ _ _ => some .noEncoding
  | .unmap _ _ _ _ _ => some .noEncoding
  | .violate _ _ => some .noEncoding
  | .migrateOut _ _ => some .noEncoding
  | .preempt _ _ => some .noEncoding
  | .resume _ _ => some .noEncoding
  | .evict _ => some .noEncoding
  | .imagePlace _ _ _ _ _ _ => some .noEncoding
  | .moduleLoad _ _ => some .noEncoding
  | .moduleUnload _ _ => some .noEncoding
  | .ringSet _ _ _ => some .noEncoding
  | .ringClear _ _ => some .noEncoding
  | .attach _ _ => some .noEncoding
  | .detach _ => some .noEncoding
  | .release _ _ => some .noEncoding
  | .stepCmd _ _ => some .noEncoding
  | .discard _ _ => some .noEncoding
  | .powerSet _ _ _ _ => some .noEncoding
  | .streamSet _ _ => some .noEncoding
  | .streamClear _ _ => some .noEncoding
  | .traceSet _ _ => some .noEncoding
  | .sampleSet _ _ => some .noEncoding
  | .dump _ _ _ _ _ => some .noEncoding
  | .record _ _ _ _ _ => some .noEncoding
  | .replay _ _ _ _ => some .noEncoding
  | .coeffRead _ _ _ => some .noEncoding
  | .countRead _ _ => some .noEncoding
  | .accountRead _ _ _ _ => some .noEncoding
  | .deferredChangeApply _ => some .noEncoding
  | .migrationCopyComplete _ _ => some .noEncoding
  | .migrationPinExpiry _ _ => some .noEncoding
  | .cxlMemAccess _ => some .noEncoding
  | .quarantineScrubComplete _ => some .noEncoding
  | .contextStopComplete _ => some .noEncoding
  | .imageClose _ => some .noEncoding
  | .spanStart _ => some .noEncoding
  | .allowanceExhausted _ => some .noEncoding
  | .monitorRead _ => some .noEncoding
  | .inputUndervoltage _ _ => some .noEncoding
  | .uncorrectableError _ => some .noEncoding
  | .correctableError _ _ _ => some .noEncoding
  | .patrolScrub _ _ _ _ => some .noEncoding
  | .flitCrcFailure _ _ => some .noEncoding
  | .linkRetrainComplete _ => some .noEncoding
  | .retirement _ => some .noEncoding
  | .countCommit => some .noEncoding
  | .baseTick => some .noEncoding
  | .tickReceive _ => some .noEncoding
  | .sampleTick _ => some .noEncoding
  | .replayDivergence _ _ _ => some .noEncoding
  | .coldReset => some .noEncoding
  | .warmReset => some .noEncoding
  | .bootStageComplete _ _ => some .noEncoding
  | .functionLevelReset _ => some .noEncoding
  | .domainWordWrite _ => some .noEncoding
  | .frameReceive _ => some .noEncoding
  | .hostTransmit _ => some .noEncoding
  | .ptpMessage _ _ => some .noEncoding
  | .ptpLock => some .noEncoding
  | .ptpSyncTimeout => some .noEncoding
  | .spdmVersion _ => some .noEncoding
  | .spdmCapabilities _ => some .noEncoding
  | .spdmAlgorithms _ => some .noEncoding
  | .spdmCertificate _ => some .noEncoding
  | .spdmChallenge _ _ => some .noEncoding
  | .spdmMeasurements _ _ => some .noEncoding
  | .spdmKeyExchange _ _ => some .noEncoding
  | .spdmFinish _ _ => some .noEncoding
  | .tdispMessage _ _ => some .noEncoding
  | .moduleTranslationComplete _ _ _ => some .noEncoding
  | .routeLost _ => some .noEncoding
  | .windowAccess _ => some .noEncoding
  | .sliceMissFill _ => some .noEncoding
  | .writeBackAcknowledgement _ => some .noEncoding

/-- A well-formed instruction: one that some word of the spec encodes (R89). -/
def Instr.wf (i : Instr) : Bool := i.check = none

end Sys2Proof
end

