-- ==== Sys2Proof/Decode.lean ====
section
/-! DEFINITION. The decoder of 16-bit parcels into instructions (R73 to R89) and, after it, the encoder, both written from
the same field tables (R75, R82, R105, R123, R130, R154, R155, R183, R184, R207, R208). -/
namespace Sys2Proof

/-! ### Reading the fields of a word -/

/-- P and S of a 32-bit word (R77). -/
def marks (w : BitVec 32) : Marks := { stop := w.getLsbD 2, sw := w.getLsbD 1 }

/-- The candidate instruction of a compact parcel: every op4 value is defined (R76). -/
def parse16 (w : BitVec 16) : Instr :=
  match (w.extractLsb' 1 4).toNat with
  | 0 => .movC ⟨w.extractLsb' 5 6, w.extractLsb' 11 5⟩
  | 1 => .movi ⟨w.extractLsb' 5 6, w.extractLsb' 11 5⟩
  | 2 => .iaddC ⟨w.extractLsb' 5 6, w.extractLsb' 11 5⟩
  | 3 => .iaddiC ⟨w.extractLsb' 5 6, w.extractLsb' 11 5⟩
  | 4 => .isubC ⟨w.extractLsb' 5 6, w.extractLsb' 11 5⟩
  | 5 => .imulC ⟨w.extractLsb' 5 6, w.extractLsb' 11 5⟩
  | 6 => .andC ⟨w.extractLsb' 5 6, w.extractLsb' 11 5⟩
  | 7 => .orC ⟨w.extractLsb' 5 6, w.extractLsb' 11 5⟩
  | 8 => .xorC ⟨w.extractLsb' 5 6, w.extractLsb' 11 5⟩
  | 9 => .shlC ⟨w.extractLsb' 5 6, w.extractLsb' 11 5⟩
  | 10 => .shrC ⟨w.extractLsb' 5 6, w.extractLsb' 11 5⟩
  | 11 => .sarC ⟨w.extractLsb' 5 6, w.extractLsb' 11 5⟩
  | 12 => .faddC ⟨w.extractLsb' 5 6, w.extractLsb' 11 5⟩
  | 13 => .fmulC ⟨w.extractLsb' 5 6, w.extractLsb' 11 5⟩
  | 14 => .fminC ⟨w.extractLsb' 5 6, w.extractLsb' 11 5⟩
  | 15 => .fmaxC ⟨w.extractLsb' 5 6, w.extractLsb' 11 5⟩
  | _ => .movC ⟨w.extractLsb' 5 6, w.extractLsb' 11 5⟩

/-- The candidate instruction of a 32-bit word, from OP6 and the major's function fields (R88). -/
def parse32 (w : BitVec 32) : Except DecodeError Instr :=
  match (w.extractLsb' 3 6).toNat with
  | 0 => .ok (.iadd { b := BSrc.ofCode (w.extractLsb' 25 7), wa := Width.ofCode (w.extractLsb' 23 2), a := w.extractLsb' 17 6, wd := Width.ofCode (w.extractLsb' 15 2), d := w.extractLsb' 9 6, m := marks w })
  | 1 => .ok (.isub { b := BSrc.ofCode (w.extractLsb' 25 7), wa := Width.ofCode (w.extractLsb' 23 2), a := w.extractLsb' 17 6, wd := Width.ofCode (w.extractLsb' 15 2), d := w.extractLsb' 9 6, m := marks w })
  | 2 =>
    match (w.extractLsb' 29 3).toNat with
    | 0 => .ok (.imulLo { w := Width.ofCode (w.extractLsb' 27 2), b := w.extractLsb' 21 6, a := w.extractLsb' 15 6, d := w.extractLsb' 9 6, m := marks w })
    | 1 => .ok (.imulHis { w := Width.ofCode (w.extractLsb' 27 2), b := w.extractLsb' 21 6, a := w.extractLsb' 15 6, d := w.extractLsb' 9 6, m := marks w })
    | 2 => .ok (.imulHiz { w := Width.ofCode (w.extractLsb' 27 2), b := w.extractLsb' 21 6, a := w.extractLsb' 15 6, d := w.extractLsb' 9 6, m := marks w })
    | 3 => .ok (.imulWds { b := w.extractLsb' 21 6, a := w.extractLsb' 15 6, d := w.extractLsb' 9 6, m := marks w })
    | 4 => .ok (.imulWdz { b := w.extractLsb' 21 6, a := w.extractLsb' 15 6, d := w.extractLsb' 9 6, m := marks w })
    | _ => .error .reservedFunction
  | 3 => .ok (.imad { b := BSrc.ofCode (w.extractLsb' 25 7), wa := Width.ofCode (w.extractLsb' 23 2), a := w.extractLsb' 17 6, wd := Width.ofCode (w.extractLsb' 15 2), d := w.extractLsb' 9 6, m := marks w })
  | 4 =>
    match (w.extractLsb' 29 3).toNat with
    | 0 => .ok (.mins { w := Width.ofCode (w.extractLsb' 27 2), b := w.extractLsb' 21 6, a := w.extractLsb' 15 6, d := w.extractLsb' 9 6, m := marks w })
    | 1 => .ok (.maxs { w := Width.ofCode (w.extractLsb' 27 2), b := w.extractLsb' 21 6, a := w.extractLsb' 15 6, d := w.extractLsb' 9 6, m := marks w })
    | 2 => .ok (.minz { w := Width.ofCode (w.extractLsb' 27 2), b := w.extractLsb' 21 6, a := w.extractLsb' 15 6, d := w.extractLsb' 9 6, m := marks w })
    | 3 => .ok (.maxz { w := Width.ofCode (w.extractLsb' 27 2), b := w.extractLsb' 21 6, a := w.extractLsb' 15 6, d := w.extractLsb' 9 6, m := marks w })
    | 4 => .ok (.iabs { w := Width.ofCode (w.extractLsb' 27 2), a := w.extractLsb' 15 6, d := w.extractLsb' 9 6, m := marks w })
    | 5 => .ok (.ineg { w := Width.ofCode (w.extractLsb' 27 2), a := w.extractLsb' 15 6, d := w.extractLsb' 9 6, m := marks w })
    | 6 => .ok (.sadds { w := Width.ofCode (w.extractLsb' 27 2), b := w.extractLsb' 21 6, a := w.extractLsb' 15 6, d := w.extractLsb' 9 6, m := marks w })
    | 7 => .ok (.saddz { w := Width.ofCode (w.extractLsb' 27 2), b := w.extractLsb' 21 6, a := w.extractLsb' 15 6, d := w.extractLsb' 9 6, m := marks w })
    | _ => .error .reservedFunction
  | 5 =>
    match (w.extractLsb' 29 3).toNat with
    | 0 => .ok (.divs { w := Width.ofCode (w.extractLsb' 27 2), b := w.extractLsb' 21 6, a := w.extractLsb' 15 6, d := w.extractLsb' 9 6, m := marks w })
    | 1 => .ok (.divz { w := Width.ofCode (w.extractLsb' 27 2), b := w.extractLsb' 21 6, a := w.extractLsb' 15 6, d := w.extractLsb' 9 6, m := marks w })
    | 2 => .ok (.rems { w := Width.ofCode (w.extractLsb' 27 2), b := w.extractLsb' 21 6, a := w.extractLsb' 15 6, d := w.extractLsb' 9 6, m := marks w })
    | 3 => .ok (.remz { w := Width.ofCode (w.extractLsb' 27 2), b := w.extractLsb' 21 6, a := w.extractLsb' 15 6, d := w.extractLsb' 9 6, m := marks w })
    | _ => .error .reservedFunction
  | 6 =>
    match (w.extractLsb' 29 3).toNat with
    | 0 => .ok (.logAnd { w := Width.ofCode (w.extractLsb' 27 2), b := w.extractLsb' 21 6, a := w.extractLsb' 15 6, d := w.extractLsb' 9 6, m := marks w })
    | 1 => .ok (.logOr { w := Width.ofCode (w.extractLsb' 27 2), b := w.extractLsb' 21 6, a := w.extractLsb' 15 6, d := w.extractLsb' 9 6, m := marks w })
    | 2 => .ok (.logXor { w := Width.ofCode (w.extractLsb' 27 2), b := w.extractLsb' 21 6, a := w.extractLsb' 15 6, d := w.extractLsb' 9 6, m := marks w })
    | 3 => .ok (.logAndn { w := Width.ofCode (w.extractLsb' 27 2), b := w.extractLsb' 21 6, a := w.extractLsb' 15 6, d := w.extractLsb' 9 6, m := marks w })
    | 4 => .ok (.logOrn { w := Width.ofCode (w.extractLsb' 27 2), b := w.extractLsb' 21 6, a := w.extractLsb' 15 6, d := w.extractLsb' 9 6, m := marks w })
    | 5 => .ok (.logXnor { w := Width.ofCode (w.extractLsb' 27 2), b := w.extractLsb' 21 6, a := w.extractLsb' 15 6, d := w.extractLsb' 9 6, m := marks w })
    | 6 => .ok (.logNot { w := Width.ofCode (w.extractLsb' 27 2), a := w.extractLsb' 15 6, d := w.extractLsb' 9 6, m := marks w })
    | _ => .error .reservedFunction
  | 7 =>
    match (w.extractLsb' 29 3).toNat with
    | 0 => .ok (.shl { w := Width.ofCode (w.extractLsb' 27 2), b := w.extractLsb' 21 6, a := w.extractLsb' 15 6, d := w.extractLsb' 9 6, m := marks w })
    | 1 => .ok (.shr { w := Width.ofCode (w.extractLsb' 27 2), b := w.extractLsb' 21 6, a := w.extractLsb' 15 6, d := w.extractLsb' 9 6, m := marks w })
    | 2 => .ok (.sar { w := Width.ofCode (w.extractLsb' 27 2), b := w.extractLsb' 21 6, a := w.extractLsb' 15 6, d := w.extractLsb' 9 6, m := marks w })
    | 3 => .ok (.rol { w := Width.ofCode (w.extractLsb' 27 2), b := w.extractLsb' 21 6, a := w.extractLsb' 15 6, d := w.extractLsb' 9 6, m := marks w })
    | 4 => .ok (.fshl { w := Width.ofCode (w.extractLsb' 27 2), b := w.extractLsb' 21 6, a := w.extractLsb' 15 6, d := w.extractLsb' 9 6, m := marks w })
    | 5 => .ok (.fshr { w := Width.ofCode (w.extractLsb' 27 2), b := w.extractLsb' 21 6, a := w.extractLsb' 15 6, d := w.extractLsb' 9 6, m := marks w })
    | _ => .error .reservedFunction
  | 8 =>
    match (w.extractLsb' 29 3).toNat with
    | 0 => .ok (.shlI { x2 := unbit (w.extractLsb' 28 1), n := w.extractLsb' 21 6, a := w.extractLsb' 15 6, d := w.extractLsb' 9 6, m := marks w })
    | 1 => .ok (.shrI { x2 := unbit (w.extractLsb' 28 1), n := w.extractLsb' 21 6, a := w.extractLsb' 15 6, d := w.extractLsb' 9 6, m := marks w })
    | 2 => .ok (.sarI { x2 := unbit (w.extractLsb' 28 1), n := w.extractLsb' 21 6, a := w.extractLsb' 15 6, d := w.extractLsb' 9 6, m := marks w })
    | 3 => .ok (.rolI { x2 := unbit (w.extractLsb' 28 1), n := w.extractLsb' 21 6, a := w.extractLsb' 15 6, d := w.extractLsb' 9 6, m := marks w })
    | _ => .error .reservedFunction
  | 9 =>
    match (w.extractLsb' 29 3).toNat with
    | 0 => .ok (.bfxs { b := w.extractLsb' 21 6, a := w.extractLsb' 15 6, d := w.extractLsb' 9 6, m := marks w })
    | 1 => .ok (.bfxz { b := w.extractLsb' 21 6, a := w.extractLsb' 15 6, d := w.extractLsb' 9 6, m := marks w })
    | 2 => .ok (.bfi { b := w.extractLsb' 21 6, a := w.extractLsb' 15 6, d := w.extractLsb' 9 6, m := marks w })
    | 3 => .ok (.popc { w := Width.ofCode (w.extractLsb' 27 2), a := w.extractLsb' 15 6, d := w.extractLsb' 9 6, m := marks w })
    | 4 => .ok (.clz { w := Width.ofCode (w.extractLsb' 27 2), a := w.extractLsb' 15 6, d := w.extractLsb' 9 6, m := marks w })
    | 5 => .ok (.ctz { w := Width.ofCode (w.extractLsb' 27 2), a := w.extractLsb' 15 6, d := w.extractLsb' 9 6, m := marks w })
    | 6 => .ok (.brev { w := Width.ofCode (w.extractLsb' 27 2), a := w.extractLsb' 15 6, d := w.extractLsb' 9 6, m := marks w })
    | 7 => .ok (.bperm { b := w.extractLsb' 21 6, a := w.extractLsb' 15 6, d := w.extractLsb' 9 6, m := marks w })
    | _ => .error .reservedFunction
  | 10 =>
    match (w.extractLsb' 29 3).toNat with
    | 0 => .ok (.dot4ss { b := w.extractLsb' 21 6, a := w.extractLsb' 15 6, d := w.extractLsb' 9 6, m := marks w })
    | 1 => .ok (.dot4zz { b := w.extractLsb' 21 6, a := w.extractLsb' 15 6, d := w.extractLsb' 9 6, m := marks w })
    | 2 => .ok (.dot4sz { b := w.extractLsb' 21 6, a := w.extractLsb' 15 6, d := w.extractLsb' 9 6, m := marks w })
    | 3 => .ok (.dot2s { b := w.extractLsb' 21 6, a := w.extractLsb' 15 6, d := w.extractLsb' 9 6, m := marks w })
    | 4 => .ok (.dot2z { b := w.extractLsb' 21 6, a := w.extractLsb' 15 6, d := w.extractLsb' 9 6, m := marks w })
    | _ => .error .reservedFunction
  | 11 => .ok (.iaddi { i := w.extractLsb' 21 11, a := w.extractLsb' 15 6, d := w.extractLsb' 9 6, m := marks w })
  | 12 =>
    match (w.extractLsb' 15 1).toNat with
    | 0 => .ok (.movl { i := w.extractLsb' 16 16, d := w.extractLsb' 9 6, m := marks w })
    | 1 => .ok (.movh { i := w.extractLsb' 16 16, d := w.extractLsb' 9 6, m := marks w })
    | _ => .error .reservedFunction
  | 13 => (match ICond.ofCode? (w.extractLsb' 12 4) with | some c => .ok (.icmp { signed := unbit (w.extractLsb' 31 1), w := Width.ofCode (w.extractLsb' 29 2), b := BSrc.ofCode (w.extractLsb' 22 7), a := w.extractLsb' 16 6, c := c, q := w.extractLsb' 9 3, m := marks w }) | none => .error .reservedFunction)
  | 14 => .ok (.sel { n := w.extractLsb' 29 3, w := Width.ofCode (w.extractLsb' 27 2), b := w.extractLsb' 21 6, a := w.extractLsb' 15 6, d := w.extractLsb' 9 6, m := marks w })
  | 15 =>
    match (w.extractLsb' 29 3).toNat with
    | 0 => .ok (.pand { d := w.extractLsb' 26 3, nb := unbit (w.extractLsb' 22 1), na := unbit (w.extractLsb' 21 1), b := w.extractLsb' 15 3, a := w.extractLsb' 9 3, m := marks w })
    | 1 => .ok (.por { d := w.extractLsb' 26 3, nb := unbit (w.extractLsb' 22 1), na := unbit (w.extractLsb' 21 1), b := w.extractLsb' 15 3, a := w.extractLsb' 9 3, m := marks w })
    | 2 => .ok (.pxor { d := w.extractLsb' 26 3, nb := unbit (w.extractLsb' 22 1), na := unbit (w.extractLsb' 21 1), b := w.extractLsb' 15 3, a := w.extractLsb' 9 3, m := marks w })
    | 3 => .ok (.pnot { d := w.extractLsb' 26 3, a := w.extractLsb' 9 3, m := marks w })
    | 4 => .ok (.p2v { r := w.extractLsb' 9 6, m := marks w })
    | 5 => .ok (.v2p { mask := w.extractLsb' 22 7, a := w.extractLsb' 9 6, m := marks w })
    | _ => .error .reservedFunction
  | 16 => .ok (.lea { s := w.extractLsb' 29 3, w := Width.ofCode (w.extractLsb' 27 2), b := w.extractLsb' 21 6, a := w.extractLsb' 15 6, d := w.extractLsb' 9 6, m := marks w })
  | 17 => .ok (.sread { x2 := unbit (w.extractLsb' 30 1), n := w.extractLsb' 21 6, d := w.extractLsb' 9 6, m := marks w })
  | 18 => .ok (.mov { b := BSrc.ofCode (w.extractLsb' 25 7), wa := Width.ofCode (w.extractLsb' 23 2), toK := unbit (w.extractLsb' 17 1), wd := Width.ofCode (w.extractLsb' 15 2), d := w.extractLsb' 9 6, m := marks w })
  | 19 =>
    match (w.extractLsb' 31 1).toNat with
    | 0 => .ok (.fadd { r := Rnd.ofCode (w.extractLsb' 29 2), w := Width.ofCode (w.extractLsb' 27 2), b := w.extractLsb' 21 6, a := w.extractLsb' 15 6, d := w.extractLsb' 9 6, m := marks w })
    | 1 => .ok (.fsub { r := Rnd.ofCode (w.extractLsb' 29 2), w := Width.ofCode (w.extractLsb' 27 2), b := w.extractLsb' 21 6, a := w.extractLsb' 15 6, d := w.extractLsb' 9 6, m := marks w })
    | _ => .error .reservedFunction
  | 20 => .ok (.fmul { r := Rnd.ofCode (w.extractLsb' 29 2), w := Width.ofCode (w.extractLsb' 27 2), b := w.extractLsb' 21 6, a := w.extractLsb' 15 6, d := w.extractLsb' 9 6, m := marks w })
  | 21 =>
    match (w.extractLsb' 31 1).toNat with
    | 0 => .ok (.ffma { r := Rnd.ofCode (w.extractLsb' 29 2), w := Width.ofCode (w.extractLsb' 27 2), b := w.extractLsb' 21 6, a := w.extractLsb' 15 6, d := w.extractLsb' 9 6, m := marks w })
    | 1 => .ok (.fnma { r := Rnd.ofCode (w.extractLsb' 29 2), w := Width.ofCode (w.extractLsb' 27 2), b := w.extractLsb' 21 6, a := w.extractLsb' 15 6, d := w.extractLsb' 9 6, m := marks w })
    | _ => .error .reservedFunction
  | 22 =>
    match (w.extractLsb' 29 3).toNat with
    | 0 => .ok (.fmin { w := Width.ofCode (w.extractLsb' 27 2), b := w.extractLsb' 21 6, a := w.extractLsb' 15 6, d := w.extractLsb' 9 6, m := marks w })
    | 1 => .ok (.fmax { w := Width.ofCode (w.extractLsb' 27 2), b := w.extractLsb' 21 6, a := w.extractLsb' 15 6, d := w.extractLsb' 9 6, m := marks w })
    | 2 => .ok (.fminNan { w := Width.ofCode (w.extractLsb' 27 2), b := w.extractLsb' 21 6, a := w.extractLsb' 15 6, d := w.extractLsb' 9 6, m := marks w })
    | 3 => .ok (.fmaxNan { w := Width.ofCode (w.extractLsb' 27 2), b := w.extractLsb' 21 6, a := w.extractLsb' 15 6, d := w.extractLsb' 9 6, m := marks w })
    | 4 => .ok (.fabs { w := Width.ofCode (w.extractLsb' 27 2), a := w.extractLsb' 15 6, d := w.extractLsb' 9 6, m := marks w })
    | 5 => .ok (.fneg { w := Width.ofCode (w.extractLsb' 27 2), a := w.extractLsb' 15 6, d := w.extractLsb' 9 6, m := marks w })
    | 6 => .ok (.fcsgn { w := Width.ofCode (w.extractLsb' 27 2), b := w.extractLsb' 21 6, a := w.extractLsb' 15 6, d := w.extractLsb' 9 6, m := marks w })
    | 7 => .ok (.fclass { w := Width.ofCode (w.extractLsb' 27 2), a := w.extractLsb' 15 6, d := w.extractLsb' 9 6, m := marks w })
    | _ => .error .reservedFunction
  | 23 => (match FCond.ofCode? (w.extractLsb' 12 4) with | some c => .ok (.fcmp { w := Width.ofCode (w.extractLsb' 29 2), b := BSrc.ofCode (w.extractLsb' 22 7), a := w.extractLsb' 16 6, c := c, q := w.extractLsb' 9 3, m := marks w }) | none => .error .reservedFunction)
  | 24 =>
    match (w.extractLsb' 29 3).toNat with
    | 0 => .ok (.frcp { w := Width.ofCode (w.extractLsb' 27 2), a := w.extractLsb' 15 6, d := w.extractLsb' 9 6, m := marks w })
    | 1 => .ok (.frsq { w := Width.ofCode (w.extractLsb' 27 2), a := w.extractLsb' 15 6, d := w.extractLsb' 9 6, m := marks w })
    | 2 => .ok (.fsqrt { w := Width.ofCode (w.extractLsb' 27 2), a := w.extractLsb' 15 6, d := w.extractLsb' 9 6, m := marks w })
    | 3 => .ok (.fexp2 { a := w.extractLsb' 15 6, d := w.extractLsb' 9 6, m := marks w })
    | 4 => .ok (.flog2 { a := w.extractLsb' 15 6, d := w.extractLsb' 9 6, m := marks w })
    | 5 => .ok (.fsin { a := w.extractLsb' 15 6, d := w.extractLsb' 9 6, m := marks w })
    | 6 => .ok (.fcos { a := w.extractLsb' 15 6, d := w.extractLsb' 9 6, m := marks w })
    | 7 => .ok (.ftanh { a := w.extractLsb' 15 6, d := w.extractLsb' 9 6, m := marks w })
    | _ => .error .reservedFunction
  | 25 =>
    match (w.extractLsb' 29 3).toNat with
    | 0 => .ok (.fldexp { w := Width.ofCode (w.extractLsb' 27 2), b := w.extractLsb' 21 6, a := w.extractLsb' 15 6, d := w.extractLsb' 9 6, m := marks w })
    | 1 => .ok (.frndRn { w := Width.ofCode (w.extractLsb' 27 2), a := w.extractLsb' 15 6, d := w.extractLsb' 9 6, m := marks w })
    | 2 => .ok (.frndRz { w := Width.ofCode (w.extractLsb' 27 2), a := w.extractLsb' 15 6, d := w.extractLsb' 9 6, m := marks w })
    | 3 => .ok (.frndRd { w := Width.ofCode (w.extractLsb' 27 2), a := w.extractLsb' 15 6, d := w.extractLsb' 9 6, m := marks w })
    | 4 => .ok (.frndRu { w := Width.ofCode (w.extractLsb' 27 2), a := w.extractLsb' 15 6, d := w.extractLsb' 9 6, m := marks w })
    | 5 => .ok (.fexpof { w := Width.ofCode (w.extractLsb' 27 2), a := w.extractLsb' 15 6, d := w.extractLsb' 9 6, m := marks w })
    | 6 => .ok (.ffract { w := Width.ofCode (w.extractLsb' 27 2), a := w.extractLsb' 15 6, d := w.extractLsb' 9 6, m := marks w })
    | _ => .error .reservedFunction
  | 26 =>
    match (w.extractLsb' 29 2).toNat with
    | 0 => .ok (.hadd { bf := unbit (w.extractLsb' 31 1), w := Width.ofCode (w.extractLsb' 27 2), b := w.extractLsb' 21 6, a := w.extractLsb' 15 6, d := w.extractLsb' 9 6, m := marks w })
    | 1 => .ok (.hsub { bf := unbit (w.extractLsb' 31 1), w := Width.ofCode (w.extractLsb' 27 2), b := w.extractLsb' 21 6, a := w.extractLsb' 15 6, d := w.extractLsb' 9 6, m := marks w })
    | 2 => .ok (.hmul { bf := unbit (w.extractLsb' 31 1), w := Width.ofCode (w.extractLsb' 27 2), b := w.extractLsb' 21 6, a := w.extractLsb' 15 6, d := w.extractLsb' 9 6, m := marks w })
    | 3 => .ok (.hfma { bf := unbit (w.extractLsb' 31 1), w := Width.ofCode (w.extractLsb' 27 2), b := w.extractLsb' 21 6, a := w.extractLsb' 15 6, d := w.extractLsb' 9 6, m := marks w })
    | _ => .error .reservedFunction
  | 27 =>
    match (w.extractLsb' 29 2).toNat with
    | 0 => .ok (.hmin { bf := unbit (w.extractLsb' 31 1), w := Width.ofCode (w.extractLsb' 27 2), b := w.extractLsb' 21 6, a := w.extractLsb' 15 6, d := w.extractLsb' 9 6, m := marks w })
    | 1 => .ok (.hmax { bf := unbit (w.extractLsb' 31 1), w := Width.ofCode (w.extractLsb' 27 2), b := w.extractLsb' 21 6, a := w.extractLsb' 15 6, d := w.extractLsb' 9 6, m := marks w })
    | 2 => .ok (.hcmp { bf := unbit (w.extractLsb' 31 1), w := Width.ofCode (w.extractLsb' 27 2), b := w.extractLsb' 21 6, a := w.extractLsb' 15 6, d := w.extractLsb' 9 6, m := marks w })
    | 3 => if w.extractLsb' 21 6 = 0 then .ok (.habs { bf := unbit (w.extractLsb' 31 1), w := Width.ofCode (w.extractLsb' 27 2), a := w.extractLsb' 15 6, d := w.extractLsb' 9 6, m := marks w }) else if w.extractLsb' 21 6 = 1 then .ok (.hneg { bf := unbit (w.extractLsb' 31 1), w := Width.ofCode (w.extractLsb' 27 2), a := w.extractLsb' 15 6, d := w.extractLsb' 9 6, m := marks w }) else .error .reservedFunction
    | _ => .error .reservedFunction
  | 28 =>
    match (w.extractLsb' 24 3).toNat with
    | 0 => .ok (.cvtDirect { r := Rnd.ofCode (w.extractLsb' 29 2), w := Width.ofCode (w.extractLsb' 27 2), k := w.extractLsb' 21 4, a := w.extractLsb' 15 6, d := w.extractLsb' 9 6, m := marks w })
    | 1 => .ok (.cvtDirect { r := Rnd.ofCode (w.extractLsb' 29 2), w := Width.ofCode (w.extractLsb' 27 2), k := w.extractLsb' 21 4, a := w.extractLsb' 15 6, d := w.extractLsb' 9 6, m := marks w })
    | 2 => .ok (.cvtTo { f := w.extractLsb' 29 3, e := w.extractLsb' 21 3, a := w.extractLsb' 15 6, d := w.extractLsb' 9 6, m := marks w })
    | 3 => .ok (.cvtFrom { f := w.extractLsb' 29 3, e := w.extractLsb' 21 3, a := w.extractLsb' 15 6, d := w.extractLsb' 9 6, m := marks w })
    | _ => .error .reservedFunction
  | 29 => .ok (.bfpq { f := w.extractLsb' 29 3, a := w.extractLsb' 15 6, d := w.extractLsb' 9 6, m := marks w })
  | 30 => .ok (.bfpdq { f := w.extractLsb' 29 3, a := w.extractLsb' 15 6, d := w.extractLsb' 9 6, m := marks w })
  | 32 => .ok (.bra { o := w.extractLsb' 13 19, n := unbit (w.extractLsb' 12 1), g := w.extractLsb' 9 3, m := marks w })
  | 33 =>
    match (w.extractLsb' 29 3).toNat with
    | 0 => .ok (.jmp { r := w.extractLsb' 9 6, m := marks w })
    | 1 => .ok (.call { l := w.extractLsb' 15 6, t := w.extractLsb' 9 6, m := marks w })
    | 2 => .ok (.ret { r := w.extractLsb' 9 6, m := marks w })
    | _ => .error .reservedFunction
  | 34 => .ok (.reform { m := marks w })
  | 35 =>
    match (w.extractLsb' 29 3).toNat with
    | 0 => .ok (.awaitBar { q := unbit (w.extractLsb' 28 1), b := w.extractLsb' 15 6, a := w.extractLsb' 9 6, m := marks w })
    | 1 => .ok (.awaitRing { q := unbit (w.extractLsb' 28 1), a := w.extractLsb' 9 6, m := marks w })
    | 2 => .ok (.awaitFar { m := marks w })
    | 3 => .ok (.awaitGd { g := w.extractLsb' 21 4, d := w.extractLsb' 9 6, m := marks w })
    | 4 => .ok (.awaitIng { r := w.extractLsb' 9 6, m := marks w })
    | 5 => .ok (.awaitTmr { q := unbit (w.extractLsb' 28 1), a := w.extractLsb' 9 6, m := marks w })
    | _ => .error .reservedFunction
  | 36 =>
    match (w.extractLsb' 29 3).toNat with
    | 0 => .ok (.exit { m := marks w })
    | 1 => .ok (.abort { r := w.extractLsb' 9 6, m := marks w })
    | _ => .error .reservedFunction
  | 37 => .ok (.part { s := w.extractLsb' 30 2, n := w.extractLsb' 27 3, m := marks w })
  | 38 =>
    match (w.extractLsb' 29 3).toNat with
    | 0 => .ok (.voteAny { g := w.extractLsb' 21 3, a := w.extractLsb' 15 6, d := w.extractLsb' 9 6, m := marks w })
    | 1 => .ok (.voteAll { g := w.extractLsb' 21 3, a := w.extractLsb' 15 6, d := w.extractLsb' 9 6, m := marks w })
    | 2 => .ok (.voteBallot { g := w.extractLsb' 21 3, a := w.extractLsb' 15 6, d := w.extractLsb' 9 6, m := marks w })
    | 3 => .ok (.voteUeq { g := w.extractLsb' 21 3, a := w.extractLsb' 15 6, d := w.extractLsb' 9 6, m := marks w })
    | _ => .error .reservedFunction
  | 39 =>
    match (w.extractLsb' 27 2).toNat with
    | 0 => .ok (.shflIdx { g := w.extractLsb' 29 3, b := w.extractLsb' 21 6, a := w.extractLsb' 15 6, d := w.extractLsb' 9 6, m := marks w })
    | 1 => .ok (.shflUp { g := w.extractLsb' 29 3, b := w.extractLsb' 21 6, a := w.extractLsb' 15 6, d := w.extractLsb' 9 6, m := marks w })
    | 2 => .ok (.shflDown { g := w.extractLsb' 29 3, b := w.extractLsb' 21 6, a := w.extractLsb' 15 6, d := w.extractLsb' 9 6, m := marks w })
    | 3 => .ok (.shflXor { g := w.extractLsb' 29 3, b := w.extractLsb' 21 6, a := w.extractLsb' 15 6, d := w.extractLsb' 9 6, m := marks w })
    | _ => .error .reservedFunction
  | 40 =>
    match (w.extractLsb' 29 3).toNat with
    | 0 => .ok (.gredIadd { x2 := unbit (w.extractLsb' 27 1), g := w.extractLsb' 21 3, a := w.extractLsb' 15 6, d := w.extractLsb' 9 6, m := marks w })
    | 1 => .ok (.gredMins { x2 := unbit (w.extractLsb' 27 1), g := w.extractLsb' 21 3, a := w.extractLsb' 15 6, d := w.extractLsb' 9 6, m := marks w })
    | 2 => .ok (.gredMaxs { x2 := unbit (w.extractLsb' 27 1), g := w.extractLsb' 21 3, a := w.extractLsb' 15 6, d := w.extractLsb' 9 6, m := marks w })
    | 3 => .ok (.gredAnd { x2 := unbit (w.extractLsb' 27 1), g := w.extractLsb' 21 3, a := w.extractLsb' 15 6, d := w.extractLsb' 9 6, m := marks w })
    | 4 => .ok (.gredOr { x2 := unbit (w.extractLsb' 27 1), g := w.extractLsb' 21 3, a := w.extractLsb' 15 6, d := w.extractLsb' 9 6, m := marks w })
    | 5 => .ok (.gredXor { x2 := unbit (w.extractLsb' 27 1), g := w.extractLsb' 21 3, a := w.extractLsb' 15 6, d := w.extractLsb' 9 6, m := marks w })
    | 6 => .ok (.gredFadd { x2 := unbit (w.extractLsb' 27 1), g := w.extractLsb' 21 3, a := w.extractLsb' 15 6, d := w.extractLsb' 9 6, m := marks w })
    | 7 => .ok (.gredFmax { x2 := unbit (w.extractLsb' 27 1), g := w.extractLsb' 21 3, a := w.extractLsb' 15 6, d := w.extractLsb' 9 6, m := marks w })
    | _ => .error .reservedFunction
  | 41 =>
    match (w.extractLsb' 29 3).toNat with
    | 0 => .ok (.gscanIadd { exc := unbit (w.extractLsb' 27 1), g := w.extractLsb' 21 3, a := w.extractLsb' 15 6, d := w.extractLsb' 9 6, m := marks w })
    | 1 => .ok (.gscanMins { exc := unbit (w.extractLsb' 27 1), g := w.extractLsb' 21 3, a := w.extractLsb' 15 6, d := w.extractLsb' 9 6, m := marks w })
    | 2 => .ok (.gscanMaxs { exc := unbit (w.extractLsb' 27 1), g := w.extractLsb' 21 3, a := w.extractLsb' 15 6, d := w.extractLsb' 9 6, m := marks w })
    | 3 => .ok (.gscanAnd { exc := unbit (w.extractLsb' 27 1), g := w.extractLsb' 21 3, a := w.extractLsb' 15 6, d := w.extractLsb' 9 6, m := marks w })
    | 4 => .ok (.gscanOr { exc := unbit (w.extractLsb' 27 1), g := w.extractLsb' 21 3, a := w.extractLsb' 15 6, d := w.extractLsb' 9 6, m := marks w })
    | 5 => .ok (.gscanXor { exc := unbit (w.extractLsb' 27 1), g := w.extractLsb' 21 3, a := w.extractLsb' 15 6, d := w.extractLsb' 9 6, m := marks w })
    | 6 => .ok (.gscanFadd { exc := unbit (w.extractLsb' 27 1), g := w.extractLsb' 21 3, a := w.extractLsb' 15 6, d := w.extractLsb' 9 6, m := marks w })
    | 7 => .ok (.gscanFmax { exc := unbit (w.extractLsb' 27 1), g := w.extractLsb' 21 3, a := w.extractLsb' 15 6, d := w.extractLsb' 9 6, m := marks w })
    | _ => .error .reservedFunction
  | 42 =>
    match (w.extractLsb' 29 3).toNat with
    | 0 => .ok (.nop { m := marks w })
    | 1 => .ok (.trap { c := w.extractLsb' 21 8, m := marks w })
    | 2 => .ok (.brk { m := marks w })
    | _ => .error .reservedFunction
  | 43 =>
    match (w.extractLsb' 29 3).toNat with
    | 0 => .ok (.gdarm { n := w.extractLsb' 21 4, m := marks w })
    | 1 => .ok (.gdset { i := unbit (w.extractLsb' 28 1), v := unbit (w.extractLsb' 27 1), n := w.extractLsb' 21 4, a := w.extractLsb' 9 6, m := marks w })
    | _ => .error .reservedFunction
  | 45 => if w.getLsbD 26 then .error .reservedSpace else .ok (.ld { o := w.extractLsb' 27 5, c := Space.ofCode (w.extractLsb' 24 2), a := w.extractLsb' 18 6, k := Access.ofCode (w.extractLsb' 15 3), t := w.extractLsb' 9 6, m := marks w })
  | 46 => if w.getLsbD 26 then .error .reservedSpace else .ok (.st { o := w.extractLsb' 27 5, c := Space.ofCode (w.extractLsb' 24 2), a := w.extractLsb' 18 6, k := Access.ofCode (w.extractLsb' 15 3), t := w.extractLsb' 9 6, m := marks w })
  | 47 => if w.getLsbD 30 then .error .reservedSpace else .ok (.ldk { sx := unbit (w.extractLsb' 31 1), c := Space.ofCode (w.extractLsb' 28 2), x := w.extractLsb' 22 6, n := w.extractLsb' 18 4, k := Access.ofCode (w.extractLsb' 15 3), t := w.extractLsb' 9 6, m := marks w })
  | 48 => if w.getLsbD 30 then .error .reservedSpace else .ok (.stk { sx := unbit (w.extractLsb' 31 1), c := Space.ofCode (w.extractLsb' 28 2), x := w.extractLsb' 22 6, n := w.extractLsb' 18 4, k := Access.ofCode (w.extractLsb' 15 3), t := w.extractLsb' 9 6, m := marks w })
  | 49 =>
    match (w.extractLsb' 27 3).toNat with
    | 0 => .ok (.atomAdd { r := Ord.ofCode (w.extractLsb' 30 2), n := w.extractLsb' 22 5, ret := unbit (w.extractLsb' 21 1), p := w.extractLsb' 16 5, x2 := unbit (w.extractLsb' 15 1), d := w.extractLsb' 9 6, m := marks w })
    | 1 => .ok (.atomSub { r := Ord.ofCode (w.extractLsb' 30 2), n := w.extractLsb' 22 5, ret := unbit (w.extractLsb' 21 1), p := w.extractLsb' 16 5, x2 := unbit (w.extractLsb' 15 1), d := w.extractLsb' 9 6, m := marks w })
    | 2 => .ok (.atomMins { r := Ord.ofCode (w.extractLsb' 30 2), n := w.extractLsb' 22 5, ret := unbit (w.extractLsb' 21 1), p := w.extractLsb' 16 5, x2 := unbit (w.extractLsb' 15 1), d := w.extractLsb' 9 6, m := marks w })
    | 3 => .ok (.atomMaxs { r := Ord.ofCode (w.extractLsb' 30 2), n := w.extractLsb' 22 5, ret := unbit (w.extractLsb' 21 1), p := w.extractLsb' 16 5, x2 := unbit (w.extractLsb' 15 1), d := w.extractLsb' 9 6, m := marks w })
    | 4 => .ok (.atomMinz { r := Ord.ofCode (w.extractLsb' 30 2), n := w.extractLsb' 22 5, ret := unbit (w.extractLsb' 21 1), p := w.extractLsb' 16 5, x2 := unbit (w.extractLsb' 15 1), d := w.extractLsb' 9 6, m := marks w })
    | 5 => .ok (.atomMaxz { r := Ord.ofCode (w.extractLsb' 30 2), n := w.extractLsb' 22 5, ret := unbit (w.extractLsb' 21 1), p := w.extractLsb' 16 5, x2 := unbit (w.extractLsb' 15 1), d := w.extractLsb' 9 6, m := marks w })
    | 6 => .ok (.atomAnd { r := Ord.ofCode (w.extractLsb' 30 2), n := w.extractLsb' 22 5, ret := unbit (w.extractLsb' 21 1), p := w.extractLsb' 16 5, x2 := unbit (w.extractLsb' 15 1), d := w.extractLsb' 9 6, m := marks w })
    | 7 => .ok (.atomOr { r := Ord.ofCode (w.extractLsb' 30 2), n := w.extractLsb' 22 5, ret := unbit (w.extractLsb' 21 1), p := w.extractLsb' 16 5, x2 := unbit (w.extractLsb' 15 1), d := w.extractLsb' 9 6, m := marks w })
    | _ => .error .reservedFunction
  | 50 =>
    match (w.extractLsb' 27 3).toNat with
    | 0 => .ok (.atomxCas { r := Ord.ofCode (w.extractLsb' 30 2), n := w.extractLsb' 22 5, ret := unbit (w.extractLsb' 21 1), p := w.extractLsb' 16 5, x2 := unbit (w.extractLsb' 15 1), d := w.extractLsb' 9 6, m := marks w })
    | 1 => .ok (.atomxXchg { r := Ord.ofCode (w.extractLsb' 30 2), n := w.extractLsb' 22 5, ret := unbit (w.extractLsb' 21 1), p := w.extractLsb' 16 5, x2 := unbit (w.extractLsb' 15 1), d := w.extractLsb' 9 6, m := marks w })
    | 2 => .ok (.atomxIncw { r := Ord.ofCode (w.extractLsb' 30 2), n := w.extractLsb' 22 5, ret := unbit (w.extractLsb' 21 1), p := w.extractLsb' 16 5, x2 := unbit (w.extractLsb' 15 1), d := w.extractLsb' 9 6, m := marks w })
    | 3 => .ok (.atomxDecw { r := Ord.ofCode (w.extractLsb' 30 2), n := w.extractLsb' 22 5, ret := unbit (w.extractLsb' 21 1), p := w.extractLsb' 16 5, x2 := unbit (w.extractLsb' 15 1), d := w.extractLsb' 9 6, m := marks w })
    | 4 => .ok (.atomxFadd { r := Ord.ofCode (w.extractLsb' 30 2), n := w.extractLsb' 22 5, ret := unbit (w.extractLsb' 21 1), p := w.extractLsb' 16 5, x2 := unbit (w.extractLsb' 15 1), d := w.extractLsb' 9 6, m := marks w })
    | 5 => .ok (.atomxFmin { r := Ord.ofCode (w.extractLsb' 30 2), n := w.extractLsb' 22 5, ret := unbit (w.extractLsb' 21 1), p := w.extractLsb' 16 5, x2 := unbit (w.extractLsb' 15 1), d := w.extractLsb' 9 6, m := marks w })
    | 6 => .ok (.atomxFmax { r := Ord.ofCode (w.extractLsb' 30 2), n := w.extractLsb' 22 5, ret := unbit (w.extractLsb' 21 1), p := w.extractLsb' 16 5, x2 := unbit (w.extractLsb' 15 1), d := w.extractLsb' 9 6, m := marks w })
    | 7 => .ok (.atomxXor { r := Ord.ofCode (w.extractLsb' 30 2), n := w.extractLsb' 22 5, ret := unbit (w.extractLsb' 21 1), p := w.extractLsb' 16 5, x2 := unbit (w.extractLsb' 15 1), d := w.extractLsb' 9 6, m := marks w })
    | _ => .error .reservedFunction
  | 51 =>
    match (w.extractLsb' 29 3).toNat with
    | 0 => .ok (.acq { r := w.extractLsb' 9 6, m := marks w })
    | 1 => .ok (.rel { r := w.extractLsb' 9 6, m := marks w })
    | 2 => .ok (.acqrel { r := w.extractLsb' 9 6, m := marks w })
    | 3 => (match Scope.ofCode? (w.extractLsb' 26 3) with | some s => .ok (.fence { s := s, m := marks w }) | none => .error .reservedFunction)
    | 4 => .ok (.cinv { l := w.extractLsb' 15 6, a := w.extractLsb' 9 6, m := marks w })
    | 5 => .ok (.cwb { l := w.extractLsb' 15 6, a := w.extractLsb' 9 6, m := marks w })
    | 6 => .ok (.pf { r := w.extractLsb' 9 6, m := marks w })
    | _ => .error .reservedFunction
  | 52 =>
    match (w.extractLsb' 29 3).toNat with
    | 0 => .ok (.barInit { glb := unbit (w.extractLsb' 28 1), b := w.extractLsb' 15 6, a := w.extractLsb' 9 6, m := marks w })
    | 1 => .ok (.barArr { glb := unbit (w.extractLsb' 28 1), b := w.extractLsb' 15 6, a := w.extractLsb' 9 6, m := marks w })
    | 2 => .ok (.barWait { glb := unbit (w.extractLsb' 28 1), b := w.extractLsb' 15 6, a := w.extractLsb' 9 6, m := marks w })
    | 3 => .ok (.barExp { glb := unbit (w.extractLsb' 28 1), out := unbit (w.extractLsb' 27 1), b := w.extractLsb' 15 6, a := w.extractLsb' 9 6, m := marks w })
    | 4 => .ok (.barInval { glb := unbit (w.extractLsb' 28 1), a := w.extractLsb' 9 6, m := marks w })
    | _ => .error .reservedFunction
  | 53 =>
    match (w.extractLsb' 29 3).toNat with
    | 0 => .ok (.rinit { r := w.extractLsb' 21 8, m := marks w })
    | 1 => .ok (.rpush { r := w.extractLsb' 21 8, a := w.extractLsb' 9 6, m := marks w })
    | 2 => .ok (.rpop { r := w.extractLsb' 21 8, a := w.extractLsb' 9 6, m := marks w })
    | 3 => .ok (.rpeek { r := w.extractLsb' 21 8, b := w.extractLsb' 15 6, a := w.extractLsb' 9 6, m := marks w })
    | _ => .error .reservedFunction
  | 54 =>
    match (w.extractLsb' 29 3).toNat with
    | 0 => .ok (.cpyG2s { q := w.extractLsb' 26 2, a := w.extractLsb' 14 6, sense := unbit (w.extractLsb' 13 1), gd := w.extractLsb' 9 4, m := marks w })
    | 1 => .ok (.cpyS2g { q := w.extractLsb' 26 2, a := w.extractLsb' 14 6, sense := unbit (w.extractLsb' 13 1), gd := w.extractLsb' 9 4, m := marks w })
    | 2 => .ok (.cpyG2b { q := w.extractLsb' 26 2, a := w.extractLsb' 14 6, sense := unbit (w.extractLsb' 13 1), gd := w.extractLsb' 9 4, m := marks w })
    | 3 => .ok (.cpyS2b { q := w.extractLsb' 26 2, a := w.extractLsb' 14 6, sense := unbit (w.extractLsb' 13 1), gd := w.extractLsb' 9 4, m := marks w })
    | 4 => .ok (.cpyChain { q := w.extractLsb' 26 2, a := w.extractLsb' 14 6, sense := unbit (w.extractLsb' 13 1), gd := w.extractLsb' 9 4, m := marks w })
    | 5 => .ok (.cpyWin { q := w.extractLsb' 26 2, a := w.extractLsb' 14 6, sense := unbit (w.extractLsb' 13 1), gd := w.extractLsb' 9 4, m := marks w })
    | 6 => .ok (.cpyFill { q := w.extractLsb' 26 2, a := w.extractLsb' 14 6, sense := unbit (w.extractLsb' 13 1), gd := w.extractLsb' 9 4, m := marks w })
    | 7 => .ok (.cpyScrub { q := w.extractLsb' 26 2, a := w.extractLsb' 14 6, sense := unbit (w.extractLsb' 13 1), gd := w.extractLsb' 9 4, m := marks w })
    | _ => .error .reservedFunction
  | 55 =>
    match (w.extractLsb' 29 3).toNat with
    | 0 => .ok (.cpyxG2s { q := w.extractLsb' 26 2, a := w.extractLsb' 14 6, sense := unbit (w.extractLsb' 13 1), gd := w.extractLsb' 9 4, m := marks w })
    | 2 => .ok (.cpyxG2b { q := w.extractLsb' 26 2, a := w.extractLsb' 14 6, sense := unbit (w.extractLsb' 13 1), gd := w.extractLsb' 9 4, m := marks w })
    | 3 => .ok (.cpyxS2b { q := w.extractLsb' 26 2, a := w.extractLsb' 14 6, sense := unbit (w.extractLsb' 13 1), gd := w.extractLsb' 9 4, m := marks w })
    | 4 => .ok (.cpyxChain { q := w.extractLsb' 26 2, a := w.extractLsb' 14 6, sense := unbit (w.extractLsb' 13 1), gd := w.extractLsb' 9 4, m := marks w })
    | _ => .error .reservedFunction
  | 56 => .ok (.mxmma { n := w.extractLsb' 29 3, f := w.extractLsb' 26 3, b := w.extractLsb' 20 6, a := w.extractLsb' 14 6, sense := unbit (w.extractLsb' 13 1), gd := w.extractLsb' 9 4, m := marks w })
  | 57 =>
    match (w.extractLsb' 29 3).toNat with
    | 0 => .ok (.mxz { n := w.extractLsb' 26 3, sense := unbit (w.extractLsb' 13 1), gd := w.extractLsb' 9 4, m := marks w })
    | 1 => .ok (.mxld { n := w.extractLsb' 26 3, b := w.extractLsb' 20 6, a := w.extractLsb' 14 6, sense := unbit (w.extractLsb' 13 1), gd := w.extractLsb' 9 4, m := marks w })
    | 2 => .ok (.mxst { n := w.extractLsb' 26 3, b := w.extractLsb' 20 6, a := w.extractLsb' 14 6, sense := unbit (w.extractLsb' 13 1), gd := w.extractLsb' 9 4, m := marks w })
    | 3 => .ok (.mxstat { n := w.extractLsb' 26 3, d := w.extractLsb' 14 6, m := marks w })
    | _ => .error .reservedFunction
  | 58 =>
    match (w.extractLsb' 29 3).toNat with
    | 0 => .ok (.tsbind { mask := w.extractLsb' 21 8, b := w.extractLsb' 15 6, a := w.extractLsb' 9 6, m := marks w })
    | 1 => .ok (.tsrel { m := marks w })
    | 2 => .ok (.tsq { r := w.extractLsb' 9 6, m := marks w })
    | _ => .error .reservedFunction
  | 59 =>
    match (w.extractLsb' 29 3).toNat with
    | 0 => .ok (.lnch { q := w.extractLsb' 21 8, d := w.extractLsb' 15 6, a := w.extractLsb' 9 6, m := marks w })
    | 1 =>
      match (w.extractLsb' 27 2).toNat with
      | 0 => .ok (.post { r := w.extractLsb' 9 6, m := marks w })
      | 1 => .ok (.postOr { r := w.extractLsb' 9 6, m := marks w })
      | 2 => .ok (.postMaxz { r := w.extractLsb' 9 6, m := marks w })
      | _ => .error .reservedFunction
    | _ => .error .reservedFunction
  | 60 =>
    match (w.extractLsb' 29 3).toNat with
    | 0 => .ok (.wkpt { r := w.extractLsb' 9 6, m := marks w })
    | 1 => .ok (.rcmark { m := marks w })
    | 2 => .ok (.assay { r := w.extractLsb' 9 6, m := marks w })
    | _ => .error .reservedFunction
  | _ => .error .reservedMajor

/-! ### The encoder -/

/-- Bits [8:0] of a 32-bit word: OP6, P, S and 1 (R77). -/
def low (op : BitVec 6) (m : Marks) : BitVec 9 := op ++ bit m.stop ++ bit m.sw ++ 1#1

/-- The words of an instruction: one parcel, or 32 bits. -/
inductive Enc where
  | c16 (w : BitVec 16)
  | c32 (w : BitVec 32)
deriving DecidableEq, Repr

/-- The words of an instruction; none for a step that has no encoding. -/
def encode : Instr → Option Enc
  | .movC x => some (.c16 (x.b ++ x.d ++ 0#4 ++ 0#1))
  | .movi x => some (.c16 (x.i ++ x.d ++ 1#4 ++ 0#1))
  | .iaddC x => some (.c16 (x.b ++ x.d ++ 2#4 ++ 0#1))
  | .iaddiC x => some (.c16 (x.i ++ x.d ++ 3#4 ++ 0#1))
  | .isubC x => some (.c16 (x.b ++ x.d ++ 4#4 ++ 0#1))
  | .imulC x => some (.c16 (x.b ++ x.d ++ 5#4 ++ 0#1))
  | .andC x => some (.c16 (x.b ++ x.d ++ 6#4 ++ 0#1))
  | .orC x => some (.c16 (x.b ++ x.d ++ 7#4 ++ 0#1))
  | .xorC x => some (.c16 (x.b ++ x.d ++ 8#4 ++ 0#1))
  | .shlC x => some (.c16 (x.b ++ x.d ++ 9#4 ++ 0#1))
  | .shrC x => some (.c16 (x.b ++ x.d ++ 10#4 ++ 0#1))
  | .sarC x => some (.c16 (x.b ++ x.d ++ 11#4 ++ 0#1))
  | .faddC x => some (.c16 (x.b ++ x.d ++ 12#4 ++ 0#1))
  | .fmulC x => some (.c16 (x.b ++ x.d ++ 13#4 ++ 0#1))
  | .fminC x => some (.c16 (x.b ++ x.d ++ 14#4 ++ 0#1))
  | .fmaxC x => some (.c16 (x.b ++ x.d ++ 15#4 ++ 0#1))
  | .iadd x => some (.c32 (x.b.code ++ x.wa.code ++ x.a ++ x.wd.code ++ x.d ++ low 0#6 x.m))
  | .isub x => some (.c32 (x.b.code ++ x.wa.code ++ x.a ++ x.wd.code ++ x.d ++ low 1#6 x.m))
  | .imad x => some (.c32 (x.b.code ++ x.wa.code ++ x.a ++ x.wd.code ++ x.d ++ low 3#6 x.m))
  | .imulLo x => some (.c32 (0#3 ++ x.w.code ++ x.b ++ x.a ++ x.d ++ low 2#6 x.m))
  | .imulHis x => some (.c32 (1#3 ++ x.w.code ++ x.b ++ x.a ++ x.d ++ low 2#6 x.m))
  | .imulHiz x => some (.c32 (2#3 ++ x.w.code ++ x.b ++ x.a ++ x.d ++ low 2#6 x.m))
  | .imulWds x => some (.c32 (3#3 ++ 0#2 ++ x.b ++ x.a ++ x.d ++ low 2#6 x.m))
  | .imulWdz x => some (.c32 (4#3 ++ 0#2 ++ x.b ++ x.a ++ x.d ++ low 2#6 x.m))
  | .mins x => some (.c32 (0#3 ++ x.w.code ++ x.b ++ x.a ++ x.d ++ low 4#6 x.m))
  | .maxs x => some (.c32 (1#3 ++ x.w.code ++ x.b ++ x.a ++ x.d ++ low 4#6 x.m))
  | .minz x => some (.c32 (2#3 ++ x.w.code ++ x.b ++ x.a ++ x.d ++ low 4#6 x.m))
  | .maxz x => some (.c32 (3#3 ++ x.w.code ++ x.b ++ x.a ++ x.d ++ low 4#6 x.m))
  | .iabs x => some (.c32 (4#3 ++ x.w.code ++ 0#6 ++ x.a ++ x.d ++ low 4#6 x.m))
  | .ineg x => some (.c32 (5#3 ++ x.w.code ++ 0#6 ++ x.a ++ x.d ++ low 4#6 x.m))
  | .sadds x => some (.c32 (6#3 ++ x.w.code ++ x.b ++ x.a ++ x.d ++ low 4#6 x.m))
  | .saddz x => some (.c32 (7#3 ++ x.w.code ++ x.b ++ x.a ++ x.d ++ low 4#6 x.m))
  | .divs x => some (.c32 (0#3 ++ x.w.code ++ x.b ++ x.a ++ x.d ++ low 5#6 x.m))
  | .divz x => some (.c32 (1#3 ++ x.w.code ++ x.b ++ x.a ++ x.d ++ low 5#6 x.m))
  | .rems x => some (.c32 (2#3 ++ x.w.code ++ x.b ++ x.a ++ x.d ++ low 5#6 x.m))
  | .remz x => some (.c32 (3#3 ++ x.w.code ++ x.b ++ x.a ++ x.d ++ low 5#6 x.m))
  | .logAnd x => some (.c32 (0#3 ++ x.w.code ++ x.b ++ x.a ++ x.d ++ low 6#6 x.m))
  | .logOr x => some (.c32 (1#3 ++ x.w.code ++ x.b ++ x.a ++ x.d ++ low 6#6 x.m))
  | .logXor x => some (.c32 (2#3 ++ x.w.code ++ x.b ++ x.a ++ x.d ++ low 6#6 x.m))
  | .logAndn x => some (.c32 (3#3 ++ x.w.code ++ x.b ++ x.a ++ x.d ++ low 6#6 x.m))
  | .logOrn x => some (.c32 (4#3 ++ x.w.code ++ x.b ++ x.a ++ x.d ++ low 6#6 x.m))
  | .logXnor x => some (.c32 (5#3 ++ x.w.code ++ x.b ++ x.a ++ x.d ++ low 6#6 x.m))
  | .logNot x => some (.c32 (6#3 ++ x.w.code ++ 0#6 ++ x.a ++ x.d ++ low 6#6 x.m))
  | .shl x => some (.c32 (0#3 ++ x.w.code ++ x.b ++ x.a ++ x.d ++ low 7#6 x.m))
  | .shr x => some (.c32 (1#3 ++ x.w.code ++ x.b ++ x.a ++ x.d ++ low 7#6 x.m))
  | .sar x => some (.c32 (2#3 ++ x.w.code ++ x.b ++ x.a ++ x.d ++ low 7#6 x.m))
  | .rol x => some (.c32 (3#3 ++ x.w.code ++ x.b ++ x.a ++ x.d ++ low 7#6 x.m))
  | .fshl x => some (.c32 (4#3 ++ x.w.code ++ x.b ++ x.a ++ x.d ++ low 7#6 x.m))
  | .fshr x => some (.c32 (5#3 ++ x.w.code ++ x.b ++ x.a ++ x.d ++ low 7#6 x.m))
  | .shlI x => some (.c32 (0#3 ++ bit x.x2 ++ 0#1 ++ x.n ++ x.a ++ x.d ++ low 8#6 x.m))
  | .shrI x => some (.c32 (1#3 ++ bit x.x2 ++ 0#1 ++ x.n ++ x.a ++ x.d ++ low 8#6 x.m))
  | .sarI x => some (.c32 (2#3 ++ bit x.x2 ++ 0#1 ++ x.n ++ x.a ++ x.d ++ low 8#6 x.m))
  | .rolI x => some (.c32 (3#3 ++ bit x.x2 ++ 0#1 ++ x.n ++ x.a ++ x.d ++ low 8#6 x.m))
  | .bfxs x => some (.c32 (0#3 ++ 0#2 ++ x.b ++ x.a ++ x.d ++ low 9#6 x.m))
  | .bfxz x => some (.c32 (1#3 ++ 0#2 ++ x.b ++ x.a ++ x.d ++ low 9#6 x.m))
  | .bfi x => some (.c32 (2#3 ++ 0#2 ++ x.b ++ x.a ++ x.d ++ low 9#6 x.m))
  | .popc x => some (.c32 (3#3 ++ x.w.code ++ 0#6 ++ x.a ++ x.d ++ low 9#6 x.m))
  | .clz x => some (.c32 (4#3 ++ x.w.code ++ 0#6 ++ x.a ++ x.d ++ low 9#6 x.m))
  | .ctz x => some (.c32 (5#3 ++ x.w.code ++ 0#6 ++ x.a ++ x.d ++ low 9#6 x.m))
  | .brev x => some (.c32 (6#3 ++ x.w.code ++ 0#6 ++ x.a ++ x.d ++ low 9#6 x.m))
  | .bperm x => some (.c32 (7#3 ++ 0#2 ++ x.b ++ x.a ++ x.d ++ low 9#6 x.m))
  | .dot4ss x => some (.c32 (0#3 ++ 0#2 ++ x.b ++ x.a ++ x.d ++ low 10#6 x.m))
  | .dot4zz x => some (.c32 (1#3 ++ 0#2 ++ x.b ++ x.a ++ x.d ++ low 10#6 x.m))
  | .dot4sz x => some (.c32 (2#3 ++ 0#2 ++ x.b ++ x.a ++ x.d ++ low 10#6 x.m))
  | .dot2s x => some (.c32 (3#3 ++ 0#2 ++ x.b ++ x.a ++ x.d ++ low 10#6 x.m))
  | .dot2z x => some (.c32 (4#3 ++ 0#2 ++ x.b ++ x.a ++ x.d ++ low 10#6 x.m))
  | .iaddi x => some (.c32 (x.i ++ x.a ++ x.d ++ low 11#6 x.m))
  | .movl x => some (.c32 (x.i ++ 0#1 ++ x.d ++ low 12#6 x.m))
  | .movh x => some (.c32 (x.i ++ 1#1 ++ x.d ++ low 12#6 x.m))
  | .icmp x => some (.c32 (bit x.signed ++ x.w.code ++ x.b.code ++ x.a ++ x.c.code ++ x.q ++ low 13#6 x.m))
  | .sel x => some (.c32 (x.n ++ x.w.code ++ x.b ++ x.a ++ x.d ++ low 14#6 x.m))
  | .pand x => some (.c32 (0#3 ++ x.d ++ 0#3 ++ bit x.nb ++ bit x.na ++ 0#3 ++ x.b ++ 0#3 ++ x.a ++ low 15#6 x.m))
  | .por x => some (.c32 (1#3 ++ x.d ++ 0#3 ++ bit x.nb ++ bit x.na ++ 0#3 ++ x.b ++ 0#3 ++ x.a ++ low 15#6 x.m))
  | .pxor x => some (.c32 (2#3 ++ x.d ++ 0#3 ++ bit x.nb ++ bit x.na ++ 0#3 ++ x.b ++ 0#3 ++ x.a ++ low 15#6 x.m))
  | .pnot x => some (.c32 (3#3 ++ x.d ++ 0#5 ++ 0#6 ++ 0#3 ++ x.a ++ low 15#6 x.m))
  | .p2v x => some (.c32 (4#3 ++ 0#8 ++ 0#6 ++ x.r ++ low 15#6 x.m))
  | .v2p x => some (.c32 (5#3 ++ x.mask ++ 0#1 ++ 0#6 ++ x.a ++ low 15#6 x.m))
  | .lea x => some (.c32 (x.s ++ x.w.code ++ x.b ++ x.a ++ x.d ++ low 16#6 x.m))
  | .sread x => some (.c32 (0#1 ++ bit x.x2 ++ 0#3 ++ x.n ++ 0#6 ++ x.d ++ low 17#6 x.m))
  | .mov x => some (.c32 (x.b.code ++ x.wa.code ++ 0#5 ++ bit x.toK ++ x.wd.code ++ x.d ++ low 18#6 x.m))
  | .fadd x => some (.c32 (0#1 ++ x.r.code ++ x.w.code ++ x.b ++ x.a ++ x.d ++ low 19#6 x.m))
  | .fsub x => some (.c32 (1#1 ++ x.r.code ++ x.w.code ++ x.b ++ x.a ++ x.d ++ low 19#6 x.m))
  | .fmul x => some (.c32 (0#1 ++ x.r.code ++ x.w.code ++ x.b ++ x.a ++ x.d ++ low 20#6 x.m))
  | .ffma x => some (.c32 (0#1 ++ x.r.code ++ x.w.code ++ x.b ++ x.a ++ x.d ++ low 21#6 x.m))
  | .fnma x => some (.c32 (1#1 ++ x.r.code ++ x.w.code ++ x.b ++ x.a ++ x.d ++ low 21#6 x.m))
  | .fmin x => some (.c32 (0#3 ++ x.w.code ++ x.b ++ x.a ++ x.d ++ low 22#6 x.m))
  | .fmax x => some (.c32 (1#3 ++ x.w.code ++ x.b ++ x.a ++ x.d ++ low 22#6 x.m))
  | .fminNan x => some (.c32 (2#3 ++ x.w.code ++ x.b ++ x.a ++ x.d ++ low 22#6 x.m))
  | .fmaxNan x => some (.c32 (3#3 ++ x.w.code ++ x.b ++ x.a ++ x.d ++ low 22#6 x.m))
  | .fabs x => some (.c32 (4#3 ++ x.w.code ++ 0#6 ++ x.a ++ x.d ++ low 22#6 x.m))
  | .fneg x => some (.c32 (5#3 ++ x.w.code ++ 0#6 ++ x.a ++ x.d ++ low 22#6 x.m))
  | .fcsgn x => some (.c32 (6#3 ++ x.w.code ++ x.b ++ x.a ++ x.d ++ low 22#6 x.m))
  | .fclass x => some (.c32 (7#3 ++ x.w.code ++ 0#6 ++ x.a ++ x.d ++ low 22#6 x.m))
  | .fcmp x => some (.c32 (0#1 ++ x.w.code ++ x.b.code ++ x.a ++ x.c.code ++ x.q ++ low 23#6 x.m))
  | .frcp x => some (.c32 (0#3 ++ x.w.code ++ 0#6 ++ x.a ++ x.d ++ low 24#6 x.m))
  | .frsq x => some (.c32 (1#3 ++ x.w.code ++ 0#6 ++ x.a ++ x.d ++ low 24#6 x.m))
  | .fsqrt x => some (.c32 (2#3 ++ x.w.code ++ 0#6 ++ x.a ++ x.d ++ low 24#6 x.m))
  | .fexp2 x => some (.c32 (3#3 ++ 0#2 ++ 0#6 ++ x.a ++ x.d ++ low 24#6 x.m))
  | .flog2 x => some (.c32 (4#3 ++ 0#2 ++ 0#6 ++ x.a ++ x.d ++ low 24#6 x.m))
  | .fsin x => some (.c32 (5#3 ++ 0#2 ++ 0#6 ++ x.a ++ x.d ++ low 24#6 x.m))
  | .fcos x => some (.c32 (6#3 ++ 0#2 ++ 0#6 ++ x.a ++ x.d ++ low 24#6 x.m))
  | .ftanh x => some (.c32 (7#3 ++ 0#2 ++ 0#6 ++ x.a ++ x.d ++ low 24#6 x.m))
  | .fldexp x => some (.c32 (0#3 ++ x.w.code ++ x.b ++ x.a ++ x.d ++ low 25#6 x.m))
  | .frndRn x => some (.c32 (1#3 ++ x.w.code ++ 0#6 ++ x.a ++ x.d ++ low 25#6 x.m))
  | .frndRz x => some (.c32 (2#3 ++ x.w.code ++ 0#6 ++ x.a ++ x.d ++ low 25#6 x.m))
  | .frndRd x => some (.c32 (3#3 ++ x.w.code ++ 0#6 ++ x.a ++ x.d ++ low 25#6 x.m))
  | .frndRu x => some (.c32 (4#3 ++ x.w.code ++ 0#6 ++ x.a ++ x.d ++ low 25#6 x.m))
  | .fexpof x => some (.c32 (5#3 ++ x.w.code ++ 0#6 ++ x.a ++ x.d ++ low 25#6 x.m))
  | .ffract x => some (.c32 (6#3 ++ x.w.code ++ 0#6 ++ x.a ++ x.d ++ low 25#6 x.m))
  | .hadd x => some (.c32 (bit x.bf ++ 0#2 ++ x.w.code ++ x.b ++ x.a ++ x.d ++ low 26#6 x.m))
  | .hsub x => some (.c32 (bit x.bf ++ 1#2 ++ x.w.code ++ x.b ++ x.a ++ x.d ++ low 26#6 x.m))
  | .hmul x => some (.c32 (bit x.bf ++ 2#2 ++ x.w.code ++ x.b ++ x.a ++ x.d ++ low 26#6 x.m))
  | .hfma x => some (.c32 (bit x.bf ++ 3#2 ++ x.w.code ++ x.b ++ x.a ++ x.d ++ low 26#6 x.m))
  | .hmin x => some (.c32 (bit x.bf ++ 0#2 ++ x.w.code ++ x.b ++ x.a ++ x.d ++ low 27#6 x.m))
  | .hmax x => some (.c32 (bit x.bf ++ 1#2 ++ x.w.code ++ x.b ++ x.a ++ x.d ++ low 27#6 x.m))
  | .hcmp x => some (.c32 (bit x.bf ++ 2#2 ++ x.w.code ++ x.b ++ x.a ++ x.d ++ low 27#6 x.m))
  | .habs x => some (.c32 (bit x.bf ++ 3#2 ++ x.w.code ++ 0#6 ++ x.a ++ x.d ++ low 27#6 x.m))
  | .hneg x => some (.c32 (bit x.bf ++ 3#2 ++ x.w.code ++ 1#6 ++ x.a ++ x.d ++ low 27#6 x.m))
  | .cvtDirect x => some (.c32 (0#1 ++ x.r.code ++ x.w.code ++ 0#2 ++ x.k ++ x.a ++ x.d ++ low 28#6 x.m))
  | .cvtTo x => some (.c32 (x.f ++ 0#2 ++ 2#3 ++ x.e ++ x.a ++ x.d ++ low 28#6 x.m))
  | .cvtFrom x => some (.c32 (x.f ++ 0#2 ++ 3#3 ++ x.e ++ x.a ++ x.d ++ low 28#6 x.m))
  | .bfpq x => some (.c32 (x.f ++ 1#2 ++ 0#6 ++ x.a ++ x.d ++ low 29#6 x.m))
  | .bfpdq x => some (.c32 (x.f ++ 0#2 ++ 0#6 ++ x.a ++ x.d ++ low 30#6 x.m))
  | .bra x => some (.c32 (x.o ++ bit x.n ++ x.g ++ low 32#6 x.m))
  | .jmp x => some (.c32 (0#11 ++ 0#6 ++ x.r ++ low 33#6 x.m))
  | .call x => some (.c32 (1#3 ++ 0#8 ++ x.l ++ x.t ++ low 33#6 x.m))
  | .ret x => some (.c32 (2#3 ++ 0#8 ++ 0#6 ++ x.r ++ low 33#6 x.m))
  | .reform x => some (.c32 (0#11 ++ 0#6 ++ 0#6 ++ low 34#6 x.m))
  | .awaitBar x => some (.c32 (0#3 ++ bit x.q ++ 0#7 ++ x.b ++ x.a ++ low 35#6 x.m))
  | .awaitRing x => some (.c32 (1#3 ++ bit x.q ++ 0#7 ++ 0#6 ++ x.a ++ low 35#6 x.m))
  | .awaitFar x => some (.c32 (2#3 ++ 0#8 ++ 0#6 ++ 0#6 ++ low 35#6 x.m))
  | .awaitGd x => some (.c32 (3#3 ++ 0#4 ++ x.g ++ 0#6 ++ x.d ++ low 35#6 x.m))
  | .awaitIng x => some (.c32 (4#3 ++ 0#8 ++ 0#6 ++ x.r ++ low 35#6 x.m))
  | .awaitTmr x => some (.c32 (5#3 ++ bit x.q ++ 0#7 ++ 0#6 ++ x.a ++ low 35#6 x.m))
  | .exit x => some (.c32 (0#11 ++ 0#6 ++ 0#6 ++ low 36#6 x.m))
  | .abort x => some (.c32 (1#3 ++ 0#8 ++ 0#6 ++ x.r ++ low 36#6 x.m))
  | .part x => some (.c32 (x.s ++ x.n ++ 0#6 ++ 0#6 ++ 0#6 ++ low 37#6 x.m))
  | .voteAny x => some (.c32 (0#3 ++ 0#2 ++ 0#3 ++ x.g ++ x.a ++ x.d ++ low 38#6 x.m))
  | .voteAll x => some (.c32 (1#3 ++ 0#2 ++ 0#3 ++ x.g ++ x.a ++ x.d ++ low 38#6 x.m))
  | .voteBallot x => some (.c32 (2#3 ++ 0#2 ++ 0#3 ++ x.g ++ x.a ++ x.d ++ low 38#6 x.m))
  | .voteUeq x => some (.c32 (3#3 ++ 0#2 ++ 0#3 ++ x.g ++ x.a ++ x.d ++ low 38#6 x.m))
  | .shflIdx x => some (.c32 (x.g ++ 0#2 ++ x.b ++ x.a ++ x.d ++ low 39#6 x.m))
  | .shflUp x => some (.c32 (x.g ++ 1#2 ++ x.b ++ x.a ++ x.d ++ low 39#6 x.m))
  | .shflDown x => some (.c32 (x.g ++ 2#2 ++ x.b ++ x.a ++ x.d ++ low 39#6 x.m))
  | .shflXor x => some (.c32 (x.g ++ 3#2 ++ x.b ++ x.a ++ x.d ++ low 39#6 x.m))
  | .gredIadd x => some (.c32 (0#3 ++ 0#1 ++ bit x.x2 ++ 0#3 ++ x.g ++ x.a ++ x.d ++ low 40#6 x.m))
  | .gredMins x => some (.c32 (1#3 ++ 0#1 ++ bit x.x2 ++ 0#3 ++ x.g ++ x.a ++ x.d ++ low 40#6 x.m))
  | .gredMaxs x => some (.c32 (2#3 ++ 0#1 ++ bit x.x2 ++ 0#3 ++ x.g ++ x.a ++ x.d ++ low 40#6 x.m))
  | .gredAnd x => some (.c32 (3#3 ++ 0#1 ++ bit x.x2 ++ 0#3 ++ x.g ++ x.a ++ x.d ++ low 40#6 x.m))
  | .gredOr x => some (.c32 (4#3 ++ 0#1 ++ bit x.x2 ++ 0#3 ++ x.g ++ x.a ++ x.d ++ low 40#6 x.m))
  | .gredXor x => some (.c32 (5#3 ++ 0#1 ++ bit x.x2 ++ 0#3 ++ x.g ++ x.a ++ x.d ++ low 40#6 x.m))
  | .gredFadd x => some (.c32 (6#3 ++ 0#1 ++ bit x.x2 ++ 0#3 ++ x.g ++ x.a ++ x.d ++ low 40#6 x.m))
  | .gredFmax x => some (.c32 (7#3 ++ 0#1 ++ bit x.x2 ++ 0#3 ++ x.g ++ x.a ++ x.d ++ low 40#6 x.m))
  | .gscanIadd x => some (.c32 (0#3 ++ 0#1 ++ bit x.exc ++ 0#3 ++ x.g ++ x.a ++ x.d ++ low 41#6 x.m))
  | .gscanMins x => some (.c32 (1#3 ++ 0#1 ++ bit x.exc ++ 0#3 ++ x.g ++ x.a ++ x.d ++ low 41#6 x.m))
  | .gscanMaxs x => some (.c32 (2#3 ++ 0#1 ++ bit x.exc ++ 0#3 ++ x.g ++ x.a ++ x.d ++ low 41#6 x.m))
  | .gscanAnd x => some (.c32 (3#3 ++ 0#1 ++ bit x.exc ++ 0#3 ++ x.g ++ x.a ++ x.d ++ low 41#6 x.m))
  | .gscanOr x => some (.c32 (4#3 ++ 0#1 ++ bit x.exc ++ 0#3 ++ x.g ++ x.a ++ x.d ++ low 41#6 x.m))
  | .gscanXor x => some (.c32 (5#3 ++ 0#1 ++ bit x.exc ++ 0#3 ++ x.g ++ x.a ++ x.d ++ low 41#6 x.m))
  | .gscanFadd x => some (.c32 (6#3 ++ 0#1 ++ bit x.exc ++ 0#3 ++ x.g ++ x.a ++ x.d ++ low 41#6 x.m))
  | .gscanFmax x => some (.c32 (7#3 ++ 0#1 ++ bit x.exc ++ 0#3 ++ x.g ++ x.a ++ x.d ++ low 41#6 x.m))
  | .nop x => some (.c32 (0#11 ++ 0#6 ++ 0#6 ++ low 42#6 x.m))
  | .trap x => some (.c32 (1#3 ++ x.c ++ 0#6 ++ 0#6 ++ low 42#6 x.m))
  | .brk x => some (.c32 (2#3 ++ 0#8 ++ 0#6 ++ 0#6 ++ low 42#6 x.m))
  | .gdarm x => some (.c32 (0#7 ++ x.n ++ 0#6 ++ 0#6 ++ low 43#6 x.m))
  | .gdset x => some (.c32 (1#3 ++ bit x.i ++ bit x.v ++ 0#2 ++ x.n ++ 0#6 ++ x.a ++ low 43#6 x.m))
  | .ld x => some (.c32 (x.o ++ 0#1 ++ x.c.code ++ x.a ++ x.k.code ++ x.t ++ low 45#6 x.m))
  | .st x => some (.c32 (x.o ++ 0#1 ++ x.c.code ++ x.a ++ x.k.code ++ x.t ++ low 46#6 x.m))
  | .ldk x => some (.c32 (bit x.sx ++ 0#1 ++ x.c.code ++ x.x ++ x.n ++ x.k.code ++ x.t ++ low 47#6 x.m))
  | .stk x => some (.c32 (bit x.sx ++ 0#1 ++ x.c.code ++ x.x ++ x.n ++ x.k.code ++ x.t ++ low 48#6 x.m))
  | .atomAdd x => some (.c32 (x.r.code ++ 0#3 ++ x.n ++ bit x.ret ++ x.p ++ bit x.x2 ++ x.d ++ low 49#6 x.m))
  | .atomSub x => some (.c32 (x.r.code ++ 1#3 ++ x.n ++ bit x.ret ++ x.p ++ bit x.x2 ++ x.d ++ low 49#6 x.m))
  | .atomMins x => some (.c32 (x.r.code ++ 2#3 ++ x.n ++ bit x.ret ++ x.p ++ bit x.x2 ++ x.d ++ low 49#6 x.m))
  | .atomMaxs x => some (.c32 (x.r.code ++ 3#3 ++ x.n ++ bit x.ret ++ x.p ++ bit x.x2 ++ x.d ++ low 49#6 x.m))
  | .atomMinz x => some (.c32 (x.r.code ++ 4#3 ++ x.n ++ bit x.ret ++ x.p ++ bit x.x2 ++ x.d ++ low 49#6 x.m))
  | .atomMaxz x => some (.c32 (x.r.code ++ 5#3 ++ x.n ++ bit x.ret ++ x.p ++ bit x.x2 ++ x.d ++ low 49#6 x.m))
  | .atomAnd x => some (.c32 (x.r.code ++ 6#3 ++ x.n ++ bit x.ret ++ x.p ++ bit x.x2 ++ x.d ++ low 49#6 x.m))
  | .atomOr x => some (.c32 (x.r.code ++ 7#3 ++ x.n ++ bit x.ret ++ x.p ++ bit x.x2 ++ x.d ++ low 49#6 x.m))
  | .atomxCas x => some (.c32 (x.r.code ++ 0#3 ++ x.n ++ bit x.ret ++ x.p ++ bit x.x2 ++ x.d ++ low 50#6 x.m))
  | .atomxXchg x => some (.c32 (x.r.code ++ 1#3 ++ x.n ++ bit x.ret ++ x.p ++ bit x.x2 ++ x.d ++ low 50#6 x.m))
  | .atomxIncw x => some (.c32 (x.r.code ++ 2#3 ++ x.n ++ bit x.ret ++ x.p ++ bit x.x2 ++ x.d ++ low 50#6 x.m))
  | .atomxDecw x => some (.c32 (x.r.code ++ 3#3 ++ x.n ++ bit x.ret ++ x.p ++ bit x.x2 ++ x.d ++ low 50#6 x.m))
  | .atomxFadd x => some (.c32 (x.r.code ++ 4#3 ++ x.n ++ bit x.ret ++ x.p ++ bit x.x2 ++ x.d ++ low 50#6 x.m))
  | .atomxFmin x => some (.c32 (x.r.code ++ 5#3 ++ x.n ++ bit x.ret ++ x.p ++ bit x.x2 ++ x.d ++ low 50#6 x.m))
  | .atomxFmax x => some (.c32 (x.r.code ++ 6#3 ++ x.n ++ bit x.ret ++ x.p ++ bit x.x2 ++ x.d ++ low 50#6 x.m))
  | .atomxXor x => some (.c32 (x.r.code ++ 7#3 ++ x.n ++ bit x.ret ++ x.p ++ bit x.x2 ++ x.d ++ low 50#6 x.m))
  | .acq x => some (.c32 (0#3 ++ 0#8 ++ 0#6 ++ x.r ++ low 51#6 x.m))
  | .rel x => some (.c32 (1#3 ++ 0#8 ++ 0#6 ++ x.r ++ low 51#6 x.m))
  | .acqrel x => some (.c32 (2#3 ++ 0#8 ++ 0#6 ++ x.r ++ low 51#6 x.m))
  | .fence x => some (.c32 (3#3 ++ x.s.code ++ 0#5 ++ 0#6 ++ 0#6 ++ low 51#6 x.m))
  | .cinv x => some (.c32 (4#3 ++ 0#8 ++ x.l ++ x.a ++ low 51#6 x.m))
  | .cwb x => some (.c32 (5#3 ++ 0#8 ++ x.l ++ x.a ++ low 51#6 x.m))
  | .pf x => some (.c32 (6#3 ++ 0#8 ++ 0#6 ++ x.r ++ low 51#6 x.m))
  | .barInit x => some (.c32 (0#3 ++ bit x.glb ++ 0#7 ++ x.b ++ x.a ++ low 52#6 x.m))
  | .barArr x => some (.c32 (1#3 ++ bit x.glb ++ 0#7 ++ x.b ++ x.a ++ low 52#6 x.m))
  | .barWait x => some (.c32 (2#3 ++ bit x.glb ++ 0#7 ++ x.b ++ x.a ++ low 52#6 x.m))
  | .barExp x => some (.c32 (3#3 ++ bit x.glb ++ bit x.out ++ 0#6 ++ x.b ++ x.a ++ low 52#6 x.m))
  | .barInval x => some (.c32 (4#3 ++ bit x.glb ++ 0#7 ++ 0#6 ++ x.a ++ low 52#6 x.m))
  | .rinit x => some (.c32 (0#3 ++ x.r ++ 0#6 ++ 0#6 ++ low 53#6 x.m))
  | .rpush x => some (.c32 (1#3 ++ x.r ++ 0#6 ++ x.a ++ low 53#6 x.m))
  | .rpop x => some (.c32 (2#3 ++ x.r ++ 0#6 ++ x.a ++ low 53#6 x.m))
  | .rpeek x => some (.c32 (3#3 ++ x.r ++ x.b ++ x.a ++ low 53#6 x.m))
  | .cpyG2s x => some (.c32 (0#3 ++ 0#1 ++ x.q ++ 0#6 ++ x.a ++ bit x.sense ++ x.gd ++ low 54#6 x.m))
  | .cpyS2g x => some (.c32 (1#3 ++ 0#1 ++ x.q ++ 0#6 ++ x.a ++ bit x.sense ++ x.gd ++ low 54#6 x.m))
  | .cpyG2b x => some (.c32 (2#3 ++ 0#1 ++ x.q ++ 0#6 ++ x.a ++ bit x.sense ++ x.gd ++ low 54#6 x.m))
  | .cpyS2b x => some (.c32 (3#3 ++ 0#1 ++ x.q ++ 0#6 ++ x.a ++ bit x.sense ++ x.gd ++ low 54#6 x.m))
  | .cpyChain x => some (.c32 (4#3 ++ 0#1 ++ x.q ++ 0#6 ++ x.a ++ bit x.sense ++ x.gd ++ low 54#6 x.m))
  | .cpyWin x => some (.c32 (5#3 ++ 0#1 ++ x.q ++ 0#6 ++ x.a ++ bit x.sense ++ x.gd ++ low 54#6 x.m))
  | .cpyFill x => some (.c32 (6#3 ++ 0#1 ++ x.q ++ 0#6 ++ x.a ++ bit x.sense ++ x.gd ++ low 54#6 x.m))
  | .cpyScrub x => some (.c32 (7#3 ++ 0#1 ++ x.q ++ 0#6 ++ x.a ++ bit x.sense ++ x.gd ++ low 54#6 x.m))
  | .cpyxG2s x => some (.c32 (0#3 ++ 0#1 ++ x.q ++ 0#6 ++ x.a ++ bit x.sense ++ x.gd ++ low 55#6 x.m))
  | .cpyxG2b x => some (.c32 (2#3 ++ 0#1 ++ x.q ++ 0#6 ++ x.a ++ bit x.sense ++ x.gd ++ low 55#6 x.m))
  | .cpyxS2b x => some (.c32 (3#3 ++ 0#1 ++ x.q ++ 0#6 ++ x.a ++ bit x.sense ++ x.gd ++ low 55#6 x.m))
  | .cpyxChain x => some (.c32 (4#3 ++ 0#1 ++ x.q ++ 0#6 ++ x.a ++ bit x.sense ++ x.gd ++ low 55#6 x.m))
  | .mxmma x => some (.c32 (x.n ++ x.f ++ x.b ++ x.a ++ bit x.sense ++ x.gd ++ low 56#6 x.m))
  | .mxz x => some (.c32 (0#3 ++ x.n ++ 0#6 ++ 0#6 ++ bit x.sense ++ x.gd ++ low 57#6 x.m))
  | .mxld x => some (.c32 (1#3 ++ x.n ++ x.b ++ x.a ++ bit x.sense ++ x.gd ++ low 57#6 x.m))
  | .mxst x => some (.c32 (2#3 ++ x.n ++ x.b ++ x.a ++ bit x.sense ++ x.gd ++ low 57#6 x.m))
  | .mxstat x => some (.c32 (3#3 ++ x.n ++ 0#6 ++ x.d ++ 0#1 ++ 0#4 ++ low 57#6 x.m))
  | .tsbind x => some (.c32 (0#3 ++ x.mask ++ x.b ++ x.a ++ low 58#6 x.m))
  | .tsrel x => some (.c32 (1#3 ++ 0#8 ++ 0#6 ++ 0#6 ++ low 58#6 x.m))
  | .tsq x => some (.c32 (2#3 ++ 0#8 ++ 0#6 ++ x.r ++ low 58#6 x.m))
  | .lnch x => some (.c32 (0#3 ++ x.q ++ x.d ++ x.a ++ low 59#6 x.m))
  | .post x => some (.c32 (1#3 ++ 0#2 ++ 0#6 ++ 0#6 ++ x.r ++ low 59#6 x.m))
  | .postOr x => some (.c32 (1#3 ++ 1#2 ++ 0#6 ++ 0#6 ++ x.r ++ low 59#6 x.m))
  | .postMaxz x => some (.c32 (1#3 ++ 2#2 ++ 0#6 ++ 0#6 ++ x.r ++ low 59#6 x.m))
  | .wkpt x => some (.c32 (0#11 ++ 0#6 ++ x.r ++ low 60#6 x.m))
  | .rcmark x => some (.c32 (1#3 ++ 0#8 ++ 0#6 ++ 0#6 ++ low 60#6 x.m))
  | .assay x => some (.c32 (2#3 ++ 0#8 ++ 0#6 ++ x.r ++ low 60#6 x.m))
  | .illegalEncoding _ => none
  | .logReplay _ => none
  | .gangDraw _ => none
  | .recordDrain _ => none
  | .blockCreate _ => none
  | .seatReclaim _ => none
  | .pendingResultWrite _ _ => none
  | .overrun _ => none
  | .barrierTimeout _ => none
  | .gatherTimeout _ => none
  | .trapUnresolved _ => none
  | .poolDeadlock _ => none
  | .timerWake _ => none
  | .farRequest _ => none
  | .farReply _ _ => none
  | .farAcknowledgement _ _ => none
  | .homeSliceRequest _ => none
  | .atomicPerform _ => none
  | .peerRequest _ => none
  | .lineFill _ => none
  | .tableWalkComplete _ _ _ => none
  | .pageRequest _ => none
  | .copyJobStart _ _ => none
  | .copyPieceLand _ => none
  | .chainReservation _ => none
  | .mxaCommandStart _ _ => none
  | .mxaCommandComplete _ => none
  | .probeTokenSend _ _ => none
  | .probeTokenReceive _ _ => none
  | .workgroupPlace _ => none
  | .workgroupStart _ => none
  | .workgroupEnd _ => none
  | .workgroupMove _ _ => none
  | .moveComplete _ => none
  | .reconPointWrite _ _ _ => none
  | .sampleCompare _ _ => none
  | .updateInstant _ => none
  | .launchEnd _ => none
  | .hostRingEntry _ _ => none
  | .coalescingTimeout _ _ => none
  | .graphSuccessor _ _ => none
  | .packetIntake _ _ => none
  | .submitDoorbell _ _ _ => none
  | .hostRingDoorbell _ _ _ => none
  | .graphStart _ _ _ => none
  | .qcbStore _ _ _ _ => none
  | .registerWrite _ _ _ => none
  | .roodMode _ _ _ => none
  | .vdCreate _ _ _ => none
  | .vdDestroy _ _ => none
  | .copyAssign _ _ _ => none
  | .tenantCreate _ _ => none
  | .charterInstall _ _ => none
  | .tenantTeardown _ => none
  | .ctxCreate _ _ _ _ _ => none
  | .ctxDestroy _ => none
  | .queueBind _ _ => none
  | .queueUnbind _ _ => none
  | .queueReload _ _ => none
  | .unfreeze _ _ => none
  | .kill _ => none
  | .frameGrant _ _ _ => none
  | .frameRevoke _ _ => none
  | .cmdMap _ _ _ _ => none
  | .unmap _ _ _ _ _ => none
  | .violate _ _ => none
  | .migrateOut _ _ => none
  | .preempt _ _ => none
  | .resume _ _ => none
  | .evict _ => none
  | .imagePlace _ _ _ _ _ _ => none
  | .moduleLoad _ _ => none
  | .moduleUnload _ _ => none
  | .ringSet _ _ _ => none
  | .ringClear _ _ => none
  | .attach _ _ => none
  | .detach _ => none
  | .release _ _ => none
  | .stepCmd _ _ => none
  | .discard _ _ => none
  | .powerSet _ _ _ _ => none
  | .streamSet _ _ => none
  | .streamClear _ _ => none
  | .traceSet _ _ => none
  | .sampleSet _ _ => none
  | .dump _ _ _ _ _ => none
  | .record _ _ _ _ _ => none
  | .replay _ _ _ _ => none
  | .coeffRead _ _ _ => none
  | .countRead _ _ => none
  | .accountRead _ _ _ _ => none
  | .deferredChangeApply _ => none
  | .migrationCopyComplete _ _ => none
  | .migrationPinExpiry _ _ => none
  | .cxlMemAccess _ => none
  | .quarantineScrubComplete _ => none
  | .contextStopComplete _ => none
  | .imageClose _ => none
  | .spanStart _ => none
  | .allowanceExhausted _ => none
  | .monitorRead _ => none
  | .inputUndervoltage _ _ => none
  | .uncorrectableError _ => none
  | .correctableError _ _ _ => none
  | .patrolScrub _ _ _ _ => none
  | .flitCrcFailure _ _ => none
  | .linkRetrainComplete _ => none
  | .retirement _ => none
  | .countCommit => none
  | .baseTick => none
  | .tickReceive _ => none
  | .sampleTick _ => none
  | .replayDivergence _ _ _ => none
  | .coldReset => none
  | .warmReset => none
  | .bootStageComplete _ _ => none
  | .functionLevelReset _ => none
  | .domainWordWrite _ => none
  | .frameReceive _ => none
  | .hostTransmit _ => none
  | .ptpMessage _ _ => none
  | .ptpLock => none
  | .ptpSyncTimeout => none
  | .spdmVersion _ => none
  | .spdmCapabilities _ => none
  | .spdmAlgorithms _ => none
  | .spdmCertificate _ => none
  | .spdmChallenge _ _ => none
  | .spdmMeasurements _ _ => none
  | .spdmKeyExchange _ _ => none
  | .spdmFinish _ _ => none
  | .tdispMessage _ _ => none
  | .moduleTranslationComplete _ _ _ => none
  | .routeLost _ => none
  | .windowAccess _ => none
  | .sliceMissFill _ => none
  | .writeBackAcknowledgement _ => none

/-- The parcels of an encoding, the first parcel holding bits [15:0] (R73). -/
def Enc.parcels : Enc → List Parcel
  | .c16 w => [w]
  | .c32 w => [w.extractLsb' 0 16, w.extractLsb' 16 16]

/-! ### The decoder -/

/-- A candidate stands when its operands are legal and its word has no bit set outside its fields (R83, R89). -/
def accept (e : Enc) (i : Instr) : Except DecodeError Instr :=
  match i.check with
  | some err => .error err
  | none => if encode i = some e then .ok i else .error .unusedField

/-- Decode a 32-bit word (R77, R89). -/
def decode32 (w : BitVec 32) : Except DecodeError Instr :=
  match parse32 w with
  | .error err => .error err
  | .ok i => accept (.c32 w) i

/-- Decode a compact parcel (R76). -/
def decode16 (w : BitVec 16) : Except DecodeError Instr :=
  accept (.c16 w) (parse16 w)

/-- Decode the instruction at the head of a list of parcels; the answer names its length in parcels (R73, R74). -/
def decode : List Parcel → Except DecodeError (Instr × Nat)
  | [] => .error .outsideCode
  | p :: rest =>
    if p.getLsbD 0 then
      match rest with
      | [] => .error .outsideCode
      | q :: _ => (decode32 (q ++ p)).map fun i => (i, 2)
    else (decode16 p).map fun i => (i, 1)

/-- The bytes of a table word as the hardware stores them, lowest address first, zero above nbits (R13, R73). -/
def tableBytes (nbits w : Nat) : List Byte :=
  (List.range 4).map fun i => if 8 * i < nbits then BitVec.ofNat 8 (w >>> (8 * i)) else 0

/-- Little-endian bytes to parcels (R13, R73). -/
def parcelsOfBytes : List Byte → List Parcel
  | lo :: hi :: rest => (hi ++ lo) :: parcelsOfBytes rest
  | _ => []

/-- The instruction the decoder reads from a word numbered as spec/opcode_table.json numbers its bits. -/
def decodeTableWord (nbits w : Nat) : Option Instr :=
  match decode (parcelsOfBytes (tableBytes nbits w)) with
  | .ok (i, _) => some i
  | .error _ => none

end Sys2Proof
end

