-- ==== Sys2Proof/Config.lean ====
section
/-! DEFINITION. What the spec leaves open or fixes only by a bound: uninterpreted constants, with no body, so that no
proof can use a value of them. A step that uses one that can change from time to time gives it the free-value counter
of the state (log 2). -/
namespace Sys2Proof.Config

/-- Core cycles that pass with the n-th step (R255, R320 pace them; the spec bounds no instruction's own time). -/
opaque cycles : Nat → Nat

/-- Whether the IEEE 1588 clock gains a nanosecond in a cycle, by its count (R46: it advances by 0 or 1 on every
cycle). -/
opaque ptpTick : Nat → Bool

/-- Which of the candidates inside the bound of R140 `frcp` returns: format width, operand bits. -/
opaque rcpPick : Bool → Nat → Nat

/-- The same for `frsq`. -/
opaque rsqPick : Bool → Nat → Nat

/-- Results of the FP32 special functions that R140 bounds but does not give exactly: function, operand. -/
opaque special : Nat → Word → Word

/-- SHA-384 (R397, R427). -/
opaque sha384 : List Byte → List Byte

/-- ECDSA P-384 verification: key, message hash, signature (R401). -/
opaque verify : List Byte → List Byte → List Byte → Bool

/-- AES-256-XTS: key number, tweak, plaintext (R406). -/
opaque encrypt : Nat → Nat → List Byte → List Byte

/-- The plaintext that a ciphertext of AES-256-XTS stands for: key number, tweak, ciphertext (R406). -/
opaque decrypt : Nat → Nat → List Byte → List Byte

/-- The Notary's answers under the SPDM standard: request, its operand (R397). -/
opaque spdm : Nat → List Byte → List Byte

/-- Measurements 1 to 3: Notary firmware, Steward image, porter images (R397). -/
opaque measurement : Nat → List Byte

/-- The energy coefficients of R432, one per event class, in units of 2^-10 pJ. -/
opaque coefficient : Nat → Nat

/-- How many of the 64 entries of the coefficient table are in use, and the event class of each (R432, R452). -/
opaque eventClasses : Nat

opaque eventClass : Nat → Nat

/-- %ptptime at the first lock of the servo: free-value counter. -/
opaque freeTime : Nat → Nat

/-- Whether the Notary accepts what ends an SPDM handshake: the share of the exchange, the proof (R397). -/
opaque spdmAccepts : List Byte → List Byte → Bool

/-- The static energy model of R432: rood (16: the firmware complex), span number, and the temperature, supply and process
readings of the rood's monitors, in units of 2^-10 microjoule. -/
opaque staticEnergy : Nat → Nat → Nat → Nat → Nat → Nat

/-- What a launch is charged for the span in which it ends, up to its end: dynamic or static, span number, launch (R432,
R433). -/
opaque openEnergy : Bool → Nat → Nat → Nat

/-- Grains that the meters of a virtual device charge in a step: free-value counter, virtual device (R431). -/
opaque grains : Nat → Nat → Nat

/-- Events of a class that a launch's agents caused in a rood and span (R432): rood, span number, launch, class. -/
opaque events : Nat → Nat → Nat → Nat → Nat

/-- A byte the device's own tables or images hold and the spec does not lay out. -/
opaque hiddenByte : Nat → Nat → Byte

/-- The FP32 value a free slot of an undefined choice takes: free-value counter. -/
opaque freeWord : Nat → Word

/-- A choice among orders the spec leaves open: free-value counter, number of choices. -/
opaque choose : Nat → Nat → Nat

/-- What the time that accesses take adds to a counter of a home in a step (R305, R324): counter, free-value counter, workgroup. -/
opaque timed : Nat → Nat → Nat → Nat

/-- The Ethernet port that the hypervisor has selected for the servo (R476): the BAR registers as last written. -/
opaque servoPort : List (Nat × Nat × BitVec 32) → Nat

/-- Whether a frame beyond device memory belongs to CXL-attached memory, rather than to the host (R425): 64 KiB frame number. -/
opaque cxlFrame : Nat → Bool

end Sys2Proof.Config
end

