-- ==== Sys2Proof/Machine/State.lean ====
section
/-! DEFINITION. Everything the spec gives the module to hold, as plain data (R11): the threads, records and gang slots
of the cores, the workgroups and launches, the caches and messages in flight, the queues, contexts and tenants, the
module's own registers and counts, and what the outside has been sent. The last group of fields is the model's own. -/
namespace Sys2Proof.Machine

/-! ### Memory -/

/-- Bytes by address, strictly rising, no zero byte listed; an unlisted byte reads as zero (log 5 for device memory;
R302 and R40 for scratch and tiles). -/
abbrev Memory := List Host.Cell

/-- Bytes by address, strictly rising, where being listed has a meaning of its own (written bytes, captured bytes). -/
abbrev Patch := List Host.Cell

/-- A place that holds a workgroup: a cluster and a side, side 0 in a hard rood (R249). -/
structure Home where
  cluster : Nat
  side : Nat
deriving DecidableEq, Repr

/-! ### Threads -/

/-- A subgroup descriptor (R33): SIZE code and BASE. -/
structure Sub where
  size : BitVec 2
  base : BitVec 12
deriving DecidableEq, Repr

/-- The operand log's entry (R43). -/
structure LogEntry where
  word : BitVec 32
  off : Nat
  addr : BitVec 64
  data : List Byte
deriving DecidableEq, Repr

/-- The reply of a far access, as the record carries it (R262): bytes, or the address of a violation. -/
structure FarReply where
  data : List Byte
  violation : Option Nat
  /-- It came marked poisoned (R440). -/
  bad : Bool
deriving DecidableEq, Repr

/-- What a pending result waits for (R79). -/
inductive PendSrc where
  /-- The registers to write, computed when the instruction issued. -/
  | value (ws : List (BitVec 6 × Word))
  /-- A load's bytes: what the L1 gave at issue, the request that brings the rest, where it starts. -/
  | load (req : Nat) (k : Access) (va : Nat) (got : Patch) (dst : BitVec 6)
  /-- An atomic's old value. -/
  | atom (req : Nat) (x2 : Bool) (dst : BitVec 6)
  /-- `mxstat` of a tile after the named commands (R231). -/
  | tileStat (tile : Nat) (cmds : List Nat) (dst : BitVec 6)
  /-- `tsq` after the named commands (R234). -/
  | tileQuery (cmds : List Nat) (dst : BitVec 6)
deriving DecidableEq, Repr

/-- How a segment ends: the fields its record will carry (R256, R259 to R262). -/
structure SegEnd where
  wake : Nat
  operand : Nat
  ext : Nat
  ord : Word
  parent : Word
  siblings : Word
  trapPc : Nat
  trapSeq : Word
  /-- Word 0x00 of the trap record (R353). -/
  trapWord : Word
  /-- The operand names a global object (wake 1), a free entry (wake 2), %ptptime (wake 6). -/
  q : Bool
  flt : Bool
  halt : Bool
  ovr : Bool
deriving DecidableEq, Repr

/-- Why a thread leaves its seat. -/
inductive Ending where
  | segment (e : SegEnd)
  | exit
deriving DecidableEq, Repr

/-- Where a resident thread stands in its core (R158, R162, R269). -/
inductive Place where
  /-- A member of the running fragment of a gang slot. -/
  | running (slot : Nat)
  /-- A member of a waiting fragment of a gang slot. -/
  | waiting (slot : Nat)
  /-- In the seat bin of its PC. -/
  | binned
  /-- In the core's overflow queue. -/
  | overflow
  /-- Held in its seat because the record pool is full. -/
  | held (e : SegEnd)
  /-- Keeps its seat until its pending results are written (and, for `exit`, its far group is empty), and with it its
  place in the gang slot it issued from (R159). -/
  | ending (e : Ending) (slot : Option Nat)
deriving DecidableEq, Repr

/-- A trap found after its command had issued (R212). -/
structure LateTrap where
  cause : Nat
  detail : BitVec 64
  word : BitVec 32
deriving DecidableEq, Repr

/-- A trap taken while its workgroup is stopped: its record is written when the workgroup's records can drain again, with
the fields as they stood when the trap was taken (R480). -/
structure HeldTrap where
  cause : Nat
  code : Nat
  detail : BitVec 64
  word : BitVec 32
  ord : Word
  since : Nat
  parent : Word
  fmask : Word
  amask : Word
  smask : Word
  gsw : Word
  clock : Nat
  /-- The %tids of the affected threads, and whether one of them was in trap state. -/
  tids : List Nat
  inTrap : Bool
deriving DecidableEq, Repr

/-- Counts a thread keeps along its path (R180, R355, R463). -/
structure Path where
  /-- Instructions retired in the segment. -/
  retired : Nat
  /-- Ordinal of the last safe point passed. -/
  lastStop : Option Nat
  /-- Instructions retired since then. -/
  since : Nat
  /-- Safe points passed in the segment. -/
  passed : Nat
  /-- Synchronising operations performed, for the order lists. -/
  syncOps : Nat
deriving DecidableEq, Repr

/-- Flags of a thread beside its registers. -/
structure Flags where
  assay : Bool
  step : Bool
  frag : Bool
  /-- Park until every pending result is written (R78). -/
  park : Bool
  /-- The log is to be replayed before the next instruction (R348). -/
  replay : Bool
  /-- A data error was met since the thread's last record: its next one carries DERR (R229, R350). -/
  derr : Bool
  /-- The segment ends at the next safe point for it (R350). -/
  dstop : Bool
  /-- A data error was met while the thread is a record: the record after this one carries DERR. -/
  dnext : Bool
  /-- Its gang was marked by a seat reclaim: the segment ends at the next safe point (R266). -/
  reclaim : Bool
  /-- Breakpoints are not tested at the next instruction (R359). -/
  skipBreak : Bool
  /-- Its command of the instruction now issuing has entered its queue (R211). -/
  entered : Bool
deriving DecidableEq, Repr

/-- One thread: its registers and what it carries (R21, R24, R28, R32, R42, R43). -/
structure Thread where
  seat : SeatKey
  launch : Nat
  wg : Nat
  tid : Nat
  role : BitVec 2
  orig : Nat
  pc : Nat
  v : Vector Word 64
  p : BitVec 8
  g : Vector Sub 8
  fl : Flags
  log : Option LogEntry
  pend : List PendSrc
  /-- Requests whose acknowledgement the thread is parked for (R197 to R199, R241). -/
  waits : List Nat
  /-- The far group: requests not yet acknowledged (R194). -/
  far : List Nat
  /-- The address of a far violation not yet raised (R194). -/
  farFault : Option Nat
  /-- The reply the second pass finds (R193). -/
  reply : Option FarReply
  /-- The arrival mark of `bar.wait` and its phase (R203). -/
  mark : Option Bool
  late : List LateTrap
  /-- Index of the tile-store handle held (R232). -/
  handle : Option Nat
  /-- Cycle at which trap state began (R353, R354). -/
  trapState : Option Nat
  path : Path
  place : Place
  /-- Filing time plus 4,096, the largest age threshold, so that no filing time lies below zero (R163); for a held
  thread, its rank in the order of holding (R269). -/
  filedAt : Nat
  /-- Cycle at which it came to its seat bin (R173). -/
  binnedAt : Nat
  /-- Parent gang identifier of the last gang (R181). -/
  gang : Word
deriving DecidableEq, Repr

/-- A gang slot that holds a gang (R181, R255, R266). -/
structure Slot where
  key : SlotKey
  parent : Word
  /-- TIDs of the parent gang, in seat order at the draw (R180). -/
  members : List Nat
  drawnAt : Nat
  /-- The full queues that the gang's push stands stalled at, and since when (R211, R277). -/
  stall : Option (List QueueRef × Nat)
deriving DecidableEq, Repr

/-- What a core counts (R181, R461), and the alternation of its lanes (R255). -/
structure CoreState where
  key : CoreKey
  draws : Nat
  sampleSlot : Nat
  /-- The gang slots that issued last in their temporal lanes (R255). -/
  lastPass : List Nat
deriving DecidableEq, Repr

/-- A continuation record and where it waits (R259 to R264). -/
structure Record where
  id : Nat
  th : Thread
  fin : SegEnd
  held : Bool
  origin : Nat
  /-- Cycle at which its wake condition came to hold. -/
  woken : Option Nat
  since : Nat
  /-- It joined a record bin, rather than the overflow list. -/
  inBin : Bool
  /-- Its units are in the cluster's buffer, rather than only in its pool slot. -/
  inBuffer : Bool
  poolSlot : Option Nat
  /-- Woken by the grant of a ring's reserve (R280). -/
  granted : Bool
  /-- When it last came to the buffer (R263). -/
  bufferedAt : Nat
deriving DecidableEq, Repr

/-! ### Workgroups -/

/-- The states of a guard slot (R36). -/
inductive GuardState where
  | idle | armed | isTrue | isFalse
deriving DecidableEq, Repr

/-- One entry of a stage ring. -/
structure RingEntry where
  index : Nat
  words : List Word
  phase : Bool
deriving DecidableEq, Repr

/-- A stage ring (R204) and its reserve place (R280). -/
structure Ring where
  num : Nat
  bank : Nat
  size : Nat
  head : Nat
  tail : Nat
  hph : Bool
  tph : Bool
  entries : List RingEntry
  reserve : Option (List Word)
  /-- %tid of the record the granted reserve place is kept for. -/
  grant : Option Nat
deriving DecidableEq, Repr

/-- A tile-store handle (R232). -/
structure Handle where
  idx : Nat
  mask : BitVec 8
  base : Nat
  len : Nat
deriving DecidableEq, Repr

/-- An assay sample of a workgroup (R340 to R342). -/
structure Sample where
  tid : Nat
  x : Nat
  y : Nat
  value : Option Word
  error : Option (Option (Int × Nat))
  done : Bool
  dropped : Bool
  /-- The bytes the reconstruction unit wrote for its point: the element, or its BFP block (R342). -/
  element : Option (List Byte)
deriving DecidableEq, Repr

/-- A probe token on its way (R279). -/
structure Probe where
  origin : QueueRef
  num : Nat
  place : QueueRef
  visited : List QueueRef
deriving DecidableEq, Repr

/-- Probing state of a copy or matrix queue or a ring (R277 to R280). -/
structure QueueProbe where
  q : QueueRef
  sent : Nat
  lastSent : Nat
  granted : Bool
deriving DecidableEq, Repr

/-- The counters of R281. -/
structure WgCounts where
  gdiscard : Nat
  probesent : Nat
  resvgrant : Nat
  fullstall : Nat
  edges : Nat
deriving DecidableEq, Repr

/-- Where a workgroup stands (R250, R302, R167, R267, R420). -/
inductive WgPhase where
  | placed | running | moving (dest : Home) | imaged | ended
deriving DecidableEq, Repr

/-- A stop that has reached a workgroup (R420): the moment, and whether its boundary is reached. -/
inductive WgStop where
  | none | stopping (since : Nat) | stopped (since : Nat)
deriving DecidableEq, Repr

/-- What the reconstruction unit formed for a point, or for the BFP block of a point: the bytes, the NaN replacements, and
the poisoned units it met (R336 to R339, R350). -/
structure ReconValue where
  x : Nat
  y : Nat
  bytes : List Byte
  rnan : Nat
  units : List Nat
deriving DecidableEq, Repr

/-- The coverage work of a workgroup (R331, R335 to R343). -/
structure WgCover where
  startPos : Nat
  kept : Nat
  marks : List (Nat × Nat)
  written : List (Nat × Nat)
  samples : List Sample
  counted : Bool
  /-- Its home cluster is free again (R250, R365). -/
  freed : Bool
  /-- Rood of its reconstruction unit (R339). -/
  unit : Nat
  /-- The workgroup was killed: its points are not written any more (R339, R357). -/
  dead : Bool
  /-- The points not written when the workgroup ended, formed from memory as it then stood (R339). -/
  atEnd : List ReconValue
deriving DecidableEq, Repr

/-- A workgroup (R249, R252, R11). -/
structure Workgroup where
  id : Nat
  launch : Nat
  ctx : Nat
  wgid : Nat
  home : Home
  phase : WgPhase
  stop : WgStop
  rung : Nat
  hasHalf : Bool
  k : Vector Word 32
  guards : Vector GuardState 16
  scratch : Memory
  rings : List Ring
  btier : Memory
  /-- Tile words, at (half · 8 + tile) · 8192 + row · 256 + 4 · column (R40). -/
  tiles : Memory
  /-- Row NaN counters, two bytes each, at 2 · ((half · 8 + tile) · 32 + row) (R40). -/
  rowNan : Memory
  handles : List Handle
  /-- Blocks the walker has created (R252). -/
  blocks : Nat
  exited : List Nat
  counts : WgCounts
  cover : WgCover
  probes : List Probe
  queues : List QueueProbe
  /-- Late traps of exited issuers found while the workgroup was stopped (R480). -/
  lateTraps : List LateTrap
  /-- Traps taken while the workgroup was stopped, not yet written (R480). -/
  heldTraps : List HeldTrap
  /-- %vcluster as read by its threads (R446). -/
  vcluster : Nat
  placedAt : Nat
  /-- Its banks, constants and rings have been set (R302). -/
  started : Bool
deriving DecidableEq, Repr

/-! ### Engine commands -/

/-- The spaces of a footprint (R273). -/
inductive SpanSpace where
  | scratch (cluster side : Nat)
  /-- The window, by window address (R192). -/
  | window
  | btier
  | global
  | tile (half n : Nat)
deriving DecidableEq, Repr

/-- An interval of granules of one space, last included (R273). -/
structure Span where
  space : SpanSpace
  /-- B-tier slices; 0 and 0 for the other spaces. -/
  s0 : Nat
  s1 : Nat
  lo : Nat
  hi : Nat
deriving DecidableEq, Repr

/-- A job card (R215). -/
structure Card where
  src : Nat
  dst : Nat
  len : Nat
  rows : Nat
  flags : BitVec 16
  sstr : Nat
  dstr : Nat
  bar : Nat
  aux : List Byte
  fctl : Word
  faoff : Nat
  fshape : Word
  fboff : Nat
deriving DecidableEq, Repr

/-- One piece of a copy job (R218): row, first byte, bytes, what was read, and the clusters it has landed at. -/
structure Piece where
  row : Nat
  off : Nat
  len : Nat
  data : Option (List Byte)
  landed : List Nat
  done : Bool
deriving DecidableEq, Repr

/-- A matrix multiply's operands (R223 to R226). -/
structure MmaOps where
  tile : Nat
  aslot : Nat
  aoff : Nat
  shape : Word
  boff : Nat
deriving DecidableEq, Repr

/-- What a queued command does. -/
inductive CmdKind where
  | copy (kind : Nat) (card : Card) (follow : Bool)
  | mma (x : MmaOps)
  | tileZero (n : Nat)
  | tileLoad (n off stride : Nat) (bar : Option Nat)
  | tileStore (n off stride : Nat) (bar : Option Nat)
deriving DecidableEq, Repr

/-- Where a command stands (R275); a stopped copy job is a running one of a stopped workgroup (R422). -/
inductive CmdState where
  | queued | running (since : Nat)
deriving DecidableEq, Repr

/-- A command in a copy or matrix queue (R211, R273 to R275). -/
structure Cmd where
  id : Nat
  wg : Nat
  /-- Copy queue 0 to 3, or matrix half; an M = 64 command stands in both matrix queues. -/
  queue : QueueRef
  both : Bool
  kind : CmdKind
  issuer : Nat
  word : BitVec 32
  gd : Nat
  sense : Bool
  bound : Option Bool
  reads : List Span
  writes : List Span
  edges : List Nat
  state : CmdState
  pieces : List Piece
  /-- The queues whose reserve place it holds (R220, R280). -/
  reserve : List QueueRef
  /-- Scratch and B-tier bytes as they stood when a matrix command left its queue head (R226, R230). -/
  operands : Option (Memory × Memory)
  /-- The address and reason that stop a copy job once the pieces before it have landed (R219). -/
  stopped : Option (Nat × Nat)
  /-- Granules lost to an uncorrectable error (R350), or the command spoiled (R229). -/
  bad : List Nat
  waitPage : Option Nat
  /-- The copy engine that runs it (R395, R419). -/
  engine : Option Nat
  /-- The matrix queues in which it keeps a place for its follow-on (R220). -/
  kept : List QueueRef
deriving DecidableEq, Repr

/-- A chain buffer place at a cluster and reservations that wait there (R321). -/
structure ChainPlace where
  cluster : Nat
  cmd : Nat
  piece : Nat
  waiting : Bool
deriving DecidableEq, Repr

/-! ### Caches, translation and messages -/

/-- An L1 line (R306). -/
structure L1Line where
  home : Home
  asid : Nat
  /-- Virtual line number, VA / 128. -/
  vline : Nat
  /-- Physical line number (the reverse map of R311). -/
  pline : Nat
  valid : BitVec 8
  mask : BitVec 128
  data : Memory
  fwd : Bool
  used : Nat
  way : Nat
deriving DecidableEq, Repr

/-- A cluster TLB entry (R309). -/
structure TlbEntry where
  cluster : Nat
  asid : Nat
  vbase : Nat
  bits : Nat
  pbase : Nat
  readable : Bool
  writable : Bool
deriving DecidableEq, Repr

/-- How a walk without a usable translation ended (R189). -/
inductive WalkFail where
  | missing | violation
deriving DecidableEq, Repr

/-- A table walk asked for, in progress, or ended without a translation (R309). -/
structure Walk where
  cluster : Nat
  asid : Nat
  page : Nat
  running : Bool
  failed : Option WalkFail
deriving DecidableEq, Repr

/-- A predictor entry (R312). -/
structure Predict where
  cluster : Nat
  index : Nat
  peer : Home
  /-- The launch whose request trained it (R312). -/
  launch : Nat
deriving DecidableEq, Repr

/-- An L2 line (R312, R315): the side whose ways hold it in a split rood (R417), its 16-byte sectors that are valid and
dirty, the last reader that asked for a forwardable line, its recency. -/
structure L2Line where
  slice : Nat
  line : Nat
  side : Nat
  valid : BitVec 8
  dirty : BitVec 8
  reader : Option Home
  used : Nat
deriving DecidableEq, Repr

/-- What a message asks of a home slice or cluster. -/
inductive ReqKind where
  /-- A line for a load, and the access that waits. -/
  | read (size : Nat)
  /-- A line for `pf`. -/
  | prefetch
  /-- Written bytes of a line (a write-back or a store with no L1). -/
  | write (bytes : Patch)
  /-- A local atomic (R195). -/
  | atom (x : Bool) (op : Nat) (w64 : Bool) (operand : List Byte) (ret : Bool)
  /-- A change of a global barrier object (R202, R203): function, operand, inbound or outbound. -/
  | bar (fn : Nat) (operand : Word) (out : Bool)
  /-- The launch's result word (R239). -/
  | post (mode : Nat) (operand : List Byte)
  /-- A far access (R193, R194). -/
  | far (op : FarOp)
  /-- A window access at a member cluster (R192). -/
  | window (member : Nat) (store : Option (List Byte)) (size : Nat)
  /-- A launch packet's bytes for `lnch` (R236). -/
  | packet (q : Nat) (dst : BitVec 6)
deriving DecidableEq, Repr

/-- Where a message stands (R312 to R320). -/
inductive ReqStage where
  /-- Held in the cluster until the named messages are performed (a release, R196). -/
  | held (after : List Nat)
  | toPeer (h : Home)
  | toHome
  | missWait
  | atHome
  | waitPage (sent : Bool)
  | reply (bytes : List Byte) (reader : Option Home) (ok : Bool)
  /-- A far access whose fabric port retrains: not sent out yet (R440). -/
  | atPort
  /-- The answer of a barrier change or a packet has reached its cluster (R318). -/
  | taken (bytes : List Byte)
deriving DecidableEq, Repr

/-- A message in flight and its owner: workgroup and %tid. -/
structure Req where
  id : Nat
  src : Home
  ctx : Nat
  wg : Nat
  tid : Nat
  va : Nat
  pa : Nat
  kind : ReqKind
  stage : ReqStage
  /-- The reply may be installed in the L1. -/
  install : Bool
  fwd : Bool
  /-- The instruction's ORD asks for an acquire when it returns (R196). -/
  acquire : Bool
  /-- Of a far access the device it names, of a window access the member, of a barrier change 1 for a scratch object. Of a
  read: 0 on its own way, 2 + c once the peer cluster c has sent it on, 1000 + c once that peer has returned the line
  (R313). -/
  loc : Nat
  /-- A value it brings was lost to an uncorrectable error (R440, R441). -/
  bad : Bool
deriving DecidableEq, Repr

/-! ### Launches -/

/-- A region entry (R247). -/
structure Region where
  base : Nat
  size : Nat
  obj : Nat
  mode : Nat
  scope : Nat
deriving DecidableEq, Repr

/-- A coverage block (R325). -/
structure CoverBlock where
  control : Word
  seed : Word
  low : Word
  high : Word
  rungs : List Word
  obase : Nat
  w : Nat
  h : Nat
  rstr : Nat
deriving DecidableEq, Repr

/-- A launch record as read at acceptance (R244). -/
structure LaunchRec where
  module : Nat
  entry : Nat
  flags : Word
  grid : List Nat
  size : List Nat
  roles : Word
  plan : Word
  nb : Word
  completion : Nat
  result : Nat
  k : List Word
  f : List Word
  cover : CoverBlock
  deadline : Nat
  cls : Nat
  charter : Nat
  account : Nat
  ext : Nat
  regionCount : Nat
  regions : List Region
  reservedZero : Bool
deriving DecidableEq, Repr

/-- Counts of a launch (R281, R346, R381). -/
structure LaunchCounts where
  wg : WgCounts
  poolEvents : Nat
  convNan : Nat
  dataErrors : Nat
  trapRecords : Nat
  heldDiscarded : Nat
  kept : Nat
  recon : Nat
  late : Nat
  orphan : Nat
  rnan : Nat
  samples : Nat
  dropped : Nat
  up : Nat
  down : Nat
deriving DecidableEq, Repr

/-- A packet held by a launch or taken from a ring (R237). -/
structure Packet where
  head : Word
  word1 : Word
  record : Nat
  tag : BitVec 64
  rest : BitVec 64
deriving DecidableEq, Repr

/-- What a home last held: the context and the SRAM plan of its last workgroup (R302). -/
structure HomeRun where
  home : Home
  ctx : Nat
  plan : Word
deriving DecidableEq, Repr

/-- Where a launch stands (R250, R300, R357). -/
inductive LaunchPhase where
  | accepted | running | ended
deriving DecidableEq, Repr

/-- The privileged half of a queue control block, as bound (R369). -/
structure QueueConf where
  ring : Nat
  conf : Word
  ctxWord : Nat
  poolBase : Nat
  poolLimit : Nat
  trapLog : Nat
  trapBase : Nat
  counterPage : Nat
  hostRing : Nat
  coalesce : Word
  vector : Nat
  nodes : Nat
  reservedZero : Bool
deriving DecidableEq, Repr

/-- A launch. -/
structure Launch where
  id : Nat
  ctx : Nat
  queue : Nat
  /-- The queue's settings at its acceptance (R372). -/
  conf : QueueConf
  headAt : Nat
  packet : Packet
  node : Option Nat
  lr : LaunchRec
  phase : LaunchPhase
  order : Nat
  /-- Status of the first kill (R357), and the abort code. -/
  killed : Option Nat
  abortCode : Word
  acceptedAt : Nat
  firstAt : Option Nat
  /-- The ladder in force: whether the launch runs FULL, imax, the rung (R343 to R345). -/
  full : Bool
  imax : Nat
  rung : Nat
  placed : Nat
  ended : Nat
  counted : Nat
  instants : Nat
  samples : List (Option (Int × Nat))
  counts : LaunchCounts
  heldPackets : List (Nat × Packet)
  dyn : Nat
  stat : Nat
  /-- The home clusters that workgroups stopped for this deadline launch vacate (R434). -/
  claims : List Home
  replay : Option Nat
  threadsStarted : Bool
  /-- FAR of the charter it was accepted under (R402, R404). -/
  far : Bool
  /-- Its seat-cycles and matrix-half-cycles in the open span, by rood (R433). -/
  busy : List (Nat × Nat)
  /-- The retirement map when its first workgroup was placed: its %vcluster values keep to it (R446). -/
  retired : List RetireUnit
  /-- The last update instant: its cycle, the rung before that cycle's instants, and the homes they have freed (R333). -/
  instantAt : Option (Nat × Nat × List Home)
deriving DecidableEq, Repr

/-! ### Queues and contexts -/

/-- A host ring entry that waits or is written (R387). -/
structure RingOut where
  tag : BitVec 64
  result : BitVec 64
  time : Nat
  status : Nat
  gend : Bool
  glimit : Bool
  dmiss : Bool
  node : Nat
  irq : Bool
  /-- It clears RUN when written (R385). -/
  endsRun : Bool
  /-- The settings its launch was accepted under (R372). -/
  conf : QueueConf
deriving DecidableEq, Repr

/-- A bound queue: its settings and its mutable half (R371, R384, R389). -/
structure Queue where
  ctx : Nat
  num : Nat
  qcb : Nat
  conf : QueueConf
  tail : Nat
  head : Nat
  done : Nat
  hwr : Nat
  hrd : Nat
  irqs : Nat
  refused : Nat
  bound : Bool
  frozen : Bool
  run : Bool
  cover : Word
  /-- The charter no longer allows the queue to accept (R404). -/
  barred : Bool
  /-- Launches per node in the run (R385). -/
  runCounts : List (Nat × Nat)
  /-- The node to launch next, or whose completion is to be evaluated. -/
  nextNode : Option Nat
  lastNode : Option (Nat × Nat)
  waiting : List RingOut
  /-- The last waiting entry is complete only once the graph's successor is chosen (R385). -/
  judging : Bool
  /-- When each unsignalled entry was written, and the settings its launch was accepted under (R372, R389). -/
  unsignalled : List (Nat × QueueConf)
deriving DecidableEq, Repr

/-- A page request (R411). -/
structure PageReq where
  va : Nat
  kind : Nat
  /-- Clusters that wait, the first to ask first. -/
  clusters : List Nat
  far : Bool
  /-- Its sequence number, once it stands in the ring. -/
  seq : Option Nat
deriving DecidableEq, Repr

/-- Why a context stops (R420). -/
inductive StopWhy where
  | preempt | evict | freeze | dump | retire
deriving DecidableEq, Repr

/-- The stop of a whole context (R420). -/
inductive CtxStop where
  | none
  | stopping (why : StopWhy) (since : Nat)
  | stopped (why : StopWhy) (since : Nat)
deriving DecidableEq, Repr

/-- A trace setting (R459). -/
structure Trace where
  base : Nat
  rlog : Nat
  kinds : BitVec 10
  index : Nat
  clusters : BitVec 128
  prod : Nat
  drops : Nat
deriving DecidableEq, Repr

/-- A cluster counter of a context (R324). -/
structure Counter where
  cluster : Nat
  side : Nat
  idx : Nat
  value : BitVec 64
deriving DecidableEq, Repr

/-- A context (R396, R358, R411). -/
structure Context where
  id : Nat
  asid : Nat
  vd : Nat
  charter : Nat
  prBase : Nat
  prLog : Nat
  prSeq : Nat
  prReqs : List PageReq
  frozen : Bool
  stop : CtxStop
  image : Option Nat
  session : Bool
  sessionAt : Nat
  breakpoints : List Nat
  trapSeq : BitVec 32
  deadlock : Option Nat
  conflict : Nat
  pinRefused : Nat
  counters : List Counter
  trace : Option Trace
  sample : Option Nat
  /-- How many periods of the sampling had passed at the last sample (R461). -/
  sampleAt : Nat
  /-- It accepts no launch until recreated (R404). -/
  barred : Bool
  /-- A DUMP in progress: issuer's sequence number, area, length, hold. -/
  dump : Option (CmdHead × Nat × Nat × Bool)
  /-- PREEMPT or EVICT answered when the stop completes. -/
  reply : Option CmdHead
  dest : Option Nat
deriving DecidableEq, Repr

/-! ### Tenants, grants and translation -/

/-- A charter's fields (R401, R402). -/
structure Charter where
  serial : Nat
  classes : Word
  policy : Word
  mincov : Nat
  grains : Nat
  weight : Nat
  bytes : List Byte
deriving DecidableEq, Repr

/-- Sums of an energy account in units of 2^-10 microjoule (R433, R458). -/
structure Account where
  num : Nat
  dyn : Nat
  stat : Nat
  /-- The last base tick when it was last charged (R456). -/
  touched : Nat
deriving DecidableEq, Repr

/-- A tenant (R401 to R406). KB and KI are named by a number the Notary draws; their bits are Config's. -/
structure Tenant where
  charter : Nat
  key : Option (List Byte)
  inForce : Option Charter
  kb : Nat
  ki : Nat
  accounts : List Account
deriving DecidableEq, Repr

/-- TDISP states of a device interface (R398). -/
inductive Tdisp where
  | unlocked | locked | run | error
deriving DecidableEq, Repr

/-- An ingress ring (R390, R391). -/
structure Ingress where
  num : Nat
  desc : RingDesc
  prod : Nat
  drops : Nat
  seq : Nat
deriving DecidableEq, Repr

/-- A virtual device (R394, R395, R430). -/
structure VDev where
  num : Nat
  shape : VdShape
  engines : List Nat
  frozenEngines : List Nat
  g : Nat
  w : Nat
  /-- Below zero when the debt exceeds the guarantee and the share. -/
  allowance : Int
  /-- Of the allowance, the share of the pool P, and the grains received by release in this span (R430). -/
  pool : Nat
  released : Nat
  spent : Nat
  debt : Nat
  drawing : Bool
  throttled : Nat
  idleEnergy : Nat
  imageClass : Nat
  /-- Where system software asks for images: the location of the class, or nearer (R425). -/
  imageLoc : Nat
  tdisp : Tdisp
  session : Bool
  /-- The tenant that has shown itself in the session (R397, R403). -/
  tenant : Option Nat
  /-- The share of a key exchange that has not been finished (R397). -/
  share : Option (List Byte)
  ingress : List Ingress
deriving DecidableEq, Repr

/-- A frame grant (R407): first 64 KiB frame number and the run's log2. -/
structure Grant where
  handle : Nat
  ctx : Nat
  /-- The tenant it was made under; it ends at that tenant's teardown at the latest (R11). -/
  charter : Nat
  frame : Nat
  k : Nat
  src : FrameSource
deriving DecidableEq, Repr

/-- States of a migratable page (R412). -/
inductive PageState where
  | device | host | toDevice | toHost
deriving DecidableEq, Repr

/-- A mapped page (R408, R412). -/
structure Page where
  ctx : Nat
  va : Nat
  bits : Nat
  pa : Nat
  hostPa : Nat
  writable : Bool
  readable : Bool
  migratable : Bool
  state : PageState
  pinned : Option Nat
  /-- The mapping list it came from (handle, offset) (R409). -/
  list : Nat × Nat
deriving DecidableEq, Repr

/-- A mapping list in force (R408, R409): its grant, offset and entry count, and its physical address. -/
structure MapList where
  ctx : Nat
  handle : Nat
  off : Nat
  count : Nat
  pa : Nat
deriving DecidableEq, Repr

/-- A page whose request was answered as a violation (R411). -/
structure Violation where
  ctx : Nat
  va : Nat
deriving DecidableEq, Repr

/-- A deferred translation change (R410). -/
inductive DeferKind where
  | unmap (list : Nat × Nat) (vas : List Nat)
  | revoke (handle : Nat)
deriving DecidableEq, Repr

structure Deferred where
  ctx : Nat
  h : CmdHead
  kind : DeferKind
  /-- Launches accepted before the command. -/
  before : List Nat
deriving DecidableEq, Repr

/-- A command of class MEMORY or MAP, or a host access, that is held (R399, R413). -/
inductive HeldCmd where
  | grant (h : CmdHead) (k : Nat) (src : FrameSource)
  | revoke (h : CmdHead) (handle : Nat)
  | map (h : CmdHead) (handle off count : Nat)
  | unmap (h : CmdHead) (handle off first count : Nat)
  | violate (h : CmdHead) (va : Nat)
  /-- A migration, and whether it has acted already and waits for its page. -/
  | migrateOut (h : CmdHead) (va : Nat) (acted : Bool)
  | access (x : CxlAccess)
deriving DecidableEq, Repr

/-- Where a module stands (R393). -/
inductive ModuleState where
  | translating | ready | rejected
deriving DecidableEq, Repr

/-- A loaded module (R393). -/
structure Module where
  handle : Nat
  charter : Nat
  spf : List Byte
  state : ModuleState
  /-- Unloaded modules keep their cached native code until tenant teardown. -/
  loaded : Bool
  linked : ModuleImage
  native : ModuleImage
deriving DecidableEq, Repr

/-! ### Images -/

/-- A context image (R425 to R428): where its class puts it, its bytes, and the hash the Notary keeps. What its sections
hold stands in the workgroups, records and commands of the context, whose phase is `imaged` meanwhile (log 43). -/
structure Image where
  handle : Nat
  ctx : Nat
  loc : Nat
  addr : Nat
  cls : Nat
  bytes : List Byte
  hash : List Byte
  roods : Nat
  closedAt : Nat
  /-- The one workgroup whose sections it holds; none for the image of a context (R434). -/
  wg : Option Nat
deriving DecidableEq, Repr

/-- What the sections of a context image hold (R426). Identifiers in it are the sender's. -/
structure ImageHeld where
  launches : List Launch
  wgs : List Workgroup
  records : List Record
  cmds : List Cmd
  /-- The mutable halves and coverage state words of its queues. -/
  queues : List Queue
  debt : Nat
  session : Bool
  breakpoints : List Nat
deriving DecidableEq, Repr

/-- A context image that another device of the domain sent, the key that came with it, and what its sections hold (R429). -/
structure ImageIn where
  handle : Nat
  roods : Nat
  bytes : List Byte
  hash : List Byte
  ki : Nat
  held : ImageHeld
deriving DecidableEq, Repr

/-! ### The module -/

/-- The IEEE 1588 clock (R46, R48, R476). -/
structure Ptp where
  time : Nat
  locked : Bool
  everLocked : Bool
  /-- Since when the offset has been below 100 ns, and when the last Sync came, in cycles. -/
  goodSince : Option Nat
  lastSync : Nat
deriving DecidableEq, Repr

/-- A route table entry (R475). -/
structure Route where
  dev : Nat
  port : Nat
deriving DecidableEq, Repr

/-- Boot and domain registers (R470, R471, R475). Stage 0 is no stage code: the module has tripped and does nothing
until its next reset (R450). -/
structure Boot where
  stage : Nat
  err : Nat
  trip : Bool
  devnum : Nat
  domid : Nat
  storedDevnum : Nat
  storedDomid : Nat
  routes : List Route
  portsDown : List Nat
deriving DecidableEq, Repr

/-- An error count: block 0 to 15 a rood, 16 the firmware; index 0 to 15 (R443). -/
structure ErrCount where
  block : Nat
  idx : Nat
  value : Nat
deriving DecidableEq, Repr

/-- The Notary's non-volatile store (R443, R445, R450). -/
structure Store where
  counts : List ErrCount
  committed : List ErrCount
  retired : List RetireUnit
  commitAt : Nat
  trip : Bool
deriving DecidableEq, Repr

/-- A launch that has ended in the open span: its tenant and account, and its seat-cycles and matrix-half-cycles by rood
(R432, R433). -/
structure EndedLaunch where
  id : Nat
  charter : Nat
  account : Nat
  busy : List (Nat × Nat)
deriving DecidableEq, Repr

/-- Power over the span (R430, R448). -/
structure Power where
  budget : Nat
  spanAt : Nat
  spans : Nat
  deviceEnergy : Nat
  /-- Launches that have ended in the open span (R433). -/
  ended : List EndedLaunch
deriving DecidableEq, Repr

/-- An entry of the module error log (R442, R444): structure code, unit, when its window began, events merged. -/
structure ErrEntry where
  time : Nat
  structCode : Nat
  uncorrectable : Bool
  retires : Bool
  rood : Nat
  sub : Nat
  merged : Nat
  addr : Nat
  start : Nat
deriving DecidableEq, Repr

/-- An error the Steward remembers for the limits of R445: the unit, the structure, whether it was uncorrectable or a tag
parity error, the register, word or memory unit it lies at, how many, and when. -/
structure ErrEvent where
  unit : RetireUnit
  structCode : Nat
  uncorrectable : Bool
  tag : Bool
  place : Nat
  n : Nat
  at_ : Nat
deriving DecidableEq, Repr

/-- The last reading of a monitor and its throttle (R450). -/
structure Monitor where
  isStack : Bool
  n : Nat
  temp : Nat
  supply : Nat
  process : Nat
  throttled : Bool
  refresh2 : Bool
deriving DecidableEq, Repr

/-- A counter stream (R455 to R457). -/
structure Stream where
  handle : Nat
  issuer : Issuer
  vd : Nat
  base : Nat
  index : Nat
  rlog : Nat
  k : Nat
  mask : Nat
  prod : Nat
  drops : Nat
  dropped : Bool
deriving DecidableEq, Repr

/-- One list of a replay log (R463, R464): its entries are written as they are logged. -/
structure LogList where
  order : Bool
  ident : Nat
  firstChunk : Nat
  chunk : Nat
  inChunk : Nat
  count : Nat
deriving DecidableEq, Repr

/-- A RECORD command in force (R463). -/
structure Recording where
  id : Nat
  h : CmdHead
  ctx : Nat
  queue : Nat
  base : Nat
  blocks : Nat
  used : Nat
  launch : Option Nat
  complete : Bool
  lists : List LogList
deriving DecidableEq, Repr

/-- A REPLAY command in force (R465, R466). -/
structure Replaying where
  id : Nat
  h : CmdHead
  ctx : Nat
  queue : Nat
  base : Nat
  launch : Option Nat
  /-- Next entry of each list. -/
  next : List (Bool × Nat × Nat)
  /-- The entry that each thread's last start has used: %wgid, TID, list, index. -/
  starts : List (Nat × Nat × Nat × Nat)
  idleSince : Nat
deriving DecidableEq, Repr

/-- Host receive ring and counts of the Ethernet path (R476), and frames received by ring order. -/
structure Eth where
  hostRing : List EthFrame
  hostDrops : Nat
  badFcs : Nat
deriving DecidableEq, Repr

/-- A link that retrains (R440), with the retries of the flit it holds. -/
structure LinkState where
  link : Link
  msg : Option Nat
  retries : Nat
  retraining : Bool
deriving DecidableEq, Repr

/-! ### What the outside sees -/

/-- Entries of the host log. -/
inductive LogItem where
  | denied (h : CmdHead)
  | poolExhausted (ctx cluster : Nat)
  | conflict (ctx count : Nat)
  | pinRefused (ctx count : Nat)
  | refusedCxl (ctx va count : Nat)
  | warn (isStack : Bool) (n temp supply : Nat)
  | breach (vd g floor : Nat)
  | portDown (port : Nat)
  | frozen (m : Master) (ctx : Nat)
  /-- The 32 bytes of an entry of the module error log (R444). -/
  | error (bytes : List Byte)
deriving DecidableEq, Repr

/-- What the device sends out, newest first (R389, R399, R358, R391, R397, R193). -/
inductive Out where
  | response (h : CmdHead) (status : Nat) (result : BitVec 64)
  | interrupt (ctx q vector : Nat)
  | log (x : LogItem)
  | stop (ctx ord wgid : Nat) (tids : List Nat)
  | lateStop (ctx : Nat) (seq : Word)
  | frame (port : Nat) (bytes : List Byte)
  | spdm (vd code : Nat) (body : List Byte)
  | tdisp (vd : Nat) (s : Tdisp)
  | far (dev id va : Nat) (op : FarOp)
  | farAnswer (va : Nat) (bytes : List Byte) (ok : Bool)
  | cxl (bytes : List Byte)
  /-- A context image on its way to another device, its hash and its key (R429). -/
  | image (dev ctx : Nat) (bytes hash : List Byte) (ki : Nat)
  /-- Flits for another device leave by a port, forwarded hop by hop (R475). -/
  | forward (port : Nat) (x : FarSource)
  | tick (n : Nat)
deriving DecidableEq, Repr

/-- What the physical function holds as an interface: its TDISP state and its SPDM session (R397, R473). -/
structure PhysFn where
  tdisp : Tdisp
  session : Bool
  share : Option (List Byte)
deriving DecidableEq, Repr

/-- A BAR register with no behaviour of its own, as last written: function (32 the physical one), offset, value (R473). -/
structure BarReg where
  fn : Nat
  off : Nat
  value : Word
deriving DecidableEq, Repr

/-- The machine's state. -/
structure State where
  clock : Nat
  ptp : Ptp
  boot : Boot
  nv : Store
  power : Power
  mem : Memory
  poison : List Nat
  splitRoods : List Nat
  vds : List VDev
  tenants : List Tenant
  contexts : List Context
  grants : List Grant
  pages : List Page
  lists : List MapList
  violations : List Violation
  deferred : List Deferred
  /-- Commands and accesses held behind a deferred change, or behind a page on its way (R399, R413), in order. -/
  heldCmds : List HeldCmd
  /-- Those that are held no more: they run before anything else (log 1). -/
  due : List HeldCmd
  /-- Device frames in quarantine (R414). -/
  quarantine : List Nat
  /-- CXL.mem accesses refused (R474). -/
  cxlRefused : Nat
  pf : PhysFn
  registers : List BarReg
  modules : List Module
  queues : List Queue
  /-- The queue of each class whose packet was taken last, for the round robin of R374: class, context, queue. -/
  served : List (Nat × Nat × Nat)
  launches : List Launch
  wgs : List Workgroup
  threads : List Thread
  slots : List Slot
  cores : List CoreState
  records : List Record
  cmds : List Cmd
  chains : List ChainPlace
  l1 : List L1Line
  tlb : List TlbEntry
  walks : List Walk
  predictor : List Predict
  l2 : List L2Line
  /-- Of a slice in a split rood: the side whose queue its atomic unit served last (R315). -/
  unitSide : List (Nat × Nat)
  /-- Units whose retirement has begun and whose workgroups still stop or move (R446). -/
  retiring : List RetireUnit
  reqs : List Req
  images : List Image
  /-- Images that arrived by a fabric port and are not yet resumed (R429). -/
  imagesIn : List ImageIn
  monitors : List Monitor
  /-- The module error log, as written to the host log, oldest first. -/
  errlog : List ErrEntry
  errHist : List ErrEvent
  links : List LinkState
  streams : List Stream
  recording : List Recording
  replaying : List Replaying
  eth : Eth
  /-- Base tick number last latched (R453). -/
  tick : Nat
  /-- %clock at which it fell. -/
  tickAt : Nat
  /-- What each home last held, for the bank modes of R302. -/
  lastRun : List HomeRun
  out : List Out
  /-- Outside inputs and moves of the autonomous agents, in the order they happen (log 1). The model's own. -/
  agenda : List Instr
  /-- The gang slot whose turn it is to issue (log 1). The model's own. -/
  turn : Option SlotKey
  /-- How many free values have been drawn (log 2). The model's own. -/
  freeCount : Nat
  /-- The next identifier (log 3). The model's own. -/
  nextId : Nat
  /-- Cycles that the pass under way takes at the least (R255, log 8). The model's own. -/
  passCycles : Nat
deriving DecidableEq, Repr

/-- Reasons a step can stop. -/
inductive Fault where
  /-- `step` raises it when the agenda names an instruction that has a word: only device steps stand there. Safe: no
  hardware state corresponds to such an agenda. -/
  | notAnEvent
deriving DecidableEq, Repr

/-- Reasons an instruction has no meaning. -/
inductive Refusal where
  /-- An arm of `exec` answers it for an instruction without a meaning. Safe. -/
  | notModelled (mnemonic : String)
deriving DecidableEq, Repr

/-- The error counts of R443 that a device starts its life with: none. -/
def Store.fresh : Store := ⟨[], [], [], 0, false⟩

/-- The module right after reset (R48, R470, R471): nothing exists, the clock starts, the boot stages begin. Values the
spec leaves to what came before the reset are those of log 4. -/
def State.reset : State where
  clock := 0
  ptp := ⟨0, false, false, none, 0⟩
  boot := ⟨1, 0, false, 0, 0, 0, 0, [], []⟩
  nv := Store.fresh
  power := ⟨22000, 0, 0, 0, []⟩
  mem := []
  poison := []
  splitRoods := []
  vds := []
  tenants := []
  contexts := []
  grants := []
  pages := []
  lists := []
  violations := []
  deferred := []
  heldCmds := []
  due := []
  quarantine := []
  cxlRefused := 0
  pf := ⟨.unlocked, false, none⟩
  registers := []
  modules := []
  queues := []
  served := []
  launches := []
  wgs := []
  threads := []
  slots := []
  cores := []
  records := []
  cmds := []
  chains := []
  l1 := []
  tlb := []
  walks := []
  predictor := []
  l2 := []
  unitSide := []
  retiring := []
  reqs := []
  images := []
  imagesIn := []
  monitors := []
  errlog := []
  errHist := []
  links := []
  streams := []
  recording := []
  replaying := []
  eth := ⟨[], 0, 0⟩
  tick := 0
  tickAt := 0
  lastRun := []
  out := []
  agenda := []
  turn := none
  freeCount := 0
  nextId := 1
  passCycles := 0

end Sys2Proof.Machine
end

