-- ==== Sys2Proof/Machine/Mem.lean ====
section
/-! DEFINITION. Bytes and memories: the one byte order (R13), reading and writing in canonical form, and patches. -/
namespace Sys2Proof.Machine

/-- The byte at an address; an unlisted byte is zero (log 5). -/
def readByte : Memory → Nat → Byte
  | [], _ => 0
  | (x, b) :: t, a => if x = a then b else readByte t a

/-- Write one byte and keep the canonical form: writing zero removes the entry. -/
def writeByte : Memory → Nat → Byte → Memory
  | [], a, b => if b = 0 then [] else [(a, b)]
  | (x, c) :: t, a, b =>
    if a < x then (if b = 0 then (x, c) :: t else (a, b) :: (x, c) :: t)
    else if a = x then (if b = 0 then t else (a, b) :: t)
    else (x, c) :: writeByte t a b

/-- The canonical form: strictly rising addresses, no zero byte listed. -/
def Memory.wf : Memory → Bool
  | [] => true
  | [(_, b)] => decide (b ≠ 0)
  | (x, b) :: (y, c) :: t => decide (b ≠ 0) && decide (x < y) && Memory.wf ((y, c) :: t)

/-- The n bytes from an address on, lowest first. -/
def readBytes (m : Memory) (a : Nat) : Nat → List Byte
  | 0 => []
  | n + 1 => readByte m a :: readBytes m (a + 1) n

/-- Write bytes from an address on. -/
def writeBytes (m : Memory) (a : Nat) : List Byte → Memory
  | [] => m
  | b :: bs => writeBytes (writeByte m a b) (a + 1) bs

/-- Write the same byte n times. -/
def fillBytes (m : Memory) (a : Nat) (b : Byte) : Nat → Memory
  | 0 => m
  | n + 1 => fillBytes (writeByte m a b) (a + 1) b n

/-- The bytes of an interval removed, that is, written as zero. -/
def clearRange (m : Memory) (lo n : Nat) : Memory :=
  m.filter fun c => !(decide (lo ≤ c.1) && decide (c.1 < lo + n))

/-- Cells in any order as a memory in its canonical form; of two for one address the later stands. -/
def canonical (cs : List Host.Cell) : Memory := cs.foldl (fun m c => writeByte m c.1 c.2) []

/-- Little-endian value of bytes (R13). -/
def ofBytes : List Byte → Nat
  | [] => 0
  | b :: bs => b.toNat + 256 * ofBytes bs

/-- The n little-endian bytes of a value (R13). -/
def toBytes : Nat → Nat → List Byte
  | 0, _ => []
  | n + 1, x => BitVec.ofNat 8 x :: toBytes n (x / 256)

/-- An unsigned field of n bytes. -/
def readNat (m : Memory) (a n : Nat) : Nat := ofBytes (readBytes m a n)

/-- Store an n-byte field. -/
def writeNat (m : Memory) (a n x : Nat) : Memory := writeBytes m a (toBytes n x)

/-- The 32-bit word at an address. -/
def readWord (m : Memory) (a : Nat) : Word := BitVec.ofNat 32 (readNat m a 4)

/-- The words of a byte string, four bytes each (R25). -/
def wordsOf (bs : List Byte) : Nat → List Word
  | 0 => []
  | n + 1 => BitVec.ofNat 32 (ofBytes (bs.take 4)) :: wordsOf (bs.drop 4) n

/-- The bytes of words, the first at the lowest place (R25). -/
def bytesOfWords : List Word → List Byte
  | [] => []
  | w :: ws => toBytes 4 w.toNat ++ bytesOfWords ws

/-- The byte a patch lists at an address. -/
def patchGet : Patch → Nat → Option Byte
  | [], _ => none
  | (x, b) :: t, a => if x = a then some b else patchGet t a

/-- List a byte in a patch, in address order. -/
def patchSet : Patch → Nat → Byte → Patch
  | [], a, b => [(a, b)]
  | (x, c) :: t, a, b =>
    if a < x then (a, b) :: (x, c) :: t
    else if a = x then (a, b) :: t
    else (x, c) :: patchSet t a b

/-- List bytes from an address on. -/
def patchBytes (p : Patch) (a : Nat) : List Byte → Patch
  | [] => p
  | b :: bs => patchBytes (patchSet p a b) (a + 1) bs

/-- Write every byte of a patch, moved by an offset. -/
def applyPatch (m : Memory) (off : Nat) : Patch → Memory
  | [] => m
  | (a, b) :: t => applyPatch (writeByte m (a + off) b) off t

/-- Sign extension of the low n bits of a value. -/
def sext (n : Nat) (x : Nat) : Int :=
  if x % 2 ^ n < 2 ^ (n - 1) then ((x % 2 ^ n : Nat) : Int) else ((x % 2 ^ n : Nat) : Int) - (2 ^ n : Nat)

/-- Bits [hi:lo] of a number. -/
def field (x hi lo : Nat) : Nat := x / 2 ^ lo % 2 ^ (hi + 1 - lo)

/-- One bit of a number. -/
def flag (x i : Nat) : Bool := decide (x / 2 ^ i % 2 = 1)

/-- ceil(a / b). -/
def ceilDiv (a b : Nat) : Nat := (a + b - 1) / b

/-- Set the i-th element of a list. -/
def listSet {α : Type} : List α → Nat → α → List α
  | [], _, _ => []
  | _ :: t, 0, x => x :: t
  | h :: t, n + 1, x => h :: listSet t n x

/-- The elements without repeats, each at its first place. -/
def dedup {α : Type} [DecidableEq α] : List α → List α
  | [] => []
  | x :: xs => x :: (dedup xs).filter (fun y => decide (y ≠ x))

/-- The greatest of some naturals, 0 for none. -/
def maxNat : List Nat → Nat
  | [] => 0
  | x :: xs => max x (maxNat xs)

/-- Sum of naturals. -/
def sumNat : List Nat → Nat
  | [] => 0
  | x :: xs => x + sumNat xs

end Sys2Proof.Machine
end

