-- ==== Sys2Proof/Machine/Topo.lean ====
section
/-! DEFINITION. Where things lie: roods, clusters, slices, virtual devices and home slices (R4 to R9, R249, R314, R394,
R446). -/
namespace Sys2Proof.Machine

/-- Tile coordinates and grid place of cluster c (R4 to R6). -/
def roodCol (n : Nat) : Nat := 2 * (n % 8 / 4) + n % 8 % 2
def roodRow (n : Nat) : Nat := n % 8 / 2 % 2
def gridX (c : Nat) : Nat := 2 * (4 * (c / 64) + roodCol (c / 8)) + c % 8 / 4
def gridY (c : Nat) : Nat := 4 * roodRow (c / 8) + c % 8 % 4

/-- Mesh tile of a cluster (R5). -/
def tileX (c : Nat) : Nat := 12 * (c / 64) + 3 * roodCol (c / 8) + 2 * (c % 8 / 4)
def tileY (c : Nat) : Nat := 4 * roodRow (c / 8) + c % 8 % 4

/-- Mesh tile of a slice: the middle column of its rood, at the tile row of its number (R7). -/
def sliceTileX (n : Nat) : Nat := 12 * (n / 32) + 3 * roodCol (n / 4) + 1
def sliceTileY (n : Nat) : Nat := 4 * roodRow (n / 4) + n % 4

/-- Temporal lane and gang slot of a seat (R21), and both as R45 numbers the slots of a core. -/
def seatLane (q : Nat) : Nat := q / 64
def seatGangSlot (q : Nat) : Nat := q / 32 % 2
def seatSlot (q : Nat) : Nat := 2 * seatLane q + seatGangSlot q

/-- Fabric ports and HBM stacks of a module (R2). -/
def fabricPorts : Nat := 12
def memStacks : Nat := 8

/-! ### Routes (R10, R318) -/

/-- A tile of the module mesh. -/
abbrev MeshTile := Nat × Nat

def clusterTile (c : Nat) : MeshTile := (tileX c, tileY c)
def sliceTile (n : Nat) : MeshTile := (sliceTileX n, sliceTileY n)

/-- The numbers passed from a to b, without a. -/
def steps (a b : Nat) : List Nat :=
  if a ≤ b then (List.range (b - a)).map (a + 1 + ·) else (List.range (a - b)).map (a - 1 - ·)

/-- The tiles of a route, its first one included: along x, then along y (R10). -/
def tilePath (a b : MeshTile) : List MeshTile :=
  a :: (steps a.1 b.1).map (fun x => (x, a.2)) ++ (steps a.2 b.2).map (fun y => (b.1, y))

/-- The link a hop takes: of a mesh (0 requests, 1 replies) the link out of its tile, east 0, west 1, to rising y 2, to
falling y 3; between tile columns 11 and 12 the row's bridge link, which carries both meshes (R318). -/
def hopLink (mesh : Nat) (a b : MeshTile) : Link :=
  if min a.1 b.1 = 11 ∧ max a.1 b.1 = 12 then ⟨2, 11, a.2, 0⟩
  else ⟨mesh, a.1, a.2, if a.1 < b.1 then 0 else if b.1 < a.1 then 1 else if a.2 < b.2 then 2 else 3⟩

/-- The links of a route. -/
def routeLinks (mesh : Nat) (a b : MeshTile) : List Link :=
  let p := tilePath a b
  (p.zip (p.drop 1)).map fun h => hopLink mesh h.1 h.2

/-- A link of the module: of a mesh, a bridge, or a fabric port (R2, R10). -/
def linkExists (k : Link) : Bool :=
  if k.mesh < 2 then
    decide (k.x < 24) && decide (k.y < 8) &&
      (match k.port with
      | 0 => decide (k.x < 23) && decide (k.x ≠ 11)
      | 1 => decide (0 < k.x) && decide (k.x ≠ 12)
      | 2 => decide (k.y < 7)
      | 3 => decide (0 < k.y)
      | _ => false)
  else if k.mesh = 2 then decide (k.x = 11) && decide (k.y < 8) && decide (k.port = 0)
  else decide (k.mesh = 3) && decide (k.x = 0) && decide (k.y = 0) && decide (k.port < fabricPorts)

/-- Rood and die of a cluster (R4, R5). -/
def roodOf (c : Nat) : Nat := c / 8
def dieOf (c : Nat) : Nat := c / 64

/-- The cluster at a grid place (R6). -/
def clusterAt (gx gy : Nat) : Option Nat :=
  (List.range 128).find? fun c => decide (gridX c = gx) && decide (gridY c = gy)

/-- In a retirement map, a rood whose 8 clusters, or whose 4 slices, are all retired is retired as a whole (R445). -/
def roodGone (us : List RetireUnit) (n : Nat) : Bool :=
  ((List.range 8).all fun i => us.contains (.cluster (8 * n + i))) ||
    ((List.range 4).all fun k => us.contains (.slice (4 * n + k)))

/-- A rood of the module is retired. -/
def roodRetired (s : State) (n : Nat) : Bool := roodGone s.nv.retired n

/-- All units of a rood (R445). -/
def roodUnits (n : Nat) : List RetireUnit :=
  ((List.range 8).map fun i => .cluster (8 * n + i)) ++ ((List.range 4).map fun k => .slice (4 * n + k)) ++
    ((List.range 16).map fun c => .channel n c)

/-- Whether a cluster, or its whole rood, is retired in a map (R445). -/
def clusterGone (us : List RetireUnit) (c : Nat) : Bool := us.contains (.cluster c) || roodGone us (roodOf c)

/-- Whether it is retired now. -/
def clusterRetired (s : State) (c : Nat) : Bool := clusterGone s.nv.retired c

/-- A cluster is retired, or its retirement has begun (R446). -/
def clusterLeaves (s : State) (c : Nat) : Bool := clusterRetired s c || s.retiring.contains (.cluster c)

/-- The roods of a virtual device (R394). -/
def VdShape.roods : VdShape → List Nat
  | .run base log2 => (List.range (2 ^ log2)).map (base + ·)
  | .side rood _ => [rood]

/-- The side its workgroups take: 0 in hard roods (R249). -/
def VdShape.sideNum : VdShape → Nat
  | .run _ _ => 0
  | .side _ side => side

/-- Whether it is one side of a split rood. -/
def VdShape.isSide : VdShape → Bool
  | .run _ _ => false
  | .side _ _ => true

/-- The home clusters of a virtual device that are usable under a retirement map, in increasing module number (R45, R446). -/
def homesUnder (us : List RetireUnit) (v : VDev) : List Home :=
  ((VdShape.roods v.shape).flatMap fun n =>
    ((List.range 8).map fun i => (⟨8 * n + i, VdShape.sideNum v.shape⟩ : Home))).filter
      fun h => !clusterGone us h.cluster

/-- Those usable now. -/
def vdHomes (s : State) (v : VDev) : List Home := homesUnder s.nv.retired v

/-- The retirement map that a launch's %vcluster values follow: the one in force when its first workgroup was placed
(R446). -/
def launchMap (s : State) (l : Launch) : List RetireUnit := if l.placed = 0 then s.nv.retired else l.retired

/-- %vcluster of a cluster for a launch (R45, R446). -/
def vclusterOf (s : State) (l : Launch) (v : VDev) (c : Nat) : Nat :=
  ((homesUnder (launchMap s l) v).filter fun h => decide (h.cluster < c)).length

/-- The cores of a home (R249). -/
def homeCores (split : Bool) (side : Nat) : List Nat :=
  if split then (if side = 0 then [0, 1] else [2, 3]) else [0, 1, 2, 3]

/-- The slice of rood n that serves index k, past retired ones (R314, R446). -/
def liveSlice (s : State) (n k : Nat) : Nat :=
  match [0, 1, 2, 3].find? fun j => !s.nv.retired.contains (.slice (4 * n + (k + j) % 4)) with
  | some j => 4 * n + (k + j) % 4
  | none => 4 * n + k

/-- Home slice of a physical address, for a virtual device whose lowest rood is n0 (R314). -/
def homeSlice (s : State) (n0 pa : Nat) : Nat :=
  let k := field pa 8 7 ^^^ field pa 22 21
  if pa < 2 ^ 39 then liveSlice s (pa / 2 ^ 35) k else liveSlice s n0 k

/-- Bytes of device memory a channel group still offers (R314, R446): 24 GiB less 1.5 GiB a retired channel. -/
def groupBytes (s : State) (n : Nat) : Nat :=
  let gone := (s.nv.retired.filter fun u => match u with | .channel g _ => decide (g = n) | _ => false).length
  24 * 2 ^ 30 - gone * (3 * 2 ^ 29)

/-- A device-memory address that exists (R314). -/
def deviceAddress (s : State) (pa : Nat) : Bool :=
  decide (pa < 2 ^ 39) && decide (pa % 2 ^ 35 < groupBytes s (pa / 2 ^ 35))

end Sys2Proof.Machine
end

