-- ==== Sys2Proof/Machine/Ops.lean ====
section
/-! DEFINITION. The shared operations over the state: looking things up, device memory through a context's tables,
ending a segment, waking records, taking a trap and leaving the trap handler, kills, and the one engine that carries an
instruction over the active threads of its gang. -/
namespace Sys2Proof.Machine

/-! ### Looking up and updating -/

def findWg (s : State) (id : Nat) : Option Workgroup := s.wgs.find? fun g => decide (g.id = id)
def findLaunch (s : State) (id : Nat) : Option Launch := s.launches.find? fun l => decide (l.id = id)
def findCtx (s : State) (id : Nat) : Option Context := s.contexts.find? fun c => decide (c.id = id)
def findVd (s : State) (n : Nat) : Option VDev := s.vds.find? fun v => decide (v.num = n)
def findTenant (s : State) (c : Nat) : Option Tenant := s.tenants.find? fun t => decide (t.charter = c)
def findModule (s : State) (h : Nat) : Option Module := s.modules.find? fun m => decide (m.handle = h)
def findQueue (s : State) (ctx n : Nat) : Option Queue :=
  s.queues.find? fun q => decide (q.ctx = ctx) && decide (q.num = n)
def findGrant (s : State) (h : Nat) : Option Grant := s.grants.find? fun g => decide (g.handle = h)
def findReq (s : State) (id : Nat) : Option Req := s.reqs.find? fun r => decide (r.id = id)
def findCmd (s : State) (id : Nat) : Option Cmd := s.cmds.find? fun c => decide (c.id = id)
def findRecord (s : State) (id : Nat) : Option Record := s.records.find? fun r => decide (r.id = id)
def findSlot (s : State) (k : SlotKey) : Option Slot := s.slots.find? fun x => decide (x.key = k)
def findSeat (s : State) (k : SeatKey) : Option Thread := s.threads.find? fun t => decide (t.seat = k)
def findThread (s : State) (wg tid : Nat) : Option Thread :=
  s.threads.find? fun t => decide (t.wg = wg) && decide (t.tid = tid)

def updWg (s : State) (id : Nat) (f : Workgroup → Workgroup) : State :=
  { s with wgs := updWhere (fun g => decide (g.id = id)) f s.wgs }
def updLaunch (s : State) (id : Nat) (f : Launch → Launch) : State :=
  { s with launches := updWhere (fun l => decide (l.id = id)) f s.launches }
def updCtx (s : State) (id : Nat) (f : Context → Context) : State :=
  { s with contexts := updWhere (fun c => decide (c.id = id)) f s.contexts }
def updVd (s : State) (n : Nat) (f : VDev → VDev) : State :=
  { s with vds := updWhere (fun v => decide (v.num = n)) f s.vds }
def updTenant (s : State) (c : Nat) (f : Tenant → Tenant) : State :=
  { s with tenants := updWhere (fun t => decide (t.charter = c)) f s.tenants }
def updQueue (s : State) (ctx n : Nat) (f : Queue → Queue) : State :=
  { s with queues := updWhere (fun q => decide (q.ctx = ctx) && decide (q.num = n)) f s.queues }
def updReq (s : State) (id : Nat) (f : Req → Req) : State :=
  { s with reqs := updWhere (fun r => decide (r.id = id)) f s.reqs }
def updCmd (s : State) (id : Nat) (f : Cmd → Cmd) : State :=
  { s with cmds := updWhere (fun c => decide (c.id = id)) f s.cmds }
def updRecord (s : State) (id : Nat) (f : Record → Record) : State :=
  { s with records := updWhere (fun r => decide (r.id = id)) f s.records }
def updSlot (s : State) (k : SlotKey) (f : Slot → Slot) : State :=
  { s with slots := updWhere (fun x => decide (x.key = k)) f s.slots }
def updThread (s : State) (wg tid : Nat) (f : Thread → Thread) : State :=
  { s with threads := updWhere (fun t => decide (t.wg = wg) && decide (t.tid = tid)) f s.threads }

/-- Change every thread, or workgroup, that satisfies a test. -/
def updThreads (s : State) (p : Thread → Bool) (f : Thread → Thread) : State :=
  { s with threads := updWhere p f s.threads }
def updWgs (s : State) (p : Workgroup → Bool) (f : Workgroup → Workgroup) : State :=
  { s with wgs := updWhere p f s.wgs }

/-- Store a thread over its old self. -/
def setThread (s : State) (t : Thread) : State := updThread s t.wg t.tid fun _ => t

/-- Take a thread out of its seat; the seat is free. -/
def dropThread (s : State) (wg tid : Nat) : State :=
  { s with threads := dropWhere (fun t => decide (t.wg = wg) && decide (t.tid = tid)) s.threads }

/-- Threads are kept by cluster, core and seat, so that seat order is list order (R18). -/
def seatOrder (t : Thread) : Nat := (t.seat.cluster * 4 + t.seat.core) * 512 + t.seat.seat

/-- Seat a thread. -/
def addThread (s : State) (t : Thread) : State := { s with threads := insertByKey seatOrder t s.threads }

def dropReq (s : State) (id : Nat) : State := { s with reqs := dropWhere (fun r => decide (r.id = id)) s.reqs }

/-- Send something out. -/
def emit (s : State) (o : Out) : State := { s with out := o :: s.out }

/-- A fresh identifier (log 3). -/
def bumpId (s : State) : State := { s with nextId := s.nextId + 1 }

/-- The next free value's number is used up (log 2). -/
def bumpFree (s : State) : State := { s with freeCount := s.freeCount + 1 }

/-- The module a launch runs (R393). -/
def launchModule (s : State) (l : Launch) : Option Module := findModule s l.lr.module

/-- The native image whose code a thread runs. -/
def imageOf (s : State) (launch : Nat) : Option ModuleImage :=
  match findLaunch s launch with
  | none => none
  | some l => (launchModule s l).map Module.native

/-- The kernel of a launch (R95). -/
def kernelOf (s : State) (launch : Nat) : Option KernelDecl :=
  match findLaunch s launch, imageOf s launch with
  | some l, some img => img.kernels[l.lr.entry]?
  | _, _ => none

/-- The context of a thread's workgroup; contexts are numbered from 1 (R399). -/
def ctxOfWg (s : State) (wg : Nat) : Nat :=
  match findWg s wg with
  | some g => g.ctx
  | none => 0

/-- Position of the entry with an offset, that is, its ordinal (R98, R99). -/
def ordinalAt (stops : List StopEntry) (off : Nat) : Option Nat :=
  match stops with
  | [] => none
  | e :: es => if e.off = off then some 0 else (ordinalAt es off).map (· + 1)

/-- The ordinal of the entry at a thread's PC. -/
def ordinalOf (s : State) (t : Thread) (pc : Nat) : Option Nat :=
  match imageOf s t.launch with
  | some img => ordinalAt img.stops pc
  | none => none

/-- A safe point: the stop bit set and an entry with the offset (R80). -/
def isSafePoint (s : State) (t : Thread) (stop : Bool) : Bool := stop && (ordinalOf s t t.pc).isSome

/-- An ordinal as a word, 0xFFFF_FFFF for none (R180). -/
def ordinalWord : Option Nat → Word
  | some n => BitVec.ofNat 32 n
  | none => 0xFFFFFFFF

/-- The live mask of the safe point at a PC (R98). -/
def liveMask (s : State) (t : Thread) : BitVec 64 :=
  match imageOf s t.launch with
  | none => 0
  | some img =>
    match img.stops.find? fun e => decide (e.off = t.pc) with
    | some e => e.live
    | none => 0

/-! ### Device memory -/

/-- Write physical bytes; a 32-byte unit wholly written is no longer poisoned (R441). -/
def physWrite (s : State) (pa : Nat) (bs : List Byte) : State :=
  { s with
    mem := writeBytes s.mem pa bs
    poison := s.poison.filter fun u => !(decide (pa ≤ 32 * u) && decide (32 * u + 32 ≤ pa + bs.length)) }

/-- Poisoned 32-byte units that a range meets. -/
def poisoned (s : State) (pa n : Nat) : List Nat :=
  s.poison.filter fun u => decide (pa < 32 * u + 32) && decide (32 * u < pa + n)

/-- Physical bytes as an agent reads them: words of a poisoned unit are zero (R350). -/
def readClean (s : State) (pa n : Nat) : List Byte :=
  let us := poisoned s pa n
  if us.isEmpty then readBytes s.mem pa n
  else (List.range n).map fun i => if us.contains ((pa + i) / 32) then 0 else readByte s.mem (pa + i)

/-- The page of a context that holds an address (R408). -/
def pageFor (s : State) (ctx va : Nat) : Option Page :=
  s.pages.find? fun p => decide (p.ctx = ctx) && decide (p.va ≤ va) && decide (va < p.va + 2 ^ p.bits)

/-- Translation in the tables the device walks: present while the page is DEVICE (R412). -/
def translate (s : State) (ctx va : Nat) : Option Nat :=
  match pageFor s ctx va with
  | some p => if p.state = .device then some (p.pa + (va - p.va)) else none
  | none => none

/-- Bytes the device reads for itself through a context's tables, poisoned words as zero (R441); where nothing is mapped the
spec gives no value. -/
def vread (s : State) (ctx va n : Nat) : List Byte :=
  match translate s ctx va with
  | some pa => readClean s pa n
  | none => (List.range n).map (Config.hiddenByte va)

def vreadNat (s : State) (ctx va n : Nat) : Nat := ofBytes (vread s ctx va n)

/-- Bytes the device writes for itself through a context's tables; nothing mapped, nothing written. -/
def vwrite (s : State) (ctx va : Nat) (bs : List Byte) : State :=
  match translate s ctx va with
  | some pa => physWrite s pa bs
  | none => s

/-- Bytes through a context's tables, over at most one page boundary. -/
def vreadSplit (s : State) (ctx va n : Nat) : List Byte :=
  let n1 := min n (65536 - va % 65536)
  vread s ctx va n1 ++ (if n1 < n then vread s ctx (va + n1) (n - n1) else [])

/-- The same for a write. -/
def vwriteSplit (s : State) (ctx va : Nat) (bs : List Byte) : State :=
  let n1 := min bs.length (65536 - va % 65536)
  let s1 := vwrite s ctx va (bs.take n1)
  if n1 < bs.length then vwrite s1 ctx (va + n1) (bs.drop n1) else s1

/-- Write one entry of a ring with an index line (PROD at +0, drop count at +8, CONS at +0x40): the new state, PROD and
drop count, and whether it was written (R390, R457). -/
def ringPut (s : State) (base index rlog prod drops : Nat) (bs : List Byte) : State × Nat × Nat × Bool :=
  if (prod + 2 ^ 32 - readNat s.mem (index + 0x40) 4) % 2 ^ 32 = 2 ^ rlog then
    (physWrite s (index + 8) (toBytes 8 (drops + 1)), prod, drops + 1, false)
  else
    let s1 := physWrite s (base + bs.length * (prod % 2 ^ rlog)) bs
    (physWrite s1 index (toBytes 4 (prod + 1)), (prod + 1) % 2 ^ 32, drops, true)

/-- Add to a cluster counter of a context (R324). -/
def bumpCounter (s : State) (ctx : Nat) (h : Home) (idx n : Nat) : State :=
  updCtx s ctx fun c =>
    let hit := fun (x : Counter) =>
      decide (x.cluster = h.cluster) && decide (x.side = h.side) && decide (x.idx = idx)
    if c.counters.any hit then
      { c with counters := updWhere hit (fun x => { x with value := x.value + BitVec.ofNat 64 n }) c.counters }
    else { c with counters := ⟨h.cluster, h.side, idx, BitVec.ofNat 64 n⟩ :: c.counters }

/-- A cluster counter's value; counters start at zero (R323). -/
def counterValue (s : State) (ctx cluster side idx : Nat) : BitVec 64 :=
  match findCtx s ctx with
  | none => 0
  | some c =>
    match c.counters.find? fun x =>
      decide (x.cluster = cluster) && decide (x.side = side) && decide (x.idx = idx) with
    | some x => x.value
    | none => 0

/-! ### Trace and recording -/

/-- QNUM and HEAD at acceptance, as a trace record gives them (R459). -/
def launchTag (s : State) (launch : Nat) : Nat :=
  match findLaunch s launch with
  | some l => l.queue * 2 ^ 24 + l.headAt % 2 ^ 24
  | none => 0

/-- The bytes of a trace record (R459). -/
def traceBytes (clock : Nat) (ord : Word) (wgid : Nat) (parent mask : Word) (kind detail : Nat) (h : Home)
    (last : Nat) : List Byte :=
  toBytes 8 clock ++ toBytes 4 ord.toNat ++ toBytes 4 wgid ++ toBytes 4 parent.toNat ++ toBytes 4 mask.toNat ++
    toBytes 4 (kind + 256 * detail + 65536 * h.cluster + 2 ^ 23 * h.side) ++ toBytes 4 last

/-- Put a record in the context's trace ring. -/
def tracePut (s : State) (ctx : Nat) (bs : List Byte) : State :=
  match findCtx s ctx with
  | none => s
  | some c =>
    match c.trace with
    | none => s
    | some tr =>
      let r := ringPut s tr.base tr.index tr.rlog tr.prod tr.drops bs
      updCtx r.1 ctx fun c => { c with trace := some { tr with prod := r.2.1, drops := r.2.2.1 } }

/-- Append an entry to a list of a replay log, taking a new chunk when the list's chunk is full; when the area is full
the recording stops and is marked incomplete (R463, R464). -/
def logAppend (s : State) (r : Recording) (order : Bool) (ident : Nat) (bs : List Byte) : State :=
  let cap := if order then 510 else 255
  let hit := fun (x : LogList) => decide (x.order = order) && decide (x.ident = ident)
  let upd := fun (s : State) (r' : Recording) =>
    { s with recording := updWhere (fun (x : Recording) => decide (x.id = r.id)) (fun _ => r') s.recording }
  match r.lists.find? hit with
  | some l =>
    if l.inChunk < cap then
      let s1 := physWrite s (r.base + 4096 * l.chunk + 16 + bs.length * l.inChunk) bs
      let s2 := physWrite s1 (r.base + 4096 * l.chunk + 4) (toBytes 4 (l.inChunk + 1))
      upd s2 { r with lists := updWhere hit (fun l => { l with inChunk := l.inChunk + 1, count := l.count + 1 }) r.lists }
    else if r.used < r.blocks then
      let s1 := physWrite s (r.base + 4096 * l.chunk) (toBytes 4 r.used)
      let s2 := physWrite s1 (r.base + 4096 * r.used) (toBytes 4 0 ++ toBytes 4 1 ++ toBytes 8 0 ++ bs)
      upd s2 { r with
        used := r.used + 1
        lists := updWhere hit (fun l => { l with chunk := r.used, inChunk := 1, count := l.count + 1 }) r.lists }
    else upd s { r with complete := false }
  | none =>
    if r.used < r.blocks ∧ r.lists.length < 512 then
      let s1 := physWrite s (r.base + 4096 * r.used) (toBytes 4 0 ++ toBytes 4 1 ++ toBytes 8 0 ++ bs)
      upd s1 { r with used := r.used + 1, lists := r.lists ++ [⟨order, ident, r.used, r.used, 1, 1⟩] }
    else upd s { r with complete := false }

/-- Write to the log of a launch that is being recorded, while its log is complete. -/
def logFor (s : State) (launch : Nat) (order : Bool) (ident : Nat) (bs : List Byte) : State :=
  match s.recording.find? fun r => decide (r.launch = some launch) && r.complete with
  | some r => logAppend s r order ident bs
  | none => s

/-- An entry of a dispatch list (R463). -/
def logDispatch (s : State) (g : Workgroup) (ord tid kind detail passed : Nat) : State :=
  logFor s g.launch false g.vcluster
    (toBytes 4 ord ++ toBytes 4 g.wgid ++ toBytes 2 tid ++ toBytes 1 kind ++ toBytes 1 detail ++ toBytes 4 passed)

/-- An entry of the order list of a home: a slice, or 0x100 + 2c + side for a home cluster's SRAM (R463, R464). -/
def logOrder (s : State) (t : Thread) (ident : Nat) : State :=
  match findWg s t.wg with
  | none => s
  | some g =>
    updThread (logFor s g.launch true ident (toBytes 8 (g.wgid + 2 ^ 32 * t.tid + 2 ^ 44 * (t.path.syncOps % 2 ^ 20))))
      t.wg t.tid fun t => { t with path := { t.path with syncOps := t.path.syncOps + 1 } }

/-- The identity of a home cluster's SRAM in an order list (R464). -/
def sramIdent (h : Home) : Nat := 0x100 + 2 * h.cluster + h.side

/-- A synchronising operation of a thread at its home cluster's SRAM: logged, and counted in the thread (R463). -/
def sramLogged (s : State) (t : Thread) : State × Thread :=
  match findWg s t.wg with
  | none => (s, t)
  | some g =>
    (logFor s g.launch true (sramIdent g.home) (toBytes 8 (g.wgid + 2 ^ 32 * t.tid + 2 ^ 44 * (t.path.syncOps % 2 ^ 20))),
      { t with path := { t.path with syncOps := t.path.syncOps + 1 } })

/-! ### Gangs, fragments and seat bins -/

/-- The cores' bookkeeping, absent entries at zero. -/
def coreState (s : State) (k : CoreKey) : CoreState :=
  match s.cores.find? fun c => decide (c.key = k) with
  | some c => c
  | none => ⟨k, 0, 0, []⟩

def setCore (s : State) (c : CoreState) : State :=
  { s with cores := c :: dropWhere (fun x => decide (x.key = c.key)) s.cores }

/-- Resident threads of a core. -/
def coreThreads (s : State) (k : CoreKey) : List Thread :=
  s.threads.filter fun t => decide (t.seat.cluster = k.cluster) && decide (t.seat.core = k.core)

def slotCore (k : SlotKey) : CoreKey := ⟨k.cluster, k.core⟩

/-- The slot a thread issues from or waits in, or whose gang it has not yet left (R159). -/
def Thread.slot? (t : Thread) : Option SlotKey :=
  match t.place with
  | .running n => some ⟨t.seat.cluster, t.seat.core, n⟩
  | .waiting n => some ⟨t.seat.cluster, t.seat.core, n⟩
  | .ending _ (some n) => some ⟨t.seat.cluster, t.seat.core, n⟩
  | _ => none

/-- A member of the running fragment of a slot. -/
def inRunning (k : SlotKey) (t : Thread) : Bool :=
  decide (t.place = .running k.slot) && decide (t.seat.cluster = k.cluster) && decide (t.seat.core = k.core)

/-- A member of a waiting fragment of a slot. -/
def inWaiting (k : SlotKey) (t : Thread) : Bool :=
  decide (t.place = .waiting k.slot) && decide (t.seat.cluster = k.cluster) && decide (t.seat.core = k.core)

/-- A thread of a slot whose segment end or exit waits for its pending results, or its far group. -/
def inEnding (k : SlotKey) (t : Thread) : Bool :=
  (match t.place with | .ending _ (some n) => decide (n = k.slot) | _ => false) &&
    decide (t.seat.cluster = k.cluster) && decide (t.seat.core = k.core)

/-- The slot's number a thread keeps while its end waits. -/
def Thread.slotNum (t : Thread) : Option Nat := t.slot?.map SlotKey.slot

/-- An active thread: a member of the running fragment whose turn it is (R484). -/
def isActive (s : State) (t : Thread) : Bool :=
  match s.turn with
  | some k => inRunning k t
  | none => false

/-- The active threads, in seat order. -/
def actives (s : State) : List Thread := s.threads.filter (isActive s)

/-- The PCs of a core's seat bins (R162). -/
def seatBins (s : State) (k : CoreKey) : List Nat :=
  dedup (((coreThreads s k).filter fun t => decide (t.place = .binned)).map Thread.pc)

/-- File a thread under its next PC: its bin, a free bin, or the overflow queue (R162). -/
def fileThread (s : State) (t : Thread) (origin at_ : Nat) : State :=
  let bins := seatBins s ⟨t.seat.cluster, t.seat.core⟩
  let place := if bins.contains t.pc || decide (bins.length < 64) then Place.binned else Place.overflow
  setThread s { t with place := place, orig := origin, filedAt := at_ + 4096, binnedAt := s.clock }

/-- File a list of threads in seat order. -/
def fileThreads (s : State) (ts : List Thread) (origin : Nat) : State :=
  foldList (fun s t => fileThread s t origin s.clock) s ts

/-- Free a slot. -/
def freeSlot (s : State) (k : SlotKey) : State :=
  { s with slots := dropWhere (fun x => decide (x.key = k)) s.slots }

/-- Filing order, lower seat first. -/
def fileOrder (t : Thread) : Nat := t.filedAt * 512 + t.seat.seat

/-- Threads of the overflow queue go to bins that match or are free, in filing order (R162). -/
def refillBins (s : State) (c : CoreKey) : State :=
  foldList (fun s t =>
    let bins := seatBins s c
    if bins.contains t.pc || decide (bins.length < 64) then setThread s { t with place := .binned, binnedAt := s.clock }
    else s) s (sortByKey fileOrder ((coreThreads s c).filter fun t => decide (t.place = .overflow)))

/-- File every fragment of a slot and free it (R159, R162). A thread whose segment end still waits is no fragment. -/
def releaseSlot (s : State) (k : SlotKey) : State :=
  let s1 := fileThreads s (s.threads.filter fun t => inRunning k t || inWaiting k t) 1
  freeSlot (updThreads s1 (inEnding k) fun t => { t with
    place := match t.place with | .ending e _ => .ending e none | x => x }) k

/-- When each member of the running fragment has ended its segment or exited, the waiting fragment with the lowest next PC
runs, with every other one that has this PC; with none, the slot is free (R159). -/
def settleSlot (s : State) (k : SlotKey) : State :=
  if s.threads.any fun t => inRunning k t || inEnding k t then s
  else
    match minByKey Thread.pc (s.threads.filter (inWaiting k)) with
    | none => freeSlot s k
    | some t0 =>
      updThreads s (fun t => inWaiting k t && decide (t.pc = t0.pc)) fun t => { t with place := .running k.slot }

/-- Split the running fragment when its threads have reached two or more next PCs (R158). DEDUCED (log 80): of the new
fragments the one with the lowest next PC runs on; R159 keeps the slot for the running fragment, so that a fragment that
already waited is no candidate. -/
def splitSlot (s : State) (k : SlotKey) : State :=
  match minByKey Thread.pc (s.threads.filter (inRunning k)) with
  | none => s
  | some t0 =>
    if s.threads.any fun t => inRunning k t && !decide (t.pc = t0.pc) then
      updThreads s (inRunning k) fun t => { t with
        place := if t.pc = t0.pc then .running k.slot else .waiting k.slot
        fl := { t.fl with frag := true } }
    else s

/-- Bit i of a mask for the i-th member of the parent gang that satisfies a test (R180). -/
def memberMask (members : List Nat) (p : Nat → Bool) : Word :=
  BitVec.ofNat 32 (sumNat ((List.range members.length).map fun i =>
    match members[i]? with
    | some tid => if p tid then 2 ^ i else 0
    | none => 0))

/-- The slot's entry of a thread. -/
def slotOf (s : State) (t : Thread) : Option Slot :=
  match t.slot? with
  | some k => findSlot s k
  | none => none

/-- Two threads of a slot belong to one fragment: both run, both wait at one PC, or both are leaving at one instruction. -/
def sameFragment (t u : Thread) : Bool :=
  match t.place, u.place with
  | .running _, .running _ => true
  | .waiting _, .waiting _ => decide (u.pc = t.pc)
  | .ending .exit _, .ending .exit _ => decide (u.pc = t.pc)
  | _, _ => false

/-- The threads of a thread's fragment, or the thread alone where it is in no slot. -/
def fragmentOf (s : State) (t : Thread) : List Thread :=
  match t.slot? with
  | some k => s.threads.filter fun u => decide (u.slot? = some k) && (sameFragment t u || decide (u.tid = t.tid))
  | none => [t]

/-- Members of the parent gang in other fragments, not exited (R180). DESIGN CHOICE (log 114): a member whose segment has ended, in
a record or only waiting for its results, is left out; one that is filed in a seat bin counts. -/
def siblingMask (s : State) (t : Thread) : Word :=
  match slotOf s t with
  | none => 0
  | some sl =>
    memberMask sl.members fun tid =>
      match findThread s t.wg tid with
      | some u => decide (u.gang = sl.parent) && !(decide (u.slot? = t.slot?) && sameFragment t u) &&
          (match u.place with | .ending (.segment _) _ => false | _ => true)
      | none => false

/-- TIDs of the parent gang of a thread, in seat order at its draw; the thread alone where it is in no slot. -/
def gangMembers (s : State) (t : Thread) : List Nat :=
  match slotOf s t with
  | some sl => sl.members
  | none => (fragmentOf s t).map Thread.tid

/-! ### Trace events and samples (R459 to R461) -/

/-- State of a slot in a sample: empty, parked, stalled at a full queue, with a waiting fragment, or issuing (R461). -/
def slotState (s : State) (k : SlotKey) : Nat :=
  match findSlot s k with
  | none => 0
  | some x =>
    let run := s.threads.filter (inRunning k)
    if x.stall.isSome then 3
    else if run.any fun t => t.fl.park || !t.waits.isEmpty then 2
    else if s.threads.any (inWaiting k) then 4
    else 1

/-- The sample record of a slot. -/
def sampleBytes (s : State) (clock : Nat) (h : Home) (k : SlotKey) : List Byte :=
  let run := s.threads.filter (inRunning k)
  let members := match findSlot s k with | some x => x.members | none => []
  let parent := match findSlot s k with | some x => x.parent | none => Config.freeWord s.freeCount
  let wgid := match run.head?.bind fun t => findWg s t.wg with
    | some g => g.wgid
    | none => (Config.freeWord (s.freeCount + 1)).toNat
  let ord := match run.head? with | some t => ordinalWord t.path.lastStop | none => ordinalWord none
  let since := match run.head? with | some t => min t.path.since 0xFFFF | none => 0
  let mask := memberMask members fun tid => run.any fun t => decide (t.tid = tid)
  traceBytes clock ord wgid parent mask 10 (slotState s k) h (since + 2 ^ 16 * k.core + 2 ^ 18 * k.slot)

/-- One core writes its sample and goes on to its next slot. -/
def sampleCore (ctx clock : Nat) (h : Home) (s : State) (core : Nat) : State :=
  let c := coreState s ⟨h.cluster, core⟩
  let s1 := setCore s { c with sampleSlot := (c.sampleSlot + 1) % 16 }
  bumpFree (bumpFree (tracePut s1 ctx (sampleBytes s clock h ⟨h.cluster, core, c.sampleSlot⟩)))

/-- The samples of a context's next multiple of its period, in the cores of the selected clusters (R461). -/
def takeSample (s : State) (ctx : Nat) : State :=
  match findCtx s ctx with
  | none => s
  | some c =>
    match c.sample, c.trace, findVd s c.vd with
    | some n, some tr, some v =>
      let at_ := (c.sampleAt + 1) * 2 ^ n
      let cores := homeCores (VdShape.isSide v.shape) (VdShape.sideNum v.shape)
      let homes := (vdHomes s v).filter fun h => tr.clusters.getLsbD h.cluster
      let s1 := updCtx s ctx fun c => { c with sampleAt := c.sampleAt + 1 }
      foldList (fun s h => foldList (sampleCore ctx at_ h) s cores) s1 homes
    | _, _, _ => s

/-- The multiples of its period that have passed since a context's last sample. -/
def samplesDue (s : State) (ctx : Nat) : Nat :=
  match findCtx s ctx with
  | some c => match c.sample with | some n => s.clock / 2 ^ n - c.sampleAt | none => 0
  | none => 0

/-- Take the samples that are due, so that what follows them in the trace ring is later (R460). -/
def takeSamples (s : State) (ctx : Nat) : State := (List.range (samplesDue s ctx)).foldl (fun s _ => takeSample s ctx) s

/-- An event of a selected kind in a selected cluster writes a trace record (R459). -/
def traceEvent (s : State) (g : Workgroup) (kind detail : Nat) (ord parent mask : Word) : State :=
  match findCtx s g.ctx with
  | none => s
  | some c =>
    match c.trace with
    | none => s
    | some tr =>
      if tr.kinds.getLsbD kind && tr.clusters.getLsbD g.home.cluster then
        tracePut (takeSamples s g.ctx) g.ctx
          (traceBytes s.clock ord g.wgid parent mask kind detail g.home (launchTag s g.launch))
      else s

/-! ### The gang status word (R42) -/

/-- The word, with the fields of the gang filled in. -/
def gswWord (t : Thread) (nact pos : Nat) : Word :=
  BitVec.ofNat 32
    ((if t.fl.step then 2 ^ 29 else 0) + (if t.fl.assay then 2 ^ 28 else 0) + (if t.fl.frag then 2 ^ 27 else 0) +
      2 ^ 24 * t.role.toNat + 2 ^ 16 * nact + 2 ^ 11 * pos + 2 ^ 8 * t.orig)

/-- Rank of a thread among threads in seat order. -/
def rankIn (ts : List Thread) (t : Thread) : Nat := (ts.filter fun u => decide (seatOrder u < seatOrder t)).length

/-! ### Barrier objects (R200 to R202) -/

/-- The fields of a barrier object. -/
structure Bar where
  exp : Nat
  pend : Nat
  inb : Word
  outb : Word
  ph : Bool
  valid : Bool
  low : Nat
  gen : Nat
deriving DecidableEq, Repr

/-- The object in 16 bytes (R200). -/
def barOf (bs : List Byte) : Bar :=
  let x := ofBytes bs
  ⟨field x 15 0, field x 31 16, BitVec.ofNat 32 (field x 63 32), BitVec.ofNat 32 (field x 95 64),
    flag x 96, flag x 97, field x 111 98, field x 127 112⟩

def boolNat (b : Bool) : Nat := if b then 1 else 0

def barBytes (b : Bar) : List Byte :=
  toBytes 16 (b.exp + 2 ^ 16 * b.pend + 2 ^ 32 * b.inb.toNat + 2 ^ 64 * b.outb.toNat + 2 ^ 96 * boolNat b.ph +
    2 ^ 97 * boolNat b.valid + 2 ^ 98 * b.low + 2 ^ 112 * b.gen)

/-- A phase completes when V = 1, PEND = 0, IN = 0 and OUT = 0 all hold (R201). -/
def Bar.done (b : Bar) : Bool :=
  b.valid && decide (b.pend = 0) && decide (b.inb = 0) && decide (b.outb = 0)

/-- The check after every change (R201). -/
def Bar.check (b : Bar) : Bar :=
  if b.done then { b with ph := !b.ph, gen := (b.gen + 1) % 2 ^ 16, pend := b.exp } else b

/-- bar.init on an object with V = 0 and a non-zero count (R202). -/
def Bar.init (b : Bar) (x : Word) : Bar :=
  let n := x.toNat % 2 ^ 16
  Bar.check { b with exp := n, pend := n, inb := 0, outb := 0, gen := 0, valid := true, low := 0 }

/-- An arrival of weight x[15:0]; excess is discarded (R202). -/
def Bar.arrive (b : Bar) (x : Word) : Bar := Bar.check { b with pend := b.pend - x.toNat % 2 ^ 16 }

/-- Expected bytes, inbound or outbound (R202); a copy's count is the same change with its bytes negated (R218). -/
def Bar.expect (b : Bar) (out : Bool) (x : Word) : Bar :=
  Bar.check (if out then { b with outb := b.outb + x } else { b with inb := b.inb + x })

/-- bar.inval (R202). -/
def Bar.inval (b : Bar) : Bar := { b with valid := false }

/-- The scratch object of a workgroup. -/
def scratchBar (g : Workgroup) (off : Nat) : Bar := barOf (readBytes g.scratch off 16)

/-- The global object at a virtual address, as its home slice holds it. -/
def globalBar (s : State) (ctx va : Nat) : Bar := barOf (vread s ctx va 16)

/-! ### The trap entry (R353) -/

/-- The kernel has a trap entry (TRAPE, R245). -/
def trapEntryOn (s : State) (launch : Nat) : Bool :=
  match findLaunch s launch with
  | some l => l.lr.flags.getLsbD 3
  | none => false

/-- Entering the trap handler when a released record drains: v62, v63, the PC at the `.trap` label, trap state begins
(R353); an arrival mark belongs to the `bar.wait` it left (R203). A record the session released resumes at its own PC. -/
def enterTrap (s : State) (t : Thread) (e : SegEnd) : Thread :=
  match trapEntryOn s t.launch, kernelOf s t.launch with
  | true, some k =>
    { t with
      pc := k.trap.getD e.trapPc
      v := (t.v.set 62 e.trapSeq).set 63 e.trapWord
      trapState := some s.clock
      mark := none }
  | _, _ => { t with pc := e.trapPc }

/-! ### Wake conditions (R257, R258) -/

/-- Phase bits of a ring: empty and full (R204). -/
def Ring.empty (r : Ring) : Bool := decide (r.head = r.tail) && decide (r.hph = r.tph)
def Ring.full (r : Ring) : Bool := decide (r.head = r.tail) && decide (r.hph ≠ r.tph)

/-- A push counts the ring as full while its reserve is granted or occupied, too (R280). -/
def Ring.countsFull (r : Ring) : Bool := r.full || r.grant.isSome || r.reserve.isSome

def findRing (g : Workgroup) (n : Nat) : Option Ring := g.rings.find? fun r => decide (r.num = n)

/-- Whether a page that a record waits for can be used now, or has been reported a violation (R257 code 9). -/
def pageSettled (s : State) (ctx va : Nat) : Bool :=
  (translate s ctx va).isSome || s.violations.any fun x => decide (x.ctx = ctx) && decide (x.va = va / 65536 * 65536)

/-- An ingress ring of the virtual device of a context. -/
def findIngress (s : State) (ctx n : Nat) : Option Ingress :=
  match findCtx s ctx with
  | none => none
  | some c =>
    match findVd s c.vd with
    | none => none
    | some v => v.ingress.find? fun r => decide (r.num = n)

/-- The ingress ring count of a context's virtual device (R165). DEDUCED (log 83): one more than the highest number of a ring
that is set, so that every ring of the device lies below it (R390). -/
def ingressCount (s : State) (ctx : Nat) : Nat :=
  match (findCtx s ctx).bind fun c => findVd s c.vd with
  | some v => v.ingress.foldl (fun n r => max n (r.num + 1)) 0
  | none => 0

/-- PROD ≠ CONS at the home slice (R392). -/
def ingressHolds (s : State) (ctx : Nat) (r : Ingress) : Bool :=
  decide (r.prod % 2 ^ 32 ≠ vreadNat s ctx (r.desc.index + 0x40) 4)

/-- Slot N of the guard unit. -/
def guardState (g : Workgroup) (n : Nat) : GuardState := (g.guards[n]?).getD .idle

/-- Whether the wake condition of a segment end holds (R165, R257): of a trap, that the kernel has a trap entry (R352); of a
halted thread, that the session has released it (R359). -/
def wakeHolds (s : State) (t : Thread) (e : SegEnd) : Bool :=
  match findWg s t.wg with
  | none => false
  | some g =>
    match e.wake with
    | 0 => true
    | 1 =>
      let b := if e.q then globalBar s g.ctx (e.operand / 16 * 16) else scratchBar g (e.operand / 16 * 16)
      decide (b.ph ≠ flag e.operand 0) || !b.valid
    | 2 =>
      match findRing g (e.operand % 256) with
      | some r => if e.q then !r.countsFull || decide (r.grant = some t.tid) else !r.empty
      | none => true
    | 3 => t.far.isEmpty
    | 4 => match guardState g (e.operand % 16) with | .isTrue => true | .isFalse => true | _ => false
    | 5 => match findIngress s g.ctx (e.operand % 256) with
      | some r => ingressHolds s g.ctx r
      | none => decide (ingressCount s g.ctx ≤ e.operand % 256)
    | 6 => if e.q then decide (e.operand ≤ s.ptp.time) else decide (e.operand ≤ s.clock)
    | 7 => t.reply.isSome
    | 8 => decide (t.far.length < 8)
    | 9 => pageSettled s g.ctx (match t.log with | some l => l.addr.toNat | none => e.operand)
    | 10 => trapEntryOn s t.launch
    | 11 => !e.halt
    | _ => false

/-- The wake operand as the record header gives it (R259): for wake 2 the ring number and Q. DESIGN CHOICE (log 82): Q stands
in bit 8; R165 names both and no bit for Q. -/
def SegEnd.header (e : SegEnd) : Nat := if e.wake = 2 then e.operand + (if e.q then 256 else 0) else e.operand

/-! ### Ending a segment (R256, R259 to R263, R269) -/

/-- The settings in use in a context: those its launches were accepted under (R372), and those its bound queues repeat
(R369). After a reload the two may name different pages. -/
def confsOf (s : State) (ctx : Nat) : List QueueConf :=
  (s.launches.filter fun l => decide (l.ctx = ctx) && decide (l.phase ≠ .ended)).map Launch.conf ++
    (s.queues.filter fun q => decide (q.ctx = ctx) && q.bound).map Queue.conf

/-- The settings a launch was accepted under (R372). -/
def launchConf (s : State) (launch : Nat) : Option QueueConf := (findLaunch s launch).map Launch.conf

/-- Base of the record pool of a launch. -/
def poolBase (s : State) (launch : Nat) : Nat :=
  match launchConf s launch with
  | some c => c.poolBase
  | none => 0

/-- Record pool limit of a launch in slots. -/
def poolLimit (s : State) (launch : Nat) : Nat :=
  match launchConf s launch with
  | some c => c.poolLimit
  | none => 2 ^ 24

/-- Pool slots that records of the context hold, in the pool of a launch (R263). -/
def poolUsed (s : State) (launch : Nat) : List Nat :=
  let ctx := match findLaunch s launch with | some l => l.ctx | none => 0
  (s.records.filter fun r => decide (ctxOfWg s r.th.wg = ctx) && decide (poolBase s r.th.launch = poolBase s launch)).filterMap
    Record.poolSlot

/-- The pool slot a new record takes. DESIGN CHOICE (log 119): the lowest that no record holds. -/
def freePoolSlot (used : List Nat) : Nat :=
  ((List.range (used.length + 1)).find? fun n => !used.contains n).getD used.length

/-- The SIZE codes of g1 to g7, two bits each from bit 2 (R260). -/
def gszField (t : Thread) : Nat :=
  sumNat ((List.range 8).map fun n => if n = 0 then 0 else 4 ^ n * ((t.g[n]?).getD ⟨0, 0⟩).size.toNat)

/-- The thread word of a record (R260). -/
def threadWord (t : Thread) (e : SegEnd) : Nat :=
  2 ^ 28 * e.wake + 2 ^ 16 * (t.tid % 4096) + gszField t + t.role.toNat

/-- The status word of a record (R261). DESIGN CHOICE (log 120): a record with wake code 7 has EXT 2 from the coming of its reply. -/
def statusWord (r : Record) : Nat :=
  let t := r.th
  2 ^ 24 * (t.p.toNat / 2 * 2) +
    2 ^ 23 * (if r.fin.ext = 3 then 3 else if t.log.isSome then 1 else if t.reply.isSome then 2 else 0) +
    2 ^ 22 * boolNat t.handle.isSome + 2 ^ 20 * t.handle.getD 0 + 2 ^ 19 * boolNat r.held +
    2 ^ 18 * boolNat r.fin.halt + 2 ^ 17 * boolNat r.fin.ovr + 2 ^ 16 * boolNat r.fin.flt +
    2 ^ 15 * boolNat t.fl.derr + 2 ^ 14 * boolNat t.mark.isSome + 2 ^ 13 * boolNat (t.mark.getD false) +
    2 ^ 12 * boolNat (!t.late.isEmpty) + 2 ^ 11 * boolNat t.fl.step + 2 ^ 10 * boolNat t.fl.assay + 2 ^ 7 * r.origin

/-- The registers a record's body holds, in increasing number (R259). -/
def liveWords (t : Thread) (live : BitVec 64) : List Word :=
  (List.range 64).filterMap fun i => if live.getLsbD i then t.v[i]? else none

/-- The extension of a record: that of a trap, a stop by the session or a workgroup trap, else the log, else the far reply
(R43, R262, R352, R358); before the far reply has come none (log 120). -/
def extBytes (t : Thread) (e : SegEnd) : List Byte :=
  if e.ext = 3 then toBytes 4 e.trapPc ++ toBytes 4 e.trapSeq.toNat ++ toBytes 8 0
  else match t.log, t.reply with
  | some l, _ => toBytes 4 l.word.toNat ++ toBytes 4 l.off ++ toBytes 8 l.addr.toNat ++ (l.data ++ List.replicate (32 - l.data.length) 0)
  | none, some y =>
    (y.data ++ List.replicate (32 - y.data.length) 0) ++
      toBytes 4 (boolNat y.violation.isSome) ++ toBytes 4 0 ++ toBytes 8 (y.violation.getD 0)
  | none, none => []

/-- The registers a record with this end saves. -/
def endMask (s : State) (t : Thread) (e : SegEnd) : BitVec 64 :=
  if e.ext = 3 then BitVec.allOnes 64 else liveMask s t

/-- A record's bytes (R259). -/
def recordBytes (wgid : Nat) (live : BitVec 64) (r : Record) : List Byte :=
  toBytes 4 r.fin.ord.toNat ++ toBytes 4 wgid ++ toBytes 4 r.fin.parent.toNat ++ toBytes 4 r.fin.siblings.toNat ++
    toBytes 8 r.fin.header ++ toBytes 4 (threadWord r.th r.fin) ++ toBytes 4 (statusWord r) ++
    bytesOfWords (liveWords r.th live) ++ extBytes r.th r.fin

/-- Units of the record buffer a record takes (R263). -/
def recordUnits (s : State) (r : Record) : Nat :=
  ceilDiv (recordBytes 0 (endMask s r.th r.fin) r).length 32

/-- Units of a cluster's record buffer in use. -/
def bufferUse (s : State) (cluster : Nat) : Nat :=
  sumNat ((s.records.filter fun r => decide (r.th.seat.cluster = cluster) && r.inBuffer).map (recordUnits s))

/-- Key of the tenant that owns a context. -/
def imageKey (s : State) (ctx : Nat) : Nat :=
  match findCtx s ctx with
  | none => 0
  | some c => match findTenant s c.charter with | some t => t.ki | none => 0

/-- Write a record back to its pool slot, encrypted under KI (R263, R406). DESIGN CHOICE (log 119): zeros fill the rest of the slot's
384 bytes. -/
def poolWrite (s : State) (r : Record) : State :=
  match findWg s r.th.wg, r.poolSlot with
  | some g, some n =>
    match launchConf s g.launch with
    | some c =>
      let at_ := c.poolBase + 384 * n
      let plain := recordBytes g.wgid (endMask s r.th r.fin) r
      let tweak := (translate s g.ctx at_).getD at_
      vwriteSplit s g.ctx at_ (Config.encrypt (imageKey s g.ctx) tweak (plain ++ List.replicate (384 - plain.length) 0))
    | none => s
  | _, _ => s

/-- Make room: the records that have waited longest in the buffer go back to their slots, whether woken or not (R263).
Halted ones stay pinned (R358). -/
def makeRoom (s : State) (cluster need : Nat) : Nat → State
  | 0 => s
  | fuel + 1 =>
    if bufferUse s cluster + need ≤ 4096 then s
    else
      match minByKey Record.bufferedAt (s.records.filter fun r =>
        decide (r.th.seat.cluster = cluster) && r.inBuffer && r.poolSlot.isSome && !r.fin.halt) with
      | none => s
      | some r => makeRoom (updRecord (poolWrite s r) r.id fun r => { r with inBuffer := false }) cluster need fuel

/-- A buffered record has grown: the buffer makes room (R263). -/
def settleBuffer (s : State) (cluster : Nat) : State := makeRoom s cluster 0 s.records.length

/-- A record is in its cluster's buffer, which makes room for it (R263). -/
def bufferRecord (s : State) (id : Nat) : State :=
  match findRecord s id with
  | none => s
  | some r =>
    if r.inBuffer then s
    else
      let s1 := makeRoom s r.th.seat.cluster (recordUnits s r) s.records.length
      updRecord s1 id fun r => { r with inBuffer := true, bufferedAt := s.clock }

/-! ### Record bins and waking (R258, R264) -/

/-- Wake order, lower TID first (R265). -/
def wakeOrder (r : Record) : Nat := r.woken.getD 0 * 4096 + r.th.tid

/-- The key of a record's bin: side and resume ordinal (R264). -/
def recordKey (s : State) (r : Record) : Nat × Word :=
  ((match findWg s r.th.wg with | some g => g.home.side | none => 0), r.fin.ord)

/-- The records of a workgroup stand in a cluster: it is neither in an image nor on its way (R267, R428). -/
def atHome (s : State) (wg : Nat) : Bool :=
  match findWg s wg with
  | some g => match g.phase with | .imaged => false | .moving _ => false | _ => true
  | none => false

/-- Keys of the record bins of a cluster that hold a record (R264). -/
def recordBins (s : State) (cluster : Nat) : List (Nat × Word) :=
  dedup ((s.records.filter fun r => decide (r.th.seat.cluster = cluster) && r.inBin && r.woken.isSome).map (recordKey s))

/-- Records of the overflow list join bins that match or are free, in wake order (R264). -/
def refillRecordBins (s : State) (cluster : Nat) : State :=
  foldList (fun s r =>
    let bins := recordBins s cluster
    if bins.contains (recordKey s r) || decide (bins.length < 64) then updRecord s r.id fun r => { r with inBin := true }
    else s) s
    (sortByKey wakeOrder (s.records.filter fun r =>
      decide (r.th.seat.cluster = cluster) && r.woken.isSome && !r.inBin && atHome s r.th.wg))

/-- A record's wake condition has come to hold: it is read back to the buffer and joins its bin, a free bin or the overflow
list (R264). One whose workgroup is in an image or on its way only takes note. -/
def wakeRecord (s : State) (id : Nat) : State :=
  match findRecord s id with
  | none => s
  | some r =>
    if r.woken.isSome then s
    else
      let s1 := updRecord s id fun r => { r with woken := some s.clock }
      if atHome s r.th.wg then refillRecordBins (bufferRecord s1 id) r.th.seat.cluster else s1

/-- Test the records for which an event may matter (R258), oldest first. -/
def retest (s : State) (p : Record → Bool) : State :=
  foldList (fun s r => if p r && wakeHolds s r.th r.fin then wakeRecord s r.id else s) s s.records

/-- A held thread as it goes on in its seat: at the trap entry or the PC of its trap extension, else at the instruction that
blocked, its log to be replayed first (R269, R348, R353). -/
def seatResumed (s : State) (t : Thread) (e : SegEnd) : Thread :=
  let t1 := { t with fl := { t.fl with reclaim := false, dstop := false, replay := t.log.isSome && !decide (e.ext = 3) } }
  if e.ext = 3 then
    { (if e.wake = 10 then enterTrap s t1 e else { t1 with pc := e.trapPc }) with
      log := none, reply := none, path := { t.path with retired := 0 } }
  else t1

/-- Held threads whose condition holds execute their instruction again in their seats: they are filed to be drawn (R269),
but for those of a workgroup that is stopped, which become records (R421). DESIGN CHOICE (log 115): they are filed with ORIG 1 and
the cycle of the wake. -/
def retestHeld (s : State) (p : Thread → Bool) : State :=
  foldList (fun s t =>
    match t.place with
    | .held e =>
      if p t && wakeHolds s t e && (match findWg s t.wg with | some g => decide (g.stop = .none) | none => false) then
        fileThread s (seatResumed s t e) 1 s.clock
      else s
    | _ => s) s s.threads

/-- An event of a workgroup's guard slots, rings, barriers or ingress: its records and held threads are tested. -/
def retestWg (s : State) (wg code : Nat) : State :=
  retestHeld (retest s fun r => decide (r.th.wg = wg) && decide (r.fin.wake = code)) fun t => decide (t.wg = wg)

/-- An event a whole context may wait for. -/
def retestCtx (s : State) (ctx code : Nat) : State :=
  retestHeld (retest s fun r => decide (ctxOfWg s r.th.wg = ctx) && decide (r.fin.wake = code))
    fun t => decide (ctxOfWg s t.wg = ctx)

/-- Wake the oldest record that waits on a ring, for an entry or a free entry (R205). -/
def wakeOldest (s : State) (wg ring : Nat) (q : Bool) : State :=
  let waits := s.records.filter fun r =>
    decide (r.th.wg = wg) && decide (r.fin.wake = 2) && decide (r.fin.operand % 256 = ring) &&
      decide (r.fin.q = q) && r.woken.isNone
  let s1 := match minByKey Record.since waits with
    | some r => wakeRecord s r.id
    | none => s
  retestHeld s1 fun t => decide (t.wg = wg)

/-- The registers that a drain restores: the others read zero (R47). -/
def maskRegs (live : BitVec 64) (v : Vector Word 64) : Vector Word 64 :=
  Vector.ofFn fun i => if live.getLsbD i.val then v[i] else 0

/-- Free the handles that no thread and no record holds (R233). -/
def freeHandles (s : State) (wg : Nat) : State :=
  updWg s wg fun g => { g with handles := g.handles.filter fun h =>
    (s.threads.any fun t => decide (t.wg = wg) && decide (t.handle = some h.idx)) ||
      (s.records.any fun r => decide (r.th.wg = wg) && decide (r.th.handle = some h.idx)) }

/-- The state a record keeps of a thread: registers outside the body read zero (R47); a record with the trap extension
holds no log and no far reply (R259). -/
def recordThread (s : State) (t : Thread) (e : SegEnd) : Thread :=
  { t with
    v := maskRegs (endMask s t e) t.v
    place := .binned
    waits := []
    log := if e.ext = 3 then none else t.log
    reply := if e.ext = 3 then none else t.reply
    fl := { t.fl with park := false, reclaim := false, replay := t.fl.replay && !decide (e.ext = 3) } }

/-- Write the record of a thread whose segment ends, and test its wake condition once (R256, R258). A record that carries a
log is a fault record, whatever ended the segment: only such a one restores it (R47). -/
def writeRecord (s : State) (t : Thread) (e : SegEnd) (held slotless : Bool) : State :=
  match findWg s t.wg with
  | none => dropThread s t.wg t.tid
  | some g =>
    let th := recordThread s t e
    let flt := e.flt || t.farFault.isSome || th.log.isSome
    let slot := if slotless then none else some (freePoolSlot (poolUsed s t.launch))
    let r : Record := ⟨s.nextId, th, { e with flt := flt }, held, 2, none, s.clock, false, true, slot, false, s.clock⟩
    let s1 := makeRoom (dropThread s t.wg t.tid) t.seat.cluster (recordUnits s r) s.records.length
    let s2 := bumpId { s1 with records := s1.records ++ [r] }
    let s4 := logDispatch s2 g e.ord.toNat t.tid 3 e.wake t.path.passed
    if wakeHolds s4 th r.fin then wakeRecord s4 r.id else s4

/-- The pool holds as many records as its limit (R269). -/
def poolFull (s : State) (launch : Nat) : Bool := decide (poolLimit s launch ≤ (poolUsed s launch).length)

/-- Whether a thread of the context is held in the cluster (R269). -/
def responseHolds (s : State) (ctx cluster : Nat) : Bool :=
  s.threads.any fun t => decide (t.seat.cluster = cluster) && decide (ctxOfWg s t.wg = ctx) &&
    (match t.place with | .held _ => true | _ => false)

/-- Hold a thread in its seat under the pool-exhausted response; its wake condition is tested (R258, R269). -/
def holdThread (s : State) (t : Thread) (e : SegEnd) : State :=
  let ctx := ctxOfWg s t.wg
  let s1 :=
    if responseHolds s ctx t.seat.cluster then s
    else emit (updLaunch s t.launch fun l => { l with counts := { l.counts with poolEvents := satAdd32 l.counts.poolEvents 1 } })
      (.log (.poolExhausted ctx t.seat.cluster))
  let s2 := bumpId (setThread s1 { t with place := .held e, filedAt := s1.nextId, fl := { t.fl with reclaim := false } })
  let s3 := match findWg s2 t.wg with
    | some g => traceEvent s2 g 8 0 e.ord e.parent (memberMask (gangMembers s t) fun tid => decide (tid = t.tid))
    | none => s2
  retestHeld s3 fun u => decide (u.wg = t.wg) && decide (u.tid = t.tid)

/-- A workgroup is not stopped. -/
def wgGoes (s : State) (wg : Nat) : Bool :=
  match findWg s wg with
  | some g => decide (g.stop = .none)
  | none => false

/-- Free pool slots go to the held records of a context that have none, then to its held threads, each in the order of
holding (R269, R421). -/
def releaseHeld (s : State) (ctx : Nat) : Nat → State
  | 0 => s
  | fuel + 1 =>
    let bare := s.records.filter fun r => decide (ctxOfWg s r.th.wg = ctx) && r.held && r.poolSlot.isNone &&
      !poolFull s r.th.launch && wgGoes s r.th.wg
    let held := s.threads.filter fun t => decide (ctxOfWg s t.wg = ctx) && !poolFull s t.launch && wgGoes s t.wg &&
      (match t.place with | .held _ => true | _ => false)
    match minByKey (fun r => r.th.filedAt) bare, minByKey Thread.filedAt held with
    | some r, _ =>
      releaseHeld (updRecord s r.id fun q => { q with poolSlot := some (freePoolSlot (poolUsed s r.th.launch)) }) ctx fuel
    | none, some t =>
      match t.place with
      | .held e => releaseHeld (writeRecord s t e true false) ctx fuel
      | _ => s
    | none, none => s

/-- End a thread's segment: once its pending results are written, a record, or a held seat when the pool is full. -/
def endSegment (s : State) (t : Thread) (e : SegEnd) : State :=
  if !t.pend.isEmpty then
    setThread s { t with place := .ending (.segment e) t.slotNum, fl := { t.fl with park := false } }
  else if poolFull s t.launch then holdThread s t e
  else writeRecord s t e false false

/-- The end of a segment at a safe point: resumes at the thread's PC. -/
def endAt (s : State) (t : Thread) (wake operand : Nat) (q : Bool) : SegEnd :=
  { wake := wake, operand := operand, ext := 0, ord := ordinalWord (ordinalOf s t t.pc), parent := t.gang,
    siblings := siblingMask s t, trapPc := 0, trapSeq := 0, trapWord := 0, q := q, flt := decide (wake = 9),
    halt := false, ovr := false }

/-- Commands that a workgroup's exit or kill leaves unbound under its guard slots (R39). -/
def unboundOf (s : State) (wg : Nat) : List Cmd :=
  s.cmds.filter fun c => decide (c.wg = wg) && decide (c.gd ≠ 0) && c.bound.isNone && decide (c.state = .queued)

/-- Count discarded commands of a workgroup (R281). -/
def countDiscard (s : State) (wg n : Nat) : State :=
  updWg s wg fun g => { g with counts := { g.counts with gdiscard := satAdd32 g.counts.gdiscard n } }

/-- The walker has created every block of a workgroup (R252). -/
def allCreated (g : Workgroup) : Bool := decide (g.cover.kept + g.cover.samples.length ≤ 32 * g.blocks)

/-- When the last thread of a workgroup has exited, its unbound commands are discarded and counted (R39, R167). -/
def discardAtLast (s : State) (wg : Nat) : State :=
  let gone := !(s.threads.any fun t => decide (t.wg = wg)) && !(s.records.any fun r => decide (r.th.wg = wg))
  match findWg s wg with
  | none => s
  | some g =>
    if gone && allCreated g then
      let dead := (unboundOf s wg).map Cmd.id
      countDiscard { s with cmds := s.cmds.filter fun c => !dead.contains c.id } wg dead.length
    else s

/-- A thread leaves for good: its registers are discarded, its seat is free, it is in no subgroup (R167). -/
def leaveThread (s : State) (t : Thread) : State :=
  let s1 := dropThread s t.wg t.tid
  let s2 := updWg s1 t.wg fun g => { g with exited := t.tid :: g.exited }
  discardAtLast (freeHandles s2 t.wg) t.wg

/-- `exit`: at once when nothing is outstanding, else when the pending results are written and the far group is empty
(R167). -/
def beginExit (s : State) (t : Thread) : State :=
  if t.pend.isEmpty && t.far.isEmpty then leaveThread s t
  else setThread s { t with place := .ending .exit t.slotNum, fl := { t.fl with park := false } }

/-! ### Kills (R357) -/

/-- Images go: the places where they lay are free, and zero. -/
def dropImages (s : State) (p : Image → Bool) : State :=
  { s with
    mem := (s.images.filter p).foldl (fun m x => clearRange m x.addr x.bytes.length) s.mem
    images := s.images.filter fun x => !p x }

/-- A copy job has a piece that has begun and not landed everywhere. -/
def pieceOpen (c : Cmd) : Bool := c.pieces.any fun p => !p.done && p.data.isSome

/-- A command of a killed workgroup: a running copy job stops after its current pieces, its follow-on and the pieces not begun
are gone (R357). -/
def killedCmd (c : Cmd) : Cmd :=
  { c with
    kind := match c.kind with | .copy k card _ => .copy k card false | x => x
    pieces := c.pieces.map fun p => if p.data.isSome then p else { p with data := some [], done := true }
    reserve := [], kept := [], stopped := none, waitPage := none }

/-- A running copy job with a piece under way outlives a kill until that piece has landed (R357). -/
def outlivesKill (c : Cmd) : Bool :=
  pieceOpen c && (match c.kind, c.state with | .copy _ _ _, .running _ => true | _, _ => false)

/-- A sample of a killed workgroup that is neither compared nor dropped is dropped (R342). -/
def killSample (x : Sample) : Sample := if x.done then x else { x with dropped := true }

/-- Samples of the workgroups of a launch that a kill reaches, neither compared nor dropped (R342). -/
def openSamples (s : State) (launch : Nat) : Nat :=
  sumNat ((s.wgs.filter fun g => decide (g.launch = launch) && !decide (g.phase = .ended)).map fun g =>
    (g.cover.samples.filter fun x => !x.done && !x.dropped).length)

/-- Kill the workgroups of a launch (R357): threads, records, commands, dirty sectors and handles go. A workgroup in an image has
no home, so no L1 (R424). -/
def killWgs (s : State) (launch : Nat) : State :=
  let ids := (s.wgs.filter fun g => decide (g.launch = launch) && !decide (g.phase = .ended)).map Workgroup.id
  let homes := (s.wgs.filter fun g => ids.contains g.id && !decide (g.phase = .imaged)).map Workgroup.home
  let kept := fun (c : Cmd) => !ids.contains c.wg || outlivesKill c
  let s1 := foldList (fun s id => countDiscard s id (unboundOf s id).length) s ids
  let keys := (s1.threads.filter fun t => ids.contains t.wg).filterMap Thread.slot?
  let s2 := { s1 with
    threads := s1.threads.filter fun t => !ids.contains t.wg
    records := s1.records.filter fun r => !ids.contains r.th.wg
    cmds := (s1.cmds.filter kept).map fun c => if ids.contains c.wg then killedCmd c else c
    chains := s1.chains.filter fun p => !(s1.cmds.any fun c => decide (c.id = p.cmd) && (!kept c ||
      (ids.contains c.wg && match c.pieces[p.piece]? with | some x => x.data.isNone | none => true)))
    slots := s1.slots.filter fun x => !keys.contains x.key
    l1 := s1.l1.filter fun l => !(homes.contains l.home && decide (l.mask ≠ 0)) }
  let s3 := foldList refillBins s2 (dedup ((s1.threads.filter fun t => ids.contains t.wg).map fun t =>
    (⟨t.seat.cluster, t.seat.core⟩ : CoreKey)))
  let s4 := foldList refillRecordBins s3 (dedup (homes.map Home.cluster))
  let s5 := dropImages s4 fun x => match x.wg with | some g => ids.contains g | none => false
  let s6 := updWgs s5 (fun g => decide (g.launch = launch)) fun g => { g with scratch := [] }
  updWgs s6 (fun g => ids.contains g.id) fun g => { g with
    phase := .ended
    heldTraps := []
    lateTraps := []
    handles := []
    probes := []
    tiles := []
    rowNan := []
    btier := []
    cover := { g.cover with counted := true, freed := true, dead := true, samples := g.cover.samples.map killSample } }

/-- Kill a launch with a status; the first one is kept (R357, R168). -/
def killLaunch (s : State) (launch status : Nat) (code : Word) : State :=
  match findLaunch s launch with
  | none => s
  | some l =>
    if l.killed.isSome || decide (l.phase = .ended) then s
    else
      let s1 := updLaunch s launch fun l => { l with
        killed := some status
        abortCode := code
        counts := { l.counts with
          heldDiscarded := l.heldPackets.length
          dropped := satAdd32 l.counts.dropped (openSamples s launch) }
        heldPackets := [] }
      let s2 := killWgs s1 launch
      releaseHeld s2 l.ctx s2.threads.length

/-- Kill every launch of a context (R270, R354, R357). -/
def killCtx (s : State) (ctx status : Nat) : State :=
  foldList (fun s l => if l.ctx = ctx then killLaunch s l.id status 0 else s) s s.launches

/-! ### Taking a trap (R179 to R182, R351 to R353) -/

/-- The bytes of a trap record (R180). -/
def trapBytes (cause code : Nat) (ord : Word) (since wgid : Nat) (seq parent fmask amask smask gsw : Word) (clock : Nat)
    (word : BitVec 32) (cluster : Nat) (detail : BitVec 64) : List Byte :=
  toBytes 4 (cause + 256 * code) ++ toBytes 4 ord.toNat ++ toBytes 4 since ++ toBytes 4 wgid ++ toBytes 4 seq.toNat ++
    toBytes 4 parent.toNat ++ toBytes 4 fmask.toNat ++ toBytes 4 amask.toNat ++ toBytes 4 smask.toNat ++
    toBytes 4 gsw.toNat ++ toBytes 8 clock ++ toBytes 4 word.toNat ++ toBytes 4 cluster ++ toBytes 8 detail.toNat

/-- Write a trap record to its slot of the context's trap bin, count it and take the next sequence number (R351). -/
def writeTrap (s : State) (g : Workgroup) (bs : List Byte) : State :=
  let seq := match findCtx s g.ctx with | some c => c.trapSeq | none => 0
  let s1 := match launchConf s g.launch with
    | some c => vwrite s g.ctx (c.trapBase + 64 * (seq.toNat % 2 ^ c.trapLog)) bs
    | none => s
  updLaunch (updCtx s1 g.ctx fun c => { c with trapSeq := c.trapSeq + 1 }) g.launch
    fun l => { l with counts := { l.counts with trapRecords := satAdd32 l.counts.trapRecords 1 } }

/-- A debug session is attached to the context. -/
def sessionOn (s : State) (ctx : Nat) : Bool :=
  match findCtx s ctx with
  | some c => c.session
  | none => false

/-- Dispatch the records written for a trap (R352): released to the trap entry, left to the session, or the launch is
killed; a trap in trap state kills it at once (R353). -/
def dispatchTrap (s : State) (g : Workgroup) (seq : Word) (inTrap : Bool) : State :=
  if inTrap then killLaunch s g.launch 8 0
  else if trapEntryOn s g.launch then
    foldList (fun s r =>
      if r.th.wg = g.id ∧ r.fin.wake = 10 ∧ r.fin.trapSeq = seq then wakeRecord s r.id else s) s s.records
  else if sessionOn s g.ctx then s
  else killLaunch s g.launch 7 0

/-- The pairs of a gang, in seat order at its draw, that hold a member of the thread's fragment: a pass visits them one a
cycle (R255). Of each, its number. -/
def passPairs (s : State) (t : Thread) : List Nat :=
  let ms := gangMembers s t
  let frag := (fragmentOf s t).map Thread.tid
  (List.range ((ms.length + 1) / 2)).filter fun j => ((ms.drop (2 * j)).take 2).any fun tid => frag.contains tid

/-- The cycle of the pass in which an instruction issues for a thread (R127, R255). -/
def pairRank (s : State) (t : Thread) : Nat :=
  let own := (gangMembers s t).findIdx (fun tid => decide (tid = t.tid)) / 2
  ((passPairs s t).filter fun j => decide (j < own)).length

/-- Nanoseconds gained in the first n cycles from a cycle on (R46). -/
def ptpGain (clock : Nat) : Nat → Nat
  | 0 => 0
  | n + 1 => ptpGain clock n + (if Config.ptpTick (clock + n) then 1 else 0)

/-- The IEEE 1588 time some cycles into the step; before its first lock the clock stands. -/
def ptpAfter (s : State) (n : Nat) : Nat := s.ptp.time + if s.ptp.everLocked then ptpGain s.clock n else 0

/-- The trace record of threads whose segments end together at one instruction with one wake code, at an ordinal (R459). A thread
that waits for its results has its record when its segment ends, and one that is held has none (R269). -/
def traceEndsAt (s : State) (ts : List Thread) (wake : Nat) (ord : Word) : State :=
  match ts with
  | [] => s
  | t0 :: _ =>
    let ended := (ts.filter fun t => t.pend.isEmpty).take (poolLimit s t0.launch - (poolUsed s t0.launch).length)
    match findWg s t0.wg, ended.isEmpty with
    | some g, false =>
      traceEvent s g 1 wake ord t0.gang (memberMask (gangMembers s t0) fun tid => ended.any fun u => decide (u.tid = tid))
    | _, _ => s

/-- The same at the safe point where they stand. -/
def traceEnds (s : State) (ts : List Thread) (wake : Nat) : State :=
  match ts with
  | [] => s
  | t0 :: _ => traceEndsAt s ts wake (ordinalWord (ordinalOf s t0 t0.pc))

/-- The fields of a trap record that a trap of threads of one fragment fixes when it is taken (R180). -/
def trapOf (s : State) (t0 : Thread) (affected : List Thread) (cause code : Nat) (detail : BitVec 64) (word : BitVec 32) :
    HeldTrap :=
  let frag := fragmentOf s t0
  let members := gangMembers s t0
  { cause := cause, code := code, detail := detail, word := word, ord := ordinalWord t0.path.lastStop
    since := t0.path.since, parent := t0.gang
    fmask := memberMask members fun tid => frag.any fun u => decide (u.tid = tid)
    amask := memberMask members fun tid => affected.any fun u => decide (u.tid = tid)
    smask := siblingMask s t0, gsw := gswWord t0 frag.length (rankIn frag t0), clock := s.clock
    tids := affected.map Thread.tid, inTrap := affected.any fun t => t.trapState.isSome }

/-- The next trap sequence number of a context (R180). -/
def nextSeq (s : State) (ctx : Nat) : Word :=
  match findCtx s ctx with
  | some c => c.trapSeq
  | none => 0

/-- Write the record of a trap; offset 0x34 names the home cluster at this moment (R180). -/
def putTrap (s : State) (g : Workgroup) (x : HeldTrap) : State :=
  writeTrap s g (trapBytes x.cause x.code x.ord x.since g.wgid (nextSeq s g.ctx) x.parent x.fmask x.amask x.smask x.gsw
    x.clock x.word g.home.cluster x.detail)

/-- The end of a segment by a trap (R182, R262, R352); a STEP trap halts the thread (R359). -/
def trapEnd (s : State) (t : Thread) (x : HeldTrap) (seq : Word) : SegEnd :=
  let stepTrap := decide (x.cause = 7)
  { wake := if stepTrap then 11 else 10, operand := 0, ext := 3, ord := ordinalWord t.path.lastStop,
    parent := t.gang, siblings := siblingMask s t, trapPc := t.pc, trapSeq := seq,
    trapWord := BitVec.ofNat 32 (x.cause + 256 * x.code), q := false, flt := true, halt := stepTrap,
    ovr := decide (x.cause = 11) }

/-- TAKING A TRAP, the one operation of every thread-scope trap: one record of 64 bytes for the issue, in the trap bin,
before the records of the threads; each affected thread's segment ends with its state as it stood before the trapping
instruction, its PC at that instruction; then R352. A STEP trap goes to the session and halts the thread (R359). While the
workgroup is stopped the record waits for the stop's end, and so does what R352 does (R480). -/
def takeTrap (s : State) (affected : List Thread) (cause code : Nat) (detail : BitVec 64) (word : BitVec 32) : State :=
  match affected with
  | [] => s
  | t0 :: _ =>
    match findWg s t0.wg with
    | none => s
    | some g =>
      let x := trapOf s t0 affected cause code detail word
      let seq := nextSeq s g.ctx
      let stepTrap := decide (cause = 7)
      let s0 := if g.stop = .none then putTrap s g x else updWg s g.id fun g => { g with heldTraps := g.heldTraps ++ [x] }
      let s1 := traceEvent s0 g 3 cause x.ord t0.gang x.amask
      let s1 := if stepTrap then traceEvent s1 g 4 0 x.ord t0.gang x.amask else s1
      let s1 := traceEndsAt s1 affected (if stepTrap then 11 else 10) x.ord
      let s2 := foldList (fun s t =>
        endSegment s { t with fl := { t.fl with step := t.fl.step && !stepTrap } } (trapEnd s t x seq)) s1 affected
      let s3 := if stepTrap then
          emit s2 (.stop g.ctx (t0.path.lastStop.getD 0xFFFFFFFF) g.wgid (affected.map Thread.tid))
        else if g.stop = .none then dispatchTrap s2 g seq x.inTrap
        else s2
      match t0.slot? with
      | some k => settleSlot s3 k
      | none => s3

/-- Give a segment end the sequence number of its trap record. -/
def numberEnd (seq : Word) (e : SegEnd) : SegEnd := if e.ext = 3 then { e with trapSeq := seq } else e

/-- The number of a trap record reaches the records, or the ends still to come, of its threads. -/
def numberTrap (s : State) (wg : Nat) (tids : List Nat) (seq : Word) : State :=
  { s with
    records := s.records.map fun r =>
      if r.th.wg = wg ∧ tids.contains r.th.tid = true then { r with fin := numberEnd seq r.fin } else r
    threads := s.threads.map fun t =>
      if t.wg = wg ∧ tids.contains t.tid = true then
        { t with place := match t.place with
          | .held e => .held (numberEnd seq e)
          | .ending (.segment e) k => .ending (.segment (numberEnd seq e)) k
          | p => p }
      else t }

/-- A trap of a stopped workgroup is written at the stop's end, and then dispatched (R352, R480). -/
def releaseTrap (wg : Nat) (s : State) (x : HeldTrap) : State :=
  match findWg s wg with
  | none => s
  | some g =>
    let seq := nextSeq s g.ctx
    let s1 := numberTrap (putTrap s g x) wg x.tids seq
    if x.cause = 7 then s1 else dispatchTrap s1 g seq x.inTrap

/-- A trap of workgroup scope: masks, parent and thread fields zero (R180). The state and its sequence number. -/
def workgroupTrap (s : State) (g : Workgroup) (cause : Nat) (detail : BitVec 64) (word : BitVec 32) : State × Word :=
  let seq := nextSeq s g.ctx
  (traceEvent (writeTrap s g (trapBytes cause 0 0xFFFFFFFF 0 g.wgid seq 0 0 0 0 0 s.clock word g.home.cluster detail))
    g 3 cause 0xFFFFFFFF 0 0, seq)

/-- Leaving trap state, by `exit`, `abort`, `jmp`, `call` or `ret` (R353). -/
def leaveTrap (t : Thread) : Thread := { t with trapState := none }

/-! ### The mutable half (R371) -/

/-- Store a queue; the device writes its mutable half, the reserved bytes as zero (R16). -/
def setQueue (s : State) (q : Queue) : State :=
  vwrite (updQueue s q.ctx q.num fun _ => q) q.ctx (q.qcb + 0x80)
    (toBytes 4 q.tail ++ toBytes 4 q.head ++ toBytes 4 q.done ++
      toBytes 4 (boolNat q.bound + 2 * boolNat q.frozen + 4 * boolNat q.run) ++ toBytes 4 q.hwr ++ toBytes 4 q.hrd ++
      toBytes 4 q.irqs ++ toBytes 4 q.refused ++ toBytes 4 q.cover.toNat ++ List.replicate 92 0)

/-- Change a queue, if it is there. -/
def withQueue (s : State) (ctx q : Nat) (f : Queue → Queue) : State :=
  match findQueue s ctx q with
  | some x => setQueue s (f x)
  | none => s

/-! ### Stops of a workgroup and of a whole context (R419, R420) -/

/-- The stop reaches a workgroup (R420); the trace record says why (R459). -/
def stopWg (why : Nat) (s : State) (id : Nat) : State :=
  match findWg s id with
  | none => s
  | some g =>
    if g.stop = .none ∧ (g.phase = .running ∨ g.phase = .placed) then
      traceEvent (updWg s id fun g => { g with stop := .stopping s.clock }) g 5 why 0xFFFFFFFF 0 0
    else s

/-- A stop of a context begins: it reaches every home (R420). -/
def stopCtx (why : StopWhy) (s : State) (ctx : Nat) : State :=
  match findCtx s ctx with
  | none => s
  | some c =>
    if c.stop = .none then
      foldList (stopWg 0) (updCtx s ctx fun c => { c with stop := .stopping why s.clock })
        ((s.wgs.filter fun g => decide (g.ctx = ctx)).map Workgroup.id)
    else s

/-- Freeze a queue (R372, R418). -/
def freezeQueue (s : State) (ctx q : Nat) : State :=
  emit (withQueue s ctx q fun x => { x with frozen := true }) (.log (.frozen (.queue q) ctx))

/-- Freeze a context (R418, R419). -/
def freezeCtx (s : State) (ctx : Nat) : State :=
  match findCtx s ctx with
  | none => s
  | some c =>
    if c.frozen then s
    else stopCtx .freeze (emit (updCtx s ctx fun c => { c with frozen := true }) (.log (.frozen .context ctx))) ctx

/-! ### Stores the Notary forbids (R368, R409, R418) -/

/-- The bound queue of a context one of whose control block's bytes lies in a range, by its own address or by any other that
is mapped to it (R368). -/
def qcbAt (s : State) (ctx va pa n : Nat) : Option Queue :=
  s.queues.find? fun q => decide (q.ctx = ctx) && q.bound &&
    ((decide (q.qcb < va + n) && decide (va < q.qcb + 256)) ||
      match translate s ctx q.qcb with
      | some b => decide (b < pa + n) && decide (pa < b + 256)
      | none => false)

/-- A physical address lies in the frames of a mapping list in force. -/
def inMapList (s : State) (ctx pa : Nat) : Bool :=
  s.lists.any fun l => decide (l.ctx = ctx) && decide (l.pa / 65536 ≤ pa / 65536) &&
    decide (pa / 65536 ≤ (l.pa + 48 * l.count - 1) / 65536)

/-- A store or atomic of a thread that meets a control block or a mapping list: what it freezes (R372, R418). -/
def freezeFor (s : State) (ctx va n pa : Nat) : Option State :=
  match qcbAt s ctx va pa n with
  | some q => some (if q.frozen then s else freezeQueue s ctx q.num)
  | none => if inMapList s ctx pa then some (freezeCtx s ctx) else none

/-- A physical address lies in a frame that a context and its tenant hold (R11, R407). -/
def granted (s : State) (ctx pa : Nat) : Bool :=
  s.grants.any fun x => decide (x.ctx = ctx) &&
    (match findCtx s ctx with | some c => decide (c.charter = x.charter) | none => false) && decide (x.frame ≤ pa / 65536) && decide (pa / 65536 < x.frame + 2 ^ x.k)

/-! ### Commands and host accesses that wait (R399, R413) -/

/-- The context of a held command, or of a held host access. -/
def heldCtx : HeldCmd → Nat
  | .grant h _ _ => h.ctx
  | .revoke h _ => h.ctx
  | .map h _ _ _ => h.ctx
  | .unmap h _ _ _ _ => h.ctx
  | .violate h _ => h.ctx
  | .migrateOut h _ _ => h.ctx
  | .access x => x.ctx

/-- A host access, rather than a command. -/
def isAccess : HeldCmd → Bool
  | .access _ => true
  | _ => false

/-- Held entries that satisfy a test go on, in their order. -/
def resumeWhere (s : State) (p : HeldCmd → Bool) : State :=
  { s with due := s.due ++ s.heldCmds.filter p, heldCmds := s.heldCmds.filter fun i => !p i }

/-- The held commands of a context go on. -/
def resumeCmds (s : State) (ctx : Nat) : State := resumeWhere s fun i => decide (heldCtx i = ctx) && !isAccess i

/-- A host access that waits for a page. -/
def accessTo (p : Page) : HeldCmd → Bool
  | .access x => decide (x.ctx = p.ctx) && decide (p.va ≤ x.va) && decide (x.va < p.va + 2 ^ p.bits)
  | _ => false

/-- The host accesses that wait for a page go on. -/
def resumeAccesses (s : State) (p : Page) : State := resumeWhere s (accessTo p)

/-! ### Pending results (R78, R79) -/

/-- The word at a thread's PC. -/
def wordAt (s : State) (t : Thread) : BitVec 32 :=
  match imageOf s t.launch with
  | none => 0
  | some img =>
    match img.code[t.pc]?, img.code[t.pc + 1]? with
    | some p, some q => if p.getLsbD 0 then q ++ p else p.setWidth 32
    | some p, none => p.setWidth 32
    | none, _ => 0

/-- The slot a thread has left may go to another fragment (R159). -/
def settleOf (s : State) (t : Thread) : State :=
  match t.slot? with
  | some k => settleSlot s k
  | none => s

/-- Parks end when nothing is outstanding; a segment end or exit that waited for that takes place. -/
def settleThread (s : State) (wg tid : Nat) : State :=
  match findThread s wg tid with
  | none => s
  | some t =>
    let t1 := if t.pend.isEmpty then { t with fl := { t.fl with park := false } } else t
    match t1.place with
    | .ending .exit _ =>
      if t1.pend.isEmpty && t1.far.isEmpty then
        match t1.farFault with
        | some a => takeTrap s [{ t1 with farFault := none }] 14 0 (BitVec.ofNat 64 a) (wordAt s t1)
        | none => settleOf (leaveThread s t1) t1
      else setThread s t1
    | .ending (.segment e) _ =>
      if t1.pend.isEmpty then settleOf (endSegment (traceEndsAt s [t1] e.wake e.ord) t1 e) t1 else setThread s t1
    | _ => setThread s t1

/-! ### The gang engine -/

/-- What one thread of the gang does with the instruction. -/
inductive Fate where
  /-- Goes on with the following instruction. -/
  | next
  /-- Goes on at another PC. -/
  | goto (pc : Nat)
  /-- Takes a trap: cause, code, detail. -/
  | trap (cause code : Nat) (detail : BitVec 64)
  /-- Its segment ends: wake code, operand, Q. -/
  | block (wake operand : Nat) (q : Bool)
  /-- The instruction enters its operand log and the thread goes on (R44). -/
  | logged (e : LogEntry)
  | exit
deriving DecidableEq, Repr

/-- Trap with no code and no detail. -/
def Fate.plain (cause : Nat) : Fate := .trap cause 0 0

/-- An instruction's parcels (R73). -/
def lengthOf (i : Instr) : Nat :=
  match encode i with
  | some (.c16 _) => 1
  | _ => 2

/-- Its word, a compact one zero-extended (R180). -/
def wordOf (i : Instr) : BitVec 32 :=
  match encode i with
  | some (.c16 w) => w.setWidth 32
  | some (.c32 w) => w
  | none => 0

/-- A thread retires an instruction: counts, next PC, park after a switch marker while a result is outstanding (R78). -/
def retire (len : Nat) (sw : Bool) (t : Thread) : Thread :=
  { t with
    pc := t.pc + len
    path := { t.path with retired := t.path.retired + 1, since := t.path.since + 1 }
    fl := { t.fl with park := sw && !t.pend.isEmpty, skipBreak := false, entered := false } }

/-- Retire to another PC. -/
def retireTo (pc : Nat) (sw : Bool) (t : Thread) : Thread := { retire 0 sw t with pc := pc }

/-- Run the body for each active thread in seat order, over the state the earlier ones left. -/
def runThreads (body : State → Thread → State × Thread × Fate) : State → List Thread → State × List (Thread × Fate)
  | s, [] => (s, [])
  | s, t :: ts =>
    let r := body s t
    let rest := runThreads body r.1 ts
    (rest.1, (r.2.1, r.2.2) :: rest.2)

/-- The threads whose fate is a trap. -/
def trapped : List (Thread × Fate) → List Thread
  | [] => []
  | (t, .trap _ _ _) :: rs => t :: trapped rs
  | _ :: rs => trapped rs

/-- Cause, code and detail of the lowest seat that traps. -/
def lowestTrap : List (Thread × Fate) → Option (Nat × Nat × BitVec 64)
  | [] => none
  | (_, .trap c k d) :: _ => some (c, k, d)
  | _ :: rs => lowestTrap rs

/-- A thread that its role forbids the instruction: ILLEGAL_ISSUE. -/
def forbidden (r : Thread × Fate) : Bool :=
  match r.2 with
  | .trap c _ _ => decide (c = 2)
  | _ => false

/-- Cause, code and detail of the one record of an issue (R180). DESIGN CHOICE (log 81) where its threads trap with
different ones: ILLEGAL_ISSUE, which is looked for first (R90, R272), else those of the lowest seat. -/
def firstTrap (rs : List (Thread × Fate)) : Option (Nat × Nat × BitVec 64) :=
  if rs.any forbidden then some (2, 0, 0) else lowestTrap rs

/-- Write back one thread that goes on. -/
def applyGoing (len : Nat) (sw : Bool) (s : State) (r : Thread × Fate) : State :=
  match r.2 with
  | .next => setThread s (retire len sw r.1)
  | .goto pc => setThread s (retireTo pc sw r.1)
  | .logged e => setThread s { retire len sw r.1 with log := some e }
  | _ => setThread s r.1

/-- Carry out the end of a thread that leaves. -/
def applyLeaving (s : State) (r : Thread × Fate) : State :=
  match r.2 with
  | .block wake operand q =>
    if (findThread s r.1.wg r.1.tid).isSome then endSegment s r.1 (endAt s r.1 wake operand q) else s
  | .exit => if (findThread s r.1.wg r.1.tid).isSome then beginExit s r.1 else s
  | _ => s

/-- The threads that block with a wake code. -/
def blockedWith (wake : Nat) : List (Thread × Fate) → List Thread
  | [] => []
  | (t, .block w _ _) :: rs => if w = wake then t :: blockedWith wake rs else blockedWith wake rs
  | _ :: rs => blockedWith wake rs

/-- Settle the slot whose turn it is. -/
def settleTurn (s : State) : State :=
  match s.turn with
  | some k => settleSlot s k
  | none => s

/-- Split the slot whose turn it is. -/
def splitTurn (s : State) : State :=
  match s.turn with
  | some k => splitSlot s k
  | none => s

/-- A thread goes on to a next PC. -/
def goesOn : List (Thread × Fate) → Bool
  | [] => false
  | (_, .next) :: _ => true
  | (_, .goto _) :: _ => true
  | (_, .logged _) :: _ => true
  | _ :: rs => goesOn rs

/-- Apply the fates of one issue: the threads that go on, then one trap for all that trapped, then the segment ends and
exits, then the split of those that go on to different PCs (R158). Traps and segment ends name the members of the
fragment that issued (R180); a thread that leaves reaches no next PC and splits no gang. -/
def applyFates (i : Instr) (sw : Bool) (s : State) (rs : List (Thread × Fate)) : State :=
  let s1 := foldList (applyGoing (lengthOf i) sw) s rs
  let s2 := match firstTrap rs with
    | some x => takeTrap s1 (trapped rs) x.1 x.2.1 x.2.2 (wordOf i)
    | none => s1
  let s3 := foldList (fun s w => traceEnds s (blockedWith w rs) w) s2 (List.range 10)
  let s4 := foldList applyLeaving s3 rs
  settleTurn (if goesOn rs then splitTurn s4 else s4)

/-- An instruction that acts thread by thread. -/
def perThread (i : Instr) (sw : Bool) (body : State → Thread → State × Thread × Fate) (s : State) :
    Host.Outcome State Fault Refusal :=
  let r := runThreads body s (actives s)
  .next (applyFates i sw r.1 r.2)

/-- The active thread with the lowest %tid (R30, R210). -/
def leaderOf (ts : List Thread) : Option Thread := minByKey Thread.tid ts

/-- An instruction that only changes each active thread's own registers. -/
def mapActive (len : Nat) (sw : Bool) (f : Thread → Thread) (s : State) : State :=
  { s with threads := updWhere (isActive s) (fun t => retire len sw (f t)) s.threads }

/-- Roles (R42). -/
def roleVector : BitVec 2 := 0
def roleCopy : BitVec 2 := 1
def roleMatrix : BitVec 2 := 2

/-- The role check of R272: a thread whose role forbids the instruction takes ILLEGAL_ISSUE, the others execute. -/
def withRole (ok : BitVec 2 → Bool) (body : State → Thread → State × Thread × Fate) :
    State → Thread → State × Thread × Fate :=
  fun s t => if ok t.role then body s t else (s, t, .plain 2)

/-- Permitted to the vector role alone. -/
def onlyVector (r : BitVec 2) : Bool := decide (r = roleVector)

/-- Permitted to every role. -/
def anyRole (_ : BitVec 2) : Bool := true

/-- A register instruction of the vector role alone: where every active thread has the role it is the plain change of
each thread's registers; otherwise the others take ILLEGAL_ISSUE (R272). -/
def vectorOp (i : Instr) (sw : Bool) (f : Thread → Thread) (s : State) : Host.Outcome State Fault Refusal :=
  if (actives s).all fun t => onlyVector t.role then .next (mapActive (lengthOf i) sw f s)
  else perThread i sw (withRole onlyVector fun s t => (s, f t, .next)) s

end Sys2Proof.Machine
end

