-- ==== Sys2Proof/Machine/Operands.lean ====
section
/-! DEFINITION. Operand forms: vector registers and groups (R24 to R26), uniform registers (R29, R30), the B7 classes
(R85), predicates (R28), and the special registers (R42, R45). -/
namespace Sys2Proof.Machine

/-! ### Vector registers -/

/-- Read vN (R24). -/
def getV (t : Thread) (r : BitVec 6) : Word := t.v[r.toNat]'r.isLt

/-- Write vN. -/
def setV (t : Thread) (r : BitVec 6) (x : Word) : Thread := { t with v := t.v.set r.toNat x r.isLt }

/-- Read the pair vN.x2, vN at the low half (R25). -/
def getV2 (t : Thread) (r : BitVec 6) : BitVec 64 := getV t (r + 1) ++ getV t r

/-- Write the pair vN.x2 (R25). -/
def setV2 (t : Thread) (r : BitVec 6) (x : BitVec 64) : Thread :=
  setV (setV t r (x.extractLsb' 0 32)) (r + 1) (x.extractLsb' 32 32)

/-- The registers of a group, lowest first (R24). -/
def groupRegs (r : BitVec 6) (n : Nat) : List (BitVec 6) := (List.range n).map fun i => r + BitVec.ofNat 6 i

/-- Read a group, vN first. -/
def getGroup (t : Thread) (r : BitVec 6) (n : Nat) : List Word := (groupRegs r n).map (getV t)

/-- Write registers one after another. -/
def setRegs (t : Thread) : List (BitVec 6 × Word) → Thread
  | [] => t
  | (r, x) :: rs => setRegs (setV t r x) rs

/-- Write a group, vN first. -/
def setGroup (t : Thread) (r : BitVec 6) (ws : List Word) : Thread :=
  setRegs t ((groupRegs r ws.length).zip ws)

/-! ### Predicates -/

/-- Read pN; p0 always reads 1 (R28). -/
def getP (t : Thread) (n : BitVec 3) : Bool := if n = 0 then true else t.p.getLsbD n.toNat

/-- Write pN; a write to p0 is discarded (R28). -/
def setP (t : Thread) (n : BitVec 3) (b : Bool) : Thread :=
  if n = 0 then t
  else { t with p := if b then t.p ||| (1#8 <<< n.toNat) else t.p &&& ~~~(1#8 <<< n.toNat) }

/-- p0 to p7 as a byte, bit 0 reading 1 (R124). -/
def predByte (t : Thread) : BitVec 8 := t.p ||| 1

/-! ### Uniform registers -/

/-- Read kN of a thread's workgroup (R29). -/
def getK (s : State) (t : Thread) (n : BitVec 5) : Word :=
  match findWg s t.wg with
  | some g => g.k[n.toNat]'n.isLt
  | none => 0

/-- Read kN.x2 (R85). -/
def getK2 (s : State) (t : Thread) (n : BitVec 5) : BitVec 64 := getK s t (n + 1) ++ getK s t n

/-- Write kN of a workgroup (R30). -/
def setK (g : Workgroup) (n : BitVec 5) (x : Word) : Workgroup := { g with k := g.k.set n.toNat x n.isLt }

/-! ### The second source -/

/-- B at 32 bits (R85). -/
def srcB (s : State) (t : Thread) : BSrc → Word
  | .reg r => getV t r
  | .unif k => getK s t k
  | .imm i => i.signExtend 32

/-- B at 64 bits (R85). -/
def srcB2 (s : State) (t : Thread) : BSrc → BitVec 64
  | .reg r => getV2 t r
  | .unif k => getK2 s t k
  | .imm i => i.signExtend 64

/-! ### Combining registers -/

/-- An operation of any operand width on two sources. -/
abbrev Bin := (n : Nat) → BitVec n → BitVec n → BitVec n

/-- An operation of any operand width on one source. -/
abbrev Un := (n : Nat) → BitVec n → BitVec n

/-- vD := f(vA, vB) at a width; at x4 and x8, which only the bitwise forms allow, register by register (R102). -/
def bin (f : Bin) (w : Width) (a b d : BitVec 6) (t : Thread) : Thread :=
  match w with
  | .x1 => setV t d (f 32 (getV t a) (getV t b))
  | .x2 => setV2 t d (f 64 (getV2 t a) (getV2 t b))
  | w => setGroup t d (((getGroup t a w.regs).zip (getGroup t b w.regs)).map fun x => f 32 x.1 x.2)

/-- vD := f(vA) at a width. -/
def un (f : Un) (w : Width) (a d : BitVec 6) (t : Thread) : Thread :=
  match w with
  | .x1 => setV t d (f 32 (getV t a))
  | .x2 => setV2 t d (f 64 (getV2 t a))
  | w => setGroup t d ((getGroup t a w.regs).map (f 32))

/-- vD := f(vA, vB, old vD) at a width. -/
def ter (f : (n : Nat) → BitVec n → BitVec n → BitVec n → BitVec n) (w : Width) (a b d : BitVec 6) (t : Thread) :
    Thread :=
  match w with
  | .x2 => setV2 t d (f 64 (getV2 t a) (getV2 t b) (getV2 t d))
  | _ => setV t d (f 32 (getV t a) (getV t b) (getV t d))

/-- A result written later (R79). -/
def pendRegs (t : Thread) (ws : List (BitVec 6 × Word)) : Thread := { t with pend := t.pend ++ [.value ws] }

/-- The writes of a pair. -/
def pairWrites (d : BitVec 6) (x : BitVec 64) : List (BitVec 6 × Word) :=
  [(d, x.extractLsb' 0 32), (d + 1, x.extractLsb' 32 32)]

/-- A pending vD := f(vA, vB) at x1 or x2. -/
def pendBin (f : Bin) (w : Width) (a b d : BitVec 6) (t : Thread) : Thread :=
  match w with
  | .x2 => pendRegs t (pairWrites d (f 64 (getV2 t a) (getV2 t b)))
  | _ => pendRegs t [(d, f 32 (getV t a) (getV t b))]

/-- A pending vD := f(vA) at x1 or x2. -/
def pendUn (f : Un) (w : Width) (a d : BitVec 6) (t : Thread) : Thread :=
  match w with
  | .x2 => pendRegs t (pairWrites d (f 64 (getV2 t a)))
  | _ => pendRegs t [(d, f 32 (getV t a))]

/-! ### Special registers (R45) -/

/-- The three sizes of a list, 1 where absent. -/
def dim (l : List Nat) (i : Nat) : Nat := (l[i]?).getD 1

/-- Index i of a flat number in a grid of sizes (R45). -/
def indexIn (sizes : List Nat) (flat i : Nat) : Nat :=
  match i with
  | 0 => flat % dim sizes 0
  | 1 => flat / dim sizes 0 % dim sizes 1
  | _ => flat / (dim sizes 0 * dim sizes 1)

/-- Position in the neighbourhood: [15:8] row, [7:0] column, 0 outside neighbourhood launches (R45, R187). -/
def nbPos (l : Launch) (wgid : Nat) : Nat :=
  if l.lr.flags.getLsbD 2 then
    let w := field l.lr.nb.toNat 7 0
    let m := wgid % (w * field l.lr.nb.toNat 15 8)
    2 ^ 8 * (m / w) + m % w
  else 0

/-- The gang slot a thread issues from; of a thread that stands in none, its seat's own (R21). -/
def gangOf (t : Thread) : Nat :=
  match t.place with
  | .running n => n
  | .waiting n => n
  | _ => seatSlot t.seat.seat

/-- The value of special register n for a thread, in 64 bits (R42, R45, R46). %clock and %ptptime are
read in the cycle in which the thread's pair passes (R127, R255). -/
def specialValue (s : State) (t : Thread) (n : Nat) : BitVec 64 :=
  match findLaunch s t.launch, findWg s t.wg with
  | some l, some g =>
    match n with
    | 0 => BitVec.ofNat 64 t.tid
    | 1 => BitVec.ofNat 64 (indexIn l.lr.size t.tid 0)
    | 2 => BitVec.ofNat 64 (indexIn l.lr.size t.tid 1)
    | 3 => BitVec.ofNat 64 (indexIn l.lr.size t.tid 2)
    | 4 => BitVec.ofNat 64 (dim l.lr.size 0 * dim l.lr.size 1 * dim l.lr.size 2)
    | 5 => BitVec.ofNat 64 (dim l.lr.size 0)
    | 6 => BitVec.ofNat 64 (dim l.lr.size 1)
    | 7 => BitVec.ofNat 64 (dim l.lr.size 2)
    | 8 => BitVec.ofNat 64 (g.wgid % 2 ^ 32)
    | 9 => BitVec.ofNat 64 (indexIn l.lr.grid g.wgid 0)
    | 10 => BitVec.ofNat 64 (indexIn l.lr.grid g.wgid 1)
    | 11 => BitVec.ofNat 64 (indexIn l.lr.grid g.wgid 2)
    | 13 => BitVec.ofNat 64 (dim l.lr.grid 0)
    | 14 => BitVec.ofNat 64 (dim l.lr.grid 1)
    | 15 => BitVec.ofNat 64 (dim l.lr.grid 2)
    | 16 => BitVec.ofNat 64 t.seat.seat
    | 17 => BitVec.ofNat 64 (gangOf t)
    | 18 => BitVec.ofNat 64 (gangOf t / 2)
    | 19 => BitVec.ofNat 64 t.seat.core
    | 20 => BitVec.ofNat 64 t.seat.cluster
    | 21 => BitVec.ofNat 64 (roodOf t.seat.cluster)
    | 22 => BitVec.ofNat 64 (dieOf t.seat.cluster)
    | 23 => BitVec.ofNat 64 g.vcluster
    | 24 => BitVec.ofNat 64 (nbPos l g.wgid)
    | 25 => BitVec.ofNat 64 g.rung
    | 26 => ((gswWord t (actives s).length (rankIn (actives s) t)).setWidth 64)
    | 32 => BitVec.ofNat 64 (s.clock + pairRank s t)
    | 33 => BitVec.ofNat 64 (ptpAfter s (pairRank s t))
    | _ => 0
  | _, _ => 0

end Sys2Proof.Machine
end

