-- ==== Sys2Proof/Machine/Flags.lean ====
section
/-! DEFINITION. The integer arithmetic of R107 to R121 at any operand width, and the conditions that write predicates.
The ISA has no flag register: the forms set no flag (R50, R107); outcomes of compares go to predicates. -/
namespace Sys2Proof.Machine

/-! ### Arithmetic at width n -/

def opAdd : Bin := fun _ a b => a + b
def opSub : Bin := fun _ a b => a - b
def opMul : Bin := fun _ a b => a * b

/-- High half of the signed product (R110). -/
def opMulHiS : Bin := fun n a b => BitVec.ofInt n (a.toInt * b.toInt / (2 ^ n : Nat))

/-- High half of the zero-extended product (R110). -/
def opMulHiZ : Bin := fun n a b => BitVec.ofNat n (a.toNat * b.toNat / 2 ^ n)

def opMinS : Bin := fun _ a b => if a.toInt ≤ b.toInt then a else b
def opMaxS : Bin := fun _ a b => if a.toInt ≥ b.toInt then a else b
def opMinZ : Bin := fun _ a b => if a.toNat ≤ b.toNat then a else b
def opMaxZ : Bin := fun _ a b => if a.toNat ≥ b.toNat then a else b

/-- Wrapping absolute value: the most negative number stays (R111). -/
def opAbs : Un := fun n a => BitVec.ofInt n (if a.toInt < 0 then -a.toInt else a.toInt)
def opNeg : Un := fun _ a => -a

/-- Signed saturation to n bits (R51). -/
def satS (n : Nat) (x : Int) : BitVec n :=
  if x < -(2 ^ (n - 1) : Nat) then BitVec.ofInt n (-(2 ^ (n - 1) : Nat))
  else if x > (2 ^ (n - 1) : Nat) - 1 then BitVec.ofInt n ((2 ^ (n - 1) : Nat) - 1)
  else BitVec.ofInt n x

/-- Saturation of a natural number to n bits (R51). -/
def satZ (n : Nat) (x : Nat) : BitVec n := if x ≥ 2 ^ n then BitVec.allOnes n else BitVec.ofNat n x

def opAddSatS : Bin := fun n a b => satS n (a.toInt + b.toInt)
def opAddSatZ : Bin := fun n a b => satZ n (a.toNat + b.toNat)

/-- Division by zero gives all ones; the quotient is truncated towards zero (R112). -/
def opDivS : Bin := fun n a b => if b = 0 then BitVec.allOnes n else BitVec.ofInt n (a.toInt.tdiv b.toInt)
def opDivZ : Bin := fun n a b => if b = 0 then BitVec.allOnes n else BitVec.ofNat n (a.toNat / b.toNat)

/-- Remainder by zero gives the dividend; the sign is the dividend's (R112). -/
def opRemS : Bin := fun n a b => if b = 0 then a else BitVec.ofInt n (a.toInt - b.toInt * a.toInt.tdiv b.toInt)
def opRemZ : Bin := fun n a b => if b = 0 then a else BitVec.ofNat n (a.toNat % b.toNat)

def opAnd : Bin := fun _ a b => a &&& b
def opOr : Bin := fun _ a b => a ||| b
def opXor : Bin := fun _ a b => a ^^^ b
def opAndn : Bin := fun _ a b => a &&& ~~~b
def opOrn : Bin := fun _ a b => a ||| ~~~b
def opXnor : Bin := fun _ a b => ~~~(a ^^^ b)
def opNot : Un := fun _ a => ~~~a

/-! ### Shifts: the amount is taken modulo the width (R52, R114) -/

/-- b[4:0] at 32 bits, b[5:0] at 64 bits. -/
def amount (n : Nat) (b : BitVec n) : Nat := b.toNat % n

def shlBy (n : Nat) (a : BitVec n) (k : Nat) : BitVec n := a <<< k
def shrBy (n : Nat) (a : BitVec n) (k : Nat) : BitVec n := a >>> k
def sarBy (n : Nat) (a : BitVec n) (k : Nat) : BitVec n := a.sshiftRight k
def rolBy (n : Nat) (a : BitVec n) (k : Nat) : BitVec n := (a <<< k) ||| (a >>> (n - k))

def opShl : Bin := fun n a b => shlBy n a (amount n b)
def opShr : Bin := fun n a b => shrBy n a (amount n b)
def opSar : Bin := fun n a b => sarBy n a (amount n b)
def opRol : Bin := fun n a b => rolBy n a (amount n b)

/-- Funnel shifts of old destination and a; n = 0 gives d, and a (R114). -/
def opFshl : (n : Nat) → BitVec n → BitVec n → BitVec n → BitVec n := fun n a b d =>
  BitVec.ofNat n ((d.toNat * 2 ^ n + a.toNat) * 2 ^ amount n b / 2 ^ n)
def opFshr : (n : Nat) → BitVec n → BitVec n → BitVec n → BitVec n := fun n a b d =>
  BitVec.ofNat n ((d.toNat * 2 ^ n + a.toNat) / 2 ^ amount n b)

/-! ### Bit fields and counts (R116 to R118) -/

/-- pos and len of a field selector, the field cut at bit 31 (R116). -/
def fieldPos (b : Word) : Nat := b.toNat % 32
def fieldLen (b : Word) : Nat := min (b.toNat / 256 % 64) (32 - fieldPos b)

def fieldOf (a b : Word) : Nat := a.toNat / 2 ^ fieldPos b % 2 ^ fieldLen b

def bfxsWord (a b : Word) : Word :=
  if fieldLen b = 0 then 0 else BitVec.ofInt 32 (sext (fieldLen b) (fieldOf a b))
def bfxzWord (a b : Word) : Word := BitVec.ofNat 32 (fieldOf a b)
def bfiWord (a b d : Word) : Word :=
  let mask := BitVec.ofNat 32 ((2 ^ fieldLen b - 1) * 2 ^ fieldPos b)
  (d &&& ~~~mask) ||| (BitVec.ofNat 32 (a.toNat * 2 ^ fieldPos b) &&& mask)

/-- Bits of a pattern, lowest first. -/
def bitsOf {n : Nat} (a : BitVec n) : List Bool := (List.range n).map a.getLsbD

/-- Zeros before the first one. -/
def leadZeros : List Bool → Nat
  | [] => 0
  | true :: _ => 0
  | false :: bs => leadZeros bs + 1

/-- A pattern from its bits, lowest first. -/
def ofBits (n : Nat) (bs : List Bool) : BitVec n :=
  BitVec.ofNat n (sumNat ((List.range n).map fun i => if (bs[i]?).getD false then 2 ^ i else 0))

def opPopc : Un := fun n a => BitVec.ofNat n ((bitsOf a).filter id).length
def opClz : Un := fun n a => BitVec.ofNat n (leadZeros (bitsOf a).reverse)
def opCtz : Un := fun n a => BitVec.ofNat n (leadZeros (bitsOf a))
def opBrev : Un := fun n a => ofBits n (bitsOf a).reverse

/-- Byte i of a word. -/
def byteOf (a : Word) (i : Nat) : Nat := a.toNat / 256 ^ i % 256

/-- bperm (R118). -/
def bpermWord (a b d : Word) : Word :=
  BitVec.ofNat 32 (sumNat ((List.range 4).map fun i =>
    let sel := b.toNat / 16 ^ i % 16
    if sel ≥ 8 then 0
    else 256 ^ i * (if sel < 4 then byteOf a sel else byteOf d (sel - 4))))

/-- Element i of a packed word at e bits, signed or zero-extended (R119). -/
def element (e : Nat) (signed : Bool) (a : Word) (i : Nat) : Int :=
  let x := a.toNat / 2 ^ (e * i) % 2 ^ e
  if signed then sext e x else (x : Int)

/-- Sum of the products of packed elements, added to d, modulo 2^32 (R119). -/
def dotWord (e n : Nat) (sa sb : Bool) (a b d : Word) : Word :=
  BitVec.ofInt 32 (d.toInt + ((List.range n).map fun i => element e sa a i * element e sb b i).foldr (· + ·) 0)

/-- a + b × 2^s (R120). -/
def opLea (k : Nat) : Bin := fun n a b => a + BitVec.ofNat n (b.toNat * 2 ^ k)

/-! ### Conditions (R121) -/

def icondHolds {n : Nat} (c : ICond) (signed : Bool) (a b : BitVec n) : Bool :=
  match c with
  | .eq => decide (a = b)
  | .ne => decide (a ≠ b)
  | .lt => if signed then decide (a.toInt < b.toInt) else decide (a.toNat < b.toNat)
  | .le => if signed then decide (a.toInt ≤ b.toInt) else decide (a.toNat ≤ b.toNat)
  | .gt => if signed then decide (a.toInt > b.toInt) else decide (a.toNat > b.toNat)
  | .ge => if signed then decide (a.toInt ≥ b.toInt) else decide (a.toNat ≥ b.toNat)
  | .tst => decide (a &&& b ≠ 0)
  | .tsn => decide (a &&& b = 0)

end Sys2Proof.Machine
end

