-- ==== Sys2Proof/Machine/Num.lean ====
section
/-! DEFINITION. The number formats and exact arithmetic of R53 to R71: decoding to exact values, one rounding of an exact
value, conversions to integers, block floating point, and the group sums of the matrix array. -/
namespace Sys2Proof.Machine

/-- A floating-point format (R53): its field widths, bias, and whether it has infinities. -/
structure Fmt where
  bits : Nat
  exp : Nat
  frac : Nat
  bias : Nat
  inf : Bool
deriving DecidableEq, Repr

def fp64 : Fmt := ⟨64, 11, 52, 1023, true⟩
def fp32 : Fmt := ⟨32, 8, 23, 127, true⟩
def fp16 : Fmt := ⟨16, 5, 10, 15, true⟩
def bf16 : Fmt := ⟨16, 8, 7, 127, true⟩
def e4m3 : Fmt := ⟨8, 4, 3, 7, false⟩
def e5m2 : Fmt := ⟨8, 5, 2, 15, true⟩

/-- An exact value, a signed zero (magnitude 0), an infinity or NaN: (-1)^neg × m × 2^e. -/
inductive XVal where
  | nan
  | inf (neg : Bool)
  | fin (neg : Bool) (m : Nat) (e : Int)
deriving DecidableEq, Repr

def posZero : XVal := .fin false 0 0

/-- Codes without the sign: infinity, largest finite, canonical NaN (R53, R55). -/
def infCode (f : Fmt) : Nat := (2 ^ f.exp - 1) * 2 ^ f.frac
def maxCode (f : Fmt) : Nat := if f.inf then infCode f - 1 else 2 ^ (f.exp + f.frac) - 2
def canonNan (f : Fmt) : Nat :=
  if f.inf then infCode f + 2 ^ (f.frac - 1) else 2 ^ (f.exp + f.frac) - 1

/-- A code with its sign bit. -/
def signed (f : Fmt) (neg : Bool) (code : Nat) : Nat := (if neg then 2 ^ (f.bits - 1) else 0) + code

/-- The exponent of the smallest spacing. -/
def minQ (f : Fmt) : Int := 1 - (f.bias : Int) - f.frac

/-- The exact value a bit pattern encodes (R53, R71). -/
def decodeFp (f : Fmt) (bits : Nat) : XVal :=
  let neg := decide (bits / 2 ^ (f.bits - 1) % 2 = 1)
  let e := bits / 2 ^ f.frac % 2 ^ f.exp
  let m := bits % 2 ^ f.frac
  if e = 2 ^ f.exp - 1 ∧ f.inf = true then (if m = 0 then .inf neg else .nan)
  else if e = 2 ^ f.exp - 1 ∧ m = 2 ^ f.frac - 1 then .nan
  else if e = 0 then .fin neg m (minQ f)
  else .fin neg (2 ^ f.frac + m) (minQ f + e - 1)

/-- 2^k for a natural exponent given as an integer, 1 below zero. -/
def pow2 (k : Int) : Nat := 2 ^ k.toNat

/-- floor(log2(n/d)) for n, d > 0. -/
def log2Q (n d : Nat) : Int :=
  let l : Int := (Nat.log2 n : Int) - Nat.log2 d
  if n * pow2 (-l) ≥ d * pow2 l then l else l - 1

/-- The spacing exponent of a format at the magnitude n/d × 2^e. -/
def quantum (f : Fmt) (n d : Nat) (e : Int) : Int := max (log2Q n d + e - f.frac) (minQ f)

/-- How a magnitude is rounded. -/
inductive MagMode where
  | down | up | near
deriving DecidableEq, Repr

/-- n/d rounded to a natural number. -/
def roundMag (mode : MagMode) (n d : Nat) : Nat :=
  match mode with
  | .down => n / d
  | .up => ceilDiv n d
  | .near =>
    if 2 * (n % d) > d ∨ (2 * (n % d) = d ∧ n / d % 2 = 1) then n / d + 1 else n / d

/-- The code of the magnitude n/d × 2^e rounded to a format, with the exponent unbounded above (R58): codes grow by one
with each step of the format. -/
def codeOf (f : Fmt) (mode : MagMode) (n d : Nat) (e : Int) : Nat :=
  if n = 0 then 0
  else
    let q := quantum f n d e
    roundMag mode (n * pow2 (e - q)) (d * pow2 (q - e)) + (q - minQ f).toNat * 2 ^ f.frac

/-- What a rounding mode does to a magnitude of a sign (R57). -/
def magMode (rm : Rnd) (neg : Bool) : MagMode :=
  match rm with
  | .rn => .near
  | .rz => .down
  | .rd => if neg then .up else .down
  | .ru => if neg then .down else .up

/-- The overflow and infinity results of round_fp (R58). -/
def infResult (f : Fmt) (neg sat : Bool) : Nat :=
  if sat then signed f neg (maxCode f)
  else if f.inf then signed f neg (infCode f)
  else canonNan f

/-- round_fp of the magnitude n/d × 2^e (R58). -/
def roundQ (f : Fmt) (neg : Bool) (n d : Nat) (e : Int) (rm : Rnd) (sat : Bool) : Nat :=
  let c := codeOf f (magMode rm neg) n d e
  if c > maxCode f then
    if sat then signed f neg (maxCode f)
    else match magMode rm neg with
      | .down => signed f neg (maxCode f)
      | _ => infResult f neg false
  else signed f neg c

/-- round_fp of an exact value (R58). -/
def roundFp (f : Fmt) (x : XVal) (rm : Rnd) (sat : Bool) : Nat :=
  match x with
  | .nan => canonNan f
  | .inf neg => infResult f neg sat
  | .fin neg m e => roundQ f neg m 1 e rm sat

/-- The signed integer of a finite value at an exponent not above its own. -/
def scaled (neg : Bool) (m : Nat) (e lo : Int) : Int :=
  let x : Int := ((m * pow2 (e - lo) : Nat) : Int)
  if neg then -x else x

/-- A finite value from a signed integer; the zero's sign is given. -/
def ofScaled (x : Int) (e : Int) (zeroNeg : Bool) : XVal :=
  if x = 0 then .fin zeroNeg 0 0 else .fin (decide (x < 0)) x.natAbs e

/-- Exact sum over the extended reals; inf - inf is NaN; zero signs by R134. -/
def addX (x y : XVal) (rm : Rnd) : XVal :=
  match x, y with
  | .nan, _ => .nan
  | _, .nan => .nan
  | .inf a, .inf b => if a = b then .inf a else .nan
  | .inf a, _ => .inf a
  | _, .inf b => .inf b
  | .fin s m e, .fin s' m' e' =>
    if m = 0 ∧ m' = 0 then .fin (if s = s' then s else decide (rm = .rd)) 0 0
    else
      let lo := min e e'
      ofScaled (scaled s m e lo + scaled s' m' e' lo) lo (decide (rm = .rd))

def negX : XVal → XVal
  | .nan => .nan
  | .inf s => .inf (!s)
  | .fin s m e => .fin (!s) m e

/-- Exact product; 0 × inf is NaN. -/
def mulX (x y : XVal) : XVal :=
  match x, y with
  | .nan, _ => .nan
  | _, .nan => .nan
  | .inf a, .inf b => .inf (xor a b)
  | .inf a, .fin b m _ => if m = 0 then .nan else .inf (xor a b)
  | .fin a m _, .inf b => if m = 0 then .nan else .inf (xor a b)
  | .fin a m e, .fin b m' e' => .fin (xor a b) (m * m') (e + e')

def isNan : XVal → Bool
  | .nan => true
  | _ => false

def isInf : XVal → Bool
  | .inf _ => true
  | _ => false

def isZero : XVal → Bool
  | .fin _ 0 _ => true
  | _ => false

/-- Sign of a value, NaN positive. -/
def negOf : XVal → Bool
  | .nan => false
  | .inf s => s
  | .fin s _ _ => s

/-- x < y for two values that are not NaN, -0 equal to +0. -/
def ltX (x y : XVal) : Bool :=
  match x, y with
  | .inf a, .inf b => a && !b
  | .inf a, _ => a
  | _, .inf b => !b
  | .fin s m e, .fin s' m' e' =>
    let lo := min e e'
    decide (scaled s m e lo < scaled s' m' e' lo)
  | _, _ => false

/-- The four relations of a compare (R138). -/
inductive Rel where
  | lt | eq | gt | un
deriving DecidableEq, Repr

def relX (x y : XVal) : Rel :=
  if isNan x || isNan y then .un
  else if ltX x y then .lt
  else if ltX y x then .gt
  else .eq

/-- -0 ordered below +0 (R135). -/
def ltSigned (x y : XVal) : Bool := ltX x y || (isZero x && isZero y && negOf x && !negOf y)

/-- round_int of n/d with a sign (R71). -/
def roundInt (neg : Bool) (n d : Nat) (rm : Rnd) : Int :=
  let q := roundMag (magMode rm neg) n d
  if neg then -(q : Int) else (q : Int)

/-- round_int of an exact value times n/d. -/
def roundIntX (neg : Bool) (m : Nat) (e : Int) (rm : Rnd) : Int := roundInt neg (m * pow2 e) (pow2 (-e)) rm

def clampInt (lo hi x : Int) : Int := if x < lo then lo else if x > hi then hi else x

/-- fp_to_int (R70). -/
def fpToInt (x : XVal) (lo hi : Int) (rm : Rnd) : Int :=
  match x with
  | .nan => 0
  | .inf neg => if neg then lo else hi
  | .fin neg m e => clampInt lo hi (roundIntX neg m e rm)

/-- An integer as an exact value. -/
def ofInt (x : Int) : XVal := ofScaled x 0 false

/-! ### Format slots (R66) -/

/-- A format slot word's fields. -/
structure SlotWord where
  kind : Nat
  mm : Nat
  plc : Bool
  rnd : Rnd
  nanm : Nat
  sat : Bool
  spn : Nat
  reserved : Nat
deriving DecidableEq, Repr

def slotWord (w : Word) : SlotWord :=
  let x := w.toNat
  ⟨field x 3 0, field x 6 4, flag x 7, Rnd.ofCode (BitVec.ofNat 2 (field x 9 8)), field x 11 10, flag x 12,
    field x 17 13, field x 31 18⟩

/-- m of a BFP slot. -/
def SlotWord.m (s : SlotWord) : Nat := s.mm + 2

/-- What makes a slot valid (R67). -/
def SlotWord.valid (s : SlotWord) : Bool :=
  decide (s.kind ≤ 8) && decide (s.nanm ≠ 3) && (decide (s.spn = 0) || decide (s.spn = 8) || decide (s.spn = 16)) &&
    !(decide (s.mm = 7) && decide (s.kind = 5)) && (decide (s.kind = 5) || (decide (s.mm = 0) && !s.plc)) &&
    !(decide (s.spn ≠ 0) && decide (s.kind = 0)) && decide (s.reserved = 0)

/-- The float format of a kind code. -/
def kindFmt : Nat → Fmt
  | 0 => fp32
  | 1 => fp16
  | 2 => bf16
  | 3 => e4m3
  | _ => e5m2

/-- Bits of one element of a kind other than BFP (R49, R53). -/
def kindBits : Nat → Nat
  | 0 => 32
  | 1 => 16
  | 2 => 16
  | 7 => 4
  | _ => 8

def kindIsInt (k : Nat) : Bool := decide (k = 6) || decide (k = 7) || decide (k = 8)

/-- Bounds of an integer kind. -/
def kindLo : Nat → Int
  | 6 => -128
  | 7 => -8
  | _ => 0
def kindHi : Nat → Int
  | 6 => 127
  | 7 => 7
  | _ => 255

/-- decode of an element of a kind other than BFP (R71). -/
def decodeKind (k bits : Nat) : XVal :=
  if k = 6 then ofInt (sext 8 bits)
  else if k = 7 then ofInt (sext 4 bits)
  else if k = 8 then ofInt ((bits % 256 : Nat) : Int)
  else decodeFp (kindFmt k) bits

/-- Encoding of a value in a kind other than BFP (R149). -/
def encodeKind (k : Nat) (x : XVal) (rm : Rnd) (sat : Bool) : Nat :=
  if kindIsInt k then
    (fpToInt x (kindLo k) (kindHi k) rm % (2 ^ kindBits k : Nat)).toNat
  else roundFp (kindFmt k) x rm sat

/-! ### Block floating point (R59 to R63) -/

/-- A block: mantissas as signed integers, scale fields, clip bit. -/
structure Block where
  mant : List Int
  e : Nat
  f : Nat
  q : Bool
deriving DecidableEq, Repr

def zeroBlock : Block := ⟨List.replicate 32 0, 0, 0, false⟩
def invalidBlock : Block := ⟨List.replicate 32 0, 255, 0, false⟩

/-- The scale word (R60). -/
def scaleOfBlock (b : Block) : Nat := (if b.q then 1 else 0) + 2 * b.f + 2 ^ 12 * b.e

/-- The 4m bytes of the mantissa field as a number (R59). -/
def mantFieldOfBlock (b : Block) (m : Nat) : Nat :=
  sumNat ((List.range 32).map fun i => (((b.mant[i]?).getD (0 : Int)) % ((2 ^ m : Nat) : Int)).toNat * 2 ^ (m * i))

/-- bfp_value, or NaN for an invalid block (R59, R61). -/
def bfpValue (mant : Int) (w m : Nat) : XVal :=
  let e := field w 19 12
  let f := field w 11 1
  if e = 0 then posZero
  else if e = 255 then .nan
  else ofScaled (mant * ((2048 + f : Nat) : Int)) ((e : Int) - 138 - ((m : Int) - 1)) false

/-- The elements of a block from its mantissa field and scale word. -/
def blockValues (fld w m : Nat) : List XVal :=
  (List.range 32).map fun i => bfpValue (sext m (fld / 2 ^ (m * i))) w m

/-- The largest magnitude, as n × 2^e, over finite values. -/
def maxMag : List XVal → Nat × Int
  | [] => (0, 0)
  | .fin _ m e :: xs =>
    let r := maxMag xs
    let lo := min e r.2
    if m * pow2 (e - lo) ≥ r.1 * pow2 (r.2 - lo) then (m, e) else r
  | _ :: xs => maxMag xs

/-- The smallest scale with s × lim ≥ amax × 2^(m-1) (R63), as (E, F). -/
def bfpScale (n : Nat) (e : Int) (m : Nat) : Option (Nat × Nat) :=
  let lim := 2 ^ (m - 1) - 1
  let num := n * 2 ^ (m - 1)
  let l := log2Q num lim + e
  if l < -126 then some (1, 0)
  else
    let s := e - (l - 11)
    let c := ceilDiv (num * pow2 s) (lim * pow2 (-s))
    let ef : Nat := if c = 4096 then (l + 128).toNat else (l + 127).toNat
    if ef > 254 then none else some (ef, if c = 4096 then 0 else c - 2048)

/-- One mantissa against a scale: value and whether it clipped (R63). -/
def bfpMant (x : XVal) (e f m : Nat) (rm : Rnd) : Int × Bool :=
  let lim : Int := ((2 ^ (m - 1) - 1 : Nat) : Int)
  match x with
  | .nan => (0, false)
  | .inf neg => (if neg then -lim else lim, true)
  | .fin neg k ex =>
    let s := ex + ((m : Int) - 1) - ((e : Int) - 138)
    let t := roundInt neg (k * pow2 s) ((2048 + f) * pow2 (-s)) rm
    if t > lim then (lim, true) else if t < -lim then (-lim, true) else (t, false)

/-- bfp_quantize (R63). -/
def bfpQuantize (xs : List XVal) (m : Nat) (rm : Rnd) (sat : Bool) : Block :=
  if xs.any isNan then invalidBlock
  else if xs.any isInf && !sat then invalidBlock
  else
    let big := maxMag xs
    let pick : Option (Nat × Nat) :=
      if xs.any isInf then some (254, 2047)
      else if big.1 = 0 then some (0, 0)
      else match bfpScale big.1 big.2 m with
        | some s => some s
        | none => if sat then some (254, 2047) else none
    match pick with
    | none => invalidBlock
    | some (0, _) => zeroBlock
    | some (e, f) =>
      let ms := xs.map fun x => bfpMant x e f m rm
      if ms.all fun x => decide (x.1 = 0) then zeroBlock
      else ⟨ms.map Prod.fst, e, f, ms.any Prod.snd⟩

/-! ### Matrix arithmetic (R68, R69) -/

/-- Exact sum of finite and signed-zero values: the integer at a common exponent. -/
def sumX (xs : List XVal) : Int × Int :=
  xs.foldl (fun acc x =>
    match x with
    | .fin s m e =>
      let lo := min acc.2 e
      (acc.1 * (pow2 (acc.2 - lo) : Int) + scaled s m e lo, lo)
    | _ => acc) (0, 0)

/-- A pair of mx_group that counts as bad. -/
def badPair (p : XVal × XVal) : Bool := isNan (mulX p.1 p.2)

/-- mx_group: the group sum in FP32 bits, the count, and whether nan_trap is signalled (R68). -/
def mxGroup (ps : List (XVal × XVal)) (nanm : Nat) (rm : Rnd) (sat : Bool) : Nat × Nat × Bool :=
  let bads := (ps.filter badPair).length
  let pos := (ps.filter fun p => !badPair p).map fun p => mulX p.1 p.2
  let clash := pos.any (fun x => decide (x = .inf false)) && pos.any (fun x => decide (x = .inf true))
  let cnt := bads + (if clash then 1 else 0)
  if cnt ≠ 0 ∧ nanm = 2 then (canonNan fp32, cnt, true)
  else if cnt ≠ 0 ∧ nanm = 0 then (canonNan fp32, 0, false)
  else if clash then (0, cnt, false)
  else
    match pos.find? isInf with
    | some x => (signed fp32 (negOf x) (infCode fp32), cnt, false)
    | none =>
      let s := sumX pos
      if s.1 = 0 then
        (signed fp32 (!pos.isEmpty && pos.all negOf) 0, cnt, false)
      else (roundFp fp32 (ofScaled s.1 s.2 false) rm sat, cnt, false)

/-- Adding a group sum to the accumulator (R69): new value, added count, trap. DESIGN CHOICE (log 84): an exact sum of zero has
the sign that R134 gives a vector sum, which R69 does not say. -/
def mxAccumulate (acc s nanm : Nat) (rm : Rnd) (sat : Bool) : Nat × Nat × Bool :=
  let x := decodeFp fp32 acc
  let y := decodeFp fp32 s
  let t := addX x y rm
  if isNan t then
    if nanm = 2 then (canonNan fp32, 0, true)
    else if nanm = 1 then (0, 1, false)
    else (canonNan fp32, 0, false)
  else if isInf x || isInf y then (roundFp fp32 t rm false, 0, false)
  else (roundFp fp32 t rm sat, 0, false)

/-- One output position over its groups: final bits, added count, trap (R69). The running count is clipped by the
caller. -/
def mxPosition (groups : List (List (XVal × XVal))) (nanm : Nat) (rm : Rnd) (sat : Bool) : Nat → Nat × Nat × Bool :=
  groups.foldl (fun k g => fun acc =>
    let r0 := k acc
    let gs := mxGroup g nanm rm sat
    let r := mxAccumulate r0.1 gs.1 nanm rm sat
    (r.1, r0.2.1 + gs.2.1 + r.2.1, r0.2.2 || gs.2.2 || r.2.2)) fun acc => (acc, 0, false)

/-! ### Square roots and the special functions (R140, R141) -/

/-- floor(sqrt n), digit by digit; fuel is the number of binary digits. -/
def isqrtFuel (n : Nat) : Nat → Nat → Nat
  | 0, r => r
  | k + 1, r =>
    let r' := r + 2 ^ k
    isqrtFuel n k (if r' * r' ≤ n then r' else r)

def isqrt (n : Nat) : Nat := isqrtFuel n (Nat.log2 n / 2 + 1) 0

/-- sqrt(m × 2^e) as a magnitude with a sticky last bit: exact enough for one rounding to nearest of any format. -/
def sqrtMag (m : Nat) (e : Int) : Nat × Int :=
  let sh : Nat := if e % 2 = 0 then 256 else 257
  let x := m * 2 ^ sh
  let r := isqrt x
  (2 * r + (if r * r = x then 0 else 1), (e - sh) / 2 - 1)

/-- fsqrt (R140, R141). -/
def sqrtBits (f : Fmt) (x : XVal) : Nat :=
  match x with
  | .nan => canonNan f
  | .inf neg => if neg then canonNan f else infCode f
  | .fin neg m e =>
    if m = 0 then signed f neg 0
    else if neg then canonNan f
    else
      let r := sqrtMag m e
      roundQ f false r.1 1 r.2 .rn false

/-- One of the representable magnitudes within ± b of a reference r (both over den × 2^e), of the sign of the exact
result; a reference above the largest finite value gives infinity, one below the smallest subnormal zero (R140). -/
def chooseWithin (f : Fmt) (neg : Bool) (r b den : Nat) (e : Int) (pick : Nat) : Nat :=
  if codeOf f .down r den e > maxCode f ∨ (codeOf f .down r den e = maxCode f ∧ codeOf f .up r den e > maxCode f) then
    infResult f neg false
  else if codeOf f .down r den e = 0 then signed f neg 0
  else
    let lo := codeOf f .up (r - b) den e
    let hi := codeOf f .down (r + b) den e
    let c := lo + pick % (hi - lo + 1)
    if c > maxCode f then infResult f neg false else signed f neg c

/-- The bound k ULP at a reference, over the same denominator and exponent. -/
def ulpBound (f : Fmt) (r den : Nat) (e : Int) (k : Nat) : Nat :=
  let q := quantum f r den e
  k * den * pow2 (q - e) / pow2 (e - q)

/-- frcp: 1 ULP, exact for powers of two with a representable reciprocal (R140, R141). -/
def rcpBits (f : Fmt) (x : XVal) (pick : Nat) : Nat :=
  match x with
  | .nan => canonNan f
  | .inf neg => signed f neg 0
  | .fin neg m e =>
    if m = 0 then infResult f neg false
    else if m = 2 ^ Nat.log2 m then roundQ f neg 1 m (-e) .rn false
    else
      let den := m * 2 ^ 128
      chooseWithin f neg (2 ^ 128) (ulpBound f (2 ^ 128) den (-e) 1) den (-e) pick

/-- frsq: 1 ULP, exact for 4^k (R140, R141). -/
def rsqBits (f : Fmt) (x : XVal) (pick : Nat) : Nat :=
  match x with
  | .nan => canonNan f
  | .inf neg => if neg then canonNan f else 0
  | .fin neg m e =>
    if m = 0 then infResult f neg false
    else if neg then canonNan f
    else
      -- 1/sqrt(m × 2^e) = sqrt(2^(2s) / m) × 2^(-s - e/2), after making the exponent even
      let m' := if e % 2 = 0 then m else 2 * m
      let e' := if e % 2 = 0 then e else e - 1
      let k := isqrt m'
      if k * k = m' ∧ k = 2 ^ Nat.log2 k then roundQ f false 1 k (-(e' / 2)) .rn false
      else
        let r := isqrt (2 ^ 640 / m')
        chooseWithin f false r (ulpBound f r 1 (-320 - e' / 2) 1) 1 (-320 - e' / 2) pick

/-- Fixed-point fraction bits of the reference series. -/
def fixBits : Nat := 300

/-- Sum of (-1)^i z^(2i+1) / (2i+1), in fixed point, alternating or not: atan or atanh of n/d. -/
def atanSeries (alt : Bool) (n d : Nat) : Int :=
  ((List.range 200).foldl (fun (acc : Int × Int) i =>
    (acc.1 + (if alt && decide (i % 2 = 1) then -1 else 1) * (acc.2 / ((2 * i + 1 : Nat) : Int)),
      acc.2 * ((n * n : Nat) : Int) / ((d * d : Nat) : Int))) (0, ((2 ^ fixBits * n / d : Nat) : Int))).1

/-- ln 2 = 2 atanh(1/3) and π = 16 atan(1/5) - 4 atan(1/239), in fixed point. -/
def fixLn2 : Int := 2 * atanSeries false 1 3
def fixPi : Int := 16 * atanSeries true 1 5 - 4 * atanSeries true 1 239

/-- Product of fixed-point numbers. -/
def fixMul (a b : Int) : Int := a * b / (2 ^ fixBits : Nat)

/-- exp(y) for a fixed-point y of small magnitude. -/
def fixExp (y : Int) : Int :=
  ((List.range 120).foldl (fun (acc : Int × Int) i =>
    (acc.1 + acc.2, fixMul acc.2 y / ((i + 1 : Nat) : Int))) (0, ((2 ^ fixBits : Nat) : Int))).1

/-- sin(y), or cos(y) when the first term is 1, for a fixed-point y below 7. -/
def fixTrig (cos : Bool) (y : Int) : Int :=
  let y2 := fixMul y y
  ((List.range 60).foldl (fun (acc : Int × Int) i =>
    let k : Int := if cos then ((2 * i + 1) * (2 * i + 2) : Nat) else ((2 * i + 2) * (2 * i + 3) : Nat)
    (acc.1 + acc.2, -(fixMul acc.2 y2 / k))) (0, if cos then ((2 ^ fixBits : Nat) : Int) else y)).1

/-- A finite value in fixed point, floor. -/
def toFix (neg : Bool) (m : Nat) (e : Int) : Int :=
  let sh := e + fixBits
  scaled neg (m * pow2 sh / pow2 (-sh)) 0 0

/-- A fixed-point result with an absolute bound 2^-k or a bound in ULP, of the sign it has. -/
def pickFix (r : Int) (b : Nat) (pick : Nat) : Nat :=
  chooseWithin fp32 (decide (r < 0)) r.natAbs b 1 (-(fixBits : Int)) pick

def absBound (k : Nat) : Nat := 2 ^ (fixBits - k)
def ulpFix (r : Int) (k : Nat) : Nat := ulpBound fp32 r.natAbs 1 (-(fixBits : Int)) k

/-- 2^y for fixed-point y = n + f: the magnitude 2^f in fixed point and the exponent n. -/
def exp2Parts (y : Int) : Int × Int :=
  let n := y / (2 ^ fixBits : Nat)
  (fixExp (fixMul (y - n * (2 ^ fixBits : Nat)) fixLn2), n)

/-- fexp2 (R140, R141). -/
def exp2Bits (x : XVal) (pick : Nat) : Nat :=
  match x with
  | .nan => canonNan fp32
  | .inf neg => if neg then 0 else infCode fp32
  | .fin neg m e =>
    if m = 0 then roundQ fp32 false 1 1 0 .rn false
    else if e ≥ 10 ∨ (m * pow2 e / pow2 (-e) ≥ 300) then (if neg then 0 else infCode fp32)
    else if m * pow2 e % pow2 (-e) = 0 then
      let n : Int := if neg then -((m * pow2 e / pow2 (-e) : Nat) : Int) else ((m * pow2 e / pow2 (-e) : Nat) : Int)
      roundQ fp32 false 1 1 n .rn false
    else
      let p := exp2Parts (toFix neg m e)
      chooseWithin fp32 false p.1.natAbs (ulpBound fp32 p.1.natAbs 1 (p.2 - fixBits) 2) 1 (p.2 - fixBits) pick

/-- log2 of m × 2^e in fixed point. -/
def fixLog2 (m : Nat) (e : Int) : Int :=
  let k := Nat.log2 m
  -- y = m / 2^k in [1, 2): ln y = 2 atanh((y - 1)/(y + 1))
  let ln := 2 * atanSeries false (m - 2 ^ k) (m + 2 ^ k)
  ln * (2 ^ fixBits : Nat) / fixLn2 + (e + k) * (2 ^ fixBits : Nat)

/-- flog2 (R140, R141): 2 ULP outside [0.5, 2], absolute 2^-22 inside. -/
def log2Bits (x : XVal) (pick : Nat) : Nat :=
  match x with
  | .nan => canonNan fp32
  | .inf neg => if neg then canonNan fp32 else infCode fp32
  | .fin neg m e =>
    if m = 0 then signed fp32 true (infCode fp32)
    else if neg then canonNan fp32
    else if m = 2 ^ Nat.log2 m then
      roundFp fp32 (ofInt (e + Nat.log2 m)) .rn false
    else
      let r := fixLog2 m e
      let inside := decide (log2Q m 1 + e = -1) || decide (log2Q m 1 + e = 0)
      pickFix r (if inside then absBound 22 else ulpFix r 2) pick

/-- x reduced modulo 2π, in fixed point. -/
def reduceTrig (neg : Bool) (m : Nat) (e : Int) : Int := toFix neg m e % (2 * fixPi)

/-- fsin and fcos: absolute 2^-21; the sine of the smallest subnormal lies below it, and is zero (R140, R141). -/
def trigBits (cos : Bool) (x : XVal) (pick : Nat) : Nat :=
  match x with
  | .nan => canonNan fp32
  | .inf _ => canonNan fp32
  | .fin neg m e =>
    if m = 0 then (if cos then roundQ fp32 false 1 1 0 .rn false else signed fp32 neg 0)
    else if !cos && decide (m * pow2 (e + 148) < pow2 (-(e + 148))) then signed fp32 neg 0
    else pickFix (fixTrig cos (reduceTrig neg m e)) (absBound 21) pick

/-- ftanh: the larger of 2 ULP and absolute 2^-22 (R140, R141). -/
def tanhBits (x : XVal) (bits pick : Nat) : Nat :=
  match x with
  | .nan => canonNan fp32
  | .inf neg => roundQ fp32 neg 1 1 0 .rn false
  | .fin neg m e =>
    if m = 0 then signed fp32 neg 0
    else if m * pow2 e ≥ 9 * pow2 (-e) then roundQ fp32 neg 1 1 0 .rn false
    else if m * pow2 (e + 12) < pow2 (-(e + 12)) then bits
    else
      -- tanh|x| = (E - 1)/(E + 1) with E = 2^(2|x|/ln 2)
      let p := exp2Parts (2 * toFix false m e * (2 ^ fixBits : Nat) / fixLn2)
      let ex := p.1 * (pow2 p.2 : Int)
      let one : Int := ((2 ^ fixBits : Nat) : Int)
      let r := (ex - one) * one / (ex + one)
      pickFix (if neg then -r else r) (max (absBound 22) (ulpFix r 2)) pick

end Sys2Proof.Machine
end

