-- ==== Sys2Proof/Machine/Float.lean ====
section
/-! DEFINITION. Meanings of majors 19 to 30 and of the compact floating-point forms: arithmetic, compares, special
functions, packed 16-bit arithmetic, conversions and block quantization (R128 to R153). Only the vector role may issue
them (R128). -/
namespace Sys2Proof.Machine

/-! ### Operations on patterns -/

/-- FP32 at 32 bits, FP64 at 64 (R128). -/
def fmtOf (n : Nat) : Fmt := if n = 64 then fp64 else fp32

/-- An operation on two patterns of a format. -/
abbrev Pat2 := Fmt → Nat → Nat → Nat

def onPat (f : Pat2) : Bin := fun n a b => BitVec.ofNat n (f (fmtOf n) a.toNat b.toNat)
def onPat3 (f : Fmt → Nat → Nat → Nat → Nat) : (n : Nat) → BitVec n → BitVec n → BitVec n → BitVec n :=
  fun n a b d => BitVec.ofNat n (f (fmtOf n) a.toNat b.toNat d.toNat)
def onPat1 (f : Fmt → Nat → Nat) : Un := fun n a => BitVec.ofNat n (f (fmtOf n) a.toNat)

/-- One rounding of an exact result; infinities pass (R133). -/
def faddPat (rm : Rnd) : Pat2 := fun k a b => roundFp k (addX (decodeFp k a) (decodeFp k b) rm) rm false
def fsubPat (rm : Rnd) : Pat2 := fun k a b => roundFp k (addX (decodeFp k a) (negX (decodeFp k b)) rm) rm false
def fmulPat (rm : Rnd) : Pat2 := fun k a b => roundFp k (mulX (decodeFp k a) (decodeFp k b)) rm false

/-- x × y + z, or -(x × y) + z (R133). -/
def ffmaPat (neg : Bool) (rm : Rnd) (k : Fmt) (a b d : Nat) : Nat :=
  let p := mulX (decodeFp k a) (decodeFp k b)
  roundFp k (addX (if neg then negX p else p) (decodeFp k d) rm) rm false

/-- fmin and fmax; `prop` for the forms that propagate a NaN (R135). -/
def fminmaxPat (wantMax prop : Bool) : Pat2 := fun k a b =>
  let x := decodeFp k a
  let y := decodeFp k b
  if isNan x && isNan y then canonNan k
  else if isNan x then (if prop then canonNan k else b)
  else if isNan y then (if prop then canonNan k else a)
  else if wantMax then (if ltSigned x y then b else a)
  else (if ltSigned y x then b else a)

/-- Sign operations on patterns (R136). -/
def fabsPat (k : Fmt) (a : Nat) : Nat := a % 2 ^ (k.bits - 1)
def fnegPat (k : Fmt) (a : Nat) : Nat := signed k (decide (a < 2 ^ (k.bits - 1))) (a % 2 ^ (k.bits - 1))
def fcsgnPat : Pat2 := fun k a b => signed k (decide (b ≥ 2 ^ (k.bits - 1))) (a % 2 ^ (k.bits - 1))

/-- The class bit of a pattern (R137). -/
def fclassPat (k : Fmt) (a : Nat) : Nat :=
  let neg := decide (a ≥ 2 ^ (k.bits - 1))
  match decodeFp k a with
  | .nan => if a / 2 ^ (k.frac - 1) % 2 = 1 then 2 ^ 9 else 2 ^ 8
  | .inf s => if s then 1 else 2 ^ 7
  | .fin _ m _ =>
    if m = 0 then (if neg then 2 ^ 3 else 2 ^ 4)
    else if m < 2 ^ k.frac then (if neg then 2 ^ 2 else 2 ^ 5)
    else (if neg then 2 else 2 ^ 6)

/-- The relations of R138. -/
def fcondHolds (c : FCond) (r : Rel) : Bool :=
  match c with
  | .eq => decide (r = .eq)
  | .ne => !decide (r = .eq)
  | .lt => decide (r = .lt)
  | .le => decide (r = .lt) || decide (r = .eq)
  | .gt => decide (r = .gt)
  | .ge => decide (r = .gt) || decide (r = .eq)
  | .un => decide (r = .un)
  | .or => !decide (r = .un)
  | .ueq => decide (r = .un) || decide (r = .eq)
  | .ult => decide (r = .un) || decide (r = .lt)
  | .ule => !decide (r = .gt)
  | .ugt => decide (r = .un) || decide (r = .gt)
  | .uge => !decide (r = .lt)
  | .one => decide (r = .lt) || decide (r = .gt)

/-- B of fcmp: a register or kN at the width, or an immediate integer converted exactly (R139). -/
def fcmpB (x : FCmp) (s : State) (t : Thread) : XVal :=
  match x.b with
  | .imm i => ofInt i.toInt
  | _ => if x.w = .x2 then decodeFp fp64 (srcB2 s t x.b).toNat else decodeFp fp32 (srcB s t x.b).toNat

def fcmpA (x : FCmp) (t : Thread) : XVal :=
  if x.w = .x2 then decodeFp fp64 (getV2 t x.a).toNat else decodeFp fp32 (getV t x.a).toNat

/-- fldexp (R142). Beyond 4000 either way every result is the overflow or the zero of 4000. -/
def fldexpPat : Pat2 := fun k a b =>
  match decodeFp k a with
  | .nan => canonNan k
  | .inf _ => a
  | .fin neg m e => if m = 0 then a else roundQ k neg m 1 (e + clampInt (-4000) 4000 (sext 32 b)) .rn false

/-- frnd (R143). -/
def frndPat (rm : Rnd) (k : Fmt) (a : Nat) : Nat :=
  match decodeFp k a with
  | .nan => canonNan k
  | .inf _ => a
  | .fin neg m e => if m = 0 then a else roundQ k neg (roundIntX neg m e rm).natAbs 1 0 .rn false

/-- fexpof (R144). -/
def fexpofOp : Un := fun n a =>
  match decodeFp (fmtOf n) a.toNat with
  | .nan => BitVec.ofNat n (2 ^ (n - 1) - 1)
  | .inf _ => BitVec.ofNat n (2 ^ (n - 1) - 1)
  | .fin _ m e => if m = 0 then BitVec.ofNat n (2 ^ (n - 1)) else BitVec.ofInt n (e + Nat.log2 m)

/-- ffract (R144). -/
def ffractPat (k : Fmt) (a : Nat) : Nat :=
  match decodeFp k a with
  | .nan => canonNan k
  | .inf neg => signed k neg 0
  | .fin neg m e => roundQ k neg (if e < 0 then m % pow2 (-e) else 0) 1 e .rn false

/-! ### Packed 16-bit elements (R145, R146) -/

def halfFmt (bf : Bool) : Fmt := if bf then bf16 else fp16

/-- Element e of a packed pattern. -/
def half (x e : Nat) : Nat := x / 2 ^ (16 * e) % 2 ^ 16

/-- A packed pattern of n bits from its elements. -/
def ofHalves (n : Nat) (f : Nat → Nat) : BitVec n :=
  BitVec.ofNat n (sumNat ((List.range (n / 16)).map fun e => f e * 2 ^ (16 * e)))

def onHalves (bf : Bool) (f : Pat2) : Bin := fun n a b =>
  ofHalves n fun e => f (halfFmt bf) (half a.toNat e) (half b.toNat e)
def onHalves1 (bf : Bool) (f : Fmt → Nat → Nat) : Un := fun n a =>
  ofHalves n fun e => f (halfFmt bf) (half a.toNat e)

/-- Relation codes (R146). -/
def hcmpPat : Pat2 := fun k a b =>
  match relX (decodeFp k a) (decodeFp k b) with
  | .lt => 1
  | .eq => 2
  | .gt => 4
  | .un => 8

/-! ### Conversions (R147 to R151) -/

def intLo (n : Nat) : Int := -(2 ^ (n - 1) : Nat)
def intHi (n : Nat) : Int := (2 ^ (n - 1) : Nat) - 1

def toS (n : Nat) (x : XVal) (rm : Rnd) : BitVec n := BitVec.ofInt n (fpToInt x (intLo n) (intHi n) rm)
def toZ (n : Nat) (x : XVal) (rm : Rnd) : BitVec n := BitVec.ofInt n (fpToInt x 0 ((2 ^ n : Nat) - 1) rm)
def ofF32 (x : XVal) (rm : Rnd) : BitVec 32 := BitVec.ofNat 32 (roundFp fp32 x rm false)
def ofF64 (x : XVal) (rm : Rnd) : BitVec 64 := BitVec.ofNat 64 (roundFp fp64 x rm false)

/-- A direct conversion of one thread (R147, R148). -/
def cvtThread (x : Cvt) (t : Thread) : Thread :=
  let a1 := getV t x.a
  let a2 := getV2 t x.a
  let f1 := decodeFp fp32 a1.toNat
  let f2 := decodeFp fp64 a2.toNat
  match x.k.toNat with
  | 0 => setV t x.d (ofF32 f2 x.r)
  | 1 => setV2 t x.d (ofF64 f1 x.r)
  | 2 => setV t x.d (toS 32 f1 x.r)
  | 3 => setV t x.d (toZ 32 f1 x.r)
  | 4 => setV t x.d (ofF32 (ofInt a1.toInt) x.r)
  | 5 => setV t x.d (ofF32 (ofInt (a1.toNat : Int)) x.r)
  | 6 => setV2 t x.d (toS 64 f2 x.r)
  | 7 => setV2 t x.d (toZ 64 f2 x.r)
  | 8 => setV2 t x.d (ofF64 (ofInt a2.toInt) x.r)
  | 9 => setV2 t x.d (ofF64 (ofInt (a2.toNat : Int)) x.r)
  | 10 => setV t x.d (toS 32 f2 x.r)
  | 11 => setV2 t x.d (ofF64 (ofInt a1.toInt) x.r)
  | 12 => setV2 t x.d (toS 64 f1 x.r)
  | _ => setV t x.d (ofF32 (ofInt a2.toInt) x.r)

/-- Format slot fN of a thread's launch (R35). -/
def formatSlot (s : State) (t : Thread) (f : BitVec 3) : SlotWord :=
  match findLaunch s t.launch with
  | some l => slotWord ((l.lr.f[f.toNat]?).getD 0)
  | none => slotWord 0

/-- The slot the gang's instruction names. -/
def gangFormat (s : State) (f : BitVec 3) : SlotWord :=
  match actives s with
  | t :: _ => formatSlot s t f
  | [] => slotWord 0

/-- Count zero-and-count replacements of a launch (R150). -/
def countNan (s : State) (launch n : Nat) : State :=
  updLaunch s launch fun l => { l with counts := { l.counts with convNan := satAdd32 l.counts.convNan n } }

/-- Every active thread takes the illegal-encoding trap (R90). -/
def illegalAll (i : Instr) (s : State) : Host.Outcome State Fault Refusal :=
  perThread i false (fun s t => (s, t, .plain 1)) s

/-- Element number modulo the elements of a register (R149). -/
def elementIn (k : Nat) (e : BitVec 3) : Nat := e.toNat % (32 / kindBits k)

/-- Replace bits [b·i + b - 1 : b·i] of a word. -/
def putElement (d : Word) (b i c : Nat) : Word :=
  BitVec.ofNat 32 (d.toNat - (d.toNat / 2 ^ (b * i) % 2 ^ b) * 2 ^ (b * i) + (c % 2 ^ b) * 2 ^ (b * i))

/-- cvt.to of one thread (R149, R151). -/
def cvtToThread (x : CvtSlot) (f : SlotWord) (s : State) (t : Thread) : State × Thread × Fate :=
  let v := decodeFp fp32 (getV t x.a).toNat
  let put := fun (v : XVal) =>
    setV t x.d (putElement (getV t x.d) (kindBits f.kind) (elementIn f.kind x.e) (encodeKind f.kind v f.rnd f.sat))
  if isNan v && decide (f.nanm = 2) then (s, t, .plain 4)
  else if isNan v && decide (f.nanm = 1) then (countNan s t.launch 1, put posZero, .next)
  else (s, put v, .next)

/-- cvt.from of one thread (R149, R151). -/
def cvtFromThread (x : CvtSlot) (f : SlotWord) (s : State) (t : Thread) : State × Thread × Fate :=
  let b := kindBits f.kind
  let v := decodeKind f.kind ((getV t x.a).toNat / 2 ^ (b * elementIn f.kind x.e) % 2 ^ b)
  let put := fun (v : XVal) => setV t x.d (ofF32 v .rn)
  if isNan v && decide (f.nanm = 2) then (s, t, .plain 4)
  else if isNan v && decide (f.nanm = 1) then (countNan s t.launch 1, put posZero, .next)
  else (s, put v, .next)

/-- A slot conversion: illegal with KIND 5 or a sparse slot (R149). -/
def cvtSlot (i : Instr) (x : CvtSlot) (body : SlotWord → State → Thread → State × Thread × Fate) (s : State) :
    Host.Outcome State Fault Refusal :=
  let f := gangFormat s x.f
  if f.kind = 5 ∨ f.spn ≠ 0 then illegalAll i s
  else perThread i x.m.sw (withRole onlyVector (body f)) s

/-! ### Block quantize (R152, R153) -/

/-- The vector-role threads of the gang in the block group of a thread. -/
def blockGroup (s : State) (t : Thread) : List Thread :=
  (actives s).filter fun u => onlyVector u.role && decide (u.tid / 32 = t.tid / 32)

/-- Member i of a block group. -/
def blockMember (ts : List Thread) (i : Nat) : Option Thread := ts.find? fun u => decide (u.tid % 32 = i)

/-- The thread's source as an FP32 value. -/
def srcF32 (a : BitVec 6) (t : Thread) : XVal := decodeFp fp32 (getV t a).toNat

/-- The elements of a group, NaNs replaced in zero-and-count mode; a missing element is +0 (R152). -/
def blockElements (a : BitVec 6) (f : SlotWord) (ts : List Thread) : List XVal :=
  (List.range 32).map fun i =>
    match blockMember ts i with
    | none => posZero
    | some u => if isNan (srcF32 a u) && decide (f.nanm = 1) then posZero else srcF32 a u

/-- Words of a block as threads 0 to m hold them. -/
def blockWord (b : Block) (m i : Nat) : Word :=
  if i < m then BitVec.ofNat 32 (mantFieldOfBlock b m / 2 ^ (32 * i) % 2 ^ 32)
  else if i = m then BitVec.ofNat 32 (scaleOfBlock b)
  else 0

/-- bfpq of one thread, over the state at issue. -/
def bfpqThread (x : Bfp) (f : SlotWord) (s0 : State) (s : State) (t : Thread) : State × Thread × Fate :=
  if (actives s0).any fun u => onlyVector u.role && isNan (srcF32 x.a u) && decide (f.nanm = 2) then (s, t, .plain 4)
  else
    let b := bfpQuantize (blockElements x.a f (blockGroup s0 t)) f.m f.rnd f.sat
    let i := t.tid % 32
    let t1 := setV2 t x.d (BitVec.ofInt 32 ((b.mant[i]?).getD 0) ++ blockWord b f.m i)
    (if isNan (srcF32 x.a t) && decide (f.nanm = 1) then countNan s t.launch 1 else s, t1, .next)

/-- Word j of the block a group holds, 0 where no such thread is active (R153). -/
def groupWord (a : BitVec 6) (ts : List Thread) (j : Nat) : Nat :=
  match blockMember ts j with
  | some u => (getV u a).toNat
  | none => 0

/-- The element bfpdq delivers to a thread. -/
def bfpdqValue (x : Bfp) (f : SlotWord) (s0 : State) (t : Thread) : XVal :=
  let ts := blockGroup s0 t
  let fld := sumNat ((List.range f.m).map fun j => groupWord x.a ts j * 2 ^ (32 * j))
  bfpValue (sext f.m (fld / 2 ^ (f.m * (t.tid % 32)))) (groupWord x.a ts f.m % 2 ^ 20) f.m

/-- bfpdq of one thread, over the state at issue. -/
def bfpdqThread (x : Bfp) (f : SlotWord) (s0 : State) (s : State) (t : Thread) : State × Thread × Fate :=
  if (actives s0).any fun u => onlyVector u.role && isNan (bfpdqValue x f s0 u) && decide (f.nanm = 2) then
    (s, t, .plain 4)
  else
    let v := bfpdqValue x f s0 t
    if isNan v && decide (f.nanm = 1) then (countNan s t.launch 1, setV t x.d 0, .next)
    else (s, setV t x.d (ofF32 v .rn), .next)

/-- Both: illegal unless the slot is a dense BFP slot (R152). -/
def bfpGang (i : Instr) (x : Bfp) (body : SlotWord → State → State → Thread → State × Thread × Fate) (s : State) :
    Host.Outcome State Fault Refusal :=
  let f := gangFormat s x.f
  if f.kind ≠ 5 ∨ f.spn ≠ 0 then illegalAll i s
  else perThread i x.m.sw (withRole onlyVector (body f s)) s

/-! ### Special functions (R140, R141) -/

/-- frcp, frsq and fsqrt at either width. -/
def rcpPat (k : Fmt) (a : Nat) : Nat := rcpBits k (decodeFp k a) (Config.rcpPick (decide (k.bits = 64)) a)
def rsqPat (k : Fmt) (a : Nat) : Nat := rsqBits k (decodeFp k a) (Config.rsqPick (decide (k.bits = 64)) a)
def sqrtPat (k : Fmt) (a : Nat) : Nat := sqrtBits k (decodeFp k a)

/-- An FP32 function whose value inside its bound is Config's. -/
def specialUn (n : Nat) (f : XVal → Nat → Nat) (a : Word) : Word :=
  BitVec.ofNat 32 (f (decodeFp fp32 a.toNat) (Config.special n a).toNat)

/-- A pending special function at x1. -/
def pendSpecial (n : Nat) (f : XVal → Nat → Nat) (x : R2) (t : Thread) : Thread :=
  pendRegs t [(x.d, specialUn n f (getV t x.a))]

/-! ### Meanings -/

/-- Compact fadd at FP32 (R76, R133, R135). -/
def execFaddC (x : CompactReg) (s : State) : Host.Outcome State Fault Refusal :=
  vectorOp (.faddC x) false (bin (onPat (faddPat .rn)) .x1 x.d (0#1 ++ x.b) x.d) s

/-- Compact fmul at FP32 (R76, R133, R135). -/
def execFmulC (x : CompactReg) (s : State) : Host.Outcome State Fault Refusal :=
  vectorOp (.fmulC x) false (bin (onPat (fmulPat .rn)) .x1 x.d (0#1 ++ x.b) x.d) s

/-- Compact fmin at FP32 (R76, R133, R135). -/
def execFminC (x : CompactReg) (s : State) : Host.Outcome State Fault Refusal :=
  vectorOp (.fminC x) false (bin (onPat (fminmaxPat false false)) .x1 x.d (0#1 ++ x.b) x.d) s

/-- Compact fmax at FP32 (R76, R133, R135). -/
def execFmaxC (x : CompactReg) (s : State) : Host.Outcome State Fault Refusal :=
  vectorOp (.fmaxC x) false (bin (onPat (fminmaxPat true false)) .x1 x.d (0#1 ++ x.b) x.d) s

/-- fadd (R133). -/
def execFadd (x : FArith) (s : State) : Host.Outcome State Fault Refusal :=
  vectorOp (.fadd x) x.m.sw (bin (onPat (faddPat x.r)) x.w x.a x.b x.d) s

/-- fsub (R133). -/
def execFsub (x : FArith) (s : State) : Host.Outcome State Fault Refusal :=
  vectorOp (.fsub x) x.m.sw (bin (onPat (fsubPat x.r)) x.w x.a x.b x.d) s

/-- fmul (R133). -/
def execFmul (x : FArith) (s : State) : Host.Outcome State Fault Refusal :=
  vectorOp (.fmul x) x.m.sw (bin (onPat (fmulPat x.r)) x.w x.a x.b x.d) s

/-- ffma into the old destination (R133). -/
def execFfma (x : FArith) (s : State) : Host.Outcome State Fault Refusal :=
  vectorOp (.ffma x) x.m.sw (ter (onPat3 (ffmaPat false x.r)) x.w x.a x.b x.d) s

/-- fnma into the old destination (R133). -/
def execFnma (x : FArith) (s : State) : Host.Outcome State Fault Refusal :=
  vectorOp (.fnma x) x.m.sw (ter (onPat3 (ffmaPat true x.r)) x.w x.a x.b x.d) s

/-- fmin (R135). -/
def execFmin (x : VF3) (s : State) : Host.Outcome State Fault Refusal :=
  vectorOp (.fmin x) x.m.sw (bin (onPat (fminmaxPat false false)) x.w x.a x.b x.d) s

/-- fmax (R135). -/
def execFmax (x : VF3) (s : State) : Host.Outcome State Fault Refusal :=
  vectorOp (.fmax x) x.m.sw (bin (onPat (fminmaxPat true false)) x.w x.a x.b x.d) s

/-- fminNan (R135). -/
def execFminNan (x : VF3) (s : State) : Host.Outcome State Fault Refusal :=
  vectorOp (.fminNan x) x.m.sw (bin (onPat (fminmaxPat false true)) x.w x.a x.b x.d) s

/-- fmaxNan (R135). -/
def execFmaxNan (x : VF3) (s : State) : Host.Outcome State Fault Refusal :=
  vectorOp (.fmaxNan x) x.m.sw (bin (onPat (fminmaxPat true true)) x.w x.a x.b x.d) s

/-- fabs (R136). -/
def execFabs (x : VF2) (s : State) : Host.Outcome State Fault Refusal :=
  vectorOp (.fabs x) x.m.sw (un (onPat1 fabsPat) x.w x.a x.d) s

/-- fneg (R136). -/
def execFneg (x : VF2) (s : State) : Host.Outcome State Fault Refusal :=
  vectorOp (.fneg x) x.m.sw (un (onPat1 fnegPat) x.w x.a x.d) s

/-- fcsgn (R136). -/
def execFcsgn (x : VF3) (s : State) : Host.Outcome State Fault Refusal :=
  vectorOp (.fcsgn x) x.m.sw (bin (onPat fcsgnPat) x.w x.a x.b x.d) s

/-- fclass (R137). -/
def execFclass (x : VF2) (s : State) : Host.Outcome State Fault Refusal :=
  vectorOp (.fclass x) x.m.sw (un (onPat1 fclassPat) x.w x.a x.d) s

/-- fcmp (R138, R139). -/
def execFcmp (x : FCmp) (s : State) : Host.Outcome State Fault Refusal :=
  vectorOp (.fcmp x) x.m.sw (fun t => setP t x.q (fcondHolds x.c (relX (fcmpA x t) (fcmpB x s t)))) s

/-- frcp, pending (R140, R141). -/
def execFrcp (x : VF2) (s : State) : Host.Outcome State Fault Refusal :=
  vectorOp (.frcp x) x.m.sw (pendUn (onPat1 rcpPat) x.w x.a x.d) s

/-- frsq, pending (R140, R141). -/
def execFrsq (x : VF2) (s : State) : Host.Outcome State Fault Refusal :=
  vectorOp (.frsq x) x.m.sw (pendUn (onPat1 rsqPat) x.w x.a x.d) s

/-- fsqrt, pending (R140, R141). -/
def execFsqrt (x : VF2) (s : State) : Host.Outcome State Fault Refusal :=
  vectorOp (.fsqrt x) x.m.sw (pendUn (onPat1 sqrtPat) x.w x.a x.d) s

/-- fexp2, pending (R140, R141). -/
def execFexp2 (x : R2) (s : State) : Host.Outcome State Fault Refusal :=
  vectorOp (.fexp2 x) x.m.sw (pendSpecial 0 exp2Bits x) s

/-- flog2, pending (R140, R141). -/
def execFlog2 (x : R2) (s : State) : Host.Outcome State Fault Refusal :=
  vectorOp (.flog2 x) x.m.sw (pendSpecial 1 log2Bits x) s

/-- fsin, pending (R140, R141). -/
def execFsin (x : R2) (s : State) : Host.Outcome State Fault Refusal :=
  vectorOp (.fsin x) x.m.sw (pendSpecial 2 (trigBits false) x) s

/-- fcos, pending (R140, R141). -/
def execFcos (x : R2) (s : State) : Host.Outcome State Fault Refusal :=
  vectorOp (.fcos x) x.m.sw (pendSpecial 3 (trigBits true) x) s

/-- ftanh, pending (R140, R141). -/
def execFtanh (x : R2) (s : State) : Host.Outcome State Fault Refusal :=
  vectorOp (.ftanh x) x.m.sw (fun t => pendSpecial 4 (fun v n => tanhBits v (getV t x.a).toNat n) x t) s

/-- fldexp (R142). -/
def execFldexp (x : VF3) (s : State) : Host.Outcome State Fault Refusal :=
  vectorOp (.fldexp x) x.m.sw (bin (onPat fldexpPat) x.w x.a x.b x.d) s

/-- frnd.rn (R143). -/
def execFrndRn (x : VF2) (s : State) : Host.Outcome State Fault Refusal :=
  vectorOp (.frndRn x) x.m.sw (un (onPat1 (frndPat .rn)) x.w x.a x.d) s

/-- frnd.rz (R143). -/
def execFrndRz (x : VF2) (s : State) : Host.Outcome State Fault Refusal :=
  vectorOp (.frndRz x) x.m.sw (un (onPat1 (frndPat .rz)) x.w x.a x.d) s

/-- frnd.rd (R143). -/
def execFrndRd (x : VF2) (s : State) : Host.Outcome State Fault Refusal :=
  vectorOp (.frndRd x) x.m.sw (un (onPat1 (frndPat .rd)) x.w x.a x.d) s

/-- frnd.ru (R143). -/
def execFrndRu (x : VF2) (s : State) : Host.Outcome State Fault Refusal :=
  vectorOp (.frndRu x) x.m.sw (un (onPat1 (frndPat .ru)) x.w x.a x.d) s

/-- fexpof (R144). -/
def execFexpof (x : VF2) (s : State) : Host.Outcome State Fault Refusal :=
  vectorOp (.fexpof x) x.m.sw (un fexpofOp x.w x.a x.d) s

/-- ffract (R144). -/
def execFfract (x : VF2) (s : State) : Host.Outcome State Fault Refusal :=
  vectorOp (.ffract x) x.m.sw (un (onPat1 ffractPat) x.w x.a x.d) s

/-- hadd (R145). -/
def execHadd (x : H3) (s : State) : Host.Outcome State Fault Refusal :=
  vectorOp (.hadd x) x.m.sw (bin (onHalves x.bf (faddPat .rn)) x.w x.a x.b x.d) s

/-- hsub (R145). -/
def execHsub (x : H3) (s : State) : Host.Outcome State Fault Refusal :=
  vectorOp (.hsub x) x.m.sw (bin (onHalves x.bf (fsubPat .rn)) x.w x.a x.b x.d) s

/-- hmul (R145). -/
def execHmul (x : H3) (s : State) : Host.Outcome State Fault Refusal :=
  vectorOp (.hmul x) x.m.sw (bin (onHalves x.bf (fmulPat .rn)) x.w x.a x.b x.d) s

/-- hfma into the old destination (R145). -/
def execHfma (x : H3) (s : State) : Host.Outcome State Fault Refusal :=
  vectorOp (.hfma x) x.m.sw (ter (fun n a b d => ofHalves n fun e =>
    ffmaPat false .rn (halfFmt x.bf) (half a.toNat e) (half b.toNat e) (half d.toNat e)) x.w x.a x.b x.d) s

/-- hmin (R146). -/
def execHmin (x : H3) (s : State) : Host.Outcome State Fault Refusal :=
  vectorOp (.hmin x) x.m.sw (bin (onHalves x.bf (fminmaxPat false false)) x.w x.a x.b x.d) s

/-- hmax (R146). -/
def execHmax (x : H3) (s : State) : Host.Outcome State Fault Refusal :=
  vectorOp (.hmax x) x.m.sw (bin (onHalves x.bf (fminmaxPat true false)) x.w x.a x.b x.d) s

/-- hcmp (R146). -/
def execHcmp (x : H3) (s : State) : Host.Outcome State Fault Refusal :=
  vectorOp (.hcmp x) x.m.sw (bin (onHalves x.bf (hcmpPat)) x.w x.a x.b x.d) s

/-- habs (R136, R146). -/
def execHabs (x : H2) (s : State) : Host.Outcome State Fault Refusal :=
  vectorOp (.habs x) x.m.sw (un (onHalves1 x.bf fabsPat) x.w x.a x.d) s

/-- hneg (R136, R146). -/
def execHneg (x : H2) (s : State) : Host.Outcome State Fault Refusal :=
  vectorOp (.hneg x) x.m.sw (un (onHalves1 x.bf fnegPat) x.w x.a x.d) s

/-- A direct cvt (R148). -/
def execCvtDirect (x : Cvt) (s : State) : Host.Outcome State Fault Refusal :=
  vectorOp (.cvtDirect x) x.m.sw (cvtThread x) s

/-- cvt.to (R149 to R151). -/
def execCvtTo (x : CvtSlot) (s : State) : Host.Outcome State Fault Refusal :=
  cvtSlot (.cvtTo x) x (cvtToThread x) s

/-- cvt.from (R149 to R151). -/
def execCvtFrom (x : CvtSlot) (s : State) : Host.Outcome State Fault Refusal :=
  cvtSlot (.cvtFrom x) x (cvtFromThread x) s

/-- bfpq (R152). -/
def execBfpq (x : Bfp) (s : State) : Host.Outcome State Fault Refusal :=
  bfpGang (.bfpq x) x (bfpqThread x) s

/-- bfpdq (R153). -/
def execBfpdq (x : Bfp) (s : State) : Host.Outcome State Fault Refusal :=
  bfpGang (.bfpdq x) x (bfpdqThread x) s

end Sys2Proof.Machine
end

