-- ==== Sys2Proof/Machine/Control.lean ====
section
/-! DEFINITION. Meanings of majors 32 to 43 that touch no memory: branches and indirect transfers, reform, the awaits on
rings, the far group, guard slots and clocks, exit and abort, subgroups and collectives, system and guard instructions
(R154 to R178). -/
namespace Sys2Proof.Machine

/-! ### Transfers -/

/-- A PC from an offset that may leave the code on either side; PCs are 32 bits. -/
def pcOf (x : Int) : Nat := (x % (2 ^ 32 : Nat)).toNat

/-- The next PC of a thread at a `bra` (R87, R157). -/
def braThread (x : Bra) (s : State) (t : Thread) : State × Thread × Fate :=
  if x.g = 0 ∨ xor (getP t x.g) x.n then (s, t, .goto (pcOf ((t.pc : Int) + x.o.toInt))) else (s, t, .next)

/-- The offset an ordinal names inside the issuing kernel, or none for BAD_TARGET (R160). -/
def targetOf (s : State) (t : Thread) (o : Nat) : Option Nat :=
  match imageOf s t.launch, kernelOf s t.launch with
  | some img, some k =>
    match img.stops[o]? with
    | some e => if k.first ≤ e.off ∧ e.off < k.last then some e.off else none
    | none => none
  | _, _ => none

/-- An indirect transfer of one thread; it ends trap state (R160, R353). -/
def transfer (target : BitVec 6) (link : Thread → Thread) (s : State) (t : Thread) : State × Thread × Fate :=
  match targetOf s t (getV t target).toNat with
  | some pc => (s, leaveTrap (link t), .goto pc)
  | none => (s, t, .trap 9 0 ((getV t target).setWidth 64))

/-- The stop bit of the word at a parcel (R73, R77). -/
def stopBitAt (img : ModuleImage) (pc : Nat) : Bool :=
  match img.code[pc]? with
  | some p => p.getLsbD 0 && p.getLsbD 2
  | none => false

/-- The ordinal of the safe point at a PC (R80). -/
def safeOrdinal (s : State) (t : Thread) (pc : Nat) : Option Nat :=
  match imageOf s t.launch with
  | some img => if stopBitAt img pc then ordinalAt img.stops pc else none
  | none => none

/-- bra (R157, R158). -/
def execBra (x : Bra) (s : State) : Host.Outcome State Fault Refusal := perThread (.bra x) x.m.sw (braThread x) s

/-- jmp (R160). -/
def execJmp (x : R1) (s : State) : Host.Outcome State Fault Refusal :=
  perThread (.jmp x) x.m.sw (transfer x.r id) s

/-- call: NOSAFE on every thread unless a safe point follows (R160). -/
def execCall (x : Call) (s : State) : Host.Outcome State Fault Refusal :=
  perThread (.call x) x.m.sw (fun s t =>
    match safeOrdinal s t (t.pc + 2) with
    | some o => transfer x.t (fun t => setV t x.l (BitVec.ofNat 32 o)) s t
    | none => (s, t, .plain 8)) s

/-- ret (R160). -/
def execRet (x : R1) (s : State) : Host.Outcome State Fault Refusal :=
  perThread (.ret x) x.m.sw (transfer x.r id) s

/-- reform: the fragment and its siblings are filed under their next PCs and the slot is free (R159, R162). -/
def execReform (x : M0) (s : State) : Host.Outcome State Fault Refusal :=
  match s.turn with
  | some k => .next (releaseSlot (mapActive 2 x.m.sw id s) k)
  | none => .next (mapActive 2 x.m.sw id s)

/-! ### Await (R164, R165) -/

/-- A blocking test: go on, block at a safe point, or NOSAFE. -/
def blockUnless (holds stop : Bool) (wake operand : Nat) (q : Bool) (s : State) (t : Thread) : Fate :=
  if holds then .next
  else if isSafePoint s t stop then .block wake operand q
  else .plain 8

/-- The ring a thread's operand names, none for BAD_OPERAND. -/
def ringOf (s : State) (t : Thread) (n : Nat) : Option Ring :=
  match findWg s t.wg with
  | some g => findRing g n
  | none => none

/-- await.ring and await.ring.free. -/
def execAwaitRing (x : AwaitQ) (s : State) : Host.Outcome State Fault Refusal :=
  perThread (.awaitRing x) x.m.sw (fun s t =>
    let n := (getV t x.a).toNat % 256
    match ringOf s t n with
    | none => (s, t, .plain 10)
    | some r => (s, t, blockUnless (if x.q then !r.countsFull else !r.empty) x.m.stop 2 n x.q s t)) s

/-- The ACCESS trap of a far violation not yet raised (R194). -/
def farCheck (body : State → Thread → State × Thread × Fate) (s : State) (t : Thread) : State × Thread × Fate :=
  match t.farFault with
  | some a => (s, { t with farFault := none }, .trap 14 0 (BitVec.ofNat 64 a))
  | none => body s t

/-- await.far. -/
def execAwaitFar (x : M0) (s : State) : Host.Outcome State Fault Refusal :=
  perThread (.awaitFar x) x.m.sw (farCheck fun s t => (s, t, blockUnless t.far.isEmpty x.m.stop 3 0 false s t)) s

/-- await.gd: the outcome is written when the slot is TRUE or FALSE. -/
def execAwaitGd (x : AwaitGd) (s : State) : Host.Outcome State Fault Refusal :=
  perThread (.awaitGd x) x.m.sw (fun s t =>
    match (findWg s t.wg).map fun g => guardState g x.g.toNat with
    | some .isTrue => (s, setV t x.d 1, .next)
    | some .isFalse => (s, setV t x.d 0, .next)
    | _ => (s, t, blockUnless false x.m.stop 4 x.g.toNat false s t)) s

/-- await.tmr: %clock or %ptptime against a time. -/
def execAwaitTmr (x : AwaitQ) (s : State) : Host.Outcome State Fault Refusal :=
  perThread (.awaitTmr x) x.m.sw (fun s t =>
    let v := (getV2 t x.a).toNat
    (s, t, blockUnless (decide (v ≤ if x.q then s.ptp.time else s.clock)) x.m.stop 6 v x.q s t)) s

/-! ### Exit and abort -/

/-- exit (R167, R353). -/
def execExit (x : M0) (s : State) : Host.Outcome State Fault Refusal :=
  perThread (.exit x) x.m.sw (farCheck fun s t => (s, leaveTrap t, .exit)) s

/-- abort: the code of the active thread with the lowest seat; ABORTED is status 1 (R168, R388). -/
def execAbort (x : R1) (s : State) : Host.Outcome State Fault Refusal :=
  match actives s with
  | [] => .next s
  | t :: _ => .next (killLaunch s t.launch 1 (getV t x.r))

/-! ### Subgroups and collectives (R169 to R176) -/

/-- Threads of a subgroup by its SIZE code (R33). -/
def groupSize (c : BitVec 2) : Nat := if c = 0 then 0 else 2 ^ (c.toNat + 1)

/-- part (R169). -/
def execPart (x : Part) (s : State) : Host.Outcome State Fault Refusal :=
  .next (mapActive 2 x.m.sw (fun t =>
    let n := groupSize x.s
    { t with g := t.g.set x.n.toNat ⟨x.s, if n = 0 then 0 else BitVec.ofNat 12 (t.tid - t.tid % n)⟩ x.n.isLt }) s)

/-- A thread's descriptor of group N. -/
def subOf (t : Thread) (n : BitVec 3) : Sub := t.g[n.toNat]'n.isLt

/-- Whether a thread belongs to the subgroup that another names by gN (R171). -/
def sameSubgroup (n : BitVec 3) (t u : Thread) : Bool :=
  let d := subOf t n
  decide (u.wg = t.wg) && decide (subOf u n = d) && decide (d.base.toNat ≤ u.tid) &&
    decide (u.tid < d.base.toNat + groupSize d.size)

/-- Members of a subgroup, resident or in records (R171). -/
def subgroupMembers (s : State) (n : BitVec 3) (t : Thread) : List Thread :=
  (s.threads ++ s.records.map Record.th).filter (sameSubgroup n t)

/-- The members a collective acts over, each with its rank, in increasing rank (R171). -/
def ranked (s : State) (n : BitVec 3) (t : Thread) : List (Nat × Thread) :=
  if n = 0 then (actives s).map fun u => (rankIn (actives s) u, u)
  else
    (sortByKey Thread.tid ((actives s).filter (sameSubgroup n t))).map fun u => (u.tid - (subOf t n).base.toNat, u)

/-- Size n of the subgroup. -/
def rankedSize (s : State) (n : BitVec 3) (t : Thread) : Nat :=
  if n = 0 then (actives s).length else groupSize (subOf t n).size

/-- Whether every member of a thread's subgroup is active (R172). -/
def wholeSubgroup (s : State) (n : BitVec 3) (t : Thread) : Bool :=
  (subgroupMembers s n t).all fun u => (actives s).any fun v => decide (v.wg = u.wg) && decide (v.tid = u.tid)

/-- A collective on gN: the role check and the empty-group trap first, on the threads concerned, with no thread changed
(R34, R90); then, unless every subgroup is wholly active, the active threads are filed at its PC, and the slot goes to a waiting fragment if
there is one (R159, R172); else it acts on the gang. The new register values are computed from the state at issue (R26). -/
def collective (i : Instr) (sw : Bool) (ok : BitVec 2 → Bool) (n : BitVec 3) (f : Thread → Thread) (s : State) :
    Host.Outcome State Fault Refusal :=
  let bad := fun (t : Thread) =>
    if !ok t.role then some 2 else if n ≠ 0 ∧ (subOf t n).size = 0 then some 3 else none
  if (actives s).any fun t => (bad t).isSome then
    .next (applyFates i sw s ((actives s).filterMap fun t => (bad t).map fun c => (t, Fate.plain c)))
  else if n = 0 ∨ (actives s).all (wholeSubgroup s n) then .next (mapActive (lengthOf i) sw f s)
  else
    .next (settleTurn (fileThreads s (actives s) 1))

/-- The values of a subgroup's members, in increasing rank. -/
def votes (s : State) (x : Vote) (t : Thread) : List (Nat × Word) :=
  (ranked s x.g t).map fun p => (p.1, getV p.2 x.a)

/-- A vote: one result for the whole subgroup (R174). -/
def vote (i : Instr) (x : Vote) (f : List (Nat × Word) → Word) (s : State) : Host.Outcome State Fault Refusal :=
  collective i x.m.sw anyRole x.g (fun t => setV t x.d (f (votes s x t))) s

/-- vote.any. -/
def execVoteAny (x : Vote) (s : State) : Host.Outcome State Fault Refusal :=
  vote (.voteAny x) x (fun vs => if vs.any fun v => decide (v.2 ≠ 0) then 1 else 0) s

/-- vote.all. -/
def execVoteAll (x : Vote) (s : State) : Host.Outcome State Fault Refusal :=
  vote (.voteAll x) x (fun vs => if vs.all fun v => decide (v.2 ≠ 0) then 1 else 0) s

/-- vote.ballot. -/
def execVoteBallot (x : Vote) (s : State) : Host.Outcome State Fault Refusal :=
  vote (.voteBallot x) x
    (fun vs => BitVec.ofNat 32 (sumNat (vs.map fun v => if v.2 ≠ 0 then 2 ^ v.1 else 0))) s

/-- vote.ueq. -/
def execVoteUeq (x : Vote) (s : State) : Host.Outcome State Fault Refusal :=
  vote (.voteUeq x) x (fun vs => if vs.all fun v => decide (some v.2 = (vs.head?).map Prod.snd) then 1 else 0) s

/-- The rank a shuffle reads, by function, own rank r and lane value s (R175). -/
abbrev Lane := Nat → Nat → Int

/-- A shuffle. -/
def shuffle (i : Instr) (x : Shfl) (lane : Lane) (s : State) : Host.Outcome State Fault Refusal :=
  collective i x.m.sw anyRole x.g (fun t =>
    let ms := ranked s x.g t
    let r := if x.g = 0 then rankIn (actives s) t else t.tid - (subOf t x.g).base.toNat
    let j := lane r (getV t x.b).toNat
    let src := if 0 ≤ j ∧ j < (rankedSize s x.g t : Int) then ms.find? fun m => decide (m.1 = j.toNat) else none
    setV t x.d (match src with | some m => getV m.2 x.a | none => getV t x.a)) s

/-- shfl.idx. -/
def execShflIdx (x : Shfl) (s : State) : Host.Outcome State Fault Refusal :=
  shuffle (.shflIdx x) x (fun _ v => (v : Int)) s

/-- shfl.up. -/
def execShflUp (x : Shfl) (s : State) : Host.Outcome State Fault Refusal :=
  shuffle (.shflUp x) x (fun r v => (r : Int) - v) s

/-- shfl.down. -/
def execShflDown (x : Shfl) (s : State) : Host.Outcome State Fault Refusal :=
  shuffle (.shflDown x) x (fun r v => (r : Int) + v) s

/-- shfl.xor. -/
def execShflXor (x : Shfl) (s : State) : Host.Outcome State Fault Refusal :=
  shuffle (.shflXor x) x (fun r v => ((r ^^^ v : Nat) : Int)) s

/-- Combining steps and identities (R176). -/
def stepFadd : Bin := onPat (faddPat .rn)
def stepFmax : Bin := onPat (fminmaxPat true false)

/-- Left fold of a step over values, from the first one. DEDUCED (log 85): over one value no step is made, and its bits are
the result, a NaN's too, though R55 does not name `gred` and `gscan` among the operations that copy. -/
def combine {n : Nat} (f : BitVec n → BitVec n → BitVec n) (ident : BitVec n) : List (BitVec n) → BitVec n
  | [] => ident
  | x :: xs => xs.foldl f x

/-- gred: the combination of all members, in increasing rank (R176). -/
def gred (i : Instr) (x : Gred) (ok : BitVec 2 → Bool) (f : Bin) (s : State) : Host.Outcome State Fault Refusal :=
  collective i x.m.sw ok x.g (fun t =>
    let us := (ranked s x.g t).map Prod.snd
    if x.x2 then setV2 t x.d (combine (f 64) 0 (us.map fun u => getV2 u x.a))
    else setV t x.d (combine (f 32) 0 (us.map fun u => getV u x.a))) s

/-- gscan: the combination of the members up to, or below, the thread's rank (R176). -/
def gscan (i : Instr) (x : Gscan) (ok : BitVec 2 → Bool) (f : Bin) (ident : Word) (s : State) :
    Host.Outcome State Fault Refusal :=
  collective i x.m.sw ok x.g (fun t =>
    let r := if x.g = 0 then rankIn (actives s) t else t.tid - (subOf t x.g).base.toNat
    let us := (ranked s x.g t).filter fun m => if x.exc then decide (m.1 < r) else decide (m.1 ≤ r)
    setV t x.d (combine (f 32) ident (us.map fun m => getV m.2 x.a))) s

/-- gred.iadd. -/
def execGredIadd (x : Gred) (s : State) : Host.Outcome State Fault Refusal := gred (.gredIadd x) x anyRole opAdd s

/-- gred.mins. -/
def execGredMins (x : Gred) (s : State) : Host.Outcome State Fault Refusal := gred (.gredMins x) x anyRole opMinS s

/-- gred.maxs. -/
def execGredMaxs (x : Gred) (s : State) : Host.Outcome State Fault Refusal := gred (.gredMaxs x) x anyRole opMaxS s

/-- gred.and. -/
def execGredAnd (x : Gred) (s : State) : Host.Outcome State Fault Refusal := gred (.gredAnd x) x anyRole opAnd s

/-- gred.or. -/
def execGredOr (x : Gred) (s : State) : Host.Outcome State Fault Refusal := gred (.gredOr x) x anyRole opOr s

/-- gred.xor. -/
def execGredXor (x : Gred) (s : State) : Host.Outcome State Fault Refusal := gred (.gredXor x) x anyRole opXor s

/-- gred.fadd. -/
def execGredFadd (x : Gred) (s : State) : Host.Outcome State Fault Refusal := gred (.gredFadd x) x onlyVector stepFadd s

/-- gred.fmax. -/
def execGredFmax (x : Gred) (s : State) : Host.Outcome State Fault Refusal := gred (.gredFmax x) x onlyVector stepFmax s

/-- gscan.iadd. -/
def execGscanIadd (x : Gscan) (s : State) : Host.Outcome State Fault Refusal :=
  gscan (.gscanIadd x) x anyRole opAdd 0 s

/-- gscan.mins. -/
def execGscanMins (x : Gscan) (s : State) : Host.Outcome State Fault Refusal :=
  gscan (.gscanMins x) x anyRole opMinS 0x7FFFFFFF s

/-- gscan.maxs. -/
def execGscanMaxs (x : Gscan) (s : State) : Host.Outcome State Fault Refusal :=
  gscan (.gscanMaxs x) x anyRole opMaxS 0x80000000 s

/-- gscan.and. -/
def execGscanAnd (x : Gscan) (s : State) : Host.Outcome State Fault Refusal :=
  gscan (.gscanAnd x) x anyRole opAnd 0xFFFFFFFF s

/-- gscan.or. -/
def execGscanOr (x : Gscan) (s : State) : Host.Outcome State Fault Refusal :=
  gscan (.gscanOr x) x anyRole opOr 0 s

/-- gscan.xor. -/
def execGscanXor (x : Gscan) (s : State) : Host.Outcome State Fault Refusal :=
  gscan (.gscanXor x) x anyRole opXor 0 s

/-- gscan.fadd. -/
def execGscanFadd (x : Gscan) (s : State) : Host.Outcome State Fault Refusal :=
  gscan (.gscanFadd x) x onlyVector stepFadd 0x80000000 s

/-- gscan.fmax. -/
def execGscanFmax (x : Gscan) (s : State) : Host.Outcome State Fault Refusal :=
  gscan (.gscanFmax x) x onlyVector stepFmax 0xFF800000 s

/-! ### System and guard instructions (R177, R178) -/

/-- nop. -/
def execNop (x : M0) (s : State) : Host.Outcome State Fault Refusal := .next (mapActive 2 x.m.sw id s)

/-- trap: SOFTWARE with its code on every active thread. -/
def execTrap (x : Trap) (s : State) : Host.Outcome State Fault Refusal :=
  perThread (.trap x) x.m.sw (fun s t => (s, t, .trap 5 x.c.toNat 0)) s

/-- The end of a segment at a breakpoint (R262, R358). -/
def haltEnd (s : State) (t : Thread) : SegEnd :=
  { endAt s t 11 0 false with ext := 3, trapPc := t.pc, halt := true }

/-- Stop threads under a breakpoint: one stop event for the gang (R358). -/
def haltThreads (s : State) (ts : List Thread) : State :=
  match ts with
  | [] => s
  | t0 :: _ =>
    let wgid := match findWg s t0.wg with | some g => g.wgid | none => 0
    let s0 := match findWg s t0.wg with
      | some g => traceEvent (traceEnds s ts 11) g 4 0 (ordinalWord (ordinalOf s t0 t0.pc)) t0.gang
          (memberMask (gangMembers s t0) fun tid => ts.any fun u => decide (u.tid = tid))
      | none => s
    let s1 := foldList (fun s t => endSegment s t (haltEnd s t)) s0 ts
    settleTurn (emit s1 (.stop (ctxOfWg s t0.wg) ((ordinalOf s t0 t0.pc).getD 0xFFFFFFFF) wgid (ts.map Thread.tid)))

/-- brk: NOSAFE off a safe point, a breakpoint stop with a session, BREAK without one. A thread that a session released
at this instruction passes it (R359). -/
def execBrk (x : M0) (s : State) : Host.Outcome State Fault Refusal :=
  match actives s with
  | [] => .next s
  | t0 :: _ =>
    if !isSafePoint s t0 x.m.stop then perThread (.brk x) x.m.sw (fun s t => (s, t, .plain 8)) s
    else if sessionOn s (ctxOfWg s t0.wg) then
      .next (haltThreads (updThreads s (fun t => isActive s t && t.fl.skipBreak) (retire 2 x.m.sw))
        ((actives s).filter fun t => !t.fl.skipBreak))
    else perThread (.brk x) x.m.sw (fun s t => (s, t, .plain 6)) s

/-- Set guard slot N of a workgroup. -/
def setGuard (s : State) (wg : Nat) (n : BitVec 4) (v : GuardState) : State :=
  updWg s wg fun g => { g with guards := g.guards.set n.toNat v n.isLt }

/-- A command under a slot is bound to the outcome if it is unbound (R37). -/
def bindUnder (wg n : Nat) (v : Bool) (c : Cmd) : Cmd :=
  if c.wg = wg ∧ c.gd = n ∧ c.bound = none then { c with bound := some v } else c

/-- gdset: a set event resolves an ARMED slot, binds every unbound command under it and wakes its waiters (R37,
R165). -/
def guardResolve (s : State) (wg : Nat) (n : BitVec 4) (v : Bool) : State :=
  match (findWg s wg).map fun g => guardState g n.toNat with
  | some .armed =>
    let s1 := setGuard s wg n (if v then .isTrue else .isFalse)
    let s2 := { s1 with cmds := s1.cmds.map (bindUnder wg n.toNat v) }
    retestWg s2 wg 4
  | _ => s

/-- gdarm: one event per active thread. -/
def execGdarm (x : GdArm) (s : State) : Host.Outcome State Fault Refusal :=
  perThread (.gdarm x) x.m.sw (fun s t =>
    let r := sramLogged s t
    (setGuard r.1 t.wg x.n .armed, r.2, .next)) s

/-- gdset: one event per active thread; only the first after an arm resolves the slot. -/
def execGdset (x : GdSet) (s : State) : Host.Outcome State Fault Refusal :=
  perThread (.gdset x) x.m.sw (fun s t =>
    let r := sramLogged s t
    (guardResolve r.1 t.wg x.n (if x.i then x.v else decide (getV t x.a ≠ 0)), r.2, .next)) s

end Sys2Proof.Machine
end

