-- ==== Sys2Proof/Machine/Pages.lean ====
section
/-! DEFINITION. Page requests (R347, R411), and the outcome of looking a page up in the tables the device walks (R189,
R412). -/
namespace Sys2Proof.Machine

/-- The outcome of a lookup. -/
inductive Lookup where
  | found (p : Page)
  | missing (kind : Nat)
  | violation
deriving DecidableEq, Repr

/-- Look an address up in a context's tables: a page a request was answered as a violation for, or an address outside the
global space, is one the context may not use; any other absent page is one system software may supply. -/
def lookup (s : State) (ctx va : Nat) : Lookup :=
  let denied := s.violations.any fun x => decide (x.ctx = ctx) && decide (x.va = va / 65536 * 65536)
  match pageFor s ctx va with
  | some p => if p.state = .device then .found p else if denied then .violation else .missing 1
  | none =>
    if denied then .violation
    else if va < 2 ^ 52 then .missing 0
    else .violation

/-- The start of the page a request names: the mapped page, or the 64 KiB page. -/
def requestPageVa (s : State) (ctx va : Nat) : Nat :=
  match pageFor s ctx va with
  | some p => p.va
  | none => va / 65536 * 65536

/-- One more cluster waits for a page whose request stands in the ring: its count is raised there. -/
def raiseCount (s : State) (c : Context) (r : PageReq) : State :=
  match r.seq with
  | some q => physWrite s (c.prBase + 32 * (q % 2 ^ c.prLog) + 0xC) (toBytes 4 (r.clusters.length + 1))
  | none => s

/-- Ask system software for a page: one outstanding request per page; later misses from other clusters only raise its
count (R411). A page at the host begins to migrate in (R412). -/
def requestPage (s : State) (ctx cluster va : Nat) (far : Bool) : State :=
  let pva := requestPageVa s ctx va
  let kind := match lookup s ctx va with | .missing k => k | _ => 0
  let s1 : State := match findCtx s ctx with
    | none => s
    | some c =>
      match c.prReqs.find? fun r => decide (r.va = pva) with
      | none => updCtx s ctx fun c => { c with
          prReqs := c.prReqs ++ [⟨pva, kind, if far then [] else [cluster], far, none⟩] }
      | some r =>
        if far || r.clusters.contains cluster then s
        else updCtx (raiseCount s c r) ctx fun c => { c with
          prReqs := c.prReqs.map fun x => if x.va = pva then { x with clusters := x.clusters ++ [cluster] } else x }
  { s1 with pages := s1.pages.map fun p =>
      if p.ctx = ctx ∧ p.va = pva ∧ p.state = .host then { p with state := .toDevice } else p }

end Sys2Proof.Machine
end

