-- ==== Sys2Proof/Machine/Cache.lean ====
section
/-! DEFINITION. The cluster's SRAM plan, its L1 and TLB, and the messages it sends to home slices (R246, R286, R301 to
R311): looking lines up, storing, writing back, invalidating, allocating, the translation probe of a gang, and the
releases and acquires of synchronisation objects. -/
namespace Sys2Proof.Machine

/-! ### The SRAM plan (R187, R246, R301) -/

/-- Mode of bank b in a launch's plan: 0 cache, 1 scratch, 2 FIFO, 3 off. -/
def planMode (l : Launch) (b : Nat) : Nat := field l.lr.plan.toNat (2 * b + 1) (2 * b)

/-- Banks of a mode. -/
def planBanks (l : Launch) (mode : Nat) : Nat := ((List.range 12).filter fun b => decide (planMode l b = mode)).length

/-- Bytes of scratch a workgroup of the launch has. -/
def scratchBytes (l : Launch) : Nat := 65536 * planBanks l 1

/-- Ways of its L1: one a cache-mode bank (R306). -/
def l1Ways (l : Launch) : Nat := planBanks l 0

/-- Width times height of the neighbourhood, 0 outside neighbourhood launches. -/
def nbSize (l : Launch) : Nat :=
  if l.lr.flags.getLsbD 2 then field l.lr.nb.toNat 7 0 * field l.lr.nb.toNat 15 8 else 0

/-- Member k of a workgroup's neighbourhood (R187). -/
def memberOf (s : State) (l : Launch) (g : Workgroup) (k : Nat) : Option Workgroup :=
  if k < nbSize l then
    s.wgs.find? fun m => decide (m.launch = l.id) && decide (m.wgid = g.wgid / nbSize l * nbSize l + k)
  else none

/-- ASID of a context. -/
def asidOf (s : State) (ctx : Nat) : Nat :=
  match findCtx s ctx with
  | some c => c.asid
  | none => 0

/-- The lowest rood of the virtual device that holds a context (R314). -/
def firstRood (s : State) (ctx : Nat) : Nat :=
  match findCtx s ctx with
  | none => 0
  | some c =>
    match findVd s c.vd with
    | none => 0
    | some v => (VdShape.roods v.shape).headD 0

/-- Home slice of a message. -/
def reqSlice (s : State) (r : Req) : Nat := homeSlice s (firstRood s r.ctx) r.pa

/-! ### Messages -/

/-- A message of a thread, not yet on its way anywhere but to its home. -/
def sendReq (s : State) (r : Req) : State := bumpId { s with reqs := s.reqs ++ [{ r with id := s.nextId }] }

/-- A message without an owning thread has this thread number. -/
def noThread : Nat := 4096

/-- The plain message of a home. -/
def plainReq (h : Home) (ctx wg tid va pa : Nat) (kind : ReqKind) : Req :=
  { id := 0, src := h, ctx := ctx, wg := wg, tid := tid, va := va, pa := pa, kind := kind, stage := .toHome,
    install := false, fwd := false, acquire := false, loc := 0, bad := false }

/-- Flits of a message that carries written bytes: a header, then one per 32 bytes of the 16-byte sectors they lie in
(R317). -/
def dataFlits (addrs : List Nat) : Nat := 1 + ceilDiv (16 * (dedup (addrs.map (· / 16))).length) 32

/-- Request flits of a message (R317). -/
def flitsOf (r : Req) : Nat :=
  match r.kind with
  | .write p => dataFlits (p.map Prod.fst)
  | .window _ (some d) _ => dataFlits ((List.range d.length).map (r.va + ·))
  | .far (.store d) => dataFlits ((List.range d.length).map (r.va + ·))
  | _ => 1

/-- Send a message and count its flits (R324). -/
def sendCounted (s : State) (r : Req) : State := bumpCounter (sendReq s r) r.ctx r.src 11 (flitsOf r)

/-- The messages of a thread that are still outstanding. -/
def ownReqs (s : State) (t : Thread) : List Req :=
  s.reqs.filter fun r => decide (r.wg = t.wg) && decide (r.tid = t.tid)

/-! ### L1 lines (R306 to R308, R311) -/

/-- The line of a home that holds a virtual address of an ASID. -/
def lineAt (s : State) (h : Home) (asid va : Nat) : Option L1Line :=
  s.l1.find? fun l => decide (l.home = h) && decide (l.asid = asid) && decide (l.vline = va / 128)

/-- The line of a home that holds a physical line (the reverse map). -/
def aliasAt (s : State) (h : Home) (pa : Nat) : Option L1Line :=
  s.l1.find? fun l => decide (l.home = h) && decide (l.pline = pa / 128)

/-- Replace a line. -/
def setLine (s : State) (l : L1Line) : State :=
  { s with l1 := updWhere (fun x => decide (x.home = l.home) && decide (x.pline = l.pline)) (fun _ => l) s.l1 }

/-- Drop a line. -/
def dropLine (s : State) (l : L1Line) : State :=
  { s with l1 := dropWhere (fun x => decide (x.home = l.home) && decide (x.pline = l.pline)) s.l1 }

/-- A byte of a line that a load can take: its sector is valid or it is in the written mask (R307). -/
def lineHas (l : L1Line) (off : Nat) : Bool := l.valid.getLsbD (off / 16) || l.mask.getLsbD off

/-- The bytes of an access that a line holds. -/
def lineGot (l : L1Line) (va z : Nat) : Patch :=
  (List.range z).filterMap fun i =>
    if lineHas l ((va + i) % 128) then some (va + i, readByte l.data ((va + i) % 128)) else none

/-- The written bytes of a line, at physical addresses (R307). -/
def writtenBytes (l : L1Line) : Patch :=
  (List.range 128).filterMap fun i => if l.mask.getLsbD i then some (128 * l.pline + i, readByte l.data i) else none

/-- Every byte of sector i is in the mask. -/
def sectorFull (l : L1Line) (i : Nat) : Bool := (List.range 16).all fun j => l.mask.getLsbD (16 * i + j)

/-- Some byte of sector i is in the mask. -/
def sectorDirty (l : L1Line) (i : Nat) : Bool := (List.range 16).any fun j => l.mask.getLsbD (16 * i + j)

/-- Bits of a pattern from a test. -/
def bitsWhere (n : Nat) (p : Nat → Bool) : BitVec n :=
  BitVec.ofNat n (sumNat ((List.range n).map fun i => if p i then 2 ^ i else 0))

/-- A line after a write-back of the sectors that satisfy a test (R307). -/
def cleanSectors (p : Nat → Bool) (l : L1Line) : L1Line :=
  { l with
    valid := bitsWhere 8 fun i => l.valid.getLsbD i || (p i && sectorFull l i)
    mask := bitsWhere 128 fun i => l.mask.getLsbD i && !p (i / 16) }

/-- Fills still on their way to a home are not installed, where a test on the message holds. -/
def stopFills (s : State) (h : Home) (p : Req → Bool) : State :=
  { s with reqs := s.reqs.map fun r => if r.src = h ∧ p r = true then { r with install := false } else r }

/-- Fills still on their way to a line of a home are not installed: the line has been written back since. -/
def stopInstall (s : State) (h : Home) (pline : Nat) : State := stopFills s h fun r => decide (r.pa / 128 = pline)

/-- Write back the dirty sectors of a line that satisfy a test; the message's identifier, if one was sent. -/
def writeBackSectors (s : State) (p : Nat → Bool) (l : L1Line) (ctx wg tid : Nat) : State × List Nat :=
  let bytes := (writtenBytes l).filter fun c => p (c.1 % 128 / 16)
  if bytes.isEmpty then (s, [])
  else
    let n := ((List.range 8).filter fun i => p i && sectorDirty l i).length
    let s1 := setLine (stopInstall s l.home l.pline) (cleanSectors p l)
    let r := plainReq l.home ctx wg tid (128 * l.vline) (128 * l.pline) (.write bytes)
    (bumpCounter (sendCounted s1 r) ctx l.home 2 n, [s.nextId])

/-- Write back a whole line. -/
def writeBackLine (s : State) (l : L1Line) (ctx wg tid : Nat) : State × List Nat :=
  writeBackSectors s (fun _ => true) l ctx wg tid

/-- Invalidate a line: its dirty sectors are written back first (R285). -/
def invalidateLine (s : State) (l : L1Line) (ctx wg tid : Nat) : State × List Nat :=
  let r := writeBackLine s l ctx wg tid
  (dropLine (stopInstall r.1 l.home l.pline) l, r.2)

/-- Act on every line of a list, collecting the messages sent. -/
def overLines (act : State → L1Line → State × List Nat) : State → List L1Line → State × List Nat
  | s, [] => (s, [])
  | s, l :: ls =>
    let r := act s l
    let rest := overLines act r.1 ls
    (rest.1, r.2 ++ rest.2)

/-- The lines of a home. -/
def homeLines (s : State) (h : Home) : List L1Line := s.l1.filter fun l => decide (l.home = h)

/-- The recency of a line used now: after every line of its L1 (R308). -/
def nextUse (s : State) (h : Home) : Nat := 1 + maxNat ((homeLines s h).map L1Line.used)

/-- Make room in the set of a line: the least recently used line goes, the lowest bank among equals (R308). The way that
is free, afterwards. -/
def freeWay (s : State) (h : Home) (vline ways ctx wg : Nat) : State × Nat :=
  let set := (homeLines s h).filter fun l => decide (l.vline % 512 = vline % 512)
  match (List.range ways).find? fun w => !(set.any fun l => decide (l.way = w)) with
  | some w => (s, w)
  | none =>
    match minByKey (fun l => l.used * 16 + l.way) set with
    | some l => ((invalidateLine s l ctx wg noThread).1, l.way)
    | none => (s, 0)

/-- The line for a virtual address, allocated if needed: an alias moves to the new tag (R311), else a way is freed. -/
def allocLine (s : State) (h : Home) (ctx wg va pa ways : Nat) : State × L1Line :=
  let asid := asidOf s ctx
  match lineAt s h asid va with
  | some l => (s, l)
  | none =>
    match aliasAt s h pa with
    | some l =>
      let l' := { l with asid := asid, vline := va / 128 }
      (bumpCounter (setLine s l') ctx h 7 1, l')
    | none =>
      let r := freeWay s h (va / 128) ways ctx wg
      let l : L1Line := ⟨h, asid, va / 128, pa / 128, 0#8, 0#128, ([] : Memory), false, nextUse s h, r.2⟩
      ({ r.1 with l1 := r.1.l1 ++ [l] }, l)

/-- A store: the bytes go into the line and its mask; nothing is fetched (R307). -/
def l1Store (s : State) (h : Home) (ctx wg va pa ways : Nat) (bs : List Byte) : State :=
  let r := allocLine s h ctx wg va pa ways
  let off := va % 128
  setLine r.1 { r.2 with
    data := writeBytes r.2.data off bs
    mask := r.2.mask ||| bitsWhere 128 (fun i => decide (off ≤ i) && decide (i < off + bs.length))
    used := nextUse s h }

/-- The arriving line fills the sectors that hold no written byte, and, of the sectors the load of z bytes missed, every
byte not in the written mask (R307). -/
def l1Fill (s : State) (h : Home) (ctx wg va pa ways z : Nat) (fwd : Bool) (bs : List Byte) : State :=
  let r := allocLine s h ctx wg va pa ways
  let missed := fun i => decide (0 < z) && decide (va % 128 / 16 ≤ i) && decide (16 * i < va % 128 + z)
  let fills := fun i => missed i || !sectorDirty r.2 i
  let data := (List.range 128).foldl
    (fun d i => if fills (i / 16) && !r.2.mask.getLsbD i then writeByte d i ((bs[i]?).getD 0) else d) r.2.data
  setLine r.1 { r.2 with
    data := data
    valid := bitsWhere 8 fun i => r.2.valid.getLsbD i || fills i
    fwd := r.2.fwd || fwd
    used := nextUse s h }

/-! ### Launch regions and synchronisation objects (R188, R247, R286) -/

/-- The regions that hold an address. -/
def regionsAt (l : Launch) (va : Nat) : List Region :=
  l.lr.regions.filter fun r => decide (r.base ≤ va) && decide (va < r.base + r.size)

/-- Whether a load, a store, or both are allowed by every region that holds the address. -/
def regionAllows (l : Launch) (va : Nat) (rd wr : Bool) : Bool :=
  (regionsAt l va).all fun r =>
    match r.mode with
    | 1 => !wr
    | 2 => !rd
    | 3 => !wr
    | _ => true

/-- A forwardable region holds the address. -/
def forwardable (l : Launch) (va : Nat) : Bool := (regionsAt l va).any fun r => decide (r.mode = 3)

/-- The regions bound to an object address (0 binds none). -/
def boundRegions (l : Launch) (obj : Nat) : List Region :=
  l.lr.regions.filter fun r => decide (r.obj = obj) && decide (obj ≠ 0)

/-- Object address of a scratch barrier (R286). -/
def scratchObject (off : Nat) : Nat := 0xFFFFFFFF00000000 + off

/-- The virtual lines under which a context can reach a physical line: the one named, and those of the pages that map it
(R311). -/
def lineVas (s : State) (ctx va pa : Nat) : List Nat :=
  va / 128 * 128 :: (s.pages.filter fun p => decide (p.ctx = ctx) && decide (p.pa ≤ pa) && decide (pa < p.pa + 2 ^ p.bits)).map
    fun p => p.va + (pa / 128 * 128 - p.pa)

/-- A line of a context's L1, or a message, whose physical line one of its virtual addresses puts in a range (R290, R294). -/
def lineIn (s : State) (ctx : Nat) (p : Nat → Bool) (l : L1Line) : Bool := (lineVas s ctx (128 * l.vline) (128 * l.pline)).any p

def reqIn (s : State) (ctx : Nat) (p : Nat → Bool) (r : Req) : Bool := decide (r.ctx = ctx) && (lineVas s ctx r.va r.pa).any p

/-- Whether an address is bound to an object. -/
def boundTo (l : Launch) (obj va : Nat) : Bool := (regionsAt l va).any fun r => decide (r.obj = obj) && decide (obj ≠ 0)

/-- Lines of a workgroup's L1 that lie in regions bound to an object. -/
def boundLines (s : State) (l : Launch) (g : Workgroup) (obj : Nat) : List L1Line :=
  (homeLines s g.home).filter fun x => decide (x.asid = asidOf s g.ctx) && lineIn s g.ctx (boundTo l obj) x

/-- Release: write back every dirty sector of the bound regions; the messages to wait for (R197). -/
def releaseObject (s : State) (l : Launch) (g : Workgroup) (tid obj : Nat) : State × List Nat :=
  overLines (fun s x => writeBackLine s x g.ctx g.id tid) s (boundLines s l g obj)

/-- Acquire: invalidate every line of the bound regions; a fill of one that is still on its way is not installed (R197,
R290). -/
def acquireObject (s : State) (l : Launch) (g : Workgroup) (tid obj : Nat) : State :=
  stopFills (overLines (fun s x => invalidateLine s x g.ctx g.id tid) s (boundLines s l g obj)).1 g.home
    (reqIn s g.ctx (boundTo l obj))

/-- Acquire for a thread, where its workgroup and launch stand. -/
def acquireFor (s : State) (t : Thread) (obj : Nat) : State :=
  match findLaunch s t.launch, findWg s t.wg with
  | some l, some g => acquireObject s l g t.tid obj
  | _, _ => s

/-- The write-backs and stores on their way from a workgroup's home, whichever thread or eviction sent them, whose line
satisfies a test. -/
def homeWrites (s : State) (g : Workgroup) (p : Nat → Bool) : List Nat :=
  (s.reqs.filter fun r => decide (r.src = g.home) && reqIn s g.ctx p r &&
    (match r.kind with | .write _ => true | _ => false)).map Req.id

/-- What a release of an object waits for: the thread's outstanding accesses to regions bound to it, its far group, and
the bytes of those regions that its L1 has on their way (R197). -/
def outstandingBound (s : State) (t : Thread) (l : Launch) (obj : Nat) : List Nat :=
  ((ownReqs s t).filter fun r =>
    match r.kind with
    | .far _ => true
    | .read _ => boundTo l obj r.va
    | .atom _ _ _ _ _ => boundTo l obj r.va
    | _ => false).map Req.id ++
  (match findWg s t.wg with
    | some g => homeWrites s g (boundTo l obj)
    | none => [])

/-! ### Translation probe (R189, R309) -/

/-- The TLB entry of a cluster that translates an address. -/
def tlbAt (s : State) (cluster asid va : Nat) : Option TlbEntry :=
  s.tlb.find? fun e => decide (e.cluster = cluster) && decide (e.asid = asid) && decide (e.vbase ≤ va) &&
    decide (va < e.vbase + 2 ^ e.bits)

/-- The walk of a page, if there is one. -/
def walkAt (s : State) (cluster asid va : Nat) : Option Walk :=
  s.walks.find? fun w => decide (w.cluster = cluster) && decide (w.asid = asid) && decide (w.page = va / 65536)

/-- Walks in progress in a cluster. -/
def walksRunning (s : State) (cluster : Nat) : Nat :=
  (s.walks.filter fun w => decide (w.cluster = cluster) && w.running).length

/-- Ask for a walk of a page; at most four run at once. -/
def startWalk (s : State) (h : Home) (ctx va : Nat) : State :=
  let asid := asidOf s ctx
  if (walkAt s h.cluster asid va).isSome then s
  else
    let w : Walk := ⟨h.cluster, asid, va / 65536, decide (walksRunning s h.cluster < 4), none⟩
    bumpCounter { s with walks := s.walks ++ [w] } ctx h 5 1

/-- The outcome of the probe of one address. -/
inductive Probed where
  /-- The translation is being walked for: the instruction does not leave the scheduler yet. -/
  | walking
  | ok (pa : Nat) (readable writable : Bool)
  | missing
  | violation
deriving DecidableEq, Repr

def probeAt (s : State) (cluster asid va : Nat) : Probed :=
  match tlbAt s cluster asid va with
  | some e => .ok (e.pbase + (va - e.vbase)) e.readable e.writable
  | none =>
    match walkAt s cluster asid va with
    | some w =>
      match w.failed with
      | some .missing => .missing
      | some .violation => .violation
      | none => .walking
    | none => .walking

/-- The walks that ended without a translation are used up by the instruction that asked for them. -/
def dropWalks (s : State) (cluster asid : Nat) (vas : List Nat) : State :=
  { s with walks := s.walks.filter fun w => !(decide (w.cluster = cluster) && decide (w.asid = asid) && w.failed.isSome &&
      vas.any fun va => decide (va / 65536 = w.page)) }

/-- The page of an address is asked for where it is one that system software may supply (R347). -/
def askPage (s : State) (cluster asid va : Nat) : State :=
  match s.contexts.find? fun c => decide (c.asid = asid) with
  | some c => (match lookup s c.id va with
    | .missing _ => requestPage s c.id cluster va false
    | _ => s)
  | none => s

/-- The walks of an instruction's addresses are used up; each page that was missing now stands in an operand log or a wake
operand, and the cluster asks for it (R347). -/
def useWalks (s : State) (cluster asid : Nat) (vas : List Nat) : State :=
  let missing := vas.filter fun va => decide (probeAt s cluster asid va = .missing)
  dropWalks (foldList (fun s va => askPage s cluster asid va) s missing) cluster asid vas

/-- The probe of a gang's global addresses: the walks it starts where some page has no answer yet, or none when every
address has its answer. -/
def probeGang (s : State) (h : Home) (ctx : Nat) (vas : List Nat) : Option State :=
  let waits := vas.filter fun va => decide (probeAt s h.cluster (asidOf s ctx) va = .walking)
  if waits.isEmpty then none else some (foldList (fun s va => startWalk s h ctx va) s waits)

end Sys2Proof.Machine
end

