-- ==== Sys2Proof/Machine/Memory.lean ====
section
/-! DEFINITION. Meanings of ld, st, ldk, stk, atom and atomx in the four address spaces (R183 to R196). Each has a body
that takes the address and the data, so that the replay of a logged instruction (R348) runs the same body. -/
namespace Sys2Proof.Machine

/-! ### Addresses and checks (R187, R188) -/

/-- The M1 address of a thread. -/
def addr1 (x : Mem1) (t : Thread) : Nat :=
  match x.c with
  | .scr => (getV t x.a + x.o.signExtend 32 * BitVec.ofNat 32 x.k.size).toNat
  | .win => (getV t x.a + x.o.signExtend 32 * BitVec.ofNat 32 x.k.size).toNat
  | _ => (getV2 t x.a + x.o.signExtend 64 * BitVec.ofNat 64 x.k.size).toNat

/-- The M2 address of a thread. -/
def addr2 (x : Mem2) (s : State) (t : Thread) : Nat :=
  let n : BitVec 5 := x.n ++ 0#1
  let idx := if x.sx then (getV t x.x).signExtend 64 else (getV t x.x).setWidth 64
  match x.c with
  | .scr => (getK s t n + idx.setWidth 32 * BitVec.ofNat 32 x.k.size).toNat
  | .win => (getK s t n + idx.setWidth 32 * BitVec.ofNat 32 x.k.size).toNat
  | _ => (getK2 s t n + idx * BitVec.ofNat 64 x.k.size).toNat

/-- Step 1: the address is valid for its space. -/
def validAddr (s : State) (l : Launch) (g : Workgroup) (sp : Space) (a : Nat) : Bool :=
  match sp with
  | .glb => decide (a < 2 ^ 52)
  | .scr => decide (a < scratchBytes l)
  | .win => (memberOf s l g (a / 2 ^ 20)).isSome && decide (a % 2 ^ 20 < scratchBytes l)
  | .far => decide (a / 2 ^ 58 = 32)

/-- The counter page of some settings holds the address (R323). -/
def QueueConf.counterAt (a : Nat) (c : QueueConf) : Bool :=
  decide (c.counterPage ≤ a) && decide (a < c.counterPage + 65536)

/-- The trap bin of some settings holds the address (R351). -/
def QueueConf.trapAt (a : Nat) (c : QueueConf) : Bool :=
  decide (c.trapBase ≤ a) && decide (a < c.trapBase + 64 * 2 ^ c.trapLog)

/-- A counter page of the context holds the address (R323, R372). -/
def inCounterPage (s : State) (ctx a : Nat) : Bool := (confsOf s ctx).any (QueueConf.counterAt a)

/-- A trap bin of the context holds the address (R351, R372). -/
def inTrapBin (s : State) (ctx a : Nat) : Bool := (confsOf s ctx).any (QueueConf.trapAt a)

/-- The far device of an address passes (R189): the own one, or one in the route table; none in a launch whose charter does
not allow far accesses (R402; log 97). -/
def devicePasses (s : State) (l : Launch) (a : Nat) : Bool :=
  l.far && (decide (a / 2 ^ 52 % 64 = s.boot.devnum) ||
    (decide (s.boot.domid ≠ 0) && s.boot.routes.any fun r => decide (r.dev = a / 2 ^ 52 % 64)))

/-- Steps 1 to 3, and the device of a far address. -/
def accessOk (s : State) (l : Launch) (g : Workgroup) (sp : Space) (a align : Nat) (rd wr : Bool) : Bool :=
  validAddr s l g sp a && decide (a % align = 0) &&
    (match sp with
      | .glb => regionAllows l a rd wr && !(wr && (inCounterPage s g.ctx a || inTrapBin s g.ctx a))
      | .far => devicePasses s l a
      | _ => true)

/-- ACCESS with the address in the detail. -/
def accessTrap (a : Nat) : Fate := .trap 14 0 (BitVec.ofNat 64 a)

/-- The launch and workgroup of a thread. -/
def envOf (s : State) (t : Thread) : Option (Launch × Workgroup) :=
  match findLaunch s t.launch, findWg s t.wg with
  | some l, some g => some (l, g)
  | _, _ => none

/-- Step 4: what the probe found permits a load, a store, or both (R189). A bound control block and a mapping list are
read-only to threads (R368, R409). -/
def permits (s : State) (ctx a : Nat) (rd wr : Bool) : Probed → Bool
  | .ok pa r w => (!rd || r) && (!wr || (w && (freezeFor s ctx a 1 pa).isNone))
  | _ => false

/-- The probe of one global address with the permission an access needs: the physical address, or the fate. -/
def probeAccess (s : State) (g : Workgroup) (a : Nat) (rd wr : Bool) (e : LogEntry) : Except Fate Nat :=
  match probeAt s g.home.cluster (asidOf s g.ctx) a with
  | .ok pa r w => if permits s g.ctx a rd wr (.ok pa r w) then .ok pa else .error (accessTrap a)
  | .missing => .error (.logged e)
  | .walking => .error (.logged e)
  | .violation => .error (accessTrap a)

/-- What a store or atomic that is turned away freezes (R368, R418). -/
def deniedStore (s : State) (g : Workgroup) (a : Nat) : State :=
  match probeAt s g.home.cluster (asidOf s g.ctx) a with
  | .ok pa _ _ => (freezeFor s g.ctx a 1 pa).getD s
  | _ => s

/-- An instruction that goes through the probe: the gang stays where it is until every global address of its permitted
threads has its answer (R189), then each thread acts, and the answers are used up. -/
def probedWith (use : State → Nat → Nat → List Nat → State) (i : Instr) (sw : Bool) (ok : BitVec 2 → Bool)
    (addrs : State → Thread → List Nat) (body : State → Thread → State × Thread × Fate) (s : State) :
    Host.Outcome State Fault Refusal :=
  match (actives s).head?.bind (envOf s) with
  | none => .next s
  | some (_, g) =>
    let vas := ((actives s).filter fun t => ok t.role).flatMap (addrs s)
    match probeGang s g.home g.ctx vas with
    | some s' => .next s'
    | none =>
      let r := runThreads (withRole ok body) s (actives s)
      .next (use (applyFates i sw r.1 r.2) g.home.cluster (asidOf s g.ctx) vas)

/-- An instruction whose missing pages enter the operand logs. -/
def probedGang (i : Instr) (sw : Bool) (ok : BitVec 2 → Bool) (addrs : State → Thread → List Nat)
    (body : State → Thread → State × Thread × Fate) (s : State) : Host.Outcome State Fault Refusal :=
  probedWith useWalks i sw ok addrs body s

/-! ### Loads (R190 to R193) -/

/-- The register writes of a load's bytes (R86, R190). -/
def loadWrites (k : Access) (dst : BitVec 6) (bs : List Byte) : List (BitVec 6 × Word) :=
  let x := ofBytes bs
  match k with
  | .z8 => [(dst, BitVec.ofNat 32 x)]
  | .s8 => [(dst, BitVec.ofInt 32 (sext 8 x))]
  | .z16 => [(dst, BitVec.ofNat 32 x)]
  | .s16 => [(dst, BitVec.ofInt 32 (sext 16 x))]
  | _ => (groupRegs dst k.width.regs).zip (wordsOf bs k.width.regs)

/-- A thread's record of messages gains one. -/
def addPend (t : Thread) (p : PendSrc) : Thread := { t with pend := t.pend ++ [p] }

/-- A block of a cluster and side of the context's virtual device; other blocks read zero (R323). -/
def blockOwn (s : State) (ctx cluster side : Nat) : Bool :=
  match (findCtx s ctx).bind fun c => findVd s c.vd with
  | some v => (VdShape.roods v.shape).contains (cluster / 8) && decide (side = VdShape.sideNum v.shape)
  | none => false

/-- The counter at an offset of the counter page (R323, R324). -/
def counterAt (s : State) (ctx off : Nat) : Nat := (counterValue s ctx (off / 512) (off / 256 % 2) (off % 256 / 8)).toNat

/-- A load of the counter page, performed at the named cluster (R323): the counters that its bytes touch. -/
def counterLoad (s : State) (g : Workgroup) (a z : Nat) : List Byte :=
  match (confsOf s g.ctx).find? (QueueConf.counterAt a) with
  | none => List.replicate z 0
  | some c =>
    let off := a - c.counterPage
    (((List.range 5).flatMap fun j => toBytes 8 (counterAt s g.ctx (off / 8 * 8 + 8 * j))).drop (off % 8)).take z

/-- A global load after its checks: an L1 hit, or a message for the bytes that are missing (R192, R307, R312). Of several reads
of a line on their way only the last brings it into the L1, so that no later load finds an older value there (R291). -/
def globalLoad (s : State) (t : Thread) (l : Launch) (g : Workgroup) (k : Access) (dst : BitVec 6) (va pa : Nat) :
    State × Thread :=
  if inCounterPage s g.ctx va then
    (s, addPend t (.value (loadWrites k dst (counterLoad s g va k.size))))
  else
    let base := plainReq g.home g.ctx t.wg t.tid va pa (.read k.size)
    if l1Ways l = 0 ∨ inTrapBin s g.ctx va = true then (sendCounted s base, addPend t (.load s.nextId k va [] dst))
    else
      let hit := (lineAt s g.home (asidOf s g.ctx) va)
      let got := match hit with
        | some x => lineGot x va k.size
        | none => match aliasAt s g.home pa with | some x => lineGot x va k.size | none => []
      if hit.isSome && decide (got.length = k.size) then
        let s1 := { s with l1 := s.l1.map fun x => if some x = hit then { x with used := nextUse s g.home } else x }
        (bumpCounter s1 g.ctx g.home 0 1, addPend t (.value (loadWrites k dst (got.map Prod.snd))))
      else
        let fwd := forwardable l va
        let peer := s.predictor.find? fun p =>
          decide (p.cluster = g.home.cluster) && decide (p.index = (field pa 14 7 ^^^ field pa 22 15))
        let r := { base with install := true, fwd := fwd }
        let s1 := bumpCounter (stopInstall s g.home (pa / 128)) g.ctx g.home 1 1
        match fwd, peer with
        | true, some p => (bumpCounter (sendCounted s1 { r with stage := .toPeer p.peer }) g.ctx g.home 3 1,
            addPend t (.load s.nextId k va got dst))
        | _, _ => (sendCounted s1 r, addPend t (.load s.nextId k va got dst))

/-- The fabric link a far access takes to another device: its port (R475). -/
def fabricLinks (s : State) (dev : Nat) : List Link :=
  if dev = s.boot.devnum then []
  else ((s.boot.routes.find? fun r => decide (r.dev = dev)).map fun r => (⟨3, 0, 0, r.port⟩ : Link)).toList

/-- A link of a path retrains: it holds the flits that wait for it (R319, R440). -/
def pathHeld (s : State) (ks : List Link) : Bool := s.links.any fun x => x.retraining && ks.contains x.link

/-- A far request: performed on this device when it names it, sent out otherwise, once its port does not retrain (R193, R194,
R440). -/
def sendFar (s : State) (t : Thread) (g : Workgroup) (a : Nat) (op : FarOp) : State :=
  let d := a / 2 ^ 52 % 64
  let r := { plainReq g.home g.ctx t.wg t.tid (a % 2 ^ 52) 0 (.far op) with loc := d }
  if d = s.boot.devnum then sendCounted s r
  else if pathHeld s (fabricLinks s d) then sendCounted s { r with stage := .atPort }
  else emit (sendCounted s r) (.far d s.nextId (a % 2 ^ 52) op)

/-- A two-pass far access with a reply: the second pass finds it (R193). -/
def farReplyPass (stop : Bool) (a : Nat) (op : FarOp) (ok : Bool) (writes : List Byte → List (BitVec 6 × Word))
    (g : Workgroup) (s : State) (t : Thread) : State × Thread × Fate :=
  match t.reply with
  | some y =>
    match y.violation with
    | some v => (s, { t with reply := none }, accessTrap v)
    | none =>
      (s, addPend { t with reply := none, fl := { t.fl with derr := t.fl.derr || y.bad, dstop := t.fl.dstop || y.bad } }
        (.value (writes y.data)), .next)
  | none =>
    if !isSafePoint s t stop then (s, t, .plain 8)
    else if !ok then (s, t, accessTrap a)
    else (sendFar s t g a op, t, .block 7 0 false)

/-- A far access without a reply joins the far group, if it has room (R194). DESIGN CHOICE (log 113): one that would be the ninth, at an
instruction that is no safe point, takes NOSAFE, as every other segment end asks for a safe point. -/
def farGroupPass (stop : Bool) (a : Nat) (op : FarOp) (ok : Bool) (g : Workgroup) (s : State) (t : Thread) :
    State × Thread × Fate :=
  if !ok then (s, t, accessTrap a)
  else if 8 ≤ t.far.length then (s, t, blockUnless false stop 8 0 false s t)
  else (sendFar s t g a op, { t with far := t.far ++ [s.nextId] }, .next)

/-- The member workgroup a window address names, and its scratch offset. -/
def windowMember (s : State) (l : Launch) (g : Workgroup) (a : Nat) : Nat :=
  match memberOf s l g (a / 2 ^ 20) with
  | some m => m.id
  | none => g.id

/-- A load of one thread (R188 to R193). -/
def loadAt (word : BitVec 32) (stop : Bool) (sp : Space) (k : Access) (dst : BitVec 6) (a : Nat) (s : State)
    (t : Thread) : State × Thread × Fate :=
  match envOf s t with
  | none => (s, t, .next)
  | some (l, g) =>
    let ok := accessOk s l g sp a k.size true false
    match sp with
    | .far => farReplyPass stop a (.load k.size) ok (loadWrites k dst) g s t
    | .scr =>
      if !ok then (s, t, accessTrap a)
      else (s, addPend t (.value (loadWrites k dst (readBytes g.scratch a k.size))), .next)
    | .win =>
      if !ok then (s, t, accessTrap a)
      else
        let m := windowMember s l g a
        if m = g.id then
          (s, addPend t (.value (loadWrites k dst (readBytes g.scratch (a % 2 ^ 20) k.size))), .next)
        else
          (sendCounted s { plainReq g.home g.ctx t.wg t.tid (a % 2 ^ 20) 0 (.window m none k.size) with loc := m },
            addPend t (.load s.nextId k (a % 2 ^ 20) [] dst), .next)
    | .glb =>
      if !ok then (s, t, accessTrap a)
      else match probeAccess s g a true false ⟨word, t.pc, BitVec.ofNat 64 a, []⟩ with
        | .error f => (s, t, f)
        | .ok pa =>
          let r := globalLoad s t l g k dst a pa
          (r.1, r.2, .next)

/-! ### Stores -/

/-- The bytes a store writes (R190). -/
def storeBytes (k : Access) (r : BitVec 6) (t : Thread) : List Byte :=
  (bytesOfWords (getGroup t r k.width.regs)).take k.size

/-- A global store after its checks (R192, R307). -/
def globalStore (s : State) (t : Thread) (l : Launch) (g : Workgroup) (va pa : Nat) (bs : List Byte) : State :=
  if l1Ways l = 0 then
    sendCounted s (plainReq g.home g.ctx t.wg t.tid va pa (.write (patchBytes [] pa bs)))
  else l1Store s g.home g.ctx g.id va pa (l1Ways l) bs

/-- Write scratch bytes of a workgroup. -/
def scratchWrite (s : State) (wg off : Nat) (bs : List Byte) : State :=
  updWg s wg fun g => { g with scratch := writeBytes g.scratch off bs }

/-- A store of one thread (R188 to R194). -/
def storeAt (word : BitVec 32) (stop : Bool) (sp : Space) (a : Nat) (bs : List Byte) (s : State) (t : Thread) :
    State × Thread × Fate :=
  match envOf s t with
  | none => (s, t, .next)
  | some (l, g) =>
    let ok := accessOk s l g sp a bs.length false true
    match sp with
    | .far => farGroupPass stop a (.store bs) ok g s t
    | .scr => if !ok then (s, t, accessTrap a) else (scratchWrite s g.id a bs, t, .next)
    | .win =>
      if !ok then (s, t, accessTrap a)
      else
        let m := windowMember s l g a
        if m = g.id then (scratchWrite s g.id (a % 2 ^ 20) bs, t, .next)
        else
          (sendCounted s { plainReq g.home g.ctx t.wg t.tid (a % 2 ^ 20) 0 (.window m (some bs) bs.length) with loc := m },
            t, .next)
    | .glb =>
      if !ok then (s, t, accessTrap a)
      else match probeAccess s g a false true ⟨word, t.pc, BitVec.ofNat 64 a, bs⟩ with
        | .error f => (deniedStore s g a, t, f)
        | .ok pa => (globalStore s t l g a pa bs, t, .next)

/-! ### Meanings of loads and stores -/

/-- Roles that may issue a load or store (R186). -/
def memRole (sp : Space) : BitVec 2 → Bool := if sp = .scr then anyRole else onlyVector

/-- The global address that reaches the probe (R188). -/
def probedAddr (sp : Space) (a align : Nat) (rd wr : Bool) (s : State) (t : Thread) : List Nat :=
  match sp, envOf s t with
  | .glb, some (l, g) => if accessOk s l g .glb a align rd wr then [a] else []
  | _, _ => []

/-- ld (R190). -/
def execLd (x : Mem1) (s : State) : Host.Outcome State Fault Refusal :=
  probedGang (.ld x) x.m.sw (memRole x.c)
    (fun s t => probedAddr x.c (addr1 x t) x.k.size true false s t)
    (fun s t => loadAt (wordOf (.ld x)) x.m.stop x.c x.k x.t (addr1 x t) s t) s

/-- st (R190). -/
def execSt (x : Mem1) (s : State) : Host.Outcome State Fault Refusal :=
  probedGang (.st x) x.m.sw (memRole x.c)
    (fun s t => probedAddr x.c (addr1 x t) x.k.size false true s t)
    (fun s t => storeAt (wordOf (.st x)) x.m.stop x.c (addr1 x t) (storeBytes x.k x.t t) s t) s

/-- ldk (R187, R190). -/
def execLdk (x : Mem2) (s : State) : Host.Outcome State Fault Refusal :=
  probedGang (.ldk x) x.m.sw (memRole x.c)
    (fun s t => probedAddr x.c (addr2 x s t) x.k.size true false s t)
    (fun s t => loadAt (wordOf (.ldk x)) x.m.stop x.c x.k x.t (addr2 x s t) s t) s

/-- stk (R187, R190). -/
def execStk (x : Mem2) (s : State) : Host.Outcome State Fault Refusal :=
  probedGang (.stk x) x.m.sw (memRole x.c)
    (fun s t => probedAddr x.c (addr2 x s t) x.k.size false true s t)
    (fun s t => storeAt (wordOf (.stk x)) x.m.stop x.c (addr2 x s t) (storeBytes x.k x.t t) s t) s

/-! ### Atomics (R195, R196) -/

/-- The new value of an atomic at a width; b_lo is the operand, b_hi its second half for cas. -/
def atomNew (x : Bool) (op : Nat) (n : Nat) (old lo hi : BitVec n) : BitVec n :=
  match x, op with
  | false, 0 => old + lo
  | false, 1 => old - lo
  | false, 2 => opMinS n old lo
  | false, 3 => opMaxS n old lo
  | false, 4 => opMinZ n old lo
  | false, 5 => opMaxZ n old lo
  | false, 6 => old &&& lo
  | false, _ => old ||| lo
  | true, 0 => if old = lo then hi else old
  | true, 1 => lo
  | true, 2 => if old.toNat ≥ lo.toNat then 0 else old + 1
  | true, 3 => if old = 0 ∨ old.toNat > lo.toNat then lo else old - 1
  | true, 4 => onPat (faddPat .rn) n old lo
  | true, 5 => onPat (fminmaxPat false false) n old lo
  | true, 6 => onPat (fminmaxPat true false) n old lo
  | true, _ => old ^^^ lo

/-- The bytes an atomic leaves where it found old bytes. -/
def atomBytes (x : Bool) (op : Nat) (w64 : Bool) (old operand : List Byte) : List Byte :=
  let n := if w64 then 64 else 32
  let r := atomNew x op n (BitVec.ofNat n (ofBytes old)) (BitVec.ofNat n (ofBytes (operand.take (n / 8))))
    (BitVec.ofNat n (ofBytes (operand.drop (n / 8))))
  toBytes (n / 8) r.toNat

/-- The register writes of an old value. -/
def oldWrites (x2 : Bool) (dst : BitVec 6) (bs : List Byte) : List (BitVec 6 × Word) :=
  (groupRegs dst (if x2 then 2 else 1)).zip (wordsOf bs (if x2 then 2 else 1))

/-- Before a local atomic: its sector's dirty bytes are written back and the L1 copy of the sector is invalid (R195). -/
def sectorOut (s : State) (g : Workgroup) (tid va pa : Nat) : State :=
  let s0 := stopInstall s g.home (pa / 128)
  match aliasAt s0 g.home pa with
  | none => s0
  | some l =>
    let p := fun i => decide (i = va % 128 / 16)
    let s1 := (writeBackSectors s0 p l g.ctx g.id tid).1
    match aliasAt s1 g.home pa with
    | none => s1
    | some l' => setLine s1 { l' with
        valid := bitsWhere 8 fun i => l'.valid.getLsbD i && !p i
        mask := bitsWhere 128 fun i => l'.mask.getLsbD i && !p (i / 16) }

/-- The releases that come before a message: the object's bound regions are written back, and the message is held until
they and the thread's earlier accesses to them are performed (R196, R197). -/
def releaseBefore (s : State) (t : Thread) (l : Launch) (g : Workgroup) (obj : Nat) (on : Bool) : State × ReqStage :=
  if on then
    let before := outstandingBound s t l obj
    let r := releaseObject s l g t.tid obj
    let ids := before ++ r.2
    (r.1, if ids.isEmpty then .toHome else .held ids)
  else (s, .toHome)

/-- An atomic of one thread, local or far. -/
def atomAt (word : BitVec 32) (x : Atom) (xf : Bool) (op : Nat) (a : Nat) (operand : List Byte) (s : State) (t : Thread) :
    State × Thread × Fate :=
  match envOf s t with
  | none => (s, t, .next)
  | some (l, g) =>
    let align := if x.x2 then 8 else 4
    if a / 2 ^ 63 = 1 then
      let ok := accessOk s l g .far a align true true
      let fop := FarOp.atom xf op x.x2 operand
      if x.ret then farReplyPass x.m.stop a fop ok (oldWrites x.x2 x.d) g s t
      else farGroupPass x.m.stop a fop ok g s t
    else if !accessOk s l g .glb a align true true then (s, t, accessTrap a)
    else match probeAccess s g a true true ⟨word, t.pc, BitVec.ofNat 64 a, operand⟩ with
      | .error f => (deniedStore s g a, t, f)
      | .ok pa =>
        let bound := !(boundRegions l a).isEmpty
        let s1 := sectorOut s g t.tid a pa
        let r := releaseBefore s1 t l g a (bound && decide (x.r = .rel ∨ x.r = .ar))
        let acq := bound && decide (x.r = .acq ∨ x.r = .ar)
        let id := r.1.nextId
        let s2 := sendCounted r.1 { plainReq g.home g.ctx t.wg t.tid a pa (.atom xf op x.x2 operand x.ret) with
          stage := r.2, acquire := acq }
        let t1 := if x.ret then addPend t (.atom id x.x2 x.d) else t
        (s2, if acq then { t1 with waits := t1.waits ++ [id] } else t1, .next)

/-- The address pair v(2m) and the operand group from v(2n) (R184). -/
def atomAddr (x : Atom) (t : Thread) : Nat := (getV2 t (x.p ++ 0#1)).toNat
def atomOperand (x : Atom) (cas : Bool) (t : Thread) : List Byte :=
  bytesOfWords (getGroup t (x.n ++ 0#1) ((if x.x2 then 2 else 1) * (if cas then 2 else 1)))

/-- An atomic instruction: the vector role only (R186). -/
def atomGang (i : Instr) (x : Atom) (xf : Bool) (op : Nat) (s : State) : Host.Outcome State Fault Refusal :=
  probedGang i x.m.sw onlyVector
    (fun s t => probedAddr .glb (atomAddr x t) (if x.x2 then 8 else 4) true true s t)
    (fun s t => atomAt (wordOf i) x xf op (atomAddr x t) (atomOperand x (xf && decide (op = 0)) t) s t) s

/-- atomAdd (R195). -/
def execAtomAdd (x : Atom) (s : State) : Host.Outcome State Fault Refusal := atomGang (.atomAdd x) x false 0 s

/-- atomSub (R195). -/
def execAtomSub (x : Atom) (s : State) : Host.Outcome State Fault Refusal := atomGang (.atomSub x) x false 1 s

/-- atomMins (R195). -/
def execAtomMins (x : Atom) (s : State) : Host.Outcome State Fault Refusal := atomGang (.atomMins x) x false 2 s

/-- atomMaxs (R195). -/
def execAtomMaxs (x : Atom) (s : State) : Host.Outcome State Fault Refusal := atomGang (.atomMaxs x) x false 3 s

/-- atomMinz (R195). -/
def execAtomMinz (x : Atom) (s : State) : Host.Outcome State Fault Refusal := atomGang (.atomMinz x) x false 4 s

/-- atomMaxz (R195). -/
def execAtomMaxz (x : Atom) (s : State) : Host.Outcome State Fault Refusal := atomGang (.atomMaxz x) x false 5 s

/-- atomAnd (R195). -/
def execAtomAnd (x : Atom) (s : State) : Host.Outcome State Fault Refusal := atomGang (.atomAnd x) x false 6 s

/-- atomOr (R195). -/
def execAtomOr (x : Atom) (s : State) : Host.Outcome State Fault Refusal := atomGang (.atomOr x) x false 7 s

/-- atomxCas (R195). -/
def execAtomxCas (x : Atom) (s : State) : Host.Outcome State Fault Refusal := atomGang (.atomxCas x) x true 0 s

/-- atomxXchg (R195). -/
def execAtomxXchg (x : Atom) (s : State) : Host.Outcome State Fault Refusal := atomGang (.atomxXchg x) x true 1 s

/-- atomxIncw (R195). -/
def execAtomxIncw (x : Atom) (s : State) : Host.Outcome State Fault Refusal := atomGang (.atomxIncw x) x true 2 s

/-- atomxDecw (R195). -/
def execAtomxDecw (x : Atom) (s : State) : Host.Outcome State Fault Refusal := atomGang (.atomxDecw x) x true 3 s

/-- atomxFadd (R195). -/
def execAtomxFadd (x : Atom) (s : State) : Host.Outcome State Fault Refusal := atomGang (.atomxFadd x) x true 4 s

/-- atomxFmin (R195). -/
def execAtomxFmin (x : Atom) (s : State) : Host.Outcome State Fault Refusal := atomGang (.atomxFmin x) x true 5 s

/-- atomxFmax (R195). -/
def execAtomxFmax (x : Atom) (s : State) : Host.Outcome State Fault Refusal := atomGang (.atomxFmax x) x true 6 s

/-- atomxXor (R195). -/
def execAtomxXor (x : Atom) (s : State) : Host.Outcome State Fault Refusal := atomGang (.atomxXor x) x true 7 s

end Sys2Proof.Machine
end

