-- ==== Sys2Proof/Machine/Sync.lean ====
section
/-! DEFINITION. Meanings of the entry-consistency and cache instructions (R197 to R199), barrier objects (R200 to R203),
stage rings (R204 to R206), and the awaits on barriers and ingress rings (R165, R392). -/
namespace Sys2Proof.Machine

/-! ### acq, rel, acqrel and fence -/

/-- A gang whose threads must wait for outstanding messages stays where it is until they are done. -/
def stallUnless (ready : State → Thread → Bool) (go : State → Host.Outcome State Fault Refusal) (s : State) :
    Host.Outcome State Fault Refusal :=
  if (actives s).all (ready s) then go s else .next s

/-- rel may act: the thread's earlier accesses to the bound regions, and its far group, are performed (R197). -/
def relReady (a : BitVec 6) (s : State) (t : Thread) : Bool :=
  match findLaunch s t.launch with
  | some l => (outstandingBound s t l (getV2 t a).toNat).isEmpty && t.far.isEmpty
  | none => true

/-- acq may act: the thread's earlier loads and atomics of the sync word have returned (R197). -/
def acqReady (a : BitVec 6) (s : State) (t : Thread) : Bool :=
  (ownReqs s t).all fun r =>
    match r.kind with
    | .read z => !(decide (r.va < (getV2 t a).toNat + 8) && decide ((getV2 t a).toNat < r.va + z))
    | .atom _ _ _ _ _ => !decide (r.va / 8 = (getV2 t a).toNat / 8)
    | _ => true

/-- Release the objects at an address, parking the thread until the write-backs are performed. -/
def relThread (a : BitVec 6) (s : State) (t : Thread) : State × Thread × Fate :=
  match envOf s t with
  | none => (s, t, .next)
  | some (l, g) =>
    let r := releaseObject s l g t.tid (getV2 t a).toNat
    (r.1, { t with waits := t.waits ++ r.2 }, .next)

/-- Acquire the objects at an address. -/
def acqThread (a : BitVec 6) (s : State) (t : Thread) : State × Thread × Fate :=
  (acquireFor s t (getV2 t a).toNat, t, .next)

/-- acq (R197). -/
def execAcq (x : R1) (s : State) : Host.Outcome State Fault Refusal :=
  stallUnless (acqReady x.r) (perThread (.acq x) x.m.sw (acqThread x.r)) s

/-- rel (R194, R197). -/
def execRel (x : R1) (s : State) : Host.Outcome State Fault Refusal :=
  stallUnless (relReady x.r) (perThread (.rel x) x.m.sw (farCheck (relThread x.r))) s

/-- acqrel: rel, then acq (R197). -/
def execAcqrel (x : R1) (s : State) : Host.Outcome State Fault Refusal :=
  stallUnless (fun s t => relReady x.r s t && acqReady x.r s t)
    (perThread (.acqrel x) x.m.sw (farCheck fun s t =>
      let r := relThread x.r s t
      acqThread x.r r.1 r.2.1)) s

/-- The messages a scope requires to be performed (R198). -/
def fenceWaits (sc : Scope) (r : Req) : Bool :=
  let lvl := sc.code.toNat
  match r.kind with
  | .read _ => decide (1 ≤ lvl)
  | .window _ _ _ => decide (3 ≤ lvl)
  | .write _ => decide (4 ≤ lvl)
  | .atom _ _ _ _ _ => decide (4 ≤ lvl)
  | .bar _ _ _ => decide (4 ≤ lvl)
  | .post _ _ => decide (4 ≤ lvl)
  | .far _ => decide (6 ≤ lvl)
  | .prefetch => false
  | .packet _ _ => false

/-- fence (R194, R198). -/
def execFence (x : Fence) (s : State) : Host.Outcome State Fault Refusal :=
  stallUnless (fun s t => ((ownReqs s t).all fun r => !fenceWaits x.s r) && (x.s ≠ .dm || t.far.isEmpty))
    (perThread (.fence x) x.m.sw (if x.s = .dm then farCheck fun s t => (s, t, .next) else fun s t => (s, t, .next))) s

/-! ### cinv, cwb and pf (R199) -/

/-- A line that starts at an address overlaps the thread's range. -/
def inRange (x : Range) (t : Thread) (a : Nat) : Bool :=
  let lo := (getV2 t x.a).toNat
  let n := min (getV t x.l).toNat 65536
  decide (lo < a + 128) && decide (a < lo + n) && decide (n ≠ 0)

/-- The lines of the thread's L1 that overlap its range. -/
def rangeLines (x : Range) (s : State) (t : Thread) (g : Workgroup) : List L1Line :=
  (homeLines s g.home).filter fun l => decide (l.asid = asidOf s g.ctx) && lineIn s g.ctx (inRange x t) l

/-- Act on the lines of each thread's range and park until the write-backs are performed, those of the range that were on
their way before included; cinv also keeps the fills on their way out of the L1. -/
def rangeOp (i : Instr) (x : Range) (drops : Bool) (act : Workgroup → Nat → State → L1Line → State × List Nat)
    (s : State) : Host.Outcome State Fault Refusal :=
  perThread i x.m.sw (fun s t =>
    match findWg s t.wg with
    | none => (s, t, .next)
    | some g =>
      let before := homeWrites s g (inRange x t)
      let r := overLines (act g t.tid) s (rangeLines x s t g)
      let s1 := if drops then
          stopFills r.1 g.home (reqIn s g.ctx (inRange x t))
        else r.1
      (s1, { t with waits := t.waits ++ before ++ r.2 }, .next)) s

/-- cinv. -/
def execCinv (x : Range) (s : State) : Host.Outcome State Fault Refusal :=
  rangeOp (.cinv x) x true (fun g tid s l => invalidateLine s l g.ctx g.id tid) s

/-- cwb. -/
def execCwb (x : Range) (s : State) : Host.Outcome State Fault Refusal :=
  rangeOp (.cwb x) x false (fun g tid s l => writeBackLine s l g.ctx g.id tid) s

/-- The addresses pf probes. -/
def pfAddr (x : R1) (_ : State) (t : Thread) : List Nat :=
  if (getV2 t x.r).toNat < 2 ^ 52 then [(getV2 t x.r).toNat] else []

/-- pf of one thread: a failed probe discards it (R189). -/
def pfThread (x : R1) (s : State) (t : Thread) : State × Thread × Fate :=
  let a := (getV2 t x.r).toNat
  match envOf s t with
  | none => (s, t, .next)
  | some (l, g) =>
    match decide (a < 2 ^ 52), probeAt s g.home.cluster (asidOf s g.ctx) a with
    | true, .ok pa true _ =>
      (sendCounted s { plainReq g.home g.ctx t.wg noThread a pa .prefetch with
        install := decide (l1Ways l ≠ 0), fwd := forwardable l a }, t, .next)
    | _, _ => (s, t, .next)

/-- pf: a page it does not find is not asked for (R189, R347). -/
def execPf (x : R1) (s : State) : Host.Outcome State Fault Refusal :=
  probedWith dropWalks (.pf x) x.m.sw anyRole (pfAddr x) (pfThread x) s

/-! ### Barrier objects (R200 to R203) -/

/-- Changes of a barrier object, by number: 0 to 4 as R184, 5 a read. None where the object does not allow it. -/
def barChange (fn : Nat) (operand : Word) (out : Bool) (b : Bar) : Option Bar :=
  match fn with
  | 0 => if b.valid ∨ operand.toNat % 2 ^ 16 = 0 then none else some (Bar.init b operand)
  | 1 => if b.valid then some (Bar.arrive b operand) else none
  | 2 => if b.valid then some (Bar.arrive b operand) else none
  | 3 => if b.valid then some (Bar.expect b out operand) else none
  | 4 => if b.valid then some (Bar.inval b) else none
  | _ => if b.valid then some b else none

/-- What a thread learns of a change: allowed, and the phase bits before and after. -/
structure BarResult where
  ok : Bool
  before : Bool
  after : Bool
deriving DecidableEq, Repr

def barResult (fn : Nat) (operand : Word) (out : Bool) (b : Bar) : BarResult :=
  match barChange fn operand out b with
  | some b' => ⟨true, b.ph, b'.ph⟩
  | none => ⟨false, b.ph, b.ph⟩

/-- A result as the reply of a message carries it. -/
def barReply (r : BarResult) : List Byte := [if r.ok then 1 else 0, if r.before then 1 else 0, if r.after then 1 else 0]
def ofBarReply (bs : List Byte) : BarResult :=
  let b := fun (i : Nat) => decide ((bs[i]?).getD 0 ≠ 0)
  ⟨b 0, b 1, b 2⟩

/-- A barrier instruction of one gang. -/
structure BarSpec where
  fn : Nat
  glb : Bool
  out : Bool
  /-- Address of the object. -/
  addr : Thread → Nat
  operand : Thread → Word
  /-- await.bar: a wrong scratch address is BAD_OPERAND (R165). -/
  await : Bool

/-- The address a barrier instruction's registers give. -/
def barAddr (glb : Bool) (a : BitVec 6) (t : Thread) : Nat := if glb then (getV2 t a).toNat else (getV t a).toNat

/-- Object address for releases and acquires (R286). -/
def BarSpec.obj (b : BarSpec) (t : Thread) : Nat := if b.glb then b.addr t else scratchObject (b.addr t)

/-- The change the thread makes now: with the arrival mark it only reads (R203). -/
def BarSpec.fnOf (b : BarSpec) (t : Thread) : Nat := if b.fn = 2 ∧ t.mark.isSome then 5 else b.fn

/-- Steps 1 to 3 of R188. -/
def BarSpec.ok (b : BarSpec) (s : State) (t : Thread) : Bool :=
  match envOf s t with
  | some (l, g) => accessOk s l g (if b.glb then .glb else .scr) (b.addr t) 16 true (!b.await)
  | none => false

/-- The message of a thread's barrier instruction that is on its way or answered. -/
def barReq (s : State) (t : Thread) : Option Req :=
  (ownReqs s t).find? fun r => match r.kind with | .bar _ _ _ => true | _ => false

/-- The probe of a thread that has sent nothing yet. -/
def BarSpec.probed (b : BarSpec) (s : State) (t : Thread) : List Nat :=
  if b.glb && b.ok s t && (barReq s t).isNone then [b.addr t] else []

/-- Whether the thread's arrival releases something first. -/
def BarSpec.releases (b : BarSpec) (s : State) (t : Thread) : Bool :=
  match envOf s t with
  | some (l, g) => (decide (b.fnOf t = 1) || decide (b.fnOf t = 2)) &&
      (!(boundLines s l g (b.obj t)).all (fun x => decide (x.mask = 0)) || !(outstandingBound s t l (b.obj t)).isEmpty)
  | none => false

/-- The message a thread sends before it can finish: every global change, and a scratch arrival with bytes to release
(R201). The thread is parked until the answer is there. -/
def BarSpec.send (b : BarSpec) (stop : Bool) (s : State) (t : Thread) : State :=
  if (barReq s t).isSome || !b.ok s t || (b.fn = 2 && !isSafePoint s t stop) then s
  else
    match envOf s t with
    | none => s
    | some (l, g) =>
      if !b.glb && !b.releases s t then s
      else
        let goes := fun (s : State) (pa loc : Nat) (send : State → Req → State) =>
          let r := releaseBefore s t l g (b.obj t) (b.releases s t)
          let id := r.1.nextId
          let q := { plainReq g.home g.ctx t.wg t.tid (b.addr t) pa (.bar (b.fnOf t) (b.operand t) b.out) with
            stage := r.2, loc := loc }
          updThread (send r.1 q) t.wg t.tid fun t => { t with waits := t.waits ++ [id] }
        if !b.glb then goes s 0 1 sendReq
        else
          match probeAt s g.home.cluster (asidOf s g.ctx) (b.addr t) with
          | .ok pa rd w =>
            if permits s g.ctx (b.addr t) true (!b.await) (.ok pa rd w) then goes s pa 0 sendCounted else s
          | _ => s

/-- What follows from the result of a change. -/
def BarSpec.finish (b : BarSpec) (stop : Bool) (r : BarResult) (s : State) (t : Thread) : State × Thread × Fate :=
  if !r.ok then (s, { t with mark := none }, accessTrap (b.addr t))
  else if b.await then
    if decide (r.after ≠ (b.operand t).getLsbD 0) then (acquireFor s t (b.obj t), t, .next)
    else (s, t, blockUnless false stop 1 (b.addr t + (if (b.operand t).getLsbD 0 then 1 else 0)) b.glb s t)
  else if b.fn = 2 then
    let ph := t.mark.getD r.before
    if r.after ≠ ph then (acquireFor s t (b.obj t), { t with mark := none }, .next)
    else (s, { t with mark := some ph }, .block 1 (b.addr t + (if ph then 1 else 0)) b.glb)
  else (s, t, .next)

/-- Test the records and held threads that may wait on an object (R201, R258). -/
def wakeBar (s : State) (wg ctx : Nat) (glb : Bool) : State := if glb then retestCtx s ctx 1 else retestWg s wg 1

/-- A change of a scratch object at its bank. -/
def scratchChange (fn : Nat) (operand : Word) (out : Bool) (off : Nat) (s : State) (t : Thread) :
    State × Thread × BarResult :=
  match findWg s t.wg with
  | none => (s, t, ⟨false, false, false⟩)
  | some g =>
    let b := scratchBar g off
    let res := barResult fn operand out b
    match barChange fn operand out b with
    | none => (s, t, res)
    | some b' =>
      if fn = 5 then (s, t, res)
      else
        let r := sramLogged (scratchWrite s g.id off (barBytes b')) t
        (wakeBar r.1 g.id g.ctx false, r.2, res)

/-- A barrier instruction of one thread whose message, if it needed one, has its answer. -/
def BarSpec.thread (b : BarSpec) (word : BitVec 32) (stop : Bool) (s : State) (t : Thread) : State × Thread × Fate :=
  match barReq s t with
  | some q =>
    let s1 := dropReq s q.id
    match q.stage with
    | .taken bs => b.finish stop (ofBarReply bs) s1 t
    | _ =>
      let r := scratchChange (b.fnOf t) (b.operand t) b.out (b.addr t) s1 t
      b.finish stop r.2.2 r.1 r.2.1
  | none =>
    if b.fn = 2 ∧ isSafePoint s t stop = false then (s, t, .plain 8)
    else if !b.ok s t then (s, t, if b.await && !b.glb then .plain 10 else accessTrap (b.addr t))
    else if b.glb then
      match findWg s t.wg with
      | none => (s, t, .next)
      | some g =>
        match probeAt s g.home.cluster (asidOf s g.ctx) (b.addr t) with
        | .missing =>
          if b.fn = 2 ∨ b.await = true then (s, t, blockUnless false stop 9 (b.addr t) false s t)
          else (s, t, .logged ⟨word, t.pc, BitVec.ofNat 64 (b.addr t), toBytes 4 (b.operand t).toNat⟩)
        | _ => (if b.ok s t && !b.await then deniedStore s g (b.addr t) else s, t, accessTrap (b.addr t))
    else
      let r := scratchChange (b.fnOf t) (b.operand t) b.out (b.addr t) s t
      b.finish stop r.2.2 r.1 r.2.1

/-- A barrier instruction: the probe, then the messages, then, when every thread's answer is there, the effects in seat
order. -/
def barGang (i : Instr) (m : Marks) (b : BarSpec) (s : State) : Host.Outcome State Fault Refusal :=
  match (actives s).head?.bind (envOf s) with
  | none => .next s
  | some (_, g) =>
    let vas := (actives s).flatMap (b.probed s)
    match probeGang s g.home g.ctx vas with
    | some s' => .next s'
    | none =>
      let s1 := foldList (fun s t => b.send m.stop s t) s (actives s)
      if (actives s1).any fun t => !t.waits.isEmpty then .next s1
      else
        match perThread i m.sw (fun s t => b.thread (wordOf i) m.stop s t) s1 with
        | .next s2 => .next (useWalks s2 g.home.cluster (asidOf s g.ctx) vas)
        | o => o

/-- The operand register of bar.init, bar.arr and bar.wait. -/
def barSpecOf (fn : Nat) (x : BarOp) : BarSpec := ⟨fn, x.glb, false, barAddr x.glb x.a, fun t => getV t x.b, false⟩

/-- bar.init (R202). -/
def execBarInit (x : BarOp) (s : State) : Host.Outcome State Fault Refusal := barGang (.barInit x) x.m (barSpecOf 0 x) s

/-- bar.arr (R202). -/
def execBarArr (x : BarOp) (s : State) : Host.Outcome State Fault Refusal := barGang (.barArr x) x.m (barSpecOf 1 x) s

/-- bar.wait (R203). -/
def execBarWait (x : BarOp) (s : State) : Host.Outcome State Fault Refusal := barGang (.barWait x) x.m (barSpecOf 2 x) s

/-- bar.exp (R202). -/
def execBarExp (x : BarExp) (s : State) : Host.Outcome State Fault Refusal :=
  barGang (.barExp x) x.m ⟨3, x.glb, x.out, barAddr x.glb x.a, fun t => getV t x.b, false⟩ s

/-- bar.inval (R202). -/
def execBarInval (x : BarInval) (s : State) : Host.Outcome State Fault Refusal :=
  barGang (.barInval x) x.m ⟨4, x.glb, false, barAddr x.glb x.a, fun _ => 0, false⟩ s

/-- await.bar (R165). -/
def execAwaitBar (x : AwaitBar) (s : State) : Host.Outcome State Fault Refusal :=
  barGang (.awaitBar x) x.m ⟨5, x.q, false, barAddr x.q x.a, fun t => getV t x.b, true⟩ s

/-! ### await.ing (R165, R392) -/

/-- Continuing past await.ing acquires the ring: the lines of its slot array are invalidated. -/
def acquireIngress (s : State) (t : Thread) (r : Ingress) : State :=
  match findWg s t.wg with
  | none => s
  | some g =>
    let lo := r.desc.base
    let hi := r.desc.base + 2 ^ (r.desc.slog + r.desc.zlog)
    let holds := fun a => decide (lo < a + 128) && decide (a < hi)
    stopFills (overLines (fun s l => invalidateLine s l g.ctx g.id t.tid) s
      ((homeLines s g.home).filter fun l => decide (l.asid = asidOf s g.ctx) && lineIn s g.ctx holds l)).1 g.home
      (reqIn s g.ctx holds)

/-- await.ing. -/
def execAwaitIng (x : R1) (s : State) : Host.Outcome State Fault Refusal :=
  perThread (.awaitIng x) x.m.sw (fun s t =>
    let n := (getV t x.r).toNat % 256
    match findIngress s (ctxOfWg s t.wg) n with
    | none =>
      (s, t, if ingressCount s (ctxOfWg s t.wg) ≤ n then .plain 10 else blockUnless false x.m.stop 5 n false s t)
    | some r =>
      if ingressHolds s (ctxOfWg s t.wg) r then (acquireIngress s t r, t, .next)
      else (s, t, blockUnless false x.m.stop 5 n false s t)) s

/-! ### Stage rings (R204 to R206, R280) -/

/-- Replace a ring of a workgroup. -/
def setRing (s : State) (wg : Nat) (r : Ring) : State :=
  updWg s wg fun g => { g with rings := updWhere (fun x => decide (x.num = r.num)) (fun _ => r) g.rings }

/-- Put an entry at TAIL. -/
def ringPush (r : Ring) (ws : List Word) : Ring :=
  let tail := (r.tail + 1) % r.size
  { r with
    entries := ⟨r.tail, ws, r.tph⟩ :: dropWhere (fun e => decide (e.index = r.tail)) r.entries
    tail := tail
    tph := if tail = 0 then !r.tph else r.tph }

/-- The entry at HEAD. -/
def ringHead (r : Ring) : List Word :=
  match r.entries.find? fun e => decide (e.index = r.head) with
  | some e => e.words
  | none => List.replicate 8 0

/-- Take the entry at HEAD; an occupied reserve place moves into the ring. -/
def ringPop (r : Ring) : Ring :=
  let head := (r.head + 1) % r.size
  let r1 := { r with head := head, hph := if head = 0 then !r.hph else r.hph }
  match r1.reserve with
  | some ws => ringPush { r1 with reserve := none } ws
  | none => r1

/-- A ring operation that is performed: logged in its order list (R463), the ring replaced, the thread goes on. -/
def ringDone (s : State) (t : Thread) (r : Ring) (after : State → State) (f : Thread → Thread) :
    State × Thread × Fate :=
  let q := sramLogged (setRing s t.wg r) t
  (after q.1, f q.2, .next)

/-- A ring instruction: BAD_OPERAND for a number the kernel has not declared. -/
def ringGang (i : Instr) (sw : Bool) (n : Nat) (body : Ring → State → Thread → State × Thread × Fate) (s : State) :
    Host.Outcome State Fault Refusal :=
  perThread i sw (fun s t =>
    match ringOf s t n with
    | none => (s, t, .plain 10)
    | some r => body r s t) s

/-- rinit. -/
def execRinit (x : RInit) (s : State) : Host.Outcome State Fault Refusal :=
  ringGang (.rinit x) x.m.sw x.r.toNat (fun r s t =>
    ringDone s t { r with head := 0, tail := 0, hph := false, tph := false, reserve := none, grant := none }
      (fun s => retestHeld
        (retest s fun q => decide (q.th.wg = t.wg) && decide (q.fin.wake = 2) &&
          decide (q.fin.operand % 256 = r.num) && q.fin.q)
        fun u => decide (u.wg = t.wg)) id) s

/-- rpush: a thread whose record was granted the reserve place takes it; where it finds a free entry it uses that one, and
the reserve no longer holds the others back (R205, R258, R280). -/
def execRpush (x : RingOp) (s : State) : Host.Outcome State Fault Refusal :=
  ringGang (.rpush x) x.m.sw x.r.toNat (fun r s t =>
    let ws := getGroup t x.a 8
    let mine := decide (r.grant = some t.tid)
    if r.full && mine then ringDone s t { r with reserve := some ws, grant := none } id id
    else if r.countsFull && !mine then (s, t, blockUnless false x.m.stop 2 r.num true s t)
    else
      let r1 := ringPush (if mine then { r with grant := none } else r) ws
      ringDone s t r1 (fun s =>
        let s1 := wakeOldest s t.wg r.num false
        if mine && !r1.countsFull then wakeOldest s1 t.wg r.num true else s1) id) s

/-- What a pop wakes: a waiting pop where a reserve entry has moved into the ring, as a push does, and a record that waits
for a free entry where there is one (R205, R280). -/
def wakeAfterPop (r : Ring) (wg : Nat) (s : State) : State :=
  let s1 := if r.reserve.isSome then wakeOldest s wg r.num false else s
  if (ringPop r).countsFull then s1 else wakeOldest s1 wg r.num true

/-- rpop: pending. -/
def execRpop (x : RingOp) (s : State) : Host.Outcome State Fault Refusal :=
  ringGang (.rpop x) x.m.sw x.r.toNat (fun r s t =>
    if r.empty then (s, t, blockUnless false x.m.stop 2 r.num false s t)
    else
      ringDone s t (ringPop r) (wakeAfterPop r t.wg)
        (fun t => pendRegs t ((groupRegs x.a 8).zip (ringHead r)))) s

/-- rpeek: pending; vB is 0 and vA unchanged when the ring is empty. -/
def execRpeek (x : RPeek) (s : State) : Host.Outcome State Fault Refusal :=
  ringGang (.rpeek x) x.m.sw x.r.toNat (fun r s t =>
    ringDone s t r id fun t =>
      if r.empty then pendRegs t [(x.b, 0)]
      else pendRegs t ((groupRegs x.a 8).zip (ringHead r) ++ [(x.b, 1)])) s

end Sys2Proof.Machine
end

