-- ==== Sys2Proof/Machine/Replay.lean ====
section
/-! DEFINITION. Reading a replay log back (R464) and the order it imposes (R466): which operation of a home, and which
segment start of a %vcluster, is due. -/
namespace Sys2Proof.Machine

/-- The replay a launch runs under. -/
def replayOf (s : State) (launch : Nat) : Option Replaying :=
  s.replaying.find? fun r => decide (r.launch = some launch)

/-- First chunk and entry count of a list, from the directory in blocks 1 and 2. -/
def replayList (s : State) (base : Nat) (order : Bool) (ident : Nat) : Option (Nat × Nat) :=
  ((List.range 512).find? fun i =>
      decide (i < readNat s.mem (base + 0xC) 4) && decide (readNat s.mem (base + 4096 + 16 * i) 4 = boolNat order) &&
        decide (readNat s.mem (base + 4096 + 16 * i + 4) 4 = ident)).map fun i =>
    (readNat s.mem (base + 4096 + 16 * i + 8) 4, readNat s.mem (base + 4096 + 16 * i + 12) 4)

/-- The chunk that is n links after another. -/
def chunkAfter (s : State) (base chunk : Nat) : Nat → Nat
  | 0 => chunk
  | n + 1 => chunkAfter s base (readNat s.mem (base + 4096 * chunk) 4) n

/-- Entry n of a list: 16 bytes of a dispatch list, 8 of an order list. -/
def replayEntry (s : State) (r : Replaying) (order : Bool) (ident n : Nat) : Option Nat :=
  match replayList s r.base order ident with
  | none => none
  | some (first, count) =>
    if n < count then
      let cap := if order then 510 else 255
      let z := if order then 8 else 16
      some (readNat s.mem (r.base + 4096 * chunkAfter s r.base first (n / cap) + 16 + z * (n % cap)) z)
    else none

/-- Fields of a dispatch entry (R463). -/
def entryOrd (x : Nat) : Nat := field x 31 0
def entryWg (x : Nat) : Nat := field x 63 32
def entryTid (x : Nat) : Nat := field x 79 64
def entryKind (x : Nat) : Nat := field x 87 80
def entryCode (x : Nat) : Nat := field x 95 88
def entryPassed (x : Nat) : Nat := field x 127 96

/-- Index of the next entry of a list that has not been used. -/
def replayNext (r : Replaying) (order : Bool) (ident : Nat) : Nat :=
  match r.next.find? fun x => decide (x.1 = order) && decide (x.2.1 = ident) with
  | some x => x.2.2
  | none => 0

/-- Use a list up to an index. -/
def replayAdvance (s : State) (launch : Nat) (order : Bool) (ident n : Nat) : State :=
  let used := fun (r : Replaying) =>
    let rest := dropWhere (fun x => decide (x.1 = order) && decide (x.2.1 = ident)) r.next
    { r with next := (order, ident, n) :: rest, idleSince := s.clock }
  { s with replaying := s.replaying.map fun r => if r.launch = some launch then used r else r }

/-- The lists of a kind that the log's directory names. -/
def replayIdents (s : State) (r : Replaying) (order : Bool) : List Nat :=
  (List.range (min 512 (readNat s.mem (r.base + 0xC) 4))).filterMap fun i =>
    if readNat s.mem (r.base + 4096 + 16 * i) 4 = boolNat order then some (readNat s.mem (r.base + 4096 + 16 * i + 4) 4) else none

/-- The entry of an operation names it, whichever home performs it (R463): the order list whose next entry it is. -/
def orderList (s : State) (r : Replaying) (entry : Nat) : Option Nat :=
  (replayIdents s r true).find? fun n => decide (replayEntry s r true n (replayNext r true n) = some entry)

/-- The entry of a thread's next operation. -/
def opEntry (g : Workgroup) (t : Thread) : Nat := g.wgid + 2 ^ 32 * t.tid + 2 ^ 44 * (t.path.syncOps % 2 ^ 20)

/-- A synchronising operation of a thread is due: always, outside a replay; in one, when it is the next entry of its list. -/
def opDue (s : State) (t : Thread) : Bool :=
  match replayOf s t.launch, findWg s t.wg with
  | some r, some g => (orderList s r (opEntry g t)).isSome
  | _, _ => true

/-- A due operation is used up. -/
def opUsed (s : State) (launch entry : Nat) : State :=
  match replayOf s launch with
  | some r =>
    match orderList s r entry with
    | some n => replayAdvance s launch true n (replayNext r true n + 1)
    | none => s
  | none => s

/-- The next start of a dispatch list, past the segment ends: its index and entry. -/
def nextStart (s : State) (r : Replaying) (ident : Nat) : Option (Nat × Nat) :=
  let total := match replayList s r.base false ident with | some x => x.2 | none => 0
  let from_ := replayNext r false ident
  ((List.range (total - from_)).filterMap fun i =>
    match replayEntry s r false ident (from_ + i) with
    | some x => if entryKind x = 3 then none else some (from_ + i, x)
    | none => none).head?

/-- The start of a thread that is next in its list: list, index, entry. The list of its %vcluster comes first; the log has it in another
one where a move has been, or has not been, repeated, and then its ordinal is the thread's (R466). -/
def startEntry (s : State) (r : Replaying) (vcluster wgid tid kind ord : Nat) : Option (Nat × Nat × Nat) :=
  (vcluster :: replayIdents s r false).findSome? fun n =>
    match nextStart s r n with
    | some (i, x) =>
      if entryKind x = kind ∧ entryWg x = wgid ∧ entryTid x = tid ∧ (n = vcluster ∨ (kind ≠ 0 ∧ entryOrd x = ord)) then some (n, i, x)
      else none
    | none => none

/-- A start of a kind (0 placed, 1 created, 2 drained) of a workgroup's thread at an ordinal is due. -/
def startDue (s : State) (launch vcluster wgid tid kind ord : Nat) : Bool :=
  match replayOf s launch with
  | none => true
  | some r => (startEntry s r vcluster wgid tid kind ord).isSome

/-- A due start is used up; the thread's segment has begun there. -/
def startUsed (s : State) (launch vcluster wgid tid kind ord : Nat) : State :=
  match replayOf s launch with
  | none => s
  | some r =>
    match startEntry s r vcluster wgid tid kind ord with
    | some (n, i, _) =>
      let s1 := replayAdvance s launch false n (i + 1)
      if kind = 0 then s1
      else { s1 with replaying := s1.replaying.map fun r => if r.launch = some launch then
        { r with starts := (wgid, tid, n, i) :: r.starts.filter fun x => !(decide (x.1 = wgid) && decide (x.2.1 = tid)) } else r }
    | none => s

/-- Where a thread's current segment has begun: list and index. -/
def startOf (r : Replaying) (wgid tid : Nat) : Option (Nat × Nat) :=
  (r.starts.find? fun x => decide (x.1 = wgid) && decide (x.2.1 = tid)).map fun x => x.2.2

/-- The first entry of a list from an index on that satisfies a test: its index and the entry. -/
def entryFrom (s : State) (r : Replaying) (n from_ : Nat) (p : Nat → Bool) : Option (Nat × Nat) :=
  let total := match replayList s r.base false n with | some x => x.2 | none => 0
  (List.range (total - from_)).findSome? fun i =>
    match replayEntry s r false n (from_ + i) with
    | some x => if p x then some (from_ + i, x) else none
    | none => none

/-- The logged end of a thread's current segment: ordinal, wake code and safe points passed. -/
def loggedEnd (s : State) (launch wgid tid : Nat) : Option (Nat × Nat × Nat) :=
  (replayOf s launch).bind fun r => (startOf r wgid tid).bind fun x =>
    (entryFrom s r x.1 x.2 fun e => decide (entryWg e = wgid) && decide (entryTid e = tid) && decide (entryKind e = 3)).map
      fun e => (entryOrd e.2, entryCode e.2, entryPassed e.2)

/-- The position of a thread's next logged start in its list; after the list's end where it has none. -/
def nextPosition (s : State) (launch vcluster wgid tid : Nat) : Nat :=
  match replayOf s launch with
  | none => 0
  | some r =>
    let n := match startOf r wgid tid with | some x => x.1 | none => vcluster
    match entryFrom s r n (replayNext r false n) fun e =>
        decide (entryWg e = wgid) && decide (entryTid e = tid) && !decide (entryKind e = 3) with
    | some x => x.1
    | none => match replayList s r.base false n with | some x => x.2 | none => 0

/-- Some start or operation of the log has not been used. -/
def entriesLeft (s : State) (r : Replaying) : Bool :=
  ((replayIdents s r true).any fun n => (replayEntry s r true n (replayNext r true n)).isSome) ||
    ((replayIdents s r false).any fun n => (nextStart s r n).isSome)

end Sys2Proof.Machine
end

