-- ==== Sys2Proof/Machine/Counts.lean ====
section
/-! DEFINITION. What every uncorrectable error does: the counts and their store, the module error log, the launch's
data-error count, DERR, poisoned memory, and the divergence of a replay (R350, R441 to R445, R466). -/
namespace Sys2Proof.Machine

/-- Place of a structure in the count block, and its code in the error log (R443, R444). -/
def structCode : Structure → Nat
  | .registers => 0
  | .sram => 1
  | .tiles => 2
  | .l2 => 3
  | .btier => 4
  | .hbm => 5
  | .mesh => 6
  | .fabric => 7

/-- Where an error lies: structure, rood (16: the firmware complex), the cluster, slice or channel within the rood, the
address or offset of the log entry, and the register, word or unit that R445 counts by. -/
structure ErrPlace where
  st : Structure
  rood : Nat
  sub : Nat
  addr : Nat
  unit : Option RetireUnit
  place : Nat
deriving DecidableEq, Repr

/-- Add to a count, which saturates (R443). -/
def addCount (cs : List ErrCount) (block idx n : Nat) : List ErrCount :=
  if cs.any fun c => decide (c.block = block) && decide (c.idx = idx) then
    cs.map fun c => if c.block = block ∧ c.idx = idx then { c with value := satAdd32 c.value n } else c
  else cs ++ [⟨block, idx, min n 0xFFFFFFFF⟩]

/-- A count's value; absent counts are zero. -/
def countOf (cs : List ErrCount) (block idx : Nat) : Nat :=
  match cs.find? fun c => decide (c.block = block) && decide (c.idx = idx) with
  | some c => c.value
  | none => 0

/-- Count at the module (R443). -/
def countError (s : State) (block idx n : Nat) : State :=
  { s with nv := { s.nv with counts := addCount s.nv.counts block idx n } }

/-- Commit the counts to the store (R443). -/
def commitCounts (s : State) : State := { s with nv := { s.nv with committed := s.nv.counts, commitAt := s.clock } }

/-- Cycles of the window of R442. -/
def logWindow : Nat := 1750000

/-- Rood field of a log entry (R444). -/
def logRood (rood : Nat) : Nat := if rood < 16 then rood else 0xFF

/-- Take an event into the module error log: one entry per unit and structure in a window, whose counts further events raise
and whose bits they add to (R442, R444). -/
def logError (s : State) (code : Nat) (unc retires : Bool) (rood sub addr : Nat) : State :=
  let hit := fun (e : ErrEntry) =>
    decide (e.structCode = code) && decide (e.rood = logRood rood) && decide (e.sub = sub) &&
      decide (s.clock < e.start + logWindow)
  if s.errlog.any hit then
    { s with errlog := s.errlog.map fun e => if hit e then
      { e with merged := e.merged + 1, uncorrectable := e.uncorrectable || unc, retires := e.retires || retires } else e }
  else { s with errlog := s.errlog ++ [⟨s.ptp.time, code, unc, retires, logRood rood, sub, 1, addr, s.clock⟩] }

/-- The 32 bytes of an entry (R444). -/
def ErrEntry.bytes (e : ErrEntry) : List Byte :=
  toBytes 8 e.time ++
    toBytes 4 (e.structCode + 16 * boolNat e.uncorrectable + 32 * boolNat e.retires + 256 * e.rood + 65536 * e.sub) ++
    toBytes 4 e.merged ++ toBytes 8 e.addr ++ List.replicate 8 0

/-- What the Steward remembers for the limits of R445. -/
def remember (s : State) (p : ErrPlace) (unc tag : Bool) (n : Nat) : State :=
  match p.unit with
  | some u => { s with errHist := s.errHist ++ [⟨u, structCode p.st, unc, tag, p.place, n, s.clock⟩] }
  | none => s

/-- Cycles of an hour and of a day. -/
def hourCycles : Nat := 3600 * 1750000000
def dayCycles : Nat := 24 * hourCycles

/-- Events of a unit in the last cycles. -/
def eventsOf (s : State) (u : RetireUnit) (span : Nat) : List ErrEvent :=
  s.errHist.filter fun e => decide (e.unit = u) && decide (s.clock < e.at_ + span)

/-- How many. -/
def eventSum (es : List ErrEvent) : Nat := sumNat (es.map ErrEvent.n)

/-- The counts of a unit have passed its limits (R445). -/
def limitPassed (s : State) (u : RetireUnit) : Bool :=
  let day := eventsOf s u dayCycles
  let bad := day.filter fun e => e.uncorrectable
  let fixed := (eventsOf s u hourCycles).filter fun e => !e.uncorrectable && !e.tag
  match u with
  | .cluster _ =>
    (bad.any fun e => decide (2 ≤ eventSum (bad.filter fun x => decide (x.structCode = e.structCode) && decide (x.place = e.place)))) ||
      (fixed.any fun e => decide (1000 < eventSum (fixed.filter fun x => decide (x.structCode = e.structCode))))
  | .slice _ => decide (2 ≤ eventSum bad) || decide (16 ≤ eventSum (day.filter ErrEvent.tag))
  | .channel _ _ => decide (4 ≤ (dedup (bad.map ErrEvent.place)).length) || decide (10000 < eventSum fixed)

/-- The counts of a unit that is not retired have passed its limits: a retirement follows (R444, R445). -/
def retires (s : State) (u : Option RetireUnit) : Bool :=
  match u with
  | some u => limitPassed s u && !s.nv.retired.contains u
  | none => false

/-- A launch's data errors (R350, R381, R442). -/
def countData (s : State) (launch n : Nat) : State :=
  updLaunch s launch fun l => { l with counts := { l.counts with dataErrors := satAdd32 l.counts.dataErrors n } }

/-- A replay that has diverged ends the launch as an abort does; the second response gives the reason and the ordinal
concerned (R466). -/
def diverge (s : State) (r : Replaying) (reason ordinal : Nat) : State :=
  let s1 := { s with replaying := s.replaying.filter fun x => !decide (x.id = r.id) }
  let s2 := match r.launch with
    | some l => killLaunch s1 l 1 0xFFFFFF01
    | none => s1
  emit s2 (.response r.h 0 (BitVec.ofNat 64 (reason + 2 ^ 32 * ordinal)))

/-- An uncorrectable event that an agent of a launch has met: counted, committed, logged; an uncorrected error makes a
replay diverge (R350, R442 to R445, R466). -/
def uncorrectable (s : State) (launch : Option Nat) (p : ErrPlace) (ordinal : Nat) : State :=
  let s1 := commitCounts (countError s p.rood (if p.st = .fabric then 14 else 8 + structCode p.st) 1)
  let s1 := remember s1 p true false 1
  let s2 := logError s1 (structCode p.st) true (retires s1 p.unit) p.rood p.sub p.addr
  match launch with
  | none => s2
  | some l =>
    let s3 := countData s2 l 1
    match replayOf s3 l with
    | some r => diverge s3 r 1 ordinal
    | none => s3

/-- The owner of a message, in its seat or in its record. -/
def ownerOf (s : State) (wg tid : Nat) : Option Thread :=
  match findThread s wg tid with
  | some t => some t
  | none => (s.records.find? fun r => decide (r.th.wg = wg) && decide (r.th.tid = tid)).map Record.th

/-- Change a thread wherever it is. -/
def updOwner (s : State) (wg tid : Nat) (f : Thread → Thread) : State :=
  { updThread s wg tid f with
    records := s.records.map fun r => if r.th.wg = wg ∧ r.th.tid = tid then { r with th := f r.th } else r }

/-- DERR for a thread: its next record carries it; where its own instruction read the value, the segment ends at the next
safe point (R229, R350). -/
def markData (s : State) (wg tid : Nat) (ends : Bool) : State :=
  { updThread s wg tid (fun t => { t with fl := { t.fl with derr := true, dstop := t.fl.dstop || ends } }) with
    records := s.records.map fun r => if r.th.wg = wg ∧ r.th.tid = tid then
      { r with th := { r.th with fl := { r.th.fl with dnext := true } } } else r }

/-- The last safe point of a thread, as an ordinal; 0xFFFFFFFF where it has passed none. -/
def lastOrdinal (s : State) (wg tid : Nat) : Nat :=
  match ownerOf s wg tid with
  | some t => (ordinalWord t.path.lastStop).toNat
  | none => 0xFFFFFFFF

/-- Launch of a workgroup. -/
def launchOfWg (s : State) (wg : Nat) : Option Nat := (findWg s wg).map Workgroup.launch

/-- An uncorrectable event that a thread's instruction has met (R350). -/
def threadError (s : State) (wg tid : Nat) (p : ErrPlace) : State :=
  uncorrectable (markData s wg tid true) (launchOfWg s wg) p (lastOrdinal s wg tid)

/-! ### Poisoned memory (R441) -/

/-- Where a unit of memory lies: its channel group, and the channel in it (R314). -/
def unitPlace (s : State) (ctx u : Nat) : ErrPlace :=
  let pa := 32 * u
  if pa < 2 ^ 39 then
    let ch := field pa 12 9 ^^^ field pa 26 23
    ⟨.hbm, pa / 2 ^ 35, ch, pa, some (.channel (pa / 2 ^ 35) ch), u⟩
  else ⟨.hbm, firstRood s ctx, 0, pa, none, u⟩

/-- A thread's instruction has read poisoned units: one event each (R441, R442). -/
def poisonMet (s : State) (ctx wg tid : Nat) (us : List Nat) : State :=
  foldList (fun s u => threadError s wg tid (unitPlace s ctx u)) s us

/-- An agent that is no launch's has read poisoned units of a context's frames: one event each (R441, R442). -/
def readMet (s : State) (ctx : Nat) (us : List Nat) : State :=
  foldList (fun s u => uncorrectable s none (unitPlace s ctx u) 0xFFFFFFFF) s us

/-- The device has read bytes for itself through a context's tables (R441). -/
def vreadMet (s : State) (ctx va n : Nat) : State :=
  match translate s ctx va with
  | some pa => readMet s ctx (poisoned s pa n)
  | none => s

/-- Poison a unit. -/
def poisonUnit (s : State) (u : Nat) : State := if s.poison.contains u then s else { s with poison := s.poison ++ [u] }

end Sys2Proof.Machine
end

