-- ==== Sys2Proof/Machine/Engine.lean ====
section
/-! DEFINITION. Copy and matrix commands: the checks at issue, footprints, edges and queues (R207 to R239, R271 to R281),
and the meanings of cpy, cpyx, mxmma, mxacc and tstore. The commands' execution is in Machine/Commands.lean. -/
namespace Sys2Proof.Machine

/-! ### The job card (R215) -/

def byteList (bs : List Byte) (off n : Nat) : List Byte := (bs.drop off).take n
def natAt (bs : List Byte) (off n : Nat) : Nat := ofBytes (byteList bs off n)
def wordIn (bs : List Byte) (off : Nat) : Word := BitVec.ofNat 32 (natAt bs off 4)

def cardOf (bs : List Byte) : Card where
  src := natAt bs 0 8
  dst := natAt bs 8 8
  len := natAt bs 0x10 4
  rows := natAt bs 0x14 2
  flags := BitVec.ofNat 16 (natAt bs 0x16 2)
  sstr := natAt bs 0x18 4
  dstr := natAt bs 0x1C 4
  bar := natAt bs 0x20 8
  aux := byteList bs 0x28 8
  fctl := wordIn bs 0x30
  faoff := natAt bs 0x34 4
  fshape := wordIn bs 0x38
  fboff := natAt bs 0x3C 4

def Card.cin (c : Card) : Bool := c.flags.getLsbD 0
def Card.cout (c : Card) : Bool := c.flags.getLsbD 1
def Card.bsp (c : Card) : Bool := c.flags.getLsbD 2
def Card.fsp (c : Card) : Bool := c.flags.getLsbD 3

/-- Kinds by FN3 (R216). -/
def kindSrcGlobal (k : Nat) : Bool := decide (k = 0) || decide (k = 2) || decide (k = 4)
def kindSrcScratch (k : Nat) : Bool := decide (k = 1) || decide (k = 3) || decide (k = 5)
def kindToBtier (k : Nat) : Bool := decide (k = 2) || decide (k = 3) || decide (k = 7)
def kindNoSource (k : Nat) : Bool := decide (k = 6) || decide (k = 7)

/-- Destination spaces. -/
def dstScratch (k : Nat) (c : Card) : Bool :=
  decide (k = 0) || decide (k = 4) || (decide (k = 6) && !c.fsp)
def dstGlobal (k : Nat) (c : Card) : Bool := decide (k = 1) || (decide (k = 6) && c.fsp)

/-- Last byte past the rows of a range. -/
def rowsEnd (start str rows len : Nat) : Nat := start + (rows - 1) * str + len

/-- First slice of a B-tier destination. -/
def Card.slice0 (c : Card) : Nat := c.dstr % 64

/-- Full mode (R221). -/
def fullMode (l : Launch) : Bool := l.lr.flags.getLsbD 4

/-- Bytes of the B-tier share in a slice (R222). -/
def shareBytes (l : Launch) : Nat := if fullMode l then 196608 else 98304

/-- The half a workgroup's place gives (R222, R249). -/
def halfOf (s : State) (g : Workgroup) : Nat := if s.splitRoods.contains (roodOf g.home.cluster) then g.home.side else 0

/-- Step 3 of R217: the fields meet R215 and R216, and unused ones are zero. -/
def cardFields (k : Nat) (follow : Bool) (c : Card) : Bool :=
  decide (c.len % 16 = 0) && decide (16 ≤ c.len) && decide (c.len ≤ 1048576) && decide (1 ≤ c.rows) &&
    decide (c.flags.toNat < 16) && decide (c.sstr % 16 = 0) &&
    (!kindToBtier k || (decide (c.dstr < 64) && decide (c.rows ≤ 64))) &&
    (!(c.cin || c.cout) || decide (c.bar % 16 = 0)) && !(decide (k = 4) && c.bsp) && !(decide (k ≠ 6) && c.fsp) &&
    (!kindNoSource k || (decide (c.src = 0) && decide (c.sstr = 0))) &&
    (match k with
      | 4 => true
      | 6 => decide (ofBytes (c.aux.drop 4) = 0)
      | _ => decide (ofBytes c.aux = 0)) &&
    (if follow then decide (c.fctl.toNat < 64)
     else decide (c.fctl = 0) && decide (c.faoff = 0) && decide (c.fshape = 0) && decide (c.fboff = 0))

/-- A row of a window range lies in the scratch of one member (R187, R217). -/
def windowRow (s : State) (l : Launch) (g : Workgroup) (a n : Nat) : Bool :=
  decide (a < 2 ^ 32) && (memberOf s l g (a / 2 ^ 20)).isSome && decide (a % 2 ^ 20 + n ≤ scratchBytes l)

/-- Step 4: every row of every scratch, window and B-tier range lies inside its space; the offset concerned otherwise. DESIGN
CHOICE (log 112): the step names rows only, so that a scratch BAR outside the scratch-mode banks is accepted. -/
def cardRanges (s : State) (l : Launch) (g : Workgroup) (k : Nat) (c : Card) : Option Nat :=
  let scr := scratchBytes l
  if kindSrcScratch k ∧ rowsEnd c.src c.sstr c.rows c.len > scr then some c.src
  else if dstScratch k c = true ∧ rowsEnd c.dst c.dstr c.rows c.len > scr then some c.dst
  else if k = 5 ∧ ((List.range c.rows).all fun r => windowRow s l g (c.dst + r * c.dstr) c.len) = false then some c.dst
  else if kindToBtier k ∧ (c.dst + c.len > shareBytes l ∨ c.slice0 + c.rows > 64) then some c.dst
  else none

/-- Step 5: global addresses have bits [63:52] zero. -/
def cardGlobals (k : Nat) (c : Card) : Option Nat :=
  if kindSrcGlobal k ∧ rowsEnd c.src c.sstr c.rows c.len > 2 ^ 52 then some c.src
  else if dstGlobal k c = true ∧ rowsEnd c.dst c.dstr c.rows c.len > 2 ^ 52 then some c.dst
  else if c.bsp ∧ (c.cin ∨ c.cout) ∧ c.bar ≥ 2 ^ 52 then some c.bar
  else none

/-- The clusters a chain card lists. -/
def chainList (c : Card) : List Nat := (c.aux.takeWhile fun b => decide (b ≠ 0xFF)).map BitVec.toNat

/-- Strictly rising numbers. -/
def risingNat : List Nat → Bool
  | [] => true
  | [_] => true
  | x :: y :: t => decide (x < y) && risingNat (y :: t)

/-- The member whose home is a cluster. -/
def memberAtCluster (s : State) (l : Launch) (g : Workgroup) (cluster : Nat) : Option Workgroup :=
  ((List.range (nbSize l)).filterMap (memberOf s l g)).find? fun m => decide (m.home.cluster = cluster)

/-- Step 6: the list of a chain. -/
def cardChain (s : State) (l : Launch) (g : Workgroup) (c : Card) : Bool :=
  let cs := chainList c
  !cs.isEmpty && risingNat cs && (cs.all fun n => (memberAtCluster s l g n).isSome) &&
    ((c.aux.drop cs.length).all fun b => decide (b = 0xFF))

/-- An ENGINE trap (R213). -/
def engineTrap (addr fn reason : Nat) : Fate :=
  .trap 15 0 (BitVec.ofNat 64 (addr % 2 ^ 52 * 4096 + fn * 256 + reason))

/-! ### Matrix operands (R223 to R227) -/

/-- The launch's format slot. -/
def launchFormat (l : Launch) (n : Nat) : SlotWord := slotWord ((l.lr.f[n]?).getD 0)

/-- Bytes of a dense group (R224). -/
def groupBytesOf (f : SlotWord) : Nat := if f.kind = 5 then 4 * f.m + 4 else 4 * kindBits f.kind

/-- Bytes of a group of the A operand, sparse ones by R64. -/
def aGroupBytes (f : SlotWord) : Nat :=
  if f.spn = 0 then groupBytesOf f
  else ceilDiv (f.spn * (if f.kind = 5 then f.m else kindBits f.kind)) 8 + (if f.kind = 5 then 4 else 0) + f.spn

/-- Shape word fields (R225). -/
def shapeAstr (x : MmaOps) : Nat := field x.shape.toNat 31 16
def shapeBslot (x : MmaOps) : Nat := field x.shape.toNat 15 13
def shapeM (x : MmaOps) : Nat := if x.shape.getLsbD 12 then 64 else 32
def shapeN (x : MmaOps) : Nat := if x.shape.getLsbD 11 then 64 else 32
def shapeG (x : MmaOps) : Nat := field x.shape.toNat 10 8 + 1

/-- Whether a workgroup was given an array half (R221). -/
def holdsHalf (g : Workgroup) : Bool := g.hasHalf

/-- The checks of R227 after the A slot, in their order: the ENGINE reason and the offset concerned. -/
def mmaCheck (l : Launch) (x : MmaOps) : Option (Nat × Nat) :=
  let b := launchFormat l (shapeBslot x)
  if b.kind = 0 ∨ b.plc = true ∨ b.spn ≠ 0 then some (6, x.aoff)
  else if field x.shape.toNat 7 0 ≠ 0 ∨ shapeAstr x % 16 ≠ 0 ∨ x.aoff % 16 ≠ 0 then some (6, x.aoff)
  else if x.shape.getLsbD 12 ∧ fullMode l = false then some (5, x.aoff)
  else if rowsEnd x.aoff (shapeAstr x) (shapeM x) (shapeG x * aGroupBytes (launchFormat l x.aslot)) > scratchBytes l then
    some (3, x.aoff)
  else if x.boff + shapeG x * groupBytesOf b > shareBytes l ∨ x.boff % 16 ≠ 0 then some (3, x.boff)
  else none

/-- A tile bound to a handle that the thread does not hold (R227). -/
def handleForbids (g : Workgroup) (t : Thread) (tile : Nat) : Bool :=
  g.handles.any fun h => h.mask.getLsbD tile && !decide (t.handle = some h.idx)

/-! ### Footprints (R273) -/

/-- A span of 16-byte granules or 128-byte lines. -/
def spanOf (sp : SpanSpace) (unit lo end_ : Nat) : Span := ⟨sp, 0, 0, lo / unit, (end_ - 1) / unit⟩

def scratchSpan (h : Home) (lo end_ : Nat) : Span := spanOf (.scratch h.cluster h.side) 16 lo end_
def globalSpan (lo end_ : Nat) : Span := spanOf .global 128 lo end_
def windowSpan (lo end_ : Nat) : Span := spanOf .window 16 lo end_
def btierSpan (s0 s1 lo end_ : Nat) : Span := { spanOf .btier 16 lo end_ with s0 := s0, s1 := s1 }

/-- A tile, both halves in full mode. -/
def tileSpans (l : Launch) (half n : Nat) : List Span :=
  (if fullMode l then [0, 1] else [half]).map fun h => ⟨.tile h n, 0, 0, 0, 0⟩

def spansMeet (a b : Span) : Bool :=
  decide (a.space = b.space) && decide (a.lo ≤ b.hi) && decide (b.lo ≤ a.hi) && decide (a.s0 ≤ b.s1) && decide (b.s0 ≤ a.s1)

def anyMeet (xs ys : List Span) : Bool := xs.any fun a => ys.any fun b => spansMeet a b

/-- Places a copy job reads. -/
def copyReads (g : Workgroup) (k : Nat) (c : Card) : List Span :=
  if kindSrcGlobal k then [globalSpan c.src (rowsEnd c.src c.sstr c.rows c.len)]
  else if kindSrcScratch k then [scratchSpan g.home c.src (rowsEnd c.src c.sstr c.rows c.len)]
  else []

/-- Places a copy job writes. -/
def copyWrites (s : State) (l : Launch) (g : Workgroup) (k : Nat) (c : Card) : List Span :=
  if kindToBtier k then [btierSpan c.slice0 (c.slice0 + c.rows - 1) c.dst (c.dst + c.len)]
  else if dstGlobal k c then [globalSpan c.dst (rowsEnd c.dst c.dstr c.rows c.len)]
  else if k = 4 then
    (chainList c).filterMap fun n => (memberAtCluster s l g n).map fun m =>
      scratchSpan m.home c.dst (rowsEnd c.dst c.dstr c.rows c.len)
  else if k = 5 then [windowSpan c.dst (rowsEnd c.dst c.dstr c.rows c.len)]
  else [scratchSpan g.home c.dst (rowsEnd c.dst c.dstr c.rows c.len)]

/-- Places a multiply reads. -/
def mmaReads (l : Launch) (g : Workgroup) (x : MmaOps) : List Span :=
  [scratchSpan g.home x.aoff (rowsEnd x.aoff (shapeAstr x) (shapeM x) (shapeG x * aGroupBytes (launchFormat l x.aslot))),
    btierSpan 0 (shapeN x - 1) x.boff (x.boff + shapeG x * groupBytesOf (launchFormat l (shapeBslot x)))]

/-- Rows of an mxacc form. -/
def accRows (l : Launch) : Nat := if fullMode l then 64 else 32

/-- What a command reads and writes. -/
def footprint (s : State) (l : Launch) (g : Workgroup) (k : CmdKind) : List Span × List Span :=
  let half := halfOf s g
  match k with
  | .copy kind c _ => (copyReads g kind c, copyWrites s l g kind c)
  | .mma x => (mmaReads l g x, tileSpans l half x.tile)
  | .tileZero n => ([], tileSpans l half n)
  | .tileLoad n off str _ => ([scratchSpan g.home off (rowsEnd off str (accRows l) 256)], tileSpans l half n)
  | .tileStore n off str _ => (tileSpans l half n, [scratchSpan g.home off (rowsEnd off str (accRows l) 256)])

/-- The ordering edges of a command against earlier ones (R274). -/
def edgesFor (cmds : List Cmd) (wg : Nat) (fp : List Span × List Span) : List Nat :=
  (cmds.filter fun e => decide (e.wg = wg) &&
    (anyMeet fp.1 e.writes || anyMeet fp.2 e.reads || anyMeet fp.2 e.writes)).map Cmd.id

/-! ### Queues (R211, R277 to R280) -/

/-- A command stands in a queue. -/
def inQueue (q : QueueRef) (c : Cmd) : Bool :=
  decide (c.queue = q) || (c.both && match q with | .matrix _ => true | _ => false)

/-- A matrix queue. -/
def isMatrix : QueueRef → Bool
  | .matrix _ => true
  | _ => false

/-- A command holds a place of a queue: it stands there and has not started, or it is a cpyx whose follow-on has a place
kept in the matrix queue (R220). -/
def holdsPlace (q : QueueRef) (c : Cmd) : Bool :=
  (inQueue q c && decide (c.state = .queued)) || c.kept.contains q

/-- Ordinary places in use. -/
def placesUsed (s : State) (wg : Nat) (q : QueueRef) : Nat :=
  (s.cmds.filter fun c => decide (c.wg = wg) && holdsPlace q c && !c.reserve.contains q).length

def queueDepth : QueueRef → Nat
  | .copy _ => 16
  | .matrix _ => 8
  | .ring _ => 0

/-- Probing state of a queue. -/
def queueProbe (g : Workgroup) (q : QueueRef) : QueueProbe :=
  match g.queues.find? fun x => decide (x.q = q) with
  | some x => x
  | none => ⟨q, 0, 0, false⟩

def setQueueProbe (s : State) (wg : Nat) (x : QueueProbe) : State :=
  updWg s wg fun g => { g with queues := x :: dropWhere (fun y => decide (y.q = x.q)) g.queues }

/-- The reserve place is occupied. -/
def reserveTaken (s : State) (wg : Nat) (q : QueueRef) : Bool :=
  s.cmds.any fun c => decide (c.wg = wg) && holdsPlace q c && c.reserve.contains q

/-- A gang of a workgroup stands stalled at a queue. -/
def stallsAt (s : State) (wg : Nat) (q : QueueRef) (x : Slot) : Bool :=
  (match x.stall with | some y => y.1.contains q | none => false) &&
    s.threads.any fun t => decide (t.wg = wg) && inRunning x.key t

/-- The gang that has stood stalled longest at a queue of its workgroup. -/
def oldestStall (s : State) (wg : Nat) (q : QueueRef) : Option SlotKey :=
  (minByKey (fun x => match x.stall with | some y => y.2 | none => 0) (s.slots.filter (stallsAt s wg q))).map Slot.key

/-- How a command enters a queue: an ordinary place, the reserve place, or not yet. -/
inductive Entry where
  | place | reserve | full
deriving DecidableEq, Repr

def entryTo (s : State) (g : Workgroup) (q : QueueRef) : Entry :=
  let granted := (queueProbe g q).granted
  if granted && decide (oldestStall s g.id q = s.turn) then .reserve
  else if granted || reserveTaken s g.id q || decide (queueDepth q ≤ placesUsed s g.id q) then .full
  else .place

/-- Queues a command enters (R211, R275). -/
def queuesOf (both : Bool) (q : QueueRef) : List QueueRef := if both then [.matrix 0, .matrix 1] else [q]

/-- What one thread asks a queue to take. -/
structure Push where
  queue : QueueRef
  both : Bool
  kind : CmdKind
  gd : Nat
  sense : Bool
  word : BitVec 32

/-- The queue of a workgroup's half. -/
def matrixQueue (s : State) (g : Workgroup) : QueueRef := .matrix (halfOf s g)

/-- The follow-on of a card (R220). -/
def followOn (c : Card) : MmaOps := ⟨field c.fctl.toNat 2 0, field c.fctl.toNat 5 3, c.faoff, c.fshape, c.fboff⟩

/-- The matrix queues in which a cpyx keeps a place: those that its follow-on enters (R220, R275). -/
def keptQueues (s : State) (g : Workgroup) : CmdKind → List QueueRef
  | .copy _ c true => queuesOf (decide (shapeM (followOn c) = 64)) (matrixQueue s g)
  | _ => []

/-- Every place the push needs; a cpyx needs a matrix place, too (R220). -/
def pushQueues (s : State) (g : Workgroup) (p : Push) : List QueueRef :=
  queuesOf p.both p.queue ++ keptQueues s g p.kind

/-- Commands enter: the outcome of a slot already resolved binds them (R37), and edges are fixed (R274): against the earlier
commands, but for the job of a follow-on, all of whose bytes have landed (R220). -/
def enterCmd (s : State) (l : Launch) (g : Workgroup) (tid : Nat) (p : Push) (reserve : List QueueRef) (own : Option Nat) :
    State :=
  let fp := footprint s l g p.kind
  let edges := edgesFor (s.cmds.filter fun c => !decide (own = some c.id)) g.id fp
  let bound := match guardState g p.gd with
    | .isTrue => some true
    | .isFalse => some false
    | _ => none
  let c : Cmd := ⟨s.nextId, g.id, p.queue, p.both, p.kind, tid, p.word, p.gd, p.sense,
    if p.gd = 0 then none else bound, fp.1, fp.2, edges, .queued, [], reserve, none, none, [], none, none,
    keptQueues s g p.kind⟩
  let s1 := bumpId { s with cmds := s.cmds ++ [c] }
  updWg s1 g.id fun g => { g with counts := { g.counts with edges := satAdd32 g.counts.edges edges.length } }

/-- Try one push: the state with the command in its queue, the reserve places granted to it taken; or, where some queue is full,
those that are, and those whose reserve place is granted to this push, which it keeps (R220, R280). -/
def tryPush (s : State) (l : Launch) (g : Workgroup) (tid : Nat) (p : Push) : Except (List QueueRef) State :=
  let qs := pushQueues s g p
  match qs.filter fun q => decide (entryTo s g q = .full) with
  | _ :: _ => .error (qs.filter fun q => !decide (entryTo s g q = .place))
  | [] =>
    let res := qs.filter fun q => decide (entryTo s g q = .reserve)
    let s1 := foldList (fun s q => setQueueProbe s g.id { queueProbe g q with granted := false }) s res
    .ok (enterCmd s1 l g tid p res none)

/-- The gang's push stands stalled at the queues that are full; it keeps its age while they change (R277). -/
def markStall (s : State) (qs : List QueueRef) : State :=
  match s.turn with
  | none => s
  | some k => updSlot s k fun x => { x with stall := some (qs, match x.stall with | some y => y.2 | none => s.clock) }

/-- The gang's stall ends. -/
def clearStall (s : State) : State :=
  match s.turn with
  | none => s
  | some k => updSlot s k fun x => { x with stall := none }

/-- Push, in seat order, for the threads that have something to push and have not yet: the state, and whether all did. The
stall of a push that enters ends. -/
def pushAll (l : Launch) (want : State → Thread → Option Push) : State → List Thread → State × Bool
  | s, [] => (s, true)
  | s, t :: ts =>
    match t.fl.entered, want s t, findWg s t.wg with
    | false, some p, some g =>
      match tryPush s l g t.tid p with
      | .ok s1 =>
        pushAll l want (updThread (clearStall s1) t.wg t.tid fun t => { t with fl := { t.fl with entered := true } }) ts
      | .error qs => (markStall s qs, false)
    | _, _, _ => pushAll l want s ts

/-! ### cpy and cpyx -/

/-- The checks of R217 and R220 for a thread's card: the fate of one that fails. -/
def cardCheck (s : State) (l : Launch) (g : Workgroup) (k : Nat) (follow : Bool) (off : Nat) (c : Card) : Option Fate :=
  let fo := followOn c
  if off % 64 ≠ 0 ∨ off + 64 > scratchBytes l then some (engineTrap off k 1)
  else if (k = 4 ∨ k = 5) ∧ nbSize l = 0 then some (engineTrap off k 9)
  else if !cardFields k follow c then some (engineTrap off k 2)
  else match cardRanges s l g k c with
    | some a => some (engineTrap a k 3)
    | none =>
      match cardGlobals k c with
      | some a => some (engineTrap a k 3)
      | none =>
        if k = 4 ∧ cardChain s l g c = false then some (engineTrap off k 4)
        else if !follow then none
        else if !holdsHalf g then some (engineTrap off k 5)
        else if (launchFormat l fo.aslot).kind = 0 ∨ (launchFormat l fo.aslot).plc = true then some (engineTrap off k 6)
        else (mmaCheck l fo).map fun r => engineTrap r.2 k r.1

/-- A thread's card. -/
def cardAt (s : State) (t : Thread) (off : Nat) : Card :=
  match findWg s t.wg with
  | some g => cardOf (readBytes g.scratch off 64)
  | none => cardOf []

/-- Permitted to the copy role, and to the matrix role. -/
def onlyCopy (r : BitVec 2) : Bool := decide (r = roleCopy)
def onlyMatrix (r : BitVec 2) : Bool := decide (r = roleMatrix)

/-- The gang stands stalled; the threads whose role forbids the instruction have taken their trap, since roles are checked first
(R90, R272). -/
def stalledGang (i : Instr) (ok : BitVec 2 → Bool) (s : State) : Host.Outcome State Fault Refusal :=
  match (actives s).filter fun t => !ok t.role with
  | [] => .next s
  | t :: ts => .next (settleTurn (takeTrap s (t :: ts) 2 0 0 (wordOf i)))

/-- One job for each permitted thread, in seat order; the gang goes on when every job is in its queue (R210, R211). -/
def cpyGang (i : Instr) (x : Cpy) (k : Nat) (follow : Bool) (s : State) : Host.Outcome State Fault Refusal :=
  match (actives s).head?.bind (envOf s) with
  | none => .next s
  | some (l, g) =>
    let fails := fun (s : State) (t : Thread) =>
      let off := (getV t x.a).toNat
      cardCheck s l g k follow off (cardAt s t off)
    let want := fun (s : State) (t : Thread) =>
      if (fails s t).isSome then none
      else some (⟨.copy x.q.toNat, false, .copy k (cardAt s t (getV t x.a).toNat) follow, x.gd.toNat, x.sense, wordOf i⟩ :
        Push)
    let r := pushAll l want s ((actives s).filter fun t => onlyCopy t.role)
    if !r.2 then stalledGang i onlyCopy r.1
    else
      perThread i x.m.sw (withRole onlyCopy fun s t =>
        if t.fl.entered then (s, t, .next)
        else match fails s t with
          | some f => (s, t, f)
          | none => (s, t, .next)) (clearStall r.1)

/-- cpy, kind 0 (R210, R216). -/
def execCpyG2s (x : Cpy) (s : State) : Host.Outcome State Fault Refusal := cpyGang (.cpyG2s x) x 0 false s

/-- cpy, kind 1 (R210, R216). -/
def execCpyS2g (x : Cpy) (s : State) : Host.Outcome State Fault Refusal := cpyGang (.cpyS2g x) x 1 false s

/-- cpy, kind 2 (R210, R216). -/
def execCpyG2b (x : Cpy) (s : State) : Host.Outcome State Fault Refusal := cpyGang (.cpyG2b x) x 2 false s

/-- cpy, kind 3 (R210, R216). -/
def execCpyS2b (x : Cpy) (s : State) : Host.Outcome State Fault Refusal := cpyGang (.cpyS2b x) x 3 false s

/-- cpy, kind 4 (R210, R216). -/
def execCpyChain (x : Cpy) (s : State) : Host.Outcome State Fault Refusal := cpyGang (.cpyChain x) x 4 false s

/-- cpy, kind 5 (R210, R216). -/
def execCpyWin (x : Cpy) (s : State) : Host.Outcome State Fault Refusal := cpyGang (.cpyWin x) x 5 false s

/-- cpy, kind 6 (R210, R216). -/
def execCpyFill (x : Cpy) (s : State) : Host.Outcome State Fault Refusal := cpyGang (.cpyFill x) x 6 false s

/-- cpy, kind 7 (R210, R216). -/
def execCpyScrub (x : Cpy) (s : State) : Host.Outcome State Fault Refusal := cpyGang (.cpyScrub x) x 7 false s

/-- cpyx, kind 0 (R216, R220). -/
def execCpyxG2s (x : Cpy) (s : State) : Host.Outcome State Fault Refusal := cpyGang (.cpyxG2s x) x 0 true s

/-- cpyx, kind 2 (R216, R220). -/
def execCpyxG2b (x : Cpy) (s : State) : Host.Outcome State Fault Refusal := cpyGang (.cpyxG2b x) x 2 true s

/-- cpyx, kind 3 (R216, R220). -/
def execCpyxS2b (x : Cpy) (s : State) : Host.Outcome State Fault Refusal := cpyGang (.cpyxS2b x) x 3 true s

/-- cpyx, kind 4 (R216, R220). -/
def execCpyxChain (x : Cpy) (s : State) : Host.Outcome State Fault Refusal := cpyGang (.cpyxChain x) x 4 true s

/-! ### mxmma and mxacc (R223 to R231) -/

/-- The leader among the permitted threads (R210, R272). -/
def permittedLeader (s : State) (ok : BitVec 2 → Bool) : Option Thread :=
  leaderOf ((actives s).filter fun t => ok t.role)

/-- A command that the leader queues: the checks decide a trap on the leader; otherwise it enters, or the gang stalls. -/
def leaderPush (i : Instr) (sw : Bool) (check : Launch → Workgroup → Thread → Except Fate Push) (s : State) :
    Host.Outcome State Fault Refusal :=
  match permittedLeader s onlyMatrix with
  | none => perThread i sw (withRole onlyMatrix fun s t => (s, t, .next)) s
  | some t0 =>
    match envOf s t0 with
    | none => .next s
    | some (l, g) =>
      match check l g t0 with
      | .error f =>
        perThread i sw (withRole onlyMatrix fun s t => (s, t, if t.tid = t0.tid then f else .next)) (clearStall s)
      | .ok p =>
        match tryPush s l g t0.tid p with
        | .error qs => stalledGang i onlyMatrix (markStall s qs)
        | .ok s1 => perThread i sw (withRole onlyMatrix fun s t => (s, t, .next)) (clearStall s1)

/-- The operands of mxmma as the leader gives them. -/
def mmaOps (x : MxMma) (t : Thread) : MmaOps :=
  ⟨x.n.toNat, x.f.toNat, (getV t x.a).toNat, getV t (x.a + 1), (getV t x.b).toNat⟩

/-- mxmma. The A slot is checked first, as an encoding (R227). DESIGN CHOICE (log 117): its FN3 field holds the accumulator, so its
ENGINE traps carry function code 0. -/
def execMxmma (x : MxMma) (s : State) : Host.Outcome State Fault Refusal :=
  match (actives s).head?.bind (envOf s) with
  | none => .next s
  | some (l, _) =>
    let f := launchFormat l x.f.toNat
    if f.kind = 0 ∨ f.plc = true then illegalAll (.mxmma x) s
    else
      leaderPush (.mxmma x) x.m.sw (fun l g t =>
        let ops := mmaOps x t
        if !holdsHalf g then .error (engineTrap ops.aoff 0 5)
        else match mmaCheck l ops with
          | some r => .error (engineTrap r.2 0 r.1)
          | none =>
            if handleForbids g t x.n.toNat then .error (engineTrap ops.aoff 0 7)
            else .ok ⟨matrixQueue s g, decide (shapeM ops = 64), .mma ops, x.gd.toNat, x.sense, wordOf (.mxmma x)⟩) s

/-- mxz. -/
def execMxz (x : Mxz) (s : State) : Host.Outcome State Fault Refusal :=
  leaderPush (.mxz x) x.m.sw (fun l g t =>
    if !holdsHalf g then .error (engineTrap 0 0 5)
    else if handleForbids g t x.n.toNat then .error (engineTrap 0 0 7)
    else .ok ⟨matrixQueue s g, fullMode l, .tileZero x.n.toNat, x.gd.toNat, x.sense, wordOf (.mxz x)⟩) s

/-- The checks of mxld and mxst (R230): the fate, or the barrier offset if one is named. -/
def accCheck (l : Launch) (g : Workgroup) (t : Thread) (fn : Nat) (x : MxLS) : Except Fate (Option Nat) :=
  let off := (getV t x.a).toNat
  let str := (getV t (x.a + 1)).toNat
  let b := (getV t x.b).toNat
  if !holdsHalf g then .error (engineTrap off fn 5)
  else if off % 16 ≠ 0 ∨ str % 16 ≠ 0 ∨ str < 256 ∨ rowsEnd off str (accRows l) 256 > scratchBytes l then
    .error (engineTrap off fn 3)
  else if b ≠ 0xFFFFFFFF ∧ b % 16 ≠ 0 then .error (engineTrap b fn 2)
  else if b ≠ 0xFFFFFFFF ∧ b + 16 > scratchBytes l then .error (engineTrap b fn 3)
  else if handleForbids g t x.n.toNat then .error (engineTrap off fn 7)
  else .ok (if b = 0xFFFFFFFF then none else some b)

/-- mxld. -/
def execMxld (x : MxLS) (s : State) : Host.Outcome State Fault Refusal :=
  leaderPush (.mxld x) x.m.sw (fun l g t => (accCheck l g t 1 x).map fun b =>
    ⟨matrixQueue s g, fullMode l, .tileLoad x.n.toNat (getV t x.a).toNat (getV t (x.a + 1)).toNat b, x.gd.toNat, x.sense,
      wordOf (.mxld x)⟩) s

/-- mxst. -/
def execMxst (x : MxLS) (s : State) : Host.Outcome State Fault Refusal :=
  leaderPush (.mxst x) x.m.sw (fun l g t => (accCheck l g t 2 x).map fun b =>
    ⟨matrixQueue s g, fullMode l, .tileStore x.n.toNat (getV t x.a).toNat (getV t (x.a + 1)).toNat b, x.gd.toNat, x.sense,
      wordOf (.mxst x)⟩) s

/-- Commands that write a tile of a workgroup. -/
def tileWriters (s : State) (wg n : Nat) : List Nat :=
  (s.cmds.filter fun c => decide (c.wg = wg) && c.writes.any fun w =>
    match w.space with | .tile _ m => decide (m = n) | _ => false).map Cmd.id

/-- Commands that read or write a tile of a mask. -/
def tileUsers (s : State) (wg : Nat) (mask : BitVec 8) : List Nat :=
  (s.cmds.filter fun c => decide (c.wg = wg) && (c.writes ++ c.reads).any fun w =>
    match w.space with | .tile _ m => mask.getLsbD m | _ => false).map Cmd.id

/-- mxstat: pending on the commands queued before it that write the tile (R231). -/
def execMxstat (x : MxStat) (s : State) : Host.Outcome State Fault Refusal :=
  perThread (.mxstat x) x.m.sw (withRole onlyMatrix fun s t =>
    match findWg s t.wg with
    | none => (s, t, .next)
    | some g =>
      if !holdsHalf g then (s, t, engineTrap 0 3 5)
      else (s, addPend t (.tileStat x.n.toNat (tileWriters s g.id x.n.toNat) x.d), .next)) s

/-! ### Tile-store handles (R232 to R234) -/

/-- The lowest free handle place. -/
def freeHandle (g : Workgroup) : Option Nat := [0, 1, 2, 3].find? fun n => !(g.handles.any fun h => decide (h.idx = n))

/-- A handle's tiles or region meet another's. -/
def handleMeets (mask : BitVec 8) (base len : Nat) (h : Handle) : Bool :=
  decide (mask &&& h.mask ≠ 0) ||
    (decide (len ≠ 0) && decide (h.len ≠ 0) && decide (base < h.base + h.len) && decide (h.base < base + len))

/-- tsbind: the first failing case decides the reason, on the leader alone; on success every active thread holds the
handle. -/
def execTsbind (x : TsBind) (s : State) : Host.Outcome State Fault Refusal :=
  match permittedLeader s onlyMatrix with
  | none => perThread (.tsbind x) x.m.sw (withRole onlyMatrix fun s t => (s, t, .next)) s
  | some t0 =>
    match envOf s t0 with
    | none => .next s
    | some (l, g) =>
      let base := (getV t0 x.a).toNat
      let len := (getV t0 x.b).toNat
      let reason : Option Nat :=
        if base % 128 ≠ 0 ∨ len % 128 ≠ 0 then some 2
        else if (actives s).any fun t => onlyMatrix t.role && t.handle.isSome then some 8
        else if (freeHandle g).isNone then some 8
        else if x.mask = 0 ∧ len = 0 then some 2
        else if len ≠ 0 ∧ base + len > shareBytes l then some 3
        else if g.handles.any (handleMeets x.mask base len) then some 8
        else none
      match reason, freeHandle g with
      | none, some n =>
        let s1 := updWg s g.id fun g => { g with handles := g.handles ++ [⟨n, x.mask, base, len⟩] }
        perThread (.tsbind x) x.m.sw (withRole onlyMatrix fun s t => (s, { t with handle := some n }, .next)) s1
      | r, _ =>
        perThread (.tsbind x) x.m.sw (withRole onlyMatrix fun s t =>
          (s, t, if t.tid = t0.tid then engineTrap base 0 (r.getD 8) else .next)) s

/-- tsrel: the handle is freed when nobody holds it. -/
def execTsrel (x : M0) (s : State) : Host.Outcome State Fault Refusal :=
  match (actives s).head?, perThread (.tsrel x) x.m.sw
      (withRole onlyMatrix fun s t => (s, { t with handle := none }, .next)) s with
  | some t0, .next s1 => .next (freeHandles s1 t0.wg)
  | _, o => o

/-- tsq: pending on every queued command on the handle's tiles (R234). -/
def execTsq (x : R1) (s : State) : Host.Outcome State Fault Refusal :=
  perThread (.tsq x) x.m.sw (withRole onlyMatrix fun s t =>
    let mask := match findWg s t.wg, t.handle with
      | some g, some n => match g.handles.find? fun h => decide (h.idx = n) with | some h => h.mask | none => 0
      | _, _ => 0
    (s, addPend t (.tileQuery (tileUsers s t.wg mask) x.r), .next)) s

end Sys2Proof.Machine
end

