-- ==== Sys2Proof/Machine/Mesh.lean ====
section
/-! DEFINITION. The messages' own steps: arrival at a home slice, a peer or a member cluster, the atomic unit, fills,
acknowledgements, far accesses, table walks, page requests and the writing of pending results (R79, R189 to R197, R307 to
R322, R411). A step whose condition does not hold changes nothing (log 6). -/
namespace Sys2Proof.Config

/-- What the sections of a context image that came from another device hold, by the key they are encrypted under and its bytes
(R426, R429): the spec lays out their contents, and none where the bytes are no image's. -/
opaque imageHolds : Nat → List Sys2Proof.Byte → Option Sys2Proof.Machine.ImageHeld

end Sys2Proof.Config

namespace Sys2Proof.Machine

/-- The contents of an arrived image. -/
def imageHeld (ki : Nat) (bytes : List Byte) : ImageHeld := (Config.imageHolds ki bytes).getD ⟨[], [], [], [], [], 0, false, []⟩

/-! ### Messages in flight -/

/-- A message that goes to a home slice. -/
def sliceBound (r : Req) : Bool :=
  match r.kind with
  | .far _ => false
  | .window _ _ _ => false
  | .bar _ _ _ => decide (r.loc = 0)
  | _ => true

/-- A read that a peer sent on in the requester's name travels from the peer's tile. -/
def sentOn (r : Req) : Bool :=
  decide (2 ≤ r.loc) && decide (r.loc < 1000) && (match r.kind with | .read _ => true | .prefetch => true | _ => false)

/-- The cluster whose tile sends a message to a home slice. -/
def sourceTile (r : Req) : Nat := if sentOn r then r.loc - 2 else r.src.cluster

/-- Not yet at its destination. -/
def inFlight (r : Req) : Bool :=
  match r.stage with
  | .toHome => true
  | .held _ => true
  | _ => false

/-- Messages sent before a message. -/
def before (s : State) (r : Req) : List Req := s.reqs.takeWhile fun q => !decide (q.id = r.id)

/-- The tile a reply comes from, where something takes it up: a slice, or 1,000 and up a cluster. A value that no thread
waits for any more holds nothing up. -/
def replyFrom (s : State) (r : Req) : Option Nat :=
  match r.stage, r.kind with
  | .reply _ _ _, .read _ => some (if 1000 ≤ r.loc then r.loc else reqSlice s r)
  | .reply _ _ _, .prefetch => some (if 1000 ≤ r.loc then r.loc else reqSlice s r)
  | .reply _ _ _, .write _ => some (reqSlice s r)
  | .reply _ _ _, .packet _ _ => if (findThread s r.wg r.tid).isSome then some (reqSlice s r) else none
  | .reply _ _ _, .bar _ _ _ => if sliceBound r && (findThread s r.wg r.tid).isSome then some (reqSlice s r) else none
  | .reply _ _ _, .post _ _ => some (reqSlice s r)
  | .reply _ _ _, .atom _ _ _ _ ret =>
    if !ret || (findThread s r.wg r.tid).isSome then some (reqSlice s r) else none
  | .reply _ _ _, .window m st _ =>
    if st.isSome || (findThread s r.wg r.tid).isSome then (findWg s m).map fun g => 1000 + g.home.cluster else none
  | _, _ => none

/-- The tile of a reply's source. -/
def replyTile (n : Nat) : MeshTile := if 1000 ≤ n then clusterTile (n - 1000) else sliceTile n

/-- The links a message on its way takes (R10, R317, R318). -/
def linksOf (s : State) (r : Req) : List Link :=
  match r.kind, r.stage with
  | .far _, _ => fabricLinks s r.loc
  | _, .toPeer h => routeLinks 0 (clusterTile r.src.cluster) (clusterTile h.cluster)
  | .window m _ _, .toHome =>
    match findWg s m with
    | some g => routeLinks 0 (clusterTile r.src.cluster) (clusterTile g.home.cluster)
    | none => []
  | _, .toHome =>
    if sliceBound r then routeLinks 0 (clusterTile (sourceTile r)) (sliceTile (reqSlice s r)) else []
  | _, .reply _ _ _ =>
    match replyFrom s r with
    | some n => routeLinks 1 (replyTile n) (clusterTile r.src.cluster)
    | none => []
  | _, _ => []

/-- A link that retrains holds the flits that wait for it (R319, R440). -/
def linkHolds (s : State) (r : Req) : Bool := !s.links.isEmpty && pathHeld s (linksOf s r)

/-- A link between two tiles retrains: of either mesh, in either direction. -/
def tilesHeld (s : State) (a b : MeshTile) : Bool :=
  !s.links.isEmpty && pathHeld s (routeLinks 0 a b ++ routeLinks 0 b a ++ routeLinks 1 a b ++ routeLinks 1 b a)

/-- No earlier message of the same source tile is still on its way to the same slice (R318). -/
def arrivesAtSlice (s : State) (r : Req) : Bool :=
  decide (r.stage = .toHome) && sliceBound r && !linkHolds s r &&
    (before s r).all fun q =>
      !(sliceBound q && inFlight q && decide (sourceTile q = sourceTile r) && decide (reqSlice s q = reqSlice s r))

/-- The cluster a message on its way goes to, of a peer request or a window access. -/
def tileBound (s : State) (r : Req) : Option Nat :=
  match r.stage, r.kind with
  | .toPeer h, _ => some h.cluster
  | .toHome, .window m _ _ => (findWg s m).map fun g => g.home.cluster
  | _, _ => none

/-- No earlier message of the same source tile is still on its way to the same cluster (R318). -/
def tileNext (s : State) (r : Req) : Bool :=
  !linkHolds s r && (before s r).all fun q =>
    !((tileBound s q).isSome && decide (tileBound s q = tileBound s r) && decide (q.src.cluster = r.src.cluster))

/-- A message takes its place among those that have arrived. -/
def arrived (s : State) (r : Req) : State := { s with reqs := (dropReq s r.id).reqs ++ [r] }

/-- A message is performed: those held for it lose one reason to wait, and go when none is left (R196). -/
def unhold (id : Nat) (r : Req) : Req :=
  match r.stage with
  | .held ids =>
    let rest := ids.filter fun x => !decide (x = id)
    { r with stage := if rest.isEmpty then .toHome else .held rest }
  | _ => r

/-- A parked thread stops waiting for a message. -/
def unwait (id : Nat) (t : Thread) : Thread := { t with waits := t.waits.filter fun x => !decide (x = id) }

/-- The held arrivals at scratch barriers that a message was the last one to hold. -/
def freedBars (s : State) (id : Nat) : List Nat :=
  (s.reqs.filter fun r => !sliceBound r && (match r.stage with | .held ids => decide (ids = [id]) | _ => false)).map Req.id

/-- A message is performed and gone. -/
def finishReq (s : State) (id : Nat) : State :=
  let ids := id :: freedBars s id
  let s1 := { s with
    reqs := (s.reqs.filter fun r => !decide (r.id = id)).map (unhold id)
    threads := s.threads.map fun t => ids.foldl (fun t i => unwait i t) t }
  s1

/-! ### Home slices (R312, R315, R320) -/

/-- The slice holds the line. -/
def l2At (s : State) (slice pa : Nat) : Option L2Line :=
  s.l2.find? fun x => decide (x.slice = slice) && decide (x.line = pa / 128)

/-- Touch a line of a slice. -/
def l2Set (s : State) (slice pa : Nat) (f : L2Line → L2Line) : State :=
  { s with l2 := s.l2.map fun x => if x.slice = slice ∧ x.line = pa / 128 then f x else x }

/-- The recency of a line used now: after every line of its slice. -/
def l2Use (s : State) (slice : Nat) : Nat :=
  1 + maxNat ((s.l2.filter fun x => decide (x.slice = slice)).map L2Line.used)

/-- The virtual device of a context is one side of a split rood, and which one. -/
def splitSide (s : State) (ctx : Nat) : Option Nat :=
  match (findCtx s ctx).bind fun c => findVd s c.vd with
  | some v => if VdShape.isSide v.shape then some (VdShape.sideNum v.shape) else none
  | none => none

/-- The line lies beyond the host link: no slice keeps it beyond the access (R474). -/
def hostLine (pa : Nat) : Bool := decide (2 ^ 39 ≤ pa)

/-- A place for a line for a context, none of its sectors valid: 1,024 sets of 16 ways, of which each side of a split rood has 8
(R315, R417); the least recently used line of the set and side goes. A host line gets none. -/
def l2Place (s : State) (ctx slice pa : Nat) : State :=
  if hostLine pa || (l2At s slice pa).isSome then s
  else
    let side := (splitSide s ctx).getD 0
    let ways := if (splitSide s ctx).isSome then 8 else 16
    let set := s.l2.filter fun x =>
      decide (x.slice = slice) && decide (x.line % 1024 = pa / 128 % 1024) && decide (x.side = side)
    let victim := if set.length < ways then none else minByKey L2Line.used set
    let kept := match victim with
      | some v => s.l2.filter fun x => !decide (x = v)
      | none => s.l2
    { s with l2 := ⟨slice, pa / 128, side, 0, 0, none, l2Use s slice⟩ :: kept }

/-- The whole line comes from memory: every sector is valid (R315, R320). -/
def l2Fill (s : State) (ctx slice pa : Nat) : State :=
  l2Set (l2Place s ctx slice pa) slice pa fun x => { x with valid := 0xFF }

/-- The sectors of a line that satisfy a test on their bytes. -/
def sectorsOf (p : Nat → Bool) (all : Bool) : BitVec 8 :=
  bitsWhere 8 fun i => if all then (List.range 16).all fun j => p (16 * i + j) else (List.range 16).any fun j => p (16 * i + j)

/-- Bytes of a line are written at its slice: their sectors are dirty, and valid where they are written whole (R315). -/
def l2Write (s : State) (ctx slice pa : Nat) (p : Nat → Bool) : State :=
  let s1 := l2Place s ctx slice pa
  l2Set s1 slice pa fun x => { x with
    used := l2Use s1 slice, valid := x.valid ||| sectorsOf p true, dirty := x.dirty ||| sectorsOf p false }

/-- Bytes that a message's own agent reads of its line. -/
def readsOf (r : Req) : Nat :=
  match r.kind with
  | .read n => n
  | .packet _ _ => 32
  | _ => 0

/-- Perform a read at its slice: the line, and the last reader that asked for it as forwardable (R312). A line with a
poisoned unit is not kept in an L1, so that every read of the unit meets the error (R441). -/
def performRead (s : State) (r : Req) : State :=
  let slice := reqSlice s r
  let reader := match l2At s slice r.pa with | some x => x.reader | none => none
  let n := match r.kind with | .packet _ _ => 32 | _ => 128
  let at_ := match r.kind with | .packet _ _ => r.pa | _ => r.pa / 128 * 128
  let s1 := l2Set s slice r.pa fun x => { x with used := l2Use s slice, reader := if r.fwd then some r.src else x.reader }
  let s2 := arrived s1 { r with
    install := r.install && (poisoned s at_ n).isEmpty, stage := .reply (readClean s at_ n) reader true }
  poisonMet s2 r.ctx r.wg r.tid (poisoned s r.pa (readsOf r))

/-- Perform a write: each written byte is ordered at the slice (R283). One that came poisoned poisons its units (R441). -/
def performWrite (s : State) (r : Req) (bytes : Patch) : State :=
  let slice := reqSlice s r
  let whole := fun u => (List.range 32).all fun i => (patchGet bytes (32 * u + i)).isSome
  let s1 := l2Write s r.ctx slice r.pa fun i => (patchGet bytes (r.pa / 128 * 128 + i)).isSome
  let s2 := if r.bad then foldList poisonUnit s1 (dedup (bytes.map fun x => x.1 / 32))
    else { s1 with mem := applyPatch s1.mem 0 bytes, poison := s1.poison.filter fun u => !whole u }
  arrived s2 { r with stage := .reply [] none true }

/-- An operation of the atomic unit. -/
def unitOp (r : Req) : Bool :=
  match r.kind with
  | .atom _ _ _ _ _ => true
  | .bar _ _ _ => true
  | .post _ _ => true
  | _ => false

/-- A message that has arrived at its slice and is not performed there. -/
def atSlice (r : Req) : Bool := sliceBound r && (decide (r.stage = .missWait) || decide (r.stage = .atHome))

/-- A message that no place has performed yet. -/
def notPerformed (r : Req) : Bool :=
  match r.stage with
  | .reply _ _ _ => false
  | .taken _ => false
  | _ => true

/-- A message that a home sent earlier to the same line is not performed yet, wherever it is: the accesses of a workgroup to one
line are performed in the order of its requests (R191, R196, R284, R291, R292). Operations of two threads at the atomic unit are
ordered there. -/
def lineBlocked (s : State) (r : Req) : Bool :=
  s.reqs.any fun q => decide (q.id < r.id) && sliceBound q && notPerformed q && decide (q.src = r.src) &&
    decide (q.pa / 128 = r.pa / 128) && !(unitOp q && unitOp r && !(decide (q.wg = r.wg) && decide (q.tid = r.tid)))

/-- A message that has found its line at the slice, or needs none. -/
def serveReq (s : State) (r : Req) : State :=
  match r.kind with
  | .read _ => performRead s r
  | .prefetch => performRead s r
  | .packet _ _ => performRead s r
  | .write bytes => performWrite s r bytes
  | _ => if r.stage = .missWait then updReq s r.id fun r => { r with stage := .atHome } else arrived s { r with stage := .atHome }

/-- The slice holds what a message needs of its line: a read the whole line, an operation of the atomic unit the sectors it
touches, a write nothing (R315). -/
def l2Ready (s : State) (r : Req) : Bool :=
  match r.kind, l2At s (reqSlice s r) r.pa with
  | .write _, _ => true
  | _, none => false
  | .atom _ _ _ _ _, some x => x.valid.getLsbD (r.pa % 128 / 16)
  | .bar _ _ _, some x => x.valid.getLsbD (r.pa % 128 / 16)
  | .post _ _, some x => x.valid.getLsbD (r.pa % 128 / 16)
  | _, some x => decide (x.valid = 0xFF)

/-- Serve a message that waits at its slice, where its line is there and nothing earlier blocks it. -/
def serveWaiting (s : State) (id : Nat) : State :=
  match findReq s id with
  | none => s
  | some r =>
    if r.stage = .missWait ∧ lineBlocked s r = false ∧ l2Ready s r = true then serveReq s r
    else s

/-- The messages that wait at a slice for a line, in their order of arrival. -/
def waitingAt (s : State) (slice pa : Nat) : List Nat :=
  (s.reqs.filter fun q => decide (q.stage = .missWait) && decide (reqSlice s q = slice) &&
    decide (q.pa / 128 = pa / 128)).map Req.id

/-- Serve, in their order of arrival, the messages that wait at a slice for a line. -/
def serveLine (s : State) (slice pa : Nat) : State := foldList serveWaiting s (waitingAt s slice pa)

/-- HOME_SLICE_REQUEST (R315): a message waits for what it needs of a line that the slice lacks, and for what its own home asked of
the line before; what waited for it in turn is served then. -/
def execHomeSliceRequest (id : Nat) (s : State) : Host.Outcome State Fault Refusal :=
  match findReq s id with
  | none => .next s
  | some r =>
    if !arrivesAtSlice s r then .next s
    else if lineBlocked s r || !l2Ready s r then .next (arrived s { r with stage := .missWait })
    else .next (serveLine (serveReq s r) (reqSlice s r) r.pa)

/-- Serve a message whose host line has come for it, where nothing earlier blocks it; the slice keeps nothing of the line
(R474). -/
def serveFetched (s : State) (id : Nat) : State :=
  match findReq s id with
  | none => s
  | some r => if r.stage = .missWait ∧ lineBlocked s r = false then serveReq s r else s

/-- SLICE_MISS_FILL (R320): the line is there, and every request that waits for it at the slice is served in its order
of arrival. -/
def execSliceMissFill (id : Nat) (s : State) : Host.Outcome State Fault Refusal :=
  match findReq s id with
  | none => .next s
  | some r =>
    if r.stage ≠ .missWait then .next s
    else if hostLine r.pa then .next (foldList serveFetched s (waitingAt s (reqSlice s r) r.pa))
    else .next (serveLine (l2Fill s r.ctx (reqSlice s r) r.pa) (reqSlice s r) r.pa)

/-! ### The atomic unit (R195, R202, R239, R315) -/

/-- A synchronising operation performed at a home: logged, counted, and used up in a replay (R463, R466). -/
def opPerformed (s : State) (wg tid ident : Nat) : State :=
  match ownerOf s wg tid, findWg s wg with
  | some t, some g =>
    opUsed (updOwner (logFor s t.launch true ident (toBytes 8 (opEntry g t))) wg tid fun t =>
      { t with path := { t.path with syncOps := t.path.syncOps + 1 } }) t.launch (opEntry g t)
  | _, _ => s

/-- A message at the atomic unit is an operation that the order lists hold: of a barrier object only a change, no test and none that
the object refuses (R463). -/
def opLogged (s : State) (r : Req) : Bool :=
  match r.kind with
  | .bar fn operand out => decide (fn ≠ 5) && (barChange fn operand out (barOf (readClean s r.pa 16))).isSome
  | _ => true

/-- Bytes an operation of the atomic unit covers. -/
def unitBytes : ReqKind → Nat
  | .bar _ _ _ => 16
  | .atom _ _ w64 _ _ => if w64 then 8 else 4
  | _ => 8

/-- An operation of the atomic unit that waits at a slice, on n bytes from an address. -/
def unitWaits (s : State) (pa n : Nat) : Bool :=
  s.reqs.any fun q => atSlice q && unitOp q && decide (q.pa < pa + n) && decide (pa < q.pa + unitBytes q.kind)

/-- The operation is the next one of its bytes, in arrival order, of its side's queue, and due. -/
def unitFirst (s : State) (r : Req) : Bool :=
  decide (r.stage = .atHome) &&
    ((before s r).all fun q => !(atSlice q && unitOp q && decide (splitSide s q.ctx = splitSide s r.ctx) &&
      decide (q.pa < r.pa + unitBytes r.kind) && decide (r.pa < q.pa + unitBytes q.kind))) &&
    (match ownerOf s r.wg r.tid with | some t => !opLogged s r || opDue s t | none => true)

/-- The operation is performed next: in a split rood the unit takes the queues of the two sides in turn (R315). -/
def unitNext (s : State) (r : Req) : Bool :=
  let slice := reqSlice s r
  unitFirst s r &&
    !((match splitSide s r.ctx with | some n => s.unitSide.contains (slice, n) | none => false) &&
      s.reqs.any fun q => unitOp q && decide (reqSlice s q = slice) && decide (splitSide s q.ctx ≠ splitSide s r.ctx) &&
        unitFirst s q)

/-- A change that no message brings, of a far access or an engine, is performed next: what came to its bytes before is
performed, and in a split rood the side has its turn (R315). -/
def unitTurn (s : State) (ctx slice pa n : Nat) : Bool :=
  !unitWaits s pa n &&
    !((match splitSide s ctx with | some k => s.unitSide.contains (slice, k) | none => false) &&
      s.reqs.any fun q => unitOp q && decide (reqSlice s q = slice) && decide (splitSide s q.ctx ≠ splitSide s ctx) &&
        unitFirst s q)

/-- The unit of a slice has served a context: its side has had its turn. -/
def sideServed (s : State) (ctx slice : Nat) : State :=
  match splitSide s ctx with
  | some n => { s with unitSide := (slice, n) :: s.unitSide.filter fun x => !decide (x.1 = slice) }
  | none => s

/-- The unit has served an operation. -/
def unitServed (s : State) (r : Req) : State := sideServed s r.ctx (reqSlice s r)

/-- Home slice of a physical address for a context. -/
def paSlice (s : State) (ctx pa : Nat) : Nat := homeSlice s (firstRood s ctx) pa

/-- The new result word of `post` (R239). -/
def postNew (mode old x : Nat) : Nat := if mode = 0 then x else if mode = 1 then old ||| x else max old x

/-- Perform a global barrier change: the answer, and the waiters' test (R201). -/
def performBar (s : State) (r : Req) (fn : Nat) (operand : Word) (out : Bool) : State :=
  let b := barOf (readClean s r.pa 16)
  let s1 := match barChange fn operand out b with
    | some b' => if fn = 5 then s else wakeBar (physWrite s r.pa (barBytes b')) r.wg r.ctx true
    | none => s
  poisonMet (arrived s1 { r with stage := .reply (barReply (barResult fn operand out b)) none true }) r.ctx r.wg r.tid
    (poisoned s r.pa 16)

/-- Perform a local atomic: the answer is its old value, or an acknowledgement. -/
def performAtom (s : State) (r : Req) (x : Bool) (op : Nat) (w64 : Bool) (operand : List Byte) (ret : Bool) : State :=
  let n := if w64 then 8 else 4
  let old := readClean s r.pa n
  let s1 := physWrite s r.pa (atomBytes x op w64 old operand)
  poisonMet (arrived s1 { r with stage := .reply (if ret then old else []) none true }) r.ctx r.wg r.tid (poisoned s r.pa n)

/-- Perform an operation of the atomic unit. -/
def performUnit (s : State) (r : Req) : State :=
  match r.kind with
  | .atom x op w64 operand ret => performAtom s r x op w64 operand ret
  | .bar fn operand out => performBar s r fn operand out
  | .post mode operand =>
    let new := postNew mode (ofBytes (readClean s r.pa 8)) (ofBytes operand)
    let us := if mode = 0 then [] else poisoned s r.pa 8
    poisonMet (arrived (physWrite s r.pa (toBytes 8 new)) { r with stage := .reply [] none true }) r.ctx r.wg r.tid us
  | _ => s

/-- ATOMIC_PERFORM (R195, R315); what waited for it at the slice is served then. -/
def execAtomicPerform (id : Nat) (s : State) : Host.Outcome State Fault Refusal :=
  match findReq s id with
  | none => .next s
  | some r =>
    if !unitNext s r then .next s
    else
      let slice := reqSlice s r
      let s1 := if opLogged s r then opPerformed s r.wg r.tid slice else s
      let s2 := unitServed (l2Write s1 r.ctx slice r.pa fun i => decide (r.pa % 128 ≤ i) && decide (i < r.pa % 128 + unitBytes r.kind)) r
      .next (serveLine (performUnit s2 r) slice r.pa)

/-! ### Peers (R313) -/

/-- A home that answers a peer's request: it is not in a mode change and not moving. -/
def peerAnswers (s : State) (h : Home) : Bool :=
  !(s.wgs.any fun g => match g.phase with
    | .placed => decide (g.home = h)
    | .moving d => decide (g.home = h) || decide (d = h)
    | _ => false)

/-- The peer returns the line: it has it forwardable, whole and of the requester's ASID (R313). -/
def peerLine (s : State) (h : Home) (r : Req) : Option L1Line :=
  match aliasAt s h r.pa with
  | some l => if l.fwd && decide (l.valid = 0xFF) && decide (l.asid = asidOf s r.ctx) && peerAnswers s h then some l else none
  | none => none

/-- PEER_REQUEST: the peer returns the line, or sends the request on in the requester's name, one flit of its own. It waits for what
the requester's home asked of the line before (R292). -/
def execPeerRequest (id : Nat) (s : State) : Host.Outcome State Fault Refusal :=
  match findReq s id with
  | none => .next s
  | some r =>
    match r.stage with
    | .toPeer h =>
      if !tileNext s r || lineBlocked s r then .next s
      else match peerLine s h r with
        | some l =>
          .next (serveLine (bumpCounter
            (arrived s { r with stage := .reply (readBytes l.data 0 128) none true, loc := 1000 + h.cluster }) r.ctx r.src 4 1)
            (reqSlice s r) r.pa)
        | none => .next (bumpCounter (arrived s { r with stage := .toHome, loc := 2 + h.cluster }) r.ctx h 11 1)
    | _ => .next s

/-! ### Pending results and fills (R79, R307) -/

/-- Write the registers of pending result i of a thread and end its park if it was the last one. -/
def writePending (s : State) (t : Thread) (i : Nat) (ws : List (BitVec 6 × Word)) : State :=
  settleThread (setThread s { setRegs t ws with pend := t.pend.eraseIdx i }) t.wg t.tid

/-- No reply that one tile sent to the same tile before this one is still on its way (R318). -/
def fillNext (s : State) (r : Req) : Bool :=
  !linkHolds s r && (before s r).all fun q =>
    !((replyFrom s q).isSome && decide (replyFrom s q = replyFrom s r) && decide (q.src.cluster = r.src.cluster))

/-- The predictor learns a reader in the requester's own virtual device (R312). -/
def trainPredictor (s : State) (r : Req) (reader : Option Home) : State :=
  match reader, (findCtx s r.ctx).bind fun c => findVd s c.vd with
  | some h, some v =>
    if r.fwd && (vdHomes s v).contains h then
      let idx := field r.pa 14 7 ^^^ field r.pa 22 15
      { s with predictor := ⟨r.src.cluster, idx, h, (launchOfWg s r.wg).getD 0⟩ ::
          dropWhere (fun p => decide (p.cluster = r.src.cluster) && decide (p.index = idx)) s.predictor }
    else s
  | _, _ => s

/-- Bytes of the load that a read is for; a prefetch has none. -/
def readSize (r : Req) : Nat := match r.kind with | .read n => n | _ => 0

/-- Install the line in the L1 of its home, while its workgroup is there. -/
def installLine (s : State) (r : Req) (bytes : List Byte) : State :=
  match findWg s r.wg with
  | none => s
  | some g =>
    match findLaunch s g.launch with
    | none => s
    | some l =>
      if r.install && decide (g.home = r.src) && decide (g.phase = .running) && decide (l1Ways l ≠ 0) then
        l1Fill s r.src r.ctx r.wg r.va r.pa (l1Ways l) (readSize r) r.fwd bytes
      else s

/-- The bytes of a load: what the L1 held at issue, the rest from the reply. -/
def loadBytes (va pa z : Nat) (got : Patch) (reply : List Byte) : List Byte :=
  (List.range z).map fun i =>
    match patchGet got (va + i) with
    | some b => b
    | none => (reply[(pa + i) % 128]?).getD 0

/-- Index of the pending load of a message. -/
def pendingLoad (t : Thread) (id : Nat) : Option Nat :=
  (List.range t.pend.length).find? fun (i : Nat) =>
    match t.pend[i]? with
    | some (.load req _ _ _ _) => decide (req = id)
    | _ => false

/-- Complete the load that a fill was for. -/
def completeLoad (s : State) (r : Req) (bytes : List Byte) : State :=
  match findThread s r.wg r.tid with
  | none => s
  | some t =>
    match pendingLoad t r.id with
    | none => s
    | some (i : Nat) =>
      match t.pend[i]? with
      | some (.load _ k va got dst) => writePending s t i (loadWrites k dst (loadBytes va r.pa k.size got bytes))
      | _ => s

/-- The answer of a barrier change or a packet reaches its cluster: its thread waits no more (R318). -/
def takeAnswer (s : State) (r : Req) (bytes : List Byte) : State :=
  let s1 := updReq (bumpCounter s r.ctx r.src 12 1) r.id fun r => { r with stage := .taken bytes }
  { s1 with threads := s1.threads.map (unwait r.id) }

/-- LINE_FILL (R307, R312, R236): a line, or the packet of a `lnch`. -/
def execLineFill (id : Nat) (s : State) : Host.Outcome State Fault Refusal :=
  match findReq s id with
  | none => .next s
  | some r =>
    match r.kind, r.stage, fillNext s r with
    | .read _, .reply bytes reader _, true =>
      let s1 := trainPredictor (bumpCounter s r.ctx r.src 12 1) r reader
      .next (completeLoad (finishReq (installLine s1 r bytes) id) r bytes)
    | .prefetch, .reply bytes reader _, true =>
      .next (finishReq (installLine (trainPredictor (bumpCounter s r.ctx r.src 12 1) r reader) r bytes) id)
    | .packet _ _, .reply bytes _ _, true => .next (takeAnswer s r bytes)
    | _, _, _ => .next s

/-- mxstat's word for a thread (R231). -/
def tileStatWord (s : State) (t : Thread) (n : Nat) : Word :=
  match findWg s t.wg, findLaunch s t.launch with
  | some g, some l =>
    let i := t.tid % 32
    let row := fun h => readNat g.rowNan (2 * ((h * 8 + n) * 32 + i)) 2
    if fullMode l then BitVec.ofNat 32 (row 0 + 65536 * row 1) else BitVec.ofNat 32 (row (halfOf s g))
  | _, _ => 0

/-- tsq's word for a thread (R234). -/
def tileQueryWord (s : State) (t : Thread) : Word :=
  match t.handle, findWg s t.wg with
  | some n, some g =>
    match g.handles.find? fun h => decide (h.idx = n) with
    | some h => BitVec.ofNat 32 (2 ^ 31 + 2 ^ 24 * g.home.cluster + 65536 * h.mask.toNat + n)
    | none => 0
  | _, _ => 0

/-- A returning atomic's value arrives: the acquire of its ORD, if any, comes before the thread's next access (R196). -/
def atomReturned (s : State) (t : Thread) (i : Nat) (r : Req) (x2 : Bool) (dst : BitVec 6) (bytes : List Byte) : State :=
  let s1 := finishReq (bumpCounter s r.ctx r.src 12 1) r.id
  let s2 := if r.acquire then acquireFor s1 t r.va else s1
  match findThread s2 t.wg t.tid with
  | some t' => writePending s2 t' i (oldWrites x2 dst bytes)
  | none => s2

/-- PENDING_RESULT_WRITE (R79, R231, R234). -/
def execPendingResultWrite (k : SeatKey) (i : Nat) (s : State) : Host.Outcome State Fault Refusal :=
  match findSeat s k with
  | none => .next s
  | some t =>
    match t.pend[i]? with
    | none => .next s
    | some (.value ws) => .next (writePending s t i ws)
    | some (.load id a _ _ dst) =>
      match findReq s id with
      | some r =>
        match r.kind, r.stage with
        | .window _ _ _, .reply bytes _ _ =>
          if !fillNext s r then .next s
          else
          let s1 := finishReq (bumpCounter s r.ctx r.src 12 1) id
          .next (match findThread s1 t.wg t.tid with
            | some t' => writePending s1 t' i (loadWrites a dst bytes)
            | none => s1)
        | _, _ => .next s
      | none => .next s
    | some (.atom id x2 dst) =>
      match findReq s id with
      | some r =>
        match r.stage with
        | .reply bytes _ _ => if fillNext s r then .next (atomReturned s t i r x2 dst bytes) else .next s
        | _ => .next s
      | none => .next s
    | some (.tileStat n cmds dst) =>
      if cmds.any fun c => (findCmd s c).isSome then .next s
      else .next (writePending s t i [(dst, tileStatWord s t n)])
    | some (.tileQuery cmds dst) =>
      if cmds.any fun c => (findCmd s c).isSome then .next s
      else .next (writePending s t i [(dst, tileQueryWord s t)])

/-- The acknowledgement of an atomic without a value: the acquire of its ORD, if any, comes before the thread's next access
(R196). -/
def atomAcked (s : State) (r : Req) : State :=
  if r.acquire then
    match findThread s r.wg r.tid with
    | some t => acquireFor s t r.va
    | none => s
  else s

/-- WRITE_BACK_ACKNOWLEDGEMENT (R197 to R199, R318): an acknowledgement arrives, of a write-back, a store, an operation without a
value or a barrier change; whoever is parked for it goes on. -/
def execWriteBackAcknowledgement (id : Nat) (s : State) : Host.Outcome State Fault Refusal :=
  match findReq s id with
  | none => .next s
  | some r =>
    let acked := finishReq (bumpCounter s r.ctx r.src 12 1) id
    match r.kind, r.stage, fillNext s r with
    | .write _, .reply _ _ _, true => .next acked
    | .post _ _, .reply _ _ _, true => .next acked
    | .window _ (some _) _, .reply _ _ _, true => .next acked
    | .atom _ _ _ _ false, .reply _ _ _, true => .next (finishReq (bumpCounter (atomAcked s r) r.ctx r.src 12 1) id)
    | .bar _ _ _, .reply bytes _ _, true => .next (takeAnswer s r bytes)
    | _, _, _ => .next s

/-! ### Window accesses (R192) -/

/-- WINDOW_ACCESS: performed at the member's scratch. -/
def execWindowAccess (id : Nat) (s : State) : Host.Outcome State Fault Refusal :=
  match findReq s id with
  | none => .next s
  | some r =>
    match r.kind, r.stage with
    | .window m store n, .toHome =>
      if !tileNext s r then .next s
      else
        match findWg s m with
        | none => .next (finishReq s id)
        | some g =>
          let s1 := bumpCounter s r.ctx g.home 10 1
          match store with
          | some bs => .next (arrived (scratchWrite s1 m r.va bs) { r with stage := .reply [] none true })
          | none => .next (arrived s1 { r with stage := .reply (readBytes g.scratch r.va n) none true })
    | _, _ => .next s

/-! ### Table walks (R189, R309, R412, R413) -/

/-- A device access to a page on its way to the host abandons the copy: the page is DEVICE again, pinned for 1 ms, and
the precedence is counted (R413). -/
def abandonOut (s : State) (p : Page) : State :=
  let s1 := { s with pages := s.pages.map fun (x : Page) =>
    if x = p then { x with state := .device, pinned := some (s.clock + 1750000) } else x }
  let s2 := updCtx s1 p.ctx fun c => { c with conflict := satAdd32 c.conflict 1 }
  match findCtx s2 p.ctx with
  | some c => resumeAccesses (emit s2 (.log (.conflict p.ctx c.conflict))) p
  | none => s2

/-- Resolve an address in a context's tables, with the precedence of R413. -/
def resolve (s : State) (ctx va : Nat) : State × Lookup :=
  match pageFor s ctx va with
  | some p =>
    match p.state with
    | .toHost =>
      let s1 := abandonOut s p
      (s1, lookup s1 ctx va)
    | _ => (s, lookup s ctx va)
  | none => (s, lookup s ctx va)

/-- The next queued walk of a cluster starts. -/
def nextWalk (s : State) (cluster : Nat) : State :=
  if walksRunning s cluster < 4 then
    match s.walks.find? fun w => decide (w.cluster = cluster) && !w.running && w.failed.isNone with
    | some w => { s with walks := s.walks.map fun x => if x = w then { x with running := true } else x }
    | none => s
  else s

/-- Install a TLB entry; with 1,024 in use, one of them goes, which one the spec leaves open. -/
def tlbFill (s : State) (e : TlbEntry) : State :=
  let own := s.tlb.filter fun x => decide (x.cluster = e.cluster)
  if own.length < 1024 then { s with tlb := s.tlb ++ [e] }
  else
    let n := Config.choose s.freeCount own.length % own.length
    let kept := match own[n]? with
      | some v => s.tlb.filter fun x => !decide (x = v)
      | none => s.tlb
    bumpFree { s with tlb := kept ++ [e] }

/-- The context with an ASID. -/
def ctxOfAsid (s : State) (asid : Nat) : Option Context := s.contexts.find? fun c => decide (c.asid = asid)

/-- Side of a context's virtual device. -/
def ctxSide (s : State) (c : Context) : Nat :=
  match findVd s c.vd with
  | some v => VdShape.sideNum v.shape
  | none => 0

/-- The reads of a walk and their replies; how many the tables take is open (R309, R317, R324). -/
def walkFlits (s : State) (ctx : Nat) (h : Home) : State :=
  let n := Config.choose s.freeCount 5
  bumpFree (bumpCounter (bumpCounter s ctx h 11 n) ctx h 12 n)

/-- TABLE_WALK_COMPLETE. -/
def execTableWalkComplete (cluster asid page : Nat) (s : State) : Host.Outcome State Fault Refusal :=
  let is := fun (w : Walk) => decide (w.cluster = cluster) && decide (w.asid = asid) && decide (w.page = page)
  match s.walks.find? fun w => is w && w.running, ctxOfAsid s asid with
  | some _, some c =>
    let va := page * 65536
    let r := resolve s c.id va
    let s1 := walkFlits (bumpCounter r.1 c.id ⟨cluster, ctxSide s c⟩ 6 1) c.id ⟨cluster, ctxSide s c⟩
    let ended := fun (s : State) (f : WalkFail) =>
      { s with walks := s.walks.map fun (w : Walk) => if is w then { w with running := false, failed := some f } else w }
    match r.2 with
    | .found p =>
      let s2 := { s1 with walks := s1.walks.filter fun w => !is w }
      .next (nextWalk (tlbFill s2 ⟨cluster, asid, p.va, p.bits, p.pa, p.readable, p.writable⟩) cluster)
    | .missing _ => .next (nextWalk (ended s1 .missing) cluster)
    | .violation => .next (nextWalk (ended s1 .violation) cluster)
  | _, _ => .next s

/-- PAGE_REQUEST: the oldest request not yet written goes into the ring, once it has room, and while its grant lasts (R11, R411). -/
def execPageRequest (ctx : Nat) (s : State) : Host.Outcome State Fault Refusal :=
  match findCtx s ctx with
  | none => .next s
  | some c =>
    if !granted s ctx c.prBase then .next s else
    let oldest := minByKey id (c.prReqs.filterMap PageReq.seq)
    let room := match oldest with | some q => decide (c.prSeq < q + 2 ^ c.prLog) | none => true
    match c.prReqs.find? fun r => decide (r.seq = none) with
    | none => .next s
    | some r =>
      if !room then .next s
      else
        let first := if r.far then 2 ^ 15 else 256 * r.clusters.headD 0
        let bs := toBytes 8 r.va ++ toBytes 4 (r.kind + first) ++ toBytes 4 r.clusters.length ++ toBytes 8 s.ptp.time ++
          toBytes 8 c.prSeq
        let s1 := physWrite s (c.prBase + 32 * (c.prSeq % 2 ^ c.prLog)) bs
        .next (updCtx s1 ctx fun c => { c with
          prSeq := c.prSeq + 1
          prReqs := c.prReqs.map fun x => if x.va = r.va then { x with seq := some c.prSeq } else x })

/-! ### Far accesses (R189, R193, R194) -/

/-- The result of a far access at its home: bytes, or a violation; none while its page is missing. -/
inductive FarDone where
  | waits
  /-- The bytes, and the poisoned units among those read. -/
  | answer (bytes : List Byte) (units : List Nat)
  | violation
deriving DecidableEq, Repr

/-- Whether a far operation writes. -/
def farWrites : FarOp → Bool
  | .load _ => false
  | .store _ => true
  | .atom _ _ _ _ => true

/-- Whether a far operation reads. -/
def farReads : FarOp → Bool
  | .store _ => false
  | _ => true

/-- Perform a far access in the tables of the home context. -/
def performFar (s : State) (ctx va : Nat) (op : FarOp) : State × FarDone :=
  let r := resolve s ctx va
  match r.2 with
  | .missing _ => (requestPage r.1 ctx 0 va true, .waits)
  | .violation => (r.1, .violation)
  | .found p =>
    let pa := p.pa + (va - p.va)
    if farWrites op && (freezeFor r.1 ctx va 1 pa).isSome then ((freezeFor r.1 ctx va 1 pa).getD r.1, .violation)
    else if (farWrites op && !p.writable) || (farReads op && !p.readable) then (r.1, .violation)
    else
      match op with
      | .load n => (r.1, .answer (readClean r.1 pa n) (poisoned r.1 pa n))
      | .store bs => (physWrite r.1 pa bs, .answer [] [])
      | .atom x op w64 operand =>
        let n := if w64 then 8 else 4
        let old := readClean r.1 pa n
        (physWrite r.1 pa (atomBytes x op w64 old operand), .answer old (poisoned r.1 pa n))

/-- The accesses of one thread to one home are performed in their order of issue. -/
def farNext (s : State) (r : Req) : Bool :=
  (before s r).all fun q => match q.kind with
    | .far _ => !(decide (q.wg = r.wg) && decide (q.tid = r.tid) && decide (q.loc = r.loc) &&
        (match q.stage with | .reply _ _ _ => false | _ => true))
    | _ => true

/-- The physical address a far access reaches. -/
def farPa (s : State) (ctx va : Nat) : Option Nat :=
  match lookup s ctx va with
  | .found p => some (p.pa + (va - p.va))
  | _ => none

/-- The home slice that a far atomic changes; its entry in the order lists names it (R463, R464). -/
def farSlice (s : State) (ctx va : Nat) : Nat := paSlice s ctx ((farPa s ctx va).getD 0)

/-- A far atomic is next at the atomic unit, and due (R315, R466). -/
def farTurn (s : State) (ctx va : Nat) (op : FarOp) : Bool :=
  match op, farPa s ctx va with
  | .atom _ _ w64 _, some pa => unitTurn s ctx (paSlice s ctx pa) pa (if w64 then 8 else 4)
  | _, _ => true

/-- A far atomic of a thread of this device is due in a replay (R466). -/
def farDue (s : State) (r : Req) (op : FarOp) : Bool :=
  match op, ownerOf s r.wg r.tid with
  | .atom _ _ _ _, some t => opDue s t
  | _, _ => true

/-- The unit has served a far atomic. -/
def farServed (s : State) (ctx va : Nat) (op : FarOp) : State :=
  match op with
  | .atom _ _ _ _ => sideServed s ctx (farSlice s ctx va)
  | _ => s

/-- Flits for another device leave by the port of its route (R475); a far access that no route takes on is answered as a
violation (R189). -/
def passOn (s : State) (dev : Nat) (x : FarSource) (lost : State → State) : State :=
  match s.boot.routes.find? fun r => decide (r.dev = dev) with
  | some r => emit s (.forward r.port x)
  | none => lost s

/-- FAR_REQUEST: an access of this device to itself, or flits that came by a fabric port: an access or a context image, for this
device or for another one. -/
def execFarRequest (src : FarSource) (s : State) : Host.Outcome State Fault Refusal :=
  match src with
  | .own id =>
    match findReq s id with
    | none => .next s
    | some r =>
      match r.kind, r.stage with
      | .far _, .reply _ _ _ => .next s
      | .far op, _ =>
        if r.loc ≠ s.boot.devnum ∨ farNext s r = false ∨ farTurn s r.ctx r.va op = false ∨ farDue s r op = false then .next s
        else
          let slice := farSlice s r.ctx r.va
          let q := performFar (farServed s r.ctx r.va op) r.ctx r.va op
          match q.2 with
          | .waits => .next (updReq q.1 id fun r => { r with stage := .waitPage true })
          | .answer bs us =>
            let s1 := match op with | .atom _ _ _ _ => opPerformed q.1 r.wg r.tid slice | _ => q.1
            let s2 := updReq s1 id fun r => { r with stage := .reply bs none true, bad := !us.isEmpty }
            .next (foldList (fun s u =>
              uncorrectable s (launchOfWg s r.wg) (unitPlace s r.ctx u) (lastOrdinal s r.wg r.tid)) s2 us)
          | .violation => .next (updReq q.1 id fun r => { r with stage := .reply [] none false })
      | _, _ => .next s
  | .other x =>
    if x.dev ≠ s.boot.devnum then .next (passOn s x.dev src fun s => emit s (.farAnswer x.va [] false))
    else if !farTurn s x.ctx x.va x.op then .next s
    else
      let q := performFar (farServed s x.ctx x.va x.op) x.ctx x.va x.op
      match q.2 with
      | .waits => .next q.1
      | .answer bs us =>
        .next (emit (foldList (fun s u => uncorrectable s none (unitPlace s x.ctx u) 0) q.1 us) (.farAnswer x.va bs true))
      | .violation => .next (emit q.1 (.farAnswer x.va [] false))
  | .image x =>
    if x.dev ≠ s.boot.devnum then .next (passOn s x.dev src id)
    else .next { s with imagesIn := s.imagesIn ++ [⟨x.handle, x.roods, x.bytes, x.hash, x.ki, imageHeld x.ki x.bytes⟩] }

/-- Bytes of a far access's reply. -/
def farBytes : FarOp → Nat
  | .load n => n
  | .store _ => 0
  | .atom _ _ w64 _ => if w64 then 8 else 4

/-- The answer a far message has: its own home's, or the one that came from another device. -/
def farResult (s : State) (r : Req) (remote : FarAnswer) : Option FarReply :=
  let of := fun (bs : List Byte) (ok bad : Bool) =>
    some (⟨bs, if ok then none else some (2 ^ 63 + 2 ^ 52 * r.loc + r.va), bad⟩ : FarReply)
  match r.stage, r.kind with
  | .reply bs _ ok, _ => of bs ok r.bad
  | .atPort, _ => none
  | _, .far op =>
    if r.loc = s.boot.devnum then none
    else
      match remote with
      | .value bs => of bs true false
      | .violation => of [] false false
      | .poisoned => of (List.replicate (farBytes op) 0) true true
  | _, _ => none

/-- A poisoned reply that came over the fabric is an event of the requester's launch; whose count block takes it is
open. -/
def farBad (s : State) (r : Req) (y : FarReply) : State :=
  if y.bad && !r.bad then
    uncorrectable (bumpFree s) (launchOfWg s r.wg) ⟨.fabric, Config.choose s.freeCount 17 % 17, 0, 0, none, 0⟩
      (lastOrdinal s r.wg r.tid)
  else s

/-- Whether some thread or record carries a message in its far group. -/
def inFarGroup (s : State) (r : Req) : Bool :=
  match ownerOf s r.wg r.tid with
  | some t => t.far.contains r.id
  | none => false

/-- FAR_REPLY: the reply goes to the record that waits for it (R193). -/
def execFarReply (id : Nat) (remote : FarAnswer) (s : State) : Host.Outcome State Fault Refusal :=
  match findReq s id with
  | none => .next s
  | some r =>
    match r.kind, farResult s r remote, inFarGroup s r || linkHolds s r with
    | .far _, some y, false =>
      let s1 := updOwner (finishReq (bumpCounter s r.ctx r.src 12 1) id) r.wg r.tid fun t => { t with reply := some y }
      .next (farBad (retestWg (settleBuffer s1 r.src.cluster) r.wg 7) r y)
    | _, _, _ => .next s

/-- FAR_ACKNOWLEDGEMENT: the access leaves the far group; a violation is kept for the thread (R194). DESIGN CHOICE (log 92): of
several violations the one acknowledged first is kept, and its address is the one that ACCESS reports. -/
def execFarAcknowledgement (id : Nat) (remote : FarAnswer) (s : State) : Host.Outcome State Fault Refusal :=
  match findReq s id with
  | none => .next s
  | some r =>
    match r.kind, farResult s r remote, inFarGroup s r && !linkHolds s r with
    | .far _, some y, true =>
      let s1 := updOwner (finishReq (bumpCounter s r.ctx r.src 12 1) id) r.wg r.tid fun t => { t with
        far := t.far.filter fun x => !decide (x = id)
        farFault := match t.farFault with | some a => some a | none => y.violation }
      let s2 := if y.bad then markData s1 r.wg r.tid true else s1
      .next (farBad (settleThread (retestWg (retestWg s2 r.wg 3) r.wg 8) r.wg r.tid) r y)
    | _, _, _ => .next s

end Sys2Proof.Machine
end

