-- ==== Sys2Proof/Machine/Commands.lean ====
section
/-! DEFINITION. The execution of copy and matrix commands: pieces, chains, follow-ons, late traps, matrix results, and
the probe tokens of blocked queues (R212, R214 to R231, R275 to R281, R321). -/
namespace Sys2Proof.Machine

/-! ### Late traps (R212) -/

/-- A late trap of an issuer that has exited: workgroup scope; to the session, or the launch is killed TRAPPED. -/
def lateExited (s : State) (g : Workgroup) (x : LateTrap) : State :=
  let r := workgroupTrap s g x.cause x.detail x.word
  if sessionOn s g.ctx then emit r.1 (.lateStop g.ctx r.2) else killLaunch r.1 g.launch 7 0

/-- The issuer has exited: it is gone, or its `exit` only waits for results and acknowledgements. -/
def issuerExited (s : State) (wg tid : Nat) : Bool :=
  match ownerOf s wg tid with
  | none => true
  | some t => match t.place with | .ending .exit _ => true | _ => false

/-- A command failed after its issue: the trap goes to its issuer (R212); while the workgroup is stopped, an exited
issuer's trap waits (R480). -/
def raiseLate (s : State) (wg tid : Nat) (x : LateTrap) : State :=
  match (if issuerExited s wg tid then none else some tid), findWg s wg with
  | some _, _ => updOwner s wg tid fun t => { t with late := t.late ++ [x] }
  | none, some g =>
    if g.stop = .none then lateExited s g x
    else updWg s wg fun g => { g with lateTraps := g.lateTraps ++ [x] }
  | none, none => s

/-! ### When engines may start work (R420, R422, R431) -/

/-- The virtual device of a workgroup. -/
def vdOfWg (s : State) (g : Workgroup) : Option VDev := (findCtx s g.ctx).bind fun c => findVd s c.vd

/-- A virtual device that has spent its allowance starts nothing new (R431). -/
def throttledVd (v : VDev) : Bool := v.drawing && decide (v.allowance ≤ (v.spent : Int))

/-- A gang of a stopping workgroup stands stalled at a full queue at no safe point: it has to go on to its next one, so that the
queues still move (R421, log 111). -/
def stopNeedsQueues (s : State) (g : Workgroup) : Bool :=
  (match g.stop with | .stopping _ => true | _ => false) && s.slots.any fun x =>
    x.stall.isSome && s.threads.any fun t => decide (t.wg = g.id) && inRunning x.key t && (safeOrdinal s t t.pc).isNone

/-- Engines of the workgroup may start new work: it is not stopped and its virtual device not throttled, or a stop needs them. -/
def engineOn (s : State) (g : Workgroup) : Bool :=
  (decide (g.stop = .none) && (match vdOfWg s g with | some v => !throttledVd v | none => true)) || stopNeedsQueues s g

/-- The workgroup stands at its home: commands of one in an image, or on its way, are left for its return (R422). -/
def wgUp (g : Workgroup) : Bool := decide (g.phase = .running)

/-- Copy engines serve the workgroup: some are assigned that are not frozen. -/
def copyEngines (s : State) (g : Workgroup) : Bool :=
  match vdOfWg s g with
  | some v => v.engines.any fun e => !v.frozenEngines.contains e
  | none => false

/-- The engine a copy job runs on goes on: it is not frozen; where it no longer serves the virtual device another one takes the
job (R419). -/
def jobEngineOn (s : State) (g : Workgroup) (c : Cmd) : Bool :=
  match c.engine, vdOfWg s g with
  | some e, some v => if v.engines.contains e then !v.frozenEngines.contains e else copyEngines s g
  | _, _ => copyEngines s g

/-- The engine that takes a copy job: one of those that serve the virtual device and are not frozen; which is open. -/
def pickEngine (s : State) (g : Workgroup) : Option Nat :=
  match vdOfWg s g with
  | some v =>
    let able := v.engines.filter fun e => !v.frozenEngines.contains e
    able[Config.choose s.freeCount able.length % able.length]?
  | none => none

/-! ### Start positions (R275) -/

/-- The command at the start position of a queue. -/
def startPosition (s : State) (wg : Nat) (q : QueueRef) : Option Cmd :=
  s.cmds.find? fun c => decide (c.wg = wg) && inQueue q c && decide (c.state = .queued)

/-- Every edge is satisfied: the earlier commands are complete. -/
def edgesDone (s : State) (c : Cmd) : Bool := c.edges.all fun e => (findCmd s e).isNone

/-- Remove a command and the chain places it holds. -/
def dropCmd (s : State) (id : Nat) : State :=
  { s with
    cmds := s.cmds.filter fun c => !decide (c.id = id)
    chains := s.chains.filter fun p => !decide (p.cmd = id) }

/-- What happens at a start position. -/
inductive StartFate where
  | hold | discard | wait | start
deriving DecidableEq, Repr

def startFate (s : State) (c : Cmd) : StartFate :=
  if c.gd ≠ 0 ∧ c.bound = none then .hold
  else if c.gd ≠ 0 ∧ c.bound ≠ some c.sense then .discard
  else if edgesDone s c then .start
  else .wait

/-! ### Copy jobs (R218, R219) -/

/-- Pieces of a row from its byte `off`: none crosses a 4,096-byte boundary of the destination. -/
def rowPieces (row dst len : Nat) : Nat → Nat → List Piece
  | 0, _ => []
  | fuel + 1, off =>
    if off < len then
      let n := min (len - off) (4096 - (dst + off) % 4096)
      ⟨row, off, n, none, [], false⟩ :: rowPieces row dst len fuel (off + n)
    else []

/-- Destination of a row: an address, or an offset within its slice. -/
def rowDst (k : Nat) (c : Card) (row : Nat) : Nat := if kindToBtier k then c.dst else c.dst + row * c.dstr

/-- All pieces of a job. -/
def jobPieces (k : Nat) (c : Card) : List Piece :=
  (List.range c.rows).flatMap fun r => rowPieces r (rowDst k c r) c.len (c.len / 4096 + 2) 0

/-- COPY_JOB_START: at most four jobs of a queue run at once. -/
def execCopyJobStart (wg q : Nat) (s : State) : Host.Outcome State Fault Refusal :=
  match startPosition s wg (.copy q), findWg s wg with
  | some c, some g =>
    let runs := (s.cmds.filter fun x => decide (x.wg = wg) && decide (x.queue = .copy q) && !decide (x.state = .queued)).length
    match startFate s c, c.kind with
    | .discard, _ => if (decide (g.stop = .none) || stopNeedsQueues s g) && wgUp g then .next (countDiscard (dropCmd s c.id) wg 1) else .next s
    | .start, .copy k card _ =>
      if engineOn s g && wgUp g && copyEngines s g && decide (runs < 4) then
        .next (updCmd (bumpFree s) c.id fun c => { c with
          state := .running s.clock, pieces := jobPieces k card, engine := pickEngine s g })
      else .next s
    | _, _ => .next s
  | _, _ => .next s

/-- The regions that meet a range allow the access. -/
def rangeAllows (l : Launch) (lo n : Nat) (rd wr : Bool) : Bool :=
  l.lr.regions.all fun r =>
    !(decide (r.base < lo + n) && decide (lo < r.base + r.size)) || regionAllows l (max lo r.base) rd wr

/-- How far a job gets at a global range. -/
inductive Reach where
  | ok
  | missing (va : Nat)
  | stops (va reason : Nat)
  /-- A physical address outside the grants of the virtual device (R418). -/
  | outside
deriving DecidableEq, Repr

/-- One end of a global range in the tables. -/
def reachEnd (s : State) (ctx va : Nat) (rd wr : Bool) : State × Reach :=
  let r := resolve s ctx va
  match r.2 with
  | .found p =>
    let pa := p.pa + (va - p.va)
    (r.1,
      if !granted s ctx pa then .outside
      else if (rd && !p.readable) || (wr && (!p.writable || inMapList s ctx pa)) then .stops va 10
      else .ok)
  | .missing _ => (r.1, .missing va)
  | .violation => (r.1, .stops va 10)

/-- A global range a piece needs: both its ends, the control blocks it must not write (R368), then the region modes. A
source is read, a destination written, a barrier object, which no region mode bars here, both. -/
def reachRange (s : State) (l : Launch) (ctx va n : Nat) (wr byMode : Bool) : State × Reach :=
  let rd := !wr || !byMode
  let a := reachEnd s ctx va rd wr
  match a.2 with
  | .ok =>
    let b := reachEnd a.1 ctx (va + n - 1) rd wr
    match b.2 with
    | .ok =>
      (b.1,
        if wr && (qcbAt b.1 ctx va ((translate b.1 ctx va).getD (2 ^ 64)) n).isSome then .stops va 10
        else if byMode && !rangeAllows l va n (!wr) wr then .stops va 11
        else .ok)
    | x => (b.1, x)
  | x => (a.1, x)

/-- Check ranges one after another: address, bytes, write, region modes. -/
def reachAll (s : State) (l : Launch) (ctx : Nat) : List (Nat × Nat × Bool × Bool) → State × Reach
  | [] => (s, .ok)
  | x :: xs =>
    let r := reachRange s l ctx x.1 x.2.1 x.2.2.1 x.2.2.2
    match r.2 with
    | .ok => reachAll r.1 l ctx xs
    | y => (r.1, y)

/-- The global ranges of a piece: its source until it has been read, its destination, its barrier object. -/
def pieceRanges (k : Nat) (c : Card) (p : Piece) : List (Nat × Nat × Bool × Bool) :=
  (if kindSrcGlobal k ∧ p.data = none then [(c.src + p.row * c.sstr + p.off, p.len, false, true)] else []) ++
    (if dstGlobal k c then [(rowDst k c p.row + p.off, p.len, true, true)] else []) ++
    (if c.bsp && (c.cin || c.cout) then [(c.bar, 16, true, false)] else [])

/-- The bytes of a piece at its source. -/
def pieceSource (s : State) (g : Workgroup) (k : Nat) (c : Card) (p : Piece) : List Byte :=
  let at_ := c.src + p.row * c.sstr + p.off
  if kindSrcGlobal k then vreadSplit s g.ctx at_ p.len
  else if kindSrcScratch k then readBytes g.scratch at_ p.len
  else if k = 6 then (List.range p.len).map fun i => (c.aux[(p.off + i) % 4]?).getD 0
  else List.replicate p.len 0

/-- Cut n bytes of a row from byte `off` at the row's 16-byte granules: first byte and length of each part. -/
def granuleCuts (off n : Nat) : List (Nat × Nat) :=
  let ends := off + n
  (List.range (n / 16 + 2)).filterMap fun i =>
    let lo := max off ((off / 16 + i) * 16)
    let hi := min ends ((off / 16 + i + 1) * 16)
    if lo < hi then some (lo, hi - lo) else none

/-- Poisoned units among the global bytes a piece reads, and the granules of the job they spoil (R350, R441). -/
def pieceUnits (s : State) (g : Workgroup) (k : Nat) (c : Card) (p : Piece) : List Nat × List Nat :=
  let at_ := c.src + p.row * c.sstr + p.off
  if kindSrcGlobal k then
    let hits := (granuleCuts p.off p.len).filterMap fun x =>
      (translate s g.ctx (at_ + (x.1 - p.off))).bind fun pa =>
        (poisoned s pa x.2).head?.map fun u => (u, (p.row * c.len + x.1) / 16)
    (dedup (hits.map Prod.fst), hits.map Prod.snd)
  else ([], [])

/-- Where a B-tier byte lies in a workgroup's share. -/
def btierAt (slice off : Nat) : Nat := slice * 196608 + off

/-- Write one granule of a piece at its destination; `m` is the workgroup whose scratch receives it. The scratch and the B-tier share
of a killed workgroup are scrubbed and take nothing (R357). -/
def landGranule (g : Workgroup) (m k : Nat) (c : Card) (row off : Nat) (s : State) (bs : List Byte) : State :=
  if g.cover.dead && !dstGlobal k c then s
  else if kindToBtier k then updWg s g.id fun g => { g with btier := writeBytes g.btier (btierAt (c.slice0 + row) (c.dst + off)) bs }
  else if dstGlobal k c then vwriteSplit s g.ctx (rowDst k c row + off) bs
  else scratchWrite s m ((if k = 5 then rowDst k c row % 2 ^ 20 else rowDst k c row) + off) bs

/-- Write a piece, except the granules lost to an uncorrectable error (R350). -/
def landBytes (s : State) (g : Workgroup) (m k : Nat) (c : Card) (p : Piece) (data : List Byte) (bad : List Nat) : State :=
  foldList (fun s x =>
    if bad.contains ((p.row * c.len + x.1) / 16) then s
    else landGranule g m k c p.row x.1 s ((data.drop (x.1 - p.off)).take x.2)) s (granuleCuts p.off p.len)

/-- Subtract a piece's bytes from a transfer count: one change of the object (R218). -/
def countChange (s : State) (g : Workgroup) (m : Nat) (c : Card) (out : Bool) (n : Nat) : State :=
  let x := 0#32 - BitVec.ofNat 32 n
  if g.cover.dead && !c.bsp then s
  else if c.bsp then
    let s1 := match translate s g.ctx c.bar with
      | some pa => sideServed s g.ctx (paSlice s g.ctx pa)
      | none => s
    wakeBar (vwrite s1 g.ctx c.bar (barBytes (Bar.expect (globalBar s g.ctx c.bar) out x))) g.id g.ctx true
  else
    match findWg s m with
    | none => s
    | some w => wakeBar (scratchWrite s m c.bar (barBytes (Bar.expect (scratchBar w c.bar) out x))) m g.ctx false

/-- A count change of a global object has its turn at the object's atomic unit (R315). -/
def countTurn (s : State) (g : Workgroup) (c : Card) : Bool :=
  !(c.bsp && (c.cin || c.cout)) ||
    match translate s g.ctx c.bar with
    | some pa => unitTurn s g.ctx (paSlice s g.ctx pa) pa 16
    | none => true

/-- The clusters a job's pieces land at: its chain list, or one place. -/
def landPlaces (k : Nat) (c : Card) : List Nat := if k = 4 then chainList c else [0]

/-- The workgroup whose scratch a landing of a row reaches. -/
def landMember (s : State) (l : Launch) (g : Workgroup) (k : Nat) (c : Card) (place row : Nat) : Nat :=
  if k = 4 then match memberAtCluster s l g place with | some m => m.id | none => g.id
  else if k = 5 then match memberOf s l g (rowDst k c row / 2 ^ 20) with | some m => m.id | none => g.id
  else g.id

/-- A stopped job whose begun pieces have landed completes: its follow-on is discarded, and its issuer takes a late ENGINE
trap (R219). -/
def stopJob (s : State) (c : Cmd) (k va reason : Nat) : State :=
  raiseLate (dropCmd s c.id) c.wg c.issuer
    ⟨15, BitVec.ofNat 64 (va % 2 ^ 52 * 4096 + k * 256 + reason), c.word⟩

/-- The follow-on enters the matrix queue in its reserved place, with the edges of that moment (R220, R276). -/
def enterFollowOn (s : State) (l : Launch) (g : Workgroup) (c : Cmd) (card : Card) (k : Nat) : State :=
  let ops := followOn card
  let s1 := updCmd s c.id fun c => { c with kind := .copy k card false, kept := [] }
  enterCmd s1 l g c.issuer ⟨matrixQueue s g, decide (shapeM ops = 64), .mma ops, 0, false, c.word⟩
    (c.reserve.filter isMatrix) (some c.id)

/-- Read a piece at its source; what the read finds lost is noted (R350, R441). -/
def readPiece (s : State) (l : Launch) (g : Workgroup) (c : Cmd) (k : Nat) (card : Card) (i : Nat) (p : Piece) : State :=
  let spoiled := pieceUnits s g k card p
  let s0 := foldList (fun s u => uncorrectable s (some l.id) (unitPlace s g.ctx u) 0xFFFFFFFF) s spoiled.1
  updCmd s0 c.id fun c => { c with
    pieces := listSet c.pieces i { p with data := some (pieceSource s g k card p) }
    waitPage := none, bad := c.bad ++ spoiled.2 }

/-- A piece of a job is violated: neither it nor a later piece moves; the job completes once the pieces that have begun have
landed, or at once (R219). -/
def cutJob (s : State) (c : Cmd) (k i va reason : Nat) : State :=
  let kept := (List.range c.pieces.length).filterMap fun (j : Nat) =>
    if j < i then (c.pieces[j]?).filter fun p => p.data.isSome else none
  let stop := c.stopped.getD (va, reason)
  if kept.all fun p => p.done then stopJob s c k stop.1 stop.2
  else
    let s1 := { s with chains := s.chains.filter fun x => !(decide (x.cmd = c.id) && decide (kept.length ≤ x.piece)) }
    updCmd s1 c.id fun c => { c with pieces := kept, stopped := some stop, waitPage := none }

/-- Land a piece at its next place: the bytes, then, after the job's last bytes, its follow-on, then the counts: the bytes
read are subtracted once, with the last landing, which is after the read (R218, R220). -/
def landPiece (s : State) (l : Launch) (g : Workgroup) (c : Cmd) (k : Nat) (card : Card) (follow : Bool) (i : Nat)
    (p : Piece) : State :=
  let places := landPlaces k card
  let place := (places[p.landed.length]?).getD 0
  let data := p.data.getD []
  let m := landMember s l g k card place p.row
  let done := decide (places.length ≤ p.landed.length + 1)
  let s0 := if k = 4 then bumpCounter s g.ctx ⟨place, g.home.side⟩ 12 (ceilDiv p.len 128)
    else if kindSrcGlobal k && !dstGlobal k card then bumpCounter s g.ctx g.home 12 (ceilDiv p.len 128)
    else s
  let s1 := landBytes s0 g m k card p data c.bad
  let pieces := listSet c.pieces i { p with landed := p.landed ++ [place], done := done }
  let s2 := updCmd s1 c.id fun c => { c with pieces := pieces, waitPage := none }
  let s3 := { s2 with chains := s2.chains.filter fun x =>
    !(decide (x.cmd = c.id) && decide (x.piece = i) && decide (x.cluster = place)) }
  let last := pieces.all fun q => q.done
  let s4 := if last && follow && c.stopped.isNone then enterFollowOn s3 l g c card k else s3
  let s5 := if done && card.cout && !kindNoSource k then countChange s4 g g.id card true p.len else s4
  let s6 := if card.cin then countChange s5 g m card false p.len else s5
  if !last then s6
  else match c.stopped with
    | some x => stopJob s6 c k x.1 x.2
    | none => dropCmd s6 c.id

/-- Places of a chain piece that are its own now. -/
def chainHeld (s : State) (cmd piece : Nat) : Nat :=
  (s.chains.filter fun x => decide (x.cmd = cmd) && decide (x.piece = piece) && !x.waiting).length

/-- The piece has been read and may land at its next place: for a chain, every place is reserved and the pieces before it there have
landed (R321, R322). -/
def mayLand (s : State) (k : Nat) (c : Cmd) (card : Card) (i : Nat) (p : Piece) : Bool :=
  p.data.isSome && !p.done && (decide (k ≠ 4) ||
    (let places := chainList card
     decide (places.length ≤ p.landed.length + chainHeld s c.id i) &&
       (match s.chains.find? fun x => decide (some x.cluster = places[p.landed.length]?) && !x.waiting with
        | some x => decide (x.cmd = c.id) && decide (x.piece = i)
        | none => false)))

/-- The engine whose job meets a physical address outside the grants is frozen, and the job stays with it (R418, R419). -/
def freezeEngine (s : State) (g : Workgroup) (c : Cmd) : State :=
  match vdOfWg s g, (match c.engine with | some e => some e | none => pickEngine s g) with
  | some v, some e =>
    if v.engines.contains e && !v.frozenEngines.contains e then
      emit (updCmd (updVd (bumpFree s) v.num fun v => { v with frozenEngines := e :: v.frozenEngines }) c.id fun c =>
        { c with engine := some e }) (.log (.frozen (.engine e) g.ctx))
    else s
  | _, _ => s

/-- The piece a job reads next: its first one not yet read (R218). -/
def nextRead (c : Cmd) : Option Nat :=
  (List.range c.pieces.length).find? fun (i : Nat) => match c.pieces[i]? with | some p => p.data.isNone | none => false

/-- Home slices of the lines of a global range. -/
def rangeSlices (s : State) (ctx va n : Nat) : List Nat :=
  dedup ((List.range (n / 128 + 2)).filterMap fun i =>
    if va / 128 * 128 + 128 * i < va + n then (translate s ctx (max va (va / 128 * 128 + 128 * i))).map (paSlice s ctx) else none)

/-- A link between a cluster and the home slices of a global range retrains. -/
def rangeHeld (s : State) (ctx cluster va n : Nat) : Bool :=
  !s.links.isEmpty && (rangeSlices s ctx va n).any fun x => tilesHeld s (clusterTile cluster) (sliceTile x)

/-- A link that a piece's flits take next retrains and holds them: between the job's cluster and the home slices, or from a
cluster of a chain to the next (R10, R317, R319, R440). -/
def pieceHeld (s : State) (g : Workgroup) (k : Nat) (c : Card) (p : Piece) : Bool :=
  if p.data.isNone || (decide (k = 4) && decide (p.landed = [])) then
    let first := if k = 4 then (chainList c).headD g.home.cluster else g.home.cluster
    kindSrcGlobal k && rangeHeld s g.ctx first (c.src + p.row * c.sstr + p.off) p.len
  else if k = 4 then
    match p.landed.getLast?, (chainList c)[p.landed.length]? with
    | some a, some b => !s.links.isEmpty && tilesHeld s (clusterTile a) (clusterTile b)
    | _, _ => false
  else dstGlobal k c && rangeHeld s g.ctx g.home.cluster (rowDst k c p.row + p.off) p.len

/-- A piece may be read now: the job is not stopped, throttled or without its engine (R419, R422, R431); a piece of a chain once
every cluster has reserved a place for it, whatever stops the job then (R321). -/
def mayRead (s : State) (g : Workgroup) (k : Nat) (c : Cmd) (card : Card) (i : Nat) : Bool :=
  decide (nextRead c = some i) && wgUp g && jobEngineOn s g c &&
    if k = 4 then decide ((chainList card).length ≤ chainHeld s c.id i) else engineOn s g

/-- What a job may do now, by piece: read the next one, or land one that has been read, in any order (R218), its count changes in
their turn (R315) and while no link holds its flits (R440). A stopped or throttled job, and one whose engine is frozen, only
finishes pieces that have begun (R419, R422, R431). -/
def landable (s : State) (g : Workgroup) (k : Nat) (c : Cmd) (card : Card) : List Nat :=
  (List.range c.pieces.length).filter fun (i : Nat) =>
    match c.pieces[i]? with
    | some p => ((mayLand s k c card i p && countTurn s g card) || mayRead s g k c card i) && !pieceHeld s g k card p
    | none => false

/-- COPY_PIECE_LAND: a job reads its next piece or lands one; which is left open (R218). Each is translated when the job
reaches it, and it waits there for a page (R219). -/
def execCopyPieceLand (cmd : Nat) (s : State) : Host.Outcome State Fault Refusal :=
  match findCmd s cmd with
  | none => .next s
  | some c =>
    match c.kind, c.state, findWg s c.wg, (findWg s c.wg).bind fun g => findLaunch s g.launch with
    | .copy k card follow, .running _, some g, some l =>
      let ready := landable s g k c card
      match ready[Config.choose s.freeCount ready.length % ready.length]? with
      | none => .next s
      | some (i : Nat) =>
        match c.pieces[i]? with
        | none => .next s
        | some p =>
          let r := reachAll s l g.ctx (pieceRanges k card p)
          match r.2 with
          | .missing va =>
            .next (updCmd (requestPage r.1 g.ctx g.home.cluster va false) cmd fun c => { c with waitPage := some va })
          | .stops va reason => .next (cutJob r.1 c k i va reason)
          | .outside => .next (freezeEngine r.1 g c)
          | .ok =>
            .next (bumpFree (if p.data.isNone then readPiece r.1 l g c k card i p else landPiece r.1 l g c k card follow i p))
    | _, _, _, _ => .next s

/-- A reservation takes a place at a cluster, or waits there behind those that came before it; a cluster has two places
(R321). -/
def reserveAt (s : State) (cluster cmd piece : Nat) : State :=
  let here := s.chains.filter fun x => decide (x.cluster = cluster)
  let used := (here.filter fun x => !x.waiting).length
  let mine := fun (x : ChainPlace) => decide (x.cluster = cluster) && decide (x.cmd = cmd) && decide (x.piece = piece)
  match here.find? fun x => x.waiting with
  | some x =>
    if mine x then
      if used < 2 then
        let rest := s.chains.filter fun y => !decide (y = x)
        { s with chains := rest ++ [{ x with waiting := false }] }
      else s
    else if here.any mine then s
    else { s with chains := s.chains ++ [⟨cluster, cmd, piece, true⟩] }
  | none => { s with chains := s.chains ++ [⟨cluster, cmd, piece, decide (2 ≤ used)⟩] }

/-- CHAIN_RESERVATION: the flit of the job's first piece that is not read and not wholly reserved visits its next cluster (R321). A
stopped job sends no new flit, but one on its way goes on. The flit is counted at the job's own cluster, and the piece's fragments
where they land (R317, R324; log 95). -/
def execChainReservation (cmd : Nat) (s : State) : Host.Outcome State Fault Refusal :=
  match findCmd s cmd with
  | none => .next s
  | some c =>
    match c.kind, c.state, findWg s c.wg with
    | .copy 4 card _, .running _, some g =>
      let places := chainList card
      let open_ := (List.range c.pieces.length).find? fun (i : Nat) =>
        match c.pieces[i]? with
        | some p => p.data.isNone && decide (chainHeld s cmd i < places.length)
        | none => false
      match open_ with
      | none => .next s
      | some i =>
        let sent := s.chains.any fun x => decide (x.cmd = cmd) && decide (x.piece = i)
        match places[chainHeld s cmd i]?, sent || (engineOn s g && wgUp g && jobEngineOn s g c) with
        | some cluster, true => .next (reserveAt (if sent then s else bumpCounter s g.ctx g.home 11 1) cluster cmd i)
        | _, _ => .next s
    | _, _, _ => .next s

/-! ### Matrix commands (R226, R228 to R230) -/

/-- The 32 elements of a dense group (R224). -/
def denseGroup (f : SlotWord) (bs : List Byte) : List XVal :=
  if f.kind = 5 then blockValues (natAt bs 0 (4 * f.m)) (natAt bs (4 * f.m) 4) f.m
  else (List.range 32).map fun i => decodeKind f.kind (ofBytes bs / 2 ^ (kindBits f.kind * i) % 2 ^ kindBits f.kind)

/-- The kept elements of a sparse group and its index bytes (R64). -/
def keptElements (f : SlotWord) (bs : List Byte) : List XVal :=
  let n := f.spn
  if f.kind = 5 then
    let z := n * f.m / 8
    (blockValues (natAt bs 0 z) (natAt bs z 4) f.m).take n
  else (List.range n).map fun i => decodeKind f.kind (ofBytes bs / 2 ^ (kindBits f.kind * i) % 2 ^ kindBits f.kind)

/-- The positions of a sparse group, or none when they break R65. -/
def keptPositions (f : SlotWord) (bs : List Byte) : Option (List Nat) :=
  let idx := (bs.drop (aGroupBytes f - f.spn)).take f.spn |>.map BitVec.toNat
  if risingNat idx && idx.all fun i => decide (i < 32) then some idx else none

/-- The pairs of one group: kept A elements with their B elements (R65, R68). -/
def groupPairs (fa fb : SlotWord) (a b : List Byte) : List (XVal × XVal) :=
  let bs := denseGroup fb b
  if fa.spn = 0 then (denseGroup fa a).zip bs
  else
    match keptPositions fa a with
    | some pos => (keptElements fa a).zip (pos.map fun i => (bs[i]?).getD posZero)
    | none => (bs.take fa.spn).map fun y => (XVal.nan, y)

/-- The groups of output position (i, j). -/
def mmaGroups (g : Workgroup) (l : Launch) (x : MmaOps) (i j : Nat) : List (List (XVal × XVal)) :=
  let fa := launchFormat l x.aslot
  let fb := launchFormat l (shapeBslot x)
  (List.range (shapeG x)).map fun k =>
    groupPairs fa fb
      (readBytes g.scratch (x.aoff + i * shapeAstr x + k * aGroupBytes fa) (aGroupBytes fa))
      (readBytes g.btier (btierAt j (x.boff + k * groupBytesOf fb)) (groupBytesOf fb))

/-- Where a row of a tile lies, and its row NaN counter. -/
def tileAt (half n row : Nat) : Nat := (half * 8 + n) * 8192 + row % 32 * 256
def rowNanAt (half n row : Nat) : Nat := 2 * ((half * 8 + n) * 32 + row % 32)

/-- The half that holds row i. -/
def rowHalf (l : Launch) (half i : Nat) : Nat := if fullMode l then i / 32 else half

/-- One row of a multiply: its new words, its new counter, and whether nan_trap was signalled (R69). DEDUCED (log 116):
the A slot's SAT acts on the groups and the accumulator whatever kind the slot names. -/
def mmaRow (g : Workgroup) (l : Launch) (x : MmaOps) (half i : Nat) : List Nat × Nat × Bool :=
  let fa := launchFormat l x.aslot
  let rs := (List.range (shapeN x)).map fun j =>
    mxPosition (mmaGroups g l x i j) fa.nanm fa.rnd fa.sat
      (readNat g.tiles (tileAt (rowHalf l half i) x.tile i + 4 * j) 4)
  (rs.map fun r => r.1,
    min 65535 (readNat g.rowNan (rowNanAt (rowHalf l half i) x.tile i) 2 + sumNat (rs.map fun r => r.2.1)),
    rs.any fun r => r.2.2)

/-- All rows of a multiply. -/
def mmaRows (g : Workgroup) (l : Launch) (x : MmaOps) (half : Nat) : List (Nat × List Nat × Nat × Bool) :=
  (List.range (shapeM x)).map fun i => (i, mmaRow g l x half i)

/-- Write a row of words, and its counter. -/
def setRow (l : Launch) (half n : Nat) (g : Workgroup) (i : Nat) (ws : List Nat) (cnt : Nat) : Workgroup :=
  { g with
    tiles := writeBytes g.tiles (tileAt (rowHalf l half i) n i) (ws.flatMap (toBytes 4))
    rowNan := writeNat g.rowNan (rowNanAt (rowHalf l half i) n i) 2 cnt }

/-- The rows of a tile. -/
def tileRow (l : Launch) (half n : Nat) (g : Workgroup) (i : Nat) : List Byte :=
  readBytes g.tiles (tileAt (rowHalf l half i) n i) 256

/-- mxst and mxld change their barrier object when they complete (R230). -/
def accCount (s : State) (g : Workgroup) (bar : Option Nat) (out : Bool) (n : Nat) : State :=
  match bar, findWg s g.id with
  | some off, some w =>
    wakeBar (scratchWrite s g.id off (barBytes (Bar.expect (scratchBar w off) out (0#32 - BitVec.ofNat 32 n)))) g.id g.ctx
      false
  | _, _ => s

/-- A workgroup as a matrix command that has left its queue head reads it: scratch and B-tier bytes of that moment (R226,
R230). The tiles it reads no other command writes meanwhile (R274). -/
def asTaken (g : Workgroup) (c : Cmd) : Workgroup :=
  match c.operands with
  | some x => { g with scratch := x.1, btier := x.2 }
  | none => g

/-- The effect of a matrix command, from the operands taken at its start, written at its completion all at once (R41, R226,
R229, R230). -/
def matrixEffect (s : State) (g : Workgroup) (l : Launch) (c : Cmd) : State :=
  let half := halfOf s g
  let bytes := if fullMode l then 16384 else 8192
  match c.kind with
  | .mma x =>
    let rows := mmaRows (asTaken g c) l x half
    if rows.any fun r => r.2.2.2 then raiseLate s c.wg c.issuer ⟨4, 0, c.word⟩
    else updWg s g.id fun g => rows.foldl (fun g r => setRow l half x.tile g r.1 r.2.1 r.2.2.1) g
  | .tileZero n =>
    updWg s g.id fun g => (List.range (accRows l)).foldl (fun g i => setRow l half n g i (List.replicate 64 0) 0) g
  | .tileLoad n off stride bar =>
    accCount (updWg s g.id fun g => (List.range (accRows l)).foldl (fun g i =>
      setRow l half n g i ((List.range 64).map fun j => readNat (asTaken g c).scratch (off + i * stride + 4 * j) 4) 0) g)
      g bar true bytes
  | .tileStore n off stride bar =>
    accCount (updWg s g.id fun g => { g with
      scratch := (List.range (accRows l)).foldl (fun m i => writeBytes m (off + i * stride) (tileRow l half n g i)) g.scratch })
      g bar false bytes
  | .copy _ _ _ => s

/-- The command stands at the start position of every queue it has entered. -/
def atStart (s : State) (c : Cmd) : Bool :=
  (queuesOf c.both c.queue).all fun q => decide ((startPosition s c.wg q).map Cmd.id = some c.id)

/-- MXA_COMMAND_START: the command leaves its queue head and takes its operands (R226, R230). -/
def execMxaCommandStart (wg half : Nat) (s : State) : Host.Outcome State Fault Refusal :=
  match startPosition s wg (.matrix half), findWg s wg with
  | some c, some g =>
    if !atStart s c then .next s
    else
      match startFate s c with
      | .discard => if (decide (g.stop = .none) || stopNeedsQueues s g) && wgUp g then .next (countDiscard (dropCmd s c.id) wg 1) else .next s
      | .start =>
        if engineOn s g && wgUp g then
          .next (updCmd s c.id fun c => { c with state := .running s.clock, operands := some (g.scratch, g.btier) })
        else .next s
      | _ => .next s
  | _, _ => .next s

/-- MXA_COMMAND_COMPLETE: a command spoiled by an uncorrectable error writes nothing (R229). -/
def execMxaCommandComplete (cmd : Nat) (s : State) : Host.Outcome State Fault Refusal :=
  match findCmd s cmd with
  | none => .next s
  | some c =>
    match c.state, findWg s c.wg, (findWg s c.wg).bind fun g => findLaunch s g.launch, c.queue with
    | .running _, some g, some l, .matrix _ =>
      if c.bad.isEmpty then .next (matrixEffect (dropCmd s cmd) g l c) else .next (dropCmd s cmd)
    | _, _, _, _ => .next s

/-! ### Blocked queues and probe tokens (R277 to R281) -/

/-- The instruction at which a record resumes is a push. -/
def resumesAtPush (s : State) (r : Record) : Bool :=
  match imageOf s r.th.launch with
  | some img => (match decode ((img.code.drop r.th.pc).take 2) with
    | .ok (.rpush _, _) => true
    | _ => false)
  | none => false

/-- Records that an `rpush` left waiting for a free entry of a ring, not yet woken; an `await.ring.free` is no push. -/
def blockedRecords (s : State) (wg ring : Nat) : List Record :=
  s.records.filter fun r => decide (r.th.wg = wg) && decide (r.fin.wake = 2) && r.fin.q &&
    decide (r.fin.operand % 256 = ring) && r.woken.isNone && resumesAtPush s r

/-- Gangs of a workgroup that stand stalled at a queue, but for one that its reserve place is granted to. -/
def stalledAt (s : State) (wg : Nat) (q : QueueRef) : List Slot :=
  let granted := match findWg s wg with | some g => (queueProbe g q).granted | none => false
  s.slots.filter fun x => stallsAt s wg q x && !(granted && decide (oldestStall s wg q = some x.key))

/-- When the oldest blocked push into a queue began; none when the queue is not blocked (R277). A push that keeps a granted reserve
place of the queue is not blocked there. -/
def blockedSince (s : State) (wg : Nat) (q : QueueRef) : Option Nat :=
  match q with
  | .ring n => minByKey id ((blockedRecords s wg n).map Record.since)
  | q => minByKey id ((stalledAt s wg q).filterMap fun x => x.stall.map Prod.snd)

/-- Roles of the threads blocked pushing into a queue: of a stalled gang, its running fragment's. -/
def blockedRoles (s : State) (wg : Nat) (q : QueueRef) : List Nat :=
  match q with
  | .ring n => (blockedRecords s wg n).map fun r => r.th.role.toNat
  | q => (stalledAt s wg q).flatMap fun x =>
      (s.threads.filter fun t => decide (t.wg = wg) && inRunning x.key t && !t.fl.entered && !onlyVector t.role).map
        fun t => t.role.toNat

/-- The bounded queues of a workgroup. -/
def queuesOfWg (g : Workgroup) : List QueueRef :=
  g.rings.map (fun r => QueueRef.ring r.num) ++ [.copy 0, .copy 1, .copy 2, .copy 3, .matrix 0, .matrix 1]

/-- A role consumes from a ring. -/
def consumes (s : State) (g : Workgroup) (ring role : Nat) : Bool :=
  match kernelOf s g.launch with
  | some k => !k.hasRoles || ((k.ringConsumers[ring]?).getD []).contains role
  | none => true

/-- The wait-for edges of a blocked queue (R278). -/
def waitEdges (s : State) (g : Workgroup) (q : QueueRef) : List QueueRef :=
  match q with
  | .ring n => (queuesOfWg g).filter fun y => (blockedRoles s g.id y).any fun r => consumes s g n r
  | q =>
    match startPosition s g.id q with
    | none => []
    | some c =>
      if c.gd ≠ 0 ∧ c.bound = none then (queuesOfWg g).filter fun y => (blockedSince s g.id y).isSome
      else (queuesOfWg g).filter fun y => s.cmds.any fun e =>
        c.edges.contains e.id && decide (e.state = .queued) && inQueue y e

/-- The reserve place of a queue is free. -/
def reserveFree (s : State) (g : Workgroup) (q : QueueRef) : Bool :=
  match q with
  | .ring n => match findRing g n with | some r => r.grant.isNone && r.reserve.isNone | none => false
  | q => !(queueProbe g q).granted && !reserveTaken s g.id q

/-- Copies of a token along the edges of a queue. -/
def tokensFrom (s : State) (g : Workgroup) (origin : QueueRef) (num : Nat) (at_ : QueueRef) (visited : List QueueRef) :
    List Probe :=
  (waitEdges s g at_).map fun y => ⟨origin, num, y, visited⟩

/-- PROBE_TOKEN_SEND. -/
def execProbeTokenSend (wg : Nat) (q : QueueRef) (s : State) : Host.Outcome State Fault Refusal :=
  match findWg s wg, blockedSince s wg q with
  | some g, some since =>
    let x := queueProbe g q
    if reserveFree s g q && decide (max since x.lastSent + 1024 ≤ s.clock) then
      let tokens := tokensFrom s g q (x.sent + 1) q [q]
      .next (updWg (setQueueProbe s wg { x with sent := x.sent + 1, lastSent := s.clock }) wg fun g => { g with
        probes := g.probes ++ tokens
        counts := { g.counts with probesent := satAdd32 g.counts.probesent 1 } })
    else .next s
  | _, _ => .next s

/-- The origin grants its reserve to its oldest blocked push (R280). -/
def grantReserve (s : State) (g : Workgroup) (q : QueueRef) : State :=
  let s1 := updWg s g.id fun g => { g with counts := { g.counts with resvgrant := satAdd32 g.counts.resvgrant 1 } }
  match q with
  | .ring n =>
    match minByKey Record.since (blockedRecords s g.id n), findRing g n with
    | some r, some ring =>
      updRecord (wakeRecord (setRing s1 g.id { ring with grant := some r.th.tid }) r.id) r.id
        fun r => { r with granted := true }
    | _, _ => s1
  | q => setQueueProbe s1 g.id { queueProbe g q with granted := true }

/-- PROBE_TOKEN_RECEIVE: forward, drop, or grant on the token's return, once per probe. -/
def execProbeTokenReceive (wg : Nat) (i : Nat) (s : State) : Host.Outcome State Fault Refusal :=
  match findWg s wg with
  | none => .next s
  | some g =>
    match g.probes[i]? with
    | none => .next s
    | some p =>
      let rest := updWg s wg fun g => { g with probes := g.probes.eraseIdx i }
      if (blockedSince s wg p.place).isNone then .next rest
      else if p.place = p.origin then
        let same := fun (x : Probe) => decide (x.origin = p.origin) && decide (x.num = p.num)
        let gone := updWg s wg fun g => { g with probes := g.probes.filter fun x => !same x }
        if reserveFree s g p.origin && decide (p.num = (queueProbe g p.origin).sent) then
          .next (match findWg gone wg with | some g' => grantReserve gone g' p.origin | none => gone)
        else .next rest
      else if p.visited.contains p.place then .next rest
      else
        let more := tokensFrom s g p.origin p.num p.place (p.visited ++ [p.place])
        .next (updWg rest wg fun g => { g with probes := g.probes ++ more })

end Sys2Proof.Machine
end

