-- ==== Sys2Proof/Machine/Coverage.lean ====
section
/-! DEFINITION. Coverage ladders: patterns, tiles, source sets, the reconstruction unit, assay samples and update instants
(R325 to R346, R365, R366). -/
namespace Sys2Proof.Machine

/-! ### Patterns (R327, R328) -/

/-- LATTICE(a, b, c). -/
structure Lattice where
  a : Nat
  b : Nat
  c : Nat
deriving DecidableEq, Repr

def Lattice.keeps (L : Lattice) (x y : Nat) : Bool :=
  decide (y % L.c = 0) && decide (x % L.a = L.b * (y / L.c) % L.a)

/-- The fields of a rung word. -/
def rungCode (w : Word) : Nat := field w.toNat 2 0
def rungFirst (w : Word) : Lattice := ⟨field w.toNat 6 3 + 1, field w.toNat 10 7, field w.toNat 14 11 + 1⟩
def rungSecond (w : Word) : Lattice := ⟨field w.toNat 18 15 + 1, field w.toNat 22 19, field w.toNat 26 23 + 1⟩

/-- The lattices whose union a rung keeps. -/
def rungLattices (w : Word) : List Lattice :=
  match rungCode w with
  | 0 => [⟨1, 0, 1⟩]
  | 1 => [⟨1, 0, (rungFirst w).c⟩]
  | 2 => [⟨2, 1, 1⟩]
  | 3 => [rungFirst w]
  | _ => [rungFirst w, rungSecond w]

/-- A rung keeps a local point. -/
def rungKeeps (w : Word) (x y : Nat) : Bool := (rungLattices w).any fun L => L.keeps x y

/-- Kept points in the period rectangle of R328, lcm(a1, a2) × lcm(c1, c2), and its area. -/
def keptFraction (w : Word) : Nat × Nat :=
  let ls := rungLattices w
  let px := ls.foldl (fun n L => Nat.lcm n L.a) 1
  let py := ls.foldl (fun n L => Nat.lcm n L.c) 1
  let pts := (List.range py).flatMap fun y => (List.range px).filter fun x => rungKeeps w x y
  (pts.length, px * py)

/-- p/q ≤ r/t. -/
def fracLe (p q : Nat × Nat) : Bool := decide (p.1 * q.2 ≤ q.1 * p.2)

/-! ### The block as a launch uses it -/

def coverControl (l : Launch) : Nat := l.lr.cover.control.toNat
def coverNrung (l : Launch) : Nat := field (coverControl l) 3 0
def coverSlot (l : Launch) : SlotWord := launchFormat l (field (coverControl l) 22 20)

/-- Bytes of an output element, or of a BFP block. -/
def elementBytes (f : SlotWord) : Nat := if f.kind = 5 then 4 * f.m + 4 else kindBits f.kind / 8

/-- The rung word in force for a workgroup. -/
def rungOf (l : Launch) (g : Workgroup) : Word := (l.lr.cover.rungs[g.rung]?).getD 0

/-! ### Tiles (R330, R331) -/

/-- A tile: origin, size, layer. -/
structure Tile where
  x0 : Nat
  y0 : Nat
  w : Nat
  h : Nat
  layer : Nat
deriving DecidableEq, Repr

def tileOf (l : Launch) (wgid : Nat) : Tile :=
  let x0 := indexIn l.lr.grid wgid 0 * dim l.lr.size 0
  let y0 := indexIn l.lr.grid wgid 1 * dim l.lr.size 1
  ⟨x0, y0, min (dim l.lr.size 0) (l.lr.cover.w - x0), min (dim l.lr.size 1) (l.lr.cover.h - y0), indexIn l.lr.grid wgid 2⟩

/-- The points of a tile by row, then by column. -/
def tilePoints (t : Tile) : List (Nat × Nat) :=
  (List.range t.h).flatMap fun y => (List.range t.w).map fun x => (x, y)

def keptPoints (w : Word) (t : Tile) : List (Nat × Nat) := (tilePoints t).filter fun p => rungKeeps w p.1 p.2
def skippedPoints (w : Word) (t : Tile) : List (Nat × Nat) := (tilePoints t).filter fun p => !rungKeeps w p.1 p.2

/-- The local point of a thread of a laddered workgroup: a kept point, or the sample of an assay thread. -/
def localPoint (l : Launch) (g : Workgroup) (t : Thread) : Option (Nat × Nat) :=
  if t.fl.assay then (g.cover.samples.find? fun x => decide (x.tid = t.tid)).map fun x => (x.x, x.y)
  else (keptPoints (rungOf l g) (tileOf l g.wgid))[t.tid]?

/-! ### Source sets (R335) -/

/-- Kept points with their weights. -/
abbrev Sources := List ((Nat × Nat) × Rat)

/-- The kept points of local row k·c around x. -/
def rowSet (L : Lattice) (tw k x : Nat) : Sources :=
  let y := k * L.c
  let s := L.b * k % L.a
  if L.a = 1 then [((x, y), 1)]
  else
    let d := (x + L.a - s) % L.a
    let xl : Int := (x : Int) - d
    let a : Rat := L.a
    let at_ := fun (z : Int) (q : Rat) => ((z.toNat, y), q)
    if d = 0 then [at_ xl 1]
    else
      let xr := xl + L.a
      if 0 ≤ xl ∧ xr < tw then [at_ xl ((a - d) / a), at_ xr (d / a)]
      else if 0 ≤ xl then
        if 0 ≤ xl - L.a then [at_ xl ((a + d) / a), at_ (xl - L.a) (-(d / a))] else [at_ xl 1]
      else if xr < tw then
        let e : Rat := ((xr - x : Int) : Rat)
        if xr + L.a < tw then [at_ xr ((a + e) / a), at_ (xr + L.a) (-(e / a))] else [at_ xr 1]
      else []

/-- Scale a set. -/
def scaleSources (u : Rat) (xs : Sources) : Sources := xs.map fun x => (x.1, u * x.2)

/-- Add two sets; the weights of a point named twice are added. -/
def addSources (xs ys : Sources) : Sources :=
  ys.foldl (fun acc y =>
    if acc.any fun x => decide (x.1 = y.1) then acc.map fun x => if x.1 = y.1 then (x.1, x.2 + y.2) else x
    else acc ++ [y]) xs

/-- The set of a skipped point of one lattice. -/
def sourceSet (L : Lattice) (t : Tile) (x y : Nat) : Sources :=
  let k := y / L.c
  let r := y % L.c
  let c : Rat := L.c
  let join := fun (u v : Rat) (p q : Sources) =>
    if p.isEmpty then q else if q.isEmpty then p else addSources (scaleSources u p) (scaleSources v q)
  if r = 0 then rowSet L t.w k x
  else if (k + 1) * L.c < t.h then join ((c - r) / c) (r / c) (rowSet L t.w k x) (rowSet L t.w (k + 1) x)
  else if 1 ≤ k then join ((c + r) / c) (-(r / c)) (rowSet L t.w k x) (rowSet L t.w (k - 1) x)
  else rowSet L t.w k x

/-- The set of a skipped point of a rung: half of each lattice's set for a union. -/
def sourcesOf (w : Word) (t : Tile) (x y : Nat) : Sources :=
  match rungLattices w with
  | [L] => sourceSet L t x y
  | [L, M] =>
    let p := sourceSet L t x y
    let q := sourceSet M t x y
    if p.isEmpty then q else if q.isEmpty then p else addSources (scaleSources (1 / 2) p) (scaleSources (1 / 2) q)
  | _ => []

/-! ### The output map (R334) -/

/-- Address of the element of a local point, or of its BFP block. -/
def pointAddr (l : Launch) (t : Tile) (x y : Nat) : Nat :=
  let f := coverSlot l
  let c := l.lr.cover
  let px := t.x0 + x
  c.obase + (t.layer * c.h + (t.y0 + y)) * c.rstr +
    (if f.kind = 5 then px / 32 * elementBytes f else px * elementBytes f)

/-- The values of the BFP block of a point. -/
def blockAt (s : State) (g : Workgroup) (l : Launch) (t : Tile) (x y : Nat) : List XVal :=
  let f := coverSlot l
  let bs := vreadSplit s g.ctx (pointAddr l t x y) (elementBytes f)
  blockValues (natAt bs 0 (4 * f.m)) (natAt bs (4 * f.m) 4) f.m

/-- The value of a point in memory. -/
def pointValue (s : State) (g : Workgroup) (l : Launch) (t : Tile) (x y : Nat) : XVal :=
  let f := coverSlot l
  if f.kind = 5 then ((blockAt s g l t x y)[(t.x0 + x) % 32]?).getD posZero
  else decodeKind f.kind (ofBytes (vreadSplit s g.ctx (pointAddr l t x y) (elementBytes f)))

/-! ### Reconstruction (R336 to R339) -/

/-- weight × value. -/
def weighted (p : Rat × XVal) : XVal :=
  match p.2 with
  | .nan => .nan
  | .inf neg => if p.1 = 0 then .nan else .inf (xor neg (decide (p.1 < 0)))
  | .fin neg m e => .fin (xor neg (decide (p.1 < 0))) m e

/-- The exact sum of weight × value, rounded to FP32; NaN for a NaN or infinities of both signs. A zero sum is -0 only
when every product is -0, as in R68 (log 41). -/
def blend (ps : List (Rat × XVal)) : XVal :=
  let zs := ps.map weighted
  if zs.any isNan || (zs.any (fun z => decide (z = .inf false)) && zs.any fun z => decide (z = .inf true)) then .nan
  else
    match zs.find? isInf with
    | some z => z
    | none =>
      let lo := ps.foldl (fun n p => match p.2 with | .fin _ _ e => min n e | _ => n) 0
      let sum : Rat := ps.foldl (fun acc p => match p.2 with | .fin neg m e => acc + p.1 * scaled neg m e lo | _ => acc) 0
      if sum = 0 then .fin (!zs.isEmpty && zs.all fun z => isZero z && negOf z) 0 0
      else decodeFp fp32 (roundQ fp32 (decide (sum < 0)) sum.num.natAbs sum.den lo .rn false)

/-- The FP32 value R336 forms for a skipped point; an orphan is +0. -/
def blendAt (s : State) (g : Workgroup) (l : Launch) (t : Tile) (x y : Nat) : XVal :=
  match sourcesOf (rungOf l g) t x y with
  | [] => posZero
  | src => blend (src.map fun p => (p.2, pointValue s g l t p.1.1 p.1.2))

/-- The source nearest to a point: least squared distance, then lower y, then lower x (R337). -/
def nearest (src : Sources) (x y : Nat) : Option (Nat × Nat) :=
  (minByKey (fun (p : Nat × Nat) =>
    ((((p.1 : Int) - x) ^ 2 + ((p.2 : Int) - y) ^ 2).toNat * 65536 + p.2) * 65536 + p.1) (src.map Prod.fst))

/-- The element of a skipped point of a float or integer map, and the NaN replacements it adds (R336, R337). -/
def pointBytes (s : State) (g : Workgroup) (l : Launch) (t : Tile) (x y : Nat) : List Byte × Nat :=
  let f := coverSlot l
  let z := elementBytes f
  let src := sourcesOf (rungOf l g) t x y
  if src.isEmpty then (toBytes z 0, 0)
  else if kindIsInt f.kind then
    match nearest src x y with
    | some p => (vreadSplit s g.ctx (pointAddr l t p.1 p.2) z, 0)
    | none => (toBytes z 0, 0)
  else
    let v := blendAt s g l t x y
    if isNan v then (if f.nanm = 0 then (toBytes z (canonNan (kindFmt f.kind)), 0) else (toBytes z 0, 1))
    else (toBytes z (encodeKind f.kind v .rn f.sat), 0)

/-- The columns of the block that holds a point. -/
def blockColumns (t : Tile) (x : Nat) : List Nat := (List.range 32).map fun i => (t.x0 + x) / 32 * 32 + i - t.x0

/-- The bytes of the block of a point, and its NaN replacements (R338). -/
def blockBytes (s : State) (g : Workgroup) (l : Launch) (t : Tile) (x y : Nat) : List Byte × Nat :=
  let f := coverSlot l
  let old := blockAt s g l t x y
  let vals := (List.range 32).map fun (i : Nat) =>
    let px := (t.x0 + x) / 32 * 32 + i - t.x0
    if rungKeeps (rungOf l g) px y then (old[i]?).getD posZero else blendAt s g l t px y
  let nans := (vals.filter isNan).length
  let clean := if f.nanm = 0 then vals else vals.map fun v => if isNan v then posZero else v
  let b := bfpQuantize clean f.m .rn f.sat
  (toBytes (4 * f.m) (mantFieldOfBlock b f.m) ++ toBytes 4 (scaleOfBlock b), if f.nanm = 0 then 0 else nans)

/-- The skipped points written with a point: itself, or the skipped points of its block. -/
def writtenWith (l : Launch) (g : Workgroup) (t : Tile) (x y : Nat) : List (Nat × Nat) :=
  if (coverSlot l).kind = 5 then
    ((blockColumns t x).filter fun px => !rungKeeps (rungOf l g) px y).map fun px => (px, y)
  else [(x, y)]

/-- Every source of a point is marked (R366). -/
def sourcesMarked (l : Launch) (g : Workgroup) (t : Tile) (x y : Nat) : Bool :=
  (sourcesOf (rungOf l g) t x y).all fun p => g.cover.marks.contains p.1

/-- The unit may write a point now: all marks that R339 asks for, or the workgroup has ended. -/
def reconReady (l : Launch) (g : Workgroup) (t : Tile) (x y : Nat) : Bool :=
  decide (g.phase = .ended) ||
    (((writtenWith l g t x y).all fun p => sourcesMarked l g t p.1 p.2) &&
      (decide ((coverSlot l).kind ≠ 5) ||
        (blockColumns t x).all fun px => !rungKeeps (rungOf l g) px y || g.cover.marks.contains (px, y)))

/-- Count what a write of points adds (R346). -/
def reconCounted (l : Launch) (g : Workgroup) (t : Tile) (pts : List (Nat × Nat)) (rnan : Nat) (c : LaunchCounts) :
    LaunchCounts :=
  let late := if g.phase = .ended then (pts.filter fun p => !sourcesMarked l g t p.1 p.2).length else 0
  let orphan := (pts.filter fun p => (sourcesOf (rungOf l g) t p.1 p.2).isEmpty).length
  { c with
    recon := satAdd32 c.recon pts.length
    late := satAdd32 c.late late
    orphan := satAdd32 c.orphan orphan
    rnan := satAdd32 c.rnan rnan }

/-- The points whose values the unit reads for a point or its block (R335, R337, R338). -/
def reconReads (l : Launch) (g : Workgroup) (t : Tile) (x y : Nat) : List (Nat × Nat) :=
  let f := coverSlot l
  let src := sourcesOf (rungOf l g) t x y
  if kindIsInt f.kind then (nearest src x y).toList
  else
    (writtenWith l g t x y).flatMap (fun p => (sourcesOf (rungOf l g) t p.1 p.2).map Prod.fst) ++
      (if f.kind = 5 then ((blockColumns t x).filter fun px => rungKeeps (rungOf l g) px y).map fun px => (px, y) else [])

/-- Poisoned units among the elements of points (R350, R441). -/
def elementUnits (s : State) (l : Launch) (g : Workgroup) (t : Tile) (ps : List (Nat × Nat)) : List Nat :=
  dedup (ps.flatMap fun p => (List.range (elementBytes (coverSlot l))).flatMap fun i =>
    match translate s g.ctx (pointAddr l t p.1 p.2 + i) with
    | some pa => poisoned s pa 1
    | none => [])

/-- What the unit forms for a point or its block from memory as it stands: +0 or the zero block where a value it reads is
lost (R350). -/
def reconValue (s : State) (l : Launch) (g : Workgroup) (x y : Nat) : ReconValue :=
  let t := tileOf l g.wgid
  let f := coverSlot l
  let us := elementUnits s l g t (reconReads l g t x y)
  let r := if !us.isEmpty then (List.replicate (elementBytes f) 0, 0)
    else if f.kind = 5 then blockBytes s g l t x y else pointBytes s g l t x y
  ⟨x, y, r.1, r.2, us⟩

/-- The value formed for a point at the end of its workgroup, if one was (R339). -/
def atEndOf (l : Launch) (g : Workgroup) (x y : Nat) : Option ReconValue :=
  g.cover.atEnd.find? fun v => (writtenWith l g (tileOf l g.wgid) x y).contains (v.x, v.y)

/-- Write the element or block of a point; `zero` writes +0 or the zero block instead (R350). A sample of the point keeps
what was written (R342). -/
def reconWrite (s : State) (l : Launch) (g : Workgroup) (x y : Nat) (zero : Bool) : State :=
  let t := tileOf l g.wgid
  let v := (atEndOf l g x y).getD (reconValue s l g x y)
  let bytes := if zero then List.replicate (elementBytes (coverSlot l)) 0 else v.bytes
  let pts := writtenWith l g t x y
  let s0 := foldList (fun s u => uncorrectable s (some l.id) (unitPlace s g.ctx u) 0xFFFFFFFF) s v.units
  let s1 := vwriteSplit s0 g.ctx (pointAddr l t x y) bytes
  let s2 := updWg s1 g.id fun g => { g with cover := { g.cover with
    written := g.cover.written ++ pts
    samples := g.cover.samples.map fun z => if pts.contains (z.x, z.y) then { z with element := some bytes } else z } }
  updLaunch s2 l.id fun l' => { l' with counts := reconCounted l g t pts (if zero then 0 else v.rnan) l'.counts }

/-- A skipped point of a laddered workgroup, not written yet: those of a killed workgroup, and all after an abort, stay as
they are (R339). -/
def reconOpen (l : Launch) (g : Workgroup) (x y : Nat) : Bool :=
  !l.full && !g.cover.dead && decide (l.killed ≠ some 1) &&
    (skippedPoints (rungOf l g) (tileOf l g.wgid)).contains (x, y) && !g.cover.written.contains (x, y)

/-- The first of some addresses whose page is missing, with the precedence of R413 for those before it. -/
def reachPoints (s : State) (ctx : Nat) : List Nat → State × Option Nat
  | [] => (s, none)
  | a :: rest =>
    let r := resolve s ctx a
    match r.2 with
    | .missing _ => (r.1, some a)
    | _ => reachPoints r.1 ctx rest

/-- The first and last bytes of the elements of points. -/
def pointEnds (l : Launch) (t : Tile) (ps : List (Nat × Nat)) : List Nat :=
  ps.flatMap fun p => [pointAddr l t p.1 p.2, pointAddr l t p.1 p.2 + elementBytes (coverSlot l) - 1]

/-- The points a write touches: those written, and, where their values are still to be read, those read. -/
def reconTouches (l : Launch) (g : Workgroup) (t : Tile) (x y : Nat) : List (Nat × Nat) :=
  writtenWith l g t x y ++ (if (atEndOf l g x y).isSome then [] else reconReads l g t x y)

/-- The end of a workgroup: what its unwritten points take is formed from memory as it stands. A point some page of which
is missing is formed once the page is there (R339). -/
def captureEnd (s : State) (l : Launch) (g : Workgroup) : State :=
  let t := tileOf l g.wgid
  let here := fun (a : Nat) => match lookup s g.ctx a with | .missing _ => false | _ => true
  let vs := (if l.full then [] else skippedPoints (rungOf l g) t).foldl (fun acc p =>
    if reconOpen l g p.1 p.2 && !(acc.any fun (v : ReconValue) => (writtenWith l g t p.1 p.2).contains (v.x, v.y)) &&
        (pointEnds l t (reconReads l g t p.1 p.2)).all here then acc ++ [reconValue s l g p.1 p.2]
    else acc) []
  updWg s g.id fun g => { g with cover := { g.cover with atEnd := vs } }

/-- The unit may write points of a workgroup: neither it nor its context is stopped or in an image (R422). -/
def reconGoes (s : State) (g : Workgroup) : Bool :=
  decide (g.stop = .none) && !decide (g.phase = .imaged) &&
    match findCtx s g.ctx with
    | some c => decide (c.stop = .none) && c.image.isNone
    | none => true

/-- RECON_POINT_WRITE (R339): the unit stops at a stop (R422) and waits for a missing page. -/
def execReconPointWrite (wg x y : Nat) (s : State) : Host.Outcome State Fault Refusal :=
  match findWg s wg, (findWg s wg).bind fun g => findLaunch s g.launch with
  | some g, some l =>
    let t := tileOf l g.wgid
    if reconOpen l g x y && reconReady l g t x y && reconGoes s g then
      let r := reachPoints s g.ctx (pointEnds l t (reconTouches l g t x y))
      match r.2 with
      | some va => .next (requestPage r.1 g.ctx g.home.cluster va false)
      | none => .next (reconWrite r.1 l g x y false)
    else .next s
  | _, _ => .next s

/-! ### Samples and update instants (R340 to R343) -/

/-- |r - q| for finite values as a fraction; none for +∞. -/
def sampleDiff (r q : XVal) : Option (Int × Nat) :=
  match r, q with
  | .fin n1 m1 e1, .fin n2 m2 e2 =>
    let lo := min (min e1 e2) 0
    let d := scaled n1 m1 e1 lo - scaled n2 m2 e2 lo
    some ((d.natAbs : Int), pow2 (-lo))
  | _, _ => none

/-- max(|q|, 2^-126) as a fraction. -/
def sampleScale (q : XVal) : Int × Nat :=
  match q with
  | .fin _ m e =>
    let lo := min e (-126)
    let n := max (m * pow2 (e - lo)) (pow2 (-126 - lo))
    ((n : Int), pow2 (-lo))
  | _ => (1, 1)

/-- The error of one sample by METRIC. -/
def sampleError (mean : Bool) (r q : XVal) : Option (Int × Nat) :=
  match sampleDiff r q with
  | none => none
  | some d => if mean then
      let k := sampleScale q
      some (d.1 * k.2, d.2 * k.1.toNat)
    else some d

/-- The due instants of a launch: one a multiple of 2^U counted workgroups, and one for the last (R343). -/
def instantsDue (l : Launch) : Nat :=
  let u := 2 ^ field (coverControl l) 19 15
  let total := dim l.lr.grid 0 * dim l.lr.grid 1 * dim l.lr.grid 2
  l.counted / u + (if l.counted = total ∧ l.counted % u ≠ 0 then 1 else 0)

/-- An ended workgroup counts once its samples are compared or dropped; while an instant is due, counting waits for it.
Its home becomes free at once where its count causes no instant (R343, R365). -/
def countWg (s : State) (wg : Nat) : State :=
  match findWg s wg, (findWg s wg).bind fun g => findLaunch s g.launch with
  | some g, some l =>
    if l.full || g.cover.counted || !decide (g.phase = .ended) || !(g.cover.samples.all fun x => x.done || x.dropped) ||
        decide (l.instants < instantsDue l) then s
    else
      let l1 := { l with
        counted := l.counted + 1
        samples := l.samples ++ (g.cover.samples.filterMap fun x => x.error) }
      let free := decide (l1.instants = instantsDue l1)
      updWg (updLaunch s l.id fun _ => l1) wg fun g => { g with cover := { g.cover with counted := true, freed := free } }
  | _, _ => s

/-- Count every workgroup of a launch that can count. -/
def countAll (s : State) (launch : Nat) : State :=
  foldList (fun s g => if g.launch = launch then countWg s g.id else s) s s.wgs

/-- The value of a point in the bytes of its element, or of its BFP block. -/
def elementValue (l : Launch) (t : Tile) (x : Nat) (bs : List Byte) : XVal :=
  let f := coverSlot l
  if f.kind = 5 then ((blockValues (natAt bs 0 (4 * f.m)) (natAt bs (4 * f.m) 4) f.m)[(t.x0 + x) % 32]?).getD posZero
  else decodeKind f.kind (ofBytes bs)

/-- SAMPLE_COMPARE (R342): the element the unit wrote against the thread's value. -/
def execSampleCompare (wg i : Nat) (s : State) : Host.Outcome State Fault Refusal :=
  match findWg s wg, (findWg s wg).bind fun g => findLaunch s g.launch with
  | some g, some l =>
    match g.cover.samples[i]? with
    | some x =>
      match x.value with
      | some q =>
        match x.element, x.done || x.dropped with
        | some bs, false =>
          let r := elementValue l (tileOf l g.wgid) x.x bs
          let e := sampleError (decide (field (coverControl l) 8 8 = 1)) r (decodeFp fp32 q.toNat)
          let samples := listSet g.cover.samples i { x with error := some e, done := true }
          let s1 := updWg s wg fun g => { g with cover := { g.cover with samples := samples } }
          let s2 := updLaunch s1 l.id fun l => { l with counts := { l.counts with samples := satAdd32 l.counts.samples 1 } }
          .next (countWg s2 wg)
        | _, _ => .next s
      | none => .next s
    | none => .next s
  | _, _ => .next s

/-- The error of an update, rounded once to FP32. -/
def updateError (mean : Bool) (xs : List (Option (Int × Nat))) : Nat :=
  if xs.isEmpty then 0
  else if xs.any Option.isNone then infCode fp32
  else
    let qs : List Rat := xs.filterMap fun x => x.map fun p => (p.1 : Rat) / (p.2 : Rat)
    let v := if mean then qs.foldl (· + ·) 0 / (qs.length : Rat) else qs.foldl max 0
    if v = 0 then 0 else roundQ fp32 false v.num.natAbs v.den 0 .rn false

/-- One instant: at most one step of the rung. -/
def makeInstant (l : Launch) : Launch :=
  let e := decodeFp fp32 (updateError (decide (field (coverControl l) 8 8 = 1)) l.samples)
  let hi := decodeFp fp32 l.lr.cover.high.toNat
  let lo := decodeFp fp32 l.lr.cover.low.toNat
  let up := ltX hi e
  let down := !up && ltX e lo
  let rung := if up then l.rung - 1 else if down then min (l.rung + 1) l.imax else l.rung
  { l with
    instants := l.instants + 1
    samples := []
    rung := rung
    counts := { l.counts with
      up := satAdd32 l.counts.up (if rung < l.rung then 1 else 0)
      down := satAdd32 l.counts.down (if l.rung < rung then 1 else 0) } }

/-- The homes that wait for a launch's instant. -/
def heldHomes (s : State) (launch : Nat) : List Home :=
  (s.wgs.filter fun g => decide (g.launch = launch) && g.cover.counted && !g.cover.freed).map Workgroup.home

/-- The cycle of an instant is noted, with the rung from before that cycle's first one, and the homes it frees (R333). -/
def noteInstant (s : State) (l : Launch) : Option (Nat × Nat × List Home) :=
  match l.instantAt with
  | some (at_, before, freed) =>
    if at_ = s.clock then some (at_, before, freed ++ heldHomes s l.id) else some (s.clock, l.rung, heldHomes s l.id)
  | none => some (s.clock, l.rung, heldHomes s l.id)

/-- UPDATE_INSTANT: the instant is made, the home behind it is free, and counting goes on; one that was due before a kill is made
too (R343). -/
def execUpdateInstant (launch : Nat) (s : State) : Host.Outcome State Fault Refusal :=
  match findLaunch s launch with
  | none => .next s
  | some l =>
    if l.full || !decide (l.instants < instantsDue l) then .next s
    else
      let s1 := updLaunch s launch fun l => { makeInstant l with instantAt := noteInstant s l }
      let s2 := updWgs s1 (fun g => decide (g.launch = launch) && g.cover.counted) fun g =>
        { g with cover := { g.cover with freed := true } }
      .next (countAll s2 launch)

/-- The samples of an assay workgroup (R340, R341): its interval, the tile's skipped points, and how many. -/
def chooseSamples (seed : Word) (interval count : Nat) (points : List (Nat × Nat)) (firstTid : Nat) : List Sample :=
  let n := points.length
  let pick := fun (used : List Nat) (j : Nat) =>
    ((List.range n).map fun k => (j + k) % n).find? fun k => !used.contains k
  let st0 := seed.toNat ^^^ (interval * 0x9E3779B9 % 2 ^ 32)
  let r := (List.range count).foldl (fun (acc : Nat × List Nat) _ =>
    let st := (acc.1 * 1664525 + 1013904223) % 2 ^ 32
    match pick acc.2 (st * n / 2 ^ 32) with
    | some j => (st, acc.2 ++ [j])
    | none => (st, acc.2)) (st0, [])
  (List.range r.2.length).filterMap fun (i : Nat) =>
    match r.2[i]? with
    | some j => (points[j]?).map fun p => ⟨firstTid + i, p.1, p.2, none, none, false, false, none⟩
    | none => none

/-! ### Acceptance of a coverage block (R329, R344, R345) -/

/-- A rung word meets R327 and R328. -/
def rungValid (w : Word) : Bool :=
  let a := rungFirst w
  let b := rungSecond w
  let second := field w.toNat 26 15
  let code := rungCode w
  decide (field w.toNat 31 27 = 0) &&
    (match code with
      | 0 => decide (field w.toNat 26 3 = 0)
      | 1 => decide (second = 0) && decide (field w.toNat 10 3 = 0) && decide (a.c ≠ 1)
      | 2 => decide (field w.toNat 26 3 = 0)
      | 3 => decide (second = 0) && decide (a.b < a.a) && decide (a.a * a.c ≠ 1)
      | 4 => decide (a.b < a.a) && decide (b.b < b.a) && fracLe (keptFraction w) (3, 4)
      | _ => false)

/-- Rungs 0 to NRUNG - 1. -/
def usedRungs (c : CoverBlock) : List Word := c.rungs.take (field c.control.toNat 3 0)

/-- No kept fraction rises from rung to rung. -/
def fractionsFall : List Word → Bool
  | [] => true
  | [_] => true
  | x :: y :: t => fracLe (keptFraction y) (keptFraction x) && fractionsFall (y :: t)

/-- An edge of the error band: not NaN, not below zero. -/
def bandEdge (w : Word) : Bool :=
  let v := decodeFp fp32 w.toNat
  !isNan v && !(negOf v && !isZero v)

/-- The block of a laddered launch passes R329. -/
def coverValid (l : Launch) : Bool :=
  let c := l.lr.cover
  let f := coverSlot l
  let n := coverNrung l
  decide (n ≤ 8) && decide (field (coverControl l) 6 4 < n) && decide (field (coverControl l) 19 15 ≤ 20) &&
    decide (field (coverControl l) 31 23 = 0) && ((usedRungs c).all rungValid) && fractionsFall (usedRungs c) &&
    bandEdge c.low && bandEdge c.high && !(ltX (decodeFp fp32 c.high.toNat) (decodeFp fp32 c.low.toNat)) &&
    decide (c.w ≠ 0) && decide (c.h ≠ 0) &&
    decide ((if f.kind = 5 then c.w / 32 * elementBytes f else c.w * elementBytes f) ≤ c.rstr) &&
    decide (dim l.lr.size 2 = 1) && decide (field l.lr.roles.toNat 15 0 = 0) &&
    decide (f.kind ≠ 7) && decide (f.spn = 0) &&
    !(decide (f.kind = 5) && (f.plc || !decide (c.w % 32 = 0) || !decide (dim l.lr.size 0 % 32 = 0)))

/-- The launch has a ladder, before the charter's minimum is applied (R329). -/
def hasLadder (l : Launch) (k : KernelDecl) : Bool :=
  k.coverage && !l.lr.flags.getLsbD 1 && decide (1 ≤ coverNrung l)

/-- imax: the largest rung whose kept fraction is at least the charter's minimum, in units of 2^-16; none when rung 0 is
below it (R345). -/
def imaxOf (l : Launch) (mincov : Nat) : Option Nat :=
  ((List.range (coverNrung l)).filter fun i =>
    fracLe (mincov, 65536) (keptFraction ((l.lr.cover.rungs[i]?).getD 0))).getLast?

/-- The ladder tag (R344). -/
def ladderTag (c : CoverBlock) : Nat :=
  (usedRungs c).foldl (fun n w => n ^^^ field w.toNat 31 16 ^^^ field w.toNat 15 0) 0

/-- The starting rung, before it is clamped to imax (R344). -/
def startRung (l : Launch) (word : Word) : Nat :=
  if field (coverControl l) 7 7 = 1 ∧ word.getLsbD 3 = true ∧ field word.toNat 31 16 = ladderTag l.lr.cover then
    field word.toNat 2 0
  else field (coverControl l) 6 4

end Sys2Proof.Machine
end

