-- ==== Sys2Proof/Machine/Work.lean ====
section
/-! DEFINITION. Meanings of the work and coverage instructions: lnch, post, wkpt, rcmark, assay (R236 to R242). -/
namespace Sys2Proof.Machine

/-! ### lnch (R236 to R238, R386) -/

/-- The packet in its bytes (R237). -/
def packetOf (bs : List Byte) : Packet where
  head := wordIn bs 0
  word1 := wordIn bs 4
  record := natAt bs 8 8
  tag := BitVec.ofNat 64 (natAt bs 0x10 8)
  rest := BitVec.ofNat 64 (natAt bs 0x18 8)

/-- Fields of a packet. -/
def Packet.type (p : Packet) : Nat := field p.head.toNat 7 0
def Packet.irq (p : Packet) : Bool := p.head.getLsbD 8
def Packet.ordered (p : Packet) : Bool := p.head.getLsbD 9

/-- A packet meets R237. -/
def Packet.valid (p : Packet) : Bool :=
  decide (p.type = 1) && decide (field p.head.toNat 31 10 = 0) && decide (p.word1 = 0) && decide (p.record % 64 = 0) &&
    decide (p.rest = 0)

/-- A packet's bytes. -/
def Packet.bytes (p : Packet) : List Byte :=
  toBytes 4 p.head.toNat ++ toBytes 4 p.word1.toNat ++ toBytes 8 p.record ++ toBytes 8 p.tag.toNat ++ toBytes 8 p.rest.toNat

/-- Fields of a queue's configuration word (R370). -/
def QueueConf.kind (c : QueueConf) : Nat := field c.conf.toNat 7 6
def QueueConf.plog (c : QueueConf) : Nat := field c.conf.toNat 19 16
def QueueConf.hlog (c : QueueConf) : Nat := field c.conf.toNat 23 20
def QueueConf.cls (c : QueueConf) : Nat := field c.conf.toNat 5 4
def QueueConf.qnum (c : QueueConf) : Nat := field c.conf.toNat 15 8

/-- A device-side queue of a context. -/
def deviceQueue (s : State) (ctx q : Nat) : Option Queue :=
  s.queues.find? fun x => decide (x.ctx = ctx) && decide (x.num = q) && x.bound && decide (x.conf.kind = 1)

/-- Packets that launches of a context hold for a queue. -/
def heldFor (s : State) (ctx q : Nat) : Nat :=
  sumNat ((s.launches.filter fun l => decide (l.ctx = ctx)).map fun l =>
    (l.heldPackets.filter fun p => decide (p.1 = q)).length)

/-- A queue takes no more held packets (R386). -/
def deviceQueueFull (s : State) (ctx : Nat) (q : Queue) : Bool :=
  decide (2 ^ q.conf.plog ≤ heldFor s ctx q.num + (q.tail + 2 ^ 32 - q.head) % 2 ^ 32)

/-- What a thread's lnch works with: where its packet lies, the queue, the destination, its word. -/
structure LnchSpec where
  addr : Thread → Nat
  q : Nat
  dst : BitVec 6
  word : BitVec 32

/-- Steps 1 to 3 of R188 for the packet. -/
def LnchSpec.ok (x : LnchSpec) (s : State) (t : Thread) : Bool :=
  match envOf s t with
  | some (l, g) => accessOk s l g .glb (x.addr t) 32 true false
  | none => false

/-- The message that brings the packet. -/
def lnchReq (s : State) (t : Thread) : Option Req :=
  (ownReqs s t).find? fun r => match r.kind with | .packet _ _ => true | _ => false

/-- The address to probe while nothing has been sent. -/
def LnchSpec.probed (x : LnchSpec) (s : State) (t : Thread) : List Nat :=
  if x.ok s t && (lnchReq s t).isNone then [x.addr t] else []

/-- Before the read, the dirty sectors of the packet are written back; the thread is parked until the packet is here. -/
def LnchSpec.send (x : LnchSpec) (s : State) (t : Thread) : State :=
  if (lnchReq s t).isSome || !x.ok s t then s
  else
    match findWg s t.wg with
    | none => s
    | some g =>
      match probeAt s g.home.cluster (asidOf s g.ctx) (x.addr t) with
      | .ok pa true _ =>
        let s1 := match aliasAt s g.home pa with
          | some l => (writeBackSectors s (fun i => decide (i / 2 = pa % 128 / 32)) l g.ctx g.id noThread).1
          | none => s
        let id := s1.nextId
        updThread (sendCounted s1 (plainReq g.home g.ctx t.wg t.tid (x.addr t) pa (.packet x.q x.dst))) t.wg t.tid
          fun t => { t with waits := t.waits ++ [id] }
      | _ => s

/-- Append a packet: 2 no such queue, 3 an invalid packet, 1 full, 0 accepted and held until the launch ends. The order
of these checks is the model's (log 42). -/
def lnchAppend (s : State) (launch ctx q : Nat) (p : Packet) : State × Word :=
  match deviceQueue s ctx q with
  | none => (s, 2)
  | some y =>
    if !p.valid then (s, 3)
    else if deviceQueueFull s ctx y then (s, 1)
    else (updLaunch s launch fun l => { l with heldPackets := l.heldPackets ++ [(q, p)] }, 0)

/-- lnch of one thread, once its packet is here. -/
def LnchSpec.thread (x : LnchSpec) (s : State) (t : Thread) : State × Thread × Fate :=
  match lnchReq s t with
  | some r =>
    let s1 := dropReq s r.id
    match r.stage with
    | .taken bs =>
      let y := lnchAppend s1 t.launch (ctxOfWg s t.wg) x.q (packetOf bs)
      (y.1, setV t x.dst y.2, .next)
    | _ => (s1, t, .next)
  | none =>
    if !x.ok s t then (s, t, accessTrap (x.addr t))
    else
      match findWg s t.wg with
      | none => (s, t, .next)
      | some g =>
        match probeAt s g.home.cluster (asidOf s g.ctx) (x.addr t) with
        | .missing => (s, t, .logged ⟨x.word, t.pc, BitVec.ofNat 64 (x.addr t), []⟩)
        | _ => (s, t, accessTrap (x.addr t))

/-- A lnch as its registers give it. -/
def lnchSpec (x : Lnch) : LnchSpec := ⟨fun t => (getV2 t x.a).toNat, x.q.toNat, x.d, wordOf (.lnch x)⟩

/-- lnch: permitted to every role (R271). -/
def execLnch (x : Lnch) (s : State) : Host.Outcome State Fault Refusal :=
  match (actives s).head?.bind (envOf s) with
  | none => .next s
  | some (_, g) =>
    let y := lnchSpec x
    let vas := (actives s).flatMap (y.probed s)
    match probeGang s g.home g.ctx vas with
    | some s' => .next s'
    | none =>
      let s1 := foldList y.send s (actives s)
      if (actives s1).any fun t => !t.waits.isEmpty then .next s1
      else
        match perThread (.lnch x) x.m.sw y.thread s1 with
        | .next s2 => .next (useWalks s2 g.home.cluster (asidOf s g.ctx) vas)
        | o => o

/-! ### post (R239) -/

/-- The result word's address of a thread's launch. -/
def resultAddr (s : State) (t : Thread) : Nat :=
  match findLaunch s t.launch with
  | some l => l.lr.result
  | none => 0

/-- post of one thread: an atomic on the result word at its home slice. -/
def postAt (word : BitVec 32) (mode : Nat) (operand : List Byte) (s : State) (t : Thread) : State × Thread × Fate :=
  match envOf s t with
  | none => (s, t, .next)
  | some (l, g) =>
    if l.lr.result = 0 then (s, t, engineTrap 0 1 12)
    else if !accessOk s l g .glb l.lr.result 8 true true then (s, t, accessTrap l.lr.result)
    else match probeAccess s g l.lr.result true true ⟨word, t.pc, BitVec.ofNat 64 l.lr.result, operand⟩ with
      | .error f => (deniedStore s g l.lr.result, t, f)
      | .ok pa =>
        (sendCounted (sectorOut s g t.tid l.lr.result pa)
          (plainReq g.home g.ctx t.wg t.tid l.lr.result pa (.post mode operand)), t, .next)

/-- A post of a gang. -/
def postGang (i : Instr) (x : R1) (mode : Nat) (s : State) : Host.Outcome State Fault Refusal :=
  probedGang i x.m.sw anyRole
    (fun s t => if resultAddr s t = 0 then [] else probedAddr .glb (resultAddr s t) 8 true true s t)
    (fun s t => postAt (wordOf i) mode (toBytes 8 (getV2 t x.r).toNat) s t) s

/-- post. -/
def execPost (x : R1) (s : State) : Host.Outcome State Fault Refusal := postGang (.post x) x 0 s

/-- post.or. -/
def execPostOr (x : R1) (s : State) : Host.Outcome State Fault Refusal := postGang (.postOr x) x 1 s

/-- post.maxz. -/
def execPostMaxz (x : R1) (s : State) : Host.Outcome State Fault Refusal := postGang (.postMaxz x) x 2 s

/-! ### wkpt, rcmark and assay (R240 to R242) -/

/-- Map coordinates of a thread's point (R331, R332). -/
def mapPoint (s : State) (t : Thread) : Nat × Nat :=
  match envOf s t with
  | none => (0, 0)
  | some (l, g) =>
    let tile := tileOf l g.wgid
    if l.full then (tile.x0 + indexIn l.lr.size t.tid 0, tile.y0 + indexIn l.lr.size t.tid 1)
    else
      match localPoint l g t with
      | some p => (tile.x0 + p.1, tile.y0 + p.2)
      | none => (tile.x0, tile.y0)

/-- wkpt. -/
def execWkpt (x : R1) (s : State) : Host.Outcome State Fault Refusal :=
  perThread (.wkpt x) x.m.sw (withRole onlyVector fun s t =>
    let p := mapPoint s t
    (s, setV (setV t x.r (BitVec.ofNat 32 p.1)) (x.r + 1) (BitVec.ofNat 32 p.2), .next)) s

/-- A line that starts at an address overlaps the output map. -/
def inMap (l : Launch) (a : Nat) : Bool :=
  let c := l.lr.cover
  decide (a < c.obase + dim l.lr.grid 2 * c.h * c.rstr) && decide (c.obase < a + 128)

/-- Lines of the output map in a workgroup's L1. -/
def mapLines (s : State) (l : Launch) (g : Workgroup) : List L1Line :=
  (homeLines s g.home).filter fun x => decide (x.asid = asidOf s g.ctx) && lineIn s g.ctx (inMap l) x

/-- A mark that counts: a kept point of a laddered launch, once (R241, R345). -/
def markPoint (s : State) (t : Thread) : State :=
  match envOf s t with
  | none => s
  | some (l, g) =>
    if l.full || t.fl.assay then s
    else
      match localPoint l g t with
      | some p =>
        if g.cover.marks.contains p then s
        else updWg s g.id fun g => { g with cover := { g.cover with marks := g.cover.marks ++ [p] } }
      | none => s

/-- The kernel of a launch is marked `.coverage`. -/
def coverageKernel (s : State) (launch : Nat) : Bool :=
  match kernelOf s launch with
  | some k => k.coverage
  | none => false

/-- The write-backs of a thread's rcmark. -/
def rcmarkSend (s : State) (t : Thread) : State :=
  match envOf s t with
  | none => s
  | some (l, g) =>
    if !coverageKernel s t.launch then s
    else
      let before := homeWrites s g (inMap l)
      let r := overLines (fun s x => writeBackLine s x g.ctx g.id t.tid) s (mapLines s l g)
      updThread r.1 t.wg t.tid fun t => { t with waits := t.waits ++ before ++ r.2 }

/-- rcmark: the write-backs first, then, when they are performed, the marks. -/
def execRcmark (x : M0) (s : State) : Host.Outcome State Fault Refusal :=
  let s1 := foldList rcmarkSend s ((actives s).filter fun t => onlyVector t.role)
  if (actives s1).any fun t => !t.waits.isEmpty then .next s1
  else perThread (.rcmark x) x.m.sw (withRole onlyVector fun s t => (markPoint s t, t, .next)) s1

/-- The computed value of an assay thread goes to the assayer. -/
def assaySend (s : State) (t : Thread) (v : Word) : State :=
  updWg s t.wg fun g => { g with cover := { g.cover with
    samples := g.cover.samples.map fun x => if x.tid = t.tid then { x with value := some v } else x } }

/-- assay: no effect without the ASSAY bit; otherwise the value is sent and the thread ends as at `exit` (R167, R194). -/
def execAssay (x : R1) (s : State) : Host.Outcome State Fault Refusal :=
  perThread (.assay x) x.m.sw (withRole onlyVector fun s t =>
    if t.fl.assay then farCheck (fun s t => (assaySend s t (getV t x.r), leaveTrap t, .exit)) s t
    else (s, t, .next)) s

end Sys2Proof.Machine
end

