-- ==== Sys2Proof/Machine/Segments.lean ====
section
/-! DEFINITION. Steps of the cores: fetch exceptions, the replay of a logged instruction, drawing gangs, draining
records, creating blocks, seat reclaim, and the timers that end waits (R74, R90, R159 to R166, R252 to R270, R347 to
R356). -/
namespace Sys2Proof.Machine

/-! ### Fetch -/

/-- The parcels at a PC, one or two. -/
def parcelsAt (img : ModuleImage) (pc : Nat) : List Parcel :=
  match img.code[pc]?, img.code[pc + 1]? with
  | some p, some q => [p, q]
  | some p, none => [p]
  | none, _ => []

/-- The instruction at a thread's PC and its length, or why there is none (R73, R74, R89). -/
def instrAt (s : State) (t : Thread) : Except DecodeError (Instr × Nat) :=
  match imageOf s t.launch with
  | some img => decode (parcelsAt img t.pc)
  | none => .error .outsideCode

/-- ILLEGAL_ENCODING (R74, R89, R90): the trap of every active thread; the record carries the word. -/
def execIllegalEncoding (w : BitVec 32) (s : State) : Host.Outcome State Fault Refusal :=
  .next (takeTrap s (actives s) 1 0 0 w)

/-! ### Launch settings a core uses -/

/-- The age threshold, 64 · 2^SAGE cycles (R163, R245). -/
def ageOf (l : Launch) : Nat := 64 * 2 ^ field l.lr.flags.toNat 15 12

/-- The barrier timeout, 2^(10 + BTO) cycles (R245, R356). -/
def barTimeout (l : Launch) : Nat := 2 ^ (10 + field l.lr.flags.toNat 20 16)

/-- The age threshold of a thread's launch. -/
def threadAge (s : State) (t : Thread) : Nat :=
  match findLaunch s t.launch with
  | some l => ageOf l
  | none => 64

/-- Cores of a workgroup's home (R249). -/
def coresOf (s : State) (g : Workgroup) : List Nat :=
  homeCores (s.splitRoods.contains (roodOf g.home.cluster)) g.home.side

/-- Workgroups a grid has. -/
def gridTotal (l : Launch) : Nat := dim l.lr.grid 0 * dim l.lr.grid 1 * dim l.lr.grid 2

/-! ### Replay of the operand log (R348, R349) -/

/-- A logged instruction, to be performed with the entry's address and data. -/
structure ReplaySpec where
  probed : State → Thread → List Nat
  send : State → Thread → State
  body : State → Thread → State × Thread × Fate

def replayLoad (e : LogEntry) (k : Access) (dst : BitVec 6) : ReplaySpec :=
  ⟨probedAddr .glb e.addr.toNat k.size true false, fun s _ => s, loadAt e.word true .glb k dst e.addr.toNat⟩

def replayStore (e : LogEntry) : ReplaySpec :=
  ⟨probedAddr .glb e.addr.toNat e.data.length false true, fun s _ => s, storeAt e.word true .glb e.addr.toNat e.data⟩

def replayAtom (e : LogEntry) (x : Atom) (xf : Bool) (op : Nat) : ReplaySpec :=
  ⟨probedAddr .glb e.addr.toNat (if x.x2 then 8 else 4) true true, fun s _ => s,
    atomAt e.word x xf op e.addr.toNat e.data⟩

def replayBar (e : LogEntry) (fn : Nat) (out : Bool) : ReplaySpec :=
  let b : BarSpec := ⟨fn, true, out, fun _ => e.addr.toNat, fun _ => BitVec.ofNat 32 (ofBytes e.data), false⟩
  ⟨b.probed, b.send true, b.thread e.word true⟩

def replayLnch (e : LogEntry) (x : Lnch) : ReplaySpec :=
  let y : LnchSpec := ⟨fun _ => e.addr.toNat, x.q.toNat, x.d, e.word⟩
  ⟨y.probed, y.send, y.thread⟩

def replayPost (e : LogEntry) (mode : Nat) : ReplaySpec :=
  ⟨probedAddr .glb e.addr.toNat 8 true true, fun s _ => s, postAt e.word mode e.data⟩

/-- What a log entry asks for; an entry whose word no instruction enters asks for nothing. -/
def replaySpec (e : LogEntry) : ReplaySpec :=
  match decode32 e.word with
  | .ok (.ld x) => replayLoad e x.k x.t
  | .ok (.ldk x) => replayLoad e x.k x.t
  | .ok (.st _) => replayStore e
  | .ok (.stk _) => replayStore e
  | .ok (.atomAdd x) => replayAtom e x false 0
  | .ok (.atomSub x) => replayAtom e x false 1
  | .ok (.atomMins x) => replayAtom e x false 2
  | .ok (.atomMaxs x) => replayAtom e x false 3
  | .ok (.atomMinz x) => replayAtom e x false 4
  | .ok (.atomMaxz x) => replayAtom e x false 5
  | .ok (.atomAnd x) => replayAtom e x false 6
  | .ok (.atomOr x) => replayAtom e x false 7
  | .ok (.atomxCas x) => replayAtom e x true 0
  | .ok (.atomxXchg x) => replayAtom e x true 1
  | .ok (.atomxIncw x) => replayAtom e x true 2
  | .ok (.atomxDecw x) => replayAtom e x true 3
  | .ok (.atomxFadd x) => replayAtom e x true 4
  | .ok (.atomxFmin x) => replayAtom e x true 5
  | .ok (.atomxFmax x) => replayAtom e x true 6
  | .ok (.atomxXor x) => replayAtom e x true 7
  | .ok (.barInit _) => replayBar e 0 false
  | .ok (.barArr _) => replayBar e 1 false
  | .ok (.barExp x) => replayBar e 3 x.out
  | .ok (.barInval _) => replayBar e 4 false
  | .ok (.lnch x) => replayLnch e x
  | .ok (.post _) => replayPost e 0
  | .ok (.postOr _) => replayPost e 1
  | .ok (.postMaxz _) => replayPost e 2
  | _ => ⟨fun _ _ => [], fun s _ => s, fun s t => (s, t, .next)⟩

/-- The entry a thread still has to replay. -/
def replayDueOf (t : Thread) : Option LogEntry := if t.fl.replay then t.log else none

/-- The log is empty again. -/
def clearLog (t : Thread) : Thread := { t with log := none, fl := { t.fl with replay := false } }

/-- After a replayed instruction with the switch marker the thread parks as after an ordinary issue (R78, R349). -/
def parkReplayed (e : LogEntry) (t : Thread) : Thread :=
  { t with fl := { t.fl with park := (marks e.word).sw && !t.pend.isEmpty } }

/-- The one instruction of a step has been executed once its access is performed (R359). -/
def replayed (t : Thread) : Thread :=
  if t.fl.step then { t with path := { t.path with retired := max t.path.retired 1 } } else t

/-- The replay of one thread: performed, logged again (the segment ends at once; off a safe point, where a trap waits for the
logged access, the thread tries again: log 87), or a trap at the logged instruction that changes no state (R348). -/
def replayThread (s : State) (t : Thread) : State × Thread × Fate :=
  match replayDueOf t with
  | none => (s, t, .next)
  | some e =>
    let r := (replaySpec e).body s t
    match r.2.2 with
    | .next => (r.1, parkReplayed e (clearLog (replayed r.2.1)), .next)
    | .trap c k d => (s, clearLog { t with pc := e.off, path := { t.path with since := 0 } }, .trap c k d)
    | _ => (s, t, if (safeOrdinal s t t.pc).isSome then .block 9 0 false else .next)

/-- The encoding the trap record of a replay carries: the logged one of the lowest seat that trapped. -/
def replayWord (ts : List Thread) (rs : List (Thread × Fate)) : BitVec 32 :=
  match trapped rs with
  | [] => 0
  | t :: _ =>
    match (ts.find? fun u => decide (u.tid = t.tid)).bind replayDueOf with
    | some e => e.word
    | none => 0

/-- The fates of a replay: no PC moves. -/
def applyReplay (ts : List Thread) (s : State) (rs : List (Thread × Fate)) : State :=
  let s1 := foldList (fun s r => setThread s r.1) s rs
  let s2 := match firstTrap rs with
    | some x => takeTrap s1 (trapped rs) x.1 x.2.1 x.2.2 (replayWord ts rs)
    | none => s1
  settleTurn (foldList applyLeaving (traceEnds s2 (blockedWith 9 rs) 9) rs)

/-- LOG_REPLAY (R348, R349): the gang of a slot replays, once, every log that is due. -/
def execLogReplay (k : SlotKey) (s : State) : Host.Outcome State Fault Refusal :=
  let s0 := { s with turn := some k }
  let ts := (actives s0).filter fun t => (replayDueOf t).isSome
  match ts.head?.bind (envOf s0) with
  | none => .next s0
  | some (_, g) =>
    let spec := fun (t : Thread) => (replayDueOf t).map replaySpec
    let vas := ts.flatMap fun t => match spec t with | some x => x.probed s0 t | none => []
    match probeGang s0 g.home g.ctx vas with
    | some s1 => .next s1
    | none =>
      let s1 := foldList (fun s t => match spec t with | some x => x.send s t | none => s) s0 ts
      let ts1 := (actives s1).filter fun t => (replayDueOf t).isSome
      if ts1.any fun t => !t.waits.isEmpty then .next s1
      else
        let r := runThreads replayThread s1 ts1
        .next (useWalks (applyReplay ts1 r.1 r.2) g.home.cluster (asidOf s0 g.ctx) vas)

/-! ### Gang draw (R162, R163, R173, R181) -/

/-- The group of a collective on gN. -/
def collectiveGroup : Instr → Option (BitVec 3)
  | .voteAny x => some x.g
  | .voteAll x => some x.g
  | .voteBallot x => some x.g
  | .voteUeq x => some x.g
  | .shflIdx x => some x.g
  | .shflUp x => some x.g
  | .shflDown x => some x.g
  | .shflXor x => some x.g
  | .gredIadd x => some x.g
  | .gredMins x => some x.g
  | .gredMaxs x => some x.g
  | .gredAnd x => some x.g
  | .gredOr x => some x.g
  | .gredXor x => some x.g
  | .gredFadd x => some x.g
  | .gredFmax x => some x.g
  | .gscanIadd x => some x.g
  | .gscanMins x => some x.g
  | .gscanMaxs x => some x.g
  | .gscanAnd x => some x.g
  | .gscanOr x => some x.g
  | .gscanXor x => some x.g
  | .gscanFadd x => some x.g
  | .gscanFmax x => some x.g
  | _ => none

/-- The group, not g0, of the collective at a thread's PC: its bin is drawn only as a gathering bin (R173). -/
def gatherGroup (s : State) (t : Thread) : Option (BitVec 3) :=
  match instrAt s t with
  | .ok (i, _) => match collectiveGroup i with
    | some n => if n = 0 then none else some n
    | none => none
  | .error _ => none

/-- The threads of a seat bin. -/
def binThreads (s : State) (c : CoreKey) (pc : Nat) : List Thread :=
  (coreThreads s c).filter fun t => decide (t.place = .binned) && decide (t.pc = pc)

/-- A thread's whole subgroup is in its bin; an empty group counts as whole. -/
def wholeInBin (s : State) (n : BitVec 3) (bin : List Thread) (t : Thread) : Bool :=
  decide ((subOf t n).size = 0) ||
    (subgroupMembers s n t).all fun u => bin.any fun v => decide (v.wg = u.wg) && decide (v.tid = u.tid)

/-- Order of subgroups in a gathering bin: increasing BASE, then size, then %tid. -/
def gatherKey (n : BitVec 3) (t : Thread) : Nat :=
  ((subOf t n).base.toNat * 4 + (subOf t n).size.toNat) * 4096 + t.tid

/-- Threads drawn together: its subgroup, or a thread of an empty group alone. -/
def gatherWith (n : BitVec 3) (t u : Thread) : Bool :=
  if (subOf t n).size = 0 then decide (u.tid = t.tid) else sameSubgroup n t u

/-- Whole subgroups in order while they fit. DESIGN CHOICE (log 90): the draw ends at the first one that does not fit, and no
later, smaller one is tried; R173 says neither. -/
def takeWhole (n : BitVec 3) (room : Nat) (ts : List Thread) : Nat → List Thread
  | 0 => []
  | fuel + 1 =>
    match ts with
    | [] => []
    | t :: _ =>
      let grp := ts.filter (gatherWith n t)
      if grp.length ≤ room then
        grp ++ takeWhole n (room - grp.length) (ts.filter fun u => !gatherWith n t u) fuel
      else []

/-- What a gathering bin gives a free slot; nothing while no subgroup is whole. -/
def gatherDraw (s : State) (n : BitVec 3) (bin : List Thread) : List Thread :=
  takeWhole n 32 (sortByKey (gatherKey n) (bin.filter (wholeInBin s n bin))) 32

/-- Filing time of the earliest-filed thread. -/
def earliest (ts : List Thread) : Nat :=
  match minByKey Thread.filedAt ts with
  | some t => t.filedAt
  | none => 0

/-- Order of bins: the earliest-filed thread, then the lower PC. DESIGN CHOICE (log 89): the lower PC decides a tie under item 2
of R163 as well, for which the rule names no order. -/
def binOrder (ts : List Thread) : Nat :=
  earliest ts * 2 ^ 32 + match ts with | t :: _ => t.pc | [] => 0

/-- Some thread of the list has waited the age threshold. -/
def aged (s : State) (ts : List Thread) : Bool := ts.any fun t => decide (t.filedAt + threadAge s t ≤ s.clock + 4096)

/-- The threads the next free slot of a core draws, none while no bin is due (R163). -/
def drawChoice (s : State) (c : CoreKey) : List Thread :=
  let bins := (seatBins s c).map fun pc => (binThreads s c pc)
  let group := fun (b : List Thread) => b.head?.bind (gatherGroup s)
  let gathering := bins.filterMap fun b => match group b with
    | some n => let d := gatherDraw s n b; if d.isEmpty then none else some (b, d)
    | none => none
  let plain := bins.filter fun b => (group b).isNone
  let full := plain.filter fun b => decide (32 ≤ b.length)
  let ripe := plain.filter (aged s)
  let spill := (coreThreads s c).filter fun t => decide (t.place = .overflow) && (gatherGroup s t).isNone
  let first := fun (b : List Thread) => (sortByKey fileOrder b).take 32
  match minByKey (fun x => binOrder x.1) gathering, minByKey binOrder full, minByKey binOrder ripe with
  | some x, _, _ => x.2
  | none, some b, _ => first b
  | none, none, some b => first b
  | none, none, none =>
    match minByKey fileOrder spill with
    | some t => if aged s [t] then first (spill.filter fun u => decide (u.pc = t.pc)) else []
    | none => []

/-- The parent gang identifier of a draw (R181). -/
def parentId (k : SlotKey) (draws : Nat) : Word := BitVec.ofNat 32 (2 ^ 30 * k.core + 2 ^ 26 * k.slot + draws % 2 ^ 26)

/-- Fill a slot with threads: FRAG cleared, the identifier given (R163, R181). DESIGN CHOICE (log 91): the draw count of the
identifier counts the present draw, so that a core's first gang has 1. -/
def drawGang (s : State) (k : SlotKey) (ts : List Thread) : State :=
  let c := coreState s (slotCore k)
  let id := parentId k (c.draws + 1)
  let members := (sortByKey seatOrder ts).map Thread.tid
  let s1 := setCore s { c with draws := c.draws + 1 }
  let s2 := { s1 with slots := s1.slots ++ [⟨k, id, members, s.clock, none⟩] }
  let s3 := foldList (fun s t =>
    setThread s { t with place := .running k.slot, fl := { t.fl with frag := false }, gang := id }) s2 ts
  refillBins s3 (slotCore k)

/-- The lowest free gang slot of a core (R163, R255). -/
def freeGangSlot (s : State) (c : CoreKey) : Option Nat :=
  (List.range 16).find? fun n => (findSlot s ⟨c.cluster, c.core, n⟩).isNone

/-- GANG_DRAW (R163, R173, R181). -/
def execGangDraw (k : SlotKey) (s : State) : Host.Outcome State Fault Refusal :=
  if freeGangSlot s (slotCore k) = some k.slot then
    match drawChoice s (slotCore k) with
    | [] => .next s
    | t :: ts => .next (drawGang s k (t :: ts))
  else .next s

/-! ### Draining (R170, R254, R262, R264, R265, R466) -/

/-- Free seats of a core, in increasing number (R18). -/
def freeSeats (s : State) (c : CoreKey) : List Nat :=
  let used := (coreThreads s c).map fun t => t.seat.seat
  (List.range 512).filter fun n => !used.contains n

/-- A core that a record may drain to (R170): that of its block's resident threads, else any core of the home. -/
def mayUse (s : State) (g : Workgroup) (r : Record) (core : Nat) : Bool :=
  (coresOf s g).contains core &&
    match s.threads.find? fun t => decide (t.wg = r.th.wg) && decide (t.tid / 32 = r.th.tid / 32) with
    | some t => decide (t.seat.core = core)
    | none => true

/-- The workgroup may run: not stopped, not moving, not in an image (R267, R420). -/
def wgRuns (g : Workgroup) : Bool := decide (g.phase = .running) && decide (g.stop = .none)

/-- A woken record that may drain to a core. -/
def drains (s : State) (c : CoreKey) (r : Record) : Bool :=
  match findWg s r.th.wg with
  | some g => r.woken.isSome && decide (g.home.cluster = c.cluster) && wgRuns g && mayUse s g r c.core
  | none => false

/-- In a replay, the record of a segment that the log ended is due when the log's next start names it; any other segment
end is absorbed: its record drains as soon as it is woken (R466). -/
def absorbed (s : State) (g : Workgroup) (r : Record) : Bool :=
  (replayOf s g.launch).isSome &&
    !(match loggedEnd s g.launch g.wgid r.th.tid with
      | some (o, w, n) => decide (o = r.fin.ord.toNat) && decide (n = r.th.path.passed) &&
          (decide (w = r.fin.wake) || decide (r.fin.wake = 0))
      | none => false)

/-- A record may drain now under a replay. -/
def replayDrains (s : State) (r : Record) : Bool :=
  match findWg s r.th.wg with
  | some g => (replayOf s g.launch).isSome && (absorbed s g r || startDue s g.launch g.vcluster g.wgid r.th.tid 2 r.fin.ord.toNat)
  | none => false

/-- The position of a record's next logged start: records that a replay has absorbed drain in logged order (R466). -/
def replayPosition (s : State) (r : Record) : Nat :=
  match findWg s r.th.wg with
  | some g => nextPosition s g.launch g.vcluster g.wgid r.th.tid
  | none => 0

/-- Age threshold of a record's launch. -/
def recordAge (s : State) (r : Record) : Nat := threadAge s r.th

/-- A woken record has waited n age thresholds. -/
def recordAged (s : State) (n : Nat) (r : Record) : Bool :=
  match r.woken with
  | some c => decide (c + n * recordAge s r ≤ s.clock)
  | none => false

/-- The records a core drains next, none while no bin is due (R265, R466). DESIGN CHOICE (log 118): of bins that woke in one cycle the
lower ordinal goes first, and a bin's 32 records are those that may go to this core. -/
def drainChoice (s : State) (c : CoreKey) : List Record :=
  let all := s.records.filter (drains s c)
  let room := min 32 (freeSeats s c).length
  if room = 0 ∨ freeGangSlot s c = none then []
  else
    match minByKey (replayPosition s) (all.filter (replayDrains s)) with
    | some r => [r]
    | none =>
      let elig := all.filter fun r => (replayOf s r.th.launch).isNone
      let first := fun (rs : List Record) => (sortByKey wakeOrder rs).take room
      let bins := (dedup ((elig.filter Record.inBin).map fun r => r.fin.ord)).map fun o =>
        elig.filter fun r => r.inBin && decide (r.fin.ord = o)
      let order := fun (b : List Record) =>
        match minByKey wakeOrder b with
        | some r => r.woken.getD 0 * 2 ^ 32 + r.fin.ord.toNat
        | none => 0
      let full := bins.filter fun b => decide (32 ≤ b.length)
      let ripe := bins.filter fun b => b.any (recordAged s 1)
      let spill := elig.filter fun r => !r.inBin
      match minByKey order full, minByKey order ripe with
      | some b, _ => first b
      | none, some b => first b
      | none, none =>
        match minByKey wakeOrder spill with
        | some r => if recordAged s 1 r then first (spill.filter fun q => decide (q.fin.ord = r.fin.ord)) else []
        | none => []

/-- The path of a thread that resumes: its resume safe point counts as passed (R180); a resume at the PC of a trap
extension stays where the path was. -/
def resumePath (s : State) (t : Thread) (e : SegEnd) (keep : Bool) : Path :=
  let p := t.path
  let passed := if keep then p.passed else 0
  if e.ext = 3 then
    if e.wake = 10 ∧ trapEntryOn s t.launch then ⟨0, ordinalOf s t t.pc, 0, passed, p.syncOps⟩
    else ⟨0, p.lastStop, p.since, passed, p.syncOps⟩
  else ⟨0, some e.ord.toNat, 0, passed, p.syncOps⟩

/-- The thread of a record as it comes to a seat (R262, R353). -/
def resumed (s : State) (r : Record) (k : SeatKey) (keep : Bool) : Thread :=
  let t0 := { r.th with seat := k }
  let t1 := if r.fin.ext = 3 then (if r.fin.wake = 10 then enterTrap s t0 r.fin else { t0 with pc := r.fin.trapPc }) else t0
  { t1 with
    path := resumePath s t1 r.fin keep
    fl := { t1.fl with replay := t1.log.isSome, derr := t1.fl.dnext, dstop := false, dnext := false, entered := false, reclaim := false } }

/-- Drain one record to a seat. -/
def drainRecord (c : CoreKey) (s : State) (x : Record × Nat) : State :=
  let r := x.1
  match findWg s r.th.wg with
  | none => s
  | some g =>
    let keep := absorbed s g r
    let t := resumed s r ⟨c.cluster, c.core, x.2⟩ keep
    let s1 := { s with records := s.records.filter fun q => !decide (q.id = r.id) }
    let s2 := fileThread (addThread s1 t) t r.origin (r.woken.getD s.clock)
    let s3 := logDispatch s2 g r.fin.ord.toNat t.tid 2 0 0
    if keep then s3 else startUsed s3 g.launch g.vcluster g.wgid t.tid 2 r.fin.ord.toNat

/-- The trace record of a drain (R459): the parent gang of the first record, a bit for each thread drained. -/
def traceDrain (s : State) (rs : List Record) : State :=
  match rs with
  | [] => s
  | r :: _ =>
    match findWg s r.th.wg with
    | some g => traceEvent s g 2 rs.length r.fin.ord r.fin.parent (BitVec.ofNat 32 (2 ^ rs.length - 1))
    | none => s

/-- The core in which a held record's thread takes a seat again: the one it was in, at another home the one in its place, else any
that it may use (R170, R421). -/
def heldCore (s : State) (g : Workgroup) (r : Record) : Option Nat :=
  let cs := coresOf s g
  ((cs[r.th.seat.core % cs.length]?).toList ++ cs.filter (mayUse s g r)).find? fun c =>
    !(freeSeats s ⟨g.home.cluster, c⟩).isEmpty

/-- Held records without a pool slot: one takes a free slot, or its thread is held in a seat again under R269, whose
response begins anew if no other thread is held in the cluster (R421). -/
def reseatHeld (s : State) (r : Record) : State :=
  if !r.held || r.poolSlot.isSome || !wgGoes s r.th.wg then s
  else if !poolFull s r.th.launch then
    updRecord s r.id fun r => { r with poolSlot := some (freePoolSlot (poolUsed s r.th.launch)) }
  else
    match findWg s r.th.wg with
    | none => s
    | some g =>
      match heldCore s g r with
      | none => s
      | some c =>
        match (freeSeats s ⟨g.home.cluster, c⟩).head? with
        | none => s
        | some n =>
          let t := { r.th with seat := ⟨g.home.cluster, c, n⟩, place := .binned }
          holdThread (addThread { s with records := s.records.filter fun q => !decide (q.id = r.id) } t) t r.fin

/-- The bare held records of a cluster find slots or seats as these come free (R421). -/
def reseatBare (s : State) (cluster : Nat) : State :=
  foldList reseatHeld s (s.records.filter fun r =>
    decide (r.th.seat.cluster = cluster) && r.held && r.poolSlot.isNone && atHome s r.th.wg)

/-- RECORD_DRAIN (R254, R262, R265): up to 32 records of one bin take seats; freed pool slots go to held records that have
none and to held threads. Before it, bare held records take what has come free (R421). -/
def execRecordDrain (k : CoreKey) (s0 : State) : Host.Outcome State Fault Refusal :=
  let s := reseatBare s0 k.cluster
  match drainChoice s k with
  | [] => .next s
  | r :: rs =>
    let all := r :: rs
    let s1 := foldList (drainRecord k) (traceDrain s all) (all.zip (freeSeats s k))
    let s2 := refillRecordBins s1 k.cluster
    .next (releaseHeld s2 (ctxOfWg s r.th.wg) s2.threads.length)

/-! ### Block creation (R252 to R254, R331, R340) -/

/-- Threads the walker creates for a workgroup: its own and its assay threads. -/
def wgThreads (g : Workgroup) : Nat := g.cover.kept + g.cover.samples.length

/-- Role of block j (R253). -/
def blockRole (l : Launch) (j : Nat) : BitVec 2 :=
  let c := field l.lr.roles.toNat 7 0
  let x := field l.lr.roles.toNat 15 8
  if l.lr.roles = 0 then roleVector
  else if j < c then roleCopy
  else if j < c + x then roleMatrix
  else roleVector

/-- The first instruction of a role's section (R253). -/
def roleEntry (k : KernelDecl) (r : BitVec 2) : Nat :=
  if !k.hasRoles then k.first
  else ((if r = roleCopy then k.copyEntry else if r = roleMatrix then k.matrixEntry else k.vectorEntry)).getD k.first

/-- A new thread (R47, R253): everything zero or empty. -/
def newThread (k : SeatKey) (g : Workgroup) (tid : Nat) (role : BitVec 2) (assay : Bool) (pc : Nat) : Thread where
  seat := k
  launch := g.launch
  wg := g.id
  tid := tid
  role := role
  orig := 0
  pc := pc
  v := Vector.replicate 64 0
  p := 1
  g := Vector.replicate 8 ⟨0, 0⟩
  fl := ⟨assay, false, false, false, false, false, false, false, false, false, false⟩
  log := none
  pend := []
  waits := []
  far := []
  farFault := none
  reply := none
  mark := none
  late := []
  handle := none
  trapState := none
  path := ⟨0, none, 0, 0, 0⟩
  place := .binned
  filedAt := 0
  binnedAt := 0
  gang := 0

/-- The core with the most free seats, the lowest on a tie, and its free seats. -/
def roomiest (s : State) (g : Workgroup) : Option (Nat × List Nat) :=
  minByKey (fun x => 512 - x.2.length) ((coresOf s g).map fun c => (c, freeSeats s ⟨g.home.cluster, c⟩))

/-- Threads may be created: the workgroup runs, the whole grid of a persistent launch is placed (R250), the
pool-exhausted response does not hold (R254). -/
def mayCreate (s : State) (l : Launch) (g : Workgroup) : Bool :=
  wgRuns g && l.killed.isNone && decide (32 * g.blocks < wgThreads g) &&
    (!l.lr.flags.getLsbD 0 || decide (l.placed = gridTotal l)) && !responseHolds s g.ctx g.home.cluster

/-- Create one thread of a block in a seat. -/
def createThread (l : Launch) (g : Workgroup) (k : KernelDecl) (core : Nat) (s : State) (x : Nat × Nat) : State :=
  let assay := decide (g.cover.kept ≤ x.1)
  let role := if assay then roleVector else blockRole l (x.1 / 32)
  let t := newThread ⟨g.home.cluster, core, x.2⟩ g x.1 role assay (roleEntry k role)
  let s1 := fileThread (addThread s t) t 0 s.clock
  let s2 := updThread s1 t.wg t.tid fun t => { t with filedAt := s.clock + 4096 - ageOf l }
  let ord := (ordinalWord (ordinalOf s t t.pc)).toNat
  startUsed (logDispatch s2 g ord t.tid 1 0 0) g.launch g.vcluster g.wgid t.tid 1 ord

/-- The ordinal of the first instruction of a block's role. -/
def firstOrdinal (s : State) (l : Launch) (g : Workgroup) (k : KernelDecl) (lo : Nat) : Nat :=
  let role := if g.cover.kept ≤ lo then roleVector else blockRole l (lo / 32)
  match imageOf s g.launch with
  | some img => (ordinalWord (ordinalAt img.stops (roleEntry k role))).toNat
  | none => 0xFFFFFFFF

/-- BLOCK_CREATE (R252 to R254): the next block, whole, on the core with the most free seats, unless a record is due to
drain there. Kept-point threads are counted (R346). -/
def execBlockCreate (wg : Nat) (s : State) : Host.Outcome State Fault Refusal :=
  match findWg s wg with
  | none => .next s
  | some g =>
    match findLaunch s g.launch, kernelOf s g.launch, roomiest s g with
    | some l, some k, some (core, seats) =>
      let lo := 32 * g.blocks
      let n := min 32 (wgThreads g - lo)
      if mayCreate s l g && decide (n ≤ seats.length) && (drainChoice s ⟨g.home.cluster, core⟩).isEmpty &&
          startDue s g.launch g.vcluster g.wgid lo 1 (firstOrdinal s l g k lo) then
        let tids := (List.range n).map (lo + ·)
        let kept := (tids.filter fun i => decide (i < g.cover.kept)).length
        let s1 := updWg s wg fun g => { g with blocks := g.blocks + 1 }
        let s2 := if l.full then s1 else
          updLaunch s1 l.id fun l => { l with counts := { l.counts with kept := satAdd32 l.counts.kept kept } }
        .next (foldList (createThread l g k core) s2 (tids.zip seats))
      else .next s
    | _, _, _ => .next s

/-! ### Seat reclaim (R266) -/

/-- SEAT_RECLAIM: a woken record has waited four thresholds and no core it may use has a free seat; the gang of this
core drawn longest ago ends its segments at its next safe points. -/
def execSeatReclaim (k : CoreKey) (s : State) : Host.Outcome State Fault Refusal :=
  let starving := fun (r : Record) => drains s k r && recordAged s 4 r &&
    match findWg s r.th.wg with
    | some g => (coresOf s g).all fun c => !mayUse s g r c || (freeSeats s ⟨k.cluster, c⟩).isEmpty
    | none => false
  let busy := (coreThreads s k).any fun t => t.fl.reclaim
  if s.records.any starving && !busy then
    match minByKey Slot.drawnAt (s.slots.filter fun x => decide (slotCore x.key = k)) with
    | some x => .next (updThreads s (fun t => decide (t.slot? = some x.key)) fun t => { t with fl := { t.fl with reclaim := true } })
    | none => .next s
  else .next s

/-! ### Watchdog and timeouts (R166, R355, R356) -/

/-- Note the safe points at which threads stand as passed, once for each arrival (R180). -/
def passStops (s : State) (ts : List Thread) : State :=
  foldList (fun s t =>
    match safeOrdinal s t t.pc with
    | some o =>
      if t.path.lastStop = some o ∧ t.path.since = 0 then s
      else setThread s { t with path := { t.path with lastStop := some o, since := 0, passed := t.path.passed + 1 } }
    | none => s) s ts

/-- The instructions after which the watchdog asks for a stop. -/
def watchdogLimit : Nat := 2 ^ 24

/-- Threads of a running fragment whose count has reached the limit. -/
def overrunOf (s : State) (k : SlotKey) : List Thread :=
  s.threads.filter fun t => inRunning k t && decide (watchdogLimit ≤ t.path.retired)

/-- OVERRUN (R355): at a safe point the threads of the fragment that reached the limit take the trap; the detail is the
count of the lowest seat. -/
def execOverrun (k : SeatKey) (s : State) : Host.Outcome State Fault Refusal :=
  match findSeat s k with
  | none => .next s
  | some t =>
    match t.slot?, safeOrdinal s t t.pc with
    | some slot, some _ =>
      if inRunning slot t && decide (watchdogLimit ≤ t.path.retired) then
        let s1 := passStops s (s.threads.filter (inRunning slot))
        match overrunOf s1 slot with
        | [] => .next s
        | u :: us => .next (takeTrap s1 (u :: us) 11 0 (BitVec.ofNat 64 u.path.retired) (wordAt s1 u))
      else .next s
    | _, _ => .next s

/-- The end of a record or thread under a workgroup-scope trap: wake 10, the trap's number, no ordinal (R180, R262). -/
def timeoutEnd (e : SegEnd) (cause pc : Nat) (seq : Word) : SegEnd :=
  { e with
    wake := 10, operand := 0, ext := 3, ord := 0xFFFFFFFF, trapPc := pc, trapSeq := seq
    trapWord := BitVec.ofNat 32 cause, q := false, flt := true }

/-- BARRIER_TIMEOUT (R356): every record of the workgroup that waits on the object takes the trap. -/
def execBarrierTimeout (rid : Nat) (s : State) : Host.Outcome State Fault Refusal :=
  match findRecord s rid with
  | none => .next s
  | some r =>
    match findWg s r.th.wg, findLaunch s r.th.launch with
    | some g, some l =>
      let same := fun (q : Record) => decide (q.th.wg = g.id) && decide (q.fin.wake = 1) && q.woken.isNone &&
        decide (q.fin.q = r.fin.q) && decide (q.fin.operand / 16 = r.fin.operand / 16)
      if same r && decide (g.stop = .none) && decide (r.since + barTimeout l ≤ s.clock) then
        let inTrap := s.records.any fun q => same q && q.th.trapState.isSome
        let x := workgroupTrap s g 12 0 (wordAt s r.th)
        let s1 := { x.1 with records := updWhere same (fun q => { q with
          th := { q.th with log := none, reply := none }
          fin := timeoutEnd q.fin 12 q.th.pc x.2, since := s.clock }) x.1.records }
        .next (dispatchTrap (settleBuffer s1 g.home.cluster) g x.2 inTrap)
      else .next s
    | _, _ => .next s

/-- GATHER_TIMEOUT (R173, R356): the threads of the gathering bin end their segments at the collective. -/
def execGatherTimeout (k : SeatKey) (s : State) : Host.Outcome State Fault Refusal :=
  match findSeat s k with
  | none => .next s
  | some t =>
    match findWg s t.wg, findLaunch s t.launch with
    | some g, some l =>
      if decide (t.place = .binned) && (gatherGroup s t).isSome && decide (g.stop = .none) &&
          decide (t.binnedAt + barTimeout l < s.clock) then
        let bin := binThreads s ⟨k.cluster, k.core⟩ t.pc
        let x := workgroupTrap s g 13 0 (wordAt s t)
        let s1 := refillBins (foldList (fun s u => endSegment s u (timeoutEnd (endAt s u 10 0 false) 13 u.pc x.2))
          (traceEnds x.1 bin 10) bin) ⟨k.cluster, k.core⟩
        .next (dispatchTrap s1 g x.2 (bin.any fun u => u.trapState.isSome))
      else .next s
    | _, _ => .next s

/-- How long trap state, or an unreleased trap record, may last (R354). -/
def trapLimit : Nat := 2 ^ 26

/-- TRAP_UNRESOLVED (R354): no timer runs while a session is attached; each starts again at its detach (see `DETACH`), and
rests while its workgroup is stopped (R480). -/
def execTrapUnresolved (ctx : Nat) (s : State) : Host.Outcome State Fault Refusal :=
  match findCtx s ctx with
  | none => .next s
  | some c =>
    let late := fun (since wg : Nat) => decide (ctxOfWg s wg = ctx) && decide (since + trapLimit ≤ s.clock) &&
      (match findWg s wg with | some g => decide (g.stop = .none) | none => false)
    let threadLate := (s.threads ++ s.records.map Record.th).any fun t =>
      match t.trapState with | some b => late b t.wg | none => false
    let recordLate := s.records.any fun r => decide (r.fin.wake = 10) && r.woken.isNone && late r.since r.th.wg
    if !c.session && (threadLate || recordLate) then .next (killCtx s ctx 9) else .next s

/-- The four conditions of the pool deadlock count, with a thread held (R270). -/
def deadlockHolds (s : State) (ctx : Nat) : Bool :=
  let ts := s.threads.filter fun t => decide (ctxOfWg s t.wg = ctx)
  !ts.isEmpty && (ts.all fun t => match t.place with | .held e => !wakeHolds s t e | _ => false) &&
    !(s.cmds.any fun c => decide (ctxOfWg s c.wg = ctx))

/-- How long the conditions must have held. -/
def deadlockLimit : Nat := 2 ^ 24

/-- The count of R270 rests: the context is stopped, or a workgroup of it is (R480). -/
def deadlockRests (s : State) (c : Context) : Bool :=
  decide (c.stop ≠ .none) || s.wgs.any fun g => decide (g.ctx = c.id) && decide (g.stop ≠ .none)

/-- POOL_DEADLOCK (R270). -/
def execPoolDeadlock (ctx : Nat) (s : State) : Host.Outcome State Fault Refusal :=
  match findCtx s ctx with
  | none => .next s
  | some c =>
    match c.deadlock with
    | some d =>
      if deadlockHolds s ctx && !deadlockRests s c && decide (d + deadlockLimit ≤ s.clock) then .next (killCtx s ctx 10)
      else .next s
    | none => .next s

/-- TIMER_WAKE (R166): an await on a clock whose time has come; held threads that wait on a clock are tested, too. -/
def execTimerWake (rid : Nat) (s : State) : Host.Outcome State Fault Refusal :=
  let s1 := match findRecord s rid with
    | some r => if r.fin.wake = 6 ∧ wakeHolds s r.th r.fin = true then wakeRecord s rid else s
    | none => s
  .next (retestHeld s1 fun t => match t.place with | .held e => decide (e.wake = 6) | _ => false)

end Sys2Proof.Machine
end

