-- ==== Sys2Proof/Machine/Placing.lean ====
section
/-! DEFINITION. The dispatcher: free home clusters, placing workgroups, their start, end and moves, the flush of a kernel
boundary, and the stops the dispatcher makes for deadline launches (R249 to R251, R267, R300, R302, R376, R380, R434,
R480, R483). -/
namespace Sys2Proof.Machine

/-! ### Homes -/

/-- The virtual device a context runs on. -/
def vdOfCtx (s : State) (ctx : Nat) : Option VDev := (findCtx s ctx).bind fun c => findVd s c.vd

/-- Workgroups of a neighbourhood, or the workgroup alone (R251). -/
def membersOf (s : State) (l : Launch) (g : Workgroup) : List Workgroup :=
  if nbSize l = 0 then [g]
  else s.wgs.filter fun m => decide (m.launch = l.id) && decide (m.wgid / nbSize l = g.wgid / nbSize l)

/-- A member of a workgroup's neighbourhood, or the workgroup itself, is in an image. -/
def imagedWith (s : State) (l : Launch) (g : Workgroup) : Bool := (membersOf s l g).any fun m => decide (m.phase = .imaged)

/-- An ended workgroup has given its home back: a neighbourhood does so as one, when all of it has ended or when it is in an
image (R251, R365, R424). -/
def homeGivenBack (s : State) (g : Workgroup) : Bool :=
  match findLaunch s g.launch with
  | some l => ((membersOf s l g).all fun m => decide (m.phase = .ended) && m.cover.freed) || imagedWith s l g
  | none => true

/-- A home holds a workgroup, or one moves to it (R250). -/
def homeBusy (s : State) (h : Home) : Bool :=
  s.wgs.any fun g =>
    (decide (g.home = h) && (match g.phase with
      | .ended => !homeGivenBack s g
      | .imaged => false
      | _ => true)) ||
      (match g.phase with | .moving d => decide (d = h) | _ => false)

/-- Homes that a deadline launch has claimed. -/
def claimed (s : State) (h : Home) : Bool := s.launches.any fun l => l.claims.contains h

/-- The free home clusters of a virtual device, in increasing %vcluster; none whose retirement has begun (R446). -/
def freeHomes (s : State) (v : VDev) : List Home :=
  (vdHomes s v).filter fun h => !homeBusy s h && !claimed s h && !clusterLeaves s h.cluster

/-! ### Rectangles (R251, R380) -/

/-- Width and height of the neighbourhoods of a launch. -/
def nbWidth (l : Launch) : Nat := field l.lr.nb.toNat 7 0
def nbHeight (l : Launch) : Nat := field l.lr.nb.toNat 15 8

/-- The homes of the rectangle at an origin, member by member; none where it leaves the homes given. -/
def rectAt (homes : List Home) (side w h gx gy : Nat) : Option (List Home) :=
  let cells := (List.range (w * h)).map fun m => (clusterAt (gx + m % w) (gy + m / w)).map fun c => (⟨c, side⟩ : Home)
  if cells.all fun x => match x with | some p => homes.contains p | none => false then
    some (cells.filterMap id)
  else none

/-- The first rectangle in increasing gy, then gx. -/
def findRect (homes : List Home) (side w h : Nat) : Option (List Home) :=
  ((List.range 8).flatMap fun gy => (List.range 16).map fun gx => (gx, gy)).findSome? fun o =>
    rectAt homes side w h o.1 o.2

/-- The homes the next workgroup, or neighbourhood, of a launch takes among some homes. -/
def takeHomes (l : Launch) (v : VDev) (homes : List Home) : Option (List Home) :=
  if nbSize l = 0 then homes.head?.map fun h => [h]
  else findRect homes (VdShape.sideNum v.shape) (nbWidth l) (nbHeight l)

/-! ### The kernel boundary (R300) -/

/-- A write-back message that has not been performed, from a home. -/
def writeUnderWay (r : Req) : Bool :=
  (match r.kind with | .write _ => true | _ => false) && notPerformed r

/-- A message that writes and has not been performed. -/
def unperformed (r : Req) : Bool :=
  (match r.kind with
    | .read _ => false
    | .prefetch => false
    | .packet _ _ => false
    | .far _ => false
    | .window _ st _ => st.isSome
    | _ => true) && notPerformed r

/-- A dirty line of some homes must not be performed yet: an earlier access of its home to the line is on its way (R292,
R296). -/
def linesWait (s : State) (hs : List Home) : Bool :=
  s.l1.any fun l => hs.contains l.home && decide (l.mask ≠ 0) && s.reqs.any fun r =>
    decide (r.src = l.home) && sliceBound r && decide (r.pa / 128 = l.pline) && notPerformed r

/-- Some home of a virtual device has a write on its way. -/
def writesUnderWay (s : State) (v : VDev) : Bool :=
  s.reqs.any fun r => writeUnderWay r && (vdHomes s v).contains r.src

/-- Perform a write-back message and its acknowledgement at once. -/
def performNow (s : State) (id : Nat) : State :=
  match findReq s id with
  | some r =>
    match r.kind with
    | .write bytes => finishReq (bumpCounter (performWrite s r bytes) r.ctx r.src 12 1) id
    | _ => s
  | none => s

/-- Write back, performed, and invalidate every L1 line of a home; fills on their way are not installed. -/
def flushHome (s : State) (h : Home) : State :=
  let s1 := foldList (fun s l =>
    let ctx := match ctxOfAsid s l.asid with | some c => c.id | none => 0
    let r := invalidateLine s l ctx 0 noThread
    foldList performNow r.1 r.2) s (homeLines s h)
  { s1 with reqs := s1.reqs.map fun r => if r.src = h then { r with install := false } else r }

/-- The clusters of a launch: those of its workgroups, and those where it has trained a predictor. -/
def launchClusters (s : State) (launch : Nat) : List Nat :=
  ((s.wgs.filter fun g => decide (g.launch = launch)).map fun g => g.home.cluster) ++
    (s.predictor.filter fun p => decide (p.launch = launch)).map Predict.cluster

/-- Every L1 of a virtual device is written back and invalidated; every predictor entry of the launch's clusters, and of those
it is about to take, is cleared (R300, R312). -/
def boundary (s : State) (v : VDev) (launch : Nat) (taken : List Home) : State :=
  let s1 := foldList flushHome s (vdHomes s v)
  let cs := taken.map Home.cluster ++ launchClusters s1 launch
  { s1 with predictor := s1.predictor.filter fun p => !cs.contains p.cluster }

/-- A cluster comes to a launch: entries that another launch has left there are cleared, unless a workgroup of another launch
runs on its other side (R312, log 110). -/
def clearPredictor (s : State) (h : Home) (launch : Nat) : State :=
  if s.wgs.any fun g => decide (g.home.cluster = h.cluster) && !decide (g.launch = launch) && decide (g.phase = .running) then s
  else { s with predictor := s.predictor.filter fun p => !(decide (p.cluster = h.cluster) && !decide (p.launch = launch)) }

/-! ### Order among launches (R483) -/

/-- Insert by a comparison. -/
def insertBy {α : Type} (before : α → α → Bool) (x : α) : List α → List α
  | [] => [x]
  | y :: ys => if before x y then x :: y :: ys else y :: insertBy before x ys

/-- Sort by a comparison. -/
def sortBy {α : Type} (before : α → α → Bool) : List α → List α
  | [] => []
  | x :: xs => insertBy before x (sortBy before xs)

/-- Deadline launches by deadline, then latency, then bulk, each in order of acceptance. -/
def launchBefore (a b : Launch) : Bool :=
  if a.lr.cls = b.lr.cls then
    if a.lr.cls = 0 ∧ a.lr.deadline ≠ b.lr.deadline then decide (a.lr.deadline < b.lr.deadline)
    else decide (a.order < b.order)
  else decide (a.lr.cls < b.lr.cls)

/-- A launch that still has workgroups to place. -/
def wantsPlace (s : State) (v : VDev) (l : Launch) : Bool :=
  decide (l.phase ≠ .ended) && l.killed.isNone && decide (l.placed < gridTotal l) &&
    match findCtx s l.ctx with
    | some c => decide (c.vd = v.num) && decide (c.stop = .none) && !c.frozen
    | none => false

/-- A workgroup in an image of its own may come back: its sections have been written, or it had nothing to save (R424, R434). -/
def restorable (s : State) (g : Workgroup) : Bool :=
  decide (g.phase = .imaged) && (!g.started || s.images.any fun x => decide (x.wg = some g.id))

/-- A workgroup in an image waits for the next home that becomes free (R434). -/
def restoreWaits (s : State) (v : VDev) : Bool :=
  s.wgs.any fun g => restorable s g &&
    match findCtx s g.ctx with
    | some c => decide (c.vd = v.num) && decide (c.stop = .none)
    | none => false

/-- In a replay the homes are those the log gives, each with its rung (R465). -/
def replayHomes (s : State) (v : VDev) (l : Launch) (n : Nat) : Option (List Home) :=
  let homes := (List.range n).map fun m => (vdHomes s v).find? fun h =>
    startDue s l.id (vclusterOf s l v h.cluster) (l.placed + m) 0 0 0
  if homes.all Option.isSome then some (homes.filterMap id) else none

/-- The homes a launch takes now: those vacated for it, or free ones (R250, R380, R434). -/
def homesFor (s : State) (v : VDev) (l : Launch) : Option (List Home) :=
  match replayOf s l.id with
  | some _ =>
    match replayHomes s v l (max 1 (nbSize l)) with
    | some hs => if hs.all (freeHomes s v).contains then some hs else none
    | none => none
  | none =>
    if l.claims.isEmpty then (if restoreWaits s v then none else takeHomes l v (freeHomes s v))
    else
      let vacated := l.claims.filter fun h => !homeBusy s h && !clusterLeaves s h.cluster
      takeHomes l v ((vdHomes s v).filter vacated.contains)

/-- The launch that takes the next free home of a virtual device, and the homes. -/
def nextPlaced (s : State) (v : VDev) : Option (Launch × List Home) :=
  (sortBy launchBefore (s.launches.filter (wantsPlace s v))).findSome? fun l => (homesFor s v l).map fun hs => (l, hs)

/-! ### Placing (R250, R333, R340) -/

/-- The rung in force for a home: in the cycle of an update instant the one from before it, but for a home that the counting behind
the instant has freed (R333). -/
def rungNow (s : State) (l : Launch) (h : Home) : Nat :=
  match l.instantAt with
  | some (at_, before, freed) => if at_ = s.clock ∧ freed.contains h = false then before else l.rung
  | none => l.rung

/-- The rung a workgroup takes: 0 in a launch that runs FULL, the log's in a replay (R333, R465). -/
def placedRung (s : State) (v : VDev) (l : Launch) (h : Home) : Nat :=
  if l.full then 0
  else
    match replayOf s l.id with
    | some r => match nextStart s r (vclusterOf s l v h.cluster) with
      | some x => entryCode x.2
      | none => rungNow s l h
    | none => rungNow s l h

/-- The samples of a workgroup at a start position (R340). -/
def placedSamples (l : Launch) (wgid pos : Nat) (word : Word) : List Sample :=
  let u := 2 ^ field (coverControl l) 19 15
  let t := tileOf l wgid
  let pts := skippedPoints word t
  if l.full ∨ pos % u ≠ 0 ∨ pts.isEmpty then []
  else chooseSamples l.lr.cover.seed (pos / u) (min (field (coverControl l) 14 9 + 1) pts.length) pts
    (keptPoints word t).length

/-- A workgroup as it is placed. -/
def newWg (s : State) (v : VDev) (l : Launch) (h : Home) (wgid pos : Nat) : Workgroup :=
  let rung := placedRung s v l h
  let word := (l.lr.cover.rungs[rung]?).getD 0
  let n := dim l.lr.size 0 * dim l.lr.size 1 * dim l.lr.size 2
  let kept := if l.full then n else (keptPoints word (tileOf l wgid)).length
  { id := s.nextId, launch := l.id, ctx := l.ctx, wgid := wgid, home := h, phase := .placed, stop := .none
    rung := rung, hasHalf := decide (field l.lr.roles.toNat 15 8 ≠ 0)
    k := Vector.ofFn fun i => if i.val < 16 then (l.lr.k[i.val]?).getD 0 else 0
    guards := Vector.replicate 16 .idle
    scratch := [], rings := [], btier := [], tiles := [], rowNan := [], handles := [], blocks := 0, exited := []
    counts := ⟨0, 0, 0, 0, 0⟩
    cover := ⟨pos, kept, [], [], placedSamples l wgid pos word, false, false, roodOf h.cluster, false, []⟩
    probes := [], queues := [], lateTraps := [], heldTraps := [], vcluster := vclusterOf s l v h.cluster, placedAt := s.clock
    started := false }

/-- Place one workgroup. -/
def placeWg (v : VDev) (launch : Nat) (s : State) (h : Home) : State :=
  match findLaunch s launch with
  | none => s
  | some l =>
    let g := newWg s v l h l.placed l.placed
    let s1 := bumpId (clearPredictor { s with wgs := s.wgs ++ [g] } h launch)
    let s2 := updLaunch s1 launch fun l => { l with
      retired := launchMap s l, placed := l.placed + 1, phase := .running, claims := l.claims.filter fun x => !decide (x = h) }
    let s3 := startUsed (logDispatch s2 g 0 0 0 g.rung 0) launch g.vcluster g.wgid 0 0 0
    traceEvent s3 g 6 g.rung 0xFFFFFFFF 0 0

/-- What a launch has claimed and does not need any more goes back to ordinary placement (R434). -/
def settleClaims (s : State) (launch : Nat) : State :=
  updLaunch s launch fun l => { l with claims := if l.placed = gridTotal l ∨ nbSize l ≠ 0 then [] else l.claims }

/-- Place workgroups at homes. -/
def placeAll (v : VDev) (launch : Nat) (s : State) (hs : List Home) : State :=
  settleClaims (foldList (placeWg v launch) s hs) launch

/-! ### Stops by the dispatcher (R376, R420, R434, R480) -/

/-- When the stop reached a workgroup. -/
def stopSince (g : Workgroup) : Option Nat :=
  match g.stop with
  | .none => none
  | .stopping c => some c
  | .stopped c => some c

/-- A timer that ran since a time when a stop began goes on from the value it held then; one that began during the stop
begins now (R480). -/
def shiftTime (began now x : Nat) : Nat := x + (now - max x began)

/-- A thread's timers go on from where they stood. -/
def shiftThread (began now : Nat) (t : Thread) : Thread :=
  { t with trapState := t.trapState.map (shiftTime began now), binnedAt := shiftTime began now t.binnedAt }

/-- The end of a stop: timers go on, held records find their places, the trap records that waited are written, and held
threads are tested (R269, R421, R480). -/
def endStop (s : State) (id : Nat) : State :=
  match findWg s id with
  | none => s
  | some g =>
    match stopSince g with
    | none => s
    | some c =>
      let s1 := updThreads s (fun t => decide (t.wg = id)) (shiftThread c s.clock)
      let s2 := { s1 with records := s1.records.map fun r =>
        if r.th.wg = id then { r with th := shiftThread c s.clock r.th, since := shiftTime c s.clock r.since } else r }
      let s3 := updWg s2 id fun g => { g with stop := .none, lateTraps := [], heldTraps := [] }
      let s4 := foldList (releaseTrap id) s3 g.heldTraps
      let s5 := foldList (fun s x => match findWg s id with | some g' => lateExited s g' x | none => s) s4 g.lateTraps
      let s6 := foldList reseatHeld s5 (sortByKey (fun r => r.th.filedAt) (s5.records.filter fun r => decide (r.th.wg = id)))
      retestHeld (releaseHeld s6 g.ctx s6.threads.length) fun t => decide (t.wg = id)

/-- Victims in the order of R376: bulk before latency, the newest launch first, the newest workgroup first. -/
def victimBefore (a b : Launch × Workgroup) : Bool :=
  if a.1.lr.cls ≠ b.1.lr.cls then decide (b.1.lr.cls < a.1.lr.cls)
  else if a.1.order ≠ b.1.order then decide (b.1.order < a.1.order)
  else if a.2.placedAt ≠ b.2.placedAt then decide (b.2.placedAt < a.2.placedAt)
  else decide (b.2.wgid < a.2.wgid)

/-- Workgroups that a deadline launch may stop. -/
def victims (s : State) (v : VDev) : List (Launch × Workgroup) :=
  sortBy victimBefore (s.wgs.filterMap fun g =>
    match findLaunch s g.launch with
    | some l =>
      if decide (l.lr.cls ≠ 0) && l.killed.isNone && decide (g.stop = .none) &&
          decide (g.phase = .running ∨ g.phase = .placed) && (vdHomes s v).contains g.home then some (l, g) else none
    | none => none)

/-- Take victims, neighbourhoods whole, until a test holds of the homes taken. -/
def chooseVictims (s : State) (enough : List Home → Bool) (taken : List Workgroup) :
    List (Launch × Workgroup) → List Workgroup
  | [] => taken
  | x :: xs =>
    if enough (taken.map Workgroup.home) then taken
    else if taken.contains x.2 then chooseVictims s enough taken xs
    else chooseVictims s enough (taken ++ membersOf s x.1 x.2) xs

/-- A deadline launch without a free home stops workgroups and claims the homes they vacate, all of them until it is placed (R376,
R434). -/
def deadlineStop (s : State) (v : VDev) (l : Launch) : State :=
  let need := gridTotal l - l.placed
  let free := freeHomes s v
  let among := fun (hs : List Home) => (vdHomes s v).filter fun h => free.contains h || hs.contains h
  let rect := fun (hs : List Home) => findRect (among hs) (VdShape.sideNum v.shape) (nbWidth l) (nbHeight l)
  let enough := fun (hs : List Home) => if nbSize l = 0 then decide (need ≤ hs.length) else (rect hs).isSome
  let ws := chooseVictims s enough [] (victims s v)
  let homes := ws.map Workgroup.home
  let claims := if nbSize l = 0 then homes else match rect homes with | some hs => dedup (hs ++ homes) | none => []
  if claims.isEmpty then s
  else updLaunch (foldList (stopWg 0) s (ws.map Workgroup.id)) l.id fun l => { l with claims := claims }

/-- WORKGROUP_PLACE (R250, R251, R376, R380, R434, R483): the launch takes the next homes when they are its by the order
of R483; before its first workgroup the kernel boundary of its virtual device runs (R300); a deadline launch with no
free home stops others. -/
def execWorkgroupPlace (launch : Nat) (s : State) : Host.Outcome State Fault Refusal :=
  match findLaunch s launch with
  | none => .next s
  | some l =>
    match vdOfCtx s l.ctx with
    | none => .next s
    | some v =>
      match nextPlaced s v with
      | some (l', hs) =>
        if l'.id ≠ launch then .next s
        else if l.phase = .accepted then
          if writesUnderWay s v || linesWait s (vdHomes s v) then .next s
          else .next (placeAll v launch (boundary s v launch hs) hs)
        else .next (placeAll v launch s hs)
      | none =>
        if wantsPlace s v l && decide (l.lr.cls = 0) && l.claims.isEmpty && (replayOf s launch).isNone then
          .next (deadlineStop s v l)
        else .next s

/-! ### Bank modes and the start of a workgroup (R97, R302) -/

/-- Mode of bank b in a plan word (R246). -/
def bankMode (plan : Word) (b : Nat) : Nat := field plan.toNat (2 * b + 1) (2 * b)

/-- Cache banks of a plan, the ways of its L1 in order. -/
def cacheBanks (plan : Word) : List Nat := (List.range 12).filter fun b => decide (bankMode plan b = 0)

/-- The line a home keeps at a start in the same context: its bank stays in cache mode. Recency is open (R302). -/
def keptLine (s : State) (old new : Word) (l : L1Line) : Option L1Line :=
  match (cacheBanks old)[l.way]? with
  | some b =>
    if (cacheBanks new).contains b then
      some { l with way := ((cacheBanks new).takeWhile fun x => !decide (x = b)).length
                    used := Config.choose (s.freeCount + l.pline) (s.clock + 1) }
    else none
  | none => none

/-- Bring the banks of a home to a plan (R302): lines of banks that leave cache mode are written back; another context
finds nothing. -/
def prepareHome (s : State) (h : Home) (ctx : Nat) (plan : Word) : State :=
  let last := s.lastRun.find? fun x => decide (x.home = h)
  let old := match last with | some x => x.plan | none => 0xFFFFFF
  let same := match last with | some x => decide (x.ctx = ctx) | none => false
  let keeps := fun (l : L1Line) => if same then keptLine s old plan l else none
  let gone := (homeLines s h).filter fun l => (keeps l).isNone
  let s1 := foldList (fun s l =>
    (invalidateLine s l (match ctxOfAsid s l.asid with | some c => c.id | none => ctx) 0 noThread).1) s gone
  let s2 := { s1 with
    l1 := s1.l1.map fun l => if l.home = h then (keeps l).getD l else l
    lastRun := ⟨h, ctx, plan⟩ :: s1.lastRun.filter fun x => !decide (x.home = h) }
  let changed := ((List.range 12).filter fun b => decide (bankMode old b ≠ bankMode plan b)).length
  bumpFree (bumpCounter s2 ctx h 15 changed)

/-! ### Reading a launch record (R244 to R247, R325, R375) -/

/-- A region entry from its 32 bytes (R247). -/
def regionOf (bs : List Byte) : Region := ⟨natAt bs 0 8, natAt bs 8 8, natAt bs 0x10 8, natAt bs 0x18 4, natAt bs 0x1C 1⟩

/-- The reserved bytes of the entries that are used are zero. -/
def regionsZero (es : List (List Byte)) : Bool := es.all fun bs => decide (natAt bs 0x1D 3 = 0)

/-- A launch record from its 512 bytes and the bytes of its extension table. -/
def launchRecOf (bs ext : List Byte) : LaunchRec :=
  let n := min (natAt bs 0xF8 4) 64
  let entry := fun (i : Nat) => if i < 8 then byteList bs (0x100 + 32 * i) 32 else byteList ext (32 * (i - 8)) 32
  let es := (List.range n).map entry
  let flags := wordIn bs 0x00C
  { module := natAt bs 0 8
    entry := natAt bs 8 4
    flags := flags
    grid := [natAt bs 0x10 4, natAt bs 0x14 4, natAt bs 0x18 4]
    size := [natAt bs 0x1C 2, natAt bs 0x1E 2, natAt bs 0x20 2]
    roles := wordIn bs 0x024
    plan := wordIn bs 0x028
    nb := wordIn bs 0x02C
    completion := natAt bs 0x030 8
    result := natAt bs 0x038 8
    k := (List.range 16).map fun i => wordIn bs (0x040 + 4 * i)
    f := (List.range 8).map fun i => wordIn bs (0x080 + 4 * i)
    cover := {
      control := wordIn bs 0x0A0, seed := wordIn bs 0x0A4, low := wordIn bs 0x0A8, high := wordIn bs 0x0AC
      rungs := (List.range 8).map fun i => wordIn bs (0x0B0 + 4 * i)
      obase := natAt bs 0x0D0 8, w := natAt bs 0x0D8 2, h := natAt bs 0x0DA 2, rstr := natAt bs 0x0DC 4 }
    deadline := natAt bs 0x0E0 8
    cls := natAt bs 0x0E8 1
    charter := natAt bs 0x0E9 3
    account := natAt bs 0x0EC 4
    ext := natAt bs 0x0F0 8
    regionCount := natAt bs 0x0F8 4
    regions := es.map regionOf
    reservedZero := decide (field flags.toNat 31 21 = 0) && decide (field flags.toNat 11 5 = 0) &&
      decide (natAt bs 0x22 2 = 0) && decide (natAt bs 0x27 1 = 0) && decide (natAt bs 0x2E 2 = 0) &&
      decide (natAt bs 0xFC 4 = 0) && regionsZero es }

/-- Where a packet of a queue comes from. -/
structure Source where
  packet : Packet
  node : Option Nat
  /-- The log a REPLAY names: the record is its copy (R465). -/
  log : Option Nat
deriving DecidableEq, Repr

/-- The launch record a packet names. -/
def readLaunch (s : State) (ctx : Nat) (x : Source) : LaunchRec :=
  let bs := match x.log with
    | some base => readBytes s.mem (base + 0x40) 512
    | none => vreadSplit s ctx x.packet.record 512
  launchRecOf bs (vreadSplit s ctx (natAt bs 0xF0 8) (32 * (min (natAt bs 0xF8 4) 64 - 8)))

/-- The record of a launch, read again as one of its workgroups starts, is the one it was accepted with; where its bytes
cannot be reached nothing is compared (R244). -/
def recordStands (s : State) (l : Launch) : Bool :=
  let reached := l.replay.isSome || [0, 511].all fun i => (translate s l.ctx (l.packet.record + i)).isSome
  !reached || decide (readLaunch s l.ctx ⟨l.packet, l.node, l.replay⟩ = l.lr)

/-- The second reading of a launch record: software that changed it has broken an obligation without a stated outcome, so
the queue is frozen (R17, R244, R418). DESIGN CHOICE (log 74): the workgroup runs by the record as it was accepted. -/
def readAgain (s : State) (l : Launch) : State :=
  if recordStands s l then s
  else match findQueue s l.ctx l.queue with
    | some q => if q.frozen then s else freezeQueue s l.ctx l.queue
    | none => s

/-- The rings of a kernel, empty (R204). -/
def newRings (k : KernelDecl) : List Ring :=
  (List.range k.rings.length).filterMap fun (i : Nat) => (k.rings[i]?).map fun x =>
    (⟨i, x.1, x.2, 0, 0, false, false, [], none, none⟩ : Ring)

/-- One workgroup starts: banks, constant image, rings (R97, R302). -/
def startWg (s : State) (id : Nat) : State :=
  match findWg s id with
  | none => s
  | some g =>
    match findLaunch s g.launch, imageOf s g.launch, kernelOf s g.launch with
    | some l, some img, some k =>
      updWg (prepareHome (readAgain s l) g.home g.ctx l.lr.plan) id fun g => { g with
        phase := .running
        started := true
        scratch := writeBytes [] 0 (bytesOfWords img.data)
        rings := newRings k }
    | _, _, _ => s

/-- WORKGROUP_START (R302): the members of a neighbourhood start together (R251). -/
def execWorkgroupStart (wg : Nat) (s : State) : Host.Outcome State Fault Refusal :=
  match findWg s wg, (findWg s wg).bind fun g => findLaunch s g.launch with
  | some g, some l =>
    if g.phase = .placed ∧ g.stop = .none then
      .next (foldList startWg s (((membersOf s l g).filter fun m => decide (m.phase = .placed)).map Workgroup.id))
    else .next s
  | _, _ => .next s

/-! ### The end of a workgroup (R167, R251, R342, R364) -/

/-- A workgroup may end (R167); not while it stands stopped, since its late traps wait (R480). -/
def mayEnd (s : State) (g : Workgroup) : Bool :=
  decide (g.phase = .running) && (match g.stop with | .stopped _ => false | _ => true) && allCreated g &&
    !(s.threads.any fun t => decide (t.wg = g.id)) && !(s.records.any fun r => decide (r.th.wg = g.id)) &&
    !(s.cmds.any fun c => decide (c.wg = g.id)) && g.lateTraps.isEmpty

/-- A sample whose thread reported nothing is dropped at the end (R342). -/
def dropSample (x : Sample) : Sample := if x.value.isNone && !x.done then { x with dropped := true } else x

/-- Samples of a workgroup that are dropped at its end. -/
def lostSamples (g : Workgroup) : Nat := (g.cover.samples.filter fun x => x.value.isNone && !x.done && !x.dropped).length

/-- WORKGROUP_END: tiles, handles and the B-tier share go; scratch stays while the neighbourhood runs (R251). -/
def execWorkgroupEnd (wg : Nat) (s : State) : Host.Outcome State Fault Refusal :=
  match findWg s wg, (findWg s wg).bind fun g => findLaunch s g.launch with
  | some g, some l =>
    if !mayEnd s g then .next s
    else
      let s0 := captureEnd s l g
      let s1 := updWg s0 wg fun g => { g with
        phase := .ended, stop := .none, handles := [], tiles := [], rowNan := [], btier := [], probes := []
        cover := { g.cover with
          samples := g.cover.samples.map dropSample, counted := l.full, freed := l.full } }
      let s2 := updLaunch s1 l.id fun l => { l with
        ended := l.ended + 1
        counts := { l.counts with dropped := satAdd32 l.counts.dropped (lostSamples g) } }
      let s3 := traceEvent s2 g 7 g.rung 0xFFFFFFFF 0 0
      let ms := membersOf s3 l ((findWg s3 wg).getD g)
      let s4 := if ms.all fun m => decide (m.phase = .ended) then
          foldList (fun s m => updWg s m.id fun m => { m with scratch := [] }) s3 ms
        else s3
      .next (countWg s4 wg)
  | _, _ => .next s

/-! ### Moves (R235, R267) -/

/-- Nothing of the workgroup keeps it from moving (R267). -/
def mayMove (s : State) (g : Workgroup) : Bool :=
  !(s.threads.any fun t => decide (t.wg = g.id)) && !(s.cmds.any fun c => decide (c.wg = g.id)) &&
    !(s.records.any fun r => decide (r.th.wg = g.id) && r.fin.halt)

/-- Where each member goes when one goes to a cluster: a neighbourhood keeps its shape (R251). -/
def moveTargets (s : State) (l : Launch) (g : Workgroup) (dest side : Nat) : List (Workgroup × Option Home) :=
  (membersOf s l g).map fun m =>
    let dx := gridX dest + gridX m.home.cluster - gridX g.home.cluster
    let dy := gridY dest + gridY m.home.cluster - gridY g.home.cluster
    if m.id = g.id then (m, some ⟨dest, side⟩)
    else if gridX dest + gridX m.home.cluster < gridX g.home.cluster ∨
        gridY dest + gridY m.home.cluster < gridY g.home.cluster then (m, none)
    else (m, (clusterAt dx dy).map fun c => ⟨c, side⟩)

/-- The L1 lines of a workgroup's home are written back and invalidated (R267). -/
def cleanHome (s : State) (g : Workgroup) : State :=
  foldList (fun s l => (invalidateLine s l g.ctx g.id noThread).1) s (homeLines s g.home)

/-- The plan of a workgroup's launch. -/
def planOf (s : State) (g : Workgroup) : Word := match findLaunch s g.launch with | some l => l.lr.plan | none => 0

/-- The first step of a move: the L1 is written back and invalidated, the phase begins. A member that has ended only
takes its scratch along, into banks that are made ready for it (R251, R302). -/
def beginMove (s : State) (x : Workgroup × Option Home) : State :=
  match x.2 with
  | none => s
  | some h =>
    let s1 := cleanHome s x.1
    if x.1.phase = .ended then updWg (prepareHome s1 h x.1.ctx (planOf s x.1)) x.1.id fun g => { g with home := h }
    else
      let s2 := { s1 with records := s1.records.map fun r => if r.th.wg = x.1.id then { r with inBin := false } else r }
      refillRecordBins (updWg s2 x.1.id fun g => { g with
        phase := .moving h
        stop := match g.stop with | .none => .stopped s.clock | .stopping c => .stopped c | y => y }) x.1.home.cluster

/-- FROM of records that moved between clusters (R261). -/
def movedFrom (a b : Nat) : Nat := if dieOf a = dieOf b then 3 else 4

/-- Records of a workgroup at its new cluster: what was buffered comes to its buffer after them. FROM 5 stays: the record
has not drained since it came from another device; so does FROM where the workgroup comes back to its own cluster (R261, R428). -/
def moveRecord (wg dest : Nat) (r : Record) : Record :=
  if r.th.wg = wg then
    { r with
      origin := if r.origin = 5 ∨ r.th.seat.cluster = dest then r.origin else movedFrom r.th.seat.cluster dest
      th := { r.th with seat := { r.th.seat with cluster := dest } }
      inBin := false, inBuffer := false }
  else r

/-- The records of a workgroup that stand in its cluster's buffer, the longest there first. -/
def bufferedOf (s : State) (wg : Nat) : List Nat :=
  (sortByKey Record.bufferedAt (s.records.filter fun r => decide (r.th.wg = wg) && r.inBuffer)).map Record.id

/-- The records of a workgroup that has come to its home: those named, which its old buffer held or its image brings, and those
woken, halted, or without a pool slot stand in the buffer, and the woken ones in bins (R263, R264, R267). -/
def settleRecords (s : State) (wg cluster : Nat) (ids : List Nat) : State :=
  refillRecordBins (foldList bufferRecord s (dedup (ids ++ (s.records.filter fun r =>
    decide (r.th.wg = wg) && (r.woken.isSome || r.fin.halt || r.poolSlot.isNone)).map Record.id))) cluster

/-- No stop of the whole context is under way or in force (R420). -/
def ctxGoes (s : State) (ctx : Nat) : Bool :=
  match findCtx s ctx with
  | some c => decide (c.stop = .none)
  | none => false

/-- One member arrives; a stop of its context that began meanwhile keeps it stopped (R420). -/
def arriveWg (v : VDev) (s : State) (g : Workgroup) : State :=
  match g.phase, findLaunch s g.launch with
  | .moving h, some l =>
    let held := bufferedOf s g.id
    let s1 := clearPredictor { s with records := s.records.map (moveRecord g.id h.cluster) } h l.id
    let s2 := updWg (if g.started then prepareHome s1 h g.ctx l.lr.plan else s1) g.id fun g => { g with
      home := h, phase := if g.started then .running else .placed, vcluster := vclusterOf s l v h.cluster }
    let s3 := match findWg s2 g.id with
      | some g' => traceEvent s2 g' 9 h.cluster 0xFFFFFFFF 0 0
      | none => s2
    let s4 := settleRecords s3 g.id h.cluster held
    if ctxGoes s4 g.ctx then endStop s4 g.id else s4
  | _, _ => s

/-- The footprints of a launch's commands at the homes that its workgroups have now (R273, R274). -/
def refreshSpans (s : State) (launch : Nat) : State :=
  match findLaunch s launch with
  | none => s
  | some l =>
    { s with cmds := s.cmds.map fun c =>
      match findWg s c.wg with
      | some g =>
        if g.launch = launch then { c with reads := (footprint s l g c.kind).1, writes := (footprint s l g c.kind).2 } else c
      | none => c }

/-- The half of a queue or of a tile span on the other side of a split rood. -/
def sideRef (half : Nat) : QueueRef → QueueRef
  | .matrix _ => .matrix half
  | q => q

/-- Tiles and row counters of a workgroup that comes to the other side: the same names in that side's half (R235). -/
def rekeyHalf (a b : Nat) (g : Workgroup) : Workgroup :=
  if a = b then g
  else
    { g with
      tiles := canonical (g.tiles.map fun c => (c.1 + b * 65536 - a * 65536, c.2))
      rowNan := canonical (g.rowNan.map fun c => (c.1 + b * 512 - a * 512, c.2))
      queues := g.queues.map fun q => { q with q := sideRef b q.q } }

/-- Its commands stand in the queues of that half. -/
def rekeyCmds (s : State) (wg a b : Nat) : State :=
  if a = b then s
  else { s with cmds := s.cmds.map fun c =>
    if c.wg = wg then { c with
      queue := sideRef b c.queue, reserve := c.reserve.map (sideRef b), kept := c.kept.map (sideRef b) } else c }

/-- One workgroup comes back to a home (R428), its records with it, all in its buffer; records of one that comes to another
cluster carry FROM 3 or 4. A member of its neighbourhood that has ended takes its scratch there. -/
def restoreWg (v : VDev) (l : Launch) (s : State) (x : Workgroup × Home) : State :=
  let sd := dropImages (clearPredictor s x.2 l.id) fun y => decide (y.wg = some x.1.id)
  if x.1.phase ≠ .imaged then updWg (prepareHome sd x.2 x.1.ctx l.lr.plan) x.1.id fun g => { g with home := x.2 }
  else
    let ids := ((sd.records.filter fun r => decide (r.th.wg = x.1.id))).map Record.id
    let s1 := rekeyCmds { sd with records := sd.records.map (moveRecord x.1.id x.2.cluster) } x.1.id x.1.home.side x.2.side
    let s2 := updWg (if x.1.started then prepareHome s1 x.2 x.1.ctx l.lr.plan else s1) x.1.id fun g =>
      rekeyHalf x.1.home.side x.2.side { g with
        home := x.2, phase := if g.started then .running else .placed, vcluster := vclusterOf s l v x.2.cluster }
    settleRecords s2 x.1.id x.2.cluster ids

/-- Workgroups come back from images of their own to homes, and go on (R428, R434, R480). -/
def comeBack (v : VDev) (l : Launch) (s : State) (xs : List (Workgroup × Home)) : State :=
  foldList endStop (refreshSpans (foldList (restoreWg v l) s xs) l.id) (xs.map fun x => x.1.id)

/-- WORKGROUP_MOVE: begins when its conditions hold; while threads are resident, the stop of R420 begins instead. A
workgroup in an image of its own is restored to the cluster (R428, R434). -/
def execWorkgroupMove (wg dest : Nat) (s : State) : Host.Outcome State Fault Refusal :=
  match findWg s wg, (findWg s wg).bind fun g => findLaunch s g.launch, (findWg s wg).bind fun g => vdOfCtx s g.ctx with
  | some g, some l, some v =>
    let ctxFree := match findCtx s g.ctx with | some c => decide (c.stop = .none) && !c.frozen | none => false
    let xs := moveTargets s l g dest (VdShape.sideNum v.shape)
    let fits := xs.all fun x => match x.2 with | some h => (freeHomes s v).contains h | none => false
    let live := xs.filter fun x => !decide (x.1.phase = .ended)
    if !ctxFree || !fits || live.isEmpty then .next s
    else if live.all fun x => restorable s x.1 then
      .next (comeBack v l s (xs.filterMap fun x => x.2.map fun h => (x.1, h)))
    else if g.phase ≠ .running ∨ imagedWith s l g then .next s
    else if live.all fun x => decide (x.1.phase = .running) && mayMove s x.1 then .next (foldList beginMove s xs)
    else .next (foldList (stopWg 1) s (xs.map fun x => x.1.id))
  | _, _, _ => .next s

/-- MOVE_COMPLETE (R235, R267, R292, R293, R302): once everything the workgroup has written is performed, and no link between the
homes retrains (R317, R440), it is at its new home, and the old one is free. -/
def execMoveComplete (wg : Nat) (s : State) : Host.Outcome State Fault Refusal :=
  match findWg s wg, (findWg s wg).bind fun g => findLaunch s g.launch, (findWg s wg).bind fun g => vdOfCtx s g.ctx with
  | some g, some l, some v =>
    let ms := (membersOf s l g).filter fun m => match m.phase with | .moving _ => true | _ => false
    if (match g.phase with | .moving _ => true | _ => false) &&
        !(s.reqs.any fun r => unperformed r && ms.any fun m => decide (m.id = r.wg) || decide (m.home = r.src)) &&
        !(ms.any fun m => match m.phase with
          | .moving d => tilesHeld s (clusterTile m.home.cluster) (clusterTile d.cluster)
          | _ => false) then
      .next (refreshSpans (foldList (arriveWg v) s ms) l.id)
    else .next s
  | _, _, _ => .next s

end Sys2Proof.Machine
end

