-- ==== Sys2Proof/Machine/Power.lean ====
section
/-! DEFINITION. Power tokens and the energy charged to launches, accounts and virtual devices (R430 to R433). -/
namespace Sys2Proof.Machine

/-- Cycles of a span of 100 µs (R2, R3). -/
def spanCycles : Nat := 175000

/-- A grain is 10 µJ; energies are summed in units of 2^-10 µJ (R2, R433). -/
def grainUnits : Nat := 10240

/-- Virtual devices that draw, in increasing number. -/
def drawers (s : State) : List VDev := sortByKey VDev.num (s.vds.filter VDev.drawing)

/-- Sum of the weights. -/
def weightSum (vs : List VDev) : Nat := sumNat (vs.map VDev.w)

/-- The share of device i among drawing ones: in proportion to weight, the remainder given one each in increasing v
(R430). With no weight at all the spec gives no share: it is open. -/
def shareOf (free : Nat) (vs : List VDev) (pool i : Nat) : Nat :=
  let w := weightSum vs
  if w = 0 then Config.choose (free + i) (pool / vs.length + 1) % (pool / vs.length + 1)
  else
    let base := fun (v : VDev) => pool * v.w / w
    let left := pool - sumNat (vs.map base)
    match vs[i]? with
    | some v => base v + if i < left then 1 else 0
    | none => 0

/-- Give each drawing device its share of some grains. -/
def shareOut (s : State) (vs : List VDev) (pool : Nat) (give : VDev → Nat → VDev) : State :=
  foldList (fun s i =>
    match vs[i]? with
    | some v => updVd s v.num fun v => give v (shareOf s.freeCount vs pool i)
    | none => s) s (List.range vs.length)

/-- The allowances of a new span (R430); every device starts with nothing spent. -/
def setAllowances (s : State) : State :=
  let s1 := { s with vds := s.vds.map fun v =>
    { v with
      allowance := if v.drawing then (v.g : Int) - v.debt else 0
      pool := 0, released := 0, spent := 0, throttled := 0 } }
  let vs := drawers s1
  let pool := ((s.power.budget : Int) - (vs.map VDev.allowance).foldl (· + ·) 0).toNat
  shareOut s1 vs pool fun v n => { v with allowance := v.allowance + n, pool := n }

/-- A device stops drawing: its unspent allowance goes to the drawing ones (R430). -/
def endDrawing (s : State) (vd : Nat) : State :=
  match findVd s vd with
  | none => s
  | some v =>
    if !v.drawing then s
    else
      let left := (v.allowance - v.spent).toNat
      let s1 := updVd s vd fun v => { v with drawing := false, allowance := v.allowance - left }
      shareOut s1 (drawers s1) left fun v n => { v with allowance := v.allowance + n, released := v.released + n }

/-- Take grains from devices in proportion to their weights, first by share, then in increasing number, from what a
count of theirs still holds. The state and what was not found. -/
def takeGrains (s : State) (vs : List VDev) (count : VDev → Nat) (less : VDev → Nat → VDev) (need : Nat) : State × Nat :=
  let holders := vs.filter fun v => decide (count v ≠ 0)
  let w := weightSum holders
  let first := holders.map fun v => (v, min (count v) (if w = 0 then 0 else need * v.w / w))
  let rec fill (left : Nat) : List (VDev × Nat) → List (VDev × Nat) × Nat
    | [] => ([], left)
    | (v, n) :: xs =>
      let more := min left (count v - n)
      let r := fill (left - more) xs
      ((v, n + more) :: r.1, r.2)
  let r := fill (need - sumNat (first.map Prod.snd)) first
  (foldList (fun s x => updVd s x.1.num fun v => less { v with allowance := v.allowance - x.2 } x.2) s r.1, r.2)

/-- Grains of the budget that no device's allowance holds: nobody drew when they came free (R430). -/
def unallotted (s : State) : Nat := ((s.power.budget : Int) - (s.vds.map VDev.allowance).foldl (· + ·) 0).toNat

/-- A device starts drawing during a span: it reclaims floor(G × c / 175,000) grains, first of those others received by
release, then of their shares of the pool, then of those that nobody holds (R430, log 107). -/
def beginDrawing (s : State) (vd : Nat) : State :=
  match findVd s vd with
  | none => s
  | some v =>
    if v.drawing then s
    else
      let left := s.power.spanAt + spanCycles - s.clock
      let need := v.g * left / spanCycles
      let others := (drawers s).filter fun x => !decide (x.num = vd)
      let r1 := takeGrains s others VDev.released (fun x n => { x with released := x.released - n }) need
      let others2 := (drawers r1.1).filter fun x => !decide (x.num = vd)
      let r2 := takeGrains r1.1 others2 VDev.pool (fun x n => { x with pool := x.pool - n }) r1.2
      updVd r2.1 vd fun v => { v with drawing := true, allowance := v.allowance + (need - (r2.2 - unallotted s) : Nat) }

/-- A virtual device draws while its context has an accepted launch that has not ended. -/
def settleDrawing (s : State) (ctx : Nat) : State :=
  match findCtx s ctx with
  | none => s
  | some c =>
    if s.launches.any fun l => decide (l.ctx = ctx) && decide (l.phase ≠ .ended) then beginDrawing s c.vd
    else endDrawing s c.vd

/-! ### Energy (R432, R433) -/

/-- The virtual devices that hold a rood. -/
def vdsOfRood (s : State) (n : Nat) : List VDev := s.vds.filter fun v => (VdShape.roods v.shape).contains n

/-- Add to an energy account of a tenant (R433, R458). -/
def addAccount (tick : Nat) (as : List Account) (n dyn stat : Nat) : List Account :=
  if as.any fun a => decide (a.num = n) then
    as.map fun a => if a.num = n then
      { a with dyn := (a.dyn + dyn) % 2 ^ 64, stat := (a.stat + stat) % 2 ^ 64, touched := tick } else a
  else as ++ [⟨n, dyn % 2 ^ 64, stat % 2 ^ 64, tick⟩]

/-- Charge a launch and its account. -/
def chargeLaunch (s : State) (l : Launch) (dyn stat : Nat) : State :=
  if dyn = 0 ∧ stat = 0 then s
  else
    updTenant (updLaunch s l.id fun l => { l with dyn := l.dyn + dyn, stat := l.stat + stat }) l.lr.charter
      fun t => { t with accounts := addAccount s.tick t.accounts l.lr.account dyn stat }

/-- Seat-cycles plus matrix-half-cycles of a launch in a rood, of the span that closes. -/
def busyIn (busy : List (Nat × Nat)) (rood : Nat) : Nat :=
  match busy.find? fun x => decide (x.1 = rood) with
  | some x => x.2
  | none => 0

/-- The event sum X_L of a launch in a rood: coefficient times events, over the classes of the coefficient table (R432). -/
def eventTotal (rood span launch : Nat) : Nat :=
  sumNat ((List.range (min Config.eventClasses 64)).map fun i =>
    Config.coefficient i * Config.events rood span launch (Config.eventClass i))

/-- The static energy of a rood over a span, from its last monitor readings (R432, R450). -/
def staticOf (s : State) (rood span : Nat) : Nat :=
  match s.monitors.find? fun m => !m.isStack && decide (m.n = rood) with
  | some m => Config.staticEnergy rood span m.temp m.supply m.process
  | none => Config.staticEnergy rood span 0 0 0

/-- Charge an account of a tenant for a launch that has ended (R433). -/
def chargeEnded (s : State) (x : EndedLaunch) (dyn stat : Nat) : State :=
  if dyn = 0 ∧ stat = 0 then s
  else updTenant s x.charter fun t => { t with accounts := addAccount s.tick t.accounts x.account dyn stat }

/-- Charge the energy of one rood over the closed span: k × X_L dynamic, S by seat-cycles and matrix-half-cycles, launches
that ended in it included; the idle account of a virtual device, in a split rood of either side, or the device account where
no launch was resident (R432, R433). -/
def chargeRood (span : Nat) (s : State) (x : Nat × Nat) : State :=
  let e := x.2
  let st := staticOf s x.1 span
  let xs := s.launches.map fun l => (l, eventTotal x.1 span l.id, busyIn l.busy x.1)
  let ys := s.power.ended.map fun l => (l, eventTotal x.1 span l.id, busyIn l.busy x.1)
  let xt := sumNat (xs.map fun y => y.2.1) + sumNat (ys.map fun y => y.2.1)
  let wt := sumNat (xs.map fun y => y.2.2) + sumNat (ys.map fun y => y.2.2)
  let dyn := fun n => if xt = 0 then 0 else (e - st) * n / xt
  let stat := fun n => if wt = 0 then 0 else st * n / wt
  let s0 := foldList (fun s y => chargeLaunch s y.1 (dyn y.2.1) (stat y.2.2)) s xs
  let s1 := foldList (fun s y => chargeEnded s y.1 (dyn y.2.1) (stat y.2.2)) s0 ys
  if wt ≠ 0 then s1
  else
    let vs := vdsOfRood s x.1
    match vs[Config.choose (s.freeCount + x.1) vs.length % vs.length]? with
    | none => { s1 with power := { s1.power with deviceEnergy := s1.power.deviceEnergy + st } }
    | some v => updVd s1 v.num fun v => { v with idleEnergy := v.idleEnergy + st }

/-- Grains a virtual device has spent in the span, from the meters of its roods; how a split rood's meter is divided
between its sides is open. -/
def spentBy (free : Nat) (v : VDev) (readings : List Nat) : Nat :=
  let sum := sumNat ((VdShape.roods v.shape).map fun n => (readings[n]?).getD 0)
  if VdShape.isSide v.shape then Config.choose (free + v.num) (sum / grainUnits + 1) % (sum / grainUnits + 1)
  else sum / grainUnits

/-- SPAN_START (R430 to R433): the readings are those of the sixteen rood meters for the span that closes; spending
beyond an allowance becomes debt; the firmware complex charges the device account. -/
def execSpanStart (readings : List Nat) (s : State) : Host.Outcome State Fault Refusal :=
  if s.power.spanAt + spanCycles ≤ s.clock then
    let s0 : State := foldList (chargeRood s.power.spans) s
      ((List.range 16).map fun n => (n, (readings[n]?).getD 0))
    let s1 : State := { s0 with
      launches := s0.launches.map (fun l => { l with busy := [] })
      power := { s0.power with
        deviceEnergy := s0.power.deviceEnergy + staticOf s 16 s.power.spans
        ended := [] } }
    let s2 := bumpFree { s1 with vds := s1.vds.map fun v =>
      { v with debt := ((spentBy s1.freeCount v readings : Int) - v.allowance).toNat } }
    let s3 := { s2 with power := { s2.power with spanAt := s2.power.spanAt + spanCycles, spans := s2.power.spans + 1 } }
    .next (setAllowances s3)
  else .next s

/-- ALLOWANCE_EXHAUSTED (R431): the meters have charged the whole allowance; no pass, matrix command or copy piece
starts until new grains arrive. -/
def execAllowanceExhausted (vd : Nat) (s : State) : Host.Outcome State Fault Refusal :=
  .next (updVd s vd fun v => if v.drawing then { v with spent := max v.spent v.allowance.toNat } else v)

end Sys2Proof.Machine
end

