-- ==== Sys2Proof/Machine/Queues.lean ====
section
/-! DEFINITION. Queues and launches: doorbells, the porter's steps from a packet to acceptance or refusal, the kernel
boundary at a launch's end, completion records, host rings, interrupts and task graphs (R238, R244 to R248, R300, R344,
R345, R368 to R389, R463). -/
namespace Sys2Proof.Machine

/-! ### Counts -/

/-- Difference of two free-running 32-bit counts. -/
def wrapSub (a b : Nat) : Nat := (a + 2 ^ 32 - b % 2 ^ 32) % 2 ^ 32

/-! ### Doorbells (R372, R373, R384, R398) -/

/-- The device interface of a context is in RUN. -/
def tdispRun (s : State) (ctx : Nat) : Bool :=
  match vdOfCtx s ctx with
  | some v => decide (v.tdisp = .run)
  | none => false

/-- A doorbell write: ignored before READY (R470); outside RUN it is ignored and freezes the context, whichever queue's
doorbell it names (R398, R418); a queue that is not bound has no doorbell. -/
def doorbell (s : State) (ctx q : Nat) (act : Queue → State) : State :=
  if s.boot.stage ≠ 6 then s
  else if !tdispRun s ctx then freezeCtx s ctx
  else
    match findQueue s ctx q with
    | some x => if x.bound then act x else s
    | none => s

/-- SUBMIT_DOORBELL of a packet queue; a graph queue's write is GRAPH_START. -/
def execSubmitDoorbell (ctx q : Nat) (value : Word) (s : State) : Host.Outcome State Fault Refusal :=
  .next (doorbell s ctx q fun x =>
    if x.frozen then s
    else if x.conf.kind = 2 then s
    else if x.conf.kind = 1 ∨ wrapSub value.toNat x.head > 2 ^ x.conf.plog then freezeQueue s ctx q
    else setQueue s { x with tail := value.toNat })

/-- HOST_RING_DOORBELL: also while frozen (R372). -/
def execHostRingDoorbell (ctx q : Nat) (value : Word) (s : State) : Host.Outcome State Fault Refusal :=
  .next (doorbell s ctx q fun x =>
    if wrapSub value.toNat x.hrd ≤ wrapSub x.hwr x.hrd then setQueue s { x with hrd := value.toNat }
    else if x.frozen then s
    else freezeQueue s ctx q)

/-- GRAPH_START (R384). -/
def execGraphStart (ctx q : Nat) (node : Word) (s : State) : Host.Outcome State Fault Refusal :=
  .next (doorbell s ctx q fun x =>
    if x.frozen ∨ x.conf.kind ≠ 2 then s
    else if x.conf.nodes ≤ node.toNat then freezeQueue s ctx q
    else if x.run then setQueue s { x with refused := (x.refused + 1) % 2 ^ 32 }
    else setQueue s { x with run := true, runCounts := [(node.toNat, 1)], nextNode := some node.toNat })

/-! ### The checks of R377 -/

/-- Object addresses and scopes (R286, R287). -/
def regionValid (r : Region) : Bool :=
  let scratch := decide (r.obj / 2 ^ 32 = 0xFFFFFFFF) && decide (r.obj % 16 = 0)
  let glb := decide (r.obj < 2 ^ 52) && decide (r.obj % 4 = 0)
  decide (r.base % 128 = 0) && decide (r.size % 128 = 0) && decide (r.size ≠ 0) && decide (r.mode ≤ 3) &&
    decide (r.scope ≤ 6) && (scratch || glb) && !(scratch && decide (2 < r.scope))

/-- Two regions overlap. -/
def regionsMeet (a b : Region) : Bool := decide (a.base < b.base + b.size) && decide (b.base < a.base + a.size)

/-- No two elements of a list meet. -/
def apart {α : Type} (meet : α → α → Bool) : List α → Bool
  | [] => true
  | x :: xs => (xs.all fun y => !meet x y) && apart meet xs

/-- Threads of a workgroup. -/
def groupThreads (r : LaunchRec) : Nat := dim r.size 0 * dim r.size 1 * dim r.size 2

/-- Role counts (R244). -/
def roleCounts (r : LaunchRec) : Nat × Nat × Nat :=
  (field r.roles.toNat 7 0, field r.roles.toNat 15 8, field r.roles.toNat 23 16)

/-- R248, with the entry ordinal against the module, and R286, R287. -/
def recordValid (side : Bool) (kernels : Nat) (l : Launch) : Bool :=
  let r := l.lr
  let n := groupThreads r
  let rc := roleCounts r
  let sum := rc.1 + rc.2.1 + rc.2.2
  let wh := nbWidth l * nbHeight l
  r.reservedZero && decide (r.entry < kernels) && (r.grid.all fun d => decide (d ≠ 0)) && decide (1 ≤ n) &&
    decide (n ≤ 4096) && decide (field r.flags.toNat 20 16 ≤ 16) && decide (field r.flags.toNat 15 12 ≤ 6) &&
    !(side && fullMode l) && (decide (sum = 0) || decide (sum = ceilDiv n 32)) && decide (r.regionCount ≤ 64) &&
    (decide (r.regionCount ≤ 8) || decide (r.ext % 32 = 0)) && (r.regions.all regionValid) && apart regionsMeet r.regions &&
    (if r.flags.getLsbD 2 then decide (wh ≠ 0) && decide (wh ≤ 24) && decide (gridTotal l % wh = 0)
     else decide (nbWidth l = 0) && decide (nbHeight l = 0)) &&
    (!side || (List.range 12).all fun b => decide (b < 6) || decide (planMode l b = 3))

/-- Bytes of the rings of a bank (R204). -/
def ringBytes (k : KernelDecl) (b : Nat) : Nat :=
  sumNat (k.rings.map fun x => if x.1 = b then 32 * x.2 else 0)

/-- A role has a section; a kernel without role sections is all vector (R95). -/
def hasSection (k : KernelDecl) (r : BitVec 2) : Bool :=
  if !k.hasRoles then decide (r = roleVector)
  else (if r = roleCopy then k.copyEntry else if r = roleMatrix then k.matrixEntry else k.vectorEntry).isSome

/-- R96 and R204. -/
def declMatches (k : KernelDecl) (data : Nat) (l : Launch) : Bool :=
  let r := l.lr
  let rc := roleCounts r
  (k.regions.all fun d => match r.regions[d.n]? with
    | some x => decide (x.mode = d.mode) && decide (x.scope = d.scope)
    | none => false) &&
    (k.formats.all fun f => decide (r.f[f.1]? = some f.2)) &&
    (decide (rc.1 = 0) || hasSection k roleCopy) && (decide (rc.2.1 = 0) || hasSection k roleMatrix) &&
    (decide (rc.2.2 = 0) || hasSection k roleVector) &&
    (decide (rc.1 + rc.2.1 + rc.2.2 ≠ 0) || hasSection k roleVector) &&
    decide (field r.plan.toNat 31 24 = k.rings.length) &&
    (k.rings.all fun x => decide (planMode l x.1 = 2) && decide (ringBytes k x.1 ≤ 65536)) &&
    (k.barriers.all fun b => decide (b + 16 ≤ scratchBytes l)) && decide (data ≤ scratchBytes l) &&
    decide (r.flags.getLsbD 3 = k.trap.isSome)

/-- The size checks, last (R250, R380). -/
def launchFits (s : State) (v : VDev) (l : Launch) : Bool :=
  !(l.lr.flags.getLsbD 0 && decide ((vdHomes s v).length < gridTotal l)) &&
    (decide (nbSize l = 0) ||
      (findRect (vdHomes s v) (VdShape.sideNum v.shape) (nbWidth l) (nbHeight l)).isSome)

/-- What the porter decides. -/
inductive Verdict where
  | refuse (status : Nat)
  /-- The module's translation runs, or a translation change is deferred (R393, R410). -/
  | wait
  /-- An obligation without a stated outcome is broken: the queue is frozen and the packet stays (R17, R418). -/
  | freeze
  | accept (l : Launch)
deriving DecidableEq, Repr

/-- DLINE of a charter's policy word (R402). -/
def charterDline (c : Charter) : Bool := c.policy.getLsbD 12

/-- A launch as the checks see it, before acceptance. -/
def draftLaunch (s : State) (q : Queue) (x : Source) : Launch where
  id := s.nextId
  ctx := q.ctx
  queue := q.num
  conf := q.conf
  headAt := q.head
  packet := x.packet
  node := x.node
  lr := readLaunch s q.ctx x
  phase := .accepted
  order := s.nextId
  killed := none
  abortCode := 0
  acceptedAt := 0
  firstAt := none
  full := true
  imax := 0
  rung := 0
  placed := 0
  ended := 0
  counted := 0
  instants := 0
  samples := []
  counts := ⟨⟨0, 0, 0, 0, 0⟩, 0, 0, 0, 0, 0, 0, 0, 0, 0, 0, 0, 0, 0, 0⟩
  heldPackets := []
  dyn := 0
  stat := 0
  claims := []
  replay := x.log
  threadsStarted := false
  far := false
  busy := []
  retired := []
  instantAt := none

/-- The coverage state word a graph node's launch reads and writes (R344). -/
def coverWordAddr (c : QueueConf) (node : Nat) : Nat := c.ring + 64 * node + 0x30

def coverWord (s : State) (q : Queue) (node : Option Nat) : Word :=
  match node with
  | some n => BitVec.ofNat 32 (vreadNat s q.ctx (coverWordAddr q.conf n) 4)
  | none => q.cover

/-- The reserved bits of a graph node are not zero (R16, R384). -/
def nodeBreach (s : State) (ctx : Nat) (c : QueueConf) (node : Nat) : Bool :=
  let a := c.ring + 64 * node
  decide (vreadNat s ctx (a + 0x28) 4 / 8 ≠ 0) || decide (vreadNat s ctx (a + 0x34) 4 / 65536 ≠ 0) ||
    decide (vreadNat s ctx (a + 0x38) 8 ≠ 0)

/-- A packet breaks an obligation that has no outcome of its own: the tag of breach notices (R449), a reserved bit of its
node (R384). -/
def sourceBreach (s : State) (q : Queue) (x : Source) : Bool :=
  x.log.isNone && (decide (x.packet.tag = BitVec.allOnes 64) ||
    (match x.node with | some n => nodeBreach s q.ctx q.conf n | none => false))

/-- The launch with its ladder fixed (R344, R345). -/
def withLadder (s : State) (q : Queue) (k : KernelDecl) (mincov : Nat) (l : Launch) : Launch :=
  if hasLadder l k then
    match imaxOf l mincov with
    | some m => { l with full := false, imax := m, rung := min (startRung l (coverWord s q l.node)) m }
    | none => l
  else l

/-- Steps 1 to 4 of R377, and the wait of R410 before step 5. -/
def judge (s : State) (q : Queue) (x : Source) : Verdict :=
  let l := draftLaunch s q x
  let r := l.lr
  match findCtx s q.ctx, vdOfCtx s q.ctx with
  | some c, some v =>
    if sourceBreach s q x then .freeze
    else if !x.packet.valid ∨ r.completion = 0 ∨ r.completion % 64 ≠ 0 then .refuse 2
    else
      match (findTenant s c.charter).bind Tenant.inForce with
      | none => .refuse 12
      | some ch =>
        if q.conf.cls = 0 ∧ !charterDline ch then .refuse 12
        else
          match findModule s r.module with
          | none => .refuse 11
          | some m =>
            if m.charter ≠ c.charter ∨ m.state = .rejected ∨ !m.loaded then .refuse 11
            else if m.state = .translating then .wait
            else if r.cls ≠ q.conf.cls ∨ r.charter ≠ c.charter ∨ decide (r.cls = 0) ≠ decide (r.deadline ≠ 0) then .refuse 2
            else if r.cls = 0 ∧ !s.ptp.locked then .refuse 6
            else if !recordValid (VdShape.isSide v.shape) m.native.kernels.length l then .refuse 2
            else
              match m.native.kernels[r.entry]? with
              | none => .refuse 2
              | some k =>
                if hasLadder l k && !coverValid l then .refuse 2
                else if !(r.f.all fun w => (slotWord w).valid) then .refuse 3
                else if !declMatches k (4 * m.native.data.length) l then .refuse 4
                else if !launchFits s v l then .refuse 5
                else if s.deferred.any fun d => decide (d.ctx = q.ctx) then .wait
                else .accept { withLadder s q k ch.mincov l with far := ch.policy.getLsbD 9 }
  | _, _ => .wait

/-! ### Completion records and host ring entries (R381 to R389) -/

/-- The result word of a launch, as the porters read it (R239). -/
def resultWord (s : State) (l : Launch) : Nat := if l.lr.result = 0 then 0 else vreadNat s l.ctx l.lr.result 8

/-- A deadline launch ends after its deadline (R376). -/
def deadlineMissed (s : State) (l : Launch) : Bool := decide (l.lr.cls = 0) && decide (l.lr.deadline < s.ptp.time)

/-- Sums of the workgroups' counters (R281). -/
def sumCounts (gs : List Workgroup) : WgCounts :=
  gs.foldl (fun (a : WgCounts) g => ⟨satAdd32 a.gdiscard g.counts.gdiscard, satAdd32 a.probesent g.counts.probesent,
    satAdd32 a.resvgrant g.counts.resvgrant, satAdd32 a.fullstall g.counts.fullstall, satAdd32 a.edges g.counts.edges⟩)
    ⟨0, 0, 0, 0, 0⟩

/-- The 192 bytes of a completion record (R381). -/
def completionBytes (s : State) (l : Launch) (status : Nat) (accepted : Bool) : List Byte :=
  let w := sumCounts (s.wgs.filter fun g => decide (g.launch = l.id))
  let c := l.counts
  let n4 := fun (xs : List Nat) => xs.flatMap (toBytes 4)
  let dyn := l.dyn / 1024
  let stat := l.stat / 1024
  toBytes 4 (status + 256 * boolNat (deadlineMissed s l) + 512 * boolNat (decide (c.poolEvents ≠ 0))) ++
    toBytes 4 l.abortCode.toNat ++ toBytes 8 l.packet.tag.toNat ++ toBytes 8 (if accepted then l.acceptedAt else 0) ++
    toBytes 8 (l.firstAt.getD 0) ++ toBytes 8 s.ptp.time ++
    n4 [c.poolEvents, c.convNan, c.dataErrors, c.trapRecords, c.heldDiscarded] ++
    n4 [w.gdiscard, w.probesent, w.resvgrant, w.fullstall, w.edges] ++
    n4 [c.kept, c.recon, c.late, c.orphan, c.rnan, c.samples, c.dropped, c.up, c.down, if l.full then 0 else l.rung] ++
    toBytes 8 (resultWord s l) ++ toBytes 8 (dyn + stat) ++ toBytes 8 dyn ++ toBytes 8 stat ++ List.replicate 40 0

/-- After the completion record: DONE, then the host ring entry waits for its turn (R383, R387). The entry of a graph
queue is complete once the successor is chosen (R385). -/
def queueDone (s : State) (l : Launch) (status : Nat) : State :=
  withQueue s l.ctx l.queue fun q =>
    let e : RingOut := ⟨l.packet.tag, BitVec.ofNat 64 (resultWord s l), s.ptp.time, status, false, false,
      deadlineMissed s l, l.node.getD 0xFFFF, l.packet.irq, false, l.conf⟩
    { q with
      done := (q.done + 1) % 2 ^ 32
      waiting := q.waiting ++ [e]
      judging := decide (l.conf.kind = 2) && l.node.isSome
      lastNode := l.node.map fun n => (n, status) }

/-- The host ring has no place. -/
def hostRingFull (q : Queue) : Bool := decide (2 ^ q.conf.hlog ≤ wrapSub q.hwr q.hrd)

/-- The bytes of an entry (R387). -/
def ringOutBytes (q : Queue) (e : RingOut) : List Byte :=
  toBytes 8 e.tag.toNat ++ toBytes 8 e.result.toNat ++ toBytes 8 e.time ++
    toBytes 4 (e.status + 256 * boolNat e.gend + 512 * boolNat e.glimit + 1024 * boolNat e.dmiss) ++
    toBytes 4 (e.node + 65536 * q.conf.qnum)

/-- Raise the queue's interrupt: it covers every unsignalled entry (R389). -/
def raiseIrq (s : State) (q : Queue) (vector : Nat) : State :=
  emit (setQueue s { q with unsignalled := [], irqs := (q.irqs + 1) % 2 ^ 32 }) (.interrupt q.ctx q.num vector)

/-- An interrupt is due on an entry that has just been written (R389). -/
def irqDue (q : Queue) (e : RingOut) : Bool :=
  let c := field e.conf.coalesce.toNat 7 0
  (decide (c ≠ 0) && decide (c ≤ q.unsignalled.length)) || decide (e.status ≠ 0) || e.gend || e.irq

/-- HOST_RING_ENTRY (R387 to R389): the oldest waiting entry is written when the ring has room; RUN is cleared after the
last entry of a run (R385). -/
def execHostRingEntry (ctx q : Nat) (s : State) : Host.Outcome State Fault Refusal :=
  match findQueue s ctx q with
  | none => .next s
  | some x =>
    match x.waiting with
    | [] => .next s
    | e :: es =>
      if decide (wrapSub x.hwr x.hrd = 2 ^ e.conf.hlog) || (x.judging && es.isEmpty) then .next s
      else
        let s1 := vwrite s ctx (e.conf.hostRing + 32 * (x.hwr % 2 ^ e.conf.hlog)) (ringOutBytes x e)
        let x1 := { x with
          waiting := es
          hwr := (x.hwr + 1) % 2 ^ 32
          unsignalled := x.unsignalled ++ [(s.clock, e.conf)]
          run := x.run && !e.endsRun }
        let s2 := setQueue s1 x1
        .next (if irqDue x1 e then raiseIrq s2 x1 e.conf.vector else s2)

/-- COALESCING_TIMEOUT (R389): T µs have passed since the oldest unsignalled entry. -/
def execCoalescingTimeout (ctx q : Nat) (s : State) : Host.Outcome State Fault Refusal :=
  match findQueue s ctx q with
  | none => .next s
  | some x =>
    match x.unsignalled with
    | (c, conf) :: _ =>
      let t := field conf.coalesce.toNat 31 8
      .next (if t ≠ 0 ∧ c + 1750 * t ≤ s.clock then raiseIrq s x conf.vector else s)
    | [] => .next s

/-! ### Task graphs (R384, R385) -/

/-- What follows a node: the successor, or the end of the run and whether a limit ended it. -/
inductive Successor where
  | node (n : Nat)
  | over (limit : Bool)
deriving DecidableEq, Repr

/-- Evaluate OP of a node, in the table of the settings its launch was accepted under (R372, R385). -/
def successorOf (s : State) (q : Queue) (conf : QueueConf) (n status result : Nat) : Successor :=
  let at_ := conf.ring + 64 * n
  let v := vreadNat s q.ctx (at_ + 0x20) 8
  let op := vreadNat s q.ctx (at_ + 0x28) 4
  let succ := vreadNat s q.ctx (at_ + 0x2C) 4
  let hit : Option Bool := match op with
    | 1 => some true
    | 2 => some (decide (result = v))
    | 3 => some (decide (result < v))
    | 4 => some (decide (result &&& v ≠ 0))
    | _ => none
  if status ≠ 0 then .over false
  else
    match hit with
    | none => .over false
    | some b =>
      let m := if b then field succ 15 0 else field succ 31 16
      if m = 0xFFFF ∨ conf.nodes ≤ m then .over false
      else
        let lim := vreadNat s q.ctx (conf.ring + 64 * m + 0x34) 4 % 65536
        let ran := match q.runCounts.find? fun x => decide (x.1 = m) with | some x => x.2 | none => 0
        if lim ≠ 0 ∧ lim < ran + 1 then .over true else .node m

/-- Count a launch of a node in the run. -/
def countNode (xs : List (Nat × Nat)) (n : Nat) : List (Nat × Nat) :=
  if xs.any fun x => decide (x.1 = n) then xs.map fun x => if x.1 = n then (n, x.2 + 1) else x else (n, 1) :: xs

/-- Complete the last waiting entry. -/
def endEntry (limit : Bool) (xs : List RingOut) : List RingOut :=
  (List.range xs.length).filterMap fun (i : Nat) => (xs[i]?).map fun e =>
    if i + 1 = xs.length then { e with gend := true, glimit := limit, endsRun := true } else e

/-- The settings the last launch of a run was accepted under (R372). -/
def lastConf (q : Queue) : QueueConf :=
  match q.waiting.getLast? with
  | some e => e.conf
  | none => q.conf

/-- GRAPH_SUCCESSOR (R385): the result word is read after the completion record. A node whose reserved bits are not zero
freezes the queue, and is evaluated once it reads as it must (R17, R418). -/
def execGraphSuccessor (ctx q : Nat) (s : State) : Host.Outcome State Fault Refusal :=
  match findQueue s ctx q with
  | none => .next s
  | some x =>
    match x.judging, x.lastNode with
    | true, some (n, status) =>
      let conf := lastConf x
      if nodeBreach s ctx conf n then .next (if x.frozen then s else freezeQueue s ctx q)
      else
        let rec_ := vreadNat s ctx (conf.ring + 64 * n + 8) 8
        let addr := vreadNat s ctx (rec_ + 0x38) 8
        let result := if addr = 0 then 0 else vreadNat s ctx addr 8
        let x1 := { x with judging := false, lastNode := none }
        let s0 := vreadMet s ctx (conf.ring + 64 * n) 64
        let s1 := if addr = 0 then s0 else vreadMet s0 ctx addr 8
        .next (setQueue s1 (match successorOf s x conf n status result with
          | .node m => { x1 with nextNode := some m, runCounts := countNode x.runCounts m }
          | .over lim => { x1 with nextNode := none, waiting := endEntry lim x.waiting }))
    | _, _ => .next s

/-! ### Packet intake (R374, R377, R379, R388, R465) -/

/-- The next packet of a queue: a replay's, the next node's, or the one at HEAD. -/
def nextSource (s : State) (q : Queue) : Option Source :=
  match s.replaying.find? fun r => decide (r.ctx = q.ctx) && decide (r.queue = q.num) && r.launch.isNone with
  | some r => some ⟨⟨1, 0, 0, 0, 0⟩, none, some r.base⟩
  | none =>
    if q.conf.kind = 2 then
      q.nextNode.map fun n => ⟨packetOf (vreadSplit s q.ctx (q.conf.ring + 64 * n) 32), some n, none⟩
    else if q.tail = q.head then none
    else some ⟨packetOf (vreadSplit s q.ctx (q.conf.ring + 32 * (q.head % 2 ^ q.conf.plog)) 32), none, none⟩

/-- A queue's next packet can be taken, and what is decided of it. -/
def intakeOf (s : State) (q : Queue) : Option (Source × Verdict) :=
  let ctxOk := match findCtx s q.ctx with
    | some c => decide (c.stop = .none) && !c.frozen && !c.barred
    | none => false
  match nextSource s q with
  | none => none
  | some x =>
    let busy := s.launches.any fun l => decide (l.ctx = q.ctx) && decide (l.queue = q.num)
    if q.bound && !q.frozen && !q.barred && ctxOk && !hostRingFull q && !q.judging &&
        !(x.packet.ordered && busy) then
      match judge s q x with
      | .wait => none
      | v => some (x, v)
    else none

/-- Order of queues: context, then number. -/
def queueKey (q : Queue) : Nat := q.ctx * 256 + q.num

/-- The next queue of a class by the round robin: the first after the one served last. -/
def roundRobin (s : State) (cls : Nat) (qs : List Queue) : Option Queue :=
  let last := match s.served.find? fun x => decide (x.1 = cls) with | some x => x.2.1 * 256 + x.2.2 + 1 | none => 0
  match minByKey queueKey (qs.filter fun q => decide (last ≤ queueKey q)) with
  | some q => some q
  | none => minByKey queueKey qs

/-- Deadline packets by deadline, queue number, context (R374). -/
def deadlineBefore (s : State) (a b : Queue) : Bool :=
  let d := fun (q : Queue) => match nextSource s q with | some x => (readLaunch s q.ctx x).deadline | none => 0
  if d a ≠ d b then decide (d a < d b)
  else if a.num ≠ b.num then decide (a.num < b.num)
  else decide (a.ctx < b.ctx)

/-- The queue whose packet the dispatcher takes next (R374). -/
def nextIntake (s : State) : Option Queue :=
  let qs := s.queues.filter fun q => (intakeOf s q).isSome
  let cls := fun (n : Nat) => qs.filter fun q => decide (q.conf.cls = n)
  match (sortBy (deadlineBefore s) (cls 0)).head?, roundRobin s 1 (cls 1), roundRobin s 2 (cls 2) with
  | some q, _, _ => some q
  | none, some q, _ => some q
  | none, none, r => r

/-- The packet has been taken: HEAD counts it (R371), and a graph's node is used up; the packet of a replay comes from no
ring. -/
def packetTaken (q : Queue) (x : Source) : Queue :=
  if x.log.isSome then q
  else { q with head := (q.head + 1) % 2 ^ 32, nextNode := if x.node.isSome then none else q.nextNode }

/-- A refused launch (R377): the completion record where its address is usable, DONE, the host ring entry. -/
def refuseLaunch (s : State) (q : Queue) (x : Source) (status : Nat) : State :=
  let l := draftLaunch s q x
  let s1 := setQueue s (packetTaken q x)
  let s2 := if l.lr.completion = 0 ∨ l.lr.completion % 64 ≠ 0 then s1
    else vwriteSplit s1 l.ctx l.lr.completion (completionBytes s1 l status false)
  let s3 := bumpId (queueDone s2 l status)
  match x.log with
  | none => s3
  | some base =>
    match s3.replaying.find? fun r => decide (r.base = base) && r.launch.isNone with
    | some r => emit (bumpFree { s3 with replaying := s3.replaying.filter fun y => !decide (y = r) })
        (.response r.h 0 ((Config.freeWord s3.freeCount).setWidth 64))
    | none => s3

/-- The recording that waits for a launch of a queue takes this one: the copy of the record goes into the log (R463). -/
def beginRecording (s : State) (l : Launch) (x : Source) : State :=
  match s.recording.find? fun r => decide (r.ctx = l.ctx) && decide (r.queue = l.queue) && r.launch.isNone with
  | none => s
  | some r =>
    let bs := match x.log with
      | some base => readBytes s.mem (base + 0x40) 512
      | none => vreadSplit s l.ctx l.packet.record 512
    let s1 := physWrite s (r.base + 0x40) bs
    { s1 with recording := s1.recording.map fun y => if y = r then { y with launch := some l.id } else y }

/-- Step 5 of R377: the launch is accepted, its result word is zero (R239), its virtual device draws (R430). -/
def acceptLaunch (s : State) (q : Queue) (x : Source) (l : Launch) : State :=
  let s1 := bumpId (setQueue s (packetTaken q x))
  let s2 := { s1 with launches := s1.launches ++ [{ l with acceptedAt := s.ptp.time }] }
  let s3 := if l.lr.result = 0 then s2 else vwrite s2 l.ctx l.lr.result (toBytes 8 0)
  let s4 := beginRecording s3 l x
  let s5 := match x.log with
    | none => s4
    | some base => { s4 with replaying := s4.replaying.map fun r =>
        if r.base = base ∧ r.launch = none then { r with launch := some l.id, idleSince := s.clock } else r }
  settleDrawing s5 l.ctx

/-- The packet or node and the launch record have been read (R441). -/
def sourceMet (s : State) (q : Queue) (x : Source) : State :=
  match x.log, x.node with
  | some base, _ => readMet s q.ctx (poisoned s (base + 0x40) 512)
  | none, some n => vreadMet (vreadMet s q.ctx (q.conf.ring + 64 * n) 64) q.ctx x.packet.record 512
  | none, none => vreadMet (vreadMet s q.ctx (q.conf.ring + 32 * (q.head % 2 ^ q.conf.plog)) 32) q.ctx x.packet.record 512

/-- PACKET_INTAKE (R374, R377, R379). -/
def execPacketIntake (ctx q : Nat) (s : State) : Host.Outcome State Fault Refusal :=
  match nextIntake s with
  | none => .next s
  | some x =>
    if x.ctx ≠ ctx ∨ x.num ≠ q then .next s
    else
      let s1 := { s with served := (x.conf.cls, x.ctx, x.num) :: s.served.filter fun y => !decide (y.1 = x.conf.cls) }
      match intakeOf s x with
      | some (src, .refuse st) => .next (refuseLaunch (sourceMet s1 x src) x src st)
      | some (src, .accept l) => .next (acceptLaunch (sourceMet s1 x src) x src l)
      | some (_, .freeze) => .next (freezeQueue s ctx q)
      | _ => .next s

/-! ### The end of a launch (R238, R300, R344, R381, R383, R463) -/

/-- No skipped point of a workgroup waits to be written (R339). -/
def pointsWritten (l : Launch) (g : Workgroup) : Bool :=
  l.full || (skippedPoints (rungOf l g) (tileOf l g.wgid)).all fun p => !reconOpen l g p.1 p.2

/-- Everything of the launch has finished (step 1 of R300). -/
def launchFinished (s : State) (l : Launch) : Bool :=
  let gs := s.wgs.filter fun g => decide (g.launch = l.id)
  (gs.all fun g => decide (g.phase = .ended) && pointsWritten l g) &&
    !(s.cmds.any fun c => gs.any fun g => decide (g.id = c.wg)) &&
    (match l.killed with
      | some status => l.full || (decide (instantsDue l ≤ l.instants) && (decide (status = 1) || gs.all fun g => g.cover.counted))
      | none => decide (l.placed = gridTotal l) &&
        (l.full || (decide (l.counted = gridTotal l) && decide (l.instants = instantsDue l))))

/-- Release the held packets into their queues, in the order of acceptance (R238, R386). -/
def releaseHeldPackets (s : State) (l : Launch) : State :=
  foldList (fun s x =>
    match deviceQueue s l.ctx x.1 with
    | some q => setQueue (vwriteSplit s l.ctx (q.conf.ring + 32 * (q.tail % 2 ^ q.conf.plog)) x.2.bytes)
        { q with tail := (q.tail + 1) % 2 ^ 32 }
    | none => s) s l.heldPackets

/-- The coverage state word at the end of a launch that was not killed and ran its ladder (R344). -/
def writeCoverWord (s : State) (l : Launch) : State :=
  if l.full ∨ l.killed.isSome then s
  else
    let w := ladderTag l.lr.cover * 65536 + 8 + l.rung
    match l.node with
    | some n => vwrite s l.ctx (coverWordAddr l.conf n) (toBytes 4 w)
    | none => withQueue s l.ctx l.queue fun q => { q with cover := BitVec.ofNat 32 w }

/-- Usable clusters of a context's virtual device. -/
def usableClusters (s : State) (ctx : Nat) : Nat :=
  match vdOfCtx s ctx with
  | some v => (vdHomes s v).length
  | none => 0

/-- Close the recording of a launch: header, directory, second response (R452, R463, R464). -/
def closeRecording (s : State) (l : Launch) : State :=
  match s.recording.find? fun r => decide (r.launch = some l.id) with
  | none => s
  | some r =>
    let head := toBytes 4 0x444A524C ++ toBytes 4 (if r.complete then 1 else 2) ++ toBytes 4 r.used ++
      toBytes 4 r.lists.length ++ toBytes 8 l.lr.module ++ toBytes 4 (usableClusters s l.ctx) ++ List.replicate 36 0
    let dir := r.lists.flatMap fun x =>
      toBytes 4 (boolNat x.order) ++ toBytes 4 x.ident ++ toBytes 4 x.firstChunk ++ toBytes 4 x.count
    let s1 := physWrite s r.base head
    let s2 := physWrite s1 (r.base + 0x240) (List.replicate 3520 0)
    let s3 := physWrite s2 (r.base + 4096) (dir ++ List.replicate (8192 - dir.length) 0)
    emit { s3 with recording := s3.recording.filter fun y => !decide (y = r) }
      (.response r.h 0 (BitVec.ofNat 64 (boolNat r.complete + 2 ^ 32 * r.used)))

/-- The replay of a launch has entries left: one of them can never become due, and the launch waits for its divergence (R466). -/
def replayOpen (s : State) (l : Launch) : Bool :=
  match replayOf s l.id with
  | some r => l.killed.isNone && entriesLeft s r
  | none => false

/-- The second response of a replay that did not diverge, with every entry used (R466, R467). -/
def closeReplay (s : State) (l : Launch) : State :=
  match s.replaying.find? fun r => decide (r.launch = some l.id) with
  | none => s
  | some r => emit { s with replaying := s.replaying.filter fun y => !decide (y = r) } (.response r.h 0 0)

/-- The launch is over: its workgroups are gone. -/
def forgetLaunch (s : State) (l : Launch) : State :=
  { s with
    launches := s.launches.filter fun x => !decide (x.id = l.id)
    wgs := s.wgs.filter fun g => !decide (g.launch = l.id) }

/-- At its end a launch's sums take in an open part for the span still under way; its share of that span is charged to its
account at the span's end (R432, R433, log 57). -/
def chargeEnd (s : State) (l : Launch) : State :=
  let s1 := updLaunch s l.id fun l => { l with
    dyn := l.dyn + Config.openEnergy true s.power.spans l.id
    stat := l.stat + Config.openEnergy false s.power.spans l.id }
  { s1 with power := { s1.power with ended := s1.power.ended ++ [⟨l.id, l.lr.charter, l.lr.account, l.busy⟩] } }

/-- The end of a launch: boundary, coverage word, energy, completion record, DONE and ring entry, held packets, logs. -/
def endLaunch (s : State) (v : VDev) (l : Launch) : State :=
  let s1 := boundary s v l.id []
  let status := l.killed.getD 0
  let s2 := writeCoverWord s1 l
  let s2 := chargeEnd s2 l
  let l := (findLaunch s2 l.id).getD l
  let s3 := vwriteSplit s2 l.ctx l.lr.completion (completionBytes s2 l status true)
  let s4 := queueDone s3 l status
  let s5 := releaseHeldPackets s4 l
  let s6 := closeReplay (closeRecording s5 l) l
  settleDrawing (forgetLaunch s6 l) l.ctx

/-- LAUNCH_END (R300, R383): the boundary, the completion record, DONE and the ring entry; then the held packets. -/
def execLaunchEnd (launch : Nat) (s : State) : Host.Outcome State Fault Refusal :=
  match findLaunch s launch with
  | none => .next s
  | some l =>
    match vdOfCtx s l.ctx with
    | none => .next s
    | some v =>
      let mine := fun (r : Req) => s.wgs.any fun g => decide (g.launch = launch) && decide (g.id = r.wg)
      if !launchFinished s l || replayOpen s l || (s.reqs.any fun r => unperformed r && mine r) || writesUnderWay s v || linesWait s (vdHomes s v) then
        .next s
      else .next (endLaunch s v l)

end Sys2Proof.Machine
end

