-- ==== Sys2Proof/Machine/Mailbox.lean ====
section
/-! DEFINITION. Commands: who may issue them, the class mask, frozen contexts, and the order behind deferred changes
(R398 to R400, R419, R451, R470). -/
namespace Sys2Proof.Machine

/-! ### Status codes of R399 -/

def cmdOk : Nat := 0
def cmdDenied : Nat := 1
def cmdInvalid : Nat := 2
def cmdBusy : Nat := 3
def cmdPinned : Nat := 4
def cmdDeferred : Nat := 5

/-- Answer a command (R399). -/
def respond (s : State) (h : CmdHead) (status result : Nat) : State :=
  emit s (.response h status (BitVec.ofNat 64 result))

/-- Answer OK with no result. -/
def okay (s : State) (h : CmdHead) : State := respond s h cmdOk 0

/-- Masters a function is open to (R400, R451). -/
inductive OpenTo where
  | hypervisor | guest | either
deriving DecidableEq, Repr

/-- The issuer is one the table names. -/
def OpenTo.admits (x : OpenTo) (i : Issuer) : Bool :=
  match x, i with
  | .hypervisor, .hypervisor => true
  | .guest, .guest _ => true
  | .either, _ => true
  | _, _ => false

/-- The charter in force of a tenant. -/
def charterOf (s : State) (charter : Nat) : Option Charter := (findTenant s charter).bind Tenant.inForce

/-- Commands of a guest count only while its interface is in RUN (R398). -/
def interfaceRuns (s : State) : Issuer → Bool
  | .hypervisor => true
  | .guest v => match findVd s v with | some d => decide (d.tdisp = .run) | none => false

/-- The tenant that has shown itself in the session of a virtual device (R403). -/
def sessionTenant (s : State) (vd charter : Nat) : Bool :=
  match findVd s vd with
  | some v => decide (v.tenant = some charter)
  | none => false

/-- A guest acts for the tenant and the context of its own virtual device. -/
def ownInterface (s : State) (h : CmdHead) : Bool :=
  match h.issuer with
  | .hypervisor => true
  | .guest v => (decide (h.ctx = 0) && sessionTenant s v h.charter) || s.contexts.any fun c => decide (c.vd = v) && decide (c.charter = h.charter) &&
      (decide (h.ctx = 0) || decide (c.id = h.ctx))

/-- Bit c of the class mask; a command that concerns no tenant and no context is not under a mask (R400). -/
def maskAllows (s : State) (h : CmdHead) (cls : Nat) : Bool :=
  (decide (h.charter = 0) && decide (h.ctx = 0)) ||
    match charterOf s h.charter with
    | some ch => ch.classes.getLsbD cls
    | none => false

/-- The context a command names is another tenant's. -/
def namesForeign (s : State) (h : CmdHead) : Bool :=
  match findCtx s h.ctx with
  | some c => !decide (c.charter = h.charter)
  | none => false

/-- The context a command names exists and is the tenant's. -/
def namesContext (s : State) (h : CmdHead) : Bool :=
  match findCtx s h.ctx with
  | some c => decide (c.charter = h.charter)
  | none => false

/-- What a function asks of its admission: class, masters, whether the mask is passed over (class 1 and KILL), whether
it runs on a frozen context, and whether it must name a context. -/
structure Gate where
  cls : Nat
  openTo : OpenTo
  unmasked : Bool
  thaws : Bool
  onContext : Bool
deriving DecidableEq, Repr

/-- What comes of a command before its function acts. -/
inductive Admission where
  | admitted
  | refused (status : Nat)
  /-- A reserved bit of the descriptor is set: the context it came through is frozen, and the command answered INVALID (R17, R399,
  R418). -/
  | breach
  /-- DENIED by the class mask: written to the host log. -/
  | masked
deriving DecidableEq, Repr

/-- The context a command names is frozen (R419). -/
def frozenFor (s : State) (h : CmdHead) : Bool :=
  match findCtx s h.ctx with
  | some c => c.frozen
  | none => false

/-- The checks of R398 to R400, R419 and R470 in their order. A context is under the mask of its own tenant, so a command
that names another charter for it is INVALID. -/
def admission (s : State) (h : CmdHead) (g : Gate) : Admission :=
  if s.boot.stage ≠ 6 then .refused cmdBusy
  else if !(g.openTo.admits h.issuer) || !interfaceRuns s h.issuer || !(decide (g.cls = 1) || ownInterface s h) then
    .refused cmdDenied
  else if h.reserved ≠ 0 then .breach
  else if namesForeign s h then .refused cmdInvalid
  else if !g.unmasked && !maskAllows s h g.cls then .masked
  else if decide (g.cls = 10) && decide (h.spare ≠ 0) then .refused cmdInvalid
  else if g.onContext && !namesContext s h then .refused cmdInvalid
  else if !g.thaws && frozenFor s h then .refused cmdBusy
  else .admitted

/-- The context that a broken obligation came through: that of the guest's own interface; of the hypervisor's mailbox, the one
the command concerns, where it is the tenant's it names (R17, R418). -/
def breachCtx (s : State) (h : CmdHead) : Option Nat :=
  match h.issuer with
  | .guest v => (s.contexts.find? fun c => decide (c.vd = v)).map Context.id
  | .hypervisor => if namesContext s h then some h.ctx else none

/-- What follows from an admission: the function acts, or the command is answered. -/
def carryAdmitted (h : CmdHead) (act : State → State) (s : State) : Admission → State
  | .admitted => act s
  | .refused n => respond s h n 0
  | .masked => respond (emit s (.log (.denied h))) h cmdDenied 0
  | .breach => respond (match breachCtx s h with | some c => freezeCtx s c | none => s) h cmdInvalid 0

/-- A command: its function acts once it is admitted. A module that has tripped answers nothing (R450). -/
def command (g : Gate) (h : CmdHead) (act : State → State) (s : State) : Host.Outcome State Fault Refusal :=
  if s.boot.stage = 0 then .next s else .next (carryAdmitted h act s (admission s h g))

/-! ### The order behind deferred changes (R399) -/

/-- A command of class MEMORY or MAP must wait: an earlier one of its context is deferred, or held itself. -/
def heldBack (s : State) (ctx : Nat) : Bool :=
  (s.deferred.any fun d => decide (d.ctx = ctx)) || s.heldCmds.any fun i => decide (heldCtx i = ctx) && !isAccess i

/-- Hold a command. -/
def holdCmd (s : State) (i : HeldCmd) : State := { s with heldCmds := s.heldCmds ++ [i] }

/-- A command that is admitted acts, or is held while an earlier one of its context is not complete. -/
def actOrHold (i : HeldCmd) (ctx : Nat) (act : State → State) (s : State) : State :=
  if heldBack s ctx then holdCmd s i else act s

/-- A command of class MEMORY or MAP: admitted under the charter in force as it arrives (R404), then held while an earlier
one of its context is not complete. -/
def ordered (i : HeldCmd) (g : Gate) (h : CmdHead) (act : State → State) (s : State) : Host.Outcome State Fault Refusal :=
  command g h (actOrHold i h.ctx act) s

/-! ### Areas in grants (R407, R451) -/

/-- A grant of the context and the tenant a command names (R11, R407). -/
def grantOf (s : State) (h : CmdHead) (handle : Nat) : Option Grant :=
  (findGrant s handle).filter fun g => decide (g.ctx = h.ctx) && decide (g.charter = h.charter)

/-- The physical address of an offset in such a grant, if n bytes lie inside it. -/
def grantArea (s : State) (h : CmdHead) (handle off n : Nat) : Option Nat :=
  match grantOf s h handle with
  | some g => if off + n ≤ 65536 * 2 ^ g.k then some (65536 * g.frame + off) else none
  | none => none

/-- An area in device-memory frames. -/
def deviceArea (s : State) (h : CmdHead) (handle off n : Nat) : Option Nat :=
  match grantArea s h handle off n with
  | some a => if a < 2 ^ 39 then some a else none
  | none => none

/-! ### Stops that end (R419, R428) -/

/-- Stop a workgroup and every member of its neighbourhood. -/
def stopMembers (why : Nat) (s : State) (id : Nat) : State :=
  match findWg s id, (findWg s id).bind fun g => findLaunch s g.launch with
  | some g, some l => foldList (stopWg why) s ((membersOf s l g).map Workgroup.id)
  | _, _ => s

/-- The stop of a whole context ends; a workgroup whose home is retired, or being retired, stops at once, to leave it
(R446). -/
def endStopCtx (s : State) (ctx : Nat) : State :=
  let ids := (s.wgs.filter fun g => decide (g.ctx = ctx) && (match g.phase with | .imaged => false | .moving _ => false | _ => true)).map
    Workgroup.id
  let s1 := foldList endStop (updCtx s ctx fun c => { c with stop := .none }) ids
  foldList (stopMembers 1) s1
    ((s1.wgs.filter fun g => ids.contains g.id && clusterLeaves s1 g.home.cluster).map Workgroup.id)

end Sys2Proof.Machine
end

