-- ==== Sys2Proof/Machine/Tenants.lean ====
section
/-! DEFINITION. Commands of the classes PARTITION, TENANT and CONTEXT, and the guest's stores to a queue control block
(R357, R369, R370, R372, R394 to R396, R400 to R406, R414, R418, R419). -/
namespace Sys2Proof.Machine

/-! ### PARTITION (R394, R395) -/

/-- A rood is held by a virtual device. -/
def roodHeld (s : State) (n : Nat) : Bool := s.vds.any fun v => (VdShape.roods v.shape).contains n

/-- ROOD_MODE (R395). -/
def execRoodMode (h : CmdHead) (rood : Nat) (split : Bool) (s : State) : Host.Outcome State Fault Refusal :=
  command ⟨0, .hypervisor, false, false, false⟩ h (fun s =>
    if 16 ≤ rood then respond s h cmdInvalid 0
    else if roodHeld s rood then respond s h cmdBusy 0
    else
      let rest := s.splitRoods.filter fun n => !decide (n = rood)
      okay { s with splitRoods := if split then rest ++ [rood] else rest } h) s

/-- An aligned run of hard roods, or one side of a split rood (R394). -/
def shapeValid (s : State) : VdShape → Bool
  | .run base log2 => decide (log2 ≤ 4) && decide (base % 2 ^ log2 = 0) && decide (base + 2 ^ log2 ≤ 16) &&
      (VdShape.roods (.run base log2)).all fun n => !s.splitRoods.contains n
  | .side rood side => decide (rood < 16) && decide (side < 2) && s.splitRoods.contains rood

/-- Another virtual device holds a rood or the side. -/
def shapeTaken (s : State) (x : VdShape) : Bool :=
  s.vds.any fun v =>
    match x, v.shape with
    | .side n a, .side m b => decide (n = m) && decide (a = b)
    | x, y => (VdShape.roods x).any (VdShape.roods y).contains

/-- Distinct copy engines, at least one, of the 32 (R395). -/
def enginesValid (es : List Nat) : Bool :=
  !es.isEmpty && (es.all fun e => decide (e < 32)) && decide (dedup es = es)

/-- Another virtual device has one of the engines. -/
def enginesTaken (s : State) (vd : Nat) (es : List Nat) : Bool :=
  s.vds.any fun v => !decide (v.num = vd) && es.any v.engines.contains

/-- MAXR and SPLITOK of a charter (R402). -/
def shapeAllowed (ch : Charter) : VdShape → Bool
  | .run _ log2 => decide (log2 ≤ field ch.policy.toNat 4 0)
  | .side _ _ => ch.policy.getLsbD 10

/-- MAXR and SPLITOK of the tenant a command names, if it names one. -/
def shapeAllowedFor (s : State) (charter : Nat) (x : VdShape) : Bool :=
  match charterOf s charter with
  | some ch => shapeAllowed ch x
  | none => true

/-- The lowest number no virtual device has. -/
def freeVdNum (s : State) : Option Nat := (List.range 32).find? fun n => (findVd s n).isNone

/-- A virtual device as it is created. -/
def newVd (n : Nat) (x : VdShape) (es : List Nat) : VDev where
  num := n
  shape := x
  engines := es
  frozenEngines := []
  g := 0
  w := 0
  allowance := 0
  pool := 0
  released := 0
  spent := 0
  debt := 0
  drawing := false
  throttled := 0
  idleEnergy := 0
  imageClass := 0
  imageLoc := 0
  tdisp := .unlocked
  session := false
  tenant := none
  share := none
  ingress := []

/-- VD_CREATE (R394, R395): the result is its number. -/
def execVdCreate (h : CmdHead) (shape : VdShape) (engines : List Nat) (s : State) : Host.Outcome State Fault Refusal :=
  command ⟨0, .hypervisor, false, false, false⟩ h (fun s =>
    if !shapeValid s shape || !enginesValid engines then respond s h cmdInvalid 0
    else if !shapeAllowedFor s h.charter shape then respond s h cmdDenied 0
    else
      match freeVdNum s with
      | none => respond s h cmdBusy 0
      | some n =>
        if shapeTaken s shape || enginesTaken s n engines then respond s h cmdBusy 0
        else respond { s with vds := s.vds ++ [newVd n shape engines] } h cmdOk n) s

/-- VD_DESTROY (R395). -/
def execVdDestroy (h : CmdHead) (vd : Nat) (s : State) : Host.Outcome State Fault Refusal :=
  command ⟨0, .hypervisor, false, false, false⟩ h (fun s =>
    if (findVd s vd).isNone then respond s h cmdInvalid 0
    else if s.contexts.any fun c => decide (c.vd = vd) then respond s h cmdBusy 0
    else okay { s with
      vds := s.vds.filter fun v => !decide (v.num = vd)
      streams := s.streams.filter fun x => !decide (x.vd = vd) } h) s

/-- A virtual device holds a context of another tenant than the one a command names. -/
def vdForeign (s : State) (vd charter : Nat) : Bool :=
  s.contexts.any fun c => decide (c.vd = vd) && !decide (c.charter = charter)

/-- COPY_ASSIGN (R395): of a device that holds a context, under its tenant's mask (R400). -/
def execCopyAssign (h : CmdHead) (vd : Nat) (engines : List Nat) (s : State) : Host.Outcome State Fault Refusal :=
  command ⟨0, .hypervisor, false, false, false⟩ h (fun s =>
    if (findVd s vd).isNone || !enginesValid engines || vdForeign s vd h.charter then respond s h cmdInvalid 0
    else if enginesTaken s vd engines then respond s h cmdBusy 0
    else okay (updVd s vd fun v => { v with
      engines := engines, frozenEngines := v.frozenEngines.filter engines.contains }) h) s

/-! ### TENANT (R401 to R406) -/

/-- A P-384 public key: two coordinates of 48 bytes. -/
def keyBytes : Nat := 96

/-- A charter identifier that no tenant has, 24 bits, never 0; which one the Notary reserves is open. -/
def freeCharter (s : State) : Nat :=
  let pick := Config.choose s.freeCount (2 ^ 24 - 1) % (2 ^ 24 - 1) + 1
  if (findTenant s pick).isNone then pick
  else ((List.range (s.tenants.length + 1)).find? fun n => (findTenant s (n + 1)).isNone).getD 0 + 1

/-- TENANT_CREATE (R403, R406): the hypervisor's command reserves an identifier and draws the keys; the tenant's, inside
its SPDM session, binds its public key for good. -/
def execTenantCreate (h : CmdHead) (publicKey : List Byte) (s : State) : Host.Outcome State Fault Refusal :=
  command ⟨1, .either, true, false, false⟩ h (fun s =>
    match h.issuer with
    | .hypervisor =>
      if publicKey ≠ [] then respond s h cmdInvalid 0
      else
        let n := freeCharter s
        let t : Tenant := ⟨n, none, none, s.nextId, s.nextId + 1, []⟩
        respond (bumpFree (bumpId (bumpId { s with tenants := s.tenants ++ [t] }))) h cmdOk n
    | .guest v =>
      let session := match findVd s v with | some d => d.session | none => false
      match findTenant s h.charter with
      | none => respond s h cmdInvalid 0
      | some t =>
        if !session then respond s h cmdDenied 0
        else if t.key.isSome ∨ publicKey.length ≠ keyBytes then respond s h cmdInvalid 0
        else okay (updVd (updTenant s h.charter fun t => { t with key := some publicKey }) v fun d =>
          { d with tenant := some h.charter }) h) s

/-- The fields of a charter from its bytes (R401). -/
def charterFrom (bs : List Byte) : Charter where
  serial := natAt bs 8 8
  classes := wordIn bs 0x10
  policy := wordIn bs 0x14
  mincov := natAt bs 0x18 4
  grains := natAt bs 0x1C 4
  weight := natAt bs 0x20 4
  bytes := bs

/-- The conditions of R404. -/
def charterValid (t : Tenant) (bs : List Byte) : Bool :=
  let ch := charterFrom bs
  (match t.key with | some k => Config.verify k (Config.sha384 (bs.take 0xA0)) (byteList bs 0xA0 96) | none => false) &&
    decide (bs.length = 256) && decide (natAt bs 0 4 = 1) && decide (natAt bs 4 3 = t.charter) && decide (natAt bs 7 1 = 0) &&
    (match t.inForce with | some old => decide (old.serial < ch.serial) | none => true) &&
    decide (field ch.classes.toNat 31 11 = 0) && decide (field ch.policy.toNat 31 13 = 0) && decide (ch.mincov ≤ 65536) &&
    ((byteList bs 0x24 124).all fun b => decide (b = 0)) && decide (field ch.policy.toNat 6 5 ≠ 3) &&
    decide (field ch.policy.toNat 4 0 ≤ 4)

/-- Queues and contexts that a new charter no longer allows (R404). -/
def barBroken (s : State) (charter : Nat) (ch : Charter) : State :=
  let ctxs := s.contexts.filter fun c => decide (c.charter = charter)
  let breaks := fun (c : Context) => match findVd s c.vd with | some v => !shapeAllowed ch v.shape | none => false
  { s with
    queues := s.queues.map fun q =>
      if (ctxs.any fun c => decide (c.id = q.ctx)) ∧ q.bound ∧ q.conf.cls = 0 ∧ !charterDline ch then { q with barred := true }
      else q
    contexts := s.contexts.map fun c => if decide (c.charter = charter) && breaks c then { c with barred := true } else c }

/-- CHARTER_INSTALL (R404). -/
def execCharterInstall (h : CmdHead) (bytes : List Byte) (s : State) : Host.Outcome State Fault Refusal :=
  command ⟨1, .guest, true, false, false⟩ h (fun s =>
    match findTenant s h.charter with
    | none => respond s h cmdInvalid 0
    | some t =>
      if charterValid t bytes then
        okay (barBroken (updTenant s h.charter fun t => { t with inForce := some (charterFrom bytes) }) h.charter
          (charterFrom bytes)) h
      else respond s h cmdInvalid 0) s

/-! ### The end of a context (R357, R396, R407, R414) -/

/-- Recordings into areas that go away end: the log is not complete (log 44). -/
def closeRecordings (s : State) (mine : Nat → Bool) : State :=
  let gone := s.recording.filter fun r => mine r.base
  foldList (fun s r => respond s r.h cmdOk (2 ^ 32 * r.used))
    { s with recording := s.recording.filter fun r => !mine r.base } gone

/-- A physical range lies at least partly in a grant. -/
def inGrant (g : Grant) (pa n : Nat) : Bool :=
  decide (pa < 65536 * (g.frame + 2 ^ g.k)) && decide (65536 * g.frame < pa + n)

/-- A page uses frames of a grant. -/
def usesGrant (g : Grant) (p : Page) : Bool :=
  inGrant g p.pa (2 ^ p.bits) || (p.migratable && inGrant g p.hostPa (2 ^ p.bits))

/-- Two ranges of virtual addresses meet. -/
def rangesMeet (a n b m : Nat) : Bool := decide (a < b + m) && decide (b < a + n)

/-- Remove pages: the matching TLB entries of every cluster go, and walks that have not used the old one start anew
(R310). -/
def removePages (s : State) (ctx : Nat) (p : Page → Bool) : State :=
  let asid := asidOf s ctx
  let gone := s.pages.filter fun x => decide (x.ctx = ctx) && p x
  let s1 := { s with
    pages := s.pages.filter fun x => !(decide (x.ctx = ctx) && p x)
    tlb := s.tlb.filter fun e => !(decide (e.asid = asid) && gone.any fun x => rangesMeet e.vbase (2 ^ e.bits) x.va (2 ^ x.bits)) }
  { s1 with lists := s1.lists.filter fun l => !decide (l.ctx = ctx) || s1.pages.any fun x =>
      decide (x.ctx = ctx) && decide (x.list = (l.handle, l.off)) }

/-- The frames of a grant leave it, and no page, mapping list or recording uses them any more: device frames go into
quarantine, their L2 lines invalid, dirty data dropped; CXL and host frames go back to the hypervisor (R11, R414). -/
def quarantineGrant (s0 : State) (g : Grant) : State :=
  let s1 := removePages s0 g.ctx (usesGrant g)
  let s := { s1 with lists := s1.lists.filter fun l => !decide (l.handle = g.handle) }
  let frames := (List.range (2 ^ g.k)).map (g.frame + ·)
  let dev := decide (g.frame < 2 ^ 23)
  let mine := fun (pa : Nat) => decide (g.frame ≤ pa / 65536) && decide (pa / 65536 < g.frame + 2 ^ g.k)
  { closeRecordings s mine with
    streams := s.streams.filter fun x => !(mine x.base || mine x.index)
    contexts := s.contexts.map fun c =>
      if (match c.trace with | some tr => mine tr.base | none => false) then { c with trace := none, sample := none } else c
    grants := s.grants.filter fun x => !decide (x.handle = g.handle)
    quarantine := if dev then s.quarantine ++ frames else s.quarantine
    l2 := s.l2.filter fun l => !(decide (g.frame ≤ l.line / 512) && decide (l.line / 512 < g.frame + 2 ^ g.k)) }

/-- Every TLB entry, walk and L1 line of a context goes. -/
def forgetAsid (s : State) (asid : Nat) : State :=
  { s with
    tlb := s.tlb.filter fun x => !decide (x.asid = asid)
    walks := s.walks.filter fun x => !decide (x.asid = asid)
    l1 := s.l1.filter fun x => !decide (x.asid = asid) }

/-- End the launches of a context at once, after a kill. -/
def endLaunches (s : State) (ctx : Nat) : State :=
  match vdOfCtx s ctx with
  | none => s
  | some v => foldList (fun s l => match findLaunch s l.id with | some l' => endLaunch s v l' | none => s) s
      (s.launches.filter fun l => decide (l.ctx = ctx))

/-- A refused access: reads return all ones, writes are dropped; counted and logged. -/
def refuseCxl (s : State) (x : CxlAccess) : State :=
  let s1 := { s with cxlRefused := s.cxlRefused + 1 }
  let s2 := emit s1 (.log (.refusedCxl x.ctx x.va s1.cxlRefused))
  if x.write.isSome then s2 else emit s2 (.cxl (List.replicate x.size 0xFF))

/-- The host accesses that wait for a context's pages are refused (R474). -/
def refuseHeld (s : State) (p : HeldCmd → Bool) : State :=
  foldList (fun s i => match i with | .access x => refuseCxl s x | _ => s)
    { s with heldCmds := s.heldCmds.filter fun i => !(isAccess i && p i), due := s.due.filter fun i => !(isAccess i && p i) }
    ((s.due ++ s.heldCmds).filter fun i => isAccess i && p i)

/-- A context goes: its launches are killed, their records written; messages, translations, grants, queues, images and
settings go with it; a deferred change is complete. -/
def destroyCtx (s : State) (c : Context) : State :=
  let s1 := refuseHeld (endLaunches (killCtx s c.id 13) c.id) fun i => decide (heldCtx i = c.id)
  let gone := fun (x : Nat) => s1.cmds.any fun y => decide (y.id = x) && decide (ctxOfWg s1 y.wg = c.id)
  let s2 := dropImages (foldList (fun s d => okay s d.h) s1 (s1.deferred.filter fun d => decide (d.ctx = c.id)))
    fun x => decide (x.ctx = c.id)
  let s3 := forgetAsid { s2 with
    reqs := s2.reqs.filter fun r => !decide (r.ctx = c.id)
    cmds := s2.cmds.filter fun y => !gone y.id
    chains := s2.chains.filter fun y => !gone y.cmd
    pages := s2.pages.filter fun p => !decide (p.ctx = c.id)
    lists := s2.lists.filter fun p => !decide (p.ctx = c.id)
    violations := s2.violations.filter fun p => !decide (p.ctx = c.id)
    deferred := s2.deferred.filter fun d => !decide (d.ctx = c.id)
    heldCmds := s2.heldCmds.filter fun i => !decide (heldCtx i = c.id)
    due := s2.due.filter fun i => !decide (heldCtx i = c.id)
    queues := s2.queues.filter fun q => !decide (q.ctx = c.id)
    recording := s2.recording.filter fun r => !decide (r.ctx = c.id)
    replaying := s2.replaying.filter fun r => !decide (r.ctx = c.id)
    streams := s2.streams.filter fun x => !(decide (x.issuer = .guest c.vd))
    lastRun := s2.lastRun.filter fun x => !decide (x.ctx = c.id) } c.asid
  let s4 := foldList (fun s g => quarantineGrant s g) s3 (s3.grants.filter fun g => decide (g.ctx = c.id))
  updVd { s4 with contexts := s4.contexts.filter fun x => !decide (x.id = c.id) } c.vd fun v => { v with ingress := [] }

/-- TENANT_TEARDOWN (R11, R406, R414): its contexts go, then what grants it still has, its keys, charter, accounts and
modules. -/
def execTenantTeardown (h : CmdHead) (s : State) : Host.Outcome State Fault Refusal :=
  command ⟨1, .either, true, true, false⟩ h (fun s =>
    if (findTenant s h.charter).isNone then respond s h cmdInvalid 0
    else if h.issuer ≠ .hypervisor ∧ !ownInterface s h then respond s h cmdDenied 0
    else
      let s0 := foldList destroyCtx s (s.contexts.filter fun c => decide (c.charter = h.charter))
      let s1 := foldList quarantineGrant s0 (s0.grants.filter fun g => decide (g.charter = h.charter))
      okay { s1 with
        tenants := s1.tenants.filter fun t => !decide (t.charter = h.charter)
        vds := s1.vds.map fun v => if v.tenant = some h.charter then { v with tenant := none } else v
        modules := s1.modules.filter fun m => !decide (m.charter = h.charter) } h) s

/-! ### CONTEXT (R369, R370, R372, R396, R411, R419) -/

/-- An ASID of 12 bits that no context, TLB entry or L1 line uses (R396). -/
def freeAsid (s : State) : Option Nat :=
  (List.range 4096).find? fun n => !(s.contexts.any fun c => decide (c.asid = n)) &&
    !(s.tlb.any fun x => decide (x.asid = n)) && !(s.l1.any fun x => decide (x.asid = n))

/-- A context as it is created (R323, R396, R411). -/
def newCtx (id asid vd charter prBase prLog : Nat) : Context where
  id := id
  asid := asid
  vd := vd
  charter := charter
  prBase := prBase
  prLog := prLog
  prSeq := 0
  prReqs := []
  frozen := false
  stop := .none
  image := none
  session := false
  sessionAt := 0
  breakpoints := []
  trapSeq := 0
  deadlock := none
  conflict := 0
  pinRefused := 0
  counters := []
  trace := none
  sample := none
  sampleAt := 0
  barred := false
  dump := none
  reply := none
  dest := none

/-- IMG of a charter: the farthest image location (R402). -/
def charterImg (ch : Charter) : Nat := field ch.policy.toNat 6 5

/-- A device's image class and location as the tenant's charter allows them (R425). -/
def capImages (ch : Charter) (v : VDev) : VDev :=
  { v with imageClass := min v.imageClass (charterImg ch), imageLoc := min v.imageLoc (min v.imageClass (charterImg ch)) }

/-- CTX_CREATE (R396, R411): the hypervisor names the new context; the page request ring lies in a grant made to it. -/
def execCtxCreate (h : CmdHead) (vd prHandle prOffset prLog : Nat) (s : State) : Host.Outcome State Fault Refusal :=
  command ⟨2, .hypervisor, false, false, false⟩ h (fun s =>
    match findVd s vd, charterOf s h.charter, grantArea s h prHandle prOffset (32 * 2 ^ prLog) with
    | some v, some ch, some base =>
      if h.ctx = 0 ∨ (findCtx s h.ctx).isSome ∨ prLog < 4 ∨ 12 < prLog then respond s h cmdInvalid 0
      else if !shapeAllowed ch v.shape then respond s h cmdDenied 0
      else if s.contexts.any fun c => decide (c.vd = vd) then respond s h cmdBusy 0
      else
        match freeAsid s with
        | none => respond s h cmdBusy 0
        | some a => respond (updVd { s with contexts := s.contexts ++ [newCtx h.ctx a vd h.charter base prLog] } vd (capImages ch)) h cmdOk h.ctx
    | _, _, _ => respond s h cmdInvalid 0) s

/-- CTX_DESTROY (R396): launches that still run are killed. -/
def execCtxDestroy (h : CmdHead) (s : State) : Host.Outcome State Fault Refusal :=
  command ⟨2, .hypervisor, false, false, true⟩ h (fun s =>
    match findCtx s h.ctx with
    | some c => okay (destroyCtx s c) h
    | none => respond s h cmdInvalid 0) s

/-- The privileged half from its bytes (R369). -/
def confFrom (bs : List Byte) : QueueConf where
  ring := natAt bs 0 8
  conf := wordIn bs 8
  ctxWord := natAt bs 0xC 4
  poolBase := natAt bs 0x10 8
  poolLimit := natAt bs 0x18 4
  trapLog := natAt bs 0x1C 4
  trapBase := natAt bs 0x20 8
  counterPage := natAt bs 0x28 8
  hostRing := natAt bs 0x30 8
  coalesce := wordIn bs 0x38
  vector := natAt bs 0x3C 4
  nodes := natAt bs 0x40 4
  reservedZero := (byteList bs 0x44 60).all fun b => decide (b = 0)

/-- R369 and R370. -/
def confValid (ctx : Nat) (c : QueueConf) : Bool :=
  let graph := decide (c.kind = 2)
  c.reservedZero && decide (field c.conf.toNat 31 24 = 0) && decide (field c.conf.toNat 3 0 = 0) && decide (4 ≤ c.hlog) &&
    (if graph then decide (c.plog = 0) else decide (4 ≤ c.plog)) && decide (c.kind ≠ 3) && decide (c.cls ≠ 3) &&
    decide (c.ring % (if graph then 64 else 4096) = 0) && decide (c.ctxWord = ctx) && decide (c.poolBase % 4096 = 0) &&
    decide (1 ≤ c.poolLimit) && decide (c.poolLimit ≤ 2 ^ 24) && decide (4 ≤ c.trapLog) && decide (c.trapLog ≤ 12) &&
    decide (c.trapBase % 4096 = 0) && decide (c.counterPage % 65536 = 0) && decide (c.hostRing % 4096 = 0) &&
    decide (c.vector < 256) && (if graph then decide (1 ≤ c.nodes) && decide (c.nodes ≤ 65535) else decide (c.nodes = 0))

/-- The settings at 0x10 to 0x2F, the same in every bound queue of a context. -/
def sameWide (a b : QueueConf) : Bool :=
  decide (a.poolBase = b.poolBase) && decide (a.poolLimit = b.poolLimit) && decide (a.trapLog = b.trapLog) &&
    decide (a.trapBase = b.trapBase) && decide (a.counterPage = b.counterPage)

/-- No other bound queue of the context differs from the settings. -/
def agreesWide (s : State) (ctx : Nat) (c : QueueConf) : Bool :=
  s.queues.all fun q => !(decide (q.ctx = ctx) && q.bound && !decide (q.num = c.qnum)) || sameWide q.conf c

/-- A queue that has never been bound. -/
def newQueue (ctx qcb : Nat) (c : QueueConf) : Queue where
  ctx := ctx
  num := c.qnum
  qcb := qcb
  conf := c
  tail := 0
  head := 0
  done := 0
  hwr := 0
  hrd := 0
  irqs := 0
  refused := 0
  bound := true
  frozen := false
  run := false
  cover := 0
  barred := false
  runCounts := []
  nextNode := none
  lastNode := none
  waiting := []
  judging := false
  unsignalled := []

/-- DLINE for a deadline queue (R400). -/
def dlineAllows (s : State) (charter : Nat) (c : QueueConf) : Bool :=
  decide (c.cls ≠ 0) || match charterOf s charter with | some ch => charterDline ch | none => false

/-- The trap bin of some settings lies in device-memory frames of the context: no CXL or host frame, none that may migrate
(R20, R351). -/
def trapBinOk (s : State) (ctx : Nat) (c : QueueConf) : Bool :=
  (List.range (ceilDiv (64 * 2 ^ c.trapLog) 4096)).all fun i =>
    match pageFor s ctx (c.trapBase + 4096 * i) with
    | some p => !p.migratable && decide (p.pa < 2 ^ 39)
    | none => false

/-- QUEUE_BIND (R368 to R370): the mutable half of a queue number lasts until the context goes. -/
def execQueueBind (h : CmdHead) (qcb : Nat) (s : State) : Host.Outcome State Fault Refusal :=
  command ⟨2, .hypervisor, false, false, true⟩ h (fun s =>
    if qcb % 256 ≠ 0 ∨ (translate s h.ctx qcb).isNone then respond s h cmdInvalid 0
    else
      let s := vreadMet s h.ctx qcb 128
      let c := confFrom (vread s h.ctx qcb 128)
      let old := findQueue s h.ctx c.qnum
      if !confValid h.ctx c || !trapBinOk s h.ctx c || !agreesWide s h.ctx c || (match old with | some q => q.bound | none => false) ||
          decide (1024 ≤ (s.queues.filter Queue.bound).length) then respond s h cmdInvalid 0
      else if !dlineAllows s h.charter c then respond s h cmdDenied 0
      else
        let q := match old with
          | some q => { q with bound := true, conf := c, qcb := qcb, barred := false }
          | none => newQueue h.ctx qcb c
        let s1 := if old.isSome then s else { s with queues := s.queues ++ [q] }
        okay (setQueue s1 q) h) s

/-- QUEUE_UNBIND: BUSY while an accepted launch of the queue has not ended, or an entry waits. -/
def execQueueUnbind (h : CmdHead) (q : Nat) (s : State) : Host.Outcome State Fault Refusal :=
  command ⟨2, .hypervisor, false, false, true⟩ h (fun s =>
    match findQueue s h.ctx q with
    | some x =>
      if !x.bound then respond s h cmdInvalid 0
      else if (s.launches.any fun l => decide (l.ctx = h.ctx) && decide (l.queue = q)) || !x.waiting.isEmpty then
        respond s h cmdBusy 0
      else okay (setQueue s { x with bound := false }) h
    | none => respond s h cmdInvalid 0) s

/-- QUEUE_RELOAD (R372). -/
def execQueueReload (h : CmdHead) (q : Nat) (s : State) : Host.Outcome State Fault Refusal :=
  command ⟨2, .hypervisor, false, false, true⟩ h (fun s =>
    match findQueue s h.ctx q with
    | some x =>
      let s := vreadMet s h.ctx x.qcb 128
      let c := confFrom (vread s h.ctx x.qcb 128)
      if !x.bound || !confValid h.ctx c || !trapBinOk s h.ctx c || decide (c.qnum ≠ q) || !agreesWide s h.ctx c then respond s h cmdInvalid 0
      else if !dlineAllows s h.charter c then respond s h cmdDenied 0
      else okay (setQueue s { x with conf := c }) h
    | none => respond s h cmdInvalid 0) s

/-- UNFREEZE (R372, R419): the master goes on from its preserved state. -/
def execUnfreeze (h : CmdHead) (m : Master) (s : State) : Host.Outcome State Fault Refusal :=
  command ⟨2, .hypervisor, false, true, true⟩ h (fun s =>
    match m, findCtx s h.ctx with
    | .queue q, _ =>
      if (findQueue s h.ctx q).isSome then okay (withQueue s h.ctx q fun x => { x with frozen := false }) h
      else respond s h cmdInvalid 0
    | .engine e, some c => okay (updVd s c.vd fun v => { v with frozenEngines := v.frozenEngines.filter fun x => !decide (x = e) }) h
    | .context, some c =>
      let s1 := updCtx s h.ctx fun c => { c with frozen := false }
      okay (match c.stop with
        | .stopping .freeze _ => endStopCtx s1 h.ctx
        | .stopped .freeze _ => endStopCtx s1 h.ctx
        | _ => s1) h
    | _, none => respond s h cmdInvalid 0) s

/-- KILL (R357, R382, R419): every launch of the context ends with status KILLED. -/
def execKill (h : CmdHead) (s : State) : Host.Outcome State Fault Refusal :=
  command ⟨2, .hypervisor, true, true, true⟩ h (fun s => okay (killCtx s h.ctx 13) h) s

/-- QCB_STORE (R368, R372, R418): a guest's store to either half takes a protection fault and freezes the queue; no byte
is written. -/
def execQcbStore (ctx q off : Nat) (_b : Byte) (s : State) : Host.Outcome State Fault Refusal :=
  match findQueue s ctx q with
  | some x =>
    if x.bound ∧ off < 256 ∧ !x.frozen then .next (freezeQueue s ctx q) else .next s
  | none => .next s

end Sys2Proof.Machine
end

