-- ==== Sys2Proof/Machine/Mapping.lean ====
section
/-! DEFINITION. Grants, mappings, migration, host accesses and quarantine (R407 to R414, R474). -/
namespace Sys2Proof.Machine

/-! ### Frame grants (R407) -/

/-- Two runs of frames meet. -/
def runsMeet (f k f' k' : Nat) : Bool := decide (f < f' + 2 ^ k') && decide (f' < f + 2 ^ k)

/-- An image lies in a run of frames (R425). -/
def imageIn (f k : Nat) (x : Image) : Bool :=
  decide (x.addr < 65536 * (f + 2 ^ k)) && decide (65536 * f < x.addr + x.bytes.length)

/-- A run of device frames is free: not granted, not in quarantine, no image in it, inside what the group offers (R446). -/
def runFree (s : State) (rood k f : Nat) : Bool :=
  (s.grants.all fun g => !runsMeet f k g.frame g.k) &&
    (s.quarantine.all fun q => !(decide (f ≤ q) && decide (q < f + 2 ^ k))) &&
    (s.images.all fun x => !imageIn f k x) && decide (f + 2 ^ k ≤ rood * 2 ^ 19 + groupBytes s rood / 65536)

/-- The first free run from an aligned index on. -/
def searchRun (s : State) (rood k : Nat) : Nat → Nat → Option Nat
  | 0, _ => none
  | fuel + 1, i =>
    if runFree s rood k (rood * 2 ^ 19 + i * 2 ^ k) then some (rood * 2 ^ 19 + i * 2 ^ k)
    else searchRun s rood k fuel (i + 1)

/-- A free run of a rood; which one the Notary takes is open. -/
def pickRun (s : State) (rood k : Nat) : Option Nat :=
  let n := groupBytes s rood / 65536 / 2 ^ k
  let i := Config.choose s.freeCount n % n
  (searchRun s rood k (n - i) i).or (searchRun s rood k i 0)

/-- CXL or host frames: outside device memory, aligned, held by no other context. -/
def outsideRun (s : State) (ctx k f : Nat) : Bool :=
  decide (2 ^ 23 ≤ f) && decide (f % 2 ^ k = 0) &&
    (s.grants.all fun g => decide (g.ctx = ctx) || !runsMeet f k g.frame g.k) && s.images.all fun x => !imageIn f k x

/-- Record a grant; its handle is never used again. -/
def addGrant (s : State) (h : CmdHead) (k f : Nat) (src : FrameSource) : State :=
  respond (bumpId { s with grants := s.grants ++ [⟨s.nextId, h.ctx, h.charter, f, k, src⟩] }) h cmdOk s.nextId

/-- FRAME_GRANT (R407). CXL and host frames may be granted to a context identifier before CTX_CREATE names it. -/
def grantAct (h : CmdHead) (k : Nat) (src : FrameSource) (s : State) : State :=
  if 14 < k ∨ h.ctx = 0 then respond s h cmdInvalid 0
  else
    match src with
    | .rood r =>
      match vdOfCtx s h.ctx with
      | none => respond s h cmdInvalid 0
      | some v =>
        if !(VdShape.roods v.shape).contains r then respond s h cmdInvalid 0
        else
          match pickRun s r k with
          | none => respond s h cmdBusy 0
          | some f => bumpFree (addGrant s h k f src)
    | .cxl f => if outsideRun s h.ctx k f then addGrant s h k f src else respond s h cmdInvalid 0
    | .host f => if outsideRun s h.ctx k f then addGrant s h k f src else respond s h cmdInvalid 0

def execFrameGrant (h : CmdHead) (k : Nat) (src : FrameSource) (s : State) : Host.Outcome State Fault Refusal :=
  ordered (.grant h k src) ⟨3, .hypervisor, false, false, false⟩ h (grantAct h k src) s

/-- Launches of a context accepted and not ended. -/
def launchIds (s : State) (ctx : Nat) : List Nat := (s.launches.filter fun l => decide (l.ctx = ctx)).map Launch.id

/-- Defer a change of translations (R410). -/
def defer (s : State) (h : CmdHead) (k : DeferKind) : State :=
  respond { s with deferred := s.deferred ++ [⟨h.ctx, h, k, launchIds s h.ctx⟩] } h cmdDeferred 0

/-- FRAME_REVOKE (R407, R410): of the tenant's own grant; of mapped frames, or of frames that hold a mapping list in
force, deferred. -/
def revokeAct (h : CmdHead) (handle : Nat) (s : State) : State :=
  match findGrant s handle with
  | none => respond s h cmdInvalid 0
  | some g =>
    if g.ctx ≠ h.ctx ∨ g.charter ≠ h.charter then respond s h cmdInvalid 0
    else if (s.pages.any fun p => decide (p.ctx = h.ctx) && usesGrant g p) ||
        (s.lists.any fun l => decide (l.ctx = h.ctx) && decide (l.handle = handle)) then defer s h (.revoke handle)
    else okay (quarantineGrant s g) h

def execFrameRevoke (h : CmdHead) (handle : Nat) (s : State) : Host.Outcome State Fault Refusal :=
  ordered (.revoke h handle) ⟨3, .hypervisor, false, false, false⟩ h (revokeAct h handle) s

/-! ### Mapping lists (R408, R409) -/

/-- One entry of a mapping list. -/
structure MapEntry where
  va : Nat
  dev : Nat
  hst : Nat
  first : Nat
  count : Nat
  flags : Nat
  zero : Bool
deriving DecidableEq, Repr

/-- An entry from its 48 bytes. -/
def mapEntryOf (bs : List Byte) : MapEntry :=
  ⟨natAt bs 0 8, natAt bs 8 8, natAt bs 0x10 8, natAt bs 0x18 4, natAt bs 0x1C 4, natAt bs 0x20 4,
    decide (natAt bs 0x24 12 = 0)⟩

/-- log2 of the page size: 64 KiB or 2 MiB. -/
def MapEntry.bits (e : MapEntry) : Nat := if flag e.flags 2 then 21 else 16
def MapEntry.migratable (e : MapEntry) : Bool := flag e.flags 3

/-- Frames that an entry uses of each grant. -/
def MapEntry.frames (e : MapEntry) : Nat := e.count * 2 ^ (e.bits - 16)

/-- An entry's own rules, and its grants. -/
def entryValid (s : State) (h : CmdHead) (e : MapEntry) : Bool :=
  e.zero && decide (e.va % 2 ^ e.bits = 0) && decide (e.va + e.count * 2 ^ e.bits ≤ 2 ^ 52) && decide (1 ≤ e.count) &&
    decide (e.flags < 16) && (decide (e.bits = 16) || decide (e.first % 32 = 0)) &&
    match grantOf s h e.dev with
    | none => false
    | some g =>
      decide (e.first + e.frames ≤ 2 ^ g.k) &&
        (if e.migratable then
          decide (e.bits = 16) &&
            (match grantOf s h e.hst with
              | some x => decide (x.k = g.k)
              | none => false)
        else decide (e.hst = 0))

/-- An entry overlaps an existing mapping. -/
def entryOverlaps (s : State) (ctx : Nat) (e : MapEntry) : Bool :=
  s.pages.any fun p => decide (p.ctx = ctx) && rangesMeet e.va (e.count * 2 ^ e.bits) p.va (2 ^ p.bits)

/-- An entry would put a CXL or host frame, or one that may migrate to the host, at the trap bin of a bound queue (R351). -/
def entryAtTrapBin (s : State) (ctx : Nat) (e : MapEntry) : Bool :=
  let outside := match findGrant s e.dev with | some g => decide (2 ^ 23 ≤ g.frame) | none => false
  (outside || e.migratable) && s.queues.any fun q => decide (q.ctx = ctx) && q.bound &&
    rangesMeet e.va (e.count * 2 ^ e.bits) q.conf.trapBase (64 * 2 ^ q.conf.trapLog)

/-- The pages an entry maps. A migratable page begins as DEVICE. -/
def entryPages (s : State) (ctx : Nat) (list : Nat × Nat) (e : MapEntry) : List Page :=
  let base := fun (h : Nat) => match findGrant s h with | some g => 65536 * (g.frame + e.first) | none => 0
  (List.range e.count).map fun i =>
    { ctx := ctx, va := e.va + i * 2 ^ e.bits, bits := e.bits, pa := base e.dev + i * 2 ^ e.bits
      hostPa := if e.migratable then base e.hst + i * 2 ^ e.bits else 0
      writable := flag e.flags 1, readable := flag e.flags 0, migratable := e.migratable, state := .device
      pinned := none, list := list }

/-- The entries of a list in memory. -/
def listEntries (s : State) (pa count : Nat) : List MapEntry :=
  (List.range count).map fun i => mapEntryOf (readClean s (pa + 48 * i) 48)

/-- A request that a range of virtual addresses answers. -/
def answers (lo n : Nat) (r : PageReq) : Bool := decide (lo ≤ r.va) && decide (r.va < lo + n)

/-- Requests for pages in a range are answered as supplied: the waiting records are tested (R347, R409). -/
def supply (s : State) (ctx lo n : Nat) : State :=
  let s1 := updCtx s ctx fun c => { c with prReqs := c.prReqs.filter fun r => !answers lo n r }
  retestCtx { s1 with violations := s1.violations.filter fun x =>
    !(decide (x.ctx = ctx) && decide (lo ≤ x.va) && decide (x.va < lo + n)) } ctx 9

/-- A mapping list comes into force; one that is in force already, since UNMAP left some entries, may reach further. -/
def addList (xs : List MapList) (x : MapList) : List MapList :=
  let same := fun (l : MapList) => decide (l.ctx = x.ctx) && decide (l.handle = x.handle) && decide (l.off = x.off)
  if xs.any same then xs.map fun l => if same l then { l with count := max l.count x.count } else l else xs ++ [x]

/-- MAP (R408 to R410): every entry is checked, or nothing is mapped; adding takes effect at once. -/
def mapAct (h : CmdHead) (handle off count : Nat) (s : State) : State :=
  match grantArea s h handle off (48 * count) with
  | none => respond s h cmdInvalid 0
  | some pa =>
    if count = 0 ∨ 4096 < count then respond s h cmdInvalid 0
    else
      let s := readMet s h.ctx (poisoned s pa (48 * count))
      let es := listEntries s pa count
      if !(es.all fun e => entryValid s h e && !entryOverlaps s h.ctx e && !entryAtTrapBin s h.ctx e) ∨
          !apart (fun (a b : MapEntry) => rangesMeet a.va (a.count * 2 ^ a.bits) b.va (b.count * 2 ^ b.bits)) es then
        respond s h cmdInvalid 0
      else
        let s1 := { s with
          pages := s.pages ++ es.flatMap (entryPages s h.ctx (handle, off))
          lists := addList s.lists ⟨h.ctx, handle, off, count, pa⟩ }
        okay (foldList (fun s e => supply s h.ctx e.va (e.count * 2 ^ e.bits)) s1 es) h

def execCmdMap (h : CmdHead) (handle off count : Nat) (s : State) : Host.Outcome State Fault Refusal :=
  ordered (.map h handle off count) ⟨4, .guest, false, false, true⟩ h (mapAct h handle off count) s

/-- UNMAP of some entries of a list in force (R409, R410). -/
def unmapAct (h : CmdHead) (handle off first count : Nat) (s : State) : State :=
  match s.lists.find? fun l => decide (l.ctx = h.ctx) && decide (l.handle = handle) && decide (l.off = off) with
  | none => respond s h cmdInvalid 0
  | some l =>
    if count = 0 ∨ l.count < first + count then respond s h cmdInvalid 0
    else
      let es := ((listEntries s l.pa l.count).drop first).take count
      let vas := (s.pages.filter fun p => decide (p.ctx = h.ctx) && decide (p.list = (handle, off)) &&
        es.any fun e => rangesMeet e.va (e.count * 2 ^ e.bits) p.va (2 ^ p.bits)).map Page.va
      defer s h (.unmap (handle, off) vas)

def execUnmap (h : CmdHead) (handle off first count : Nat) (s : State) : Host.Outcome State Fault Refusal :=
  ordered (.unmap h handle off first count) ⟨4, .guest, false, false, true⟩ h (unmapAct h handle off first count) s

/-- Apply a deferred change. -/
def applyDeferred (s : State) (d : Deferred) : State :=
  match d.kind with
  | .unmap list vas => removePages s d.ctx fun p => decide (p.list = list) && vas.contains p.va
  | .revoke handle =>
    match findGrant s handle with
    | some g => quarantineGrant s g
    | none => s

/-- DEFERRED_CHANGE_APPLY (R399, R410): once every launch accepted before the command has ended; the second response is
sent and the held commands go on. -/
def execDeferredChangeApply (ctx : Nat) (s : State) : Host.Outcome State Fault Refusal :=
  match s.deferred.find? fun d => decide (d.ctx = ctx) with
  | none => .next s
  | some d =>
    if d.before.any fun n => (findLaunch s n).isSome then .next s
    else
      let s1 := applyDeferred { s with deferred := s.deferred.filter fun x => !decide (x = d) } d
      .next (resumeCmds (okay s1 d.h) ctx)

/-- VIOLATE (R411): the page a request waits for may not be used. -/
def violateAct (h : CmdHead) (va : Nat) (s : State) : State :=
  let pva := requestPageVa s h.ctx va
  match (findCtx s h.ctx).bind fun c => c.prReqs.find? fun r => decide (r.va = pva) with
  | none => respond s h cmdInvalid 0
  | some r =>
    let s1 := updCtx s h.ctx fun c => { c with prReqs := c.prReqs.filter fun x => !decide (x = r) }
    okay (retestCtx { s1 with violations := ⟨h.ctx, pva⟩ :: s1.violations } h.ctx 9) h

def execViolate (h : CmdHead) (va : Nat) (s : State) : Host.Outcome State Fault Refusal :=
  ordered (.violate h va) ⟨4, .guest, false, false, true⟩ h (violateAct h va) s

/-! ### Migration (R412, R413) -/

/-- Change one page. -/
def updPage (s : State) (ctx va : Nat) (f : Page → Page) : State :=
  { s with pages := s.pages.map fun p => if p.ctx = ctx ∧ p.va = va then f p else p }

/-- The cycles of 1 ms. -/
def pinCycles : Nat := 1750000

/-- A page is pinned against migration. -/
def pinnedNow (s : State) (p : Page) : Bool := match p.pinned with | some c => decide (s.clock < c) | none => false

/-- A device request takes precedence over the host's: pinned for 1 ms, counted and logged (R413). -/
def precedence (s : State) (p : Page) : State :=
  let s1 := updCtx (updPage s p.ctx p.va fun p => { p with pinned := some (s.clock + pinCycles) }) p.ctx
    fun c => { c with conflict := satAdd32 c.conflict 1 }
  match findCtx s1 p.ctx with
  | some c => emit s1 (.log (.conflict p.ctx c.conflict))
  | none => s1

/-- The L1 lines of a page in the homes of a context's virtual device are written back and invalidated; the copy of the page waits
until its write-backs are performed. -/
def flushPage (s : State) (p : Page) : State :=
  let asid := asidOf s p.ctx
  let mine := s.l1.filter fun l => decide (l.asid = asid) && decide (p.va ≤ 128 * l.vline) && decide (128 * l.vline < p.va + 2 ^ p.bits)
  foldList (fun s l => (invalidateLine (stopInstall s l.home l.pline) l p.ctx 0 noThread).1) s mine

/-- MIGRATE_OUT (R412, R413); where it has waited for the page already, the precedence of the device has been counted. -/
def migrateOutAct (acted : Bool) (h : CmdHead) (va : Nat) (s : State) : State :=
  match pageFor s h.ctx va with
  | none => respond s h cmdInvalid 0
  | some p =>
    if !p.migratable then respond s h cmdInvalid 0
    else
      match p.state with
      | .device =>
        if pinnedNow s p then
          let s1 := updCtx s h.ctx fun c => { c with pinRefused := satAdd32 c.pinRefused 1 }
          let n := match findCtx s1 h.ctx with | some c => c.pinRefused | none => 0
          respond (emit s1 (.log (.pinRefused h.ctx n))) h cmdPinned 0
        else
          let asid := asidOf s h.ctx
          let s1 := { s with tlb := s.tlb.filter fun e =>
            !(decide (e.asid = asid) && rangesMeet e.vbase (2 ^ e.bits) p.va (2 ^ p.bits)) }
          okay (updPage (flushPage s1 p) p.ctx p.va fun p => { p with state := .toHost }) h
      | .toDevice => holdCmd (if acted then s else precedence s p) (.migrateOut h va true)
      | .toHost => okay s h
      | .host => okay s h

def execMigrateOut (h : CmdHead) (va : Nat) (s : State) : Host.Outcome State Fault Refusal :=
  ordered (.migrateOut h va false) ⟨4, .guest, false, false, true⟩ h (migrateOutAct false h va) s

/-- Copy n bytes of physical memory; units keep their poison. -/
def copyPhys (s : State) (src dst n : Nat) : State :=
  let cells := s.mem.filter fun c => decide (src ≤ c.1) && decide (c.1 < src + n)
  { s with
    mem := cells.foldl (fun m c => writeByte m (dst + (c.1 - src)) c.2) (clearRange s.mem dst n)
    poison := (s.poison.filter fun u => !(decide (dst ≤ 32 * u) && decide (32 * u < dst + n))) ++
      ((s.poison.filter fun u => decide (src ≤ 32 * u) && decide (32 * u < src + n)).map fun u => u + dst / 32 - src / 32) }

/-- A message that still goes to a page's frames. -/
def goesInto (p : Page) (r : Req) : Bool :=
  sliceBound r && notPerformed r && decide (p.pa ≤ r.pa) && decide (r.pa < p.pa + 2 ^ p.bits)

/-- MIGRATION_COPY_COMPLETE (R412, R413): a page on its way in becomes DEVICE, and who waits for it goes on; a page on its
way out becomes HOST, and the host accesses that have waited for it are refused (R474). -/
def execMigrationCopyComplete (ctx va : Nat) (s : State) : Host.Outcome State Fault Refusal :=
  match pageFor s ctx va with
  | none => .next s
  | some p =>
    match p.state with
    | .toDevice =>
      let s1 := updPage (copyPhys s p.hostPa p.pa (2 ^ p.bits)) ctx p.va fun p => { p with state := .device }
      let s2 := resumeAccesses (supply s1 ctx p.va (2 ^ p.bits)) p
      .next (if s2.deferred.any fun d => decide (d.ctx = ctx) then s2 else resumeCmds s2 ctx)
    | .toHost =>
      if s.reqs.any (goesInto p) then .next s
      else
        let s1 := updPage (copyPhys s p.pa p.hostPa (2 ^ p.bits)) ctx p.va fun p => { p with state := .host }
        .next (refuseHeld s1 (accessTo p))
    | .device => .next s
    | .host => .next s

/-- MIGRATION_PIN_EXPIRY (R413). -/
def execMigrationPinExpiry (ctx va : Nat) (s : State) : Host.Outcome State Fault Refusal :=
  match pageFor s ctx va with
  | none => .next s
  | some p => if p.pinned.isSome && !pinnedNow s p then .next (updPage s ctx p.va fun p => { p with pinned := none }) else .next s

/-! ### Host accesses over CXL.mem (R474) -/

/-- CXL_MEM_ACCESS (R412, R413, R474): a DEVICE page of a migratable mapping is served; a page on its way keeps the access
waiting, and on its way in the device takes precedence. A write to a control block or a mapping list is refused like any store of
the guest's (R368, R409, R418). -/
def execCxlMemAccess (x : CxlAccess) (s : State) : Host.Outcome State Fault Refusal :=
  match pageFor s x.ctx x.va with
  | none => .next (refuseCxl s x)
  | some p =>
    if !p.migratable || !x.inRun || !tdispRun s x.ctx || decide (p.va + 2 ^ p.bits < x.va + x.size) then .next (refuseCxl s x)
    else
      match p.state with
      | .device =>
        let pa := p.pa + (x.va - p.va)
        .next (match x.write with
          | some bs =>
            match freezeFor s x.ctx x.va x.size pa with
            | some s1 => refuseCxl s1 x
            | none => physWrite s pa (bs.take x.size)
          | none => emit (readMet s x.ctx (poisoned s pa x.size)) (.cxl (readClean s pa x.size)))
      | .toDevice => .next (holdCmd (precedence s p) (.access x))
      | .toHost => .next (holdCmd s (.access x))
      | .host => .next (refuseCxl s x)

/-! ### Quarantine (R414) -/

/-- QUARANTINE_SCRUB_COMPLETE: the frame is zero and rejoins the free list. -/
def execQuarantineScrubComplete (frame : Nat) (s : State) : Host.Outcome State Fault Refusal :=
  if s.quarantine.contains frame then
    .next { s with
      mem := clearRange s.mem (65536 * frame) 65536
      poison := s.poison.filter fun u => !decide (u / 2048 = frame)
      quarantine := s.quarantine.filter fun f => !decide (f = frame) }
  else .next s

/-- A held command or access goes on: a command has been admitted as it came (R404). -/
def runHeld (c : HeldCmd) (s : State) : Host.Outcome State Fault Refusal :=
  match c with
  | .grant h k src => .next (actOrHold c h.ctx (grantAct h k src) s)
  | .revoke h handle => .next (actOrHold c h.ctx (revokeAct h handle) s)
  | .map h handle off count => .next (actOrHold c h.ctx (mapAct h handle off count) s)
  | .unmap h handle off first count => .next (actOrHold c h.ctx (unmapAct h handle off first count) s)
  | .violate h va => .next (actOrHold c h.ctx (violateAct h va) s)
  | .migrateOut h va acted => .next (actOrHold c h.ctx (migrateOutAct acted h va) s)
  | .access x => execCxlMemAccess x s

end Sys2Proof.Machine
end

