-- ==== Sys2Proof/Machine/Schedule.lean ====
section
/-! DEFINITION. Forced continuation of a context, its images, and dumps: PREEMPT, EVICT, RESUME, IMAGE_PLACE, DUMP, and
the steps that complete them (R420 to R429, R434, R452, R462, R480). -/
namespace Sys2Proof.Machine

/-! ### When a stop is complete (R420 to R422) -/

/-- A piece of a chain has places, or waits for them, and is not read yet; one that waits for a page has not begun (R219, R321). -/
def chainOpen (s : State) (c : Cmd) : Bool := c.waitPage.isNone && s.chains.any fun x => decide (x.cmd = c.id)

/-- The engines of a workgroup stand at their boundaries: no matrix command in flight, no piece begun and not landed; a copy
job whose engine is frozen stands where it is (R419). -/
def enginesQuiet (s : State) (g : Workgroup) : Bool :=
  s.cmds.all fun c => !decide (c.wg = g.id) ||
    match c.state, c.kind with
    | .queued, _ => true
    | .running _, .copy _ _ _ => !(pieceOpen c || chainOpen s c) || !jobEngineOn s g c
    | .running _, _ => false

/-- A thread held under the pool-exhausted response. -/
def isHeld (t : Thread) : Bool := match t.place with | .held _ => true | _ => false

/-- No thread of a workgroup is resident but held ones, and its engines are quiet. -/
def wgQuiet (s : State) (g : Workgroup) : Bool :=
  (s.threads.all fun t => !decide (t.wg = g.id) || isHeld t) && enginesQuiet s g

/-- A held thread becomes a record with HELD set and no pool slot (R421). -/
def recordHeld (s : State) (t : Thread) : State :=
  match t.place with
  | .held e => writeRecord s t e true true
  | _ => s

/-- The places of chain pieces that have not been read go back: the piece reserves again when its job goes on (R321, R422). -/
def freeChains (s : State) (wg : Nat) : State :=
  { s with chains := s.chains.filter fun x => !(s.cmds.any fun c => decide (c.id = x.cmd) && decide (c.wg = wg) &&
      match c.pieces[x.piece]? with | some p => p.data.isNone | none => true) }

/-- A workgroup's stop is complete; its held threads become records in the order of holding. -/
def completeStop (s0 : State) (id : Nat) : State :=
  let s := freeChains s0 id
  let s1 := foldList recordHeld s (sortBy (fun a b => decide (a.filedAt < b.filedAt)) (s.threads.filter fun t => decide (t.wg = id)))
  updWg s1 id fun g => { g with stop := match g.stop with | .stopping c => .stopped c | x => x }

/-- The records of a workgroup leave the buffer and the bins of its cluster. -/
def unbufferRecords (s : State) (wg : Nat) : State :=
  { s with records := s.records.map fun r => if r.th.wg = wg then { r with inBin := false, inBuffer := false } else r }

/-- Its home is to be vacated: claimed by a deadline launch (R434), or retired (R446). -/
def mustVacate (s : State) (g : Workgroup) : Bool := claimed s g.home || clusterLeaves s g.home.cluster

/-- The rood of a unit, and its number there. -/
def unitRood : RetireUnit → Nat × Nat
  | .cluster c => (c / 8, c % 8)
  | .slice n => (n / 4, n % 4)
  | .channel g c => (g, c)

/-- Workgroups that use a unit: those at the cluster, or those of the virtual devices that hold the rood. -/
def usersOf (s : State) (u : RetireUnit) : List Workgroup :=
  match u with
  | .cluster c => s.wgs.filter fun g => decide (g.home.cluster = c)
  | _ =>
    let vs := (vdsOfRood s (unitRood u).1).map VDev.num
    s.wgs.filter fun g => match findCtx s g.ctx with | some c => vs.contains c.vd | none => false

/-- A workgroup uses a unit whose retirement has begun: it stays stopped until that is complete (R446). -/
def heldByRetirement (s : State) (g : Workgroup) : Bool :=
  s.retiring.any fun u => (usersOf s u).any fun m => decide (m.id = g.id)

/-! ### Images (R425 to R429) -/

/-- What a section of an image holds (R426); the records of kind 3 have the layout of R259. -/
inductive SectionData where
  /-- Kind 1: the mutable halves of the queues, held launch packets, coverage state words, power debt. -/
  | context (halves : List (Nat × List Byte)) (packets : List (Nat × Packet)) (cover : List (Nat × Word)) (debt : Nat)
  /-- Kind 2: launch, home %vcluster and side, SRAM plan, scratch and FIFO banks, ring state, guard slots, k16 to k31. -/
  | workgroup (launch vcluster side : Nat) (plan : Word) (scratch : Memory) (rings : List Ring) (guards : List GuardState)
      (k : List Word)
  /-- Kind 4: tiles and row counters, with handle indices. -/
  | tiles (words counters : Memory) (handles : List Handle)
  /-- Kind 5: the B-tier share. -/
  | btier (share : Memory)
  /-- Kind 6: queued and stopped commands. -/
  | commands (cs : List Cmd)
  /-- Kind 7: the lists of the reconstruction unit. -/
  | recon (lists : WgCover)
  /-- Kind 8: session binding and breakpoint ordinals. -/
  | debug (session : Bool) (breakpoints : List Nat)
deriving DecidableEq, Repr

end Sys2Proof.Machine

namespace Sys2Proof.Config

/-- The bytes of a section, by what it holds: the spec gives no layout of them. -/
opaque sectionBytes : Sys2Proof.Machine.SectionData → List Sys2Proof.Byte

/-- The most bytes a section of a kind takes; the spec gives none. -/
opaque sectionLimit : Nat → Nat

end Sys2Proof.Config

namespace Sys2Proof.Machine

/-- A section whose layout is open: its bytes, within the limit of its kind (log 103). -/
def openSection (kind : Nat) (d : SectionData) : List Byte := (Config.sectionBytes d).take (Config.sectionLimit kind)

/-- The records of a workgroup, each in the layout of R259. -/
def recordSection (s : State) (g : Workgroup) : List Byte :=
  (s.records.filter fun r => decide (r.th.wg = g.id)).flatMap fun r => recordBytes g.wgid (endMask s r.th r.fin) r

/-- Section 1 of a context. -/
def ctxSection (s : State) (c : Context) : SectionData :=
  let qs := s.queues.filter fun q => decide (q.ctx = c.id)
  .context (qs.map fun q => (q.num, vread s c.id (q.qcb + 0x80) 128))
    ((s.launches.filter fun l => decide (l.ctx = c.id)).flatMap Launch.heldPackets)
    (qs.map fun q => (q.num, q.cover)) (match findVd s c.vd with | some v => v.debt | none => 0)

/-- Section 2 of a workgroup. -/
def wgSection (s : State) (g : Workgroup) : SectionData :=
  .workgroup g.launch g.vcluster g.home.side (planOf s g) g.scratch g.rings g.guards.toList (g.k.toList.drop 16)

/-- Commands of a workgroup. -/
def wgCmds (s : State) (g : Workgroup) : List Cmd := s.cmds.filter fun c => decide (c.wg = g.id)

/-- The unit has points of an ended workgroup still to write (R339, R422). -/
def pointsLeft (s : State) (g : Workgroup) : Bool :=
  match findLaunch s g.launch with
  | some l => (skippedPoints (rungOf l g) (tileOf l g.wgid)).any fun p => reconOpen l g p.1 p.2
  | none => false

/-- An ended workgroup keeps its scratch for its neighbourhood (R251). -/
def keepsScratch (s : State) (g : Workgroup) : Bool :=
  match findLaunch s g.launch with
  | some l => (membersOf s l g).any fun m => !decide (m.phase = .ended)
  | none => false

/-- The kinds of section a workgroup has, 2 to 7: an ended one its scratch and its unwritten points, any other one those that are
not empty (R426). -/
def wgKinds (s : State) (g : Workgroup) : List Nat :=
  if g.phase = .ended then (if keepsScratch s g then [2] else []) ++ (if pointsLeft s g then [7] else [])
  else
    [2] ++ (if s.records.any fun r => decide (r.th.wg = g.id) then [3] else []) ++
      (if g.tiles.isEmpty && g.rowNan.isEmpty && g.handles.isEmpty then [] else [4]) ++
      (if g.btier.isEmpty then [] else [5]) ++ (if (wgCmds s g).isEmpty then [] else [6]) ++
      (if pointsLeft s g then [7] else [])

/-- The bytes of a workgroup's section of a kind. -/
def wgBytes (s : State) (g : Workgroup) (kind : Nat) : List Byte :=
  match kind with
  | 2 => openSection 2 (wgSection s g)
  | 3 => recordSection s g
  | 4 => openSection 4 (.tiles g.tiles g.rowNan g.handles)
  | 5 => openSection 5 (.btier g.btier)
  | 6 => openSection 6 (.commands (wgCmds s g))
  | _ => openSection 7 (.recon g.cover)

/-- The sections of a workgroup: kind, %wgid, bytes (R426). -/
def wgSections (s : State) (g : Workgroup) : List (Nat × Nat × List Byte) :=
  (wgKinds s g).map fun k => (k, g.wgid, wgBytes s g k)

/-- The workgroups of a context. -/
def wgsOf (s : State) (ctx : Nat) : List Workgroup := s.wgs.filter fun g => decide (g.ctx = ctx)

/-- The sections of a context (R426). -/
def sections (s : State) (c : Context) : List (Nat × Nat × List Byte) :=
  [(1, 0, openSection 1 (ctxSection s c))] ++ (wgsOf s c.id).flatMap (wgSections s) ++
    [(8, 0, openSection 8 (.debug c.session c.breakpoints))]

/-- Pad to whole blocks of 4,096 bytes. -/
def padBlock (bs : List Byte) : List Byte := bs ++ List.replicate (4096 * ceilDiv bs.length 4096 - bs.length) 0

/-- The entries of the section table, each section beginning at a block. -/
def sectionTable : List (Nat × Nat × List Byte) → Nat → List Byte
  | [], _ => []
  | x :: xs, n =>
    toBytes 4 x.1 ++ toBytes 4 x.2.1 ++ toBytes 4 n ++ toBytes 4 x.2.2.length ++
      sectionTable xs (n + ceilDiv x.2.2.length 4096)

/-- Blocks 1 onwards in clear: the table in block 1, of at most 255 entries (log 108), and the sections from block 2 on. -/
def imageBody (secs : List (Nat × Nat × List Byte)) : List Byte :=
  padBlock (toBytes 4 (min secs.length 255) ++ (sectionTable secs 2).take 4080) ++ secs.flatMap fun x => padBlock x.2.2

/-- Block 0 (R426). -/
def imageHead (magic handle length charter place time : Nat) : List Byte :=
  let bs := toBytes 4 magic ++ toBytes 4 1 ++ toBytes 8 handle ++ toBytes 8 length ++ toBytes 4 charter ++ toBytes 4 place ++
    toBytes 8 time
  bs ++ List.replicate (4096 - bs.length) 0

/-- Rood count of a shape as block 0 gives it: 0 for one side. -/
def roodCount : VdShape → Nat
  | .run _ log2 => 2 ^ log2
  | .side _ _ => 0

/-- Word 0x1C of block 0. -/
def placeWord (v : VDev) (loc : Nat) : Nat :=
  loc + 4 * v.imageClass + 16 * roodCount v.shape + 512 * VdShape.sideNum v.shape

/-- Whole blocks that some bytes take. -/
def blocksFor (n : Nat) : Nat := 4096 * ceilDiv n 4096

/-- The most bytes a workgroup's sections take once it is stopped: its resident threads are records then (R421). -/
def wgNeeds (s : State) (g : Workgroup) : Nat :=
  let n := (s.records.filter fun r => decide (r.th.wg = g.id)).length + (s.threads.filter fun t => decide (t.wg = g.id)).length
  blocksFor (384 * n) + sumNat ([2, 4, 5, 6, 7].map fun k => blocksFor (Config.sectionLimit k))

/-- The bytes of a dump, with every section that the context can have once it is stopped (R462, log 103). -/
def dumpNeeds (s : State) (c : Context) : Nat :=
  8192 + sumNat ([1, 8].map fun k => blocksFor (Config.sectionLimit k)) + sumNat ((wgsOf s c.id).map (wgNeeds s))

/-- Encrypt blocks that lie from an address on under a key, each with its address as tweak (R406). -/
def encryptBlocks (key at_ : Nat) (bs : List Byte) : List Byte :=
  (List.range (bs.length / 4096)).flatMap fun i =>
    Config.encrypt key (at_ + 4096 * i) ((bs.drop (4096 * i)).take 4096)

/-- What the B-tier holds of a unit of 128 bytes of a workgroup's share: plaintext exists only inside the dies (R406). No
agent reads it but through the same key, so that State keeps the plaintext. -/
def btierStored (s : State) (g : Workgroup) (unit : Nat) : List Byte :=
  let key := match (findCtx s g.ctx).bind fun c => findTenant s c.charter with | some t => t.kb | none => 0
  let at_ := 128 * unit
  Config.encrypt key (g.home.cluster * 2 ^ 32 + at_ / 196608 * 2 ^ 20 + (at_ % 196608 + 98304 * g.home.side))
    (readBytes g.btier at_ 128)

/-- The plaintext of blocks that stand at an address. -/
def decryptBlocks (key at_ : Nat) (bs : List Byte) : List Byte :=
  (List.range (bs.length / 4096)).flatMap fun i =>
    Config.decrypt key (at_ + 4096 * i) ((bs.drop (4096 * i)).take 4096)

/-- The frames of an area beyond device memory lie where a location code says: 1 CXL-attached memory, 2 the host (R425). -/
def frameKind (loc addr n : Nat) : Bool :=
  decide (2 ^ 39 ≤ addr) && (List.range ((addr + n - 1) / 65536 - addr / 65536 + 1)).all fun i =>
    Config.cxlFrame (addr / 65536 + i) == decide (loc = 1)

/-- A run of frames at a location outside device memory that no grant and no image has, from an open place on (R425). -/
def hostRun (s : State) (loc k : Nat) : Option Nat :=
  let n := s.grants.length + s.images.length + 1
  let i := Config.choose s.freeCount (2 ^ 20) % 2 ^ 20
  ((List.range n).map fun j => 2 ^ 23 + (i + j) * 2 ^ k).find? fun f =>
    outsideRun s 0 k f && frameKind loc (65536 * f) (65536 * 2 ^ k)

/-- Where an image of some bytes goes at a location (R425): free device-memory frames of the virtual device's roods, else
frames beyond device memory; which ones is open. -/
def imageAddr (s : State) (v : VDev) (loc len : Nat) : Option Nat :=
  let k := ((List.range 40).find? fun k => decide (ceilDiv len 65536 ≤ 2 ^ k)).getD 40
  let run := if loc = 0 then (VdShape.roods v.shape).findSome? fun r => pickRun s r k else hostRun s loc k
  run.map (65536 * ·)

/-- The image of a stopped context at an address. -/
def imageOfCtx (s : State) (c : Context) (v : VDev) (addr : Nat) : Image :=
  let body := imageBody (sections s c)
  let bytes := imageHead 0x444A4947 s.nextId (4096 + body.length) c.charter (placeWord v v.imageLoc) s.ptp.time ++
    encryptBlocks (imageKey s c.id) (addr + 4096) body
  ⟨s.nextId, c.id, v.imageLoc, addr, v.imageClass, bytes, Config.sha384 bytes, roodCount v.shape, s.ptp.time, none⟩

/-- Put an image where it lies, and keep its hash (R425, R427). -/
def storeImage (s : State) (x : Image) : State := { physWrite s x.addr x.bytes with images := s.images ++ [x] }

/-- An image is gone: its place is free, and zero. -/
def dropImage (s : State) (x : Image) : State := dropImages s fun y => decide (y.handle = x.handle)

/-- The hash kept for an image is that of the bytes where it lies (R427). -/
def imageStands (s : State) (x : Image) : Bool :=
  decide (x.hash = Config.sha384 (readBytes s.mem x.addr x.bytes.length))

/-! ### Workgroups that leave their homes (R434, R446) -/

/-- A workgroup leaves its cluster for an image; bins that it leaves go to records of the overflow list (R264). One that was
placed and has not started has nothing to save and leaves its home the same way. -/
def imageWg (s : State) (id : Nat) : State :=
  match findWg s id with
  | some g =>
    if g.phase = .running ∨ g.phase = .placed then
      refillRecordBins (unbufferRecords (updWg (if g.phase = .running then cleanHome s g else s) id fun g => { g with
        phase := .imaged, started := decide (g.phase = .running) }) id) g.home.cluster
    else s
  | none => s

/-- Workgroups leave their clusters for images; the homes of those that have ended in a neighbourhood that still runs are
cleaned, too (R251, R434). -/
def imageWgs (s : State) (ms : List Workgroup) : State :=
  let ended := ms.filter fun m => decide (m.phase = .ended) && !homeGivenBack s m
  foldList imageWg (foldList cleanHome s ended) (ms.map Workgroup.id)

/-- A workgroup that left its home by itself has sections that no image holds yet: its own, or those of a member of its
neighbourhood that has ended (R434). -/
def needsSave (s : State) (g : Workgroup) : Bool :=
  !(s.images.any fun x => decide (x.wg = some g.id)) &&
    match g.phase, findLaunch s g.launch with
    | .imaged, _ => g.started
    | .ended, some l => imagedWith s l g
    | _, _ => false

/-- The sections of one workgroup, written to device memory of the virtual device under KI, whatever the class (R434). Where no
run of frames is free the model names no place for them: the image has no bytes (log 102). -/
def saveWg (v : VDev) (s : State) (g : Workgroup) : State :=
  let body := (wgSections s g).flatMap fun x => padBlock x.2.2
  let image := fun (addr : Nat) (bytes : List Byte) =>
    storeImage (bumpFree (bumpId s))
      ⟨s.nextId, g.ctx, 0, addr, v.imageClass, bytes, Config.sha384 bytes, roodCount v.shape, s.ptp.time, some g.id⟩
  match imageAddr s v 0 body.length with
  | none => image 0 []
  | some addr => image addr (encryptBlocks (imageKey s g.ctx) addr body)

/-- How stopped workgroups vacate their homes: moved together to free homes, else into an image (R434, R446). -/
def vacate (s : State) (v : VDev) (l : Launch) (ms : List Workgroup) : State :=
  let ready := ms.all fun m => decide (m.phase = .ended) || (decide (m.phase = .running) && mayMove s m)
  match ready, takeHomes l v (freeHomes s v) with
  | true, some hs => foldList beginMove s ((ms.zip hs).map fun x => (x.1, some x.2))
  | _, _ => imageWgs s ms

/-- The stops of single workgroups that are complete now, a neighbourhood as one; one that a retirement waits for stays
stopped (R446). -/
def completeWgs (s : State) (ctx : Nat) : State :=
  foldList (fun s g0 =>
    match findWg s g0.id, findLaunch s g0.launch, vdOfCtx s ctx with
    | some g, some l, some v =>
      let ms := membersOf s l g
      match g.stop with
      | .stopping _ =>
        if ms.all fun m => decide (m.phase = .ended) || wgQuiet s m then
          let s1 := foldList completeStop s (ms.map Workgroup.id)
          if ms.any (mustVacate s1) then vacate s1 v l (membersOf s1 l g)
          else if ms.any (heldByRetirement s1) then s1
          else foldList endStop s1 (ms.map Workgroup.id)
        else s
      | _ => s
    | _, _, _ => s) s (s.wgs.filter fun g => decide (g.ctx = ctx))

/-! ### IMAGE_CLOSE -/

/-- The context is to be written to an image once it is stopped. -/
def wantsImage (c : Context) : Bool :=
  c.image.isNone &&
    match c.stop with
    | .stopped .evict _ => true
    | .stopped .retire _ => true
    | .stopped .preempt _ => c.dest.isSome && c.reply.isSome
    | _ => false

/-- A far access of a context that has not been answered. -/
def farOpen (s : State) (ctx : Nat) : Bool :=
  s.reqs.any fun r => decide (r.ctx = ctx) && (match r.kind with | .far _ => true | _ => false)

/-- No image of a context may be closed yet: a far access is open, a write has not been performed (R424). -/
def closeWaits (s : State) (c : Context) (v : VDev) : Bool :=
  farOpen s c.id || writesUnderWay s v || (s.reqs.any fun r => decide (r.ctx = c.id) && unperformed r) ||
    linesWait s ((wgsOf s c.id).map Workgroup.home)

/-- The image of a whole context: the workgroups give up their clusters, images of single ones are in it, and a command that
waits for it is answered with the handle (R426, R427, R429). -/
def closeCtx (s : State) (c : Context) (v : VDev) (addr : Nat) : State :=
  let x := imageOfCtx s c v addr
  let live := (wgsOf s c.id).filter fun g => !decide (g.phase = .imaged) && !(decide (g.phase = .ended) && homeGivenBack s g)
  let s1 := foldList flushHome (bumpFree (bumpId s)) (live.map Workgroup.home)
  let s2 := dropImages (imageWgs s1 (wgsOf s1 c.id)) fun y => decide (y.ctx = c.id)
  let s3 := match c.dest with
    | some d => emit s2 (.image d c.id x.bytes x.hash (imageKey s c.id))
    | none => updCtx (storeImage s2 x) c.id fun c => { c with image := some x.handle }
  match c.reply with
  | some h => updCtx (respond s3 h cmdOk x.handle) c.id fun c => { c with reply := none }
  | none => s3

/-- IMAGE_CLOSE (R424, R426, R427, R434): after the last far reply and acknowledgement, the image of a stopped context, or those
of its workgroups that left their homes by themselves. -/
def execImageClose (ctx : Nat) (s : State) : Host.Outcome State Fault Refusal :=
  match findCtx s ctx, vdOfCtx s ctx with
  | some c, some v =>
    if closeWaits s c v then .next s
    else if wantsImage c then
      match imageAddr s v v.imageLoc (4096 + (imageBody (sections s c)).length) with
      | none => .next s
      | some addr => .next (closeCtx s c v addr)
    else if c.image.isSome ∨ c.dest.isSome then .next s
    else .next (foldList (saveWg v) s ((wgsOf s ctx).filter (needsSave s)))
  | _, _ => .next s

/-! ### Dumps (R462) -/

/-- Write a dump: block 0, then the sections in clear. -/
def writeDump (s : State) (c : Context) (v : VDev) (area : Nat) : State :=
  let body := imageBody (sections s c)
  physWrite s area (imageHead 0x444A4450 0 (4096 + body.length) c.charter (placeWord v v.imageLoc) s.ptp.time ++ body)

/-- DUMP (R451, R452, R462): bit 0 of the word at 0x20 holds the stop, its other bits are zero. -/
def execDump (h : CmdHead) (handle off len : Nat) (word : Word) (s : State) : Host.Outcome State Fault Refusal :=
  command ⟨10, .guest, false, false, true⟩ h (fun s =>
    match findCtx s h.ctx, charterOf s h.charter with
    | some c, some ch =>
      if !ch.policy.getLsbD 7 then respond s h cmdDenied 0
      else if c.stop ≠ .none then respond s h cmdBusy 0
      else
        match deviceArea s h handle off len with
        | none => respond s h cmdInvalid 0
        | some a =>
          if word >>> 1 ≠ 0 ∨ off % 4096 ≠ 0 ∨ len % 4096 ≠ 0 ∨ len < dumpNeeds s c then respond s h cmdInvalid 0
          else
            stopCtx .dump (updCtx (respond s h cmdDeferred 0) h.ctx fun c => { c with dump := some (h, a, len, word.getLsbD 0) }) h.ctx
    | _, _ => respond s h cmdInvalid 0) s

/-- The stop that was made for a dump, once that is written: held, it lasts until RESUME; where the context was frozen meanwhile,
until UNFREEZE; else it ends. A stop that has another reason by now stays (R419, R449, R462). -/
def settleDump (s : State) (c : Context) (hold : Bool) : State :=
  match c.stop with
  | .stopped .dump since =>
    if c.frozen then updCtx s c.id fun c => { c with stop := .stopped .freeze since }
    else if hold then s
    else endStopCtx s c.id
  | _ => s

/-- The dump of a context that has just stopped. -/
def completeDump (s : State) (ctx : Nat) : State :=
  match findCtx s ctx, vdOfCtx s ctx with
  | some c, some v =>
    match c.dump with
    | some (h, a, _, hold) =>
      settleDump (okay (updCtx (writeDump s c v a) ctx fun c => { c with dump := none }) h) c hold
    | none => s
  | _, _ => s

/-! ### CONTEXT_STOP_COMPLETE -/

/-- A workgroup of the context moves. -/
def ctxMoves (s : State) (ctx : Nat) : Bool :=
  s.wgs.any fun g => decide (g.ctx = ctx) && (match g.phase with | .moving _ => true | _ => false)

/-- CONTEXT_STOP_COMPLETE (R420 to R422, R434, R462): of the whole context, when nothing of it is resident and its engines
stand at their boundaries; or of single workgroups. A PREEMPT on this device is answered here. -/
def execContextStopComplete (ctx : Nat) (s : State) : Host.Outcome State Fault Refusal :=
  match findCtx s ctx with
  | none => .next s
  | some c =>
    match c.stop with
    | .none => .next (completeWgs s ctx)
    | .stopped _ _ => .next s
    | .stopping why since =>
      let gs := s.wgs.filter fun g => decide (g.ctx = ctx) && !decide (g.phase = .ended)
      if ctxMoves s ctx || !gs.all (wgQuiet s) || !(wgsOf s ctx).all (enginesQuiet s) then .next s
      else
        let s1 := foldList completeStop s (gs.map Workgroup.id)
        let s2 := updCtx s1 ctx fun c => { c with stop := .stopped why since }
        .next (match why, c.reply, c.dest with
          | .preempt, some h, none => completeDump (updCtx (okay s2 h) ctx fun c => { c with reply := none }) ctx
          | _, _, _ => completeDump s2 ctx)

/-! ### PREEMPT, EVICT, RESUME, IMAGE_PLACE (R420, R425, R427 to R429) -/

/-- Begin, or carry further, a stop that a command asks for: BUSY while another stop is under way. -/
def beginStop (s : State) (h : CmdHead) (why : StopWhy) (dest : Option Nat) : State :=
  match findCtx s h.ctx with
  | none => respond s h cmdInvalid 0
  | some c =>
    let mark := fun (s : State) => updCtx s h.ctx fun c => { c with reply := some h, dest := dest }
    match c.stop with
    | .none => stopCtx why (mark s) h.ctx
    | .stopping _ _ => respond s h cmdBusy 0
    | .stopped _ since =>
      if c.image.isSome ∨ c.dest.isSome ∨ c.reply.isSome then respond s h cmdInvalid 0
      else if why = .preempt ∧ dest = none then okay s h
      else updCtx (mark s) h.ctx fun c => { c with stop := .stopped why since }

/-- PREEMPT (R420, R429): towards another device only with FAR = 1, and along a route. -/
def execPreempt (h : CmdHead) (dest : Option Nat) (s : State) : Host.Outcome State Fault Refusal :=
  command ⟨5, .hypervisor, false, false, true⟩ h (fun s =>
    match dest with
    | none => beginStop s h .preempt none
    | some d =>
      if !(match charterOf s h.charter with | some ch => ch.policy.getLsbD 9 | none => false) then respond s h cmdDenied 0
      else if !(s.boot.routes.any fun r => decide (r.dev = d)) then respond s h cmdInvalid 0
      else beginStop s h .preempt dest) s

/-- EVICT (R420, R425). -/
def execEvict (h : CmdHead) (s : State) : Host.Outcome State Fault Refusal :=
  command ⟨5, .hypervisor, false, false, true⟩ h (fun s => beginStop s h .evict none) s

/-- The homes an imaged neighbourhood, or workgroup, is restored to: its own where they are free, else others. -/
def restoreHomes (s : State) (v : VDev) (l : Launch) (ms : List Workgroup) : Option (List Home) :=
  if ms.all fun m => (freeHomes s v).contains m.home || !decide (m.phase = .imaged) then some (ms.map Workgroup.home)
  else takeHomes l v (freeHomes s v)

/-- Restore every imaged workgroup of a context that finds a home. -/
def restoreCtx (s : State) (v : VDev) (ctx : Nat) : State :=
  foldList (fun s g0 =>
    match findWg s g0.id, findLaunch s g0.launch with
    | some g, some l =>
      if g.phase ≠ .imaged then s
      else
        let ms := membersOf s l g
        match restoreHomes s v l ms with
        | some hs => refreshSpans (foldList (restoreWg v l) s (ms.zip hs)) l.id
        | none => s
    | _, _ => s) s (s.wgs.filter fun g => decide (g.ctx = ctx))

/-! ### Images from another device (R429) -/

/-- A time of the sender's clock on this device's clock: as long ago as it was when the sender's stop began. -/
def rebase (began now x : Nat) : Nat := now - (began - x)

/-- The moment a workgroup of an image stopped, on the sender's clock. -/
def stopOf (x : ImageHeld) (wg : Nat) : Nat :=
  match (x.wgs.find? fun g => decide (g.id = wg)).bind stopSince with
  | some c => c
  | none => 0

/-- A thread's state in a record that came from another device. -/
def adoptThread (n began now : Nat) (t : Thread) : Thread :=
  { t with launch := t.launch + n, wg := t.wg + n, trapState := t.trapState.map (rebase began now) }

/-- A record that came from another device carries FROM 5. -/
def adoptRecord (n : Nat) (now : Nat) (x : ImageHeld) (r : Record) : Record :=
  let c := stopOf x r.th.wg
  { r with
    id := r.id + n
    th := adoptThread n c now r.th
    origin := 5
    woken := r.woken.map (rebase c now), since := rebase c now r.since
    inBin := false, inBuffer := false }

/-- A workgroup that came from another device: in an image, under a new identifier; KB is drawn anew and its B-tier share
encrypted again (R429). -/
def adoptWg (s : State) (ctx : Nat) (g : Workgroup) : Workgroup :=
  { g with
    id := g.id + s.nextId, launch := g.launch + s.nextId, ctx := ctx, stop := .stopped s.clock
    scratch := canonical g.scratch, btier := canonical g.btier, tiles := canonical g.tiles, rowNan := canonical g.rowNan
    phase := if g.phase = .ended then .ended else .imaged }

/-- The mutable half of a queue that came from another device goes to the queue of that number, bound there or not (R371,
R426). -/
def adoptQueue (ctx : Nat) (s : State) (x : Queue) : State :=
  match findQueue s ctx x.num with
  | some q => setQueue s { x with ctx := ctx, conf := q.conf, qcb := q.qcb, bound := q.bound, barred := q.barred }
  | none => { s with queues := s.queues ++ [{ x with ctx := ctx, bound := false }] }

/-- What an image brings joins a context of this device under new identifiers, its workgroups still in an image; KI comes with
it, and KB is drawn anew (R406, R429). -/
def adoptImage (s : State) (c : Context) (x : ImageIn) : State :=
  let n := s.nextId
  let y := x.held
  let ids := y.launches.map Launch.id ++ y.wgs.map Workgroup.id ++ y.records.map Record.id ++ y.cmds.map Cmd.id
  let s1 := { s with
    imagesIn := s.imagesIn.filter fun z => !decide (z.handle = x.handle)
    launches := s.launches ++ y.launches.map fun l => { l with
      id := l.id + n, ctx := c.id, claims := [], replay := none, busy := [], retired := s.nv.retired, instantAt := none }
    wgs := s.wgs ++ y.wgs.map (adoptWg s c.id)
    records := s.records ++ y.records.map (adoptRecord n s.clock y)
    cmds := s.cmds ++ y.cmds.map fun d => { d with
      id := d.id + n, wg := d.wg + n, edges := d.edges.map (· + n), engine := none
      operands := d.operands.map fun m => (canonical m.1, canonical m.2) }
    nextId := n + ids.foldl max 0 + 1 }
  let s2 := foldList (adoptQueue c.id) s1 y.queues
  let s3 := updVd s2 c.vd fun v => { v with debt := v.debt + y.debt }
  let s4 := updCtx s3 c.id fun c => { c with session := y.session, sessionAt := s.clock, breakpoints := y.breakpoints }
  bumpId (updTenant s4 c.charter fun t => { t with kb := s1.nextId, ki := x.ki })

/-- RESUME of an image that another device sent: INVALID unless its hash holds, the virtual device has the source's rood
count, or one side, and the context has nothing of its own here (R427, R429). -/
def resumeArrived (s : State) (h : CmdHead) (c : Context) (v : VDev) (x : ImageIn) : State :=
  if x.hash ≠ Config.sha384 x.bytes ∨ x.roods ≠ roodCount v.shape ∨ (s.wgs.any fun g => decide (g.ctx = c.id)) = true then
    respond s h cmdInvalid 0
  else okay (endStopCtx (restoreCtx (adoptImage s c x) v c.id) c.id) h

/-- RESUME (R419, R427 to R429, R462): the image's hash is checked, the context restored; a context stopped in place, or
held after a dump, goes on without an image. -/
def execResume (h : CmdHead) (image : Nat) (s : State) : Host.Outcome State Fault Refusal :=
  command ⟨5, .hypervisor, false, false, true⟩ h (fun s =>
    match findCtx s h.ctx, vdOfCtx s h.ctx with
    | some c, some v =>
      match s.imagesIn.find? fun x => decide (x.handle = image), c.stop with
      | some x, .none => resumeArrived s h c v x
      | none, .none => respond s h cmdInvalid 0
      | _, .stopping _ _ => respond s h cmdBusy 0
      | _, .stopped _ _ =>
        if c.reply.isSome then respond s h cmdBusy 0
        else
          match c.image with
          | none =>
            if image ≠ 0 ∨ c.dest.isSome ∨ wantsImage c then respond s h cmdInvalid 0
            else okay (endStopCtx s h.ctx) h
          | some n =>
            match s.images.find? fun x => decide (x.handle = n) with
            | none => respond s h cmdInvalid 0
            | some x =>
              if image ≠ n ∨ imageStands s x = false ∨ x.roods ≠ roodCount v.shape then respond s h cmdInvalid 0
              else
                let s1 := updCtx (dropImage s x) h.ctx fun c => { c with image := none }
                okay (endStopCtx (restoreCtx s1 v h.ctx) h.ctx) h
    | _, _ => respond s h cmdInvalid 0) s

/-- The virtual device serves no context of another tenant. -/
def vdOfTenant (s : State) (vd charter : Nat) : Bool :=
  (findVd s vd).isSome && s.contexts.all fun c => !decide (c.vd = vd) || decide (c.charter = charter)

/-- A place an image may be moved to: of its location, which for code 0 is the device memory of the roods that the context's
virtual device holds, whole blocks, in no grant, in no quarantined frame, under no other image (R8, R425). -/
def placeFree (s : State) (x : Image) (loc addr : Nat) : Bool :=
  let n := x.bytes.length
  decide (addr % 4096 = 0) &&
    (if loc = 0 then
      deviceAddress s addr && deviceAddress s (addr + n - 1) && decide (addr / 2 ^ 35 = (addr + n - 1) / 2 ^ 35) &&
        (match vdOfCtx s x.ctx with | some v => (VdShape.roods v.shape).contains (addr / 2 ^ 35) | none => false)
    else frameKind loc addr n) &&
    (s.grants.all fun g => !inGrant g addr n) &&
    (s.quarantine.all fun q => !(decide (addr < 65536 * (q + 1)) && decide (65536 * q < addr + n))) &&
    s.images.all fun y => decide (y.handle = x.handle) || !(decide (addr < y.addr + y.bytes.length) && decide (y.addr < addr + n))

/-- Block 0 with the location code of a new place (R426). -/
def headAt (x : Image) (loc : Nat) : List Byte :=
  let w := readNat ((List.range 4).map fun i => (i, (x.bytes[0x1C + i]?).getD 0)) 0 4
  x.bytes.take 0x1C ++ toBytes 4 (w / 4 * 4 + loc) ++ (x.bytes.take 4096).drop 0x20

/-- Move an image: its blocks are encrypted for their new address, block 0 gives the new location, and the hash is that of the
moved blocks (R406, R426, R427; log 98). -/
def moveImage (s : State) (x : Image) (loc addr : Nat) : State :=
  let key := imageKey s x.ctx
  let bytes := headAt x loc ++ encryptBlocks key (addr + 4096) (decryptBlocks key (x.addr + 4096) (x.bytes.drop 4096))
  storeImage (dropImage s x) { x with loc := loc, addr := addr, bytes := bytes, hash := Config.sha384 bytes }

/-- The Notary's check after a move: what stands at the image's place has the hash it keeps (R427). -/
def movedStands (s : State) (handle : Nat) : Bool :=
  match s.images.find? fun x => decide (x.handle = handle) with
  | some x => imageStands s x
  | none => false

/-- IMAGE_PLACE (R425, R427): with no image named, the class of a virtual device of the tenant and a location no farther;
else an image moves; its hash is checked before the move, and again after it, at its new place: an image that fails either check
stays where it was. -/
def execImagePlace (h : CmdHead) (vd cls : Nat) (image : Option Nat) (loc addr : Nat) (s : State) :
    Host.Outcome State Fault Refusal :=
  command ⟨5, .hypervisor, false, false, false⟩ h (fun s =>
    match charterOf s h.charter with
    | none => respond s h cmdInvalid 0
    | some ch =>
      match image with
      | none =>
        if 2 < cls ∨ cls < loc ∨ vdOfTenant s vd h.charter = false then respond s h cmdInvalid 0
        else if charterImg ch < cls then respond s h cmdDenied 0
        else okay (updVd s vd fun v => { v with imageClass := cls, imageLoc := loc }) h
      | some n =>
        match s.images.find? fun x => decide (x.handle = n) && decide (x.ctx = h.ctx) && x.wg.isNone with
        | none => respond s h cmdInvalid 0
        | some x =>
          if 2 < loc ∨ placeFree s x loc addr = false then respond s h cmdInvalid 0
          else if charterImg ch < loc then respond s h cmdDenied 0
          else if imageStands s x && movedStands (moveImage s x loc addr) n then okay (moveImage s x loc addr) h
          else respond s h cmdInvalid 0) s

end Sys2Proof.Machine
end

