-- ==== Sys2Proof/Machine/Registers.lean ====
section
/-! DEFINITION. What the translator and the operand log need to know of an instruction without running it: its major
opcode, the v registers it reads and writes, whether it is pending, can end a segment or enter the operand log, and the
cycles it counts (R43, R44, R75 to R81, R104, R129, R156, R186, R209). -/
namespace Sys2Proof.Machine

/-- The major opcode of a 32-bit instruction (R77, R88). -/
def majorOf (i : Instr) : Option Nat :=
  match encode i with
  | some (.c32 w) => some (field w.toNat 8 3)
  | _ => none

/-- The operation number of a compact instruction (R75). -/
def compactOf (i : Instr) : Option Nat :=
  match encode i with
  | some (.c16 w) => some (field w.toNat 4 1)
  | _ => none

/-! ### Registers -/

/-- The registers of a group. -/
def pickRegs (r : BitVec 6) (w : Width) : List (BitVec 6) := groupRegs r w.regs

/-- The registers of a second source. -/
def pickSrc (b : BSrc) (w : Width) : List (BitVec 6) :=
  match b with
  | .reg r => pickRegs r w
  | _ => []

/-- A register, or a pair. -/
def pickPair (x2 : Bool) (r : BitVec 6) : List (BitVec 6) := pickRegs r (if x2 then .x2 else .x1)

/-- Direct conversions with a pair as source, and as destination (R147). -/
def cvtFromPair (k : BitVec 4) : Bool := [0, 6, 7, 8, 9, 10, 13].contains k.toNat
def cvtToPair (k : BitVec 4) : Bool := [1, 6, 7, 8, 9, 11, 12].contains k.toNat

/-- Spaces whose addresses are pairs (R86). -/
def pairSpace (c : Space) : Bool := decide (c = .glb) || decide (c = .far)

/-- The operand group of an atomic (R184). -/
def atomGroup (x : Atom) (cas : Bool) : List (BitVec 6) :=
  pickRegs (x.n ++ 0#1) (match x.x2, cas with | false, false => .x1 | true, true => .x4 | _, _ => .x2)

/-- The v registers an instruction reads. -/
def regsRead (i : Instr) : List (BitVec 6) :=
  match i with
  | .movC x => [0#1 ++ x.b]
  | .iaddC x | .isubC x | .imulC x | .andC x | .orC x | .xorC x | .shlC x | .shrC x | .sarC x | .faddC x | .fmulC x
  | .fminC x | .fmaxC x => [x.d, 0#1 ++ x.b]
  | .iaddiC x => [x.d]
  | .movh x => [x.d]
  | .iadd x | .isub x => pickRegs x.a x.wa ++ pickSrc x.b x.wa
  | .imad x => pickRegs x.a x.wa ++ pickSrc x.b x.wa ++ pickRegs x.d x.wd
  | .imulLo x | .imulHis x | .imulHiz x | .mins x | .maxs x | .minz x | .maxz x | .sadds x | .saddz x | .divs x
  | .divz x | .rems x | .remz x | .logAnd x | .logOr x | .logXor x | .logAndn x | .logOrn x | .logXnor x
  | .shl x | .shr x | .sar x | .rol x | .sel x | .lea x | .fadd x | .fsub x | .fmul x
  | .fmin x | .fmax x | .fminNan x | .fmaxNan x | .fcsgn x | .fldexp x | .hadd x | .hsub x
  | .hmul x | .hmin x | .hmax x | .hcmp x => pickRegs x.a x.w ++ pickRegs x.b x.w
  | .fshl x | .fshr x | .ffma x | .fnma x | .hfma x => pickRegs x.a x.w ++ pickRegs x.b x.w ++ pickRegs x.d x.w
  | .imulWds x | .imulWdz x | .bfxs x | .bfxz x => [x.a, x.b]
  | .bfi x | .bperm x | .dot4ss x | .dot4zz x | .dot4sz x | .dot2s x | .dot2z x => [x.a, x.b, x.d]
  | .iabs x | .ineg x | .logNot x | .popc x | .clz x | .ctz x | .brev x | .fabs x | .fneg x | .fclass x
  | .frcp x | .frsq x | .fsqrt x | .frndRn x | .frndRz x | .frndRd x | .frndRu x | .fexpof x | .ffract x
  | .habs x | .hneg x => pickRegs x.a x.w
  | .shlI x | .shrI x | .sarI x | .rolI x | .gredIadd x | .gredMins x | .gredMaxs x | .gredAnd x | .gredOr x
  | .gredXor x | .gredFadd x | .gredFmax x => pickPair x.x2 x.a
  | .shflIdx x | .shflUp x | .shflDown x | .shflXor x => [x.a, x.b]
  | .iaddi x | .fexp2 x | .flog2 x | .fsin x | .fcos x | .ftanh x | .cvtFrom x | .voteAny x
  | .voteAll x | .voteBallot x | .voteUeq x | .gscanIadd x | .gscanMins x | .gscanMaxs x | .gscanAnd x
  | .gscanOr x | .gscanXor x | .gscanFadd x | .gscanFmax x | .bfpq x | .bfpdq x => [x.a]
  | .cvtTo x => [x.a, x.d]
  | .icmp x | .fcmp x => pickRegs x.a x.w ++ pickSrc x.b x.w
  | .jmp x | .ret x | .awaitIng x | .abort x | .assay x => [x.r]
  | .call x => [x.t]
  | .v2p x => [x.a]
  | .mov x => pickSrc x.b x.wd
  | .cvtDirect x => pickPair (cvtFromPair x.k) x.a
  | .gdset x => if x.i then [] else [x.a]
  | .awaitBar x => pickPair x.q x.a ++ [x.b]
  | .awaitRing x => [x.a]
  | .awaitTmr x => pickPair true x.a
  | .ld x => pickPair (pairSpace x.c) x.a
  | .st x => pickPair (pairSpace x.c) x.a ++ pickRegs x.t x.k.width
  | .ldk x => [x.x]
  | .stk x => x.x :: pickRegs x.t x.k.width
  | .atomAdd x | .atomSub x | .atomMins x | .atomMaxs x | .atomMinz x | .atomMaxz x | .atomAnd x | .atomOr x
  | .atomxXchg x | .atomxIncw x | .atomxDecw x | .atomxFadd x | .atomxFmin x | .atomxFmax x
  | .atomxXor x => pickPair true (x.p ++ 0#1) ++ atomGroup x false
  | .atomxCas x => pickPair true (x.p ++ 0#1) ++ atomGroup x true
  | .acq x | .rel x | .acqrel x | .pf x | .post x | .postOr x | .postMaxz x => pickPair true x.r
  | .lnch x => pickPair true x.a
  | .cinv x | .cwb x => pickPair true x.a ++ [x.l]
  | .barInit x | .barArr x | .barWait x | .barExp x => pickPair x.glb x.a ++ [x.b]
  | .barInval x => pickPair x.glb x.a
  | .rpush x => groupRegs x.a 8
  | .cpyG2s x | .cpyS2g x | .cpyG2b x | .cpyS2b x | .cpyChain x | .cpyWin x | .cpyFill x | .cpyScrub x
  | .cpyxG2s x | .cpyxG2b x | .cpyxS2b x | .cpyxChain x => [x.a]
  | .mxmma x => pickPair true x.a ++ [x.b]
  | .mxld x | .mxst x => pickPair true x.a ++ [x.b]
  | .tsbind x => [x.a, x.b]
  | _ => []

/-- The v registers an instruction writes. -/
def regsWritten (i : Instr) : List (BitVec 6) :=
  match i with
  | .movC x | .iaddC x | .isubC x | .imulC x | .andC x | .orC x | .xorC x | .shlC x | .shrC x | .sarC x | .faddC x
  | .fmulC x | .fminC x | .fmaxC x | .movi x | .iaddiC x | .movl x | .movh x => [x.d]
  | .iadd x | .isub x | .imad x => pickRegs x.d x.wd
  | .imulLo x | .imulHis x | .imulHiz x | .mins x | .maxs x | .minz x | .maxz x | .sadds x | .saddz x | .divs x
  | .divz x | .rems x | .remz x | .logAnd x | .logOr x | .logXor x | .logAndn x | .logOrn x | .logXnor x
  | .shl x | .shr x | .sar x | .rol x | .fshl x | .fshr x | .sel x | .lea x | .fadd x | .fsub x | .fmul x
  | .ffma x | .fnma x | .fmin x | .fmax x | .fminNan x | .fmaxNan x | .fcsgn x | .fldexp x | .hadd x | .hsub x
  | .hmul x | .hfma x | .hmin x | .hmax x | .hcmp x | .iabs x | .ineg x | .logNot x | .popc x | .clz x | .ctz x
  | .brev x | .fabs x | .fneg x | .fclass x | .frcp x | .frsq x | .fsqrt x | .frndRn x | .frndRz x | .frndRd x
  | .frndRu x | .fexpof x | .ffract x | .habs x | .hneg x => pickRegs x.d x.w
  | .shlI x | .shrI x | .sarI x | .rolI x | .gredIadd x | .gredMins x | .gredMaxs x | .gredAnd x | .gredOr x
  | .gredXor x | .gredFadd x | .gredFmax x | .sread x => pickPair x.x2 x.d
  | .imulWds x | .imulWdz x | .bfpq x => pickPair true x.d
  | .bfxs x | .bfxz x | .bfi x | .bperm x | .dot4ss x | .dot4zz x | .dot4sz x | .dot2s x | .dot2z x
  | .shflIdx x | .shflUp x | .shflDown x | .shflXor x | .iaddi x | .fexp2 x | .flog2 x | .fsin x | .fcos x
  | .ftanh x | .cvtTo x | .cvtFrom x | .voteAny x | .voteAll x | .voteBallot x | .voteUeq x | .gscanIadd x
  | .gscanMins x | .gscanMaxs x | .gscanAnd x | .gscanOr x | .gscanXor x | .gscanFadd x | .gscanFmax x
  | .bfpdq x | .awaitGd x | .mxstat x | .lnch x => [x.d]
  | .p2v x | .tsq x => [x.r]
  | .call x => [x.l]
  | .mov x => if x.toK then [] else pickRegs x.d x.wd
  | .cvtDirect x => pickPair (cvtToPair x.k) x.d
  | .ld x | .ldk x => pickRegs x.t x.k.width
  | .atomAdd x | .atomSub x | .atomMins x | .atomMaxs x | .atomMinz x | .atomMaxz x | .atomAnd x | .atomOr x
  | .atomxCas x | .atomxXchg x | .atomxIncw x | .atomxDecw x | .atomxFadd x | .atomxFmin x | .atomxFmax x
  | .atomxXor x => if x.ret then pickPair x.x2 x.d else []
  | .rpop x => groupRegs x.a 8
  | .rpeek x => x.b :: groupRegs x.a 8
  | .wkpt x => pickPair true x.r
  | _ => []

/-- The v registers an instruction writes whatever it finds: `rpeek` leaves its group alone on an empty ring (R205). -/
def regsSurelyWritten (i : Instr) : List (BitVec 6) :=
  match i with
  | .rpeek x => [x.b]
  | i => regsWritten i

/-- The v registers an instruction reads or writes (R44). -/
def touched (i : Instr) : List (BitVec 6) := regsRead i ++ regsWritten i

/-! ### What an instruction can do -/

/-- The atomics. -/
def isAtomic (i : Instr) : Bool := decide (majorOf i = some 49) || decide (majorOf i = some 50)

/-- The awaits, `exit` and `abort`. -/
def endsOrWaits (i : Instr) : Bool := decide (majorOf i = some 35) || decide (majorOf i = some 36)

/-- What stops a thread whose log is not empty before an instruction, whatever is logged: majors 45 to 60, an `await`,
`exit` or `abort` (R44). -/
def stopsLog (i : Instr) : Bool :=
  (match majorOf i with | some m => decide (45 ≤ m) && decide (m ≤ 60) | none => false) || endsOrWaits i

/-- The pending instructions (R79). -/
def isPending (i : Instr) : Bool :=
  match i with
  | .rpop _ => true
  | .rpeek _ => true
  | .mxstat _ => true
  | .tsq _ => true
  | i => match majorOf i with
    | some m => (isAtomic i && !(regsWritten i).isEmpty) || [5, 24, 45, 47].contains m
    | none => false

/-- The space of a load or store. -/
def spaceOf (i : Instr) : Option Space :=
  match i with
  | .ld x => some x.c
  | .st x => some x.c
  | .ldk x => some x.c
  | .stk x => some x.c
  | _ => none

/-- The instructions that can end a segment (R81). -/
def canBlock (i : Instr) : Bool :=
  match i with
  | .barWait _ => true
  | .rpush _ => true
  | .rpop _ => true
  | i => decide (majorOf i = some 35) || isAtomic i || decide (spaceOf i = some .far)

/-- The instructions that can enter the operand log (R43). -/
def canLog (i : Instr) : Bool :=
  match i with
  | .barInit x => x.glb
  | .barArr x => x.glb
  | .barExp x => x.glb
  | .barInval x => x.glb
  | .lnch _ => true
  | .post _ => true
  | .postOr _ => true
  | .postMaxz _ => true
  | i => isAtomic i || decide (spaceOf i = some .glb)

/-- Counted cycles of a float form of majors 19 to 30 (R129). -/
def floatCycles (i : Instr) : Nat :=
  let w := fun (w : Width) (one two : Nat) => if w = .x1 then one else two
  match i with
  | .fadd x | .fsub x | .fmul x | .ffma x | .fnma x => w x.w 16 64
  | .fmin x | .fmax x | .fminNan x | .fmaxNan x | .fabs x | .fneg x | .fcsgn x | .fclass x | .fcmp x | .fldexp x
  | .frndRn x | .frndRz x | .frndRd x | .frndRu x | .fexpof x | .ffract x | .hadd x | .hsub x | .hmul x | .hfma x
  | .hmin x | .hmax x | .hcmp x | .habs x | .hneg x => w x.w 16 32
  | .cvtDirect x => if cvtFromPair x.k || cvtToPair x.k then 32 else 16
  | .bfpdq _ => 32
  | .bfpq _ | .fexp2 _ | .flog2 _ | .fsin _ | .fcos _ | .ftanh _ => 48
  | .frcp x | .frsq x | .fsqrt x => w x.w 48 160
  | _ => 16

/-- Counted cycles of an instruction for the bound of R81. -/
def countedCycles (i : Instr) : Nat :=
  let by_ := fun (b : Bool) (one two : Nat) => if b then two else one
  match i with
  | .imulLo x | .imulHis x | .imulHiz x => by_ (decide (x.w = .x2)) 16 32
  | .imad x => by_ (decide (x.wd = .x2)) 16 32
  | .divs x | .divz x | .rems x | .remz x => by_ (decide (x.w = .x2)) 80 144
  | .gredIadd x | .gredMins x | .gredMaxs x | .gredAnd x | .gredOr x | .gredXor x => by_ x.x2 48 96
  | .gredFadd x | .gredFmax x => by_ x.x2 96 192
  | .gscanIadd _ | .gscanMins _ | .gscanMaxs _ | .gscanAnd _ | .gscanOr _ | .gscanXor _ => 48
  | .gscanFadd _ | .gscanFmax _ => 96
  | .ld x | .st x => match x.k with | .b16 => 32 | .b32 => 64 | _ => 16
  | .ldk x | .stk x => match x.k with | .b16 => 32 | .b32 => 64 | _ => 16
  | .rinit _ => 16
  | .lnch _ => 64
  | .rcmark _ => 32
  | i => match majorOf i with
    | some 33 | some 38 | some 39 => 32
    | some 49 | some 50 => 32
    | some 53 | some 54 | some 55 => 64
    | _ => floatCycles i

end Sys2Proof.Machine
end

