-- ==== Sys2Proof/Machine/Translate.lean ====
section
/-! DEFINITION. What the on-device translator may make of a linked module (R79, R81, R98 to R101): the checks that reject
a module, and the edits that native code may differ by. How many instructions the Steward inserts, and where the rules
leave it a choice, is its own (log 67): native code is an input, and a translation is native code that keeps every rule
here. -/
namespace Sys2Proof.Machine

/-! ### Instructions of an image -/

/-- An instruction of an image: where it stands, its parcels, and what it is where its word is legal. -/
structure Line where
  pc : Nat
  len : Nat
  instr : Option Instr
deriving DecidableEq, Repr

/-- The lines of a run of code. -/
def layout (img : ModuleImage) (last : Nat) : Nat → Nat → List Line
  | 0, _ => []
  | fuel + 1, pc =>
    if last ≤ pc then []
    else
      match decode (parcelsAt img pc) with
      | .ok (i, n) => ⟨pc, n, some i⟩ :: layout img last fuel (pc + n)
      | .error _ =>
        let n := match img.code[pc]? with | some p => if p.getLsbD 0 then 2 else 1 | none => 1
        ⟨pc, n, none⟩ :: layout img last fuel (pc + n)

/-- The lines of a kernel, and of all the code. -/
def kernelLines (img : ModuleImage) (k : KernelDecl) : List Line := layout img k.last (k.last - k.first) k.first
def codeLines (img : ModuleImage) : List Line := layout img img.code.length img.code.length 0

/-- The 32-bit word at an offset. -/
def wordAtPc (img : ModuleImage) (pc : Nat) : BitVec 32 :=
  match img.code[pc]?, img.code[pc + 1]? with
  | some p, some q => q ++ p
  | some p, none => p.setWidth 32
  | none, _ => 0

/-! ### Roles (R101, R271) -/

/-- `gred` or `gscan` with `fadd` or `fmax`. -/
def floatCollective : Instr → Bool
  | .gredFadd _ => true
  | .gredFmax _ => true
  | .gscanFadd _ => true
  | .gscanFmax _ => true
  | _ => false

/-- Scratch forms of the loads and stores. -/
def scratchForm : Instr → Bool
  | .ld x => decide (x.c = .scr)
  | .st x => decide (x.c = .scr)
  | .ldk x => decide (x.c = .scr)
  | .stk x => decide (x.c = .scr)
  | _ => false

/-- What copy and matrix roles may issue besides their own engine's instructions (R271). -/
def helperMay (i : Instr) : Bool :=
  match compactOf i, majorOf i with
  | some n, _ => decide (n ≤ 11)
  | none, some m => decide (m ≤ 18) || (decide (32 ≤ m) && decide (m ≤ 43) && !floatCollective i) || scratchForm i ||
      decide (51 ≤ m ∧ m ≤ 53) || decide (m = 59)
  | none, none => false

/-- The instructions a role may hold (R271). -/
def rolePermits (r : BitVec 2) (i : Instr) : Bool :=
  let m := (majorOf i).getD 0
  if r = roleVector then decide (m < 54) || decide (58 < m)
  else if r = roleCopy then helperMay i || decide (m = 54 ∨ m = 55)
  else helperMay i || decide (56 ≤ m ∧ m ≤ 58)

/-- The role of the section that holds an offset: that of the nearest entry at or before it; vector before any. -/
def sectionRole (k : KernelDecl) (pc : Nat) : BitVec 2 :=
  let es := [(k.vectorEntry, roleVector), (k.copyEntry, roleCopy), (k.matrixEntry, roleMatrix)].filterMap fun x =>
    x.1.bind fun e => if e ≤ pc then some (e, x.2) else none
  match minByKey (fun x => pc - x.1) es with
  | some x => x.2
  | none => roleVector

/-- The roles whose sections take from a ring (R278). -/
def consumersOf (img : ModuleImage) (k : KernelDecl) (ring : Nat) : List Nat :=
  [roleVector, roleCopy, roleMatrix].filterMap fun r =>
    if (kernelLines img k).any fun x => decide (sectionRole k x.pc = r) && match x.instr with
      | some (.rpop y) => decide (y.r.toNat = ring)
      | some (.rpeek y) => decide (y.r.toNat = ring)
      | _ => false
    then some r.toNat else none

/-- An image whose kernels carry the consumers that its code shows. -/
def withConsumers (img : ModuleImage) : ModuleImage :=
  { img with kernels := img.kernels.map fun k =>
      { k with ringConsumers := (List.range k.rings.length).map (consumersOf img k) } }

/-- Where a branch goes (R87). -/
def branchTarget (x : Line) (b : Bra) : Int := (x.pc : Int) + b.o.toInt

/-- A kernel the translator accepts: branches go to instructions of the kernel, and each role section holds only what
its role may issue (R101). DESIGN CHOICE (log 88): a kernel without `.role` has no role section to be checked; what its
threads may not issue traps when they issue it. -/
def kernelLawful (img : ModuleImage) (k : KernelDecl) : Bool :=
  let is := kernelLines img k
  let starts := is.map fun x => (x.pc : Int)
  is.all fun x =>
    match x.instr with
    | none => true
    | some i =>
      (!k.hasRoles || rolePermits (sectionRole k x.pc) i) &&
        match i with
        | .bra b => starts.contains (branchTarget x b)
        | _ => true

/-! ### The edits (R101) -/

/-- What the translator inserts: `nop +stop` and `reform`. -/
def isInserted (x : Line) : Bool :=
  match x.instr with
  | some (.nop y) => y.m.stop
  | some (.reform _) => true
  | _ => false

/-- The 32-bit form of a compact instruction (R76). -/
def widened (i : Instr) : Option Instr :=
  let m : Marks := ⟨false, false⟩
  let b := fun (x : CompactReg) => (0#1 ++ x.b : BitVec 6)
  let v := fun (x : CompactReg) => (⟨.reg (b x), .x1, x.d, .x1, x.d, m⟩ : VOps)
  let vf := fun (x : CompactReg) => (⟨.x1, b x, x.d, x.d, m⟩ : VF3)
  let fa := fun (x : CompactReg) => (⟨.rn, .x1, b x, x.d, x.d, m⟩ : FArith)
  match i with
  | .movC x => some (.mov ⟨.reg (b x), .x1, false, .x1, x.d, m⟩)
  | .movi x => some (.mov ⟨.imm x.i, .x1, false, .x1, x.d, m⟩)
  | .iaddC x => some (.iadd (v x))
  | .iaddiC x => some (.iadd ⟨.imm x.i, .x1, x.d, .x1, x.d, m⟩)
  | .isubC x => some (.isub (v x))
  | .imulC x => some (.imulLo (vf x))
  | .andC x => some (.logAnd (vf x))
  | .orC x => some (.logOr (vf x))
  | .xorC x => some (.logXor (vf x))
  | .shlC x => some (.shl (vf x))
  | .shrC x => some (.shr (vf x))
  | .sarC x => some (.sar (vf x))
  | .faddC x => some (.fadd (fa x))
  | .fmulC x => some (.fmul (fa x))
  | .fminC x => some (.fmin (vf x))
  | .fmaxC x => some (.fmax (vf x))
  | _ => none

/-- The P and S bits of a word, and the field of a branch offset (R77, R82). -/
def markBits : BitVec 32 := 6
def offsetBits (i : Instr) : BitVec 32 := match i with | .bra _ => 0xFFFFE000 | _ => 0

/-- A native line is a linked one with edits of its word: marks set, a branch offset computed again, or a compact form
widened for a mark; an illegal word passes unchanged. -/
def sameLine (linked native : ModuleImage) (l n : Line) : Bool :=
  let x := wordAtPc linked l.pc
  let y := wordAtPc native n.pc
  match l.instr with
  | none => decide (l.len = n.len) && decide (parcelsAt linked l.pc = parcelsAt native n.pc)
  | some i =>
    if l.len = 2 then
      let free := markBits ||| offsetBits i
      decide (n.len = 2) && decide (x &&& ~~~free = y &&& ~~~free) && decide (x &&& markBits &&& ~~~y = 0)
    else
      (decide (n.len = 1) && decide (linked.code[l.pc]? = native.code[n.pc]?)) ||
        match (widened i).bind encode with
        | some (.c32 w) => decide (n.len = 2) && decide (w &&& ~~~markBits = y &&& ~~~markBits) && decide (y &&& markBits ≠ 0)
        | _ => false

/-- The ways to read native lines as the linked ones with insertions between them: of each, the offsets that belong
together. -/
def alignments (linked native : ModuleImage) : List Line → List Line → List (List (Nat × Nat))
  | ls, [] => if ls.isEmpty then [[]] else []
  | ls, n :: ns =>
    (match ls with
      | l :: ls' => if sameLine linked native l n then (alignments linked native ls' ns).map ((l.pc, n.pc) :: ·) else []
      | [] => []) ++
    (if isInserted n then alignments linked native ls ns else [])

/-- The offset of a linked instruction in the native code. -/
def imageOfPc (m : List (Nat × Nat)) (pc : Nat) : Option Nat := (m.find? fun x => decide (x.1 = pc)).map Prod.snd

/-- A native offset stands for a linked one: it is that instruction's, or that of insertions right before it. -/
def landsAt (ns : List Line) (m : List (Nat × Nat)) (pc at_ : Nat) : Bool :=
  match imageOfPc m pc with
  | none => false
  | some q =>
    decide (at_ ≤ q) && (ns.any fun x => decide (x.pc = at_)) &&
      ns.all fun x => !(decide (at_ ≤ x.pc) && decide (x.pc < q)) || isInserted x

/-- The same of an offset that may be absent. -/
def landsOpt (ns : List Line) (m : List (Nat × Nat)) (a b : Option Nat) : Bool :=
  match a, b with
  | some pc, some at_ => landsAt ns m pc at_
  | none, none => true
  | _, _ => false

/-- Branches go where they went. -/
def branchesKept (ns : List Line) (m : List (Nat × Nat)) (ls : List Line) : Bool :=
  ls.all fun l => match l.instr with
    | some (.bra b) =>
      match (imageOfPc m l.pc).bind fun q => ns.find? fun x => decide (x.pc = q) with
      | some n => match n.instr with
        | some (.bra c) => decide (0 ≤ branchTarget n c) &&
          landsAt ns m (branchTarget l b).toNat (branchTarget n c).toNat
        | _ => false
      | none => false
    | _ => true

/-- A kernel keeps its declarations, and its offsets stand for the linked ones. -/
def kernelKept (linked native : ModuleImage) (ns : List Line) (m : List (Nat × Nat)) (k n : KernelDecl) : Bool :=
  landsAt ns m k.first n.first &&
    (landsAt ns m k.last n.last ||
      decide (k.last = linked.code.length) && decide (n.last = native.code.length)) &&
    landsOpt ns m k.copyEntry n.copyEntry && landsOpt ns m k.matrixEntry n.matrixEntry &&
    landsOpt ns m k.vectorEntry n.vectorEntry && landsOpt ns m k.trap n.trap &&
    decide ({ n with
      first := k.first, last := k.last, copyEntry := k.copyEntry, matrixEntry := k.matrixEntry
      vectorEntry := k.vectorEntry, trap := k.trap, ringConsumers := k.ringConsumers } = k)

/-! ### Paths -/

/-- Where control can go after a line of a kernel: a jump, call or return goes to safe points of the kernel (R160). -/
def nextPcs (img : ModuleImage) (k : KernelDecl) (x : Line) : List Nat :=
  let stops := (img.stops.map StopEntry.off).filter fun o => decide (k.first ≤ o) && decide (o < k.last)
  match x.instr with
  | none => []
  | some (.bra b) => (branchTarget x b).toNat :: if b.g = 0 then [] else [x.pc + x.len]
  | some (.jmp _) => stops
  | some (.call _) => stops
  | some (.ret _) => stops
  | some (.exit _) => []
  | some (.abort _) => []
  | some (.assay _) => []
  | some _ => [x.pc + x.len]

/-- A value for each line, by its offset; a default elsewhere. -/
def valueAt {α : Type} (d : α) (vs : List (Nat × α)) (pc : Nat) : α :=
  match vs.find? fun x => decide (x.1 = pc) with
  | some x => x.2
  | none => d

/-- Carry values through the lines, n times over: each line's value from those of its successors. -/
def solve {α : Type} (d : α) (f : Line → (Nat → α) → α) (xs : List Line) : Nat → List (Nat × α)
  | 0 => xs.map fun x => (x.pc, d)
  | n + 1 =>
    let before := solve d f xs n
    xs.map fun x => (x.pc, f x (valueAt d before))

/-- The offsets that can be reached from some, past lines that do not stand in the way, in at most n lines. -/
def reached (img : ModuleImage) (k : KernelDecl) (xs : List Line) (halts : Line → Bool) : Nat → List Nat → List Nat
  | 0, pcs => pcs
  | n + 1, pcs =>
    let more := (xs.filter fun x => pcs.contains x.pc && !halts x).flatMap (nextPcs img k)
    reached img k xs halts n (pcs ++ more.filter fun p => !pcs.contains p)

/-- The lines at the offsets that can be reached from behind a line. -/
def linesAfter (img : ModuleImage) (k : KernelDecl) (xs : List Line) (halts : Line → Bool) (x : Line) : List Line :=
  let pcs := reached img k xs halts xs.length (nextPcs img k x)
  xs.filter fun y => pcs.contains y.pc

/-! ### What native code must hold (R79, R81, R98 to R100) -/

/-- The marks of a line's word; a compact form has none. -/
def stopMark (img : ModuleImage) (x : Line) : Bool := decide (x.len = 2) && (wordAtPc img x.pc).getLsbD 2
def switchMark (img : ModuleImage) (x : Line) : Bool := decide (x.len = 2) && (wordAtPc img x.pc).getLsbD 1

/-- The entry of a safe point (R80). -/
def entryAt (img : ModuleImage) (x : Line) : Option StopEntry :=
  if stopMark img x then img.stops.find? fun e => decide (e.off = x.pc) else none

/-- No instruction touches a pending destination before a switch marker (R79). -/
def switchesSet (img : ModuleImage) (k : KernelDecl) (xs : List Line) : Bool :=
  xs.all fun x => match x.instr with
    | some i => !isPending i || switchMark img x ||
        (linesAfter img k xs (switchMark img) x).all fun y => match y.instr with
          | some j => (touched j).all fun r => !(regsWritten i).contains r
          | none => true
    | none => true

/-- A line touches a destination of a pending instruction. -/
def offends (i : Instr) (y : Line) : Bool :=
  match y.instr with
  | some j => (touched j).any (regsWritten i).contains
  | none => false

/-- R79 requires S on a line: it is the last one before an access to a destination that is pending there. -/
def switchNeeded (img : ModuleImage) (k : KernelDecl) (xs : List Line) (n : Line) : Bool :=
  let next := xs.filter fun y => (nextPcs img k n).contains y.pc
  xs.any fun x => match x.instr with
    | some i => isPending i && next.any (offends i) &&
        (decide (x = n) || (!switchMark img x && (linesAfter img k xs (switchMark img) x).contains n))
    | none => false

/-- A thread that logged a line's instruction can stop at another (R44). -/
def stopsFor (img : ModuleImage) (i : Instr) (y : Line) : Bool :=
  match y.instr with
  | some j => stopsLog j || switchMark img y || (touched j).any (regsWritten i).contains
  | none => false

/-- The possible stop points of R44. -/
def logStopLines (img : ModuleImage) (k : KernelDecl) (xs : List Line) : List Line :=
  xs.filter fun y => xs.any fun x => match x.instr with
    | some i => canLog i && stopsFor img i y && (linesAfter img k xs (stopsFor img i) x).contains y
    | none => false

/-- A branch that goes back, or to itself. -/
def loopsBack (x : Line) : Bool :=
  match x.instr with
  | some (.bra b) => decide (branchTarget x b ≤ x.pc)
  | _ => false

/-- A line is a safe point whose entry has a flag (R98). -/
def flagged (img : ModuleImage) (bit : Nat) (x : Line) : Bool :=
  match entryAt img x with
  | some e => e.flags.getLsbD bit
  | none => false

/-- P and the flags stand where R81 asks: BLK at what can end a segment, FSTOP at the stops of R44, BACK at branches
back. -/
def stopsSet (img : ModuleImage) (k : KernelDecl) (xs : List Line) : Bool :=
  (xs.all fun x =>
    (!(match x.instr with | some i => canBlock i | none => false) || flagged img 0 x) &&
      (!loopsBack x || flagged img 1 x)) &&
    (logStopLines img k xs).all (flagged img 2)

/-- The longest way from each line to a safe point, as far as n lines, counted by a weight (R81). -/
def wayToStop (img : ModuleImage) (k : KernelDecl) (xs : List Line) (weight : Instr → Nat) (n : Nat) : List (Nat × Nat) :=
  solve 0 (fun x after =>
    match x.instr, entryAt img x with
    | none, _ => 0
    | _, some _ => 0
    | some i, none => weight i + ((nextPcs img k x).map after).foldr max 0) xs n

/-- A safe point follows the previous one, on every path, within 64 instructions and 4,096 counted cycles (R81);
a way longer than the kernel goes round. -/
def stopsClose (img : ModuleImage) (k : KernelDecl) (xs : List Line) : Bool :=
  let n := min 64 (xs.length + 1)
  let far := wayToStop img k xs (fun _ => 1) (n + 1)
  let long := wayToStop img k xs countedCycles (n + 1)
  xs.all fun x => match x.instr with
    | none => true
    | some i => (nextPcs img k x).all fun p => decide (valueAt 0 far p < n) && decide (countedCycles i + valueAt 0 long p ≤ 4096)

/-- A set of v registers. -/
def regMask (rs : List (BitVec 6)) : BitVec 64 := rs.foldr (fun r m => m ||| (1#64 <<< r.toNat)) 0

/-- The registers live before each line (R100). -/
def liveBefore (img : ModuleImage) (k : KernelDecl) (xs : List Line) : List (Nat × BitVec 64) :=
  solve 0 (fun x after =>
    match x.instr with
    | none => 0
    | some (.call _) => BitVec.allOnes 64
    | some (.jmp _) => BitVec.allOnes 64
    | some (.ret _) => BitVec.allOnes 64
    | some i =>
      let out := ((nextPcs img k x).map after).foldr (· ||| ·) 0
      regMask (regsRead i) ||| (out &&& ~~~regMask (regsSurelyWritten i))) xs (xs.length + 1)

/-- S and P stand on more lines than the linked ones only where R79 requires S, and where an entry makes P a safe point
(R101). -/
def marksNeeded (linked native : ModuleImage) (m : List (Nat × Nat)) (k : KernelDecl) (xs : List Line) : Bool :=
  xs.all fun n =>
    let had := fun (bit : Nat) => m.any fun p => decide (p.2 = n.pc) &&
      (codeLines linked).any fun l => decide (l.pc = p.1) && decide (l.len = 2) && (wordAtPc linked l.pc).getLsbD bit
    n.instr.isNone || ((!switchMark native n || had 1 || switchNeeded native k xs n) &&
      (!stopMark native n || had 2 || (entryAt native n).isSome))

/-- The flags an entry may carry that the linker has not given it: those that hold of its instruction (R98). -/
def flagsFit (img : ModuleImage) (k : KernelDecl) (xs : List Line) (off : Nat) (more : Word) : Bool :=
  xs.any fun x => decide (x.pc = off) &&
    (!more.getLsbD 0 || (match x.instr with | some i => canBlock i | none => false)) &&
    (!more.getLsbD 1 || loopsBack x) && (!more.getLsbD 2 || (logStopLines img k xs).contains x)

/-- The native table: the linker's entries keep their places, offsets recomputed and flags kept or added to; the
translator's follow, by rising offset, with INS and the live masks of R100; no two share an offset (R98, R99). -/
def tableKept (linked native : ModuleImage) (m : List (Nat × Nat)) : Bool :=
  let own := native.stops.take linked.stops.length
  let added := native.stops.drop linked.stops.length
  decide (linked.stops.length ≤ native.stops.length) &&
    ((linked.stops.zip own).all fun p =>
      decide (imageOfPc m p.1.off = some p.2.off) && decide (p.1.live = p.2.live) &&
        decide (p.1.flags &&& ~~~p.2.flags = 0) && !p.2.flags.getLsbD 3 &&
        decide (p.1.flags.getLsbD 4 = p.2.flags.getLsbD 4) &&
        (decide (p.1.flags = p.2.flags) || native.kernels.any fun k =>
          flagsFit native k (kernelLines native k) p.2.off (p.2.flags &&& ~~~p.1.flags))) &&
    decide ((own.map StopEntry.off).Pairwise (· < ·)) &&
    decide ((added.map StopEntry.off).Pairwise (· < ·)) &&
    decide ((native.stops.map StopEntry.off).Nodup) &&
    (native.stops.all fun e => decide (e.flags.toNat < 32)) &&
    added.all fun e => e.flags.getLsbD 3 && !e.flags.getLsbD 4 && native.kernels.any fun k =>
      decide (k.first ≤ e.off) && decide (e.off < k.last) &&
        let xs := kernelLines native k
        (xs.any fun x => decide (x.pc = e.off) && stopMark native x) && flagsFit native k xs e.off e.flags &&
          decide (valueAt 0 (liveBefore native k xs) e.off = e.live)

/-- Native code is a translation of a linked module. -/
def isTranslation (linked native : ModuleImage) : Bool :=
  let ls := codeLines linked
  let ns := codeLines native
  decide (linked.data = native.data) && decide (linked.kernels.length = native.kernels.length) &&
    (native.kernels.all fun k =>
      let xs := kernelLines native k
      switchesSet native k xs && stopsSet native k xs && stopsClose native k xs) &&
    (alignments linked native ls ns).any fun m =>
      tableKept linked native m && branchesKept ns m ls &&
        (native.kernels.all fun k => marksNeeded linked native m k (kernelLines native k)) &&
        (linked.kernels.zip native.kernels).all fun p => kernelKept linked native ns m p.1 p.2

/-- A branch can outgrow its field of 19 bits: each linked instruction on its way becomes at most an inserted `nop +stop`, an
inserted `reform` and its own 32-bit form, six parcels in all (log 67). -/
def canOutgrow (x : Line) : Bool :=
  match x.instr with
  | some (.bra b) => decide (2 ^ 18 ≤ 6 * b.o.toInt.natAbs)
  | _ => false

/-- How a translation ends: accepted, rejected, or not with this native code. A branch that no longer fits its field
after the insertions leaves no native code (R101). -/
def translated (linked native : ModuleImage) : Option Bool :=
  if !linked.kernels.all (kernelLawful linked) then some false
  else if isTranslation linked native then some true
  else if native.code.isEmpty && (codeLines linked).any canOutgrow then some false
  else none

end Sys2Proof.Machine
end

