-- ==== Sys2Proof/Machine/Services.lean ====
section
/-! DEFINITION. Modules and their translation, debug sessions, power settings, and the Ethernet path (R101, R271, R358,
R359, R390 to R393, R430, R476, R479). -/
namespace Sys2Proof.Machine

/-! ### Modules (R393, R400) -/

/-- A module with nothing in it yet. -/
def emptyImage : ModuleImage := ⟨[], [], [], []⟩

/-- A module of a tenant with some content, by its SHA-384 hash. -/
def sameModule (s : State) (charter : Nat) (spf : List Byte) : Option Module :=
  s.modules.find? fun m => decide (m.charter = charter) && decide (Config.sha384 m.spf = Config.sha384 spf)

/-- MODULE_LOAD: a second load by the same tenant reuses the cache. -/
def execModuleLoad (h : CmdHead) (spf : List Byte) (s : State) : Host.Outcome State Fault Refusal :=
  command ⟨6, .guest, false, false, false⟩ h (fun s =>
    match sameModule s h.charter spf with
    | some m =>
      respond { s with modules := s.modules.map fun x => if x.handle = m.handle then { x with loaded := true } else x } h cmdOk
        m.handle
    | none =>
      let m : Module := ⟨s.nextId, h.charter, spf, .translating, true, emptyImage, emptyImage⟩
      respond (bumpId { s with modules := s.modules ++ [m] }) h cmdOk s.nextId) s

/-- MODULE_UNLOAD: launches that run keep their code; later ones are refused (R377). -/
def execModuleUnload (h : CmdHead) (handle : Nat) (s : State) : Host.Outcome State Fault Refusal :=
  command ⟨6, .guest, false, false, false⟩ h (fun s =>
    match findModule s handle with
    | some m =>
      if m.charter = h.charter ∧ m.loaded then
        okay { s with modules := s.modules.map fun x => if x.handle = handle then { x with loaded := false } else x } h
      else respond s h cmdInvalid 0
    | none => respond s h cmdInvalid 0) s

/-- MODULE_TRANSLATION_COMPLETE (R101, R393). Native code that is no translation of the linked module does not come. -/
def execModuleTranslationComplete (handle : Nat) (linked native : ModuleImage) (s : State) :
    Host.Outcome State Fault Refusal :=
  match findModule s handle with
  | some m =>
    match if m.state = .translating then translated linked native else none with
    | none => .next s
    | some ok =>
      .next { s with modules := s.modules.map fun x =>
        if x.handle = handle then
          { x with
            state := if ok then .ready else .rejected
            linked := linked
            native := if ok then withConsumers native else emptyImage }
        else x }
  | none => .next s

/-! ### Debug sessions (R358, R359, R479) -/

/-- DBG of the tenant's charter. -/
def debugAllowed (s : State) (h : CmdHead) : Bool :=
  match charterOf s h.charter with
  | some ch => ch.policy.getLsbD 7
  | none => false

/-- A DEBUG command: also on a frozen context (R419); DENIED without DBG. -/
def debugCommand (h : CmdHead) (act : State → State) (s : State) : Host.Outcome State Fault Refusal :=
  command ⟨8, .guest, false, true, true⟩ h (fun s => if debugAllowed s h then act s else respond s h cmdDenied 0) s

/-- ATTACH: a session with its breakpoint ordinals; attaching again replaces them. -/
def execAttach (h : CmdHead) (breakpoints : List Nat) (s : State) : Host.Outcome State Fault Refusal :=
  debugCommand h (fun s =>
    okay (updCtx s h.ctx fun c => { c with session := true, breakpoints := breakpoints }) h) s

/-- A record is released to drain: not halted, breakpoints not tested at its first instruction (R359). -/
def releaseRecord (step : Bool) (s : State) (id : Nat) : State :=
  wakeRecord (updRecord s id fun r => { r with
    fin := { r.fin with halt := false }
    th := { r.th with fl := { r.th.fl with step := step, skipBreak := true } } }) id

/-- A thread as a detach leaves it: STEP clear, its trap-state timer starts again from zero (R354, R479). -/
def detachThread (now : Nat) (t : Thread) : Thread :=
  { t with trapState := t.trapState.map fun _ => now, fl := { t.fl with step := false } }

/-- The end of a thread that has none of its own record yet: it waits for its pending results, or is held (R256, R269). -/
def waitingEnd (t : Thread) : Option SegEnd :=
  match t.place with
  | .held e => some e
  | .ending (.segment e) _ => some e
  | _ => none

/-- A halted thread that has no record yet is released by a detach as its record would be. -/
def unhaltThread (t : Thread) : Thread :=
  let go := fun (e : SegEnd) => if e.wake = 11 then { e with halt := false } else e
  match waitingEnd t with
  | none => t
  | some e =>
    if e.wake = 11 then
      { t with
        place := match t.place with
          | .held e => .held (go e)
          | .ending (.segment e) k => .ending (.segment (go e)) k
          | p => p
        fl := { t.fl with skipBreak := true } }
    else t

/-- The launches of a context with a trap that waits for the session, whether its record is written or still to come; a trap
taken while its workgroup is stopped waits for the stop's end (R352, R479, R480). -/
def trapsWaiting (s : State) (ctx : Nat) : List Nat :=
  let mine := fun (wg tid : Nat) => match findWg s wg with
    | some g => decide (g.ctx = ctx) && !(g.heldTraps.any fun x => x.tids.contains tid) && !trapEntryOn s g.launch
    | none => false
  dedup (((s.records.filter fun r => mine r.th.wg r.th.tid && decide (r.fin.wake = 10) && r.woken.isNone).map fun r => r.th.launch) ++
    (s.threads.filter fun t => mine t.wg t.tid && match waitingEnd t with | some e => decide (e.wake = 10) | none => false).map
      Thread.launch)

/-- DETACH (R354, R479). -/
def execDetach (h : CmdHead) (s : State) : Host.Outcome State Fault Refusal :=
  debugCommand h (fun s =>
    if !sessionOn s h.ctx then respond s h cmdInvalid 0
    else
      let mine := fun (wg : Nat) => decide (ctxOfWg s wg = h.ctx)
      let s1 := updCtx s h.ctx fun c => { c with session := false, sessionAt := s.clock, breakpoints := [] }
      let s2 := { s1 with
        threads := s1.threads.map fun t => if mine t.wg then unhaltThread (detachThread s.clock t) else t
        records := s1.records.map fun r =>
          if mine r.th.wg then
            { r with
              th := detachThread s.clock r.th
              since := if r.fin.wake = 10 ∧ r.woken = none then s.clock else r.since }
          else r }
      let s3 := foldList (releaseRecord false) s2 ((s2.records.filter fun r => mine r.th.wg && r.fin.halt && decide (r.fin.wake = 11)).map
        Record.id)
      let s4 := retestHeld s3 fun t => mine t.wg
      okay (foldList (fun s l => killLaunch s l 7 0) s4 (trapsWaiting s4 h.ctx)) h) s

/-- A record the session may act on: halted, or a trap record left to the session (R352, R358). -/
def sessionRecord (s : State) (h : CmdHead) (rid : Nat) : Option Record :=
  match findRecord s rid with
  | some r =>
    if sessionOn s h.ctx && decide (ctxOfWg s r.th.wg = h.ctx) && r.woken.isNone &&
        (decide (r.fin.wake = 11) || decide (r.fin.wake = 10)) then some r else none
  | none => none

/-- RELEASE (R359). -/
def execRelease (h : CmdHead) (rid : Nat) (s : State) : Host.Outcome State Fault Refusal :=
  debugCommand h (fun s =>
    match sessionRecord s h rid with
    | some _ => okay (releaseRecord false s rid) h
    | none => respond s h cmdInvalid 0) s

/-- STEP (R359). -/
def execStepCmd (h : CmdHead) (rid : Nat) (s : State) : Host.Outcome State Fault Refusal :=
  debugCommand h (fun s =>
    match sessionRecord s h rid with
    | some _ => okay (releaseRecord true s rid) h
    | none => respond s h cmdInvalid 0) s

/-- DISCARD (R359): the thread ends as at a kill. -/
def execDiscard (h : CmdHead) (rid : Nat) (s : State) : Host.Outcome State Fault Refusal :=
  debugCommand h (fun s =>
    match sessionRecord s h rid with
    | some r =>
      let s1 := { s with records := s.records.filter fun q => !decide (q.id = rid) }
      let s2 := updWg s1 r.th.wg fun g => { g with exited := r.th.tid :: g.exited }
      let s3 := discardAtLast (freeHandles s2 r.th.wg) r.th.wg
      okay (releaseHeld s3 h.ctx s3.threads.length) h
    | none => respond s h cmdInvalid 0) s

/-! ### POWER_SET (R430, R448) -/

/-- POWER_SET: neither limit may be broken. -/
def execPowerSet (h : CmdHead) (vd g w : Nat) (s : State) : Host.Outcome State Fault Refusal :=
  command ⟨9, .hypervisor, false, false, false⟩ h (fun s =>
    match charterOf s h.charter, findVd s vd with
    | some ch, some _ =>
      let others := sumNat ((s.vds.filter fun v => !decide (v.num = vd)).map VDev.g)
      if ch.grains < g ∨ ch.weight < w ∨ s.power.budget < others + g ∨ vdForeign s vd h.charter then respond s h cmdInvalid 0
      else okay (updVd s vd fun v => { v with g := g, w := w }) h
    | _, _ => respond s h cmdInvalid 0) s

/-! ### Ingress rings and the Ethernet path (R390 to R392, R476) -/

/-- R390. -/
def descValid (d : RingDesc) : Bool :=
  d.reservedZero && decide (d.base % 4096 = 0) && decide (d.index % 128 = 0) && decide (4 ≤ d.slog) && decide (d.slog ≤ 15) &&
    decide (11 ≤ d.zlog) && decide (d.zlog ≤ 14) && decide (d.ports < 4) && decide (d.etherType < 2 ^ 16) &&
    decide (d.vlan < 2 ^ 12) && decide (d.mac < 2 ^ 48)

/-- Two descriptors claim the same frames: equal match fields on a common port. -/
def sameClaim (a b : RingDesc) : Bool :=
  decide (a.ports &&& b.ports ≠ 0) && decide (a.etherType = b.etherType) && decide (a.matchVlan = b.matchVlan) &&
    (!a.matchVlan || decide (a.vlan = b.vlan)) && decide (a.mac = b.mac)

/-- ING of the tenant's charter. -/
def ingressAllowed (s : State) (h : CmdHead) : Bool :=
  match charterOf s h.charter with
  | some ch => ch.policy.getLsbD 8
  | none => false

/-- The virtual device of a guest. -/
def issuerVd (h : CmdHead) : Nat :=
  match h.issuer with
  | .guest v => v
  | .hypervisor => 0

/-- RING_SET (R390, R400). -/
def execRingSet (h : CmdHead) (n : Nat) (desc : RingDesc) (s : State) : Host.Outcome State Fault Refusal :=
  command ⟨7, .guest, false, false, false⟩ h (fun s =>
    let vd := issuerVd h
    if !ingressAllowed s h then respond s h cmdDenied 0
    else if 16 ≤ n ∨ !descValid desc ∨
        (s.vds.any fun v => !decide (v.num = vd) && v.ingress.any fun r => sameClaim r.desc desc) then respond s h cmdInvalid 0
    else okay (updVd s vd fun v => { v with
      ingress := (v.ingress.filter fun r => !decide (r.num = n)) ++ [⟨n, desc, 0, 0, 0⟩] }) h) s

/-- Contexts of a virtual device. -/
def ctxOfVd (s : State) (vd : Nat) : Option Context := s.contexts.find? fun c => decide (c.vd = vd)

/-- RING_CLEAR: who waits on the ring goes on. -/
def execRingClear (h : CmdHead) (n : Nat) (s : State) : Host.Outcome State Fault Refusal :=
  command ⟨7, .guest, false, false, false⟩ h (fun s =>
    let vd := issuerVd h
    if !(match findVd s vd with | some v => v.ingress.any fun r => decide (r.num = n) | none => false) then
      respond s h cmdInvalid 0
    else
      let s1 := updVd s vd fun v => { v with ingress := v.ingress.filter fun r => !decide (r.num = n) }
      okay (match ctxOfVd s1 vd with | some c => retestCtx s1 c.id 5 | none => s1) h) s

/-- A number from n bytes of a frame, in the order of transmission: the first byte is the highest (log 99). -/
def frameField (f : EthFrame) (off n : Nat) : Nat := ofBytes (byteList f.bytes off n).reverse

/-- The frame carries an IEEE 802.1Q tag. -/
def frameTagged (f : EthFrame) : Bool := decide (frameField f 12 2 = 0x8100)

/-- Destination address, VLAN identifier and EtherType of a frame. -/
def frameMac (f : EthFrame) : Nat := frameField f 0 6
def frameVlan (f : EthFrame) : Option Nat := if frameTagged f then some (frameField f 14 2 % 4096) else none
def frameType (f : EthFrame) : Nat := frameField f (if frameTagged f then 16 else 12) 2

/-- A frame meets a ring's port mask and match fields. -/
def frameMeets (f : EthFrame) (d : RingDesc) : Bool :=
  flag d.ports f.port && (decide (d.etherType = 0) || decide (d.etherType = frameType f)) &&
    (!d.matchVlan || decide (frameVlan f = some d.vlan)) && (decide (d.mac = 0) || decide (d.mac = frameMac f))

/-- The ring a frame goes to: the lowest-numbered one that it meets. -/
def ringFor (s : State) (f : EthFrame) : Option (VDev × Ingress) :=
  minByKey (fun x => x.2.num * 32 + x.1.num) (s.vds.flatMap fun v =>
    (v.ingress.filter fun r => frameMeets f r.desc).map fun r => (v, r))

/-- The stamp of a frame: within 8 ns of %ptptime, 0 before the first lock. -/
def frameStamp (s : State) (f : EthFrame) : Nat := if s.ptp.everLocked then s.ptp.time + f.stampSkew % 17 - 8 else 0

/-- The bytes of a slot (R391). -/
def slotBytes (s : State) (r : Ingress) (f : EthFrame) : List Byte :=
  let room := 2 ^ r.desc.zlog - 32
  toBytes 8 (frameStamp s f) ++ toBytes 8 r.seq ++ toBytes 2 f.bytes.length ++ toBytes 1 f.port ++
    toBytes 1 (boolNat (decide (room < f.bytes.length)) + 2 * boolNat (!s.ptp.everLocked)) ++ List.replicate 12 0 ++
    f.bytes.take room

/-- Put a frame into a ring, or drop and count it (R391, R392). -/
def putFrame (s : State) (c : Context) (v : VDev) (r : Ingress) (f : EthFrame) : State :=
  let upd := fun (s : State) (r' : Ingress) => updVd s v.num fun v => { v with
    ingress := v.ingress.map fun x => if x.num = r.num then r' else x }
  if (r.prod + 2 ^ 32 - vreadNat s c.id (r.desc.index + 0x40) 4) % 2 ^ 32 = 2 ^ r.desc.slog then
    upd (vwrite s c.id (r.desc.index + 8) (toBytes 8 (r.drops + 1))) { r with drops := r.drops + 1 }
  else
    let s1 := vwriteSplit s c.id (r.desc.base + 2 ^ r.desc.zlog * (r.prod % 2 ^ r.desc.slog)) (slotBytes s r f)
    let s2 := vwrite s1 c.id r.desc.index (toBytes 4 (r.prod + 1))
    retestCtx (upd s2 { r with prod := (r.prod + 1) % 2 ^ 32, seq := r.seq + 1 }) c.id 5

/-- A frame for the host: its ring holds at most 4,096, and how many of the oldest the host has taken meanwhile is open; a frame
that finds the ring full is dropped and counted (R476, log 105). -/
def hostFrame (s : State) (f : EthFrame) : State :=
  let n := s.eth.hostRing.length
  let ring := s.eth.hostRing.drop (Config.choose s.freeCount (n + 1) % (n + 1))
  bumpFree { s with eth :=
    if ring.length < 4096 then { s.eth with hostRing := ring ++ [f] }
    else { s.eth with hostRing := ring, hostDrops := s.eth.hostDrops + 1 } }

/-- FRAME_RECEIVE (R2, R391, R392, R476): one of two ports; lengths are without the FCS of 4 bytes. -/
def execFrameReceive (f : EthFrame) (s : State) : Host.Outcome State Fault Refusal :=
  if s.boot.stage ≠ 6 ∨ 2 ≤ f.port ∨ f.bytes.length + 4 < 64 ∨ 9216 < f.bytes.length + 4 then .next s
  else if !f.goodFcs then .next { s with eth := { s.eth with badFcs := s.eth.badFcs + 1 } }
  else
    match ringFor s f with
    | some (v, r) => .next (match ctxOfVd s v.num with | some c => putFrame s c v r f | none => s)
    | none => .next (hostFrame s f)

/-- HOST_TRANSMIT (R476): the next frame of the host's transmit ring leaves by one of the two ports. -/
def execHostTransmit (f : PortFrame) (s : State) : Host.Outcome State Fault Refusal :=
  if s.boot.stage = 6 ∧ f.port < 2 then .next (emit s (.frame f.port f.bytes)) else .next s

end Sys2Proof.Machine
end

