-- ==== Sys2Proof/Machine/Telemetry.lean ====
section
/-! DEFINITION. Telemetry: ticks and counter streams, trace and sampling, recording and replay, and what the guest and
the hypervisor read (R443, R451 to R466). -/
namespace Sys2Proof.Machine

/-! ### Admission (R400, R451) -/

/-- A command of class 10. -/
def telemetry (o : OpenTo) (h : CmdHead) (act : State → State) (s : State) : Host.Outcome State Fault Refusal :=
  command ⟨10, o, false, false, false⟩ h act s

/-- A guest's command that names a context of its own. -/
def telemetryCtx (h : CmdHead) (act : State → State) (s : State) : Host.Outcome State Fault Refusal :=
  command ⟨10, .guest, false, false, true⟩ h act s

/-! ### Streams (R455 to R457) -/

/-- Groups an issuer may ask for (R456). -/
def groupsOf : Issuer → List Nat
  | .guest _ => [0, 1, 2]
  | .hypervisor => [1, 3, 4]

/-- A mask that names only the given bits. -/
def maskWithin (mask : Nat) (bits : List Nat) : Bool :=
  decide (mask < 2 ^ 32) && (List.range 32).all fun i => !flag mask i || bits.contains i

/-- Where the ring and index line lie: a guest's in its grant, the hypervisor's in host or CXL memory. -/
def streamArea (s : State) (h : CmdHead) (o : StreamOps) : Option (Nat × Nat) :=
  let n := 256 * 2 ^ o.rlog
  match h.issuer with
  | .guest _ =>
    if o.off % 4096 = 0 ∧ o.index % 128 = 0 ∧ o.vd = 0 then
      match grantArea s h o.base o.off n, grantArea s h o.base o.index 128 with
      | some a, some b => some (a, b)
      | _, _ => none
    else none
  | .hypervisor =>
    if o.base % 4096 = 0 ∧ o.off % 128 = 0 ∧ o.index = 0 ∧ 2 ^ 39 ≤ o.base ∧ 2 ^ 39 ≤ o.off then some (o.base, o.off) else none

/-- STREAM_SET (R452, R455, R456). -/
def execStreamSet (h : CmdHead) (o : StreamOps) (s : State) : Host.Outcome State Fault Refusal :=
  telemetry .either h (fun s =>
    let vd := match h.issuer with | .guest v => v | .hypervisor => o.vd
    let held := (s.streams.filter fun x => decide (x.issuer = h.issuer) && decide (x.vd = vd)).length
    if !(decide (4 ≤ o.rlog) && decide (o.rlog ≤ 15) && decide (10 ≤ o.k) && decide (o.k ≤ 24)) ||
        !maskWithin o.mask (groupsOf h.issuer) || (findVd s vd).isNone then respond s h cmdInvalid 0
    else
      match streamArea s h o with
      | none => respond s h cmdInvalid 0
      | some (base, index) =>
        if 4 ≤ held then respond s h cmdBusy 0
        else
          let x : Stream := ⟨s.nextId, h.issuer, vd, base, index, o.rlog, o.k, o.mask, 0, 0, false⟩
          respond (bumpId { s with streams := s.streams ++ [x] }) h cmdOk s.nextId) s

/-- STREAM_CLEAR: the frames of a tick are whole, so that none of the current tick remains to be written. -/
def execStreamClear (h : CmdHead) (handle : Nat) (s : State) : Host.Outcome State Fault Refusal :=
  telemetry .either h (fun s =>
    match s.streams.find? fun x => decide (x.handle = handle) with
    | none => respond s h cmdInvalid 0
    | some x =>
      if x.issuer ≠ h.issuer then respond s h cmdDenied 0
      else okay { s with streams := s.streams.filter fun y => !decide (y.handle = handle) } h) s

/-- What a frame describes: group, rood (0xFF: none), cluster, side, and its values. -/
structure Frame where
  group : Nat
  rood : Nat
  cluster : Nat
  side : Nat
  values : List Nat
deriving DecidableEq, Repr

/-- The bytes of a frame in its slot (R456). -/
def Frame.bytes (f : Frame) (n clock ptp : Nat) (dropped : Bool) : List Byte :=
  let body := toBytes 8 n ++ toBytes 8 clock ++ toBytes 8 ptp ++
    toBytes 4 (f.group + 256 * f.rood + 65536 * f.cluster + 2 ^ 23 * f.side) ++
    toBytes 4 (f.values.length + 65536 * boolNat dropped) ++ f.values.flatMap (toBytes 8)
  body ++ List.replicate (256 - body.length) 0

/-- Group 0: the 16 counters of every cluster of the virtual device (R324). -/
def counterFrames (s : State) (v : VDev) : List Frame :=
  match s.contexts.find? fun c => decide (c.vd = v.num) with
  | none => []
  | some c =>
    (VdShape.roods v.shape).flatMap fun n => (List.range 8).map fun i =>
      ⟨0, n, 8 * n + i, VdShape.sideNum v.shape,
        (List.range 16).map fun j => (counterValue s c.id (8 * n + i) (VdShape.sideNum v.shape) j).toNat⟩

/-- Group 1: allowance, grains spent, debt and throttled cycles of the span in force. -/
def powerFrame (v : VDev) : Frame :=
  ⟨1, 0xFF, 0, 0, [(v.allowance % 2 ^ 64).toNat, v.spent, v.debt, v.throttled]⟩

/-- Group 2: each energy account charged since the tick before. -/
def accountFrames (s : State) (v : VDev) (since : Nat) : List Frame :=
  match (s.contexts.find? fun c => decide (c.vd = v.num)).bind fun c => findTenant s c.charter with
  | none => []
  | some t =>
    (sortByKey Account.num (t.accounts.filter fun a => decide (since ≤ a.touched))).map fun a =>
      ⟨2, 0xFF, 0, 0, [a.num, a.dyn, a.stat, (a.dyn + a.stat) % 2 ^ 64]⟩

/-- Group 3: the 16 counts of every rood. -/
def countFrames (s : State) : List Frame :=
  (List.range 16).map fun n => ⟨3, n, 0, 0, (List.range 16).map (countOf s.nv.counts n)⟩

/-- The last reading of a monitor; before the first one its values are open. -/
def monitorOf (s : State) (isStack : Bool) (n : Nat) : List Nat :=
  match s.monitors.find? fun m => decide (m.isStack = isStack) && decide (m.n = n) with
  | some m => [m.temp, m.supply, m.process]
  | none => (List.range 3).map fun i => (Config.freeWord (s.freeCount + i)).toNat

/-- Group 4: one frame for each rood and each stack; how a stack's frame names its stack is open, but the frames stand in increasing
cluster (R457). -/
def monitorFrames (s : State) : List Frame :=
  (List.range 16).map (fun n => ⟨4, n, 0, 0, monitorOf s false n⟩) ++
    sortByKey Frame.cluster ((List.range 8).map fun n => ⟨4, 0xFF, Config.choose (s.freeCount + n) 128 % 128, 0, monitorOf s true n⟩)

/-- The frames of a stream for a tick, in the order of R457. -/
def framesOf (s : State) (x : Stream) (n : Nat) : List Frame :=
  match findVd s x.vd with
  | none => []
  | some v =>
    let on := fun (g : Nat) (fs : List Frame) => if flag x.mask g then fs else []
    on 0 (counterFrames s v) ++ on 1 [powerFrame v] ++ on 2 (accountFrames s v (n - 2 ^ (x.k - 10))) ++
      on 3 (countFrames s) ++ on 4 (monitorFrames s)

/-- Change a stream. -/
def updStream (s : State) (handle : Nat) (f : Stream → Stream) : State :=
  { s with streams := s.streams.map fun x => if x.handle = handle then f x else x }

/-- Write one frame of a stream, or drop and count it (R457). -/
def putStream (n clock ptp handle : Nat) (s : State) (f : Frame) : State :=
  match s.streams.find? fun x => decide (x.handle = handle) with
  | none => s
  | some x =>
    let r := ringPut s x.base x.index x.rlog x.prod x.drops (f.bytes n clock ptp x.dropped)
    updStream r.1 handle fun x => { x with prod := r.2.1, drops := r.2.2.1, dropped := !r.2.2.2 }

/-- Latch a base tick (R454, R457). -/
def latch (s : State) (n clock : Nat) : State :=
  let ptp := if s.ptp.everLocked then s.ptp.time else 0
  let s1 := { s with tick := n, tickAt := clock }
  let due := s1.streams.filter fun x => decide (n % 2 ^ (x.k - 10) = 0)
  bumpFree (foldList (fun s x => foldList (putStream n clock ptp x.handle) s (framesOf s1 x n)) s1 due)

/-- This device sends the ticks: it belongs to no domain, or no powered device of it has a lower number (R453). -/
def tickMaster (s : State) : Bool :=
  decide (s.boot.domid = 0) || s.boot.routes.all fun r => decide (s.boot.devnum < r.dev)

/-- BASE_TICK (R453): every 1,024 cycles, and sent over the fabric. -/
def execBaseTick (s : State) : Host.Outcome State Fault Refusal :=
  if tickMaster s ∧ s.tickAt + 1024 ≤ s.clock then
    .next (emit (latch s (s.tick + 1) (s.tickAt + 1024)) (.tick (s.tick + 1)))
  else .next s

/-- TICK_RECEIVE (R453): a tick of the master in force; a device that is to be master itself goes on from it. -/
def execTickReceive (n : Nat) (s : State) : Host.Outcome State Fault Refusal :=
  if s.boot.domid = 0 ∨ n ≤ s.tick then .next s else .next (latch s n s.clock)

/-! ### Trace and sampling (R459, R461) -/

/-- TRACE_SET (R452, R459): a mask of 0 stops tracing. -/
def execTraceSet (h : CmdHead) (o : TraceOps) (s : State) : Host.Outcome State Fault Refusal :=
  telemetryCtx h (fun s =>
    if !(decide (4 ≤ o.rlog) && decide (o.rlog ≤ 15)) || !maskWithin o.kinds [1, 2, 3, 4, 5, 6, 7, 8, 9] ||
        decide (2 ^ 128 ≤ o.clusters) || decide (o.off % 4096 ≠ 0) || decide (o.index % 128 ≠ 0) then respond s h cmdInvalid 0
    else
      match grantArea s h o.handle o.off (32 * 2 ^ o.rlog), grantArea s h o.handle o.index 128 with
      | some base, some index =>
        let tr : Trace := ⟨base, o.rlog, BitVec.ofNat 10 o.kinds, index, BitVec.ofNat 128 o.clusters, 0, 0⟩
        okay (updCtx s h.ctx fun c =>
          if o.kinds = 0 then { c with trace := none, sample := none } else { c with trace := some tr }) h
      | _, _ => respond s h cmdInvalid 0) s

/-- SAMPLE_SET (R452, R461). -/
def execSampleSet (h : CmdHead) (n : Nat) (s : State) : Host.Outcome State Fault Refusal :=
  telemetryCtx h (fun s =>
    let ring := match findCtx s h.ctx with | some c => c.trace.isSome | none => false
    if n = 0 then okay (updCtx s h.ctx fun c => { c with sample := none }) h
    else if n < 10 ∨ 20 < n ∨ ring = false then respond s h cmdInvalid 0
    else okay (updCtx s h.ctx fun c => { c with sample := some n, sampleAt := s.clock / 2 ^ n }) h) s

/-- SAMPLE_TICK (R461): the cores of the selected clusters; the kind mask does not filter. -/
def execSampleTick (ctx : Nat) (s : State) : Host.Outcome State Fault Refusal :=
  .next (if samplesDue s ctx = 0 then s else takeSample s ctx)

/-! ### Recording and replay (R463 to R466) -/

/-- A queue a context has bound. -/
def boundQueue (s : State) (ctx q : Nat) : Bool :=
  match findQueue s ctx q with
  | some x => x.bound
  | none => false

/-- RECORD (R452, R463): the next launch the queue accepts. -/
def execRecord (h : CmdHead) (handle off len q : Nat) (s : State) : Host.Outcome State Fault Refusal :=
  telemetryCtx h (fun s =>
    if off % 4096 ≠ 0 ∨ len % 4096 ≠ 0 ∨ len < 16384 ∨ boundQueue s h.ctx q = false then respond s h cmdInvalid 0
    else
      match grantArea s h handle off len with
      | none => respond s h cmdInvalid 0
      | some a =>
        let r : Recording := ⟨s.nextId, h, h.ctx, q, a, len / 4096, 3, none, true, []⟩
        respond (bumpId { s with recording := s.recording ++ [r] }) h cmdDeferred 0) s

/-- What REPLAY asks of a log (R464, R465). -/
def logUsable (s : State) (h : CmdHead) (base : Nat) : Bool :=
  let m := readNat s.mem (base + 0x10) 8
  decide (readNat s.mem base 4 = 0x444A524C) && flag (readNat s.mem (base + 4) 4) 0 &&
    (match findModule s m with | some x => x.loaded && decide (x.charter = h.charter) | none => false) &&
    decide (readNat s.mem (base + 0x18) 4 = usableClusters s h.ctx)

/-- REPLAY (R452, R465): the log's launch is the queue's next. -/
def execReplay (h : CmdHead) (handle off q : Nat) (s : State) : Host.Outcome State Fault Refusal :=
  telemetryCtx h (fun s =>
    match grantArea s h handle off 12288 with
    | none => respond s h cmdInvalid 0
    | some a =>
      if off % 4096 ≠ 0 ∨ boundQueue s h.ctx q = false ∨ logUsable s h a = false then respond s h cmdInvalid 0
      else
        let r : Replaying := ⟨s.nextId, h, h.ctx, q, a, none, [], [], s.clock⟩
        respond (bumpId { s with replaying := s.replaying ++ [r] }) h cmdDeferred 0) s

/-- A thread of a workgroup has exited. -/
def threadGone (s : State) (launch wgid tid : Nat) : Bool :=
  match s.wgs.find? fun g => decide (g.launch = launch) && decide (g.wgid = wgid) with
  | some g => decide (g.phase = .ended) || g.exited.contains tid
  | none => false

/-- A safe-point ordinal of a launch's module. -/
def ordinalExists (s : State) (launch ord : Nat) : Bool :=
  match imageOf s launch with
  | some img => decide (ord < img.stops.length)
  | none => false

/-- An entry that can never become due, and its ordinal: its thread has exited, or its ordinal names nothing. -/
def deadEntry (s : State) (r : Replaying) (launch ordinal : Nat) : Bool :=
  ((replayIdents s r true).any fun n =>
    match replayEntry s r true n (replayNext r true n) with
    | some x => threadGone s launch (field x 31 0) (field x 43 32)
    | none => false) ||
  ((replayIdents s r false).any fun n =>
    match nextStart s r n with
    | some (_, x) => decide (entryKind x ≠ 0) && decide (entryOrd x = ordinal) &&
        (threadGone s launch (entryWg x) (entryTid x) || !ordinalExists s launch ordinal)
    | none => false)

/-- REPLAY_DIVERGENCE (R466): reason 2, an entry that can never become due; reason 3, a due entry that has waited 2^24 cycles with
nothing of the launch running. Reason 1 comes with the error itself. -/
def execReplayDivergence (ctx : Nat) (reason ordinal : Nat) (s : State) : Host.Outcome State Fault Refusal :=
  match s.replaying.find? fun r => decide (r.ctx = ctx) && r.launch.isSome with
  | none => .next s
  | some r =>
    let launch := r.launch.getD 0
    if (reason = 2 ∧ deadEntry s r launch ordinal) ∨ (reason = 3 ∧ entriesLeft s r ∧ r.idleSince + 2 ^ 24 ≤ s.clock) then
      .next (diverge s r reason (ordinal % 2 ^ 32))
    else .next s

/-! ### Reading tables (R443, R451, R452, R458) -/

/-- The area a guest or the hypervisor names for n bytes. -/
def targetArea (s : State) (h : CmdHead) (target off n : Nat) : Option Nat :=
  match h.issuer with
  | .guest _ => grantArea s h target off n
  | .hypervisor => if 2 ^ 39 ≤ target ∧ off = 0 then some target else none

/-- The 512 bytes of the coefficient table. -/
def coeffBytes : List Byte :=
  (List.range 64).flatMap fun i =>
    if i < min Config.eventClasses 64 then
      toBytes 4 (Config.coefficient i) ++ toBytes 2 (Config.eventClass i) ++ toBytes 2 0
    else List.replicate 8 0

/-- COEFF_READ. -/
def execCoeffRead (h : CmdHead) (target off : Nat) (s : State) : Host.Outcome State Fault Refusal :=
  telemetry .either h (fun s =>
    match targetArea s h target off 512 with
    | some a => okay (physWrite s a coeffBytes) h
    | none => respond s h cmdInvalid 0) s

/-- The 17 count blocks: the roods', then the firmware complex's. -/
def countBlocks (s : State) : List Byte :=
  (List.range 17).flatMap fun b => (List.range 16).flatMap fun i => toBytes 4 (countOf s.nv.counts b i)

/-- COUNT_READ. -/
def execCountRead (h : CmdHead) (target : Nat) (s : State) : Host.Outcome State Fault Refusal :=
  telemetry .hypervisor h (fun s =>
    match targetArea s h target 0 1088 with
    | some a => okay (physWrite s a (countBlocks s)) h
    | none => respond s h cmdInvalid 0) s

/-- ACCOUNT_READ: an account that nothing has been charged to holds zero. -/
def execAccountRead (h : CmdHead) (handle off account : Nat) (s : State) : Host.Outcome State Fault Refusal :=
  telemetry .guest h (fun s =>
    match grantArea s h handle off 32, findTenant s h.charter, decide (account < 2 ^ 32) with
    | some a, some t, true =>
      let x := match t.accounts.find? fun y => decide (y.num = account) with
        | some y => (y.dyn, y.stat)
        | none => (0, 0)
      okay (physWrite s a
        (toBytes 8 account ++ toBytes 8 x.1 ++ toBytes 8 x.2 ++ toBytes 8 ((x.1 + x.2) % 2 ^ 64))) h
    | _, _, _ => respond s h cmdInvalid 0) s

end Sys2Proof.Machine
end

