-- ==== Sys2Proof/Machine/Errors.lean ====
section
/-! DEFINITION. Errors as they are met, patrol scrub, links, monitors and trips, and retirement with the guarantees after
it (R350, R439 to R450, R477). -/
namespace Sys2Proof.Machine

/-! ### Where an error lies -/

/-- An error in a structure of a home cluster, or on the way of a message to a physical address (R443 to R445). -/
def placeAt (s : State) (cluster ctx pa place : Nat) (st : Structure) : ErrPlace :=
  match st with
  | .l2 =>
    let sl := homeSlice s (firstRood s ctx) pa
    ⟨st, sl / 4, sl % 4, pa, some (.slice sl), place⟩
  | .hbm => unitPlace s ctx (pa / 32)
  | .mesh => ⟨st, roodOf cluster, cluster % 8, 0, none, place⟩
  | .fabric => ⟨st, Config.choose s.freeCount 17 % 17, 0, 0, none, place⟩
  | _ => ⟨st, roodOf cluster, cluster % 8, 0, some (.cluster cluster), place⟩

/-! ### UNCORRECTABLE_ERROR (R350) -/

/-- A register reads as zero. -/
def errRegister (s : State) (k : SeatKey) (v : BitVec 6) : State :=
  match findSeat s k with
  | some t =>
    threadError (setThread s (setV t v 0)) t.wg t.tid
      (placeAt s k.cluster 0 0 ((k.core * 512 + k.seat) * 64 + v.toNat) .registers)
  | none => s

/-- The predicates, a subgroup descriptor, or the register that has just taken the gang status word read as zero (R439). -/
def errPredicates (s : State) (k : SeatKey) : State :=
  match findSeat s k with
  | some t =>
    threadError (setThread s { t with p := 0 }) t.wg t.tid
      (placeAt s k.cluster 0 0 (2 ^ 33 + (k.core * 512 + k.seat) * 16) .registers)
  | none => s

def errDescriptor (s : State) (k : SeatKey) (i : Fin 8) : State :=
  match findSeat s k with
  | some t =>
    threadError (setThread s { t with g := t.g.set i ⟨0, 0⟩ }) t.wg t.tid
      (placeAt s k.cluster 0 0 (2 ^ 33 + (k.core * 512 + k.seat) * 16 + 1 + i.val) .registers)
  | none => s

def errGangStatus (s : State) (k : SeatKey) (v : BitVec 6) : State :=
  match findSeat s k with
  | some t =>
    threadError (setThread s (setV t v 0)) t.wg t.tid
      (placeAt s k.cluster 0 0 (2 ^ 34 + 16 * k.core + match t.slot? with | some x => x.slot | none => 0) .registers)
  | none => s

/-- A word of a record in the buffer reads as zero when it is resumed: a saved register, or the predicates (R439). -/
def errRecord (s : State) (id word : Nat) : State :=
  match s.records.find? fun r => decide (r.id = id) && r.inBuffer with
  | some r =>
    let zero := fun (t : Thread) => if word < 64 then setV t (BitVec.ofNat 6 word) 0 else { t with p := 0 }
    let s1 := { s with records := s.records.map fun x => if x.id = id then { x with th := zero x.th } else x }
    threadError s1 r.th.wg r.th.tid (placeAt s r.th.seat.cluster 0 0 (2 ^ 35 + 128 * r.th.tid + word) .sram)
  | none => s

/-- A word of scratch reads as zero. -/
def errScratch (s : State) (k : SeatKey) (off : Nat) : State :=
  match findSeat s k with
  | some t =>
    threadError (scratchWrite s t.wg (off / 4 * 4) [0, 0, 0, 0]) t.wg t.tid (placeAt s k.cluster 0 0 (off / 8) .sram)
  | none => s

/-- A word of the entry at a ring's head reads as zero. -/
def errRing (s : State) (k : SeatKey) (ring word : Nat) : State :=
  match findSeat s k with
  | some t =>
    let zero := fun (r : Ring) => if r.num = ring then
        { r with entries := r.entries.map fun e => if e.index = r.head ∧ e.phase = r.hph then
          { e with words := listSet e.words word 0 } else e }
      else r
    threadError (updWg s t.wg fun g => { g with rings := g.rings.map zero }) t.wg t.tid
      (placeAt s k.cluster 0 0 (2 ^ 32 + ring * 65536 + word) .sram)
  | none => s

/-- The bytes of the n-th word that a load of z bytes at an address reads. -/
def loadWordBytes (va z word : Nat) : List Nat :=
  (List.range z).filterMap fun i => if (va + i) / 4 = va / 4 + word then some (va + i) else none

/-- A pending result with one of its words zero; nothing for a result that has no such word yet. -/
def zeroPending (s : State) (p : PendSrc) (word : Nat) : State × PendSrc × Nat :=
  match p with
  | .value ws => (s, .value ((List.range ws.length).filterMap fun (i : Nat) =>
      (ws[i]?).map fun x => if i = word then (x.1, 0) else x), 0)
  | .load req k va got dst =>
    (s, .load req k va ((loadWordBytes va k.size word).foldl (fun p a => patchSet p a 0) got) dst,
      match findReq s req with | some r => r.pa | none => 0)
  | .atom req x2 dst =>
    (updReq s req fun r => match r.stage with
      | .reply bs h ok => { r with stage := .reply (bs.map fun _ => 0) h ok }
      | _ => r, .atom req x2 dst, match findReq s req with | some r => r.pa | none => 0)
  | .tileStat _ _ dst => (s, .value [(dst, 0)], 0)
  | .tileQuery _ dst => (s, .value [(dst, 0)], 0)

/-- A word of a pending result reads as zero. -/
def errPending (s : State) (k : SeatKey) (i word : Nat) (st : Structure) : State :=
  match findSeat s k with
  | some t =>
    match t.pend[i]? with
    | some p =>
      let z := zeroPending s p word
      let s1 := updThread z.1 t.wg t.tid fun t => { t with pend := listSet t.pend i z.2.1 }
      threadError s1 t.wg t.tid (placeAt s k.cluster (ctxOfWg s t.wg) z.2.2 (z.2.2 / 8 + word) st)
    | none => s
  | none => s

/-- A granule of a copy job is not written at its destination. -/
def errGranule (s : State) (cmd granule : Nat) (st : Structure) (place : Nat) : State :=
  match findCmd s cmd, (findCmd s cmd).bind fun c => findWg s c.wg with
  | some _, some g =>
    uncorrectable (updCmd s cmd fun c => { c with bad := granule :: c.bad }) (some g.launch)
      (placeAt s g.home.cluster g.ctx 0 place st) 0xFFFFFFFF
  | _, _ => s

/-- A matrix command leaves the tile and counters unchanged; the leader's next record carries DERR (R229). -/
def errMatrix (s : State) (cmd : Nat) (st : Structure) (place : Nat) : State :=
  match findCmd s cmd, (findCmd s cmd).bind fun c => findWg s c.wg with
  | some c, some g =>
    uncorrectable (markData (updCmd s cmd fun c => { c with bad := [0] }) c.wg c.issuer false) (some g.launch)
      (placeAt s g.home.cluster g.ctx 0 place st) (lastOrdinal s c.wg c.issuer)
  | _, _ => s

/-- The reconstruction unit writes the point as +0, or as the zero block. -/
def errRecon (s : State) (wg x y : Nat) (st : Structure) (place : Nat) : State :=
  match findWg s wg, (findWg s wg).bind fun g => findLaunch s g.launch with
  | some g, some l =>
    if reconOpen l g x y && reconReady l g (tileOf l g.wgid) x y then
      uncorrectable (reconWrite s l g x y true) (some l.id)
        (placeAt s g.home.cluster g.ctx 0 place st) 0xFFFFFFFF
    else s
  | _, _ => s

/-- A dirty sector is dropped: the home slice keeps the older bytes. -/
def dropSector (l : L1Line) (sector : Nat) : L1Line :=
  { l with
    valid := l.valid &&& ~~~(1#8 <<< sector)
    mask := l.mask &&& ~~~(0xFFFF#128 <<< (16 * sector))
    data := clearRange l.data (16 * sector) 16 }

/-- An error in a dirty sector that is to be written back. -/
def errSector (s : State) (h : Home) (asid addr : Nat) : State :=
  let hit := fun (l : L1Line) => decide (l.home = h) && decide (l.asid = asid) && decide (l.vline = addr / 128) &&
    decide (l.mask &&& (0xFFFF#128 <<< (16 * (addr % 128 / 16))) ≠ 0)
  if s.l1.any hit then
    let s1 := { s with l1 := s.l1.map fun l => if hit l then dropSector l (addr % 128 / 16) else l }
    uncorrectable s1 ((s.wgs.find? fun g => decide (g.home = h) && !decide (g.phase = .ended)).map Workgroup.launch)
      (placeAt s h.cluster 0 0 (2 ^ 36 + addr / 8) .sram) 0xFFFFFFFF
  else s

/-- A bad unit of a dirty slice line goes to memory poisoned (R441). -/
def errDirtyLine (s : State) (slice unit : Nat) : State :=
  if s.l2.any fun x => decide (x.slice = slice) && decide (x.line = unit / 4) && x.dirty.extractLsb' (2 * (unit % 4)) 2 != 0 then
    uncorrectable (poisonUnit s unit) none ⟨.l2, slice / 4, slice % 4, 32 * unit, some (.slice slice), unit⟩ 0
  else s

/-- A tag parity error: the line is invalid; a dirty one counts as an error on its data (R439). -/
def errTag (s : State) (slice line : Nat) : State :=
  match s.l2.find? fun x => decide (x.slice = slice) && decide (x.line = line) with
  | none => s
  | some x =>
    let p : ErrPlace := ⟨.l2, slice / 4, slice % 4, 128 * line, some (.slice slice), line⟩
    let s1 := remember { s with l2 := s.l2.filter fun y => !decide (y = x) } p false true 1
    let lost := (List.range 4).filter fun i => x.dirty.extractLsb' (2 * i) 2 != 0
    if x.dirty ≠ 0 then uncorrectable (foldList poisonUnit s1 (lost.map (4 * line + ·))) none p 0 else s1

/-- UNCORRECTABLE_ERROR (R350, R439, R441). -/
def execUncorrectableError (site : ErrSite) (s : State) : Host.Outcome State Fault Refusal :=
  match site with
  | .register k v => .next (errRegister s k v)
  | .scratchWord k off => .next (errScratch s k off)
  | .ringWord k ring word => .next (errRing s k ring word)
  | .pending k i word st => .next (errPending s k i word st)
  | .predicates k => .next (errPredicates s k)
  | .descriptor k i => .next (errDescriptor s k i)
  | .gangStatus k v => .next (errGangStatus s k v)
  | .recordWord id word => .next (errRecord s id word)
  | .copyGranule cmd granule st place => .next (errGranule s cmd granule st place)
  | .matrix cmd st place => .next (errMatrix s cmd st place)
  | .recon wg x y st place => .next (errRecon s wg x y st place)
  | .dirtySector cluster side asid addr => .next (errSector s ⟨cluster, side⟩ asid addr)
  | .dirtyLine slice unit => .next (errDirtyLine s slice unit)
  | .lineTag slice line => .next (errTag s slice line)

/-! ### Corrected errors and patrol scrub (R439) -/

/-- The unit that a structure of a rood belongs to (R445). -/
def unitOf (st : Structure) (rood sub : Nat) : Option RetireUnit :=
  match st with
  | .l2 => some (.slice (4 * rood + sub))
  | .hbm => some (.channel rood sub)
  | .mesh => none
  | .fabric => none
  | _ => some (.cluster (8 * rood + sub))

/-- A rood has 8 clusters, 4 slices and 16 channels; the firmware complex and the links have no unit by number (R2, R4). -/
def subExists (st : Structure) (rood sub : Nat) : Bool :=
  match st with
  | .l2 => decide (rood = 16) || decide (sub < 4)
  | .hbm => decide (rood = 16) || decide (sub < 16)
  | .mesh => true
  | .fabric => true
  | _ => decide (rood = 16) || decide (sub < 8)

/-- Corrected errors are counted, and have no other effect; those that pass a limit of R445 make an entry of the error log
(R444). -/
def corrected (s : State) (rood sub n : Nat) (st : Structure) : State :=
  if 16 < rood ∨ n = 0 ∨ subExists st rood sub = false then s
  else
    let s1 := countError s rood (structCode st) n
    if rood = 16 then s1
    else
      let u := unitOf st rood sub
      let s2 := remember s1 ⟨st, rood, sub, 0, u, 0⟩ false false n
      if retires s2 u && !retires s u then logError s2 (structCode st) false true rood sub 0 else s2

/-- CORRECTABLE_ERROR (R439). -/
def execCorrectableError (rood : Nat) (st : Structure) (sub : Nat) (s : State) : Host.Outcome State Fault Refusal :=
  .next (corrected s rood sub 1 st)

/-- PATROL_SCRUB (R439, R441): corrected data is rewritten in place; poison is not cleared. -/
def execPatrolScrub (rood : Nat) (st : Structure) (sub n : Nat) (s : State) : Host.Outcome State Fault Refusal :=
  .next (corrected s rood sub n st)

/-! ### Links (R440) -/

/-- The count block of a link: its tile's rood (R5); the spec does not say which block a fabric port counts in. -/
def linkBlock (s : State) (k : Link) : Nat :=
  if k.mesh < 3 then
    ((List.range 16).find? fun n =>
      decide (k.x / 12 = n / 8) && decide (k.x % 12 / 3 = roodCol n) && decide (k.y / 4 = roodRow n)).getD 16
  else Config.choose s.freeCount 17 % 17

/-- Corrected count of a link's retries: mesh and bridge, or fabric (R443). -/
def linkStruct (k : Link) : Structure := if k.mesh < 3 then .mesh else .fabric

/-- The operand of an operation is lost: it reads as zero. -/
def zeroOperand : ReqKind → ReqKind
  | .atom x op w64 bs ret => .atom x op w64 (bs.map fun _ => 0) ret
  | .bar fn _ out => .bar fn 0 out
  | .post m bs => .post m (bs.map fun _ => 0)
  | .window m st n => .window m (st.map fun bs => bs.map fun _ => 0) n
  | .far op => .far (match op with
      | .load n => .load n
      | .store bs => .store (bs.map fun _ => 0)
      | .atom x o w bs => .atom x o w (bs.map fun _ => 0))
  | k => k

/-- A message arrives with a poisoned flit: an error for its reader; a write-back poisons the units it writes. -/
def poisonMsg (s : State) (k : Link) (id : Nat) : State :=
  match findReq s id with
  | none => s
  | some r =>
    let p : ErrPlace := ⟨linkStruct k, linkBlock s k, 0, 0, none, 0⟩
    match r.kind, r.stage with
    | .write _, _ => uncorrectable (updReq s id fun r => { r with bad := true }) (launchOfWg s r.wg) p 0xFFFFFFFF
    | .far _, .reply bs h ok =>
      uncorrectable (updReq s id fun r => { r with bad := true, stage := .reply (bs.map fun _ => 0) h ok }) (launchOfWg s r.wg) p
        (lastOrdinal s r.wg r.tid)
    | _, .reply bs h ok =>
      threadError (updReq s id fun r => { r with install := false, stage := .reply (bs.map fun _ => 0) h ok }) r.wg r.tid p
    | kind, _ => threadError (updReq s id fun r => { r with kind := zeroOperand kind }) r.wg r.tid p

/-- The flit of a message, or of traffic the model holds no message for, can be on a link (R2, R10). -/
def flitOn (s : State) (link : Link) (msg : Option Nat) : Bool :=
  linkExists link &&
    match msg with
    | some id => match findReq s id with | some r => (linksOf s r).contains link | none => false
    | none => true

/-- FLIT_CRC_FAILURE (R440): after the fourth failure the flit is delivered poisoned and the link retrains. -/
def execFlitCrcFailure (link : Link) (msg : Option Nat) (s : State) : Host.Outcome State Fault Refusal :=
  let old := s.links.find? fun x => decide (x.link = link)
  let fails := match old with
    | some x => if x.msg = msg then x.retries + 1 else 1
    | none => 1
  if (match old with | some x => x.retraining | none => false) || !flitOn s link msg then .next s
  else
    let bad := decide (4 ≤ fails)
    let entry : LinkState := ⟨link, msg, if bad then 0 else fails, bad⟩
    let s1 := { s with links := entry :: s.links.filter fun x => !decide (x.link = link) }
    if bad then
      .next (bumpFree (match msg with
        | some id => poisonMsg s1 link id
        | none => uncorrectable s1 none ⟨linkStruct link, linkBlock s link, 0, 0, none, 0⟩ 0))
    else .next (bumpFree (countError s1 (linkBlock s link) (structCode (linkStruct link)) 1))

/-- A far access that waited for its port goes out, if the port no longer retrains (R440). -/
def sendWaiting (s : State) (r : Req) : State :=
  match r.kind, r.stage with
  | .far op, .atPort =>
    if pathHeld s (fabricLinks s r.loc) then s
    else emit (updReq s r.id fun r => { r with stage := .toHome }) (.far r.loc r.id r.va op)
  | _, _ => s

/-- LINK_RETRAIN_COMPLETE (R440): the far accesses that waited for the link go out in their order. -/
def execLinkRetrainComplete (link : Link) (s : State) : Host.Outcome State Fault Refusal :=
  .next (foldList sendWaiting { s with links := s.links.filter fun x => !decide (x.link = link) } s.reqs)

/-! ### COUNT_COMMIT (R443) -/

/-- COUNT_COMMIT. -/
def execCountCommit (s : State) : Host.Outcome State Fault Refusal := .next (commitCounts s)

/-! ### Monitors and trips (R450, R477) -/

/-- What a module reset or a trip leaves: no context, queue, image or cached translation; the store, the host's own memory
and what the outside has been sent stay; entries of the error log whose windows are open go to the host log (R11, R450,
R470, log 106). -/
def wiped (s : State) : State :=
  { State.reset with
    mem := s.mem.filter fun c => decide (2 ^ 39 ≤ c.1)
    nv := s.nv
    boot := s.boot
    out := (s.errlog.map fun e => .log (.error e.bytes)).reverse ++ s.out
    agenda := s.agenda
    freeCount := s.freeCount
    nextId := s.nextId }

/-- A trip: the module stops at once; the event is committed, and the host sees it after the next reset. -/
def trip (s : State) (block : Nat) : State :=
  let s1 := commitCounts (countError s block 15 1)
  let s2 := wiped s1
  { s2 with
    clock := s.clock, errlog := s.errlog, out := s.out
    nv := { s2.nv with trip := true }, boot := { s2.boot with stage := 0 } }

/-- Warn, throttle and trip of a reading: temperatures in 1/16 °C, supplies in µV, times in cycles. -/
def warns (r : MonitorReading) : Bool :=
  if r.isStack then decide (85 * 16 ≤ r.temp) else decide (95 * 16 ≤ r.temp) || decide (r.supply < 712500)

def throttles (r : MonitorReading) : Bool :=
  if r.isStack then decide (95 * 16 ≤ r.temp)
  else decide (105 * 16 ≤ r.temp) || (decide (r.supply < 690000) && decide (64 ≤ r.lowCycles))

def trips (r : MonitorReading) : Bool :=
  if r.isStack then decide (105 * 16 ≤ r.temp)
  else decide (115 * 16 ≤ r.temp) || (decide (r.supply < 675000) && decide (1750 ≤ r.lowCycles))

/-- The count block of a monitor: the rood, or one of the two that a stack serves (R8), which is open. -/
def monitorBlock (s : State) (r : MonitorReading) : Nat :=
  if r.isStack then 2 * r.n + Config.choose s.freeCount 2 % 2 else r.n

/-- MONITOR_READ (R450). -/
def execMonitorRead (r : MonitorReading) (s : State) : Host.Outcome State Fault Refusal :=
  let m : Monitor := ⟨r.isStack, r.n, r.temp, r.supply, r.process, throttles r, r.isStack && warns r⟩
  let s1 := { s with monitors := s.monitors.filter (fun x => !(decide (x.isStack = r.isStack) && decide (x.n = r.n))) ++ [m] }
  if (if r.isStack then memStacks else 16) ≤ r.n then .next s
  else if trips r then .next (trip (bumpFree s1) (monitorBlock s r))
  else if warns r then
    .next (bumpFree (emit (countError s1 (monitorBlock s r) 15 1) (.log (.warn r.isStack r.n r.temp r.supply))))
  else .next s1

/-- INPUT_UNDERVOLTAGE (R477): below 46 V for 1 ms. -/
def execInputUndervoltage (millivolts microseconds : Nat) (s : State) : Host.Outcome State Fault Refusal :=
  if millivolts < 46000 ∧ 1000 ≤ microseconds then .next (trip (bumpFree s) (Config.choose s.freeCount 17 % 17)) else .next s

/-! ### Retirement (R445 to R449) -/

/-- An address that moves with its run of frames. -/
def movedPa (f n dst pa : Nat) : Nat :=
  if f ≤ pa / 65536 ∧ pa / 65536 < f + n then pa - 65536 * f + 65536 * dst else pa

/-- A grant moves to another run of frames: its bytes, and every physical address the device keeps (R310, R447). -/
def moveGrant (s : State) (g : Grant) (dst : Nat) : State :=
  let n := 2 ^ g.k
  let at_ := movedPa g.frame n dst
  let s1 := copyPhys s (65536 * g.frame) (65536 * dst) (65536 * n)
  { s1 with
    grants := s1.grants.map fun x => if x.handle = g.handle then { x with frame := dst } else x
    pages := s1.pages.map fun p => { p with pa := at_ p.pa }
    lists := s1.lists.map fun l => { l with pa := at_ l.pa }
    streams := s1.streams.map fun x => { x with base := at_ x.base, index := at_ x.index }
    contexts := s1.contexts.map fun c => { c with
      prBase := at_ c.prBase
      trace := c.trace.map fun t => { t with base := at_ t.base, index := at_ t.index }
      dump := c.dump.map fun d => (d.1, at_ d.2.1, d.2.2) }
    recording := s1.recording.map fun r => { r with base := at_ r.base }
    replaying := s1.replaying.map fun r => { r with base := at_ r.base }
    reqs := s1.reqs.map fun r => { r with pa := at_ r.pa }
    l1 := s1.l1.map fun l => { l with pline := at_ (128 * l.pline) / 128 }
    l2 := s1.l2.filter fun l => !(decide (g.frame ≤ l.line / 512) && decide (l.line / 512 < g.frame + n))
    tlb := s1.tlb.filter fun e => !(decide (65536 * g.frame < e.pbase + 2 ^ e.bits) && decide (e.pbase < 65536 * (g.frame + n))) }

/-- A grant with frames in the withdrawn top moves into free frames of its group, or is revoked (R447). The contexts whose
grants were revoked. -/
def withdraw (rood : Nat) (x : State × List Nat) (g : Grant) : State × List Nat :=
  match pickRun x.1 rood g.k with
  | some f => (bumpFree (moveGrant x.1 g f), x.2)
  | none =>
    (quarantineGrant x.1 g, g.ctx :: x.2)

/-- The grants with frames in the withdrawn top of a group. -/
def withdrawn (s : State) (rood : Nat) : List Grant :=
  s.grants.filter fun g => decide (g.frame / 2 ^ 19 = rood) &&
    decide (rood * 2 ^ 19 + groupBytes s rood / 65536 < g.frame + 2 ^ g.k)

/-- The module budget (R448). -/
def budgetOf (us : List RetireUnit) : Nat :=
  22000 - sumNat (us.map fun u => match u with | .cluster _ => 120 | .slice _ => 20 | .channel _ _ => 14)

/-- The reduction of the guarantees (R448): losses in proportion to weight, rounded up. Where no device with a guarantee
has a weight the spec gives no loss: it is open. -/
def reduceG (free budget : Nat) : Nat → List VDev → List VDev
  | 0, vs => vs
  | fuel + 1, vs =>
    let x := sumNat (vs.map VDev.g) - budget
    if x = 0 then vs
    else
      let w := sumNat ((vs.filter fun v => decide (0 < v.g)).map VDev.w)
      let loss := fun (v : VDev) =>
        if w = 0 then Config.choose (free + v.num) (v.g + 1) % (v.g + 1) else min (ceilDiv (x * v.w) w) v.g
      reduceG free budget fuel (vs.map fun v => { v with g := v.g - loss v })

/-- The bandwidth floor of a virtual device in tenths of a GB/s: 102.4 for each remaining channel, half of it for a side
(R448). -/
def floorTenths (s : State) (v : VDev) : Nat :=
  let n := sumNat ((VdShape.roods v.shape).map fun r =>
    16 - (s.nv.retired.filter fun u => match u with | .channel g _ => decide (g = r) | _ => false).length)
  if VdShape.isSide v.shape then 512 * n else 1024 * n

/-- The floor in GB/s as a notice gives it; how it is rounded is open. -/
def floorField (s : State) (v : VDev) : Nat :=
  let t := floorTenths s v
  if t % 10 = 0 then t / 10 else t / 10 + Config.choose s.freeCount 2 % 2

/-- The entry of a breach notice in a host ring (R449). -/
def noticeEntry (s : State) (q : Queue) (g floor : Nat) : RingOut :=
  ⟨BitVec.allOnes 64, BitVec.ofNat 64 (g % 65536 + 2 ^ 32 * floor), s.ptp.time, 0, false, false, false, 0xFFFF, true, false, q.conf⟩

/-- It stands behind what waits already, but before an entry whose successor is still to be chosen (R385). -/
def addNotice (q : Queue) (e : RingOut) : Queue :=
  { q with waiting := if q.judging then q.waiting.dropLast ++ e :: q.waiting.drop (q.waiting.length - 1) else q.waiting ++ [e] }

/-- BREACH of a context's charter (R402). -/
def breachBit (s : State) (c : Context) : Bool :=
  match charterOf s c.charter with
  | some ch => ch.policy.getLsbD 11
  | none => false

/-- The breach notice of a virtual device, and what BREACH makes of its context (R449). -/
def breach (s : State) (vd : Nat) : State :=
  match findVd s vd with
  | none => s
  | some v =>
    let fl := floorField s v
    let s1 := bumpFree (emit s (.log (.breach vd v.g fl)))
    match ctxOfVd s1 vd with
    | none => s1
    | some c =>
      let s2 := { s1 with queues := s1.queues.map fun q =>
        if q.ctx = c.id ∧ q.bound then addNotice q (noticeEntry s1 q v.g fl) else q }
      if breachBit s2 c then
        let s3 := updVd s2 vd fun v => { v with g := 0, w := 0 }
        match c.stop with
        | .none => stopCtx .retire s3 c.id
        | .stopping _ k => updCtx s3 c.id fun c => { c with stop := .stopping .retire k }
        | .stopped _ k => updCtx s3 c.id fun c => { c with stop := .stopped .retire k }
      else s2

/-- The units are out of the map: lines, frames, budget, guarantees and notices (R446 to R449). The errors that led to it are
in the log already, with the bit that a retirement follows (R444). -/
def retireUnits (s : State) (us : List RetireUnit) : State :=
  let s1 := commitCounts { s with nv := { s.nv with retired := s.nv.retired ++ us } }
  let s2 := { s1 with l2 := s1.l2.filter fun l => !us.contains (.slice l.slice) }
  let groups := dedup (us.filterMap fun u => match u with | .channel g _ => some g | _ => none)
  let x := groups.foldl (fun x g => (withdrawn x.1 g).foldl (withdraw g) x) (s2, [])
  let s3 := x.1
  let vs := reduceG s3.freeCount (budgetOf s3.nv.retired) (s3.vds.length + 1) s3.vds
  let s4 := bumpFree { s3 with power := { s3.power with budget := budgetOf s3.nv.retired }, vds := vs }
  let told := (s.vds.filter fun v =>
    (match findVd s4 v.num with | some v' => decide (v'.g < v.g) || decide (floorTenths s4 v' < floorTenths s v) | none => false) ||
      x.2.any fun c => match findCtx s4 c with | some y => decide (y.vd = v.num) | none => false).map VDev.num
  foldList breach s4 told

/-- A unit that exists. -/
def unitExists : RetireUnit → Bool
  | .cluster c => decide (c < 128)
  | .slice n => decide (n < 64)
  | .channel g c => decide (g < 16) && decide (c < 16)

/-- The units that one event retires: those that have passed their limits, and all others of a rood that loses its last cluster
or slice with them (R445). -/
def withRoods (s : State) (us : List RetireUnit) : List RetireUnit :=
  us ++ ((List.range 16).filter fun n => roodGone (s.nv.retired ++ us) n).flatMap fun n =>
    (roodUnits n).filter fun u => !us.contains u && !s.nv.retired.contains u

/-- No workgroup uses a unit any more, or each one that does stands still: at a cluster none is left, and none is on its way
there; of a slice or channel every user is stopped (R446). -/
def unitClear (s : State) (u : RetireUnit) : Bool :=
  let still := fun (g : Workgroup) => match u, g.phase, g.stop with
    | _, .ended, _ => true
    | _, .imaged, _ => true
    | _, .moving _, _ => false
    | .cluster _, _, _ => false
    | _, _, .stopped _ => true
    | _, _, _ => false
  (usersOf s u).all still &&
    match u with
    | .cluster n => s.wgs.all fun g => match g.phase with | .moving h => !decide (h.cluster = n) | _ => true
    | _ => true

/-- A workgroup of a retiring cluster whose context is stopped as a whole leaves it at once, moved or in an image (R446). -/
def leaveStopped (s : State) (id : Nat) : State :=
  match findWg s id, (findWg s id).bind fun g => findLaunch s g.launch, (findWg s id).bind fun g => vdOfCtx s g.ctx with
  | some g, some l, some v =>
    let ms := membersOf s l g
    if clusterLeaves s g.home.cluster && ms.all (fun m => match m.phase, m.stop with
        | .ended, _ => true
        | .imaged, _ => true
        | .moving _, _ => false
        | _, .stopped _ => true
        | _, _ => false) && (ms.any fun m => decide (m.phase = .running ∨ m.phase = .placed)) then vacate s v l ms
    else s
  | _, _, _ => s

/-- Work resumes: the workgroups that a retirement held go on, neighbourhoods as one, unless their context is stopped or
another retirement holds them (R446). -/
def resumeUsers (s : State) (u : RetireUnit) : State :=
  foldList (fun s id =>
    match findWg s id, (findWg s id).bind fun g => findLaunch s g.launch, (findWg s id).bind fun g => findCtx s g.ctx with
    | some g, some l, some c =>
      let ms := membersOf s l g
      if c.stop ≠ .none || ms.any (fun m => heldByRetirement s m || (match m.stop with | .stopping _ => true | _ => false)) then s
      else foldList endStop s ((ms.filter fun m => decide (m.phase = .running ∨ m.phase = .placed)).map Workgroup.id)
    | _, _, _ => s) s ((usersOf s u).map Workgroup.id)

/-- RETIREMENT (R445, R446): the units that have passed their limits, in one event. First the workgroups that use them stop, and
those at a retiring cluster leave it as their stops become complete; once they have, the step that follows retires the
units, and work resumes (log 104). -/
def execRetirement (us : List RetireUnit) (s : State) : Host.Outcome State Fault Refusal :=
  let all := withRoods s (dedup us)
  let rest := s.retiring.filter fun x => !all.contains x
  if us ≠ [] ∧ us.all fun u => unitExists u && !s.nv.retired.contains u && (limitPassed s u || s.retiring.contains u) then
    if all.all (unitClear s) then
      .next (foldList resumeUsers (retireUnits { s with retiring := rest } all) all)
    else
      .next (foldList (fun s u =>
        let why := match u with | .cluster _ => 1 | _ => 0
        foldList leaveStopped (foldList (stopMembers why) s ((usersOf s u).map Workgroup.id)) ((usersOf s u).map Workgroup.id))
        { s with retiring := all ++ rest } all)
  else .next s

end Sys2Proof.Machine
end

