-- ==== Sys2Proof/Machine/Firmware.lean ====
section
/-! DEFINITION. The firmware complex: module resets and boot, function-level reset, the domain word and routes, the IEEE
1588 servo, SPDM and TDISP (R46, R48, R397, R398, R468 to R476). -/
namespace Sys2Proof.Machine

/-! ### Reset and boot (R470, R471) -/

/-- A module reset: what the store does not hold is gone; counts not committed are lost (R443). -/
def moduleReset (s : State) : State :=
  let s1 := wiped s
  { s1 with
    nv := { s.nv with counts := s.nv.committed, trip := false, commitAt := 0 }
    power := { State.reset.power with budget := budgetOf s.nv.retired }
    boot := { State.reset.boot with
      trip := s.nv.trip
      devnum := s.boot.storedDevnum
      domid := s.boot.storedDomid
      storedDevnum := s.boot.storedDevnum
      storedDomid := s.boot.storedDomid } }

/-- COLD_RESET. -/
def execColdReset (s : State) : Host.Outcome State Fault Refusal := .next (moduleReset s)

/-- WARM_RESET: the domain word is kept. -/
def execWarmReset (s : State) : Host.Outcome State Fault Refusal := .next (moduleReset s)

/-- BOOT_STATUS (R471). -/
def bootStatus (s : State) : Word :=
  BitVec.ofNat 32 (s.boot.stage + 2 ^ 8 * s.boot.err + 2 ^ 16 * s.boot.devnum + 2 ^ 22 * boolNat s.ptp.locked +
    2 ^ 23 * boolNat s.boot.trip)

/-- Every rood of the module is retired (R445). -/
def allRetired (s : State) : Bool := (List.range 16).all (roodRetired s)

/-! ### The firmware cores (R468, R469) -/

/-- The six porters, the Steward and the Notary. -/
inductive FirmwareCore where
  | porter (n : Nat)
  | steward
  | notary
deriving DecidableEq, Repr

/-- The core of the firmware complex that carries out a step: each porter its own duties and no other's, the Steward translation,
retirement, the monitors and the boot stages. A mailbox command is porter 3's, which passes it to the Notary and returns the
response; the entries that a step leaves for the module error log are written out by porter 5 (R444). None for a step of another
agent (R468, R469). -/
def firmwareCore (i : Instr) : Option FirmwareCore :=
  match i with
  | .roodMode _ _ _ => some (.porter 3)
  | .vdCreate _ _ _ => some (.porter 3)
  | .vdDestroy _ _ => some (.porter 3)
  | .copyAssign _ _ _ => some (.porter 3)
  | .tenantCreate _ _ => some (.porter 3)
  | .charterInstall _ _ => some (.porter 3)
  | .tenantTeardown _ => some (.porter 3)
  | .ctxCreate _ _ _ _ _ => some (.porter 3)
  | .ctxDestroy _ => some (.porter 3)
  | .queueBind _ _ => some (.porter 3)
  | .queueUnbind _ _ => some (.porter 3)
  | .queueReload _ _ => some (.porter 3)
  | .unfreeze _ _ => some (.porter 3)
  | .kill _ => some (.porter 3)
  | .frameGrant _ _ _ => some (.porter 3)
  | .frameRevoke _ _ => some (.porter 3)
  | .cmdMap _ _ _ _ => some (.porter 3)
  | .unmap _ _ _ _ _ => some (.porter 3)
  | .violate _ _ => some (.porter 3)
  | .migrateOut _ _ => some (.porter 3)
  | .preempt _ _ => some (.porter 3)
  | .resume _ _ => some (.porter 3)
  | .evict _ => some (.porter 3)
  | .imagePlace _ _ _ _ _ _ => some (.porter 3)
  | .moduleLoad _ _ => some (.porter 3)
  | .moduleUnload _ _ => some (.porter 3)
  | .ringSet _ _ _ => some (.porter 3)
  | .ringClear _ _ => some (.porter 3)
  | .attach _ _ => some (.porter 3)
  | .detach _ => some (.porter 3)
  | .release _ _ => some (.porter 3)
  | .stepCmd _ _ => some (.porter 3)
  | .discard _ _ => some (.porter 3)
  | .powerSet _ _ _ _ => some (.porter 3)
  | .streamSet _ _ => some (.porter 3)
  | .streamClear _ _ => some (.porter 3)
  | .traceSet _ _ => some (.porter 3)
  | .sampleSet _ _ => some (.porter 3)
  | .dump _ _ _ _ _ => some (.porter 3)
  | .record _ _ _ _ _ => some (.porter 3)
  | .replay _ _ _ _ => some (.porter 3)
  | .coeffRead _ _ _ => some (.porter 3)
  | .countRead _ _ => some (.porter 3)
  | .accountRead _ _ _ _ => some (.porter 3)
  | .packetIntake _ q => some (.porter (q % 2))
  | .launchEnd _ => some (.porter 2)
  | .hostRingEntry _ _ => some (.porter 2)
  | .coalescingTimeout _ _ => some (.porter 2)
  | .graphSuccessor _ _ => some (.porter 2)
  | .frameReceive _ => some (.porter 4)
  | .hostTransmit _ => some (.porter 4)
  | .ptpMessage _ _ => some (.porter 4)
  | .ptpLock => some (.porter 4)
  | .ptpSyncTimeout => some (.porter 4)
  | .baseTick => some (.porter 4)
  | .tickReceive _ => some (.porter 4)
  | .linkRetrainComplete _ => some (.porter 4)
  | .routeLost _ => some (.porter 4)
  | .pageRequest _ => some (.porter 5)
  | .migrationCopyComplete _ _ => some (.porter 5)
  | .moduleTranslationComplete _ _ _ => some .steward
  | .retirement _ => some .steward
  | .monitorRead _ => some .steward
  | .bootStageComplete _ _ => some .steward
  | .deferredChangeApply _ => some .notary
  | .imageClose _ => some .notary
  | .countCommit => some .notary
  | _ => none

/-! ### Fabric ports and routes (R475) -/

/-- A port comes up: same domain, another device. -/
def portUp (b : Boot) (p : PortPeer) : Bool :=
  decide (b.domid ≠ 0) && decide (p.dom = b.domid) && decide (p.dev ≠ b.devnum)

/-- Hops to a device through a port. -/
def hopsTo (p : PortPeer) (dev : Nat) : Option Nat :=
  if p.dev = dev then some 1
  else (p.reach.find? fun x => decide (x.1 = dev)).map fun x => x.2 + 1

/-- The port of the shortest path, the lower number breaking ties. -/
def routeTo (ps : List PortPeer) (dev : Nat) : Option Route :=
  let ways := (sortByKey PortPeer.port ps).filterMap fun p => (hopsTo p dev).map fun n => (n, p.port)
  (minByKey Prod.fst ways).map fun x => ⟨dev, x.2⟩

/-- The LINKS stage: what each of the 12 ports learns of its peer (R2). A device that joins a domain goes on with the domain's tick
numbers (R453); a device of no domain keeps all its ports down. -/
def linksTrained (s : State) (all : List PortPeer) : State :=
  let peers := all.filter fun p => decide (p.port < fabricPorts)
  let up := peers.filter (portUp s.boot)
  let down := (peers.filter fun p => decide (s.boot.domid ≠ 0) && !portUp s.boot p).map PortPeer.port
  let routes := ((List.range 64).filter fun d => !decide (d = s.boot.devnum)).filterMap (routeTo up)
  foldList (fun s p => emit s (.log (.portDown p)))
    { s with
      tick := if up.isEmpty then s.tick else maxNat (up.map PortPeer.tick)
      boot := { s.boot with routes := routes, portsDown := if s.boot.domid = 0 then List.range fabricPorts else down } } down

/-- A stage's own check has failed: NOTARY_ROM the Notary firmware, NOTARY_FW an image, STEWARD the store, MEMORY the memory; LINKS
makes no check (R470, R471; log 53). -/
def checkFailed (stage err : Nat) : Bool := decide (err = stage) && decide (1 ≤ stage) && decide (stage ≤ 4)

/-- BOOT_STAGE_COMPLETE (R470, R471, R475). MEMORY fails with code 5 where every rood is retired. -/
def execBootStageComplete (err : Nat) (peers : List PortPeer) (s : State) : Host.Outcome State Fault Refusal :=
  let failed := fun (e : Nat) => { s with boot := { s.boot with stage := 15, err := e } }
  if s.boot.stage = 0 ∨ 5 < s.boot.stage then .next s
  else if checkFailed s.boot.stage err then .next (failed err)
  else if s.boot.stage = 4 ∧ allRetired s then .next (failed 5)
  else
    let s1 := { s with boot := { s.boot with stage := s.boot.stage + 1 } }
    if s.boot.stage = 4 ∧ s.boot.trip then .next (logError s1 15 true false 16 0 0)
    else if s.boot.stage = 5 then .next (linksTrained s1 peers)
    else .next s1

/-- FUNCTION_LEVEL_RESET (R472): of a virtual function, a KILL of its context, and its interface leaves RUN, for which
other state is open; of the physical function, a warm reset. -/
def execFunctionLevelReset (fn : Option Nat) (s : State) : Host.Outcome State Fault Refusal :=
  match fn with
  | none => .next (moduleReset s)
  | some v =>
    let s1 := match ctxOfVd s v with
      | some c => killCtx s c.id 13
      | none => s
    let st := match Config.choose s.freeCount 3 % 3 with
      | 0 => Tdisp.unlocked
      | 1 => Tdisp.locked
      | _ => Tdisp.error
    .next (bumpFree (updVd s1 v fun d => if d.tdisp = .run then { d with tdisp := st } else d))

/-- DOMAIN_WORD_WRITE (R475): in force from the next reset. Reserved bits must be zero; whether a word that breaks this is
taken without them, or not at all, is open. -/
def execDomainWordWrite (w : Word) (s : State) : Host.Outcome State Fault Refusal :=
  let bad := decide (w.toNat / 2 ^ 22 ≠ 0)
  if bad && decide (Config.choose s.freeCount 2 % 2 = 0) then .next (bumpFree s)
  else
    .next (bumpFree { s with boot := { s.boot with
      storedDevnum := field w.toNat 21 16, storedDomid := field w.toNat 15 0 } })

/-- Bytes of BAR0: 64 KiB of the physical function, which is number 32 here, 16 KiB of each virtual one (R473). -/
def barSize (fn : Nat) : Nat := if fn = 32 then 65536 else if fn < 32 then 16384 else 0

/-- REGISTER_WRITE (R473): a register with no behaviour of its own holds what is written to it. -/
def execRegisterWrite (fn off : Nat) (value : Word) (s : State) : Host.Outcome State Fault Refusal :=
  if off % 4 = 0 ∧ off + 4 ≤ barSize fn then
    .next { s with registers :=
      ⟨fn, off, value⟩ :: s.registers.filter fun r => !(decide (r.fn = fn) && decide (r.off = off)) }
  else .next s

/-- ROUTE_LOST (R193, R194, R475): far accesses on their way there end as violations; a lost tick master is followed by
the device of the next number (R453). -/
def execRouteLost (dev : Nat) (s : State) : Host.Outcome State Fault Refusal :=
  if s.boot.routes.any fun r => decide (r.dev = dev) then
    .next { s with
      boot := { s.boot with routes := s.boot.routes.filter fun r => !decide (r.dev = dev) }
      reqs := s.reqs.map fun r =>
        match r.kind, r.stage with
        | .far _, .reply _ _ _ => r
        | .far _, _ => if r.loc = dev then { r with stage := .reply [] none false } else r
        | _, _ => r }
  else .next s

/-! ### The servo (R48, R476) -/

/-- Cycles of a second. -/
def secondCycles : Nat := 1750000000

/-- The port of the servo: the one the hypervisor has selected, by registers the spec does not lay out (R476). -/
def servoPort (s : State) : Nat := Config.servoPort (s.registers.map fun r => (r.fn, r.off, r.value)) % 2

/-- PTP_MESSAGE: at the selected port; the offset in ns; beyond 1 µs the servo loses lock. -/
def execPtpMessage (m : PtpMsg) (offset : Int) (s : State) : Host.Outcome State Fault Refusal :=
  if s.boot.stage ≠ 6 ∨ m.port ≠ servoPort s then .next s
  else
    let good := if offset.natAbs < 100 then some (s.ptp.goodSince.getD s.clock) else none
    .next { s with ptp := { s.ptp with
      lastSync := if m.sync then s.clock else s.ptp.lastSync
      goodSince := good
      locked := s.ptp.locked && decide (offset.natAbs ≤ 1000) } }

/-- PTP_LOCK: the offset has been below 100 ns for 1 s; %ptptime begins with the first lock. -/
def execPtpLock (s : State) : Host.Outcome State Fault Refusal :=
  match s.ptp.goodSince with
  | some c =>
    if s.ptp.locked = false ∧ c + secondCycles ≤ s.clock then
      .next (bumpFree { s with ptp := { s.ptp with
        locked := true
        everLocked := true
        time := if s.ptp.everLocked then s.ptp.time else Config.freeTime s.freeCount } })
    else .next s
  | none => .next s

/-- PTP_SYNC_TIMEOUT: no Sync for 4 s. -/
def execPtpSyncTimeout (s : State) : Host.Outcome State Fault Refusal :=
  if s.ptp.locked ∧ s.ptp.lastSync + 4 * secondCycles ≤ s.clock then
    .next { s with ptp := { s.ptp with locked := false, goodSince := none } }
  else .next s

/-! ### SPDM and TDISP (R397, R398, R473) -/

/-- A function that exists: the interface of a virtual device, or the physical function, number 32 here. -/
def fnExists (s : State) (fn : Nat) : Bool := decide (fn = 32) || (findVd s fn).isSome

/-- The Notary answers a request at an interface that exists. -/
def spdmAnswer (s : State) (vd code : Nat) (operand : List Byte) : State :=
  if fnExists s vd then emit s (.spdm vd code (Config.spdm code operand)) else s

/-- SPDM_VERSION. -/
def execSpdmVersion (vd : Nat) (s : State) : Host.Outcome State Fault Refusal := .next (spdmAnswer s vd 0 [])

/-- SPDM_CAPABILITIES. -/
def execSpdmCapabilities (vd : Nat) (s : State) : Host.Outcome State Fault Refusal := .next (spdmAnswer s vd 1 [])

/-- SPDM_ALGORITHMS. -/
def execSpdmAlgorithms (vd : Nat) (s : State) : Host.Outcome State Fault Refusal := .next (spdmAnswer s vd 2 [])

/-- SPDM_CERTIFICATE: the chain of the device identity key. -/
def execSpdmCertificate (vd : Nat) (s : State) : Host.Outcome State Fault Refusal := .next (spdmAnswer s vd 3 [])

/-- SPDM_CHALLENGE: signed with the device identity key. -/
def execSpdmChallenge (vd : Nat) (nonce : List Byte) (s : State) : Host.Outcome State Fault Refusal :=
  .next (spdmAnswer s vd 4 nonce)

/-- Measurements 1 to 4: the fourth is the SHA-384 hash of the charter in force for the session's tenant. -/
def measurements (s : State) (vd : Nat) : List Byte :=
  let tenant := ((findVd s vd).bind VDev.tenant).or ((ctxOfVd s vd).map Context.charter)
  let charter := match tenant.bind (charterOf s) with
    | some ch => Config.sha384 ch.bytes
    | none => []
  Config.measurement 1 ++ Config.measurement 2 ++ Config.measurement 3 ++ charter

/-- SPDM_MEASUREMENTS: the measurements, and the Notary's answer over them. -/
def execSpdmMeasurements (vd : Nat) (nonce : List Byte) (s : State) : Host.Outcome State Fault Refusal :=
  if fnExists s vd then
    let ms := measurements s vd
    .next (emit s (.spdm vd 5 (ms ++ Config.spdm 5 (nonce ++ ms))))
  else .next s

/-- SPDM_KEY_EXCHANGE: a handshake begins. -/
def execSpdmKeyExchange (vd : Nat) (share : List Byte) (s : State) : Host.Outcome State Fault Refusal :=
  let s1 := spdmAnswer s vd 6 share
  .next (if vd = 32 then { s1 with pf := { s1.pf with share := some share } }
    else updVd s1 vd fun v => { v with share := some share })

/-- SPDM_FINISH: the handshake ends in a secured session where the Notary accepts it. -/
def execSpdmFinish (vd : Nat) (proof : List Byte) (s : State) : Host.Outcome State Fault Refusal :=
  let s1 := spdmAnswer s vd 7 proof
  let ok := fun (share : Option (List Byte)) => match share with | some x => Config.spdmAccepts x proof | none => false
  .next (if vd = 32 then { s1 with pf := { s1.pf with session := s1.pf.session || ok s1.pf.share, share := none } }
    else updVd s1 vd fun v => { v with session := v.session || ok v.share, share := none })

/-- The TDISP state after a message; one that does not fit the state changes nothing (log 45). -/
def tdispNext (t : Tdisp) (m : TdispMsg) : Tdisp :=
  match m, t with
  | .lock, .unlocked => .locked
  | .start, .locked => .run
  | .stop, _ => .unlocked
  | .error, _ => .error
  | _, t => t

/-- TDISP_MESSAGE (R398), to the interface of a virtual device or to the physical function (R473). -/
def execTdispMessage (vd : Nat) (m : TdispMsg) (s : State) : Host.Outcome State Fault Refusal :=
  if vd = 32 then .next (emit { s with pf := { s.pf with tdisp := tdispNext s.pf.tdisp m } } (.tdisp 32 (tdispNext s.pf.tdisp m)))
  else match findVd s vd with
  | none => .next s
  | some v => .next (emit (updVd s vd fun v => { v with tdisp := tdispNext v.tdisp m }) (.tdisp vd (tdispNext v.tdisp m)))

end Sys2Proof.Machine
end

