-- ==== Sys2Proof/Machine/Integer.lean ====
section
/-! DEFINITION. Meanings of the compact integer forms (R76) and of majors 0 to 18: integer arithmetic, logic, shifts,
bit fields, dot products, compares, predicates, moves and special registers (R102 to R127). Every role may issue them
(R103). -/
namespace Sys2Proof.Machine

/-- A register instruction of two parcels that every role may issue. -/
def aluOp (m : Marks) (f : Thread → Thread) (s : State) : Host.Outcome State Fault Refusal :=
  .next (mapActive 2 m.sw f s)

/-- A compact register instruction: one parcel, no switch marker (R76). -/
def compactOp (f : Thread → Thread) (s : State) : Host.Outcome State Fault Refusal := .next (mapActive 1 false f s)

/-- The second register of a compact form, v0 to v31 (R75). -/
def CompactReg.src (x : CompactReg) : BitVec 6 := 0#1 ++ x.b

/-- vD := f(old vD, vB) at x1. -/
def compactBin (f : Bin) (x : CompactReg) (t : Thread) : Thread := bin f .x1 x.d (CompactReg.src x) x.d t

/-- A V form: vD := f(vA, B) (R107). -/
def vBin (f : Bin) (x : VOps) (s : State) (t : Thread) : Thread :=
  match x.wd with
  | .x2 => setV2 t x.d (f 64 (getV2 t x.a) (srcB2 s t x.b))
  | _ => setV t x.d (f 32 (getV t x.a) (srcB s t x.b))

/-- The multiply-add of a V form into the old destination (R107). -/
def vMad (x : VOps) (s : State) (t : Thread) : Thread :=
  match x.wd with
  | .x2 => setV2 t x.d (getV2 t x.a * srcB2 s t x.b + getV2 t x.d)
  | _ => setV t x.d (getV t x.a * srcB s t x.b + getV t x.d)

/-- A shift by an immediate amount (R115). -/
def shiftImm (f : (n : Nat) → BitVec n → Nat → BitVec n) (x : ShiftI) (t : Thread) : Thread :=
  if x.x2 then setV2 t x.d (f 64 (getV2 t x.a) (x.n.toNat % 64))
  else setV t x.d (f 32 (getV t x.a) (x.n.toNat % 32))

/-- A three-source x1 form that reads the old destination. -/
def terWord (f : Word → Word → Word → Word) (x : R3) (t : Thread) : Thread :=
  setV t x.d (f (getV t x.a) (getV t x.b) (getV t x.d))

/-- Predicate logic of two sources (R124). -/
def predOp (f : Bool → Bool → Bool) (x : PLog) (t : Thread) : Thread :=
  setP t x.d (f (xor (getP t x.a) x.na) (xor (getP t x.b) x.nb))

/-- Write p_i := a_i for the mask bits, mask bit i - 1 for p_i (R124). -/
def maskPreds (mask : BitVec 7) (a : Word) (t : Thread) : Thread :=
  { t with p := (t.p &&& ~~~(mask ++ 0#1)) ||| (a.setWidth 8 &&& (mask ++ 0#1)) }

/-- The value a mov copies, register by register (R126). -/
def movWords (x : Mov) (s : State) (t : Thread) : List Word :=
  match x.b with
  | .reg r => getGroup t r x.wd.regs
  | .unif k => if x.wd.regs = 2 then [getK s t k, getK s t (k + 1)] else [getK s t k]
  | .imm i => if x.wd.regs = 2 then [i.signExtend 32, (i.signExtend 64).extractLsb' 32 32] else [i.signExtend 32]

/-- Write words to kN and up. -/
def setKs (g : Workgroup) (n : BitVec 5) : List Word → Workgroup
  | [] => g
  | w :: ws => setKs (setK g n w) (n + 1) ws

/-- A mov to k16 to k31: the value of the active thread with the lowest %tid (R30, R126). DESIGN CHOICE (log 86): the write is
visible to every thread of the workgroup at once; R31 allows a thread that no barrier has ordered the old value, too. -/
def movToK (x : Mov) (s : State) : State :=
  match leaderOf (actives s) with
  | none => s
  | some t0 => updWg s t0.wg fun g => setKs g (x.d.setWidth 5) (movWords x s t0)

/-- Compact mov (R76, R126). -/
def execMovC (x : CompactReg) (s : State) : Host.Outcome State Fault Refusal :=
  compactOp (fun t => setV t x.d (getV t (CompactReg.src x))) s

/-- Compact mov of an immediate (R76, R126). -/
def execMovi (x : CompactImm) (s : State) : Host.Outcome State Fault Refusal :=
  compactOp (fun t => setV t x.d (x.i.signExtend 32)) s

/-- Compact iadd of an immediate (R76, R107). -/
def execIaddiC (x : CompactImm) (s : State) : Host.Outcome State Fault Refusal :=
  compactOp (fun t => setV t x.d (getV t x.d + x.i.signExtend 32)) s

/-- Compact iadd (R76, R107). -/
def execIaddC (x : CompactReg) (s : State) : Host.Outcome State Fault Refusal :=
  compactOp (compactBin opAdd x) s

/-- Compact isub (R76, R107). -/
def execIsubC (x : CompactReg) (s : State) : Host.Outcome State Fault Refusal :=
  compactOp (compactBin opSub x) s

/-- Compact imul (R76, R110). -/
def execImulC (x : CompactReg) (s : State) : Host.Outcome State Fault Refusal :=
  compactOp (compactBin opMul x) s

/-- Compact and (R76, R113). -/
def execAndC (x : CompactReg) (s : State) : Host.Outcome State Fault Refusal :=
  compactOp (compactBin opAnd x) s

/-- Compact or (R76, R113). -/
def execOrC (x : CompactReg) (s : State) : Host.Outcome State Fault Refusal :=
  compactOp (compactBin opOr x) s

/-- Compact xor (R76, R113). -/
def execXorC (x : CompactReg) (s : State) : Host.Outcome State Fault Refusal :=
  compactOp (compactBin opXor x) s

/-- Compact shl (R76, R114). -/
def execShlC (x : CompactReg) (s : State) : Host.Outcome State Fault Refusal :=
  compactOp (compactBin opShl x) s

/-- Compact shr (R76, R114). -/
def execShrC (x : CompactReg) (s : State) : Host.Outcome State Fault Refusal :=
  compactOp (compactBin opShr x) s

/-- Compact sar (R76, R114). -/
def execSarC (x : CompactReg) (s : State) : Host.Outcome State Fault Refusal :=
  compactOp (compactBin opSar x) s

/-- iadd (R107). -/
def execIadd (x : VOps) (s : State) : Host.Outcome State Fault Refusal :=
  aluOp x.m (vBin opAdd x s) s

/-- isub (R107). -/
def execIsub (x : VOps) (s : State) : Host.Outcome State Fault Refusal :=
  aluOp x.m (vBin opSub x s) s

/-- imad (R107). -/
def execImad (x : VOps) (s : State) : Host.Outcome State Fault Refusal :=
  aluOp x.m (vMad x s) s

/-- imulLo (R110). -/
def execImulLo (x : VF3) (s : State) : Host.Outcome State Fault Refusal :=
  aluOp x.m (bin opMul x.w x.a x.b x.d) s

/-- imulHis (R110). -/
def execImulHis (x : VF3) (s : State) : Host.Outcome State Fault Refusal :=
  aluOp x.m (bin opMulHiS x.w x.a x.b x.d) s

/-- imulHiz (R110). -/
def execImulHiz (x : VF3) (s : State) : Host.Outcome State Fault Refusal :=
  aluOp x.m (bin opMulHiZ x.w x.a x.b x.d) s

/-- imul.wds (R110). -/
def execImulWds (x : R3) (s : State) : Host.Outcome State Fault Refusal :=
  aluOp x.m (fun t => setV2 t x.d ((getV t x.a).signExtend 64 * (getV t x.b).signExtend 64)) s

/-- imul.wdz (R110). -/
def execImulWdz (x : R3) (s : State) : Host.Outcome State Fault Refusal :=
  aluOp x.m (fun t => setV2 t x.d ((getV t x.a).setWidth 64 * (getV t x.b).setWidth 64)) s

/-- mins (R111). -/
def execMins (x : VF3) (s : State) : Host.Outcome State Fault Refusal :=
  aluOp x.m (bin opMinS x.w x.a x.b x.d) s

/-- maxs (R111). -/
def execMaxs (x : VF3) (s : State) : Host.Outcome State Fault Refusal :=
  aluOp x.m (bin opMaxS x.w x.a x.b x.d) s

/-- minz (R111). -/
def execMinz (x : VF3) (s : State) : Host.Outcome State Fault Refusal :=
  aluOp x.m (bin opMinZ x.w x.a x.b x.d) s

/-- maxz (R111). -/
def execMaxz (x : VF3) (s : State) : Host.Outcome State Fault Refusal :=
  aluOp x.m (bin opMaxZ x.w x.a x.b x.d) s

/-- iabs (R111). -/
def execIabs (x : VF2) (s : State) : Host.Outcome State Fault Refusal :=
  aluOp x.m (un opAbs x.w x.a x.d) s

/-- ineg (R111). -/
def execIneg (x : VF2) (s : State) : Host.Outcome State Fault Refusal :=
  aluOp x.m (un opNeg x.w x.a x.d) s

/-- sadds (R111). -/
def execSadds (x : VF3) (s : State) : Host.Outcome State Fault Refusal :=
  aluOp x.m (bin opAddSatS x.w x.a x.b x.d) s

/-- saddz (R111). -/
def execSaddz (x : VF3) (s : State) : Host.Outcome State Fault Refusal :=
  aluOp x.m (bin opAddSatZ x.w x.a x.b x.d) s

/-- divs, a pending result (R79, R112). -/
def execDivs (x : VF3) (s : State) : Host.Outcome State Fault Refusal :=
  aluOp x.m (pendBin opDivS x.w x.a x.b x.d) s

/-- divz, a pending result (R79, R112). -/
def execDivz (x : VF3) (s : State) : Host.Outcome State Fault Refusal :=
  aluOp x.m (pendBin opDivZ x.w x.a x.b x.d) s

/-- rems, a pending result (R79, R112). -/
def execRems (x : VF3) (s : State) : Host.Outcome State Fault Refusal :=
  aluOp x.m (pendBin opRemS x.w x.a x.b x.d) s

/-- remz, a pending result (R79, R112). -/
def execRemz (x : VF3) (s : State) : Host.Outcome State Fault Refusal :=
  aluOp x.m (pendBin opRemZ x.w x.a x.b x.d) s

/-- logAnd (R113). -/
def execLogAnd (x : VF3) (s : State) : Host.Outcome State Fault Refusal :=
  aluOp x.m (bin opAnd x.w x.a x.b x.d) s

/-- logOr (R113). -/
def execLogOr (x : VF3) (s : State) : Host.Outcome State Fault Refusal :=
  aluOp x.m (bin opOr x.w x.a x.b x.d) s

/-- logXor (R113). -/
def execLogXor (x : VF3) (s : State) : Host.Outcome State Fault Refusal :=
  aluOp x.m (bin opXor x.w x.a x.b x.d) s

/-- logAndn (R113). -/
def execLogAndn (x : VF3) (s : State) : Host.Outcome State Fault Refusal :=
  aluOp x.m (bin opAndn x.w x.a x.b x.d) s

/-- logOrn (R113). -/
def execLogOrn (x : VF3) (s : State) : Host.Outcome State Fault Refusal :=
  aluOp x.m (bin opOrn x.w x.a x.b x.d) s

/-- logXnor (R113). -/
def execLogXnor (x : VF3) (s : State) : Host.Outcome State Fault Refusal :=
  aluOp x.m (bin opXnor x.w x.a x.b x.d) s

/-- logNot (R113). -/
def execLogNot (x : VF2) (s : State) : Host.Outcome State Fault Refusal :=
  aluOp x.m (un opNot x.w x.a x.d) s

/-- shl (R114). -/
def execShl (x : VF3) (s : State) : Host.Outcome State Fault Refusal :=
  aluOp x.m (bin opShl x.w x.a x.b x.d) s

/-- shr (R114). -/
def execShr (x : VF3) (s : State) : Host.Outcome State Fault Refusal :=
  aluOp x.m (bin opShr x.w x.a x.b x.d) s

/-- sar (R114). -/
def execSar (x : VF3) (s : State) : Host.Outcome State Fault Refusal :=
  aluOp x.m (bin opSar x.w x.a x.b x.d) s

/-- rol (R114). -/
def execRol (x : VF3) (s : State) : Host.Outcome State Fault Refusal :=
  aluOp x.m (bin opRol x.w x.a x.b x.d) s

/-- fshl (R114). -/
def execFshl (x : VF3) (s : State) : Host.Outcome State Fault Refusal :=
  aluOp x.m (ter opFshl x.w x.a x.b x.d) s

/-- fshr (R114). -/
def execFshr (x : VF3) (s : State) : Host.Outcome State Fault Refusal :=
  aluOp x.m (ter opFshr x.w x.a x.b x.d) s

/-- shl by an immediate (R115). -/
def execShlI (x : ShiftI) (s : State) : Host.Outcome State Fault Refusal :=
  aluOp x.m (shiftImm shlBy x) s

/-- shr by an immediate (R115). -/
def execShrI (x : ShiftI) (s : State) : Host.Outcome State Fault Refusal :=
  aluOp x.m (shiftImm shrBy x) s

/-- sar by an immediate (R115). -/
def execSarI (x : ShiftI) (s : State) : Host.Outcome State Fault Refusal :=
  aluOp x.m (shiftImm sarBy x) s

/-- rol by an immediate (R115). -/
def execRolI (x : ShiftI) (s : State) : Host.Outcome State Fault Refusal :=
  aluOp x.m (shiftImm rolBy x) s

/-- bfxs (R116). -/
def execBfxs (x : R3) (s : State) : Host.Outcome State Fault Refusal :=
  aluOp x.m (terWord (fun a b _ => bfxsWord a b) x) s

/-- bfxz (R116). -/
def execBfxz (x : R3) (s : State) : Host.Outcome State Fault Refusal :=
  aluOp x.m (terWord (fun a b _ => bfxzWord a b) x) s

/-- bfi (R116). -/
def execBfi (x : R3) (s : State) : Host.Outcome State Fault Refusal :=
  aluOp x.m (terWord bfiWord x) s

/-- popc (R117). -/
def execPopc (x : VF2) (s : State) : Host.Outcome State Fault Refusal :=
  aluOp x.m (un opPopc x.w x.a x.d) s

/-- clz (R117). -/
def execClz (x : VF2) (s : State) : Host.Outcome State Fault Refusal :=
  aluOp x.m (un opClz x.w x.a x.d) s

/-- ctz (R117). -/
def execCtz (x : VF2) (s : State) : Host.Outcome State Fault Refusal :=
  aluOp x.m (un opCtz x.w x.a x.d) s

/-- brev (R117). -/
def execBrev (x : VF2) (s : State) : Host.Outcome State Fault Refusal :=
  aluOp x.m (un opBrev x.w x.a x.d) s

/-- bperm (R118). -/
def execBperm (x : R3) (s : State) : Host.Outcome State Fault Refusal :=
  aluOp x.m (terWord bpermWord x) s

/-- dot4ss (R119). -/
def execDot4ss (x : R3) (s : State) : Host.Outcome State Fault Refusal :=
  aluOp x.m (terWord (dotWord 8 4 true true) x) s

/-- dot4zz (R119). -/
def execDot4zz (x : R3) (s : State) : Host.Outcome State Fault Refusal :=
  aluOp x.m (terWord (dotWord 8 4 false false) x) s

/-- dot4sz (R119). -/
def execDot4sz (x : R3) (s : State) : Host.Outcome State Fault Refusal :=
  aluOp x.m (terWord (dotWord 8 4 true false) x) s

/-- dot2s (R119). -/
def execDot2s (x : R3) (s : State) : Host.Outcome State Fault Refusal :=
  aluOp x.m (terWord (dotWord 16 2 true true) x) s

/-- dot2z (R119). -/
def execDot2z (x : R3) (s : State) : Host.Outcome State Fault Refusal :=
  aluOp x.m (terWord (dotWord 16 2 false false) x) s

/-- iaddi (R108). -/
def execIaddi (x : AddI) (s : State) : Host.Outcome State Fault Refusal :=
  aluOp x.m (fun t => setV t x.d (getV t x.a + x.i.signExtend 32)) s

/-- movl (R125). -/
def execMovl (x : MovW) (s : State) : Host.Outcome State Fault Refusal :=
  aluOp x.m (fun t => setV t x.d (x.i.setWidth 32)) s

/-- movh (R125). -/
def execMovh (x : MovW) (s : State) : Host.Outcome State Fault Refusal :=
  aluOp x.m (fun t => setV t x.d (x.i ++ (getV t x.d).extractLsb' 0 16)) s

/-- icmp (R121). -/
def execIcmp (x : ICmp) (s : State) : Host.Outcome State Fault Refusal :=
  aluOp x.m (fun t => setP t x.q (match x.w with
    | .x2 => icondHolds x.c x.signed (getV2 t x.a) (srcB2 s t x.b)
    | _ => icondHolds x.c x.signed (getV t x.a) (srcB s t x.b))) s

/-- sel (R122). -/
def execSel (x : Sel) (s : State) : Host.Outcome State Fault Refusal :=
  aluOp x.m (fun t => setGroup t x.d (getGroup t (if getP t x.n then x.a else x.b) x.w.regs)) s

/-- pand (R124). -/
def execPand (x : PLog) (s : State) : Host.Outcome State Fault Refusal :=
  aluOp x.m (predOp and x) s

/-- por (R124). -/
def execPor (x : PLog) (s : State) : Host.Outcome State Fault Refusal :=
  aluOp x.m (predOp or x) s

/-- pxor (R124). -/
def execPxor (x : PLog) (s : State) : Host.Outcome State Fault Refusal :=
  aluOp x.m (predOp xor x) s

/-- pnot (R124). -/
def execPnot (x : PNot) (s : State) : Host.Outcome State Fault Refusal :=
  aluOp x.m (fun t => setP t x.d (!getP t x.a)) s

/-- p2v (R124). -/
def execP2v (x : R1) (s : State) : Host.Outcome State Fault Refusal :=
  aluOp x.m (fun t => setV t x.r ((predByte t).setWidth 32)) s

/-- v2p (R124). -/
def execV2p (x : V2P) (s : State) : Host.Outcome State Fault Refusal :=
  aluOp x.m (fun t => maskPreds x.mask (getV t x.a) t) s

/-- lea (R120). -/
def execLea (x : Lea) (s : State) : Host.Outcome State Fault Refusal :=
  aluOp x.m (bin (opLea x.s.toNat) x.w x.a x.b x.d) s

/-- sread (R127). -/
def execSread (x : SRead) (s : State) : Host.Outcome State Fault Refusal :=
  aluOp x.m (fun t =>
    if x.x2 then setV2 t x.d (specialValue s t x.n.toNat)
    else setV t x.d ((specialValue s t x.n.toNat).setWidth 32)) s

/-- mov (R126). -/
def execMov (x : Mov) (s : State) : Host.Outcome State Fault Refusal :=
  if x.toK then .next (mapActive 2 x.m.sw id (movToK x s))
  else aluOp x.m (fun t => setGroup t x.d (movWords x s t)) s

end Sys2Proof.Machine
end

