-- ==== Sys2Proof/Machine/Dispatch.lean ====
section
/-! DEFINITION. One arm per instruction: the one direct call of its meaning. -/
namespace Sys2Proof.Machine

def exec (i : Instr) (s : State) : Host.Outcome State Fault Refusal :=
  match i with
  | .movC x => Sys2Proof.Machine.execMovC x s
  | .movi x => Sys2Proof.Machine.execMovi x s
  | .iaddC x => Sys2Proof.Machine.execIaddC x s
  | .iaddiC x => Sys2Proof.Machine.execIaddiC x s
  | .isubC x => Sys2Proof.Machine.execIsubC x s
  | .imulC x => Sys2Proof.Machine.execImulC x s
  | .andC x => Sys2Proof.Machine.execAndC x s
  | .orC x => Sys2Proof.Machine.execOrC x s
  | .xorC x => Sys2Proof.Machine.execXorC x s
  | .shlC x => Sys2Proof.Machine.execShlC x s
  | .shrC x => Sys2Proof.Machine.execShrC x s
  | .sarC x => Sys2Proof.Machine.execSarC x s
  | .faddC x => Sys2Proof.Machine.execFaddC x s
  | .fmulC x => Sys2Proof.Machine.execFmulC x s
  | .fminC x => Sys2Proof.Machine.execFminC x s
  | .fmaxC x => Sys2Proof.Machine.execFmaxC x s
  | .iadd x => Sys2Proof.Machine.execIadd x s
  | .isub x => Sys2Proof.Machine.execIsub x s
  | .imad x => Sys2Proof.Machine.execImad x s
  | .imulLo x => Sys2Proof.Machine.execImulLo x s
  | .imulHis x => Sys2Proof.Machine.execImulHis x s
  | .imulHiz x => Sys2Proof.Machine.execImulHiz x s
  | .imulWds x => Sys2Proof.Machine.execImulWds x s
  | .imulWdz x => Sys2Proof.Machine.execImulWdz x s
  | .mins x => Sys2Proof.Machine.execMins x s
  | .maxs x => Sys2Proof.Machine.execMaxs x s
  | .minz x => Sys2Proof.Machine.execMinz x s
  | .maxz x => Sys2Proof.Machine.execMaxz x s
  | .iabs x => Sys2Proof.Machine.execIabs x s
  | .ineg x => Sys2Proof.Machine.execIneg x s
  | .sadds x => Sys2Proof.Machine.execSadds x s
  | .saddz x => Sys2Proof.Machine.execSaddz x s
  | .divs x => Sys2Proof.Machine.execDivs x s
  | .divz x => Sys2Proof.Machine.execDivz x s
  | .rems x => Sys2Proof.Machine.execRems x s
  | .remz x => Sys2Proof.Machine.execRemz x s
  | .logAnd x => Sys2Proof.Machine.execLogAnd x s
  | .logOr x => Sys2Proof.Machine.execLogOr x s
  | .logXor x => Sys2Proof.Machine.execLogXor x s
  | .logAndn x => Sys2Proof.Machine.execLogAndn x s
  | .logOrn x => Sys2Proof.Machine.execLogOrn x s
  | .logXnor x => Sys2Proof.Machine.execLogXnor x s
  | .logNot x => Sys2Proof.Machine.execLogNot x s
  | .shl x => Sys2Proof.Machine.execShl x s
  | .shr x => Sys2Proof.Machine.execShr x s
  | .sar x => Sys2Proof.Machine.execSar x s
  | .rol x => Sys2Proof.Machine.execRol x s
  | .fshl x => Sys2Proof.Machine.execFshl x s
  | .fshr x => Sys2Proof.Machine.execFshr x s
  | .shlI x => Sys2Proof.Machine.execShlI x s
  | .shrI x => Sys2Proof.Machine.execShrI x s
  | .sarI x => Sys2Proof.Machine.execSarI x s
  | .rolI x => Sys2Proof.Machine.execRolI x s
  | .bfxs x => Sys2Proof.Machine.execBfxs x s
  | .bfxz x => Sys2Proof.Machine.execBfxz x s
  | .bfi x => Sys2Proof.Machine.execBfi x s
  | .popc x => Sys2Proof.Machine.execPopc x s
  | .clz x => Sys2Proof.Machine.execClz x s
  | .ctz x => Sys2Proof.Machine.execCtz x s
  | .brev x => Sys2Proof.Machine.execBrev x s
  | .bperm x => Sys2Proof.Machine.execBperm x s
  | .dot4ss x => Sys2Proof.Machine.execDot4ss x s
  | .dot4zz x => Sys2Proof.Machine.execDot4zz x s
  | .dot4sz x => Sys2Proof.Machine.execDot4sz x s
  | .dot2s x => Sys2Proof.Machine.execDot2s x s
  | .dot2z x => Sys2Proof.Machine.execDot2z x s
  | .iaddi x => Sys2Proof.Machine.execIaddi x s
  | .movl x => Sys2Proof.Machine.execMovl x s
  | .movh x => Sys2Proof.Machine.execMovh x s
  | .icmp x => Sys2Proof.Machine.execIcmp x s
  | .sel x => Sys2Proof.Machine.execSel x s
  | .pand x => Sys2Proof.Machine.execPand x s
  | .por x => Sys2Proof.Machine.execPor x s
  | .pxor x => Sys2Proof.Machine.execPxor x s
  | .pnot x => Sys2Proof.Machine.execPnot x s
  | .p2v x => Sys2Proof.Machine.execP2v x s
  | .v2p x => Sys2Proof.Machine.execV2p x s
  | .lea x => Sys2Proof.Machine.execLea x s
  | .sread x => Sys2Proof.Machine.execSread x s
  | .mov x => Sys2Proof.Machine.execMov x s
  | .fadd x => Sys2Proof.Machine.execFadd x s
  | .fsub x => Sys2Proof.Machine.execFsub x s
  | .fmul x => Sys2Proof.Machine.execFmul x s
  | .ffma x => Sys2Proof.Machine.execFfma x s
  | .fnma x => Sys2Proof.Machine.execFnma x s
  | .fmin x => Sys2Proof.Machine.execFmin x s
  | .fmax x => Sys2Proof.Machine.execFmax x s
  | .fminNan x => Sys2Proof.Machine.execFminNan x s
  | .fmaxNan x => Sys2Proof.Machine.execFmaxNan x s
  | .fabs x => Sys2Proof.Machine.execFabs x s
  | .fneg x => Sys2Proof.Machine.execFneg x s
  | .fcsgn x => Sys2Proof.Machine.execFcsgn x s
  | .fclass x => Sys2Proof.Machine.execFclass x s
  | .fcmp x => Sys2Proof.Machine.execFcmp x s
  | .frcp x => Sys2Proof.Machine.execFrcp x s
  | .frsq x => Sys2Proof.Machine.execFrsq x s
  | .fsqrt x => Sys2Proof.Machine.execFsqrt x s
  | .fexp2 x => Sys2Proof.Machine.execFexp2 x s
  | .flog2 x => Sys2Proof.Machine.execFlog2 x s
  | .fsin x => Sys2Proof.Machine.execFsin x s
  | .fcos x => Sys2Proof.Machine.execFcos x s
  | .ftanh x => Sys2Proof.Machine.execFtanh x s
  | .fldexp x => Sys2Proof.Machine.execFldexp x s
  | .frndRn x => Sys2Proof.Machine.execFrndRn x s
  | .frndRz x => Sys2Proof.Machine.execFrndRz x s
  | .frndRd x => Sys2Proof.Machine.execFrndRd x s
  | .frndRu x => Sys2Proof.Machine.execFrndRu x s
  | .fexpof x => Sys2Proof.Machine.execFexpof x s
  | .ffract x => Sys2Proof.Machine.execFfract x s
  | .hadd x => Sys2Proof.Machine.execHadd x s
  | .hsub x => Sys2Proof.Machine.execHsub x s
  | .hmul x => Sys2Proof.Machine.execHmul x s
  | .hfma x => Sys2Proof.Machine.execHfma x s
  | .hmin x => Sys2Proof.Machine.execHmin x s
  | .hmax x => Sys2Proof.Machine.execHmax x s
  | .hcmp x => Sys2Proof.Machine.execHcmp x s
  | .habs x => Sys2Proof.Machine.execHabs x s
  | .hneg x => Sys2Proof.Machine.execHneg x s
  | .cvtDirect x => Sys2Proof.Machine.execCvtDirect x s
  | .cvtTo x => Sys2Proof.Machine.execCvtTo x s
  | .cvtFrom x => Sys2Proof.Machine.execCvtFrom x s
  | .bfpq x => Sys2Proof.Machine.execBfpq x s
  | .bfpdq x => Sys2Proof.Machine.execBfpdq x s
  | .bra x => Sys2Proof.Machine.execBra x s
  | .jmp x => Sys2Proof.Machine.execJmp x s
  | .call x => Sys2Proof.Machine.execCall x s
  | .ret x => Sys2Proof.Machine.execRet x s
  | .reform x => Sys2Proof.Machine.execReform x s
  | .awaitBar x => Sys2Proof.Machine.execAwaitBar x s
  | .awaitRing x => Sys2Proof.Machine.execAwaitRing x s
  | .awaitFar x => Sys2Proof.Machine.execAwaitFar x s
  | .awaitGd x => Sys2Proof.Machine.execAwaitGd x s
  | .awaitIng x => Sys2Proof.Machine.execAwaitIng x s
  | .awaitTmr x => Sys2Proof.Machine.execAwaitTmr x s
  | .exit x => Sys2Proof.Machine.execExit x s
  | .abort x => Sys2Proof.Machine.execAbort x s
  | .part x => Sys2Proof.Machine.execPart x s
  | .voteAny x => Sys2Proof.Machine.execVoteAny x s
  | .voteAll x => Sys2Proof.Machine.execVoteAll x s
  | .voteBallot x => Sys2Proof.Machine.execVoteBallot x s
  | .voteUeq x => Sys2Proof.Machine.execVoteUeq x s
  | .shflIdx x => Sys2Proof.Machine.execShflIdx x s
  | .shflUp x => Sys2Proof.Machine.execShflUp x s
  | .shflDown x => Sys2Proof.Machine.execShflDown x s
  | .shflXor x => Sys2Proof.Machine.execShflXor x s
  | .gredIadd x => Sys2Proof.Machine.execGredIadd x s
  | .gredMins x => Sys2Proof.Machine.execGredMins x s
  | .gredMaxs x => Sys2Proof.Machine.execGredMaxs x s
  | .gredAnd x => Sys2Proof.Machine.execGredAnd x s
  | .gredOr x => Sys2Proof.Machine.execGredOr x s
  | .gredXor x => Sys2Proof.Machine.execGredXor x s
  | .gredFadd x => Sys2Proof.Machine.execGredFadd x s
  | .gredFmax x => Sys2Proof.Machine.execGredFmax x s
  | .gscanIadd x => Sys2Proof.Machine.execGscanIadd x s
  | .gscanMins x => Sys2Proof.Machine.execGscanMins x s
  | .gscanMaxs x => Sys2Proof.Machine.execGscanMaxs x s
  | .gscanAnd x => Sys2Proof.Machine.execGscanAnd x s
  | .gscanOr x => Sys2Proof.Machine.execGscanOr x s
  | .gscanXor x => Sys2Proof.Machine.execGscanXor x s
  | .gscanFadd x => Sys2Proof.Machine.execGscanFadd x s
  | .gscanFmax x => Sys2Proof.Machine.execGscanFmax x s
  | .nop x => Sys2Proof.Machine.execNop x s
  | .trap x => Sys2Proof.Machine.execTrap x s
  | .brk x => Sys2Proof.Machine.execBrk x s
  | .gdarm x => Sys2Proof.Machine.execGdarm x s
  | .gdset x => Sys2Proof.Machine.execGdset x s
  | .ld x => Sys2Proof.Machine.execLd x s
  | .st x => Sys2Proof.Machine.execSt x s
  | .ldk x => Sys2Proof.Machine.execLdk x s
  | .stk x => Sys2Proof.Machine.execStk x s
  | .atomAdd x => Sys2Proof.Machine.execAtomAdd x s
  | .atomSub x => Sys2Proof.Machine.execAtomSub x s
  | .atomMins x => Sys2Proof.Machine.execAtomMins x s
  | .atomMaxs x => Sys2Proof.Machine.execAtomMaxs x s
  | .atomMinz x => Sys2Proof.Machine.execAtomMinz x s
  | .atomMaxz x => Sys2Proof.Machine.execAtomMaxz x s
  | .atomAnd x => Sys2Proof.Machine.execAtomAnd x s
  | .atomOr x => Sys2Proof.Machine.execAtomOr x s
  | .atomxCas x => Sys2Proof.Machine.execAtomxCas x s
  | .atomxXchg x => Sys2Proof.Machine.execAtomxXchg x s
  | .atomxIncw x => Sys2Proof.Machine.execAtomxIncw x s
  | .atomxDecw x => Sys2Proof.Machine.execAtomxDecw x s
  | .atomxFadd x => Sys2Proof.Machine.execAtomxFadd x s
  | .atomxFmin x => Sys2Proof.Machine.execAtomxFmin x s
  | .atomxFmax x => Sys2Proof.Machine.execAtomxFmax x s
  | .atomxXor x => Sys2Proof.Machine.execAtomxXor x s
  | .acq x => Sys2Proof.Machine.execAcq x s
  | .rel x => Sys2Proof.Machine.execRel x s
  | .acqrel x => Sys2Proof.Machine.execAcqrel x s
  | .fence x => Sys2Proof.Machine.execFence x s
  | .cinv x => Sys2Proof.Machine.execCinv x s
  | .cwb x => Sys2Proof.Machine.execCwb x s
  | .pf x => Sys2Proof.Machine.execPf x s
  | .barInit x => Sys2Proof.Machine.execBarInit x s
  | .barArr x => Sys2Proof.Machine.execBarArr x s
  | .barWait x => Sys2Proof.Machine.execBarWait x s
  | .barExp x => Sys2Proof.Machine.execBarExp x s
  | .barInval x => Sys2Proof.Machine.execBarInval x s
  | .rinit x => Sys2Proof.Machine.execRinit x s
  | .rpush x => Sys2Proof.Machine.execRpush x s
  | .rpop x => Sys2Proof.Machine.execRpop x s
  | .rpeek x => Sys2Proof.Machine.execRpeek x s
  | .cpyG2s x => Sys2Proof.Machine.execCpyG2s x s
  | .cpyS2g x => Sys2Proof.Machine.execCpyS2g x s
  | .cpyG2b x => Sys2Proof.Machine.execCpyG2b x s
  | .cpyS2b x => Sys2Proof.Machine.execCpyS2b x s
  | .cpyChain x => Sys2Proof.Machine.execCpyChain x s
  | .cpyWin x => Sys2Proof.Machine.execCpyWin x s
  | .cpyFill x => Sys2Proof.Machine.execCpyFill x s
  | .cpyScrub x => Sys2Proof.Machine.execCpyScrub x s
  | .cpyxG2s x => Sys2Proof.Machine.execCpyxG2s x s
  | .cpyxG2b x => Sys2Proof.Machine.execCpyxG2b x s
  | .cpyxS2b x => Sys2Proof.Machine.execCpyxS2b x s
  | .cpyxChain x => Sys2Proof.Machine.execCpyxChain x s
  | .mxmma x => Sys2Proof.Machine.execMxmma x s
  | .mxz x => Sys2Proof.Machine.execMxz x s
  | .mxld x => Sys2Proof.Machine.execMxld x s
  | .mxst x => Sys2Proof.Machine.execMxst x s
  | .mxstat x => Sys2Proof.Machine.execMxstat x s
  | .tsbind x => Sys2Proof.Machine.execTsbind x s
  | .tsrel x => Sys2Proof.Machine.execTsrel x s
  | .tsq x => Sys2Proof.Machine.execTsq x s
  | .lnch x => Sys2Proof.Machine.execLnch x s
  | .post x => Sys2Proof.Machine.execPost x s
  | .postOr x => Sys2Proof.Machine.execPostOr x s
  | .postMaxz x => Sys2Proof.Machine.execPostMaxz x s
  | .wkpt x => Sys2Proof.Machine.execWkpt x s
  | .rcmark x => Sys2Proof.Machine.execRcmark x s
  | .assay x => Sys2Proof.Machine.execAssay x s
  | .illegalEncoding w => Sys2Proof.Machine.execIllegalEncoding w s
  | .logReplay k => Sys2Proof.Machine.execLogReplay k s
  | .gangDraw k => Sys2Proof.Machine.execGangDraw k s
  | .recordDrain k => Sys2Proof.Machine.execRecordDrain k s
  | .blockCreate wg => Sys2Proof.Machine.execBlockCreate wg s
  | .seatReclaim k => Sys2Proof.Machine.execSeatReclaim k s
  | .pendingResultWrite k ix => Sys2Proof.Machine.execPendingResultWrite k ix s
  | .overrun k => Sys2Proof.Machine.execOverrun k s
  | .barrierTimeout rid => Sys2Proof.Machine.execBarrierTimeout rid s
  | .gatherTimeout k => Sys2Proof.Machine.execGatherTimeout k s
  | .trapUnresolved ctx => Sys2Proof.Machine.execTrapUnresolved ctx s
  | .poolDeadlock ctx => Sys2Proof.Machine.execPoolDeadlock ctx s
  | .timerWake rid => Sys2Proof.Machine.execTimerWake rid s
  | .farRequest src => Sys2Proof.Machine.execFarRequest src s
  | .farReply id remote => Sys2Proof.Machine.execFarReply id remote s
  | .farAcknowledgement id remote => Sys2Proof.Machine.execFarAcknowledgement id remote s
  | .homeSliceRequest id => Sys2Proof.Machine.execHomeSliceRequest id s
  | .atomicPerform id => Sys2Proof.Machine.execAtomicPerform id s
  | .peerRequest id => Sys2Proof.Machine.execPeerRequest id s
  | .lineFill id => Sys2Proof.Machine.execLineFill id s
  | .tableWalkComplete cluster asid page => Sys2Proof.Machine.execTableWalkComplete cluster asid page s
  | .pageRequest ctx => Sys2Proof.Machine.execPageRequest ctx s
  | .copyJobStart wg q => Sys2Proof.Machine.execCopyJobStart wg q s
  | .copyPieceLand cmd => Sys2Proof.Machine.execCopyPieceLand cmd s
  | .chainReservation cmd => Sys2Proof.Machine.execChainReservation cmd s
  | .mxaCommandStart wg half => Sys2Proof.Machine.execMxaCommandStart wg half s
  | .mxaCommandComplete cmd => Sys2Proof.Machine.execMxaCommandComplete cmd s
  | .probeTokenSend wg q => Sys2Proof.Machine.execProbeTokenSend wg q s
  | .probeTokenReceive wg ix => Sys2Proof.Machine.execProbeTokenReceive wg ix s
  | .workgroupPlace launch => Sys2Proof.Machine.execWorkgroupPlace launch s
  | .workgroupStart wg => Sys2Proof.Machine.execWorkgroupStart wg s
  | .workgroupEnd wg => Sys2Proof.Machine.execWorkgroupEnd wg s
  | .workgroupMove wg dest => Sys2Proof.Machine.execWorkgroupMove wg dest s
  | .moveComplete wg => Sys2Proof.Machine.execMoveComplete wg s
  | .reconPointWrite wg x y => Sys2Proof.Machine.execReconPointWrite wg x y s
  | .sampleCompare wg ix => Sys2Proof.Machine.execSampleCompare wg ix s
  | .updateInstant launch => Sys2Proof.Machine.execUpdateInstant launch s
  | .launchEnd launch => Sys2Proof.Machine.execLaunchEnd launch s
  | .hostRingEntry ctx q => Sys2Proof.Machine.execHostRingEntry ctx q s
  | .coalescingTimeout ctx q => Sys2Proof.Machine.execCoalescingTimeout ctx q s
  | .graphSuccessor ctx q => Sys2Proof.Machine.execGraphSuccessor ctx q s
  | .packetIntake ctx q => Sys2Proof.Machine.execPacketIntake ctx q s
  | .submitDoorbell ctx q value => Sys2Proof.Machine.execSubmitDoorbell ctx q value s
  | .hostRingDoorbell ctx q value => Sys2Proof.Machine.execHostRingDoorbell ctx q value s
  | .graphStart ctx q node => Sys2Proof.Machine.execGraphStart ctx q node s
  | .qcbStore ctx q off b => Sys2Proof.Machine.execQcbStore ctx q off b s
  | .registerWrite fn off value => Sys2Proof.Machine.execRegisterWrite fn off value s
  | .roodMode h rood split => Sys2Proof.Machine.execRoodMode h rood split s
  | .vdCreate h shape engines => Sys2Proof.Machine.execVdCreate h shape engines s
  | .vdDestroy h vd => Sys2Proof.Machine.execVdDestroy h vd s
  | .copyAssign h vd engines => Sys2Proof.Machine.execCopyAssign h vd engines s
  | .tenantCreate h publicKey => Sys2Proof.Machine.execTenantCreate h publicKey s
  | .charterInstall h bytes => Sys2Proof.Machine.execCharterInstall h bytes s
  | .tenantTeardown h => Sys2Proof.Machine.execTenantTeardown h s
  | .ctxCreate h vd prHandle prOffset prLog => Sys2Proof.Machine.execCtxCreate h vd prHandle prOffset prLog s
  | .ctxDestroy h => Sys2Proof.Machine.execCtxDestroy h s
  | .queueBind h qcb => Sys2Proof.Machine.execQueueBind h qcb s
  | .queueUnbind h q => Sys2Proof.Machine.execQueueUnbind h q s
  | .queueReload h q => Sys2Proof.Machine.execQueueReload h q s
  | .unfreeze h m => Sys2Proof.Machine.execUnfreeze h m s
  | .kill h => Sys2Proof.Machine.execKill h s
  | .frameGrant h k src => Sys2Proof.Machine.execFrameGrant h k src s
  | .frameRevoke h handle => Sys2Proof.Machine.execFrameRevoke h handle s
  | .cmdMap h handle off count => Sys2Proof.Machine.execCmdMap h handle off count s
  | .unmap h handle off first count => Sys2Proof.Machine.execUnmap h handle off first count s
  | .violate h va => Sys2Proof.Machine.execViolate h va s
  | .migrateOut h va => Sys2Proof.Machine.execMigrateOut h va s
  | .preempt h dest => Sys2Proof.Machine.execPreempt h dest s
  | .resume h image => Sys2Proof.Machine.execResume h image s
  | .evict h => Sys2Proof.Machine.execEvict h s
  | .imagePlace h vd cls image loc addr => Sys2Proof.Machine.execImagePlace h vd cls image loc addr s
  | .moduleLoad h spf => Sys2Proof.Machine.execModuleLoad h spf s
  | .moduleUnload h handle => Sys2Proof.Machine.execModuleUnload h handle s
  | .ringSet h n desc => Sys2Proof.Machine.execRingSet h n desc s
  | .ringClear h n => Sys2Proof.Machine.execRingClear h n s
  | .attach h breakpoints => Sys2Proof.Machine.execAttach h breakpoints s
  | .detach h => Sys2Proof.Machine.execDetach h s
  | .release h rid => Sys2Proof.Machine.execRelease h rid s
  | .stepCmd h rid => Sys2Proof.Machine.execStepCmd h rid s
  | .discard h rid => Sys2Proof.Machine.execDiscard h rid s
  | .powerSet h vd g w => Sys2Proof.Machine.execPowerSet h vd g w s
  | .streamSet h o => Sys2Proof.Machine.execStreamSet h o s
  | .streamClear h handle => Sys2Proof.Machine.execStreamClear h handle s
  | .traceSet h o => Sys2Proof.Machine.execTraceSet h o s
  | .sampleSet h n => Sys2Proof.Machine.execSampleSet h n s
  | .dump h handle off len word => Sys2Proof.Machine.execDump h handle off len word s
  | .record h handle off len q => Sys2Proof.Machine.execRecord h handle off len q s
  | .replay h handle off q => Sys2Proof.Machine.execReplay h handle off q s
  | .coeffRead h target off => Sys2Proof.Machine.execCoeffRead h target off s
  | .countRead h target => Sys2Proof.Machine.execCountRead h target s
  | .accountRead h handle off account => Sys2Proof.Machine.execAccountRead h handle off account s
  | .deferredChangeApply ctx => Sys2Proof.Machine.execDeferredChangeApply ctx s
  | .migrationCopyComplete ctx va => Sys2Proof.Machine.execMigrationCopyComplete ctx va s
  | .migrationPinExpiry ctx va => Sys2Proof.Machine.execMigrationPinExpiry ctx va s
  | .cxlMemAccess x => Sys2Proof.Machine.execCxlMemAccess x s
  | .quarantineScrubComplete frame => Sys2Proof.Machine.execQuarantineScrubComplete frame s
  | .contextStopComplete ctx => Sys2Proof.Machine.execContextStopComplete ctx s
  | .imageClose ctx => Sys2Proof.Machine.execImageClose ctx s
  | .spanStart readings => Sys2Proof.Machine.execSpanStart readings s
  | .allowanceExhausted vd => Sys2Proof.Machine.execAllowanceExhausted vd s
  | .monitorRead r => Sys2Proof.Machine.execMonitorRead r s
  | .inputUndervoltage millivolts microseconds => Sys2Proof.Machine.execInputUndervoltage millivolts microseconds s
  | .uncorrectableError site => Sys2Proof.Machine.execUncorrectableError site s
  | .correctableError rood st sub => Sys2Proof.Machine.execCorrectableError rood st sub s
  | .patrolScrub rood st sub corrected => Sys2Proof.Machine.execPatrolScrub rood st sub corrected s
  | .flitCrcFailure link msg => Sys2Proof.Machine.execFlitCrcFailure link msg s
  | .linkRetrainComplete link => Sys2Proof.Machine.execLinkRetrainComplete link s
  | .retirement us => Sys2Proof.Machine.execRetirement us s
  | .countCommit => Sys2Proof.Machine.execCountCommit s
  | .baseTick => Sys2Proof.Machine.execBaseTick s
  | .tickReceive n => Sys2Proof.Machine.execTickReceive n s
  | .sampleTick ctx => Sys2Proof.Machine.execSampleTick ctx s
  | .replayDivergence ctx reason ordinal => Sys2Proof.Machine.execReplayDivergence ctx reason ordinal s
  | .coldReset => Sys2Proof.Machine.execColdReset s
  | .warmReset => Sys2Proof.Machine.execWarmReset s
  | .bootStageComplete err peers => Sys2Proof.Machine.execBootStageComplete err peers s
  | .functionLevelReset fn => Sys2Proof.Machine.execFunctionLevelReset fn s
  | .domainWordWrite w => Sys2Proof.Machine.execDomainWordWrite w s
  | .frameReceive f => Sys2Proof.Machine.execFrameReceive f s
  | .hostTransmit f => Sys2Proof.Machine.execHostTransmit f s
  | .ptpMessage m offset => Sys2Proof.Machine.execPtpMessage m offset s
  | .ptpLock => Sys2Proof.Machine.execPtpLock s
  | .ptpSyncTimeout => Sys2Proof.Machine.execPtpSyncTimeout s
  | .spdmVersion vd => Sys2Proof.Machine.execSpdmVersion vd s
  | .spdmCapabilities vd => Sys2Proof.Machine.execSpdmCapabilities vd s
  | .spdmAlgorithms vd => Sys2Proof.Machine.execSpdmAlgorithms vd s
  | .spdmCertificate vd => Sys2Proof.Machine.execSpdmCertificate vd s
  | .spdmChallenge vd nonce => Sys2Proof.Machine.execSpdmChallenge vd nonce s
  | .spdmMeasurements vd nonce => Sys2Proof.Machine.execSpdmMeasurements vd nonce s
  | .spdmKeyExchange vd share => Sys2Proof.Machine.execSpdmKeyExchange vd share s
  | .spdmFinish vd proof => Sys2Proof.Machine.execSpdmFinish vd proof s
  | .tdispMessage vd m => Sys2Proof.Machine.execTdispMessage vd m s
  | .moduleTranslationComplete handle linked native => Sys2Proof.Machine.execModuleTranslationComplete handle linked native s
  | .routeLost dev => Sys2Proof.Machine.execRouteLost dev s
  | .windowAccess id => Sys2Proof.Machine.execWindowAccess id s
  | .sliceMissFill id => Sys2Proof.Machine.execSliceMissFill id s
  | .writeBackAcknowledgement id => Sys2Proof.Machine.execWriteBackAcknowledgement id s

end Sys2Proof.Machine
end

