-- ==== Sys2Proof/Machine/Issue.lean ====
section
/-! DEFINITION. One issue of a gang slot: what is looked at before the instruction at the PC executes (replay of a log,
late traps, steps, filing, breakpoints, the watchdog, stops: R44, R80, R159, R212, R348, R355, R358, R359, R421, R466),
the fetch, and what passes with every step: time, and whose turn is next (R46, R255, R270, R430). -/
namespace Sys2Proof.Machine

/-! ### The operand log (R44) -/

/-- The v registers a logged instruction writes. -/
def logDests (e : LogEntry) : List (BitVec 6) :=
  match decode32 e.word with
  | .ok i => regsWritten i
  | .error _ => []

/-! ### What stops a thread before an instruction -/

/-- The word at a PC has the switch marker (R77). -/
def switchBitAt (s : State) (t : Thread) : Bool :=
  match imageOf s t.launch with
  | some img => match img.code[t.pc]? with
    | some p => p.getLsbD 0 && p.getLsbD 1
    | none => false
  | none => false

/-- A thread with a log stops before the instruction (R44). -/
def logStops (s : State) (i : Instr) (t : Thread) : Bool :=
  match t.log with
  | none => false
  | some e =>
    stopsLog i || (touched i).any (fun r => (logDests e).contains r) || switchBitAt s t

/-- Engine instructions, those of majors 54 to 60, `tsq` and `exit`, before which a late trap is delivered (R212). -/
def deliversLate (i : Instr) : Bool :=
  (match majorOf i with | some m => decide (54 ≤ m) && decide (m ≤ 60) | none => false) ||
    match i with
    | .tsq _ => true
    | .exit _ => true
    | _ => false

/-- A thread stands at a safe point (R80). -/
def atStop (s : State) (t : Thread) : Bool := (safeOrdinal s t t.pc).isSome

/-- The instruction of the gang has begun and waits to be carried on: it has sent messages, or some of its jobs have
entered a queue. Nothing is looked at again before it. -/
def midway (s : State) (ts : List Thread) : Bool :=
  ts.any fun t => t.fl.entered || (ownReqs s t).any fun r =>
    match r.kind with
    | .bar _ _ _ => true
    | .packet _ _ => true
    | _ => false

/-- The instruction at the threads' PC, where there is a legal one. -/
def nextInstr (s : State) (t : Thread) : Option Instr :=
  match instrAt s t with
  | .ok (i, _) => some i
  | .error _ => none

/-- A breakpoint of the session is set at the safe point a thread stands at, and it is tested (R358, R359). -/
def breaks (s : State) (t : Thread) : Bool :=
  !t.fl.skipBreak && match findCtx s (ctxOfWg s t.wg), safeOrdinal s t t.pc with
    | some c, some o => c.session && c.breakpoints.contains o
    | _, _ => false

/-- A thread's segment ends at the next safe point: a data error or a seat reclaim (R266, R350). -/
def mustEnd (t : Thread) : Bool := t.fl.dstop || t.fl.reclaim

/-- The workgroup of a gang is stopped (R420). -/
def gangStops (s : State) (ts : List Thread) : Bool :=
  match ts with
  | [] => false
  | t :: _ => !wgGoes s t.wg

/-- End the segments of threads of the gang at their PC with a wake code, or 8 where a stop of R44 is no safe point. -/
def endThreads (s : State) (ts : List Thread) (wake : Nat) : State :=
  settleTurn (foldList (fun s t => endSegment s t (endAt s t wake 0 false)) (traceEnds s ts wake) ts)

/-! ### Traps found before the instruction -/

/-- Deliver the first late trap of the lowest seat that has one (R212). -/
def takeLate (s : State) (ts : List Thread) : Option State :=
  match ts.find? fun t => !t.late.isEmpty with
  | none => none
  | some t =>
    match t.late with
    | [] => none
    | x :: xs => some (takeTrap s [{ t with late := xs }] x.cause 0 x.detail x.word)

/-- Threads that have executed the one instruction of a step (R359). -/
def stepped (t : Thread) : Bool := t.fl.step && decide (1 ≤ t.path.retired)

/-- A late trap of a gang is delivered here: at a safe point, before an instruction that R212 names, or, for a thread whose record has
just drained, before its first instruction. -/
def lateHere (s : State) (ts : List Thread) (i : Option Instr) : Bool :=
  ts.any (atStop s) || (match i with | some i => deliversLate i | none => false) ||
    ts.any fun t => !t.late.isEmpty && decide (t.path.retired = 0)

/-- The checks of a gang at its PC, in this order: late traps, the STEP trap, filing beside a waiting fragment,
breakpoints, the watchdog, and the ends of segments that wait for a safe point. At a safe point of a stopped workgroup,
after the STEP trap and the filing, every segment ends with wake code 0, and a late trap stays with its thread (R421). None
where nothing acts. -/
def preIssue (s : State) (k : SlotKey) (ts : List Thread) (i : Option Instr) : Option State :=
  let stop := ts.any (atStop s)
  let stopping := stop && gangStops s ts
  let late := if !stopping && lateHere s ts i then takeLate s ts else none
  match late, ts.filter stepped with
  | some s1, _ => some s1
  | none, u :: us => some (takeTrap s (u :: us) 7 0 0 (wordAt s u))
  | none, [] =>
    if !stop then none
    else if s.threads.any (inWaiting k) then some (releaseSlot s k)
    else if stopping then some (endThreads s ts 0)
    else
      match ts.filter (breaks s), overrunOf s k, ts.filter mustEnd with
      | u :: us, _, _ => some (haltThreads s (u :: us))
      | [], u :: us, _ => some (takeTrap s (u :: us) 11 0 (BitVec.ofNat 64 u.path.retired) (wordAt s u))
      | [], [], u :: us => some (endThreads s (u :: us) 0)
      | [], [], [] => none

/-- The stops of R44: a fault record at a safe point; where there is none, the trap NOSAFE. -/
def logStop (s : State) (ts : List Thread) (i : Instr) : Option State :=
  match ts.filter (logStops s i) with
  | [] => none
  | u :: us =>
    if atStop s u then some (endThreads s (u :: us) 9)
    else some (takeTrap s (u :: us) 8 0 0 (wordOf i))

/-! ### Under a replay (R466) -/

/-- How the log ends a thread's segment at the safe point where it stands, if it does: the wake code. -/
def endsHere (s : State) (t : Thread) : Option Nat :=
  match findWg s t.wg, safeOrdinal s t t.pc with
  | some g, some o =>
    match loggedEnd s t.launch g.wgid t.tid with
    | some (ord, wake, passed) =>
      if ord = o ∧ passed = t.path.passed ∧ wake ≠ 10 ∧ wake ≠ 11 then some wake else none
    | none => none
  | _, _ => none

/-- A thread of a later state has ended its segment with a wake code. -/
def endedWith (s : State) (t : Thread) (wake : Nat) : Bool :=
  (s.records.any fun r => decide (r.th.wg = t.wg) && decide (r.th.tid = t.tid) && decide (r.fin.wake = wake)) ||
    match findThread s t.wg t.tid with
    | some u => match u.place with
      | .held e => decide (e.wake = wake)
      | .ending (.segment e) _ => decide (e.wake = wake)
      | _ => false
    | none => false

/-- The order entries of the operations at its home cluster's SRAM that a thread performed between two states. -/
def sramOps (s s1 : State) (t : Thread) : List Nat :=
  match findWg s t.wg, ownerOf s1 t.wg t.tid with
  | some g, some u =>
    (List.range (u.path.syncOps - t.path.syncOps)).map fun j =>
      opEntry g { t with path := { t.path with syncOps := t.path.syncOps + j } }
  | _, _ => []

/-- Operations are the next ones of a list from an entry on. -/
def opsDue (s : State) (r : Replaying) (ident : Nat) : Nat → List Nat → Bool
  | _, [] => true
  | n, x :: xs => decide (replayEntry s r true ident n = some x) && opsDue s r ident (n + 1) xs

/-- An issue under a replay: a thread whose logged segment end does not recur is ended with wake code 0; operations at
the home cluster's SRAM that are not due make the gang wait; otherwise the issue stands. -/
def replayIssue (s : State) (ts : List Thread) (r : Replaying) (o : Host.Outcome State Fault Refusal) :
    Host.Outcome State Fault Refusal :=
  match o with
  | .next s1 =>
    match ts.filter fun t => match endsHere s t with | some w => !endedWith s1 t w | none => false with
    | u :: us => .next (endThreads s (u :: us) 0)
    | [] =>
      let ops := ts.flatMap (sramOps s s1)
      match ops, ts, ops.head?.bind (orderList s r) with
      | _ :: _, t :: _, some n =>
        if opsDue s r n (replayNext r true n) ops then
          .next (replayAdvance s1 t.launch true n (replayNext r true n + ops.length))
        else .next s
      | _ :: _, _, _ => .next s
      | [], _, _ => .next s1
  | x => x

/-! ### The issue -/

/-- The time of a launch's first instruction (R381). -/
def markFirst (s : State) (launch : Nat) : State :=
  updLaunch s launch fun l => { l with firstAt := if l.firstAt.isSome then l.firstAt else some s.ptp.time }

/-- The word a trap record gives for code that is no instruction; past the end of the code there is none (R74). -/
def badWord (s : State) (t : Thread) : BitVec 32 :=
  match imageOf s t.launch with
  | some img => if (img.code[t.pc]?).isSome then wordAt s t else Config.freeWord s.freeCount
  | none => Config.freeWord s.freeCount

/-- A uniform instruction: one cycle for the gang (R255, R484). -/
def isUniform (i : Instr) : Bool :=
  match i with
  | .mov x => (match x.b with | .reg _ => false | _ => true)
  | .movi _ => true
  | .movl _ => true
  | _ => false

/-- Passes that depend on the width: n at x2, one at x1. -/
def byWidth (w : Width) (n : Nat) : Nat := if w = .x2 then n else 1

/-- Gang passes of an instruction (R104, R129): one for every form not named. -/
def gangPasses (i : Instr) : Nat :=
  match i with
  | .imulLo x => byWidth x.w 2
  | .imulHis x => byWidth x.w 2
  | .imulHiz x => byWidth x.w 2
  | .imad x => byWidth x.wd 2
  | .fmin x => byWidth x.w 2
  | .fmax x => byWidth x.w 2
  | .fminNan x => byWidth x.w 2
  | .fmaxNan x => byWidth x.w 2
  | .fabs x => byWidth x.w 2
  | .fneg x => byWidth x.w 2
  | .fcsgn x => byWidth x.w 2
  | .fclass x => byWidth x.w 2
  | .fcmp x => byWidth x.w 2
  | .fldexp x => byWidth x.w 2
  | .frndRn x => byWidth x.w 2
  | .frndRz x => byWidth x.w 2
  | .frndRd x => byWidth x.w 2
  | .frndRu x => byWidth x.w 2
  | .fexpof x => byWidth x.w 2
  | .ffract x => byWidth x.w 2
  | .hadd x => byWidth x.w 2
  | .hsub x => byWidth x.w 2
  | .hmul x => byWidth x.w 2
  | .hfma x => byWidth x.w 2
  | .hmin x => byWidth x.w 2
  | .hmax x => byWidth x.w 2
  | .hcmp x => byWidth x.w 2
  | .habs x => byWidth x.w 2
  | .hneg x => byWidth x.w 2
  | .cvtDirect x => byWidth x.w 2
  | .bfpdq _ => 2
  | .bfpq _ => 3
  | .fadd x => byWidth x.w 4
  | .fsub x => byWidth x.w 4
  | .fmul x => byWidth x.w 4
  | .ffma x => byWidth x.w 4
  | .fnma x => byWidth x.w 4
  | .frcp x => byWidth x.w 4
  | .frsq x => byWidth x.w 4
  | .fsqrt x => byWidth x.w 4
  | _ => 1

/-- Cycles that the passes of a fragment take at the least: one a pair in each, or one for a uniform instruction (R255). -/
def passSpan (s : State) (t : Thread) : Nat :=
  match nextInstr s t with
  | some i => if isUniform i then 1 else gangPasses i * (passPairs s t).length
  | none => (passPairs s t).length

/-- The state an issue begins in: the launch has begun, safe points reached are counted as passed, and the pass takes its
cycles (R180, R255, R381). -/
def issueState (s : State) (k : SlotKey) : State :=
  match s.threads.filter (inRunning k) with
  | [] => s
  | t :: _ =>
    let s0 := markFirst { s with turn := some k, passCycles := passSpan s t } t.launch
    if midway s0 (actives s0) then s0 else passStops s0 (actives s0)

/-- Run the instruction at the PC of the gang, under its replay where there is one. -/
def runInstr (s : State) (t : Thread) (i : Instr) : Host.Outcome State Fault Refusal :=
  match replayOf s t.launch, findWg s t.wg with
  | some r, some _ => if midway s (actives s) then exec i s else replayIssue s (actives s) r (exec i s)
  | _, _ => exec i s

/-- What an issue does beside running the instruction at the PC. The stall of a gang that a check acts on ends. -/
def issueChecks (s0 : State) (k : SlotKey) (ts : List Thread) (i : Option Instr) : Option State :=
  let s := clearStall s0
  if midway s ts then none else preIssue s k ts i

/-- How a segment of a later state has ended, of a thread in its seat. -/
def seatEnd (t : Thread) : Option SegEnd :=
  match t.place with
  | .held e => some e
  | .ending (.segment e) _ => some e
  | _ => none

/-- A thread whose log is not empty has, in a later state, ended its segment with a trap extension, which has no place for a log
(R262). -/
def losesLog (s1 : State) (t : Thread) : Bool :=
  t.log.isSome && ((s1.records.any fun r => decide (r.th.wg = t.wg) && decide (r.th.tid = t.tid) && decide (r.fin.ext = 3)) ||
    match (findThread s1 t.wg t.tid).bind seatEnd with
    | some e => decide (e.ext = 3)
    | none => false)

/-- A trap, breakpoint or step that meets a thread whose log is not empty waits until the log has been replayed, since every older
instruction completes first (R90, R348). DEDUCED (log 87). -/
def afterLogs (s : State) (ts : List Thread) (o : Host.Outcome State Fault Refusal) : Host.Outcome State Fault Refusal :=
  match o with
  | .next s1 =>
    match ts.filter (losesLog s1) with
    | [] => .next s1
    | u :: us => .next (foldList (fun s t => setThread s { t with fl := { t.fl with replay := true } }) s (u :: us))
  | x => x

/-- One issue of a slot (R158, R255): replays first, then the checks, then the instruction. -/
def issueSlot (k : SlotKey) (s : State) : Host.Outcome State Fault Refusal :=
  let s0 := issueState s k
  match actives s0 with
  | [] => .next (settleSlot s k)
  | t :: ts =>
    if (t :: ts).any fun t => (replayDueOf t).isSome then execLogReplay k s0
    else
      match issueChecks s0 k (t :: ts) (nextInstr s0 t), nextInstr s0 t with
      | some s1, _ => afterLogs s0 (t :: ts) (.next s1)
      | none, some i =>
        match (if midway s0 (t :: ts) then none else logStop (clearStall s0) (t :: ts) i) with
        | some s1 => .next s1
        | none => afterLogs s0 (t :: ts) (runInstr s0 t i)
      | none, none => afterLogs s0 (t :: ts) (execIllegalEncoding (badWord s0 t) (bumpFree s0))

/-- The issue of the slot whose turn it is. -/
def issue (s : State) : Host.Outcome State Fault Refusal :=
  match s.turn with
  | some k => issueSlot k s
  | none => .next s

/-! ### What passes with a step -/

/-- The next issue of a slot delivers a trap, which no allowance holds back: a late trap, that of a step, that of the watchdog (R212,
R355, R359, R431). -/
def trapDue (s : State) (k : SlotKey) : Bool :=
  match s.threads.filter (inRunning k) with
  | [] => false
  | t :: ts =>
    (((t :: ts).any fun t => !t.late.isEmpty) && lateHere s (t :: ts) (nextInstr s t)) || (t :: ts).any stepped ||
      ((t :: ts).any (atStop s) && !(overrunOf s k).isEmpty)

/-- The gang of a slot does not stand stalled, or every queue that it stands stalled at has a place for it now, or a check acts on it
at its PC (R211, R255). -/
def stallOver (s : State) (k : SlotKey) (g : Workgroup) (ts : List Thread) : Bool :=
  match (findSlot s k).bind Slot.stall with
  | none => true
  | some y =>
    (y.1.all fun q => !decide (entryTo { s with turn := some k } g q = .full)) ||
      (preIssue { s with turn := some k } k ts none).isSome

/-- A slot may issue: its running fragment has threads, none is parked, it does not stand stalled, and its virtual device is not
throttled while it need not stop and no trap is due (R78, R255, R431). -/
def issuable (s : State) (k : SlotKey) : Bool :=
  match s.threads.filter (inRunning k) with
  | [] => false
  | t :: ts =>
    ((t :: ts).all fun t => !t.fl.park && t.waits.isEmpty) &&
      match findWg s t.wg with
      | some g =>
        stallOver s k g (t :: ts) &&
          (decide (g.stop ≠ .none) || trapDue s k || (match vdOfWg s g with | some v => !throttledVd v | none => true))
      | none => false

/-- The other slot of a temporal lane. -/
def mateOf (k : SlotKey) : SlotKey := { k with slot := if k.slot % 2 = 0 then k.slot + 1 else k.slot - 1 }

/-- The slots one of which issues next: of two that can issue in a lane, not the one that issued last (R255). -/
def readySlots (s : State) : List SlotKey :=
  (s.slots.map Slot.key).filter fun k =>
    issuable s k && !(((coreState s (slotCore k)).lastPass).contains k.slot && issuable s (mateOf k))

/-- The slot has had its pass. -/
def notePass (s : State) (k : SlotKey) : State :=
  let c := coreState s (slotCore k)
  setCore s { c with lastPass := k.slot :: c.lastPass.filter fun n => !decide (n / 2 = k.slot / 2) }

/-- The next turn: any ready slot (log 1). -/
def chooseTurn (s : State) : Option SlotKey :=
  let ks := readySlots s
  if ks.isEmpty then none else ks[Config.choose s.freeCount ks.length % ks.length]?

/-- Cores run threads of a launch. -/
def launchRuns (s : State) (launch : Nat) : Bool := s.threads.any fun t => decide (t.launch = launch)

/-- The count of R270 for a context: since when its conditions have held, the cycles of a stop left out; it rests while the
context, or one of its workgroups, is stopped (R480). -/
def trackDeadlock (s : State) (n : Nat) (c : Context) : Context :=
  if deadlockRests s c then { c with deadlock := c.deadlock.map (· + n) }
  else { c with deadlock := if deadlockHolds s c.id then some (c.deadlock.getD s.clock) else none }

/-- The wait of a due entry of R466 counts only while nothing of the launch runs and its context is not stopped. -/
def trackReplay (s : State) (r : Replaying) : Replaying :=
  let stopped := match findCtx s r.ctx with | some c => decide (c.stop ≠ .none) | none => false
  if stopped || (match r.launch with | some l => launchRuns s l | none => true) then { r with idleSince := s.clock } else r

/-- Seats and array halves that a launch has in a rood (R221, R433). -/
def heldIn (s : State) (l : Launch) (rood : Nat) : Nat :=
  (s.threads.filter fun t => decide (t.launch = l.id) && decide (roodOf t.seat.cluster = rood)).length +
    sumNat ((s.wgs.filter fun g => decide (g.launch = l.id) && decide (g.phase = .running) && decide (roodOf g.home.cluster = rood)).map
      fun g => if !g.hasHalf then 0 else if l.lr.flags.getLsbD 4 then 2 else 1)

/-- A launch's seat-cycles and matrix-half-cycles go on by some cycles (R433). -/
def trackBusy (s : State) (n : Nat) (l : Launch) : Launch :=
  let roods := dedup (l.busy.map Prod.fst ++
    (s.wgs.filter fun g => decide (g.launch = l.id)).map fun g => roodOf g.home.cluster)
  { l with busy := if n = 0 then l.busy else roods.map fun r => (r, busyIn l.busy r + n * heldIn s l r) }

/-- The meters charge a virtual device what it spends, an open number of grains a step, and its throttled cycles go on
(R431, R456). -/
def trackPower (free n : Nat) (v : VDev) : VDev :=
  { v with
    spent := v.spent + Config.grains free v.num
    throttled := if throttledVd v then v.throttled + n else v.throttled }

/-- A gang of a workgroup stands stalled at a full queue. -/
def wgStalls (s : State) (wg : Nat) : Bool :=
  s.slots.any fun x => x.stall.isSome && s.threads.any fun t => decide (t.wg = wg) && inRunning x.key t

/-- The cycles for which a gang of a workgroup stands stalled are counted, once however many gangs do (R281). -/
def trackStall (s : State) (n : Nat) (g : Workgroup) : Workgroup :=
  if wgStalls s g.id then { g with counts := { g.counts with fullstall := satAdd32 g.counts.fullstall n } } else g

/-- An entry of the module error log goes to the host log when the window of its events has passed (R442, R444). -/
def windowOver (s : State) (e : ErrEntry) : Bool := decide (e.start + logWindow ≤ s.clock)

/-- What n cycles add to the counters of a running workgroup's home that only the time of an access decides (R305, R324): groups with a
conflict and their extra cycles, which together take no more than the cycles there are, cycles in which an injection was held, and
those in which chain reservations waited. -/
def timedCounts (s : State) (free n : Nat) (g : Workgroup) : List (Nat × Nat) :=
  let groups := Config.timed 8 free g.id % (n / 2 + 1)
  let waits := s.chains.any fun x => x.waiting && decide (x.cluster = g.home.cluster) && s.cmds.any fun c =>
    decide (c.id = x.cmd) && (match findWg s c.wg with | some h => decide (h.ctx = g.ctx) | none => false)
  [(8, groups),
    (9, if groups = 0 then 0 else groups + Config.timed 9 free g.id % (n + 1 - 2 * groups)),
    (13, Config.timed 13 free g.id % (n + 1)), (14, if waits then n else 0)]

/-- Those counters go on (R323, R324). -/
def trackCounters (free n : Nat) (s : State) : State :=
  foldList (fun s g => (timedCounts s free n g).foldl (fun s x => bumpCounter s g.ctx g.home x.1 x.2) s) s
    (s.wgs.filter fun g => decide (g.phase = .running))

/-- Cycles of the step: every clock goes on, and what waits on time is counted (R46, R270, R430, R433, R444, R466). -/
def passTime (s : State) : State :=
  let n := s.passCycles + Config.cycles s.freeCount
  let s1 := trackCounters s.freeCount n { s with clock := s.clock + n, ptp := { s.ptp with time := ptpAfter s n }, freeCount := s.freeCount + 1, passCycles := 0 }
  { s1 with
    launches := s1.launches.map (trackBusy s1 n)
    contexts := s1.contexts.map (trackDeadlock s1 n)
    wgs := if s1.slots.any fun x => x.stall.isSome then s1.wgs.map (trackStall s1 n) else s1.wgs
    replaying := s1.replaying.map (trackReplay s1)
    vds := s1.vds.map (trackPower s.freeCount n)
    errlog := s1.errlog.filter fun e => !windowOver s1 e
    out := ((s1.errlog.filter (windowOver s1)).map fun e => .log (.error e.bytes)).reverse ++ s1.out }

/-- After a pass of a slot, or a step of something else: time passes and the next turn is chosen. -/
def advance (k : Option SlotKey) (s : State) : State :=
  let s1 := passTime (match k with | some k => notePass s k | none => s)
  { s1 with turn := chooseTurn s1 }

/-- An outcome with what passes after it. -/
def thenAdvance (k : Option SlotKey) (o : Host.Outcome State Fault Refusal) : Host.Outcome State Fault Refusal :=
  match o with
  | .next s => .next (advance k s)
  | .fault f => .fault f
  | .refused r => .refused r

/-! ### Steps of everything else -/

/-- A row with a word cannot stand on the agenda. -/
def isEvent (i : Instr) : Bool := (encode i).isNone

/-- A module reset. -/
def isReset (i : Instr) : Bool :=
  match i with
  | .coldReset => true
  | .warmReset => true
  | .functionLevelReset none => true
  | _ => false

/-- A step of the agenda. A module that has tripped stands still until its next reset (R450). -/
def runEvent (i : Instr) (s : State) : Host.Outcome State Fault Refusal :=
  if isEvent i then if s.boot.stage = 0 ∧ isReset i = false then .next s else exec i s else .fault .notAnEvent

end Sys2Proof.Machine
end

