-- ==== Sys2Proof/Machine/Loaded.lean ====
section
/-! DEFINITION. A machine that stands before one given instruction: what the load of a module, the acceptance of a
launch and the placing, creating and drawing of one thread leave (log 7). It stands for those steps; none of them is
taken by a reset. -/
namespace Sys2Proof.Machine

/-- Settings of a queue that give nothing (log 7). -/
def plainConf : QueueConf where
  ring := 0
  conf := 0
  ctxWord := 0
  poolBase := 0
  poolLimit := 1024
  trapLog := 10
  trapBase := 0
  counterPage := 2 ^ 51
  hostRing := 0
  coalesce := 0
  vector := 0
  nodes := 0
  reservedZero := true

/-- A launch record of one workgroup of one thread; its SRAM plan is all FIFO and scratch banks of zero bytes. -/
def plainRecord (module : Nat) : LaunchRec where
  module := module
  entry := 0
  flags := 0
  grid := [1, 1, 1]
  size := [1, 1, 1]
  roles := 0
  plan := 0
  nb := 0
  completion := 0
  result := 0
  k := []
  f := List.replicate 8 0
  cover := ⟨0, 0, 0, 0, [], 0, 0, 0, 0⟩
  deadline := 0
  cls := 1
  charter := 0
  account := 0
  ext := 0
  regionCount := 0
  regions := []
  reservedZero := true

/-- A running launch of that record. -/
def plainLaunch (id : Nat) : Launch where
  id := id
  ctx := id
  queue := 0
  conf := plainConf
  headAt := 0
  packet := ⟨0, 0, 0, 0, 0⟩
  node := none
  lr := plainRecord id
  phase := .running
  order := id
  killed := none
  abortCode := 0
  acceptedAt := 0
  firstAt := none
  full := true
  imax := 0
  rung := 0
  placed := 1
  ended := 0
  counted := 0
  instants := 0
  samples := []
  counts := ⟨⟨0, 0, 0, 0, 0⟩, 0, 0, 0, 0, 0, 0, 0, 0, 0, 0, 0, 0, 0, 0⟩
  heldPackets := []
  dyn := 0
  stat := 0
  claims := []
  replay := none
  threadsStarted := true
  far := true
  busy := []
  retired := []
  instantAt := none

/-- Its workgroup at home cluster 0, all blocks created. -/
def plainWg (id : Nat) : Workgroup where
  id := id
  launch := id
  ctx := id
  wgid := 0
  home := ⟨0, 0⟩
  phase := .running
  stop := .none
  rung := 0
  hasHalf := true
  k := Vector.replicate 32 0
  guards := Vector.replicate 16 .idle
  scratch := []
  rings := []
  btier := []
  tiles := []
  rowNan := []
  handles := []
  blocks := 1
  exited := []
  counts := ⟨0, 0, 0, 0, 0⟩
  cover := ⟨0, 1, [], [], [], false, false, 0, false, []⟩
  probes := []
  queues := []
  lateTraps := []
  heldTraps := []
  vcluster := 0
  placedAt := 0
  started := true

/-- The module of a run of code with one kernel. -/
def plainImage (code : List Parcel) : ModuleImage :=
  ⟨code, [⟨0, code.length, false, none, none, none, [], [], [], [], [], none, false⟩], [], []⟩

/-- The slot that issues. -/
def firstSlot : SlotKey := ⟨0, 0, 0⟩

/-- A role that may issue what the code holds. -/
def roleFor (code : List Parcel) : BitVec 2 :=
  match decode code with
  | .ok (i, _) =>
    if rolePermits roleVector i then roleVector else if rolePermits roleCopy i then roleCopy else roleMatrix
  | .error _ => roleVector

/-- The one thread, drawn into slot 0 of core 0. -/
def plainThread (id : Nat) (role : BitVec 2) : Thread :=
  { newThread ⟨0, 0, 0⟩ (plainWg id) 0 role false 0 with place := .running 0, gang := parentId firstSlot 1 }

/-- The virtual device of rood 0, with the whole budget. -/
def plainVd (num : Nat) : VDev := { newVd num (.run 0 0) [0] with g := 22000, w := 1, allowance := 22000, tdisp := .run }

/-- A state with that code standing to be issued next, by the one thread of a new launch; whoever stood in the seat and
the slot makes room, and nothing else is due. -/
def withCode (s : State) (code : List Parcel) : State :=
  let n := s.nextId
  { s with
    due := []
    agenda := []
    turn := some firstSlot
    nextId := n + 1
    modules := ⟨n, 0, [], .ready, true, plainImage code, plainImage code⟩ :: s.modules
    vds := plainVd n :: s.vds
    contexts := newCtx n n n 0 0 0 :: s.contexts
    launches := plainLaunch n :: s.launches
    wgs := plainWg n :: s.wgs
    threads := plainThread n (roleFor code) ::
      s.threads.filter fun t => !decide (t.seat = ⟨0, 0, 0⟩) && !inRunning firstSlot t && !inWaiting firstSlot t
    slots := ⟨firstSlot, parentId firstSlot 1, [0], s.clock, none⟩ ::
      s.slots.filter fun x => !decide (x.key = firstSlot) }

end Sys2Proof.Machine
end

