-- ==== Sys2Proof/Machine/Step.lean ====
section
/-! DEFINITION. The step of the machine: a command or access that is held no more goes first, then the next step of the
agenda, then the gang slot whose turn it is issues; time passes with each (log 1). -/
namespace Sys2Proof.Machine

/-- One step. -/
def step (s : State) : Host.Outcome State Fault Refusal :=
  match s.due, s.agenda with
  | c :: cs, _ => thenAdvance none (runHeld c { s with due := cs })
  | [], i :: is => thenAdvance none (runEvent i { s with agenda := is })
  | [], [] => thenAdvance s.turn (issue s)

/-- The state with an instruction word standing where the next step fetches (log 7). -/
def State.withFetchWord (s : State) (nbits w : Nat) : State :=
  withCode s (parcelsOfBytes (tableBytes nbits w) ++ List.replicate 8 0)

end Sys2Proof.Machine
end

