-- ==== Sys2Proof/Safety.lean ====
section
/-! DEFINITION. What the statements call a safe run: steps that answer a next state, from states whose memories are in
their one canonical form. -/
namespace Sys2Proof.Machine

/-- The outcome is a next state. -/
def Goes (o : Host.Outcome State Fault Refusal) : Prop := ∃ s, o = .next s

/-- The memories a workgroup holds: scratch, B-tier share, tiles and row counters. -/
def Workgroup.memWf (g : Workgroup) : Bool :=
  Memory.wf g.scratch && Memory.wf g.btier && Memory.wf g.tiles && Memory.wf g.rowNan

/-- Every memory of the module and of its workgroups is in canonical form: addresses strictly rising, no zero listed. What an image
that another device sent holds takes that form when it is resumed. -/
def State.MemInv (s : State) : Prop := Memory.wf s.mem = true ∧ ∀ g ∈ s.wgs, Workgroup.memWf g = true

/-- The agenda holds only steps of the device and its surroundings, no instruction with a word. -/
def State.AgendaOk (s : State) : Prop := ∀ i ∈ s.agenda, isEvent i = true

end Sys2Proof.Machine
end

