-- ==== Sys2Proof/Certificates/Slice0/Obligations.lean ====
section
/-! DEFINITION. The statements about the model, each a proposition with a name that says what it states, and the few
notions they share. Every statement is about the machine; none is about a program. -/

/-! ### Shared notions -/
namespace Sys2Proof.Machine

/-- The instruction answers a next state, and that is the state in which every active thread has taken `f`, has retired
the instruction and stands `len` parcels on. Nothing else of the state differs. -/
def EachActive (i : Instr) (len : Nat) (sw : Bool) (s : State) (f : Thread → Thread) : Prop :=
  exec i s = .next (mapActive len sw f s)

/-- An instruction of two sources writes f(vA, vB) to vD at x1 and to the pair vD.x2 at x2 in every active thread. -/
def TwoSources (mk : VF3 → Instr) (f : (n : Nat) → BitVec n → BitVec n → BitVec n) : Prop :=
  ∀ (a b d : BitVec 6) (m : Marks) (s : State),
    EachActive (mk ⟨.x1, b, a, d, m⟩) 2 m.sw s (fun t => setV t d (f 32 (getV t a) (getV t b))) ∧
    EachActive (mk ⟨.x2, b, a, d, m⟩) 2 m.sw s (fun t => setV2 t d (f 64 (getV2 t a) (getV2 t b)))

/-- An instruction of one source writes f(vA). -/
def OneSource (mk : VF2 → Instr) (f : (n : Nat) → BitVec n → BitVec n) : Prop :=
  ∀ (a d : BitVec 6) (m : Marks) (s : State),
    EachActive (mk ⟨.x1, a, d, m⟩) 2 m.sw s (fun t => setV t d (f 32 (getV t a))) ∧
    EachActive (mk ⟨.x2, a, d, m⟩) 2 m.sw s (fun t => setV2 t d (f 64 (getV2 t a)))

/-- An instruction whose result is pending: the thread goes on, and the write of f(vA, vB) waits. -/
def PendingResult (mk : VF3 → Instr) (f : (n : Nat) → BitVec n → BitVec n → BitVec n) : Prop :=
  ∀ (a b d : BitVec 6) (m : Marks) (s : State),
    EachActive (mk ⟨.x1, b, a, d, m⟩) 2 m.sw s
      (fun t => { t with pend := t.pend ++ [.value [(d, f 32 (getV t a) (getV t b))]] }) ∧
    EachActive (mk ⟨.x2, b, a, d, m⟩) 2 m.sw s
      (fun t => { t with pend := t.pend ++ [.value [(d, (f 64 (getV2 t a) (getV2 t b)).setWidth 32),
        (d + 1, (f 64 (getV2 t a) (getV2 t b) >>> 32).setWidth 32)]] })

/-- A V form writes f(vA, B), B a vector register, a uniform register or an immediate. -/
def VForm (mk : VOps → Instr) (f : (n : Nat) → BitVec n → BitVec n → BitVec n → BitVec n) : Prop :=
  ∀ (b : BSrc) (a d : BitVec 6) (m : Marks) (s : State),
    EachActive (mk ⟨b, .x1, a, .x1, d, m⟩) 2 m.sw s (fun t => setV t d (f 32 (getV t a)
      (match b with | .reg r => getV t r | .unif k => getK s t k | .imm i => i.signExtend 32) (getV t d))) ∧
    EachActive (mk ⟨b, .x2, a, .x2, d, m⟩) 2 m.sw s (fun t => setV2 t d (f 64 (getV2 t a)
      (match b with | .reg r => getV2 t r | .unif k => getK2 s t k | .imm i => i.signExtend 64) (getV2 t d)))

/-- A bitwise form at any width acts register by register over the groups of vA, vB and vD. -/
def BitwiseForm (mk : VF3 → Instr) (f : Word → Word → Word) : Prop :=
  ∀ (w : Width) (a b d : BitVec 6) (m : Marks) (s : State), ∃ g : Thread → Thread,
    EachActive (mk ⟨w, b, a, d, m⟩) 2 m.sw s g ∧
    ∀ t, (∀ n, n < w.regs → getV (g t) (d + BitVec.ofNat 6 n) =
        f (getV t (a + BitVec.ofNat 6 n)) (getV t (b + BitVec.ofNat 6 n))) ∧
      (∀ r, (∀ n, n < w.regs → r ≠ d + BitVec.ofNat 6 n) → getV (g t) r = getV t r) ∧
      g t = { t with v := (g t).v }

/-- What an instruction may change of an active thread that goes on: the registers `ds`, the predicates `qs`, one more
pending value for the registers `ps` where there are such, and what retiring changes (the PC, the counts and the flags). -/
def KeptBut (ds : List (BitVec 6)) (qs : List (BitVec 3)) (ps : List (BitVec 6)) (t t' : Thread) : Prop :=
  t' = { t with v := t'.v, p := t'.p, pend := t'.pend, pc := t'.pc, path := t'.path, fl := t'.fl } ∧
  (∀ r, r ∉ ds → getV t' r = getV t r) ∧ (∀ q : BitVec 3, q ∉ qs → t'.p.getLsbD q.toNat = t.p.getLsbD q.toNat) ∧
  (ps = [] → t'.pend = t.pend) ∧
  (ps ≠ [] → ∃ w : List (BitVec 6 × Word), t'.pend = t.pend ++ [.value w] ∧ w.map Prod.fst = ps)

/-- The frame of a register form: it goes on in every state, only active threads change, each keeping every register but `ds`,
every predicate but `qs`, and its pending values but one more for `ps`; every memory, cache, workgroup, record and special
register is as before. -/
def RegisterFrame (i : Instr) (ds : List (BitVec 6)) (qs : List (BitVec 3)) (ps : List (BitVec 6)) : Prop :=
  ∀ s, ∃ s', exec i s = .next s' ∧
    s' = { s with threads := s'.threads } ∧
    List.Forall₂ (fun t t' => if isActive s t then KeptBut ds qs ps t t' else t' = t) s.threads s'.threads

end Sys2Proof.Machine

open Sys2Proof Sys2Proof.Machine

/-! ### Encoding -/

/-- Words of the worked encodings of spec/03 to spec/08, each with the fields the tables there list. -/
def Obligations.WorkedWordsDecode : Prop :=
  decode [0x3864] = .ok (.iaddC ⟨3, 7⟩, 1) ∧
  decode [0x9003, 0x1894] = .ok (.iadd ⟨.reg 12, .x2, 10, .x2, 8, ⟨false, true⟩⟩, 2) ∧
  decode [0x2969, 0x102A] = .ok (.ld ⟨2, .glb, 10, .b4, 20, ⟨false, false⟩⟩, 2) ∧
  decode [0x9705, 0xFFFE] = .ok (.bra ⟨0x7FFF4, true, 3, ⟨true, false⟩⟩, 2) ∧
  decode [0x8811, 0x20C2] = .ok (.imulHis ⟨.x1, 6, 5, 4, ⟨false, false⟩⟩, 2) ∧
  decode [0x2469, 0x9FC7] = .ok (.icmp ⟨true, .x1, .imm 31, 7, .lt, 2, ⟨false, false⟩⟩, 2) ∧
  decode [0x9261, 0x4C1F] = .ok (.movh ⟨0x4C1F, 9, ⟨false, false⟩⟩, 2) ∧
  decode [0x2891, 0x0602] = .ok (.mov ⟨.reg 3, .x1, true, .x1, 20, ⟨false, false⟩⟩, 2) ∧
  decode [0x0C89, 0x4400] = .ok (.sread ⟨true, 32, 6, ⟨false, false⟩⟩, 2) ∧
  decode [0x10AB, 0x0985] = .ok (.ffma ⟨.rn, .x2, 12, 10, 8, ⟨false, true⟩⟩, 2) ∧
  decode [0x88E1, 0x4222] = .ok (.cvtTo ⟨2, 1, 5, 4, ⟨false, false⟩⟩, 2) ∧
  decode [0x111D, 0xB000] = .ok (.awaitTmr ⟨true, 8, ⟨true, false⟩⟩, 2) ∧
  decode [0x0B41, 0x0022] = .ok (.gredIadd ⟨false, 1, 4, 5, ⟨false, false⟩⟩, 2) ∧
  decode [0x0789, 0x40E5] = .ok (.atomAdd ⟨.acq, 3, true, 5, false, 3, ⟨false, false⟩⟩, 2) ∧
  decode [0x89A5, 0x4002] = .ok (.barWait ⟨false, 5, 4, ⟨true, false⟩⟩, 2) ∧
  decode [0x27B1, 0x4401] = .ok (.cpyG2b ⟨1, 4, true, 3, ⟨false, false⟩⟩, 2) ∧
  decode [0x81C1, 0x4491] = .ok (.mxmma ⟨2, 1, 9, 6, false, 0, ⟨false, false⟩⟩, 2) ∧
  decode [0x15D9, 0x2800] = .ok (.postOr ⟨10, ⟨false, false⟩⟩, 2)

/-- Decode and encode agree: the parcels of a well-formed instruction decode to that instruction and to its length. -/
def Obligations.DecodeOfEncodeIsTheInstruction : Prop :=
  ∀ (i : Instr) (e : Enc) (rest : List Parcel), i.wf = true → encode i = some e →
    decode (e.parcels ++ rest) = .ok (i, e.parcels.length)

/-- What decodes is well formed and is encoded by exactly the parcels it was read from: no word has two meanings and no
field is ignored (R83). -/
def Obligations.DecodedParcelsAreTheEncoding : Prop :=
  ∀ (ps : List Parcel) (i : Instr) (n : Nat), decode ps = .ok (i, n) →
    i.wf = true ∧ ∃ e, encode i = some e ∧ e.parcels = ps.take n ∧ e.parcels.length = n

/-- Words with a reserved major are refused, whatever else they hold (R89). -/
def Sys2Proof.Claims.ReservedMajorsAreRefused : Prop :=
  ∀ (w : BitVec 32) (rest : List Parcel), w.getLsbD 0 = true →
    (w.extractLsb' 3 6).toNat ∈ [31, 44, 61, 62, 63] →
    decode (w.extractLsb' 0 16 :: w.extractLsb' 16 16 :: rest) = .error .reservedMajor

/-! ### The step -/

/-- With nothing due, the step of a slot is the instruction decoded at the PC of its gang: the safe points its threads
stand at are counted as passed (`issueState`), `exec` runs the instruction where no check stands in its way, and time
and the next turn follow (`thenAdvance`). No check stands in the way of threads with no log, no late trap and no step
bit that do not stand at a safe point. A step of the agenda runs that step; a module that has tripped stands still until a
reset (R450). -/
def Sys2Proof.Claims.IssueRunsTheDecodedInstruction : Prop :=
  (∀ (s : State) (k : SlotKey) (t : Thread) (ts : List Thread) (img : ModuleImage) (i : Instr) (n : Nat),
    s.due = [] → s.agenda = [] → s.turn = some k → actives (issueState s k) = t :: ts →
    (∀ u ∈ t :: ts, u.fl.replay = false ∧ u.log = none) → imageOf (issueState s k) t.launch = some img →
    decode ((img.code.drop t.pc).take 2) = .ok (i, n) → replayOf (issueState s k) t.launch = none →
    issueChecks (issueState s k) k (t :: ts) (some i) = none →
    step s = thenAdvance (some k) (exec i (issueState s k))) ∧
  (∀ (s : State) (k : SlotKey) (ts : List Thread) (i : Instr),
    (∀ u ∈ ts, u.log = none ∧ u.late = [] ∧ u.fl.step = false ∧ safeOrdinal s u u.pc = none) →
    issueChecks s k ts (some i) = none) ∧
  (∀ (s : State) (i : Instr) (is : List Instr), s.due = [] → s.agenda = i :: is → encode i = none →
    (s.boot.stage ≠ 0 ∨ i = .coldReset ∨ i = .warmReset ∨ i = .functionLevelReset none →
      step s = thenAdvance none (exec i { s with agenda := is })) ∧
    (s.boot.stage = 0 → i ≠ .coldReset → i ≠ .warmReset → i ≠ .functionLevelReset none →
      step s = thenAdvance none (.next { s with agenda := is })))

/-- What a step adds around `exec`: clocks go on and never back (R46), by the cycles of the pass at least (R127, R255), the
free-value counter advances, the counts of waiting contexts, their counters, replays, throttled devices, busy seats and
stalled workgroups (R281, R323) are brought up to date, error-log entries whose window has passed go to the host log (R442, R444), the slot has had its pass and the next turn is
chosen. Threads, workgroups, memory and everything else stand as `exec` left them. -/
def Sys2Proof.Claims.AdvanceOnlyPassesTime : Prop :=
  ∀ (k : Option SlotKey) (s : State), ∃ (clock time : Nat) (busy : Launch → List (Nat × Nat)) (spent throttled : VDev → Nat)
      (stall : Workgroup → Nat),
    (∀ g ∈ s.wgs, g.counts.fullstall ≤ 0xFFFFFFFF → g.counts.fullstall ≤ stall g ∧ stall g ≤ 0xFFFFFFFF ∧
      (wgStalls s g.id = false → stall g = g.counts.fullstall)) ∧
    (∀ v ∈ s.vds, v.spent ≤ spent v ∧ v.throttled ≤ throttled v ∧ (throttledVd v = false → throttled v = v.throttled)) ∧
    s.clock + s.passCycles ≤ clock ∧ s.ptp.time ≤ time ∧ (s.ptp.everLocked = false → time = s.ptp.time) ∧
    advance k s = { s with
      clock := clock
      ptp := { s.ptp with time := time }
      freeCount := s.freeCount + 1
      passCycles := 0
      cores := (advance k s).cores
      contexts := (advance k s).contexts
      replaying := (advance k s).replaying
      launches := s.launches.map fun l => { l with busy := busy l }
      wgs := s.wgs.map fun g => { g with counts := { g.counts with fullstall := stall g } }
      vds := s.vds.map fun v => { v with spent := spent v, throttled := throttled v }
      errlog := s.errlog.filter fun e => decide (clock < e.start + 1750000)
      out := ((s.errlog.filter fun e => decide (e.start + 1750000 ≤ clock)).map fun e => .log (.error e.bytes)).reverse ++ s.out
      turn := (advance k s).turn }

/-- No instruction stops the machine: in every state, whatever its operands, each of them answers a next state. -/
def Obligations.EveryInstructionAnswersANextState : Prop :=
  ∀ (i : Instr) (s : State), ∃ s', exec i s = .next s'

/-- Code that is no instruction takes ILLEGAL_ENCODING, cause 1, on every active thread (R89, R90). -/
def Sys2Proof.Claims.UndecodableWordsTrap : Prop :=
  (∀ (w : BitVec 32) (s : State), exec (.illegalEncoding w) s = .next (takeTrap s (actives s) 1 0 0 w)) ∧
  (∀ (s : State) (k : SlotKey) (t : Thread) (ts : List Thread) (img : ModuleImage) (err : DecodeError),
    s.due = [] → s.agenda = [] → s.turn = some k → actives (issueState s k) = t :: ts →
    (∀ u ∈ t :: ts, u.fl.replay = false ∧ u.log = none ∧ u.late = [] ∧ u.fl.step = false ∧
      safeOrdinal (issueState s k) u u.pc = none) →
    imageOf (issueState s k) t.launch = some img → decode ((img.code.drop t.pc).take 2) = .error err →
    ∃ w, step s = thenAdvance (some k) (.next (takeTrap (bumpFree (issueState s k)) (t :: ts) 1 0 0 w)))

/-! ### Integer, logic, compare and move instructions (spec/04) -/

/-- `iadd`, `isub` and `imad` (R107): wrapping sums, differences and multiply-adds at x1 and x2; no other width, and no
unequal widths, are legal, and a uniform pair is named by an even register. -/
def Sys2Proof.Claims.AddSubtractMultiplyAddWrap : Prop :=
  VForm .iadd (fun _ a b _ => a + b) ∧ VForm .isub (fun _ a b _ => a - b) ∧ VForm .imad (fun _ a b d => a * b + d) ∧
  ∀ (mk : VOps → Instr) (x : VOps), mk = .iadd ∨ mk = .isub ∨ mk = .imad →
    ((mk x).wf = true ↔ x.wa = x.wd ∧ (x.wd = .x1 ∨ x.wd = .x2) ∧
      (x.wd = .x2 → x.a.toNat % 2 = 0 ∧ x.d.toNat % 2 = 0) ∧
      match x.b with
      | .reg r => x.wd = .x2 → r.toNat % 2 = 0
      | .unif k => x.wd = .x2 → k.toNat % 2 = 0
      | .imm _ => True)

/-- `iaddi` (R108). -/
def Sys2Proof.Claims.AddImmediateIsSignExtended : Prop :=
  ∀ (i : BitVec 11) (a d : BitVec 6) (m : Marks) (s : State),
    EachActive (.iaddi ⟨i, a, d, m⟩) 2 m.sw s
      (fun t => setV t d (BitVec.ofInt 32 ((getV t a).toInt + i.toInt)))

/-- `imul` (R110): the low half, the halves of the signed and of the zero-extended product, and the whole products. -/
def Sys2Proof.Claims.MultiplyKeepsTheNamedPart : Prop :=
  TwoSources .imulLo (fun n a b => BitVec.ofInt n (a.toInt * b.toInt)) ∧
  TwoSources .imulHis (fun n a b => BitVec.ofInt n (a.toInt * b.toInt / 2 ^ n)) ∧
  TwoSources .imulHiz (fun n a b => BitVec.ofNat n (a.toNat * b.toNat / 2 ^ n)) ∧
  (∀ (a b d : BitVec 6) (m : Marks) (s : State),
    EachActive (.imulWds ⟨b, a, d, m⟩) 2 m.sw s
      (fun t => setV2 t d (BitVec.ofInt 64 ((getV t a).toInt * (getV t b).toInt))) ∧
    EachActive (.imulWdz ⟨b, a, d, m⟩) 2 m.sw s
      (fun t => setV2 t d (BitVec.ofNat 64 ((getV t a).toNat * (getV t b).toNat)))) ∧
  ∀ x : R3, ((Instr.imulWds x).wf = true ↔ x.d.toNat % 2 = 0) ∧ ((Instr.imulWdz x).wf = true ↔ x.d.toNat % 2 = 0)

/-- The `iminmax` functions (R111), the saturating ones clamped to the ends of their range. -/
def Sys2Proof.Claims.MinMaxAbsoluteSaturate : Prop :=
  TwoSources .mins (fun _ a b => if a.sle b then a else b) ∧
  TwoSources .maxs (fun _ a b => if b.sle a then a else b) ∧
  TwoSources .minz (fun _ a b => if a ≤ b then a else b) ∧
  TwoSources .maxz (fun _ a b => if a ≥ b then a else b) ∧
  OneSource .iabs (fun _ a => if a.msb then -a else a) ∧
  OneSource .ineg (fun _ a => 0 - a) ∧
  TwoSources .sadds (fun n a b => BitVec.ofInt n (max (-2 ^ (n - 1)) (min (2 ^ (n - 1) - 1) (a.toInt + b.toInt)))) ∧
  TwoSources .saddz (fun n a b => BitVec.ofNat n (min (2 ^ n - 1) (a.toNat + b.toNat)))

/-- Division (R112): truncated quotients, remainders with the sign of the dividend; a zero divisor gives all ones and
the dividend and raises no trap. The results are pending. -/
def Sys2Proof.Claims.DivisionTruncatesAndNeverTraps : Prop :=
  PendingResult .divs (fun n a b => if b = 0 then BitVec.allOnes n else a.sdiv b) ∧
  PendingResult .divz (fun n a b => if b = 0 then BitVec.allOnes n else a / b) ∧
  PendingResult .rems (fun _ a b => if b = 0 then a else a.srem b) ∧
  PendingResult .remz (fun _ a b => if b = 0 then a else a % b)

/-- The bitwise functions (R113) at every width, register by register of the groups. -/
def Sys2Proof.Claims.LogicActsBitByBit : Prop :=
  BitwiseForm .logAnd (fun a b => a &&& b) ∧ BitwiseForm .logOr (fun a b => a ||| b) ∧
  BitwiseForm .logXor (fun a b => a ^^^ b) ∧ BitwiseForm .logAndn (fun a b => a &&& ~~~b) ∧
  BitwiseForm .logOrn (fun a b => a ||| ~~~b) ∧ BitwiseForm .logXnor (fun a b => ~~~(a ^^^ b)) ∧
  BitwiseForm (fun x => .logNot ⟨x.w, x.a, x.d, x.m⟩) (fun a _ => ~~~a)

/-- Shifts, rotates and funnel shifts take their amount modulo the width (R52, R114); the immediate forms act the same
(R115). -/
def Sys2Proof.Claims.ShiftAmountsAreTakenModuloTheWidth : Prop :=
  TwoSources .shl (fun n a b => a <<< (b.toNat % n)) ∧
  TwoSources .shr (fun n a b => a >>> (b.toNat % n)) ∧
  TwoSources .sar (fun n a b => a.sshiftRight (b.toNat % n)) ∧
  TwoSources .rol (fun n a b => a.rotateLeft (b.toNat % n)) ∧
  (∀ (a b d : BitVec 6) (m : Marks) (s : State),
    EachActive (.fshl ⟨.x1, b, a, d, m⟩) 2 m.sw s (fun t => setV t d
      (((getV t d ++ getV t a) <<< ((getV t b).toNat % 32)).extractLsb' 32 32)) ∧
    EachActive (.fshl ⟨.x2, b, a, d, m⟩) 2 m.sw s (fun t => setV2 t d
      (((getV2 t d ++ getV2 t a) <<< ((getV2 t b).toNat % 64)).extractLsb' 64 64)) ∧
    EachActive (.fshr ⟨.x1, b, a, d, m⟩) 2 m.sw s (fun t => setV t d
      (((getV t d ++ getV t a) >>> ((getV t b).toNat % 32)).extractLsb' 0 32)) ∧
    EachActive (.fshr ⟨.x2, b, a, d, m⟩) 2 m.sw s (fun t => setV2 t d
      (((getV2 t d ++ getV2 t a) >>> ((getV2 t b).toNat % 64)).extractLsb' 0 64))) ∧
  ∀ (n a d : BitVec 6) (m : Marks) (s : State),
    EachActive (.shlI ⟨false, n, a, d, m⟩) 2 m.sw s (fun t => setV t d (getV t a <<< (n.toNat % 32))) ∧
    EachActive (.shrI ⟨false, n, a, d, m⟩) 2 m.sw s (fun t => setV t d (getV t a >>> (n.toNat % 32))) ∧
    EachActive (.sarI ⟨false, n, a, d, m⟩) 2 m.sw s (fun t => setV t d ((getV t a).sshiftRight (n.toNat % 32))) ∧
    EachActive (.rolI ⟨false, n, a, d, m⟩) 2 m.sw s (fun t => setV t d ((getV t a).rotateLeft (n.toNat % 32))) ∧
    EachActive (.shlI ⟨true, n, a, d, m⟩) 2 m.sw s (fun t => setV2 t d (getV2 t a <<< n.toNat)) ∧
    EachActive (.shrI ⟨true, n, a, d, m⟩) 2 m.sw s (fun t => setV2 t d (getV2 t a >>> n.toNat)) ∧
    EachActive (.sarI ⟨true, n, a, d, m⟩) 2 m.sw s (fun t => setV2 t d ((getV2 t a).sshiftRight n.toNat)) ∧
    EachActive (.rolI ⟨true, n, a, d, m⟩) 2 m.sw s (fun t => setV2 t d ((getV2 t a).rotateLeft n.toNat))

/-- Bit fields (R116): pos is b[4:0], len is b[13:8] cut at bit 31; and byte selection (R118). -/
def Sys2Proof.Claims.BitFieldsAreCutAtBit31 : Prop :=
  (∀ (a b d : BitVec 6) (m : Marks) (s : State),
    EachActive (.bfxz ⟨b, a, d, m⟩) 2 m.sw s (fun t => setV t d
      (((getV t a).extractLsb' ((getV t b).toNat % 32)
        (min ((getV t b).toNat / 256 % 64) (32 - (getV t b).toNat % 32))).setWidth 32)) ∧
    EachActive (.bfxs ⟨b, a, d, m⟩) 2 m.sw s (fun t => setV t d
      (((getV t a).extractLsb' ((getV t b).toNat % 32)
        (min ((getV t b).toNat / 256 % 64) (32 - (getV t b).toNat % 32))).signExtend 32))) ∧
  (∃ f : Word → Word → Word → Word,
    (∀ (a b d : BitVec 6) (m : Marks) (s : State),
      EachActive (.bfi ⟨b, a, d, m⟩) 2 m.sw s (fun t => setV t d (f (getV t a) (getV t b) (getV t d)))) ∧
    ∀ (a b d : Word) (i : Nat), i < 32 → (f a b d).getLsbD i =
      if b.toNat % 32 ≤ i ∧ i < b.toNat % 32 + b.toNat / 256 % 64 then a.getLsbD (i - b.toNat % 32)
      else d.getLsbD i) ∧
  ∃ f : Word → Word → Word → Word,
    (∀ (a b d : BitVec 6) (m : Marks) (s : State),
      EachActive (.bperm ⟨b, a, d, m⟩) 2 m.sw s (fun t => setV t d (f (getV t a) (getV t b) (getV t d)))) ∧
    ∀ (a b d : Word) (i : Nat), i < 4 → (f a b d).extractLsb' (8 * i) 8 =
      if b.getLsbD (4 * i + 3) then 0 else (d ++ a).extractLsb' (8 * (b.extractLsb' (4 * i) 3).toNat) 8

/-- Bit counts and bit reversal (R117), by what each count says of the bits. -/
def Sys2Proof.Claims.BitCountsCountTheBits : Prop :=
  (∃ f : (n : Nat) → BitVec n → Nat, OneSource .popc (fun n a => BitVec.ofNat n (f n a)) ∧
    ∀ (n : Nat) (a : BitVec n), f n a = ((List.range n).filter fun i => a.getLsbD i).length) ∧
  (∃ f : (n : Nat) → BitVec n → Nat, OneSource .clz (fun n a => BitVec.ofNat n (f n a)) ∧
    ∀ (n : Nat) (a : BitVec n), f n a ≤ n ∧ (∀ i, n - f n a ≤ i → a.getLsbD i = false) ∧
      (f n a < n → a.getLsbD (n - 1 - f n a) = true)) ∧
  (∃ f : (n : Nat) → BitVec n → Nat, OneSource .ctz (fun n a => BitVec.ofNat n (f n a)) ∧
    ∀ (n : Nat) (a : BitVec n), f n a ≤ n ∧ (∀ i, i < f n a → a.getLsbD i = false) ∧
      (f n a < n → a.getLsbD (f n a) = true)) ∧
  ∃ f : (n : Nat) → BitVec n → BitVec n, OneSource .brev f ∧
    ∀ (n : Nat) (a : BitVec n) (i : Nat), i < n → (f n a).getLsbD i = a.getLsbD (n - 1 - i)

/-- The dot products (R119): packed elements, signed or zero-extended, multiplied exactly and added to the old
destination modulo 2^32. -/
def Sys2Proof.Claims.DotProductsAddToTheDestination : Prop :=
  ∀ (a b d : BitVec 6) (m : Marks) (s : State),
    EachActive (.dot4ss ⟨b, a, d, m⟩) 2 m.sw s (fun t => setV t d (BitVec.ofInt 32 ((getV t d).toInt +
      ((getV t a).extractLsb' 0 8).toInt * ((getV t b).extractLsb' 0 8).toInt +
      ((getV t a).extractLsb' 8 8).toInt * ((getV t b).extractLsb' 8 8).toInt +
      ((getV t a).extractLsb' 16 8).toInt * ((getV t b).extractLsb' 16 8).toInt +
      ((getV t a).extractLsb' 24 8).toInt * ((getV t b).extractLsb' 24 8).toInt))) ∧
    EachActive (.dot4zz ⟨b, a, d, m⟩) 2 m.sw s (fun t => setV t d (BitVec.ofNat 32 ((getV t d).toNat +
      ((getV t a).extractLsb' 0 8).toNat * ((getV t b).extractLsb' 0 8).toNat +
      ((getV t a).extractLsb' 8 8).toNat * ((getV t b).extractLsb' 8 8).toNat +
      ((getV t a).extractLsb' 16 8).toNat * ((getV t b).extractLsb' 16 8).toNat +
      ((getV t a).extractLsb' 24 8).toNat * ((getV t b).extractLsb' 24 8).toNat))) ∧
    EachActive (.dot4sz ⟨b, a, d, m⟩) 2 m.sw s (fun t => setV t d (BitVec.ofInt 32 ((getV t d).toInt +
      ((getV t a).extractLsb' 0 8).toInt * ((getV t b).extractLsb' 0 8).toNat +
      ((getV t a).extractLsb' 8 8).toInt * ((getV t b).extractLsb' 8 8).toNat +
      ((getV t a).extractLsb' 16 8).toInt * ((getV t b).extractLsb' 16 8).toNat +
      ((getV t a).extractLsb' 24 8).toInt * ((getV t b).extractLsb' 24 8).toNat))) ∧
    EachActive (.dot2s ⟨b, a, d, m⟩) 2 m.sw s (fun t => setV t d (BitVec.ofInt 32 ((getV t d).toInt +
      ((getV t a).extractLsb' 0 16).toInt * ((getV t b).extractLsb' 0 16).toInt +
      ((getV t a).extractLsb' 16 16).toInt * ((getV t b).extractLsb' 16 16).toInt))) ∧
    EachActive (.dot2z ⟨b, a, d, m⟩) 2 m.sw s (fun t => setV t d (BitVec.ofNat 32 ((getV t d).toNat +
      ((getV t a).extractLsb' 0 16).toNat * ((getV t b).extractLsb' 0 16).toNat +
      ((getV t a).extractLsb' 16 16).toNat * ((getV t b).extractLsb' 16 16).toNat)))

/-- `lea` (R120). -/
def Sys2Proof.Claims.LeaAddsAShiftedIndex : Prop :=
  ∀ (k : BitVec 3) (a b d : BitVec 6) (m : Marks) (s : State),
    EachActive (.lea ⟨k, .x1, b, a, d, m⟩) 2 m.sw s (fun t => setV t d (getV t a + (getV t b <<< k.toNat))) ∧
    EachActive (.lea ⟨k, .x2, b, a, d, m⟩) 2 m.sw s (fun t => setV2 t d (getV2 t a + (getV2 t b <<< k.toNat)))

namespace Sys2Proof.Machine

/-- The table of R121: when a condition holds of two sources. -/
def comparesTrue {n : Nat} (c : ICond) (signed : Bool) (a b : BitVec n) : Bool :=
  match c, signed with
  | .eq, _ => a == b
  | .ne, _ => a != b
  | .lt, true => a.slt b
  | .lt, false => a.ult b
  | .le, true => a.sle b
  | .le, false => a.ule b
  | .gt, true => b.slt a
  | .gt, false => b.ult a
  | .ge, true => b.sle a
  | .ge, false => b.ule a
  | .tst, _ => (a &&& b) != 0
  | .tsn, _ => (a &&& b) == 0

end Sys2Proof.Machine

/-- `icmp` (R121) writes the outcome of its condition to pD; a second source is a register, a uniform register or an
immediate sign-extended to the width. -/
def Sys2Proof.Claims.IntegerComparesWriteThePredicate : Prop :=
  ∀ (sg : Bool) (b : BSrc) (a : BitVec 6) (c : ICond) (q : BitVec 3) (m : Marks) (s : State),
    EachActive (.icmp ⟨sg, .x1, b, a, c, q, m⟩) 2 m.sw s (fun t => setP t q (comparesTrue c sg (getV t a)
      (match b with | .reg r => getV t r | .unif k => getK s t k | .imm i => i.signExtend 32))) ∧
    EachActive (.icmp ⟨sg, .x2, b, a, c, q, m⟩) 2 m.sw s (fun t => setP t q (comparesTrue c sg (getV2 t a)
      (match b with | .reg r => getV2 t r | .unif k => getK2 s t k | .imm i => i.signExtend 64)))

/-- `sel` (R122) at every width copies the group of vA where pN is 1 and the group of vB where it is 0. -/
def Sys2Proof.Claims.SelectCopiesOneOfTwoGroups : Prop :=
  ∀ (n : BitVec 3) (w : Width) (a b d : BitVec 6) (m : Marks) (s : State), ∃ g : Thread → Thread,
    EachActive (.sel ⟨n, w, b, a, d, m⟩) 2 m.sw s g ∧
    ∀ t, (∀ i, i < w.regs → getV (g t) (d + BitVec.ofNat 6 i) =
        if n = 0 ∨ t.p.getLsbD n.toNat = true then getV t (a + BitVec.ofNat 6 i) else getV t (b + BitVec.ofNat 6 i)) ∧
      (∀ r, (∀ i, i < w.regs → r ≠ d + BitVec.ofNat 6 i) → getV (g t) r = getV t r) ∧
      g t = { t with v := (g t).v }

/-- Predicates (R28): p0 reads 1, a write to it is discarded, a write to another changes that one alone; a compare into
p0 retires with no other effect. -/
def Sys2Proof.Claims.PredicateZeroReadsOne : Prop :=
  (∀ t : Thread, getP t 0 = true) ∧ (∀ (t : Thread) (b : Bool), setP t 0 b = t) ∧
  (∀ (t : Thread) (n : BitVec 3) (b : Bool), n ≠ 0 → getP (setP t n b) n = b ∧
    (∀ r, r ≠ n → getP (setP t n b) r = getP t r) ∧ setP t n b = { t with p := (setP t n b).p }) ∧
  ∀ (sg : Bool) (w : Width) (b : BSrc) (a : BitVec 6) (c : ICond) (m : Marks) (s : State),
    EachActive (.icmp ⟨sg, w, b, a, c, 0, m⟩) 2 m.sw s id

/-- Predicate logic (R124). `v2p` takes mask bit i - 1 for p_i and leaves the others. -/
def Sys2Proof.Claims.PredicateLogic : Prop :=
  (∀ (d a b : BitVec 3) (na nb : Bool) (m : Marks) (s : State),
    EachActive (.pand ⟨d, nb, na, b, a, m⟩) 2 m.sw s
      (fun t => setP t d ((getP t a != na) && (getP t b != nb))) ∧
    EachActive (.por ⟨d, nb, na, b, a, m⟩) 2 m.sw s
      (fun t => setP t d ((getP t a != na) || (getP t b != nb))) ∧
    EachActive (.pxor ⟨d, nb, na, b, a, m⟩) 2 m.sw s
      (fun t => setP t d ((getP t a != na) != (getP t b != nb))) ∧
    EachActive (.pnot ⟨d, a, m⟩) 2 m.sw s (fun t => setP t d (!getP t a))) ∧
  (∃ f : Thread → Word,
    (∀ (r : BitVec 6) (m : Marks) (s : State), EachActive (.p2v ⟨r, m⟩) 2 m.sw s (fun t => setV t r (f t))) ∧
    ∀ (t : Thread) (i : Nat), (f t).getLsbD i = (decide (i < 8) && getP t (BitVec.ofNat 3 i))) ∧
  ∀ (mask : BitVec 7) (a : BitVec 6) (m : Marks) (s : State), ∃ g : Thread → Thread,
    EachActive (.v2p ⟨mask, a, m⟩) 2 m.sw s g ∧
    ∀ t, g t = { t with p := (g t).p } ∧
      ∀ i : BitVec 3, i ≠ 0 → getP (g t) i =
        if mask.getLsbD (i.toNat - 1) then (getV t a).getLsbD i.toNat else getP t i

/-- `movl` and `movh` (R125), `mov` (R126) to v and to k registers, and `sread` (R127): the registers read are those of
R45 for the thread at the moment of issue. -/
def Sys2Proof.Claims.MovesCopyTheirSource : Prop :=
  (∀ (i : BitVec 16) (d : BitVec 6) (m : Marks) (s : State),
    EachActive (.movl ⟨i, d, m⟩) 2 m.sw s (fun t => setV t d (0#16 ++ i)) ∧
    EachActive (.movh ⟨i, d, m⟩) 2 m.sw s (fun t => setV t d (i ++ (getV t d).extractLsb' 0 16))) ∧
  (∀ (w : Width) (r d : BitVec 6) (m : Marks) (s : State), ∃ g : Thread → Thread,
    EachActive (.mov ⟨.reg r, w, false, w, d, m⟩) 2 m.sw s g ∧
    ∀ t, (∀ i, i < w.regs → getV (g t) (d + BitVec.ofNat 6 i) = getV t (r + BitVec.ofNat 6 i)) ∧
      (∀ q, (∀ i, i < w.regs → q ≠ d + BitVec.ofNat 6 i) → getV (g t) q = getV t q) ∧ g t = { t with v := (g t).v }) ∧
  (∀ (k i : BitVec 5) (d : BitVec 6) (m : Marks) (s : State),
    EachActive (.mov ⟨.unif k, .x1, false, .x1, d, m⟩) 2 m.sw s (fun t => setV t d (getK s t k)) ∧
    EachActive (.mov ⟨.unif k, .x2, false, .x2, d, m⟩) 2 m.sw s (fun t => setV2 t d (getK2 s t k)) ∧
    EachActive (.mov ⟨.imm i, .x1, false, .x1, d, m⟩) 2 m.sw s (fun t => setV t d (i.signExtend 32)) ∧
    EachActive (.mov ⟨.imm i, .x2, false, .x2, d, m⟩) 2 m.sw s (fun t => setV2 t d (i.signExtend 64))) ∧
  ∀ (n d : BitVec 6) (m : Marks) (s : State),
    EachActive (.sread ⟨false, n, d, m⟩) 2 m.sw s (fun t => setV t d ((specialValue s t n.toNat).setWidth 32)) ∧
    EachActive (.sread ⟨true, n, d, m⟩) 2 m.sw s (fun t => setV2 t d (specialValue s t n.toNat))

/-- A `mov` to a uniform register (R30, R126) writes the value of the active thread with the lowest %tid to the k
registers of its workgroup alone; no v register changes, and k0 to k15 cannot be named. -/
def Sys2Proof.Claims.UniformMovesTakeTheLowestThread : Prop :=
  (∀ (r d : BitVec 6) (m : Marks) (s : State) (t : Thread), t ∈ actives s → (∀ u ∈ actives s, t.tid ≤ u.tid ∧
      (u.tid = t.tid → u = t)) →
    exec (.mov ⟨.reg r, .x1, true, .x1, d, m⟩) s = .next (mapActive 2 m.sw id
      (updWg s t.wg fun g => setK g (d.setWidth 5) (getV t r))) ∧
    exec (.mov ⟨.reg r, .x2, true, .x2, d, m⟩) s = .next (mapActive 2 m.sw id
      (updWg s t.wg fun g => setK (setK g (d.setWidth 5) (getV t r)) (d.setWidth 5 + 1) (getV t (r + 1))))) ∧
  ∀ x : Mov, x.toK = true → (Instr.mov x).wf = true → 16 ≤ x.d.toNat ∧ x.d.toNat < 32

/-- The special registers of R45 that give a thread's place in its workgroup and grid, and the clocks, those as they stand in
the cycle of the thread's pair (R127). -/
def Sys2Proof.Claims.SpecialRegistersGiveThePlace : Prop :=
  ∀ (s : State) (t : Thread) (l : Launch) (g : Workgroup) (x y z gx gy gz : Nat),
    findLaunch s t.launch = some l → findWg s t.wg = some g → l.lr.size = [x, y, z] → l.lr.grid = [gx, gy, gz] →
    specialValue s t 0 = BitVec.ofNat 64 t.tid ∧
    specialValue s t 1 = BitVec.ofNat 64 (t.tid % x) ∧
    specialValue s t 2 = BitVec.ofNat 64 (t.tid / x % y) ∧
    specialValue s t 3 = BitVec.ofNat 64 (t.tid / (x * y)) ∧
    specialValue s t 4 = BitVec.ofNat 64 (x * y * z) ∧
    specialValue s t 8 = BitVec.ofNat 64 (g.wgid % 2 ^ 32) ∧
    specialValue s t 9 = BitVec.ofNat 64 (g.wgid % gx) ∧
    specialValue s t 10 = BitVec.ofNat 64 (g.wgid / gx % gy) ∧
    specialValue s t 11 = BitVec.ofNat 64 (g.wgid / (gx * gy)) ∧
    specialValue s t 16 = BitVec.ofNat 64 t.seat.seat ∧
    specialValue s t 19 = BitVec.ofNat 64 t.seat.core ∧
    specialValue s t 20 = BitVec.ofNat 64 t.seat.cluster ∧
    specialValue s t 23 = BitVec.ofNat 64 g.vcluster ∧
    specialValue s t 25 = BitVec.ofNat 64 g.rung ∧
    specialValue s t 32 = BitVec.ofNat 64 (s.clock + pairRank s t) ∧
    specialValue s t 33 = BitVec.ofNat 64 (ptpAfter s (pairRank s t))

/-- The compact forms (R76) act as the 32-bit forms of the same mnemonic with the destination as first source. They take
one parcel and never park. -/
def Sys2Proof.Claims.CompactFormsActAsTheLongOnes : Prop :=
  ∀ (d : BitVec 6) (b i : BitVec 5) (s : State),
    EachActive (.movC ⟨d, b⟩) 1 false s (fun t => setV t d (getV t (b.setWidth 6))) ∧
    EachActive (.movi ⟨d, i⟩) 1 false s (fun t => setV t d (i.signExtend 32)) ∧
    EachActive (.iaddC ⟨d, b⟩) 1 false s (fun t => setV t d (getV t d + getV t (b.setWidth 6))) ∧
    EachActive (.iaddiC ⟨d, i⟩) 1 false s (fun t => setV t d (getV t d + i.signExtend 32)) ∧
    EachActive (.isubC ⟨d, b⟩) 1 false s (fun t => setV t d (getV t d - getV t (b.setWidth 6))) ∧
    EachActive (.imulC ⟨d, b⟩) 1 false s (fun t => setV t d (getV t d * getV t (b.setWidth 6))) ∧
    EachActive (.andC ⟨d, b⟩) 1 false s (fun t => setV t d (getV t d &&& getV t (b.setWidth 6))) ∧
    EachActive (.orC ⟨d, b⟩) 1 false s (fun t => setV t d (getV t d ||| getV t (b.setWidth 6))) ∧
    EachActive (.xorC ⟨d, b⟩) 1 false s (fun t => setV t d (getV t d ^^^ getV t (b.setWidth 6))) ∧
    EachActive (.shlC ⟨d, b⟩) 1 false s
      (fun t => setV t d (getV t d <<< ((getV t (b.setWidth 6)).toNat % 32))) ∧
    EachActive (.shrC ⟨d, b⟩) 1 false s
      (fun t => setV t d (getV t d >>> ((getV t (b.setWidth 6)).toNat % 32))) ∧
    EachActive (.sarC ⟨d, b⟩) 1 false s
      (fun t => setV t d ((getV t d).sshiftRight ((getV t (b.setWidth 6)).toNat % 32)))

/-- Register groups (R25): a pair holds its low half in the named register and its high half in the next; a pair
written reads back, and no other register changes. -/
def Sys2Proof.Claims.PairsHoldTheLowHalfFirst : Prop :=
  ∀ (t : Thread) (r : BitVec 6) (x : BitVec 64),
    getV (setV2 t r x) r = x.extractLsb' 0 32 ∧ getV (setV2 t r x) (r + 1) = x.extractLsb' 32 32 ∧
    getV2 (setV2 t r x) r = x ∧ (∀ q, q ≠ r → q ≠ r + 1 → getV (setV2 t r x) q = getV t q) ∧
    setV2 t r x = { t with v := (setV2 t r x).v }

/-- The frame of the register forms: only active threads change; each keeps every register but the destination, every
predicate, and the rest of its state but the PC, the counts and the flags that retiring changes; memory, workgroups,
records and all else keep their values. -/
def Obligations.RegisterFormsChangeOnlyTheirDestination : Prop :=
  (∀ (mk : VF3 → Instr), mk ∈ [Instr.imulLo, .imulHis, .imulHiz, .mins, .maxs, .minz, .maxz, .sadds, .saddz, .logAnd,
      .logOr, .logXor, .logAndn, .logOrn, .logXnor, .shl, .shr, .sar, .rol, .fshl, .fshr] →
    ∀ x : VF3, (mk x).wf = true →
      RegisterFrame (mk x) ((List.range x.w.regs).map fun i => x.d + BitVec.ofNat 6 i) [] []) ∧
  (∀ (mk : VF2 → Instr), mk ∈ [Instr.iabs, .ineg, .logNot, .popc, .clz, .ctz, .brev] →
    ∀ x : VF2, (mk x).wf = true →
      RegisterFrame (mk x) ((List.range x.w.regs).map fun i => x.d + BitVec.ofNat 6 i) [] []) ∧
  (∀ (mk : VOps → Instr), mk ∈ [Instr.iadd, .isub, .imad] →
    ∀ x : VOps, (mk x).wf = true →
      RegisterFrame (mk x) ((List.range x.wd.regs).map fun i => x.d + BitVec.ofNat 6 i) [] []) ∧
  (∀ (mk : VF3 → Instr), mk ∈ [Instr.divs, .divz, .rems, .remz] → ∀ x : VF3, (mk x).wf = true →
    RegisterFrame (mk x) [] [] ((List.range x.w.regs).map fun i => x.d + BitVec.ofNat 6 i)) ∧
  (∀ (mk : R3 → Instr), mk ∈ [Instr.bfxs, .bfxz, .bfi, .bperm, .dot4ss, .dot4zz, .dot4sz, .dot2s, .dot2z] →
    ∀ x : R3, RegisterFrame (mk x) [x.d] [] []) ∧
  (∀ (mk : R3 → Instr), mk ∈ [Instr.imulWds, .imulWdz] → ∀ x : R3, RegisterFrame (mk x) [x.d, x.d + 1] [] []) ∧
  (∀ x : Lea, (Instr.lea x).wf = true →
    RegisterFrame (.lea x) ((List.range x.w.regs).map fun i => x.d + BitVec.ofNat 6 i) [] []) ∧
  (∀ x : AddI, RegisterFrame (.iaddi x) [x.d] [] []) ∧
  (∀ x : MovW, RegisterFrame (.movl x) [x.d] [] [] ∧ RegisterFrame (.movh x) [x.d] [] []) ∧
  (∀ x : ICmp, RegisterFrame (.icmp x) [] [x.q] []) ∧
  (∀ x : PLog, RegisterFrame (.pand x) [] [x.d] [] ∧ RegisterFrame (.por x) [] [x.d] [] ∧
    RegisterFrame (.pxor x) [] [x.d] []) ∧
  (∀ x : PNot, RegisterFrame (.pnot x) [] [x.d] []) ∧
  (∀ x : V2P, RegisterFrame (.v2p x) []
    ((List.range 7).filterMap fun i => if x.mask.getLsbD i then some (BitVec.ofNat 3 (i + 1)) else none) []) ∧
  (∀ x : R1, RegisterFrame (.p2v x) [x.r] [] []) ∧
  (∀ (mk : CompactReg → Instr), mk ∈ [Instr.movC, .iaddC, .isubC, .imulC, .andC, .orC, .xorC, .shlC, .shrC, .sarC] →
    ∀ x : CompactReg, RegisterFrame (mk x) [x.d] [] []) ∧
  ∀ (mk : CompactImm → Instr), mk ∈ [Instr.movi, .iaddiC] → ∀ x : CompactImm, RegisterFrame (mk x) [x.d] [] []

/-! ### Floating point (spec/02, spec/05) -/

namespace Sys2Proof.Machine

/-- Every active thread has the vector role, the one that may issue floating-point instructions (R128, R272). -/
def AllVector (s : State) : Prop := ∀ t ∈ actives s, t.role = 0

/-- A floating-point form of two sources and the old destination: FP32 patterns at x1, FP64 patterns at x2. -/
def FloatForm (mk : Width → BitVec 6 → BitVec 6 → BitVec 6 → Marks → Instr) (f : Fmt → Nat → Nat → Nat → Nat) : Prop :=
  ∀ (a b d : BitVec 6) (m : Marks) (s : State), AllVector s →
    EachActive (mk .x1 b a d m) 2 m.sw s (fun t => setV t d (BitVec.ofNat 32
      (f fp32 (getV t a).toNat (getV t b).toNat (getV t d).toNat))) ∧
    EachActive (mk .x2 b a d m) 2 m.sw s (fun t => setV2 t d (BitVec.ofNat 64
      (f fp64 (getV2 t a).toNat (getV2 t b).toNat (getV2 t d).toNat)))

/-- The same with a pending result. -/
def PendingFloat (mk : Width → BitVec 6 → BitVec 6 → Marks → Instr) (f : Fmt → Nat → Nat) : Prop :=
  ∀ (a d : BitVec 6) (m : Marks) (s : State), AllVector s →
    EachActive (mk .x1 a d m) 2 m.sw s (fun t => { t with pend := t.pend ++
      [.value [(d, BitVec.ofNat 32 (f fp32 (getV t a).toNat))]] }) ∧
    EachActive (mk .x2 a d m) 2 m.sw s (fun t => { t with pend := t.pend ++
      [.value [(d, (BitVec.ofNat 64 (f fp64 (getV2 t a).toNat)).setWidth 32),
        (d + 1, (BitVec.ofNat 64 (f fp64 (getV2 t a).toNat) >>> 32).setWidth 32)]] })

/-- An FP32 function whose result is pending. -/
def PendingWord (mk : BitVec 6 → BitVec 6 → Marks → Instr) (f : Word → Word) : Prop :=
  ∀ (a d : BitVec 6) (m : Marks) (s : State), AllVector s →
    EachActive (mk a d m) 2 m.sw s (fun t => { t with pend := t.pend ++ [.value [(d, f (getV t a))]] })

/-- A packed form acts on each 16-bit element by itself, two to a register and four to a pair. -/
def PackedForm (mk : Bool → Width → BitVec 6 → BitVec 6 → BitVec 6 → Marks → Instr)
    (f : Fmt → Nat → Nat → Nat → Nat) : Prop :=
  ∀ (bf : Bool) (a b d : BitVec 6) (m : Marks) (s : State), AllVector s → ∃ g1 : Thread → Word, ∃ g2 : Thread → BitVec 64,
    EachActive (mk bf .x1 b a d m) 2 m.sw s (fun t => setV t d (g1 t)) ∧
    EachActive (mk bf .x2 b a d m) 2 m.sw s (fun t => setV2 t d (g2 t)) ∧
    (∀ (t : Thread) (e : Nat), e < 2 → (g1 t).extractLsb' (16 * e) 16 = BitVec.ofNat 16 (f (if bf then bf16 else fp16)
      ((getV t a).extractLsb' (16 * e) 16).toNat ((getV t b).extractLsb' (16 * e) 16).toNat
      ((getV t d).extractLsb' (16 * e) 16).toNat)) ∧
    ∀ (t : Thread) (e : Nat), e < 4 → (g2 t).extractLsb' (16 * e) 16 = BitVec.ofNat 16 (f (if bf then bf16 else fp16)
      ((getV2 t a).extractLsb' (16 * e) 16).toNat ((getV2 t b).extractLsb' (16 * e) 16).toNat
      ((getV2 t d).extractLsb' (16 * e) 16).toNat)

/-- The number a finite value stands for. -/
def XVal.num : XVal → ℚ
  | .fin neg m e => (if neg then -1 else 1) * (m : ℚ) * (2 : ℚ) ^ e
  | _ => 0

/-- A value that is neither NaN nor an infinity. -/
def XVal.finite : XVal → Bool
  | .fin _ _ _ => true
  | _ => false

/-- The gang is one thread, and no other thread of its workgroup has its %tid. -/
def Alone (s : State) (t : Thread) : Prop :=
  actives s = [t] ∧ ∀ u ∈ s.threads, u.wg = t.wg → u.tid = t.tid → u = t

/-- A gang: threads at one PC, each with a %tid of its own in its workgroup. -/
def Gang (s : State) : Prop :=
  actives s ≠ [] ∧ (∀ t ∈ actives s, ∀ u ∈ actives s, t.pc = u.pc) ∧ (s.threads.map fun t => (t.wg, t.tid)).Nodup

/-- Member j of the block group of a thread: the active thread of its 32 with that %tid modulo 32 (R152). -/
def blockThread (s : State) (t : Thread) (j : Nat) : Option Thread :=
  (actives s).find? fun u => decide (u.tid / 32 = t.tid / 32) && decide (u.tid % 32 = j)

/-- Element %tid mod 32 of the block that the words of a thread's group hold in a register: words 0 to m - 1 are the
mantissa field, word m the scale word, and a word with no active thread is 0 (R153). -/
def blockElement (s : State) (t : Thread) (a : BitVec 6) (m : Nat) : XVal :=
  let word := fun j => match blockThread s t j with
    | some u => (getV u a).toNat
    | none => 0
  let field := sumNat ((List.range m).map fun j => word j * 2 ^ (32 * j))
  bfpValue (sext m (field / 2 ^ (m * (t.tid % 32)))) (word m % 2 ^ 20) m

/-- x × 2^n in a format (R142). -/
def scaledPattern (k : Fmt) (a : Nat) (n : Int) : Nat :=
  match decodeFp k a with
  | .nan => canonNan k
  | .inf _ => a
  | .fin neg m e =>
    if m = 0 then a
    else if n > 4000 then signed k neg (infCode k)
    else if n < -4000 then signed k neg 0
    else roundFp k (.fin neg m (e + n)) .rn false

/-- The thread retires the instruction, its registers and the rest of the state as given. -/
def GoesOn (i : Instr) (sw : Bool) (s s1 : State) (t1 : Thread) : Prop :=
  exec i s = .next (setThread s1 (retire (lengthOf i) sw t1))

/-- The thread takes a trap at the instruction, the state as it stood before it. -/
def TakesTrap (i : Instr) (s : State) (t : Thread) (cause code : Nat) (detail : BitVec 64) : Prop :=
  exec i s = .next (settleTurn (takeTrap s [t] cause code detail (wordOf i)))

end Sys2Proof.Machine

/-- `fadd`, `fsub`, `fmul`, `ffma`, `fnma` and the compact `fadd` and `fmul` (R133): the exact result over the extended
reals, rounded once in the named mode; the compact forms round to nearest at FP32. -/
def Sys2Proof.Claims.FloatFormsRoundOnce : Prop :=
  (∀ r : Rnd,
    FloatForm (fun w b a d m => .fadd ⟨r, w, b, a, d, m⟩)
      (fun k a b _ => roundFp k (addX (decodeFp k a) (decodeFp k b) r) r false) ∧
    FloatForm (fun w b a d m => .fsub ⟨r, w, b, a, d, m⟩)
      (fun k a b _ => roundFp k (addX (decodeFp k a) (negX (decodeFp k b)) r) r false) ∧
    FloatForm (fun w b a d m => .fmul ⟨r, w, b, a, d, m⟩)
      (fun k a b _ => roundFp k (mulX (decodeFp k a) (decodeFp k b)) r false) ∧
    FloatForm (fun w b a d m => .ffma ⟨r, w, b, a, d, m⟩)
      (fun k a b d => roundFp k (addX (mulX (decodeFp k a) (decodeFp k b)) (decodeFp k d) r) r false) ∧
    FloatForm (fun w b a d m => .fnma ⟨r, w, b, a, d, m⟩)
      (fun k a b d => roundFp k (addX (negX (mulX (decodeFp k a) (decodeFp k b))) (decodeFp k d) r) r false)) ∧
  ∀ (d : BitVec 6) (b : BitVec 5) (s : State), AllVector s →
    EachActive (.faddC ⟨d, b⟩) 1 false s (fun t => setV t d (BitVec.ofNat 32 (roundFp fp32
      (addX (decodeFp fp32 (getV t d).toNat) (decodeFp fp32 (getV t (b.setWidth 6)).toNat) .rn) .rn false))) ∧
    EachActive (.fmulC ⟨d, b⟩) 1 false s (fun t => setV t d (BitVec.ofNat 32 (roundFp fp32
      (mulX (decodeFp fp32 (getV t d).toNat) (decodeFp fp32 (getV t (b.setWidth 6)).toNat)) .rn false)))

/-- Sums and products of finite values are exact, and zeros take the signs of R134; infinities cancel to NaN, and zero
times an infinity is NaN (R133). -/
def Sys2Proof.Claims.SumsAndProductsAreExact : Prop :=
  (∀ (x y : XVal) (rm : Rnd), x.finite = true → y.finite = true →
    (addX x y rm).finite = true ∧ (addX x y rm).num = x.num + y.num ∧
    (mulX x y).finite = true ∧ (mulX x y).num = x.num * y.num) ∧
  (∀ (m : Nat) (e : Int) (rm : Rnd), negOf (addX (.fin false m e) (.fin true m e) rm) = decide (rm = .rd)) ∧
  (∀ (a b : Bool) (m n : Nat) (e k : Int), m = 0 ∨ n = 0 → negOf (mulX (.fin a m e) (.fin b n k)) = (a != b)) ∧
  (∀ (a b : Bool) (rm : Rnd), addX (.inf a) (.inf b) rm = if a = b then .inf a else .nan) ∧
  ∀ (a b : Bool) (e : Int), mulX (.inf a) (.fin b 0 e) = .nan ∧ mulX (.fin b 0 e) (.inf a) = .nan

/-- A value that a format represents rounds to its own pattern in every mode: rounding is the identity on the format,
with NaNs made canonical (R53, R55, R58). -/
def Sys2Proof.Claims.RepresentableValuesRoundToThemselves : Prop :=
  ∀ (k : Fmt) (a : Nat) (rm : Rnd), k ∈ [fp64, fp32, fp16, bf16, e4m3, e5m2] → a < 2 ^ k.bits →
    roundFp k (decodeFp k a) rm false = if decodeFp k a = .nan then canonNan k else a

/-- Minimum and maximum (R135) with -0 below +0, an equal input's own pattern, and NaNs by the two rules; sign operations
(R136) on patterns alone. -/
def Sys2Proof.Claims.FloatMinMaxAndSigns : Prop :=
  (∃ mn mx : Bool → Fmt → Nat → Nat → Nat,
    FloatForm (fun w b a d m => .fmin ⟨w, b, a, d, m⟩) (fun k a b _ => mn false k a b) ∧
    FloatForm (fun w b a d m => .fmax ⟨w, b, a, d, m⟩) (fun k a b _ => mx false k a b) ∧
    FloatForm (fun w b a d m => .fminNan ⟨w, b, a, d, m⟩) (fun k a b _ => mn true k a b) ∧
    FloatForm (fun w b a d m => .fmaxNan ⟨w, b, a, d, m⟩) (fun k a b _ => mx true k a b) ∧
    (∀ (d : BitVec 6) (b : BitVec 5) (s : State), AllVector s →
      EachActive (.fminC ⟨d, b⟩) 1 false s (fun t => setV t d (BitVec.ofNat 32
        (mn false fp32 (getV t d).toNat (getV t (b.setWidth 6)).toNat))) ∧
      EachActive (.fmaxC ⟨d, b⟩) 1 false s (fun t => setV t d (BitVec.ofNat 32
        (mx false fp32 (getV t d).toNat (getV t (b.setWidth 6)).toNat)))) ∧
    (∀ (k : Fmt) (a b : Nat), decodeFp k a ≠ .nan → decodeFp k b ≠ .nan → ∀ p,
      (mn p k a b = a ∨ mn p k a b = b) ∧ (mx p k a b = a ∨ mx p k a b = b) ∧
      (ltSigned (decodeFp k a) (decodeFp k b) = true → mn p k a b = a ∧ mx p k a b = b) ∧
      (ltSigned (decodeFp k b) (decodeFp k a) = true → mn p k a b = b ∧ mx p k a b = a)) ∧
    (∀ (k : Fmt) (a b : Nat), decodeFp k a = .nan → decodeFp k b ≠ .nan →
      mn false k a b = b ∧ mx false k a b = b ∧ mn false k b a = b ∧ mx false k b a = b) ∧
    ∀ (k : Fmt) (a b : Nat) (p : Bool), decodeFp k a = .nan → p = true ∨ decodeFp k b = .nan →
      mn p k a b = canonNan k ∧ mx p k a b = canonNan k ∧ mn p k b a = canonNan k ∧ mx p k b a = canonNan k) ∧
  ∀ (a b d : BitVec 6) (m : Marks) (s : State), AllVector s →
    EachActive (.fabs ⟨.x1, a, d, m⟩) 2 m.sw s (fun t => setV t d (getV t a &&& 0x7FFFFFFF)) ∧
    EachActive (.fabs ⟨.x2, a, d, m⟩) 2 m.sw s (fun t => setV2 t d (getV2 t a &&& 0x7FFFFFFFFFFFFFFF)) ∧
    EachActive (.fneg ⟨.x1, a, d, m⟩) 2 m.sw s (fun t => setV t d (getV t a ^^^ 0x80000000)) ∧
    EachActive (.fneg ⟨.x2, a, d, m⟩) 2 m.sw s (fun t => setV2 t d (getV2 t a ^^^ 0x8000000000000000)) ∧
    EachActive (.fcsgn ⟨.x1, b, a, d, m⟩) 2 m.sw s (fun t => setV t d
      ((getV t a &&& 0x7FFFFFFF) ||| (getV t b &&& 0x80000000))) ∧
    EachActive (.fcsgn ⟨.x2, b, a, d, m⟩) 2 m.sw s (fun t => setV2 t d
      ((getV2 t a &&& 0x7FFFFFFFFFFFFFFF) ||| (getV2 t b &&& 0x8000000000000000)))

namespace Sys2Proof.Machine

/-- The table of R138, from what orders the two values. -/
def floatCompares (c : FCond) (unordered less equal : Bool) : Bool :=
  match c with
  | .eq => !unordered && equal
  | .ne => unordered || !equal
  | .lt => !unordered && less
  | .le => !unordered && (less || equal)
  | .gt => !unordered && !less && !equal
  | .ge => !unordered && !less
  | .un => unordered
  | .or => !unordered
  | .ueq => unordered || equal
  | .ult => unordered || less
  | .ule => unordered || less || equal
  | .ugt => unordered || (!less && !equal)
  | .uge => unordered || !less
  | .one => !unordered && !equal

end Sys2Proof.Machine

/-- `fcmp` (R138, R139) writes the relation of the table to pD, two finite values being ordered as numbers; an immediate
is the integer it reads as. `fclass` (R137) sets exactly the bit of the class. -/
def Sys2Proof.Claims.FloatComparesWriteThePredicate : Prop :=
  (∃ rel : FCond → XVal → XVal → Bool,
    (∀ (b : BSrc) (a : BitVec 6) (c : FCond) (q : BitVec 3) (m : Marks) (s : State), AllVector s →
      EachActive (.fcmp ⟨.x1, b, a, c, q, m⟩) 2 m.sw s (fun t => setP t q (rel c (decodeFp fp32 (getV t a).toNat)
        (match b with
          | .reg r => decodeFp fp32 (getV t r).toNat
          | .unif k => decodeFp fp32 (getK s t k).toNat
          | .imm i => ofInt i.toInt))) ∧
      EachActive (.fcmp ⟨.x2, b, a, c, q, m⟩) 2 m.sw s (fun t => setP t q (rel c (decodeFp fp64 (getV2 t a).toNat)
        (match b with
          | .reg r => decodeFp fp64 (getV2 t r).toNat
          | .unif k => decodeFp fp64 (getK2 s t k).toNat
          | .imm i => ofInt i.toInt)))) ∧
    (∀ (c : FCond) (x y : XVal), x.finite = true → y.finite = true →
      rel c x y = floatCompares c false (decide (x.num < y.num)) (decide (x.num = y.num))) ∧
    (∀ (c : FCond) (x : XVal) (a b : Bool), x.finite = true →
      rel c (.inf a) x = floatCompares c false a false ∧ rel c x (.inf b) = floatCompares c false (!b) false ∧
      rel c (.inf a) (.inf b) = floatCompares c false (a && !b) (a == b)) ∧
    ∀ (c : FCond) (x : XVal), rel c .nan x = floatCompares c true false false ∧
      rel c x .nan = floatCompares c true false false) ∧
  (∀ i : BitVec 5, (ofInt i.toInt).num = i.toInt) ∧
  ∃ cls : Fmt → Nat → Nat,
    (∀ (a d : BitVec 6) (m : Marks) (s : State), AllVector s →
      EachActive (.fclass ⟨.x1, a, d, m⟩) 2 m.sw s (fun t => setV t d (BitVec.ofNat 32 (2 ^ cls fp32 (getV t a).toNat))) ∧
      EachActive (.fclass ⟨.x2, a, d, m⟩) 2 m.sw s
        (fun t => setV2 t d (BitVec.ofNat 64 (2 ^ cls fp64 (getV2 t a).toNat)))) ∧
    ∀ (k : Fmt) (a : Nat), k = fp32 ∨ k = fp64 → a < 2 ^ k.bits →
      cls k a =
        if decodeFp k a = .nan then (if a.testBit (k.frac - 1) then 9 else 8)
        else
          let p := if a % 2 ^ (k.bits - 1) = infCode k then 7 else if a % 2 ^ (k.bits - 1) = 0 then 4
            else if a % 2 ^ (k.bits - 1) < 2 ^ k.frac then 5 else 6
          if a.testBit (k.bits - 1) then 7 - p else p

/-- The special functions (R140, R141): results are pending; NaN gives NaN, and each function gives its table's result
at infinities and zeros, below zero, and in its exact cases: `frcp` of powers of two with a representable reciprocal, `frsq` of
powers of four, `fexp2` of integers with a representable result, `flog2` of powers of two, `ftanh` from 9 on and below 2^-12.
`fsqrt` is the nearest value of the format: the exact root lies on its side of the middle between it and any other value. The
values inside the other bounds of R140 are open. -/
def Sys2Proof.Claims.SpecialFunctionsArePending : Prop :=
  (∃ rcp rsq sqr : Fmt → Nat → Nat,
    PendingFloat (fun w a d m => .frcp ⟨w, a, d, m⟩) rcp ∧ PendingFloat (fun w a d m => .frsq ⟨w, a, d, m⟩) rsq ∧
    PendingFloat (fun w a d m => .fsqrt ⟨w, a, d, m⟩) sqr ∧
    (∀ (k : Fmt) (a : Nat), decodeFp k a = .nan → rcp k a = canonNan k ∧ rsq k a = canonNan k ∧ sqr k a = canonNan k) ∧
    (∀ (k : Fmt) (a : Nat) (n : Bool), k = fp32 ∨ k = fp64 → decodeFp k a = .inf n →
      rcp k a = signed k n 0 ∧ rsq k a = (if n then canonNan k else 0) ∧
      sqr k a = (if n then canonNan k else infCode k)) ∧
    (∀ (k : Fmt) (a : Nat) (n : Bool) (e : Int), k = fp32 ∨ k = fp64 → decodeFp k a = .fin n 0 e →
      rcp k a = signed k n (infCode k) ∧ rsq k a = signed k n (infCode k) ∧ sqr k a = signed k n 0) ∧
    (∀ (k : Fmt) (a m : Nat) (e : Int), decodeFp k a = .fin true m e → m ≠ 0 →
      rsq k a = canonNan k ∧ sqr k a = canonNan k) ∧
    (∀ (k : Fmt) (a b : Nat), k = fp32 ∨ k = fp64 → a < 2 ^ k.bits → b < 2 ^ k.bits →
      (decodeFp k a).num * (decodeFp k b).num = 1 → rcp k a = b) ∧
    (∀ (k : Fmt) (a b : Nat), k = fp32 ∨ k = fp64 → a < 2 ^ k.bits → b < 2 ^ k.bits → 0 < (decodeFp k b).num →
      (decodeFp k b).num ^ 2 * (decodeFp k a).num = 1 → rsq k a = b) ∧
    ∀ (k : Fmt) (a m : Nat) (e : Int), k = fp32 ∨ k = fp64 → decodeFp k a = .fin false m e →
      (decodeFp k (sqr k a)).finite = true ∧ 0 ≤ (decodeFp k (sqr k a)).num ∧
      ∀ d, (decodeFp k d).finite = true → 0 ≤ (decodeFp k d).num →
        ((decodeFp k (sqr k a)).num < (decodeFp k d).num →
          (decodeFp k a).num ≤ (((decodeFp k (sqr k a)).num + (decodeFp k d).num) / 2) ^ 2) ∧
        ((decodeFp k d).num < (decodeFp k (sqr k a)).num →
          (((decodeFp k (sqr k a)).num + (decodeFp k d).num) / 2) ^ 2 ≤ (decodeFp k a).num)) ∧
  ∃ ex lg sn cs th : Word → Word,
    PendingWord (fun a d m => .fexp2 ⟨a, d, m⟩) ex ∧ PendingWord (fun a d m => .flog2 ⟨a, d, m⟩) lg ∧
    PendingWord (fun a d m => .fsin ⟨a, d, m⟩) sn ∧ PendingWord (fun a d m => .fcos ⟨a, d, m⟩) cs ∧
    PendingWord (fun a d m => .ftanh ⟨a, d, m⟩) th ∧
    (∀ a : Word, decodeFp fp32 a.toNat = .nan →
      ex a = 0x7FC00000 ∧ lg a = 0x7FC00000 ∧ sn a = 0x7FC00000 ∧ cs a = 0x7FC00000 ∧ th a = 0x7FC00000) ∧
    ex 0xFF800000 = 0 ∧ ex 0x7F800000 = 0x7F800000 ∧ ex 0 = 0x3F800000 ∧ ex 0x80000000 = 0x3F800000 ∧
    lg 0xFF800000 = 0x7FC00000 ∧ lg 0x7F800000 = 0x7F800000 ∧ lg 0 = 0xFF800000 ∧ lg 0x80000000 = 0xFF800000 ∧
    lg 0x3F800000 = 0 ∧ sn 0xFF800000 = 0x7FC00000 ∧ sn 0x7F800000 = 0x7FC00000 ∧ sn 0 = 0 ∧
    sn 0x80000000 = 0x80000000 ∧ cs 0x7F800000 = 0x7FC00000 ∧ cs 0xFF800000 = 0x7FC00000 ∧ cs 0 = 0x3F800000 ∧
    cs 0x80000000 = 0x3F800000 ∧ th 0xFF800000 = 0xBF800000 ∧ th 0x7F800000 = 0x3F800000 ∧ th 0 = 0 ∧
    th 0x80000000 = 0x80000000 ∧
    (∀ (a : Word) (m : Nat) (e : Int), decodeFp fp32 a.toNat = .fin true m e → m ≠ 0 → lg a = 0x7FC00000) ∧
    (∀ (a b : Word) (n : Int), (decodeFp fp32 a.toNat).finite = true → (decodeFp fp32 a.toNat).num = n →
      (decodeFp fp32 b.toNat).num = (2 : ℚ) ^ n → ex a = b) ∧
    (∀ (a : Word) (n : Int), (decodeFp fp32 a.toNat).num = (2 : ℚ) ^ n →
      (decodeFp fp32 (lg a).toNat).finite = true ∧ (decodeFp fp32 (lg a).toNat).num = n) ∧
    ∀ a : Word, (decodeFp fp32 a.toNat).finite = true →
      (9 ≤ |(decodeFp fp32 a.toNat).num| →
        th a = if 0 < (decodeFp fp32 a.toNat).num then 0x3F800000 else 0xBF800000) ∧
      (|(decodeFp fp32 a.toNat).num| * 4096 < 1 → th a = a)

/-- `fldexp` (R142), `frnd` in each mode (R143), `fexpof` and `ffract` (R144). -/
def Sys2Proof.Claims.ExponentAndRoundingAdjustment : Prop :=
  FloatForm (fun w b a d m => .fldexp ⟨w, b, a, d, m⟩) 
    (fun k a b _ => scaledPattern k a (BitVec.ofNat 32 b).toInt) ∧
  (∃ rnd : Rnd → Fmt → Nat → Nat,
    FloatForm (fun w _ a d m => .frndRn ⟨w, a, d, m⟩) (fun k a _ _ => rnd .rn k a) ∧
    FloatForm (fun w _ a d m => .frndRz ⟨w, a, d, m⟩) (fun k a _ _ => rnd .rz k a) ∧
    FloatForm (fun w _ a d m => .frndRd ⟨w, a, d, m⟩) (fun k a _ _ => rnd .rd k a) ∧
    FloatForm (fun w _ a d m => .frndRu ⟨w, a, d, m⟩) (fun k a _ _ => rnd .ru k a) ∧
    (∀ (rm : Rnd) (k : Fmt) (a : Nat), decodeFp k a = .nan → rnd rm k a = canonNan k) ∧
    (∀ (rm : Rnd) (k : Fmt) (a : Nat) (n : Bool), decodeFp k a = .inf n → rnd rm k a = a) ∧
    (∀ (rm : Rnd) (k : Fmt) (a : Nat) (n : Bool) (e : Int), decodeFp k a = .fin n 0 e → rnd rm k a = a) ∧
    ∀ (rm : Rnd) (k : Fmt) (a m : Nat) (n : Bool) (e : Int), decodeFp k a = .fin n m e → m ≠ 0 →
      ∃ q : Nat, rnd rm k a = roundFp k (.fin n q 0) .rn false ∧
        (rm = .rz ∨ rm = (if n then .ru else .rd) → q = ⌊(m : ℚ) * (2 : ℚ) ^ e⌋₊) ∧
        (rm = (if n then .rd else .ru) → q = ⌈(m : ℚ) * (2 : ℚ) ^ e⌉₊) ∧
        (rm = .rn → |(q : ℚ) - (m : ℚ) * (2 : ℚ) ^ e| ≤ 1 / 2 ∧
          (|(q : ℚ) - (m : ℚ) * (2 : ℚ) ^ e| = 1 / 2 → q % 2 = 0))) ∧
  (∃ ex : Fmt → Nat → Int,
    (∀ (a d : BitVec 6) (m : Marks) (s : State), AllVector s →
      EachActive (.fexpof ⟨.x1, a, d, m⟩) 2 m.sw s (fun t => setV t d (BitVec.ofInt 32 (ex fp32 (getV t a).toNat))) ∧
      EachActive (.fexpof ⟨.x2, a, d, m⟩) 2 m.sw s (fun t => setV2 t d (BitVec.ofInt 64 (ex fp64 (getV2 t a).toNat)))) ∧
    (∀ (k : Fmt) (a : Nat), k = fp32 ∨ k = fp64 → (decodeFp k a).finite = false → ex k a = 2 ^ (k.bits - 1) - 1) ∧
    (∀ (k : Fmt) (a : Nat) (n : Bool) (e : Int), k = fp32 ∨ k = fp64 → decodeFp k a = .fin n 0 e →
      ex k a = -2 ^ (k.bits - 1)) ∧
    ∀ (k : Fmt) (a m : Nat) (n : Bool) (e : Int), decodeFp k a = .fin n m e → m ≠ 0 →
      (2 : ℚ) ^ (ex k a) ≤ (m : ℚ) * (2 : ℚ) ^ e ∧ (m : ℚ) * (2 : ℚ) ^ e < (2 : ℚ) ^ (ex k a + 1)) ∧
  ∃ fr : Fmt → Nat → Nat, FloatForm (fun w _ a d m => .ffract ⟨w, a, d, m⟩) (fun k a _ _ => fr k a) ∧
    (∀ (k : Fmt) (a : Nat), decodeFp k a = .nan → fr k a = canonNan k) ∧
    (∀ (k : Fmt) (a : Nat) (n : Bool), decodeFp k a = .inf n → fr k a = signed k n 0) ∧
    ∀ (k : Fmt) (a m : Nat) (n : Bool) (e : Int), decodeFp k a = .fin n m e →
      ∃ q : Nat, fr k a = roundFp k (.fin n q e) .rn false ∧
        (q : ℚ) * (2 : ℚ) ^ e = (m : ℚ) * (2 : ℚ) ^ e - ⌊(m : ℚ) * (2 : ℚ) ^ e⌋₊

/-- Packed 16-bit arithmetic (R145, R146): each element by itself, rounded to nearest in its own format. -/
def Sys2Proof.Claims.PackedFormsActElementByElement : Prop :=
  PackedForm (fun bf w b a d m => .hadd ⟨bf, w, b, a, d, m⟩)
    (fun k a b _ => roundFp k (addX (decodeFp k a) (decodeFp k b) .rn) .rn false) ∧
  PackedForm (fun bf w b a d m => .hsub ⟨bf, w, b, a, d, m⟩)
    (fun k a b _ => roundFp k (addX (decodeFp k a) (negX (decodeFp k b)) .rn) .rn false) ∧
  PackedForm (fun bf w b a d m => .hmul ⟨bf, w, b, a, d, m⟩)
    (fun k a b _ => roundFp k (mulX (decodeFp k a) (decodeFp k b)) .rn false) ∧
  PackedForm (fun bf w b a d m => .hfma ⟨bf, w, b, a, d, m⟩)
    (fun k a b d => roundFp k (addX (mulX (decodeFp k a) (decodeFp k b)) (decodeFp k d) .rn) .rn false) ∧
  PackedForm (fun bf w b a d m => .hmin ⟨bf, w, b, a, d, m⟩) (fun k a b _ =>
    if decodeFp k a = .nan then (if decodeFp k b = .nan then canonNan k else b)
    else if decodeFp k b = .nan then a
    else if ltSigned (decodeFp k b) (decodeFp k a) then b else a) ∧
  PackedForm (fun bf w b a d m => .hmax ⟨bf, w, b, a, d, m⟩) (fun k a b _ =>
    if decodeFp k a = .nan then (if decodeFp k b = .nan then canonNan k else b)
    else if decodeFp k b = .nan then a
    else if ltSigned (decodeFp k a) (decodeFp k b) then b else a) ∧
  PackedForm (fun bf w b a d m => .hcmp ⟨bf, w, b, a, d, m⟩) (fun k a b _ =>
    if decodeFp k a = .nan ∨ decodeFp k b = .nan then 8
    else if ltX (decodeFp k a) (decodeFp k b) then 1
    else if ltX (decodeFp k b) (decodeFp k a) then 4 else 2) ∧
  PackedForm (fun bf w _ a d m => .habs ⟨bf, w, a, d, m⟩) (fun _ a _ _ => a % 2 ^ 15) ∧
  PackedForm (fun bf w _ a d m => .hneg ⟨bf, w, a, d, m⟩) (fun _ a _ _ => (a + 2 ^ 15) % 2 ^ 16)

/-- The direct conversions (R147, R148): each kind with its source and destination; integer destinations clamp and take 0
for a NaN, float destinations round once. -/
def Sys2Proof.Claims.DirectConversions : Prop :=
  ∀ (r : Rnd) (w : Width) (a d : BitVec 6) (m : Marks) (s : State), AllVector s →
    let i := fun (k : BitVec 4) => Instr.cvtDirect ⟨r, w, k, a, d, m⟩
    let f1 := fun (t : Thread) => decodeFp fp32 (getV t a).toNat
    let f2 := fun (t : Thread) => decodeFp fp64 (getV2 t a).toNat
    let to32 := fun (x : XVal) => BitVec.ofNat 32 (roundFp fp32 x r false)
    let to64 := fun (x : XVal) => BitVec.ofNat 64 (roundFp fp64 x r false)
    EachActive (i 0) 2 m.sw s (fun t => setV t d (to32 (f2 t))) ∧
    EachActive (i 1) 2 m.sw s (fun t => setV2 t d (to64 (f1 t))) ∧
    EachActive (i 2) 2 m.sw s (fun t => setV t d (BitVec.ofInt 32 (fpToInt (f1 t) (-2 ^ 31) (2 ^ 31 - 1) r))) ∧
    EachActive (i 3) 2 m.sw s (fun t => setV t d (BitVec.ofInt 32 (fpToInt (f1 t) 0 (2 ^ 32 - 1) r))) ∧
    EachActive (i 4) 2 m.sw s (fun t => setV t d (to32 (ofInt (getV t a).toInt))) ∧
    EachActive (i 5) 2 m.sw s (fun t => setV t d (to32 (ofInt (getV t a).toNat))) ∧
    EachActive (i 6) 2 m.sw s (fun t => setV2 t d (BitVec.ofInt 64 (fpToInt (f2 t) (-2 ^ 63) (2 ^ 63 - 1) r))) ∧
    EachActive (i 7) 2 m.sw s (fun t => setV2 t d (BitVec.ofInt 64 (fpToInt (f2 t) 0 (2 ^ 64 - 1) r))) ∧
    EachActive (i 8) 2 m.sw s (fun t => setV2 t d (to64 (ofInt (getV2 t a).toInt))) ∧
    EachActive (i 9) 2 m.sw s (fun t => setV2 t d (to64 (ofInt (getV2 t a).toNat))) ∧
    EachActive (i 10) 2 m.sw s (fun t => setV t d (BitVec.ofInt 32 (fpToInt (f2 t) (-2 ^ 31) (2 ^ 31 - 1) r))) ∧
    EachActive (i 11) 2 m.sw s (fun t => setV2 t d (to64 (ofInt (getV t a).toInt))) ∧
    EachActive (i 12) 2 m.sw s (fun t => setV2 t d (BitVec.ofInt 64 (fpToInt (f1 t) (-2 ^ 63) (2 ^ 63 - 1) r))) ∧
    EachActive (i 13) 2 m.sw s (fun t => setV t d (to32 (ofInt (getV2 t a).toInt))) ∧
    (∀ (lo hi : Int), fpToInt .nan lo hi r = 0 ∧ fpToInt (.inf true) lo hi r = lo ∧ fpToInt (.inf false) lo hi r = hi)

/-- The slot conversions (R149 to R151) and the block conversions (R152, R153) by the vector role: the element
of the named slot kind is replaced, or read; a NaN under NANM = 1 becomes +0 and is counted, and under NANM = 2 the
thread takes the NaN trap, cause 4, and writes nothing; a BFP or sparse slot, or for the block forms any other slot, is
an illegal encoding at issue. The block forms act on the gang: thread i of a group of 32 supplies element i, +0 where no such thread is active,
and word i of the block stands in thread i. -/
def Sys2Proof.Claims.SlotAndBlockConversions : Prop :=
  (∀ (f e : BitVec 3) (a d : BitVec 6) (m : Marks) (s : State) (t : Thread) (sl : SlotWord), Alone s t → t.role = 0 →
    formatSlot s t f = sl → sl.kind ≠ 5 → sl.spn = 0 →
    let b := kindBits sl.kind
    let n := e.toNat % (32 / b)
    let x := decodeFp fp32 (getV t a).toNat
    let y := decodeKind sl.kind ((getV t a).toNat / 2 ^ (b * n) % 2 ^ b)
    (x ≠ .nan ∨ sl.nanm = 0 → GoesOn (.cvtTo ⟨f, e, a, d, m⟩) m.sw s s
      (setV t d (putElement (getV t d) b n (encodeKind sl.kind x sl.rnd sl.sat)))) ∧
    (x = .nan → sl.nanm = 1 → GoesOn (.cvtTo ⟨f, e, a, d, m⟩) m.sw s (countNan s t.launch 1)
      (setV t d (putElement (getV t d) b n (encodeKind sl.kind posZero sl.rnd sl.sat)))) ∧
    (x = .nan → sl.nanm = 2 → TakesTrap (.cvtTo ⟨f, e, a, d, m⟩) s t 4 0 0) ∧
    (y ≠ .nan ∨ sl.nanm = 0 → GoesOn (.cvtFrom ⟨f, e, a, d, m⟩) m.sw s s
      (setV t d (BitVec.ofNat 32 (roundFp fp32 y .rn false)))) ∧
    (y = .nan → sl.nanm = 1 → GoesOn (.cvtFrom ⟨f, e, a, d, m⟩) m.sw s (countNan s t.launch 1) (setV t d 0)) ∧
    (y = .nan → sl.nanm = 2 → TakesTrap (.cvtFrom ⟨f, e, a, d, m⟩) s t 4 0 0)) ∧
  (∀ (f : BitVec 3) (a d : BitVec 6) (m : Marks) (s : State) (sl : SlotWord), Gang s → AllVector s →
    (∀ t ∈ actives s, formatSlot s t f = sl) → sl.kind = 5 → sl.spn = 0 →
    ((∀ t ∈ actives s, decodeFp fp32 (getV t a).toNat ≠ .nan) →
      EachActive (.bfpq ⟨f, a, d, m⟩) 2 m.sw s (fun t =>
        let i := t.tid % 32
        let blk := bfpQuantize ((List.range 32).map fun j => match blockThread s t j with
          | some u => decodeFp fp32 (getV u a).toNat
          | none => posZero) sl.m sl.rnd sl.sat
        setV2 t d (BitVec.ofInt 32 ((blk.mant[i]?).getD 0) ++
          (if i < sl.m then BitVec.ofNat 32 (mantFieldOfBlock blk sl.m / 2 ^ (32 * i))
            else if i = sl.m then BitVec.ofNat 32 (scaleOfBlock blk) else 0)))) ∧
    ((∀ t ∈ actives s, blockElement s t a sl.m ≠ .nan) →
      EachActive (.bfpdq ⟨f, a, d, m⟩) 2 m.sw s (fun t =>
        setV t d (BitVec.ofNat 32 (roundFp fp32 (blockElement s t a sl.m) .rn false))))) ∧
  ∀ (f e : BitVec 3) (a d : BitVec 6) (m : Marks) (s : State) (t : Thread) (sl : SlotWord), Alone s t →
    formatSlot s t f = sl →
    (sl.kind = 5 ∨ sl.spn ≠ 0 → TakesTrap (.cvtTo ⟨f, e, a, d, m⟩) s t 1 0 0 ∧
      TakesTrap (.cvtFrom ⟨f, e, a, d, m⟩) s t 1 0 0) ∧
    (sl.kind ≠ 5 ∨ sl.spn ≠ 0 → TakesTrap (.bfpq ⟨f, a, d, m⟩) s t 1 0 0 ∧ TakesTrap (.bfpdq ⟨f, a, d, m⟩) s t 1 0 0)

/-! ### Control, awaits, groups and traps (spec/06, spec/14) -/

namespace Sys2Proof.Machine

/-- Where a thread goes from a `bra` (R157): the target when the predicate field is 0 or the predicate differs from N,
else the following instruction. PCs are 32 bits. -/
def afterBranch (x : Bra) (t : Thread) : Nat :=
  if x.g = 0 ∨ getP t x.g ≠ x.n then (((t.pc : Int) + x.o.toInt) % 2 ^ 32).toNat else t.pc + 2

/-- The thread's segment ends at the instruction with a wake code and operand. -/
def Blocks (i : Instr) (s : State) (t : Thread) (wake operand : Nat) (q : Bool) : Prop :=
  exec i s = .next (settleTurn (endSegment (traceEnds s [t] wake) t (endAt (traceEnds s [t] wake) t wake operand q)))

/-- An await: where its condition holds the thread goes on; else, at a safe point, its segment ends with the wake code
and operand; else it takes NOSAFE, cause 8 (R164). -/
def Awaits (mk : Marks → Instr) (s : State) (t t1 : Thread) (holds : Bool) (wake operand : Nat) (q : Bool) : Prop :=
  ∀ m : Marks,
    (holds = true → GoesOn (mk m) m.sw s s t1) ∧
    (holds = false → m.stop = true → (ordinalOf s t t.pc).isSome = true → Blocks (mk m) s t wake operand q) ∧
    (holds = false → m.stop = false ∨ ordinalOf s t t.pc = none → TakesTrap (mk m) s t 8 0 0)

/-- No recording is under way for a launch. -/
def NotRecorded (s : State) (launch : Nat) : Prop := ∀ r ∈ s.recording, r.launch ≠ some launch

/-- A collective on a group can act: g0 always, gN when every subgroup is non-empty and wholly active (R34, R172). -/
def CollectiveReady (s : State) (g : BitVec 3) : Prop :=
  g = 0 ∨ ∀ t ∈ actives s, (subOf t g).size ≠ 0 ∧ wholeSubgroup s g t = true

/-- The values of a register of the members a collective acts over, with their ranks, in increasing rank (R171). -/
def memberValues (s : State) (g : BitVec 3) (t : Thread) (a : BitVec 6) : List (Nat × Word) :=
  (ranked s g t).map fun p => (p.1, getV p.2 a)

/-- A thread's own rank: its place among the active threads for g0, %tid - BASE for gN (R171). -/
def ownRank (s : State) (g : BitVec 3) (t : Thread) : Nat :=
  if g = 0 then ((actives s).filter fun u => decide (seatOrder u < seatOrder t)).length
  else t.tid - (subOf t g).base.toNat

/-- A vote gives every member one value of the members' values (R174). -/
def VoteForm (mk : Vote → Instr) (f : List (Nat × Word) → Word) : Prop :=
  ∀ (g : BitVec 3) (a d : BitVec 6) (m : Marks) (s : State), CollectiveReady s g →
    EachActive (mk ⟨g, a, d, m⟩) 2 m.sw s (fun t => setV t d (f (memberValues s g t a)))

/-- A shuffle reads the member of the rank that the thread's own rank and second source name, itself where there is no
such member (R175). -/
def ShuffleForm (mk : Shfl → Instr) (lane : Nat → Nat → Int) : Prop :=
  ∀ (g : BitVec 3) (a b d : BitVec 6) (m : Marks) (s : State), CollectiveReady s g →
    EachActive (mk ⟨g, b, a, d, m⟩) 2 m.sw s (fun t =>
      let j := lane (ownRank s g t) (getV t b).toNat
      setV t d (match (memberValues s g t a).find? fun v => decide ((v.1 : Int) = j) &&
          decide (j < if g = 0 then (actives s).length else groupSize (subOf t g).size) with
        | some v => v.2
        | none => getV t a))

/-- A reduction at x1 and x2, over the members in increasing rank (R176), of gangs whose role may issue it. -/
def ReduceForm (mk : Gred → Instr) (role : State → Prop) (f : (n : Nat) → BitVec n → BitVec n → BitVec n) : Prop :=
  ∀ (g : BitVec 3) (a d : BitVec 6) (m : Marks) (s : State), CollectiveReady s g → role s →
    EachActive (mk ⟨false, g, a, d, m⟩) 2 m.sw s (fun t => setV t d
      (match (ranked s g t).map fun p => getV p.2 a with
        | [] => 0
        | x :: xs => xs.foldl (f 32) x)) ∧
    EachActive (mk ⟨true, g, a, d, m⟩) 2 m.sw s (fun t => setV2 t d
      (match (ranked s g t).map fun p => getV2 p.2 a with
        | [] => 0
        | x :: xs => xs.foldl (f 64) x))

/-- A scan: the combination of the members up to the thread's rank, or below it, the identity where there is none
(R176). -/
def ScanForm (mk : Gscan → Instr) (role : State → Prop) (f : Word → Word → Word) (identity : Word) : Prop :=
  ∀ (exc : Bool) (g : BitVec 3) (a d : BitVec 6) (m : Marks) (s : State), CollectiveReady s g → role s →
    EachActive (mk ⟨exc, g, a, d, m⟩) 2 m.sw s (fun t => setV t d
      (match ((memberValues s g t a).filter fun v =>
          if exc then decide (v.1 < ownRank s g t) else decide (v.1 ≤ ownRank s g t)).map Prod.snd with
        | [] => identity
        | x :: xs => xs.foldl f x))

end Sys2Proof.Machine

/-- `bra` (R157, R158): a thread alone goes to its target or on; when the threads of a gang reach two or more next PCs,
the gang splits: every member gets FRAG, the fragment with the lowest next PC runs on, the others wait, nothing but PC,
counts and place of a member changes, and a fragment that waited before waits on. That no older fragment is a candidate is
log entry 80. -/
def Sys2Proof.Claims.BranchesTakeAndSplit : Prop :=
  (∀ (x : Bra) (s : State) (t : Thread), Alone s t →
    exec (.bra x) s = .next (setThread s (retireTo (afterBranch x t) x.m.sw t))) ∧
  ∀ (x : Bra) (s : State) (k : SlotKey), Gang s → s.turn = some k →
    (∃ t ∈ actives s, ∃ u ∈ actives s, afterBranch x t ≠ afterBranch x u) →
    ∃ s' p, exec (.bra x) s = .next s' ∧ s' = { s with threads := s'.threads } ∧
      (∃ t ∈ s'.threads, inRunning k t = true) ∧
      List.Forall₂ (fun t t' =>
        if isActive s t = true then
          t'.pc = afterBranch x t ∧ p ≤ t'.pc ∧ t'.fl.frag = true ∧
          t'.place = (if t'.pc = p then .running k.slot else .waiting k.slot) ∧
          t' = { t with pc := t'.pc, path := t'.path, fl := t'.fl, place := t'.place }
        else t' = t) s.threads s'.threads

/-- `jmp`, `call` and `ret` (R160, R353): the target is the offset of the entry with the ordinal in vT, in the issuing
kernel, else BAD_TARGET, cause 9, with the ordinal as detail; `call` links the safe point that follows it, and takes
NOSAFE where none does; each transfer ends trap state. -/
def Sys2Proof.Claims.IndirectTransfersGoToSafePoints : Prop :=
  ∀ (s : State) (t : Thread) (img : ModuleImage) (kd : KernelDecl) (r : BitVec 6) (m : Marks), Alone s t →
    imageOf s t.launch = some img → kernelOf s t.launch = some kd →
    (∀ e : StopEntry, img.stops[(getV t r).toNat]? = some e → kd.first ≤ e.off → e.off < kd.last →
      exec (.jmp ⟨r, m⟩) s = .next (setThread s (retireTo e.off m.sw { t with trapState := none })) ∧
      exec (.ret ⟨r, m⟩) s = .next (setThread s (retireTo e.off m.sw { t with trapState := none })) ∧
      (∀ (l : BitVec 6) (o : Nat), safeOrdinal s t (t.pc + 2) = some o →
        exec (.call ⟨l, r, m⟩) s =
          .next (setThread s (retireTo e.off m.sw { (setV t l (BitVec.ofNat 32 o)) with trapState := none })))) ∧
    ((∀ e : StopEntry, img.stops[(getV t r).toNat]? = some e → ¬ (kd.first ≤ e.off ∧ e.off < kd.last)) →
      TakesTrap (.jmp ⟨r, m⟩) s t 9 0 ((getV t r).setWidth 64) ∧
      TakesTrap (.ret ⟨r, m⟩) s t 9 0 ((getV t r).setWidth 64) ∧
      ∀ (l : BitVec 6) (o : Nat), safeOrdinal s t (t.pc + 2) = some o →
        TakesTrap (.call ⟨l, r, m⟩) s t 9 0 ((getV t r).setWidth 64)) ∧
    ∀ l : BitVec 6, safeOrdinal s t (t.pc + 2) = none → TakesTrap (.call ⟨l, r, m⟩) s t 8 0 0

/-- `reform` (R159, R162): every thread of the slot's fragments is filed under its next PC, in a seat bin or the overflow
queue, with ORIG 1 and the time of filing, and the slot is free; a thread whose segment end still waits for its results
leaves the slot and waits on. -/
def Sys2Proof.Claims.ReformFilesTheSlot : Prop :=
  ∀ (m : Marks) (s : State) (k : SlotKey), s.turn = some k → (s.threads.map fun t => (t.wg, t.tid)).Nodup →
    ∃ s', exec (.reform ⟨m⟩) s = .next s' ∧ s' = { s with threads := s'.threads, slots := s'.slots } ∧
      s'.slots = s.slots.filter (fun x => !decide (x.key = k)) ∧
      List.Forall₂ (fun t t' =>
        if inRunning k t = true ∨ inWaiting k t = true then
          t'.pc = (if inRunning k t then t.pc + 2 else t.pc) ∧ (t'.place = .binned ∨ t'.place = .overflow) ∧
          t'.orig = 1 ∧ t'.filedAt = s.clock + 4096 ∧ t'.v = t.v ∧ t'.p = t.p ∧ t'.g = t.g
        else if inEnding k t = true then ∃ e, t.place = .ending e (some k.slot) ∧ t' = { t with place := .ending e none }
        else t' = t) s.threads s'.threads

/-- The awaits of rings, the far group, guard slots and clocks (R164, R165), with BAD_OPERAND, cause 10, for a ring that
is not there; the barrier and ingress kinds stand with the barriers. A guard await writes the outcome. -/
def Sys2Proof.Claims.AwaitForms : Prop :=
  ∀ (s : State) (t : Thread) (g : Workgroup) (a : BitVec 6), Alone s t → findWg s t.wg = some g →
    (∀ (q : Bool) (r : Ring), findRing g ((getV t a).toNat % 256) = some r →
      Awaits (fun m => .awaitRing ⟨q, a, m⟩) s t t (if q then !r.countsFull else !r.empty) 2
        ((getV t a).toNat % 256) q) ∧
    (∀ (q : Bool) (m : Marks), findRing g ((getV t a).toNat % 256) = none →
      TakesTrap (.awaitRing ⟨q, a, m⟩) s t 10 0 0) ∧
    (t.farFault = none → Awaits (fun m => .awaitFar ⟨m⟩) s t t t.far.isEmpty 3 0 false) ∧
    (∀ n : BitVec 4, guardState g n.toNat = .isTrue → Awaits (fun m => .awaitGd ⟨n, a, m⟩) s t (setV t a 1) true 4 n.toNat false) ∧
    (∀ n : BitVec 4, guardState g n.toNat = .isFalse → Awaits (fun m => .awaitGd ⟨n, a, m⟩) s t (setV t a 0) true 4 n.toNat false) ∧
    (∀ n : BitVec 4, guardState g n.toNat = .idle ∨ guardState g n.toNat = .armed →
      Awaits (fun m => .awaitGd ⟨n, a, m⟩) s t t false 4 n.toNat false) ∧
    (∀ q : Bool, Awaits (fun m => .awaitTmr ⟨q, a, m⟩) s t t
      (decide ((getV2 t a).toNat ≤ if q then s.ptp.time else s.clock)) 6 (getV2 t a).toNat q)

/-- A segment that ends with nothing outstanding, in a context whose record pool has room, frees the seat and writes one
record that carries the wake code, the predicates, the group registers, and the live registers of the safe point (all
registers for an extension 3), the others reading zero, and, with no extension 3, the operand log (R47, R256, R259). -/
def Sys2Proof.Claims.SegmentEndWritesARecord : Prop :=
  ∀ (s : State) (t : Thread) (g : Workgroup) (e : SegEnd), findWg s t.wg = some g → t.pend = [] →
    poolFull s t.launch = false →
    (∀ u ∈ (endSegment s t e).threads, ¬ (u.wg = t.wg ∧ u.tid = t.tid)) ∧
    (∀ u ∈ s.threads, ¬ (u.wg = t.wg ∧ u.tid = t.tid) → u ∈ (endSegment s t e).threads) ∧
    ∃ r ∈ (endSegment s t e).records, r.id = s.nextId ∧ r.th.wg = t.wg ∧ r.th.tid = t.tid ∧ r.th.pc = t.pc ∧
      r.fin.wake = e.wake ∧ r.fin.ord = e.ord ∧ r.fin.operand = e.operand ∧ r.th.p = t.p ∧ r.th.g = t.g ∧
      r.th.log = (if e.ext = 3 then none else t.log) ∧ (r.th.log.isSome = true → r.fin.flt = true) ∧
      ∀ i : BitVec 6, getV r.th i =
        if e.ext = 3 ∨ (liveMask s t).getLsbD i.toNat = true then getV t i else 0

/-- `exit` (R167): with nothing outstanding the thread leaves its seat for good and is counted as exited; else it keeps
its seat until its results are written and its far group is empty. A far violation not yet raised is its ACCESS trap. -/
def Sys2Proof.Claims.ExitLeavesTheSeat : Prop :=
  ∀ (m : Marks) (s : State) (t : Thread), Alone s t →
    (t.farFault = none → t.pend = [] → t.far = [] → ∃ s', exec (.exit ⟨m⟩) s = .next s' ∧
      (∀ u ∈ s'.threads, ¬ (u.wg = t.wg ∧ u.tid = t.tid)) ∧
      (∀ g ∈ s'.wgs, g.id = t.wg → t.tid ∈ g.exited) ∧ s'.mem = s.mem ∧ s'.records = s.records) ∧
    (t.farFault = none → t.pend ≠ [] ∨ t.far ≠ [] → exec (.exit ⟨m⟩) s = .next (settleTurn (setThread s
      { t with trapState := none, place := .ending .exit t.slotNum, fl := { t.fl with park := false } }))) ∧
    (∀ a : Nat, t.farFault = some a → exec (.exit ⟨m⟩) s = .next (settleTurn
      (takeTrap (setThread s { t with farFault := none }) [{ t with farFault := none }] 14 0 (BitVec.ofNat 64 a)
        (wordOf (.exit ⟨m⟩)))))

/-- `abort` (R168) kills the launch with status ABORTED and the code of the active thread with the lowest seat; a kill
removes every thread, record and queued command of the launch, but for a running copy job whose current pieces land and that
begins no other, ends its workgroups, their scratch, tiles, B tier, handles and waiting traps gone, and a second kill of a
launch changes nothing (R357). -/
def Sys2Proof.Claims.AbortKillsTheLaunch : Prop :=
  (∀ (r : BitVec 6) (m : Marks) (s : State) (t : Thread) (ts : List Thread), actives s = t :: ts →
    exec (.abort ⟨r, m⟩) s = .next (killLaunch s t.launch 1 (getV t r))) ∧
  (∀ (s : State) (l : Launch) (status : Nat) (code : Word), findLaunch s l.id = some l → l.killed = none →
    l.phase ≠ .ended → ∃ s', killLaunch s l.id status code = s' ∧
      (∃ l', findLaunch s' l.id = some l' ∧ l'.killed = some status ∧ l'.abortCode = code ∧ l'.heldPackets = []) ∧
      ∀ g ∈ s.wgs, g.launch = l.id → g.phase ≠ .ended →
        (∀ t ∈ s'.threads, t.wg ≠ g.id) ∧ (∀ r ∈ s'.records, r.th.wg ≠ g.id) ∧
        (∀ c ∈ s'.cmds, c.wg = g.id → pieceOpen c = true ∧ ∀ p ∈ c.pieces, p.data.isSome = true) ∧
        (∃ g' ∈ s'.wgs, g'.id = g.id) ∧
        ∀ g' ∈ s'.wgs, g'.id = g.id → g'.phase = .ended ∧ g'.scratch = [] ∧ g'.tiles = [] ∧ g'.rowNan = [] ∧ g'.btier = [] ∧
          g'.handles = [] ∧ g'.heldTraps = [] ∧ g'.lateTraps = [] ∧ g'.cover.dead = true) ∧
  ∀ (s : State) (l : Launch) (status : Nat) (code : Word), findLaunch s l.id = some l →
    l.killed.isSome = true ∨ l.phase = .ended → killLaunch s l.id status code = s

/-- `part` (R169) writes the descriptor of each thread's subgroup of 4, 8 or 16 threads, or an empty one. -/
def Sys2Proof.Claims.PartNamesTheSubgroup : Prop :=
  ∀ (z : BitVec 2) (n : BitVec 3) (m : Marks) (s : State),
    EachActive (.part ⟨z, n, m⟩) 2 m.sw s (fun t =>
      let d : Sub := if z = 0 then ⟨0, 0⟩ else ⟨z, BitVec.ofNat 12 (t.tid / 2 ^ (z.toNat + 1) * 2 ^ (z.toNat + 1))⟩
      { t with g := t.g.set n.toNat d n.isLt })

/-- Votes and shuffles (R174, R175) over the whole gang, or over subgroups that are wholly active. -/
def Sys2Proof.Claims.VotesAndShuffles : Prop :=
  VoteForm .voteAny (fun vs => if ∃ v ∈ vs, v.2 ≠ 0 then 1 else 0) ∧
  VoteForm .voteAll (fun vs => if ∀ v ∈ vs, v.2 ≠ 0 then 1 else 0) ∧
  VoteForm .voteBallot (fun vs => BitVec.ofNat 32 ((vs.filter fun v => v.2 ≠ 0).map fun v => 2 ^ v.1).sum) ∧
  VoteForm .voteUeq (fun vs => if ∀ v ∈ vs, ∀ w ∈ vs, v.2 = w.2 then 1 else 0) ∧
  ShuffleForm .shflIdx (fun _ v => v) ∧ ShuffleForm .shflUp (fun r v => r - v) ∧
  ShuffleForm .shflDown (fun r v => r + v) ∧ ShuffleForm .shflXor (fun r v => (r ^^^ v : Nat))

/-- Reductions and scans (R176): the steps in increasing rank, each float step rounded once; the float ones are for the
vector role. -/
def Sys2Proof.Claims.ReductionsAndScans : Prop :=
  let any := fun (_ : State) => True
  let fadd := fun (n : Nat) (a b : BitVec n) => BitVec.ofNat n (roundFp (fmtOf n)
    (addX (decodeFp (fmtOf n) a.toNat) (decodeFp (fmtOf n) b.toNat) .rn) .rn false)
  let fmax := fun (n : Nat) (a b : BitVec n) =>
    if decodeFp (fmtOf n) a.toNat = .nan ∧ decodeFp (fmtOf n) b.toNat = .nan then BitVec.ofNat n (canonNan (fmtOf n))
    else if decodeFp (fmtOf n) a.toNat = .nan then b
    else if decodeFp (fmtOf n) b.toNat = .nan then a
    else if ltSigned (decodeFp (fmtOf n) a.toNat) (decodeFp (fmtOf n) b.toNat) then b else a
  ReduceForm .gredIadd any (fun _ a b => a + b) ∧ ReduceForm .gredMins any (fun _ a b => if a.sle b then a else b) ∧
  ReduceForm .gredMaxs any (fun _ a b => if b.sle a then a else b) ∧ ReduceForm .gredAnd any (fun _ a b => a &&& b) ∧
  ReduceForm .gredOr any (fun _ a b => a ||| b) ∧ ReduceForm .gredXor any (fun _ a b => a ^^^ b) ∧
  ReduceForm .gredFadd AllVector fadd ∧ ReduceForm .gredFmax AllVector fmax ∧
  ScanForm .gscanIadd any (fun a b => a + b) 0 ∧
  ScanForm .gscanMins any (fun a b => if a.sle b then a else b) 0x7FFFFFFF ∧
  ScanForm .gscanMaxs any (fun a b => if b.sle a then a else b) 0x80000000 ∧
  ScanForm .gscanAnd any (fun a b => a &&& b) 0xFFFFFFFF ∧ ScanForm .gscanOr any (fun a b => a ||| b) 0 ∧
  ScanForm .gscanXor any (fun a b => a ^^^ b) 0 ∧ ScanForm .gscanFadd AllVector (fadd 32) 0x80000000 ∧
  ScanForm .gscanFmax AllVector (fmax 32) 0xFF800000

/-- A collective on gN takes EMPTY_GROUP, cause 3, on the threads whose gN is empty, and changes no thread otherwise (R34);
where some subgroup is not wholly active, the active threads are filed at the collective's PC, and the slot goes to the
waiting fragment of the lowest next PC, or is free where none waits (R159, R172). -/
def Sys2Proof.Claims.CollectivesTrapOrGather : Prop :=
  ∀ (mk : Vote → Instr), mk ∈ [Instr.voteAny, .voteAll, .voteBallot, .voteUeq] →
    ∀ (x : Vote) (s : State) (k : SlotKey), Gang s → s.turn = some k → x.g ≠ 0 →
      ((∃ t ∈ actives s, (subOf t x.g).size = 0) → exec (mk x) s = .next (settleTurn (takeTrap s
        ((actives s).filter fun t => decide ((subOf t x.g).size = 0)) 3 0 0 (wordOf (mk x))))) ∧
      ((∀ t ∈ actives s, (subOf t x.g).size ≠ 0) → (∃ t ∈ actives s, wholeSubgroup s x.g t = false) →
        ∃ s', exec (mk x) s = .next s' ∧ s' = { s with threads := s'.threads, slots := s'.slots } ∧
          s'.slots = (if ∃ u ∈ s.threads, inWaiting k u = true ∨ inEnding k u = true then s.slots
            else s.slots.filter fun y => !decide (y.key = k)) ∧
          List.Forall₂ (fun t t' =>
            if isActive s t = true then
              t'.pc = t.pc ∧ (t'.place = .binned ∨ t'.place = .overflow) ∧ t'.orig = 1 ∧
              t'.filedAt = s.clock + 4096 ∧ t'.v = t.v ∧ t'.p = t.p ∧ t'.g = t.g
            else if inWaiting k t = true ∧ (∀ u ∈ s.threads, inWaiting k u = true → t.pc ≤ u.pc) ∧
                (∀ u ∈ s.threads, inEnding k u = false) then t' = { t with place := .running k.slot }
            else t' = t) s.threads s'.threads)

/-- `nop` retires and does nothing more; `trap n` raises SOFTWARE, cause 5 with code n, on every active thread; `brk` off a
safe point raises NOSAFE, at one without a session BREAK, cause 6, and with a session a stop of the threads, which the
session is told of (R177, R358). -/
def Sys2Proof.Claims.SystemInstructions : Prop :=
  (∀ (m : Marks) (s : State), EachActive (.nop ⟨m⟩) 2 m.sw s id) ∧
  (∀ (c : BitVec 8) (m : Marks) (s : State), Gang s → exec (.trap ⟨c, m⟩) s =
    .next (settleTurn (takeTrap s (actives s) 5 c.toNat 0 (wordOf (.trap ⟨c, m⟩))))) ∧
  ∀ (m : Marks) (s : State) (t : Thread), Alone s t →
    (m.stop = false ∨ ordinalOf s t t.pc = none → TakesTrap (.brk ⟨m⟩) s t 8 0 0) ∧
    (m.stop = true → ∀ o, ordinalOf s t t.pc = some o →
      (sessionOn s (ctxOfWg s t.wg) = false → TakesTrap (.brk ⟨m⟩) s t 6 0 0) ∧
      (sessionOn s (ctxOfWg s t.wg) = true → t.fl.skipBreak = true → EachActive (.brk ⟨m⟩) 2 m.sw s id) ∧
      (sessionOn s (ctxOfWg s t.wg) = true → t.fl.skipBreak = false → t.pend = [] → poolFull s t.launch = false → ∀ g, findWg s t.wg = some g → ∃ s', exec (.brk ⟨m⟩) s = .next s' ∧
          (∀ u ∈ s'.threads, ¬ (u.wg = t.wg ∧ u.tid = t.tid)) ∧
          s'.out.head? = some (.stop (ctxOfWg s t.wg) o g.wgid [t.tid]) ∧
          ∃ r ∈ s'.records, r.th.wg = t.wg ∧ r.th.tid = t.tid ∧ r.fin.wake = 11 ∧ r.fin.halt = true ∧
            r.fin.trapPc = t.pc))

/-- The guard instructions (R37, R178): `gdarm` arms the slot from any state; `gdset` resolves an armed slot, binds the
unbound commands under it and wakes those that await it, and is ignored in every other state. -/
def Sys2Proof.Claims.GuardInstructions : Prop :=
  ∀ (n : BitVec 4) (s : State) (t : Thread) (g : Workgroup), Alone s t → findWg s t.wg = some g → NotRecorded s g.launch →
    (∀ m : Marks, GoesOn (.gdarm ⟨n, m⟩) m.sw s
      (updWg s t.wg fun g => { g with guards := g.guards.set n.toNat .armed n.isLt })
      { t with path := { t.path with syncOps := t.path.syncOps + 1 } }) ∧
    (∀ (i v : Bool) (a : BitVec 6) (m : Marks),
      let b := if i then v else decide (getV t a ≠ 0)
      (guardState g n.toNat ≠ .armed → GoesOn (.gdset ⟨i, v, n, a, m⟩) m.sw s s
        { t with path := { t.path with syncOps := t.path.syncOps + 1 } }) ∧
      (guardState g n.toNat = .armed → GoesOn (.gdset ⟨i, v, n, a, m⟩) m.sw s
        (retestWg { s with
          wgs := updWhere (fun g => decide (g.id = t.wg)) (fun g => { g with
            guards := g.guards.set n.toNat (if b then GuardState.isTrue else .isFalse) n.isLt }) s.wgs
          cmds := s.cmds.map fun c =>
            if c.wg = t.wg ∧ c.gd = n.toNat ∧ c.bound = none then { c with bound := some b } else c } t.wg 4)
        { t with path := { t.path with syncOps := t.path.syncOps + 1 } }))

/-- Taking a trap, the shared operation (R351, R352): where a trap entry or a session takes the records and no stop of the
workgroup is under way, a thread that traps alone leaves its seat; its record carries wake code 10, FLT, extension 3, its PC at the trapping instruction, the
sequence number, word 0 of the trap record (cause, and code in bits 15:8), and all its registers; the context's sequence
number and the launch's count of trap records go up by one. A STEP trap, cause 7, goes to the session with code 11 and
HALT. While the workgroup is stopped the record of the trap waits for the stop's end, none is counted, and the thread's own
record is written all the same (R480, log 93). -/
def Sys2Proof.Claims.TakingATrapSavesTheThread : Prop :=
  ∀ (s : State) (t : Thread) (g : Workgroup) (c : Context) (l : Launch) (cause code : Nat) (detail : BitVec 64)
    (word : BitVec 32), findWg s t.wg = some g → findCtx s g.ctx = some c → findLaunch s g.launch = some l →
    t.pend = [] → poolFull s t.launch = false → t.trapState = none → cause < 256 → code < 256 →
    trapEntryOn s g.launch = true ∨ c.session = true ∨ g.stop ≠ .none → c.trace = none →
    ∃ s', takeTrap s [t] cause code detail word = s' ∧
      (∀ u ∈ s'.threads, ¬ (u.wg = t.wg ∧ u.tid = t.tid)) ∧
      (∃ c', findCtx s' g.ctx = some c' ∧ c'.trapSeq = if g.stop = .none then c.trapSeq + 1 else c.trapSeq) ∧
      (∃ l', findLaunch s' g.launch = some l' ∧ l'.counts.trapRecords =
        if g.stop = .none then min (l.counts.trapRecords + 1) 0xFFFFFFFF else l.counts.trapRecords) ∧
      (∃ g', findWg s' t.wg = some g' ∧ g'.heldTraps = if g.stop = .none then g.heldTraps
        else g.heldTraps ++ [trapOf s t [t] cause code detail word]) ∧
      ∃ r ∈ s'.records, r.th.wg = t.wg ∧ r.th.tid = t.tid ∧ r.fin.ext = 3 ∧ r.fin.trapPc = t.pc ∧
        r.fin.trapSeq = c.trapSeq ∧ r.fin.trapWord.toNat = cause + 256 * code ∧
        r.fin.wake = (if cause = 7 then 11 else 10) ∧ r.fin.halt = decide (cause = 7) ∧
        (cause ≠ 7 → r.fin.flt = true) ∧ (∀ i : BitVec 6, getV r.th i = getV t i) ∧ r.th.p = t.p ∧ r.th.g = t.g

/-- The layout of the trap record (R180): 64 bytes, each field at its offset. -/
def Sys2Proof.Claims.TrapRecordLayout : Prop :=
  ∀ (cause code : Nat) (ord : Word) (since wgid : Nat) (seq parent fmask amask smask gsw : Word) (clock : Nat)
    (word : BitVec 32) (cluster : Nat) (detail : BitVec 64),
    let bs := trapBytes cause code ord since wgid seq parent fmask amask smask gsw clock word cluster detail
    let at_ := fun (off n : Nat) => ofBytes ((bs.drop off).take n)
    bs.length = 64 ∧ (cause < 256 → code < 256 → at_ 0 1 = cause ∧ at_ 1 1 = code ∧ at_ 2 2 = 0) ∧
    at_ 0x04 4 = ord.toNat ∧ at_ 0x08 4 = since % 2 ^ 32 ∧ at_ 0x0C 4 = wgid % 2 ^ 32 ∧ at_ 0x10 4 = seq.toNat ∧
    at_ 0x14 4 = parent.toNat ∧ at_ 0x18 4 = fmask.toNat ∧ at_ 0x1C 4 = amask.toNat ∧ at_ 0x20 4 = smask.toNat ∧
    at_ 0x24 4 = gsw.toNat ∧ at_ 0x28 8 = clock % 2 ^ 64 ∧ at_ 0x30 4 = word.toNat ∧ at_ 0x34 4 = cluster % 2 ^ 32 ∧
    at_ 0x38 8 = detail.toNat

/-- Entering the trap handler (R353): a released record resumes at the `.trap` label of its kernel, v62 the sequence
number and v63 word 0 of the trap record, in trap state; every other register is as saved. Leaving trap state changes
nothing else. -/
def Sys2Proof.Claims.TrapEntryWritesTwoRegisters : Prop :=
  (∀ (s : State) (t : Thread) (e : SegEnd) (kd : KernelDecl) (pc : Nat), trapEntryOn s t.launch = true →
    kernelOf s t.launch = some kd → kd.trap = some pc →
    (enterTrap s t e).pc = pc ∧ getV (enterTrap s t e) 62 = e.trapSeq ∧ getV (enterTrap s t e) 63 = e.trapWord ∧
    (enterTrap s t e).trapState = some s.clock ∧ (enterTrap s t e).p = t.p ∧
    ∀ i : BitVec 6, i.toNat < 62 → getV (enterTrap s t e) i = getV t i) ∧
  ∀ t : Thread, leaveTrap t = { t with trapState := none }

/-- Roles (R103, R128, R272): a gang of the copy or matrix role that issues a floating-point instruction takes
ILLEGAL_ISSUE, cause 2, on every active thread, and nothing is written; the integer forms are for every role. -/
def Sys2Proof.Claims.RolesForbidFloatingPoint : Prop :=
  ∀ (s : State), Gang s → (∀ t ∈ actives s, t.role ≠ 0) →
    (∀ x : FArith, exec (.fadd x) s = .next (settleTurn (takeTrap s (actives s) 2 0 0 (wordOf (.fadd x))))) ∧
    (∀ x : VF3, exec (.fmin x) s = .next (settleTurn (takeTrap s (actives s) 2 0 0 (wordOf (.fmin x))))) ∧
    (∀ x : VF2, exec (.frcp x) s = .next (settleTurn (takeTrap s (actives s) 2 0 0 (wordOf (.frcp x))))) ∧
    (∀ x : FCmp, exec (.fcmp x) s = .next (settleTurn (takeTrap s (actives s) 2 0 0 (wordOf (.fcmp x))))) ∧
    (∀ x : H3, exec (.hfma x) s = .next (settleTurn (takeTrap s (actives s) 2 0 0 (wordOf (.hfma x))))) ∧
    ∀ x : Cvt, exec (.cvtDirect x) s = .next (settleTurn (takeTrap s (actives s) 2 0 0 (wordOf (.cvtDirect x))))

/-! ### Memory, atomics, barriers and rings (spec/09) -/

namespace Sys2Proof.Machine

/-- A gang of one thread, with the launch and the workgroup it belongs to. -/
def StandsIn (s : State) (t : Thread) (l : Launch) (g : Workgroup) : Prop :=
  Alone s t ∧ findLaunch s t.launch = some l ∧ findWg s t.wg = some g

/-- The address of the M1 form (R187): the offset counts whole accesses. -/
def m1Address (x : Mem1) (t : Thread) : Nat :=
  if x.c = .scr ∨ x.c = .win then (getV t x.a + x.o.signExtend 32 * BitVec.ofNat 32 x.k.size).toNat
  else (getV2 t x.a + x.o.signExtend 64 * BitVec.ofNat 64 x.k.size).toNat

/-- The address of the M2 form (R187): a uniform base, and an index that counts whole accesses. -/
def m2Address (x : Mem2) (s : State) (t : Thread) : Nat :=
  let base : BitVec 5 := x.n ++ 0#1
  if x.c = .scr ∨ x.c = .win then (getK s t base + getV t x.x * BitVec.ofNat 32 x.k.size).toNat
  else (getK2 s t base +
    (if x.sx then (getV t x.x).signExtend 64 else (getV t x.x).setWidth 64) * BitVec.ofNat 64 x.k.size).toNat

/-- The load instructions, with their marks, space, access, destination and address. -/
def IsLoad (s : State) (t : Thread) (i : Instr) (m : Marks) (c : Space) (k : Access) (d : BitVec 6) (a : Nat) : Prop :=
  (∃ x : Mem1, i = .ld x ∧ m = x.m ∧ c = x.c ∧ k = x.k ∧ d = x.t ∧ a = m1Address x t) ∨
  ∃ x : Mem2, i = .ldk x ∧ m = x.m ∧ c = x.c ∧ k = x.k ∧ d = x.t ∧ a = m2Address x s t

/-- The store instructions, with the bytes they store: the low bytes of the named group, the first register first. -/
def IsStore (s : State) (t : Thread) (i : Instr) (m : Marks) (c : Space) (bs : List Byte) (a : Nat) : Prop :=
  ∃ (k : Access) (r : BitVec 6), bs = (bytesOfWords ((List.range k.width.regs).map fun n =>
      getV t (r + BitVec.ofNat 6 n))).take k.size ∧
    ((∃ x : Mem1, i = .st x ∧ m = x.m ∧ c = x.c ∧ k = x.k ∧ r = x.t ∧ a = m1Address x t) ∨
    ∃ x : Mem2, i = .stk x ∧ m = x.m ∧ c = x.c ∧ k = x.k ∧ r = x.t ∧ a = m2Address x s t)

/-- An instruction whose one global address had its answer goes on: the answer is used up (R189). -/
def GoesOnAt (i : Instr) (sw : Bool) (s s1 : State) (t1 : Thread) (g : Workgroup) (a : Nat) : Prop :=
  exec i s = .next (useWalks (setThread s1 (retire (lengthOf i) sw t1)) g.home.cluster (asidOf s g.ctx) [a])

/-- The same of a trap, taken in a state the instruction has brought about. -/
def TrapsAt (i : Instr) (s s1 : State) (t : Thread) (g : Workgroup) (a cause : Nat) : Prop :=
  exec i s = .next (useWalks (settleTurn (takeTrap (setThread s1 t) [t] cause 0 (BitVec.ofNat 64 a) (wordOf i)))
    g.home.cluster (asidOf s g.ctx) [a])

/-- The thread's segment ends with a wake code, in a state the instruction has brought about. -/
def BlocksIn (i : Instr) (s s1 : State) (t1 : Thread) (wake operand : Nat) (q : Bool) : Prop :=
  exec i s = .next (settleTurn (endSegment (traceEnds (setThread s1 t1) [t1] wake) t1
    (endAt (traceEnds (setThread s1 t1) [t1] wake) t1 wake operand q)))

/-- The message of a thread to its home. -/
def messageOf (s : State) (t : Thread) (g : Workgroup) (va pa : Nat) (kind : ReqKind) : Req :=
  { id := s.nextId, src := g.home, ctx := g.ctx, wg := t.wg, tid := t.tid, va := va, pa := pa, kind := kind,
    stage := .toHome, install := false, fwd := false, acquire := false, loc := 0, bad := false }

end Sys2Proof.Machine

/-- Loads and stores of scratch and of the thread's own window (R187, R188, R190): a legal address is below the scratch
bytes of the launch and a multiple of the access; a load's registers are written later from the bytes, the lowest first,
one byte or two sign- or zero-extended; a store changes exactly its bytes, and no other byte of scratch. Any other address
is an ACCESS trap, cause 14, with the address as detail. -/
def Obligations.ScratchLoadsAndStores : Prop :=
  (∀ (s : State) (t : Thread) (l : Launch) (g : Workgroup) (i : Instr) (m : Marks) (k : Access) (d : BitVec 6) (a : Nat),
    StandsIn s t l g → IsLoad s t i m .scr k d a →
    (a < scratchBytes l ∧ a % k.size = 0 → GoesOn i m.sw s s
      { t with pend := t.pend ++ [.value (loadWrites k d (readBytes g.scratch a k.size))] }) ∧
    (¬ (a < scratchBytes l ∧ a % k.size = 0) → TakesTrap i s t 14 0 (BitVec.ofNat 64 a))) ∧
  (∀ (s : State) (t : Thread) (l : Launch) (g : Workgroup) (i : Instr) (m : Marks) (bs : List Byte) (a : Nat),
    StandsIn s t l g → IsStore s t i m .scr bs a →
    (a < scratchBytes l ∧ a % bs.length = 0 → GoesOn i m.sw s
      (updWg s t.wg fun g => { g with scratch := writeBytes g.scratch a bs }) t) ∧
    (¬ (a < scratchBytes l ∧ a % bs.length = 0) → TakesTrap i s t 14 0 (BitVec.ofNat 64 a))) ∧
  (∀ (s : State) (t : Thread) (l : Launch) (g h : Workgroup) (i : Instr) (m : Marks) (k : Access) (d : BitVec 6) (a : Nat),
    StandsIn s t l g → t.role = 0 → IsLoad s t i m .win k d a → memberOf s l g (a / 2 ^ 20) = some h →
    a % 2 ^ 20 < scratchBytes l → a % k.size = 0 →
    (h.id = g.id → GoesOn i m.sw s s
      { t with pend := t.pend ++ [.value (loadWrites k d (readBytes g.scratch (a % 2 ^ 20) k.size))] }) ∧
    (h.id ≠ g.id → GoesOn i m.sw s
      (sendCounted s { messageOf s t g (a % 2 ^ 20) 0 (.window h.id none k.size) with loc := h.id })
      { t with pend := t.pend ++ [.load s.nextId k (a % 2 ^ 20) [] d] })) ∧
  (∀ (s : State) (t : Thread) (l : Launch) (g h : Workgroup) (i : Instr) (m : Marks) (bs : List Byte) (a : Nat),
    StandsIn s t l g → t.role = 0 → IsStore s t i m .win bs a → memberOf s l g (a / 2 ^ 20) = some h →
    a % 2 ^ 20 < scratchBytes l → a % bs.length = 0 →
    (h.id = g.id → GoesOn i m.sw s
      (updWg s t.wg fun g => { g with scratch := writeBytes g.scratch (a % 2 ^ 20) bs }) t) ∧
    (h.id ≠ g.id → GoesOn i m.sw s
      (sendCounted s { messageOf s t g (a % 2 ^ 20) 0 (.window h.id (some bs) bs.length) with loc := h.id }) t)) ∧
  (∀ (mem : Memory) (a b : Nat) (bs : List Byte), Memory.wf mem = true →
    readByte (writeBytes mem a bs) b = if a ≤ b ∧ b < a + bs.length then (bs[b - a]?).getD 0 else readByte mem b) ∧
  (∀ (mem : Memory) (a n : Nat), (readBytes mem a n).length = n ∧ ∀ j, j < n → (readBytes mem a n)[j]? = some (readByte mem (a + j))) ∧
  (∀ (d : BitVec 6) (b0 b1 b2 b3 : Byte),
    loadWrites .z8 d [b0] = [(d, b0.setWidth 32)] ∧ loadWrites .s8 d [b0] = [(d, b0.signExtend 32)] ∧
    loadWrites .z16 d [b0, b1] = [(d, (b1 ++ b0).setWidth 32)] ∧ loadWrites .s16 d [b0, b1] = [(d, (b1 ++ b0).signExtend 32)] ∧
    loadWrites .b4 d [b0, b1, b2, b3] = [(d, b3 ++ b2 ++ b1 ++ b0)]) ∧
  ∀ (d : BitVec 6) (k : Access) (bs : List Byte), k = .b8 ∨ k = .b16 ∨ k = .b32 → bs.length = k.size →
    ∃ ws : List Word, loadWrites k d bs = ((List.range k.width.regs).map fun n => d + BitVec.ofNat 6 n).zip ws ∧
      ws.length = k.width.regs ∧ bytesOfWords ws = bs

/-- When a global access is legal (R187, R188): the address is below 2^52 and aligned, every region that holds it allows
the access, and a store or atomic is not to the counter page or the trap bin. Anything else is an ACCESS trap; another
role than vector takes ILLEGAL_ISSUE. -/
def Sys2Proof.Claims.GlobalAccessesAreChecked : Prop :=
  (∀ (s : State) (l : Launch) (g : Workgroup) (a align : Nat) (rd wr : Bool), accessOk s l g .glb a align rd wr = true ↔
    a < 2 ^ 52 ∧ a % align = 0 ∧
    (∀ r ∈ l.lr.regions, r.base ≤ a → a < r.base + r.size →
      (r.mode = 1 → wr = false) ∧ (r.mode = 2 → rd = false) ∧ (r.mode = 3 → wr = false)) ∧
    (wr = true → inCounterPage s g.ctx a = false ∧ inTrapBin s g.ctx a = false)) ∧
  ∀ (s : State) (t : Thread) (l : Launch) (g : Workgroup) (i : Instr) (m : Marks) (c : Space) (a : Nat),
    StandsIn s t l g →
    ((∃ k d, IsLoad s t i m .glb k d a ∧ accessOk s l g .glb a k.size true false = false) ∨
      (∃ bs, IsStore s t i m .glb bs a ∧ accessOk s l g .glb a bs.length false true = false) →
      t.role = 0 → TakesTrap i s t 14 0 (BitVec.ofNat 64 a)) ∧
    ((∃ k d, IsLoad s t i m c k d a) ∨ (∃ bs, IsStore s t i m c bs a) →
      c ≠ .scr → t.role ≠ 0 → TakesTrap i s t 2 0 0)

/-- Global loads (R189 to R192): with no translation at hand the instruction stays and asks for the page; a page that
is missing puts the load in the operand log; a page the context may not use or not read is an ACCESS trap; else the bytes
come from the line the home cluster holds; the ones that no line there holds are asked of the home slice by a message, or, in a
forwardable region, of the peer that the predictor names, and of several reads of a line only the last brings it into the L1. -/
def Sys2Proof.Claims.GlobalLoadsHitOrSend : Prop :=
  ∀ (s : State) (t : Thread) (l : Launch) (g : Workgroup) (i : Instr) (m : Marks) (k : Access) (d : BitVec 6) (a : Nat),
    StandsIn s t l g → t.role = 0 → IsLoad s t i m .glb k d a → accessOk s l g .glb a k.size true false = true →
    let asid := asidOf s g.ctx
    (tlbAt s g.home.cluster asid a = none →
      (∀ w, walkAt s g.home.cluster asid a = some w → w.failed = none) →
      exec i s = .next (startWalk s g.home g.ctx a)) ∧
    (tlbAt s g.home.cluster asid a = none → ∀ w, walkAt s g.home.cluster asid a = some w →
      (w.failed = some .missing → exec i s = .next (useWalks (setThread s
        { retire (lengthOf i) m.sw t with log := some ⟨wordOf i, t.pc, BitVec.ofNat 64 a, []⟩ }) g.home.cluster asid [a])) ∧
      (w.failed = some .violation → TrapsAt i s s t g a 14)) ∧
    ∀ e, tlbAt s g.home.cluster asid a = some e →
      let pa := e.pbase + (a - e.vbase)
      (e.readable = false → TrapsAt i s s t g a 14) ∧
      (e.readable = true → inCounterPage s g.ctx a = true → ∃ bs : List Byte, bs.length = k.size ∧
        GoesOnAt i m.sw s s { t with pend := t.pend ++ [.value (loadWrites k d bs)] } g a) ∧
      (e.readable = true → inCounterPage s g.ctx a = false → l1Ways l = 0 ∨ inTrapBin s g.ctx a = true →
        GoesOnAt i m.sw s (sendCounted s (messageOf s t g a pa (.read k.size)))
          { t with pend := t.pend ++ [.load s.nextId k a [] d] } g a) ∧
      (e.readable = true → inCounterPage s g.ctx a = false → l1Ways l ≠ 0 → inTrapBin s g.ctx a = false →
        (∀ x, lineAt s g.home asid a = some x → (∀ j, j < k.size → lineHas x ((a + j) % 128) = true) →
          GoesOnAt i m.sw s (bumpCounter { s with l1 := s.l1.map fun y => if y = x then { y with used := nextUse s g.home } else y }
              g.ctx g.home 0 1)
            { t with pend := t.pend ++ [.value (loadWrites k d
              ((List.range k.size).map fun j => readByte x.data ((a + j) % 128)))] } g a) ∧
        (∀ got, got = (match lineAt s g.home asid a, aliasAt s g.home pa with
            | some x, _ => lineGot x a k.size
            | none, some x => lineGot x a k.size
            | none, none => []) →
          lineAt s g.home asid a = none ∨ got.length ≠ k.size →
          let missed := bumpCounter (stopInstall s g.home (pa / 128)) g.ctx g.home 1 1
          let asks := { messageOf s t g a pa (.read k.size) with install := true, fwd := forwardable l a }
          let later := { t with pend := t.pend ++ [.load s.nextId k a got d] }
          let trained := s.predictor.find? fun p =>
            decide (p.cluster = g.home.cluster) && decide (p.index = (field pa 14 7 ^^^ field pa 22 15))
          (forwardable l a = false ∨ trained = none → GoesOnAt i m.sw s (sendCounted missed asks) later g a) ∧
          ∀ p, forwardable l a = true → trained = some p → GoesOnAt i m.sw s
            (bumpCounter (sendCounted missed { asks with stage := .toPeer p.peer }) g.ctx g.home 3 1) later g a))

/-- Global stores (R189 to R192, R307): the same probe; a page that may not be written, a queue's control block and a
mapping list are turned away with an ACCESS trap, and the latter two freeze what they belong to (R418); else the bytes go
into the line of the home's L1 and its mask, with no other byte of the line changed, or straight to the home slice. No
byte of device memory changes before the home slice performs the write. -/
def Sys2Proof.Claims.GlobalStoresFillTheLine : Prop :=
  (∀ (s : State) (t : Thread) (l : Launch) (g : Workgroup) (i : Instr) (m : Marks) (bs : List Byte) (a : Nat),
    StandsIn s t l g → t.role = 0 → IsStore s t i m .glb bs a → accessOk s l g .glb a bs.length false true = true →
    let asid := asidOf s g.ctx
    (tlbAt s g.home.cluster asid a = none →
      (∀ w, walkAt s g.home.cluster asid a = some w → w.failed = none) →
      exec i s = .next (startWalk s g.home g.ctx a)) ∧
    (tlbAt s g.home.cluster asid a = none → ∀ w, walkAt s g.home.cluster asid a = some w →
      (w.failed = some .missing → exec i s = .next (useWalks (setThread s
        { retire (lengthOf i) m.sw t with log := some ⟨wordOf i, t.pc, BitVec.ofNat 64 a, bs⟩ }) g.home.cluster asid [a])) ∧
      (w.failed = some .violation → TrapsAt i s s t g a 14)) ∧
    ∀ e, tlbAt s g.home.cluster asid a = some e →
      let pa := e.pbase + (a - e.vbase)
      (freezeFor s g.ctx a 1 pa = none → e.writable = false → TrapsAt i s s t g a 14) ∧
      (∀ s1, freezeFor s g.ctx a 1 pa = some s1 → TrapsAt i s s1 t g a 14) ∧
      (freezeFor s g.ctx a 1 pa = none → e.writable = true →
        (l1Ways l = 0 → GoesOnAt i m.sw s (sendCounted s (messageOf s t g a pa (.write (patchBytes [] pa bs)))) t g a) ∧
        (l1Ways l ≠ 0 → GoesOnAt i m.sw s (l1Store s g.home g.ctx g.id a pa (l1Ways l) bs) t g a))) ∧
  (∀ (s : State) (h : Home) (ctx wg va pa ways : Nat) (bs : List Byte), va % 128 + bs.length ≤ 128 →
    (l1Store s h ctx wg va pa ways bs).mem = s.mem ∧ (l1Store s h ctx wg va pa ways bs).wgs = s.wgs ∧
    (l1Store s h ctx wg va pa ways bs).threads = s.threads ∧
    ∀ x, lineAt s h (asidOf s ctx) va = some x → Memory.wf x.data = true →
      (∀ y ∈ s.l1, ¬ (y.home = x.home ∧ y.pline = x.pline) → y ∈ (l1Store s h ctx wg va pa ways bs).l1) ∧
      ∃ y ∈ (l1Store s h ctx wg va pa ways bs).l1, y.home = x.home ∧ y.pline = x.pline ∧ y.valid = x.valid ∧
        (∀ j, j < 128 → readByte y.data j =
          if va % 128 ≤ j ∧ j < va % 128 + bs.length then (bs[j - va % 128]?).getD 0 else readByte x.data j) ∧
        ∀ j, j < 128 → y.mask.getLsbD j =
          (x.mask.getLsbD j || decide (va % 128 ≤ j ∧ j < va % 128 + bs.length))) ∧
  ∀ (p : Nat) (bs : List Byte) (b : Nat),
    patchGet (patchBytes [] p bs) b = if p ≤ b ∧ b < p + bs.length then bs[b - p]? else none

namespace Sys2Proof.Machine

/-- The atomics, each with its marks and operation (R184, R195). -/
def IsAtomic (i : Instr) (x : Atom) (ext : Bool) (op : Nat) : Prop :=
  (i, ext, op) ∈ [(Instr.atomAdd x, false, 0), (.atomSub x, false, 1), (.atomMins x, false, 2), (.atomMaxs x, false, 3),
    (.atomMinz x, false, 4), (.atomMaxz x, false, 5), (.atomAnd x, false, 6), (.atomOr x, false, 7),
    (.atomxCas x, true, 0), (.atomxXchg x, true, 1), (.atomxIncw x, true, 2), (.atomxDecw x, true, 3),
    (.atomxFadd x, true, 4), (.atomxFmin x, true, 5), (.atomxFmax x, true, 6), (.atomxXor x, true, 7)]

/-- The address pair and the operand bytes of an atomic: its second half, too, for compare and swap (R184). -/
def atomicAddress (x : Atom) (t : Thread) : Nat := (getV2 t (x.p ++ 0#1)).toNat
def atomicOperand (x : Atom) (cas : Bool) (t : Thread) : List Byte :=
  bytesOfWords ((List.range ((if x.x2 then 2 else 1) * (if cas then 2 else 1))).map fun n =>
    getV t ((x.n ++ 0#1) + BitVec.ofNat 6 n))

end Sys2Proof.Machine

/-- Local atomics (R195, R196): for the vector role; the address aligned, its page readable and writable and
no control block or mapping list (R368, R409). The home cluster's copy of
the sector is written back and invalid, a release's write-backs come first and hold the message back, and the operation goes to
the home slice as one message; a result is pending, and with an acquire the thread waits for the message. What the slice leaves in place
of the old bytes is the operation's result, the value before it what the register receives. -/
def Obligations.AtomicsActAtTheHomeSlice : Prop :=
  (∀ (s : State) (t : Thread) (l : Launch) (g : Workgroup) (i : Instr) (x : Atom) (ext : Bool) (op : Nat),
    StandsIn s t l g → IsAtomic i x ext op →
    let a := atomicAddress x t
    let size := if x.x2 then 8 else 4
    let operand := atomicOperand x (ext && decide (op = 0)) t
    let asid := asidOf s g.ctx
    (t.role ≠ 0 → TakesTrap i s t 2 0 0) ∧
    (t.role = 0 → a / 2 ^ 63 = 0 → accessOk s l g .glb a size true true = false →
      TakesTrap i s t 14 0 (BitVec.ofNat 64 a)) ∧
    (t.role = 0 → a / 2 ^ 63 = 0 → accessOk s l g .glb a size true true = true →
      (tlbAt s g.home.cluster asid a = none →
        (∀ w, walkAt s g.home.cluster asid a = some w → w.failed = none) →
        exec i s = .next (startWalk s g.home g.ctx a)) ∧
      (tlbAt s g.home.cluster asid a = none → ∀ w, walkAt s g.home.cluster asid a = some w →
        (w.failed = some .missing → exec i s = .next (useWalks (setThread s
          { retire (lengthOf i) x.m.sw t with log := some ⟨wordOf i, t.pc, BitVec.ofNat 64 a, operand⟩ })
          g.home.cluster asid [a])) ∧
        (w.failed = some .violation → TrapsAt i s s t g a 14)) ∧
      (∀ e s1, tlbAt s g.home.cluster asid a = some e → freezeFor s g.ctx a 1 (e.pbase + (a - e.vbase)) = some s1 →
        TrapsAt i s s1 t g a 14) ∧
      ∀ e, tlbAt s g.home.cluster asid a = some e → freezeFor s g.ctx a 1 (e.pbase + (a - e.vbase)) = none →
        (e.readable = false ∨ e.writable = false → TrapsAt i s s t g a 14) ∧
        (e.readable = true → e.writable = true →
          let pa := e.pbase + (a - e.vbase)
          let s1 := sectorOut s g t.tid a pa
          let rel : Prop := boundRegions l a ≠ [] ∧ (x.r = .rel ∨ x.r = .ar)
          let acq : Prop := boundRegions l a ≠ [] ∧ (x.r = .acq ∨ x.r = .ar)
          ∀ s2 ids, (¬ rel → s2 = s1 ∧ ids = []) →
            (rel → s2 = (releaseObject s1 l g t.tid a).1 ∧
              ids = outstandingBound s1 t l a ++ (releaseObject s1 l g t.tid a).2) →
          ∀ q, q = { messageOf s t g a pa (.atom ext op x.x2 operand x.ret) with
              stage := if ids = [] then .toHome else .held ids } →
          ∀ t1, t1 = (if x.ret then { t with pend := t.pend ++ [.atom s2.nextId x.x2 x.d] } else t) →
            (¬ acq → GoesOnAt i x.m.sw s (sendCounted s2 q) t1 g a) ∧
            (acq → GoesOnAt i x.m.sw s (sendCounted s2 { q with acquire := true })
              { t1 with waits := t1.waits ++ [s2.nextId] } g a)))) ∧
  (∀ (s : State) (g : Workgroup) (tid va pa : Nat), va % 128 = pa % 128 →
    (aliasAt s g.home pa = none → sectorOut s g tid va pa = stopInstall s g.home (pa / 128)) ∧
    ∀ y, aliasAt s g.home pa = some y →
      (sectorOut s g tid va pa).mem = s.mem ∧
      (∃ y', aliasAt (sectorOut s g tid va pa) g.home pa = some y' ∧ y'.data = y.data ∧
        (∀ n, n < 8 → y'.valid.getLsbD n = (decide (n ≠ va % 128 / 16) && y.valid.getLsbD n)) ∧
        ∀ n, n < 128 → y'.mask.getLsbD n = (decide (n / 16 ≠ va % 128 / 16) && y.mask.getLsbD n)) ∧
      ((∃ n, n / 16 = va % 128 / 16 ∧ y.mask.getLsbD n = true) → ∃ r ∈ (sectorOut s g tid va pa).reqs,
        r.id = s.nextId ∧ r.src = g.home ∧ r.stage = .toHome ∧
        r.kind = .write ((writtenBytes y).filter fun c => decide (c.1 % 128 / 16 = va % 128 / 16)))) ∧
  (∀ (n : Nat) (old b c : BitVec n),
    atomNew false 0 n old b c = old + b ∧ atomNew false 1 n old b c = old - b ∧
    atomNew false 2 n old b c = (if old.sle b then old else b) ∧ atomNew false 3 n old b c = (if b.sle old then old else b) ∧
    atomNew false 4 n old b c = (if old ≤ b then old else b) ∧ atomNew false 5 n old b c = (if old ≥ b then old else b) ∧
    atomNew false 6 n old b c = old &&& b ∧ atomNew false 7 n old b c = old ||| b ∧
    atomNew true 0 n old b c = (if old = b then c else old) ∧ atomNew true 1 n old b c = b ∧
    atomNew true 2 n old b c = (if b ≤ old then 0 else old + 1) ∧
    atomNew true 3 n old b c = (if old = 0 ∨ b < old then b else old - 1) ∧ atomNew true 7 n old b c = old ^^^ b) ∧
  (∀ (n : Nat) (old b c : BitVec n), n = 32 ∨ n = 64 →
    let x := decodeFp (fmtOf n) old.toNat
    let y := decodeFp (fmtOf n) b.toNat
    atomNew true 4 n old b c = BitVec.ofNat n (roundFp (fmtOf n) (addX x y .rn) .rn false) ∧
    (x ≠ .nan → y ≠ .nan →
      (ltSigned x y = true → atomNew true 5 n old b c = old ∧ atomNew true 6 n old b c = b) ∧
      (ltSigned y x = true → atomNew true 5 n old b c = b ∧ atomNew true 6 n old b c = old)) ∧
    (x = .nan → y ≠ .nan → atomNew true 5 n old b c = b ∧ atomNew true 6 n old b c = b) ∧
    (x ≠ .nan → y = .nan → atomNew true 5 n old b c = old ∧ atomNew true 6 n old b c = old)) ∧
  ∀ (x2 : Bool) (d : BitVec 6) (bs : List Byte), bs.length = (if x2 then 8 else 4) →
    ∃ ws : List Word, oldWrites x2 d bs = ((List.range (if x2 then 2 else 1)).map fun n => d + BitVec.ofNat 6 n).zip ws ∧
      bytesOfWords ws = bs

/-- Far accesses (R193, R194): a load, or an atomic that returns, sends its request at a safe point and ends its segment
with wake code 7; the second pass finds the reply and goes on with its bytes, or takes the ACCESS trap it carries. A
store, or an atomic that returns nothing, joins the far group while that has room for it, and at eight ends its segment
with code 8. A request to another device leaves at once, but for one whose port retrains (R440). A launch whose charter allows no far access has none (R402, log 97). -/
def Sys2Proof.Claims.FarInstructionsTakeTwoPasses : Prop :=
  ∀ (s : State) (t : Thread) (l : Launch) (g : Workgroup), StandsIn s t l g → t.role = 0 →
    (∀ (i : Instr) (m : Marks) (k : Access) (d : BitVec 6) (a : Nat), IsLoad s t i m .far k d a →
      (∀ y, t.reply = some y →
        (y.violation = none → GoesOn i m.sw s s { t with
          reply := none
          fl := { t.fl with derr := t.fl.derr || y.bad, dstop := t.fl.dstop || y.bad }
          pend := t.pend ++ [.value (loadWrites k d y.data)] }) ∧
        ∀ v, y.violation = some v → exec i s = .next (settleTurn (takeTrap (setThread s { t with reply := none })
          [{ t with reply := none }] 14 0 (BitVec.ofNat 64 v) (wordOf i)))) ∧
      (t.reply = none → m.stop = false ∨ ordinalOf s t t.pc = none → TakesTrap i s t 8 0 0) ∧
      (t.reply = none → m.stop = true → (ordinalOf s t t.pc).isSome = true →
        (accessOk s l g .far a k.size true false = false → TakesTrap i s t 14 0 (BitVec.ofNat 64 a)) ∧
        (accessOk s l g .far a k.size true false = true →
          BlocksIn i s (sendFar s t g a (.load k.size)) t 7 0 false))) ∧
    (∀ (i : Instr) (m : Marks) (bs : List Byte) (a : Nat), IsStore s t i m .far bs a →
      (accessOk s l g .far a bs.length false true = false → TakesTrap i s t 14 0 (BitVec.ofNat 64 a)) ∧
      (accessOk s l g .far a bs.length false true = true → t.far.length < 8 →
        GoesOn i m.sw s (sendFar s t g a (.store bs)) { t with far := t.far ++ [s.nextId] }) ∧
      (accessOk s l g .far a bs.length false true = true → 8 ≤ t.far.length → m.stop = true →
        (ordinalOf s t t.pc).isSome = true → Blocks i s t 8 0 false)) ∧
    (∀ (i : Instr) (x : Atom) (ext : Bool) (op : Nat), IsAtomic i x ext op → x.ret = false →
      let a := atomicAddress x t
      let size := if x.x2 then 8 else 4
      a / 2 ^ 63 = 1 → accessOk s l g .far a size true true = true → t.far.length < 8 →
        GoesOn i x.m.sw s (sendFar s t g a (.atom ext op x.x2 (atomicOperand x (ext && decide (op = 0)) t)))
          { t with far := t.far ++ [s.nextId] }) ∧
    (∀ (i : Instr) (x : Atom) (ext : Bool) (op : Nat), IsAtomic i x ext op → x.ret = true →
      let a := atomicAddress x t
      let size := if x.x2 then 8 else 4
      a / 2 ^ 63 = 1 →
        (∀ y, t.reply = some y → y.violation = none → GoesOn i x.m.sw s s { t with
          reply := none
          fl := { t.fl with derr := t.fl.derr || y.bad, dstop := t.fl.dstop || y.bad }
          pend := t.pend ++ [.value (oldWrites x.x2 x.d y.data)] }) ∧
        (t.reply = none → x.m.stop = true → (ordinalOf s t t.pc).isSome = true →
          accessOk s l g .far a size true true = true →
          BlocksIn i s (sendFar s t g a (.atom ext op x.x2 (atomicOperand x (ext && decide (op = 0)) t))) t 7 0 false)) ∧
    (∀ a align rd wr, accessOk s l g .far a align rd wr = true ↔ a / 2 ^ 58 = 32 ∧ a % align = 0 ∧ l.far = true ∧
      (a / 2 ^ 52 % 64 = s.boot.devnum ∨ (s.boot.domid ≠ 0 ∧ ∃ r ∈ s.boot.routes, r.dev = a / 2 ^ 52 % 64))) ∧
    ∀ a op,
      let port := (s.boot.routes.find? fun r => decide (r.dev = a / 2 ^ 52 % 64)).map fun r => (⟨3, 0, 0, r.port⟩ : Link)
      let held : Prop := a / 2 ^ 52 % 64 ≠ s.boot.devnum ∧ ∃ x ∈ s.links, x.retraining = true ∧ some x.link = port
      ((sendFar s t g a op).reqs = s.reqs ++ [{ messageOf s t g (a % 2 ^ 52) 0 (.far op) with
        loc := a / 2 ^ 52 % 64, stage := if held then .atPort else .toHome }]) ∧
      (a / 2 ^ 52 % 64 ≠ s.boot.devnum → ¬ held →
        (sendFar s t g a op).out = .far (a / 2 ^ 52 % 64) s.nextId (a % 2 ^ 52) op :: s.out)

/-- `acq`, `rel`, `acqrel` and `fence` (R194, R197, R198): an instruction whose thread must wait for its messages stays;
else a release writes back every dirty sector of the bound regions and the thread waits for those write-backs, an acquire
invalidates every line of them, and a fence is done. A far violation not yet raised is the trap of a release and of a
device-mesh fence. -/
def Sys2Proof.Claims.ReleasesAcquiresAndFences : Prop :=
  ∀ (s : State) (t : Thread) (l : Launch) (g : Workgroup) (m : Marks) (r : BitVec 6), StandsIn s t l g →
    let a := (getV2 t r).toNat
    let behind := ∀ q ∈ s.reqs, q.wg = t.wg → q.tid = t.tid → match q.kind with
      | .read z => ¬ (q.va < a + 8 ∧ a < q.va + z)
      | .atom _ _ _ _ _ => q.va / 8 ≠ a / 8
      | _ => True
    (behind → GoesOn (.acq ⟨r, m⟩) m.sw s (acquireObject s l g t.tid a) t) ∧
    (¬ behind → exec (.acq ⟨r, m⟩) s = .next s) ∧
    (outstandingBound s t l a = [] → t.far = [] → t.farFault = none →
      GoesOn (.rel ⟨r, m⟩) m.sw s (releaseObject s l g t.tid a).1
        { t with waits := t.waits ++ (releaseObject s l g t.tid a).2 } ∧
      (behind → GoesOn (.acqrel ⟨r, m⟩) m.sw s
        (acquireFor (releaseObject s l g t.tid a).1 { t with waits := t.waits ++ (releaseObject s l g t.tid a).2 } a)
        { t with waits := t.waits ++ (releaseObject s l g t.tid a).2 })) ∧
    (outstandingBound s t l a ≠ [] ∨ t.far ≠ [] → exec (.rel ⟨r, m⟩) s = .next s ∧ exec (.acqrel ⟨r, m⟩) s = .next s) ∧
    ∀ sc : Scope,
      let waits := ∃ q ∈ s.reqs, q.wg = t.wg ∧ q.tid = t.tid ∧ fenceWaits sc q = true
      (¬ waits → sc = .dm → t.far = [] → t.farFault = none → GoesOn (.fence ⟨sc, m⟩) m.sw s s t) ∧
      (¬ waits → sc ≠ .dm → GoesOn (.fence ⟨sc, m⟩) m.sw s s t) ∧
      (waits ∨ (sc = .dm ∧ t.far ≠ []) → exec (.fence ⟨sc, m⟩) s = .next s) ∧
      ∀ f, t.farFault = some f → t.far = [] →
        (¬ waits → sc = .dm → exec (.fence ⟨sc, m⟩) s = .next (settleTurn (takeTrap (setThread s { t with farFault := none })
          [{ t with farFault := none }] 14 0 (BitVec.ofNat 64 f) (wordOf (.fence ⟨sc, m⟩)))))

/-- `cinv`, `cwb` and `pf` (R199): the lines of the home's L1 that overlap the thread's range, at most 64 KiB of it, under their
own address or under another that the context's pages give the line (R311), are
written back, and for `cinv` dropped, a fill on its way to one not being installed; the thread waits for the write-backs,
those of the range that were on their way included. A prefetch whose page is at hand and readable is a message
without an owner; no other prefetch has any effect, but that a walk of its own that
has ended without a page is forgotten; it asks for no page. -/
def Sys2Proof.Claims.CacheMaintenance : Prop :=
  ∀ (s : State) (t : Thread) (l : Launch) (g : Workgroup) (m : Marks) (r n : BitVec 6), StandsIn s t l g →
    let a := (getV2 t r).toNat
    let len := min (getV t n).toNat 65536
    let overlaps := fun (v : Nat) => decide (a < v + 128) && decide (v < a + len) && decide (len ≠ 0)
    let lines := (s.l1.filter fun x => decide (x.home = g.home)).filter fun x => decide (x.asid = asidOf s g.ctx) &&
      (lineVas s g.ctx (128 * x.vline) (128 * x.pline)).any overlaps
    (∀ s1 ids, overLines (fun s x => invalidateLine s x g.ctx g.id t.tid) s lines = (s1, ids) →
      GoesOn (.cinv ⟨n, r, m⟩) m.sw s
        (stopFills s1 g.home fun q => decide (q.ctx = g.ctx) && (lineVas s g.ctx q.va q.pa).any overlaps)
        { t with waits := t.waits ++ homeWrites s g overlaps ++ ids }) ∧
    (∀ s1 ids, overLines (fun s x => writeBackLine s x g.ctx g.id t.tid) s lines = (s1, ids) →
      GoesOn (.cwb ⟨n, r, m⟩) m.sw s s1 { t with waits := t.waits ++ homeWrites s g overlaps ++ ids }) ∧
    let PrefetchEnds := fun (s1 : State) => exec (.pf ⟨r, m⟩) s =
      .next (dropWalks (setThread s1 (retire 2 m.sw t)) g.home.cluster (asidOf s g.ctx) [a])
    (2 ^ 52 ≤ a → GoesOn (.pf ⟨r, m⟩) m.sw s s t) ∧
    (a < 2 ^ 52 → tlbAt s g.home.cluster (asidOf s g.ctx) a = none →
      (∀ w, walkAt s g.home.cluster (asidOf s g.ctx) a = some w → w.failed = none) →
      exec (.pf ⟨r, m⟩) s = .next (startWalk s g.home g.ctx a)) ∧
    (a < 2 ^ 52 → tlbAt s g.home.cluster (asidOf s g.ctx) a = none →
      (∃ w, walkAt s g.home.cluster (asidOf s g.ctx) a = some w ∧ w.failed ≠ none) →
      PrefetchEnds s) ∧
    (a < 2 ^ 52 → ∀ e, tlbAt s g.home.cluster (asidOf s g.ctx) a = some e → e.readable = false → PrefetchEnds s) ∧
    (a < 2 ^ 52 → ∀ e, tlbAt s g.home.cluster (asidOf s g.ctx) a = some e → e.readable = true →
      PrefetchEnds (sendCounted s { messageOf s t g a (e.pbase + (a - e.vbase)) .prefetch with
        tid := 4096, install := decide (l1Ways l ≠ 0), fwd := forwardable l a }))

/-- Barrier objects (R200 to R202): what each change leaves, and when a change is an ACCESS trap instead. A phase of a
valid object is complete when no arrival and no byte is pending; the phase bit is turned over and the count starts again. -/
def Sys2Proof.Claims.BarrierObjectsCountPhases : Prop :=
  (∀ (b : Bar) (x : Word) (out : Bool),
    (b.valid = true → barChange 0 x out b = none ∧
      barChange 1 x out b = some (Bar.check { b with pend := b.pend - x.toNat % 65536 }) ∧
      barChange 3 x false b = some (Bar.check { b with inb := b.inb + x }) ∧
      barChange 3 x true b = some (Bar.check { b with outb := b.outb + x }) ∧
      barChange 4 x out b = some { b with valid := false }) ∧
    (b.valid = false → (x.toNat % 65536 = 0 → barChange 0 x out b = none) ∧
      (x.toNat % 65536 ≠ 0 → ∃ b', barChange 0 x out b = some b' ∧ b'.valid = true ∧ b'.exp = x.toNat % 65536 ∧
        b'.pend = x.toNat % 65536 ∧ b'.inb = 0 ∧ b'.outb = 0 ∧ b'.gen = 0 ∧ b'.ph = b.ph) ∧
      ∀ fn, fn ∈ [1, 2, 3, 4] → barChange fn x out b = none)) ∧
  (∀ b : Bar, (b.valid = true ∧ b.pend = 0 ∧ b.inb = 0 ∧ b.outb = 0 →
      Bar.check b = { b with ph := !b.ph, gen := (b.gen + 1) % 65536, pend := b.exp }) ∧
    (¬ (b.valid = true ∧ b.pend = 0 ∧ b.inb = 0 ∧ b.outb = 0) → Bar.check b = b)) ∧
  ∀ b : Bar, b.exp < 65536 → b.pend < 65536 → b.gen < 65536 → b.low < 2 ^ 14 → barOf (barBytes b) = b

namespace Sys2Proof.Machine

/-- The instructions that change a barrier object, with their marks, change, space, direction, object and operand. -/
def IsBarChange (t : Thread) (i : Instr) (m : Marks) (fn : Nat) (glb out : Bool) (a : Nat) (operand : Word) : Prop :=
  ∃ r : BitVec 6, a = (if glb then (getV2 t r).toNat else (getV t r).toNat) ∧
    ((∃ b, i = .barInit ⟨glb, b, r, m⟩ ∧ fn = 0 ∧ out = false ∧ operand = getV t b) ∨
     (∃ b, i = .barArr ⟨glb, b, r, m⟩ ∧ fn = 1 ∧ out = false ∧ operand = getV t b) ∨
     (∃ b, i = .barExp ⟨glb, out, b, r, m⟩ ∧ fn = 3 ∧ operand = getV t b) ∨
     (i = .barInval ⟨glb, r, m⟩ ∧ fn = 4 ∧ out = false ∧ operand = 0))

/-- A thread after one more synchronising operation. -/
def counted (t : Thread) : Thread := { t with path := { t.path with syncOps := t.path.syncOps + 1 } }

/-- The workgroup's scratch object at an offset becomes a given one, and what waits for barriers is tested (R201). -/
def objectBecomes (s : State) (g : Workgroup) (off : Nat) (b : Bar) : State :=
  retestWg (updWg s g.id fun g => { g with scratch := writeBytes g.scratch off (barBytes b) }) g.id 1

/-- Nothing bound to an object is dirty or on its way. -/
def NothingBound (s : State) (t : Thread) (l : Launch) (g : Workgroup) (obj : Nat) : Prop :=
  (∀ x ∈ boundLines s l g obj, x.mask = 0) ∧ outstandingBound s t l obj = []

/-- The message of a barrier instruction, and the thread that waits for it: what the instruction releases goes before it
(R201), in a state in which the write-backs of the bound lines are on their way. -/
def SendsBar (send : State → Req → State) (s s1 : State) (ids : List Nat) (t : Thread) (q : Req) : State :=
  updThread (send s1 { q with stage := if ids = [] then .toHome else .held ids }) t.wg t.tid fun t =>
    { t with waits := t.waits ++ [s1.nextId] }

end Sys2Proof.Machine

/-- `bar.init`, `bar.arr`, `bar.exp` and `bar.inval` (R202): a scratch object changes at once, and a change the object does
not allow is an ACCESS trap; a global one, whose page must be readable and writable and no control block or mapping list, is
changed at its home slice by a message the thread waits for, and the answer lets it go on. An arrival whose bound regions are
not all performed writes them back first, and its message, of a scratch object too, waits for them (R201). -/
def Sys2Proof.Claims.BarrierInstructionsChangeTheObject : Prop :=
  ∀ (s : State) (t : Thread) (l : Launch) (g : Workgroup) (i : Instr) (m : Marks) (fn : Nat) (out : Bool) (a : Nat)
    (operand : Word), StandsIn s t l g → NotRecorded s g.launch → t.waits = [] →
    (IsBarChange t i m fn false out a operand → barReq s t = none →
      let obj := scratchObject a
      (a < scratchBytes l → a % 16 = 0 → fn ≠ 1 ∨ NothingBound s t l g obj →
        (∀ b, barChange fn operand out (scratchBar g a) = some b →
          GoesOn i m.sw s (objectBecomes s g a b) (counted t)) ∧
        (barChange fn operand out (scratchBar g a) = none → exec i s = .next (settleTurn (takeTrap
          (setThread s { t with mark := none }) [{ t with mark := none }] 14 0 (BitVec.ofNat 64 a) (wordOf i))))) ∧
      (a < scratchBytes l → a % 16 = 0 → fn = 1 → ¬ NothingBound s t l g obj →
        exec i s = .next (SendsBar sendReq s (releaseObject s l g t.tid obj).1
          (outstandingBound s t l obj ++ (releaseObject s l g t.tid obj).2) t
          { messageOf s t g a 0 (.bar fn operand out) with loc := 1 })) ∧
      (¬ (a < scratchBytes l ∧ a % 16 = 0) → TakesTrap i s t 14 0 (BitVec.ofNat 64 a))) ∧
    (IsBarChange t i m fn true out a operand →
      (barReq s t = none → accessOk s l g .glb a 16 true true = false → TakesTrap i s t 14 0 (BitVec.ofNat 64 a)) ∧
      (barReq s t = none → accessOk s l g .glb a 16 true true = true →
        ∀ e, tlbAt s g.home.cluster (asidOf s g.ctx) a = some e →
          (∀ s1, freezeFor s g.ctx a 1 (e.pbase + (a - e.vbase)) = some s1 → TrapsAt i s s1 t g a 14) ∧
          (freezeFor s g.ctx a 1 (e.pbase + (a - e.vbase)) = none →
            (e.readable = false ∨ e.writable = false → TrapsAt i s s t g a 14) ∧
            (e.readable = true → e.writable = true →
              let q := messageOf s t g a (e.pbase + (a - e.vbase)) (.bar fn operand out)
              (fn ≠ 1 ∨ NothingBound s t l g a → exec i s = .next (SendsBar sendCounted s s [] t q)) ∧
              (fn = 1 → ¬ NothingBound s t l g a → exec i s = .next (SendsBar sendCounted s
                (releaseObject s l g t.tid a).1 (outstandingBound s t l a ++ (releaseObject s l g t.tid a).2) t q))))) ∧
      ∀ q bs, barReq s t = some q → q.stage = .taken bs →
        (∀ u v : Bool, bs = barReply ⟨true, u, v⟩ → GoesOn i m.sw s (dropReq s q.id) t) ∧
        ∀ u v : Bool, bs = barReply ⟨false, u, v⟩ → exec i s = .next (settleTurn (takeTrap
          (setThread (dropReq s q.id) { t with mark := none }) [{ t with mark := none }] 14 0 (BitVec.ofNat 64 a) (wordOf i))))

/-- `bar.wait` and `await.bar` (R165, R203): the first pass arrives and marks the thread with the phase
it saw; a thread whose phase is over acquires the object and goes on; one whose phase is not ends its segment with wake
code 1. `bar.wait` needs a safe point, and its arrival, like that of `bar.arr`, comes after what it releases. `await.bar` only
reads, and a wrong scratch address is BAD_OPERAND, cause 10. A global object is asked by a message, whose answer both finish
by. -/
def Sys2Proof.Claims.BarrierWaits : Prop :=
  ∀ (s : State) (t : Thread) (l : Launch) (g : Workgroup) (m : Marks) (r n : BitVec 6), StandsIn s t l g →
    NotRecorded s g.launch → t.waits = [] →
    let off := (getV t r).toNat
    let b := scratchBar g off
    let wait := Instr.barWait ⟨false, n, r, m⟩
    let await := Instr.awaitBar ⟨false, n, r, m⟩
    (barReq s t = none → off < scratchBytes l → off % 16 = 0 → m.stop = true →
      (ordinalOf s t t.pc).isSome = true → b.valid = true →
      (t.mark = none → NothingBound s t l g (scratchObject off) → ∀ b', barChange 2 (getV t n) false b = some b' →
        (b'.ph ≠ b.ph → GoesOn wait m.sw s (acquireFor (objectBecomes s g off b') (counted t) (scratchObject off))
          { counted t with mark := none }) ∧
        (b'.ph = b.ph → BlocksIn wait s (objectBecomes s g off b') { counted t with mark := some b.ph } 1
          (off + if b.ph then 1 else 0) false)) ∧
      (t.mark = none → ¬ NothingBound s t l g (scratchObject off) → exec wait s = .next (SendsBar sendReq s
        (releaseObject s l g t.tid (scratchObject off)).1
        (outstandingBound s t l (scratchObject off) ++ (releaseObject s l g t.tid (scratchObject off)).2) t
        { messageOf s t g off 0 (.bar 2 (getV t n) false) with loc := 1 })) ∧
      ∀ ph, t.mark = some ph →
        (b.ph ≠ ph → GoesOn wait m.sw s (acquireFor s t (scratchObject off)) { t with mark := none }) ∧
        (b.ph = ph → BlocksIn wait s s t 1 (off + if ph then 1 else 0) false)) ∧
    (barReq s t = none → m.stop = false ∨ ordinalOf s t t.pc = none → TakesTrap wait s t 8 0 0) ∧
    (barReq s t = none → off < scratchBytes l → off % 16 = 0 → b.valid = true →
      (b.ph ≠ (getV t n).getLsbD 0 → GoesOn await m.sw s (acquireFor s t (scratchObject off)) t) ∧
      (b.ph = (getV t n).getLsbD 0 → m.stop = true → (ordinalOf s t t.pc).isSome = true →
        Blocks await s t 1 (off + if (getV t n).getLsbD 0 then 1 else 0) false)) ∧
    (barReq s t = none → ¬ (off < scratchBytes l ∧ off % 16 = 0) → TakesTrap await s t 10 0 0) ∧
    let a := (getV2 t r).toNat
    let wait := Instr.barWait ⟨true, n, r, m⟩
    let await := Instr.awaitBar ⟨true, n, r, m⟩
    ∀ q (u v : Bool), barReq s t = some q → q.stage = .taken (barReply ⟨true, u, v⟩) →
      let s1 := dropReq s q.id
      let ph := t.mark.getD u
      (v ≠ ph → GoesOn wait m.sw s (acquireFor s1 t a) { t with mark := none }) ∧
      (v = ph → BlocksIn wait s s1 { t with mark := some ph } 1 (a + if ph then 1 else 0) true) ∧
      (v ≠ (getV t n).getLsbD 0 → GoesOn await m.sw s (acquireFor s1 t a) t)

/-- `await.ing` (R165, R392): a number not below the ingress ring count is BAD_OPERAND; where PROD differs from CONS the
thread acquires the ring's slots and goes on; else, also at a number below the count with no ring, its segment ends with
wake code 5. The count is one more than the highest number set (log 83). -/
def Sys2Proof.Claims.IngressAwaits : Prop :=
  ∀ (s : State) (t : Thread) (g : Workgroup) (m : Marks) (r : BitVec 6), Alone s t → findWg s t.wg = some g →
    let n := (getV t r).toNat % 256
    let waits := (m.stop = true → (ordinalOf s t t.pc).isSome = true → Blocks (.awaitIng ⟨r, m⟩) s t 5 n false) ∧
      (m.stop = false ∨ ordinalOf s t t.pc = none → TakesTrap (.awaitIng ⟨r, m⟩) s t 8 0 0)
    (findIngress s g.ctx n = none → ingressCount s g.ctx ≤ n → TakesTrap (.awaitIng ⟨r, m⟩) s t 10 0 0) ∧
    (findIngress s g.ctx n = none → n < ingressCount s g.ctx → waits) ∧
    ∀ x, findIngress s g.ctx n = some x →
      let slots := fun (v : Nat) =>
        decide (x.desc.base < v + 128) && decide (v < x.desc.base + 2 ^ (x.desc.slog + x.desc.zlog))
      (x.prod % 2 ^ 32 ≠ vreadNat s g.ctx (x.desc.index + 0x40) 4 → GoesOn (.awaitIng ⟨r, m⟩) m.sw s
        (stopFills (overLines (fun s y => invalidateLine s y g.ctx g.id t.tid) s
          ((s.l1.filter fun y => decide (y.home = g.home)).filter fun y => decide (y.asid = asidOf s g.ctx) &&
            (lineVas s g.ctx (128 * y.vline) (128 * y.pline)).any slots)).1 g.home fun q =>
            decide (q.ctx = g.ctx) && (lineVas s g.ctx q.va q.pa).any slots) t) ∧
      (x.prod % 2 ^ 32 = vreadNat s g.ctx (x.desc.index + 0x40) 4 → waits)

/-- Stage rings (R204 to R206, R280): an undeclared ring is BAD_OPERAND; `rinit` empties the ring; `rpush` puts the eight
words at TAIL and wakes the oldest record that waits for an entry, and, under the grant with an entry still free, the oldest
that waits for one, and at a full ring ends the segment with wake code 2, but for the thread the reserve place was granted
to; `rpop` takes the entry at HEAD, pending, and wakes the oldest record that waits for a free one unless the ring still
counts as full, and at an empty ring ends the segment; `rpeek` takes nothing, and tells an empty ring by a zero. -/
def Obligations.StageRings : Prop :=
  (∀ (s : State) (t : Thread) (g : Workgroup) (n : BitVec 8) (a c : BitVec 6) (m : Marks), Alone s t →
    findWg s t.wg = some g → NotRecorded s g.launch →
    let becomes := fun (r : Ring) => updWg s t.wg fun g =>
      { g with rings := updWhere (fun y => decide (y.num = r.num)) (fun _ => r) g.rings }
    let group := fun (r : BitVec 6) => (List.range 8).map fun j => r + BitVec.ofNat 6 j
    (findRing g n.toNat = none → TakesTrap (.rinit ⟨n, m⟩) s t 10 0 0 ∧ TakesTrap (.rpush ⟨n, a, m⟩) s t 10 0 0 ∧
      TakesTrap (.rpop ⟨n, a, m⟩) s t 10 0 0 ∧ TakesTrap (.rpeek ⟨n, c, a, m⟩) s t 10 0 0) ∧
    ∀ r, findRing g n.toNat = some r →
      (∃ s1, s1.wgs = (becomes { r with head := 0, tail := 0, hph := false, tph := false, reserve := none, grant := none }).wgs ∧
        GoesOn (.rinit ⟨n, m⟩) m.sw s s1 (counted t)) ∧
      (r.countsFull = false → r.grant ≠ some t.tid →
        GoesOn (.rpush ⟨n, a, m⟩) m.sw s
          (wakeOldest (becomes (ringPush r ((group a).map (getV t)))) t.wg r.num false) (counted t)) ∧
      (r.full = false → r.grant = some t.tid →
        let r1 := ringPush { r with grant := none } ((group a).map (getV t))
        let s1 := wakeOldest (becomes r1) t.wg r.num false
        GoesOn (.rpush ⟨n, a, m⟩) m.sw s (if r1.countsFull then s1 else wakeOldest s1 t.wg r.num true) (counted t)) ∧
      (r.full = true → r.grant = some t.tid → GoesOn (.rpush ⟨n, a, m⟩) m.sw s
        (becomes { r with reserve := some ((group a).map (getV t)), grant := none }) (counted t)) ∧
      (r.countsFull = true → r.grant ≠ some t.tid → m.stop = true → (ordinalOf s t t.pc).isSome = true →
        Blocks (.rpush ⟨n, a, m⟩) s t 2 r.num true) ∧
      (r.empty = true → m.stop = true → (ordinalOf s t t.pc).isSome = true →
        Blocks (.rpop ⟨n, a, m⟩) s t 2 r.num false) ∧
      (r.empty = false →
        let s1 := if r.reserve.isSome then wakeOldest (becomes (ringPop r)) t.wg r.num false else becomes (ringPop r)
        GoesOn (.rpop ⟨n, a, m⟩) m.sw s (if (ringPop r).countsFull then s1 else wakeOldest s1 t.wg r.num true)
          { counted t with pend := t.pend ++ [.value ((group a).zip (ringHead r))] }) ∧
      GoesOn (.rpeek ⟨n, c, a, m⟩) m.sw s (becomes r)
        { counted t with pend := t.pend ++ [.value (if r.empty then [(c, 0)] else (group a).zip (ringHead r) ++ [(c, 1)])] }) ∧
  ∀ (r : Ring) (ws : List Word), r.reserve = none → r.head < r.size → r.tail < r.size →
    (ringPush r ws).tail = (if r.tail + 1 = r.size then 0 else r.tail + 1) ∧
    (ringPush r ws).tph = (if r.tail + 1 = r.size then !r.tph else r.tph) ∧
    (ringPush r ws).head = r.head ∧ (ringPush r ws).hph = r.hph ∧
    (r.empty = true → ringHead (ringPush r ws) = ws) ∧
    (ringPop r).head = (if r.head + 1 = r.size then 0 else r.head + 1) ∧
    (ringPop r).hph = (if r.head + 1 = r.size then !r.hph else r.hph) ∧
    (ringPop r).tail = r.tail ∧ (ringPop r).tph = r.tph ∧ (ringPop r).entries = r.entries

/-! ### Copy, matrix, work and coverage instructions (spec/10, spec/11) -/

namespace Sys2Proof.Machine

/-- The copy instructions, with their kind and whether a multiply follows (R216, R220). -/
def IsCopy (i : Instr) (x : Cpy) (k : Nat) (follow : Bool) : Prop :=
  (i, k, follow) ∈ [(Instr.cpyG2s x, 0, false), (.cpyS2g x, 1, false), (.cpyG2b x, 2, false), (.cpyS2b x, 3, false),
    (.cpyChain x, 4, false), (.cpyWin x, 5, false), (.cpyFill x, 6, false), (.cpyScrub x, 7, false),
    (.cpyxG2s x, 0, true), (.cpyxG2b x, 2, true), (.cpyxS2b x, 3, true), (.cpyxChain x, 4, true)]

/-- A command enters its queues, if each has a place for it, the reserve places granted to its gang being used up; else
the gang stalls, at the queues that are full and those whose reserve place it keeps, and the thread stays at its instruction
(R211, R220, R277, R280). -/
def EntersOrStalls (i : Instr) (sw : Bool) (s : State) (t : Thread) (l : Launch) (g : Workgroup) (p : Push) : Prop :=
  ((∀ q ∈ pushQueues s g p, entryTo s g q = .place) →
    GoesOn i sw s (clearStall (enterCmd s l g t.tid p [] none)) t) ∧
  ((∀ q ∈ pushQueues s g p, entryTo s g q ≠ .full) →
    ∀ res, res = (pushQueues s g p).filter (fun q => decide (entryTo s g q = .reserve)) →
      GoesOn i sw s (clearStall (enterCmd
        (foldList (fun s q => setQueueProbe s g.id { queueProbe g q with granted := false }) s res) l g t.tid p res none)) t) ∧
  ((∃ q ∈ pushQueues s g p, entryTo s g q = .full) →
    exec i s = .next (markStall s ((pushQueues s g p).filter fun q => !decide (entryTo s g q = .place))))

/-- The detail of an ENGINE trap (R213): the address or offset concerned, the function and the reason. -/
def engineDetail (addr fn reason : Nat) : BitVec 64 := BitVec.ofNat 64 (addr % 2 ^ 52 * 4096 + fn * 256 + reason)

/-- The thread takes an ENGINE trap; a stall of its gang ends (R213). -/
def EngineTraps (i : Instr) (s : State) (t : Thread) (g : Workgroup) (addr fn reason : Nat) : Prop :=
  exec i s = .next (settleTurn (takeTrap (setThread (clearStall s) t) [t] 15 0 (engineDetail addr fn reason) (wordOf i)))

end Sys2Proof.Machine

/-- The copy instructions (R207 to R220): for the copy role; the job card is the 64 bytes of scratch at the thread's
offset; a card that fails a check is an ENGINE trap, cause 15, with its detail and no job; else the job enters the named
copy queue under the named guard slot. -/
def Sys2Proof.Claims.CopyInstructionsCheckAndQueue : Prop :=
  ∀ (s : State) (t : Thread) (l : Launch) (g : Workgroup) (i : Instr) (x : Cpy) (k : Nat) (follow : Bool),
    StandsIn s t l g → IsCopy i x k follow → t.fl.entered = false →
    let off := (getV t x.a).toNat
    let card := cardOf (readBytes g.scratch off 64)
    (t.role ≠ 1 → exec i s = .next (settleTurn (takeTrap (setThread (clearStall s) t) [t] 2 0 0 (wordOf i)))) ∧
    (t.role = 1 →
      (cardCheck s l g k follow off card = none → EntersOrStalls i x.m.sw s t l g
        ⟨.copy x.q.toNat, false, .copy k card follow, x.gd.toNat, x.sense, wordOf i⟩) ∧
      ∀ f, cardCheck s l g k follow off card = some f → ∃ a reason, f = .trap 15 0 (engineDetail a k reason) ∧
        EngineTraps i s t g a k reason) ∧
    (off % 64 ≠ 0 ∨ scratchBytes l < off + 64 → cardCheck s l g k follow off card = some (.trap 15 0 (engineDetail off k 1))) ∧
    (off % 64 = 0 → off + 64 ≤ scratchBytes l → k = 4 ∨ k = 5 → nbSize l = 0 →
      cardCheck s l g k follow off card = some (.trap 15 0 (engineDetail off k 9))) ∧
    (off % 64 = 0 → off + 64 ≤ scratchBytes l → ¬ (k = 4 ∨ k = 5) →
      card.len % 16 ≠ 0 ∨ card.len < 16 ∨ 1048576 < card.len ∨ card.rows = 0 →
      cardCheck s l g k follow off card = some (.trap 15 0 (engineDetail off k 2))) ∧
    (off % 64 = 0 → off + 64 ≤ scratchBytes l → k = 5 → nbSize l ≠ 0 → cardFields k follow card = true →
      card.src + (card.rows - 1) * card.sstr + card.len ≤ scratchBytes l →
      ∀ r, r < card.rows →
        let a := card.dst + r * card.dstr
        2 ^ 32 ≤ a ∨ memberOf s l g (a / 2 ^ 20) = none ∨ scratchBytes l < a % 2 ^ 20 + card.len →
        cardCheck s l g k follow off card = some (.trap 15 0 (engineDetail card.dst k 3)))

/-- A command in a queue (R37, R211, R273, R274): it stands behind the earlier ones; its guard's outcome binds it if the
slot is already resolved; its ordering edges are the earlier commands of its workgroup, but for the job it follows on,
that write what it reads or writes, or read what it writes. Copy queues have 16 places, matrix queues 8. -/
def Sys2Proof.Claims.QueuedCommandsAreOrderedByTheirFootprints : Prop :=
  ∀ (s : State) (l : Launch) (g : Workgroup) (tid : Nat) (p : Push) (reserve : List QueueRef) (own : Option Nat),
    let fp := footprint s l g p.kind
    (∃ c, (enterCmd s l g tid p reserve own).cmds = s.cmds ++ [c] ∧ c.reserve = reserve ∧ c.id = s.nextId ∧ c.wg = g.id ∧ c.queue = p.queue ∧
      c.both = p.both ∧ c.kind = p.kind ∧ c.issuer = tid ∧ c.gd = p.gd ∧ c.sense = p.sense ∧ c.state = .queued ∧
      c.reads = fp.1 ∧ c.writes = fp.2 ∧ c.kept = keptQueues s g p.kind ∧
      (p.gd = 0 → c.bound = none) ∧
      (p.gd ≠ 0 → guardState g p.gd = .isTrue → c.bound = some true) ∧
      (p.gd ≠ 0 → guardState g p.gd = .isFalse → c.bound = some false) ∧
      (p.gd ≠ 0 → guardState g p.gd = .idle ∨ guardState g p.gd = .armed → c.bound = none) ∧
      c.edges = (s.cmds.filter fun e => decide (own ≠ some e.id ∧ e.wg = g.id ∧ ((∃ a ∈ fp.1, ∃ b ∈ e.writes, spansMeet a b = true) ∨
        (∃ a ∈ fp.2, ∃ b ∈ e.reads, spansMeet a b = true) ∨ (∃ a ∈ fp.2, ∃ b ∈ e.writes, spansMeet a b = true)))).map Cmd.id) ∧
    (∀ n, entryTo s g (.copy n) = .place → placesUsed s g.id (.copy n) < 16) ∧
    ∀ n, entryTo s g (.matrix n) = .place → placesUsed s g.id (.matrix n) < 8

/-- The matrix instructions that queue a command (R223 to R230): for the matrix role; a format slot that is not valid is
ILLEGAL_ENCODING; a workgroup without an array half, an operand that fails a check of R227 or R230, and a tile bound to a
handle of others are ENGINE traps; else the command enters the queue of the workgroup's half. -/
def Sys2Proof.Claims.MatrixInstructionsCheckAndQueue : Prop :=
  ∀ (s : State) (t : Thread) (l : Launch) (g : Workgroup), StandsIn s t l g → t.role = 2 →
    let q := QueueRef.matrix (halfOf s g)
    (∀ x : MxMma,
      let f := launchFormat l x.f.toNat
      let ops : MmaOps := ⟨x.n.toNat, x.f.toNat, (getV t x.a).toNat, getV t (x.a + 1), (getV t x.b).toNat⟩
      (f.kind = 0 ∨ f.plc = true → TakesTrap (.mxmma x) s t 1 0 0) ∧
      (f.kind ≠ 0 → f.plc = false →
        (g.hasHalf = false → EngineTraps (.mxmma x) s t g ops.aoff 0 5) ∧
        (g.hasHalf = true → ∀ r, mmaCheck l ops = some r → EngineTraps (.mxmma x) s t g r.2 0 r.1) ∧
        (g.hasHalf = true → mmaCheck l ops = none → handleForbids g t x.n.toNat = true →
          EngineTraps (.mxmma x) s t g ops.aoff 0 7) ∧
        (g.hasHalf = true → mmaCheck l ops = none → handleForbids g t x.n.toNat = false →
          EntersOrStalls (.mxmma x) x.m.sw s t l g
            ⟨q, decide (shapeM ops = 64), .mma ops, x.gd.toNat, x.sense, wordOf (.mxmma x)⟩))) ∧
    (∀ x : Mxz,
      (g.hasHalf = false → EngineTraps (.mxz x) s t g 0 0 5) ∧
      (g.hasHalf = true → handleForbids g t x.n.toNat = true → EngineTraps (.mxz x) s t g 0 0 7) ∧
      (g.hasHalf = true → handleForbids g t x.n.toNat = false → EntersOrStalls (.mxz x) x.m.sw s t l g
        ⟨q, fullMode l, .tileZero x.n.toNat, x.gd.toNat, x.sense, wordOf (.mxz x)⟩)) ∧
    ∀ (x : MxLS) (i : Instr) (fn : Nat) (kind : Nat → Nat → Nat → Option Nat → CmdKind),
      (i, fn, kind) = (Instr.mxld x, 1, CmdKind.tileLoad) ∨ (i, fn, kind) = (Instr.mxst x, 2, CmdKind.tileStore) →
      let off := (getV t x.a).toNat
      let str := (getV t (x.a + 1)).toNat
      let b := (getV t x.b).toNat
      let rows := if fullMode l then 64 else 32
      (g.hasHalf = false → EngineTraps i s t g off fn 5) ∧
      (g.hasHalf = true → off % 16 ≠ 0 ∨ str % 16 ≠ 0 ∨ str < 256 ∨ scratchBytes l < off + (rows - 1) * str + 256 →
        EngineTraps i s t g off fn 3) ∧
      (g.hasHalf = true → off % 16 = 0 → str % 16 = 0 → 256 ≤ str → off + (rows - 1) * str + 256 ≤ scratchBytes l →
        (b ≠ 0xFFFFFFFF → b % 16 ≠ 0 → EngineTraps i s t g b fn 2) ∧
        (b ≠ 0xFFFFFFFF → b % 16 = 0 → scratchBytes l < b + 16 → EngineTraps i s t g b fn 3) ∧
        (b = 0xFFFFFFFF ∨ (b % 16 = 0 ∧ b + 16 ≤ scratchBytes l) →
          (handleForbids g t x.n.toNat = true → EngineTraps i s t g off fn 7) ∧
          (handleForbids g t x.n.toNat = false → EntersOrStalls i x.m.sw s t l g
            ⟨q, fullMode l, kind x.n.toNat off str (if b = 0xFFFFFFFF then none else some b), x.gd.toNat, x.sense,
              wordOf i⟩)))

/-- `mxstat`, `tsbind`, `tsrel` and `tsq` (R231 to R234): the row counters and the handle word are pending on the commands
queued before; `tsbind` takes the lowest free handle of four, and gives an ENGINE trap where base or length is not a
multiple of 128, where the thread holds one, where none is free or tiles or bytes meet another's, and where the range
leaves the share; `tsrel` gives the handle up, and a handle that nobody holds is free. -/
def Sys2Proof.Claims.TileHandlesAndStatus : Prop :=
  ∀ (s : State) (t : Thread) (l : Launch) (g : Workgroup) (m : Marks), StandsIn s t l g → t.role = 2 →
    (∀ x : MxStat,
      (g.hasHalf = false → TakesTrap (.mxstat x) s t 15 0 (engineDetail 0 3 5)) ∧
      (g.hasHalf = true → GoesOn (.mxstat x) x.m.sw s s { t with pend := t.pend ++ [.tileStat x.n.toNat
        ((s.cmds.filter fun c => decide (c.wg = g.id) && c.writes.any fun w =>
          match w.space with | .tile _ n => decide (n = x.n.toNat) | _ => false).map Cmd.id) x.d] })) ∧
    (∀ r : BitVec 6, ∃ ids, GoesOn (.tsq ⟨r, m⟩) m.sw s s { t with pend := t.pend ++ [.tileQuery ids r] }) ∧
    (∀ x : TsBind,
      let base := (getV t x.a).toNat
      let len := (getV t x.b).toNat
      (base % 128 ≠ 0 ∨ len % 128 ≠ 0 → TakesTrap (.tsbind x) s t 15 0 (engineDetail base 0 2)) ∧
      (base % 128 = 0 → len % 128 = 0 → t.handle.isSome = true ∨ freeHandle g = none →
        TakesTrap (.tsbind x) s t 15 0 (engineDetail base 0 8)) ∧
      (base % 128 = 0 → len % 128 = 0 → t.handle = none → ∀ n, freeHandle g = some n →
        (x.mask = 0 → len = 0 → TakesTrap (.tsbind x) s t 15 0 (engineDetail base 0 2)) ∧
        (len ≠ 0 → shareBytes l < base + len → TakesTrap (.tsbind x) s t 15 0 (engineDetail base 0 3)) ∧
        (x.mask ≠ 0 ∨ len ≠ 0 → len = 0 ∨ base + len ≤ shareBytes l →
          ((∃ h ∈ g.handles, handleMeets x.mask base len h = true) →
            TakesTrap (.tsbind x) s t 15 0 (engineDetail base 0 8)) ∧
          ((∀ h ∈ g.handles, handleMeets x.mask base len h = false) → GoesOn (.tsbind x) x.m.sw s
            (updWg s g.id fun g => { g with handles := g.handles ++ [⟨n, x.mask, base, len⟩] })
            { t with handle := some n })))) ∧
    (∃ s', exec (.tsrel ⟨m⟩) s = .next s' ∧ s' = { s with threads := s'.threads, wgs := s'.wgs } ∧
      s'.threads = (setThread s (retire 2 m.sw { t with handle := none })).threads ∧
      ∀ h ∈ s'.wgs, h.id = g.id → ∀ y ∈ h.handles,
        (∃ u ∈ s'.threads, u.wg = g.id ∧ u.handle = some y.idx) ∨ ∃ r ∈ s.records, r.th.wg = g.id ∧ r.th.handle = some y.idx) ∧
    ∀ n, freeHandle g = some n → n < 4 ∧ (∀ h ∈ g.handles, h.idx ≠ n) ∧
      ∀ k, k < n → ∃ h ∈ g.handles, h.idx = k

/-- `post` (R239): for a launch that names no result word, an ENGINE trap with reason 12; for a word
the thread may not read and write, an ACCESS trap; else a message to the word's home slice, which puts, ors or takes the maximum of its 64 bits (R239). -/
def Sys2Proof.Claims.PostUpdatesTheResultWord : Prop :=
  (∀ (s : State) (t : Thread) (l : Launch) (g : Workgroup) (r : BitVec 6) (m : Marks) (i : Instr) (mode : Nat),
    StandsIn s t l g →
    (i, mode) ∈ [(Instr.post ⟨r, m⟩, 0), (.postOr ⟨r, m⟩, 1), (.postMaxz ⟨r, m⟩, 2)] →
    let a := l.lr.result
    (a = 0 → TakesTrap i s t 15 0 (engineDetail 0 1 12)) ∧
    (a ≠ 0 → accessOk s l g .glb a 8 true true = false → TakesTrap i s t 14 0 (BitVec.ofNat 64 a)) ∧
    (a ≠ 0 → accessOk s l g .glb a 8 true true = true → ∀ e, tlbAt s g.home.cluster (asidOf s g.ctx) a = some e →
      (∀ s1, freezeFor s g.ctx a 1 (e.pbase + (a - e.vbase)) = some s1 → TrapsAt i s s1 t g a 14) ∧
      (freezeFor s g.ctx a 1 (e.pbase + (a - e.vbase)) = none → e.readable = false ∨ e.writable = false →
        TrapsAt i s s t g a 14) ∧
      (e.readable = true → e.writable = true → freezeFor s g.ctx a 1 (e.pbase + (a - e.vbase)) = none →
      aliasAt s g.home (e.pbase + (a - e.vbase)) = none →
      GoesOnAt i m.sw s (sendCounted (stopInstall s g.home ((e.pbase + (a - e.vbase)) / 128))
        (messageOf s t g a (e.pbase + (a - e.vbase)) (.post mode (toBytes 8 (getV2 t r).toNat)))) t g a))) ∧
  ∀ old x : Nat, postNew 0 old x = x ∧ postNew 1 old x = old ||| x ∧ postNew 2 old x = max old x

/-- `lnch` (R236 to R238, R386): the first pass asks the home slice for the packet's 32 bytes, and the thread waits; the
second appends it: 0 accepted, 1 a full queue, 2 no such device-side queue, 3 an invalid packet. An accepted packet is
held by the launch. -/
def Sys2Proof.Claims.LnchAppendsAPacket : Prop :=
  ∀ (s : State) (t : Thread) (l : Launch) (g : Workgroup) (x : Lnch), StandsIn s t l g → t.waits = [] →
    let a := (getV2 t x.a).toNat
    (lnchReq s t = none → accessOk s l g .glb a 32 true false = false →
      TakesTrap (.lnch x) s t 14 0 (BitVec.ofNat 64 a)) ∧
    (lnchReq s t = none → accessOk s l g .glb a 32 true false = true → ∀ e,
      tlbAt s g.home.cluster (asidOf s g.ctx) a = some e → e.readable = false → TrapsAt (.lnch x) s s t g a 14) ∧
    (lnchReq s t = none → accessOk s l g .glb a 32 true false = true → ∀ e,
      tlbAt s g.home.cluster (asidOf s g.ctx) a = some e → e.readable = true →
      aliasAt s g.home (e.pbase + (a - e.vbase)) = none →
      exec (.lnch x) s = .next (updThread
        (sendCounted s (messageOf s t g a (e.pbase + (a - e.vbase)) (.packet x.q.toNat x.d)))
        t.wg t.tid fun t => { t with waits := t.waits ++ [s.nextId] })) ∧
    ∀ r bs, lnchReq s t = some r → r.stage = .taken bs →
      (deviceQueue s g.ctx x.q.toNat = none → GoesOn (.lnch x) x.m.sw s (dropReq s r.id) (setV t x.d 2)) ∧
      ∀ q, deviceQueue s g.ctx x.q.toNat = some q →
        ((packetOf bs).valid = false → GoesOn (.lnch x) x.m.sw s (dropReq s r.id) (setV t x.d 3)) ∧
        ((packetOf bs).valid = true → deviceQueueFull s g.ctx q = true →
          GoesOn (.lnch x) x.m.sw s (dropReq s r.id) (setV t x.d 1)) ∧
        ((packetOf bs).valid = true → deviceQueueFull s g.ctx q = false →
          GoesOn (.lnch x) x.m.sw s (updLaunch (dropReq s r.id) l.id fun l =>
            { l with heldPackets := l.heldPackets ++ [(x.q.toNat, packetOf bs)] }) (setV t x.d 0))

/-- `wkpt`, `rcmark` and `assay` (R240 to R242), for the vector role: the map coordinates of the thread's point; a mark for
a kept point, once, after the map's dirty sectors are written back; and the value of an assay thread, which ends there.
Without the ASSAY bit `assay` has no effect. -/
def Sys2Proof.Claims.CoverageInstructions : Prop :=
  ∀ (s : State) (t : Thread) (l : Launch) (g : Workgroup) (r : BitVec 6) (m : Marks), StandsIn s t l g →
    (t.role ≠ 0 → TakesTrap (.wkpt ⟨r, m⟩) s t 2 0 0 ∧ (t.waits = [] → TakesTrap (.rcmark ⟨m⟩) s t 2 0 0) ∧
      TakesTrap (.assay ⟨r, m⟩) s t 2 0 0) ∧
    (t.role = 0 →
      let x0 := indexIn l.lr.grid g.wgid 0 * dim l.lr.size 0
      let y0 := indexIn l.lr.grid g.wgid 1 * dim l.lr.size 1
      (l.full = true → GoesOn (.wkpt ⟨r, m⟩) m.sw s s (setV (setV t r
        (BitVec.ofNat 32 (x0 + indexIn l.lr.size t.tid 0))) (r + 1) (BitVec.ofNat 32 (y0 + indexIn l.lr.size t.tid 1)))) ∧
      (l.full = false → ∀ p, localPoint l g t = some p → GoesOn (.wkpt ⟨r, m⟩) m.sw s s (setV (setV t r
        (BitVec.ofNat 32 (x0 + p.1))) (r + 1) (BitVec.ofNat 32 (y0 + p.2)))) ∧
      (t.waits = [] → coverageKernel s t.launch = false ∨ mapLines s l g = [] →
        (l.full = true ∨ t.fl.assay = true → GoesOn (.rcmark ⟨m⟩) m.sw s s t) ∧
        (l.full = false → t.fl.assay = false → ∀ p, localPoint l g t = some p →
          (p ∈ g.cover.marks → GoesOn (.rcmark ⟨m⟩) m.sw s s t) ∧
          (p ∉ g.cover.marks → GoesOn (.rcmark ⟨m⟩) m.sw s
            (updWg s g.id fun g => { g with cover := { g.cover with marks := g.cover.marks ++ [p] } }) t))) ∧
      (t.fl.assay = false → GoesOn (.assay ⟨r, m⟩) m.sw s s t) ∧
      (t.fl.assay = true → t.farFault = none → exec (.assay ⟨r, m⟩) s = .next (settleTurn (beginExit
        (setThread (updWg s t.wg fun g => { g with cover := { g.cover with samples := g.cover.samples.map fun x =>
          if x.tid = t.tid then { x with value := some (getV t r) } else x } }) { t with trapState := none })
        { t with trapState := none }))))

/-! ### The device's own steps: messages, results, walks, pages and the far space (spec/09, spec/12, spec/16) -/

namespace Sys2Proof.Machine

/-- The step or instruction answers this next state. -/
def Runs (i : Instr) (s s' : State) : Prop := exec i s = .next s'

/-- The step or instruction answers a next state of which this holds. -/
def Reaches (i : Instr) (s : State) (p : State → Prop) : Prop := ∃ s', exec i s = .next s' ∧ p s'

/-- A message with a stage, at the end of those that have arrived. -/
def answered (s : State) (r : Req) (bytes : List Byte) : State :=
  arrived s { r with stage := .reply bytes none true }

end Sys2Proof.Machine

/-- The steps of a home slice (R283, R312, R315, R318, R320): messages of one tile to one slice arrive in order, those
held by a link that retrains not at all; a write is performed at its arrival, and memory then holds exactly its bytes in
place of the old ones, its sectors dirty; a read of a line the slice holds whole is answered with the line; an operation of the
atomic unit goes to the unit where its sector is valid; what needs more of its line than the slice holds waits, and so
does anything that an earlier request of the same home to the line blocks, until a fill brings the line and serves every
waiting message for it in turn. Of a line beyond the host link no slice keeps anything (R474). -/
def Sys2Proof.Claims.HomeSlicesPerformReadsAndWrites : Prop :=
  (∀ (s : State) (id : Nat) (r : Req), findReq s id = some r → arrivesAtSlice s r = true →
    (lineBlocked s r = true ∨ l2Ready s r = false →
      Runs (.homeSliceRequest id) s (arrived s { r with stage := .missWait })) ∧
    (lineBlocked s r = false → waitingAt s (reqSlice s r) r.pa = [] →
      (∀ bytes, r.kind = .write bytes → r.bad = false → (bytes.map Prod.fst).Nodup → Memory.wf s.mem = true →
        Reaches (.homeSliceRequest id) s fun s' =>
          findReq s' id = some { r with stage := .reply [] none true } ∧
          (∀ a, readByte s'.mem a = (patchGet bytes a).getD (readByte s.mem a)) ∧ Memory.wf s'.mem = true ∧
          (r.pa < 2 ^ 39 → ∃ x, l2At s' (reqSlice s r) r.pa = some x ∧
            ∀ n j, n < 8 → j < 16 → (patchGet bytes (r.pa / 128 * 128 + (16 * n + j))).isSome = true →
              x.dirty.getLsbD n = true)) ∧
      (∀ n x, r.kind = .read n → l2At s (reqSlice s r) r.pa = some x → x.valid = 0xFF →
        poisoned s (r.pa / 128 * 128) 128 = [] → poisoned s r.pa n = [] →
        Reaches (.homeSliceRequest id) s fun s' => s'.mem = s.mem ∧ findReq s' id =
          some { r with stage := .reply (readBytes s.mem (r.pa / 128 * 128) 128) x.reader true }) ∧
      (unitOp r = true → l2Ready s r = true →
        Runs (.homeSliceRequest id) s (arrived s { r with stage := .atHome })))) ∧
  (∀ (s : State) (id : Nat) (r : Req), findReq s id = some r → arrivesAtSlice s r = false →
    Runs (.homeSliceRequest id) s s) ∧
  (∀ (s : State) (r : Req), arrivesAtSlice s r = true ↔ r.stage = .toHome ∧ sliceBound r = true ∧ linkHolds s r = false ∧
    ∀ q ∈ before s r, sliceBound q = true → inFlight q = true → sourceTile q = sourceTile r → reqSlice s q ≠ reqSlice s r) ∧
  (∀ (s : State) (r : Req), lineBlocked s r = true ↔ ∃ q ∈ s.reqs, q.id < r.id ∧ sliceBound q = true ∧
    notPerformed q = true ∧ q.src = r.src ∧ q.pa / 128 = r.pa / 128 ∧
    (unitOp q = false ∨ unitOp r = false ∨ (q.wg = r.wg ∧ q.tid = r.tid))) ∧
  (∀ (s : State) (r : Req),
    ((∃ bytes, r.kind = .write bytes) → l2Ready s r = true) ∧
    (unitOp r = true → (l2Ready s r = true ↔
      ∃ x, l2At s (reqSlice s r) r.pa = some x ∧ x.valid.getLsbD (r.pa % 128 / 16) = true)) ∧
    (((∃ n, r.kind = .read n) ∨ r.kind = .prefetch ∨ ∃ q d, r.kind = .packet q d) →
      (l2Ready s r = true ↔ ∃ x, l2At s (reqSlice s r) r.pa = some x ∧ x.valid = 0xFF))) ∧
  (∀ (s : State) (id : Nat) (r : Req), findReq s id = some r → r.stage = .missWait →
    (r.pa < 2 ^ 39 →
      Runs (.sliceMissFill id) s (serveLine (l2Fill s r.ctx (reqSlice s r) r.pa) (reqSlice s r) r.pa) ∧
      ∃ x, l2At (l2Fill s r.ctx (reqSlice s r) r.pa) (reqSlice s r) r.pa = some x ∧ x.valid = 0xFF) ∧
    (2 ^ 39 ≤ r.pa → Runs (.sliceMissFill id) s (foldList serveFetched s (waitingAt s (reqSlice s r) r.pa))) ∧
    ∀ n, r.kind = .read n → lineBlocked s r = false → (∀ q ∈ s.reqs, q.stage = .missWait → q.id = id) →
      poisoned s (r.pa / 128 * 128) 128 = [] → poisoned s r.pa n = [] →
      Reaches (.sliceMissFill id) s fun s' => s'.mem = s.mem ∧
        (2 ^ 39 ≤ r.pa → l2At s (reqSlice s r) r.pa = none → l2At s' (reqSlice s r) r.pa = none) ∧ ∃ reader, findReq s' id =
        some { r with stage := .reply (readBytes s.mem (r.pa / 128 * 128) 128) reader true }) ∧
  ∀ (s : State) (id : Nat) (r : Req), findReq s id = some r →
    (r.stage = .missWait ∧ lineBlocked s r = false ∧ l2Ready s r = true → serveWaiting s id = serveReq s r) ∧
    (¬ (r.stage = .missWait ∧ lineBlocked s r = false ∧ l2Ready s r = true) → serveWaiting s id = s)

/-- The atomic unit (R195, R202, R239, R315): the next operation of its bytes is performed as one step: an atomic leaves
its result in memory and answers the old bytes, if they were asked for; a barrier change leaves the changed object and
answers whether it was allowed and the phase before and after; a post changes the result word. What gives no value is
acknowledged, the acknowledgement going its way like any other reply (R318). No other byte changes, where
nothing waits at the slice for the line and no record that a barrier wakes has to be read back (R264). -/
def Sys2Proof.Claims.AtomicUnitPerformsOneOperation : Prop :=
  ∀ (s : State) (id : Nat) (r : Req), findReq s id = some r → unitNext s r = true → s.recording = [] →
    waitingAt s (reqSlice s r) r.pa = [] →
    (∀ x op w64 operand ret, r.kind = .atom x op w64 operand ret → poisoned s r.pa (if w64 then 8 else 4) = [] →
      Reaches (.atomicPerform id) s fun s' =>
        s'.mem = writeBytes s.mem r.pa (atomBytes x op w64 (readBytes s.mem r.pa (if w64 then 8 else 4)) operand) ∧
        findReq s' id =
          some { r with stage := .reply (if ret then readBytes s.mem r.pa (if w64 then 8 else 4) else []) none true }) ∧
    (∀ fn operand out, r.kind = .bar fn operand out → poisoned s r.pa 16 = [] → (∀ x ∈ s.records, x.inBuffer = true) →
      let b := barOf (readBytes s.mem r.pa 16)
      Reaches (.atomicPerform id) s fun s' =>
        findReq s' id = some { r with stage := .reply (barReply (barResult fn operand out b)) none true } ∧
        (fn = 5 ∨ barChange fn operand out b = none → s'.mem = s.mem) ∧
        ∀ b', fn ≠ 5 → barChange fn operand out b = some b' → s'.mem = writeBytes s.mem r.pa (barBytes b')) ∧
    (∀ mode operand, r.kind = .post mode operand → poisoned s r.pa 8 = [] →
      Reaches (.atomicPerform id) s fun s' => findReq s' id = some { r with stage := .reply [] none true } ∧
        s'.mem = writeBytes s.mem r.pa (toBytes 8 (postNew mode (ofBytes (readBytes s.mem r.pa 8)) (ofBytes operand)))) ∧
    ∀ (x : Bool) (op : Nat) (w64 : Bool) (old operand : List Byte),
      (atomBytes x op w64 old operand).length = if w64 then 8 else 4

/-- Peers, window accesses and acknowledgements (R192, R197, R313, R318): a peer that holds the whole forwardable line
answers for it, and one that does not sends the request on, with a flit of its own, what the requester asked of the line before
coming first; a window access is performed at the member's scratch and answered or acknowledged; an acknowledged write, store,
post or atomic is gone, and no thread waits for it any more; the answer of a barrier change or a packet is there for its thread.
What one tile sent another before comes first. -/
def Sys2Proof.Claims.PeersWindowsAndAcknowledgements : Prop :=
  (∀ (s : State) (id : Nat) (r : Req) (h : Home), findReq s id = some r → r.stage = .toPeer h → tileNext s r = true →
    let on := bumpCounter (arrived s { r with stage := .toHome, loc := 2 + h.cluster }) r.ctx h 11 1
    (lineBlocked s r = true → Runs (.peerRequest id) s s) ∧
    (lineBlocked s r = false → aliasAt s h r.pa = none → Runs (.peerRequest id) s on) ∧
    (lineBlocked s r = false → ∀ x, aliasAt s h r.pa = some x →
      (x.fwd = true → x.valid = 0xFF → x.asid = asidOf s r.ctx → peerAnswers s h = true →
        Runs (.peerRequest id) s (serveLine (bumpCounter
          (arrived s { r with stage := .reply (readBytes x.data 0 128) none true, loc := 1000 + h.cluster }) r.ctx r.src 4 1)
          (reqSlice s r) r.pa)) ∧
      (x.fwd = false ∨ x.valid ≠ 0xFF ∨ x.asid ≠ asidOf s r.ctx ∨ peerAnswers s h = false →
        Runs (.peerRequest id) s on))) ∧
  (∀ (s : State) (id : Nat) (r : Req) (m n : Nat) (store : Option (List Byte)) (g : Workgroup), findReq s id = some r →
    r.kind = .window m store n → r.stage = .toHome → tileNext s r = true → findWg s m = some g →
    (∀ bs, store = some bs → Runs (.windowAccess id) s (answered (updWg (bumpCounter s r.ctx g.home 10 1) m fun g =>
      { g with scratch := writeBytes g.scratch r.va bs }) r [])) ∧
    (store = none → Runs (.windowAccess id) s (answered (bumpCounter s r.ctx g.home 10 1) r (readBytes g.scratch r.va n)))) ∧
  (∀ (s : State) (id : Nat) (r q : Req), findReq s id = some r → q ∈ before s r → (tileBound s q).isSome = true →
    tileBound s q = tileBound s r → q.src.cluster = r.src.cluster →
    Runs (.peerRequest id) s s ∧ Runs (.windowAccess id) s s) ∧
  (∀ (s : State) (id : Nat) (r : Req) (bs : List Byte) (x : Option Home) (ok : Bool),
    findReq s id = some r → r.stage = .reply bs x ok → fillNext s r = true →
    let gone := finishReq (bumpCounter s r.ctx r.src 12 1) id
    let taken := updReq (bumpCounter s r.ctx r.src 12 1) id fun r => { r with stage := .taken bs }
    let there := { taken with threads := taken.threads.map (unwait id) }
    (((∃ p, r.kind = .write p) ∨ (∃ mode p, r.kind = .post mode p) ∨ (∃ m p n, r.kind = .window m (some p) n) ∨
        (r.acquire = false ∧ ∃ e op w64 p, r.kind = .atom e op w64 p false)) →
      Runs (.writeBackAcknowledgement id) s gone) ∧
    ((∃ fn operand out, r.kind = .bar fn operand out) → Runs (.writeBackAcknowledgement id) s there) ∧
    ((∃ q d, r.kind = .packet q d) → Runs (.lineFill id) s there)) ∧
  (∀ (s : State) (id : Nat) (r q : Req), findReq s id = some r → q ∈ before s r → (replyFrom s q).isSome = true →
    replyFrom s q = replyFrom s r → q.src.cluster = r.src.cluster →
    Runs (.lineFill id) s s ∧ Runs (.writeBackAcknowledgement id) s s) ∧
  ∀ (s : State) (id : Nat), (∀ q ∈ (finishReq s id).reqs, q.id ≠ id) ∧
    (∀ t ∈ (finishReq s id).threads, id ∉ t.waits) ∧ (finishReq s id).mem = s.mem ∧ (finishReq s id).wgs = s.wgs ∧
    ∀ q ∈ s.reqs, sliceBound q = false → q.stage = .held [id] → ∀ t ∈ (finishReq s id).threads, q.id ∉ t.waits

/-- Pending results (R79, R307, R318): a value computed at issue, the bytes a fill or a window brings, an atomic's old
value, and the tile words are written to their registers, and no other register changes; the last one ends the park.
A fill puts the line's bytes in place of those the L1 did not hold: in the line it fills each sector with no written byte,
and of the sectors the load missed every byte that is not written. -/
def Sys2Proof.Claims.PendingResultsAreWritten : Prop :=
  (∀ (s : State) (t : Thread) (i : Nat) (ws : List (BitVec 6 × Word)) (n : Nat), findThread s t.wg t.tid = some t →
    t.place = .running n → writePending s t i ws = setThread s { setRegs t ws with
      pend := t.pend.eraseIdx i
      fl := { t.fl with park := t.fl.park && !(t.pend.eraseIdx i).isEmpty } }) ∧
  (∀ (t : Thread) (ws : List (BitVec 6 × Word)), (ws.map Prod.fst).Nodup →
    (∀ w ∈ ws, getV (setRegs t ws) w.1 = w.2) ∧ (∀ r, (∀ w ∈ ws, w.1 ≠ r) → getV (setRegs t ws) r = getV t r) ∧
    setRegs t ws = { t with v := (setRegs t ws).v }) ∧
  (∀ (s : State) (k : SeatKey) (i : Nat) (t : Thread), findSeat s k = some t → findThread s t.wg t.tid = some t → t.waits = [] →
    (∀ ws, t.pend[i]? = some (.value ws) → Runs (.pendingResultWrite k i) s (writePending s t i ws)) ∧
    (∀ id a va got dst r m n bs x ok, t.pend[i]? = some (.load id a va got dst) → findReq s id = some r →
      r.kind = .window m none n → r.stage = .reply bs x ok → fillNext s r = true → Runs (.pendingResultWrite k i) s
        (writePending (finishReq (bumpCounter s r.ctx r.src 12 1) id) t i (loadWrites a dst bs))) ∧
    (∀ id x2 dst r bs x ok, t.pend[i]? = some (.atom id x2 dst) → findReq s id = some r → r.stage = .reply bs x ok →
      fillNext s r = true → r.acquire = false → Runs (.pendingResultWrite k i) s
        (writePending (finishReq (bumpCounter s r.ctx r.src 12 1) id) t i (oldWrites x2 dst bs))) ∧
    (∀ n cmds dst, t.pend[i]? = some (.tileStat n cmds dst) → (∀ c ∈ cmds, findCmd s c = none) →
      Runs (.pendingResultWrite k i) s (writePending s t i [(dst, tileStatWord s t n)])) ∧
    ∀ cmds dst, t.pend[i]? = some (.tileQuery cmds dst) → (∀ c ∈ cmds, findCmd s c = none) →
      Runs (.pendingResultWrite k i) s (writePending s t i [(dst, tileQueryWord s t)])) ∧
  (∀ (s : State) (id : Nat) (r : Req) (n i va : Nat) (bs : List Byte) (x : Option Home) (ok : Bool) (t : Thread)
    (k : Access) (got : Patch) (dst : BitVec 6), findReq s id = some r → r.kind = .read n → r.stage = .reply bs x ok →
    fillNext s r = true → r.install = false → r.fwd = false → findThread s r.wg r.tid = some t → t.waits = [] →
    pendingLoad t id = some i → t.pend[i]? = some (.load id k va got dst) →
    Runs (.lineFill id) s (writePending (finishReq (bumpCounter s r.ctx r.src 12 1) id) t i
      (loadWrites k dst (loadBytes va r.pa k.size got bs)))) ∧
  (∀ (s : State) (h : Home) (ctx wg va pa ways z : Nat) (fwd : Bool) (bs : List Byte) (x : L1Line),
    lineAt s h (asidOf s ctx) va = some x → Memory.wf x.data = true → va % 128 + z ≤ 128 → bs.length = 128 →
    ∃ y ∈ (l1Fill s h ctx wg va pa ways z fwd bs).l1, y.home = x.home ∧ y.pline = x.pline ∧ y.mask = x.mask ∧
      ∀ j, j < 128 →
        (x.mask.getLsbD j = true → readByte y.data j = readByte x.data j) ∧
        (x.mask.getLsbD j = false → (va % 128 < 16 * (j / 16) + 16 ∧ 16 * (j / 16) < va % 128 + z ∧ 0 < z) ∨
            (∀ i, i < 16 → x.mask.getLsbD (16 * (j / 16) + i) = false) →
          readByte y.data j = (bs[j]?).getD 0 ∧ y.valid.getLsbD (j / 16) = true)) ∧
  ∀ (va pa z j : Nat) (got : Patch) (bytes : List Byte), j < z → bytes.length = 128 →
    (loadBytes va pa z got bytes)[j]? =
      some (match patchGet got (va + j) with | some b => b | none => (bytes[(pa + j) % 128]?).getD 0)

/-- Table walks (R189, R309, R347, R411): a page that is at the device ends the walk with a TLB entry for it; a page that is
not there ends it without one; a page the context may not use ends it as a violation. The instruction that meets a missing
page asks for it as it uses the walk up; a prefetch does not. -/
def Sys2Proof.Claims.TableWalksFillTheTlb : Prop :=
  (∀ (s : State) (cluster asid page : Nat) (w : Walk) (c : Context), w ∈ s.walks → w.cluster = cluster → w.asid = asid →
    w.page = page → w.running = true → ctxOfAsid s asid = some c → findCtx s c.id = some c →
    let va := page * 65536
    let same := fun (x : Walk) => x.cluster = cluster ∧ x.asid = asid ∧ x.page = page
    (∀ p, pageFor s c.id va = some p → p.state = .device → Reaches (.tableWalkComplete cluster asid page) s fun s' =>
      (⟨cluster, asid, p.va, p.bits, p.pa, p.readable, p.writable⟩ : TlbEntry) ∈ s'.tlb ∧ (∀ x ∈ s'.walks, ¬ same x) ∧ s'.mem = s.mem) ∧
    (pageFor s c.id va = none → (∀ v ∈ s.violations, v.ctx = c.id → v.va ≠ va) → va < 2 ^ 52 →
      Reaches (.tableWalkComplete cluster asid page) s fun s' => s'.tlb = s.tlb ∧
        ∀ x ∈ s'.walks, same x → x.failed = some .missing) ∧
    (pageFor s c.id va = none → (∃ v ∈ s.violations, v.ctx = c.id ∧ v.va = va) →
      Reaches (.tableWalkComplete cluster asid page) s fun s' => s'.tlb = s.tlb ∧
        ∀ x ∈ s'.walks, same x → x.failed = some .violation)) ∧
  ∀ (s : State) (cluster asid page : Nat) (w : Walk) (c : Context), ctxOfAsid s asid = some c → findCtx s c.id = some c →
    let va := page * 65536
    pageFor s c.id va = none → (∀ v ∈ s.violations, v.ctx = c.id → v.va ≠ va) → va < 2 ^ 52 →
    tlbAt s cluster asid va = none → walkAt s cluster asid va = some w → w.failed = some .missing →
    (∃ c', findCtx (useWalks s cluster asid [va]) c.id = some c' ∧ ∃ r ∈ c'.prReqs, r.va = va) ∧
    (dropWalks s cluster asid [va]).contexts = s.contexts

/-- A page request (R411): with room in the ring, whose frames the context holds (R11, log 102), the oldest request not yet written takes the next 32-byte entry: the
page's address, its kind and first cluster (or the far mark), the clusters that wait, the time and the number. -/
def Sys2Proof.Claims.PageRequestsEnterTheRing : Prop :=
  ∀ (s : State) (ctx : Nat) (c : Context) (r : PageReq), findCtx s ctx = some c →
    (granted s ctx c.prBase = false → Runs (.pageRequest ctx) s s) ∧
    (granted s ctx c.prBase = true → c.prReqs.find? (fun r => decide (r.seq = none)) = some r →
    (∀ x ∈ c.prReqs, ∀ q, x.seq = some q → c.prSeq < q + 2 ^ c.prLog) →
    Runs (.pageRequest ctx) s (updCtx (physWrite s (c.prBase + 32 * (c.prSeq % 2 ^ c.prLog))
      (toBytes 8 r.va ++ toBytes 4 (r.kind + if r.far then 2 ^ 15 else 256 * r.clusters.headD 0) ++
        toBytes 4 r.clusters.length ++ toBytes 8 s.ptp.time ++ toBytes 8 c.prSeq)) ctx fun c => { c with
      prSeq := c.prSeq + 1
      prReqs := c.prReqs.map fun x => if x.va = r.va then { x with seq := some c.prSeq } else x }))

/-- The far space at its home (R189, R193, R194, R440): an access of this device to itself, or of another device, acts on
the page of its context; a missing page is asked for and the access waits; a page it may not use is a violation, and a write
to a control block or a mapping list freezes what it belongs to as well (R418). The answer goes to the record of the thread that waits for it, or takes the access out of the thread's far group. -/
def Sys2Proof.Claims.FarHomesAnswer : Prop :=
  (∀ (s : State) (id : Nat) (r : Req) (op : FarOp), findReq s id = some r → r.kind = .far op → r.stage = .toHome →
    r.loc = s.boot.devnum → farNext s r = true → farTurn s r.ctx r.va op = true → farDue s r op = true →
    let s0 := farServed s r.ctx r.va op
    (∀ p s1, pageFor s r.ctx r.va = some p → p.state = .device → farWrites op = true →
      freezeFor s0 r.ctx r.va 1 (p.pa + (r.va - p.va)) = some s1 → Runs (.farRequest (.own id)) s (updReq s1 id fun r =>
        { r with stage := .reply [] none false })) ∧
    (∀ p, pageFor s r.ctx r.va = some p → p.state = .device →
      freezeFor s0 r.ctx r.va 1 (p.pa + (r.va - p.va)) = none →
      let pa := p.pa + (r.va - p.va)
      (∀ n, op = .load n → p.readable = true → poisoned s pa n = [] → Runs (.farRequest (.own id)) s (updReq s id fun r =>
        { r with stage := .reply (readBytes s.mem pa n) none true, bad := false })) ∧
      (∀ bs, op = .store bs → p.writable = true → Runs (.farRequest (.own id)) s (updReq (physWrite s pa bs) id fun r =>
        { r with stage := .reply [] none true, bad := false })) ∧
      (∀ x k w64 bs, op = .atom x k w64 bs → p.readable = true → p.writable = true → s.recording = [] →
        poisoned s pa (if w64 then 8 else 4) = [] → Reaches (.farRequest (.own id)) s fun s' =>
          s'.mem = writeBytes s.mem pa (atomBytes x k w64 (readBytes s.mem pa (if w64 then 8 else 4)) bs) ∧
          findReq s' id = some { r with
            stage := .reply (readBytes s.mem pa (if w64 then 8 else 4)) none true, bad := false }) ∧
      ((farWrites op = true ∧ p.writable = false) ∨ (farReads op = true ∧ p.readable = false) →
        Runs (.farRequest (.own id)) s (updReq s0 id fun r =>
        { r with stage := .reply [] none false }))) ∧
    (pageFor s r.ctx r.va = none → (∀ v ∈ s.violations, v.ctx ≠ r.ctx) → r.va < 2 ^ 52 →
      Runs (.farRequest (.own id)) s (updReq (requestPage s0 r.ctx 0 r.va true) id fun r => { r with stage := .waitPage true }))) ∧
  (∀ (s : State) (id : Nat) (r : Req) (op : FarOp), findReq s id = some r → r.kind = .far op →
    r.loc ≠ s.boot.devnum ∨ farNext s r = false ∨ farTurn s r.ctx r.va op = false ∨ farDue s r op = false →
    Runs (.farRequest (.own id)) s s) ∧
  (∀ (s : State) (x : FarIn) (p : Page), x.dev = s.boot.devnum → farTurn s x.ctx x.va x.op = true →
    pageFor s x.ctx x.va = some p → p.state = .device →
    let s0 := farServed s x.ctx x.va x.op
    let pa := p.pa + (x.va - p.va)
    (∀ n, x.op = .load n → p.readable = true → poisoned s pa n = [] →
      Runs (.farRequest (.other x)) s (emit s (.farAnswer x.va (readBytes s.mem pa n) true))) ∧
    (∀ bs, x.op = .store bs → p.writable = true → freezeFor s x.ctx x.va 1 pa = none →
      Runs (.farRequest (.other x)) s (emit (physWrite s pa bs) (.farAnswer x.va [] true))) ∧
    (∀ e op w64 bs, x.op = .atom e op w64 bs → p.readable = true → p.writable = true → freezeFor s0 x.ctx x.va 1 pa = none →
      poisoned s pa (if w64 then 8 else 4) = [] →
      let old := readBytes s.mem pa (if w64 then 8 else 4)
      Runs (.farRequest (.other x)) s (emit (physWrite s0 pa (atomBytes e op w64 old bs)) (.farAnswer x.va old true))) ∧
    (∀ s1, farWrites x.op = true → freezeFor s0 x.ctx x.va 1 pa = some s1 →
      Runs (.farRequest (.other x)) s (emit s1 (.farAnswer x.va [] false))) ∧
    (freezeFor s0 x.ctx x.va 1 pa = none →
      (farWrites x.op = true ∧ p.writable = false) ∨ (farReads x.op = true ∧ p.readable = false) →
      Runs (.farRequest (.other x)) s (emit s0 (.farAnswer x.va [] false)))) ∧
  (∀ (s : State) (x : FarIn) (y : SentImage), x.dev ≠ s.boot.devnum → y.dev ≠ s.boot.devnum →
    ((∀ r ∈ s.boot.routes, r.dev ≠ x.dev) → Runs (.farRequest (.other x)) s (emit s (.farAnswer x.va [] false))) ∧
    (∀ r, s.boot.routes.find? (fun r => decide (r.dev = x.dev)) = some r →
      Runs (.farRequest (.other x)) s (emit s (.forward r.port (.other x)))) ∧
    ∀ r, s.boot.routes.find? (fun r => decide (r.dev = y.dev)) = some r →
      Runs (.farRequest (.image y)) s (emit s (.forward r.port (.image y)))) ∧
  (∀ (s : State) (y : SentImage), y.dev = s.boot.devnum → Reaches (.farRequest (.image y)) s fun s' =>
    s' = { s with imagesIn := s'.imagesIn } ∧ ∃ z, s'.imagesIn = s.imagesIn ++ [z] ∧ z.handle = y.handle ∧
      z.bytes = y.bytes ∧ z.hash = y.hash ∧ z.ki = y.ki) ∧
  ∀ (s : State) (id : Nat) (r : Req) (op : FarOp) (remote : FarAnswer) (y : FarReply), findReq s id = some r →
    r.kind = .far op →
    (linkHolds s r = true ∨ r.stage = .atPort → Runs (.farReply id remote) s s ∧ Runs (.farAcknowledgement id remote) s s) ∧
    (linkHolds s r = false → ((∃ bs x ok, r.stage = .reply bs x ok ∧
        y = ⟨bs, if ok then none else some (2 ^ 63 + 2 ^ 52 * r.loc + r.va), r.bad⟩) ∨
      (r.stage = .toHome ∧ r.loc ≠ s.boot.devnum ∧
        ((∃ bs, remote = .value bs ∧ y = ⟨bs, none, false⟩) ∨
          (remote = .violation ∧ y = ⟨[], some (2 ^ 63 + 2 ^ 52 * r.loc + r.va), false⟩)))) →
    (inFarGroup s r = false → Runs (.farReply id remote) s
      (retestWg (settleBuffer (updOwner (finishReq (bumpCounter s r.ctx r.src 12 1) id) r.wg r.tid fun t =>
        { t with reply := some y }) r.src.cluster) r.wg 7)) ∧
    (inFarGroup s r = true → y.bad = false → Runs (.farAcknowledgement id remote) s
      (settleThread (retestWg (retestWg (updOwner (finishReq (bumpCounter s r.ctx r.src 12 1) id) r.wg r.tid fun t => { t with
        far := t.far.filter fun x => !decide (x = id)
        farFault := match t.farFault with | some a => some a | none => y.violation }) r.wg 3) r.wg 8) r.wg r.tid)))

/-! ### Copy engines, chains, matrix commands and probe tokens (spec/10, spec/11, spec/12) -/

/-- Copy jobs (R218 to R220, R321): the job at the start position runs when its guard is decided for it and the commands it
is ordered behind are complete, four at once; it is discarded when its guard is decided against it; its pieces cover its
rows and cross no 4,096-byte boundary; a piece is read as one step, in order, and lands as another, or waits for a page, or
cuts the job off there: the pieces that have begun land, no other moves, and the job ends with a late ENGINE trap; an address
outside the grants freezes the job's engine alone, and a frozen engine reads nothing more; what would land in the scratch of a
killed workgroup does not; a chain job reserves its places one cluster at a time, and reads a piece when all are reserved. -/
def Sys2Proof.Claims.CopyJobsRunInPieces : Prop :=
  (∀ (s : State) (wg q : Nat) (c : Cmd) (g : Workgroup) (k : Nat) (card : Card) (follow : Bool),
    startPosition s wg (.copy q) = some c → findWg s wg = some g → c.kind = .copy k card follow →
    (c.gd = 0 ∨ c.bound = some c.sense → (∀ e ∈ c.edges, findCmd s e = none) → engineOn s g = true →
      g.phase = .running → copyEngines s g = true → ((s.cmds.filter fun x => decide (x.wg = wg) && decide (x.queue = .copy q) &&
        !decide (x.state = .queued)).length < 4) →
      Runs (.copyJobStart wg q) s (updCmd (bumpFree s) c.id fun c =>
        { c with state := .running s.clock, pieces := jobPieces k card, engine := pickEngine s g }) ∧
      ∃ v e, vdOfWg s g = some v ∧ pickEngine s g = some e ∧ e ∈ v.engines ∧ e ∉ v.frozenEngines) ∧
    (c.gd ≠ 0 → c.bound = some (!c.sense) →
      Runs (.copyJobStart wg q) s (if (g.stop = .none ∨ stopNeedsQueues s g = true) ∧ g.phase = .running
        then countDiscard (dropCmd s c.id) wg 1 else s)) ∧
    (c.gd ≠ 0 → c.bound = none → Runs (.copyJobStart wg q) s s)) ∧
  (∀ (k : Nat) (c : Card) (n : Nat), n < c.rows →
    let ps := (jobPieces k c).filter fun p => decide (p.row = n)
    (ps.map Piece.len).sum = c.len ∧ (∀ p ∈ ps, 0 < p.len ∧ (rowDst k c n + p.off) % 4096 + p.len ≤ 4096) ∧
    ∀ j, j < c.len → ∃ p ∈ ps, p.off ≤ j ∧ j < p.off + p.len) ∧
  (∀ (s : State) (id : Nat) (c : Cmd) (k : Nat) (card : Card) (follow : Bool) (since : Nat) (g : Workgroup) (l : Launch)
    (i : Nat) (p : Piece) (s1 : State), findCmd s id = some c → c.kind = .copy k card follow → c.state = .running since →
    findWg s c.wg = some g → findLaunch s g.launch = some l → landable s g k c card = [i] → c.pieces[i]? = some p →
    (reachAll s l g.ctx (pieceRanges k card p) = (s1, .ok) →
      (p.data ≠ none → Runs (.copyPieceLand id) s (bumpFree (landPiece s1 l g c k card follow i p))) ∧
      (p.data = none → pieceUnits s1 g k card p = ([], []) → Runs (.copyPieceLand id) s (bumpFree (updCmd s1 id fun c =>
        { c with
          pieces := listSet c.pieces i { p with data := some (pieceSource s1 g k card p) }
          waitPage := none })))) ∧
    (reachAll s l g.ctx (pieceRanges k card p) = (s1, .outside) → Runs (.copyPieceLand id) s (freezeEngine s1 g c) ∧
      ∀ (v : VDev) (e : Nat), vdOfWg s1 g = some v → c.engine = some e → e ∈ v.engines → e ∉ v.frozenEngines →
        freezeEngine s1 g c = emit (updCmd (updVd (bumpFree s1) v.num fun v =>
          { v with frozenEngines := e :: v.frozenEngines }) c.id fun c => { c with engine := some e })
          (.log (.frozen (.engine e) g.ctx))) ∧
    (∀ va, reachAll s l g.ctx (pieceRanges k card p) = (s1, .missing va) →
      Runs (.copyPieceLand id) s (updCmd (requestPage s1 g.ctx g.home.cluster va false) id fun c =>
        { c with waitPage := some va })) ∧
    ∀ va reason, reachAll s l g.ctx (pieceRanges k card p) = (s1, .stops va reason) →
      ((∀ j q, j < i → c.pieces[j]? = some q → q.data ≠ none → q.done = true) → c.stopped = none →
        Runs (.copyPieceLand id) s (raiseLate (dropCmd s1 c.id) c.wg c.issuer ⟨15, engineDetail va k reason, c.word⟩)) ∧
      ((∃ j q, j < i ∧ c.pieces[j]? = some q ∧ q.data ≠ none ∧ q.done = false) → Reaches (.copyPieceLand id) s fun s' =>
        s'.mem = s1.mem ∧ ∃ c', findCmd s' id = some c' ∧ c'.stopped = some (c.stopped.getD (va, reason)) ∧
          (∀ q, q ∈ c'.pieces ↔ ∃ j, j < i ∧ c.pieces[j]? = some q ∧ q.data ≠ none))) ∧
  (∀ (s : State) (g : Workgroup) (m k : Nat) (c : Card) (p : Piece) (data : List Byte), k = 0 ∨ (k = 6 ∧ c.fsp = false) →
    p.len = data.length →
    (g.cover.dead = false → landBytes s g m k c p data [] =
      updWg s m fun h => { h with scratch := writeBytes h.scratch (c.dst + p.row * c.dstr + p.off) data }) ∧
    (g.cover.dead = true → landBytes s g m k c p data [] = s)) ∧
  (∀ (s : State) (g : Workgroup) (c : Cmd) (card : Card) (i : Nat), mayRead s g 4 c card i = true →
    (chainList card).length ≤ chainHeld s c.id i ∧ nextRead c = some i ∧ g.phase = .running) ∧
  (∀ (s : State) (g : Workgroup) (k : Nat) (c : Cmd) (card : Card) (i : Nat), k ≠ 4 → mayRead s g k c card i = true →
    nextRead c = some i ∧ engineOn s g = true ∧ g.phase = .running) ∧
  (∀ (s : State) (g : Workgroup) (k : Nat) (c : Cmd) (card : Card) (i e : Nat) (v : VDev), c.engine = some e →
    vdOfWg s g = some v → e ∈ v.engines → e ∈ v.frozenEngines → mayRead s g k c card i = false) ∧
  ∀ (s : State) (id : Nat) (c : Cmd) (card : Card) (follow : Bool) (since : Nat) (g : Workgroup) (p : Piece) (cluster : Nat),
    findCmd s id = some c → c.kind = .copy 4 card follow → c.state = .running since → findWg s c.wg = some g →
    c.pieces = [p] → p.data = none →
    ((∃ x ∈ s.chains, x.cmd = id ∧ x.piece = 0) ∨
      (engineOn s g = true ∧ g.phase = .running ∧ jobEngineOn s g c = true)) →
    (chainList card)[(chainHeld s id 0)]? = some cluster →
    Runs (.chainReservation id) s (reserveAt
      (if ∃ x ∈ s.chains, x.cmd = id ∧ x.piece = 0 then s else bumpCounter s g.ctx g.home 11 1) cluster id 0)

/-- Matrix commands (R41, R226, R229, R230): a command at the start of every queue it stands in starts when its guard and
its order allow, and takes its scratch and B-tier operands then; it completes as one step, with the words of R66 to R69 in every row of the tile, each row's NaN counter
and nothing else; one that signals nan_trap gives its issuer a late NAN trap and writes nothing, and one spoiled by an
uncorrectable error writes nothing. -/
def Sys2Proof.Claims.MatrixCommandsCompleteAtOnce : Prop :=
  (∀ (s : State) (wg half : Nat) (c : Cmd) (g : Workgroup), startPosition s wg (.matrix half) = some c →
    findWg s wg = some g → atStart s c = true →
    (c.gd = 0 ∨ c.bound = some c.sense → (∀ e ∈ c.edges, findCmd s e = none) → engineOn s g = true →
      g.phase = .running → Runs (.mxaCommandStart wg half) s (updCmd s c.id fun c =>
        { c with state := .running s.clock, operands := some (g.scratch, g.btier) })) ∧
    (c.gd ≠ 0 → c.bound = some (!c.sense) → Runs (.mxaCommandStart wg half) s
      (if (g.stop = .none ∨ stopNeedsQueues s g = true) ∧ g.phase = .running
        then countDiscard (dropCmd s c.id) wg 1 else s))) ∧
  ∀ (s : State) (id since n : Nat) (c : Cmd) (g : Workgroup) (l : Launch), findCmd s id = some c → c.state = .running since →
    c.queue = .matrix n → findWg s c.wg = some g → findLaunch s g.launch = some l →
    (c.bad ≠ [] → Runs (.mxaCommandComplete id) s (dropCmd s id)) ∧
    (c.operands = none → asTaken g c = g) ∧ (∀ a b, c.operands = some (a, b) → asTaken g c = { g with scratch := a, btier := b }) ∧
    (c.bad = [] →
      let half := if s.splitRoods.contains (roodOf g.home.cluster) then g.home.side else 0
      (∀ x, c.kind = .mma x →
        ((∃ i, i < shapeM x ∧ (mmaRow (asTaken g c) l x half i).2.2 = true) →
          Runs (.mxaCommandComplete id) s (raiseLate (dropCmd s id) c.wg c.issuer ⟨4, 0, c.word⟩)) ∧
        ((∀ i, i < shapeM x → (mmaRow (asTaken g c) l x half i).2.2 = false) → Runs (.mxaCommandComplete id) s
          (updWg (dropCmd s id) g.id fun h => (List.range (shapeM x)).foldl (fun h i =>
            setRow l half x.tile h i (mmaRow (asTaken g c) l x half i).1 (mmaRow (asTaken g c) l x half i).2.1) h))) ∧
      (∀ t, c.kind = .tileZero t → Runs (.mxaCommandComplete id) s (updWg (dropCmd s id) g.id fun h =>
        (List.range (if fullMode l then 64 else 32)).foldl (fun h i => setRow l half t h i (List.replicate 64 0) 0) h)) ∧
      (∀ t off stride, c.kind = .tileLoad t off stride none → Runs (.mxaCommandComplete id) s (updWg (dropCmd s id) g.id
        fun h => (List.range (if fullMode l then 64 else 32)).foldl (fun h i =>
          setRow l half t h i ((List.range 64).map fun j => readNat (asTaken g c).scratch (off + i * stride + 4 * j) 4) 0) h)) ∧
      ∀ t off stride, c.kind = .tileStore t off stride none → Runs (.mxaCommandComplete id) s (updWg (dropCmd s id) g.id
        fun h => { h with scratch := (List.range (if fullMode l then 64 else 32)).foldl (fun mem i =>
          writeBytes mem (off + i * stride) (readBytes h.tiles (tileAt (rowHalf l half i) t i) 256)) h.scratch }))

/-- Probe tokens (R278 to R281): a queue blocked for 1,024 cycles since its last token sends one along each wait-for edge; a
token at a queue that is not blocked is gone; one that returns to its origin grants the reserve place; one at a queue it
has visited is gone; any other goes on. -/
def Sys2Proof.Claims.ProbeTokensFindDeadlocks : Prop :=
  (∀ (s : State) (wg since : Nat) (q : QueueRef) (g : Workgroup), findWg s wg = some g → blockedSince s wg q = some since →
    reserveFree s g q = true →
    (max since (queueProbe g q).lastSent + 1024 ≤ s.clock → Runs (.probeTokenSend wg q) s
      (updWg (setQueueProbe s wg { queueProbe g q with sent := (queueProbe g q).sent + 1, lastSent := s.clock }) wg
        fun h => { h with
          probes := h.probes ++ (waitEdges s g q).map (fun y => Probe.mk q ((queueProbe g q).sent + 1) y [q])
          counts := { h.counts with probesent := min (h.counts.probesent + 1) 0xFFFFFFFF } })) ∧
    (s.clock < max since (queueProbe g q).lastSent + 1024 → Runs (.probeTokenSend wg q) s s)) ∧
  ∀ (s : State) (wg i : Nat) (g : Workgroup) (p : Probe), findWg s wg = some g → g.probes[i]? = some p →
    let gone := updWg s wg fun h => { h with probes := h.probes.eraseIdx i }
    (blockedSince s wg p.place = none → Runs (.probeTokenReceive wg i) s gone) ∧
    (blockedSince s wg p.place ≠ none → p.place ≠ p.origin → p.place ∈ p.visited →
      Runs (.probeTokenReceive wg i) s gone) ∧
    (blockedSince s wg p.place ≠ none → p.place ≠ p.origin → p.place ∉ p.visited → Runs (.probeTokenReceive wg i) s
      (updWg gone wg fun h => { h with
        probes := h.probes ++ (waitEdges s g p.place).map (fun y => Probe.mk p.origin p.num y (p.visited ++ [p.place])) })) ∧
    (blockedSince s wg p.place ≠ none → p.place = p.origin → reserveFree s g p.origin = true →
      p.num = (queueProbe g p.origin).sent → (∀ n, p.origin ≠ .ring n) →
      Reaches (.probeTokenReceive wg i) s fun s' => ∃ h, findWg s' wg = some h ∧ (queueProbe h p.origin).granted = true ∧
        h.counts.resvgrant = min (g.counts.resvgrant + 1) 0xFFFFFFFF ∧
        ∀ x ∈ h.probes, ¬ (x.origin = p.origin ∧ x.num = p.num))

/-! ### Gangs, records, blocks, timeouts, coverage and workgroups (spec/06, spec/12 to spec/14) -/

namespace Sys2Proof.Machine

/-- A thread that comes to life (R47, R253): every register, predicate but p0, group register, log and flag is zero or
empty. -/
def Fresh (t : Thread) : Prop :=
  (∀ i : BitVec 6, getV t i = 0) ∧ (∀ n : BitVec 3, n ≠ 0 → getP t n = false) ∧ (∀ n : BitVec 3, subOf t n = ⟨0, 0⟩) ∧
  t.log = none ∧ t.pend = [] ∧ t.far = [] ∧ t.reply = none ∧ t.mark = none ∧ t.late = [] ∧ t.handle = none ∧
  t.trapState = none ∧ t.fl.step = false ∧ t.fl.frag = false

end Sys2Proof.Machine

/-- `GANG_DRAW` (R162, R163, R173, R181): nothing happens while no bin is due or a lower slot is free; else the slot holds a
gang of at most 32 threads of one PC, which run; the core's draw count and the parent gang identifier go up. -/
def Sys2Proof.Claims.GangDrawFillsASlot : Prop :=
  (∀ (s : State) (k : SlotKey),
    (freeGangSlot s (slotCore k) ≠ some k.slot → Runs (.gangDraw k) s s) ∧
    (drawChoice s (slotCore k) = [] → Runs (.gangDraw k) s s) ∧
    ∀ t ts, freeGangSlot s (slotCore k) = some k.slot → drawChoice s (slotCore k) = t :: ts →
      Runs (.gangDraw k) s (drawGang s k (t :: ts))) ∧
  (∀ (s : State) (c : CoreKey), (drawChoice s c).length ≤ 32 ∧ ∀ t ∈ drawChoice s c, ∀ u ∈ drawChoice s c, t.pc = u.pc) ∧
  (∀ (s : State) (c : CoreKey) (n : Nat), freeGangSlot s c = some n →
    n < 16 ∧ findSlot s ⟨c.cluster, c.core, n⟩ = none ∧ ∀ j, j < n → findSlot s ⟨c.cluster, c.core, j⟩ ≠ none) ∧
  ∀ (s : State) (k : SlotKey) (t : Thread), t ∈ s.threads → t.place = .binned → (s.threads.map fun u => (u.wg, u.tid)).Nodup →
    findSlot s k = none →
    let id := BitVec.ofNat 32 (2 ^ 30 * k.core + 2 ^ 26 * k.slot + ((coreState s (slotCore k)).draws + 1) % 2 ^ 26)
    (∃ u ∈ (drawGang s k [t]).threads, u.wg = t.wg ∧ u.tid = t.tid ∧ u.place = .running k.slot ∧ u.fl.frag = false ∧
      u.gang = id ∧ u.pc = t.pc ∧ u.v = t.v) ∧
    (∃ x, findSlot (drawGang s k [t]) k = some x ∧ x.parent = id ∧ x.members = [t.tid] ∧ x.drawnAt = s.clock) ∧
    (coreState (drawGang s k [t]) (slotCore k)).draws = (coreState s (slotCore k)).draws + 1

/-- `RECORD_DRAIN` (R254, R262, R265, R353): the records of one bin that are due, at most 32 and one for each free seat,
leave the record pool and take seats; each thread comes back with the registers, predicates, groups and log its record
carries, at its safe point, at its own PC after a trap record, or at the trap handler. Held records without a pool slot
take what has come free before (R421). -/
def Sys2Proof.Claims.RecordDrainRestoresThreads : Prop :=
  (∀ (s s0 : State) (k : CoreKey), reseatBare s0 k.cluster = s → drainChoice s k = [] → Runs (.recordDrain k) s0 s) ∧
  (∀ (s s0 : State) (k : CoreKey) (r : Record) (rs : List Record), reseatBare s0 k.cluster = s →
    drainChoice s k = r :: rs →
    let s2 := refillRecordBins (foldList (drainRecord k) (traceDrain s (r :: rs)) ((r :: rs).zip (freeSeats s k))) k.cluster
    Runs (.recordDrain k) s0 (releaseHeld s2 (ctxOfWg s r.th.wg) s2.threads.length)) ∧
  (∀ (s : State) (cluster : Nat), (∀ r ∈ s.records, r.held = true → r.poolSlot.isSome = true) → reseatBare s cluster = s) ∧
  (∀ (s : State) (k : CoreKey), (drainChoice s k).length ≤ 32 ∧ (drainChoice s k).length ≤ (freeSeats s k).length ∧
    ∀ r ∈ drainChoice s k, r ∈ s.records ∧ r.woken.isSome = true) ∧
  (∀ (s : State) (k : CoreKey) (r : Record) (n : Nat) (g : Workgroup), findWg s r.th.wg = some g →
    (∀ q ∈ (drainRecord k s (r, n)).records, q.id ≠ r.id) ∧
    ∃ t ∈ (drainRecord k s (r, n)).threads, t.wg = r.th.wg ∧ t.tid = r.th.tid ∧ t.seat = ⟨k.cluster, k.core, n⟩) ∧
  ∀ (s : State) (r : Record) (k : SeatKey) (keep : Bool),
    let t := resumed s r k keep
    t.wg = r.th.wg ∧ t.tid = r.th.tid ∧ t.seat = k ∧ t.p = r.th.p ∧ t.g = r.th.g ∧ t.log = r.th.log ∧ t.mark = r.th.mark ∧
    t.reply = r.th.reply ∧ t.fl.replay = r.th.log.isSome ∧
    (r.fin.ext ≠ 3 → t.pc = r.th.pc ∧ t.v = r.th.v ∧ t.path.lastStop = some r.fin.ord.toNat ∧ t.path.since = 0) ∧
    (r.fin.ext = 3 → r.fin.wake ≠ 10 → t.pc = r.fin.trapPc ∧ t.v = r.th.v)

/-- `LOG_REPLAY` (R348, R349): a logged store whose page is there is performed with the entry's address and data, and the
log is empty; one whose page is still missing ends the segment again with code 9 at a safe point, and waits with its log off one
(the model's reading of R90, log 87); while the page is being looked for the gang stays; with nothing to replay only the turn
passes. No replay moves a PC. -/
def Sys2Proof.Claims.LogReplayPerformsTheEntry : Prop :=
  (∀ (s : State) (k : SlotKey), (∀ t ∈ s.threads, inRunning k t = true → t.fl.replay = false) →
    Runs (.logReplay k) s { s with turn := some k }) ∧
  ∀ (s : State) (k : SlotKey) (t : Thread) (l : Launch) (g : Workgroup) (e : LogEntry) (i : Instr),
    s.turn = some k → StandsIn s t l g → t.role = 0 → t.fl.replay = true → t.log = some e → decode32 e.word = .ok i →
    ((∃ x, i = .st x) ∨ ∃ x, i = .stk x) →
    let a := e.addr.toNat
    let asid := asidOf s g.ctx
    accessOk s l g .glb a e.data.length false true = true →
    (tlbAt s g.home.cluster asid a = none → (∀ w, walkAt s g.home.cluster asid a = some w → w.failed = none) →
      Runs (.logReplay k) s (startWalk s g.home g.ctx a)) ∧
    (tlbAt s g.home.cluster asid a = none → ∀ w, walkAt s g.home.cluster asid a = some w → w.failed = some .missing →
      ((safeOrdinal s t t.pc).isSome = true →
        Runs (.logReplay k) s (useWalks (settleTurn (endSegment (traceEnds s [t] 9) t
          (endAt (traceEnds s [t] 9) t 9 0 false))) g.home.cluster asid [a])) ∧
      (safeOrdinal s t t.pc = none → Runs (.logReplay k) s (useWalks s g.home.cluster asid [a]))) ∧
    ∀ y, tlbAt s g.home.cluster asid a = some y → y.writable = true →
      freezeFor s g.ctx a 1 (y.pbase + (a - y.vbase)) = none →
      Runs (.logReplay k) s (useWalks (setThread (globalStore s t l g a (y.pbase + (a - y.vbase)) e.data)
        { replayed t with log := none, fl := { t.fl with
            replay := false
            park := (marks e.word).sw && !t.pend.isEmpty } }) g.home.cluster asid [a])

/-- `BLOCK_CREATE` (R47, R252 to R254): the walker creates the next block whole, in seats of the core with the most free
ones, when threads may be created and no record is due there; each new thread is fresh, with its role by the launch's
role counts and its PC at that role's section; else nothing happens. `SEAT_RECLAIM` (R266) marks the gang drawn longest
ago where a woken record has waited four age thresholds. -/
def Sys2Proof.Claims.BlocksAndSeats : Prop :=
  (∀ (s : State) (wg : Nat) (g : Workgroup) (l : Launch) (k : KernelDecl) (core : Nat) (seats : List Nat),
    findWg s wg = some g → findLaunch s g.launch = some l → kernelOf s g.launch = some k →
    roomiest s g = some (core, seats) → replayOf s g.launch = none →
    let n := min 32 (wgThreads g - 32 * g.blocks)
    (mayCreate s l g = true → n ≤ seats.length → drainChoice s ⟨g.home.cluster, core⟩ = [] → l.full = true →
      Runs (.blockCreate wg) s (foldList (createThread l g k core)
        (updWg s wg fun g => { g with blocks := g.blocks + 1 })
        (((List.range n).map fun j => 32 * g.blocks + j).zip seats))) ∧
    (mayCreate s l g = false ∨ seats.length < n → Runs (.blockCreate wg) s s)) ∧
  (∀ (k : SeatKey) (g : Workgroup) (tid : Nat) (role : BitVec 2) (assay : Bool) (pc : Nat),
    Fresh (newThread k g tid role assay pc) ∧ (newThread k g tid role assay pc).pc = pc ∧
    (newThread k g tid role assay pc).role = role ∧ (newThread k g tid role assay pc).tid = tid) ∧
  (∀ (l : Launch) (j : Nat), (l.lr.roles = 0 → blockRole l j = 0) ∧
    (l.lr.roles ≠ 0 → blockRole l j = if j < l.lr.roles.toNat % 256 then 1
      else if j < l.lr.roles.toNat % 256 + l.lr.roles.toNat / 256 % 256 then 2 else 0)) ∧
  ∀ (s : State) (k : CoreKey) (x : Slot) (r : Record), r ∈ s.records → drains s k r = true → recordAged s 4 r = true →
    (∀ g, findWg s r.th.wg = some g → ∀ c ∈ coresOf s g, mayUse s g r c = false ∨ freeSeats s ⟨k.cluster, c⟩ = []) →
    (∀ t ∈ coreThreads s k, t.fl.reclaim = false) →
    minByKey Slot.drawnAt (s.slots.filter fun x => decide (slotCore x.key = k)) = some x →
    Runs (.seatReclaim k) s (updThreads s (fun t => decide (t.slot? = some x.key)) fun t =>
      { t with fl := { t.fl with reclaim := true } })

/-- The watchdogs (R166, R173, R270, R354 to R356): a thread that has retired 2^24 instructions takes OVERRUN, cause 11, at
its next safe point; records that have waited the launch's barrier timeout on one object become trap records of cause
12; a gathering bin that has waited it ends at cause 13, and its bin goes to overflow threads; trap state, of a thread or in a
record, or a trap record not released, that has lasted 2^26 cycles without a session kills the context's launches with
TRAP_UNRESOLVED; a pool deadlock of 2^24 cycles kills them with POOL_DEADLOCK; before its time, and while its workgroups are
stopped, each does nothing. A timer wakes its record. -/
def Sys2Proof.Claims.WatchdogsAndTimers : Prop :=
  (∀ (s : State) (k : SeatKey) (slot : SlotKey) (t : Thread) (o : Nat), findSeat s k = some t → t.slot? = some slot →
    inRunning slot t = true → safeOrdinal s t t.pc = some o →
    (t.path.retired < 2 ^ 24 → Runs (.overrun k) s s) ∧
    (2 ^ 24 ≤ t.path.retired → (s.threads.map fun u => (u.wg, u.tid)).Nodup →
      overrunOf (passStops s (s.threads.filter (inRunning slot))) slot ≠ []) ∧
    (2 ^ 24 ≤ t.path.retired → ∀ u us, overrunOf (passStops s (s.threads.filter (inRunning slot))) slot = u :: us →
      Runs (.overrun k) s (takeTrap (passStops s (s.threads.filter (inRunning slot))) (u :: us) 11 0
        (BitVec.ofNat 64 u.path.retired) (wordAt (passStops s (s.threads.filter (inRunning slot))) u)))) ∧
  (∀ (s : State) (rid : Nat) (r : Record) (g : Workgroup) (l : Launch), findRecord s rid = some r →
    findWg s r.th.wg = some g → findLaunch s r.th.launch = some l → r.fin.wake = 1 → r.woken = none →
    (s.clock < r.since + 2 ^ (10 + l.lr.flags.toNat / 2 ^ 16 % 32) → Runs (.barrierTimeout rid) s s) ∧
    (g.stop = .none → r.since + 2 ^ (10 + l.lr.flags.toNat / 2 ^ 16 % 32) ≤ s.clock →
      let same := fun (q : Record) => decide (q.th.wg = g.id) && decide (q.fin.wake = 1) && q.woken.isNone &&
        decide (q.fin.q = r.fin.q) && decide (q.fin.operand / 16 = r.fin.operand / 16)
      let x := workgroupTrap s g 12 0 (wordAt s r.th)
      let late := fun (q : Record) => { q with
        fin := timeoutEnd q.fin 12 q.th.pc x.2, th := { q.th with log := none, reply := none }, since := s.clock }
      Runs (.barrierTimeout rid) s (dispatchTrap
        (settleBuffer { x.1 with records := updWhere same late x.1.records } g.home.cluster) g x.2
        (s.records.any fun q => same q && q.th.trapState.isSome)))) ∧
  (∀ (s : State) (k : SeatKey) (t : Thread) (g : Workgroup) (l : Launch), findSeat s k = some t → findWg s t.wg = some g →
    findLaunch s t.launch = some l → t.place = .binned → (gatherGroup s t).isSome = true → g.stop = .none →
    (s.clock ≤ t.binnedAt + barTimeout l → Runs (.gatherTimeout k) s s) ∧
    (t.binnedAt + barTimeout l < s.clock →
      let bin := binThreads s ⟨k.cluster, k.core⟩ t.pc
      let x := workgroupTrap s g 13 0 (wordAt s t)
      Runs (.gatherTimeout k) s (dispatchTrap (refillBins (foldList (fun s u => endSegment s u
        (timeoutEnd (endAt s u 10 0 false) 13 u.pc x.2)) (traceEnds x.1 bin 10) bin) ⟨k.cluster, k.core⟩) g x.2
        (bin.any fun u => u.trapState.isSome)))) ∧
  (∀ (s : State) (ctx : Nat) (c : Context), findCtx s ctx = some c →
    (c.session = true → Runs (.trapUnresolved ctx) s s) ∧
    (c.session = false → ∀ t b g, (t ∈ s.threads ∨ ∃ r ∈ s.records, t = r.th) → t.trapState = some b →
      findWg s t.wg = some g → g.ctx = ctx → g.stop = .none → b + 2 ^ 26 ≤ s.clock →
      Runs (.trapUnresolved ctx) s (killCtx s ctx 9)) ∧
    (c.session = false → ∀ r ∈ s.records, ∀ g, r.fin.wake = 10 → r.woken = none → findWg s r.th.wg = some g → g.ctx = ctx →
      g.stop = .none → r.since + 2 ^ 26 ≤ s.clock → Runs (.trapUnresolved ctx) s (killCtx s ctx 9)) ∧
    ((∀ t b g, (t ∈ s.threads ∨ ∃ r ∈ s.records, t = r.th) → t.trapState = some b → findWg s t.wg = some g → g.ctx = ctx →
        g.stop ≠ .none ∨ s.clock < b + 2 ^ 26) →
      (∀ r ∈ s.records, ∀ g, r.fin.wake = 10 → r.woken = none → findWg s r.th.wg = some g → g.ctx = ctx →
        g.stop ≠ .none ∨ s.clock < r.since + 2 ^ 26) → Runs (.trapUnresolved ctx) s s) ∧
    (c.deadlock = none → Runs (.poolDeadlock ctx) s s) ∧
    ∀ d, c.deadlock = some d → deadlockHolds s ctx = true →
      (c.stop ≠ .none ∨ (∃ g ∈ s.wgs, g.ctx = ctx ∧ g.stop ≠ .none) → Runs (.poolDeadlock ctx) s s) ∧
      (s.clock < d + 2 ^ 24 → Runs (.poolDeadlock ctx) s s) ∧
      (c.stop = .none → (∀ g ∈ s.wgs, g.ctx = ctx → g.stop = .none) → d + 2 ^ 24 ≤ s.clock →
        Runs (.poolDeadlock ctx) s (killCtx s ctx 10))) ∧
  ∀ (s : State) (rid : Nat) (r : Record), findRecord s rid = some r → r.fin.wake = 6 → (∀ t ∈ s.threads, ∀ e, t.place ≠ .held e) →
    (wakeHolds s r.th r.fin = true → r.woken = none → Reaches (.timerWake rid) s fun s' => ∃ q, findRecord s' rid = some q ∧
      q.woken = some s.clock ∧ q.th = r.th) ∧
    (wakeHolds s r.th r.fin = false → Runs (.timerWake rid) s s)

/-- Coverage steps (R331, R335 to R343, R366): a skipped point of a laddered workgroup is written once, when its sources are
marked or the workgroup has ended, with the bytes its sources give, those of the end where it was formed then; a sample of
the point keeps what was written, and is compared with it once its value is known; the unit writes nothing while the workgroup or its context is stopped or in an
image; an update instant that is due, of a killed launch too, moves the rung by at most one step, notes its cycle and frees the
homes that waited. -/
def Sys2Proof.Claims.CoverageSteps : Prop :=
  (∀ (s : State) (wg x y : Nat) (g : Workgroup) (l : Launch), findWg s wg = some g → findLaunch s g.launch = some l →
    (reconOpen l g x y = true → reconReady l g (tileOf l g.wgid) x y = true → reconGoes s g = true →
      (∀ s1, reachPoints s g.ctx (pointEnds l (tileOf l g.wgid) (reconTouches l g (tileOf l g.wgid) x y)) = (s1, none) →
        Runs (.reconPointWrite wg x y) s (reconWrite s1 l g x y false)) ∧
      ∀ s1 va, reachPoints s g.ctx (pointEnds l (tileOf l g.wgid) (reconTouches l g (tileOf l g.wgid) x y)) = (s1, some va) →
        Runs (.reconPointWrite wg x y) s (requestPage s1 g.ctx g.home.cluster va false)) ∧
    (reconOpen l g x y = false ∨ reconReady l g (tileOf l g.wgid) x y = false ∨ reconGoes s g = false →
      Runs (.reconPointWrite wg x y) s s) ∧
    (∀ c, findCtx s g.ctx = some c → (reconGoes s g = true ↔
      g.stop = .none ∧ g.phase ≠ .imaged ∧ c.stop = .none ∧ c.image = none)) ∧
    (g.phase ≠ .ended → (coverSlot l).kind ≠ 5 → (reconReady l g (tileOf l g.wgid) x y = true ↔
      ∀ p ∈ sourcesOf (rungOf l g) (tileOf l g.wgid) x y, p.1 ∈ g.cover.marks))) ∧
  (∀ (s : State) (wg i : Nat) (g : Workgroup) (l : Launch) (x : Sample) (q : Word), findWg s wg = some g →
    findLaunch s g.launch = some l → g.cover.samples[i]? = some x → x.value = some q → x.done = false → x.dropped = false →
    (x.element = none → Runs (.sampleCompare wg i) s s) ∧
    (∀ bs, x.element = some bs →
      Runs (.sampleCompare wg i) s (countWg (updLaunch (updWg s wg fun h => { h with cover := { h.cover with
          samples := listSet g.cover.samples i { x with
            error := some (sampleError (decide (field (coverControl l) 8 8 = 1))
              (elementValue l (tileOf l g.wgid) x.x bs) (decodeFp fp32 q.toNat))
            done := true } } })
        l.id fun l => { l with counts := { l.counts with samples := min (l.counts.samples + 1) 0xFFFFFFFF } }) wg))) ∧
  (∀ (s : State) (x y : Nat) (g : Workgroup) (l : Launch) (z : Sample) (v : ReconValue), findWg s g.id = some g →
    v = (atEndOf l g x y).getD (reconValue s l g x y) → v.units = [] → z ∈ g.cover.samples →
    (z.x, z.y) ∈ writtenWith l g (tileOf l g.wgid) x y →
    ∃ h, findWg (reconWrite s l g x y false) g.id = some h ∧ { z with element := some v.bytes } ∈ h.cover.samples ∧
      (z.x, z.y) ∈ h.cover.written) ∧
  (∀ (s : State) (n : Nat) (l : Launch), findLaunch s n = some l →
    (instantsDue l ≤ l.instants ∨ l.full = true → Runs (.updateInstant n) s s) ∧
    (l.instants < instantsDue l → l.full = false → Runs (.updateInstant n) s
      (countAll (updWgs (updLaunch s n fun l => { makeInstant l with instantAt := noteInstant s l }) (fun g => decide (g.launch = n) && g.cover.counted) fun g =>
        { g with cover := { g.cover with freed := true } }) n))) ∧
  ∀ l : Launch,
    let e := decodeFp fp32 (updateError (decide (field (coverControl l) 8 8 = 1)) l.samples)
    (makeInstant l).instants = l.instants + 1 ∧ (makeInstant l).samples = [] ∧
    (ltX (decodeFp fp32 l.lr.cover.high.toNat) e = true → (makeInstant l).rung = l.rung - 1) ∧
    (ltX (decodeFp fp32 l.lr.cover.high.toNat) e = false → ltX e (decodeFp fp32 l.lr.cover.low.toNat) = true →
      (makeInstant l).rung = min (l.rung + 1) l.imax) ∧
    (ltX (decodeFp fp32 l.lr.cover.high.toNat) e = false → ltX e (decodeFp fp32 l.lr.cover.low.toNat) = false →
      (makeInstant l).rung = l.rung)

/-- The life of a workgroup (R97, R167, R204, R250, R251, R267, R302, R342): it is placed in the homes the order of launches
gives; it starts with its constant image in scratch, its rings empty and its uniform registers from the launch record;
it ends when every block was created and nothing of it is left, and its tiles, B-tier and handles are gone; it moves
when no thread or command of it is left, once everything it has written is performed, and its records go with it; one in an image
comes back the same way; the footprints of the launch's commands follow. -/
def Obligations.WorkgroupsLiveAndMove : Prop :=
  (∀ (s : State) (n : Nat) (l l' : Launch) (v : VDev) (hs : List Home), findLaunch s n = some l → vdOfCtx s l.ctx = some v →
    nextPlaced s v = some (l', hs) →
    (l'.id ≠ n → Runs (.workgroupPlace n) s s) ∧
    (l'.id = n → l.phase ≠ .accepted → Runs (.workgroupPlace n) s (placeAll v n s hs)) ∧
    (l'.id = n → l.phase = .accepted → writesUnderWay s v = false → linesWait s (vdHomes s v) = false →
      Runs (.workgroupPlace n) s (placeAll v n (boundary s v n hs) hs)) ∧
    (l'.id = n → l.phase = .accepted → writesUnderWay s v = true ∨ linesWait s (vdHomes s v) = true →
      Runs (.workgroupPlace n) s s)) ∧
  (∀ (s : State) (v : VDev) (l : Launch) (h : Home) (wgid pos : Nat),
    let g := newWg s v l h wgid pos
    g.id = s.nextId ∧ g.launch = l.id ∧ g.wgid = wgid ∧ g.home = h ∧ g.phase = .placed ∧ g.scratch = [] ∧ g.tiles = [] ∧
    g.btier = [] ∧ g.handles = [] ∧ g.blocks = 0 ∧ (∀ n : Nat, n < 16 → guardState g n = .idle) ∧
    (∀ (n : Nat) (hn : n < 32), g.k[n] = if n < 16 then (l.lr.k[n]?).getD 0 else 0)) ∧
  (∀ (s : State) (wg : Nat) (g : Workgroup) (l : Launch), findWg s wg = some g → findLaunch s g.launch = some l →
    (g.phase ≠ .placed → Runs (.workgroupStart wg) s s) ∧
    (g.phase = .placed → g.stop = .none → Runs (.workgroupStart wg) s
      (foldList startWg s (((membersOf s l g).filter fun m => decide (m.phase = .placed)).map Workgroup.id))) ∧
    (∀ img k, imageOf s g.launch = some img → kernelOf s g.launch = some k → ∃ h, findWg (startWg s wg) wg = some h ∧
      h.phase = .running ∧ h.scratch = writeBytes [] 0 (bytesOfWords img.data) ∧ h.k = g.k ∧ h.guards = g.guards ∧
      h.rings.length = k.rings.length ∧ ∀ r ∈ h.rings, r.empty = true ∧ r.grant = none ∧ r.reserve = none) ∧
    (mayEnd s g = false → Runs (.workgroupEnd wg) s s) ∧
    (mayEnd s g = true → Reaches (.workgroupEnd wg) s fun s' => ∃ h, findWg s' wg = some h ∧ h.phase = .ended ∧
      h.tiles = [] ∧ h.rowNan = [] ∧ h.btier = [] ∧ h.handles = [] ∧
      (nbSize l = 0 → h.scratch = [])) ∧
    (mayEnd s g = true → allCreated g = true ∧ (∀ t ∈ s.threads, t.wg ≠ g.id) ∧ (∀ r ∈ s.records, r.th.wg ≠ g.id) ∧
      ∀ c ∈ s.cmds, c.wg ≠ g.id)) ∧
  ∀ (s : State) (wg dest : Nat) (g : Workgroup) (l : Launch) (v : VDev) (c : Context), findWg s wg = some g →
    findLaunch s g.launch = some l → vdOfCtx s g.ctx = some v → findCtx s g.ctx = some c → nbSize l = 0 →
    (c.frozen = true → Runs (.workgroupMove wg dest) s s) ∧
    (∀ at_ : Home, at_ = ⟨dest, VdShape.sideNum v.shape⟩ → c.stop = .none → c.frozen = false → at_ ∈ freeHomes s v →
      (g.phase = .running → mayMove s g = true → Runs (.workgroupMove wg dest) s (beginMove s (g, some at_))) ∧
      (g.phase = .running → mayMove s g = false → Runs (.workgroupMove wg dest) s (stopWg 1 s wg)) ∧
      (restorable s g = true → Runs (.workgroupMove wg dest) s (comeBack v l s [(g, at_)]) ∧
        ∃ h, findWg (restoreWg v l s (g, at_)) wg = some h ∧ h.home = at_ ∧
          h.phase = if g.started then .running else .placed)) ∧
    ∀ h, g.phase = .moving h →
      ((∃ r ∈ s.reqs, unperformed r = true ∧ (r.wg = wg ∨ r.src = g.home)) ∨
          tilesHeld s (clusterTile g.home.cluster) (clusterTile h.cluster) = true → Runs (.moveComplete wg) s s) ∧
      ((∀ r ∈ s.reqs, unperformed r = true → r.wg ≠ wg ∧ r.src ≠ g.home) →
        tilesHeld s (clusterTile g.home.cluster) (clusterTile h.cluster) = false →
        Runs (.moveComplete wg) s (refreshSpans (arriveWg v s g) l.id))

/-! ### Queues, launches and commands (spec/14 to spec/16) -/

namespace Sys2Proof.Machine

/-- The class of each command, the masters it is open to, whether its class mask is passed over, whether it acts on a
frozen context, and whether it names a context (R400, R419, R451). -/
def gateOf (i : Instr) : Option (CmdHead × Gate) :=
  match i with
  | .roodMode h _ _ => some (h, ⟨0, .hypervisor, false, false, false⟩)
  | .vdCreate h _ _ => some (h, ⟨0, .hypervisor, false, false, false⟩)
  | .vdDestroy h _ => some (h, ⟨0, .hypervisor, false, false, false⟩)
  | .copyAssign h _ _ => some (h, ⟨0, .hypervisor, false, false, false⟩)
  | .tenantCreate h _ => some (h, ⟨1, .either, true, false, false⟩)
  | .charterInstall h _ => some (h, ⟨1, .guest, true, false, false⟩)
  | .tenantTeardown h => some (h, ⟨1, .either, true, true, false⟩)
  | .ctxCreate h _ _ _ _ => some (h, ⟨2, .hypervisor, false, false, false⟩)
  | .ctxDestroy h => some (h, ⟨2, .hypervisor, false, false, true⟩)
  | .queueBind h _ => some (h, ⟨2, .hypervisor, false, false, true⟩)
  | .queueUnbind h _ => some (h, ⟨2, .hypervisor, false, false, true⟩)
  | .queueReload h _ => some (h, ⟨2, .hypervisor, false, false, true⟩)
  | .unfreeze h _ => some (h, ⟨2, .hypervisor, false, true, true⟩)
  | .kill h => some (h, ⟨2, .hypervisor, true, true, true⟩)
  | .frameGrant h _ _ => some (h, ⟨3, .hypervisor, false, false, false⟩)
  | .frameRevoke h _ => some (h, ⟨3, .hypervisor, false, false, false⟩)
  | .cmdMap h _ _ _ => some (h, ⟨4, .guest, false, false, true⟩)
  | .unmap h _ _ _ _ => some (h, ⟨4, .guest, false, false, true⟩)
  | .violate h _ => some (h, ⟨4, .guest, false, false, true⟩)
  | .migrateOut h _ => some (h, ⟨4, .guest, false, false, true⟩)
  | .preempt h _ => some (h, ⟨5, .hypervisor, false, false, true⟩)
  | .evict h => some (h, ⟨5, .hypervisor, false, false, true⟩)
  | .resume h _ => some (h, ⟨5, .hypervisor, false, false, true⟩)
  | .imagePlace h _ _ _ _ _ => some (h, ⟨5, .hypervisor, false, false, false⟩)
  | .moduleLoad h _ => some (h, ⟨6, .guest, false, false, false⟩)
  | .moduleUnload h _ => some (h, ⟨6, .guest, false, false, false⟩)
  | .ringSet h _ _ => some (h, ⟨7, .guest, false, false, false⟩)
  | .ringClear h _ => some (h, ⟨7, .guest, false, false, false⟩)
  | .attach h _ => some (h, ⟨8, .guest, false, true, true⟩)
  | .detach h => some (h, ⟨8, .guest, false, true, true⟩)
  | .release h _ => some (h, ⟨8, .guest, false, true, true⟩)
  | .stepCmd h _ => some (h, ⟨8, .guest, false, true, true⟩)
  | .discard h _ => some (h, ⟨8, .guest, false, true, true⟩)
  | .powerSet h _ _ _ => some (h, ⟨9, .hypervisor, false, false, false⟩)
  | .streamSet h _ => some (h, ⟨10, .either, false, false, false⟩)
  | .streamClear h _ => some (h, ⟨10, .either, false, false, false⟩)
  | .coeffRead h _ _ => some (h, ⟨10, .either, false, false, false⟩)
  | .countRead h _ => some (h, ⟨10, .hypervisor, false, false, false⟩)
  | .accountRead h _ _ _ => some (h, ⟨10, .guest, false, false, false⟩)
  | .traceSet h _ => some (h, ⟨10, .guest, false, false, true⟩)
  | .sampleSet h _ => some (h, ⟨10, .guest, false, false, true⟩)
  | .record h _ _ _ _ => some (h, ⟨10, .guest, false, false, true⟩)
  | .replay h _ _ _ => some (h, ⟨10, .guest, false, false, true⟩)
  | .dump h _ _ _ _ => some (h, ⟨10, .guest, false, false, true⟩)
  | _ => none

/-- A command that its device hears, and that every check before its function lets through. -/
def Admitted (i : Instr) (s : State) : Prop :=
  match gateOf i with
  | some (h, g) => s.boot.stage = 6 ∧ admission s h g = .admitted ∧ (g.cls = 3 ∨ g.cls = 4 → heldBack s h.ctx = false)
  | none => False

/-- A command that is answered with a status and does nothing else. -/
def Answers (i : Instr) (s : State) (h : CmdHead) (status : Nat) : Prop := Runs i s (respond s h status 0)

/-- One response has been sent. -/
def Said (h : CmdHead) (status result : Nat) (s s' : State) : Prop :=
  s'.out = .response h status (BitVec.ofNat 64 result) :: s.out

end Sys2Proof.Machine

/-- Doorbells (R372, R373, R384, R398, R418): outside RUN a write freezes the context; a packet queue's tail moves at most
one ring ahead, a host ring's count at most to what was written; a wrong value freezes the queue; a graph starts at a
node of its table and a second start is counted as refused. -/
def Sys2Proof.Claims.DoorbellsMoveTheirCounts : Prop :=
  ∀ (s : State) (ctx q : Nat) (value : Word) (x : Queue), findQueue s ctx q = some x → s.boot.stage = 6 →
    (tdispRun s ctx = false → Runs (.submitDoorbell ctx q value) s (freezeCtx s ctx) ∧
      Runs (.hostRingDoorbell ctx q value) s (freezeCtx s ctx) ∧ Runs (.graphStart ctx q value) s (freezeCtx s ctx)) ∧
    (tdispRun s ctx = true → x.bound = false → Runs (.submitDoorbell ctx q value) s s ∧
      Runs (.hostRingDoorbell ctx q value) s s ∧ Runs (.graphStart ctx q value) s s) ∧
    (tdispRun s ctx = true → x.bound = true →
      (x.frozen = true → Runs (.submitDoorbell ctx q value) s s ∧ Runs (.graphStart ctx q value) s s) ∧
      (x.frozen = false → x.conf.kind = 1 → Runs (.submitDoorbell ctx q value) s (freezeQueue s ctx q)) ∧
      (x.frozen = false → x.conf.kind = 0 →
        (2 ^ x.conf.plog < wrapSub value.toNat x.head → Runs (.submitDoorbell ctx q value) s (freezeQueue s ctx q)) ∧
        (wrapSub value.toNat x.head ≤ 2 ^ x.conf.plog →
          Runs (.submitDoorbell ctx q value) s (setQueue s { x with tail := value.toNat }))) ∧
      (wrapSub value.toNat x.hrd ≤ wrapSub x.hwr x.hrd →
        Runs (.hostRingDoorbell ctx q value) s (setQueue s { x with hrd := value.toNat })) ∧
      (wrapSub x.hwr x.hrd < wrapSub value.toNat x.hrd →
        Runs (.hostRingDoorbell ctx q value) s (if x.frozen then s else freezeQueue s ctx q)) ∧
      (x.frozen = false → x.conf.kind = 2 →
        (x.conf.nodes ≤ value.toNat → Runs (.graphStart ctx q value) s (freezeQueue s ctx q)) ∧
        (value.toNat < x.conf.nodes → x.run = true →
          Runs (.graphStart ctx q value) s (setQueue s { x with refused := (x.refused + 1) % 2 ^ 32 })) ∧
        (value.toNat < x.conf.nodes → x.run = false → Runs (.graphStart ctx q value) s
          (setQueue s { x with run := true, runCounts := [(value.toNat, 1)], nextNode := some value.toNat }))))

/-- Intake (R17, R371, R374, R377, R379, R449): a packet is taken from the queue whose turn it is, a deadline queue first;
one that breaks an obligation without an outcome of its own freezes its queue; the checks refuse it with the status of the
first that fails (2 for a wrong packet, 12 for the charter, 11 for the module, 6 for an unlocked clock, 3 for a format), or
it waits, or it is accepted, its result word zero; a refusal and an acceptance both pass the queue's head, a graph node's
packet too. -/
def Sys2Proof.Claims.PacketsAreJudgedAndTaken : Prop :=
  (∀ (s : State) (ctx q : Nat) (x : Queue), nextIntake s = some x →
    (x.ctx ≠ ctx ∨ x.num ≠ q → Runs (.packetIntake ctx q) s s) ∧
    (x.ctx = ctx → x.num = q →
      let s1 := { s with served := (x.conf.cls, x.ctx, x.num) :: s.served.filter fun y => !decide (y.1 = x.conf.cls) }
      (∀ src st, intakeOf s x = some (src, .refuse st) → Runs (.packetIntake ctx q) s (refuseLaunch (sourceMet s1 x src) x src st)) ∧
      (∀ src l, intakeOf s x = some (src, .accept l) → Runs (.packetIntake ctx q) s (acceptLaunch (sourceMet s1 x src) x src l)) ∧
      ∀ src, intakeOf s x = some (src, .freeze) → Runs (.packetIntake ctx q) s (freezeQueue s ctx q))) ∧
  (∀ (s : State) (ctx q : Nat), nextIntake s = none → Runs (.packetIntake ctx q) s s) ∧
  (∀ (s : State) (q : Queue) (x : Source) (c : Context) (v : VDev), findCtx s q.ctx = some c → vdOfCtx s q.ctx = some v →
    let l := draftLaunch s q x
    let usable := x.packet.valid ∧ l.lr.completion ≠ 0 ∧ l.lr.completion % 64 = 0
    (sourceBreach s q x = true → judge s q x = .freeze) ∧
    (sourceBreach s q x = false → ¬ usable → judge s q x = .refuse 2) ∧
    (sourceBreach s q x = false → usable → charterOf s c.charter = none → judge s q x = .refuse 12) ∧
    ∀ ch, sourceBreach s q x = false → usable → charterOf s c.charter = some ch →
      (q.conf.cls = 0 → charterDline ch = false → judge s q x = .refuse 12) ∧
      ((q.conf.cls = 0 → charterDline ch = true) →
        (findModule s l.lr.module = none → judge s q x = .refuse 11) ∧
        ∀ m, findModule s l.lr.module = some m →
          (m.charter ≠ c.charter ∨ m.state = .rejected ∨ m.loaded = false → judge s q x = .refuse 11) ∧
          (m.charter = c.charter → m.loaded = true → m.state = .translating → judge s q x = .wait) ∧
          (m.charter = c.charter → m.loaded = true → m.state = .ready → l.lr.cls = q.conf.cls → l.lr.charter = c.charter →
            (l.lr.cls = 0 ↔ l.lr.deadline ≠ 0) →
            (l.lr.cls = 0 → s.ptp.locked = false → judge s q x = .refuse 6) ∧
            ((l.lr.cls = 0 → s.ptp.locked = true) →
              (recordValid (VdShape.isSide v.shape) m.native.kernels.length l = false → judge s q x = .refuse 2) ∧
              ∀ k, recordValid (VdShape.isSide v.shape) m.native.kernels.length l = true →
                m.native.kernels[l.lr.entry]? = some k → (hasLadder l k = true → coverValid l = true) →
                (∀ w ∈ l.lr.f, (slotWord w).valid = false → judge s q x = .refuse 3) ∧
                ((∀ w ∈ l.lr.f, (slotWord w).valid = true) →
                  (declMatches k (4 * m.native.data.length) l = false → judge s q x = .refuse 4) ∧
                  (declMatches k (4 * m.native.data.length) l = true → launchFits s v l = false →
                    judge s q x = .refuse 5) ∧
                  (declMatches k (4 * m.native.data.length) l = true → launchFits s v l = true →
                    (∀ d ∈ s.deferred, d.ctx ≠ q.ctx) → judge s q x = .accept
                      { withLadder s q k ch.mincov l with far := ch.policy.getLsbD 9 })))))) ∧
  (∀ (s : State) (q : Queue) (x : Source), sourceBreach s q x = true ↔ x.log = none ∧ (x.packet.tag = BitVec.allOnes 64 ∨
    ∃ n, x.node = some n ∧ nodeBreach s q.ctx q.conf n = true)) ∧
  ∀ (q : Queue) (x : Source), (x.log.isSome = true → packetTaken q x = q) ∧
    (x.log = none → x.node = none → packetTaken q x = { q with head := (q.head + 1) % 2 ^ 32 }) ∧
    (x.log = none → x.node.isSome = true →
      packetTaken q x = { q with head := (q.head + 1) % 2 ^ 32, nextNode := none })

/-- The end of a launch (R238, R300, R381, R383, R387 to R389): after its last workgroup and write; the completion record
has 192 bytes and carries the status, tag, times and result; the host ring takes the oldest waiting entry when it has
room, 32 bytes long, and an interrupt covers every entry not yet signalled. -/
def Sys2Proof.Claims.LaunchesCompleteIntoTheirRings : Prop :=
  (∀ (s : State) (n : Nat) (l : Launch) (v : VDev), findLaunch s n = some l → vdOfCtx s l.ctx = some v →
    (launchFinished s l = false ∨ replayOpen s l = true ∨ writesUnderWay s v = true ∨ linesWait s (vdHomes s v) = true →
      Runs (.launchEnd n) s s) ∧
    (launchFinished s l = true → replayOpen s l = false → writesUnderWay s v = false → linesWait s (vdHomes s v) = false →
      (∀ r ∈ s.reqs, unperformed r = false) → Runs (.launchEnd n) s (endLaunch s v l)) ∧
    (launchFinished s l = true → ∀ g ∈ s.wgs, g.launch = l.id → g.phase = .ended) ∧
    (launchFinished s l = true → l.killed = none → l.placed = gridTotal l)) ∧
  (∀ (s : State) (l : Launch) (status : Nat) (accepted : Bool), (completionBytes s l status accepted).length = 192 ∧
    byteList (completionBytes s l status accepted) 0 4 =
      toBytes 4 (status + (if deadlineMissed s l then 256 else 0) + if l.counts.poolEvents ≠ 0 then 512 else 0) ∧
    byteList (completionBytes s l status accepted) 4 4 = toBytes 4 l.abortCode.toNat ∧
    byteList (completionBytes s l status accepted) 16 8 = toBytes 8 (if accepted then l.acceptedAt else 0) ∧
    byteList (completionBytes s l status accepted) 24 8 = toBytes 8 (l.firstAt.getD 0) ∧
    byteList (completionBytes s l status accepted) 8 8 = toBytes 8 l.packet.tag.toNat ∧
    byteList (completionBytes s l status accepted) 32 8 = toBytes 8 s.ptp.time ∧
    byteList (completionBytes s l status accepted) 120 8 = toBytes 8 (resultWord s l)) ∧
  (∀ (s : State) (ctx q : Nat) (x : Queue), findQueue s ctx q = some x →
    (x.waiting = [] → Runs (.hostRingEntry ctx q) s s) ∧
    ∀ e es, x.waiting = e :: es →
      (wrapSub x.hwr x.hrd = 2 ^ e.conf.hlog ∨ (x.judging = true ∧ es = []) → Runs (.hostRingEntry ctx q) s s) ∧
      (wrapSub x.hwr x.hrd ≠ 2 ^ e.conf.hlog → (x.judging = true → es ≠ []) →
        let x1 := { x with
          waiting := es, hwr := (x.hwr + 1) % 2 ^ 32, unsignalled := x.unsignalled ++ [(s.clock, e.conf)]
          run := x.run && !e.endsRun }
        let s2 := setQueue (vwrite s ctx (e.conf.hostRing + 32 * (x.hwr % 2 ^ e.conf.hlog)) (ringOutBytes x e)) x1
        (irqDue x1 e = true → Runs (.hostRingEntry ctx q) s (raiseIrq s2 x1 e.conf.vector)) ∧
        (irqDue x1 e = false → Runs (.hostRingEntry ctx q) s s2))) ∧
  (∀ (q : Queue) (e : RingOut), (ringOutBytes q e).length = 32) ∧
  (∀ (s : State) (ctx q : Nat) (x : Queue) (c : Nat) (conf : QueueConf) (cs : List (Nat × QueueConf)), findQueue s ctx q = some x →
    x.unsignalled = (c, conf) :: cs →
    let t := field conf.coalesce.toNat 31 8
    (t = 0 ∨ s.clock < c + 1750 * t → Runs (.coalescingTimeout ctx q) s s) ∧
    (t ≠ 0 → c + 1750 * t ≤ s.clock → Runs (.coalescingTimeout ctx q) s (raiseIrq s x conf.vector))) ∧
  ∀ (s : State) (q : Queue) (vector : Nat), (raiseIrq s q vector).out = .interrupt q.ctx q.num vector ::
    (setQueue s { q with unsignalled := [], irqs := (q.irqs + 1) % 2 ^ 32 }).out

/-- Task graphs (R385): after a node's completion record the successor is chosen from the result word and the node's
operation, in the table the launch was accepted under; a failed node, a missing successor or a spent limit ends the run,
and the last entry says so; a node with a reserved bit set freezes the queue and is not evaluated (R16, R17, R418). -/
def Sys2Proof.Claims.GraphsChooseTheirSuccessors : Prop :=
  (∀ (s : State) (ctx q : Nat) (x : Queue) (n status : Nat), findQueue s ctx q = some x → x.judging = true →
    x.lastNode = some (n, status) →
    let conf := lastConf x
    let addr := vreadNat s ctx (vreadNat s ctx (conf.ring + 64 * n + 8) 8 + 0x38) 8
    let result := if addr = 0 then 0 else vreadNat s ctx addr 8
    let s0 := vreadMet s ctx (conf.ring + 64 * n) 64
    let s1 := if addr = 0 then s0 else vreadMet s0 ctx addr 8
    (nodeBreach s ctx conf n = true → x.frozen = false → Runs (.graphSuccessor ctx q) s (freezeQueue s ctx q)) ∧
    (nodeBreach s ctx conf n = true → x.frozen = true → Runs (.graphSuccessor ctx q) s s) ∧
    (∀ m, nodeBreach s ctx conf n = false → successorOf s x conf n status result = .node m → Runs (.graphSuccessor ctx q) s (setQueue s1 { x with
      judging := false, lastNode := none, nextNode := some m, runCounts := countNode x.runCounts m })) ∧
    ∀ lim, nodeBreach s ctx conf n = false → successorOf s x conf n status result = .over lim → Runs (.graphSuccessor ctx q) s (setQueue s1 { x with
      judging := false, lastNode := none, nextNode := none, waiting := endEntry lim x.waiting })) ∧
  (∀ (s : State) (ctx q : Nat) (x : Queue), findQueue s ctx q = some x → x.judging = false → Runs (.graphSuccessor ctx q) s s) ∧
  ∀ (s : State) (q : Queue) (conf : QueueConf) (n status result : Nat),
    let op := vreadNat s q.ctx (conf.ring + 64 * n + 0x28) 4
    let v := vreadNat s q.ctx (conf.ring + 64 * n + 0x20) 8
    let succ := vreadNat s q.ctx (conf.ring + 64 * n + 0x2C) 4
    (status ≠ 0 → successorOf s q conf n status result = .over false) ∧
    (op = 0 ∨ 4 < op → successorOf s q conf n status result = .over false) ∧
    ∀ (hit : Bool) (m : Nat), status = 0 → m = (if hit then succ % 65536 else succ / 65536 % 65536) →
      ((op = 1 ∧ hit = true) ∨ (op = 2 ∧ hit = decide (result = v)) ∨ (op = 3 ∧ hit = decide (result < v)) ∨
        (op = 4 ∧ hit = decide (result &&& v ≠ 0))) →
      (m = 0xFFFF ∨ conf.nodes ≤ m → successorOf s q conf n status result = .over false) ∧
      (m ≠ 0xFFFF → m < conf.nodes →
        let runmax := vreadNat s q.ctx (conf.ring + 64 * m + 0x34) 4 % 65536
        (runmax = 0 → successorOf s q conf n status result = .node m) ∧
        ∀ ran, (ran = 0 ∧ (∀ x ∈ q.runCounts, x.1 ≠ m)) ∨ (q.runCounts.find? fun x => decide (x.1 = m)) = some (m, ran) →
          (runmax ≠ 0 → ran < runmax → successorOf s q conf n status result = .node m) ∧
          (runmax ≠ 0 → runmax ≤ ran → successorOf s q conf n status result = .over true))

/-- Admission (R398 to R400, R419, R470): a command acts exactly if the device is READY, its master and interface may give
it, its class is in the tenant's mask, no reserved bit of its descriptor is set, nor, in class 10, an operand byte that its
function does not name (R452), it names no context of another tenant and a context of its own where it must, and that context is not frozen unless the command may thaw it; otherwise it is answered DENIED (and
logged, if the mask denies it), INVALID or BUSY and does nothing; that a set reserved bit is answered INVALID and freezes
the context it came through, never another tenant's, is the model's reading (log entry 100); an admitted command of class MEMORY or MAP waits behind a deferred one
of its context. -/
def Obligations.CommandsAreAdmitted : Prop :=
  (∀ (i : Instr) (s : State) (h : CmdHead) (g : Gate), gateOf i = some (h, g) →
    (s.boot.stage = 0 → Runs i s s) ∧
    (s.boot.stage ≠ 0 → s.boot.stage ≠ 6 → Answers i s h 3) ∧
    (s.boot.stage = 6 →
      (∀ n, admission s h g = .refused n → Answers i s h n) ∧
      (admission s h g = .masked → Runs i s (respond (emit s (.log (.denied h))) h 1 0)) ∧
      (admission s h g = .breach →
        (∀ c, breachCtx s h = some c → Runs i s (respond (freezeCtx s c) h 2 0)) ∧
        (breachCtx s h = none → Answers i s h 2)) ∧
      (admission s h g = .admitted → heldBack s h.ctx = true → g.cls = 3 ∨ g.cls = 4 → ∃ c, Runs i s (holdCmd s c)))) ∧
  ∀ (s : State) (h : CmdHead) (g : Gate),
    (admission s h g = .admitted ↔ s.boot.stage = 6 ∧ g.openTo.admits h.issuer = true ∧ interfaceRuns s h.issuer = true ∧
      (g.cls = 1 ∨ ownInterface s h = true) ∧ h.reserved = 0 ∧ namesForeign s h = false ∧
      (g.unmasked = true ∨ maskAllows s h g.cls = true) ∧ (g.cls = 10 → h.spare = 0) ∧
      (g.onContext = true → namesContext s h = true) ∧ (g.thaws = true ∨ frozenFor s h = false)) ∧
    (s.boot.stage = 6 → g.openTo.admits h.issuer = false ∨ interfaceRuns s h.issuer = false →
      admission s h g = .refused 1) ∧
    (admission s h g = .masked → g.unmasked = false ∧ maskAllows s h g.cls = false) ∧
    (admission s h g = .breach → h.reserved ≠ 0) ∧
    (s.boot.stage = 6 → g.cls = 10 → h.spare ≠ 0 → admission s h g ≠ .admitted) ∧
    (∀ v c, h.issuer = .guest v → breachCtx s h = some c → ∃ x ∈ s.contexts, x.id = c ∧ x.vd = v) ∧
    ∀ c, h.issuer = .hypervisor → breachCtx s h = some c → c = h.ctx ∧ ∃ x, findCtx s c = some x ∧ x.charter = h.charter

/-- PARTITION (R394, R395, R402): a rood changes its mode only while no virtual device holds it; a virtual device takes an
aligned run of hard roods or one side of a split one, and engines nobody else has, within its charter; its engines change only
in the name of the tenant whose context it holds; it goes only when no context is left on it. -/
def Sys2Proof.Claims.PartitionCommands : Prop :=
  ∀ (s : State) (h : CmdHead),
    (∀ rood split, Admitted (.roodMode h rood split) s →
      (16 ≤ rood → Answers (.roodMode h rood split) s h 2) ∧
      (rood < 16 → roodHeld s rood = true → Answers (.roodMode h rood split) s h 3) ∧
      (rood < 16 → roodHeld s rood = false → Reaches (.roodMode h rood split) s fun s' => Said h 0 0 s s' ∧ s'.vds = s.vds ∧
        ∀ n, n ∈ s'.splitRoods ↔ if n = rood then split = true else n ∈ s.splitRoods)) ∧
    (∀ shape engines, Admitted (.vdCreate h shape engines) s →
      (shapeValid s shape = false ∨ enginesValid engines = false → Answers (.vdCreate h shape engines) s h 2) ∧
      (shapeValid s shape = true → enginesValid engines = true →
        (shapeAllowedFor s h.charter shape = false → Answers (.vdCreate h shape engines) s h 1) ∧
        (shapeAllowedFor s h.charter shape = true → ∀ n, freeVdNum s = some n →
          (shapeTaken s shape = true ∨ enginesTaken s n engines = true → Answers (.vdCreate h shape engines) s h 3) ∧
          (shapeTaken s shape = false → enginesTaken s n engines = false → findVd s n = none ∧
            Runs (.vdCreate h shape engines) s (respond { s with vds := s.vds ++ [newVd n shape engines] } h 0 n))))) ∧
    (∀ vd, Admitted (.vdDestroy h vd) s →
      (findVd s vd = none → Answers (.vdDestroy h vd) s h 2) ∧
      ((findVd s vd).isSome = true → (∃ c ∈ s.contexts, c.vd = vd) → Answers (.vdDestroy h vd) s h 3) ∧
      ((findVd s vd).isSome = true → (∀ c ∈ s.contexts, c.vd ≠ vd) → Reaches (.vdDestroy h vd) s fun s' => Said h 0 0 s s' ∧
        findVd s' vd = none ∧ ∀ n, n ≠ vd → findVd s' n = findVd s n)) ∧
    ∀ vd engines, Admitted (.copyAssign h vd engines) s →
      (findVd s vd = none ∨ enginesValid engines = false ∨ (∃ c ∈ s.contexts, c.vd = vd ∧ c.charter ≠ h.charter) →
        Answers (.copyAssign h vd engines) s h 2) ∧
      ∀ v, findVd s vd = some v → enginesValid engines = true → (∀ c ∈ s.contexts, c.vd = vd → c.charter = h.charter) →
        (enginesTaken s vd engines = true → Answers (.copyAssign h vd engines) s h 3) ∧
        (enginesTaken s vd engines = false → Reaches (.copyAssign h vd engines) s fun s' => Said h 0 0 s s' ∧
          findVd s' vd = some { v with engines := engines, frozenEngines := v.frozenEngines.filter engines.contains } ∧
          ∀ n, n ≠ vd → findVd s' n = findVd s n)

/-- TENANT (R401 to R406): the hypervisor reserves a charter identifier, the tenant binds its 96-byte key once and inside a
session; a charter is in force if it is signed, well formed and newer; a teardown leaves no tenant, no module and no grant
of it, and a guest may tear down only the tenant it acts for. -/
def Sys2Proof.Claims.TenantCommands : Prop :=
  ∀ (s : State) (h : CmdHead),
    (∀ key, Admitted (.tenantCreate h key) s →
      (h.issuer = .hypervisor → key ≠ [] → Answers (.tenantCreate h key) s h 2) ∧
      (h.issuer = .hypervisor → key = [] → Reaches (.tenantCreate h key) s fun s' => Said h 0 (freeCharter s) s s' ∧
        ∃ t, s'.tenants = s.tenants ++ [t] ∧ t.charter = freeCharter s ∧ t.key = none ∧ t.inForce = none ∧ t.accounts = []) ∧
      ∀ vd v t, h.issuer = .guest vd → findVd s vd = some v → findTenant s h.charter = some t →
        (v.session = false → Answers (.tenantCreate h key) s h 1) ∧
        (v.session = true → t.key.isSome = true ∨ key.length ≠ 96 → Answers (.tenantCreate h key) s h 2) ∧
        (v.session = true → t.key = none → key.length = 96 → Reaches (.tenantCreate h key) s fun s' => Said h 0 0 s s' ∧
          findTenant s' h.charter = some { t with key := some key } ∧
          findVd s' vd = some { v with tenant := some h.charter })) ∧
    (∀ bytes t, Admitted (.charterInstall h bytes) s → findTenant s h.charter = some t →
      (charterValid t bytes = false → Answers (.charterInstall h bytes) s h 2) ∧
      (charterValid t bytes = true → Reaches (.charterInstall h bytes) s fun s' => Said h 0 0 s s' ∧
        findTenant s' h.charter = some { t with inForce := some (charterFrom bytes) })) ∧
    (∀ (t : Tenant) (bytes : List Byte), charterValid t bytes = true → bytes.length = 256 ∧
      (∀ old, t.inForce = some old → old.serial < (charterFrom bytes).serial) ∧ (charterFrom bytes).mincov ≤ 65536 ∧
      ∃ k, t.key = some k ∧ Config.verify k (Config.sha384 (bytes.take 0xA0)) (byteList bytes 0xA0 96) = true) ∧
    (Admitted (.tenantTeardown h) s →
      (findTenant s h.charter = none → Answers (.tenantTeardown h) s h 2) ∧
      (h.issuer = .hypervisor → (findTenant s h.charter).isSome = true → Reaches (.tenantTeardown h) s fun s' =>
        findTenant s' h.charter = none ∧ (∀ m ∈ s'.modules, m.charter ≠ h.charter) ∧ ∀ g ∈ s'.grants, g.charter ≠ h.charter) ∧
      (h.issuer ≠ .hypervisor → (findTenant s h.charter).isSome = true → ownInterface s h = false →
        Answers (.tenantTeardown h) s h 1))

/-- CONTEXT (R357, R369, R370, R372, R396, R419): a context is created on a virtual device that has none, with an unused
ASID; a queue is bound to a control block that holds lawful settings, its trap bin in device frames that cannot migrate
(R20, R351); the masters that were frozen go on: a frozen queue, an engine, a context, whose freeze had stopped it, with its
workgroups and the engines that serve them; KILL marks every launch of the context KILLED; a guest's store to a control block freezes its queue and writes nothing. -/
def Obligations.ContextCommands : Prop :=
  ∀ (s : State) (h : CmdHead),
    (∀ vd handle off log v ch base, Admitted (.ctxCreate h vd handle off log) s → findVd s vd = some v →
      charterOf s h.charter = some ch → grantArea s h handle off (32 * 2 ^ log) = some base →
      (h.ctx = 0 ∨ (findCtx s h.ctx).isSome = true ∨ log < 4 ∨ 12 < log → Answers (.ctxCreate h vd handle off log) s h 2) ∧
      (h.ctx ≠ 0 → findCtx s h.ctx = none → 4 ≤ log → log ≤ 12 →
        (shapeAllowed ch v.shape = false → Answers (.ctxCreate h vd handle off log) s h 1) ∧
        (shapeAllowed ch v.shape = true → (∃ c ∈ s.contexts, c.vd = vd) → Answers (.ctxCreate h vd handle off log) s h 3) ∧
        (shapeAllowed ch v.shape = true → (∀ c ∈ s.contexts, c.vd ≠ vd) → ∀ a, freeAsid s = some a →
          a < 4096 ∧ (∀ c ∈ s.contexts, c.asid ≠ a) ∧ Runs (.ctxCreate h vd handle off log) s
            (respond (updVd { s with contexts := s.contexts ++ [newCtx h.ctx a vd h.charter base log] } vd (capImages ch)) h 0
              h.ctx)))) ∧
    (∀ handle off n base, grantArea s h handle off n = some base → ∃ g, findGrant s handle = some g ∧ g.ctx = h.ctx ∧
      g.charter = h.charter ∧ off + n ≤ 65536 * 2 ^ g.k ∧ base = 65536 * g.frame + off) ∧
    (Admitted (.ctxDestroy h) s → Reaches (.ctxDestroy h) s fun s' => findCtx s' h.ctx = none) ∧
    (∀ qcb, Admitted (.queueBind h qcb) s →
      let s0 := vreadMet s h.ctx qcb 128
      let c := confFrom (vread s0 h.ctx qcb 128)
      let usable := confValid h.ctx c = true ∧ trapBinOk s0 h.ctx c = true ∧ agreesWide s0 h.ctx c = true ∧
        (s0.queues.filter Queue.bound).length < 1024
      (qcb % 256 ≠ 0 ∨ translate s h.ctx qcb = none → Answers (.queueBind h qcb) s h 2) ∧
      (qcb % 256 = 0 → (translate s h.ctx qcb).isSome = true →
        (¬ usable → Runs (.queueBind h qcb) s (respond s0 h 2 0)) ∧
        (∀ q, findQueue s0 h.ctx c.qnum = some q → q.bound = true → Runs (.queueBind h qcb) s (respond s0 h 2 0)) ∧
        (usable → (∀ q, findQueue s0 h.ctx c.qnum = some q → q.bound = false) →
          (dlineAllows s0 h.charter c = false → Runs (.queueBind h qcb) s (respond s0 h 1 0)) ∧
          (dlineAllows s0 h.charter c = true →
            (findQueue s0 h.ctx c.qnum = none → Runs (.queueBind h qcb) s (okay (setQueue
              { s0 with queues := s0.queues ++ [newQueue h.ctx qcb c] } (newQueue h.ctx qcb c)) h)) ∧
            ∀ q, findQueue s0 h.ctx c.qnum = some q → Runs (.queueBind h qcb) s
              (okay (setQueue s0 { q with bound := true, conf := c, qcb := qcb, barred := false }) h))))) ∧
    (∀ q x, findQueue s h.ctx q = some x →
      (Admitted (.queueUnbind h q) s →
        (x.bound = false → Answers (.queueUnbind h q) s h 2) ∧
        (x.bound = true → (∃ l ∈ s.launches, l.ctx = h.ctx ∧ l.queue = q) ∨ x.waiting ≠ [] → Answers (.queueUnbind h q) s h 3) ∧
        (x.bound = true → (∀ l ∈ s.launches, l.ctx ≠ h.ctx ∨ l.queue ≠ q) → x.waiting = [] →
          Runs (.queueUnbind h q) s (okay (setQueue s { x with bound := false }) h))) ∧
      (Admitted (.queueReload h q) s → x.bound = true →
        let s0 := vreadMet s h.ctx x.qcb 128
        let c := confFrom (vread s0 h.ctx x.qcb 128)
        (confValid h.ctx c = false ∨ trapBinOk s0 h.ctx c = false ∨ c.qnum ≠ q ∨ agreesWide s0 h.ctx c = false →
          Runs (.queueReload h q) s (respond s0 h 2 0)) ∧
        (confValid h.ctx c = true → trapBinOk s0 h.ctx c = true → c.qnum = q → agreesWide s0 h.ctx c = true →
          (dlineAllows s0 h.charter c = false → Runs (.queueReload h q) s (respond s0 h 1 0)) ∧
          (dlineAllows s0 h.charter c = true → Runs (.queueReload h q) s (okay (setQueue s0 { x with conf := c }) h)))) ∧
      (Admitted (.unfreeze h (.queue q)) s →
        Runs (.unfreeze h (.queue q)) s (okay (setQueue s { x with frozen := false }) h)) ∧
      ∀ off b, (x.bound = true → off < 256 → x.frozen = false → Runs (.qcbStore h.ctx q off b) s (freezeQueue s h.ctx q)) ∧
        (x.bound = false ∨ 256 ≤ off ∨ x.frozen = true → Runs (.qcbStore h.ctx q off b) s s)) ∧
    (∀ c, Admitted (.unfreeze h .context) s → findCtx s h.ctx = some c →
      let s1 := updCtx s h.ctx fun c => { c with frozen := false }
      ((∃ k, c.stop = .stopping .freeze k ∨ c.stop = .stopped .freeze k) →
        Runs (.unfreeze h .context) s (okay (endStopCtx s1 h.ctx) h)) ∧
      ((∀ k, c.stop ≠ .stopping .freeze k ∧ c.stop ≠ .stopped .freeze k) → Runs (.unfreeze h .context) s (okay s1 h))) ∧
    (∀ c e, Admitted (.unfreeze h (.engine e)) s → findCtx s h.ctx = some c → Runs (.unfreeze h (.engine e)) s
      (okay (updVd s c.vd fun v => { v with frozenEngines := v.frozenEngines.filter fun x => !decide (x = e) }) h)) ∧
    (∀ id g, findWg s id = some g → g.stop ≠ .none → g.lateTraps = [] → g.heldTraps = [] →
      (∀ t ∈ s.threads, ∀ e, t.place ≠ .held e) → (∀ r ∈ s.records, r.th.wg ≠ id) →
      findWg (endStop s id) id = some { g with stop := .none }) ∧
    (∀ g v, g.stop = .none → vdOfWg s g = some v → throttledVd v = false → engineOn s g = true) ∧
    (Admitted (.kill h) s → Runs (.kill h) s (okay (killCtx s h.ctx 13) h))

/-- MEMORY (R407, R414, R446): a device grant takes a free aligned run of the rood's remaining frames, CXL and host frames
must be aligned and nobody else's, and the handle is new; a revocation of frames that are mapped is deferred, of others it
leaves device frames in quarantine without a line in any home slice; a scrubbed frame is zero and free. -/
def Obligations.FramesAreGrantedAndReclaimed : Prop :=
  (∀ (s : State) (h : CmdHead) (k : Nat) (src : FrameSource), Admitted (.frameGrant h k src) s →
    (14 < k ∨ h.ctx = 0 → Answers (.frameGrant h k src) s h 2) ∧
    (k ≤ 14 → h.ctx ≠ 0 → namesContext s h = true →
      (∀ r v, src = .rood r → vdOfCtx s h.ctx = some v →
        (r ∉ VdShape.roods v.shape → Answers (.frameGrant h k src) s h 2) ∧
        (r ∈ VdShape.roods v.shape → pickRun s r k = none → Answers (.frameGrant h k src) s h 3) ∧
        ∀ f, r ∈ VdShape.roods v.shape → pickRun s r k = some f → Reaches (.frameGrant h k src) s fun s' =>
          s'.grants = s.grants ++ [⟨s.nextId, h.ctx, h.charter, f, k, src⟩] ∧ Said h 0 s.nextId s s') ∧
      ∀ f, src = .cxl f ∨ src = .host f →
        (outsideRun s h.ctx k f = false → Answers (.frameGrant h k src) s h 2) ∧
        (outsideRun s h.ctx k f = true → Reaches (.frameGrant h k src) s fun s' =>
          s'.grants = s.grants ++ [⟨s.nextId, h.ctx, h.charter, f, k, src⟩] ∧ Said h 0 s.nextId s s'))) ∧
  (∀ (s : State) (r k f : Nat), pickRun s r k = some f → runFree s r k f = true ∧ (k ≤ 14 → f % 2 ^ k = 0)) ∧
  (∀ (s : State) (h : CmdHead) (handle : Nat), Admitted (.frameRevoke h handle) s →
    (findGrant s handle = none → Answers (.frameRevoke h handle) s h 2) ∧
    ∀ g, findGrant s handle = some g →
      (g.ctx ≠ h.ctx ∨ g.charter ≠ h.charter → Answers (.frameRevoke h handle) s h 2) ∧
      (g.ctx = h.ctx → g.charter = h.charter → (∃ p ∈ s.pages, p.ctx = h.ctx ∧ usesGrant g p = true) →
        Runs (.frameRevoke h handle) s (defer s h (.revoke handle))) ∧
      (g.ctx = h.ctx → g.charter = h.charter → (∀ p ∈ s.pages, p.ctx = h.ctx → usesGrant g p = false) →
        (∀ l ∈ s.lists, l.ctx = h.ctx → l.handle ≠ handle) →
        Runs (.frameRevoke h handle) s (okay (quarantineGrant s g) h))) ∧
  (∀ (s : State) (g : Grant), (∀ x ∈ (quarantineGrant s g).grants, x.handle ≠ g.handle) ∧
    (g.frame < 2 ^ 23 → ∀ i, i < 2 ^ g.k → g.frame + i ∈ (quarantineGrant s g).quarantine) ∧
    ∀ l ∈ (quarantineGrant s g).l2, l.line / 512 < g.frame ∨ g.frame + 2 ^ g.k ≤ l.line / 512) ∧
  ∀ (s : State) (frame : Nat), (frame ∉ s.quarantine → Runs (.quarantineScrubComplete frame) s s) ∧
    (frame ∈ s.quarantine → Memory.wf s.mem = true → Reaches (.quarantineScrubComplete frame) s fun s' =>
      frame ∉ s'.quarantine ∧ (∀ a, a / 65536 = frame → readByte s'.mem a = 0) ∧
      (∀ a, a / 65536 ≠ frame → readByte s'.mem a = readByte s.mem a) ∧ Memory.wf s'.mem = true)

/-- MAP (R408 to R411): a list maps all its entries or nothing, at once; every removal is answered DEFERRED and is applied
when each launch accepted before it has ended: the pages of exactly the entries it names go, no TLB entry of theirs is left, a
walk under way finds none of them, and the second response is sent; a violated request is one no more, and its record is tested again. -/
def Obligations.MappingsChangeInOrder : Prop :=
  (∀ (s : State) (h : CmdHead) (handle off count : Nat), Admitted (.cmdMap h handle off count) s →
    (grantArea s h handle off (48 * count) = none ∨ count = 0 ∨ 4096 < count →
      Answers (.cmdMap h handle off count) s h 2) ∧
    ∀ pa, grantArea s h handle off (48 * count) = some pa → 1 ≤ count → count ≤ 4096 →
      let s0 := readMet s h.ctx (poisoned s pa (48 * count))
      let es := listEntries s0 pa count
      ((∃ e ∈ es, entryValid s0 h e = false ∨ entryOverlaps s0 h.ctx e = true ∨ entryAtTrapBin s0 h.ctx e = true) →
        Runs (.cmdMap h handle off count) s (respond s0 h 2 0)) ∧
      ((∀ e ∈ es, entryValid s0 h e = true ∧ entryOverlaps s0 h.ctx e = false ∧ entryAtTrapBin s0 h.ctx e = false) →
        apart (fun (a b : MapEntry) => rangesMeet a.va (a.count * 2 ^ a.bits) b.va (b.count * 2 ^ b.bits)) es = true →
        Runs (.cmdMap h handle off count) s (okay (foldList (fun s e => supply s h.ctx e.va (e.count * 2 ^ e.bits))
          { s0 with pages := s0.pages ++ es.flatMap (entryPages s0 h.ctx (handle, off))
                    lists := addList s0.lists ⟨h.ctx, handle, off, count, pa⟩ } es) h))) ∧
  (∀ (s : State) (h : CmdHead) (e : MapEntry), entryValid s h e = true → ∃ g, findGrant s e.dev = some g ∧ g.ctx = h.ctx ∧
    g.charter = h.charter ∧ e.first + e.frames ≤ 2 ^ g.k ∧
    (e.migratable = true → ∃ x, findGrant s e.hst = some x ∧ x.ctx = h.ctx ∧ x.charter = h.charter ∧ x.k = g.k)) ∧
  (∀ (s : State) (ctx : Nat) (list : Nat × Nat) (e : MapEntry) (i : Nat), i < e.count → ∃ p,
    (entryPages s ctx list e)[i]? = some p ∧ p.ctx = ctx ∧ p.va = e.va + i * 2 ^ e.bits ∧ p.bits = e.bits ∧
    p.readable = flag e.flags 0 ∧ p.writable = flag e.flags 1 ∧ p.migratable = e.migratable ∧ p.state = .device ∧
    ∀ g, findGrant s e.dev = some g → p.pa = 65536 * (g.frame + e.first) + i * 2 ^ e.bits) ∧
  (∀ (s : State) (h : CmdHead) (handle off first count : Nat) (l : MapList), Admitted (.unmap h handle off first count) s →
    s.lists.find? (fun l => decide (l.ctx = h.ctx) && decide (l.handle = handle) && decide (l.off = off)) = some l →
    (count = 0 ∨ l.count < first + count → Answers (.unmap h handle off first count) s h 2) ∧
    (count ≠ 0 → first + count ≤ l.count → ∃ vas, Runs (.unmap h handle off first count) s
      (defer s h (.unmap (handle, off) vas)) ∧
      ∀ va, va ∈ vas ↔ ∃ p ∈ s.pages, p.ctx = h.ctx ∧ p.list = (handle, off) ∧ p.va = va ∧
        ∃ i e, first ≤ i ∧ i < first + count ∧ (listEntries s l.pa l.count)[i]? = some e ∧
          rangesMeet e.va (e.count * 2 ^ e.bits) p.va (2 ^ p.bits) = true)) ∧
  (∀ (s : State) (d : Deferred),
    (∀ list vas, d.kind = .unmap list vas →
      applyDeferred s d = removePages s d.ctx fun p => decide (p.list = list) && vas.contains p.va) ∧
    (∀ handle g, d.kind = .revoke handle → findGrant s handle = some g → applyDeferred s d = quarantineGrant s g)) ∧
  (∀ (s : State) (h : CmdHead) (k : DeferKind), Said h 5 0 s (defer s h k) ∧
    ∃ d, (defer s h k).deferred = s.deferred ++ [d] ∧ d.ctx = h.ctx ∧ d.h = h ∧ d.kind = k ∧
      ∀ l ∈ s.launches, l.ctx = h.ctx → l.id ∈ d.before) ∧
  (∀ (s : State) (ctx : Nat) (d : Deferred), s.deferred.find? (fun d => decide (d.ctx = ctx)) = some d →
    ((∃ n ∈ d.before, (findLaunch s n).isSome = true) → Runs (.deferredChangeApply ctx) s s) ∧
    ((∀ n ∈ d.before, findLaunch s n = none) → Runs (.deferredChangeApply ctx) s (resumeCmds
      (okay (applyDeferred { s with deferred := s.deferred.filter fun x => !decide (x = d) } d) d.h) ctx))) ∧
  (∀ (s : State) (ctx : Nat) (p : Page → Bool), (∀ x ∈ (removePages s ctx p).pages, x.ctx = ctx → p x = false) ∧
    ∀ e ∈ (removePages s ctx p).tlb, e.asid = asidOf s ctx → ∀ x ∈ s.pages, x.ctx = ctx → p x = true →
      rangesMeet e.vbase (2 ^ e.bits) x.va (2 ^ x.bits) = false) ∧
  (∀ (s : State) (c : Context) (p : Page → Bool) (w : Walk), findCtx s c.id = some c → ctxOfAsid s w.asid = some c →
    w ∈ s.walks → w.running = true →
    (∀ x ∈ s.pages, x.ctx = c.id → x.va ≤ w.page * 65536 → w.page * 65536 < x.va + 2 ^ x.bits → p x = true) →
    Reaches (.tableWalkComplete w.cluster w.asid w.page) (removePages s c.id p) fun s' =>
      s'.tlb = (removePages s c.id p).tlb) ∧
  ∀ (s : State) (h : CmdHead) (va : Nat), Admitted (.violate h va) s →
    let pva := requestPageVa s h.ctx va
    (∀ c, findCtx s h.ctx = some c → (∀ r ∈ c.prReqs, r.va ≠ pva) → Answers (.violate h va) s h 2) ∧
    ∀ c r, findCtx s h.ctx = some c → c.prReqs.find? (fun r => decide (r.va = pva)) = some r →
      let s1 := updCtx s h.ctx fun c => { c with prReqs := c.prReqs.filter fun x => !decide (x = r) }
      Runs (.violate h va) s (okay (retestCtx { s1 with violations := ⟨h.ctx, pva⟩ :: s1.violations } h.ctx 9) h)

/-- Migration (R412, R413, R474): a page is DEVICE, on its way, or HOST; MIGRATE_OUT refuses a pinned page and withdraws
translations of another; a copy carries exactly the page's bytes; a host access is served at a DEVICE page of a migratable
mapping in RUN, a write not over a queue control block or a mapping list, and refused, counted and logged elsewhere, or waits for
a copy, after which it is served, or refused where the page has gone to the host; a pin lasts 1 ms. -/
def Obligations.PagesMigrate : Prop :=
  (∀ (s : State) (h : CmdHead) (va : Nat), Admitted (.migrateOut h va) s →
    (pageFor s h.ctx va = none → Answers (.migrateOut h va) s h 2) ∧
    ∀ p, pageFor s h.ctx va = some p →
      (p.migratable = false → Answers (.migrateOut h va) s h 2) ∧
      (p.migratable = true → p.state = .host ∨ p.state = .toHost → Answers (.migrateOut h va) s h 0) ∧
      (p.migratable = true → p.state = .device → pinnedNow s p = true → Reaches (.migrateOut h va) s fun s' =>
        s'.pages = s.pages ∧ s'.mem = s.mem ∧ s'.out.head? = some (.response h 4 0)) ∧
      (p.migratable = true → p.state = .device → pinnedNow s p = false →
        let s1 := { s with tlb := s.tlb.filter fun e =>
          !(decide (e.asid = asidOf s h.ctx) && rangesMeet e.vbase (2 ^ e.bits) p.va (2 ^ p.bits)) }
        Runs (.migrateOut h va) s (okay (updPage (flushPage s1 p) p.ctx p.va fun p => { p with state := .toHost }) h)) ∧
      (p.migratable = true → p.state = .toDevice →
        Runs (.migrateOut h va) s (holdCmd (precedence s p) (.migrateOut h va true)))) ∧
  (∀ (s : State) (src dst n : Nat), Memory.wf s.mem = true → Memory.wf (copyPhys s src dst n).mem = true ∧
    (∀ i, i < n → readByte (copyPhys s src dst n).mem (dst + i) = readByte s.mem (src + i)) ∧
    ∀ a, a < dst ∨ dst + n ≤ a → readByte (copyPhys s src dst n).mem a = readByte s.mem a) ∧
  (∀ (s : State) (ctx va : Nat) (p : Page), pageFor s ctx va = some p →
    (p.state = .device ∨ p.state = .host → Runs (.migrationCopyComplete ctx va) s s) ∧
    (p.state = .toDevice →
      let s2 := resumeAccesses (supply (updPage (copyPhys s p.hostPa p.pa (2 ^ p.bits)) ctx p.va fun p =>
        { p with state := .device }) ctx p.va (2 ^ p.bits)) p
      Runs (.migrationCopyComplete ctx va) s (if s2.deferred.any fun d => decide (d.ctx = ctx) then s2 else resumeCmds s2 ctx)) ∧
    (p.state = .toHost → (∃ r ∈ s.reqs, goesInto p r = true) → Runs (.migrationCopyComplete ctx va) s s) ∧
    (p.state = .toHost → (∀ r ∈ s.reqs, goesInto p r = false) → Reaches (.migrationCopyComplete ctx va) s fun s' =>
      (∀ x, .access x ∈ s'.heldCmds → accessTo p (.access x) = false) ∧ s'.mem = (copyPhys s p.pa p.hostPa (2 ^ p.bits)).mem ∧
      s'.pages = s.pages.map fun x => if x.ctx = ctx ∧ x.va = p.va then { x with state := .host } else x) ∧
    (pinnedNow s p = true ∨ p.pinned = none → Runs (.migrationPinExpiry ctx va) s s) ∧
    (p.pinned.isSome = true → pinnedNow s p = false →
      Runs (.migrationPinExpiry ctx va) s (updPage s ctx p.va fun p => { p with pinned := none }))) ∧
  (∀ (s : State) (x : CxlAccess),
    (pageFor s x.ctx x.va = none → Runs (.cxlMemAccess x) s (refuseCxl s x)) ∧
    ∀ p, pageFor s x.ctx x.va = some p →
      (p.migratable = false ∨ x.inRun = false ∨ tdispRun s x.ctx = false ∨ p.va + 2 ^ p.bits < x.va + x.size →
        Runs (.cxlMemAccess x) s (refuseCxl s x)) ∧
      (p.migratable = true → x.inRun = true → tdispRun s x.ctx = true → x.va + x.size ≤ p.va + 2 ^ p.bits →
        let pa := p.pa + (x.va - p.va)
        (p.state = .device → x.write = none → Runs (.cxlMemAccess x) s
          (emit (readMet s x.ctx (poisoned s pa x.size)) (.cxl (readClean s pa x.size)))) ∧
        (poisoned s pa x.size = [] → readMet s x.ctx (poisoned s pa x.size) = s) ∧
        (∀ bs, p.state = .device → x.write = some bs →
          (freezeFor s x.ctx x.va x.size pa = none → Runs (.cxlMemAccess x) s (physWrite s pa (bs.take x.size))) ∧
          ∀ s1, freezeFor s x.ctx x.va x.size pa = some s1 → Runs (.cxlMemAccess x) s (refuseCxl s1 x)) ∧
        (p.state = .toDevice → Runs (.cxlMemAccess x) s (holdCmd (precedence s p) (.access x))) ∧
        (p.state = .toHost → Runs (.cxlMemAccess x) s (holdCmd s (.access x))) ∧
        (p.state = .host → Runs (.cxlMemAccess x) s (refuseCxl s x)))) ∧
  ∀ (s : State) (x : CxlAccess), (refuseCxl s x).cxlRefused = s.cxlRefused + 1 ∧ (refuseCxl s x).mem = s.mem ∧
    (x.write = none → (refuseCxl s x).out.head? = some (.cxl (List.replicate x.size 0xFF)))

/-- SCHEDULE (R420 to R429, R434, R462): a stop ends once nothing of the context is resident and its engines stand at
boundaries, ended workgroups' too; PREEMPT, EVICT and RESUME are BUSY during another stop; an image, of the context or of a
workgroup that left its home by itself, is closed after the last far reply and the last write, holds a hash of its bytes, and is
restored only while the bytes where it lies have that hash and on a shape of as many roods; an image that another device sent is
restored into a context with nothing of its own; a virtual device's class bounds where an image may lie, in device memory only
within its own roods, and a moved one is checked before and after; a dump is DENIED without the debug right and INVALID with a
set bit of its word beyond the first; after it the context goes on, unless it is held or was frozen meanwhile. -/
def Obligations.ContextsStopAndResume : Prop :=
  (∀ (s : State) (h : CmdHead) (c : Context), findCtx s h.ctx = some c →
    (Admitted (.evict h) s →
      (∀ w k, c.stop = .stopping w k → Answers (.evict h) s h 3) ∧
      (c.stop = .none → Runs (.evict h) s (stopCtx .evict (updCtx s h.ctx fun c => { c with reply := some h, dest := none }) h.ctx)) ∧
      (∀ w k, c.stop = .stopped w k → c.image.isSome = true → Answers (.evict h) s h 2)) ∧
    (Admitted (.preempt h none) s →
      (∀ w k, c.stop = .stopping w k → Answers (.preempt h none) s h 3) ∧
      (c.stop = .none →
        Runs (.preempt h none) s (stopCtx .preempt (updCtx s h.ctx fun c => { c with reply := some h, dest := none }) h.ctx)) ∧
      (∀ w k, c.stop = .stopped w k → c.image = none → c.dest = none → c.reply = none → Answers (.preempt h none) s h 0)) ∧
    (∀ d, Admitted (.preempt h (some d)) s →
      (∀ ch, charterOf s h.charter = some ch → ch.policy.getLsbD 9 = false → Answers (.preempt h (some d)) s h 1) ∧
      (∀ ch, charterOf s h.charter = some ch → ch.policy.getLsbD 9 = true → (∀ r ∈ s.boot.routes, r.dev ≠ d) →
        Answers (.preempt h (some d)) s h 2) ∧
      (∀ ch, charterOf s h.charter = some ch → ch.policy.getLsbD 9 = true → (∃ r ∈ s.boot.routes, r.dev = d) → c.stop = .none →
        Runs (.preempt h (some d)) s
          (stopCtx .preempt (updCtx s h.ctx fun c => { c with reply := some h, dest := some d }) h.ctx))) ∧
    (∀ v n, Admitted (.resume h n) s → vdOfCtx s h.ctx = some v →
      (c.stop = .none → s.imagesIn.find? (fun x => decide (x.handle = n)) = none → Answers (.resume h n) s h 2) ∧
      (∀ x, c.stop = .none → s.imagesIn.find? (fun x => decide (x.handle = n)) = some x →
        (x.hash ≠ Config.sha384 x.bytes ∨ x.roods ≠ roodCount v.shape ∨ (∃ g ∈ s.wgs, g.ctx = c.id) →
          Answers (.resume h n) s h 2) ∧
        (x.hash = Config.sha384 x.bytes → x.roods = roodCount v.shape → (∀ g ∈ s.wgs, g.ctx ≠ c.id) →
          Runs (.resume h n) s (okay (endStopCtx (restoreCtx (adoptImage s c x) v c.id) c.id) h))) ∧
      (∀ w k, c.stop = .stopping w k → Answers (.resume h n) s h 3) ∧
      ∀ w k, c.stop = .stopped w k → c.reply = none →
        (c.image = none → c.dest = none → wantsImage c = false → n = 0 → Runs (.resume h n) s (okay (endStopCtx s h.ctx) h)) ∧
        ∀ m x, c.image = some m → s.images.find? (fun x => decide (x.handle = m)) = some x →
          (n ≠ m ∨ x.hash ≠ Config.sha384 (readBytes s.mem x.addr x.bytes.length) ∨ x.roods ≠ roodCount v.shape →
            Answers (.resume h n) s h 2) ∧
          (n = m → x.hash = Config.sha384 (readBytes s.mem x.addr x.bytes.length) → x.roods = roodCount v.shape →
            Runs (.resume h n) s (okay (endStopCtx (restoreCtx (updCtx (dropImage s x) h.ctx
              fun c => { c with image := none }) v h.ctx) h.ctx) h)))) ∧
  (∀ (s : State) (ctx : Nat) (c : Context), findCtx s ctx = some c →
    (∀ w k, c.stop = .stopped w k → Runs (.contextStopComplete ctx) s s) ∧
    (c.stop = .none → Runs (.contextStopComplete ctx) s (completeWgs s ctx)) ∧
    ∀ why since, c.stop = .stopping why since →
      let gs := s.wgs.filter fun g => decide (g.ctx = ctx) && !decide (g.phase = .ended)
      (ctxMoves s ctx = true ∨ gs.all (wgQuiet s) = false ∨ (wgsOf s ctx).all (enginesQuiet s) = false →
        Runs (.contextStopComplete ctx) s s) ∧
      (ctxMoves s ctx = false → gs.all (wgQuiet s) = true → (wgsOf s ctx).all (enginesQuiet s) = true →
        let s2 := updCtx (foldList completeStop s (gs.map Workgroup.id)) ctx fun c => { c with stop := .stopped why since }
        (why ≠ .preempt ∨ c.reply = none ∨ c.dest ≠ none → Runs (.contextStopComplete ctx) s (completeDump s2 ctx)) ∧
        (∀ h, why = .preempt → c.reply = some h → c.dest = none → Runs (.contextStopComplete ctx) s
          (completeDump (updCtx (okay s2 h) ctx fun c => { c with reply := none }) ctx)))) ∧
  (∀ (s : State) (ctx : Nat) (c : Context) (v : VDev), findCtx s ctx = some c → vdOfCtx s ctx = some v →
    (c.dump = none → completeDump s ctx = s) ∧
    (∀ h a n hold, c.dump = some (h, a, n, hold) → completeDump s ctx =
      settleDump (okay (updCtx (writeDump s c v a) ctx fun c => { c with dump := none }) h) c hold) ∧
    (∀ hold k, c.stop = .stopped .dump k →
      (c.frozen = true → settleDump s c hold = updCtx s c.id fun c => { c with stop := .stopped .freeze k }) ∧
      (c.frozen = false → hold = true → settleDump s c hold = s) ∧
      (c.frozen = false → hold = false → settleDump s c hold = endStopCtx s c.id))) ∧
  (∀ (s : State) (ctx : Nat) (c : Context) (v : VDev), findCtx s ctx = some c → vdOfCtx s ctx = some v →
    (closeWaits s c v = true ∨ (wantsImage c = false ∧ (c.image.isSome = true ∨ c.dest.isSome = true)) →
      Runs (.imageClose ctx) s s) ∧
    (farOpen s ctx = true ∨ writesUnderWay s v = true ∨ (∃ r ∈ s.reqs, r.ctx = ctx ∧ unperformed r = true) →
      closeWaits s c v = true) ∧
    (closeWaits s c v = false → wantsImage c = false → c.image = none → c.dest = none →
      Runs (.imageClose ctx) s (foldList (saveWg v) s ((wgsOf s ctx).filter (needsSave s)))) ∧
    (closeWaits s c v = false → wantsImage c = true →
      imageAddr s v v.imageLoc (4096 + (imageBody (sections s c)).length) = none → Runs (.imageClose ctx) s s) ∧
    ∀ addr, closeWaits s c v = false → wantsImage c = true →
      imageAddr s v v.imageLoc (4096 + (imageBody (sections s c)).length) = some addr → Reaches (.imageClose ctx) s fun s' =>
      (∀ d, c.dest = some d → .image d ctx (imageOfCtx s c v addr).bytes (imageOfCtx s c v addr).hash (imageKey s c.id) ∈ s'.out) ∧
      (c.dest = none → imageOfCtx s c v addr ∈ s'.images) ∧
      ∀ h, c.reply = some h → s'.out.head? = some (.response h 0 (BitVec.ofNat 64 s.nextId))) ∧
  (∀ (s : State) (c : Context) (v : VDev) (addr : Nat), let x := imageOfCtx s c v addr
    x.hash = Config.sha384 x.bytes ∧ x.handle = s.nextId ∧ x.ctx = c.id ∧ x.addr = addr ∧ x.loc = v.imageLoc ∧
    x.roods = roodCount v.shape) ∧
  (∀ (s : State) (h : CmdHead) (vd cls loc addr : Nat) (ch : Charter), charterOf s h.charter = some ch →
    (Admitted (.imagePlace h vd cls none loc addr) s →
      (2 < cls ∨ cls < loc ∨ vdOfTenant s vd h.charter = false → Answers (.imagePlace h vd cls none loc addr) s h 2) ∧
      (cls ≤ 2 → loc ≤ cls → vdOfTenant s vd h.charter = true → charterImg ch < cls → Answers (.imagePlace h vd cls none loc addr) s h 1) ∧
      (cls ≤ 2 → loc ≤ cls → vdOfTenant s vd h.charter = true → cls ≤ charterImg ch → Runs (.imagePlace h vd cls none loc addr) s
        (okay (updVd s vd fun v => { v with imageClass := cls, imageLoc := loc }) h))) ∧
    ∀ n x, Admitted (.imagePlace h vd cls (some n) loc addr) s →
      s.images.find? (fun x => decide (x.handle = n) && decide (x.ctx = h.ctx) && x.wg.isNone) = some x →
      (2 < loc ∨ placeFree s x loc addr = false → Answers (.imagePlace h vd cls (some n) loc addr) s h 2) ∧
      (loc ≤ 2 → placeFree s x loc addr = true → charterImg ch < loc → Answers (.imagePlace h vd cls (some n) loc addr) s h 1) ∧
      (loc ≤ 2 → placeFree s x loc addr = true → loc ≤ charterImg ch →
        (x.hash = Config.sha384 (readBytes s.mem x.addr x.bytes.length) → movedStands (moveImage s x loc addr) n = true →
          Runs (.imagePlace h vd cls (some n) loc addr) s (okay (moveImage s x loc addr) h)) ∧
        (movedStands (moveImage s x loc addr) n = false → Answers (.imagePlace h vd cls (some n) loc addr) s h 2) ∧
        (loc = 0 → ∃ v, vdOfCtx s x.ctx = some v ∧ addr / 2 ^ 35 ∈ VdShape.roods v.shape) ∧
        (x.hash ≠ Config.sha384 (readBytes s.mem x.addr x.bytes.length) →
          Answers (.imagePlace h vd cls (some n) loc addr) s h 2))) ∧
  ∀ (s : State) (h : CmdHead) (handle off len : Nat) (word : Word) (c : Context) (ch : Charter),
    Admitted (.dump h handle off len word) s → findCtx s h.ctx = some c → charterOf s h.charter = some ch →
    (ch.policy.getLsbD 7 = false → Answers (.dump h handle off len word) s h 1) ∧
    (ch.policy.getLsbD 7 = true → c.stop ≠ .none → Answers (.dump h handle off len word) s h 3) ∧
    (ch.policy.getLsbD 7 = true → c.stop = .none → deviceArea s h handle off len = none →
      Answers (.dump h handle off len word) s h 2) ∧
    (ch.policy.getLsbD 7 = true → c.stop = .none → ∀ a, deviceArea s h handle off len = some a →
      (1 < word.toNat ∨ len < dumpNeeds s c ∨ len % 4096 ≠ 0 ∨ off % 4096 ≠ 0 →
        Answers (.dump h handle off len word) s h 2) ∧
      (word.toNat ≤ 1 → dumpNeeds s c ≤ len → len % 4096 = 0 → off % 4096 = 0 → Runs (.dump h handle off len word) s
        (stopCtx .dump (updCtx (respond s h 5 0) h.ctx fun c =>
          { c with dump := some (h, a, len, decide (word = 1)) }) h.ctx)))

/-- MODULE and DEBUG (R101, R358, R359, R393, R479): a module is translated once for its tenant and a module whose branches
leave their kernel or whose sections hold instructions of another role is rejected, any other has native code that keeps
the linker's data, kernels and stop point entries (R79, R81, R98 to R100); a session has its breakpoints; a
halted record is released, stepped or discarded, and a detach releases them all; every debug command is DENIED without
the debug right. -/
def Obligations.ModulesAndSessions : Prop :=
  (∀ (s : State) (h : CmdHead) (spf : List Byte), Admitted (.moduleLoad h spf) s →
    (∀ m, sameModule s h.charter spf = some m → Reaches (.moduleLoad h spf) s fun s' => Said h 0 m.handle s s' ∧
      s'.modules.length = s.modules.length) ∧
    (sameModule s h.charter spf = none → Reaches (.moduleLoad h spf) s fun s' => Said h 0 s.nextId s s' ∧
      s'.modules = s.modules ++ [⟨s.nextId, h.charter, spf, .translating, true, emptyImage, emptyImage⟩])) ∧
  (∀ (s : State) (h : CmdHead) (n : Nat), Admitted (.moduleUnload h n) s →
    (∀ m, findModule s n = some m → m.charter = h.charter → m.loaded = true → Reaches (.moduleUnload h n) s fun s' =>
      Said h 0 0 s s' ∧ findModule s' n = some { m with loaded := false }) ∧
    (findModule s n = none → Answers (.moduleUnload h n) s h 2)) ∧
  (∀ (s : State) (n : Nat) (m : Module) (linked native : ModuleImage), findModule s n = some m →
    (m.state ≠ .translating → Runs (.moduleTranslationComplete n linked native) s s) ∧
    (m.state = .translating → translated linked native = none → Runs (.moduleTranslationComplete n linked native) s s) ∧
    (∀ ok, m.state = .translating → translated linked native = some ok →
      Reaches (.moduleTranslationComplete n linked native) s fun s' => ∃ m', findModule s' n = some m' ∧
        m'.state = (if ok then .ready else .rejected) ∧ m'.linked = linked ∧
        m'.native = (if ok then withConsumers native else emptyImage)) ∧
    ((∃ k ∈ linked.kernels, kernelLawful linked k = false) → translated linked native = some false) ∧
    (translated linked native = some true → native.data = linked.data ∧ native.kernels.length = linked.kernels.length ∧
      linked.stops.length ≤ native.stops.length ∧ (native.stops.map StopEntry.off).Nodup ∧
      (∀ e ∈ native.stops, e.flags.toNat < 32) ∧
      ∀ (i : Nat) (a b : StopEntry), linked.stops[i]? = some a → native.stops[i]? = some b → a.live = b.live) ∧
    (translated linked native = some true → ∀ k ∈ native.kernels, ∀ x ∈ kernelLines native k, ∀ i, x.instr = some i →
      (canBlock i = true → flagged native 0 x = true) ∧ (loopsBack x = true → flagged native 1 x = true))) ∧
  (∀ (s : State) (h : CmdHead), debugAllowed s h = false → ∀ bs rid,
    (Admitted (.attach h bs) s → Answers (.attach h bs) s h 1) ∧ (Admitted (.detach h) s → Answers (.detach h) s h 1) ∧
    (Admitted (.release h rid) s → Answers (.release h rid) s h 1) ∧
    (Admitted (.stepCmd h rid) s → Answers (.stepCmd h rid) s h 1) ∧
    (Admitted (.discard h rid) s → Answers (.discard h rid) s h 1)) ∧
  ∀ (s : State) (h : CmdHead), debugAllowed s h = true →
    (∀ bs, Admitted (.attach h bs) s → Runs (.attach h bs) s
      (okay (updCtx s h.ctx fun c => { c with session := true, breakpoints := bs }) h)) ∧
    (Admitted (.detach h) s → sessionOn s h.ctx = false → Answers (.detach h) s h 2) ∧
    (∀ c, Admitted (.detach h) s → sessionOn s h.ctx = true → findCtx s h.ctx = some c → s.launches = [] → s.threads = [] →
      s.records = [] → Runs (.detach h) s (okay (updCtx s h.ctx fun c =>
        { c with session := false, sessionAt := s.clock, breakpoints := [] }) h)) ∧
    ∀ rid,
      (sessionRecord s h rid = none → (Admitted (.release h rid) s → Answers (.release h rid) s h 2) ∧
        (Admitted (.stepCmd h rid) s → Answers (.stepCmd h rid) s h 2) ∧
        (Admitted (.discard h rid) s → Answers (.discard h rid) s h 2)) ∧
      ∀ r, sessionRecord s h rid = some r →
        (Admitted (.release h rid) s → Runs (.release h rid) s (okay (releaseRecord false s rid) h)) ∧
        (Admitted (.stepCmd h rid) s → Runs (.stepCmd h rid) s (okay (releaseRecord true s rid) h)) ∧
        (Admitted (.discard h rid) s →
          let s1 := updWg { s with records := s.records.filter fun q => !decide (q.id = rid) } r.th.wg fun g =>
            { g with exited := r.th.tid :: g.exited }
          let s3 := discardAtLast (freeHandles s1 r.th.wg) r.th.wg
          Runs (.discard h rid) s (okay (releaseHeld s3 h.ctx s3.threads.length) h))

/-- POWER_SET and the Ethernet path (R390 to R392, R400, R430, R448, R476): guarantees stay within the charter and the
budget; a ring with a lawful descriptor is set by a tenant that may, if no other device claims its frames; a good frame
goes to the lowest ring it meets, or to the host's ring, or is dropped and counted; its slot begins with the stamp, the
number and the length; there are two ports, and the host's frames leave by the one named. -/
def Sys2Proof.Claims.PowerShareAndEthernet : Prop :=
  (∀ (s : State) (h : CmdHead) (vd g w : Nat) (ch : Charter) (v : VDev), Admitted (.powerSet h vd g w) s →
    charterOf s h.charter = some ch → findVd s vd = some v →
    let others := sumNat ((s.vds.filter fun v => !decide (v.num = vd)).map VDev.g)
    (ch.grains < g ∨ ch.weight < w ∨ s.power.budget < others + g → Answers (.powerSet h vd g w) s h 2) ∧
    (g ≤ ch.grains → w ≤ ch.weight → others + g ≤ s.power.budget → (∀ c ∈ s.contexts, c.vd = vd → c.charter = h.charter) →
      Reaches (.powerSet h vd g w) s fun s' => Said h 0 0 s s' ∧ findVd s' vd = some { v with g := g, w := w } ∧
        ∀ n, n ≠ vd → findVd s' n = findVd s n)) ∧
  (∀ (s : State) (h : CmdHead) (n vd : Nat) (d : RingDesc) (v : VDev), h.issuer = .guest vd → findVd s vd = some v →
    (Admitted (.ringSet h n d) s →
      (ingressAllowed s h = false → Answers (.ringSet h n d) s h 1) ∧
      (ingressAllowed s h = true → 16 ≤ n ∨ descValid d = false → Answers (.ringSet h n d) s h 2) ∧
      (ingressAllowed s h = true → n < 16 → descValid d = true →
        (∀ x ∈ s.vds, x.num ≠ vd → ∀ r ∈ x.ingress, sameClaim r.desc d = false) → Reaches (.ringSet h n d) s fun s' =>
          Said h 0 0 s s' ∧ findVd s' vd = some { v with
            ingress := (v.ingress.filter fun r => !decide (r.num = n)) ++ [⟨n, d, 0, 0, 0⟩] })) ∧
    (Admitted (.ringClear h n) s →
      ((∀ r ∈ v.ingress, r.num ≠ n) → Answers (.ringClear h n) s h 2) ∧
      ((∃ r ∈ v.ingress, r.num = n) → Reaches (.ringClear h n) s fun s' =>
        findVd s' vd = some { v with ingress := v.ingress.filter fun r => !decide (r.num = n) }))) ∧
  (∀ (s : State) (f : EthFrame), 2 ≤ f.port → Runs (.frameReceive f) s s) ∧
  (∀ (s : State) (f : EthFrame), s.boot.stage = 6 → f.port < 2 → 60 ≤ f.bytes.length → f.bytes.length ≤ 9212 →
    (f.goodFcs = false → Runs (.frameReceive f) s { s with eth := { s.eth with badFcs := s.eth.badFcs + 1 } }) ∧
    (f.goodFcs = true → ringFor s f = none → ∃ taken, taken ≤ s.eth.hostRing.length ∧
      let ring := s.eth.hostRing.drop taken
      (ring.length < 4096 → Runs (.frameReceive f) s
        (bumpFree { s with eth := { s.eth with hostRing := ring ++ [f] } })) ∧
      (4096 ≤ ring.length → Runs (.frameReceive f) s
        (bumpFree { s with eth := { s.eth with hostRing := ring, hostDrops := s.eth.hostDrops + 1 } }))) ∧
    ∀ v r c, f.goodFcs = true → ringFor s f = some (v, r) → ctxOfVd s v.num = some c →
      frameMeets f r.desc = true ∧ Runs (.frameReceive f) s (putFrame s c v r f)) ∧
  (∀ (s : State) (r : Ingress) (f : EthFrame), 11 ≤ r.desc.zlog → (slotBytes s r f).length ≤ 2 ^ r.desc.zlog ∧
    byteList (slotBytes s r f) 0 8 = toBytes 8 (frameStamp s f) ∧ byteList (slotBytes s r f) 8 8 = toBytes 8 r.seq ∧
    byteList (slotBytes s r f) 16 2 = toBytes 2 f.bytes.length ∧
    (slotBytes s r f).drop 32 = f.bytes.take (2 ^ r.desc.zlog - 32)) ∧
  ∀ (s : State) (port : Nat) (bytes : List Byte), s.boot.stage = 6 →
    (port < 2 → Runs (.hostTransmit ⟨port, bytes⟩) s (emit s (.frame port bytes))) ∧
    (2 ≤ port → Runs (.hostTransmit ⟨port, bytes⟩) s s)

/-- Telemetry streams (R400, R451, R453 to R457): an issuer has at most four streams of lawful size and mask, and clears only
its own; a base tick comes every 1,024 cycles at the master and is sent on, a later number is taken from the domain; a frame has
256 bytes, in the slot the producer's count names, or is dropped and counted when the ring is full. -/
def Sys2Proof.Claims.StreamsFollowTheTicks : Prop :=
  (∀ (s : State) (h : CmdHead) (o : StreamOps) (vd : Nat), Admitted (.streamSet h o) s →
    vd = (match h.issuer with | .guest v => v | .hypervisor => o.vd) →
    let held := (s.streams.filter fun x => decide (x.issuer = h.issuer) && decide (x.vd = vd)).length
    let lawful := 4 ≤ o.rlog ∧ o.rlog ≤ 15 ∧ 10 ≤ o.k ∧ o.k ≤ 24 ∧ maskWithin o.mask (groupsOf h.issuer) = true ∧
      (findVd s vd).isSome = true
    (¬ lawful ∨ streamArea s h o = none → Answers (.streamSet h o) s h 2) ∧
    ∀ base index, lawful → streamArea s h o = some (base, index) →
      (4 ≤ held → Answers (.streamSet h o) s h 3) ∧
      (held < 4 → Reaches (.streamSet h o) s fun s' => Said h 0 s.nextId s s' ∧
        s'.streams = s.streams ++ [⟨s.nextId, h.issuer, vd, base, index, o.rlog, o.k, o.mask, 0, 0, false⟩])) ∧
  (∀ (s : State) (h : CmdHead) (n : Nat), Admitted (.streamClear h n) s →
    ((∀ x ∈ s.streams, x.handle ≠ n) → Answers (.streamClear h n) s h 2) ∧
    ∀ x, s.streams.find? (fun x => decide (x.handle = n)) = some x →
      (x.issuer ≠ h.issuer → Answers (.streamClear h n) s h 1) ∧
      (x.issuer = h.issuer → Reaches (.streamClear h n) s fun s' => Said h 0 0 s s' ∧ ∀ y ∈ s'.streams, y.handle ≠ n)) ∧
  (∀ s : State,
    (tickMaster s = false ∨ s.clock < s.tickAt + 1024 → Runs .baseTick s s) ∧
    (tickMaster s = true → s.tickAt + 1024 ≤ s.clock → Reaches .baseTick s fun s' => s'.tick = s.tick + 1 ∧
      s'.tickAt = s.tickAt + 1024 ∧ s'.out.head? = some (.tick (s.tick + 1))) ∧
    ∀ n, (s.boot.domid = 0 ∨ n ≤ s.tick → Runs (.tickReceive n) s s) ∧
      (s.boot.domid ≠ 0 → s.tick < n → Reaches (.tickReceive n) s fun s' => s'.tick = n ∧ s'.tickAt = s.clock)) ∧
  (∀ (f : Frame) (n clock ptp : Nat) (d : Bool), f.values.length ≤ 28 → (f.bytes n clock ptp d).length = 256 ∧
    byteList (f.bytes n clock ptp d) 0 8 = toBytes 8 n ∧ byteList (f.bytes n clock ptp d) 8 8 = toBytes 8 clock) ∧
  ∀ (s : State) (base index rlog prod drops : Nat) (bs : List Byte),
    let cons := readNat s.mem (index + 0x40) 4
    ((prod + 2 ^ 32 - cons) % 2 ^ 32 = 2 ^ rlog →
      ringPut s base index rlog prod drops bs = (physWrite s (index + 8) (toBytes 8 (drops + 1)), prod, drops + 1, false)) ∧
    ((prod + 2 ^ 32 - cons) % 2 ^ 32 ≠ 2 ^ rlog → ringPut s base index rlog prod drops bs =
      (physWrite (physWrite s (base + bs.length * (prod % 2 ^ rlog)) bs) index (toBytes 4 (prod + 1)),
        (prod + 1) % 2 ^ 32, drops, true))

/-- Trace, sampling, recording and the tables (R452, R458, R459, R461 to R466): a trace and a sampling period are set within
their bounds; a core's sample is taken each period; RECORD and REPLAY of a bound queue are DEFERRED and need a lawful
area, a replay a complete log of a module the tenant has loaded; a replay whose entry can never come due, or that has an entry
left while nothing has run for 2^24 cycles, diverges; the coefficient, count and account tables are written as they stand. -/
def Sys2Proof.Claims.TracesRecordingsAndTables : Prop :=
  (∀ (s : State) (h : CmdHead) (o : TraceOps) (base index : Nat), Admitted (.traceSet h o) s →
    grantArea s h o.handle o.off (32 * 2 ^ o.rlog) = some base → grantArea s h o.handle o.index 128 = some index →
    (o.rlog < 4 ∨ 15 < o.rlog ∨ o.off % 4096 ≠ 0 ∨ o.index % 128 ≠ 0 ∨ maskWithin o.kinds [1, 2, 3, 4, 5, 6, 7, 8, 9] = false →
      Answers (.traceSet h o) s h 2) ∧
    (4 ≤ o.rlog → o.rlog ≤ 15 → o.off % 4096 = 0 → o.index % 128 = 0 → o.clusters < 2 ^ 128 →
      maskWithin o.kinds [1, 2, 3, 4, 5, 6, 7, 8, 9] = true → o.kinds ≠ 0 → Runs (.traceSet h o) s
        (okay (updCtx s h.ctx fun c => { c with
          trace := some ⟨base, o.rlog, BitVec.ofNat 10 o.kinds, index, BitVec.ofNat 128 o.clusters, 0, 0⟩ }) h))) ∧
  (∀ (s : State) (h : CmdHead) (n : Nat) (c : Context), Admitted (.sampleSet h n) s → findCtx s h.ctx = some c →
    (n = 0 → Runs (.sampleSet h n) s (okay (updCtx s h.ctx fun c => { c with sample := none }) h)) ∧
    (n ≠ 0 → n < 10 ∨ 20 < n ∨ c.trace = none → Answers (.sampleSet h n) s h 2) ∧
    (10 ≤ n → n ≤ 20 → c.trace.isSome = true → Runs (.sampleSet h n) s
      (okay (updCtx s h.ctx fun c => { c with sample := some n, sampleAt := s.clock / 2 ^ n }) h))) ∧
  (∀ (s : State) (ctx n : Nat) (c : Context) (tr : Trace) (v : VDev), findCtx s ctx = some c → c.sample = some n →
    c.trace = some tr → findVd s c.vd = some v →
    (s.clock / 2 ^ n ≤ c.sampleAt → Runs (.sampleTick ctx) s s) ∧
    (c.sampleAt < s.clock / 2 ^ n → Runs (.sampleTick ctx) s (foldList (fun s h =>
        foldList (sampleCore ctx ((c.sampleAt + 1) * 2 ^ n) h) s (homeCores (VdShape.isSide v.shape) (VdShape.sideNum v.shape)))
      (updCtx s ctx fun c => { c with sampleAt := c.sampleAt + 1 })
      ((vdHomes s v).filter fun h => tr.clusters.getLsbD h.cluster)))) ∧
  (∀ (s : State) (h : CmdHead) (handle off len q : Nat), Admitted (.record h handle off len q) s →
    (off % 4096 ≠ 0 ∨ len % 4096 ≠ 0 ∨ len < 16384 ∨ boundQueue s h.ctx q = false →
      Answers (.record h handle off len q) s h 2) ∧
    ∀ a, off % 4096 = 0 → len % 4096 = 0 → 16384 ≤ len → boundQueue s h.ctx q = true →
      grantArea s h handle off len = some a → Reaches (.record h handle off len q) s fun s' => Said h 5 0 s s' ∧
        s'.recording = s.recording ++ [⟨s.nextId, h, h.ctx, q, a, len / 4096, 3, none, true, []⟩]) ∧
  (∀ (s : State) (h : CmdHead) (handle off q a : Nat), Admitted (.replay h handle off q) s →
    grantArea s h handle off 12288 = some a →
    (off % 4096 ≠ 0 ∨ boundQueue s h.ctx q = false ∨ logUsable s h a = false → Answers (.replay h handle off q) s h 2) ∧
    (off % 4096 = 0 → boundQueue s h.ctx q = true → logUsable s h a = true → Reaches (.replay h handle off q) s fun s' =>
      Said h 5 0 s s' ∧ s'.replaying = s.replaying ++ [⟨s.nextId, h, h.ctx, q, a, none, [], [], s.clock⟩])) ∧
  (∀ (s : State) (ctx reason ordinal launch : Nat) (r : Replaying),
    s.replaying.find? (fun r => decide (r.ctx = ctx) && r.launch.isSome) = some r → r.launch = some launch →
    ((reason = 2 ∧ deadEntry s r launch ordinal = true) ∨ (reason = 3 ∧ entriesLeft s r = true ∧ r.idleSince + 2 ^ 24 ≤ s.clock) →
      Runs (.replayDivergence ctx reason ordinal) s (diverge s r reason (ordinal % 2 ^ 32))) ∧
    (reason = 3 → s.clock < r.idleSince + 2 ^ 24 ∨ entriesLeft s r = false → Runs (.replayDivergence ctx reason ordinal) s s)) ∧
  (∀ (s : State) (h : CmdHead) (target off a : Nat),
    (Admitted (.coeffRead h target off) s → targetArea s h target off 512 = some a →
      Runs (.coeffRead h target off) s (okay (physWrite s a coeffBytes) h)) ∧
    (Admitted (.countRead h target) s → targetArea s h target 0 1088 = some a →
      Runs (.countRead h target) s (okay (physWrite s a (countBlocks s)) h)) ∧
    ∀ n t x, Admitted (.accountRead h target off n) s → grantArea s h target off 32 = some a →
      findTenant s h.charter = some t → n < 2 ^ 32 → t.accounts.find? (fun y => decide (y.num = n)) = some x →
      Runs (.accountRead h target off n) s (okay (physWrite s a (toBytes 8 n ++ toBytes 8 x.dyn ++ toBytes 8 x.stat ++
        toBytes 8 ((x.dyn + x.stat) % 2 ^ 64))) h)) ∧
  coeffBytes.length = 512 ∧ ∀ s : State, (countBlocks s).length = 1088

/-- Power tokens (R430, R431, R433): a span of 175,000 cycles closes by turning what was spent beyond an allowance into debt;
the pool of the next one is shared in proportion to weight, with nothing lost; an exhausted device starts nothing new, unless a stop needs its queues to move. -/
def Sys2Proof.Claims.SpansShareTheBudget : Prop :=
  (∀ (s : State) (readings : List Nat),
    (s.clock < s.power.spanAt + 175000 → Runs (.spanStart readings) s s) ∧
    (s.power.spanAt + 175000 ≤ s.clock → Reaches (.spanStart readings) s fun s' =>
      s'.power.spanAt = s.power.spanAt + 175000 ∧ s'.power.spans = s.power.spans + 1 ∧
      s'.power.budget = s.power.budget ∧ s'.vds.map VDev.num = s.vds.map VDev.num ∧
      (∀ v ∈ s'.vds, v.spent = 0 ∧ v.throttled = 0))) ∧
  (∀ (free : Nat) (vs : List VDev) (pool : Nat), weightSum vs ≠ 0 → vs ≠ [] →
    sumNat ((List.range vs.length).map (shareOf free vs pool)) = pool ∧
    ∀ (i : Nat) (v : VDev), vs[i]? = some v → pool * v.w / weightSum vs ≤ shareOf free vs pool i ∧
      shareOf free vs pool i ≤ pool * v.w / weightSum vs + 1) ∧
  (∀ (s : State) (v : VDev) (vd : Nat), findVd s vd = some v →
    (v.drawing = true → Reaches (.allowanceExhausted vd) s fun s' => ∃ v', findVd s' vd = some v' ∧
      v.allowance ≤ (v'.spent : Int) ∧ throttledVd v' = true) ∧
    (v.drawing = false → Reaches (.allowanceExhausted vd) s fun s' => findVd s' vd = some v)) ∧
  (∀ (s : State) (g : Workgroup) (v : VDev), vdOfWg s g = some v → throttledVd v = true → stopNeedsQueues s g = false →
    engineOn s g = false) ∧
  (∀ (s : State) (g : Workgroup), stopNeedsQueues s g = true → engineOn s g = true ∧ ∃ k, g.stop = .stopping k) ∧
  ∀ (tick : Nat) (as : List Account) (n dyn stat : Nat), ∃ a ∈ addAccount tick as n dyn stat, a.num = n

/-- Errors (R2, R350, R439, R441, R443, R450, R477): an uncorrectable error, of a register, the predicates, a descriptor, a status
word, a word of scratch or of a record, makes its reader read zero, is counted, committed and logged; a corrected one of a
unit that exists is only counted; counts saturate; a monitor beyond its warning is counted and logged, beyond its
trip the module stops with the event committed, as it does below 46 V for 1 ms. -/
def Sys2Proof.Claims.ErrorsAreCountedAndContained : Prop :=
  (∀ (s : State) (k : SeatKey) (v : BitVec 6) (t : Thread), findSeat s k = some t →
    Runs (.uncorrectableError (.register k v)) s (threadError (setThread s (setV t v 0)) t.wg t.tid
      (placeAt s k.cluster 0 0 ((k.core * 512 + k.seat) * 64 + v.toNat) .registers)) ∧ getV (setV t v 0) v = 0 ∧
    ∀ off, Runs (.uncorrectableError (.scratchWord k off)) s (threadError (scratchWrite s t.wg (off / 4 * 4) [0, 0, 0, 0])
      t.wg t.tid (placeAt s k.cluster 0 0 (off / 8) .sram))) ∧
  (∀ (s : State) (k : SeatKey) (t : Thread) (v : BitVec 6) (i : Fin 8), findSeat s k = some t →
    (∃ p, p.rood = roodOf k.cluster ∧ p.st = .registers ∧
      Runs (.uncorrectableError (.predicates k)) s (threadError (setThread s { t with p := 0 }) t.wg t.tid p)) ∧
    (∃ p, p.rood = roodOf k.cluster ∧ p.st = .registers ∧ Runs (.uncorrectableError (.descriptor k i)) s
      (threadError (setThread s { t with g := t.g.set i ⟨0, 0⟩ }) t.wg t.tid p)) ∧
    ∃ p, p.rood = roodOf k.cluster ∧ p.st = .registers ∧
      Runs (.uncorrectableError (.gangStatus k v)) s (threadError (setThread s (setV t v 0)) t.wg t.tid p)) ∧
  (∀ (s : State) (id word : Nat) (r : Record), s.records.find? (fun r => decide (r.id = id) && r.inBuffer) = some r →
    ∃ p, p.rood = roodOf r.th.seat.cluster ∧ p.st = .sram ∧ Runs (.uncorrectableError (.recordWord id word)) s
      (threadError { s with records := s.records.map fun x => if x.id = id then { x with
        th := if word < 64 then setV x.th (BitVec.ofNat 6 word) 0 else { x.th with p := 0 } } else x } r.th.wg r.th.tid p)) ∧
  (∀ (s : State) (k : SeatKey), findSeat s k = none → ∀ v off, Runs (.uncorrectableError (.register k v)) s s ∧
    Runs (.uncorrectableError (.scratchWord k off)) s s) ∧
  (∀ (s : State) (launch : Option Nat) (p : ErrPlace) (o : Nat), launch = none →
    let s' := uncorrectable s launch p o
    s'.nv.committed = s'.nv.counts ∧ s'.nv.commitAt = s.clock ∧ s'.mem = s.mem ∧ s'.threads = s.threads ∧
    countOf s'.nv.counts p.rood (if p.st = .fabric then 14 else 8 + structCode p.st) =
      min (countOf s.nv.counts p.rood (if p.st = .fabric then 14 else 8 + structCode p.st) + 1) 0xFFFFFFFF) ∧
  (∀ (s : State) (slice unit : Nat),
    ((∃ x ∈ s.l2, x.slice = slice ∧ x.line = unit / 4 ∧ x.dirty.extractLsb' (2 * (unit % 4)) 2 ≠ 0) →
      Reaches (.uncorrectableError (.dirtyLine slice unit)) s fun s' => unit ∈ s'.poison ∧ s'.mem = s.mem) ∧
    ∀ line, Reaches (.uncorrectableError (.lineTag slice line)) s fun s' =>
      (∃ x, s.l2.find? (fun x => decide (x.slice = slice) && decide (x.line = line)) = some x ∧ x ∉ s'.l2) ∨ s' = s) ∧
  (∀ (s : State) (rood sub n : Nat) (st : Structure), subExists st rood sub = false →
    Runs (.correctableError rood st sub) s s ∧ Runs (.patrolScrub rood st sub n) s s) ∧
  (∀ rood sub : Nat, rood < 16 → (subExists .l2 rood sub = true ↔ sub < 4) ∧ (subExists .hbm rood sub = true ↔ sub < 16) ∧
    (subExists .registers rood sub = true ↔ sub < 8)) ∧
  (∀ (s : State) (rood sub n : Nat) (st : Structure), rood < 16 → n ≠ 0 → subExists st rood sub = true →
    (Reaches (.correctableError rood st sub) s fun s' => s'.mem = s.mem ∧ s'.threads = s.threads ∧ s'.poison = s.poison ∧
      countOf s'.nv.counts rood (structCode st) = min (countOf s.nv.counts rood (structCode st) + 1) 0xFFFFFFFF) ∧
    Reaches (.patrolScrub rood st sub n) s fun s' => s'.mem = s.mem ∧ s'.threads = s.threads ∧ s'.poison = s.poison ∧
      countOf s'.nv.counts rood (structCode st) = min (countOf s.nv.counts rood (structCode st) + n) 0xFFFFFFFF) ∧
  (∀ s : State, Reaches .countCommit s fun s' => s'.nv.committed = s.nv.counts ∧ s'.nv.counts = s.nv.counts ∧
    s'.nv.commitAt = s.clock ∧ s'.mem = s.mem) ∧
  (∀ (s : State) (r : MonitorReading), (if r.isStack then memStacks else 16) ≤ r.n → Runs (.monitorRead r) s s) ∧
  (∀ (s : State) (r : MonitorReading), r.n < (if r.isStack then memStacks else 16) →
    (trips r = true → Reaches (.monitorRead r) s fun s' => s'.boot.stage = 0 ∧ s'.nv.trip = true ∧
      s'.nv.committed = s'.nv.counts ∧ s'.threads = [] ∧ s'.contexts = [] ∧ ∀ c ∈ s'.mem, 2 ^ 39 ≤ c.1) ∧
    (trips r = false → warns r = true → Reaches (.monitorRead r) s fun s' =>
      s'.out.head? = some (.log (.warn r.isStack r.n r.temp r.supply)) ∧ s'.boot = s.boot ∧ s'.mem = s.mem) ∧
    (trips r = false → warns r = false → Reaches (.monitorRead r) s fun s' => s'.nv = s.nv ∧ s'.mem = s.mem ∧
      ∃ m ∈ s'.monitors, m.isStack = r.isStack ∧ m.n = r.n ∧ m.temp = r.temp ∧ m.throttled = throttles r) ∧
    (r.isStack = false → 115 * 16 ≤ r.temp → trips r = true) ∧ (r.isStack = true → 105 * 16 ≤ r.temp → trips r = true)) ∧
  ∀ (s : State) (mv us : Nat),
    (mv < 46000 → 1000 ≤ us → Reaches (.inputUndervoltage mv us) s fun s' => s'.boot.stage = 0 ∧ s'.nv.trip = true) ∧
    (46000 ≤ mv ∨ us < 1000 → Runs (.inputUndervoltage mv us) s s)

/-- Links and retirement (R2, R10, R440, R445 to R449): only a link on a message's route can fail it; a flit is sent again
until its fourth failure, when it is delivered poisoned and the link retrains; of the units whose limits one event has passed the
users stop first, a retiring cluster is left, those of a context stopped as a whole too, and once the units are clear they are
retired together, with all others of a rood that loses its last cluster or slice: they are in the store, a cluster costs 120
grains, a slice 20 and a channel 14 of the 22,000, and the guarantees add up to no more than what is left. -/
def Sys2Proof.Claims.LinksAndRetirement : Prop :=
  (∀ (s : State) (k : Link) (msg : Option Nat) (x : LinkState), s.links.find? (fun x => decide (x.link = k)) = some x →
    x.msg = msg → flitOn s k msg = true →
    (x.retraining = true → Runs (.flitCrcFailure k msg) s s) ∧
    (x.retraining = false → x.retries < 3 → Reaches (.flitCrcFailure k msg) s fun s' =>
      s'.links.find? (fun x => decide (x.link = k)) = some ⟨k, msg, x.retries + 1, false⟩ ∧ s'.reqs = s.reqs) ∧
    (x.retraining = false → 3 ≤ x.retries → ∀ id, msg = some id →
      let s1 := { s with links := ⟨k, msg, 0, true⟩ :: s.links.filter fun x => !decide (x.link = k) }
      Runs (.flitCrcFailure k msg) s (bumpFree (poisonMsg s1 k id)))) ∧
  (∀ (s : State) (k : Link) (msg : Option Nat), flitOn s k msg = true → (∀ x ∈ s.links, x.link ≠ k) →
    Reaches (.flitCrcFailure k msg) s fun s' =>
    s'.links = ⟨k, msg, 1, false⟩ :: s.links ∧ s'.reqs = s.reqs) ∧
  (∀ (s : State) (k : Link) (msg : Option Nat),
    (linkExists k = false → Runs (.flitCrcFailure k msg) s s) ∧
    ∀ id r, msg = some id → findReq s id = some r → k ∉ linksOf s r → Runs (.flitCrcFailure k msg) s s) ∧
  (∀ (s : State) (k : Link), Reaches (.linkRetrainComplete k) s fun s' => (∀ x ∈ s'.links, x.link ≠ k) ∧
    ((∀ r ∈ s.reqs, ∀ op, r.kind = .far op → r.stage ≠ .atPort) → s'.reqs = s.reqs) ∧
    ∀ r ∈ s.reqs, ∀ op, r.kind = .far op → r.stage = .atPort →
      pathHeld { s with links := s.links.filter fun x => !decide (x.link = k) } (fabricLinks s r.loc) = false →
      (∃ q ∈ s'.reqs, q.id = r.id ∧ q.stage = .toHome) ∧ .far r.loc r.id r.va op ∈ s'.out) ∧
  (∀ (s : State) (k : Link) (id : Nat) (r : Req) (bytes : Patch), findReq s id = some r → r.kind = .write bytes →
    ∃ p, poisonMsg s k id = uncorrectable (updReq s id fun r => { r with bad := true }) (launchOfWg s r.wg) p 0xFFFFFFFF) ∧
  (∀ (s : State) (us : List RetireUnit),
    let all := withRoods s (dedup us)
    let s1 := { s with retiring := s.retiring.filter fun x => !all.contains x }
    (us = [] ∨ (∃ u ∈ us, unitExists u = false ∨ u ∈ s.nv.retired ∨ (limitPassed s u = false ∧ u ∉ s.retiring)) →
      Runs (.retirement us) s s) ∧
    (us ≠ [] → (∀ u ∈ us, unitExists u = true ∧ u ∉ s.nv.retired ∧ (limitPassed s u = true ∨ u ∈ s.retiring)) →
      ((∃ u ∈ all, unitClear s u = false) → Runs (.retirement us) s
        (foldList (fun s u =>
          let why := match u with | .cluster _ => 1 | _ => 0
          foldList leaveStopped (foldList (stopMembers why) s ((usersOf s u).map Workgroup.id)) ((usersOf s u).map Workgroup.id))
          { s with retiring := all ++ s1.retiring } all)) ∧
      ((∀ u ∈ all, unitClear s u = true) → Runs (.retirement us) s (foldList resumeUsers (retireUnits s1 all) all) ∧
        ∀ u ∈ us, u ∈ all ∧ u ∈ (retireUnits s1 all).nv.retired))) ∧
  (∀ (s : State) (us : List RetireUnit) (n : Nat) (u : RetireUnit), n < 16 → roodGone (s.nv.retired ++ us) n = true →
    u ∈ roodUnits n → u ∈ withRoods s us ∨ u ∈ s.nv.retired) ∧
  (∀ (s : State) (n : Nat), unitClear s (.cluster n) = true →
    (∀ g ∈ s.wgs, g.phase ≠ .moving ⟨n, 0⟩ ∧ g.phase ≠ .moving ⟨n, 1⟩) ∧
    ∀ g ∈ s.wgs, g.home.cluster = n → g.phase = .ended ∨ g.phase = .imaged) ∧
  (∀ us : List RetireUnit, budgetOf us = 22000 - sumNat (us.map fun u =>
    match u with | .cluster _ => 120 | .slice _ => 20 | .channel _ _ => 14)) ∧
  ∀ (free budget : Nat) (vs : List VDev), (∀ v ∈ vs, 0 < v.g → 0 < v.w) →
    sumNat ((reduceG free budget (vs.length + 1) vs).map VDev.g) ≤ budget ∧
    (sumNat (vs.map VDev.g) ≤ budget → reduceG free budget (vs.length + 1) vs = vs)

/-- Tiles, routes and seats (R7, R10, R21): a slice stands in the middle tile column of its rood, at the row of its number; a
route goes along x and then along y, stays in the rectangle of its ends, and takes links of the module only; a seat's
temporal lane and gang slot number the 16 slots of its core. -/
def Sys2Proof.Claims.RoutesStayInTheirRectangle : Prop :=
  (∀ n k : Nat, n < 16 → k < 4 → sliceTile (4 * n + k) = (12 * (n / 8) + 3 * roodCol n + 1, 4 * roodRow n + k)) ∧
  (∀ a b t : MeshTile, t ∈ tilePath a b → min a.1 b.1 ≤ t.1 ∧ t.1 ≤ max a.1 b.1 ∧ min a.2 b.2 ≤ t.2 ∧ t.2 ≤ max a.2 b.2 ∧
    (t.2 = a.2 ∨ t.1 = b.1)) ∧
  (∀ a b : MeshTile, a ∈ tilePath a b ∧ b ∈ tilePath a b) ∧
  (∀ (m : Nat) (a b : MeshTile) (k : Link), m < 2 → a.1 < 24 → b.1 < 24 → a.2 < 8 → b.2 < 8 → k ∈ routeLinks m a b →
    linkExists k = true) ∧
  ∀ q : Nat, q < 512 → seatLane q < 8 ∧ seatGangSlot q < 2 ∧ seatSlot q = q / 32

/-- Reset and boot (R443, R450, R470 to R473, R475): a reset leaves stage 1, nothing of any tenant, the committed counts and
the stored domain word in force; a stage completes into the next, the failure of a stage's own check ends in stage 15, as does MEMORY with every
rood retired, and READY is stage 6; at the links stage the ports of the same domain with another number come up, and the tick
numbers go on from theirs; a device of no domain keeps its ports down; a register holds what is written to it; a function-level reset kills that function's
context; the domain word is in force only from the next reset. -/
def Sys2Proof.Claims.ResetAndBoot : Prop :=
  (∀ s : State, Runs .coldReset s (moduleReset s) ∧ Runs .warmReset s (moduleReset s) ∧
    Runs (.functionLevelReset none) s (moduleReset s) ∧
    let r := moduleReset s
    r.boot.stage = 1 ∧ r.boot.err = 0 ∧ r.boot.devnum = s.boot.storedDevnum ∧ r.boot.domid = s.boot.storedDomid ∧
    r.boot.trip = s.nv.trip ∧ r.nv.trip = false ∧ r.nv.counts = s.nv.committed ∧ r.nv.retired = s.nv.retired ∧
    r.contexts = [] ∧ r.tenants = [] ∧ r.vds = [] ∧ r.launches = [] ∧ r.threads = [] ∧ r.queues = [] ∧ r.modules = [] ∧
    r.power.budget = budgetOf s.nv.retired ∧ ∀ c ∈ r.mem, 2 ^ 39 ≤ c.1) ∧
  (∀ (s : State) (err : Nat) (peers : List PortPeer),
    (s.boot.stage = 0 ∨ 5 < s.boot.stage → Runs (.bootStageComplete err peers) s s) ∧
    (1 ≤ s.boot.stage → s.boot.stage ≤ 4 → err = s.boot.stage → Runs (.bootStageComplete err peers) s
      { s with boot := { s.boot with stage := 15, err := err } }) ∧
    (s.boot.stage = 4 → err ≠ 4 → allRetired s = true → Runs (.bootStageComplete err peers) s
      { s with boot := { s.boot with stage := 15, err := 5 } }) ∧
    (1 ≤ s.boot.stage → s.boot.stage ≤ 3 → err ≠ s.boot.stage → Runs (.bootStageComplete err peers) s
      { s with boot := { s.boot with stage := s.boot.stage + 1 } }) ∧
    (s.boot.stage = 4 → err ≠ 4 → allRetired s = false → s.boot.trip = false → Runs (.bootStageComplete err peers) s
      { s with boot := { s.boot with stage := 5 } }) ∧
    (s.boot.stage = 5 → Reaches (.bootStageComplete err peers) s fun s' => s'.boot.stage = 6 ∧
      (∀ r ∈ s'.boot.routes, r.dev ≠ s.boot.devnum ∧ r.dev < 64 ∧ ∃ p ∈ peers, p.port = r.port ∧ portUp s.boot p = true ∧
        r.port < 12) ∧
      (s.boot.domid = 0 → s'.boot.routes = [] ∧ ∀ n, n < 12 → n ∈ s'.boot.portsDown) ∧
      (∀ p ∈ peers, p.port < 12 → portUp s.boot p = true → p.tick ≤ s'.tick) ∧ ∀ p ∈ peers, p.port < 12 → s.boot.domid ≠ 0 → portUp s.boot p = false →
        p.port ∈ s'.boot.portsDown)) ∧
  (∀ (s : State) (v : Nat) (d : VDev) (c : Context), findVd s v = some d → ctxOfVd s v = some c → d.tdisp = .run →
    Reaches (.functionLevelReset (some v)) s fun s' => ∃ d', findVd s' v = some d' ∧ d'.tdisp ≠ .run) ∧
  (∀ (s : State) (w : Word), w.toNat < 2 ^ 22 → Reaches (.domainWordWrite w) s fun s' =>
    s'.boot.storedDevnum = w.toNat / 65536 % 64 ∧ s'.boot.storedDomid = w.toNat % 65536 ∧
    s'.boot.devnum = s.boot.devnum ∧ s'.boot.domid = s.boot.domid) ∧
  (∀ (s : State) (fn off : Nat) (value : Word),
    (off % 4 = 0 → (fn = 32 ∧ off + 4 ≤ 65536) ∨ (fn < 32 ∧ off + 4 ≤ 16384) → Reaches (.registerWrite fn off value) s fun s' =>
      s'.registers.find? (fun r => decide (r.fn = fn) && decide (r.off = off)) = some ⟨fn, off, value⟩ ∧
      (∀ r, r.fn ≠ fn ∨ r.off ≠ off → (r ∈ s'.registers ↔ r ∈ s.registers)) ∧ s' = { s with registers := s'.registers }) ∧
    (off % 4 ≠ 0 ∨ 32 < fn ∨ 65536 < off + 4 ∨ (fn < 32 ∧ 16384 < off + 4) → Runs (.registerWrite fn off value) s s)) ∧
  ∀ (s : State) (dev : Nat),
    ((∀ r ∈ s.boot.routes, r.dev ≠ dev) → Runs (.routeLost dev) s s) ∧
    ((∃ r ∈ s.boot.routes, r.dev = dev) → Reaches (.routeLost dev) s fun s' => (∀ r ∈ s'.boot.routes, r.dev ≠ dev) ∧
      ∀ r ∈ s'.reqs, ∀ op, r.kind = .far op → r.loc = dev → ∃ bs x ok, r.stage = .reply bs x ok)

/-- The clock servo, SPDM and TDISP (R48, R397, R398, R473, R476): the servo hears the selected port, locks after 1 s below 100 ns, and loses lock beyond
1 µs or 4 s without a Sync; the Notary answers at an interface that exists; the fourth measurement is the hash of the
charter in force for the session's tenant, before its first context too; a session begins with an accepted handshake; the physical function, number 32 here, has its own; an interface goes from unlocked to locked to RUN. -/
def Sys2Proof.Claims.ServoSessionsAndInterfaces : Prop :=
  (∀ (s : State) (port : Nat) (sync : Bool) (off : Int), servoPort s < 2 ∧
    (port ≠ servoPort s → Runs (.ptpMessage ⟨port, sync⟩ off) s s)) ∧
  (∀ (s : State) (sync : Bool) (off : Int), s.boot.stage = 6 → Reaches (.ptpMessage ⟨servoPort s, sync⟩ off) s fun s' =>
    (sync = true → s'.ptp.lastSync = s.clock) ∧ (sync = false → s'.ptp.lastSync = s.ptp.lastSync) ∧
    (1000 < off.natAbs → s'.ptp.locked = false) ∧ (off.natAbs ≤ 1000 → s'.ptp.locked = s.ptp.locked) ∧
    (100 ≤ off.natAbs → s'.ptp.goodSince = none) ∧
    (off.natAbs < 100 → s'.ptp.goodSince = some (s.ptp.goodSince.getD s.clock))) ∧
  (∀ s : State,
    (∀ c, s.ptp.goodSince = some c → s.ptp.locked = false → c + 1750000000 ≤ s.clock → Reaches .ptpLock s fun s' =>
      s'.ptp.locked = true ∧ s'.ptp.everLocked = true ∧ (s.ptp.everLocked = true → s'.ptp.time = s.ptp.time)) ∧
    (∀ c, s.ptp.goodSince = some c → s.ptp.locked = true ∨ s.clock < c + 1750000000 → Runs .ptpLock s s) ∧
    (s.ptp.goodSince = none → Runs .ptpLock s s) ∧
    (s.ptp.locked = true → s.ptp.lastSync + 7000000000 ≤ s.clock → Reaches .ptpSyncTimeout s fun s' =>
      s'.ptp.locked = false ∧ s'.ptp.everLocked = s.ptp.everLocked ∧ s'.ptp.time = s.ptp.time) ∧
    (s.ptp.locked = false ∨ s.clock < s.ptp.lastSync + 7000000000 → Runs .ptpSyncTimeout s s)) ∧
  (∀ (s : State) (vd : Nat) (v : VDev) (x : List Byte), vd ≠ 32 → findVd s vd = some v →
    Runs (.spdmVersion vd) s (emit s (.spdm vd 0 (Config.spdm 0 []))) ∧
    Runs (.spdmCapabilities vd) s (emit s (.spdm vd 1 (Config.spdm 1 []))) ∧
    Runs (.spdmAlgorithms vd) s (emit s (.spdm vd 2 (Config.spdm 2 []))) ∧
    Runs (.spdmCertificate vd) s (emit s (.spdm vd 3 (Config.spdm 3 []))) ∧
    Runs (.spdmChallenge vd x) s (emit s (.spdm vd 4 (Config.spdm 4 x))) ∧
    (Reaches (.spdmMeasurements vd x) s fun s' => ∃ bs, s' = emit s (.spdm vd 5 (measurements s vd ++ bs))) ∧
    (Reaches (.spdmKeyExchange vd x) s fun s' => findVd s' vd = some { v with share := some x } ∧
      s'.out = .spdm vd 6 (Config.spdm 6 x) :: s.out) ∧
    (∀ y, v.share = some y → Reaches (.spdmFinish vd x) s fun s' => ∃ v', findVd s' vd = some v' ∧ v'.share = none ∧
      (v'.session = true ↔ v.session = true ∨ Config.spdmAccepts y x = true)) ∧
    (v.share = none → Reaches (.spdmFinish vd x) s fun s' => findVd s' vd = some v) ∧
    ∀ m, Reaches (.tdispMessage vd m) s fun s' => findVd s' vd = some { v with tdisp := tdispNext v.tdisp m } ∧
      s'.out = .tdisp vd (tdispNext v.tdisp m) :: s.out) ∧
  (∀ (s : State) (x : List Byte),
    Runs (.spdmChallenge 32 x) s (emit s (.spdm 32 4 (Config.spdm 4 x))) ∧
    (Reaches (.spdmKeyExchange 32 x) s fun s' => s'.pf.share = some x ∧ s'.vds = s.vds) ∧
    (∀ y, s.pf.share = some y → Reaches (.spdmFinish 32 x) s fun s' => s'.pf.share = none ∧ s'.vds = s.vds ∧
      (s'.pf.session = true ↔ s.pf.session = true ∨ Config.spdmAccepts y x = true)) ∧
    ∀ m, Reaches (.tdispMessage 32 m) s fun s' => s'.pf.tdisp = tdispNext s.pf.tdisp m ∧ s'.vds = s.vds ∧
      s'.out = .tdisp 32 (tdispNext s.pf.tdisp m) :: s.out) ∧
  (∀ (s : State) (vd tenant : Nat) (ch : Charter), charterOf s tenant = some ch →
    (∃ v, findVd s vd = some v ∧ v.tenant = some tenant) ∨
      ((∀ v, findVd s vd = some v → v.tenant = none) ∧ ∃ c, ctxOfVd s vd = some c ∧ c.charter = tenant) →
    measurements s vd = Config.measurement 1 ++ Config.measurement 2 ++ Config.measurement 3 ++ Config.sha384 ch.bytes) ∧
  ∀ (t : Tdisp) (m : TdispMsg), tdispNext t m = .run → t = .run ∨ (t = .locked ∧ m = .start)

/-- Reset, and memory's one form (R11, R470): the machine after reset is at boot stage 1 with nothing in it and the whole
budget; every memory is in canonical form there, and a byte written is the byte read, at that address and no other. -/
def Obligations.ResetLeavesAnEmptyMachine : Prop :=
  State.reset.boot.stage = 1 ∧ State.reset.boot.err = 0 ∧ State.reset.mem = [] ∧ State.reset.threads = [] ∧
  State.reset.contexts = [] ∧ State.reset.power.budget = 22000 ∧ State.reset.ptp.locked = false ∧
  State.MemInv State.reset ∧ State.AgendaOk State.reset ∧
  ∀ (m : Memory) (a c : Nat) (b : Byte), Memory.wf m = true → Memory.wf (writeByte m a b) = true ∧
    readByte (writeByte m a b) c = if c = a then b else readByte m c

/-- Memory keeps its one form (R11): from every state whose memories are in canonical form, whatever the step runs, the
memories of the next state are in canonical form. -/
def Obligations.EveryStepKeepsTheMemoriesCanonical : Prop :=
  ∀ s s' : State, State.MemInv s → step s = .next s' → State.MemInv s'

/-! ### Where each form completes: its own effect, under conditions on the state and the operands alone -/

/-- Where the ends of threads, the watchdogs, timers and probe tokens complete (R166 to R168, R173, R270, R277, R279, R354
to R356): the next state is that of the step's own effect. -/
def Sys2Proof.Claims.ThreadStepsComplete : Prop :=
  (∀ (m : Marks) (s : State) (t : Thread), Alone s t → t.farFault = none → t.pend = [] → t.far = [] →
    ∃ s', exec (.exit ⟨m⟩) s = .next s' ∧ ∀ u ∈ s'.threads, ¬ (u.wg = t.wg ∧ u.tid = t.tid)) ∧
  (∀ (r : BitVec 6) (m : Marks) (s : State) (t : Thread) (ts : List Thread), actives s = t :: ts →
    exec (.abort ⟨r, m⟩) s = .next (killLaunch s t.launch 1 (getV t r))) ∧
  (∀ (s : State) (k : SeatKey) (slot : SlotKey) (t : Thread) (o : Nat) (u : Thread) (us : List Thread),
    findSeat s k = some t → t.slot? = some slot → inRunning slot t = true → safeOrdinal s t t.pc = some o →
    2 ^ 24 ≤ t.path.retired → overrunOf (passStops s (s.threads.filter (inRunning slot))) slot = u :: us →
    exec (.overrun k) s = .next (takeTrap (passStops s (s.threads.filter (inRunning slot))) (u :: us) 11 0
      (BitVec.ofNat 64 u.path.retired) (wordAt (passStops s (s.threads.filter (inRunning slot))) u))) ∧
  (∀ (s : State) (rid : Nat) (r : Record) (g : Workgroup) (l : Launch), findRecord s rid = some r →
    findWg s r.th.wg = some g → findLaunch s r.th.launch = some l → r.fin.wake = 1 → r.woken = none → g.stop = .none →
    r.since + barTimeout l ≤ s.clock →
      let same := fun (q : Record) => decide (q.th.wg = g.id) && decide (q.fin.wake = 1) && q.woken.isNone &&
        decide (q.fin.q = r.fin.q) && decide (q.fin.operand / 16 = r.fin.operand / 16)
      let x := workgroupTrap s g 12 0 (wordAt s r.th)
      let late := fun (q : Record) => { q with
        fin := timeoutEnd q.fin 12 q.th.pc x.2, th := { q.th with log := none, reply := none }, since := s.clock }
      exec (.barrierTimeout rid) s = .next (dispatchTrap
        (settleBuffer { x.1 with records := updWhere same late x.1.records } g.home.cluster) g x.2
        (s.records.any fun q => same q && q.th.trapState.isSome))) ∧
  (∀ (s : State) (k : SeatKey) (t : Thread) (g : Workgroup) (l : Launch), findSeat s k = some t → findWg s t.wg = some g →
    findLaunch s t.launch = some l → t.place = .binned → (gatherGroup s t).isSome = true → g.stop = .none →
    t.binnedAt + barTimeout l < s.clock →
      let bin := binThreads s ⟨k.cluster, k.core⟩ t.pc
      let x := workgroupTrap s g 13 0 (wordAt s t)
      exec (.gatherTimeout k) s = .next (dispatchTrap (refillBins (foldList (fun s u => endSegment s u
        (timeoutEnd (endAt s u 10 0 false) 13 u.pc x.2)) (traceEnds x.1 bin 10) bin) ⟨k.cluster, k.core⟩) g x.2
        (bin.any fun u => u.trapState.isSome))) ∧
  (∀ (s : State) (ctx : Nat) (c : Context) (t : Thread) (b : Nat) (g : Workgroup), findCtx s ctx = some c → c.session = false →
    t ∈ s.threads → t.trapState = some b → findWg s t.wg = some g → g.ctx = ctx → g.stop = .none → b + 2 ^ 26 ≤ s.clock →
    exec (.trapUnresolved ctx) s = .next (killCtx s ctx 9)) ∧
  (∀ (s : State) (ctx d : Nat) (c : Context), findCtx s ctx = some c → c.deadlock = some d → deadlockHolds s ctx = true →
    c.stop = .none → (∀ g ∈ s.wgs, g.ctx = ctx → g.stop = .none) → d + 2 ^ 24 ≤ s.clock →
    exec (.poolDeadlock ctx) s = .next (killCtx s ctx 10)) ∧
  (∀ (s : State) (rid : Nat) (r : Record), findRecord s rid = some r → r.fin.wake = 6 → r.woken = none →
    wakeHolds s r.th r.fin = true → (∀ t ∈ s.threads, ∀ e, t.place ≠ .held e) → ∃ s', exec (.timerWake rid) s = .next s' ∧
      ∃ q, findRecord s' rid = some q ∧ q.woken = some s.clock ∧ q.th = r.th) ∧
  (∀ (s : State) (wg since : Nat) (q : QueueRef) (g : Workgroup), findWg s wg = some g → blockedSince s wg q = some since →
    reserveFree s g q = true → max since (queueProbe g q).lastSent + 1024 ≤ s.clock →
    exec (.probeTokenSend wg q) s = .next
      (updWg (setQueueProbe s wg { queueProbe g q with sent := (queueProbe g q).sent + 1, lastSent := s.clock }) wg
        fun h => { h with
          probes := h.probes ++ (waitEdges s g q).map (fun y => Probe.mk q ((queueProbe g q).sent + 1) y [q])
          counts := { h.counts with probesent := min (h.counts.probesent + 1) 0xFFFFFFFF } })) ∧
  ∀ (s : State) (wg i : Nat) (g : Workgroup) (p : Probe), findWg s wg = some g → g.probes[i]? = some p →
    blockedSince s wg p.place ≠ none → p.place ≠ p.origin → p.place ∉ p.visited →
    exec (.probeTokenReceive wg i) s = .next (updWg (updWg s wg fun h => { h with probes := h.probes.eraseIdx i }) wg fun h =>
      { h with probes := h.probes ++ (waitEdges s g p.place).map (fun y => Probe.mk p.origin p.num y (p.visited ++ [p.place])) })

/-- Where the steps that end launches and serve queues complete (R371, R373, R381, R384, R385, R387 to R389, R418): each
with its own effect. -/
def Sys2Proof.Claims.LaunchStepsComplete : Prop :=
  (∀ (s : State) (n : Nat) (l : Launch) (v : VDev), findLaunch s n = some l → vdOfCtx s l.ctx = some v →
    launchFinished s l = true → replayOpen s l = false → writesUnderWay s v = false → linesWait s (vdHomes s v) = false →
    (∀ r ∈ s.reqs, unperformed r = false) → exec (.launchEnd n) s = .next (endLaunch s v l)) ∧
  (∀ (s : State) (ctx q : Nat) (x : Queue) (e : RingOut) (es : List RingOut), findQueue s ctx q = some x →
    x.waiting = e :: es → wrapSub x.hwr x.hrd ≠ 2 ^ e.conf.hlog → (x.judging = true → es ≠ []) →
    let x1 := { x with
      waiting := es, hwr := (x.hwr + 1) % 2 ^ 32, unsignalled := x.unsignalled ++ [(s.clock, e.conf)]
      run := x.run && !e.endsRun }
    let s2 := setQueue (vwrite s ctx (e.conf.hostRing + 32 * (x.hwr % 2 ^ e.conf.hlog)) (ringOutBytes x e)) x1
    exec (.hostRingEntry ctx q) s = .next (if irqDue x1 e then raiseIrq s2 x1 e.conf.vector else s2)) ∧
  (∀ (s : State) (ctx q : Nat) (x : Queue) (c : Nat) (conf : QueueConf) (cs : List (Nat × QueueConf)),
    findQueue s ctx q = some x → x.unsignalled = (c, conf) :: cs → field conf.coalesce.toNat 31 8 ≠ 0 →
    c + 1750 * field conf.coalesce.toNat 31 8 ≤ s.clock →
    exec (.coalescingTimeout ctx q) s = .next (raiseIrq s x conf.vector)) ∧
  (∀ (s : State) (ctx q n m : Nat) (x : Queue), findQueue s ctx q = some x → x.judging = true →
    x.lastNode = some (n, 0) → nodeBreach s ctx (lastConf x) n = false →
    vreadNat s ctx (vreadNat s ctx ((lastConf x).ring + 64 * n + 8) 8 + 0x38) 8 = 0 →
    successorOf s x (lastConf x) n 0 0 = .node m →
    exec (.graphSuccessor ctx q) s = .next (setQueue (vreadMet s ctx ((lastConf x).ring + 64 * n) 64) { x with
      judging := false, lastNode := none, nextNode := some m, runCounts := countNode x.runCounts m })) ∧
  (∀ (s : State) (ctx q : Nat) (x : Queue) (src : Source) (l : Launch), nextIntake s = some x → x.ctx = ctx → x.num = q →
    intakeOf s x = some (src, .accept l) → exec (.packetIntake ctx q) s = .next (acceptLaunch (sourceMet
      { s with served := (x.conf.cls, x.ctx, x.num) :: s.served.filter fun y => !decide (y.1 = x.conf.cls) } x src) x src l)) ∧
  (∀ (s : State) (ctx q : Nat) (value : Word) (x : Queue), findQueue s ctx q = some x → s.boot.stage = 6 →
    tdispRun s ctx = true → x.bound = true →
    (x.frozen = false → x.conf.kind = 0 → wrapSub value.toNat x.head ≤ 2 ^ x.conf.plog →
      exec (.submitDoorbell ctx q value) s = .next (setQueue s { x with tail := value.toNat })) ∧
    (wrapSub value.toNat x.hrd ≤ wrapSub x.hwr x.hrd →
      exec (.hostRingDoorbell ctx q value) s = .next (setQueue s { x with hrd := value.toNat })) ∧
    (x.frozen = false → x.conf.kind = 2 → value.toNat < x.conf.nodes → x.run = false →
      exec (.graphStart ctx q value) s = .next
        (setQueue s { x with run := true, runCounts := [(value.toNat, 1)], nextNode := some value.toNat }))) ∧
  (∀ (s : State) (ctx q off : Nat) (b : Byte) (x : Queue), findQueue s ctx q = some x → x.bound = true → off < 256 →
    x.frozen = false → exec (.qcbStore ctx q off b) s = .next (freezeQueue s ctx q)) ∧
  (∀ (s : State) (ctx : Nat) (d : Deferred), s.deferred.find? (fun d => decide (d.ctx = ctx)) = some d →
    (∀ n ∈ d.before, findLaunch s n = none) → exec (.deferredChangeApply ctx) s = .next (resumeCmds
      (okay (applyDeferred { s with deferred := s.deferred.filter fun x => !decide (x = d) } d) d.h) ctx)) ∧
  (∀ (s : State) (frame : Nat), frame ∈ s.quarantine → ∃ s', exec (.quarantineScrubComplete frame) s = .next s' ∧
    frame ∉ s'.quarantine) ∧
  (∀ (s : State) (n : Nat) (l : Launch), findLaunch s n = some l → l.instants < instantsDue l → l.full = false →
    exec (.updateInstant n) s = .next (countAll (updWgs
      (updLaunch s n fun l => { makeInstant l with instantAt := noteInstant s l })
      (fun g => decide (g.launch = n) && g.cover.counted) fun g => { g with cover := { g.cover with freed := true } }) n)) ∧
  (∀ (s : State) (wg x y : Nat) (g : Workgroup) (l : Launch) (s1 : State), findWg s wg = some g →
    findLaunch s g.launch = some l → reconOpen l g x y = true → reconReady l g (tileOf l g.wgid) x y = true →
    reconGoes s g = true →
    reachPoints s g.ctx (pointEnds l (tileOf l g.wgid) (reconTouches l g (tileOf l g.wgid) x y)) = (s1, none) →
    exec (.reconPointWrite wg x y) s = .next (reconWrite s1 l g x y false)) ∧
  ∀ (s : State) (wg i : Nat) (g : Workgroup) (l : Launch) (x : Sample) (q : Word) (bs : List Byte), findWg s wg = some g →
    findLaunch s g.launch = some l → g.cover.samples[i]? = some x → x.value = some q → x.element = some bs →
    x.done = false → x.dropped = false →
    exec (.sampleCompare wg i) s = .next (countWg (updLaunch (updWg s wg fun h => { h with cover := { h.cover with
        samples := listSet g.cover.samples i { x with
          error := some (sampleError (decide (field (coverControl l) 8 8 = 1))
            (elementValue l (tileOf l g.wgid) x.x bs) (decodeFp fp32 q.toNat))
          done := true } } })
      l.id fun l => { l with counts := { l.counts with samples := min (l.counts.samples + 1) 0xFFFFFFFF } }) wg)

/-- Where the steps of messages, engines and workgroups complete (R162, R194, R195, R219, R226, R250, R251, R265, R267, R309,
R313, R315, R318, R321, R349, R411): each with its own effect. -/
def Sys2Proof.Claims.MessageStepsComplete : Prop :=
  (∀ (s : State) (k : SlotKey) (t : Thread) (ts : List Thread), freeGangSlot s (slotCore k) = some k.slot →
    drawChoice s (slotCore k) = t :: ts → exec (.gangDraw k) s = .next (drawGang s k (t :: ts))) ∧
  (∀ (s s0 : State) (k : CoreKey) (r : Record) (rs : List Record), reseatBare s0 k.cluster = s →
    drainChoice s k = r :: rs →
    let s2 := refillRecordBins (foldList (drainRecord k) (traceDrain s (r :: rs)) ((r :: rs).zip (freeSeats s k))) k.cluster
    exec (.recordDrain k) s0 = .next (releaseHeld s2 (ctxOfWg s r.th.wg) s2.threads.length)) ∧
  (∀ (s : State) (k : SlotKey), (∀ t ∈ s.threads, inRunning k t = true → t.fl.replay = false) →
    exec (.logReplay k) s = .next { s with turn := some k }) ∧
  (∀ (s : State) (k : CoreKey) (x : Slot) (r : Record), r ∈ s.records → drains s k r = true → recordAged s 4 r = true →
    (∀ g, findWg s r.th.wg = some g → ∀ c ∈ coresOf s g, mayUse s g r c = false ∨ freeSeats s ⟨k.cluster, c⟩ = []) →
    (∀ t ∈ coreThreads s k, t.fl.reclaim = false) →
    minByKey Slot.drawnAt (s.slots.filter fun x => decide (slotCore x.key = k)) = some x →
    exec (.seatReclaim k) s = .next (updThreads s (fun t => decide (t.slot? = some x.key)) fun t =>
      { t with fl := { t.fl with reclaim := true } })) ∧
  (∀ (s : State) (id n : Nat) (r : Req) (p : Page), findReq s id = some r → r.kind = .far (.load n) → r.stage = .toHome →
    r.loc = s.boot.devnum → farNext s r = true → farTurn s r.ctx r.va (.load n) = true → farDue s r (.load n) = true →
    pageFor s r.ctx r.va = some p → p.state = .device → p.readable = true → poisoned s (p.pa + (r.va - p.va)) n = [] →
    freezeFor (farServed s r.ctx r.va (.load n)) r.ctx r.va 1 (p.pa + (r.va - p.va)) = none →
    exec (.farRequest (.own id)) s = .next (updReq s id fun r =>
      { r with stage := .reply (readBytes s.mem (p.pa + (r.va - p.va)) n) none true, bad := false })) ∧
  (∀ (s : State) (id : Nat) (r : Req) (op : FarOp) (bs : List Byte), findReq s id = some r → r.kind = .far op →
    linkHolds s r = false → r.stage = .toHome → r.loc ≠ s.boot.devnum →
    (inFarGroup s r = false → exec (.farReply id (.value bs)) s = .next
      (retestWg (settleBuffer (updOwner (finishReq (bumpCounter s r.ctx r.src 12 1) id) r.wg r.tid fun t =>
        { t with reply := some ⟨bs, none, false⟩ }) r.src.cluster) r.wg 7)) ∧
    (inFarGroup s r = true → exec (.farAcknowledgement id (.value bs)) s = .next
      (settleThread (retestWg (retestWg (updOwner (finishReq (bumpCounter s r.ctx r.src 12 1) id) r.wg r.tid fun t => { t with
        far := t.far.filter fun x => !decide (x = id) }) r.wg 3) r.wg 8) r.wg r.tid))) ∧
  (∀ (s : State) (id : Nat) (r : Req), findReq s id = some r → arrivesAtSlice s r = true → lineBlocked s r = false →
    waitingAt s (reqSlice s r) r.pa = [] → unitOp r = true → l2Ready s r = true →
    exec (.homeSliceRequest id) s = .next (arrived s { r with stage := .atHome })) ∧
  (∀ (s : State) (id : Nat) (r : Req), findReq s id = some r → r.stage = .missWait → r.pa < 2 ^ 39 →
    exec (.sliceMissFill id) s = .next (serveLine (l2Fill s r.ctx (reqSlice s r) r.pa) (reqSlice s r) r.pa)) ∧
  (∀ (s : State) (id : Nat) (r : Req) (x : Bool) (op : Nat) (w64 : Bool) (operand : List Byte) (ret : Bool),
    findReq s id = some r → unitNext s r = true → s.recording = [] → waitingAt s (reqSlice s r) r.pa = [] →
    r.kind = .atom x op w64 operand ret → poisoned s r.pa (if w64 then 8 else 4) = [] →
    ∃ s', exec (.atomicPerform id) s = .next s' ∧ s'.mem = writeBytes s.mem r.pa
      (atomBytes x op w64 (readBytes s.mem r.pa (if w64 then 8 else 4)) operand)) ∧
  (∀ (s : State) (id : Nat) (r : Req) (h : Home), findReq s id = some r → r.stage = .toPeer h → tileNext s r = true →
    lineBlocked s r = false → aliasAt s h r.pa = none → exec (.peerRequest id) s = .next
      (bumpCounter (arrived s { r with stage := .toHome, loc := 2 + h.cluster }) r.ctx h 11 1)) ∧
  (∀ (s : State) (id m n : Nat) (r : Req) (g : Workgroup), findReq s id = some r → r.kind = .window m none n →
    r.stage = .toHome → tileNext s r = true → findWg s m = some g → exec (.windowAccess id) s = .next
      (answered (bumpCounter s r.ctx g.home 10 1) r (readBytes g.scratch r.va n))) ∧
  (∀ (s : State) (id : Nat) (r : Req) (p : Patch) (bs : List Byte) (x : Option Home) (ok : Bool), findReq s id = some r →
    r.stage = .reply bs x ok → fillNext s r = true → r.kind = .write p →
    exec (.writeBackAcknowledgement id) s = .next (finishReq (bumpCounter s r.ctx r.src 12 1) id)) ∧
  (∀ (s : State) (id n i va : Nat) (r : Req) (bs : List Byte) (x : Option Home) (ok : Bool) (t : Thread)
    (k : Access) (got : Patch) (dst : BitVec 6), findReq s id = some r → r.kind = .read n → r.stage = .reply bs x ok →
    fillNext s r = true → r.install = false → r.fwd = false → findThread s r.wg r.tid = some t → t.waits = [] →
    pendingLoad t id = some i → t.pend[i]? = some (.load id k va got dst) →
    exec (.lineFill id) s = .next (writePending (finishReq (bumpCounter s r.ctx r.src 12 1) id) t i
      (loadWrites k dst (loadBytes va r.pa k.size got bs)))) ∧
  (∀ (s : State) (k : SeatKey) (i : Nat) (t : Thread) (ws : List (BitVec 6 × Word)), findSeat s k = some t →
    findThread s t.wg t.tid = some t → t.waits = [] → t.pend[i]? = some (.value ws) →
    exec (.pendingResultWrite k i) s = .next (writePending s t i ws)) ∧
  (∀ (s : State) (cluster asid page : Nat) (w : Walk) (c : Context) (p : Page), w ∈ s.walks → w.cluster = cluster →
    w.asid = asid → w.page = page → w.running = true → ctxOfAsid s asid = some c → findCtx s c.id = some c →
    pageFor s c.id (page * 65536) = some p → p.state = .device →
    ∃ s', exec (.tableWalkComplete cluster asid page) s = .next s' ∧
      (⟨cluster, asid, p.va, p.bits, p.pa, p.readable, p.writable⟩ : TlbEntry) ∈ s'.tlb) ∧
  (∀ (s : State) (wg half : Nat) (c : Cmd) (g : Workgroup), startPosition s wg (.matrix half) = some c →
    findWg s wg = some g → atStart s c = true → c.gd = 0 → (∀ e ∈ c.edges, findCmd s e = none) → engineOn s g = true →
    g.phase = .running → exec (.mxaCommandStart wg half) s = .next (updCmd s c.id fun c =>
      { c with state := .running s.clock, operands := some (g.scratch, g.btier) })) ∧
  (∀ (s : State) (id since n t : Nat) (c : Cmd) (g : Workgroup) (l : Launch), findCmd s id = some c → c.state = .running since →
    c.queue = .matrix n → findWg s c.wg = some g → findLaunch s g.launch = some l → c.bad ≠ [] → c.kind = .tileZero t →
    exec (.mxaCommandComplete id) s = .next (dropCmd s id)) ∧
  (∀ (s : State) (wg q k : Nat) (c : Cmd) (g : Workgroup) (card : Card) (follow : Bool),
    startPosition s wg (.copy q) = some c → findWg s wg = some g → c.kind = .copy k card follow → c.gd = 0 →
    (∀ e ∈ c.edges, findCmd s e = none) → engineOn s g = true → g.phase = .running → copyEngines s g = true →
    ((s.cmds.filter fun x => decide (x.wg = wg) && decide (x.queue = .copy q) && !decide (x.state = .queued)).length < 4) →
    exec (.copyJobStart wg q) s = .next (updCmd (bumpFree s) c.id fun c =>
      { c with state := .running s.clock, pieces := jobPieces k card, engine := pickEngine s g })) ∧
  (∀ (s : State) (id k since i : Nat) (c : Cmd) (card : Card) (follow : Bool) (g : Workgroup) (l : Launch) (p : Piece) (s1 : State),
    findCmd s id = some c → c.kind = .copy k card follow → c.state = .running since → findWg s c.wg = some g →
    findLaunch s g.launch = some l → landable s g k c card = [i] → c.pieces[i]? = some p →
    reachAll s l g.ctx (pieceRanges k card p) = (s1, .ok) → p.data ≠ none →
    exec (.copyPieceLand id) s = .next (bumpFree (landPiece s1 l g c k card follow i p))) ∧
  (∀ (s : State) (wg : Nat) (g : Workgroup) (l : Launch), findWg s wg = some g → findLaunch s g.launch = some l →
    g.phase = .placed → g.stop = .none → exec (.workgroupStart wg) s = .next
      (foldList startWg s (((membersOf s l g).filter fun m => decide (m.phase = .placed)).map Workgroup.id))) ∧
  (∀ (s : State) (wg : Nat) (g : Workgroup), findWg s wg = some g → mayEnd s g = true →
    ∃ s', exec (.workgroupEnd wg) s = .next s' ∧ ∃ h, findWg s' wg = some h ∧ h.phase = .ended) ∧
  (∀ (s : State) (n : Nat) (l : Launch) (v : VDev) (hs : List Home), findLaunch s n = some l → vdOfCtx s l.ctx = some v →
    nextPlaced s v = some (l, hs) → l.id = n → l.phase ≠ .accepted →
    exec (.workgroupPlace n) s = .next (placeAll v n s hs)) ∧
  (∀ (s : State) (wg dest : Nat) (g : Workgroup) (l : Launch) (v : VDev) (c : Context), findWg s wg = some g →
    findLaunch s g.launch = some l → vdOfCtx s g.ctx = some v → findCtx s g.ctx = some c → nbSize l = 0 → c.stop = .none →
    c.frozen = false → ⟨dest, VdShape.sideNum v.shape⟩ ∈ freeHomes s v → g.phase = .running → mayMove s g = true →
    exec (.workgroupMove wg dest) s = .next (beginMove s (g, some ⟨dest, VdShape.sideNum v.shape⟩))) ∧
  ∀ (s : State) (wg : Nat) (g : Workgroup) (l : Launch) (v : VDev) (h : Home), findWg s wg = some g →
    findLaunch s g.launch = some l → vdOfCtx s g.ctx = some v → nbSize l = 0 → g.phase = .moving h →
    (∀ r ∈ s.reqs, unperformed r = true → r.wg ≠ wg ∧ r.src ≠ g.home) →
    tilesHeld s (clusterTile g.home.cluster) (clusterTile h.cluster) = false →
    exec (.moveComplete wg) s = .next (refreshSpans (arriveWg v s g) l.id)

/-- Where the commands complete (R357, R358, R369, R390, R394 to R397, R401 to R405, R407 to R413, R420 to R430, R451,
R458, R462, R479): the next state is the command's own, with its response. -/
def Sys2Proof.Claims.CommandFormsComplete : Prop :=
  ∀ (s : State) (h : CmdHead),
    (∀ vd handle off log v ch base a, Admitted (.ctxCreate h vd handle off log) s → findVd s vd = some v →
      charterOf s h.charter = some ch → grantArea s h handle off (32 * 2 ^ log) = some base → h.ctx ≠ 0 →
      findCtx s h.ctx = none → 4 ≤ log → log ≤ 12 → shapeAllowed ch v.shape = true → (∀ c ∈ s.contexts, c.vd ≠ vd) →
      freeAsid s = some a → exec (.ctxCreate h vd handle off log) s = .next
        (respond (updVd { s with contexts := s.contexts ++ [newCtx h.ctx a vd h.charter base log] } vd (capImages ch)) h 0
          h.ctx)) ∧
    (Admitted (.ctxDestroy h) s → ∃ s', exec (.ctxDestroy h) s = .next s' ∧ findCtx s' h.ctx = none) ∧
    (∀ qcb, Admitted (.queueBind h qcb) s → qcb % 256 = 0 → (translate s h.ctx qcb).isSome = true →
      let s0 := vreadMet s h.ctx qcb 128
      let c := confFrom (vread s0 h.ctx qcb 128)
      confValid h.ctx c = true → trapBinOk s0 h.ctx c = true → agreesWide s0 h.ctx c = true →
      (s0.queues.filter Queue.bound).length < 1024 → findQueue s0 h.ctx c.qnum = none → dlineAllows s0 h.charter c = true →
      exec (.queueBind h qcb) s = .next (okay (setQueue
        { s0 with queues := s0.queues ++ [newQueue h.ctx qcb c] } (newQueue h.ctx qcb c)) h)) ∧
    (∀ q x, findQueue s h.ctx q = some x → x.bound = true →
      (Admitted (.queueUnbind h q) s → (∀ l ∈ s.launches, l.ctx ≠ h.ctx ∨ l.queue ≠ q) → x.waiting = [] →
        exec (.queueUnbind h q) s = .next (okay (setQueue s { x with bound := false }) h)) ∧
      (Admitted (.queueReload h q) s →
        let s0 := vreadMet s h.ctx x.qcb 128
        let c := confFrom (vread s0 h.ctx x.qcb 128)
        confValid h.ctx c = true → trapBinOk s0 h.ctx c = true → c.qnum = q → agreesWide s0 h.ctx c = true →
        dlineAllows s0 h.charter c = true → exec (.queueReload h q) s = .next (okay (setQueue s0 { x with conf := c }) h)) ∧
      (Admitted (.unfreeze h (.queue q)) s →
        exec (.unfreeze h (.queue q)) s = .next (okay (setQueue s { x with frozen := false }) h))) ∧
    (Admitted (.kill h) s → exec (.kill h) s = .next (okay (killCtx s h.ctx 13) h)) ∧
    (∀ rood split, Admitted (.roodMode h rood split) s → rood < 16 → roodHeld s rood = false →
      ∃ s', exec (.roodMode h rood split) s = .next s' ∧ ∀ n, n ∈ s'.splitRoods ↔ if n = rood then split = true else n ∈ s.splitRoods) ∧
    (∀ shape engines n, Admitted (.vdCreate h shape engines) s → shapeValid s shape = true → enginesValid engines = true →
      shapeAllowedFor s h.charter shape = true → freeVdNum s = some n → shapeTaken s shape = false →
      enginesTaken s n engines = false → exec (.vdCreate h shape engines) s = .next
        (respond { s with vds := s.vds ++ [newVd n shape engines] } h 0 n)) ∧
    (∀ vd, Admitted (.vdDestroy h vd) s → (findVd s vd).isSome = true → (∀ c ∈ s.contexts, c.vd ≠ vd) →
      ∃ s', exec (.vdDestroy h vd) s = .next s' ∧ findVd s' vd = none) ∧
    (∀ vd engines v, Admitted (.copyAssign h vd engines) s → findVd s vd = some v → enginesValid engines = true →
      (∀ c ∈ s.contexts, c.vd = vd → c.charter = h.charter) → enginesTaken s vd engines = false →
      ∃ s', exec (.copyAssign h vd engines) s = .next s' ∧
        findVd s' vd = some { v with engines := engines, frozenEngines := v.frozenEngines.filter engines.contains }) ∧
    (h.issuer = .hypervisor → Admitted (.tenantCreate h []) s → ∃ s', exec (.tenantCreate h []) s = .next s' ∧
      ∃ t, s'.tenants = s.tenants ++ [t] ∧ t.charter = freeCharter s) ∧
    (∀ bytes t, Admitted (.charterInstall h bytes) s → findTenant s h.charter = some t → charterValid t bytes = true →
      ∃ s', exec (.charterInstall h bytes) s = .next s' ∧
        findTenant s' h.charter = some { t with inForce := some (charterFrom bytes) }) ∧
    (Admitted (.tenantTeardown h) s → h.issuer = .hypervisor → (findTenant s h.charter).isSome = true →
      ∃ s', exec (.tenantTeardown h) s = .next s' ∧ findTenant s' h.charter = none) ∧
    (∀ k f, Admitted (.frameGrant h k (.host f)) s → k ≤ 14 → h.ctx ≠ 0 → namesContext s h = true →
      outsideRun s h.ctx k f = true → ∃ s', exec (.frameGrant h k (.host f)) s = .next s' ∧
        s'.grants = s.grants ++ [⟨s.nextId, h.ctx, h.charter, f, k, .host f⟩]) ∧
    (∀ handle g, Admitted (.frameRevoke h handle) s → findGrant s handle = some g → g.ctx = h.ctx → g.charter = h.charter →
      (∀ p ∈ s.pages, p.ctx = h.ctx → usesGrant g p = false) → (∀ l ∈ s.lists, l.ctx = h.ctx → l.handle ≠ handle) →
      exec (.frameRevoke h handle) s = .next (okay (quarantineGrant s g) h)) ∧
    (∀ va p, Admitted (.migrateOut h va) s → pageFor s h.ctx va = some p → p.migratable = true → p.state = .device →
      pinnedNow s p = false → exec (.migrateOut h va) s = .next (okay (updPage (flushPage
        { s with tlb := s.tlb.filter fun e =>
          !(decide (e.asid = asidOf s h.ctx) && rangesMeet e.vbase (2 ^ e.bits) p.va (2 ^ p.bits)) } p) p.ctx p.va
          fun p => { p with state := .toHost }) h)) ∧
    (∀ spf, Admitted (.moduleLoad h spf) s → sameModule s h.charter spf = none →
      ∃ s', exec (.moduleLoad h spf) s = .next s' ∧
        s'.modules = s.modules ++ [⟨s.nextId, h.charter, spf, .translating, true, emptyImage, emptyImage⟩]) ∧
    (∀ n m, Admitted (.moduleUnload h n) s → findModule s n = some m → m.charter = h.charter → m.loaded = true →
      ∃ s', exec (.moduleUnload h n) s = .next s' ∧ findModule s' n = some { m with loaded := false }) ∧
    (debugAllowed s h = true →
      (∀ bs, Admitted (.attach h bs) s → exec (.attach h bs) s = .next
        (okay (updCtx s h.ctx fun c => { c with session := true, breakpoints := bs }) h)) ∧
      ∀ rid r, sessionRecord s h rid = some r →
        (Admitted (.release h rid) s → exec (.release h rid) s = .next (okay (releaseRecord false s rid) h)) ∧
        (Admitted (.stepCmd h rid) s → exec (.stepCmd h rid) s = .next (okay (releaseRecord true s rid) h)) ∧
        (Admitted (.discard h rid) s →
          let s1 := updWg { s with records := s.records.filter fun q => !decide (q.id = rid) } r.th.wg fun g =>
            { g with exited := r.th.tid :: g.exited }
          let s3 := discardAtLast (freeHandles s1 r.th.wg) r.th.wg
          exec (.discard h rid) s = .next (okay (releaseHeld s3 h.ctx s3.threads.length) h))) ∧
    (∀ vd g w ch v, Admitted (.powerSet h vd g w) s → charterOf s h.charter = some ch → findVd s vd = some v →
      g ≤ ch.grains → w ≤ ch.weight →
      sumNat ((s.vds.filter fun v => !decide (v.num = vd)).map VDev.g) + g ≤ s.power.budget →
      (∀ c ∈ s.contexts, c.vd = vd → c.charter = h.charter) → ∃ s', exec (.powerSet h vd g w) s = .next s' ∧
        findVd s' vd = some { v with g := g, w := w }) ∧
    (∀ n vd d v, h.issuer = .guest vd → findVd s vd = some v → Admitted (.ringSet h n d) s → ingressAllowed s h = true →
      n < 16 → descValid d = true → (∀ x ∈ s.vds, x.num ≠ vd → ∀ r ∈ x.ingress, sameClaim r.desc d = false) →
      ∃ s', exec (.ringSet h n d) s = .next s' ∧ findVd s' vd = some { v with
        ingress := (v.ingress.filter fun r => !decide (r.num = n)) ++ [⟨n, d, 0, 0, 0⟩] }) ∧
    (∀ n vd v, h.issuer = .guest vd → findVd s vd = some v → Admitted (.ringClear h n) s → (∃ r ∈ v.ingress, r.num = n) →
      ∃ s', exec (.ringClear h n) s = .next s' ∧
        findVd s' vd = some { v with ingress := v.ingress.filter fun r => !decide (r.num = n) }) ∧
    (∀ n x, Admitted (.streamClear h n) s → s.streams.find? (fun x => decide (x.handle = n)) = some x →
      x.issuer = h.issuer → ∃ s', exec (.streamClear h n) s = .next s' ∧ ∀ y ∈ s'.streams, y.handle ≠ n) ∧
    (∀ handle off count pa, Admitted (.cmdMap h handle off count) s → grantArea s h handle off (48 * count) = some pa →
      1 ≤ count → count ≤ 4096 →
      let s0 := readMet s h.ctx (poisoned s pa (48 * count))
      let es := listEntries s0 pa count
      (∀ e ∈ es, entryValid s0 h e = true ∧ entryOverlaps s0 h.ctx e = false ∧ entryAtTrapBin s0 h.ctx e = false) →
      apart (fun (a b : MapEntry) => rangesMeet a.va (a.count * 2 ^ a.bits) b.va (b.count * 2 ^ b.bits)) es = true →
      exec (.cmdMap h handle off count) s = .next (okay (foldList (fun s e => supply s h.ctx e.va (e.count * 2 ^ e.bits))
        { s0 with pages := s0.pages ++ es.flatMap (entryPages s0 h.ctx (handle, off))
                  lists := addList s0.lists ⟨h.ctx, handle, off, count, pa⟩ } es) h)) ∧
    (∀ handle off first count l, Admitted (.unmap h handle off first count) s →
      s.lists.find? (fun l => decide (l.ctx = h.ctx) && decide (l.handle = handle) && decide (l.off = off)) = some l →
      count ≠ 0 → first + count ≤ l.count →
      ∃ vas, exec (.unmap h handle off first count) s = .next (defer s h (.unmap (handle, off) vas))) ∧
    (∀ va c r, Admitted (.violate h va) s → findCtx s h.ctx = some c →
      c.prReqs.find? (fun r => decide (r.va = requestPageVa s h.ctx va)) = some r →
      exec (.violate h va) s = .next (okay (retestCtx
        { updCtx s h.ctx fun c => { c with prReqs := c.prReqs.filter fun x => !decide (x = r) } with
          violations := ⟨h.ctx, requestPageVa s h.ctx va⟩ :: s.violations } h.ctx 9) h)) ∧
    (∀ c, findCtx s h.ctx = some c → c.stop = .none →
      (Admitted (.evict h) s → exec (.evict h) s = .next
        (stopCtx .evict (updCtx s h.ctx fun c => { c with reply := some h, dest := none }) h.ctx)) ∧
      (Admitted (.preempt h none) s → exec (.preempt h none) s = .next
        (stopCtx .preempt (updCtx s h.ctx fun c => { c with reply := some h, dest := none }) h.ctx)) ∧
      ∀ handle off len word ch a, Admitted (.dump h handle off len word) s → charterOf s h.charter = some ch →
        ch.policy.getLsbD 7 = true → deviceArea s h handle off len = some a → word.toNat ≤ 1 → dumpNeeds s c ≤ len →
        len % 4096 = 0 → off % 4096 = 0 → exec (.dump h handle off len word) s = .next
          (stopCtx .dump (updCtx (respond s h 5 0) h.ctx fun c => { c with dump := some (h, a, len, decide (word = 1)) }) h.ctx)) ∧
    (∀ c v w k, findCtx s h.ctx = some c → c.stop = .stopped w k → c.reply = none → c.image = none → c.dest = none →
      wantsImage c = false → vdOfCtx s h.ctx = some v → Admitted (.resume h 0) s →
      exec (.resume h 0) s = .next (okay (endStopCtx s h.ctx) h)) ∧
    (∀ vd cls loc addr ch, charterOf s h.charter = some ch → Admitted (.imagePlace h vd cls none loc addr) s → cls ≤ 2 →
      loc ≤ cls → vdOfTenant s vd h.charter = true → cls ≤ charterImg ch → exec (.imagePlace h vd cls none loc addr) s = .next
        (okay (updVd s vd fun v => { v with imageClass := cls, imageLoc := loc }) h)) ∧
    (∀ (o : TraceOps) base index, Admitted (.traceSet h o) s → grantArea s h o.handle o.off (32 * 2 ^ o.rlog) = some base →
      grantArea s h o.handle o.index 128 = some index → 4 ≤ o.rlog → o.rlog ≤ 15 → o.off % 4096 = 0 → o.index % 128 = 0 →
      o.clusters < 2 ^ 128 → maskWithin o.kinds [1, 2, 3, 4, 5, 6, 7, 8, 9] = true → o.kinds ≠ 0 →
      exec (.traceSet h o) s = .next (okay (updCtx s h.ctx fun c => { c with
        trace := some ⟨base, o.rlog, BitVec.ofNat 10 o.kinds, index, BitVec.ofNat 128 o.clusters, 0, 0⟩ }) h)) ∧
    (∀ n c, Admitted (.sampleSet h n) s → findCtx s h.ctx = some c → c.trace.isSome = true → 10 ≤ n → n ≤ 20 →
      exec (.sampleSet h n) s = .next (okay (updCtx s h.ctx fun c =>
        { c with sample := some n, sampleAt := s.clock / 2 ^ n }) h)) ∧
    (∀ handle off len q a, Admitted (.record h handle off len q) s → off % 4096 = 0 → len % 4096 = 0 → 16384 ≤ len →
      boundQueue s h.ctx q = true → grantArea s h handle off len = some a → ∃ s', exec (.record h handle off len q) s = .next s' ∧
        s'.recording = s.recording ++ [⟨s.nextId, h, h.ctx, q, a, len / 4096, 3, none, true, []⟩]) ∧
    (∀ handle off q a, Admitted (.replay h handle off q) s → grantArea s h handle off 12288 = some a → off % 4096 = 0 →
      boundQueue s h.ctx q = true → logUsable s h a = true → ∃ s', exec (.replay h handle off q) s = .next s' ∧
        s'.replaying = s.replaying ++ [⟨s.nextId, h, h.ctx, q, a, none, [], [], s.clock⟩]) ∧
    ∀ target off a,
      (Admitted (.coeffRead h target off) s → targetArea s h target off 512 = some a →
        exec (.coeffRead h target off) s = .next (okay (physWrite s a coeffBytes) h)) ∧
      (Admitted (.countRead h target) s → targetArea s h target 0 1088 = some a →
        exec (.countRead h target) s = .next (okay (physWrite s a (countBlocks s)) h)) ∧
      ∀ n t x, Admitted (.accountRead h target off n) s → grantArea s h target off 32 = some a →
        findTenant s h.charter = some t → n < 2 ^ 32 → t.accounts.find? (fun y => decide (y.num = n)) = some x →
        exec (.accountRead h target off n) s = .next (okay (physWrite s a (toBytes 8 n ++ toBytes 8 x.dyn ++
          toBytes 8 x.stat ++ toBytes 8 ((x.dyn + x.stat) % 2 ^ 64))) h)

/-- Where the steps of the module complete (R420, R424, R430, R439, R440, R443, R446, R450, R453, R460, R466, R470, R471,
R476): the next state is the step's own effect. -/
def Sys2Proof.Claims.ModuleStepsComplete : Prop :=
  (∀ (s : State) (ctx : Nat) (c : Context), findCtx s ctx = some c → c.stop = .none →
    exec (.contextStopComplete ctx) s = .next (completeWgs s ctx)) ∧
  (∀ (s : State) (ctx : Nat) (c : Context) (v : VDev), findCtx s ctx = some c → vdOfCtx s ctx = some v →
    closeWaits s c v = false → wantsImage c = false → c.image = none → c.dest = none →
    exec (.imageClose ctx) s = .next (foldList (saveWg v) s ((wgsOf s ctx).filter (needsSave s)))) ∧
  (∀ (s : State) (readings : List Nat), s.power.spanAt + 175000 ≤ s.clock → ∃ s', exec (.spanStart readings) s = .next s' ∧
    s'.power.spanAt = s.power.spanAt + 175000) ∧
  (∀ (s : State) (v : VDev) (vd : Nat), findVd s vd = some v → v.drawing = true →
    ∃ s', exec (.allowanceExhausted vd) s = .next s' ∧ ∃ v', findVd s' vd = some v' ∧ throttledVd v' = true) ∧
  (∀ (s : State) (r : MonitorReading), r.n < (if r.isStack then memStacks else 16) → trips r = true →
    ∃ s', exec (.monitorRead r) s = .next s' ∧ s'.boot.stage = 0 ∧ s'.nv.trip = true) ∧
  (∀ (s : State) (mv us : Nat), mv < 46000 → 1000 ≤ us →
    ∃ s', exec (.inputUndervoltage mv us) s = .next s' ∧ s'.boot.stage = 0 ∧ s'.nv.trip = true) ∧
  (∀ (s : State) (k : SeatKey) (v : BitVec 6) (t : Thread), findSeat s k = some t →
    exec (.uncorrectableError (.register k v)) s = .next (threadError (setThread s (setV t v 0)) t.wg t.tid
      (placeAt s k.cluster 0 0 ((k.core * 512 + k.seat) * 64 + v.toNat) .registers))) ∧
  (∀ (s : State) (rood sub n : Nat) (st : Structure), rood < 16 → n ≠ 0 → subExists st rood sub = true →
    (∃ s', exec (.correctableError rood st sub) s = .next s' ∧
      countOf s'.nv.counts rood (structCode st) = min (countOf s.nv.counts rood (structCode st) + 1) 0xFFFFFFFF) ∧
    ∃ s', exec (.patrolScrub rood st sub n) s = .next s' ∧
      countOf s'.nv.counts rood (structCode st) = min (countOf s.nv.counts rood (structCode st) + n) 0xFFFFFFFF) ∧
  (∀ (s : State) (k : Link) (msg : Option Nat), flitOn s k msg = true → (∀ x ∈ s.links, x.link ≠ k) →
    ∃ s', exec (.flitCrcFailure k msg) s = .next s' ∧ s'.links = ⟨k, msg, 1, false⟩ :: s.links) ∧
  (∀ (s : State) (k : Link), ∃ s', exec (.linkRetrainComplete k) s = .next s' ∧ ∀ x ∈ s'.links, x.link ≠ k) ∧
  (∀ (s : State) (us : List RetireUnit), us ≠ [] →
    (∀ u ∈ us, unitExists u = true ∧ u ∉ s.nv.retired ∧ (limitPassed s u = true ∨ u ∈ s.retiring)) →
    let all := withRoods s (dedup us)
    (∀ u ∈ all, unitClear s u = true) → exec (.retirement us) s = .next (foldList resumeUsers
      (retireUnits { s with retiring := s.retiring.filter fun x => !all.contains x } all) all)) ∧
  (∀ s : State, ∃ s', exec .countCommit s = .next s' ∧ s'.nv.committed = s.nv.counts ∧ s'.nv.commitAt = s.clock) ∧
  (∀ s : State, tickMaster s = true → s.tickAt + 1024 ≤ s.clock → ∃ s', exec .baseTick s = .next s' ∧
    s'.tick = s.tick + 1) ∧
  (∀ (s : State) (n : Nat), s.boot.domid ≠ 0 → s.tick < n → ∃ s', exec (.tickReceive n) s = .next s' ∧ s'.tick = n) ∧
  (∀ (s : State) (ctx n : Nat) (c : Context) (tr : Trace) (v : VDev), findCtx s ctx = some c → c.sample = some n →
    c.trace = some tr → findVd s c.vd = some v → c.sampleAt < s.clock / 2 ^ n →
    exec (.sampleTick ctx) s = .next (foldList (fun s h =>
        foldList (sampleCore ctx ((c.sampleAt + 1) * 2 ^ n) h) s (homeCores (VdShape.isSide v.shape) (VdShape.sideNum v.shape)))
      (updCtx s ctx fun c => { c with sampleAt := c.sampleAt + 1 })
      ((vdHomes s v).filter fun h => tr.clusters.getLsbD h.cluster))) ∧
  (∀ (s : State) (ctx ordinal launch : Nat) (r : Replaying), s.replaying.find? (fun r =>
      decide (r.ctx = ctx) && r.launch.isSome) = some r → r.launch = some launch → deadEntry s r launch ordinal = true →
    exec (.replayDivergence ctx 2 ordinal) s = .next (diverge s r 2 (ordinal % 2 ^ 32))) ∧
  (∀ s : State, exec .coldReset s = .next (moduleReset s) ∧ exec .warmReset s = .next (moduleReset s)) ∧
  (∀ (s : State) (err : Nat) (peers : List PortPeer), 1 ≤ s.boot.stage → s.boot.stage ≤ 3 → err ≠ s.boot.stage →
    exec (.bootStageComplete err peers) s = .next { s with boot := { s.boot with stage := s.boot.stage + 1 } }) ∧
  (∀ (s : State) (port : Nat) (bytes : List Byte), s.boot.stage = 6 → port < 2 →
    exec (.hostTransmit ⟨port, bytes⟩) s = .next (emit s (.frame port bytes))) ∧
  (∀ (s : State) (ctx va : Nat) (p : Page), pageFor s ctx va = some p → p.pinned.isSome = true → pinnedNow s p = false →
    p.state = .device →
    exec (.migrationPinExpiry ctx va) s = .next (updPage s ctx p.va fun p => { p with pinned := none })) ∧
  (∀ (s : State) (ctx va : Nat) (p : Page), pageFor s ctx va = some p → p.state = .toHost →
    (∀ r ∈ s.reqs, goesInto p r = false) → ∃ s', exec (.migrationCopyComplete ctx va) s = .next s' ∧
      s'.mem = (copyPhys s p.pa p.hostPa (2 ^ p.bits)).mem) ∧
  (∀ (s : State) (x : CxlAccess) (p : Page) (bs : List Byte), pageFor s x.ctx x.va = some p → p.migratable = true →
    x.inRun = true → tdispRun s x.ctx = true → x.va + x.size ≤ p.va + 2 ^ p.bits → p.state = .device → x.write = some bs →
    freezeFor s x.ctx x.va x.size (p.pa + (x.va - p.va)) = none →
    exec (.cxlMemAccess x) s = .next (physWrite s (p.pa + (x.va - p.va)) (bs.take x.size))) ∧
  (∀ (s : State) (n : Nat) (m : Module) (linked native : ModuleImage) (ok : Bool), findModule s n = some m →
    m.state = .translating → translated linked native = some ok →
    ∃ s', exec (.moduleTranslationComplete n linked native) s = .next s' ∧ ∃ m', findModule s' n = some m' ∧
      m'.state = (if ok then .ready else .rejected)) ∧
  (∀ (s : State) (v : Nat) (d : VDev) (c : Context), findVd s v = some d → ctxOfVd s v = some c → d.tdisp = .run →
    ∃ s', exec (.functionLevelReset (some v)) s = .next s' ∧ ∃ d', findVd s' v = some d' ∧ d'.tdisp ≠ .run) ∧
  (∀ (s : State) (w : Word), w.toNat < 2 ^ 22 → ∃ s', exec (.domainWordWrite w) s = .next s' ∧
    s'.boot.storedDevnum = w.toNat / 65536 % 64 ∧ s'.boot.storedDomid = w.toNat % 65536) ∧
  (∀ (s : State) (fn off : Nat) (value : Word), off % 4 = 0 → fn < 32 → off + 4 ≤ 16384 →
    ∃ s', exec (.registerWrite fn off value) s = .next s' ∧
      s'.registers.find? (fun r => decide (r.fn = fn) && decide (r.off = off)) = some ⟨fn, off, value⟩) ∧
  (∀ (s : State) (dev : Nat), (∃ r ∈ s.boot.routes, r.dev = dev) → ∃ s', exec (.routeLost dev) s = .next s' ∧
    ∀ r ∈ s'.boot.routes, r.dev ≠ dev) ∧
  (∀ s : State, s.boot.stage = 6 → ∃ s', exec (.ptpMessage ⟨servoPort s, true⟩ 0) s = .next s' ∧
    s'.ptp.lastSync = s.clock) ∧
  (∀ (s : State) (c : Nat), s.ptp.goodSince = some c → s.ptp.locked = false → c + 1750000000 ≤ s.clock →
    ∃ s', exec .ptpLock s = .next s' ∧ s'.ptp.locked = true) ∧
  (∀ s : State, s.ptp.locked = true → s.ptp.lastSync + 7000000000 ≤ s.clock →
    ∃ s', exec .ptpSyncTimeout s = .next s' ∧ s'.ptp.locked = false) ∧
  (∀ (s : State) (vd : Nat) (v : VDev) (x : List Byte), vd ≠ 32 → findVd s vd = some v →
    exec (.spdmVersion vd) s = .next (emit s (.spdm vd 0 (Config.spdm 0 []))) ∧
    exec (.spdmCapabilities vd) s = .next (emit s (.spdm vd 1 (Config.spdm 1 []))) ∧
    exec (.spdmAlgorithms vd) s = .next (emit s (.spdm vd 2 (Config.spdm 2 []))) ∧
    exec (.spdmCertificate vd) s = .next (emit s (.spdm vd 3 (Config.spdm 3 []))) ∧
    exec (.spdmChallenge vd x) s = .next (emit s (.spdm vd 4 (Config.spdm 4 x))) ∧
    (∃ bs, exec (.spdmMeasurements vd x) s = .next (emit s (.spdm vd 5 bs))) ∧
    (∃ s', exec (.spdmKeyExchange vd x) s = .next s' ∧ findVd s' vd = some { v with share := some x }) ∧
    (∀ y, v.share = some y → ∃ s', exec (.spdmFinish vd x) s = .next s' ∧ ∃ v', findVd s' vd = some v' ∧ v'.share = none) ∧
    ∀ m, ∃ s', exec (.tdispMessage vd m) s = .next s' ∧ findVd s' vd = some { v with tdisp := tdispNext v.tdisp m }) ∧
  ∀ (s : State) (f : EthFrame), s.boot.stage = 6 → f.port < 2 → 60 ≤ f.bytes.length → f.bytes.length ≤ 9212 →
    f.goodFcs = false → exec (.frameReceive f) s = .next { s with eth := { s.eth with badFcs := s.eth.badFcs + 1 } }

/-! ### The statements that join several claims -/

/-- Reserved majors are refused, and code that is no instruction takes ILLEGAL_ENCODING: the claims above, together. -/
def Obligations.UndecodableCodeTraps : Prop :=
  Sys2Proof.Claims.ReservedMajorsAreRefused ∧ Sys2Proof.Claims.UndecodableWordsTrap

/-- A step runs the decoded instruction at the slot whose turn it is, and adds only passing time: the claims above, together. -/
def Obligations.StepRunsTheDecodedInstruction : Prop :=
  Sys2Proof.Claims.IssueRunsTheDecodedInstruction ∧ Sys2Proof.Claims.AdvanceOnlyPassesTime

/-- Sums, differences, multiply-adds, immediate addends and shifted indexes wrap at the width: the claims above, together. -/
def Obligations.IntegerAdditionWraps : Prop :=
  Sys2Proof.Claims.AddSubtractMultiplyAddWrap ∧
  Sys2Proof.Claims.AddImmediateIsSignExtended ∧
  Sys2Proof.Claims.LeaAddsAShiftedIndex

/-- Products, minima and maxima, saturating sums, quotients, remainders and dot products: the claims above, together. -/
def Obligations.MultiplicationAndDivision : Prop :=
  Sys2Proof.Claims.MultiplyKeepsTheNamedPart ∧
  Sys2Proof.Claims.MinMaxAbsoluteSaturate ∧
  Sys2Proof.Claims.DivisionTruncatesAndNeverTraps ∧
  Sys2Proof.Claims.DotProductsAddToTheDestination

/-- Bitwise functions, shifts, rotates, bit fields, bit counts and byte selection: the claims above, together. -/
def Obligations.LogicShiftsAndBitFields : Prop :=
  Sys2Proof.Claims.LogicActsBitByBit ∧
  Sys2Proof.Claims.ShiftAmountsAreTakenModuloTheWidth ∧
  Sys2Proof.Claims.BitFieldsAreCutAtBit31 ∧
  Sys2Proof.Claims.BitCountsCountTheBits

/-- Compares, selection, predicate logic, and predicate zero that always reads 1: the claims above, together. -/
def Obligations.ComparesSelectAndPredicates : Prop :=
  Sys2Proof.Claims.IntegerComparesWriteThePredicate ∧
  Sys2Proof.Claims.SelectCopiesOneOfTwoGroups ∧
  Sys2Proof.Claims.PredicateZeroReadsOne ∧
  Sys2Proof.Claims.PredicateLogic

/-- Moves copy their source, uniform moves that of the lowest thread; special registers give the place: the claims above, together. -/
def Obligations.MovesAndSpecialRegisters : Prop :=
  Sys2Proof.Claims.MovesCopyTheirSource ∧
  Sys2Proof.Claims.UniformMovesTakeTheLowestThread ∧
  Sys2Proof.Claims.SpecialRegistersGiveThePlace

/-- Compact forms act as the 32-bit forms; a pair holds its low half first: the claims above, together. -/
def Obligations.CompactFormsAndPairs : Prop :=
  Sys2Proof.Claims.CompactFormsActAsTheLongOnes ∧ Sys2Proof.Claims.PairsHoldTheLowHalfFirst

/-- Floating-point sums, products and fused forms are exact before one rounding: the claims above, together. -/
def Obligations.FloatArithmeticRoundsOnce : Prop :=
  Sys2Proof.Claims.FloatFormsRoundOnce ∧
  Sys2Proof.Claims.SumsAndProductsAreExact ∧
  Sys2Proof.Claims.RepresentableValuesRoundToThemselves

/-- Floating-point minima, maxima, signs and compares, with their NaN rules: the claims above, together. -/
def Obligations.FloatComparesAndMinima : Prop :=
  Sys2Proof.Claims.FloatMinMaxAndSigns ∧ Sys2Proof.Claims.FloatComparesWriteThePredicate

/-- Special functions are pending values; exponent and rounding adjustment: the claims above, together. -/
def Obligations.SpecialFunctionsAndAdjustment : Prop :=
  Sys2Proof.Claims.SpecialFunctionsArePending ∧ Sys2Proof.Claims.ExponentAndRoundingAdjustment

/-- Packed forms act element by element; direct, slot and block conversions: the claims above, together. -/
def Obligations.PackedFormsAndConversions : Prop :=
  Sys2Proof.Claims.PackedFormsActElementByElement ∧
  Sys2Proof.Claims.DirectConversions ∧
  Sys2Proof.Claims.SlotAndBlockConversions

/-- A branch takes its target where its predicate holds and splits the gang; indirect transfers go to safe points: the claims above, together. -/
def Obligations.BranchesAndIndirectTransfers : Prop :=
  Sys2Proof.Claims.BranchesTakeAndSplit ∧ Sys2Proof.Claims.IndirectTransfersGoToSafePoints

/-- Reform files the slot's threads; a collective gathers the block or traps: the claims above, together. -/
def Obligations.CollectivesAndReform : Prop :=
  Sys2Proof.Claims.ReformFilesTheSlot ∧ Sys2Proof.Claims.CollectivesTrapOrGather

/-- An await goes on, ends its segment, or traps; an ingress ring is awaited by its count: the claims above, together. -/
def Obligations.AwaitsGoOnBlockOrTrap : Prop :=
  Sys2Proof.Claims.AwaitForms ∧ Sys2Proof.Claims.IngressAwaits

/-- The end of a segment writes a record; exit leaves the seat; abort kills the launch: the claims above, together. -/
def Obligations.SegmentsEndInRecords : Prop :=
  Sys2Proof.Claims.SegmentEndWritesARecord ∧
  Sys2Proof.Claims.ExitLeavesTheSeat ∧
  Sys2Proof.Claims.AbortKillsTheLaunch

/-- Subgroups, votes, shuffles, reductions and scans over a block: the claims above, together. -/
def Obligations.SubgroupsVotesReductionsAndScans : Prop :=
  Sys2Proof.Claims.PartNamesTheSubgroup ∧
  Sys2Proof.Claims.VotesAndShuffles ∧
  Sys2Proof.Claims.ReductionsAndScans

/-- System instructions, guard slots, and the instructions a role may not issue: the claims above, together. -/
def Obligations.SystemAndGuardInstructions : Prop :=
  Sys2Proof.Claims.SystemInstructions ∧
  Sys2Proof.Claims.GuardInstructions ∧
  Sys2Proof.Claims.RolesForbidFloatingPoint

/-- Taking a trap saves the thread, writes the 64-byte record, and enters the handler where there is one: the claims above, together. -/
def Obligations.TakingATrap : Prop :=
  Sys2Proof.Claims.TakingATrapSavesTheThread ∧
  Sys2Proof.Claims.TrapRecordLayout ∧
  Sys2Proof.Claims.TrapEntryWritesTwoRegisters

/-- Global accesses are checked; a load hits or sends a read; a store fills its line: the claims above, together. -/
def Obligations.GlobalLoadsAndStores : Prop :=
  Sys2Proof.Claims.GlobalAccessesAreChecked ∧
  Sys2Proof.Claims.GlobalLoadsHitOrSend ∧
  Sys2Proof.Claims.GlobalStoresFillTheLine

/-- A far access is sent and answered by its home, of this device or another: the claims above, together. -/
def Obligations.FarAccessesTakeTwoPasses : Prop :=
  Sys2Proof.Claims.FarInstructionsTakeTwoPasses ∧ Sys2Proof.Claims.FarHomesAnswer

/-- Releases, acquires, fences and cache maintenance: the claims above, together. -/
def Obligations.ReleasesFencesAndCacheMaintenance : Prop :=
  Sys2Proof.Claims.ReleasesAcquiresAndFences ∧ Sys2Proof.Claims.CacheMaintenance

/-- Barrier objects count phases; their instructions change them or wait: the claims above, together. -/
def Obligations.BarriersCountPhases : Prop :=
  Sys2Proof.Claims.BarrierObjectsCountPhases ∧
  Sys2Proof.Claims.BarrierInstructionsChangeTheObject ∧
  Sys2Proof.Claims.BarrierWaits

/-- Copy instructions queue a job, ordered after the jobs whose footprints it meets: the claims above, together. -/
def Obligations.CopyInstructionsQueueAJob : Prop :=
  Sys2Proof.Claims.CopyInstructionsCheckAndQueue ∧ Sys2Proof.Claims.QueuedCommandsAreOrderedByTheirFootprints

/-- Matrix instructions queue a command; tile handles and tile status: the claims above, together. -/
def Obligations.MatrixInstructionsQueueACommand : Prop :=
  Sys2Proof.Claims.MatrixInstructionsCheckAndQueue ∧ Sys2Proof.Claims.TileHandlesAndStatus

/-- A post changes the result word; a device launch appends or holds a packet: the claims above, together. -/
def Obligations.PostsAndDeviceLaunches : Prop :=
  Sys2Proof.Claims.PostUpdatesTheResultWord ∧ Sys2Proof.Claims.LnchAppendsAPacket

/-- Coverage marks, samples and targets; skipped points are written and samples compared; the rung moves: the claims above, together. -/
def Obligations.CoverageAndReconstruction : Prop :=
  Sys2Proof.Claims.CoverageInstructions ∧ Sys2Proof.Claims.CoverageSteps

/-- Home slices perform reads and writes in order; the atomic unit performs one operation at a time; slices, routes and seats
have their places: the claims above, together. -/
def Obligations.HomeSlicesAndTheAtomicUnit : Prop :=
  Sys2Proof.Claims.HomeSlicesPerformReadsAndWrites ∧ Sys2Proof.Claims.AtomicUnitPerformsOneOperation ∧
  Sys2Proof.Claims.RoutesStayInTheirRectangle

/-- Peers, windows and acknowledgements; pending results are written to their registers: the claims above, together. -/
def Obligations.MessagesAndPendingResults : Prop :=
  Sys2Proof.Claims.PeersWindowsAndAcknowledgements ∧ Sys2Proof.Claims.PendingResultsAreWritten

/-- Table walks fill the TLB or ask for the page; page requests enter the ring: the claims above, together. -/
def Obligations.TranslationAndPageRequests : Prop :=
  Sys2Proof.Claims.TableWalksFillTheTlb ∧ Sys2Proof.Claims.PageRequestsEnterTheRing

/-- Copy jobs run in pieces; matrix commands take effect all at once: the claims above, together. -/
def Obligations.EngineCommandsRun : Prop :=
  Sys2Proof.Claims.CopyJobsRunInPieces ∧ Sys2Proof.Claims.MatrixCommandsCompleteAtOnce

/-- A gang draw fills a slot with threads of one PC; a block is created in free seats: the claims above, together. -/
def Obligations.GangsAndBlocksAreMade : Prop :=
  Sys2Proof.Claims.GangDrawFillsASlot ∧ Sys2Proof.Claims.BlocksAndSeats

/-- A record drain restores its threads; a log replay performs the logged store: the claims above, together. -/
def Obligations.RecordsDrainAndLogsReplay : Prop :=
  Sys2Proof.Claims.RecordDrainRestoresThreads ∧ Sys2Proof.Claims.LogReplayPerformsTheEntry

/-- Watchdogs fire at their times and not before; timers wake; probe tokens find deadlocks: the claims above, together. -/
def Obligations.WatchdogsTimersAndProbes : Prop :=
  Sys2Proof.Claims.WatchdogsAndTimers ∧ Sys2Proof.Claims.ProbeTokensFindDeadlocks

/-- Doorbells move their counts; packets are judged and taken in turn: the claims above, together. -/
def Obligations.DoorbellsAndIntake : Prop :=
  Sys2Proof.Claims.DoorbellsMoveTheirCounts ∧ Sys2Proof.Claims.PacketsAreJudgedAndTaken

/-- Launches end with a completion record and a ring entry; graphs choose their successors: the claims above, together. -/
def Obligations.LaunchesCompleteAndGraphsGoOn : Prop :=
  Sys2Proof.Claims.LaunchesCompleteIntoTheirRings ∧ Sys2Proof.Claims.GraphsChooseTheirSuccessors

/-- Roods, virtual devices, copy engines, tenants, keys and charters: the claims above, together. -/
def Obligations.PartitionAndTenantCommands : Prop :=
  Sys2Proof.Claims.PartitionCommands ∧ Sys2Proof.Claims.TenantCommands

/-- Power guarantees, spans and allowances; ingress rings and frames: the claims above, together. -/
def Obligations.PowerSharesAndEthernet : Prop :=
  Sys2Proof.Claims.PowerShareAndEthernet ∧ Sys2Proof.Claims.SpansShareTheBudget

/-- Streams and ticks, traces, samples, recordings, replays and the tables: the claims above, together. -/
def Obligations.StreamsTracesAndRecordings : Prop :=
  Sys2Proof.Claims.StreamsFollowTheTicks ∧ Sys2Proof.Claims.TracesRecordingsAndTables

/-- Errors are counted and contained; links retry, on the routes of R10; units are retired within the guarantees: the claims
above, together. -/
def Obligations.ErrorsLinksAndRetirement : Prop :=
  Sys2Proof.Claims.ErrorsAreCountedAndContained ∧ Sys2Proof.Claims.LinksAndRetirement

/-- Reset, boot, routes, the servo, SPDM and TDISP: the claims above, together. -/
def Obligations.ResetBootAndFirmware : Prop :=
  Sys2Proof.Claims.ResetAndBoot ∧ Sys2Proof.Claims.ServoSessionsAndInterfaces

/-- Forms that complete, each with the next state it answers: the ends of threads, the watchdogs, the steps of launches, queues,
messages and the module, and the commands (the claims above); the one-source functions, the exponent and rounding adjustments, and the
word that is no instruction (R90, R128, R140, R142 to R144, R272): with every active thread in the vector role, a function's result is
pending in each of them, an adjustment's is written, and each stands behind the instruction; a word that is no instruction
takes ILLEGAL_ENCODING on every active thread. The values of the functions inside the bounds of R140 are Config's. -/
def Obligations.SpecialFunctionsComplete : Prop :=
  Sys2Proof.Claims.ThreadStepsComplete ∧ Sys2Proof.Claims.LaunchStepsComplete ∧ Sys2Proof.Claims.MessageStepsComplete ∧
  Sys2Proof.Claims.CommandFormsComplete ∧
  Sys2Proof.Claims.ModuleStepsComplete ∧
  PendingFloat (fun w a d m => .frcp ⟨w, a, d, m⟩) rcpPat ∧
  PendingFloat (fun w a d m => .frsq ⟨w, a, d, m⟩) rsqPat ∧
  PendingFloat (fun w a d m => .fsqrt ⟨w, a, d, m⟩) sqrtPat ∧
  PendingWord (fun a d m => .fexp2 ⟨a, d, m⟩) (specialUn 0 exp2Bits) ∧
  PendingWord (fun a d m => .flog2 ⟨a, d, m⟩) (specialUn 1 log2Bits) ∧
  PendingWord (fun a d m => .fsin ⟨a, d, m⟩) (specialUn 2 (trigBits false)) ∧
  PendingWord (fun a d m => .fcos ⟨a, d, m⟩) (specialUn 3 (trigBits true)) ∧
  PendingWord (fun a d m => .ftanh ⟨a, d, m⟩) (fun a => specialUn 4 (fun v n => tanhBits v a.toNat n) a) ∧
  FloatForm (fun w b a d m => .fldexp ⟨w, b, a, d, m⟩) (fun k a b _ => fldexpPat k a b) ∧
  FloatForm (fun w _ a d m => .frndRn ⟨w, a, d, m⟩) (fun k a _ _ => frndPat .rn k a) ∧
  FloatForm (fun w _ a d m => .frndRz ⟨w, a, d, m⟩) (fun k a _ _ => frndPat .rz k a) ∧
  FloatForm (fun w _ a d m => .frndRd ⟨w, a, d, m⟩) (fun k a _ _ => frndPat .rd k a) ∧
  FloatForm (fun w _ a d m => .frndRu ⟨w, a, d, m⟩) (fun k a _ _ => frndPat .ru k a) ∧
  FloatForm (fun w _ a d m => .ffract ⟨w, a, d, m⟩) (fun k a _ _ => ffractPat k a) ∧
  (∀ (a d : BitVec 6) (m : Marks) (s : State), AllVector s →
    EachActive (.fexpof ⟨.x1, a, d, m⟩) 2 m.sw s (fun t => setV t d (fexpofOp 32 (getV t a))) ∧
    EachActive (.fexpof ⟨.x2, a, d, m⟩) 2 m.sw s (fun t => setV2 t d (fexpofOp 64 (getV2 t a)))) ∧
  ∀ (w : BitVec 32) (s : State), exec (.illegalEncoding w) s = .next (takeTrap s (actives s) 1 0 0 w)
end

