-- ==== Sys2Proof/Laws/Bits.lean ====
section
/-! SUPPORT. Facts about the bit fields of an instruction word: which part of a concatenation a field reads, and that the
codes of operand forms, widths and marks read back as what they were written from (R73, R75, R85). -/

namespace Sys2Proof

theorem extract_low {m n : Nat} (x : BitVec m) (y : BitVec n) (s l : Nat) (h : s + l ≤ n) :
    (x ++ y).extractLsb' s l = y.extractLsb' s l := by
  apply BitVec.eq_of_getLsbD_eq
  intro i hi
  simp only [BitVec.getLsbD_extractLsb', BitVec.getLsbD_append, hi, decide_true, Bool.true_and]
  rw [if_pos (by omega)]

theorem extract_high {m n : Nat} (x : BitVec m) (y : BitVec n) (s l : Nat) (h : n ≤ s) :
    (x ++ y).extractLsb' s l = x.extractLsb' (s - n) l := by
  apply BitVec.eq_of_getLsbD_eq
  intro i hi
  simp only [BitVec.getLsbD_extractLsb', BitVec.getLsbD_append, hi, decide_true, Bool.true_and]
  rw [if_neg (by omega), show s + i - n = s - n + i by omega]

theorem extract_all {n : Nat} (x : BitVec n) : x.extractLsb' 0 n = x := by
  apply BitVec.eq_of_getLsbD_eq
  intro i hi
  simp [hi]

@[simp] theorem Width.ofCode_code (w : Width) : Width.ofCode w.code = w := by cases w <;> rfl

@[simp] theorem BSrc.ofCode_code (b : BSrc) : BSrc.ofCode b.code = b := by
  cases b with
  | reg r => revert r; decide
  | unif r => revert r; decide
  | imm r => revert r; decide

theorem marks_of (x : BitVec 23) (op : BitVec 6) (m : Marks) : marks (x ++ low op m) = m := by
  cases m with
  | mk a b =>
    have h2 : (x ++ low op ⟨a, b⟩).getLsbD 2 = a := by
      cases a <;> cases b <;> simp only [low, bit, BitVec.getLsbD_append] <;> simp
    have h1 : (x ++ low op ⟨a, b⟩).getLsbD 1 = b := by
      cases a <;> cases b <;> simp only [low, bit, BitVec.getLsbD_append] <;> simp
    simp only [marks, h2, h1]

end Sys2Proof
end

