-- ==== Sys2Proof/Laws/Gang.lean ====
section
/-! SUPPORT. What the gang engine does with the fates of one issue: a gang of one thread that goes on, branches, traps,
ends its segment or exits, and a gang whose threads all go on. -/
namespace Sys2Proof.Machine

theorem updWhere_id {α : Type} (p : α → Bool) (f : α → α) (l : List α) (h : ∀ x ∈ l, p x = true → f x = x) :
    updWhere p f l = l := by
  induction l with
  | nil => rfl
  | cons x xs ih =>
    simp only [updWhere, List.map_cons] at ih ⊢
    rw [ih fun y hy => h y (List.mem_cons_of_mem _ hy)]
    by_cases hp : p x = true
    · simp [hp, h x List.mem_cons_self hp]
    · simp [hp]

theorem updWhere_congr {α : Type} (p q : α → Bool) (f : α → α) (l : List α) (h : ∀ x ∈ l, p x = q x) :
    updWhere p f l = updWhere q f l := by
  simp only [updWhere]
  exact List.map_congr_left fun x hx => by rw [h x hx]

theorem foldList_id {α σ : Type} (f : σ → α → σ) (s : σ) (xs : List α) (h : ∀ s x, x ∈ xs → f s x = s) :
    foldList f s xs = s := by
  induction xs with
  | nil => rfl
  | cons x xs ih =>
    simp only [foldList]
    rw [h s x List.mem_cons_self]
    exact ih fun s y hy => h s y (List.mem_cons_of_mem _ hy)

theorem foldList_append {α σ : Type} (f : σ → α → σ) (s : σ) (xs ys : List α) :
    foldList f s (xs ++ ys) = foldList f (foldList f s xs) ys := by
  induction xs generalizing s with
  | nil => rfl
  | cons x xs ih => exact ih (f s x)

/-- Storing the thread that already is the only one of its name changes nothing. -/
theorem setThread_self (s : State) (t : Thread) (h : ∀ u ∈ s.threads, u.wg = t.wg → u.tid = t.tid → u = t) :
    setThread s t = s := by
  have e : updWhere (fun u => decide (u.wg = t.wg) && decide (u.tid = t.tid)) (fun _ => t) s.threads = s.threads :=
    updWhere_id _ _ _ fun u hu hp => by
      simp only [Bool.and_eq_true, decide_eq_true_eq] at hp
      exact (h u hu hp.1 hp.2).symm
  simp only [setThread, updThread, e]

theorem minByKey_mem {α : Type} {key : α → Nat} {l : List α} {x : α} (h : minByKey key l = some x) : x ∈ l := by
  induction l generalizing x with
  | nil => simp [minByKey] at h
  | cons y ys ih =>
    simp only [minByKey] at h
    split at h
    · simp_all
    · rename_i z hz
      split at h
      · have := Option.some.inj h; subst this; exact List.mem_cons_self
      · have := Option.some.inj h; subst this; exact List.mem_cons_of_mem _ (ih hz)

/-- With members at one PC a slot is not split. -/
theorem splitSlot_same (s : State) (k : SlotKey) (pc : Nat)
    (h : ∀ u ∈ s.threads, inRunning k u = true → u.pc = pc) : splitSlot s k = s := by
  unfold splitSlot
  split
  · rfl
  · rename_i t0 h0
    have h1 : t0.pc = pc := by
      have := minByKey_mem h0
      exact h t0 (List.mem_filter.mp this).1 (List.mem_filter.mp this).2
    rw [if_neg]
    simp only [List.any_eq_true, not_exists, not_and, Bool.and_eq_true, Bool.not_eq_true', decide_eq_false_iff_not]
    intro u hu hr hne
    exact hne ((h u hu hr).trans h1.symm)

/-- A slot with a running fragment is settled. -/
theorem settleSlot_running (s : State) (k : SlotKey) (h : s.threads.any (inRunning k) = true) : settleSlot s k = s := by
  have h' : (s.threads.any fun t => inRunning k t || inEnding k t) = true := by
    obtain ⟨t, ht, hr⟩ := List.any_eq_true.mp h
    exact List.any_eq_true.mpr ⟨t, ht, by simp [hr]⟩
  simp only [settleSlot, h', if_true]

theorem settleTurn_running (s : State) (h : ∀ k, s.turn = some k → s.threads.any (inRunning k) = true) :
    settleTurn s = s := by
  unfold settleTurn
  split
  · rename_i k hk
    exact settleSlot_running s k (h k hk)
  · rfl

theorem splitTurn_same (s : State) (pc : Nat)
    (h : ∀ k, s.turn = some k → ∀ u ∈ s.threads, inRunning k u = true → u.pc = pc) :
    splitTurn s = s := by
  unfold splitTurn
  split
  · rename_i k hk
    exact splitSlot_same s k pc (h k hk)
  · rfl

theorem traceEnds_nil (s : State) (w : Nat) : traceEnds s [] w = s := rfl

/-- With no thread that blocks there is no trace record of ends. -/
theorem traceEnds_fold (s : State) (rs : List (Thread × Fate)) (h : ∀ w, blockedWith w rs = []) :
    foldList (fun s w => traceEnds s (blockedWith w rs) w) s (List.range 10) = s :=
  foldList_id _ _ _ fun s w _ => by rw [h w]; rfl

/-- Members of a slot that all have one name stand at one PC once that thread is stored. -/
theorem running_after_set (s1 : State) (t' : Thread) (k : SlotKey)
    (honly : ∀ u ∈ s1.threads, inRunning k u = true → u.wg = t'.wg ∧ u.tid = t'.tid) :
    ∀ u ∈ ((setThread s1 t').threads.filter (inRunning k)), u = t' := by
  intro u hu
  simp only [setThread, updThread, updWhere, List.mem_filter, List.mem_map] at hu
  obtain ⟨⟨x, hx, rfl⟩, hr⟩ := hu
  by_cases hp : (decide (x.wg = t'.wg) && decide (x.tid = t'.tid)) = true
  · simp [hp]
  · simp only [hp] at hr ⊢
    have := honly x hx hr
    simp [this] at hp

theorem splitTurn_after_set (s1 : State) (t' : Thread) (k : SlotKey) (hk : s1.turn = some k)
    (honly : ∀ u ∈ s1.threads, inRunning k u = true → u.wg = t'.wg ∧ u.tid = t'.tid) :
    splitTurn (setThread s1 t') = setThread s1 t' := by
  apply splitTurn_same _ t'.pc
  intro k' hk'
  have e : k' = k := by
    have : s1.turn = some k' := hk'
    rw [hk] at this
    exact (Option.some.inj this).symm
  subst e
  intro u hu hr
  rw [running_after_set s1 t' k' honly u (List.mem_filter.mpr ⟨hu, hr⟩)]

theorem settleTurn_after_set (s1 : State) (t' : Thread) (k : SlotKey) (hk : s1.turn = some k)
    (hmem : ∃ u ∈ s1.threads, u.wg = t'.wg ∧ u.tid = t'.tid) (hrun : inRunning k t' = true) :
    settleTurn (setThread s1 t') = setThread s1 t' := by
  apply settleTurn_running
  intro k' hk'
  have e : k' = k := by
    have : s1.turn = some k' := hk'
    rw [hk] at this
    exact (Option.some.inj this).symm
  subst e
  obtain ⟨u, hu, h1, h2⟩ := hmem
  apply List.any_eq_true.mpr
  refine ⟨t', ?_, hrun⟩
  simp only [setThread, updThread, updWhere, List.mem_map]
  exact ⟨u, hu, by simp [h1, h2]⟩

/-- A gang of one thread that goes on: the thread is stored as the body leaves it, retired. -/
theorem perThread_one_next (i : Instr) (sw : Bool) (body : State → Thread → State × Thread × Fate) (s s1 : State)
    (t t1 : Thread) (k : SlotKey) (ha : actives s = [t]) (hb : body s t = (s1, t1, .next)) (hk : s1.turn = some k)
    (hmem : ∃ u ∈ s1.threads, u.wg = t1.wg ∧ u.tid = t1.tid)
    (honly : ∀ u ∈ s1.threads, inRunning k u = true → u.wg = t1.wg ∧ u.tid = t1.tid) (hrun : inRunning k t1 = true) :
    perThread i sw body s = .next (setThread s1 (retire (lengthOf i) sw t1)) := by
  simp only [perThread, ha, runThreads, hb]
  simp only [applyFates, foldList, applyGoing, firstTrap, forbidden, lowestTrap, List.any_cons, List.any_nil, Bool.or_false, Bool.false_eq_true,
    applyLeaving, goesOn, if_true, if_false]
  rw [traceEnds_fold _ _ fun _ => rfl, splitTurn_after_set s1 (retire (lengthOf i) sw t1) k hk honly]
  rw [settleTurn_after_set s1 (retire (lengthOf i) sw t1) k hk hmem hrun]

/-- A gang of one thread that goes on elsewhere. -/
theorem perThread_one_goto (i : Instr) (sw : Bool) (body : State → Thread → State × Thread × Fate) (s s1 : State)
    (t t1 : Thread) (k : SlotKey) (pc : Nat) (ha : actives s = [t]) (hb : body s t = (s1, t1, .goto pc))
    (hk : s1.turn = some k) (hmem : ∃ u ∈ s1.threads, u.wg = t1.wg ∧ u.tid = t1.tid)
    (honly : ∀ u ∈ s1.threads, inRunning k u = true → u.wg = t1.wg ∧ u.tid = t1.tid) (hrun : inRunning k t1 = true) :
    perThread i sw body s = .next (setThread s1 (retireTo pc sw t1)) := by
  simp only [perThread, ha, runThreads, hb]
  simp only [applyFates, foldList, applyGoing, firstTrap, forbidden, lowestTrap, List.any_cons, List.any_nil, Bool.or_false, Bool.false_eq_true,
    applyLeaving, goesOn, if_true, if_false]
  rw [traceEnds_fold _ _ fun _ => rfl, splitTurn_after_set s1 (retireTo pc sw t1) k hk honly]
  rw [settleTurn_after_set s1 (retireTo pc sw t1) k hk hmem hrun]

/-- A gang of one thread whose instruction enters its operand log. -/
theorem perThread_one_logged (i : Instr) (sw : Bool) (body : State → Thread → State × Thread × Fate) (s s1 : State)
    (t t1 : Thread) (k : SlotKey) (e : LogEntry) (ha : actives s = [t]) (hb : body s t = (s1, t1, .logged e))
    (hk : s1.turn = some k) (hmem : ∃ u ∈ s1.threads, u.wg = t1.wg ∧ u.tid = t1.tid)
    (honly : ∀ u ∈ s1.threads, inRunning k u = true → u.wg = t1.wg ∧ u.tid = t1.tid) (hrun : inRunning k t1 = true) :
    perThread i sw body s = .next (setThread s1 { retire (lengthOf i) sw t1 with log := some e }) := by
  simp only [perThread, ha, runThreads, hb]
  simp only [applyFates, foldList, applyGoing, firstTrap, forbidden, lowestTrap, List.any_cons, List.any_nil, Bool.or_false, Bool.false_eq_true,
    applyLeaving, goesOn, if_true, if_false]
  rw [traceEnds_fold _ _ fun _ => rfl,
    splitTurn_after_set s1 { retire (lengthOf i) sw t1 with log := some e } k hk honly]
  rw [settleTurn_after_set s1 { retire (lengthOf i) sw t1 with log := some e } k hk hmem hrun]

/-- The one trap of an issue of one thread; ILLEGAL_ISSUE has no code and no detail. -/
theorem firstTrap_one_trap (t : Thread) (c code : Nat) (d : BitVec 64) (h : c = 2 → code = 0 ∧ d = 0) :
    firstTrap [(t, .trap c code d)] = some (c, code, d) := by
  by_cases hc : c = 2
  · obtain ⟨h1, h2⟩ := h hc
    subst hc h1 h2
    rfl
  · simp [firstTrap, forbidden, lowestTrap, hc]

/-- A gang of one thread that traps: the shared trap operation on it, then its slot. -/
theorem perThread_one_trap (i : Instr) (sw : Bool) (body : State → Thread → State × Thread × Fate) (s s1 : State)
    (t t1 : Thread) (c code : Nat) (d : BitVec 64) (hc : c = 2 → code = 0 ∧ d = 0) (ha : actives s = [t])
    (hb : body s t = (s1, t1, .trap c code d)) :
    perThread i sw body s = .next (settleTurn (takeTrap (setThread s1 t1) [t1] c code d (wordOf i))) := by
  simp only [perThread, ha, runThreads, hb]
  simp only [applyFates, foldList, applyGoing, firstTrap_one_trap t1 c code d hc, trapped, applyLeaving, goesOn]
  rw [traceEnds_fold _ _ fun _ => rfl]
  rfl

/-- The one trace record of ends that an issue of one blocking thread writes. -/
theorem traceEnds_one (s : State) (t : Thread) (wake operand : Nat) (q : Bool) (hw : wake < 10) :
    foldList (fun s w => traceEnds s (blockedWith w [(t, Fate.block wake operand q)]) w) s (List.range 10) =
      traceEnds s [t] wake := by
  have split : List.range 10 = List.range wake ++ wake :: (List.range (9 - wake)).map (wake + 1 + ·) := by
    interval_cases wake <;> rfl
  rw [split, foldList_append]
  have other : ∀ (s : State) (w : Nat), w ≠ wake →
      traceEnds s (blockedWith w [(t, Fate.block wake operand q)]) w = s := by
    intro s w hne
    have : wake ≠ w := fun h => hne h.symm
    simp [blockedWith, this, traceEnds]
  rw [foldList_id _ s _ fun s w hm => other s w (by have := List.mem_range.mp hm; omega)]
  simp only [foldList]
  rw [foldList_id _ _ _ fun s w hm => other s w (by obtain ⟨x, _, rfl⟩ := List.mem_map.mp hm; omega)]
  simp [blockedWith]

@[simp] theorem vwrite_threads (s : State) (ctx va : Nat) (bs : List Byte) : (vwrite s ctx va bs).threads = s.threads := by
  unfold vwrite; split <;> rfl
@[simp] theorem physWrite_threads (s : State) (pa : Nat) (bs : List Byte) : (physWrite s pa bs).threads = s.threads := rfl
@[simp] theorem ringPut_threads (s : State) (base index rlog prod drops : Nat) (bs : List Byte) :
    (ringPut s base index rlog prod drops bs).1.threads = s.threads := by
  unfold ringPut; split <;> rfl
@[simp] theorem tracePut_threads (s : State) (ctx : Nat) (bs : List Byte) : (tracePut s ctx bs).threads = s.threads := by
  unfold tracePut
  split
  · rfl
  · split
    · rfl
    · simp [updCtx]
theorem foldList_threads {α : Type} (f : State → α → State) (h : ∀ s x, (f s x).threads = s.threads) (s : State) (xs : List α) :
    (foldList f s xs).threads = s.threads := by
  induction xs generalizing s with
  | nil => rfl
  | cons x xs ih => rw [foldList, ih, h]
@[simp] theorem sampleCore_threads (ctx clock : Nat) (h : Home) (s : State) (core : Nat) :
    (sampleCore ctx clock h s core).threads = s.threads := by
  show (tracePut _ _ _).threads = s.threads
  rw [tracePut_threads]
  rfl
@[simp] theorem takeSample_threads (s : State) (ctx : Nat) : (takeSample s ctx).threads = s.threads := by
  unfold takeSample
  split
  · rfl
  · split
    · rw [foldList_threads _ fun s h => foldList_threads _ (fun s c => by simp) s _]
      rfl
    · rfl
@[simp] theorem takeSamples_threads (s : State) (ctx : Nat) : (takeSamples s ctx).threads = s.threads := by
  unfold takeSamples
  generalize List.range (samplesDue s ctx) = xs
  induction xs generalizing s with
  | nil => rfl
  | cons x xs ih => rw [List.foldl_cons, ih, takeSample_threads]
@[simp] theorem traceEvent_threads (s : State) (g : Workgroup) (kind detail : Nat) (ord parent mask : Word) :
    (traceEvent s g kind detail ord parent mask).threads = s.threads := by
  unfold traceEvent
  split
  · rfl
  · split
    · rfl
    · split
      · simp
      · rfl
@[simp] theorem traceEndsAt_threads (s : State) (ts : List Thread) (w : Nat) (ord : Word) :
    (traceEndsAt s ts w ord).threads = s.threads := by
  unfold traceEndsAt
  split
  · rfl
  · simp only
    split
    · simp
    · rfl
@[simp] theorem traceEnds_threads (s : State) (ts : List Thread) (w : Nat) : (traceEnds s ts w).threads = s.threads := by
  unfold traceEnds
  split
  · rfl
  · simp

/-- A gang of one thread whose segment ends with a wake code. -/
theorem perThread_one_block (i : Instr) (sw : Bool) (body : State → Thread → State × Thread × Fate) (s s1 : State)
    (t t1 : Thread) (wake operand : Nat) (q : Bool) (ha : actives s = [t])
    (hb : body s t = (s1, t1, .block wake operand q)) (hw : wake < 10)
    (hmem : ∃ u ∈ s1.threads, u.wg = t1.wg ∧ u.tid = t1.tid) :
    perThread i sw body s =
      .next (settleTurn (endSegment (traceEnds (setThread s1 t1) [t1] wake) t1
        (endAt (traceEnds (setThread s1 t1) [t1] wake) t1 wake operand q))) := by
  simp only [perThread, ha, runThreads, hb]
  simp only [applyFates, foldList, applyGoing, firstTrap, forbidden, lowestTrap, List.any_cons, List.any_nil, Bool.or_false,
    Bool.false_eq_true, if_false, goesOn]
  rw [traceEnds_one _ _ _ _ _ hw]
  have found : (findThread (traceEnds (setThread s1 t1) [t1] wake) t1.wg t1.tid).isSome = true := by
    obtain ⟨u, hu, h1, h2⟩ := hmem
    simp only [findThread, traceEnds_threads, List.find?_isSome]
    refine ⟨t1, ?_, by simp⟩
    simp only [setThread, updThread, updWhere, List.mem_map]
    exact ⟨u, hu, by simp [h1, h2]⟩
  simp [applyLeaving, found]

/-- A gang of one thread that exits. -/
theorem perThread_one_exit (i : Instr) (sw : Bool) (body : State → Thread → State × Thread × Fate) (s s1 : State)
    (t t1 : Thread) (ha : actives s = [t]) (hb : body s t = (s1, t1, .exit))
    (hmem : ∃ u ∈ s1.threads, u.wg = t1.wg ∧ u.tid = t1.tid) :
    perThread i sw body s = .next (settleTurn (beginExit (setThread s1 t1) t1)) := by
  simp only [perThread, ha, runThreads, hb]
  simp only [applyFates, foldList, applyGoing, firstTrap, forbidden, lowestTrap, List.any_cons, List.any_nil, Bool.or_false,
    Bool.false_eq_true, if_false, goesOn]
  rw [traceEnds_fold _ _ fun _ => rfl]
  have found : (findThread (setThread s1 t1) t1.wg t1.tid).isSome = true := by
    obtain ⟨u, hu, h1, h2⟩ := hmem
    simp only [findThread, List.find?_isSome]
    refine ⟨t1, ?_, by simp⟩
    simp only [setThread, updThread, updWhere, List.mem_map]
    exact ⟨u, hu, by simp [h1, h2]⟩
  simp [applyLeaving, found]

/-- The one active thread stands in the slot whose turn it is, and every running member of that slot is it. -/
theorem active_one (s : State) (t : Thread) (ha : actives s = [t]) :
    ∃ k, s.turn = some k ∧ t ∈ s.threads ∧ inRunning k t = true ∧ ∀ u ∈ s.threads, inRunning k u = true → u = t := by
  have ht : t ∈ actives s := by rw [ha]; exact List.mem_singleton.mpr rfl
  simp only [actives, List.mem_filter] at ht
  obtain ⟨h1, h2⟩ := ht
  unfold isActive at h2
  cases hk : s.turn with
  | none => simp [hk] at h2
  | some k =>
    simp only [hk] at h2
    refine ⟨k, rfl, h1, h2, fun u hu hr => ?_⟩
    have : u ∈ actives s := by
      simp only [actives, List.mem_filter]
      exact ⟨hu, by simp only [isActive, hk]; exact hr⟩
    rw [ha] at this
    exact List.mem_singleton.mp this

/-- The body keeps the threads, the turn and the thread's own name and seat. -/
structure KeepsGang (s s1 : State) (t t1 : Thread) : Prop where
  threads : s1.threads = s.threads
  turn : s1.turn = s.turn
  wg : t1.wg = t.wg
  tid : t1.tid = t.tid
  place : t1.place = t.place
  seat : t1.seat = t.seat

theorem inRunning_congr {k : SlotKey} {t t1 : Thread} (hp : t1.place = t.place) (hs : t1.seat = t.seat) :
    inRunning k t1 = inRunning k t := by simp only [inRunning, hp, hs]

section
variable {i : Instr} {sw : Bool} {body : State → Thread → State × Thread × Fate} {s s1 : State} {t t1 : Thread}

theorem one_goes_on (ha : actives s = [t]) (hb : body s t = (s1, t1, .next)) (h : KeepsGang s s1 t t1) :
    perThread i sw body s = .next (setThread s1 (retire (lengthOf i) sw t1)) := by
  obtain ⟨k, hk, hm, hr, ho⟩ := active_one s t ha
  refine perThread_one_next i sw body s s1 t t1 k ha hb (h.turn.trans hk) ?_ ?_ ?_
  · exact ⟨t, h.threads ▸ hm, h.wg.symm, h.tid.symm⟩
  · intro u hu hru
    rw [h.threads] at hu
    rw [ho u hu hru]
    exact ⟨h.wg.symm, h.tid.symm⟩
  · rw [inRunning_congr h.place h.seat]; exact hr

theorem one_goes_to {pc : Nat} (ha : actives s = [t]) (hb : body s t = (s1, t1, .goto pc)) (h : KeepsGang s s1 t t1) :
    perThread i sw body s = .next (setThread s1 (retireTo pc sw t1)) := by
  obtain ⟨k, hk, hm, hr, ho⟩ := active_one s t ha
  refine perThread_one_goto i sw body s s1 t t1 k pc ha hb (h.turn.trans hk) ?_ ?_ ?_
  · exact ⟨t, h.threads ▸ hm, h.wg.symm, h.tid.symm⟩
  · intro u hu hru
    rw [h.threads] at hu
    rw [ho u hu hru]
    exact ⟨h.wg.symm, h.tid.symm⟩
  · rw [inRunning_congr h.place h.seat]; exact hr

theorem one_is_logged {e : LogEntry} (ha : actives s = [t]) (hb : body s t = (s1, t1, .logged e))
    (h : KeepsGang s s1 t t1) :
    perThread i sw body s = .next (setThread s1 { retire (lengthOf i) sw t1 with log := some e }) := by
  obtain ⟨k, hk, hm, hr, ho⟩ := active_one s t ha
  refine perThread_one_logged i sw body s s1 t t1 k e ha hb (h.turn.trans hk) ?_ ?_ ?_
  · exact ⟨t, h.threads ▸ hm, h.wg.symm, h.tid.symm⟩
  · intro u hu hru
    rw [h.threads] at hu
    rw [ho u hu hru]
    exact ⟨h.wg.symm, h.tid.symm⟩
  · rw [inRunning_congr h.place h.seat]; exact hr

theorem one_traps {c code : Nat} {d : BitVec 64} (hc : c = 2 → code = 0 ∧ d = 0) (ha : actives s = [t])
    (hu : ∀ u ∈ s.threads, u.wg = t.wg → u.tid = t.tid → u = t) (hb : body s t = (s, t, .trap c code d)) :
    perThread i sw body s = .next (settleTurn (takeTrap s [t] c code d (wordOf i))) := by
  rw [perThread_one_trap i sw body s s t t c code d hc ha hb, setThread_self s t hu]

theorem one_blocks {wake operand : Nat} {q : Bool} (ha : actives s = [t])
    (hb : body s t = (s1, t1, .block wake operand q)) (hw : wake < 10) (h : KeepsGang s s1 t t1) :
    perThread i sw body s =
      .next (settleTurn (endSegment (traceEnds (setThread s1 t1) [t1] wake) t1
        (endAt (traceEnds (setThread s1 t1) [t1] wake) t1 wake operand q))) := by
  obtain ⟨_, _, hm, _, _⟩ := active_one s t ha
  exact perThread_one_block i sw body s s1 t t1 wake operand q ha hb hw
    ⟨t, h.threads ▸ hm, h.wg.symm, h.tid.symm⟩

theorem one_exits (ha : actives s = [t]) (hb : body s t = (s1, t1, .exit)) (h : KeepsGang s s1 t t1) :
    perThread i sw body s = .next (settleTurn (beginExit (setThread s1 t1) t1)) := by
  obtain ⟨_, _, hm, _, _⟩ := active_one s t ha
  exact perThread_one_exit i sw body s s1 t t1 ha hb
    ⟨t, h.threads ▸ hm, h.wg.symm, h.tid.symm⟩

end

/-! ### A gang whose threads all go on -/

/-- Bodies that leave the state alone run side by side. -/
theorem runThreads_pure (body : State → Thread → State × Thread × Fate) (f : Thread → Thread) (s : State)
    (ts : List Thread) (h : ∀ t ∈ ts, body s t = (s, f t, .next)) :
    runThreads body s ts = (s, ts.map fun t => (f t, Fate.next)) := by
  induction ts with
  | nil => rfl
  | cons t ts ih =>
    simp only [runThreads, h t List.mem_cons_self, List.map_cons]
    rw [ih fun u hu => h u (List.mem_cons_of_mem _ hu)]

/-- Storing threads one after another, each over its old self, is one update of the list. -/
theorem setThreads_fold (s : State) (ts : List Thread) (g : Thread → Thread)
    (hid : ∀ t, (g t).wg = t.wg ∧ (g t).tid = t.tid) (hnd : (ts.map fun t => (t.wg, t.tid)).Nodup)
    (hu : ∀ t ∈ ts, ∀ u ∈ s.threads, u.wg = t.wg → u.tid = t.tid → u = t) :
    foldList (fun s t => setThread s (g t)) s ts =
      { s with threads := s.threads.map fun u => if u ∈ ts then g u else u } := by
  induction ts generalizing s with
  | nil => simp [foldList]
  | cons t ts ih =>
    simp only [foldList]
    have hnd' : (ts.map fun t => (t.wg, t.tid)).Nodup := (List.nodup_cons.mp hnd).2
    have hnot : ∀ v ∈ ts, ¬ (v.wg = t.wg ∧ v.tid = t.tid) := by
      intro v hv he
      apply (List.nodup_cons.mp hnd).1
      exact List.mem_map.mpr ⟨v, hv, by simp [he.1, he.2]⟩
    have e : setThread s (g t) = { s with threads := s.threads.map fun u => if u = t then g t else u } := by
      simp only [setThread, updThread, updWhere, (hid t).1, (hid t).2]
      congr 1
      apply List.map_congr_left
      intro u hu'
      by_cases hut : u = t
      · subst hut; simp
      · have : ¬ (u.wg = t.wg ∧ u.tid = t.tid) := fun he => hut (hu t List.mem_cons_self u hu' he.1 he.2)
        by_cases h1 : u.wg = t.wg
        · have h2 : u.tid ≠ t.tid := fun h2 => this ⟨h1, h2⟩
          simp [h2, hut]
        · simp [h1, hut]
    rw [e, ih _ hnd']
    · simp only [List.map_map]
      congr 1
      apply List.map_congr_left
      intro u hu'
      simp only [Function.comp_apply]
      by_cases hut : u = t
      · subst hut
        have : g u ∉ ts := fun hm => hnot _ hm ⟨(hid u).1, (hid u).2⟩
        simp [this]
      · simp [hut]
    · intro v hv u hu' h1 h2
      obtain ⟨x, hx, rfl⟩ := List.mem_map.mp hu'
      by_cases hxt : x = t
      · subst hxt
        simp only [if_true] at h1 h2
        exact absurd ⟨h1.symm.trans (hid x).1, h2.symm.trans (hid x).2⟩ (hnot v hv)
      · simp only [hxt, if_false] at h1 h2 ⊢
        exact hu v (List.mem_cons_of_mem _ hv) x hx h1 h2

/-- A gang at one PC all of whose threads go on, their bodies changing only their own registers, is the plain change of
each active thread. -/
theorem perThread_map (i : Instr) (sw : Bool) (body : State → Thread → State × Thread × Fate) (f : Thread → Thread)
    (s : State) (hne : actives s ≠ []) (hpc : ∀ t ∈ actives s, ∀ u ∈ actives s, t.pc = u.pc)
    (hnd : (s.threads.map fun t => (t.wg, t.tid)).Nodup)
    (hf : ∀ t, (f t).wg = t.wg ∧ (f t).tid = t.tid ∧ (f t).place = t.place ∧ (f t).seat = t.seat ∧ (f t).pc = t.pc)
    (hb : ∀ t ∈ actives s, body s t = (s, f t, .next)) :
    perThread i sw body s = .next (mapActive (lengthOf i) sw f s) := by
  have hinj : ∀ t ∈ s.threads, ∀ u ∈ s.threads, u.wg = t.wg → u.tid = t.tid → u = t := by
    intro t ht u hu h1 h2
    exact List.inj_on_of_nodup_map hnd hu ht (by simp [h1, h2])
  have hsub : ∀ t ∈ actives s, t ∈ s.threads := fun t ht => (List.mem_filter.mp ht).1
  have hfold : foldList (applyGoing (lengthOf i) sw) s ((actives s).map fun t => (f t, Fate.next)) =
      mapActive (lengthOf i) sw f s := by
    have e1 : ∀ (ts : List Thread) (s : State),
        foldList (applyGoing (lengthOf i) sw) s (ts.map fun t => (f t, Fate.next)) =
          foldList (fun s t => setThread s (retire (lengthOf i) sw (f t))) s ts := by
      intro ts
      induction ts with
      | nil => intro s; rfl
      | cons t ts ih => intro s; simp only [List.map_cons, foldList, applyGoing]; exact ih _
    rw [e1, setThreads_fold s (actives s) (fun t => retire (lengthOf i) sw (f t))]
    · simp only [mapActive, updWhere]
      congr 1
      apply List.map_congr_left
      intro u hu
      by_cases ha : isActive s u = true
      · have : u ∈ actives s := List.mem_filter.mpr ⟨hu, ha⟩
        simp [this, ha]
      · have : u ∉ actives s := fun h => ha (List.mem_filter.mp h).2
        simp [this, ha]
    · intro t; exact ⟨(hf t).1, (hf t).2.1⟩
    · exact (List.Nodup.sublist (List.Sublist.map _ List.filter_sublist) hnd)
    · intro t ht u hu; exact hinj t (hsub t ht) u hu
  simp only [perThread, runThreads_pure body f s _ hb, applyFates, hfold]
  obtain ⟨t0, ht0⟩ := List.exists_mem_of_ne_nil _ hne
  have hturn : ∃ k, s.turn = some k := by
    have := (List.mem_filter.mp ht0).2
    unfold isActive at this
    cases hk : s.turn with
    | none => simp [hk] at this
    | some k => exact ⟨k, rfl⟩
  obtain ⟨k, hk⟩ := hturn
  have hact : ∀ u, isActive s u = inRunning k u := by intro u; simp only [isActive, hk]
  have hrun : ∀ u ∈ (mapActive (lengthOf i) sw f s).threads, inRunning k u = true → u.pc = t0.pc + lengthOf i := by
    intro u hu hr
    simp only [mapActive, updWhere, List.mem_map] at hu
    obtain ⟨x, hx, rfl⟩ := hu
    by_cases ha : isActive s x = true
    · simp only [ha, if_true]
      have hx' : x ∈ actives s := List.mem_filter.mpr ⟨hx, ha⟩
      simp only [retire, (hf x).2.2.2.2, hpc x hx' t0 ht0]
    · simp only [ha] at hr
      rw [hact] at ha
      exact absurd hr ha
  have hsplit : splitTurn (mapActive (lengthOf i) sw f s) = mapActive (lengthOf i) sw f s := by
    apply splitTurn_same _ (t0.pc + lengthOf i)
    intro k' hk'
    have e : k' = k := by
      have : s.turn = some k' := hk'
      rw [hk] at this
      exact (Option.some.inj this).symm
    subst e
    exact hrun
  have hsettle : settleTurn (mapActive (lengthOf i) sw f s) = mapActive (lengthOf i) sw f s := by
    apply settleTurn_running
    intro k' hk'
    have e : k' = k := by
      have : s.turn = some k' := hk'
      rw [hk] at this
      exact (Option.some.inj this).symm
    subst e
    apply List.any_eq_true.mpr
    have h0 := List.mem_filter.mp ht0
    refine ⟨retire (lengthOf i) sw (f t0), ?_, ?_⟩
    · simp only [mapActive, updWhere, List.mem_map]
      exact ⟨t0, h0.1, by simp [h0.2]⟩
    · have : inRunning k' (retire (lengthOf i) sw (f t0)) = inRunning k' t0 :=
        inRunning_congr (hf t0).2.2.1 (hf t0).2.2.2.1
      rw [this, ← hact]
      exact h0.2
  have hfirst : ∀ ts : List Thread, firstTrap (ts.map fun t => (f t, Fate.next)) = none := by
    have lowest : ∀ ts : List Thread, lowestTrap (ts.map fun t => (f t, Fate.next)) = none := by
      intro ts; induction ts with
      | nil => rfl
      | cons t ts ih => simpa [lowestTrap] using ih
    intro ts
    simp [firstTrap, forbidden, lowest]
  have hblock : ∀ (w : Nat) (ts : List Thread), blockedWith w (ts.map fun t => (f t, Fate.next)) = [] := by
    intro w ts; induction ts with
    | nil => rfl
    | cons t ts ih => simpa [blockedWith] using ih
  rw [hfirst]
  simp only
  rw [traceEnds_fold _ _ fun w => hblock w _]
  rw [foldList_id applyLeaving _ _ fun s x hx => by
    obtain ⟨t, _, rfl⟩ := List.mem_map.mp hx
    rfl]
  rw [hsplit, ite_self, hsettle]

end Sys2Proof.Machine
end

