-- ==== Sys2Proof/Laws/Mem.lean ====
section
/-! SUPPORT. Memories: reading what was written, and that every operation keeps the canonical form. -/
namespace Sys2Proof.Machine

/-! ### Reading back -/

theorem readByte_writeByte_self (m : Memory) (a : Nat) (b : Byte) (h : Memory.wf m = true) :
    readByte (writeByte m a b) a = b := by
  induction m with
  | nil =>
    unfold writeByte
    split
    · rename_i hb; simp [readByte, hb]
    · simp [readByte]
  | cons c t ih =>
    obtain ⟨x, c⟩ := c
    have ht : Memory.wf t = true := by
      cases t with
      | nil => rfl
      | cons d t => simp only [Memory.wf, Bool.and_eq_true] at h; exact h.2
    have hlow : ∀ y, y ≤ x → readByte t y = 0 := by
      clear ih
      intro y hy
      induction t generalizing x c with
      | nil => rfl
      | cons d t ih =>
        obtain ⟨z, d⟩ := d
        simp only [Memory.wf, Bool.and_eq_true, decide_eq_true_eq] at h
        have ht' : Memory.wf t = true := by
          cases t with
          | nil => rfl
          | cons e t => simp only [Memory.wf, Bool.and_eq_true] at ht; exact ht.2
        have hz : z ≠ y := by omega
        simp only [readByte, if_neg hz]
        exact ih z d ht ht' (by omega)
    unfold writeByte
    split
    · split
      · rename_i hb; subst hb
        simp only [readByte]; rw [if_neg (by omega)]; exact hlow a (by omega)
      · simp [readByte]
    · split
      · rename_i ha; subst ha
        split
        · rename_i hb; subst hb; exact hlow a (Nat.le_refl a)
        · simp [readByte]
      · simp only [readByte]; rw [if_neg (by omega)]; exact ih ht

theorem readByte_writeByte_other (m : Memory) (a c : Nat) (b : Byte) (h : a ≠ c) :
    readByte (writeByte m a b) c = readByte m c := by
  induction m with
  | nil =>
    unfold writeByte
    split
    · rfl
    · simp [readByte, h]
  | cons d t ih =>
    obtain ⟨x, d⟩ := d
    unfold writeByte
    split
    · split <;> simp [readByte, h]
    · split
      · rename_i ha; subst ha
        split <;> simp [readByte, h]
      · simp only [readByte, ih]

/-- A byte outside the written ones reads as before. -/
theorem readByte_writeBytes_outside (m : Memory) (a c : Nat) (bs : List Byte) (h : c < a ∨ a + bs.length ≤ c) :
    readByte (writeBytes m a bs) c = readByte m c := by
  induction bs generalizing m a with
  | nil => rfl
  | cons b bs ih =>
    simp only [List.length_cons] at h
    rw [writeBytes, ih _ _ (by omega), readByte_writeByte_other _ _ _ _ (by omega)]

/-! ### The canonical form -/

theorem Memory.wf_tail {c : Host.Cell} {t : Memory} (h : Memory.wf (c :: t) = true) : Memory.wf t = true := by
  cases t with
  | nil => rfl
  | cons d t =>
    obtain ⟨x, c⟩ := c; obtain ⟨y, d⟩ := d
    simp only [Memory.wf, Bool.and_eq_true] at h; exact h.2

/-- Every listed address is at least a bound. -/
def aboveAll (n : Nat) (m : Memory) : Prop := ∀ c ∈ m, n < c.1

theorem Memory.wf_cons {x : Nat} {b : Byte} {t : Memory} :
    Memory.wf ((x, b) :: t) = true ↔ b ≠ 0 ∧ Memory.wf t = true ∧ aboveAll x t := by
  induction t generalizing x b with
  | nil => simp [Memory.wf, aboveAll]
  | cons d t ih =>
    obtain ⟨y, c⟩ := d
    simp only [Memory.wf, Bool.and_eq_true, decide_eq_true_eq]
    constructor
    · rintro ⟨⟨hb, hxy⟩, ht⟩
      refine ⟨hb, ht, ?_⟩
      intro e he
      rcases List.mem_cons.mp he with rfl | he
      · exact hxy
      · exact Nat.lt_trans hxy ((ih.mp ht).2.2 e he)
    · rintro ⟨hb, ht, ha⟩
      exact ⟨⟨hb, ha (y, c) (by simp)⟩, ht⟩

theorem mem_writeByte {m : Memory} {a : Nat} {b : Byte} {c : Host.Cell} (h : c ∈ writeByte m a b) :
    c ∈ m ∨ c = (a, b) := by
  induction m with
  | nil =>
    unfold writeByte at h
    split at h
    · simp at h
    · simp only [List.mem_singleton] at h; exact .inr h
  | cons d t ih =>
    obtain ⟨x, d⟩ := d
    unfold writeByte at h
    split at h
    · split at h
      · exact .inl h
      · rcases List.mem_cons.mp h with h | h
        · exact .inr h
        · exact .inl h
    · split at h
      · split at h
        · exact .inl (List.mem_cons_of_mem _ h)
        · rcases List.mem_cons.mp h with h | h
          · exact .inr h
          · exact .inl (List.mem_cons_of_mem _ h)
      · rcases List.mem_cons.mp h with h | h
        · exact .inl (by simp [h])
        · rcases ih h with h | h
          · exact .inl (List.mem_cons_of_mem _ h)
          · exact .inr h

theorem writeByte_wf (m : Memory) (a : Nat) (b : Byte) (h : Memory.wf m = true) : Memory.wf (writeByte m a b) = true := by
  induction m with
  | nil =>
    unfold writeByte
    split
    · rfl
    · simpa [Memory.wf]
  | cons d t ih =>
    obtain ⟨x, c⟩ := d
    have hc := Memory.wf_cons.mp h
    unfold writeByte
    split
    · rename_i hax
      split
      · exact h
      · rename_i hb
        refine Memory.wf_cons.mpr ⟨hb, h, ?_⟩
        intro e he
        rcases List.mem_cons.mp he with rfl | he
        · exact hax
        · exact Nat.lt_trans hax (hc.2.2 e he)
    · split
      · rename_i ha; subst ha
        split
        · exact hc.2.1
        · rename_i hb; exact Memory.wf_cons.mpr ⟨hb, hc.2.1, hc.2.2⟩
      · refine Memory.wf_cons.mpr ⟨hc.1, ih hc.2.1, ?_⟩
        intro e he
        rcases mem_writeByte he with he | rfl
        · exact hc.2.2 e he
        · simp only; omega

theorem writeBytes_wf (m : Memory) (a : Nat) (bs : List Byte) (h : Memory.wf m = true) :
    Memory.wf (writeBytes m a bs) = true := by
  induction bs generalizing m a with
  | nil => exact h
  | cons b bs ih => exact ih _ _ (writeByte_wf m a b h)

theorem fillBytes_wf (m : Memory) (a : Nat) (b : Byte) (n : Nat) (h : Memory.wf m = true) :
    Memory.wf (fillBytes m a b n) = true := by
  induction n generalizing m a with
  | zero => exact h
  | succ n ih => exact ih _ _ (writeByte_wf m a b h)

theorem writeNat_wf (m : Memory) (a n x : Nat) (h : Memory.wf m = true) : Memory.wf (writeNat m a n x) = true :=
  writeBytes_wf m a _ h

theorem filter_wf (p : Host.Cell → Bool) (m : Memory) (h : Memory.wf m = true) : Memory.wf (m.filter p) = true := by
  induction m with
  | nil => rfl
  | cons d t ih =>
    obtain ⟨x, c⟩ := d
    have hc := Memory.wf_cons.mp h
    rw [List.filter_cons]
    split
    · refine Memory.wf_cons.mpr ⟨hc.1, ih hc.2.1, ?_⟩
      intro e he
      exact hc.2.2 e (List.mem_of_mem_filter he)
    · exact ih hc.2.1

theorem clearRange_wf (m : Memory) (lo n : Nat) (h : Memory.wf m = true) : Memory.wf (clearRange m lo n) = true :=
  filter_wf _ m h

theorem applyPatch_wf (m : Memory) (off : Nat) (p : Patch) (h : Memory.wf m = true) :
    Memory.wf (applyPatch m off p) = true := by
  induction p generalizing m with
  | nil => exact h
  | cons c t ih => obtain ⟨a, b⟩ := c; exact ih _ (writeByte_wf m _ b h)

theorem nil_wf : Memory.wf [] = true := rfl

/-- What `canonical` makes of any cells is in the canonical form. -/
theorem canonical_wf (cs : List Host.Cell) : Memory.wf (canonical cs) = true := by
  unfold canonical
  suffices h : ∀ m, Memory.wf m = true → Memory.wf (cs.foldl (fun m c => writeByte m c.1 c.2) m) = true from h [] rfl
  induction cs with
  | nil => exact fun _ h => h
  | cons c cs ih => exact fun m h => ih _ (writeByte_wf m c.1 c.2 h)

/-! ### Bytes and numbers -/

theorem toBytes_length (n x : Nat) : (toBytes n x).length = n := by
  induction n generalizing x with
  | zero => rfl
  | succ n ih => simp [toBytes, ih]

theorem readBytes_length (m : Memory) (a n : Nat) : (readBytes m a n).length = n := by
  induction n generalizing a with
  | zero => rfl
  | succ n ih => simp [readBytes, ih]

theorem bytesOfWords_length (ws : List Word) : (bytesOfWords ws).length = 4 * ws.length := by
  induction ws with
  | nil => rfl
  | cons w ws ih => simp [bytesOfWords, toBytes_length, ih]; omega

theorem ofBytes_toBytes (n x : Nat) : ofBytes (toBytes n x) = x % 256 ^ n := by
  induction n generalizing x with
  | zero => simp [toBytes, ofBytes, Nat.mod_one]
  | succ n ih =>
    simp only [toBytes, ofBytes, ih, BitVec.toNat_ofNat]
    have h : x % 256 ^ (n + 1) = x % 256 + 256 * (x / 256 % 256 ^ n) := by
      rw [Nat.pow_succ, Nat.mul_comm (256 ^ n) 256, Nat.mod_mul]
    omega

end Sys2Proof.Machine
end

