-- ==== Sys2Proof/Laws/State.lean ====
section
/-! SUPPORT. What each plain update of the state leaves as it is: one lemma for each field and each update. -/
namespace Sys2Proof.Machine

section
variable (s : State) (id : Nat) (f : Workgroup → Workgroup)
@[simp] theorem updWg_clock : (updWg s id f).clock = s.clock := rfl
@[simp] theorem updWg_ptp : (updWg s id f).ptp = s.ptp := rfl
@[simp] theorem updWg_boot : (updWg s id f).boot = s.boot := rfl
@[simp] theorem updWg_nv : (updWg s id f).nv = s.nv := rfl
@[simp] theorem updWg_power : (updWg s id f).power = s.power := rfl
@[simp] theorem updWg_mem : (updWg s id f).mem = s.mem := rfl
@[simp] theorem updWg_poison : (updWg s id f).poison = s.poison := rfl
@[simp] theorem updWg_splitRoods : (updWg s id f).splitRoods = s.splitRoods := rfl
@[simp] theorem updWg_vds : (updWg s id f).vds = s.vds := rfl
@[simp] theorem updWg_tenants : (updWg s id f).tenants = s.tenants := rfl
@[simp] theorem updWg_contexts : (updWg s id f).contexts = s.contexts := rfl
@[simp] theorem updWg_grants : (updWg s id f).grants = s.grants := rfl
@[simp] theorem updWg_pages : (updWg s id f).pages = s.pages := rfl
@[simp] theorem updWg_lists : (updWg s id f).lists = s.lists := rfl
@[simp] theorem updWg_violations : (updWg s id f).violations = s.violations := rfl
@[simp] theorem updWg_deferred : (updWg s id f).deferred = s.deferred := rfl
@[simp] theorem updWg_heldCmds : (updWg s id f).heldCmds = s.heldCmds := rfl
@[simp] theorem updWg_due : (updWg s id f).due = s.due := rfl
@[simp] theorem updWg_quarantine : (updWg s id f).quarantine = s.quarantine := rfl
@[simp] theorem updWg_cxlRefused : (updWg s id f).cxlRefused = s.cxlRefused := rfl
@[simp] theorem updWg_pf : (updWg s id f).pf = s.pf := rfl
@[simp] theorem updWg_registers : (updWg s id f).registers = s.registers := rfl
@[simp] theorem updWg_modules : (updWg s id f).modules = s.modules := rfl
@[simp] theorem updWg_queues : (updWg s id f).queues = s.queues := rfl
@[simp] theorem updWg_served : (updWg s id f).served = s.served := rfl
@[simp] theorem updWg_launches : (updWg s id f).launches = s.launches := rfl
@[simp] theorem updWg_threads : (updWg s id f).threads = s.threads := rfl
@[simp] theorem updWg_slots : (updWg s id f).slots = s.slots := rfl
@[simp] theorem updWg_cores : (updWg s id f).cores = s.cores := rfl
@[simp] theorem updWg_records : (updWg s id f).records = s.records := rfl
@[simp] theorem updWg_cmds : (updWg s id f).cmds = s.cmds := rfl
@[simp] theorem updWg_chains : (updWg s id f).chains = s.chains := rfl
@[simp] theorem updWg_l1 : (updWg s id f).l1 = s.l1 := rfl
@[simp] theorem updWg_tlb : (updWg s id f).tlb = s.tlb := rfl
@[simp] theorem updWg_walks : (updWg s id f).walks = s.walks := rfl
@[simp] theorem updWg_predictor : (updWg s id f).predictor = s.predictor := rfl
@[simp] theorem updWg_l2 : (updWg s id f).l2 = s.l2 := rfl
@[simp] theorem updWg_unitSide : (updWg s id f).unitSide = s.unitSide := rfl
@[simp] theorem updWg_retiring : (updWg s id f).retiring = s.retiring := rfl
@[simp] theorem updWg_reqs : (updWg s id f).reqs = s.reqs := rfl
@[simp] theorem updWg_images : (updWg s id f).images = s.images := rfl
@[simp] theorem updWg_imagesIn : (updWg s id f).imagesIn = s.imagesIn := rfl
@[simp] theorem updWg_monitors : (updWg s id f).monitors = s.monitors := rfl
@[simp] theorem updWg_errlog : (updWg s id f).errlog = s.errlog := rfl
@[simp] theorem updWg_errHist : (updWg s id f).errHist = s.errHist := rfl
@[simp] theorem updWg_links : (updWg s id f).links = s.links := rfl
@[simp] theorem updWg_streams : (updWg s id f).streams = s.streams := rfl
@[simp] theorem updWg_recording : (updWg s id f).recording = s.recording := rfl
@[simp] theorem updWg_replaying : (updWg s id f).replaying = s.replaying := rfl
@[simp] theorem updWg_eth : (updWg s id f).eth = s.eth := rfl
@[simp] theorem updWg_tick : (updWg s id f).tick = s.tick := rfl
@[simp] theorem updWg_tickAt : (updWg s id f).tickAt = s.tickAt := rfl
@[simp] theorem updWg_lastRun : (updWg s id f).lastRun = s.lastRun := rfl
@[simp] theorem updWg_out : (updWg s id f).out = s.out := rfl
@[simp] theorem updWg_agenda : (updWg s id f).agenda = s.agenda := rfl
@[simp] theorem updWg_turn : (updWg s id f).turn = s.turn := rfl
@[simp] theorem updWg_freeCount : (updWg s id f).freeCount = s.freeCount := rfl
@[simp] theorem updWg_nextId : (updWg s id f).nextId = s.nextId := rfl
@[simp] theorem updWg_passCycles : (updWg s id f).passCycles = s.passCycles := rfl
end

section
variable (s : State) (p : Workgroup → Bool) (f : Workgroup → Workgroup)
@[simp] theorem updWgs_clock : (updWgs s p f).clock = s.clock := rfl
@[simp] theorem updWgs_ptp : (updWgs s p f).ptp = s.ptp := rfl
@[simp] theorem updWgs_boot : (updWgs s p f).boot = s.boot := rfl
@[simp] theorem updWgs_nv : (updWgs s p f).nv = s.nv := rfl
@[simp] theorem updWgs_power : (updWgs s p f).power = s.power := rfl
@[simp] theorem updWgs_mem : (updWgs s p f).mem = s.mem := rfl
@[simp] theorem updWgs_poison : (updWgs s p f).poison = s.poison := rfl
@[simp] theorem updWgs_splitRoods : (updWgs s p f).splitRoods = s.splitRoods := rfl
@[simp] theorem updWgs_vds : (updWgs s p f).vds = s.vds := rfl
@[simp] theorem updWgs_tenants : (updWgs s p f).tenants = s.tenants := rfl
@[simp] theorem updWgs_contexts : (updWgs s p f).contexts = s.contexts := rfl
@[simp] theorem updWgs_grants : (updWgs s p f).grants = s.grants := rfl
@[simp] theorem updWgs_pages : (updWgs s p f).pages = s.pages := rfl
@[simp] theorem updWgs_lists : (updWgs s p f).lists = s.lists := rfl
@[simp] theorem updWgs_violations : (updWgs s p f).violations = s.violations := rfl
@[simp] theorem updWgs_deferred : (updWgs s p f).deferred = s.deferred := rfl
@[simp] theorem updWgs_heldCmds : (updWgs s p f).heldCmds = s.heldCmds := rfl
@[simp] theorem updWgs_due : (updWgs s p f).due = s.due := rfl
@[simp] theorem updWgs_quarantine : (updWgs s p f).quarantine = s.quarantine := rfl
@[simp] theorem updWgs_cxlRefused : (updWgs s p f).cxlRefused = s.cxlRefused := rfl
@[simp] theorem updWgs_pf : (updWgs s p f).pf = s.pf := rfl
@[simp] theorem updWgs_registers : (updWgs s p f).registers = s.registers := rfl
@[simp] theorem updWgs_modules : (updWgs s p f).modules = s.modules := rfl
@[simp] theorem updWgs_queues : (updWgs s p f).queues = s.queues := rfl
@[simp] theorem updWgs_served : (updWgs s p f).served = s.served := rfl
@[simp] theorem updWgs_launches : (updWgs s p f).launches = s.launches := rfl
@[simp] theorem updWgs_threads : (updWgs s p f).threads = s.threads := rfl
@[simp] theorem updWgs_slots : (updWgs s p f).slots = s.slots := rfl
@[simp] theorem updWgs_cores : (updWgs s p f).cores = s.cores := rfl
@[simp] theorem updWgs_records : (updWgs s p f).records = s.records := rfl
@[simp] theorem updWgs_cmds : (updWgs s p f).cmds = s.cmds := rfl
@[simp] theorem updWgs_chains : (updWgs s p f).chains = s.chains := rfl
@[simp] theorem updWgs_l1 : (updWgs s p f).l1 = s.l1 := rfl
@[simp] theorem updWgs_tlb : (updWgs s p f).tlb = s.tlb := rfl
@[simp] theorem updWgs_walks : (updWgs s p f).walks = s.walks := rfl
@[simp] theorem updWgs_predictor : (updWgs s p f).predictor = s.predictor := rfl
@[simp] theorem updWgs_l2 : (updWgs s p f).l2 = s.l2 := rfl
@[simp] theorem updWgs_unitSide : (updWgs s p f).unitSide = s.unitSide := rfl
@[simp] theorem updWgs_retiring : (updWgs s p f).retiring = s.retiring := rfl
@[simp] theorem updWgs_reqs : (updWgs s p f).reqs = s.reqs := rfl
@[simp] theorem updWgs_images : (updWgs s p f).images = s.images := rfl
@[simp] theorem updWgs_imagesIn : (updWgs s p f).imagesIn = s.imagesIn := rfl
@[simp] theorem updWgs_monitors : (updWgs s p f).monitors = s.monitors := rfl
@[simp] theorem updWgs_errlog : (updWgs s p f).errlog = s.errlog := rfl
@[simp] theorem updWgs_errHist : (updWgs s p f).errHist = s.errHist := rfl
@[simp] theorem updWgs_links : (updWgs s p f).links = s.links := rfl
@[simp] theorem updWgs_streams : (updWgs s p f).streams = s.streams := rfl
@[simp] theorem updWgs_recording : (updWgs s p f).recording = s.recording := rfl
@[simp] theorem updWgs_replaying : (updWgs s p f).replaying = s.replaying := rfl
@[simp] theorem updWgs_eth : (updWgs s p f).eth = s.eth := rfl
@[simp] theorem updWgs_tick : (updWgs s p f).tick = s.tick := rfl
@[simp] theorem updWgs_tickAt : (updWgs s p f).tickAt = s.tickAt := rfl
@[simp] theorem updWgs_lastRun : (updWgs s p f).lastRun = s.lastRun := rfl
@[simp] theorem updWgs_out : (updWgs s p f).out = s.out := rfl
@[simp] theorem updWgs_agenda : (updWgs s p f).agenda = s.agenda := rfl
@[simp] theorem updWgs_turn : (updWgs s p f).turn = s.turn := rfl
@[simp] theorem updWgs_freeCount : (updWgs s p f).freeCount = s.freeCount := rfl
@[simp] theorem updWgs_nextId : (updWgs s p f).nextId = s.nextId := rfl
@[simp] theorem updWgs_passCycles : (updWgs s p f).passCycles = s.passCycles := rfl
end

section
variable (s : State) (id : Nat) (f : Launch → Launch)
@[simp] theorem updLaunch_clock : (updLaunch s id f).clock = s.clock := rfl
@[simp] theorem updLaunch_ptp : (updLaunch s id f).ptp = s.ptp := rfl
@[simp] theorem updLaunch_boot : (updLaunch s id f).boot = s.boot := rfl
@[simp] theorem updLaunch_nv : (updLaunch s id f).nv = s.nv := rfl
@[simp] theorem updLaunch_power : (updLaunch s id f).power = s.power := rfl
@[simp] theorem updLaunch_mem : (updLaunch s id f).mem = s.mem := rfl
@[simp] theorem updLaunch_poison : (updLaunch s id f).poison = s.poison := rfl
@[simp] theorem updLaunch_splitRoods : (updLaunch s id f).splitRoods = s.splitRoods := rfl
@[simp] theorem updLaunch_vds : (updLaunch s id f).vds = s.vds := rfl
@[simp] theorem updLaunch_tenants : (updLaunch s id f).tenants = s.tenants := rfl
@[simp] theorem updLaunch_contexts : (updLaunch s id f).contexts = s.contexts := rfl
@[simp] theorem updLaunch_grants : (updLaunch s id f).grants = s.grants := rfl
@[simp] theorem updLaunch_pages : (updLaunch s id f).pages = s.pages := rfl
@[simp] theorem updLaunch_lists : (updLaunch s id f).lists = s.lists := rfl
@[simp] theorem updLaunch_violations : (updLaunch s id f).violations = s.violations := rfl
@[simp] theorem updLaunch_deferred : (updLaunch s id f).deferred = s.deferred := rfl
@[simp] theorem updLaunch_heldCmds : (updLaunch s id f).heldCmds = s.heldCmds := rfl
@[simp] theorem updLaunch_due : (updLaunch s id f).due = s.due := rfl
@[simp] theorem updLaunch_quarantine : (updLaunch s id f).quarantine = s.quarantine := rfl
@[simp] theorem updLaunch_cxlRefused : (updLaunch s id f).cxlRefused = s.cxlRefused := rfl
@[simp] theorem updLaunch_pf : (updLaunch s id f).pf = s.pf := rfl
@[simp] theorem updLaunch_registers : (updLaunch s id f).registers = s.registers := rfl
@[simp] theorem updLaunch_modules : (updLaunch s id f).modules = s.modules := rfl
@[simp] theorem updLaunch_queues : (updLaunch s id f).queues = s.queues := rfl
@[simp] theorem updLaunch_served : (updLaunch s id f).served = s.served := rfl
@[simp] theorem updLaunch_wgs : (updLaunch s id f).wgs = s.wgs := rfl
@[simp] theorem updLaunch_threads : (updLaunch s id f).threads = s.threads := rfl
@[simp] theorem updLaunch_slots : (updLaunch s id f).slots = s.slots := rfl
@[simp] theorem updLaunch_cores : (updLaunch s id f).cores = s.cores := rfl
@[simp] theorem updLaunch_records : (updLaunch s id f).records = s.records := rfl
@[simp] theorem updLaunch_cmds : (updLaunch s id f).cmds = s.cmds := rfl
@[simp] theorem updLaunch_chains : (updLaunch s id f).chains = s.chains := rfl
@[simp] theorem updLaunch_l1 : (updLaunch s id f).l1 = s.l1 := rfl
@[simp] theorem updLaunch_tlb : (updLaunch s id f).tlb = s.tlb := rfl
@[simp] theorem updLaunch_walks : (updLaunch s id f).walks = s.walks := rfl
@[simp] theorem updLaunch_predictor : (updLaunch s id f).predictor = s.predictor := rfl
@[simp] theorem updLaunch_l2 : (updLaunch s id f).l2 = s.l2 := rfl
@[simp] theorem updLaunch_unitSide : (updLaunch s id f).unitSide = s.unitSide := rfl
@[simp] theorem updLaunch_retiring : (updLaunch s id f).retiring = s.retiring := rfl
@[simp] theorem updLaunch_reqs : (updLaunch s id f).reqs = s.reqs := rfl
@[simp] theorem updLaunch_images : (updLaunch s id f).images = s.images := rfl
@[simp] theorem updLaunch_imagesIn : (updLaunch s id f).imagesIn = s.imagesIn := rfl
@[simp] theorem updLaunch_monitors : (updLaunch s id f).monitors = s.monitors := rfl
@[simp] theorem updLaunch_errlog : (updLaunch s id f).errlog = s.errlog := rfl
@[simp] theorem updLaunch_errHist : (updLaunch s id f).errHist = s.errHist := rfl
@[simp] theorem updLaunch_links : (updLaunch s id f).links = s.links := rfl
@[simp] theorem updLaunch_streams : (updLaunch s id f).streams = s.streams := rfl
@[simp] theorem updLaunch_recording : (updLaunch s id f).recording = s.recording := rfl
@[simp] theorem updLaunch_replaying : (updLaunch s id f).replaying = s.replaying := rfl
@[simp] theorem updLaunch_eth : (updLaunch s id f).eth = s.eth := rfl
@[simp] theorem updLaunch_tick : (updLaunch s id f).tick = s.tick := rfl
@[simp] theorem updLaunch_tickAt : (updLaunch s id f).tickAt = s.tickAt := rfl
@[simp] theorem updLaunch_lastRun : (updLaunch s id f).lastRun = s.lastRun := rfl
@[simp] theorem updLaunch_out : (updLaunch s id f).out = s.out := rfl
@[simp] theorem updLaunch_agenda : (updLaunch s id f).agenda = s.agenda := rfl
@[simp] theorem updLaunch_turn : (updLaunch s id f).turn = s.turn := rfl
@[simp] theorem updLaunch_freeCount : (updLaunch s id f).freeCount = s.freeCount := rfl
@[simp] theorem updLaunch_nextId : (updLaunch s id f).nextId = s.nextId := rfl
@[simp] theorem updLaunch_passCycles : (updLaunch s id f).passCycles = s.passCycles := rfl
end

section
variable (s : State) (id : Nat) (f : Context → Context)
@[simp] theorem updCtx_clock : (updCtx s id f).clock = s.clock := rfl
@[simp] theorem updCtx_ptp : (updCtx s id f).ptp = s.ptp := rfl
@[simp] theorem updCtx_boot : (updCtx s id f).boot = s.boot := rfl
@[simp] theorem updCtx_nv : (updCtx s id f).nv = s.nv := rfl
@[simp] theorem updCtx_power : (updCtx s id f).power = s.power := rfl
@[simp] theorem updCtx_mem : (updCtx s id f).mem = s.mem := rfl
@[simp] theorem updCtx_poison : (updCtx s id f).poison = s.poison := rfl
@[simp] theorem updCtx_splitRoods : (updCtx s id f).splitRoods = s.splitRoods := rfl
@[simp] theorem updCtx_vds : (updCtx s id f).vds = s.vds := rfl
@[simp] theorem updCtx_tenants : (updCtx s id f).tenants = s.tenants := rfl
@[simp] theorem updCtx_grants : (updCtx s id f).grants = s.grants := rfl
@[simp] theorem updCtx_pages : (updCtx s id f).pages = s.pages := rfl
@[simp] theorem updCtx_lists : (updCtx s id f).lists = s.lists := rfl
@[simp] theorem updCtx_violations : (updCtx s id f).violations = s.violations := rfl
@[simp] theorem updCtx_deferred : (updCtx s id f).deferred = s.deferred := rfl
@[simp] theorem updCtx_heldCmds : (updCtx s id f).heldCmds = s.heldCmds := rfl
@[simp] theorem updCtx_due : (updCtx s id f).due = s.due := rfl
@[simp] theorem updCtx_quarantine : (updCtx s id f).quarantine = s.quarantine := rfl
@[simp] theorem updCtx_cxlRefused : (updCtx s id f).cxlRefused = s.cxlRefused := rfl
@[simp] theorem updCtx_pf : (updCtx s id f).pf = s.pf := rfl
@[simp] theorem updCtx_registers : (updCtx s id f).registers = s.registers := rfl
@[simp] theorem updCtx_modules : (updCtx s id f).modules = s.modules := rfl
@[simp] theorem updCtx_queues : (updCtx s id f).queues = s.queues := rfl
@[simp] theorem updCtx_served : (updCtx s id f).served = s.served := rfl
@[simp] theorem updCtx_launches : (updCtx s id f).launches = s.launches := rfl
@[simp] theorem updCtx_wgs : (updCtx s id f).wgs = s.wgs := rfl
@[simp] theorem updCtx_threads : (updCtx s id f).threads = s.threads := rfl
@[simp] theorem updCtx_slots : (updCtx s id f).slots = s.slots := rfl
@[simp] theorem updCtx_cores : (updCtx s id f).cores = s.cores := rfl
@[simp] theorem updCtx_records : (updCtx s id f).records = s.records := rfl
@[simp] theorem updCtx_cmds : (updCtx s id f).cmds = s.cmds := rfl
@[simp] theorem updCtx_chains : (updCtx s id f).chains = s.chains := rfl
@[simp] theorem updCtx_l1 : (updCtx s id f).l1 = s.l1 := rfl
@[simp] theorem updCtx_tlb : (updCtx s id f).tlb = s.tlb := rfl
@[simp] theorem updCtx_walks : (updCtx s id f).walks = s.walks := rfl
@[simp] theorem updCtx_predictor : (updCtx s id f).predictor = s.predictor := rfl
@[simp] theorem updCtx_l2 : (updCtx s id f).l2 = s.l2 := rfl
@[simp] theorem updCtx_unitSide : (updCtx s id f).unitSide = s.unitSide := rfl
@[simp] theorem updCtx_retiring : (updCtx s id f).retiring = s.retiring := rfl
@[simp] theorem updCtx_reqs : (updCtx s id f).reqs = s.reqs := rfl
@[simp] theorem updCtx_images : (updCtx s id f).images = s.images := rfl
@[simp] theorem updCtx_imagesIn : (updCtx s id f).imagesIn = s.imagesIn := rfl
@[simp] theorem updCtx_monitors : (updCtx s id f).monitors = s.monitors := rfl
@[simp] theorem updCtx_errlog : (updCtx s id f).errlog = s.errlog := rfl
@[simp] theorem updCtx_errHist : (updCtx s id f).errHist = s.errHist := rfl
@[simp] theorem updCtx_links : (updCtx s id f).links = s.links := rfl
@[simp] theorem updCtx_streams : (updCtx s id f).streams = s.streams := rfl
@[simp] theorem updCtx_recording : (updCtx s id f).recording = s.recording := rfl
@[simp] theorem updCtx_replaying : (updCtx s id f).replaying = s.replaying := rfl
@[simp] theorem updCtx_eth : (updCtx s id f).eth = s.eth := rfl
@[simp] theorem updCtx_tick : (updCtx s id f).tick = s.tick := rfl
@[simp] theorem updCtx_tickAt : (updCtx s id f).tickAt = s.tickAt := rfl
@[simp] theorem updCtx_lastRun : (updCtx s id f).lastRun = s.lastRun := rfl
@[simp] theorem updCtx_out : (updCtx s id f).out = s.out := rfl
@[simp] theorem updCtx_agenda : (updCtx s id f).agenda = s.agenda := rfl
@[simp] theorem updCtx_turn : (updCtx s id f).turn = s.turn := rfl
@[simp] theorem updCtx_freeCount : (updCtx s id f).freeCount = s.freeCount := rfl
@[simp] theorem updCtx_nextId : (updCtx s id f).nextId = s.nextId := rfl
@[simp] theorem updCtx_passCycles : (updCtx s id f).passCycles = s.passCycles := rfl
end

section
variable (s : State) (n : Nat) (f : VDev → VDev)
@[simp] theorem updVd_clock : (updVd s n f).clock = s.clock := rfl
@[simp] theorem updVd_ptp : (updVd s n f).ptp = s.ptp := rfl
@[simp] theorem updVd_boot : (updVd s n f).boot = s.boot := rfl
@[simp] theorem updVd_nv : (updVd s n f).nv = s.nv := rfl
@[simp] theorem updVd_power : (updVd s n f).power = s.power := rfl
@[simp] theorem updVd_mem : (updVd s n f).mem = s.mem := rfl
@[simp] theorem updVd_poison : (updVd s n f).poison = s.poison := rfl
@[simp] theorem updVd_splitRoods : (updVd s n f).splitRoods = s.splitRoods := rfl
@[simp] theorem updVd_tenants : (updVd s n f).tenants = s.tenants := rfl
@[simp] theorem updVd_contexts : (updVd s n f).contexts = s.contexts := rfl
@[simp] theorem updVd_grants : (updVd s n f).grants = s.grants := rfl
@[simp] theorem updVd_pages : (updVd s n f).pages = s.pages := rfl
@[simp] theorem updVd_lists : (updVd s n f).lists = s.lists := rfl
@[simp] theorem updVd_violations : (updVd s n f).violations = s.violations := rfl
@[simp] theorem updVd_deferred : (updVd s n f).deferred = s.deferred := rfl
@[simp] theorem updVd_heldCmds : (updVd s n f).heldCmds = s.heldCmds := rfl
@[simp] theorem updVd_due : (updVd s n f).due = s.due := rfl
@[simp] theorem updVd_quarantine : (updVd s n f).quarantine = s.quarantine := rfl
@[simp] theorem updVd_cxlRefused : (updVd s n f).cxlRefused = s.cxlRefused := rfl
@[simp] theorem updVd_pf : (updVd s n f).pf = s.pf := rfl
@[simp] theorem updVd_registers : (updVd s n f).registers = s.registers := rfl
@[simp] theorem updVd_modules : (updVd s n f).modules = s.modules := rfl
@[simp] theorem updVd_queues : (updVd s n f).queues = s.queues := rfl
@[simp] theorem updVd_served : (updVd s n f).served = s.served := rfl
@[simp] theorem updVd_launches : (updVd s n f).launches = s.launches := rfl
@[simp] theorem updVd_wgs : (updVd s n f).wgs = s.wgs := rfl
@[simp] theorem updVd_threads : (updVd s n f).threads = s.threads := rfl
@[simp] theorem updVd_slots : (updVd s n f).slots = s.slots := rfl
@[simp] theorem updVd_cores : (updVd s n f).cores = s.cores := rfl
@[simp] theorem updVd_records : (updVd s n f).records = s.records := rfl
@[simp] theorem updVd_cmds : (updVd s n f).cmds = s.cmds := rfl
@[simp] theorem updVd_chains : (updVd s n f).chains = s.chains := rfl
@[simp] theorem updVd_l1 : (updVd s n f).l1 = s.l1 := rfl
@[simp] theorem updVd_tlb : (updVd s n f).tlb = s.tlb := rfl
@[simp] theorem updVd_walks : (updVd s n f).walks = s.walks := rfl
@[simp] theorem updVd_predictor : (updVd s n f).predictor = s.predictor := rfl
@[simp] theorem updVd_l2 : (updVd s n f).l2 = s.l2 := rfl
@[simp] theorem updVd_unitSide : (updVd s n f).unitSide = s.unitSide := rfl
@[simp] theorem updVd_retiring : (updVd s n f).retiring = s.retiring := rfl
@[simp] theorem updVd_reqs : (updVd s n f).reqs = s.reqs := rfl
@[simp] theorem updVd_images : (updVd s n f).images = s.images := rfl
@[simp] theorem updVd_imagesIn : (updVd s n f).imagesIn = s.imagesIn := rfl
@[simp] theorem updVd_monitors : (updVd s n f).monitors = s.monitors := rfl
@[simp] theorem updVd_errlog : (updVd s n f).errlog = s.errlog := rfl
@[simp] theorem updVd_errHist : (updVd s n f).errHist = s.errHist := rfl
@[simp] theorem updVd_links : (updVd s n f).links = s.links := rfl
@[simp] theorem updVd_streams : (updVd s n f).streams = s.streams := rfl
@[simp] theorem updVd_recording : (updVd s n f).recording = s.recording := rfl
@[simp] theorem updVd_replaying : (updVd s n f).replaying = s.replaying := rfl
@[simp] theorem updVd_eth : (updVd s n f).eth = s.eth := rfl
@[simp] theorem updVd_tick : (updVd s n f).tick = s.tick := rfl
@[simp] theorem updVd_tickAt : (updVd s n f).tickAt = s.tickAt := rfl
@[simp] theorem updVd_lastRun : (updVd s n f).lastRun = s.lastRun := rfl
@[simp] theorem updVd_out : (updVd s n f).out = s.out := rfl
@[simp] theorem updVd_agenda : (updVd s n f).agenda = s.agenda := rfl
@[simp] theorem updVd_turn : (updVd s n f).turn = s.turn := rfl
@[simp] theorem updVd_freeCount : (updVd s n f).freeCount = s.freeCount := rfl
@[simp] theorem updVd_nextId : (updVd s n f).nextId = s.nextId := rfl
@[simp] theorem updVd_passCycles : (updVd s n f).passCycles = s.passCycles := rfl
end

section
variable (s : State) (c : Nat) (f : Tenant → Tenant)
@[simp] theorem updTenant_clock : (updTenant s c f).clock = s.clock := rfl
@[simp] theorem updTenant_ptp : (updTenant s c f).ptp = s.ptp := rfl
@[simp] theorem updTenant_boot : (updTenant s c f).boot = s.boot := rfl
@[simp] theorem updTenant_nv : (updTenant s c f).nv = s.nv := rfl
@[simp] theorem updTenant_power : (updTenant s c f).power = s.power := rfl
@[simp] theorem updTenant_mem : (updTenant s c f).mem = s.mem := rfl
@[simp] theorem updTenant_poison : (updTenant s c f).poison = s.poison := rfl
@[simp] theorem updTenant_splitRoods : (updTenant s c f).splitRoods = s.splitRoods := rfl
@[simp] theorem updTenant_vds : (updTenant s c f).vds = s.vds := rfl
@[simp] theorem updTenant_contexts : (updTenant s c f).contexts = s.contexts := rfl
@[simp] theorem updTenant_grants : (updTenant s c f).grants = s.grants := rfl
@[simp] theorem updTenant_pages : (updTenant s c f).pages = s.pages := rfl
@[simp] theorem updTenant_lists : (updTenant s c f).lists = s.lists := rfl
@[simp] theorem updTenant_violations : (updTenant s c f).violations = s.violations := rfl
@[simp] theorem updTenant_deferred : (updTenant s c f).deferred = s.deferred := rfl
@[simp] theorem updTenant_heldCmds : (updTenant s c f).heldCmds = s.heldCmds := rfl
@[simp] theorem updTenant_due : (updTenant s c f).due = s.due := rfl
@[simp] theorem updTenant_quarantine : (updTenant s c f).quarantine = s.quarantine := rfl
@[simp] theorem updTenant_cxlRefused : (updTenant s c f).cxlRefused = s.cxlRefused := rfl
@[simp] theorem updTenant_pf : (updTenant s c f).pf = s.pf := rfl
@[simp] theorem updTenant_registers : (updTenant s c f).registers = s.registers := rfl
@[simp] theorem updTenant_modules : (updTenant s c f).modules = s.modules := rfl
@[simp] theorem updTenant_queues : (updTenant s c f).queues = s.queues := rfl
@[simp] theorem updTenant_served : (updTenant s c f).served = s.served := rfl
@[simp] theorem updTenant_launches : (updTenant s c f).launches = s.launches := rfl
@[simp] theorem updTenant_wgs : (updTenant s c f).wgs = s.wgs := rfl
@[simp] theorem updTenant_threads : (updTenant s c f).threads = s.threads := rfl
@[simp] theorem updTenant_slots : (updTenant s c f).slots = s.slots := rfl
@[simp] theorem updTenant_cores : (updTenant s c f).cores = s.cores := rfl
@[simp] theorem updTenant_records : (updTenant s c f).records = s.records := rfl
@[simp] theorem updTenant_cmds : (updTenant s c f).cmds = s.cmds := rfl
@[simp] theorem updTenant_chains : (updTenant s c f).chains = s.chains := rfl
@[simp] theorem updTenant_l1 : (updTenant s c f).l1 = s.l1 := rfl
@[simp] theorem updTenant_tlb : (updTenant s c f).tlb = s.tlb := rfl
@[simp] theorem updTenant_walks : (updTenant s c f).walks = s.walks := rfl
@[simp] theorem updTenant_predictor : (updTenant s c f).predictor = s.predictor := rfl
@[simp] theorem updTenant_l2 : (updTenant s c f).l2 = s.l2 := rfl
@[simp] theorem updTenant_unitSide : (updTenant s c f).unitSide = s.unitSide := rfl
@[simp] theorem updTenant_retiring : (updTenant s c f).retiring = s.retiring := rfl
@[simp] theorem updTenant_reqs : (updTenant s c f).reqs = s.reqs := rfl
@[simp] theorem updTenant_images : (updTenant s c f).images = s.images := rfl
@[simp] theorem updTenant_imagesIn : (updTenant s c f).imagesIn = s.imagesIn := rfl
@[simp] theorem updTenant_monitors : (updTenant s c f).monitors = s.monitors := rfl
@[simp] theorem updTenant_errlog : (updTenant s c f).errlog = s.errlog := rfl
@[simp] theorem updTenant_errHist : (updTenant s c f).errHist = s.errHist := rfl
@[simp] theorem updTenant_links : (updTenant s c f).links = s.links := rfl
@[simp] theorem updTenant_streams : (updTenant s c f).streams = s.streams := rfl
@[simp] theorem updTenant_recording : (updTenant s c f).recording = s.recording := rfl
@[simp] theorem updTenant_replaying : (updTenant s c f).replaying = s.replaying := rfl
@[simp] theorem updTenant_eth : (updTenant s c f).eth = s.eth := rfl
@[simp] theorem updTenant_tick : (updTenant s c f).tick = s.tick := rfl
@[simp] theorem updTenant_tickAt : (updTenant s c f).tickAt = s.tickAt := rfl
@[simp] theorem updTenant_lastRun : (updTenant s c f).lastRun = s.lastRun := rfl
@[simp] theorem updTenant_out : (updTenant s c f).out = s.out := rfl
@[simp] theorem updTenant_agenda : (updTenant s c f).agenda = s.agenda := rfl
@[simp] theorem updTenant_turn : (updTenant s c f).turn = s.turn := rfl
@[simp] theorem updTenant_freeCount : (updTenant s c f).freeCount = s.freeCount := rfl
@[simp] theorem updTenant_nextId : (updTenant s c f).nextId = s.nextId := rfl
@[simp] theorem updTenant_passCycles : (updTenant s c f).passCycles = s.passCycles := rfl
end

section
variable (s : State) (ctx n : Nat) (f : Queue → Queue)
@[simp] theorem updQueue_clock : (updQueue s ctx n f).clock = s.clock := rfl
@[simp] theorem updQueue_ptp : (updQueue s ctx n f).ptp = s.ptp := rfl
@[simp] theorem updQueue_boot : (updQueue s ctx n f).boot = s.boot := rfl
@[simp] theorem updQueue_nv : (updQueue s ctx n f).nv = s.nv := rfl
@[simp] theorem updQueue_power : (updQueue s ctx n f).power = s.power := rfl
@[simp] theorem updQueue_mem : (updQueue s ctx n f).mem = s.mem := rfl
@[simp] theorem updQueue_poison : (updQueue s ctx n f).poison = s.poison := rfl
@[simp] theorem updQueue_splitRoods : (updQueue s ctx n f).splitRoods = s.splitRoods := rfl
@[simp] theorem updQueue_vds : (updQueue s ctx n f).vds = s.vds := rfl
@[simp] theorem updQueue_tenants : (updQueue s ctx n f).tenants = s.tenants := rfl
@[simp] theorem updQueue_contexts : (updQueue s ctx n f).contexts = s.contexts := rfl
@[simp] theorem updQueue_grants : (updQueue s ctx n f).grants = s.grants := rfl
@[simp] theorem updQueue_pages : (updQueue s ctx n f).pages = s.pages := rfl
@[simp] theorem updQueue_lists : (updQueue s ctx n f).lists = s.lists := rfl
@[simp] theorem updQueue_violations : (updQueue s ctx n f).violations = s.violations := rfl
@[simp] theorem updQueue_deferred : (updQueue s ctx n f).deferred = s.deferred := rfl
@[simp] theorem updQueue_heldCmds : (updQueue s ctx n f).heldCmds = s.heldCmds := rfl
@[simp] theorem updQueue_due : (updQueue s ctx n f).due = s.due := rfl
@[simp] theorem updQueue_quarantine : (updQueue s ctx n f).quarantine = s.quarantine := rfl
@[simp] theorem updQueue_cxlRefused : (updQueue s ctx n f).cxlRefused = s.cxlRefused := rfl
@[simp] theorem updQueue_pf : (updQueue s ctx n f).pf = s.pf := rfl
@[simp] theorem updQueue_registers : (updQueue s ctx n f).registers = s.registers := rfl
@[simp] theorem updQueue_modules : (updQueue s ctx n f).modules = s.modules := rfl
@[simp] theorem updQueue_served : (updQueue s ctx n f).served = s.served := rfl
@[simp] theorem updQueue_launches : (updQueue s ctx n f).launches = s.launches := rfl
@[simp] theorem updQueue_wgs : (updQueue s ctx n f).wgs = s.wgs := rfl
@[simp] theorem updQueue_threads : (updQueue s ctx n f).threads = s.threads := rfl
@[simp] theorem updQueue_slots : (updQueue s ctx n f).slots = s.slots := rfl
@[simp] theorem updQueue_cores : (updQueue s ctx n f).cores = s.cores := rfl
@[simp] theorem updQueue_records : (updQueue s ctx n f).records = s.records := rfl
@[simp] theorem updQueue_cmds : (updQueue s ctx n f).cmds = s.cmds := rfl
@[simp] theorem updQueue_chains : (updQueue s ctx n f).chains = s.chains := rfl
@[simp] theorem updQueue_l1 : (updQueue s ctx n f).l1 = s.l1 := rfl
@[simp] theorem updQueue_tlb : (updQueue s ctx n f).tlb = s.tlb := rfl
@[simp] theorem updQueue_walks : (updQueue s ctx n f).walks = s.walks := rfl
@[simp] theorem updQueue_predictor : (updQueue s ctx n f).predictor = s.predictor := rfl
@[simp] theorem updQueue_l2 : (updQueue s ctx n f).l2 = s.l2 := rfl
@[simp] theorem updQueue_unitSide : (updQueue s ctx n f).unitSide = s.unitSide := rfl
@[simp] theorem updQueue_retiring : (updQueue s ctx n f).retiring = s.retiring := rfl
@[simp] theorem updQueue_reqs : (updQueue s ctx n f).reqs = s.reqs := rfl
@[simp] theorem updQueue_images : (updQueue s ctx n f).images = s.images := rfl
@[simp] theorem updQueue_imagesIn : (updQueue s ctx n f).imagesIn = s.imagesIn := rfl
@[simp] theorem updQueue_monitors : (updQueue s ctx n f).monitors = s.monitors := rfl
@[simp] theorem updQueue_errlog : (updQueue s ctx n f).errlog = s.errlog := rfl
@[simp] theorem updQueue_errHist : (updQueue s ctx n f).errHist = s.errHist := rfl
@[simp] theorem updQueue_links : (updQueue s ctx n f).links = s.links := rfl
@[simp] theorem updQueue_streams : (updQueue s ctx n f).streams = s.streams := rfl
@[simp] theorem updQueue_recording : (updQueue s ctx n f).recording = s.recording := rfl
@[simp] theorem updQueue_replaying : (updQueue s ctx n f).replaying = s.replaying := rfl
@[simp] theorem updQueue_eth : (updQueue s ctx n f).eth = s.eth := rfl
@[simp] theorem updQueue_tick : (updQueue s ctx n f).tick = s.tick := rfl
@[simp] theorem updQueue_tickAt : (updQueue s ctx n f).tickAt = s.tickAt := rfl
@[simp] theorem updQueue_lastRun : (updQueue s ctx n f).lastRun = s.lastRun := rfl
@[simp] theorem updQueue_out : (updQueue s ctx n f).out = s.out := rfl
@[simp] theorem updQueue_agenda : (updQueue s ctx n f).agenda = s.agenda := rfl
@[simp] theorem updQueue_turn : (updQueue s ctx n f).turn = s.turn := rfl
@[simp] theorem updQueue_freeCount : (updQueue s ctx n f).freeCount = s.freeCount := rfl
@[simp] theorem updQueue_nextId : (updQueue s ctx n f).nextId = s.nextId := rfl
@[simp] theorem updQueue_passCycles : (updQueue s ctx n f).passCycles = s.passCycles := rfl
end

section
variable (s : State) (id : Nat) (f : Req → Req)
@[simp] theorem updReq_clock : (updReq s id f).clock = s.clock := rfl
@[simp] theorem updReq_ptp : (updReq s id f).ptp = s.ptp := rfl
@[simp] theorem updReq_boot : (updReq s id f).boot = s.boot := rfl
@[simp] theorem updReq_nv : (updReq s id f).nv = s.nv := rfl
@[simp] theorem updReq_power : (updReq s id f).power = s.power := rfl
@[simp] theorem updReq_mem : (updReq s id f).mem = s.mem := rfl
@[simp] theorem updReq_poison : (updReq s id f).poison = s.poison := rfl
@[simp] theorem updReq_splitRoods : (updReq s id f).splitRoods = s.splitRoods := rfl
@[simp] theorem updReq_vds : (updReq s id f).vds = s.vds := rfl
@[simp] theorem updReq_tenants : (updReq s id f).tenants = s.tenants := rfl
@[simp] theorem updReq_contexts : (updReq s id f).contexts = s.contexts := rfl
@[simp] theorem updReq_grants : (updReq s id f).grants = s.grants := rfl
@[simp] theorem updReq_pages : (updReq s id f).pages = s.pages := rfl
@[simp] theorem updReq_lists : (updReq s id f).lists = s.lists := rfl
@[simp] theorem updReq_violations : (updReq s id f).violations = s.violations := rfl
@[simp] theorem updReq_deferred : (updReq s id f).deferred = s.deferred := rfl
@[simp] theorem updReq_heldCmds : (updReq s id f).heldCmds = s.heldCmds := rfl
@[simp] theorem updReq_due : (updReq s id f).due = s.due := rfl
@[simp] theorem updReq_quarantine : (updReq s id f).quarantine = s.quarantine := rfl
@[simp] theorem updReq_cxlRefused : (updReq s id f).cxlRefused = s.cxlRefused := rfl
@[simp] theorem updReq_pf : (updReq s id f).pf = s.pf := rfl
@[simp] theorem updReq_registers : (updReq s id f).registers = s.registers := rfl
@[simp] theorem updReq_modules : (updReq s id f).modules = s.modules := rfl
@[simp] theorem updReq_queues : (updReq s id f).queues = s.queues := rfl
@[simp] theorem updReq_served : (updReq s id f).served = s.served := rfl
@[simp] theorem updReq_launches : (updReq s id f).launches = s.launches := rfl
@[simp] theorem updReq_wgs : (updReq s id f).wgs = s.wgs := rfl
@[simp] theorem updReq_threads : (updReq s id f).threads = s.threads := rfl
@[simp] theorem updReq_slots : (updReq s id f).slots = s.slots := rfl
@[simp] theorem updReq_cores : (updReq s id f).cores = s.cores := rfl
@[simp] theorem updReq_records : (updReq s id f).records = s.records := rfl
@[simp] theorem updReq_cmds : (updReq s id f).cmds = s.cmds := rfl
@[simp] theorem updReq_chains : (updReq s id f).chains = s.chains := rfl
@[simp] theorem updReq_l1 : (updReq s id f).l1 = s.l1 := rfl
@[simp] theorem updReq_tlb : (updReq s id f).tlb = s.tlb := rfl
@[simp] theorem updReq_walks : (updReq s id f).walks = s.walks := rfl
@[simp] theorem updReq_predictor : (updReq s id f).predictor = s.predictor := rfl
@[simp] theorem updReq_l2 : (updReq s id f).l2 = s.l2 := rfl
@[simp] theorem updReq_unitSide : (updReq s id f).unitSide = s.unitSide := rfl
@[simp] theorem updReq_retiring : (updReq s id f).retiring = s.retiring := rfl
@[simp] theorem updReq_images : (updReq s id f).images = s.images := rfl
@[simp] theorem updReq_imagesIn : (updReq s id f).imagesIn = s.imagesIn := rfl
@[simp] theorem updReq_monitors : (updReq s id f).monitors = s.monitors := rfl
@[simp] theorem updReq_errlog : (updReq s id f).errlog = s.errlog := rfl
@[simp] theorem updReq_errHist : (updReq s id f).errHist = s.errHist := rfl
@[simp] theorem updReq_links : (updReq s id f).links = s.links := rfl
@[simp] theorem updReq_streams : (updReq s id f).streams = s.streams := rfl
@[simp] theorem updReq_recording : (updReq s id f).recording = s.recording := rfl
@[simp] theorem updReq_replaying : (updReq s id f).replaying = s.replaying := rfl
@[simp] theorem updReq_eth : (updReq s id f).eth = s.eth := rfl
@[simp] theorem updReq_tick : (updReq s id f).tick = s.tick := rfl
@[simp] theorem updReq_tickAt : (updReq s id f).tickAt = s.tickAt := rfl
@[simp] theorem updReq_lastRun : (updReq s id f).lastRun = s.lastRun := rfl
@[simp] theorem updReq_out : (updReq s id f).out = s.out := rfl
@[simp] theorem updReq_agenda : (updReq s id f).agenda = s.agenda := rfl
@[simp] theorem updReq_turn : (updReq s id f).turn = s.turn := rfl
@[simp] theorem updReq_freeCount : (updReq s id f).freeCount = s.freeCount := rfl
@[simp] theorem updReq_nextId : (updReq s id f).nextId = s.nextId := rfl
@[simp] theorem updReq_passCycles : (updReq s id f).passCycles = s.passCycles := rfl
end

section
variable (s : State) (id : Nat)
@[simp] theorem dropReq_clock : (dropReq s id).clock = s.clock := rfl
@[simp] theorem dropReq_ptp : (dropReq s id).ptp = s.ptp := rfl
@[simp] theorem dropReq_boot : (dropReq s id).boot = s.boot := rfl
@[simp] theorem dropReq_nv : (dropReq s id).nv = s.nv := rfl
@[simp] theorem dropReq_power : (dropReq s id).power = s.power := rfl
@[simp] theorem dropReq_mem : (dropReq s id).mem = s.mem := rfl
@[simp] theorem dropReq_poison : (dropReq s id).poison = s.poison := rfl
@[simp] theorem dropReq_splitRoods : (dropReq s id).splitRoods = s.splitRoods := rfl
@[simp] theorem dropReq_vds : (dropReq s id).vds = s.vds := rfl
@[simp] theorem dropReq_tenants : (dropReq s id).tenants = s.tenants := rfl
@[simp] theorem dropReq_contexts : (dropReq s id).contexts = s.contexts := rfl
@[simp] theorem dropReq_grants : (dropReq s id).grants = s.grants := rfl
@[simp] theorem dropReq_pages : (dropReq s id).pages = s.pages := rfl
@[simp] theorem dropReq_lists : (dropReq s id).lists = s.lists := rfl
@[simp] theorem dropReq_violations : (dropReq s id).violations = s.violations := rfl
@[simp] theorem dropReq_deferred : (dropReq s id).deferred = s.deferred := rfl
@[simp] theorem dropReq_heldCmds : (dropReq s id).heldCmds = s.heldCmds := rfl
@[simp] theorem dropReq_due : (dropReq s id).due = s.due := rfl
@[simp] theorem dropReq_quarantine : (dropReq s id).quarantine = s.quarantine := rfl
@[simp] theorem dropReq_cxlRefused : (dropReq s id).cxlRefused = s.cxlRefused := rfl
@[simp] theorem dropReq_pf : (dropReq s id).pf = s.pf := rfl
@[simp] theorem dropReq_registers : (dropReq s id).registers = s.registers := rfl
@[simp] theorem dropReq_modules : (dropReq s id).modules = s.modules := rfl
@[simp] theorem dropReq_queues : (dropReq s id).queues = s.queues := rfl
@[simp] theorem dropReq_served : (dropReq s id).served = s.served := rfl
@[simp] theorem dropReq_launches : (dropReq s id).launches = s.launches := rfl
@[simp] theorem dropReq_wgs : (dropReq s id).wgs = s.wgs := rfl
@[simp] theorem dropReq_threads : (dropReq s id).threads = s.threads := rfl
@[simp] theorem dropReq_slots : (dropReq s id).slots = s.slots := rfl
@[simp] theorem dropReq_cores : (dropReq s id).cores = s.cores := rfl
@[simp] theorem dropReq_records : (dropReq s id).records = s.records := rfl
@[simp] theorem dropReq_cmds : (dropReq s id).cmds = s.cmds := rfl
@[simp] theorem dropReq_chains : (dropReq s id).chains = s.chains := rfl
@[simp] theorem dropReq_l1 : (dropReq s id).l1 = s.l1 := rfl
@[simp] theorem dropReq_tlb : (dropReq s id).tlb = s.tlb := rfl
@[simp] theorem dropReq_walks : (dropReq s id).walks = s.walks := rfl
@[simp] theorem dropReq_predictor : (dropReq s id).predictor = s.predictor := rfl
@[simp] theorem dropReq_l2 : (dropReq s id).l2 = s.l2 := rfl
@[simp] theorem dropReq_unitSide : (dropReq s id).unitSide = s.unitSide := rfl
@[simp] theorem dropReq_retiring : (dropReq s id).retiring = s.retiring := rfl
@[simp] theorem dropReq_images : (dropReq s id).images = s.images := rfl
@[simp] theorem dropReq_imagesIn : (dropReq s id).imagesIn = s.imagesIn := rfl
@[simp] theorem dropReq_monitors : (dropReq s id).monitors = s.monitors := rfl
@[simp] theorem dropReq_errlog : (dropReq s id).errlog = s.errlog := rfl
@[simp] theorem dropReq_errHist : (dropReq s id).errHist = s.errHist := rfl
@[simp] theorem dropReq_links : (dropReq s id).links = s.links := rfl
@[simp] theorem dropReq_streams : (dropReq s id).streams = s.streams := rfl
@[simp] theorem dropReq_recording : (dropReq s id).recording = s.recording := rfl
@[simp] theorem dropReq_replaying : (dropReq s id).replaying = s.replaying := rfl
@[simp] theorem dropReq_eth : (dropReq s id).eth = s.eth := rfl
@[simp] theorem dropReq_tick : (dropReq s id).tick = s.tick := rfl
@[simp] theorem dropReq_tickAt : (dropReq s id).tickAt = s.tickAt := rfl
@[simp] theorem dropReq_lastRun : (dropReq s id).lastRun = s.lastRun := rfl
@[simp] theorem dropReq_out : (dropReq s id).out = s.out := rfl
@[simp] theorem dropReq_agenda : (dropReq s id).agenda = s.agenda := rfl
@[simp] theorem dropReq_turn : (dropReq s id).turn = s.turn := rfl
@[simp] theorem dropReq_freeCount : (dropReq s id).freeCount = s.freeCount := rfl
@[simp] theorem dropReq_nextId : (dropReq s id).nextId = s.nextId := rfl
@[simp] theorem dropReq_passCycles : (dropReq s id).passCycles = s.passCycles := rfl
end

section
variable (s : State) (id : Nat) (f : Cmd → Cmd)
@[simp] theorem updCmd_clock : (updCmd s id f).clock = s.clock := rfl
@[simp] theorem updCmd_ptp : (updCmd s id f).ptp = s.ptp := rfl
@[simp] theorem updCmd_boot : (updCmd s id f).boot = s.boot := rfl
@[simp] theorem updCmd_nv : (updCmd s id f).nv = s.nv := rfl
@[simp] theorem updCmd_power : (updCmd s id f).power = s.power := rfl
@[simp] theorem updCmd_mem : (updCmd s id f).mem = s.mem := rfl
@[simp] theorem updCmd_poison : (updCmd s id f).poison = s.poison := rfl
@[simp] theorem updCmd_splitRoods : (updCmd s id f).splitRoods = s.splitRoods := rfl
@[simp] theorem updCmd_vds : (updCmd s id f).vds = s.vds := rfl
@[simp] theorem updCmd_tenants : (updCmd s id f).tenants = s.tenants := rfl
@[simp] theorem updCmd_contexts : (updCmd s id f).contexts = s.contexts := rfl
@[simp] theorem updCmd_grants : (updCmd s id f).grants = s.grants := rfl
@[simp] theorem updCmd_pages : (updCmd s id f).pages = s.pages := rfl
@[simp] theorem updCmd_lists : (updCmd s id f).lists = s.lists := rfl
@[simp] theorem updCmd_violations : (updCmd s id f).violations = s.violations := rfl
@[simp] theorem updCmd_deferred : (updCmd s id f).deferred = s.deferred := rfl
@[simp] theorem updCmd_heldCmds : (updCmd s id f).heldCmds = s.heldCmds := rfl
@[simp] theorem updCmd_due : (updCmd s id f).due = s.due := rfl
@[simp] theorem updCmd_quarantine : (updCmd s id f).quarantine = s.quarantine := rfl
@[simp] theorem updCmd_cxlRefused : (updCmd s id f).cxlRefused = s.cxlRefused := rfl
@[simp] theorem updCmd_pf : (updCmd s id f).pf = s.pf := rfl
@[simp] theorem updCmd_registers : (updCmd s id f).registers = s.registers := rfl
@[simp] theorem updCmd_modules : (updCmd s id f).modules = s.modules := rfl
@[simp] theorem updCmd_queues : (updCmd s id f).queues = s.queues := rfl
@[simp] theorem updCmd_served : (updCmd s id f).served = s.served := rfl
@[simp] theorem updCmd_launches : (updCmd s id f).launches = s.launches := rfl
@[simp] theorem updCmd_wgs : (updCmd s id f).wgs = s.wgs := rfl
@[simp] theorem updCmd_threads : (updCmd s id f).threads = s.threads := rfl
@[simp] theorem updCmd_slots : (updCmd s id f).slots = s.slots := rfl
@[simp] theorem updCmd_cores : (updCmd s id f).cores = s.cores := rfl
@[simp] theorem updCmd_records : (updCmd s id f).records = s.records := rfl
@[simp] theorem updCmd_chains : (updCmd s id f).chains = s.chains := rfl
@[simp] theorem updCmd_l1 : (updCmd s id f).l1 = s.l1 := rfl
@[simp] theorem updCmd_tlb : (updCmd s id f).tlb = s.tlb := rfl
@[simp] theorem updCmd_walks : (updCmd s id f).walks = s.walks := rfl
@[simp] theorem updCmd_predictor : (updCmd s id f).predictor = s.predictor := rfl
@[simp] theorem updCmd_l2 : (updCmd s id f).l2 = s.l2 := rfl
@[simp] theorem updCmd_unitSide : (updCmd s id f).unitSide = s.unitSide := rfl
@[simp] theorem updCmd_retiring : (updCmd s id f).retiring = s.retiring := rfl
@[simp] theorem updCmd_reqs : (updCmd s id f).reqs = s.reqs := rfl
@[simp] theorem updCmd_images : (updCmd s id f).images = s.images := rfl
@[simp] theorem updCmd_imagesIn : (updCmd s id f).imagesIn = s.imagesIn := rfl
@[simp] theorem updCmd_monitors : (updCmd s id f).monitors = s.monitors := rfl
@[simp] theorem updCmd_errlog : (updCmd s id f).errlog = s.errlog := rfl
@[simp] theorem updCmd_errHist : (updCmd s id f).errHist = s.errHist := rfl
@[simp] theorem updCmd_links : (updCmd s id f).links = s.links := rfl
@[simp] theorem updCmd_streams : (updCmd s id f).streams = s.streams := rfl
@[simp] theorem updCmd_recording : (updCmd s id f).recording = s.recording := rfl
@[simp] theorem updCmd_replaying : (updCmd s id f).replaying = s.replaying := rfl
@[simp] theorem updCmd_eth : (updCmd s id f).eth = s.eth := rfl
@[simp] theorem updCmd_tick : (updCmd s id f).tick = s.tick := rfl
@[simp] theorem updCmd_tickAt : (updCmd s id f).tickAt = s.tickAt := rfl
@[simp] theorem updCmd_lastRun : (updCmd s id f).lastRun = s.lastRun := rfl
@[simp] theorem updCmd_out : (updCmd s id f).out = s.out := rfl
@[simp] theorem updCmd_agenda : (updCmd s id f).agenda = s.agenda := rfl
@[simp] theorem updCmd_turn : (updCmd s id f).turn = s.turn := rfl
@[simp] theorem updCmd_freeCount : (updCmd s id f).freeCount = s.freeCount := rfl
@[simp] theorem updCmd_nextId : (updCmd s id f).nextId = s.nextId := rfl
@[simp] theorem updCmd_passCycles : (updCmd s id f).passCycles = s.passCycles := rfl
end

section
variable (s : State) (id : Nat) (f : Record → Record)
@[simp] theorem updRecord_clock : (updRecord s id f).clock = s.clock := rfl
@[simp] theorem updRecord_ptp : (updRecord s id f).ptp = s.ptp := rfl
@[simp] theorem updRecord_boot : (updRecord s id f).boot = s.boot := rfl
@[simp] theorem updRecord_nv : (updRecord s id f).nv = s.nv := rfl
@[simp] theorem updRecord_power : (updRecord s id f).power = s.power := rfl
@[simp] theorem updRecord_mem : (updRecord s id f).mem = s.mem := rfl
@[simp] theorem updRecord_poison : (updRecord s id f).poison = s.poison := rfl
@[simp] theorem updRecord_splitRoods : (updRecord s id f).splitRoods = s.splitRoods := rfl
@[simp] theorem updRecord_vds : (updRecord s id f).vds = s.vds := rfl
@[simp] theorem updRecord_tenants : (updRecord s id f).tenants = s.tenants := rfl
@[simp] theorem updRecord_contexts : (updRecord s id f).contexts = s.contexts := rfl
@[simp] theorem updRecord_grants : (updRecord s id f).grants = s.grants := rfl
@[simp] theorem updRecord_pages : (updRecord s id f).pages = s.pages := rfl
@[simp] theorem updRecord_lists : (updRecord s id f).lists = s.lists := rfl
@[simp] theorem updRecord_violations : (updRecord s id f).violations = s.violations := rfl
@[simp] theorem updRecord_deferred : (updRecord s id f).deferred = s.deferred := rfl
@[simp] theorem updRecord_heldCmds : (updRecord s id f).heldCmds = s.heldCmds := rfl
@[simp] theorem updRecord_due : (updRecord s id f).due = s.due := rfl
@[simp] theorem updRecord_quarantine : (updRecord s id f).quarantine = s.quarantine := rfl
@[simp] theorem updRecord_cxlRefused : (updRecord s id f).cxlRefused = s.cxlRefused := rfl
@[simp] theorem updRecord_pf : (updRecord s id f).pf = s.pf := rfl
@[simp] theorem updRecord_registers : (updRecord s id f).registers = s.registers := rfl
@[simp] theorem updRecord_modules : (updRecord s id f).modules = s.modules := rfl
@[simp] theorem updRecord_queues : (updRecord s id f).queues = s.queues := rfl
@[simp] theorem updRecord_served : (updRecord s id f).served = s.served := rfl
@[simp] theorem updRecord_launches : (updRecord s id f).launches = s.launches := rfl
@[simp] theorem updRecord_wgs : (updRecord s id f).wgs = s.wgs := rfl
@[simp] theorem updRecord_threads : (updRecord s id f).threads = s.threads := rfl
@[simp] theorem updRecord_slots : (updRecord s id f).slots = s.slots := rfl
@[simp] theorem updRecord_cores : (updRecord s id f).cores = s.cores := rfl
@[simp] theorem updRecord_cmds : (updRecord s id f).cmds = s.cmds := rfl
@[simp] theorem updRecord_chains : (updRecord s id f).chains = s.chains := rfl
@[simp] theorem updRecord_l1 : (updRecord s id f).l1 = s.l1 := rfl
@[simp] theorem updRecord_tlb : (updRecord s id f).tlb = s.tlb := rfl
@[simp] theorem updRecord_walks : (updRecord s id f).walks = s.walks := rfl
@[simp] theorem updRecord_predictor : (updRecord s id f).predictor = s.predictor := rfl
@[simp] theorem updRecord_l2 : (updRecord s id f).l2 = s.l2 := rfl
@[simp] theorem updRecord_unitSide : (updRecord s id f).unitSide = s.unitSide := rfl
@[simp] theorem updRecord_retiring : (updRecord s id f).retiring = s.retiring := rfl
@[simp] theorem updRecord_reqs : (updRecord s id f).reqs = s.reqs := rfl
@[simp] theorem updRecord_images : (updRecord s id f).images = s.images := rfl
@[simp] theorem updRecord_imagesIn : (updRecord s id f).imagesIn = s.imagesIn := rfl
@[simp] theorem updRecord_monitors : (updRecord s id f).monitors = s.monitors := rfl
@[simp] theorem updRecord_errlog : (updRecord s id f).errlog = s.errlog := rfl
@[simp] theorem updRecord_errHist : (updRecord s id f).errHist = s.errHist := rfl
@[simp] theorem updRecord_links : (updRecord s id f).links = s.links := rfl
@[simp] theorem updRecord_streams : (updRecord s id f).streams = s.streams := rfl
@[simp] theorem updRecord_recording : (updRecord s id f).recording = s.recording := rfl
@[simp] theorem updRecord_replaying : (updRecord s id f).replaying = s.replaying := rfl
@[simp] theorem updRecord_eth : (updRecord s id f).eth = s.eth := rfl
@[simp] theorem updRecord_tick : (updRecord s id f).tick = s.tick := rfl
@[simp] theorem updRecord_tickAt : (updRecord s id f).tickAt = s.tickAt := rfl
@[simp] theorem updRecord_lastRun : (updRecord s id f).lastRun = s.lastRun := rfl
@[simp] theorem updRecord_out : (updRecord s id f).out = s.out := rfl
@[simp] theorem updRecord_agenda : (updRecord s id f).agenda = s.agenda := rfl
@[simp] theorem updRecord_turn : (updRecord s id f).turn = s.turn := rfl
@[simp] theorem updRecord_freeCount : (updRecord s id f).freeCount = s.freeCount := rfl
@[simp] theorem updRecord_nextId : (updRecord s id f).nextId = s.nextId := rfl
@[simp] theorem updRecord_passCycles : (updRecord s id f).passCycles = s.passCycles := rfl
end

section
variable (s : State) (k : SlotKey) (f : Slot → Slot)
@[simp] theorem updSlot_clock : (updSlot s k f).clock = s.clock := rfl
@[simp] theorem updSlot_ptp : (updSlot s k f).ptp = s.ptp := rfl
@[simp] theorem updSlot_boot : (updSlot s k f).boot = s.boot := rfl
@[simp] theorem updSlot_nv : (updSlot s k f).nv = s.nv := rfl
@[simp] theorem updSlot_power : (updSlot s k f).power = s.power := rfl
@[simp] theorem updSlot_mem : (updSlot s k f).mem = s.mem := rfl
@[simp] theorem updSlot_poison : (updSlot s k f).poison = s.poison := rfl
@[simp] theorem updSlot_splitRoods : (updSlot s k f).splitRoods = s.splitRoods := rfl
@[simp] theorem updSlot_vds : (updSlot s k f).vds = s.vds := rfl
@[simp] theorem updSlot_tenants : (updSlot s k f).tenants = s.tenants := rfl
@[simp] theorem updSlot_contexts : (updSlot s k f).contexts = s.contexts := rfl
@[simp] theorem updSlot_grants : (updSlot s k f).grants = s.grants := rfl
@[simp] theorem updSlot_pages : (updSlot s k f).pages = s.pages := rfl
@[simp] theorem updSlot_lists : (updSlot s k f).lists = s.lists := rfl
@[simp] theorem updSlot_violations : (updSlot s k f).violations = s.violations := rfl
@[simp] theorem updSlot_deferred : (updSlot s k f).deferred = s.deferred := rfl
@[simp] theorem updSlot_heldCmds : (updSlot s k f).heldCmds = s.heldCmds := rfl
@[simp] theorem updSlot_due : (updSlot s k f).due = s.due := rfl
@[simp] theorem updSlot_quarantine : (updSlot s k f).quarantine = s.quarantine := rfl
@[simp] theorem updSlot_cxlRefused : (updSlot s k f).cxlRefused = s.cxlRefused := rfl
@[simp] theorem updSlot_pf : (updSlot s k f).pf = s.pf := rfl
@[simp] theorem updSlot_registers : (updSlot s k f).registers = s.registers := rfl
@[simp] theorem updSlot_modules : (updSlot s k f).modules = s.modules := rfl
@[simp] theorem updSlot_queues : (updSlot s k f).queues = s.queues := rfl
@[simp] theorem updSlot_served : (updSlot s k f).served = s.served := rfl
@[simp] theorem updSlot_launches : (updSlot s k f).launches = s.launches := rfl
@[simp] theorem updSlot_wgs : (updSlot s k f).wgs = s.wgs := rfl
@[simp] theorem updSlot_threads : (updSlot s k f).threads = s.threads := rfl
@[simp] theorem updSlot_cores : (updSlot s k f).cores = s.cores := rfl
@[simp] theorem updSlot_records : (updSlot s k f).records = s.records := rfl
@[simp] theorem updSlot_cmds : (updSlot s k f).cmds = s.cmds := rfl
@[simp] theorem updSlot_chains : (updSlot s k f).chains = s.chains := rfl
@[simp] theorem updSlot_l1 : (updSlot s k f).l1 = s.l1 := rfl
@[simp] theorem updSlot_tlb : (updSlot s k f).tlb = s.tlb := rfl
@[simp] theorem updSlot_walks : (updSlot s k f).walks = s.walks := rfl
@[simp] theorem updSlot_predictor : (updSlot s k f).predictor = s.predictor := rfl
@[simp] theorem updSlot_l2 : (updSlot s k f).l2 = s.l2 := rfl
@[simp] theorem updSlot_unitSide : (updSlot s k f).unitSide = s.unitSide := rfl
@[simp] theorem updSlot_retiring : (updSlot s k f).retiring = s.retiring := rfl
@[simp] theorem updSlot_reqs : (updSlot s k f).reqs = s.reqs := rfl
@[simp] theorem updSlot_images : (updSlot s k f).images = s.images := rfl
@[simp] theorem updSlot_imagesIn : (updSlot s k f).imagesIn = s.imagesIn := rfl
@[simp] theorem updSlot_monitors : (updSlot s k f).monitors = s.monitors := rfl
@[simp] theorem updSlot_errlog : (updSlot s k f).errlog = s.errlog := rfl
@[simp] theorem updSlot_errHist : (updSlot s k f).errHist = s.errHist := rfl
@[simp] theorem updSlot_links : (updSlot s k f).links = s.links := rfl
@[simp] theorem updSlot_streams : (updSlot s k f).streams = s.streams := rfl
@[simp] theorem updSlot_recording : (updSlot s k f).recording = s.recording := rfl
@[simp] theorem updSlot_replaying : (updSlot s k f).replaying = s.replaying := rfl
@[simp] theorem updSlot_eth : (updSlot s k f).eth = s.eth := rfl
@[simp] theorem updSlot_tick : (updSlot s k f).tick = s.tick := rfl
@[simp] theorem updSlot_tickAt : (updSlot s k f).tickAt = s.tickAt := rfl
@[simp] theorem updSlot_lastRun : (updSlot s k f).lastRun = s.lastRun := rfl
@[simp] theorem updSlot_out : (updSlot s k f).out = s.out := rfl
@[simp] theorem updSlot_agenda : (updSlot s k f).agenda = s.agenda := rfl
@[simp] theorem updSlot_turn : (updSlot s k f).turn = s.turn := rfl
@[simp] theorem updSlot_freeCount : (updSlot s k f).freeCount = s.freeCount := rfl
@[simp] theorem updSlot_nextId : (updSlot s k f).nextId = s.nextId := rfl
@[simp] theorem updSlot_passCycles : (updSlot s k f).passCycles = s.passCycles := rfl
end

section
variable (s : State) (k : SlotKey)
@[simp] theorem freeSlot_clock : (freeSlot s k).clock = s.clock := rfl
@[simp] theorem freeSlot_ptp : (freeSlot s k).ptp = s.ptp := rfl
@[simp] theorem freeSlot_boot : (freeSlot s k).boot = s.boot := rfl
@[simp] theorem freeSlot_nv : (freeSlot s k).nv = s.nv := rfl
@[simp] theorem freeSlot_power : (freeSlot s k).power = s.power := rfl
@[simp] theorem freeSlot_mem : (freeSlot s k).mem = s.mem := rfl
@[simp] theorem freeSlot_poison : (freeSlot s k).poison = s.poison := rfl
@[simp] theorem freeSlot_splitRoods : (freeSlot s k).splitRoods = s.splitRoods := rfl
@[simp] theorem freeSlot_vds : (freeSlot s k).vds = s.vds := rfl
@[simp] theorem freeSlot_tenants : (freeSlot s k).tenants = s.tenants := rfl
@[simp] theorem freeSlot_contexts : (freeSlot s k).contexts = s.contexts := rfl
@[simp] theorem freeSlot_grants : (freeSlot s k).grants = s.grants := rfl
@[simp] theorem freeSlot_pages : (freeSlot s k).pages = s.pages := rfl
@[simp] theorem freeSlot_lists : (freeSlot s k).lists = s.lists := rfl
@[simp] theorem freeSlot_violations : (freeSlot s k).violations = s.violations := rfl
@[simp] theorem freeSlot_deferred : (freeSlot s k).deferred = s.deferred := rfl
@[simp] theorem freeSlot_heldCmds : (freeSlot s k).heldCmds = s.heldCmds := rfl
@[simp] theorem freeSlot_due : (freeSlot s k).due = s.due := rfl
@[simp] theorem freeSlot_quarantine : (freeSlot s k).quarantine = s.quarantine := rfl
@[simp] theorem freeSlot_cxlRefused : (freeSlot s k).cxlRefused = s.cxlRefused := rfl
@[simp] theorem freeSlot_pf : (freeSlot s k).pf = s.pf := rfl
@[simp] theorem freeSlot_registers : (freeSlot s k).registers = s.registers := rfl
@[simp] theorem freeSlot_modules : (freeSlot s k).modules = s.modules := rfl
@[simp] theorem freeSlot_queues : (freeSlot s k).queues = s.queues := rfl
@[simp] theorem freeSlot_served : (freeSlot s k).served = s.served := rfl
@[simp] theorem freeSlot_launches : (freeSlot s k).launches = s.launches := rfl
@[simp] theorem freeSlot_wgs : (freeSlot s k).wgs = s.wgs := rfl
@[simp] theorem freeSlot_threads : (freeSlot s k).threads = s.threads := rfl
@[simp] theorem freeSlot_cores : (freeSlot s k).cores = s.cores := rfl
@[simp] theorem freeSlot_records : (freeSlot s k).records = s.records := rfl
@[simp] theorem freeSlot_cmds : (freeSlot s k).cmds = s.cmds := rfl
@[simp] theorem freeSlot_chains : (freeSlot s k).chains = s.chains := rfl
@[simp] theorem freeSlot_l1 : (freeSlot s k).l1 = s.l1 := rfl
@[simp] theorem freeSlot_tlb : (freeSlot s k).tlb = s.tlb := rfl
@[simp] theorem freeSlot_walks : (freeSlot s k).walks = s.walks := rfl
@[simp] theorem freeSlot_predictor : (freeSlot s k).predictor = s.predictor := rfl
@[simp] theorem freeSlot_l2 : (freeSlot s k).l2 = s.l2 := rfl
@[simp] theorem freeSlot_unitSide : (freeSlot s k).unitSide = s.unitSide := rfl
@[simp] theorem freeSlot_retiring : (freeSlot s k).retiring = s.retiring := rfl
@[simp] theorem freeSlot_reqs : (freeSlot s k).reqs = s.reqs := rfl
@[simp] theorem freeSlot_images : (freeSlot s k).images = s.images := rfl
@[simp] theorem freeSlot_imagesIn : (freeSlot s k).imagesIn = s.imagesIn := rfl
@[simp] theorem freeSlot_monitors : (freeSlot s k).monitors = s.monitors := rfl
@[simp] theorem freeSlot_errlog : (freeSlot s k).errlog = s.errlog := rfl
@[simp] theorem freeSlot_errHist : (freeSlot s k).errHist = s.errHist := rfl
@[simp] theorem freeSlot_links : (freeSlot s k).links = s.links := rfl
@[simp] theorem freeSlot_streams : (freeSlot s k).streams = s.streams := rfl
@[simp] theorem freeSlot_recording : (freeSlot s k).recording = s.recording := rfl
@[simp] theorem freeSlot_replaying : (freeSlot s k).replaying = s.replaying := rfl
@[simp] theorem freeSlot_eth : (freeSlot s k).eth = s.eth := rfl
@[simp] theorem freeSlot_tick : (freeSlot s k).tick = s.tick := rfl
@[simp] theorem freeSlot_tickAt : (freeSlot s k).tickAt = s.tickAt := rfl
@[simp] theorem freeSlot_lastRun : (freeSlot s k).lastRun = s.lastRun := rfl
@[simp] theorem freeSlot_out : (freeSlot s k).out = s.out := rfl
@[simp] theorem freeSlot_agenda : (freeSlot s k).agenda = s.agenda := rfl
@[simp] theorem freeSlot_turn : (freeSlot s k).turn = s.turn := rfl
@[simp] theorem freeSlot_freeCount : (freeSlot s k).freeCount = s.freeCount := rfl
@[simp] theorem freeSlot_nextId : (freeSlot s k).nextId = s.nextId := rfl
@[simp] theorem freeSlot_passCycles : (freeSlot s k).passCycles = s.passCycles := rfl
end

section
variable (s : State) (wg tid : Nat) (f : Thread → Thread)
@[simp] theorem updThread_clock : (updThread s wg tid f).clock = s.clock := rfl
@[simp] theorem updThread_ptp : (updThread s wg tid f).ptp = s.ptp := rfl
@[simp] theorem updThread_boot : (updThread s wg tid f).boot = s.boot := rfl
@[simp] theorem updThread_nv : (updThread s wg tid f).nv = s.nv := rfl
@[simp] theorem updThread_power : (updThread s wg tid f).power = s.power := rfl
@[simp] theorem updThread_mem : (updThread s wg tid f).mem = s.mem := rfl
@[simp] theorem updThread_poison : (updThread s wg tid f).poison = s.poison := rfl
@[simp] theorem updThread_splitRoods : (updThread s wg tid f).splitRoods = s.splitRoods := rfl
@[simp] theorem updThread_vds : (updThread s wg tid f).vds = s.vds := rfl
@[simp] theorem updThread_tenants : (updThread s wg tid f).tenants = s.tenants := rfl
@[simp] theorem updThread_contexts : (updThread s wg tid f).contexts = s.contexts := rfl
@[simp] theorem updThread_grants : (updThread s wg tid f).grants = s.grants := rfl
@[simp] theorem updThread_pages : (updThread s wg tid f).pages = s.pages := rfl
@[simp] theorem updThread_lists : (updThread s wg tid f).lists = s.lists := rfl
@[simp] theorem updThread_violations : (updThread s wg tid f).violations = s.violations := rfl
@[simp] theorem updThread_deferred : (updThread s wg tid f).deferred = s.deferred := rfl
@[simp] theorem updThread_heldCmds : (updThread s wg tid f).heldCmds = s.heldCmds := rfl
@[simp] theorem updThread_due : (updThread s wg tid f).due = s.due := rfl
@[simp] theorem updThread_quarantine : (updThread s wg tid f).quarantine = s.quarantine := rfl
@[simp] theorem updThread_cxlRefused : (updThread s wg tid f).cxlRefused = s.cxlRefused := rfl
@[simp] theorem updThread_pf : (updThread s wg tid f).pf = s.pf := rfl
@[simp] theorem updThread_registers : (updThread s wg tid f).registers = s.registers := rfl
@[simp] theorem updThread_modules : (updThread s wg tid f).modules = s.modules := rfl
@[simp] theorem updThread_queues : (updThread s wg tid f).queues = s.queues := rfl
@[simp] theorem updThread_served : (updThread s wg tid f).served = s.served := rfl
@[simp] theorem updThread_launches : (updThread s wg tid f).launches = s.launches := rfl
@[simp] theorem updThread_wgs : (updThread s wg tid f).wgs = s.wgs := rfl
@[simp] theorem updThread_slots : (updThread s wg tid f).slots = s.slots := rfl
@[simp] theorem updThread_cores : (updThread s wg tid f).cores = s.cores := rfl
@[simp] theorem updThread_records : (updThread s wg tid f).records = s.records := rfl
@[simp] theorem updThread_cmds : (updThread s wg tid f).cmds = s.cmds := rfl
@[simp] theorem updThread_chains : (updThread s wg tid f).chains = s.chains := rfl
@[simp] theorem updThread_l1 : (updThread s wg tid f).l1 = s.l1 := rfl
@[simp] theorem updThread_tlb : (updThread s wg tid f).tlb = s.tlb := rfl
@[simp] theorem updThread_walks : (updThread s wg tid f).walks = s.walks := rfl
@[simp] theorem updThread_predictor : (updThread s wg tid f).predictor = s.predictor := rfl
@[simp] theorem updThread_l2 : (updThread s wg tid f).l2 = s.l2 := rfl
@[simp] theorem updThread_unitSide : (updThread s wg tid f).unitSide = s.unitSide := rfl
@[simp] theorem updThread_retiring : (updThread s wg tid f).retiring = s.retiring := rfl
@[simp] theorem updThread_reqs : (updThread s wg tid f).reqs = s.reqs := rfl
@[simp] theorem updThread_images : (updThread s wg tid f).images = s.images := rfl
@[simp] theorem updThread_imagesIn : (updThread s wg tid f).imagesIn = s.imagesIn := rfl
@[simp] theorem updThread_monitors : (updThread s wg tid f).monitors = s.monitors := rfl
@[simp] theorem updThread_errlog : (updThread s wg tid f).errlog = s.errlog := rfl
@[simp] theorem updThread_errHist : (updThread s wg tid f).errHist = s.errHist := rfl
@[simp] theorem updThread_links : (updThread s wg tid f).links = s.links := rfl
@[simp] theorem updThread_streams : (updThread s wg tid f).streams = s.streams := rfl
@[simp] theorem updThread_recording : (updThread s wg tid f).recording = s.recording := rfl
@[simp] theorem updThread_replaying : (updThread s wg tid f).replaying = s.replaying := rfl
@[simp] theorem updThread_eth : (updThread s wg tid f).eth = s.eth := rfl
@[simp] theorem updThread_tick : (updThread s wg tid f).tick = s.tick := rfl
@[simp] theorem updThread_tickAt : (updThread s wg tid f).tickAt = s.tickAt := rfl
@[simp] theorem updThread_lastRun : (updThread s wg tid f).lastRun = s.lastRun := rfl
@[simp] theorem updThread_out : (updThread s wg tid f).out = s.out := rfl
@[simp] theorem updThread_agenda : (updThread s wg tid f).agenda = s.agenda := rfl
@[simp] theorem updThread_turn : (updThread s wg tid f).turn = s.turn := rfl
@[simp] theorem updThread_freeCount : (updThread s wg tid f).freeCount = s.freeCount := rfl
@[simp] theorem updThread_nextId : (updThread s wg tid f).nextId = s.nextId := rfl
@[simp] theorem updThread_passCycles : (updThread s wg tid f).passCycles = s.passCycles := rfl
end

section
variable (s : State) (p : Thread → Bool) (f : Thread → Thread)
@[simp] theorem updThreads_clock : (updThreads s p f).clock = s.clock := rfl
@[simp] theorem updThreads_ptp : (updThreads s p f).ptp = s.ptp := rfl
@[simp] theorem updThreads_boot : (updThreads s p f).boot = s.boot := rfl
@[simp] theorem updThreads_nv : (updThreads s p f).nv = s.nv := rfl
@[simp] theorem updThreads_power : (updThreads s p f).power = s.power := rfl
@[simp] theorem updThreads_mem : (updThreads s p f).mem = s.mem := rfl
@[simp] theorem updThreads_poison : (updThreads s p f).poison = s.poison := rfl
@[simp] theorem updThreads_splitRoods : (updThreads s p f).splitRoods = s.splitRoods := rfl
@[simp] theorem updThreads_vds : (updThreads s p f).vds = s.vds := rfl
@[simp] theorem updThreads_tenants : (updThreads s p f).tenants = s.tenants := rfl
@[simp] theorem updThreads_contexts : (updThreads s p f).contexts = s.contexts := rfl
@[simp] theorem updThreads_grants : (updThreads s p f).grants = s.grants := rfl
@[simp] theorem updThreads_pages : (updThreads s p f).pages = s.pages := rfl
@[simp] theorem updThreads_lists : (updThreads s p f).lists = s.lists := rfl
@[simp] theorem updThreads_violations : (updThreads s p f).violations = s.violations := rfl
@[simp] theorem updThreads_deferred : (updThreads s p f).deferred = s.deferred := rfl
@[simp] theorem updThreads_heldCmds : (updThreads s p f).heldCmds = s.heldCmds := rfl
@[simp] theorem updThreads_due : (updThreads s p f).due = s.due := rfl
@[simp] theorem updThreads_quarantine : (updThreads s p f).quarantine = s.quarantine := rfl
@[simp] theorem updThreads_cxlRefused : (updThreads s p f).cxlRefused = s.cxlRefused := rfl
@[simp] theorem updThreads_pf : (updThreads s p f).pf = s.pf := rfl
@[simp] theorem updThreads_registers : (updThreads s p f).registers = s.registers := rfl
@[simp] theorem updThreads_modules : (updThreads s p f).modules = s.modules := rfl
@[simp] theorem updThreads_queues : (updThreads s p f).queues = s.queues := rfl
@[simp] theorem updThreads_served : (updThreads s p f).served = s.served := rfl
@[simp] theorem updThreads_launches : (updThreads s p f).launches = s.launches := rfl
@[simp] theorem updThreads_wgs : (updThreads s p f).wgs = s.wgs := rfl
@[simp] theorem updThreads_slots : (updThreads s p f).slots = s.slots := rfl
@[simp] theorem updThreads_cores : (updThreads s p f).cores = s.cores := rfl
@[simp] theorem updThreads_records : (updThreads s p f).records = s.records := rfl
@[simp] theorem updThreads_cmds : (updThreads s p f).cmds = s.cmds := rfl
@[simp] theorem updThreads_chains : (updThreads s p f).chains = s.chains := rfl
@[simp] theorem updThreads_l1 : (updThreads s p f).l1 = s.l1 := rfl
@[simp] theorem updThreads_tlb : (updThreads s p f).tlb = s.tlb := rfl
@[simp] theorem updThreads_walks : (updThreads s p f).walks = s.walks := rfl
@[simp] theorem updThreads_predictor : (updThreads s p f).predictor = s.predictor := rfl
@[simp] theorem updThreads_l2 : (updThreads s p f).l2 = s.l2 := rfl
@[simp] theorem updThreads_unitSide : (updThreads s p f).unitSide = s.unitSide := rfl
@[simp] theorem updThreads_retiring : (updThreads s p f).retiring = s.retiring := rfl
@[simp] theorem updThreads_reqs : (updThreads s p f).reqs = s.reqs := rfl
@[simp] theorem updThreads_images : (updThreads s p f).images = s.images := rfl
@[simp] theorem updThreads_imagesIn : (updThreads s p f).imagesIn = s.imagesIn := rfl
@[simp] theorem updThreads_monitors : (updThreads s p f).monitors = s.monitors := rfl
@[simp] theorem updThreads_errlog : (updThreads s p f).errlog = s.errlog := rfl
@[simp] theorem updThreads_errHist : (updThreads s p f).errHist = s.errHist := rfl
@[simp] theorem updThreads_links : (updThreads s p f).links = s.links := rfl
@[simp] theorem updThreads_streams : (updThreads s p f).streams = s.streams := rfl
@[simp] theorem updThreads_recording : (updThreads s p f).recording = s.recording := rfl
@[simp] theorem updThreads_replaying : (updThreads s p f).replaying = s.replaying := rfl
@[simp] theorem updThreads_eth : (updThreads s p f).eth = s.eth := rfl
@[simp] theorem updThreads_tick : (updThreads s p f).tick = s.tick := rfl
@[simp] theorem updThreads_tickAt : (updThreads s p f).tickAt = s.tickAt := rfl
@[simp] theorem updThreads_lastRun : (updThreads s p f).lastRun = s.lastRun := rfl
@[simp] theorem updThreads_out : (updThreads s p f).out = s.out := rfl
@[simp] theorem updThreads_agenda : (updThreads s p f).agenda = s.agenda := rfl
@[simp] theorem updThreads_turn : (updThreads s p f).turn = s.turn := rfl
@[simp] theorem updThreads_freeCount : (updThreads s p f).freeCount = s.freeCount := rfl
@[simp] theorem updThreads_nextId : (updThreads s p f).nextId = s.nextId := rfl
@[simp] theorem updThreads_passCycles : (updThreads s p f).passCycles = s.passCycles := rfl
end

section
variable (s : State) (t : Thread)
@[simp] theorem setThread_clock : (setThread s t).clock = s.clock := rfl
@[simp] theorem setThread_ptp : (setThread s t).ptp = s.ptp := rfl
@[simp] theorem setThread_boot : (setThread s t).boot = s.boot := rfl
@[simp] theorem setThread_nv : (setThread s t).nv = s.nv := rfl
@[simp] theorem setThread_power : (setThread s t).power = s.power := rfl
@[simp] theorem setThread_mem : (setThread s t).mem = s.mem := rfl
@[simp] theorem setThread_poison : (setThread s t).poison = s.poison := rfl
@[simp] theorem setThread_splitRoods : (setThread s t).splitRoods = s.splitRoods := rfl
@[simp] theorem setThread_vds : (setThread s t).vds = s.vds := rfl
@[simp] theorem setThread_tenants : (setThread s t).tenants = s.tenants := rfl
@[simp] theorem setThread_contexts : (setThread s t).contexts = s.contexts := rfl
@[simp] theorem setThread_grants : (setThread s t).grants = s.grants := rfl
@[simp] theorem setThread_pages : (setThread s t).pages = s.pages := rfl
@[simp] theorem setThread_lists : (setThread s t).lists = s.lists := rfl
@[simp] theorem setThread_violations : (setThread s t).violations = s.violations := rfl
@[simp] theorem setThread_deferred : (setThread s t).deferred = s.deferred := rfl
@[simp] theorem setThread_heldCmds : (setThread s t).heldCmds = s.heldCmds := rfl
@[simp] theorem setThread_due : (setThread s t).due = s.due := rfl
@[simp] theorem setThread_quarantine : (setThread s t).quarantine = s.quarantine := rfl
@[simp] theorem setThread_cxlRefused : (setThread s t).cxlRefused = s.cxlRefused := rfl
@[simp] theorem setThread_pf : (setThread s t).pf = s.pf := rfl
@[simp] theorem setThread_registers : (setThread s t).registers = s.registers := rfl
@[simp] theorem setThread_modules : (setThread s t).modules = s.modules := rfl
@[simp] theorem setThread_queues : (setThread s t).queues = s.queues := rfl
@[simp] theorem setThread_served : (setThread s t).served = s.served := rfl
@[simp] theorem setThread_launches : (setThread s t).launches = s.launches := rfl
@[simp] theorem setThread_wgs : (setThread s t).wgs = s.wgs := rfl
@[simp] theorem setThread_slots : (setThread s t).slots = s.slots := rfl
@[simp] theorem setThread_cores : (setThread s t).cores = s.cores := rfl
@[simp] theorem setThread_records : (setThread s t).records = s.records := rfl
@[simp] theorem setThread_cmds : (setThread s t).cmds = s.cmds := rfl
@[simp] theorem setThread_chains : (setThread s t).chains = s.chains := rfl
@[simp] theorem setThread_l1 : (setThread s t).l1 = s.l1 := rfl
@[simp] theorem setThread_tlb : (setThread s t).tlb = s.tlb := rfl
@[simp] theorem setThread_walks : (setThread s t).walks = s.walks := rfl
@[simp] theorem setThread_predictor : (setThread s t).predictor = s.predictor := rfl
@[simp] theorem setThread_l2 : (setThread s t).l2 = s.l2 := rfl
@[simp] theorem setThread_unitSide : (setThread s t).unitSide = s.unitSide := rfl
@[simp] theorem setThread_retiring : (setThread s t).retiring = s.retiring := rfl
@[simp] theorem setThread_reqs : (setThread s t).reqs = s.reqs := rfl
@[simp] theorem setThread_images : (setThread s t).images = s.images := rfl
@[simp] theorem setThread_imagesIn : (setThread s t).imagesIn = s.imagesIn := rfl
@[simp] theorem setThread_monitors : (setThread s t).monitors = s.monitors := rfl
@[simp] theorem setThread_errlog : (setThread s t).errlog = s.errlog := rfl
@[simp] theorem setThread_errHist : (setThread s t).errHist = s.errHist := rfl
@[simp] theorem setThread_links : (setThread s t).links = s.links := rfl
@[simp] theorem setThread_streams : (setThread s t).streams = s.streams := rfl
@[simp] theorem setThread_recording : (setThread s t).recording = s.recording := rfl
@[simp] theorem setThread_replaying : (setThread s t).replaying = s.replaying := rfl
@[simp] theorem setThread_eth : (setThread s t).eth = s.eth := rfl
@[simp] theorem setThread_tick : (setThread s t).tick = s.tick := rfl
@[simp] theorem setThread_tickAt : (setThread s t).tickAt = s.tickAt := rfl
@[simp] theorem setThread_lastRun : (setThread s t).lastRun = s.lastRun := rfl
@[simp] theorem setThread_out : (setThread s t).out = s.out := rfl
@[simp] theorem setThread_agenda : (setThread s t).agenda = s.agenda := rfl
@[simp] theorem setThread_turn : (setThread s t).turn = s.turn := rfl
@[simp] theorem setThread_freeCount : (setThread s t).freeCount = s.freeCount := rfl
@[simp] theorem setThread_nextId : (setThread s t).nextId = s.nextId := rfl
@[simp] theorem setThread_passCycles : (setThread s t).passCycles = s.passCycles := rfl
end

section
variable (s : State) (wg tid : Nat)
@[simp] theorem dropThread_clock : (dropThread s wg tid).clock = s.clock := rfl
@[simp] theorem dropThread_ptp : (dropThread s wg tid).ptp = s.ptp := rfl
@[simp] theorem dropThread_boot : (dropThread s wg tid).boot = s.boot := rfl
@[simp] theorem dropThread_nv : (dropThread s wg tid).nv = s.nv := rfl
@[simp] theorem dropThread_power : (dropThread s wg tid).power = s.power := rfl
@[simp] theorem dropThread_mem : (dropThread s wg tid).mem = s.mem := rfl
@[simp] theorem dropThread_poison : (dropThread s wg tid).poison = s.poison := rfl
@[simp] theorem dropThread_splitRoods : (dropThread s wg tid).splitRoods = s.splitRoods := rfl
@[simp] theorem dropThread_vds : (dropThread s wg tid).vds = s.vds := rfl
@[simp] theorem dropThread_tenants : (dropThread s wg tid).tenants = s.tenants := rfl
@[simp] theorem dropThread_contexts : (dropThread s wg tid).contexts = s.contexts := rfl
@[simp] theorem dropThread_grants : (dropThread s wg tid).grants = s.grants := rfl
@[simp] theorem dropThread_pages : (dropThread s wg tid).pages = s.pages := rfl
@[simp] theorem dropThread_lists : (dropThread s wg tid).lists = s.lists := rfl
@[simp] theorem dropThread_violations : (dropThread s wg tid).violations = s.violations := rfl
@[simp] theorem dropThread_deferred : (dropThread s wg tid).deferred = s.deferred := rfl
@[simp] theorem dropThread_heldCmds : (dropThread s wg tid).heldCmds = s.heldCmds := rfl
@[simp] theorem dropThread_due : (dropThread s wg tid).due = s.due := rfl
@[simp] theorem dropThread_quarantine : (dropThread s wg tid).quarantine = s.quarantine := rfl
@[simp] theorem dropThread_cxlRefused : (dropThread s wg tid).cxlRefused = s.cxlRefused := rfl
@[simp] theorem dropThread_pf : (dropThread s wg tid).pf = s.pf := rfl
@[simp] theorem dropThread_registers : (dropThread s wg tid).registers = s.registers := rfl
@[simp] theorem dropThread_modules : (dropThread s wg tid).modules = s.modules := rfl
@[simp] theorem dropThread_queues : (dropThread s wg tid).queues = s.queues := rfl
@[simp] theorem dropThread_served : (dropThread s wg tid).served = s.served := rfl
@[simp] theorem dropThread_launches : (dropThread s wg tid).launches = s.launches := rfl
@[simp] theorem dropThread_wgs : (dropThread s wg tid).wgs = s.wgs := rfl
@[simp] theorem dropThread_slots : (dropThread s wg tid).slots = s.slots := rfl
@[simp] theorem dropThread_cores : (dropThread s wg tid).cores = s.cores := rfl
@[simp] theorem dropThread_records : (dropThread s wg tid).records = s.records := rfl
@[simp] theorem dropThread_cmds : (dropThread s wg tid).cmds = s.cmds := rfl
@[simp] theorem dropThread_chains : (dropThread s wg tid).chains = s.chains := rfl
@[simp] theorem dropThread_l1 : (dropThread s wg tid).l1 = s.l1 := rfl
@[simp] theorem dropThread_tlb : (dropThread s wg tid).tlb = s.tlb := rfl
@[simp] theorem dropThread_walks : (dropThread s wg tid).walks = s.walks := rfl
@[simp] theorem dropThread_predictor : (dropThread s wg tid).predictor = s.predictor := rfl
@[simp] theorem dropThread_l2 : (dropThread s wg tid).l2 = s.l2 := rfl
@[simp] theorem dropThread_unitSide : (dropThread s wg tid).unitSide = s.unitSide := rfl
@[simp] theorem dropThread_retiring : (dropThread s wg tid).retiring = s.retiring := rfl
@[simp] theorem dropThread_reqs : (dropThread s wg tid).reqs = s.reqs := rfl
@[simp] theorem dropThread_images : (dropThread s wg tid).images = s.images := rfl
@[simp] theorem dropThread_imagesIn : (dropThread s wg tid).imagesIn = s.imagesIn := rfl
@[simp] theorem dropThread_monitors : (dropThread s wg tid).monitors = s.monitors := rfl
@[simp] theorem dropThread_errlog : (dropThread s wg tid).errlog = s.errlog := rfl
@[simp] theorem dropThread_errHist : (dropThread s wg tid).errHist = s.errHist := rfl
@[simp] theorem dropThread_links : (dropThread s wg tid).links = s.links := rfl
@[simp] theorem dropThread_streams : (dropThread s wg tid).streams = s.streams := rfl
@[simp] theorem dropThread_recording : (dropThread s wg tid).recording = s.recording := rfl
@[simp] theorem dropThread_replaying : (dropThread s wg tid).replaying = s.replaying := rfl
@[simp] theorem dropThread_eth : (dropThread s wg tid).eth = s.eth := rfl
@[simp] theorem dropThread_tick : (dropThread s wg tid).tick = s.tick := rfl
@[simp] theorem dropThread_tickAt : (dropThread s wg tid).tickAt = s.tickAt := rfl
@[simp] theorem dropThread_lastRun : (dropThread s wg tid).lastRun = s.lastRun := rfl
@[simp] theorem dropThread_out : (dropThread s wg tid).out = s.out := rfl
@[simp] theorem dropThread_agenda : (dropThread s wg tid).agenda = s.agenda := rfl
@[simp] theorem dropThread_turn : (dropThread s wg tid).turn = s.turn := rfl
@[simp] theorem dropThread_freeCount : (dropThread s wg tid).freeCount = s.freeCount := rfl
@[simp] theorem dropThread_nextId : (dropThread s wg tid).nextId = s.nextId := rfl
@[simp] theorem dropThread_passCycles : (dropThread s wg tid).passCycles = s.passCycles := rfl
end

section
variable (s : State) (t : Thread)
@[simp] theorem addThread_clock : (addThread s t).clock = s.clock := rfl
@[simp] theorem addThread_ptp : (addThread s t).ptp = s.ptp := rfl
@[simp] theorem addThread_boot : (addThread s t).boot = s.boot := rfl
@[simp] theorem addThread_nv : (addThread s t).nv = s.nv := rfl
@[simp] theorem addThread_power : (addThread s t).power = s.power := rfl
@[simp] theorem addThread_mem : (addThread s t).mem = s.mem := rfl
@[simp] theorem addThread_poison : (addThread s t).poison = s.poison := rfl
@[simp] theorem addThread_splitRoods : (addThread s t).splitRoods = s.splitRoods := rfl
@[simp] theorem addThread_vds : (addThread s t).vds = s.vds := rfl
@[simp] theorem addThread_tenants : (addThread s t).tenants = s.tenants := rfl
@[simp] theorem addThread_contexts : (addThread s t).contexts = s.contexts := rfl
@[simp] theorem addThread_grants : (addThread s t).grants = s.grants := rfl
@[simp] theorem addThread_pages : (addThread s t).pages = s.pages := rfl
@[simp] theorem addThread_lists : (addThread s t).lists = s.lists := rfl
@[simp] theorem addThread_violations : (addThread s t).violations = s.violations := rfl
@[simp] theorem addThread_deferred : (addThread s t).deferred = s.deferred := rfl
@[simp] theorem addThread_heldCmds : (addThread s t).heldCmds = s.heldCmds := rfl
@[simp] theorem addThread_due : (addThread s t).due = s.due := rfl
@[simp] theorem addThread_quarantine : (addThread s t).quarantine = s.quarantine := rfl
@[simp] theorem addThread_cxlRefused : (addThread s t).cxlRefused = s.cxlRefused := rfl
@[simp] theorem addThread_pf : (addThread s t).pf = s.pf := rfl
@[simp] theorem addThread_registers : (addThread s t).registers = s.registers := rfl
@[simp] theorem addThread_modules : (addThread s t).modules = s.modules := rfl
@[simp] theorem addThread_queues : (addThread s t).queues = s.queues := rfl
@[simp] theorem addThread_served : (addThread s t).served = s.served := rfl
@[simp] theorem addThread_launches : (addThread s t).launches = s.launches := rfl
@[simp] theorem addThread_wgs : (addThread s t).wgs = s.wgs := rfl
@[simp] theorem addThread_slots : (addThread s t).slots = s.slots := rfl
@[simp] theorem addThread_cores : (addThread s t).cores = s.cores := rfl
@[simp] theorem addThread_records : (addThread s t).records = s.records := rfl
@[simp] theorem addThread_cmds : (addThread s t).cmds = s.cmds := rfl
@[simp] theorem addThread_chains : (addThread s t).chains = s.chains := rfl
@[simp] theorem addThread_l1 : (addThread s t).l1 = s.l1 := rfl
@[simp] theorem addThread_tlb : (addThread s t).tlb = s.tlb := rfl
@[simp] theorem addThread_walks : (addThread s t).walks = s.walks := rfl
@[simp] theorem addThread_predictor : (addThread s t).predictor = s.predictor := rfl
@[simp] theorem addThread_l2 : (addThread s t).l2 = s.l2 := rfl
@[simp] theorem addThread_unitSide : (addThread s t).unitSide = s.unitSide := rfl
@[simp] theorem addThread_retiring : (addThread s t).retiring = s.retiring := rfl
@[simp] theorem addThread_reqs : (addThread s t).reqs = s.reqs := rfl
@[simp] theorem addThread_images : (addThread s t).images = s.images := rfl
@[simp] theorem addThread_imagesIn : (addThread s t).imagesIn = s.imagesIn := rfl
@[simp] theorem addThread_monitors : (addThread s t).monitors = s.monitors := rfl
@[simp] theorem addThread_errlog : (addThread s t).errlog = s.errlog := rfl
@[simp] theorem addThread_errHist : (addThread s t).errHist = s.errHist := rfl
@[simp] theorem addThread_links : (addThread s t).links = s.links := rfl
@[simp] theorem addThread_streams : (addThread s t).streams = s.streams := rfl
@[simp] theorem addThread_recording : (addThread s t).recording = s.recording := rfl
@[simp] theorem addThread_replaying : (addThread s t).replaying = s.replaying := rfl
@[simp] theorem addThread_eth : (addThread s t).eth = s.eth := rfl
@[simp] theorem addThread_tick : (addThread s t).tick = s.tick := rfl
@[simp] theorem addThread_tickAt : (addThread s t).tickAt = s.tickAt := rfl
@[simp] theorem addThread_lastRun : (addThread s t).lastRun = s.lastRun := rfl
@[simp] theorem addThread_out : (addThread s t).out = s.out := rfl
@[simp] theorem addThread_agenda : (addThread s t).agenda = s.agenda := rfl
@[simp] theorem addThread_turn : (addThread s t).turn = s.turn := rfl
@[simp] theorem addThread_freeCount : (addThread s t).freeCount = s.freeCount := rfl
@[simp] theorem addThread_nextId : (addThread s t).nextId = s.nextId := rfl
@[simp] theorem addThread_passCycles : (addThread s t).passCycles = s.passCycles := rfl
end

section
variable (s : State) (c : CoreState)
@[simp] theorem setCore_clock : (setCore s c).clock = s.clock := rfl
@[simp] theorem setCore_ptp : (setCore s c).ptp = s.ptp := rfl
@[simp] theorem setCore_boot : (setCore s c).boot = s.boot := rfl
@[simp] theorem setCore_nv : (setCore s c).nv = s.nv := rfl
@[simp] theorem setCore_power : (setCore s c).power = s.power := rfl
@[simp] theorem setCore_mem : (setCore s c).mem = s.mem := rfl
@[simp] theorem setCore_poison : (setCore s c).poison = s.poison := rfl
@[simp] theorem setCore_splitRoods : (setCore s c).splitRoods = s.splitRoods := rfl
@[simp] theorem setCore_vds : (setCore s c).vds = s.vds := rfl
@[simp] theorem setCore_tenants : (setCore s c).tenants = s.tenants := rfl
@[simp] theorem setCore_contexts : (setCore s c).contexts = s.contexts := rfl
@[simp] theorem setCore_grants : (setCore s c).grants = s.grants := rfl
@[simp] theorem setCore_pages : (setCore s c).pages = s.pages := rfl
@[simp] theorem setCore_lists : (setCore s c).lists = s.lists := rfl
@[simp] theorem setCore_violations : (setCore s c).violations = s.violations := rfl
@[simp] theorem setCore_deferred : (setCore s c).deferred = s.deferred := rfl
@[simp] theorem setCore_heldCmds : (setCore s c).heldCmds = s.heldCmds := rfl
@[simp] theorem setCore_due : (setCore s c).due = s.due := rfl
@[simp] theorem setCore_quarantine : (setCore s c).quarantine = s.quarantine := rfl
@[simp] theorem setCore_cxlRefused : (setCore s c).cxlRefused = s.cxlRefused := rfl
@[simp] theorem setCore_pf : (setCore s c).pf = s.pf := rfl
@[simp] theorem setCore_registers : (setCore s c).registers = s.registers := rfl
@[simp] theorem setCore_modules : (setCore s c).modules = s.modules := rfl
@[simp] theorem setCore_queues : (setCore s c).queues = s.queues := rfl
@[simp] theorem setCore_served : (setCore s c).served = s.served := rfl
@[simp] theorem setCore_launches : (setCore s c).launches = s.launches := rfl
@[simp] theorem setCore_wgs : (setCore s c).wgs = s.wgs := rfl
@[simp] theorem setCore_threads : (setCore s c).threads = s.threads := rfl
@[simp] theorem setCore_slots : (setCore s c).slots = s.slots := rfl
@[simp] theorem setCore_records : (setCore s c).records = s.records := rfl
@[simp] theorem setCore_cmds : (setCore s c).cmds = s.cmds := rfl
@[simp] theorem setCore_chains : (setCore s c).chains = s.chains := rfl
@[simp] theorem setCore_l1 : (setCore s c).l1 = s.l1 := rfl
@[simp] theorem setCore_tlb : (setCore s c).tlb = s.tlb := rfl
@[simp] theorem setCore_walks : (setCore s c).walks = s.walks := rfl
@[simp] theorem setCore_predictor : (setCore s c).predictor = s.predictor := rfl
@[simp] theorem setCore_l2 : (setCore s c).l2 = s.l2 := rfl
@[simp] theorem setCore_unitSide : (setCore s c).unitSide = s.unitSide := rfl
@[simp] theorem setCore_retiring : (setCore s c).retiring = s.retiring := rfl
@[simp] theorem setCore_reqs : (setCore s c).reqs = s.reqs := rfl
@[simp] theorem setCore_images : (setCore s c).images = s.images := rfl
@[simp] theorem setCore_imagesIn : (setCore s c).imagesIn = s.imagesIn := rfl
@[simp] theorem setCore_monitors : (setCore s c).monitors = s.monitors := rfl
@[simp] theorem setCore_errlog : (setCore s c).errlog = s.errlog := rfl
@[simp] theorem setCore_errHist : (setCore s c).errHist = s.errHist := rfl
@[simp] theorem setCore_links : (setCore s c).links = s.links := rfl
@[simp] theorem setCore_streams : (setCore s c).streams = s.streams := rfl
@[simp] theorem setCore_recording : (setCore s c).recording = s.recording := rfl
@[simp] theorem setCore_replaying : (setCore s c).replaying = s.replaying := rfl
@[simp] theorem setCore_eth : (setCore s c).eth = s.eth := rfl
@[simp] theorem setCore_tick : (setCore s c).tick = s.tick := rfl
@[simp] theorem setCore_tickAt : (setCore s c).tickAt = s.tickAt := rfl
@[simp] theorem setCore_lastRun : (setCore s c).lastRun = s.lastRun := rfl
@[simp] theorem setCore_out : (setCore s c).out = s.out := rfl
@[simp] theorem setCore_agenda : (setCore s c).agenda = s.agenda := rfl
@[simp] theorem setCore_turn : (setCore s c).turn = s.turn := rfl
@[simp] theorem setCore_freeCount : (setCore s c).freeCount = s.freeCount := rfl
@[simp] theorem setCore_nextId : (setCore s c).nextId = s.nextId := rfl
@[simp] theorem setCore_passCycles : (setCore s c).passCycles = s.passCycles := rfl
end

section
variable (s : State) (o : Out)
@[simp] theorem emit_clock : (emit s o).clock = s.clock := rfl
@[simp] theorem emit_ptp : (emit s o).ptp = s.ptp := rfl
@[simp] theorem emit_boot : (emit s o).boot = s.boot := rfl
@[simp] theorem emit_nv : (emit s o).nv = s.nv := rfl
@[simp] theorem emit_power : (emit s o).power = s.power := rfl
@[simp] theorem emit_mem : (emit s o).mem = s.mem := rfl
@[simp] theorem emit_poison : (emit s o).poison = s.poison := rfl
@[simp] theorem emit_splitRoods : (emit s o).splitRoods = s.splitRoods := rfl
@[simp] theorem emit_vds : (emit s o).vds = s.vds := rfl
@[simp] theorem emit_tenants : (emit s o).tenants = s.tenants := rfl
@[simp] theorem emit_contexts : (emit s o).contexts = s.contexts := rfl
@[simp] theorem emit_grants : (emit s o).grants = s.grants := rfl
@[simp] theorem emit_pages : (emit s o).pages = s.pages := rfl
@[simp] theorem emit_lists : (emit s o).lists = s.lists := rfl
@[simp] theorem emit_violations : (emit s o).violations = s.violations := rfl
@[simp] theorem emit_deferred : (emit s o).deferred = s.deferred := rfl
@[simp] theorem emit_heldCmds : (emit s o).heldCmds = s.heldCmds := rfl
@[simp] theorem emit_due : (emit s o).due = s.due := rfl
@[simp] theorem emit_quarantine : (emit s o).quarantine = s.quarantine := rfl
@[simp] theorem emit_cxlRefused : (emit s o).cxlRefused = s.cxlRefused := rfl
@[simp] theorem emit_pf : (emit s o).pf = s.pf := rfl
@[simp] theorem emit_registers : (emit s o).registers = s.registers := rfl
@[simp] theorem emit_modules : (emit s o).modules = s.modules := rfl
@[simp] theorem emit_queues : (emit s o).queues = s.queues := rfl
@[simp] theorem emit_served : (emit s o).served = s.served := rfl
@[simp] theorem emit_launches : (emit s o).launches = s.launches := rfl
@[simp] theorem emit_wgs : (emit s o).wgs = s.wgs := rfl
@[simp] theorem emit_threads : (emit s o).threads = s.threads := rfl
@[simp] theorem emit_slots : (emit s o).slots = s.slots := rfl
@[simp] theorem emit_cores : (emit s o).cores = s.cores := rfl
@[simp] theorem emit_records : (emit s o).records = s.records := rfl
@[simp] theorem emit_cmds : (emit s o).cmds = s.cmds := rfl
@[simp] theorem emit_chains : (emit s o).chains = s.chains := rfl
@[simp] theorem emit_l1 : (emit s o).l1 = s.l1 := rfl
@[simp] theorem emit_tlb : (emit s o).tlb = s.tlb := rfl
@[simp] theorem emit_walks : (emit s o).walks = s.walks := rfl
@[simp] theorem emit_predictor : (emit s o).predictor = s.predictor := rfl
@[simp] theorem emit_l2 : (emit s o).l2 = s.l2 := rfl
@[simp] theorem emit_unitSide : (emit s o).unitSide = s.unitSide := rfl
@[simp] theorem emit_retiring : (emit s o).retiring = s.retiring := rfl
@[simp] theorem emit_reqs : (emit s o).reqs = s.reqs := rfl
@[simp] theorem emit_images : (emit s o).images = s.images := rfl
@[simp] theorem emit_imagesIn : (emit s o).imagesIn = s.imagesIn := rfl
@[simp] theorem emit_monitors : (emit s o).monitors = s.monitors := rfl
@[simp] theorem emit_errlog : (emit s o).errlog = s.errlog := rfl
@[simp] theorem emit_errHist : (emit s o).errHist = s.errHist := rfl
@[simp] theorem emit_links : (emit s o).links = s.links := rfl
@[simp] theorem emit_streams : (emit s o).streams = s.streams := rfl
@[simp] theorem emit_recording : (emit s o).recording = s.recording := rfl
@[simp] theorem emit_replaying : (emit s o).replaying = s.replaying := rfl
@[simp] theorem emit_eth : (emit s o).eth = s.eth := rfl
@[simp] theorem emit_tick : (emit s o).tick = s.tick := rfl
@[simp] theorem emit_tickAt : (emit s o).tickAt = s.tickAt := rfl
@[simp] theorem emit_lastRun : (emit s o).lastRun = s.lastRun := rfl
@[simp] theorem emit_agenda : (emit s o).agenda = s.agenda := rfl
@[simp] theorem emit_turn : (emit s o).turn = s.turn := rfl
@[simp] theorem emit_freeCount : (emit s o).freeCount = s.freeCount := rfl
@[simp] theorem emit_nextId : (emit s o).nextId = s.nextId := rfl
@[simp] theorem emit_passCycles : (emit s o).passCycles = s.passCycles := rfl
end

section
variable (s : State)
@[simp] theorem bumpId_clock : (bumpId s).clock = s.clock := rfl
@[simp] theorem bumpId_ptp : (bumpId s).ptp = s.ptp := rfl
@[simp] theorem bumpId_boot : (bumpId s).boot = s.boot := rfl
@[simp] theorem bumpId_nv : (bumpId s).nv = s.nv := rfl
@[simp] theorem bumpId_power : (bumpId s).power = s.power := rfl
@[simp] theorem bumpId_mem : (bumpId s).mem = s.mem := rfl
@[simp] theorem bumpId_poison : (bumpId s).poison = s.poison := rfl
@[simp] theorem bumpId_splitRoods : (bumpId s).splitRoods = s.splitRoods := rfl
@[simp] theorem bumpId_vds : (bumpId s).vds = s.vds := rfl
@[simp] theorem bumpId_tenants : (bumpId s).tenants = s.tenants := rfl
@[simp] theorem bumpId_contexts : (bumpId s).contexts = s.contexts := rfl
@[simp] theorem bumpId_grants : (bumpId s).grants = s.grants := rfl
@[simp] theorem bumpId_pages : (bumpId s).pages = s.pages := rfl
@[simp] theorem bumpId_lists : (bumpId s).lists = s.lists := rfl
@[simp] theorem bumpId_violations : (bumpId s).violations = s.violations := rfl
@[simp] theorem bumpId_deferred : (bumpId s).deferred = s.deferred := rfl
@[simp] theorem bumpId_heldCmds : (bumpId s).heldCmds = s.heldCmds := rfl
@[simp] theorem bumpId_due : (bumpId s).due = s.due := rfl
@[simp] theorem bumpId_quarantine : (bumpId s).quarantine = s.quarantine := rfl
@[simp] theorem bumpId_cxlRefused : (bumpId s).cxlRefused = s.cxlRefused := rfl
@[simp] theorem bumpId_pf : (bumpId s).pf = s.pf := rfl
@[simp] theorem bumpId_registers : (bumpId s).registers = s.registers := rfl
@[simp] theorem bumpId_modules : (bumpId s).modules = s.modules := rfl
@[simp] theorem bumpId_queues : (bumpId s).queues = s.queues := rfl
@[simp] theorem bumpId_served : (bumpId s).served = s.served := rfl
@[simp] theorem bumpId_launches : (bumpId s).launches = s.launches := rfl
@[simp] theorem bumpId_wgs : (bumpId s).wgs = s.wgs := rfl
@[simp] theorem bumpId_threads : (bumpId s).threads = s.threads := rfl
@[simp] theorem bumpId_slots : (bumpId s).slots = s.slots := rfl
@[simp] theorem bumpId_cores : (bumpId s).cores = s.cores := rfl
@[simp] theorem bumpId_records : (bumpId s).records = s.records := rfl
@[simp] theorem bumpId_cmds : (bumpId s).cmds = s.cmds := rfl
@[simp] theorem bumpId_chains : (bumpId s).chains = s.chains := rfl
@[simp] theorem bumpId_l1 : (bumpId s).l1 = s.l1 := rfl
@[simp] theorem bumpId_tlb : (bumpId s).tlb = s.tlb := rfl
@[simp] theorem bumpId_walks : (bumpId s).walks = s.walks := rfl
@[simp] theorem bumpId_predictor : (bumpId s).predictor = s.predictor := rfl
@[simp] theorem bumpId_l2 : (bumpId s).l2 = s.l2 := rfl
@[simp] theorem bumpId_unitSide : (bumpId s).unitSide = s.unitSide := rfl
@[simp] theorem bumpId_retiring : (bumpId s).retiring = s.retiring := rfl
@[simp] theorem bumpId_reqs : (bumpId s).reqs = s.reqs := rfl
@[simp] theorem bumpId_images : (bumpId s).images = s.images := rfl
@[simp] theorem bumpId_imagesIn : (bumpId s).imagesIn = s.imagesIn := rfl
@[simp] theorem bumpId_monitors : (bumpId s).monitors = s.monitors := rfl
@[simp] theorem bumpId_errlog : (bumpId s).errlog = s.errlog := rfl
@[simp] theorem bumpId_errHist : (bumpId s).errHist = s.errHist := rfl
@[simp] theorem bumpId_links : (bumpId s).links = s.links := rfl
@[simp] theorem bumpId_streams : (bumpId s).streams = s.streams := rfl
@[simp] theorem bumpId_recording : (bumpId s).recording = s.recording := rfl
@[simp] theorem bumpId_replaying : (bumpId s).replaying = s.replaying := rfl
@[simp] theorem bumpId_eth : (bumpId s).eth = s.eth := rfl
@[simp] theorem bumpId_tick : (bumpId s).tick = s.tick := rfl
@[simp] theorem bumpId_tickAt : (bumpId s).tickAt = s.tickAt := rfl
@[simp] theorem bumpId_lastRun : (bumpId s).lastRun = s.lastRun := rfl
@[simp] theorem bumpId_out : (bumpId s).out = s.out := rfl
@[simp] theorem bumpId_passCycles : (bumpId s).passCycles = s.passCycles := rfl
@[simp] theorem bumpId_agenda : (bumpId s).agenda = s.agenda := rfl
@[simp] theorem bumpId_turn : (bumpId s).turn = s.turn := rfl
@[simp] theorem bumpId_freeCount : (bumpId s).freeCount = s.freeCount := rfl
end

section
variable (s : State)
@[simp] theorem bumpFree_clock : (bumpFree s).clock = s.clock := rfl
@[simp] theorem bumpFree_ptp : (bumpFree s).ptp = s.ptp := rfl
@[simp] theorem bumpFree_boot : (bumpFree s).boot = s.boot := rfl
@[simp] theorem bumpFree_nv : (bumpFree s).nv = s.nv := rfl
@[simp] theorem bumpFree_power : (bumpFree s).power = s.power := rfl
@[simp] theorem bumpFree_mem : (bumpFree s).mem = s.mem := rfl
@[simp] theorem bumpFree_poison : (bumpFree s).poison = s.poison := rfl
@[simp] theorem bumpFree_splitRoods : (bumpFree s).splitRoods = s.splitRoods := rfl
@[simp] theorem bumpFree_vds : (bumpFree s).vds = s.vds := rfl
@[simp] theorem bumpFree_tenants : (bumpFree s).tenants = s.tenants := rfl
@[simp] theorem bumpFree_contexts : (bumpFree s).contexts = s.contexts := rfl
@[simp] theorem bumpFree_grants : (bumpFree s).grants = s.grants := rfl
@[simp] theorem bumpFree_pages : (bumpFree s).pages = s.pages := rfl
@[simp] theorem bumpFree_lists : (bumpFree s).lists = s.lists := rfl
@[simp] theorem bumpFree_violations : (bumpFree s).violations = s.violations := rfl
@[simp] theorem bumpFree_deferred : (bumpFree s).deferred = s.deferred := rfl
@[simp] theorem bumpFree_heldCmds : (bumpFree s).heldCmds = s.heldCmds := rfl
@[simp] theorem bumpFree_due : (bumpFree s).due = s.due := rfl
@[simp] theorem bumpFree_quarantine : (bumpFree s).quarantine = s.quarantine := rfl
@[simp] theorem bumpFree_cxlRefused : (bumpFree s).cxlRefused = s.cxlRefused := rfl
@[simp] theorem bumpFree_pf : (bumpFree s).pf = s.pf := rfl
@[simp] theorem bumpFree_registers : (bumpFree s).registers = s.registers := rfl
@[simp] theorem bumpFree_modules : (bumpFree s).modules = s.modules := rfl
@[simp] theorem bumpFree_queues : (bumpFree s).queues = s.queues := rfl
@[simp] theorem bumpFree_served : (bumpFree s).served = s.served := rfl
@[simp] theorem bumpFree_launches : (bumpFree s).launches = s.launches := rfl
@[simp] theorem bumpFree_wgs : (bumpFree s).wgs = s.wgs := rfl
@[simp] theorem bumpFree_threads : (bumpFree s).threads = s.threads := rfl
@[simp] theorem bumpFree_slots : (bumpFree s).slots = s.slots := rfl
@[simp] theorem bumpFree_cores : (bumpFree s).cores = s.cores := rfl
@[simp] theorem bumpFree_records : (bumpFree s).records = s.records := rfl
@[simp] theorem bumpFree_cmds : (bumpFree s).cmds = s.cmds := rfl
@[simp] theorem bumpFree_chains : (bumpFree s).chains = s.chains := rfl
@[simp] theorem bumpFree_l1 : (bumpFree s).l1 = s.l1 := rfl
@[simp] theorem bumpFree_tlb : (bumpFree s).tlb = s.tlb := rfl
@[simp] theorem bumpFree_walks : (bumpFree s).walks = s.walks := rfl
@[simp] theorem bumpFree_predictor : (bumpFree s).predictor = s.predictor := rfl
@[simp] theorem bumpFree_l2 : (bumpFree s).l2 = s.l2 := rfl
@[simp] theorem bumpFree_unitSide : (bumpFree s).unitSide = s.unitSide := rfl
@[simp] theorem bumpFree_retiring : (bumpFree s).retiring = s.retiring := rfl
@[simp] theorem bumpFree_reqs : (bumpFree s).reqs = s.reqs := rfl
@[simp] theorem bumpFree_images : (bumpFree s).images = s.images := rfl
@[simp] theorem bumpFree_imagesIn : (bumpFree s).imagesIn = s.imagesIn := rfl
@[simp] theorem bumpFree_monitors : (bumpFree s).monitors = s.monitors := rfl
@[simp] theorem bumpFree_errlog : (bumpFree s).errlog = s.errlog := rfl
@[simp] theorem bumpFree_errHist : (bumpFree s).errHist = s.errHist := rfl
@[simp] theorem bumpFree_links : (bumpFree s).links = s.links := rfl
@[simp] theorem bumpFree_streams : (bumpFree s).streams = s.streams := rfl
@[simp] theorem bumpFree_recording : (bumpFree s).recording = s.recording := rfl
@[simp] theorem bumpFree_replaying : (bumpFree s).replaying = s.replaying := rfl
@[simp] theorem bumpFree_eth : (bumpFree s).eth = s.eth := rfl
@[simp] theorem bumpFree_tick : (bumpFree s).tick = s.tick := rfl
@[simp] theorem bumpFree_tickAt : (bumpFree s).tickAt = s.tickAt := rfl
@[simp] theorem bumpFree_lastRun : (bumpFree s).lastRun = s.lastRun := rfl
@[simp] theorem bumpFree_out : (bumpFree s).out = s.out := rfl
@[simp] theorem bumpFree_agenda : (bumpFree s).agenda = s.agenda := rfl
@[simp] theorem bumpFree_turn : (bumpFree s).turn = s.turn := rfl
@[simp] theorem bumpFree_nextId : (bumpFree s).nextId = s.nextId := rfl
@[simp] theorem bumpFree_passCycles : (bumpFree s).passCycles = s.passCycles := rfl
end

end Sys2Proof.Machine
end

