-- ==== Sys2Proof/Tests/Slice0.lean ====
section
/-! SUPPORT. Tests of the model: ill-formed terms, words of the spec's encodings, single steps with results worked out
from the spec, and for each statement with hypotheses a state and operands that meet them. -/
namespace Sys2Proof.Tests
open Sys2Proof Sys2Proof.Machine
set_option Elab.async false

/-! ### Small states -/

/-- The parcels of a word. -/
def parcelsOf (w : BitVec 32) : List Parcel := [w.extractLsb' 0 16, w.extractLsb' 16 16]

/-- One thread of a running launch about to issue the code, with its thread, workgroup and launch changed. -/
def stageOn (code : List Parcel) (ft : Thread → Thread) (fg : Workgroup → Workgroup) (fl : Launch → Launch) : State :=
  let s := withCode State.reset code
  { s with threads := s.threads.map ft, wgs := s.wgs.map fg, launches := s.launches.map fl }

/-- The code iadd.x2 v8, v10, v12 of R78. -/
def stage (ft : Thread → Thread) (fg : Workgroup → Workgroup) (fl : Launch → Launch) : State :=
  stageOn [0x9003, 0x1894] ft fg fl

def one : State := stage id id id
def t0 : Thread := plainThread 1 0
def g0 : Workgroup := plainWg 1
def l0 : Launch := plainLaunch 1
def c0 : Context := newCtx 1 1 1 0 0 0

/-- Registers of a thread. -/
def regs (l : List (BitVec 6 × Word)) (t : Thread) : Thread := l.foldl (fun t x => setV t x.1 x.2) t
def withRegs (l : List (BitVec 6 × Word)) : State := stage (regs l) id id

/-- Two threads of one gang, %tid 0 and 1. -/
def second : Thread := { t0 with seat := ⟨0, 0, 1⟩, tid := 1 }
def twoOf (f g : Thread → Thread) : State :=
  { one with
    threads := [f t0, g second]
    slots := one.slots.map fun x => { x with members := [0, 1] } }
def two : State := twoOf id id

/-- Safe points at offsets 0 and 2, of ordinals 0 and 1; the code there is nop with the stop bit, twice (R80, R154). -/
def stops : List StopEntry := [⟨0, 0, BitVec.allOnes 64⟩, ⟨2, 0, BitVec.allOnes 64⟩]
def stopCode : List Parcel := parcelsOf 0x00000155 ++ parcelsOf 0x00000155
def withImage (f : ModuleImage → ModuleImage) (s : State) : State :=
  { s with modules := s.modules.map fun x => { x with linked := f x.linked, native := f x.native } }
def stopped (ft : Thread → Thread) (fg : Workgroup → Workgroup) (fl : Launch → Launch) : State :=
  withImage (fun x => { x with stops := stops }) (stageOn stopCode ft fg fl)

/-- The state an instruction answers with. -/
def nextState (o : Host.Outcome State Fault Refusal) : State :=
  match o with
  | .next s => s
  | _ => State.reset

def answers (o : Host.Outcome State Fault Refusal) : Bool :=
  match o with
  | .next _ => true
  | _ => false

/-- The first thread after an instruction. -/
def after (i : Instr) (s : State) : Thread :=
  match (nextState (exec i s)).threads with
  | t :: _ => t
  | [] => t0

/-- Its register, its pair and its first pending value. -/
def regAfter (i : Instr) (s : State) (d : BitVec 6) : Word := getV (after i s) d
def pairAfter (i : Instr) (s : State) (d : BitVec 6) : BitVec 64 := getV2 (after i s) d
def pendAfter (i : Instr) (s : State) : List (BitVec 6 × Word) :=
  match (after i s).pend with
  | .value ws :: _ => ws
  | _ => []

/-- No marks. -/
def mk : Marks := ⟨false, false⟩

/-! ### Well-formedness: an ill-formed term for each check, refused by name -/

theorem check_refuses_widths_and_groups : [
    Instr.iadd ⟨.reg 12, .x1, 10, .x2, 8, mk⟩, .iadd ⟨.reg 12, .x4, 12, .x4, 8, mk⟩, .iadd ⟨.reg 12, .x2, 11, .x2, 8, mk⟩,
    .iadd ⟨.reg 12, .x2, 10, .x2, 9, mk⟩, .iadd ⟨.reg 13, .x2, 10, .x2, 8, mk⟩, .iadd ⟨.unif 13, .x2, 10, .x2, 8, mk⟩,
    .isub ⟨.reg 12, .x8, 8, .x8, 8, mk⟩, .imad ⟨.reg 13, .x2, 10, .x2, 8, mk⟩,
    .imulLo ⟨.x2, 13, 10, 8, mk⟩, .imulLo ⟨.x4, 12, 8, 8, mk⟩, .imulWds ⟨12, 10, 9, mk⟩, .imulWdz ⟨12, 10, 7, mk⟩,
    .mins ⟨.x8, 8, 8, 8, mk⟩, .iabs ⟨.x2, 11, 8, mk⟩, .iabs ⟨.x4, 8, 8, mk⟩, .divs ⟨.x2, 12, 10, 9, mk⟩,
    .logAnd ⟨.x4, 14, 8, 8, mk⟩, .logNot ⟨.x8, 8, 4, mk⟩, .shl ⟨.x4, 8, 8, 8, mk⟩, .shlI ⟨true, 3, 11, 8, mk⟩,
    .popc ⟨.x2, 10, 9, mk⟩, .icmp ⟨true, .x4, .reg 8, 8, .lt, 1, mk⟩, .icmp ⟨false, .x2, .reg 8, 9, .eq, 1, mk⟩,
    .sel ⟨1, .x4, 8, 8, 2, mk⟩, .lea ⟨1, .x2, 9, 8, 2, mk⟩, .sread ⟨true, 32, 7, mk⟩, .mov ⟨.imm 3, .x4, false, .x4, 8, mk⟩,
    .mov ⟨.reg 3, .x1, false, .x2, 8, mk⟩, .mov ⟨.reg 8, .x4, true, .x4, 20, mk⟩, .fadd ⟨.rn, .x2, 12, 10, 9, mk⟩,
    .fadd ⟨.rn, .x4, 12, 8, 8, mk⟩, .fcmp ⟨.x2, .unif 3, 8, .eq, 1, mk⟩, .frcp ⟨.x4, 8, 8, mk⟩, .hadd ⟨true, .x8, 8, 8, 8, mk⟩,
    .cvtDirect ⟨.rn, .x1, 0, 10, 8, mk⟩, .cvtDirect ⟨.rn, .x2, 0, 11, 8, mk⟩, .cvtDirect ⟨.rn, .x2, 1, 11, 9, mk⟩,
    .bfpq ⟨0, 10, 9, mk⟩, .awaitBar ⟨true, 4, 7, mk⟩, .awaitTmr ⟨false, 7, mk⟩, .gredIadd ⟨true, 1, 7, 8, mk⟩,
    .ld ⟨0, .glb, 7, .b4, 8, mk⟩, .ld ⟨0, .scr, 6, .b8, 9, mk⟩, .st ⟨0, .far, 7, .b4, 8, mk⟩,
    .st ⟨0, .scr, 7, .b32, 12, mk⟩, .ldk ⟨false, .glb, 1, 2, .b16, 10, mk⟩, .stk ⟨false, .glb, 1, 2, .b16, 10, mk⟩,
    .atomAdd ⟨.rlx, 1, true, 1, true, 7, mk⟩, .atomxCas ⟨.rlx, 1, true, 1, true, 8, mk⟩, .acq ⟨7, mk⟩, .rel ⟨7, mk⟩,
    .cinv ⟨1, 7, mk⟩, .pf ⟨7, mk⟩, .barInit ⟨true, 1, 7, mk⟩, .barExp ⟨true, false, 1, 7, mk⟩, .barInval ⟨true, 7, mk⟩,
    .rpush ⟨1, 12, mk⟩, .rpeek ⟨1, 3, 12, mk⟩, .mxmma ⟨2, 1, 9, 5, false, 0, mk⟩, .mxld ⟨2, 9, 5, false, 0, mk⟩,
    .lnch ⟨0, 1, 7, mk⟩, .post ⟨7, mk⟩, .wkpt ⟨7, mk⟩].all (fun i => decide (i.check = some .misaligned)) = true := by
  decide +kernel

theorem check_refuses_the_rest :
    Instr.check (.icmp ⟨true, .x1, .reg 8, 8, .eq, 1, mk⟩) = some .reservedFunction ∧
    Instr.check (.icmp ⟨true, .x1, .reg 8, 8, .tsn, 1, mk⟩) = some .reservedFunction ∧
    Instr.check (.cvtDirect ⟨.rn, .x1, 14, 10, 8, mk⟩) = some .reservedFunction ∧
    Instr.check (.sread ⟨false, 12, 8, mk⟩) = some .badSpecial ∧
    Instr.check (.sread ⟨false, 27, 8, mk⟩) = some .badSpecial ∧
    Instr.check (.sread ⟨false, 34, 8, mk⟩) = some .badSpecial ∧
    Instr.check (.sread ⟨true, 26, 8, mk⟩) = some .badSpecial ∧
    Instr.check (.mov ⟨.reg 3, .x1, true, .x1, 15, mk⟩) = some .uniformDestination ∧
    Instr.check (.mov ⟨.reg 3, .x1, true, .x1, 32, mk⟩) = some .uniformDestination ∧
    Instr.check (.bra ⟨4, true, 0, mk⟩) = some .branchPredicate ∧
    Instr.check (.awaitGd ⟨0, 8, mk⟩) = some .zeroSlot ∧ Instr.check (.part ⟨1, 0, mk⟩) = some .zeroSlot ∧
    Instr.check (.gdarm ⟨0, mk⟩) = some .zeroSlot ∧ Instr.check (.gdset ⟨true, true, 0, 0, mk⟩) = some .zeroSlot ∧
    Instr.check (.gdset ⟨true, true, 3, 5, mk⟩) = some .unusedField ∧
    Instr.check (.atomAdd ⟨.rlx, 1, false, 1, false, 8, mk⟩) = some .unusedField ∧
    Instr.check (.st ⟨0, .scr, 6, .s8, 8, mk⟩) = some .badFunction ∧
    Instr.check (.stk ⟨false, .scr, 6, 1, .s16, 8, mk⟩) = some .badFunction ∧
    Instr.check (.cpyG2s ⟨1, 4, true, 0, mk⟩) = some .badGuard ∧
    Instr.check (.cpyxS2b ⟨1, 4, true, 0, mk⟩) = some .badGuard ∧
    Instr.check (.mxmma ⟨2, 1, 9, 6, true, 0, mk⟩) = some .badGuard ∧
    Instr.check (.mxz ⟨2, true, 0, mk⟩) = some .badGuard ∧
    Instr.check (.mxst ⟨2, 9, 6, true, 0, mk⟩) = some .badGuard ∧
    Instr.check .countCommit = some .noEncoding := by
  decide +kernel

/-- Legal neighbours of the refused terms. -/
theorem check_accepts_at_the_limits : [
    Instr.iadd ⟨.imm 31, .x2, 10, .x2, 62, mk⟩, .logAnd ⟨.x8, 56, 8, 0, mk⟩, .mov ⟨.reg 8, .x8, false, .x8, 56, mk⟩,
    .mov ⟨.reg 3, .x1, true, .x1, 16, mk⟩, .mov ⟨.reg 3, .x1, true, .x1, 31, mk⟩, .sread ⟨false, 26, 63, mk⟩,
    .sread ⟨true, 33, 62, mk⟩, .bra ⟨4, false, 0, mk⟩, .cpyG2s ⟨1, 4, false, 0, mk⟩, .cpyG2s ⟨1, 4, true, 15, mk⟩,
    .icmp ⟨false, .x1, .imm 31, 63, .tsn, 7, mk⟩, .cvtDirect ⟨.ru, .x2, 13, 10, 7, mk⟩,
    .st ⟨31, .scr, 63, .z8, 63, mk⟩].all Instr.wf = true := by
  decide +kernel

/-- Words that no instruction has (R83, R89). -/
theorem decode_refuses_words :
    decode (parcelsOf 0x000000F9) = .error .reservedMajor ∧ decode (parcelsOf 0x00000161) = .error .reservedMajor ∧
    decode (parcelsOf 0x000001E9) = .error .reservedMajor ∧ decode (parcelsOf 0x000001F1) = .error .reservedMajor ∧
    decode (parcelsOf 0x000001F9) = .error .reservedMajor ∧ decode (parcelsOf 0xA0000011) = .error .reservedFunction ∧
    decode (parcelsOf 0x0000E069) = .error .reservedFunction ∧ decode (parcelsOf 0x04000169) = .error .reservedSpace ∧
    decode (parcelsOf 0x00000351) = .error .unusedField ∧ decode [0x9003] = .error .outsideCode ∧
    decode [] = .error .outsideCode := by
  decide +kernel

/-! ### Decoding: for every instruction a word put together from the fields of spec/opcode_table.json -/

theorem decode_words_Compact : [
    (16, 0x3100, .movC ⟨8, 6⟩),
    (16, 0x3102, .movi ⟨8, 6⟩),
    (16, 0x3104, .iaddC ⟨8, 6⟩),
    (16, 0x3106, .iaddiC ⟨8, 6⟩),
    (16, 0x3108, .isubC ⟨8, 6⟩),
    (16, 0x310a, .imulC ⟨8, 6⟩),
    (16, 0x310c, .andC ⟨8, 6⟩),
    (16, 0x310e, .orC ⟨8, 6⟩),
    (16, 0x3110, .xorC ⟨8, 6⟩),
    (16, 0x3112, .shlC ⟨8, 6⟩),
    (16, 0x3114, .shrC ⟨8, 6⟩),
    (16, 0x3116, .sarC ⟨8, 6⟩),
    (16, 0x3118, .faddC ⟨8, 6⟩),
    (16, 0x311a, .fmulC ⟨8, 6⟩),
    (16, 0x311c, .fminC ⟨8, 6⟩),
    (16, 0x311e, .fmaxC ⟨8, 6⟩)
  ].all (fun x : Nat × Nat × Instr => decide (decodeTableWord x.1 x.2.1 = some x.2.2)) = true := by decide +kernel

theorem decode_words_IntegerArithmetic : [
    (32, 0x9c949005, .iadd ⟨(.unif 14), .x2, 10, .x2, 8, ⟨true, false⟩⟩),
    (32, 0x9c94900d, .isub ⟨(.unif 14), .x2, 10, .x2, 8, ⟨true, false⟩⟩),
    (32, 0x9851015, .imulLo ⟨.x2, 12, 10, 8, ⟨true, false⟩⟩),
    (32, 0x29851015, .imulHis ⟨.x2, 12, 10, 8, ⟨true, false⟩⟩),
    (32, 0x49851015, .imulHiz ⟨.x2, 12, 10, 8, ⟨true, false⟩⟩),
    (32, 0x61851015, .imulWds ⟨12, 10, 8, ⟨true, false⟩⟩),
    (32, 0x81851015, .imulWdz ⟨12, 10, 8, ⟨true, false⟩⟩),
    (32, 0x9c94901d, .imad ⟨(.unif 14), .x2, 10, .x2, 8, ⟨true, false⟩⟩),
    (32, 0x9851025, .mins ⟨.x2, 12, 10, 8, ⟨true, false⟩⟩),
    (32, 0x29851025, .maxs ⟨.x2, 12, 10, 8, ⟨true, false⟩⟩),
    (32, 0x49851025, .minz ⟨.x2, 12, 10, 8, ⟨true, false⟩⟩),
    (32, 0x69851025, .maxz ⟨.x2, 12, 10, 8, ⟨true, false⟩⟩),
    (32, 0x88051025, .iabs ⟨.x2, 10, 8, ⟨true, false⟩⟩),
    (32, 0xa8051025, .ineg ⟨.x2, 10, 8, ⟨true, false⟩⟩),
    (32, 0xc9851025, .sadds ⟨.x2, 12, 10, 8, ⟨true, false⟩⟩),
    (32, 0xe9851025, .saddz ⟨.x2, 12, 10, 8, ⟨true, false⟩⟩),
    (32, 0x985102d, .divs ⟨.x2, 12, 10, 8, ⟨true, false⟩⟩),
    (32, 0x2985102d, .divz ⟨.x2, 12, 10, 8, ⟨true, false⟩⟩),
    (32, 0x4985102d, .rems ⟨.x2, 12, 10, 8, ⟨true, false⟩⟩),
    (32, 0x6985102d, .remz ⟨.x2, 12, 10, 8, ⟨true, false⟩⟩)
  ].all (fun x : Nat × Nat × Instr => decide (decodeTableWord x.1 x.2.1 = some x.2.2)) = true := by decide +kernel

theorem decode_words_LogicAndShifts : [
    (32, 0x9851035, .logAnd ⟨.x2, 12, 10, 8, ⟨true, false⟩⟩),
    (32, 0x29851035, .logOr ⟨.x2, 12, 10, 8, ⟨true, false⟩⟩),
    (32, 0x49851035, .logXor ⟨.x2, 12, 10, 8, ⟨true, false⟩⟩),
    (32, 0x69851035, .logAndn ⟨.x2, 12, 10, 8, ⟨true, false⟩⟩),
    (32, 0x89851035, .logOrn ⟨.x2, 12, 10, 8, ⟨true, false⟩⟩),
    (32, 0xa9851035, .logXnor ⟨.x2, 12, 10, 8, ⟨true, false⟩⟩),
    (32, 0xc8051035, .logNot ⟨.x2, 10, 8, ⟨true, false⟩⟩),
    (32, 0x985103d, .shl ⟨.x2, 12, 10, 8, ⟨true, false⟩⟩),
    (32, 0x2985103d, .shr ⟨.x2, 12, 10, 8, ⟨true, false⟩⟩),
    (32, 0x4985103d, .sar ⟨.x2, 12, 10, 8, ⟨true, false⟩⟩),
    (32, 0x6985103d, .rol ⟨.x2, 12, 10, 8, ⟨true, false⟩⟩),
    (32, 0x8985103d, .fshl ⟨.x2, 12, 10, 8, ⟨true, false⟩⟩),
    (32, 0xa985103d, .fshr ⟨.x2, 12, 10, 8, ⟨true, false⟩⟩),
    (32, 0x13451045, .shlI ⟨true, 26, 10, 8, ⟨true, false⟩⟩),
    (32, 0x33451045, .shrI ⟨true, 26, 10, 8, ⟨true, false⟩⟩),
    (32, 0x53451045, .sarI ⟨true, 26, 10, 8, ⟨true, false⟩⟩),
    (32, 0x73451045, .rolI ⟨true, 26, 10, 8, ⟨true, false⟩⟩)
  ].all (fun x : Nat × Nat × Instr => decide (decodeTableWord x.1 x.2.1 = some x.2.2)) = true := by decide +kernel

theorem decode_words_BitFieldsAndDots : [
    (32, 0x185104d, .bfxs ⟨12, 10, 8, ⟨true, false⟩⟩),
    (32, 0x2185104d, .bfxz ⟨12, 10, 8, ⟨true, false⟩⟩),
    (32, 0x4185104d, .bfi ⟨12, 10, 8, ⟨true, false⟩⟩),
    (32, 0x6805104d, .popc ⟨.x2, 10, 8, ⟨true, false⟩⟩),
    (32, 0x8805104d, .clz ⟨.x2, 10, 8, ⟨true, false⟩⟩),
    (32, 0xa805104d, .ctz ⟨.x2, 10, 8, ⟨true, false⟩⟩),
    (32, 0xc805104d, .brev ⟨.x2, 10, 8, ⟨true, false⟩⟩),
    (32, 0xe185104d, .bperm ⟨12, 10, 8, ⟨true, false⟩⟩),
    (32, 0x1851055, .dot4ss ⟨12, 10, 8, ⟨true, false⟩⟩),
    (32, 0x21851055, .dot4zz ⟨12, 10, 8, ⟨true, false⟩⟩),
    (32, 0x41851055, .dot4sz ⟨12, 10, 8, ⟨true, false⟩⟩),
    (32, 0x61851055, .dot2s ⟨12, 10, 8, ⟨true, false⟩⟩),
    (32, 0x81851055, .dot2z ⟨12, 10, 8, ⟨true, false⟩⟩),
    (32, 0xb4a5105d, .iaddi ⟨0x5a5, 10, 8, ⟨true, false⟩⟩),
    (32, 0xc3a51065, .movl ⟨0xc3a5, 8, ⟨true, false⟩⟩),
    (32, 0xc3a59065, .movh ⟨0xc3a5, 8, ⟨true, false⟩⟩)
  ].all (fun x : Nat × Nat × Instr => decide (decodeTableWord x.1 x.2.1 = some x.2.2)) = true := by decide +kernel

theorem decode_words_ComparesAndMoves : [
    (32, 0xb38a3a6d, .icmp ⟨true, .x2, (.unif 14), 10, .le, 5, ⟨true, false⟩⟩),
    (32, 0xa9851075, .sel ⟨5, .x2, 12, 10, 8, ⟨true, false⟩⟩),
    (32, 0x14628a7d, .pand ⟨5, true, true, 5, 5, ⟨true, false⟩⟩),
    (32, 0x34628a7d, .por ⟨5, true, true, 5, 5, ⟨true, false⟩⟩),
    (32, 0x54628a7d, .pxor ⟨5, true, true, 5, 5, ⟨true, false⟩⟩),
    (32, 0x74000a7d, .pnot ⟨5, 5, ⟨true, false⟩⟩),
    (32, 0x8000247d, .p2v ⟨18, ⟨true, false⟩⟩),
    (32, 0xb4c0147d, .v2p ⟨83, 10, ⟨true, false⟩⟩),
    (32, 0xa9851085, .lea ⟨5, .x2, 12, 10, 8, ⟨true, false⟩⟩),
    (32, 0x4420108d, .sread ⟨true, 33, 8, ⟨true, false⟩⟩),
    (32, 0x9c82a895, .mov ⟨(.unif 14), .x2, true, .x2, 20, ⟨true, false⟩⟩)
  ].all (fun x : Nat × Nat × Instr => decide (decodeTableWord x.1 x.2.1 = some x.2.2)) = true := by decide +kernel

theorem decode_words_FloatArithmetic : [
    (32, 0x6985109d, .fadd ⟨.ru, .x2, 12, 10, 8, ⟨true, false⟩⟩),
    (32, 0xe985109d, .fsub ⟨.ru, .x2, 12, 10, 8, ⟨true, false⟩⟩),
    (32, 0x698510a5, .fmul ⟨.ru, .x2, 12, 10, 8, ⟨true, false⟩⟩),
    (32, 0x698510ad, .ffma ⟨.ru, .x2, 12, 10, 8, ⟨true, false⟩⟩),
    (32, 0xe98510ad, .fnma ⟨.ru, .x2, 12, 10, 8, ⟨true, false⟩⟩),
    (32, 0x98510b5, .fmin ⟨.x2, 12, 10, 8, ⟨true, false⟩⟩),
    (32, 0x298510b5, .fmax ⟨.x2, 12, 10, 8, ⟨true, false⟩⟩),
    (32, 0x498510b5, .fminNan ⟨.x2, 12, 10, 8, ⟨true, false⟩⟩),
    (32, 0x698510b5, .fmaxNan ⟨.x2, 12, 10, 8, ⟨true, false⟩⟩),
    (32, 0x880510b5, .fabs ⟨.x2, 10, 8, ⟨true, false⟩⟩),
    (32, 0xa80510b5, .fneg ⟨.x2, 10, 8, ⟨true, false⟩⟩),
    (32, 0xc98510b5, .fcsgn ⟨.x2, 12, 10, 8, ⟨true, false⟩⟩),
    (32, 0xe80510b5, .fclass ⟨.x2, 10, 8, ⟨true, false⟩⟩),
    (32, 0x338a9abd, .fcmp ⟨.x2, (.unif 14), 10, .ult, 5, ⟨true, false⟩⟩)
  ].all (fun x : Nat × Nat × Instr => decide (decodeTableWord x.1 x.2.1 = some x.2.2)) = true := by decide +kernel

theorem decode_words_SpecialFunctions : [
    (32, 0x80510c5, .frcp ⟨.x2, 10, 8, ⟨true, false⟩⟩),
    (32, 0x280510c5, .frsq ⟨.x2, 10, 8, ⟨true, false⟩⟩),
    (32, 0x480510c5, .fsqrt ⟨.x2, 10, 8, ⟨true, false⟩⟩),
    (32, 0x600510c5, .fexp2 ⟨10, 8, ⟨true, false⟩⟩),
    (32, 0x800510c5, .flog2 ⟨10, 8, ⟨true, false⟩⟩),
    (32, 0xa00510c5, .fsin ⟨10, 8, ⟨true, false⟩⟩),
    (32, 0xc00510c5, .fcos ⟨10, 8, ⟨true, false⟩⟩),
    (32, 0xe00510c5, .ftanh ⟨10, 8, ⟨true, false⟩⟩),
    (32, 0x98510cd, .fldexp ⟨.x2, 12, 10, 8, ⟨true, false⟩⟩),
    (32, 0x280510cd, .frndRn ⟨.x2, 10, 8, ⟨true, false⟩⟩),
    (32, 0x480510cd, .frndRz ⟨.x2, 10, 8, ⟨true, false⟩⟩),
    (32, 0x680510cd, .frndRd ⟨.x2, 10, 8, ⟨true, false⟩⟩),
    (32, 0x880510cd, .frndRu ⟨.x2, 10, 8, ⟨true, false⟩⟩),
    (32, 0xa80510cd, .fexpof ⟨.x2, 10, 8, ⟨true, false⟩⟩),
    (32, 0xc80510cd, .ffract ⟨.x2, 10, 8, ⟨true, false⟩⟩)
  ].all (fun x : Nat × Nat × Instr => decide (decodeTableWord x.1 x.2.1 = some x.2.2)) = true := by decide +kernel

theorem decode_words_PackedAndConversions : [
    (32, 0x898510d5, .hadd ⟨true, .x2, 12, 10, 8, ⟨true, false⟩⟩),
    (32, 0xa98510d5, .hsub ⟨true, .x2, 12, 10, 8, ⟨true, false⟩⟩),
    (32, 0xc98510d5, .hmul ⟨true, .x2, 12, 10, 8, ⟨true, false⟩⟩),
    (32, 0xe98510d5, .hfma ⟨true, .x2, 12, 10, 8, ⟨true, false⟩⟩),
    (32, 0x898510dd, .hmin ⟨true, .x2, 12, 10, 8, ⟨true, false⟩⟩),
    (32, 0xa98510dd, .hmax ⟨true, .x2, 12, 10, 8, ⟨true, false⟩⟩),
    (32, 0xc98510dd, .hcmp ⟨true, .x2, 12, 10, 8, ⟨true, false⟩⟩),
    (32, 0xe80510dd, .habs ⟨true, .x2, 10, 8, ⟨true, false⟩⟩),
    (32, 0xe82510dd, .hneg ⟨true, .x2, 10, 8, ⟨true, false⟩⟩),
    (32, 0x692510e5, .cvtDirect ⟨.ru, .x2, 9, 10, 8, ⟨true, false⟩⟩),
    (32, 0xa2a510e5, .cvtTo ⟨5, 5, 10, 8, ⟨true, false⟩⟩),
    (32, 0xa3a510e5, .cvtFrom ⟨5, 5, 10, 8, ⟨true, false⟩⟩),
    (32, 0xa80510ed, .bfpq ⟨5, 10, 8, ⟨true, false⟩⟩),
    (32, 0xa00510f5, .bfpdq ⟨5, 10, 8, ⟨true, false⟩⟩)
  ].all (fun x : Nat × Nat × Instr => decide (decodeTableWord x.1 x.2.1 = some x.2.2)) = true := by decide +kernel

theorem decode_words_Branches : [
    (32, 0xb4b4bb05, .bra ⟨0x5a5a5, true, 5, ⟨true, false⟩⟩),
    (32, 0x250d, .jmp ⟨18, ⟨true, false⟩⟩),
    (32, 0x200b210d, .call ⟨22, 16, ⟨true, false⟩⟩),
    (32, 0x4000250d, .ret ⟨18, ⟨true, false⟩⟩),
    (32, 0x115, .reform ⟨⟨true, false⟩⟩),
    (32, 0x1006151d, .awaitBar ⟨true, 12, 10, ⟨true, false⟩⟩),
    (32, 0x3000151d, .awaitRing ⟨true, 10, ⟨true, false⟩⟩),
    (32, 0x4000011d, .awaitFar ⟨⟨true, false⟩⟩),
    (32, 0x6120111d, .awaitGd ⟨9, 8, ⟨true, false⟩⟩),
    (32, 0x8000251d, .awaitIng ⟨18, ⟨true, false⟩⟩),
    (32, 0xb000151d, .awaitTmr ⟨true, 10, ⟨true, false⟩⟩),
    (32, 0x125, .exit ⟨⟨true, false⟩⟩),
    (32, 0x20002525, .abort ⟨18, ⟨true, false⟩⟩),
    (32, 0xa800012d, .part ⟨2, 5, ⟨true, false⟩⟩)
  ].all (fun x : Nat × Nat × Instr => decide (decodeTableWord x.1 x.2.1 = some x.2.2)) = true := by decide +kernel

theorem decode_words_Subgroups : [
    (32, 0xa51135, .voteAny ⟨5, 10, 8, ⟨true, false⟩⟩),
    (32, 0x20a51135, .voteAll ⟨5, 10, 8, ⟨true, false⟩⟩),
    (32, 0x40a51135, .voteBallot ⟨5, 10, 8, ⟨true, false⟩⟩),
    (32, 0x60a51135, .voteUeq ⟨5, 10, 8, ⟨true, false⟩⟩),
    (32, 0xa185113d, .shflIdx ⟨5, 12, 10, 8, ⟨true, false⟩⟩),
    (32, 0xa985113d, .shflUp ⟨5, 12, 10, 8, ⟨true, false⟩⟩),
    (32, 0xb185113d, .shflDown ⟨5, 12, 10, 8, ⟨true, false⟩⟩),
    (32, 0xb985113d, .shflXor ⟨5, 12, 10, 8, ⟨true, false⟩⟩)
  ].all (fun x : Nat × Nat × Instr => decide (decodeTableWord x.1 x.2.1 = some x.2.2)) = true := by decide +kernel

theorem decode_words_Reductions : [
    (32, 0x8a51145, .gredIadd ⟨true, 5, 10, 8, ⟨true, false⟩⟩),
    (32, 0x28a51145, .gredMins ⟨true, 5, 10, 8, ⟨true, false⟩⟩),
    (32, 0x48a51145, .gredMaxs ⟨true, 5, 10, 8, ⟨true, false⟩⟩),
    (32, 0x68a51145, .gredAnd ⟨true, 5, 10, 8, ⟨true, false⟩⟩),
    (32, 0x88a51145, .gredOr ⟨true, 5, 10, 8, ⟨true, false⟩⟩),
    (32, 0xa8a51145, .gredXor ⟨true, 5, 10, 8, ⟨true, false⟩⟩),
    (32, 0xc8a51145, .gredFadd ⟨true, 5, 10, 8, ⟨true, false⟩⟩),
    (32, 0xe8a51145, .gredFmax ⟨true, 5, 10, 8, ⟨true, false⟩⟩),
    (32, 0x8a5114d, .gscanIadd ⟨true, 5, 10, 8, ⟨true, false⟩⟩),
    (32, 0x28a5114d, .gscanMins ⟨true, 5, 10, 8, ⟨true, false⟩⟩),
    (32, 0x48a5114d, .gscanMaxs ⟨true, 5, 10, 8, ⟨true, false⟩⟩),
    (32, 0x68a5114d, .gscanAnd ⟨true, 5, 10, 8, ⟨true, false⟩⟩),
    (32, 0x88a5114d, .gscanOr ⟨true, 5, 10, 8, ⟨true, false⟩⟩),
    (32, 0xa8a5114d, .gscanXor ⟨true, 5, 10, 8, ⟨true, false⟩⟩),
    (32, 0xc8a5114d, .gscanFadd ⟨true, 5, 10, 8, ⟨true, false⟩⟩),
    (32, 0xe8a5114d, .gscanFmax ⟨true, 5, 10, 8, ⟨true, false⟩⟩)
  ].all (fun x : Nat × Nat × Instr => decide (decodeTableWord x.1 x.2.1 = some x.2.2)) = true := by decide +kernel

theorem decode_words_SystemAndGuards : [
    (32, 0x155, .nop ⟨⟨true, false⟩⟩),
    (32, 0x34a00155, .trap ⟨165, ⟨true, false⟩⟩),
    (32, 0x40000155, .brk ⟨⟨true, false⟩⟩),
    (32, 0x120015d, .gdarm ⟨9, ⟨true, false⟩⟩),
    (32, 0x3920015d, .gdset ⟨true, true, 9, 0, ⟨true, false⟩⟩)
  ].all (fun x : Nat × Nat × Instr => decide (decodeTableWord x.1 x.2.1 = some x.2.2)) = true := by decide +kernel

theorem decode_words_LoadsAndStores : [
    (32, 0x312aa16d, .ld ⟨6, .scr, 10, .b8, 16, ⟨true, false⟩⟩),
    (32, 0x312aa175, .st ⟨6, .scr, 10, .b8, 16, ⟨true, false⟩⟩),
    (32, 0x96a6a17d, .ldk ⟨true, .scr, 26, 9, .b8, 16, ⟨true, false⟩⟩),
    (32, 0x96a6a185, .stk ⟨true, .scr, 26, 9, .b8, 16, ⟨true, false⟩⟩)
  ].all (fun x : Nat × Nat × Instr => decide (decodeTableWord x.1 x.2.1 = some x.2.2)) = true := by decide +kernel

theorem decode_words_Atomics : [
    (32, 0x81a6918d, .atomAdd ⟨.rel, 6, true, 6, true, 8, ⟨true, false⟩⟩),
    (32, 0x89a6918d, .atomSub ⟨.rel, 6, true, 6, true, 8, ⟨true, false⟩⟩),
    (32, 0x91a6918d, .atomMins ⟨.rel, 6, true, 6, true, 8, ⟨true, false⟩⟩),
    (32, 0x99a6918d, .atomMaxs ⟨.rel, 6, true, 6, true, 8, ⟨true, false⟩⟩),
    (32, 0xa1a6918d, .atomMinz ⟨.rel, 6, true, 6, true, 8, ⟨true, false⟩⟩),
    (32, 0xa9a6918d, .atomMaxz ⟨.rel, 6, true, 6, true, 8, ⟨true, false⟩⟩),
    (32, 0xb1a6918d, .atomAnd ⟨.rel, 6, true, 6, true, 8, ⟨true, false⟩⟩),
    (32, 0xb9a6918d, .atomOr ⟨.rel, 6, true, 6, true, 8, ⟨true, false⟩⟩),
    (32, 0x81a69195, .atomxCas ⟨.rel, 6, true, 6, true, 8, ⟨true, false⟩⟩),
    (32, 0x89a69195, .atomxXchg ⟨.rel, 6, true, 6, true, 8, ⟨true, false⟩⟩),
    (32, 0x91a69195, .atomxIncw ⟨.rel, 6, true, 6, true, 8, ⟨true, false⟩⟩),
    (32, 0x99a69195, .atomxDecw ⟨.rel, 6, true, 6, true, 8, ⟨true, false⟩⟩),
    (32, 0xa1a69195, .atomxFadd ⟨.rel, 6, true, 6, true, 8, ⟨true, false⟩⟩),
    (32, 0xa9a69195, .atomxFmin ⟨.rel, 6, true, 6, true, 8, ⟨true, false⟩⟩),
    (32, 0xb1a69195, .atomxFmax ⟨.rel, 6, true, 6, true, 8, ⟨true, false⟩⟩),
    (32, 0xb9a69195, .atomxXor ⟨.rel, 6, true, 6, true, 8, ⟨true, false⟩⟩)
  ].all (fun x : Nat × Nat × Instr => decide (decodeTableWord x.1 x.2.1 = some x.2.2)) = true := by decide +kernel

theorem decode_words_Releases : [
    (32, 0x259d, .acq ⟨18, ⟨true, false⟩⟩),
    (32, 0x2000259d, .rel ⟨18, ⟨true, false⟩⟩),
    (32, 0x4000259d, .acqrel ⟨18, ⟨true, false⟩⟩),
    (32, 0x7400019d, .fence ⟨.dv, ⟨true, false⟩⟩),
    (32, 0x800b159d, .cinv ⟨22, 10, ⟨true, false⟩⟩),
    (32, 0xa00b159d, .cwb ⟨22, 10, ⟨true, false⟩⟩),
    (32, 0xc000259d, .pf ⟨18, ⟨true, false⟩⟩)
  ].all (fun x : Nat × Nat × Instr => decide (decodeTableWord x.1 x.2.1 = some x.2.2)) = true := by decide +kernel

theorem decode_words_BarriersAndRings : [
    (32, 0x100615a5, .barInit ⟨true, 12, 10, ⟨true, false⟩⟩),
    (32, 0x300615a5, .barArr ⟨true, 12, 10, ⟨true, false⟩⟩),
    (32, 0x500615a5, .barWait ⟨true, 12, 10, ⟨true, false⟩⟩),
    (32, 0x780615a5, .barExp ⟨true, true, 12, 10, ⟨true, false⟩⟩),
    (32, 0x900015a5, .barInval ⟨true, 10, ⟨true, false⟩⟩),
    (32, 0x14a001ad, .rinit ⟨165, ⟨true, false⟩⟩),
    (32, 0x34a021ad, .rpush ⟨165, 16, ⟨true, false⟩⟩),
    (32, 0x54a021ad, .rpop ⟨165, 16, ⟨true, false⟩⟩),
    (32, 0x74a621ad, .rpeek ⟨165, 12, 16, ⟨true, false⟩⟩)
  ].all (fun x : Nat × Nat × Instr => decide (decodeTableWord x.1 x.2.1 = some x.2.2)) = true := by decide +kernel

theorem decode_words_CopiesAndMatrix : [
    (32, 0x802b3b5, .cpyG2s ⟨2, 10, true, 9, ⟨true, false⟩⟩),
    (32, 0x2802b3b5, .cpyS2g ⟨2, 10, true, 9, ⟨true, false⟩⟩),
    (32, 0x4802b3b5, .cpyG2b ⟨2, 10, true, 9, ⟨true, false⟩⟩),
    (32, 0x6802b3b5, .cpyS2b ⟨2, 10, true, 9, ⟨true, false⟩⟩),
    (32, 0x8802b3b5, .cpyChain ⟨2, 10, true, 9, ⟨true, false⟩⟩),
    (32, 0xa802b3b5, .cpyWin ⟨2, 10, true, 9, ⟨true, false⟩⟩),
    (32, 0xc802b3b5, .cpyFill ⟨2, 10, true, 9, ⟨true, false⟩⟩),
    (32, 0xe802b3b5, .cpyScrub ⟨2, 10, true, 9, ⟨true, false⟩⟩),
    (32, 0x802b3bd, .cpyxG2s ⟨2, 10, true, 9, ⟨true, false⟩⟩),
    (32, 0x4802b3bd, .cpyxG2b ⟨2, 10, true, 9, ⟨true, false⟩⟩),
    (32, 0x6802b3bd, .cpyxS2b ⟨2, 10, true, 9, ⟨true, false⟩⟩),
    (32, 0x8802b3bd, .cpyxChain ⟨2, 10, true, 9, ⟨true, false⟩⟩),
    (32, 0xb4c2b3c5, .mxmma ⟨5, 5, 12, 10, true, 9, ⟨true, false⟩⟩),
    (32, 0x140033cd, .mxz ⟨5, true, 9, ⟨true, false⟩⟩),
    (32, 0x34c2b3cd, .mxld ⟨5, 12, 10, true, 9, ⟨true, false⟩⟩),
    (32, 0x54c2b3cd, .mxst ⟨5, 12, 10, true, 9, ⟨true, false⟩⟩),
    (32, 0x740201cd, .mxstat ⟨5, 8, ⟨true, false⟩⟩)
  ].all (fun x : Nat × Nat × Instr => decide (decodeTableWord x.1 x.2.1 = some x.2.2)) = true := by decide +kernel

theorem decode_words_StagesAndPosts : [
    (32, 0x14a615d5, .tsbind ⟨165, 12, 10, ⟨true, false⟩⟩),
    (32, 0x200001d5, .tsrel ⟨⟨true, false⟩⟩),
    (32, 0x400025d5, .tsq ⟨18, ⟨true, false⟩⟩),
    (32, 0x14a415dd, .lnch ⟨165, 8, 10, ⟨true, false⟩⟩),
    (32, 0x200025dd, .post ⟨18, ⟨true, false⟩⟩),
    (32, 0x280025dd, .postOr ⟨18, ⟨true, false⟩⟩),
    (32, 0x300025dd, .postMaxz ⟨18, ⟨true, false⟩⟩),
    (32, 0x25e5, .wkpt ⟨18, ⟨true, false⟩⟩),
    (32, 0x200001e5, .rcmark ⟨⟨true, false⟩⟩),
    (32, 0x400025e5, .assay ⟨18, ⟨true, false⟩⟩)
  ].all (fun x : Nat × Nat × Instr => decide (decodeTableWord x.1 x.2.1 = some x.2.2)) = true := by decide +kernel

/-! ### Witnesses: encoding and the step -/

theorem witness_DecodeOfEncodeIsTheInstruction :
    (Instr.iadd ⟨.reg 12, .x2, 10, .x2, 8, ⟨false, true⟩⟩).wf = true ∧
    encode (.iadd ⟨.reg 12, .x2, 10, .x2, 8, ⟨false, true⟩⟩) = some (.c32 0x18949003) ∧
    (Instr.iaddC ⟨3, 7⟩).wf = true ∧ encode (.iaddC ⟨3, 7⟩) = some (.c16 0x3864) := by decide +kernel

theorem witness_DecodedParcelsAreTheEncoding :
    decode [0x9003, 0x1894] = .ok (.iadd ⟨.reg 12, .x2, 10, .x2, 8, ⟨false, true⟩⟩, 2) := by decide +kernel

theorem witness_ReservedMajorsAreRefused :
    [0x000000F9, 0x00000161, 0x000001E9, 0x000001F1, 0x000001F9].all (fun w : BitVec 32 =>
      w.getLsbD 0 && decide ((w.extractLsb' 3 6).toNat ∈ [31, 44, 61, 62, 63])) = true := by decide +kernel

theorem witness_IssueRunsTheDecodedInstruction :
    one.due = [] ∧ one.agenda = [] ∧ one.turn = some firstSlot ∧ actives (issueState one firstSlot) = [t0] ∧
    t0.fl.replay = false ∧ imageOf (issueState one firstSlot) t0.launch = some (plainImage [0x9003, 0x1894]) ∧
    decode (([0x9003, 0x1894].drop t0.pc).take 2) = .ok (.iadd ⟨.reg 12, .x2, 10, .x2, 8, ⟨false, true⟩⟩, 2) ∧
    replayOf (issueState one firstSlot) t0.launch = none ∧
    issueChecks (issueState one firstSlot) firstSlot [t0] (some (.iadd ⟨.reg 12, .x2, 10, .x2, 8, ⟨false, true⟩⟩)) = none ∧
    (t0.log = none ∧ t0.late = [] ∧ t0.fl.step = false ∧ safeOrdinal one t0 t0.pc = none) ∧
    ({ one with agenda := [Instr.baseTick] } : State).agenda = [.baseTick] ∧ encode .baseTick = none := by
  decide +kernel

theorem witness_UndecodableWordsTrap :
    let s := stageOn (parcelsOf 0x000001F9) id id id
    s.due = [] ∧ s.agenda = [] ∧ s.turn = some firstSlot ∧ actives (issueState s firstSlot) = [t0] ∧
    (t0.fl.replay = false ∧ t0.late = [] ∧ t0.fl.step = false ∧
      safeOrdinal (issueState s firstSlot) t0 t0.pc = none) ∧
    imageOf (issueState s firstSlot) t0.launch = some (plainImage (parcelsOf 0x000001F9)) ∧
    decode (((parcelsOf 0x000001F9).drop t0.pc).take 2) = .error .reservedMajor := by decide +kernel

/-! ### Witnesses: registers and moves -/

theorem witness_UniformMovesTakeTheLowestThread :
    t0 ∈ actives two ∧ (∀ u ∈ actives two, t0.tid ≤ u.tid ∧ (u.tid = t0.tid → u = t0)) ∧
    (actives two).length = 2 ∧ (Instr.mov ⟨.reg 3, .x1, true, .x1, 16, mk⟩).wf = true ∧
    (Instr.mov ⟨.reg 3, .x1, true, .x1, 31, mk⟩).wf = true := by decide +kernel

theorem witness_SpecialRegistersGiveThePlace :
    findLaunch one t0.launch = some l0 ∧ findWg one t0.wg = some g0 ∧ l0.lr.size = [1, 1, 1] ∧
    l0.lr.grid = [1, 1, 1] := by decide +kernel

theorem witness_RegisterFormsChangeOnlyTheirDestination :
    (Instr.imulLo ⟨.x2, 12, 10, 62, mk⟩).wf = true ∧ answers (exec (.imulLo ⟨.x2, 12, 10, 62, mk⟩) two) = true ∧
    (Instr.logXor ⟨.x8, 56, 0, 8, mk⟩).wf = true ∧ answers (exec (.logXor ⟨.x8, 56, 0, 8, mk⟩) two) = true ∧
    (Instr.popc ⟨.x2, 10, 0, mk⟩).wf = true ∧ answers (exec (.popc ⟨.x2, 10, 0, mk⟩) two) = true ∧
    (Instr.imad ⟨.imm 31, .x1, 10, .x1, 63, mk⟩).wf = true ∧
    answers (exec (.imad ⟨.imm 31, .x1, 10, .x1, 63, mk⟩) two) = true ∧
    answers (exec (.divs ⟨.x2, 12, 10, 8, mk⟩) two) = true ∧ answers (exec (.bfi ⟨12, 10, 8, mk⟩) two) = true ∧
    answers (exec (.iaddi ⟨5, 10, 8, mk⟩) two) = true ∧ answers (exec (.movl ⟨5, 8, mk⟩) two) = true ∧
    answers (exec (.movh ⟨5, 8, mk⟩) two) = true ∧ answers (exec (.icmp ⟨true, .x1, .reg 3, 4, .lt, 1, mk⟩) two) = true ∧
    answers (exec (.pand ⟨1, true, false, 2, 3, mk⟩) two) = true ∧ answers (exec (.v2p ⟨127, 3, mk⟩) two) = true ∧
    answers (exec (.p2v ⟨3, mk⟩) two) = true ∧ answers (exec (.iaddC ⟨3, 7⟩) two) = true ∧
    answers (exec (.movC ⟨3, 7⟩) two) = true := by decide +kernel

/-! ### Witnesses: floating point -/

/-- The gang of one and of two threads has the vector role: the hypothesis of the floating-point statements, that of
SpecialFunctionsComplete too. -/
theorem witness_AllVector : AllVector one ∧ AllVector two ∧ actives two ≠ [] := by
  unfold AllVector; decide +kernel

theorem witness_SumsAndProductsAreExact :
    (XVal.fin true 3 (-2)).finite = true ∧ (XVal.fin false 0 5).finite = true ∧ (XVal.inf true).finite = false := by
  decide

theorem witness_RepresentableValuesRoundToThemselves :
    fp64 ∈ [fp64, fp32, fp16, bf16, e4m3, e5m2] ∧ 2 ^ 64 - 1 < 2 ^ fp64.bits ∧ 2 ^ 8 - 1 < 2 ^ e4m3.bits ∧
    decodeFp fp64 (2 ^ 64 - 1) = .nan ∧ decodeFp fp32 0x80000001 = .fin true 1 (-149) := by decide +kernel

theorem witness_FloatMinMaxAndSigns :
    (decodeFp fp32 0 ≠ .nan ∧ decodeFp fp32 0x80000000 ≠ .nan ∧
      ltSigned (decodeFp fp32 0x80000000) (decodeFp fp32 0) = true) ∧
    (decodeFp fp32 0x7FC00000 = .nan ∧ decodeFp fp32 0x3F800000 ≠ .nan) ∧
    (decodeFp fp64 0xFFF0000000000001 = .nan ∧ decodeFp fp64 0x7FF8000000000000 = .nan) := by decide +kernel

theorem witness_FloatComparesWriteThePredicate :
    (decodeFp fp32 0x3F800000).finite = true ∧ (decodeFp fp64 0).finite = true ∧
    decodeFp fp32 0xFF800000 = .inf true ∧ decodeFp fp32 0x7F800001 = .nan ∧ 0x7F800001 < 2 ^ fp32.bits ∧
    0x7FEFFFFFFFFFFFFF < 2 ^ fp64.bits := by decide +kernel

theorem witness_SpecialFunctionsArePending :
    decodeFp fp32 0x7F800001 = .nan ∧ decodeFp fp32 0x7F800000 = .inf false ∧ decodeFp fp64 (2 ^ 63) = .fin true 0 (-1074) ∧
    decodeFp fp32 0x80000001 = .fin true 1 (-149) := by decide +kernel

theorem witness_ExponentAndRoundingAdjustment :
    decodeFp fp32 0x7FC00000 = .nan ∧ decodeFp fp64 0xFFF0000000000000 = .inf true ∧
    decodeFp fp32 0 = .fin false 0 (-149) ∧ decodeFp fp32 0x40200000 = .fin false 10485760 (-22) ∧
    (decodeFp fp32 0x7F800000).finite = false := by decide +kernel


/-! ### Witnesses: conversions -/

/-- Format slots: FP16 under each NaN rule, a block format with m = 4, and a sparse FP16 (R66). -/
def slotsOf (l : Launch) : Launch := { l with lr := { l.lr with f := [1, 0x401, 0x801, 0x25, 0x10001, 0, 0, 0] } }
def formats (x : Word) : State := stage (regs [(10, x)]) id slotsOf

theorem witness_SlotAndBlockConversions_alone : Alone (formats 0x7FC07E00) (regs [(10, 0x7FC07E00)] t0) ∧ t0.role = 0 ∧
    Alone (formats 0x3F800000) (regs [(10, 0x3F800000)] t0) := by
  unfold Alone; decide +kernel

/-- A NaN and a value that is none, for cvt.to and cvt.from, under each of the three rules; a block slot and a sparse
one for the illegal forms. -/
theorem witness_SlotAndBlockConversions :
    let s := formats 0x7FC07E00
    let t := regs [(10, 0x7FC07E00)] t0
    [0, 1, 2].all (fun f : BitVec 3 => decide ((formatSlot s t f).kind = 1 ∧ (formatSlot s t f).spn = 0)) = true ∧
    (formatSlot s t 0).nanm = 0 ∧ (formatSlot s t 1).nanm = 1 ∧ (formatSlot s t 2).nanm = 2 ∧
    decodeFp fp32 (getV t 10).toNat = .nan ∧
    decodeKind (formatSlot s t 1).kind ((getV t 10).toNat / 2 ^ (kindBits 1 * 0) % 2 ^ kindBits 1) = .nan ∧
    decodeFp fp32 (getV (regs [(10, 0x3F800000)] t0) 10).toNat ≠ .nan ∧
    decodeKind (formatSlot s t 1).kind ((getV (regs [(10, 0x3F800000)] t0) 10).toNat / 2 ^ (kindBits 1 * 0) %
      2 ^ kindBits 1) ≠ .nan ∧
    (formatSlot s t 3).kind = 5 ∧ (formatSlot s t 3).spn = 0 ∧ (formatSlot s t 4).spn = 8 := by decide +kernel

theorem witness_BlockConversions : Gang (formats 0x3F800000) ∧ AllVector (formats 0x3F800000) ∧
    (∀ t ∈ actives (formats 0x3F800000), decodeFp fp32 (getV t 10).toNat ≠ .nan) ∧
    (∀ t ∈ actives (formats 0x3F800000), blockElement (formats 0x3F800000) t 10 4 ≠ .nan) ∧
    ∀ t ∈ actives (formats 0x3F800000), (formatSlot (formats 0x3F800000) t 3).kind = 5 := by
  unfold Gang AllVector; decide +kernel

/-! ### Witnesses: control -/

theorem witness_BranchesTakeAndSplit :
    let s := twoOf (fun t => setP t 1 true) id
    Alone one t0 ∧ Gang s ∧ s.turn = some firstSlot ∧
    ∃ t ∈ actives s, ∃ u ∈ actives s, afterBranch ⟨4, false, 1, mk⟩ t ≠ afterBranch ⟨4, false, 1, mk⟩ u := by
  unfold Alone Gang; decide +kernel

/-- Ordinal 1 is the entry at offset 2; ordinal 2 names none; in code without entries no safe point follows. -/
theorem witness_IndirectTransfersGoToSafePoints :
    let s := stopped (regs [(3, 1), (4, 2)]) id id
    let t := regs [(3, 1), (4, 2)] t0
    Alone s t ∧ imageOf s t.launch = some { plainImage stopCode with stops := stops } ∧
    (kernelOf s t.launch).map (fun k => (k.first, k.last)) = some (0, 4) ∧
    stops[(getV t 3).toNat]? = some ⟨2, 0, BitVec.allOnes 64⟩ ∧ stops[(getV t 4).toNat]? = none ∧
    safeOrdinal s t (t.pc + 2) = some 1 ∧ Alone one t0 ∧ (imageOf one t0.launch).isSome = true ∧
    (kernelOf one t0.launch).isSome = true ∧ safeOrdinal one t0 (t0.pc + 2) = none := by
  unfold Alone; decide +kernel

theorem witness_ReformFilesTheSlot : two.turn = some firstSlot ∧ (two.threads.map fun t => (t.wg, t.tid)).Nodup ∧
    two.threads.any (inRunning firstSlot) = true := by decide +kernel

/-- A ring of two entries, empty or full, in bank 8; guard slots 1 to 4 in each of the four states. -/
def ringWith (tph : Bool) : Ring := ⟨5, 8, 2, 0, 0, false, tph, [], none, none⟩
def withRing (tph : Bool) (g : Workgroup) : Workgroup :=
  { g with
    rings := [ringWith tph]
    guards := ((g.guards.set 2 .armed).set 3 .isTrue).set 4 .isFalse }

theorem witness_AwaitForms :
    let f := regs [(3, 5), (4, 7), (6, 1)]
    let s := stopped f (withRing false) id
    let t := f t0
    let g := withRing false g0
    Alone s t ∧ findWg s t.wg = some g ∧
    findRing g ((getV t 3).toNat % 256) = some (ringWith false) ∧ findRing g ((getV t 4).toNat % 256) = none ∧
    (!(ringWith false).countsFull) = true ∧ (!(ringWith false).empty) = false ∧
    (!(ringWith true).countsFull) = false ∧ (!(ringWith true).empty) = true ∧
    t.farFault = none ∧ t.far.isEmpty = true ∧ (ordinalOf s t t.pc).isSome = true ∧ ordinalOf one t0 t0.pc = none ∧
    guardState g 1 = .idle ∧ guardState g 2 = .armed ∧ guardState g 3 = .isTrue ∧ guardState g 4 = .isFalse ∧
    decide ((getV2 t 8).toNat ≤ s.clock) = true ∧ decide ((getV2 t 6).toNat ≤ s.clock) = false ∧
    decide ((getV2 t 6).toNat ≤ s.ptp.time) = false := by
  unfold Alone; decide +kernel

theorem witness_SegmentEndWritesARecord :
    findWg one t0.wg = some g0 ∧ t0.pend = [] ∧ poolFull one t0.launch = false := by decide +kernel

theorem witness_ExitLeavesTheSeat :
    let f := fun (t : Thread) => { t with far := [7] }
    let h := fun (t : Thread) => { t with farFault := some (2 ^ 57) }
    Alone one t0 ∧ t0.farFault = none ∧ t0.pend = [] ∧ t0.far = [] ∧
    Alone (stage f id id) (f t0) ∧ (f t0).farFault = none ∧ (f t0).far ≠ [] ∧
    Alone (stage h id id) (h t0) ∧ (h t0).farFault = some (2 ^ 57) := by
  unfold Alone; decide +kernel

theorem witness_AbortKillsTheLaunch :
    let l := { l0 with killed := some 13 }
    actives two = t0 :: [second] ∧ findLaunch one l0.id = some l0 ∧ l0.killed = none ∧ l0.phase ≠ .ended ∧
    g0 ∈ one.wgs ∧ g0.launch = l0.id ∧ g0.phase ≠ .ended ∧
    findLaunch (stage id id fun _ => l) l.id = some l ∧ l.killed.isSome = true := by decide +kernel

/-- The whole gang; a subgroup of four whose two threads are both active; one of which is not; an empty one. -/
def grouped (t : Thread) : Thread := { t with g := t.g.set 1 ⟨1, 0⟩ }
theorem witness_CollectiveReady : CollectiveReady two 0 ∧ CollectiveReady (twoOf grouped grouped) 1 ∧ AllVector two := by
  unfold CollectiveReady AllVector; decide +kernel

theorem witness_CollectivesTrapOrGather :
    let s := twoOf grouped fun t => { grouped t with place := .waiting 0 }
    Gang two ∧ two.turn = some firstSlot ∧ (1 : BitVec 3) ≠ 0 ∧ (∃ t ∈ actives two, (subOf t 1).size = 0) ∧
    Gang s ∧ s.turn = some firstSlot ∧ (∀ t ∈ actives s, (subOf t 1).size ≠ 0) ∧
    ∃ t ∈ actives s, wholeSubgroup s 1 t = false := by
  unfold Gang; decide +kernel

/-- A debug session of the context. -/
def inSession (s : State) : State := { s with contexts := s.contexts.map fun c => { c with session := true } }

theorem witness_SystemInstructions :
    let s := stopped id id id
    let f := fun (t : Thread) => { t with fl := { t.fl with skipBreak := true } }
    Gang two ∧ Alone one t0 ∧ ordinalOf one t0 t0.pc = none ∧ Alone s t0 ∧ ordinalOf s t0 t0.pc = some 0 ∧
    sessionOn s (ctxOfWg s t0.wg) = false ∧ Alone (inSession s) t0 ∧ ordinalOf (inSession s) t0 t0.pc = some 0 ∧
    sessionOn (inSession s) (ctxOfWg (inSession s) t0.wg) = true ∧ t0.fl.skipBreak = false ∧ t0.pend = [] ∧
    poolFull (inSession s) t0.launch = false ∧ findWg (inSession s) t0.wg = some g0 ∧
    Alone (inSession (stopped f id id)) (f t0) ∧ (f t0).fl.skipBreak = true := by
  unfold Alone Gang; decide +kernel

theorem witness_GuardInstructions :
    let s := stage id (withRing false) id
    Alone s t0 ∧ findWg s t0.wg = some (withRing false g0) ∧ NotRecorded s (withRing false g0).launch ∧
    guardState (withRing false g0) (2 : BitVec 4).toNat = .armed ∧
    guardState (withRing false g0) (3 : BitVec 4).toNat ≠ .armed := by
  unfold Alone NotRecorded; decide +kernel

/-- A launch with a trap entry, and a session without one. -/
def trapLaunch (l : Launch) : Launch := { l with lr := { l.lr with flags := 8 } }
theorem witness_TakingATrapSavesTheThread :
    let s := stage id id trapLaunch
    (findWg s t0.wg = some g0 ∧ findCtx s g0.ctx = some c0 ∧ findLaunch s g0.launch = some (trapLaunch l0) ∧
      t0.pend = [] ∧ poolFull s t0.launch = false ∧ t0.trapState = none ∧ 255 < 256 ∧
      trapEntryOn s g0.launch = true ∧ c0.trace = none) ∧
    findWg (inSession one) t0.wg = some g0 ∧ findCtx (inSession one) g0.ctx = some { c0 with session := true } ∧
    findLaunch (inSession one) g0.launch = some l0 ∧ poolFull (inSession one) t0.launch = false := by
  decide +kernel

theorem witness_TrapEntryWritesTwoRegisters :
    let s := withImage (fun x => { x with kernels := x.kernels.map fun k => { k with trap := some 2 } })
      (stopped id id trapLaunch)
    trapEntryOn s t0.launch = true ∧ (kernelOf s t0.launch).bind KernelDecl.trap = some 2 := by decide +kernel

theorem witness_RolesForbidFloatingPoint :
    let s := stage (fun t => { t with role := 1 }) id id
    Gang s ∧ (∀ t ∈ actives s, t.role ≠ 0) := by
  unfold Gang; decide +kernel

/-! ### Single steps, results worked out by hand from the rules -/

/-- An instruction on v8, v10 and v12 (old destination, A, B) leaves a value in v8. -/
def leaves (x : Instr × Word × Word × Word × Word) : Bool :=
  regAfter x.1 (withRegs [(8, x.2.1), (10, x.2.2.1), (12, x.2.2.2.1)]) 8 == x.2.2.2.2

/-- R107 to R120. -/
theorem test_integer_words : [
    (Instr.iadd ⟨.reg 12, .x1, 10, .x1, 8, mk⟩, 0, 0xFFFFFFFF, 1, 0), (.iadd ⟨.imm 31, .x1, 10, .x1, 8, mk⟩, 0, 5, 0, 4),
    (.isub ⟨.reg 12, .x1, 10, .x1, 8, mk⟩, 0, 0, 1, 0xFFFFFFFF), (.imad ⟨.reg 12, .x1, 10, .x1, 8, mk⟩, 7, 3, 5, 22),
    (.imulLo ⟨.x1, 12, 10, 8, mk⟩, 9, 0x10000, 0x10001, 0x10000), (.imulHis ⟨.x1, 12, 10, 8, mk⟩, 0, 0xFFFFFFFF, 5, 0xFFFFFFFF),
    (.imulHiz ⟨.x1, 12, 10, 8, mk⟩, 0, 0xFFFFFFFF, 5, 4), (.imulWds ⟨12, 10, 8, mk⟩, 0, 0xFFFFFFFF, 5, 0xFFFFFFFB),
    (.imulWdz ⟨12, 10, 8, mk⟩, 0, 0xFFFFFFFF, 0xFFFFFFFF, 1),
    (.mins ⟨.x1, 12, 10, 8, mk⟩, 0, 0xFFFFFFFF, 1, 0xFFFFFFFF), (.maxs ⟨.x1, 12, 10, 8, mk⟩, 0, 0xFFFFFFFF, 1, 1),
    (.minz ⟨.x1, 12, 10, 8, mk⟩, 0, 0xFFFFFFFF, 1, 1), (.maxz ⟨.x1, 12, 10, 8, mk⟩, 0, 0xFFFFFFFF, 1, 0xFFFFFFFF),
    (.iabs ⟨.x1, 10, 8, mk⟩, 0, 0x80000000, 0, 0x80000000), (.ineg ⟨.x1, 10, 8, mk⟩, 0, 1, 0, 0xFFFFFFFF),
    (.sadds ⟨.x1, 12, 10, 8, mk⟩, 0, 0x7FFFFFFF, 1, 0x7FFFFFFF), (.saddz ⟨.x1, 12, 10, 8, mk⟩, 0, 0xFFFFFFFF, 2, 0xFFFFFFFF),
    (.logAnd ⟨.x1, 12, 10, 8, mk⟩, 0, 12, 10, 8), (.logOr ⟨.x1, 12, 10, 8, mk⟩, 0, 12, 10, 14),
    (.logXor ⟨.x1, 12, 10, 8, mk⟩, 0, 12, 10, 6), (.logAndn ⟨.x1, 12, 10, 8, mk⟩, 0, 12, 10, 4),
    (.logOrn ⟨.x1, 12, 10, 8, mk⟩, 0, 12, 10, 0xFFFFFFFD), (.logXnor ⟨.x1, 12, 10, 8, mk⟩, 0, 12, 10, 0xFFFFFFF9),
    (.logNot ⟨.x1, 10, 8, mk⟩, 0, 12, 0, 0xFFFFFFF3), (.shl ⟨.x1, 12, 10, 8, mk⟩, 0, 1, 33, 2),
    (.shr ⟨.x1, 12, 10, 8, mk⟩, 0, 0x80000000, 31, 1), (.sar ⟨.x1, 12, 10, 8, mk⟩, 0, 0x80000000, 31, 0xFFFFFFFF),
    (.rol ⟨.x1, 12, 10, 8, mk⟩, 0, 0x80000001, 4, 0x18), (.fshl ⟨.x1, 12, 10, 8, mk⟩, 1, 0x80000000, 1, 3),
    (.fshr ⟨.x1, 12, 10, 8, mk⟩, 1, 0x80000000, 1, 0xC0000000), (.shlI ⟨false, 4, 10, 8, mk⟩, 0, 1, 0, 16),
    (.shrI ⟨false, 4, 10, 8, mk⟩, 0, 0x80000000, 0, 0x08000000), (.sarI ⟨false, 4, 10, 8, mk⟩, 0, 0x80000000, 0, 0xF8000000),
    (.rolI ⟨false, 8, 10, 8, mk⟩, 0, 0x12345678, 0, 0x34567812), (.bfxz ⟨12, 10, 8, mk⟩, 0, 0xABC, 0x0804, 0xAB),
    (.bfxs ⟨12, 10, 8, mk⟩, 0, 0xABC, 0x0804, 0xFFFFFFAB), (.bfi ⟨12, 10, 8, mk⟩, 0xFFFFFFFF, 0, 0x0804, 0xFFFFF00F),
    (.popc ⟨.x1, 10, 8, mk⟩, 0, 0xF0F0, 0, 8), (.clz ⟨.x1, 10, 8, mk⟩, 0, 1, 0, 31), (.ctz ⟨.x1, 10, 8, mk⟩, 0, 0, 0, 32),
    (.brev ⟨.x1, 10, 8, mk⟩, 0, 1, 0, 0x80000000), (.bperm ⟨12, 10, 8, mk⟩, 0xAABBCCDD, 0x11223344, 0x8123, 0x00332211),
    (.dot4ss ⟨12, 10, 8, mk⟩, 10, 0xFFFFFFFF, 0x01010101, 6), (.dot4zz ⟨12, 10, 8, mk⟩, 10, 0xFFFFFFFF, 0x01010101, 1030),
    (.dot4sz ⟨12, 10, 8, mk⟩, 10, 0xFFFFFFFF, 0xFFFFFFFF, 0xFFFFFC0E), (.dot2s ⟨12, 10, 8, mk⟩, 10, 0xFFFF0002, 0x00030004, 15),
    (.dot2z ⟨12, 10, 8, mk⟩, 10, 0xFFFF0002, 0x00030004, 0x3000F), (.iaddi ⟨0x7FF, 10, 8, mk⟩, 0, 5, 0, 4),
    (.movl ⟨0xABCD, 8, mk⟩, 0x12345678, 0, 0, 0xABCD), (.movh ⟨0xABCD, 8, mk⟩, 0x12345678, 0, 0, 0xABCD5678),
    (.sel ⟨0, .x1, 12, 10, 8, mk⟩, 0, 3, 4, 3), (.sel ⟨1, .x1, 12, 10, 8, mk⟩, 0, 3, 4, 4),
    (.lea ⟨3, .x1, 12, 10, 8, mk⟩, 0, 0x100, 2, 0x110), (.p2v ⟨8, mk⟩, 7, 0, 0, 1),
    (.mov ⟨.imm 31, .x1, false, .x1, 8, mk⟩, 0, 0, 0, 0xFFFFFFFF), (.mov ⟨.reg 12, .x1, false, .x1, 8, mk⟩, 0, 0, 6, 6),
    (.sread ⟨false, 0, 8, mk⟩, 7, 0, 0, 0), (.sread ⟨false, 4, 8, mk⟩, 7, 0, 0, 1)].all leaves = true := by decide +kernel

/-- R76: compact forms, B in v10. -/
theorem test_compact_words : [
    (Instr.movC ⟨8, 10⟩, 3, 5, 0, 5), (.movi ⟨8, 16⟩, 3, 0, 0, 0xFFFFFFF0), (.iaddC ⟨8, 10⟩, 3, 5, 0, 8),
    (.iaddiC ⟨8, 31⟩, 3, 0, 0, 2), (.isubC ⟨8, 10⟩, 3, 5, 0, 0xFFFFFFFE), (.imulC ⟨8, 10⟩, 3, 5, 0, 15),
    (.andC ⟨8, 10⟩, 3, 5, 0, 1), (.orC ⟨8, 10⟩, 3, 5, 0, 7), (.xorC ⟨8, 10⟩, 3, 5, 0, 6), (.shlC ⟨8, 10⟩, 3, 33, 0, 6),
    (.shrC ⟨8, 10⟩, 0x80000000, 4, 0, 0x08000000), (.sarC ⟨8, 10⟩, 0x80000000, 4, 0, 0xF8000000),
    (.faddC ⟨8, 10⟩, 0x3F800000, 0x40000000, 0, 0x40400000), (.fmulC ⟨8, 10⟩, 0xC0000000, 0x40400000, 0, 0xC0C00000),
    (.fminC ⟨8, 10⟩, 0x00000000, 0x80000000, 0, 0x80000000), (.fmaxC ⟨8, 10⟩, 0x7FC00000, 0x40400000, 0, 0x40400000)
  ].all leaves = true := by decide +kernel

/-- R133 to R144: 1.0 is 3F800000, 2.0 is 40000000, 2.5 is 40200000, 3.0 is 40400000. -/
theorem test_float_words : [
    (Instr.fadd ⟨.rn, .x1, 12, 10, 8, mk⟩, 0, 0x3F800000, 0x40000000, 0x40400000),
    (.fadd ⟨.ru, .x1, 12, 10, 8, mk⟩, 0, 0x3F800000, 0x33800000, 0x3F800001),
    (.fsub ⟨.rd, .x1, 12, 10, 8, mk⟩, 0, 0x3F800000, 0x3F800000, 0x80000000),
    (.fmul ⟨.rn, .x1, 12, 10, 8, mk⟩, 0, 0x7F800000, 0x00000000, 0x7FC00000),
    (.ffma ⟨.rn, .x1, 12, 10, 8, mk⟩, 0x3F800000, 0x40000000, 0x40400000, 0x40E00000),
    (.fnma ⟨.rz, .x1, 12, 10, 8, mk⟩, 0x3F800000, 0x40000000, 0x40400000, 0xC0A00000),
    (.fmin ⟨.x1, 12, 10, 8, mk⟩, 0, 0x80000000, 0x00000000, 0x80000000),
    (.fmax ⟨.x1, 12, 10, 8, mk⟩, 0, 0x7F800001, 0x3F800000, 0x3F800000),
    (.fminNan ⟨.x1, 12, 10, 8, mk⟩, 0, 0x7F800001, 0x3F800000, 0x7FC00000),
    (.fmaxNan ⟨.x1, 12, 10, 8, mk⟩, 0, 0x40000000, 0x3F800000, 0x40000000),
    (.fabs ⟨.x1, 10, 8, mk⟩, 0, 0xFFC00001, 0, 0x7FC00001), (.fneg ⟨.x1, 10, 8, mk⟩, 0, 0, 0, 0x80000000),
    (.fcsgn ⟨.x1, 12, 10, 8, mk⟩, 0, 0x3F800000, 0x80000000, 0xBF800000),
    (.fldexp ⟨.x1, 12, 10, 8, mk⟩, 0, 0x3F800000, 3, 0x41000000),
    (.frndRn ⟨.x1, 10, 8, mk⟩, 0, 0x40200000, 0, 0x40000000), (.frndRz ⟨.x1, 10, 8, mk⟩, 0, 0xC0200000, 0, 0xC0000000),
    (.frndRd ⟨.x1, 10, 8, mk⟩, 0, 0xC0200000, 0, 0xC0400000), (.frndRu ⟨.x1, 10, 8, mk⟩, 0, 0x40200000, 0, 0x40400000),
    (.fexpof ⟨.x1, 10, 8, mk⟩, 0, 0x41000000, 0, 3), (.ffract ⟨.x1, 10, 8, mk⟩, 0, 0x40200000, 0, 0x3F000000),
    (.hadd ⟨false, .x1, 12, 10, 8, mk⟩, 0, 0x3C004000, 0x40003C00, 0x42004200),
    (.hsub ⟨false, .x1, 12, 10, 8, mk⟩, 0, 0x3C004000, 0x3C003C00, 0x00003C00),
    (.hmul ⟨true, .x1, 12, 10, 8, mk⟩, 0, 0x40003F80, 0x40404000, 0x40C04000),
    (.hfma ⟨false, .x1, 12, 10, 8, mk⟩, 0x3C003C00, 0x40004000, 0x40004000, 0x45004500),
    (.hmin ⟨false, .x1, 12, 10, 8, mk⟩, 0, 0x3C004000, 0x40003C00, 0x3C003C00),
    (.hmax ⟨false, .x1, 12, 10, 8, mk⟩, 0, 0x7E004000, 0x40003C00, 0x40004000),
    (.hcmp ⟨false, .x1, 12, 10, 8, mk⟩, 0, 0x3C007E00, 0x40003C00, 0x00010008),
    (.habs ⟨true, .x1, 10, 8, mk⟩, 0, 0xBF80C000, 0, 0x3F804000), (.hneg ⟨true, .x1, 10, 8, mk⟩, 0, 0xBF804000, 0, 0x3F80C000),
    (.cvtDirect ⟨.rz, .x1, 2, 10, 8, mk⟩, 0, 0xC0200000, 0, 0xFFFFFFFE),
    (.cvtDirect ⟨.rn, .x1, 3, 10, 8, mk⟩, 0, 0xC0200000, 0, 0), (.cvtDirect ⟨.rn, .x1, 4, 10, 8, mk⟩, 0, 0xFFFFFFFF, 0, 0xBF800000)
  ].all leaves = true := by decide +kernel

/-- R112, R140, R141: results that are pending. -/
theorem test_pending_results : [
    (Instr.divs ⟨.x1, 12, 10, 8, mk⟩, 0xFFFFFFF9, 2, 0xFFFFFFFD), (.divz ⟨.x1, 12, 10, 8, mk⟩, 7, 0, 0xFFFFFFFF),
    (.rems ⟨.x1, 12, 10, 8, mk⟩, 0xFFFFFFF9, 2, 0xFFFFFFFF), (.remz ⟨.x1, 12, 10, 8, mk⟩, 7, 0, 7),
    (.frcp ⟨.x1, 10, 8, mk⟩, 0x80000000, 0, 0xFF800000), (.frsq ⟨.x1, 10, 8, mk⟩, 0xBF800000, 0, 0x7FC00000),
    (.fsqrt ⟨.x1, 10, 8, mk⟩, 0x80000000, 0, 0x80000000), (.fexp2 ⟨10, 8, mk⟩, 0xFF800000, 0, 0),
    (.flog2 ⟨10, 8, mk⟩, 0x80000000, 0, 0xFF800000), (.fsin ⟨10, 8, mk⟩, 0x7F800000, 0, 0x7FC00000),
    (.fcos ⟨10, 8, mk⟩, 0x80000000, 0, 0x3F800000), (.ftanh ⟨10, 8, mk⟩, 0xFF800000, 0, 0xBF800000)
  ].all (fun x : Instr × Word × Word × Word =>
    pendAfter x.1 (withRegs [(10, x.2.1), (12, x.2.2.1)]) == [(8, x.2.2.2)]) = true := by decide +kernel

/-- Carries and signs cross the halves of a pair (R25, R107, R110, R111). -/
theorem test_integer_pairs :
    let s := withRegs [(10, 0xFFFFFFFF), (11, 0xFFFFFFFF), (12, 2), (13, 0)]
    pairAfter (.iadd ⟨.reg 12, .x2, 10, .x2, 8, mk⟩) s 8 = 1 ∧
    pairAfter (.imulHiz ⟨.x2, 12, 10, 8, mk⟩) s 8 = 1 ∧ pairAfter (.imulHis ⟨.x2, 12, 10, 8, mk⟩) s 8 = 0xFFFFFFFFFFFFFFFF ∧
    pairAfter (.mins ⟨.x2, 12, 10, 8, mk⟩) s 8 = 0xFFFFFFFFFFFFFFFF ∧ pairAfter (.iabs ⟨.x2, 10, 8, mk⟩) s 8 = 1 ∧
    pairAfter (.clz ⟨.x2, 12, 8, mk⟩) s 8 = 62 ∧ pairAfter (.sarI ⟨true, 40, 10, 8, mk⟩) s 8 = 0xFFFFFFFFFFFFFFFF ∧
    pairAfter (.fadd ⟨.rn, .x2, 12, 10, 8, mk⟩) s 8 = 0x7FF8000000000000 := by decide +kernel

/-- R121, R124, R138: predicates; p0 reads 1 and is not written (R28). -/
theorem test_predicates :
    (after (.icmp ⟨true, .x1, .reg 12, 10, .lt, 1, mk⟩) (withRegs [(10, 0xFFFFFFFF), (12, 1)])).p = 3 ∧
    (after (.icmp ⟨false, .x1, .reg 12, 10, .lt, 1, mk⟩) (withRegs [(10, 0xFFFFFFFF), (12, 1)])).p = 1 ∧
    (after (.icmp ⟨false, .x1, .imm 31, 10, .eq, 7, mk⟩) (withRegs [(10, 0xFFFFFFFF)])).p = 0x81 ∧
    (after (.icmp ⟨false, .x1, .imm 0, 10, .eq, 0, mk⟩) (withRegs [(10, 1)])).p = 1 ∧
    (after (.fcmp ⟨.x1, .imm 2, 10, .ueq, 2, mk⟩) (withRegs [(10, 0x40000000)])).p = 5 ∧
    (after (.fcmp ⟨.x1, .reg 12, 10, .ne, 2, mk⟩) (withRegs [(10, 0x7FC00000), (12, 0x7FC00000)])).p = 5 ∧
    (after (.pand ⟨3, false, true, 0, 2, mk⟩) one).p = 9 ∧ (after (.por ⟨3, true, true, 0, 0, mk⟩) one).p = 1 ∧
    (after (.pxor ⟨3, false, false, 0, 2, mk⟩) one).p = 9 ∧ (after (.pnot ⟨3, 2, mk⟩) one).p = 9 ∧
    (after (.v2p ⟨0x41, 10, mk⟩) (withRegs [(10, 0xFFFFFFFF)])).p = 0x83 := by decide +kernel

/-- R149: the FP16 element 1 of a register is replaced, or read. -/
theorem test_slot_conversions :
    regAfter (.cvtTo ⟨0, 1, 10, 8, mk⟩) (stage (regs [(8, 0x12345678), (10, 0x3F800000)]) id slotsOf) 8 = 0x3C005678 ∧
    regAfter (.cvtFrom ⟨0, 1, 10, 8, mk⟩) (stage (regs [(10, 0x3C005678)]) id slotsOf) 8 = 0x3F800000 ∧
    (nextState (exec (.cvtTo ⟨1, 0, 10, 8, mk⟩) (stage (regs [(10, 0x7FC00000)]) id slotsOf))).launches.map
      (fun l => l.counts.convNan) = [1] := by decide +kernel

/-- R152: a block of one 1.0 and 31 zeros quantizes to an exact mantissa and reads back. -/
theorem test_block_conversions :
    regAfter (.bfpdq ⟨3, 10, 8, mk⟩) (stage (regs [(10, 0)]) id slotsOf) 8 = 0 ∧
    (after (.bfpq ⟨3, 10, 8, mk⟩) (stage (regs [(10, 0x3F800000)]) id slotsOf)).pc = 2 := by decide +kernel

/-! ### Witnesses: memory -/

/-- Bank 0 holds scratch, the others cache. -/
def scratchPlan (l : Launch) : Launch := { l with lr := { l.lr with plan := 1 } }
/-- Bank 0 holds scratch, the others are off: no L1. -/
def noCache (l : Launch) : Launch := { l with lr := { l.lr with plan := 0xFFFFFD } }
def lab (l : List (BitVec 6 × Word)) : State := stage (regs l) id scratchPlan
def labT (l : List (BitVec 6 × Word)) : Thread := regs l t0

/-- A neighbourhood of two workgroups. -/
def nbPlan (l : Launch) : Launch := { scratchPlan l with lr := { (scratchPlan l).lr with flags := 4, nb := 0x0102 } }
def neighbour : Workgroup := { plainWg 2 with launch := 1, ctx := 1, wgid := 1, home := ⟨1, 0⟩ }
def nbS (l : List (BitVec 6 × Word)) : State := { stage (regs l) id nbPlan with wgs := [g0, neighbour] }

/-- The last word of scratch is legal, the word after it is not, nor is an odd address; the own window and another's. -/
theorem witness_ScratchLoadsAndStores :
    (StandsIn (lab [(4, 65524), (6, 65536)]) (labT [(4, 65524), (6, 65536)]) (scratchPlan l0) g0) ∧
    IsLoad (lab [(4, 65524), (6, 65536)]) (labT [(4, 65524), (6, 65536)]) (.ld ⟨2, .scr, 4, .b4, 20, mk⟩) mk .scr .b4 20 65532 ∧
    IsLoad (lab [(4, 65524), (6, 65536)]) (labT [(4, 65524), (6, 65536)]) (.ldk ⟨false, .scr, 6, 8, .z8, 20, mk⟩) mk .scr .z8
      20 65536 ∧
    (65532 < scratchBytes (scratchPlan l0) ∧ 65532 % Access.size .b4 = 0) ∧ ¬ 65536 < scratchBytes (scratchPlan l0) ∧
    IsStore (lab [(4, 65524), (6, 65536)]) (labT [(4, 65524), (6, 65536)]) (.st ⟨2, .scr, 4, .b4, 6, mk⟩) mk .scr [0, 0, 1, 0]
      65532 ∧
    StandsIn (nbS [(4, 0x100000)]) (labT [(4, 0x100000)]) (nbPlan l0) g0 ∧ (labT [(4, 0x100000)]).role = 0 ∧
    IsLoad (nbS [(4, 0x100000)]) (labT [(4, 0x100000)]) (.ld ⟨0, .win, 5, .b8, 20, mk⟩) mk .win .b8 20 0 ∧
    IsLoad (nbS [(4, 0x100000)]) (labT [(4, 0x100000)]) (.ld ⟨0, .win, 4, .b8, 20, mk⟩) mk .win .b8 20 0x100000 ∧
    memberOf (nbS [(4, 0x100000)]) (nbPlan l0) g0 (0 / 2 ^ 20) = some g0 ∧
    memberOf (nbS [(4, 0x100000)]) (nbPlan l0) g0 (0x100000 / 2 ^ 20) = some neighbour ∧ neighbour.id ≠ g0.id ∧
    Memory.wf [(5, 1), (9, 255)] = true ∧ [1, 2, 3, 4, 5, 6, 7, (8 : Byte)].length = Access.size .b8 := by
  refine ⟨by unfold StandsIn Alone; decide +kernel, .inl ⟨_, rfl, rfl, rfl, rfl, rfl, by decide +kernel⟩,
    .inr ⟨_, rfl, rfl, rfl, rfl, rfl, by decide +kernel⟩, by decide +kernel, by decide +kernel,
    ⟨.b4, 6, by decide +kernel, .inl ⟨_, rfl, rfl, rfl, rfl, rfl, by decide +kernel⟩⟩,
    by unfold StandsIn Alone; decide +kernel, by decide +kernel, .inl ⟨_, rfl, rfl, rfl, rfl, rfl, by decide +kernel⟩,
    .inl ⟨_, rfl, rfl, rfl, rfl, rfl, by decide +kernel⟩, by decide +kernel, by decide +kernel, by decide +kernel,
    by decide +kernel, by decide +kernel⟩

/-- A 64 KiB page at 0x20000 of the context at physical 0x40000, in the TLB of cluster 0; the walks of two other pages
ended without a translation. -/
def entry (w : Bool) : TlbEntry := ⟨0, 1, 0x20000, 16, 0x40000, true, w⟩
/-- The same page, not readable. -/
def unread : TlbEntry := { entry true with readable := false }
def cached (w : Bool) (s : State) : State :=
  { s with
    tlb := [entry w]
    walks := [⟨0, 1, 3, false, some .missing⟩, ⟨0, 1, 4, false, some .violation⟩, ⟨0, 1, 5, true, none⟩] }
def r0 : List (BitVec 6 × Word) := [(4, 0x20040), (6, 0x30000), (14, 0x40000), (16, 0x50000), (18, 0xFFFFFFF8), (19, 0xFFFFF)]

/-- A region without writes (mode 1) over [0x60000, 0x70000) and one of mode 3 over the next. -/
def regionLaunch (l : Launch) : Launch := { scratchPlan l with
  lr := { (scratchPlan l).lr with regions := [⟨0x60000, 0x10000, 0, 1, 0⟩, ⟨0x70000, 0x10000, 0, 3, 0⟩] } }

/-- Below 2^52 and above it; the counter page of the launch's queue lies at 2^51. -/
theorem witness_GlobalAccessesAreChecked :
    StandsIn (lab [(4, 0), (5, 0x100000)]) (labT [(4, 0), (5, 0x100000)]) (scratchPlan l0) g0 ∧
    IsLoad (lab [(4, 0), (5, 0x100000)]) (labT [(4, 0), (5, 0x100000)]) (.ld ⟨0, .glb, 4, .b4, 20, mk⟩) mk .glb .b4 20 (2 ^ 52) ∧
    accessOk (lab [(4, 0), (5, 0x100000)]) (scratchPlan l0) g0 .glb (2 ^ 52) 4 true false = false ∧
    accessOk one (scratchPlan l0) g0 .glb (2 ^ 52 - 4) 4 true false = true ∧
    accessOk one (regionLaunch l0) g0 .glb 0x6FFFC 4 false true = false ∧
    accessOk one (regionLaunch l0) g0 .glb 0x80000 4 false true = true ∧
    accessOk one (scratchPlan l0) g0 .glb (2 ^ 51) 4 false true = false ∧
    StandsIn (stage (fun t => { t with role := 2 }) id id) { t0 with role := 2 } l0 g0 ∧
    IsStore (stage (fun t => { t with role := 2 }) id id) { t0 with role := 2 } (.st ⟨0, .far, 4, .z8, 20, mk⟩) mk .far [0] 0 := by
  refine ⟨by unfold StandsIn Alone; decide +kernel, .inl ⟨_, rfl, rfl, rfl, rfl, rfl, by decide +kernel⟩,
    by decide +kernel, by decide +kernel, by decide +kernel, by decide +kernel, by decide +kernel,
    by unfold StandsIn Alone; decide +kernel,
    ⟨.z8, 20, by decide +kernel, .inl ⟨_, rfl, rfl, rfl, rfl, rfl, by decide +kernel⟩⟩⟩

/-- A line of the home's L1 at the page's second 64 bytes. -/
def line0 : L1Line := ⟨⟨0, 0⟩, 1, 0x20040 / 128, 0x40040 / 128, 0xFF, 0, [], false, 0, 0⟩
def lineS (w : Bool) : State := { cached w (lab r0) with l1 := [line0] }

/-- Addresses with a translation, with none and no walk, and with each way a walk can have ended. -/
theorem witness_GlobalLoadsHitOrSend :
    let s := cached true (lab r0)
    let t := labT r0
    StandsIn s t (scratchPlan l0) g0 ∧ t.role = 0 ∧
    [0x20040, 0x30000, 0x40000, 0x50000, 0x80000, 2 ^ 51].all (fun a => accessOk s (scratchPlan l0) g0 .glb a 4 true false) = true ∧
    tlbAt s 0 1 0x80000 = none ∧ walkAt s 0 1 0x80000 = none ∧
    tlbAt s 0 1 0x30000 = none ∧ (walkAt s 0 1 0x30000).map Walk.failed = some (some .missing) ∧
    tlbAt s 0 1 0x40000 = none ∧ (walkAt s 0 1 0x40000).map Walk.failed = some (some .violation) ∧
    (walkAt s 0 1 0x50000).map Walk.failed = some none ∧ tlbAt s 0 1 0x20040 = some (entry true) ∧
    tlbAt s 0 1 0x2FFFF = some (entry true) ∧ (entry true).readable = true ∧
    tlbAt { s with tlb := [unread] } 0 1 0x20040 = some unread ∧ unread.readable = false ∧ inCounterPage s g0.ctx 0x20040 = false ∧
    inTrapBin s g0.ctx 0x20040 = false ∧ l1Ways (scratchPlan l0) ≠ 0 ∧ l1Ways (noCache l0) = 0 ∧
    lineAt (lineS true) g0.home 1 0x20040 = some line0 ∧
    (∀ j, j < 4 → lineHas line0 ((0x20040 + j) % 128) = true) ∧ lineAt s g0.home 1 0x20040 = none ∧
    aliasAt s g0.home 0x40040 = none ∧ forwardable (scratchPlan l0) 0x20040 = false := by
  unfold StandsIn Alone; decide +kernel

theorem witness_GlobalLoadsHitOrSend_forms :
    IsLoad (cached true (lab r0)) (labT r0) (.ld ⟨0, .glb, 4, .b4, 20, mk⟩) mk .glb .b4 20 0x20040 ∧
    IsLoad (cached true (lab r0)) (labT r0) (.ld ⟨0, .glb, 6, .b4, 20, mk⟩) mk .glb .b4 20 0x30000 ∧
    IsLoad (cached true (lab r0)) (labT r0) (.ld ⟨0, .glb, 14, .b4, 20, mk⟩) mk .glb .b4 20 0x40000 ∧
    IsLoad (cached true (lab r0)) (labT r0) (.ldk ⟨false, .glb, 20, 0, .b32, 24, mk⟩) mk .glb .b32 24 0 :=
  ⟨.inl ⟨_, rfl, rfl, rfl, rfl, rfl, by decide +kernel⟩, .inl ⟨_, rfl, rfl, rfl, rfl, rfl, by decide +kernel⟩,
    .inl ⟨_, rfl, rfl, rfl, rfl, rfl, by decide +kernel⟩, .inr ⟨_, rfl, rfl, rfl, rfl, rfl, by decide +kernel⟩⟩

/-- The counter page, through a translation of its own (R323). -/
theorem witness_GlobalLoadsHitOrSend_counters :
    let s : State := { lab [(5, 0x80000)] with tlb := [⟨0, 1, 2 ^ 51, 16, 0, true, true⟩] }
    (tlbAt s 0 1 (2 ^ 51)).isSome = true ∧ inCounterPage s g0.ctx (2 ^ 51) = true ∧
    m1Address ⟨0, .glb, 4, .b4, 20, mk⟩ (labT [(5, 0x80000)]) = 2 ^ 51 := by decide +kernel

/-- A queue whose control block is the first 64 bytes of the page. -/
def queueAt (qcb : Nat) : Queue := ⟨1, 0, qcb, plainConf, 0, 0, 0, 0, 0, 0, 0, true, false, false, 0, false, [], none, none, [],
  false, []⟩

theorem witness_GlobalStoresFillTheLine :
    let s := cached true (lab r0)
    let t := labT r0
    StandsIn s t (scratchPlan l0) g0 ∧ t.role = 0 ∧
    [0x20040, 0x30000, 0x40000, 0x50000].all (fun a => accessOk s (scratchPlan l0) g0 .glb a 4 false true) = true ∧
    freezeFor s g0.ctx 0x20040 1 0x40040 = none ∧ (entry true).writable = true ∧ (entry false).writable = false ∧
    tlbAt (cached false (lab r0)) 0 1 0x20040 = some (entry false) ∧
    freezeFor (cached false (lab r0)) g0.ctx 0x20040 1 0x40040 = none ∧
    (freezeFor { s with queues := [queueAt 0x20040] } g0.ctx 0x20040 1 0x40040).isSome = true ∧
    l1Ways (noCache l0) = 0 ∧ l1Ways (scratchPlan l0) ≠ 0 ∧
    0x40040 % 128 + 64 ≤ 128 ∧ lineAt (lineS true) ⟨0, 0⟩ (asidOf (lineS true) 1) 0x20040 = some line0 ∧
    Memory.wf line0.data = true := by
  unfold StandsIn Alone; decide +kernel

theorem witness_GlobalStoresFillTheLine_form :
    IsStore (cached true (lab r0)) (labT r0) (.st ⟨0, .glb, 4, .b4, 6, mk⟩) mk .glb [0, 0, 3, 0] 0x20040 :=
  ⟨.b4, 6, by decide +kernel, .inl ⟨_, rfl, rfl, rfl, rfl, rfl, by decide +kernel⟩⟩

/-- An atomic on the word at 0x20040, and the first two walks; operand values at the borders of the wrapping forms. -/
def at0 : Atom := ⟨.rlx, 4, true, 2, false, 20, mk⟩
theorem witness_AtomicsActAtTheHomeSlice :
    let s := cached true (lab r0)
    let t := labT r0
    StandsIn s t (scratchPlan l0) g0 ∧ IsAtomic (.atomAdd at0) at0 false 0 ∧ IsAtomic (.atomxCas at0) at0 true 0 ∧
    atomicAddress at0 t = 0x20040 ∧ 0x20040 / 2 ^ 63 = 0 ∧ accessOk s (scratchPlan l0) g0 .glb 0x20040 4 true true = true ∧
    accessOk s (scratchPlan l0) g0 .glb 0x20041 4 true true = false ∧ tlbAt s 0 1 0x20040 = some (entry true) ∧
    freezeFor s g0.ctx 0x20040 1 0x40040 = none ∧ (entry true).readable = true ∧ (entry true).writable = true ∧
    (freezeFor { s with queues := [queueAt 0x20040] } g0.ctx 0x20040 1 0x40040).isSome = true ∧
    unread.readable = false ∧ (entry false).writable = false ∧ aliasAt s g0.home 0x40040 = none ∧
    boundRegions (scratchPlan l0) 0x20040 = [] ∧ tlbAt s 0 1 0x30000 = none ∧
    (walkAt s 0 1 0x30000).map Walk.failed = some (some .missing) ∧ tlbAt s 0 1 0x80000 = none ∧ walkAt s 0 1 0x80000 = none ∧
    decodeFp (fmtOf 32) 0x7FC00000 = .nan ∧ decodeFp (fmtOf 64) 0 ≠ .nan ∧
    ltSigned (decodeFp (fmtOf 32) 0x80000000) (decodeFp (fmtOf 32) 0) = true ∧
    [1, 2, 3, (4 : Byte)].length = (if false then 8 else 4) := by
  unfold StandsIn Alone Machine.IsAtomic; decide +kernel

/-- A far address of device 0, with a reply at hand or none, and with far groups of 7 and 8. -/
def farAt : List (BitVec 6 × Word) := [(4, 0x40), (5, 0x80000000)]
def farS (f : Thread → Thread) : State :=
  withImage (fun x => { x with stops := stops }) (stageOn stopCode (fun t => f (regs farAt t)) id scratchPlan)
theorem witness_FarInstructionsTakeTwoPasses :
    let t := labT farAt
    let f := fun (t : Thread) => { t with reply := some ⟨[1, 2, 3, 4], none, false⟩ }
    let h := fun (t : Thread) => { t with reply := some ⟨[], some 0x40, false⟩ }
    let q := fun (t : Thread) => { t with far := [1, 2, 3, 4, 5, 6, 7] }
    let p := fun (t : Thread) => { t with far := [1, 2, 3, 4, 5, 6, 7, 8] }
    StandsIn (farS id) t (scratchPlan l0) g0 ∧ t.role = 0 ∧ t.reply = none ∧ (ordinalOf (farS id) t t.pc).isSome = true ∧
    ordinalOf one t0 t0.pc = none ∧ accessOk (farS id) (scratchPlan l0) g0 .far (2 ^ 63 + 0x40) 4 true false = true ∧
    accessOk (farS id) (scratchPlan l0) g0 .far (2 ^ 63 + 0x41) 4 true false = false ∧
    accessOk (farS id) (scratchPlan l0) g0 .far (2 ^ 63 + 0x40) 4 false true = true ∧
    StandsIn (farS f) (f t) (scratchPlan l0) g0 ∧ StandsIn (farS h) (h t) (scratchPlan l0) g0 ∧
    StandsIn (farS q) (q t) (scratchPlan l0) g0 ∧ (q t).far.length < 8 ∧
    StandsIn (farS p) (p t) (scratchPlan l0) g0 ∧ 8 ≤ (p t).far.length ∧
    atomicAddress ⟨.rlx, 4, false, 2, false, 0, mk⟩ t / 2 ^ 63 = 1 := by
  unfold StandsIn Alone; decide +kernel

theorem witness_FarInstructionsTakeTwoPasses_forms :
    IsLoad (farS id) (labT farAt) (.ld ⟨0, .far, 4, .b4, 20, mk⟩) mk .far .b4 20 (2 ^ 63 + 0x40) ∧
    IsStore (farS id) (labT farAt) (.st ⟨0, .far, 4, .b4, 4, mk⟩) mk .far [0x40, 0, 0, 0] (2 ^ 63 + 0x40) ∧
    IsAtomic (.atomAnd ⟨.rlx, 4, false, 2, false, 0, mk⟩) ⟨.rlx, 4, false, 2, false, 0, mk⟩ false 6 :=
  ⟨.inl ⟨_, rfl, rfl, rfl, rfl, rfl, by decide +kernel⟩,
    ⟨.b4, 4, by decide +kernel, .inl ⟨_, rfl, rfl, rfl, rfl, rfl, by decide +kernel⟩⟩, by unfold Machine.IsAtomic; decide +kernel⟩

/-- A message of the thread. -/
def req (id : Nat) (va pa : Nat) (k : ReqKind) (st : ReqStage) : Req :=
  ⟨id, ⟨0, 0⟩, 1, 1, 0, va, pa, k, st, false, false, false, 0, false⟩

/-- With no message on its way, with a load behind the object, with a far group, and with a far violation. -/
theorem witness_ReleasesAcquiresAndFences :
    let s := lab [(4, 0x20040)]
    let t := labT [(4, 0x20040)]
    let r := req 9 0x20040 0x40040 (.read 4) .toHome
    let f := fun (t : Thread) => { t with far := [9] }
    let h := fun (t : Thread) => { t with farFault := some 0x40 }
    StandsIn s t (scratchPlan l0) g0 ∧ s.reqs = [] ∧ outstandingBound s t (scratchPlan l0) 0x20040 = [] ∧ t.far = [] ∧
    t.farFault = none ∧ StandsIn { s with reqs := [r] } t (scratchPlan l0) g0 ∧ r.wg = t.wg ∧ r.tid = t.tid ∧
    (r.va < 0x20040 + 8 ∧ 0x20040 < r.va + 4) ∧ fenceWaits .cg r = true ∧ fenceWaits .th r = false ∧
    StandsIn (stage f id id) (f t0) l0 g0 ∧ (f t0).far ≠ [] ∧
    StandsIn (stage h id id) (h t0) l0 g0 ∧ (h t0).farFault = some 0x40 ∧ (h t0).far = [] := by
  unfold StandsIn Alone; decide +kernel

/-- A dirty line under the range; prefetches of pages with a translation, without one, with a failed walk and beyond. -/
theorem witness_CacheMaintenance :
    let s := lineS true
    let t := labT r0
    StandsIn s t (scratchPlan l0) g0 ∧
    (overLines (fun s x => invalidateLine s x g0.ctx g0.id t.tid) s [line0]).2 = [] ∧
    (overLines (fun s x => writeBackLine s x g0.ctx g0.id t.tid) s [{ line0 with mask := 1 }]).2 ≠ [] ∧
    0x20040 < 2 ^ 52 ∧ tlbAt s 0 (asidOf s g0.ctx) 0x20040 = some (entry true) ∧ tlbAt s 0 (asidOf s g0.ctx) 0x80000 = none ∧
    walkAt s 0 (asidOf s g0.ctx) 0x80000 = none ∧ tlbAt s 0 (asidOf s g0.ctx) 0x30000 = none ∧
    (walkAt s 0 (asidOf s g0.ctx) 0x30000).map Walk.failed = some (some .missing) ∧ 2 ^ 52 ≤ 2 ^ 52 ∧
    (entry true).readable = true ∧ tlbAt { s with tlb := [unread] } 0 (asidOf s g0.ctx) 0x20040 = some unread ∧
    unread.readable = false := by
  unfold StandsIn Alone; decide +kernel

/-! ### Witnesses: barriers and rings -/

def bar1 : Bar := ⟨2, 1, 0, 0, false, true, 0, 0⟩
theorem witness_BarrierObjectsCountPhases :
    bar1.valid = true ∧ (barOf (List.replicate 16 0)).valid = false ∧ (65536 : Word).toNat % 65536 = 0 ∧
    (1 : Word).toNat % 65536 ≠ 0 ∧ (({ bar1 with pend := 0 } : Bar).valid = true ∧ ({ bar1 with pend := 0 } : Bar).pend = 0 ∧
      bar1.inb = 0 ∧ bar1.outb = 0) ∧ bar1.pend ≠ 0 ∧
    (65535 < 65536 ∧ 2 ^ 14 - 1 < 2 ^ 14) := by decide +kernel

/-- Objects at 0x40 (valid, one arrival to come) and 0x50 (not valid) of scratch. -/
def withBar (g : Workgroup) : Workgroup := { g with scratch := writeBytes [] 0x40 (barBytes bar1) }
def barRegs : List (BitVec 6 × Word) := [(4, 0x40), (5, 1), (6, 0x50), (8, 0x20040), (10, 65536)]
def barS (s : State) : State := cached true { s with wgs := s.wgs.map withBar }
def barLab : State :=
  barS (withImage (fun x => { x with stops := stops }) (stageOn stopCode (regs barRegs) id scratchPlan))

theorem witness_BarrierInstructionsChangeTheObject :
    let s := barLab
    let t := labT barRegs
    StandsIn s t (scratchPlan l0) (withBar g0) ∧ NotRecorded s (withBar g0).launch ∧ t.waits = [] ∧ barReq s t = none ∧
    NothingBound s t (scratchPlan l0) (withBar g0) (scratchObject 0x40) ∧ 0x40 < scratchBytes (scratchPlan l0) ∧
    (barChange 1 1 false (scratchBar (withBar g0) 0x40)).isSome = true ∧
    barChange 1 1 false (scratchBar (withBar g0) 0x50) = none ∧ ¬ 65536 < scratchBytes (scratchPlan l0) ∧
    accessOk s (scratchPlan l0) (withBar g0) .glb 0x20040 16 true true = true ∧
    accessOk s (scratchPlan l0) (withBar g0) .glb 0x20044 16 true true = false ∧
    NothingBound s t (scratchPlan l0) (withBar g0) 0x20040 ∧ tlbAt s 0 (asidOf s 1) 0x20040 = some (entry true) ∧
    (entry true).readable = true ∧ (entry true).writable = true ∧ unread.readable = false ∧
    freezeFor s (withBar g0).ctx 0x20040 1 0x40040 = none ∧
    (freezeFor { s with queues := [queueAt 0x20040] } g0.ctx 0x20040 1 0x40040).isSome = true := by
  unfold StandsIn Alone NotRecorded NothingBound; decide +kernel

theorem witness_BarrierInstructionsChangeTheObject_forms :
    IsBarChange (labT barRegs) (.barInit ⟨false, 5, 4, mk⟩) mk 0 false false 0x40 1 ∧
    IsBarChange (labT barRegs) (.barArr ⟨false, 5, 4, mk⟩) mk 1 false false 0x40 1 ∧
    IsBarChange (labT barRegs) (.barExp ⟨false, true, 5, 4, mk⟩) mk 3 false true 0x40 1 ∧
    IsBarChange (labT barRegs) (.barInval ⟨false, 10, mk⟩) mk 4 false false 65536 0 ∧
    IsBarChange (labT barRegs) (.barArr ⟨true, 5, 8, mk⟩) mk 1 true false 0x20040 1 :=
  ⟨⟨4, by decide +kernel, .inl ⟨5, rfl, rfl, rfl, by decide +kernel⟩⟩,
    ⟨4, by decide +kernel, .inr (.inl ⟨5, rfl, rfl, rfl, by decide +kernel⟩)⟩,
    ⟨4, by decide +kernel, .inr (.inr (.inl ⟨5, rfl, rfl, by decide +kernel⟩))⟩,
    ⟨10, by decide +kernel, .inr (.inr (.inr ⟨rfl, rfl, rfl, rfl⟩))⟩,
    ⟨8, by decide +kernel, .inr (.inl ⟨5, rfl, rfl, rfl, by decide +kernel⟩)⟩⟩

/-- The answer of a home slice to a barrier message: allowed, and turned away. -/
theorem witness_BarrierInstructionsChangeTheObject_answers :
    let q := fun (ok : Bool) => req 9 0x20040 0x40040 (.bar 1 1 false) (.reply (barReply ⟨ok, false, true⟩) none true)
    barReq { barLab with reqs := [q true] } (labT barRegs) = some (q true) ∧
    barReq { barLab with reqs := [q false] } (labT barRegs) = some (q false) := by decide +kernel

theorem witness_BarrierWaits :
    let s := barLab
    let f := fun (b : Bool) (t : Thread) => { t with mark := some b }
    let t := labT barRegs
    let b := scratchBar (withBar g0) 0x40
    StandsIn s t (scratchPlan l0) (withBar g0) ∧ NotRecorded s (withBar g0).launch ∧ t.waits = [] ∧ barReq s t = none ∧
    NothingBound s t (scratchPlan l0) (withBar g0) (scratchObject 0x40) ∧ 0x40 < scratchBytes (scratchPlan l0) ∧
    (ordinalOf s t t.pc).isSome = true ∧ b.valid = true ∧ t.mark = none ∧
    (barChange 2 1 false b).map (fun x => decide (x.ph ≠ b.ph)) = some true ∧
    (barChange 2 0 false b).map (fun x => decide (x.ph = b.ph)) = some true ∧
    (f true t).mark = some true ∧ b.ph ≠ true ∧ (f false t).mark = some false ∧ b.ph = false ∧
    b.ph ≠ (getV t 5).getLsbD 0 ∧ b.ph = (getV t 20).getLsbD 0 ∧ ordinalOf one t0 t0.pc = none ∧
    ¬ ((getV t 10).toNat < scratchBytes (scratchPlan l0)) := by
  unfold StandsIn Alone NotRecorded NothingBound; decide +kernel

/-- Ingress ring 5 of the context's virtual device, empty and with one entry. -/
def ingress (prod : Nat) : Ingress := ⟨5, ⟨0x40000, 0x60000, 4, 6, 1, 0x88B5, 0, false, 0, true⟩, prod, 0, 0⟩
def ingS (prod : Nat) : State :=
  let s := withImage (fun x => { x with stops := stops }) (stageOn stopCode (regs [(4, 5), (6, 7)]) id id)
  { s with
    vds := s.vds.map fun v => { v with ingress := [ingress prod] }
    pages := [⟨1, 0x60000, 16, 0x60000, 0, true, true, false, .device, none, (0, 0)⟩] }
theorem witness_IngressAwaits :
    let t := labT [(4, 5), (6, 7)]
    Alone (ingS 1) t ∧ findWg (ingS 1) t.wg = some g0 ∧ findIngress (ingS 1) g0.ctx ((getV t 6).toNat % 256) = none ∧
    findIngress (ingS 1) g0.ctx ((getV t 4).toNat % 256) = some (ingress 1) ∧
    1 % 2 ^ 32 ≠ vreadNat (ingS 1) g0.ctx ((ingress 1).desc.index + 0x40) 4 ∧ Alone (ingS 0) t ∧
    findIngress (ingS 0) g0.ctx 5 = some (ingress 0) ∧
    0 % 2 ^ 32 = vreadNat (ingS 0) g0.ctx ((ingress 0).desc.index + 0x40) 4 ∧
    (ordinalOf (ingS 0) t t.pc).isSome = true ∧ ingressCount (ingS 1) g0.ctx ≤ (getV t 6).toNat % 256 ∧
    findIngress (ingS 1) g0.ctx ((getV (labT [(4, 0x103)]) 4).toNat % 256) = none ∧
    (getV (labT [(4, 0x103)]) 4).toNat % 256 < ingressCount (ingS 1) g0.ctx := by
  unfold Alone; decide +kernel

theorem witness_StageRings :
    let s := stopped id (withRing false) id
    let r := fun (g : Option Nat) (tph : Bool) => { ringWith tph with grant := g }
    Alone s t0 ∧ findWg s t0.wg = some (withRing false g0) ∧ NotRecorded s (withRing false g0).launch ∧
    findRing (withRing false g0) (6 : BitVec 8).toNat = none ∧
    findRing (withRing false g0) (5 : BitVec 8).toNat = some (ringWith false) ∧ (ringWith false).countsFull = false ∧
    (ringWith false).grant ≠ some t0.tid ∧ (r (some 0) false).full = false ∧ (r (some 0) false).grant = some t0.tid ∧
    (r (some 0) true).full = true ∧ (ringWith true).countsFull = true ∧ (ringWith false).empty = true ∧
    (ringWith true).empty = false ∧ (ringPop (ringWith true)).countsFull = false ∧
    (ringPop (r (some 3) true)).countsFull = true ∧ (ordinalOf s t0 t0.pc).isSome = true ∧
    (ringWith false).reserve = none ∧ (ringWith false).head < (ringWith false).size ∧
    (ringWith false).tail + 1 ≠ (ringWith false).size + 1 ∧ (ringWith false).tail < (ringWith false).size := by
  unfold Alone NotRecorded; decide +kernel

/-! ### Witnesses: copy, matrix, work and coverage instructions -/

/-- A fill of 16 bytes of scratch at 0x1000 as a job card at 0x80; a card of length 0 at 0xC0. -/
def fillCard : List Byte :=
  toBytes 8 0 ++ toBytes 8 0x1000 ++ toBytes 4 16 ++ toBytes 2 1 ++ List.replicate 42 0
def carded (g : Workgroup) : Workgroup := { g with scratch := writeBytes [] 0x80 fillCard }
def role (r : BitVec 2) (t : Thread) : Thread := { t with role := r }
def copyLab (r : BitVec 2) (a : Word) : State := stage (fun t => role r (regs [(4, a)] t)) carded scratchPlan

/-- A command of the workgroup. -/
def cmd (id : Nat) (q : QueueRef) (k : CmdKind) : Cmd :=
  ⟨id, 1, q, false, k, 0, 0, 0, false, none, [], [], [], .queued, [], [], none, none, [], none, none, []⟩
def fill16 : Card := cardOf fillCard
def fillCmd (id : Nat) : Cmd := cmd id (.copy 1) (.copy 6 fill16 false)
def fillPush : Push := ⟨.copy 1, false, .copy 6 fill16 false, 0, false, 0⟩

theorem witness_CopyInstructionsCheckAndQueue :
    let s := copyLab 1 0x80
    let t := role 1 (regs [(4, 0x80)] t0)
    let g := carded g0
    let l := scratchPlan l0
    StandsIn s t l g ∧ IsCopy (.cpyFill ⟨1, 4, false, 0, mk⟩) ⟨1, 4, false, 0, mk⟩ 6 false ∧ t.fl.entered = false ∧
    t.role = 1 ∧ cardCheck s l g 6 false 0x80 (cardOf (readBytes g.scratch 0x80 64)) = none ∧
    (cardCheck s l g 6 false 0xC0 (cardOf (readBytes g.scratch 0xC0 64))).isSome = true ∧
    (∀ q ∈ pushQueues s g fillPush, entryTo s g q = .place) ∧
    (pushQueues { s with cmds := (List.range 16).map fillCmd } g fillPush).filter
      (fun q => decide (entryTo { s with cmds := (List.range 16).map fillCmd } g q = .full)) = [.copy 1] ∧
    StandsIn (copyLab 0 0x80) (role 0 (regs [(4, 0x80)] t0)) l g ∧ 0x81 % 64 ≠ 0 ∧
    scratchBytes l < 65536 + 64 ∧ 65536 - 64 + 64 ≤ scratchBytes l ∧ nbSize l = 0 ∧
    (cardOf (readBytes g.scratch 0xC0 64)).len < 16 ∧
    IsCopy (.cpyChain ⟨1, 4, false, 0, mk⟩) ⟨1, 4, false, 0, mk⟩ 4 false := by
  unfold StandsIn Alone IsCopy; decide +kernel

theorem witness_QueuedCommandsAreOrderedByTheirFootprints :
    let g := withRing false g0
    (1 : Nat) ≠ 0 ∧ guardState g 3 = .isTrue ∧ guardState g 4 = .isFalse ∧ guardState g 1 = .idle ∧
    guardState g 2 = .armed ∧ entryTo one g0 (.copy 1) = .place ∧ entryTo one g0 (.matrix 0) = .place := by decide +kernel

/-- The matrix role, with a dense FP16 slot 0 and operand words for A offset 0, 256 bytes a row, 32 by 32, one group. -/
def mxLaunch (l : Launch) : Launch :=
  { scratchPlan l with lr := { (scratchPlan l).lr with f := [1, 0, 0x85, 0, 0, 0, 0, 0] } }
def mxT (l : List (BitVec 6 × Word)) (t : Thread) : Thread := role 2 (regs l t)
def mxRegs : List (BitVec 6 × Word) := [(4, 0), (5, 0x01000000), (6, 0), (8, 0x100), (9, 0x100), (10, 0xFFFFFFFF), (11, 0x40), (12, 8)]
def mxS (fg : Workgroup → Workgroup) : State := stage (mxT mxRegs) fg mxLaunch
def noHalf (g : Workgroup) : Workgroup := { g with hasHalf := false }
def bound (g : Workgroup) : Workgroup := { g with handles := [⟨0, 0xFF, 0, 128⟩] }
def mxOps (t : Thread) : MmaOps := ⟨2, 0, (getV t 4).toNat, getV t 5, (getV t 6).toNat⟩

theorem witness_MatrixInstructionsCheckAndQueue :
    let t := mxT mxRegs t0
    let l := mxLaunch l0
    StandsIn (mxS id) t l g0 ∧ t.role = 2 ∧ StandsIn (mxS noHalf) t l (noHalf g0) ∧ (noHalf g0).hasHalf = false ∧
    StandsIn (mxS bound) t l (bound g0) ∧ handleForbids (bound g0) t 2 = true ∧ handleForbids g0 t 2 = false ∧
    g0.hasHalf = true ∧ (launchFormat l 0).kind ≠ 0 ∧ (launchFormat l 0).plc = false ∧ (launchFormat l 1).kind = 0 ∧
    (launchFormat l 2).plc = true ∧ mmaCheck l (mxOps t) = none ∧
    (mmaCheck l { mxOps t with aoff := 8 }).isSome = true ∧
    (∀ q ∈ pushQueues (mxS id) g0 ⟨.matrix 0, false, .mma (mxOps t), 0, false, 0⟩, entryTo (mxS id) g0 q = .place) ∧
    ((getV t 8).toNat % 16 = 0 ∧ (getV t 9).toNat % 16 = 0 ∧ 256 ≤ (getV t 9).toNat ∧
      (getV t 8).toNat + 31 * (getV t 9).toNat + 256 ≤ scratchBytes l) ∧
    (getV t 12).toNat % 16 ≠ 0 ∧ (getV t 10).toNat = 0xFFFFFFFF ∧
    ((getV t 11).toNat % 16 = 0 ∧ (getV t 11).toNat + 16 ≤ scratchBytes l) ∧
    ((0xFFFFFFF0 : Word).toNat ≠ 0xFFFFFFFF ∧ (0xFFFFFFF0 : Word).toNat % 16 = 0 ∧
      scratchBytes l < (0xFFFFFFF0 : Word).toNat + 16) := by
  unfold StandsIn Alone; decide +kernel

theorem witness_TileHandlesAndStatus :
    let t := mxT [(4, 0x80), (6, 0x80), (8, 0x41)] t0
    let l := mxLaunch l0
    let full := fun (g : Workgroup) => { g with handles := (List.range 4).map fun n => (⟨n, 0, 1024 * n, 128⟩ : Handle) }
    StandsIn (stage (mxT [(4, 0x80), (6, 0x80), (8, 0x41)]) id mxLaunch) t l g0 ∧ t.role = 2 ∧ g0.hasHalf = true ∧
    (noHalf g0).hasHalf = false ∧ (getV t 8).toNat % 128 ≠ 0 ∧ (getV t 4).toNat % 128 = 0 ∧ t.handle = none ∧
    freeHandle g0 = some 0 ∧ freeHandle (full g0) = none ∧ ((0 : BitVec 8) = 0 ∧ (getV t 20).toNat = 0) ∧
    (getV t 4).toNat + (getV t 6).toNat ≤ shareBytes l ∧ shareBytes l < 98304 + 128 ∧
    (∃ h ∈ (bound g0).handles, handleMeets 1 0x80 0x80 h = true) ∧ ∀ h ∈ g0.handles, handleMeets 1 0x80 0x80 h = false := by
  unfold StandsIn Alone; decide +kernel

def resultLaunch (l : Launch) : Launch := { scratchPlan l with lr := { (scratchPlan l).lr with result := 0x20040 } }
theorem witness_PostUpdatesTheResultWord :
    let s := cached true (stage id id resultLaunch)
    StandsIn one t0 l0 g0 ∧ l0.lr.result = 0 ∧ StandsIn s t0 (resultLaunch l0) g0 ∧ (resultLaunch l0).lr.result ≠ 0 ∧
    accessOk s (resultLaunch l0) g0 .glb 0x20040 8 true true = true ∧
    accessOk s (resultLaunch l0) g0 .glb (2 ^ 51) 8 true true = false ∧
    tlbAt s 0 (asidOf s g0.ctx) 0x20040 = some (entry true) ∧ freezeFor s g0.ctx 0x20040 1 0x40040 = none ∧
    aliasAt s g0.home 0x40040 = none ∧ (entry true).readable = true ∧ (entry true).writable = true ∧
    (entry false).writable = false ∧ (freezeFor { s with queues := [queueAt 0x20040] } g0.ctx 0x20040 1 0x40040).isSome = true ∧
    (Instr.postMaxz ⟨4, mk⟩, 2) ∈ [(Instr.post ⟨4, mk⟩, 0), (.postOr ⟨4, mk⟩, 1), (.postMaxz ⟨4, mk⟩, 2)] := by
  unfold StandsIn Alone; decide +kernel

/-- A device-side queue of one packet, number 3; the packet read, valid and not. -/
def devQueue : Queue := { queueAt 0x80000 with num := 3, conf := { plainConf with conf := 0x00000340 } }
def packetBytes (head : Nat) : List Byte := toBytes 4 head ++ List.replicate 28 0
theorem witness_LnchAppendsAPacket :
    let s : State := { cached true (lab r0) with queues := [devQueue] }
    let r := req 9 0x20040 0x40040 (.packet 3 20) (.taken (packetBytes 0))
    StandsIn s (labT r0) (scratchPlan l0) g0 ∧ (labT r0).waits = [] ∧ lnchReq s (labT r0) = none ∧
    accessOk s (scratchPlan l0) g0 .glb 0x20040 32 true false = true ∧
    accessOk s (scratchPlan l0) g0 .glb 0x20050 32 true false = false ∧
    tlbAt s 0 (asidOf s g0.ctx) 0x20040 = some (entry true) ∧ aliasAt s g0.home 0x40040 = none ∧
    (entry true).readable = true ∧ tlbAt { s with tlb := [unread] } 0 (asidOf s g0.ctx) 0x20040 = some unread ∧ unread.readable = false ∧
    lnchReq { s with reqs := [r] } (labT r0) = some r ∧ deviceQueue s g0.ctx 4 = none ∧ deviceQueue s g0.ctx 3 = some devQueue ∧
    (packetOf (packetBytes 1)).valid = !(packetOf (packetBytes 0)).valid ∧ deviceQueueFull s g0.ctx devQueue = false ∧
    deviceQueueFull { s with queues := [{ devQueue with tail := 1 }] } g0.ctx { devQueue with tail := 1 } = true := by
  unfold StandsIn Alone; decide +kernel

/-- A map of 2 by 1 points of which the one rung keeps the first (R329). -/
def laddered (l : Launch) : Launch :=
  { l with
    full := false
    lr := { l.lr with size := [2, 1, 1], cover := ⟨1, 0, 0x3F000000, 0x3F800000, [2], 0x20000, 2, 1, 16⟩ } }
theorem witness_CoverageInstructions :
    let s := stage id id laddered
    let f := fun (t : Thread) => { t with fl := { t.fl with assay := true } }
    StandsIn (stage (role 1) id id) (role 1 t0) l0 g0 ∧ (role 1 t0).role ≠ 0 ∧ (role 1 t0).waits = [] ∧
    StandsIn one t0 l0 g0 ∧ l0.full = true ∧ StandsIn s t0 (laddered l0) g0 ∧ (laddered l0).full = false ∧
    t0.fl.assay = false ∧ localPoint (laddered l0) g0 t0 = some (0, 0) ∧ (0, 0) ∉ g0.cover.marks ∧
    coverageKernel s t0.launch = false ∧ StandsIn (stage f id id) (f t0) l0 g0 ∧ (f t0).fl.assay = true ∧
    (f t0).farFault = none := by
  unfold StandsIn Alone; decide +kernel

/-! ### Witnesses: the device's own steps -/

def rd : Req := req 9 0x20040 0x40040 (.read 4) .toHome
def wr : Req := req 9 0x20040 0x40040 (.write [(0x40040, 7), (0x40041, 8)]) .toHome
def withReqs (l : List Req) : State := { lab r0 with reqs := l }

def heldLine (s : State) (r : Req) : State := { s with l2 := [⟨reqSlice s r, r.pa / 128, 0, 0xFF, 0, none, 0⟩] }
/-- The first message of its tile; a read of a line the slice holds, and of one it lacks; a later message, and one whose
own home has a request for the line at the slice. -/
theorem witness_HomeSlicesPerformReadsAndWrites :
    let s := withReqs [wr]
    let h := heldLine (withReqs [rd]) rd
    let m := { rd with stage := .missWait }
    findReq s 9 = some wr ∧ arrivesAtSlice s wr = true ∧ lineBlocked s wr = false ∧ wr.bad = false ∧
    waitingAt s (reqSlice s wr) wr.pa = [] ∧ wr.pa < 2 ^ 39 ∧
    ([(0x40040, (7 : Byte)), (0x40041, 8)].map Prod.fst).Nodup ∧ Memory.wf s.mem = true ∧ findReq h 9 = some rd ∧
    arrivesAtSlice h rd = true ∧ lineBlocked h rd = false ∧ waitingAt h (reqSlice h rd) rd.pa = [] ∧
    (∃ x, l2At h (reqSlice h rd) rd.pa = some x ∧ x.valid = 0xFF) ∧ l2Ready h rd = true ∧
    poisoned h (rd.pa / 128 * 128) 128 = [] ∧ poisoned h rd.pa 4 = [] ∧
    l2Ready (withReqs [rd]) rd = false ∧ arrivesAtSlice (withReqs [rd]) rd = true ∧
    (let s2 := withReqs [{ rd with id := 8 }, rd]
     findReq s2 9 = some rd ∧ arrivesAtSlice s2 rd = false) ∧
    (let q := { rd with id := 8, stage := .missWait }
     arrivesAtSlice (withReqs [q, rd]) rd = true ∧ lineBlocked (withReqs [q, rd]) rd = true ∧
     findReq (withReqs [q, rd]) 9 = some rd) ∧
    (let a := { rd with kind := .atom false 0 false [1, 0, 0, 0] true }
     let ha := heldLine (withReqs [a]) a
     unitOp a = true ∧ l2Ready ha a = true ∧ arrivesAtSlice ha a = true ∧ findReq ha 9 = some a) ∧
    findReq (withReqs [m]) 9 = some m ∧ m.stage = .missWait ∧ lineBlocked (withReqs [m]) m = false ∧
    (∀ q ∈ (withReqs [m]).reqs, q.stage = .missWait → q.id = 9) ∧ poisoned (withReqs [m]) (m.pa / 128 * 128) 128 = [] ∧
    l2Ready (heldLine (withReqs [m]) m) m = true ∧ l2Ready (withReqs [m]) m = false ∧
    (let f := { m with pa := 2 ^ 39 + 64, va := 64 }
     findReq (withReqs [f]) 9 = some f ∧ 2 ^ 39 ≤ f.pa ∧ l2At (withReqs [f]) (reqSlice (withReqs [f]) f) f.pa = none) := by
  refine ⟨by decide +kernel, by decide +kernel, by decide +kernel, by decide +kernel, by decide +kernel, by decide +kernel,
    by decide +kernel, by decide +kernel, by decide +kernel, by decide +kernel, by decide +kernel, by decide +kernel,
    ⟨_, rfl, by decide +kernel⟩, ?_⟩
  decide +kernel

theorem witness_AtomicUnitPerformsOneOperation :
    let r := fun k => req 9 0x20040 0x40040 k .atHome
    [ReqKind.atom false 0 false [1, 0, 0, 0] true, .bar 1 1 false, .post 2 [1, 0, 0, 0, 0, 0, 0, 0]].all (fun k =>
      let s := withReqs [r k]
      decide (findReq s 9 = some (r k)) && unitNext s (r k) && decide (s.recording = []) &&
        decide (waitingAt s (reqSlice s (r k)) (r k).pa = []) &&
        decide (poisoned s (r k).pa 16 = []) && decide (poisoned s (r k).pa 4 = [])) = true ∧
    (barChange 1 1 false (barOf (readBytes (withReqs []).mem 0x40040 16))) = none ∧
    (barChange 0 1 false (barOf (readBytes (withReqs []).mem 0x40040 16))).isSome = true := by decide +kernel

theorem witness_PeersWindowsAndAcknowledgements :
    let p := req 9 0x20040 0x40040 (.read 4) (.toPeer ⟨0, 0⟩)
    let x := { line0 with fwd := true }
    let w := fun st => req 9 0 0 (.window 1 st 4) .toHome
    let a := fun id => req id 0x20040 0x40040 (.write []) (.reply [] none true)
    let e := withReqs [{ p with id := 8 }, p]
    let f := withReqs [a 8, a 9]
    findReq (withReqs [p]) 9 = some p ∧ tileNext (withReqs [p]) p = true ∧ aliasAt (withReqs [p]) ⟨0, 0⟩ p.pa = none ∧
    aliasAt { withReqs [p] with l1 := [x] } ⟨0, 0⟩ p.pa = some x ∧ x.valid = 0xFF ∧
    x.asid = asidOf (withReqs [p]) p.ctx ∧ peerAnswers { withReqs [p] with l1 := [x] } ⟨0, 0⟩ = true ∧ line0.fwd = false ∧
    aliasAt { withReqs [p] with l1 := [line0] } ⟨0, 0⟩ p.pa = some line0 ∧
    findReq (withReqs [w none]) 9 = some (w none) ∧ tileNext (withReqs [w none]) (w none) = true ∧
    findWg (withReqs [w none]) 1 = some g0 ∧ findReq (withReqs [w (some [1])]) 9 = some (w (some [1])) ∧
    tileNext (withReqs [w (some [1])]) (w (some [1])) = true ∧
    findReq (withReqs [a 9]) 9 = some (a 9) ∧ fillNext (withReqs [a 9]) (a 9) = true ∧
    findReq e 9 = some p ∧ (∃ q ∈ before e p, (tileBound e q).isSome = true ∧ tileBound e q = tileBound e p ∧
      q.src.cluster = p.src.cluster) ∧
    findReq f 9 = some (a 9) ∧ ∃ q ∈ before f (a 9), (replyFrom f q).isSome = true ∧ replyFrom f q = replyFrom f (a 9) ∧
      q.src.cluster = (a 9).src.cluster := by decide +kernel

def pends (l : List PendSrc) (t : Thread) : Thread := { t with pend := l }
theorem witness_PendingResultsAreWritten :
    let l := [PendSrc.value [(8, 5), (9, 6)], .load 9 .b4 0x20040 [] 20, .atom 9 false 20, .tileStat 0 [] 20, .tileQuery [] 20]
    let s := stage (pends l) id id
    let t := pends l t0
    let w := req 9 0 0 (.window 1 none 4) (.reply [1, 2, 3, 4] none true)
    let a := req 9 0x20040 0x40040 (.atom false 0 false [1, 0, 0, 0] true) (.reply [1, 2, 3, 4] none true)
    let r := req 9 0x20040 0x40040 (.read 4) (.reply (List.replicate 128 1) none true)
    findThread s t.wg t.tid = some t ∧ t.place = .running 0 ∧ ([((8 : BitVec 6), (5 : Word)), (9, 6)].map Prod.fst).Nodup ∧
    findSeat s ⟨0, 0, 0⟩ = some t ∧ t.waits = [] ∧ t.pend.length = 5 ∧ findReq { s with reqs := [w] } 9 = some w ∧
    findReq { s with reqs := [a] } 9 = some a ∧ a.acquire = false ∧ findReq { s with reqs := [r] } 9 = some r ∧
    fillNext { s with reqs := [w] } w = true ∧ fillNext { s with reqs := [a] } a = true ∧
    findThread { s with reqs := [r] } t.wg t.tid = some t ∧
    lineAt { s with l1 := [line0] } ⟨0, 0⟩ (asidOf s 1) 0x20040 = some line0 ∧ Memory.wf line0.data = true ∧
    fillNext { s with reqs := [r] } r = true ∧ r.install = false ∧ r.fwd = false ∧
    findThread { s with reqs := [r] } r.wg r.tid = some t ∧ pendingLoad t 9 = some 1 := by decide +kernel

def page (va pa : Nat) (w : Bool) : Page := ⟨1, va, 16, pa, 0, w, true, false, .device, none, (0, 0)⟩
def walk : Walk := ⟨0, 1, 2, true, none⟩
def walkS : State := { lab r0 with walks := [walk] }
theorem witness_TableWalksFillTheTlb :
    walk ∈ walkS.walks ∧ walk.running = true ∧ ctxOfAsid walkS 1 = some c0 ∧ findCtx walkS c0.id = some c0 ∧
    pageFor { walkS with pages := [page 0x20000 0x40000 true] } 1 (2 * 65536) = some (page 0x20000 0x40000 true) ∧
    (page 0x20000 0x40000 true).state = .device ∧ pageFor walkS 1 (2 * 65536) = none ∧ walkS.violations = [] ∧
    2 * 65536 < 2 ^ 52 ∧ (∃ v ∈ ([⟨1, 2 * 65536⟩] : List Violation), v.ctx = c0.id ∧ v.va = 2 * 65536) ∧
    tlbAt walkS 0 1 (2 * 65536) = none ∧
    (walkAt { walkS with walks := [{ walk with running := false, failed := some .missing }] } 0 1 (2 * 65536)).map
      Walk.failed = some (some .missing) := by
  decide +kernel

/-- The ring's last free entry. -/
theorem witness_PageRequestsEnterTheRing :
    let c := { c0 with prSeq := 3, prReqs := [⟨0x10000, 0, [0], false, some 3⟩, ⟨0x20000, 0, [0], false, none⟩] }
    let s := { one with contexts := [c] }
    findCtx s 1 = some c ∧ c.prReqs.find? (fun r => decide (r.seq = none)) = some ⟨0x20000, 0, [0], false, none⟩ ∧
    3 < 3 + 2 ^ c.prLog := by decide +kernel

theorem witness_FarHomesAnswer :
    let r := fun op => req 9 0x20040 0 (.far op) .toHome
    let ops := [FarOp.load 4, .store [1], .atom false 0 false [1, 0, 0, 0]]
    let s := fun op => { withReqs [r op] with pages := [page 0x20000 0x40000 true] }
    let x : FarIn := ⟨0, 1, 0x20040, .load 4⟩
    ops.all (fun op => decide (findReq (s op) 9 = some (r op)) && decide ((r op).loc = (s op).boot.devnum) &&
      farNext (s op) (r op) && farTurn (s op) 1 0x20040 op && farDue (s op) (r op) op && decide (pageFor (s op) (r op).ctx (r op).va = some (page 0x20000 0x40000 true)) &&
      decide ((s op).recording = []) && decide (poisoned (s op) 0x40040 4 = []) && !linkHolds (s op) (r op)) = true ∧
    farWrites (.store [1]) = true ∧ (page 0x20000 0x40000 false).writable = false ∧ (page 0x20000 0x40000 true).writable = true ∧
    (page 0x20000 0x40000 true).readable = true ∧ farReads (.load 4) = true ∧
    ({ page 0x20000 0x40000 true with readable := false } : Page).readable = false ∧
    freezeFor { s (.store [1]) with queues := [queueAt 0x20040] } 1 0x20040 1 0x40040 ≠ none ∧
    (let y := { r (.load 4) with loc := 3 }
     let h := { withReqs [y] with links := [⟨⟨3, 0, 0, 0⟩, none, 0, true⟩], boot := { one.boot with routes := [⟨3, 0⟩] } }
     findReq h 9 = some y ∧ y.loc ≠ h.boot.devnum ∧ linkHolds h y = true ∧ linkHolds (withReqs [y]) y = false) ∧
    pageFor (withReqs [r (.load 4)]) 1 0x20040 = none ∧ (withReqs []).violations = [] ∧
    pageFor (s (.load 4)) x.ctx x.va = some (page 0x20000 0x40000 true) ∧
    x.dev = (s (.load 4)).boot.devnum ∧ farTurn (s (.load 4)) x.ctx x.va x.op = true ∧
    inFarGroup (withReqs [r (.load 4)]) (r (.load 4)) = false ∧
    inFarGroup { withReqs [r (.store [1])] with threads := [{ t0 with far := [9] }] } (r (.store [1])) = true := by
  decide +kernel

/-- No control block and no mapping list; an access and an image for other devices, one with a route and one without. -/
theorem witness_FarHomesAnswer_noTable (pa : Nat) : freezeFor (withReqs []) 1 0x20040 1 pa = none := by
  have h1 : (withReqs []).queues = [] := by decide +kernel
  have h2 : (withReqs []).lists = [] := by decide +kernel
  simp [freezeFor, qcbAt, inMapList, h1, h2]

theorem witness_FarHomesAnswer_others :
    let s : State := { one with boot := { one.boot with routes := [⟨3, 0⟩] } }
    let x : FarIn := ⟨3, 1, 0x20040, .load 4⟩
    let y : SentImage := ⟨3, 5, 1, [1], [2], 4⟩
    x.dev ≠ s.boot.devnum ∧ y.dev ≠ s.boot.devnum ∧ (s.boot.routes.find? fun r => decide (r.dev = x.dev)) = some ⟨3, 0⟩ ∧
    (∀ r ∈ s.boot.routes, r.dev ≠ 4) ∧ ({ y with dev := 0 } : SentImage).dev = s.boot.devnum := by decide +kernel

/-! ### Witnesses: engines and probe tokens -/

def runAt (c : Cmd) : Cmd := { c with state := .running 0, pieces := jobPieces 6 fill16 }
def piece0 : Piece := ⟨0, 0, 16, none, [], false⟩
def cmdS (l : List Cmd) : State := { copyLab 1 0x80 with cmds := l, vds := (copyLab 1 0x80).vds.map fun v => { v with engines := [0] } }
def g1 : Workgroup := carded g0

/-- The queued fill; the same under a guard decided for it, against it and not yet. -/
theorem witness_CopyJobsRunInPieces :
    let f := fillCmd 7
    let b := fun o => { f with gd := 3, sense := true, bound := o }
    startPosition (cmdS [f]) 1 (.copy 1) = some f ∧ findWg (cmdS [f]) 1 = some g1 ∧ f.gd = 0 ∧ f.edges = [] ∧
    engineOn (cmdS [f]) g1 = true ∧ copyEngines (cmdS [f]) g1 = true ∧
    (cmdS [b (some true)]).cmds.map (fun c => decide (c.bound = some c.sense)) = [true] ∧
    startPosition (cmdS [b (some false)]) 1 (.copy 1) = some (b (some false)) ∧ (b (some false)).bound = some (!true) ∧
    startPosition (cmdS [b none]) 1 (.copy 1) = some (b none) ∧ 0 < fill16.rows ∧
    findCmd (cmdS [runAt f]) 7 = some (runAt f) ∧ findLaunch (cmdS [runAt f]) g1.launch = some (scratchPlan l0) ∧
    (runAt f).pieces = [piece0] ∧ landable (cmdS [runAt f]) g1 6 (runAt f) fill16 = [0] ∧
    (reachAll (cmdS [runAt f]) (scratchPlan l0) 1 (pieceRanges 6 fill16 piece0)).2 = .ok ∧
    g1.phase = .running ∧ g1.stop = .none ∧ (f.state = .queued) ∧ piece0.data = none ∧
    pieceUnits (cmdS [runAt f]) g1 6 fill16 piece0 = ([], []) ∧
    (let x := { runAt f with pieces := [{ piece0 with data := some (List.replicate 16 7) }] }
     findCmd (cmdS [x]) 7 = some x ∧ landable (cmdS [x]) g1 6 x fill16 = [0]) ∧
    (∃ v, vdOfWg (cmdS [f]) g1 = some v ∧ 0 ∈ v.engines ∧ 0 ∉ v.frozenEngines) ∧
    mayRead (cmdS [runAt f]) g1 6 (runAt f) fill16 0 = true ∧
    (let v := { runAt f with engine := some 0 }
     let z := { cmdS [v] with vds := (cmdS []).vds.map fun v => { v with frozenEngines := [0] } }
     v.engine = some 0 ∧ (vdOfWg z g1).map (fun v => decide (0 ∈ v.engines ∧ 0 ∈ v.frozenEngines)) = some true) ∧
    ({ g1 with cover := { g1.cover with dead := true } } : Workgroup).cover.dead = true ∧ g1.cover.dead = false ∧
    fill16.fsp = false ∧ piece0.len = (List.replicate 16 (0 : Byte)).length := by
  refine ⟨by decide +kernel, by decide +kernel, by decide +kernel, by decide +kernel, by decide +kernel, by decide +kernel,
    by decide +kernel, by decide +kernel, by decide +kernel, by decide +kernel, by decide +kernel, by decide +kernel,
    by decide +kernel, by decide +kernel, by decide +kernel, by decide +kernel, by decide +kernel, by decide +kernel,
    by decide +kernel, by decide +kernel, by decide +kernel, by decide +kernel, ⟨_, rfl, by decide +kernel, by decide +kernel⟩, ?_⟩
  decide +kernel

/-- A copy from global memory whose page is missing, one whose page is not the context's, at its first piece and behind
one that has been read, and one to an address outside the grants; a chain job of one cluster. -/
theorem witness_CopyJobsRunInPieces_pages :
    let card := { fill16 with src := 0x20000 }
    let s := cmdS []
    (∃ va, (reachAll s (scratchPlan l0) 1 (pieceRanges 0 card piece0)).2 = .missing va) ∧
    (∃ va n, (reachAll { s with violations := [⟨1, 0x20000⟩] } (scratchPlan l0) 1 (pieceRanges 0 card piece0)).2 = .stops va n) ∧
    (let c := { cmd 7 (.copy 1) (.copy 0 card false) with state := .running 0, pieces := [piece0] }
     findCmd (cmdS [c]) 7 = some c ∧ landable (cmdS [c]) g1 0 c card = [0] ∧ c.stopped = none ∧
      (reachAll { cmdS [c] with pages := [page 0x20000 (2 ^ 40) true] } (scratchPlan l0) 1 (pieceRanges 0 card piece0)).2
        = .outside) ∧
    (let ch := { fill16 with aux := [5, 0xFF] }
     let c := { cmd 7 (.copy 1) (.copy 4 ch false) with state := .running 0, pieces := [piece0], engine := some 0 }
     findCmd (cmdS [c]) 7 = some c ∧ engineOn (cmdS [c]) g1 = true ∧ jobEngineOn (cmdS [c]) g1 c = true ∧
      piece0.data = none ∧ (chainList ch)[chainHeld (cmdS [c]) 7 0]? = some 5 ∧
      mayRead { cmdS [c] with chains := [⟨5, 7, 0, false⟩] } g1 4 c ch 0 = true) :=
  ⟨⟨0x20000, by decide +kernel⟩, ⟨0x20000, 10, by decide +kernel⟩, by decide +kernel, by decide +kernel⟩

def mmaX : MmaOps := ⟨2, 0, 0, 0x01000000, 0⟩
def mxCmd (k : CmdKind) : Cmd := { cmd 7 (.matrix 0) k with state := .running 0 }
def mxCmdS (c : Cmd) : State := { mxS id with cmds := [c] }
theorem witness_MatrixCommandsCompleteAtOnce :
    let q := cmd 7 (.matrix 0) (.tileZero 2)
    startPosition (mxCmdS q) 1 (.matrix 0) = some q ∧ findWg (mxCmdS q) 1 = some g0 ∧ atStart (mxCmdS q) q = true ∧
    q.gd = 0 ∧ q.edges = [] ∧ engineOn (mxCmdS q) g0 = true ∧ g0.phase = .running ∧ g0.stop = .none ∧
    (mmaRow (asTaken g0 (mxCmd (.mma mmaX))) (mxLaunch l0) mmaX 0 0).2.2 = false ∧
    ({ mxCmd (.mma mmaX) with operands := some ([], []) } : Cmd).operands = some ([], []) ∧ (mxCmd (.mma mmaX)).operands = none ∧
    startPosition (mxCmdS { q with gd := 3, bound := some true }) 1 (.matrix 0) = some { q with gd := 3, bound := some true } ∧
    findCmd (mxCmdS (mxCmd (.mma mmaX))) 7 = some (mxCmd (.mma mmaX)) ∧
    findLaunch (mxCmdS (mxCmd (.mma mmaX))) g0.launch = some (mxLaunch l0) ∧ (mxCmd (.mma mmaX)).bad = [] ∧
    ({ mxCmd (.mma mmaX) with bad := [3] } : Cmd).bad ≠ [] ∧ (mxCmd (.tileStore 2 0 256 none)).queue = .matrix 0 := by
  decide +kernel

/-- A gang stalled at copy queue 1 since time 0; the waiting command hangs on one in queue 2. -/
def stallS (clock : Nat) : State :=
  { cmdS [{ fillCmd 6 with queue := .copy 2 }, { fillCmd 7 with edges := [6] }] with
    clock := clock
    slots := one.slots.map fun x => { x with stall := some ([.copy 1], 0) } }
def probed (p : Probe) (clock : Nat) : State :=
  { stallS clock with wgs := (stallS clock).wgs.map fun g => { g with probes := [p], queues := [⟨.copy 1, 1, 0, false⟩] } }
theorem witness_ProbeTokensFindDeadlocks :
    let p := fun o q v => Probe.mk o 1 q v
    let g := fun x => { g1 with probes := [x], queues := [⟨.copy 1, 1, 0, false⟩] }
    findWg (stallS 1024) 1 = some g1 ∧ blockedSince (stallS 1024) 1 (.copy 1) = some 0 ∧
    reserveFree (stallS 1024) g1 (.copy 1) = true ∧
    max 0 (queueProbe g1 (.copy 1)).lastSent + 1024 ≤ (stallS 1024).clock ∧
    (stallS 1023).clock < max 0 (queueProbe g1 (.copy 1)).lastSent + 1024 ∧
    waitEdges (stallS 1024) g1 (.copy 1) = [.copy 2] ∧
    (let x := p (.copy 1) (.copy 2) [.copy 1]
     findWg (probed x 0) 1 = some (g x) ∧ (g x).probes[0]? = some x ∧ blockedSince (probed x 0) 1 x.place = none) ∧
    (let x := p (.copy 3) (.copy 1) [.copy 1]
     findWg (probed x 0) 1 = some (g x) ∧ blockedSince (probed x 0) 1 x.place ≠ none ∧ x.place ≠ x.origin ∧ x.place ∈ x.visited) ∧
    (let x := p (.copy 3) (.copy 1) [.copy 3]
     findWg (probed x 0) 1 = some (g x) ∧ x.place ∉ x.visited ∧ x.place ≠ x.origin) ∧
    (let x := p (.copy 1) (.copy 1) [.copy 1, .copy 2]
     findWg (probed x 0) 1 = some (g x) ∧ x.place = x.origin ∧ reserveFree (probed x 0) (g x) x.origin = true ∧
      x.num = (queueProbe (g x) x.origin).sent) := by decide +kernel

/-! ### Witnesses: gangs, records, blocks and timeouts -/

/-- The thread in its bin since time 0, its slot free. -/
def binnedS (f : Thread → Thread) (clock : Nat) : State :=
  { stage (fun t => f { t with place := .binned }) id id with slots := [], clock := clock }
def binned0 : Thread := { t0 with place := .binned }
theorem witness_GangDrawFillsASlot :
    freeGangSlot one (slotCore firstSlot) ≠ some firstSlot.slot ∧ drawChoice one (slotCore firstSlot) = [] ∧
    freeGangSlot (binnedS id (2 ^ 40)) (slotCore firstSlot) = some firstSlot.slot ∧
    drawChoice (binnedS id (2 ^ 40)) (slotCore firstSlot) = [binned0] ∧
    binned0 ∈ (binnedS id 0).threads ∧ ((binnedS id 0).threads.map fun u => (u.wg, u.tid)).Nodup ∧
    findSlot (binnedS id 0) firstSlot = none := by decide +kernel

/-- A record of the thread, woken or not. -/
def endOf (wake : Nat) : SegEnd := ⟨wake, 0, 0, 0, 0, 0, 0, 0, 0, false, false, false, false⟩
def rec0 (e : SegEnd) (woken : Option Nat) : Record := ⟨5, t0, e, false, 0, woken, 0, true, true, some 0, false, 0⟩
def recS (r : Record) (clock : Nat) : State := { one with threads := [], slots := [], records := [r], clock := clock }
theorem witness_RecordDrainRestoresThreads :
    let r := rec0 (endOf 0) (some 0)
    drainChoice one ⟨0, 0⟩ = [] ∧ reseatBare one 0 = one ∧ reseatBare (recS r (2 ^ 40)) 0 = recS r (2 ^ 40) ∧
    (∀ q ∈ (recS r 0).records, q.held = true → q.poolSlot.isSome = true) ∧ drainChoice (recS r (2 ^ 40)) ⟨0, 0⟩ = [r] ∧
    findWg (recS r (2 ^ 40)) r.th.wg = some g0 ∧ r.fin.ext ≠ 3 ∧ ({ endOf 11 with ext := 3 } : SegEnd).wake ≠ 10 := by
  decide +kernel

/-- A store of v20 to the address in v4, v5 that was logged; its page there, missing, or not yet looked for. -/
def stWord : BitVec 32 := 0x00122971
def logged (a : Nat) (t : Thread) : Thread :=
  { t with log := some ⟨stWord, 0, BitVec.ofNat 64 a, [1, 2, 3, 4]⟩, fl := { t.fl with replay := true } }
def logS (a : Nat) : State := cached true (stage (logged a) id scratchPlan)
theorem witness_LogReplayPerformsTheEntry :
    (∀ t ∈ one.threads, t.fl.replay = false) ∧ decode32 stWord = .ok (.st ⟨0, .glb, 4, .b4, 20, mk⟩) ∧
    [0x20040, 0x30000, 0x80000].all (fun a => decide ((logS a).turn = some firstSlot) &&
      decide ((logged a t0).role = 0) && (logged a t0).fl.replay &&
      accessOk (logS a) (scratchPlan l0) g0 .glb a 4 false true) = true ∧
    tlbAt (logS 0x80000) 0 (asidOf (logS 0x80000) g0.ctx) 0x80000 = none ∧
    walkAt (logS 0x80000) 0 (asidOf (logS 0x80000) g0.ctx) 0x80000 = none ∧
    (walkAt (logS 0x30000) 0 (asidOf (logS 0x30000) g0.ctx) 0x30000).map Walk.failed = some (some .missing) ∧
    tlbAt (logS 0x20040) 0 (asidOf (logS 0x20040) g0.ctx) 0x20040 = some (entry true) ∧
    freezeFor (logS 0x20040) g0.ctx 0x20040 1 0x40040 = none := by decide +kernel

theorem witness_LogReplayPerformsTheEntry_stands : StandsIn (logS 0x20040) (logged 0x20040 t0) (scratchPlan l0) g0 ∧
    StandsIn (logS 0x30000) (logged 0x30000 t0) (scratchPlan l0) g0 ∧
    StandsIn (logS 0x80000) (logged 0x80000 t0) (scratchPlan l0) g0 := by
  unfold StandsIn Alone; decide +kernel

/-- A workgroup none of whose blocks is created, and one with all; a record that no core of its home may take. -/
def newG (g : Workgroup) : Workgroup := { g with blocks := 0 }
def createS : State := { stage id newG id with threads := [], slots := [] }
theorem witness_BlocksAndSeats :
    findWg createS 1 = some (newG g0) ∧ findLaunch createS 1 = some l0 ∧ (kernelOf createS 1).isSome = true ∧
    (roomiest createS (newG g0)).map (fun x => decide (1 ≤ x.2.length)) = some true ∧ replayOf createS 1 = none ∧
    mayCreate createS l0 (newG g0) = true ∧ min 32 (wgThreads (newG g0) - 32 * (newG g0).blocks) = 1 ∧
    drainChoice createS ⟨0, 0⟩ = [] ∧ l0.full = true ∧ mayCreate one l0 g0 = false ∧
    (0 : Word) = 0 ∧ (0x0201 : Word) ≠ 0 := by decide +kernel

/-- Every seat of core 0 taken, by threads of the block of a woken record that has waited; a gang in slot 0. -/
def waiter : Record := { rec0 (endOf 0) (some 0) with th := { t0 with tid := 31 } }
def fullS : State :=
  { recS waiter (2 ^ 40) with
    threads := (List.range 512).map fun n => { t0 with seat := ⟨0, 0, n⟩, tid := n }
    slots := one.slots }
def reclaimHypotheses : Bool :=
  decide (waiter ∈ fullS.records) && drains fullS ⟨0, 0⟩ waiter && recordAged fullS 4 waiter &&
    decide (findWg fullS waiter.th.wg = some g0) &&
    (coresOf fullS g0).all (fun c => mayUse fullS g0 waiter c == false || decide (freeSeats fullS ⟨0, c⟩ = [])) &&
    (coreThreads fullS ⟨0, 0⟩).all (fun t => t.fl.reclaim == false) &&
    (minByKey Slot.drawnAt (fullS.slots.filter fun x => decide (slotCore x.key = ⟨0, 0⟩))).isSome
theorem witness_BlocksAndSeats_reclaim : reclaimHypotheses = true := by decide +kernel

/-- Retired counts one below the limit and at it; waits of one cycle less than a timeout and of all of it. -/
def retired (n : Nat) (t : Thread) : Thread := { t with path := { t.path with retired := n } }
def heldThread (t : Thread) : Thread := { t with place := .held { endOf 4 with operand := 1 } }
theorem witness_WatchdogsAndTimers :
    let s := fun n => stopped (retired n) id id
    let r := { rec0 (endOf 1) none with inBin := false }
    let tm := fun op => { rec0 { endOf 6 with operand := op } none with inBin := false }
    findSeat (s 16777215) ⟨0, 0, 0⟩ = some (retired 16777215 t0) ∧ t0.slot? = some firstSlot ∧ inRunning firstSlot t0 = true ∧
    safeOrdinal (s 16777215) (retired 16777215 t0) 0 = some 0 ∧ (retired 16777215 t0).path.retired < 2 ^ 24 ∧
    findSeat (s 16777216) ⟨0, 0, 0⟩ = some (retired 16777216 t0) ∧ 2 ^ 24 ≤ (retired 16777216 t0).path.retired ∧
    (overrunOf (passStops (s 16777216) ((s 16777216).threads.filter (inRunning firstSlot))) firstSlot).length = 1 ∧
    findRecord (recS r 1023) 5 = some r ∧ findWg (recS r 1023) r.th.wg = some g0 ∧ findLaunch (recS r 1023) 1 = some l0 ∧
    r.fin.wake = 1 ∧ r.woken = none ∧ (recS r 1023).clock < r.since + 2 ^ (10 + l0.lr.flags.toNat / 2 ^ 16 % 32) ∧
    r.since + 2 ^ (10 + l0.lr.flags.toNat / 2 ^ 16 % 32) ≤ (recS r 1024).clock ∧ g0.stop = .none ∧
    findRecord (recS (tm 0) 1) 5 = some (tm 0) ∧ (recS (tm 0) 1).threads = [] ∧ wakeHolds (recS (tm 0) 1) t0 (tm 0).fin = true ∧
    findRecord (recS (tm 2) 1) 5 = some (tm 2) ∧ wakeHolds (recS (tm 2) 1) t0 (tm 2).fin = false := by decide +kernel

/-- A thread in a bin before vote.any on its empty g1; trap state begun at 0; a thread held by a full record pool. -/
def voteS (clock : Nat) : State :=
  { stageOn (parcelsOf 0x00200131) (fun t => { t with place := .binned }) id id with slots := [], clock := clock }
def trapS (clock : Nat) : State := { stage (fun t => { t with trapState := some 0 }) id id with clock := clock }
def deadS (clock : Nat) : State :=
  { stage heldThread id id with contexts := [{ c0 with deadlock := some 0 }], clock := clock }
theorem witness_WatchdogsAndTimers_groups :
    findSeat (voteS 1024) ⟨0, 0, 0⟩ = some binned0 ∧ findWg (voteS 1024) 1 = some g0 ∧ findLaunch (voteS 1024) 1 = some l0 ∧
    (gatherGroup (voteS 1024) binned0).isSome = true ∧ (voteS 1024).clock ≤ binned0.binnedAt + barTimeout l0 ∧
    binned0.binnedAt + barTimeout l0 < (voteS 1025).clock ∧
    findCtx (trapS 67108864) 1 = some c0 ∧ c0.session = false ∧ findCtx (inSession one) 1 = some { c0 with session := true } ∧
    (∃ t ∈ (trapS 67108864).threads, t.trapState = some 0 ∧ findWg (trapS 67108864) t.wg = some g0) ∧ g0.ctx = 1 ∧
    0 + 2 ^ 26 ≤ (trapS 67108864).clock ∧ c0.sessionAt + 2 ^ 26 ≤ (trapS 67108864).clock ∧
    c0.deadlock = none ∧ findCtx (deadS 16777216) 1 = some { c0 with deadlock := some 0 } ∧
    deadlockHolds (deadS 16777216) 1 = true ∧ c0.stop = .none ∧ (deadS 16777215).clock < 0 + 2 ^ 24 ∧
    0 + 2 ^ 24 ≤ (deadS 16777216).clock := by decide +kernel

/-! ### Witnesses: coverage and workgroups -/

def covered (f : WgCover → WgCover) (g : Workgroup) : Workgroup := { g with cover := f g.cover }
def marked (g : Workgroup) : Workgroup := covered (fun c => { c with marks := [(0, 0)] }) g
def smp : Sample := ⟨1, 1, 0, some 0x3F800000, none, false, false, none⟩
def sampled (w : List (Nat × Nat)) (g : Workgroup) : Workgroup := covered (fun c => { c with samples := [smp], written := w }) g
def coverS (f : Workgroup → Workgroup) (h : Launch → Launch) : State :=
  { stage id f (fun l => h (laddered l)) with pages := [page 0x20000 0x40000 true] }
theorem witness_CoverageSteps :
    let s := coverS marked id
    let l := laddered l0
    findWg s 1 = some (marked g0) ∧ findLaunch s 1 = some l ∧ reconOpen l (marked g0) 1 0 = true ∧
    reconReady l (marked g0) (tileOf l 0) 1 0 = true ∧ g0.stop = .none ∧ reconReady l g0 (tileOf l 0) 1 0 = false ∧
    (reachPoints s 1 (pointEnds l (tileOf l 0) (reconTouches l (marked g0) (tileOf l 0) 1 0))).2 = none ∧
    (reachPoints { s with pages := [] } 1 (pointEnds l (tileOf l 0) (reconTouches l (marked g0) (tileOf l 0) 1 0))).2.isSome
      = true ∧ g0.phase ≠ .ended ∧ (coverSlot l).kind ≠ 5 ∧
    findWg (coverS (sampled []) id) 1 = some (sampled [] g0) ∧ (sampled [] g0).cover.samples[0]? = some smp ∧
    smp.element = none ∧ smp.value = some 0x3F800000 ∧ smp.done = false ∧ smp.dropped = false ∧
    (let x := { smp with element := some [0, 0] }
     let g := covered (fun c => { c with samples := [x] }) g0
     findWg (coverS (fun _ => g) id) 1 = some g ∧ g.cover.samples[0]? = some x) ∧
    (let g := covered (fun c => { c with marks := [(0, 0)], samples := [smp] }) g0
     let t := coverS (fun _ => g) id
     findWg t g.id = some g ∧ ((atEndOf l g 1 0).getD (reconValue t l g 1 0)).units = [] ∧
      (smp.x, smp.y) ∈ writtenWith l g (tileOf l g.wgid) 1 0) ∧
    l.instants < instantsDue { l with counted := 1 } ∧ instantsDue l ≤ l.instants ∧ l.full = false ∧ l.killed = none := by
  decide +kernel

/-- The update error above the high bound, below the low one, and between. -/
theorem witness_CoverageSteps_bounds :
    let l := fun low high => { laddered l0 with
      samples := [some (0, 0)], lr := { (laddered l0).lr with cover := { (laddered l0).lr.cover with low := low, high := high } } }
    let e := fun low high => decodeFp fp32 (updateError false (l low high).samples)
    ltX (decodeFp fp32 0xBF800000) (e 0 0xBF800000) = true ∧ ltX (decodeFp fp32 0x3F800000) (e 0x3F000000 0x3F800000) = false ∧
    ltX (e 0x3F000000 0x3F800000) (decodeFp fp32 0x3F000000) = true ∧ ltX (e 0 0x3F800000) (decodeFp fp32 0) = false := by
  decide +kernel

def placeS (p : LaunchPhase) (reqs : List Req) : State :=
  { stage id id (fun l => { l with phase := p, placed := 0 }) with threads := [], slots := [], wgs := [], reqs := reqs }
def placedG (g : Workgroup) : Workgroup := { g with phase := .placed }
def movingG (g : Workgroup) : Workgroup := { g with phase := .moving ⟨1, 0⟩ }
theorem witness_WorkgroupsLiveAndMove :
    let v := plainVd 1
    let l := fun p => { l0 with phase := p, placed := 0 }
    findLaunch (placeS .accepted []) 1 = some (l .accepted) ∧ vdOfCtx (placeS .accepted []) 1 = some v ∧
    (nextPlaced (placeS .accepted []) v).map (fun x => x.1) = some (l .accepted) ∧
    (nextPlaced (placeS .running []) v).map (fun x => x.1) = some (l .running) ∧ writesUnderWay (placeS .accepted []) v = false ∧
    findWg (stage id placedG id) 1 = some (placedG g0) ∧ findWg one 1 = some g0 ∧ g0.phase ≠ .placed ∧
    (imageOf one 1).isSome = true ∧ (kernelOf one 1).isSome = true ∧ mayEnd one g0 = false ∧
    mayEnd { one with threads := [] } g0 = true ∧ nbSize l0 = 0 ∧ findCtx one g0.ctx = some c0 ∧ c0.stop = .none ∧
    c0.frozen = false ∧ (⟨1, 0⟩ : Home) ∈ freeHomes one v ∧ g0.phase = .running ∧ mayMove one g0 = false ∧
    mayMove { one with threads := [] } g0 = true ∧ findWg (stage id movingG id) 1 = some (movingG g0) ∧
    writeUnderWay wr = true ∧ wr.wg = 1 ∧ (stage id movingG id).reqs = [] := by decide +kernel

/-! ### Witnesses: queues and launches -/

/-- A tenant with every right, its context, and its virtual device in RUN inside a session; the device is READY. -/
def charter1 : Charter := ⟨1, 0xFFFFFFFF, 0xFFFFFFFF, 0, 22000, 10, []⟩
def tenant1 : Tenant := ⟨1, some [], some charter1, 0, 0, []⟩
def cR : Context := { c0 with charter := 1 }
def vR : VDev := { plainVd 1 with session := true }
def atReady (s : State) : State :=
  { s with
    boot := { s.boot with stage := 6, routes := [⟨3, 0⟩] }
    tenants := [tenant1]
    contexts := [cR]
    vds := [vR]
    pages := [page 0x20000 0x40000 true]
    lastRun := [] }
def ready : State := atReady one
def idle : State := { ready with threads := [], slots := [], wgs := [], launches := [] }
def hyp : CmdHead := ⟨.hypervisor, 1, 1, 0, 0, 0⟩
def hyp0 : CmdHead := ⟨.hypervisor, 1, 0, 0, 0, 0⟩
def gst : CmdHead := ⟨.guest 1, 1, 1, 0, 0, 0⟩

/-- What `Admitted` asks, to compute. -/
def admits (i : Instr) (s : State) : Bool :=
  match gateOf i with
  | some (h, g) => decide (s.boot.stage = 6 ∧ admission s h g = .admitted ∧ (g.cls = 3 ∨ g.cls = 4 → heldBack s h.ctx = false))
  | none => false
theorem admitted_iff (i : Instr) (s : State) : Admitted i s ↔ admits i s = true := by
  unfold admits Admitted
  cases gateOf i <;> simp only [decide_eq_true_eq, Bool.false_eq_true]

/-- A queue of the context, of the kind, ring sizes and class its configuration word names. -/
def conf1 (w : Word) : QueueConf := { plainConf with conf := w, ctxWord := 1, ring := 0x20000 }
def que (w : Word) (f : Queue → Queue) : Queue := f { queueAt 0x80000 with conf := conf1 w }
def withQue (q : Queue) (s : State) : State := { s with queues := [q] }
def plain4 : Word := 0x00440010

/-- A queue of each kind, bound, in RUN; not bound; frozen; with a device in another state. -/
theorem witness_DoorbellsMoveTheirCounts :
    let s := fun w f => withQue (que w f) ready
    findQueue (s plain4 id) 1 0 = some (que plain4 id) ∧ (s plain4 id).boot.stage = 6 ∧ tdispRun (s plain4 id) 1 = true ∧
    tdispRun { s plain4 id with vds := [] } 1 = false ∧ (que plain4 fun q => { q with bound := false }).bound = false ∧
    (que plain4 id).bound = true ∧ (que plain4 id).frozen = false ∧ (que plain4 id).conf.kind = 0 ∧
    (que 0x00440050 id).conf.kind = 1 ∧ (que 0x00400090 id).conf.kind = 2 ∧ (que plain4 id).conf.plog = 4 ∧
    2 ^ 4 < wrapSub 17 0 ∧ wrapSub 16 0 ≤ 2 ^ 4 ∧ wrapSub 2 0 ≤ wrapSub 2 0 ∧ wrapSub 2 0 < wrapSub 3 0 ∧
    (que 0x00400090 id).conf.nodes ≤ (0 : Word).toNat ∧
    (0 : Word).toNat < (que 0x00400090 fun q => { q with conf := { q.conf with nodes := 1 } }).conf.nodes ∧
    (que 0 fun q => { q with run := true }).run = true := by decide +kernel

/-- A launch record of one workgroup at 0x1000 of the page, its packet at the ring's start; a field of the record changed. -/
def recordAt : List Byte :=
  toBytes 8 1 ++ toBytes 4 0 ++ toBytes 4 0 ++ toBytes 4 1 ++ toBytes 4 1 ++ toBytes 4 1 ++ toBytes 2 1 ++ toBytes 2 1 ++
  toBytes 2 1 ++ toBytes 2 0 ++ toBytes 4 0 ++ toBytes 4 0 ++ toBytes 4 0 ++ toBytes 8 0x22000 ++ toBytes 8 0
def pktBytes (record : Nat) : List Byte := toBytes 4 1 ++ toBytes 4 0 ++ toBytes 8 record ++ toBytes 8 9 ++ toBytes 8 0
def tailMem (n : Nat) (bs : List Byte) : Memory := writeBytes (writeBytes (writeBytes [] 0x40000 (pktBytes 0x21000)) 0x41000
  recordAt) (0x41000 + n) bs
def queTail : Queue := que plain4 fun q => { q with tail := 1 }
def intakeS (n : Nat) (bs : List Byte) : State :=
  let s := withQue queTail idle
  { s with
    mem := tailMem n (toBytes 1 1 ++ bs)
    modules := s.modules.map fun m => { m with charter := 1 } }
/-- Class 1 and charter 1 stand at 0xE8; the second pair of fields is changed. -/
def fitS : State := intakeS 0xE8 (toBytes 3 1)
def pkt (r : Nat) : Source := ⟨packetOf (pktBytes r), none, none⟩
def plainQ : Launch := draftLaunch fitS queTail (pkt 0x21000)

theorem witness_PacketsAreJudgedAndTaken :
    nextIntake fitS = some queTail ∧ (intakeOf fitS queTail).map Prod.fst = some (pkt 0x21000) ∧
    (intakeOf fitS queTail).map (fun x => match x.2 with | .accept _ => true | _ => false) = some true ∧
    nextIntake ready = none ∧ findCtx fitS 1 = some cR ∧ vdOfCtx fitS 1 = some vR ∧
    (pkt 0x21000).packet.valid = true ∧ plainQ.lr.completion ≠ 0 ∧ plainQ.lr.completion % 64 = 0 ∧
    (pkt 0x21001).packet.valid = false ∧
    charterOf { fitS with tenants := [] } 1 = none ∧ charterOf fitS 1 = some charter1 ∧ queTail.conf.cls = 1 ∧
    charterDline charter1 = true ∧ charterDline { charter1 with policy := 0 } = false ∧ (que 0x00440000 id).conf.cls = 0 ∧
    findModule { fitS with modules := [] } 1 = none ∧ (findModule fitS 1).map (fun m => (m.charter, m.loaded, m.state)) =
      some (1, true, .ready) ∧ plainQ.lr.cls = 1 ∧ plainQ.lr.charter = 1 ∧ plainQ.lr.deadline = 0 ∧
    recordValid (VdShape.isSide vR.shape) 1 plainQ = true ∧ (imageOf ready 1).map (fun m => m.kernels.length) = some 1 ∧
    (plainQ.lr.f.all fun w => (slotWord w).valid) = true ∧ launchFits fitS vR plainQ = true ∧
    (∀ d ∈ fitS.deferred, d.ctx ≠ 1) ∧ sourceBreach fitS queTail (pkt 0x21000) = false ∧
    (let p := pkt 0x21000
     let ones : Source := { p with packet := { p.packet with tag := BitVec.allOnes 64 } }
     sourceBreach fitS queTail ones = true) ∧
    (intakeOf { fitS with mem := writeBytes fitS.mem 0x40010 (List.replicate 8 0xFF) } queTail).map (fun x =>
      match x.2 with | .freeze => true | _ => false) = some true ∧
    ({ pkt 0x21000 with node := some 1 } : Source).node.isSome = true ∧
    intakeOf (intakeS 0xE8 (toBytes 3 2)) queTail = some (pkt 0x21000, .refuse 2) ∧ (pkt 0).log = none ∧ (pkt 0).node = none := by
  decide +kernel

/-- The statuses that the checks give to one field changed each: an invalid grid, a wrong format, a declaration that is
not met, a launch too large to place at once. -/
theorem witness_PacketsAreJudgedAndTaken_refusals :
    let s := fitS
    let bad := fun f => { s with mem := writeBytes s.mem (0x41000 + f) [0xFF] }
    let verdict := fun s => (intakeOf s queTail).map Prod.snd
    verdict { s with mem := writeBytes s.mem 0x41010 [0] } = some (.refuse 2) ∧ verdict (bad 0x80) = some (.refuse 3) ∧
    verdict { s with mem := writeBytes s.mem 0x4100C [8] } = some (.refuse 4) ∧
    verdict { s with mem := writeBytes (writeBytes s.mem 0x4100C [1]) 0x41010 [0, 2] } = some (.refuse 5) := by decide +kernel

/-- The launch with its workgroup ended; the same with the workgroup still running; a host ring entry, and the ring full. -/
def endedG (g : Workgroup) : Workgroup := { g with phase := .ended }
def endS : State := { atReady (stage id endedG id) with threads := [], slots := [] }
def out1 : RingOut := ⟨9, 0, 0, 0, false, false, false, 0xFFFF, false, false, conf1 plain4⟩
theorem witness_LaunchesCompleteIntoTheirRings :
    findLaunch endS 1 = some l0 ∧ vdOfCtx endS l0.ctx = some vR ∧ launchFinished endS l0 = true ∧
    writesUnderWay endS vR = false ∧ (∀ r ∈ endS.reqs, unperformed r = false) ∧ launchFinished ready l0 = false ∧ l0.killed = none ∧
    (let q := fun f => que plain4 fun q => f { q with waiting := [out1] }
     findQueue (withQue (que plain4 id) ready) 1 0 = some (que plain4 id) ∧ (que plain4 id).waiting = [] ∧
     findQueue (withQue (q id) ready) 1 0 = some (q id) ∧ (q id).waiting = [out1] ∧
     wrapSub (q id).hwr (q id).hrd ≠ 2 ^ out1.conf.hlog ∧ (q id).judging = false ∧
     wrapSub (q fun q => { q with hwr := 16 }).hwr 0 = 2 ^ out1.conf.hlog ∧
     irqDue (q id) out1 = false ∧ irqDue (q id) { out1 with irq := true } = true ∧
     irqDue (q id) { out1 with status := 2 } = true) ∧
    (let q := que plain4 fun q => { q with unsignalled := [(0, { q.conf with coalesce := 0x100 })] }
     q.unsignalled = [(0, { (conf1 plain4) with coalesce := 0x100 })] ∧ field ({ (conf1 plain4) with coalesce := 0x100 } : QueueConf).coalesce.toNat 31 8 = 1 ∧ findQueue (withQue q ready) 1 0 = some q ∧
     0 + 1750 * 1 ≤ 1750 ∧ 1749 < 0 + 1750 * 1 ∧ field (que plain4 id).conf.coalesce.toNat 31 8 = 0) := by decide +kernel

/-- A graph of two nodes: node 0 goes to node 1 always, or if its result is zero; a limit of one launch; OP 0. -/
def graphQ : Queue := que 0x00400090 fun q =>
  { q with judging := true, lastNode := some (0, 0), run := true, runCounts := [(0, 1)], conf := { q.conf with nodes := 2 } }
def graphS (op lim : Nat) : State :=
  { withQue graphQ ready with
    mem := writeBytes (writeBytes (writeBytes [] 0x40008 (toBytes 8 0x21000)) 0x40028 (toBytes 4 op ++ toBytes 2 1 ++ toBytes 2 0)) 0x40034 (toBytes 4 lim) }
theorem witness_GraphsChooseTheirSuccessors :
    let c := graphQ.conf
    let bad := { graphS 1 0 with mem := writeBytes (graphS 1 0).mem 0x40028 [8] }
    let cold := withQue { graphQ with frozen := true } bad
    findQueue (graphS 1 0) 1 0 = some graphQ ∧ graphQ.judging = true ∧ graphQ.lastNode = some (0, 0) ∧ lastConf graphQ = c ∧
    nodeBreach (graphS 1 0) 1 c 0 = false ∧ nodeBreach bad 1 c 0 = true ∧ findQueue bad 1 0 = some graphQ ∧
    graphQ.frozen = false ∧ findQueue cold 1 0 = some { graphQ with frozen := true } ∧ nodeBreach cold 1 c 0 = true ∧
    successorOf (graphS 1 0) graphQ c 0 0 0 = .node 1 ∧ successorOf (graphS 2 0) graphQ c 0 0 0 = .node 1 ∧
    successorOf (graphS 2 0) graphQ c 0 0 5 = .node 0 ∧ successorOf (graphS 2 1) graphQ c 0 0 5 = .over true ∧
    successorOf (graphS 0 0) graphQ c 0 0 0 = .over false ∧ successorOf (graphS 1 0) graphQ c 0 2 0 = .over false ∧
    successorOf (graphS 5 0) graphQ c 0 0 0 = .over false ∧ successorOf (graphS 4 0) graphQ c 0 0 5 = .node 0 ∧
    findQueue (withQue (que plain4 id) ready) 1 0 = some (que plain4 id) ∧ (que plain4 id).judging = false ∧
    vreadNat (graphS 3 0) 1 (c.ring + 64 * 0 + 0x28) 4 = 3 ∧
    vreadNat (graphS 3 0) 1 (c.ring + 64 * 1 + 0x34) 4 % 65536 = 0 := by decide +kernel

/-! ### Witnesses: commands -/

/-- Boot unfinished; not READY; the issuer not the function's; the mask; a context not named; a frozen context. -/
theorem witness_CommandsAreAdmitted :
    let i := Instr.evict hyp
    let g : Gate := ⟨5, .hypervisor, false, false, true⟩
    gateOf i = some (hyp, g) ∧ one.boot.stage = 1 ∧ { one.boot with stage := 0 }.stage = 0 ∧ ready.boot.stage = 6 ∧
    admission ready hyp g = .admitted ∧ admission ready { hyp with reserved := 1 } g = .breach ∧ g.openTo.admits gst.issuer = false ∧
    interfaceRuns { ready with vds := [] } gst.issuer = false ∧
    admission { ready with tenants := [] } hyp g = .masked ∧ admission { ready with contexts := [] } hyp g = .refused 2 ∧
    admission { ready with contexts := [{ cR with frozen := true }] } hyp g = .refused 3 ∧
    gateOf (.cmdMap gst 0 0 1) = some (gst, ⟨4, .guest, false, false, true⟩) ∧
    heldBack { ready with deferred := [⟨1, gst, .revoke 5, [1]⟩] } gst.ctx = true ∧ heldBack ready gst.ctx = false ∧
    admission ready gst ⟨4, .guest, false, false, true⟩ = .admitted := by decide +kernel

/-- A split rood 1; the whole rood 2 is free, rood 0 is held; engine 0 is taken, engine 1 is free. -/
def splitS : State := { ready with splitRoods := [1] }
theorem witness_PartitionCommands :
    Admitted (.roodMode hyp 16 true) ready ∧ roodHeld ready 0 = true ∧ roodHeld ready 2 = false ∧
    Admitted (.roodMode hyp 2 true) ready ∧ Admitted (.vdCreate hyp (.run 2 0) [1]) splitS ∧
    shapeValid splitS (.run 1 0) = false ∧ enginesValid [] = false ∧ shapeValid splitS (.side 1 0) = true ∧
    enginesValid [1, 5] = true ∧ shapeAllowedFor splitS 1 (.side 1 0) = true ∧
    shapeAllowed { charter1 with policy := 0 } (.side 1 0) = false ∧ freeVdNum splitS = some 0 ∧
    shapeTaken splitS (.run 0 1) = true ∧ enginesTaken splitS 0 [0, 1] = true ∧ shapeTaken splitS (.side 1 0) = false ∧
    enginesTaken splitS 0 [1, 5] = false ∧ Admitted (.vdDestroy hyp 7) ready ∧ Admitted (.vdDestroy hyp 1) ready ∧
    findVd ready 7 = none ∧ (findVd ready 1).isSome = true ∧ (∃ c ∈ ready.contexts, c.vd = 1) ∧
    (let s := { ready with vds := [vR, newVd 2 (.run 2 0) [1]] }
     Admitted (.vdDestroy hyp 2) s ∧ (findVd s 2).isSome = true ∧ (∀ c ∈ s.contexts, c.vd ≠ 2) ∧
      Admitted (.copyAssign hyp 1 [2]) s ∧ findVd s 1 = some vR ∧ enginesTaken s 1 [1] = true ∧ enginesTaken s 1 [2] = false) := by
  simp only [admitted_iff]; decide +kernel

/-- The tenant without its key; a virtual device outside a session; 96 bytes. -/
def key96 : List Byte := List.replicate 96 7
def noKey : Tenant := { tenant1 with key := none }
theorem witness_TenantCommands :
    hyp.issuer = .hypervisor ∧ Admitted (.tenantCreate hyp []) ready ∧ Admitted (.tenantCreate hyp [1]) ready ∧
    (let s := { ready with tenants := [noKey] }
     Admitted (.tenantCreate gst key96) s ∧ gst.issuer = .guest 1 ∧ findVd s 1 = some vR ∧
      findTenant s gst.charter = some noKey ∧ vR.session = true ∧ noKey.key = none ∧ key96.length = 96 ∧
      { s with vds := [{ vR with session := false }] }.vds = [plainVd 1] ∧ (plainVd 1).session = false ∧
      tenant1.key.isSome = true) ∧
    Admitted (.charterInstall gst []) ready ∧ findTenant ready gst.charter = some tenant1 ∧
    Admitted (.tenantTeardown hyp) ready ∧ Admitted (.tenantTeardown hyp) { ready with tenants := [] } ∧
    findTenant { ready with tenants := [] } hyp.charter = none ∧ (findTenant ready hyp.charter).isSome = true ∧
    (let s := { ready with tenants := [tenant1, { tenant1 with charter := 2 }] }
     Admitted (.tenantTeardown { gst with charter := 2, ctx := 0 }) s ∧ gst.issuer ≠ .hypervisor ∧
      (findTenant s 2).isSome = true ∧ ownInterface s { gst with charter := 2, ctx := 0 } = false) := by
  simp only [admitted_iff]; decide +kernel

/-- A charter of serial number 2 that is well formed is valid exactly if its signature is, which only the Notary's
verification says. -/
def newCharter : List Byte :=
  toBytes 4 1 ++ toBytes 3 1 ++ [0] ++ toBytes 8 2 ++ toBytes 4 0x7FF ++ toBytes 4 0x1F84 ++ List.replicate 232 0
theorem witness_TenantCommands_charter : charterValid tenant1 [] = false ∧
    (Config.verify [] (Config.sha384 (newCharter.take 0xA0)) (byteList newCharter 0xA0 96) = true →
      charterValid tenant1 newCharter = true) := by
  constructor
  · simp [charterValid]
  · intro h
    simp only [charterValid, tenant1, h, Bool.true_and]
    decide +kernel

/-- A queue control block at 0x80000, which a second page maps; its settings are lawful, or its ring lies unaligned. -/
def qcbBytes (ring : Nat) : List Byte :=
  toBytes 8 ring ++ toBytes 4 0x00440010 ++ toBytes 4 1 ++ toBytes 8 0 ++ toBytes 4 1024 ++ toBytes 4 10 ++ toBytes 8 0 ++
  toBytes 8 0x80000 ++ toBytes 8 0 ++ List.replicate 72 0
def qcbS (ring : Nat) : State :=
  { ready with pages := [page 0x80000 0x50000 true, page 0 0x70000 true], mem := writeBytes [] 0x50000 (qcbBytes ring) }
def queB : Queue := { que plain4 id with conf := confFrom (qcbBytes 0x20000) }

theorem witness_ContextCommands_create :
    let s := { ready with contexts := [], grants := [⟨5, 2, 1, 0x100, 0, .rood 0⟩] }
    let h : CmdHead := ⟨.hypervisor, 1, 2, 0, 0, 0⟩
    Admitted (.ctxCreate h 1 5 0 4) s ∧ findVd s 1 = some vR ∧ charterOf s h.charter = some charter1 ∧
    grantArea s h 5 0 (32 * 2 ^ 4) = some 0x1000000 ∧ h.ctx ≠ 0 ∧ findCtx s h.ctx = none ∧ shapeAllowed charter1 vR.shape = true ∧
    shapeAllowed { charter1 with policy := 0 } (.run 0 1) = false ∧ (∀ c ∈ s.contexts, c.vd ≠ 1) ∧ freeAsid s = some 0 ∧
    (∃ c ∈ ({ s with contexts := [cR] } : State).contexts, c.vd = 1) := by
  simp only [admitted_iff]; decide +kernel

theorem witness_ContextCommands :
    let c := confFrom (qcbBytes 0x20000)
    Admitted (.ctxDestroy hyp) ready ∧ Admitted (.queueBind hyp 0x80000) (qcbS 0x20000) ∧
    confFrom (vread (qcbS 0x20000) 1 0x80000 128) = c ∧ 0x80000 % 256 = 0 ∧
    (translate (qcbS 0x20000) 1 0x80000).isSome = true ∧ confValid 1 c = true ∧ trapBinOk (qcbS 0x20000) 1 c = true ∧
    trapBinOk { qcbS 0x20000 with pages := [page 0 (2 ^ 40) true] } 1 c = false ∧ agreesWide (qcbS 0x20000) 1 c = true ∧
    ((qcbS 0x20000).queues.filter Queue.bound).length < 1024 ∧ findQueue (qcbS 0x20000) 1 c.qnum = none ∧
    confValid 1 (confFrom (vread (qcbS 0x20008) 1 0x80000 128)) = false ∧ dlineAllows (qcbS 0x20000) 1 c = true ∧
    (let s := withQue queB { (qcbS 0x20000) with launches := [] }
     findQueue s 1 0 = some queB ∧ Admitted (.queueUnbind hyp 0) s ∧ queB.bound = true ∧ queB.waiting = [] ∧
      (∀ l ∈ s.launches, l.ctx ≠ 1 ∨ l.queue ≠ 0) ∧ (∃ l ∈ ready.launches, l.ctx = 1 ∧ l.queue = 0) ∧
      Admitted (.queueReload hyp 0) s ∧ c.qnum = 0 ∧ trapBinOk s 1 c = true ∧ agreesWide s 1 c = true ∧ dlineAllows s 1 c = true ∧
      Admitted (.unfreeze hyp (.queue 0)) s ∧ queB.frozen = false ∧
      agreesWide { s with queues := [{ queB with num := 4, conf := { c with trapLog := 4 } }] } 1 c = false) ∧
    Admitted (.unfreeze hyp .context) ready ∧ findCtx ready 1 = some cR ∧ cR.stop = .none ∧ Admitted (.kill hyp) ready ∧
    dlineAllows { ready with tenants := [] } 1 { c with conf := 0 } = false := by
  simp only [admitted_iff]; decide +kernel

/-- Every frame of rood 0 is in one grant. -/
def fullRood : State := { ready with grants := [⟨9, 1, 1, 0, 19, .rood 0⟩] }
theorem searchRun_ready : (∀ i < 24, (searchRun ready 0 14 (24 - i) i).isSome = true) ∧
    ∀ i < 24, searchRun fullRood 0 14 (24 - i) i = none ∧ searchRun fullRood 0 14 i 0 = none := by decide +kernel

/-- Frames of rood 0, free wherever the search begins, and none free when one grant holds them all; CXL frames. -/
def granted0 : State := { ready with grants := [⟨5, 1, 1, 4, 0, .rood 0⟩], pages := [] }
theorem witness_FramesAreGrantedAndReclaimed :
    Admitted (.frameGrant hyp 0 (.rood 0)) ready ∧ Admitted (.frameGrant hyp 15 (.rood 0)) ready ∧ hyp.ctx ≠ 0 ∧
    namesContext ready hyp = true ∧ vdOfCtx ready hyp.ctx = some vR ∧ 0 ∈ VdShape.roods vR.shape ∧
    1 ∉ VdShape.roods vR.shape ∧ outsideRun ready 1 2 (2 ^ 23) = true ∧ outsideRun ready 1 2 (2 ^ 23 + 1) = false ∧
    Admitted (.frameGrant hyp 2 (.cxl (2 ^ 23))) ready ∧ Admitted (.frameRevoke hyp 5) granted0 ∧
    findGrant granted0 5 = some ⟨5, 1, 1, 4, 0, .rood 0⟩ ∧ (∀ l ∈ granted0.lists, l.ctx = 1 → l.handle ≠ 5) ∧
    (∀ p ∈ granted0.pages, p.ctx = 1 → usesGrant ⟨5, 1, 1, 4, 0, .rood 0⟩ p = false) ∧ findGrant ready 5 = none ∧
    (∃ p ∈ { granted0 with pages := ready.pages }.pages, p.ctx = 1 ∧ usesGrant ⟨5, 1, 1, 4, 0, .rood 0⟩ p = true) ∧
    (4 : Nat) < 2 ^ 23 ∧ 7 ∈ ({ ready with quarantine := [7] } : State).quarantine ∧ Memory.wf ready.mem = true := by
  simp only [admitted_iff]; decide +kernel

theorem pickRun_eq (s : State) (r k n : Nat) (h : groupBytes s r / 65536 / 2 ^ k = n) (pos : 0 < n) :
    ∃ i < n, pickRun s r k = (searchRun s r k (n - i) i).or (searchRun s r k i 0) := by
  subst h
  exact ⟨_, Nat.mod_lt (Config.choose s.freeCount _) pos, rfl⟩
theorem pickRun_some (s : State) (r k n : Nat) (h : groupBytes s r / 65536 / 2 ^ k = n) (pos : 0 < n)
    (all : ∀ i < n, (searchRun s r k (n - i) i).isSome = true) : ∃ f, pickRun s r k = some f := by
  obtain ⟨i, lt, e⟩ := pickRun_eq s r k n h pos
  obtain ⟨f, hf⟩ := Option.isSome_iff_exists.mp (all i lt)
  exact ⟨f, by rw [e, hf, Option.some_or]⟩
theorem pickRun_none (s : State) (r k n : Nat) (h : groupBytes s r / 65536 / 2 ^ k = n) (pos : 0 < n)
    (all : ∀ i < n, searchRun s r k (n - i) i = none ∧ searchRun s r k i 0 = none) : pickRun s r k = none := by
  obtain ⟨i, lt, e⟩ := pickRun_eq s r k n h pos
  rw [e, (all i lt).1, (all i lt).2, Option.none_or]
theorem witness_FramesAreGrantedAndReclaimed_run : (∃ f, pickRun ready 0 14 = some f) ∧ pickRun fullRood 0 14 = none :=
  ⟨pickRun_some ready 0 14 24 (by decide +kernel) (by decide) searchRun_ready.1,
    pickRun_none fullRood 0 14 24 (by decide +kernel) (by decide) searchRun_ready.2⟩

/-- A mapping list of one entry in a grant's frames: the page at 0x300000, with one frame of grant 5. -/
def mapBytes (va : Nat) : List Byte :=
  toBytes 8 va ++ toBytes 8 5 ++ toBytes 8 0 ++ toBytes 4 0 ++ toBytes 4 1 ++ toBytes 4 3 ++ List.replicate 12 0
def mapS (va : Nat) : State :=
  { ready with grants := [⟨5, 1, 1, 4, 2, .rood 0⟩, ⟨6, 1, 1, 0x100, 0, .rood 0⟩], mem := writeBytes [] 0x1000000 (mapBytes va) }
def list1 : MapList := ⟨1, 6, 0, 1, 0x1000000⟩
def dfr (before : List Nat) : Deferred := ⟨1, gst, .unmap (6, 0) [0x20000], before⟩
def prq : PageReq := ⟨0x30000, 1, [0], false, some 1⟩
theorem witness_MappingsChangeInOrder :
    let s := mapS 0x300000
    let es := listEntries s 0x1000000 1
    Admitted (.cmdMap gst 6 0 1) s ∧ Admitted (.cmdMap gst 7 0 1) s ∧ grantArea s gst 6 0 (48 * 1) = some 0x1000000 ∧
    grantArea s gst 7 0 48 = none ∧ (∀ e ∈ es, entryValid s gst e = true ∧ entryOverlaps s 1 e = false ∧ entryAtTrapBin s 1 e = false) ∧
    (let u := { s with queues := [{ queB with conf := { queB.conf with trapBase := 0x300000 } }]
                       grants := [⟨5, 1, 1, 2 ^ 23, 2, .cxl (2 ^ 23)⟩, ⟨6, 1, 1, 0x100, 0, .rood 0⟩] }
     ∃ e ∈ listEntries u 0x1000000 1, entryAtTrapBin u 1 e = true) ∧
    apart (fun (a b : MapEntry) => rangesMeet a.va (a.count * 2 ^ a.bits) b.va (b.count * 2 ^ b.bits)) es = true ∧
    (∃ e ∈ listEntries (mapS 0x300001) 0x1000000 1, entryValid (mapS 0x300001) gst e = false) ∧
    (∃ e ∈ listEntries (mapS 0x20000) 0x1000000 1, entryOverlaps (mapS 0x20000) 1 e = true) ∧
    (∃ e ∈ es, 0 < e.count ∧ (findGrant s e.dev).isSome = true) ∧
    (let u := { s with lists := [list1] }
     Admitted (.unmap gst 6 0 0 1) u ∧ Admitted (.unmap gst 6 0 0 2) u ∧
      u.lists.find? (fun l => decide (l.ctx = gst.ctx) && decide (l.handle = 6) && decide (l.off = 0)) = some list1 ∧
      0 + 1 ≤ list1.count ∧ list1.count < 0 + 2) ∧
    (let u := fun d => { s with deferred := [d] }
     (u (dfr [1])).deferred.find? (fun d => decide (d.ctx = 1)) = some (dfr [1]) ∧
      (∃ n ∈ (dfr [1]).before, (findLaunch (u (dfr [1])) n).isSome = true) ∧
      (u (dfr [8])).deferred.find? (fun d => decide (d.ctx = 1)) = some (dfr [8]) ∧
      ∀ n ∈ (dfr [8]).before, findLaunch (u (dfr [8])) n = none) ∧
    (let u := { ready with contexts := [{ cR with prReqs := [prq] }] }
     Admitted (.violate gst 0x30000) u ∧ requestPageVa u 1 0x30000 = 0x30000 ∧
      findCtx u 1 = some { cR with prReqs := [prq] } ∧
      ({ cR with prReqs := [prq] } : Context).prReqs.find? (fun r => decide (r.va = 0x30000)) = some prq ∧
      Admitted (.violate gst 0x30000) ready ∧ ∀ r ∈ cR.prReqs, r.va ≠ 0x30000) := by
  simp only [admitted_iff]; decide +kernel

/-- A migratable page in each state, pinned or not, at 0x20000, and the host's frames for it. -/
def mig (st : PageState) (pin : Option Nat) : Page :=
  { page 0x20000 0x40000 true with migratable := true, hostPa := 2 ^ 40, state := st, pinned := pin }
def migS (st : PageState) (pin : Option Nat) : State := { ready with pages := [mig st pin] }
def acc (w : Option (List Byte)) (n : Nat) : CxlAccess := ⟨1, 0x20040, true, w, n⟩
theorem witness_PagesMigrate :
    [(mig .device none), (mig .device (some 5)), (mig .host none), (mig .toHost none), (mig .toDevice none)].all (fun p =>
      let s := migS p.state p.pinned
      admits (.migrateOut gst 0x20040) s && decide (pageFor s 1 0x20040 = some p) && p.migratable) = true ∧
    pageFor ready 1 0x900000 = none ∧ Admitted (.migrateOut gst 0x900000) ready ∧ (page 0x20000 0x40000 true).migratable = false ∧
    pinnedNow (migS .device (some 5)) (mig .device (some 5)) = true ∧ pinnedNow (migS .device none) (mig .device none) = false ∧
    pinnedNow { migS .device (some 5) with clock := 5 } (mig .device (some 5)) = false ∧
    (∃ r ∈ { migS .toHost none with reqs := [wr] }.reqs, goesInto (mig .toHost none) r = true) ∧
    (∀ r ∈ (migS .toHost none).reqs, goesInto (mig .toHost none) r = false) ∧ Memory.wf ready.mem = true ∧
    pageFor (migS .device none) 1 (acc none 64).va = some (mig .device none) ∧ (acc none 64).inRun = true ∧
    tdispRun (migS .device none) 1 = true ∧ (acc none 64).va + 64 ≤ 0x20000 + 2 ^ 16 ∧
    0x20000 + 2 ^ 16 < (acc none 65536).va + 65536 ∧ ({ acc none 64 with inRun := false } : CxlAccess).inRun = false ∧
    tdispRun { migS .device none with vds := [] } 1 = false ∧ (acc (some [1, 2]) 2).write = some [1, 2] := by
  simp only [admitted_iff]; decide +kernel

/-! ### Witnesses: stops, modules, power, telemetry, errors and boot -/

/-- The context in each stage of a stop, with nothing of it resident; its image, with the hash of its bytes, and without. -/
def stopS (c : Context) : State := { ready with contexts := [c], threads := [], slots := [] }
def evicting : Context := { cR with stop := .stopping .evict 0 }
def evicted : Context := { cR with stop := .stopped .evict 0 }
def preempted : Context := { cR with stop := .stopped .preempt 0 }
def image1 : Image := ⟨7, 1, 0, 0, 0, [0, 0], Config.sha384 [0, 0], 1, 0, none⟩
/-- An image that another device sent, with its hash. -/
def sent1 : ImageIn := ⟨8, 1, [1], Config.sha384 [1], 3, ⟨[], [], [], [], [], 0, false, []⟩⟩
def imaged : Context := { evicted with image := some 7 }
theorem witness_ContextsStopAndResume :
    Admitted (.evict hyp) (stopS evicting) ∧ Admitted (.evict hyp) ready ∧ Admitted (.evict hyp) (stopS imaged) ∧
    findCtx ready 1 = some cR ∧ findCtx (stopS evicting) 1 = some evicting ∧ findCtx (stopS imaged) 1 = some imaged ∧
    imaged.image.isSome = true ∧ Admitted (.preempt hyp none) ready ∧ Admitted (.preempt hyp none) (stopS evicting) ∧
    Admitted (.preempt hyp none) (stopS preempted) ∧ preempted.image = none ∧ preempted.dest = none ∧ preempted.reply = none ∧
    Admitted (.preempt hyp (some 3)) ready ∧ charterOf ready hyp.charter = some charter1 ∧
    charter1.policy.getLsbD 9 = true ∧ ({ charter1 with policy := 0 } : Charter).policy.getLsbD 9 = false ∧
    (∃ r ∈ ready.boot.routes, r.dev = 3) ∧ (∀ r ∈ ready.boot.routes, r.dev ≠ 4) ∧ Admitted (.preempt hyp (some 4)) ready ∧
    Admitted (.resume hyp 0) ready ∧ vdOfCtx ready 1 = some vR ∧ Admitted (.resume hyp 0) (stopS preempted) ∧
    wantsImage preempted = false ∧ Admitted (.resume hyp 7) (stopS imaged) ∧ imaged.reply = none ∧
    image1.roods = roodCount vR.shape ∧ ({ image1 with roods := 2 } : Image).roods ≠ roodCount vR.shape ∧
    ctxMoves (stopS evicting) 1 = false ∧
    ((stopS evicting).wgs.filter fun g => decide (g.ctx = 1) && !decide (g.phase = .ended)).all (wgQuiet (stopS evicting)) = true ∧
    (ready.wgs.filter fun g => decide (g.ctx = 1) && !decide (g.phase = .ended)).all (wgQuiet ready) = false ∧
    (let c := { cR with stop := .stopping .preempt 0, reply := some hyp }
     findCtx (stopS c) 1 = some c ∧ c.reply = some hyp ∧ c.dest = none ∧ ctxMoves (stopS c) 1 = false) ∧
    wantsImage evicted = true ∧ farOpen (stopS evicted) 1 = false ∧ writesUnderWay (stopS evicted) vR = false ∧
    wantsImage cR = false := by
  simp only [admitted_iff]; decide +kernel

theorem witness_ContextsStopAndResume_images :
    let s := { stopS imaged with images := [image1] }
    let i := { stopS cR with imagesIn := [sent1], wgs := [] }
    image1.hash = Config.sha384 (readBytes s.mem image1.addr image1.bytes.length) ∧
    s.images.find? (fun x => decide (x.handle = 7)) = some image1 ∧
    s.images.find? (fun x => decide (x.handle = 7) && decide (x.ctx = hyp.ctx)) = some image1 ∧
    Admitted (.resume hyp 8) i ∧ findCtx i 1 = some cR ∧ i.imagesIn.find? (fun x => decide (x.handle = 8)) = some sent1 ∧
    sent1.hash = Config.sha384 sent1.bytes ∧ sent1.roods = roodCount vR.shape ∧ (∀ g ∈ i.wgs, g.ctx ≠ cR.id) ∧
    ready.imagesIn.find? (fun x => decide (x.handle = 0)) = none ∧ Admitted (.imagePlace hyp 1 2 (some 7) 1 (2 ^ 40)) s ∧
    (Config.cxlFrame (2 ^ 24) = true → placeFree s image1 1 (2 ^ 40) = true) ∧ placeFree s image1 1 5 = false ∧
    placeFree s image1 0 0x100000 = true ∧ placeFree s image1 0 (2 ^ 35) = false ∧
    Admitted (.imagePlace hyp 1 2 (some 7) 0 0x100000) s := by
  refine ⟨rfl, by simp [image1], by simp [image1, hyp], (admitted_iff _ _).2 (by decide +kernel), by decide +kernel,
    by simp [sent1], rfl, by decide +kernel, by decide +kernel, by decide +kernel, (admitted_iff _ _).2 (by decide +kernel),
    fun h => ?_, by decide +kernel, by decide +kernel, by decide +kernel, (admitted_iff _ _).2 (by decide +kernel)⟩
  simp only [placeFree, frameKind]
  have h' : Config.cxlFrame 16777216 = true := h
  simp (decide := true) [image1, h', stopS, ready, atReady, one]

/-- Every frame of rood 0 is granted: no image has a place at the device. -/
def packed : State := { stopS evicted with grants := [⟨9, 1, 1, 0, 19, .rood 0⟩] }
theorem runFree_packed (k f : Nat) : runFree packed 0 k f = false := by
  have h : groupBytes packed 0 / 65536 = 393216 := by decide +kernel
  have : 0 < 2 ^ k := Nat.two_pow_pos k
  simp only [runFree, h, Bool.and_eq_false_iff, decide_eq_false_iff_not]
  by_cases c : f < 2 ^ 19
  · left; left; left; simp [packed, runsMeet, this]; omega
  · right; omega
theorem searchRun_packed (k n i : Nat) : searchRun packed 0 k n i = none := by
  induction n generalizing i with
  | zero => rfl
  | succ n ih => simp [searchRun, runFree_packed, ih]
theorem witness_ContextsStopAndResume_close : wantsImage evicted = true ∧ farOpen packed 1 = false ∧
    writesUnderWay packed vR = false ∧ ∀ n, imageAddr packed vR vR.imageLoc n = none := by
  refine ⟨by decide +kernel, by decide +kernel, by decide +kernel, fun n => ?_⟩
  have shape : VdShape.roods vR.shape = [0] := by decide +kernel
  have loc : vR.imageLoc = 0 := by decide +kernel
  simp [imageAddr, loc, shape, pickRun, searchRun_packed]

/-- Classes within the charter's right and beyond it; a dump area in a grant of 16 MiB; a context that is stopped. -/
def bigGrant : State := { ready with grants := [⟨5, 1, 1, 0, 8, .rood 0⟩] }
theorem witness_ContextsStopAndResume_places :
    Admitted (.imagePlace hyp 1 2 none 1 0) ready ∧ vdOfTenant ready 1 hyp.charter = true ∧ vdOfTenant ready 7 hyp.charter = false ∧ charterImg charter1 = 3 ∧
    charterImg { charter1 with policy := 0 } = 0 ∧ Admitted (.dump gst 5 0 0x1000000 0) bigGrant ∧
    findCtx bigGrant 1 = some cR ∧ charterOf bigGrant gst.charter = some charter1 ∧ charter1.policy.getLsbD 7 = true ∧
    ({ charter1 with policy := 0 } : Charter).policy.getLsbD 7 = false ∧ cR.stop = .none ∧ evicted.stop ≠ .none ∧
    deviceArea bigGrant gst 5 0 0x1000000 = some 0 ∧ 0x1000000 % 4096 = 0 ∧ 0x1000001 % 4096 ≠ 0 ∧
    Admitted (.imagePlace hyp 1 2 (some 7) 1 0) ready := by
  simp only [admitted_iff]; decide +kernel

/-- Whether the area holds what a dump needs rests on lengths that the spec leaves open: where it does, all of them hold. -/
theorem witness_ContextsStopAndResume_dump (fits : dumpNeeds bigGrant cR ≤ 0x1000000) :
    ∃ len a, Admitted (.dump gst 5 0 len 1) bigGrant ∧ deviceArea bigGrant gst 5 0 len = some a ∧
      dumpNeeds bigGrant cR ≤ len ∧ len % 4096 = 0 ∧ 0 % 4096 = 0 ∧ cR.stop = .none :=
  ⟨0x1000000, 0, (admitted_iff _ _).2 (by decide +kernel), by decide +kernel, fits, by decide, by decide, by decide⟩

/-- A module whose branch leaves its kernel, and a lawful one; a session with a record that waits for a breakpoint. -/
def branchImg : ModuleImage := plainImage (parcelsOf 0x00201B05)
def debugS (wake : Nat) : State :=
  { ready with
    contexts := [{ cR with session := true }]
    threads := []
    slots := []
    records := [{ rec0 { endOf wake with operand := 3 } none with inBin := false }] }
theorem witness_ModulesAndSessions :
    Admitted (.moduleLoad gst [1]) ready ∧ Admitted (.moduleUnload gst 1) fitS ∧
    (findModule fitS 1).map (fun m => (m.charter, m.loaded)) = some (1, true) ∧ findModule ready 9 = none ∧
    (let m : Module := ⟨4, 1, [], .translating, true, emptyImage, emptyImage⟩
     findModule { ready with modules := [m] } 4 = some m ∧ m.state = .translating ∧
      translated (plainImage [0]) (plainImage [0]) = some true ∧ translated (plainImage [0]) emptyImage = none ∧ ({ m with state := .ready } : Module).state ≠ .translating) ∧
    debugAllowed { ready with tenants := [{ tenant1 with inForce := some { charter1 with policy := 0 } }] } gst = false ∧
    debugAllowed ready gst = true ∧ Admitted (.attach gst [4]) ready ∧ Admitted (.detach gst) ready ∧
    sessionOn ready 1 = false ∧ Admitted (.detach gst) { debugS 11 with records := [], launches := [] } ∧ Admitted (.detach gst) (debugS 11) ∧ sessionOn (debugS 11) 1 = true ∧
    (debugS 11).threads = [] ∧ sessionRecord ready gst 5 = none ∧ Admitted (.release gst 5) ready ∧
    (sessionRecord (debugS 11) gst 5).isSome = true ∧ Admitted (.release gst 5) (debugS 11) ∧
    Admitted (.stepCmd gst 5) (debugS 11) ∧ Admitted (.discard gst 5) (debugS 11) := by
  simp only [admitted_iff]; decide +kernel

def mod1 : Module := ⟨4, 1, [1], .ready, true, emptyImage, emptyImage⟩
theorem witness_ModulesAndSessions_modules : sameModule { ready with modules := [mod1] } gst.charter [1] = some mod1 ∧
    sameModule ready gst.charter [1] = none ∧ (∃ k ∈ branchImg.kernels, kernelLawful branchImg k = false) ∧
    translated branchImg branchImg = some false ∧
    ∀ k ∈ (plainImage (parcelsOf 0x00000155)).kernels, kernelLawful (plainImage (parcelsOf 0x00000155)) k = true := by
  refine ⟨by simp [sameModule, mod1, gst], by decide +kernel, by decide +kernel, by decide +kernel, by decide +kernel⟩

/-- A guarantee within the charter and the budget, and beyond each; a lawful ring; frames that it takes and that it does not. -/
def desc1 : RingDesc := ⟨0x30000, 0x20000, 4, 11, 1, 0x88B5, 0, false, 0, true⟩
def ringS : State := { ready with vds := [{ vR with ingress := [⟨5, desc1, 0, 0, 0⟩] }] }
def frameOf (good : Bool) (et : Nat) : EthFrame :=
  ⟨0, List.replicate 12 0 ++ [BitVec.ofNat 8 (et / 256), BitVec.ofNat 8 et] ++ List.replicate 46 0, good, 0⟩
theorem witness_PowerShareAndEthernet :
    Admitted (.powerSet hyp 1 5 5) ready ∧ charterOf ready hyp.charter = some charter1 ∧ findVd ready 1 = some vR ∧
    5 ≤ charter1.grains ∧ 5 ≤ charter1.weight ∧ charter1.weight < 11 ∧ charter1.grains < 22001 ∧
    sumNat ((ready.vds.filter fun v => !decide (v.num = 1)).map VDev.g) + 5 ≤ ready.power.budget ∧
    (∀ c ∈ ready.contexts, c.vd = 1 → c.charter = hyp.charter) ∧
    sumNat (({ ready with vds := [vR, { plainVd 2 with num := 2 }] } : State).vds.map VDev.g) > ready.power.budget ∧
    gst.issuer = .guest 1 ∧ Admitted (.ringSet gst 5 desc1) ready ∧ ingressAllowed ready gst = true ∧ descValid desc1 = true ∧
    descValid { desc1 with zlog := 10 } = false ∧ (∀ x ∈ ready.vds, x.num ≠ 1 → ∀ r ∈ x.ingress, sameClaim r.desc desc1 = false) ∧
    Admitted (.ringClear gst 5) ready ∧ (∀ r ∈ vR.ingress, r.num ≠ 5) ∧
    Admitted (.ringClear gst 5) ringS ∧ (∃ v ∈ ringS.vds, ∃ r ∈ v.ingress, r.num = 5) ∧
    ingressAllowed { ready with tenants := [{ tenant1 with inForce := some { charter1 with policy := 0 } }] } gst = false ∧
    ringS.boot.stage = 6 ∧ 60 ≤ (frameOf true 0).bytes.length ∧ (frameOf true 0).bytes.length ≤ 9212 ∧
    (ringFor ringS (frameOf true 0x88B5)).map (fun x => x.2.num) = some 5 ∧ ringFor ringS (frameOf true 0) = none ∧
    ctxOfVd ringS 1 = some cR ∧ ringS.eth.hostRing.length < 4096 ∧
    4096 ≤ (List.replicate 4096 (frameOf true 0)).length ∧ 11 ≤ desc1.zlog := by
  simp only [admitted_iff]; decide +kernel

/-- A stream's area in a grant; four streams held; another issuer's; a master and a device that follows. -/
def ops1 : StreamOps := ⟨5, 0, 4, 10, 7, 0x8000, 0⟩
def stream1 : Stream := ⟨8, .guest 1, 1, 0, 0x8000, 4, 10, 7, 0, 0, false⟩
theorem witness_StreamsFollowTheTicks :
    Admitted (.streamSet gst ops1) bigGrant ∧ 4 ≤ ops1.rlog ∧ ops1.rlog ≤ 15 ∧ 10 ≤ ops1.k ∧ ops1.k ≤ 24 ∧
    maskWithin ops1.mask (groupsOf gst.issuer) = true ∧ (findVd bigGrant 1).isSome = true ∧
    streamArea bigGrant gst ops1 = some (0, 0x8000) ∧ streamArea ready gst ops1 = none ∧ Admitted (.streamSet gst ops1) ready ∧
    ¬ maskWithin 8 (groupsOf gst.issuer) = true ∧ bigGrant.streams.length < 4 ∧
    4 ≤ ((List.replicate 4 stream1).filter fun x => decide (x.issuer = gst.issuer) && decide (x.vd = 1)).length ∧
    Admitted (.streamClear gst 8) ready ∧ (∀ x ∈ ready.streams, x.handle ≠ 8) ∧
    (let s := { ready with streams := [stream1] }
     s.streams.find? (fun x => decide (x.handle = 8)) = some stream1 ∧ stream1.issuer = gst.issuer ∧ stream1.issuer ≠ hyp.issuer ∧
      Admitted (.streamClear hyp 8) s) ∧
    tickMaster ready = true ∧ ready.tickAt + 1024 ≤ { ready with clock := 1024 }.clock ∧
    { ready with clock := 1023 }.clock < ready.tickAt + 1024 ∧
    tickMaster { ready with boot := { ready.boot with domid := 1, devnum := 9 } } = false ∧ ready.tick < 1 ∧
    ([] : List Nat).length ≤ 28 ∧
    (17 + 2 ^ 32 - 1) % 2 ^ 32 = 2 ^ 4 ∧ (16 + 2 ^ 32 - 1) % 2 ^ 32 ≠ 2 ^ 4 := by
  simp only [admitted_iff]; decide +kernel

def trOps : TraceOps := ⟨5, 0x1000, 4, 0x3FE, 0, 1⟩
def traced : Context := { cR with trace := some ⟨0, 4, 0x3FE, 0x10000, 1, 0, 0⟩, sample := some 10 }
def logMem : Memory := writeBytes (writeBytes [] 0x1000 (toBytes 4 0x444A524C ++ toBytes 4 1)) 0x1010 (toBytes 8 1 ++ toBytes 4 8)
def logsS : State :=
  let s := withQue (que plain4 id) { bigGrant with mem := logMem }
  { s with modules := s.modules.map fun m => { m with charter := 1 } }
def playing (clock : Nat) : State :=
  { ready with replaying := [⟨3, gst, 1, 0, 0x1000, some 1, [], [], 0⟩], clock := clock }
theorem witness_TracesRecordingsAndTables :
    Admitted (.traceSet gst trOps) bigGrant ∧ grantArea bigGrant gst 5 0x1000 (32 * 2 ^ 4) = some 0x1000 ∧
    grantArea bigGrant gst 5 0 128 = some 0 ∧ maskWithin trOps.kinds [1, 2, 3, 4, 5, 6, 7, 8, 9] = true ∧ trOps.kinds ≠ 0 ∧
    trOps.clusters < 2 ^ 128 ∧ trOps.off % 4096 = 0 ∧ trOps.index % 128 = 0 ∧ maskWithin 1 [1, 2, 3, 4, 5, 6, 7, 8, 9] = false ∧
    Admitted (.sampleSet gst 10) ready ∧ findCtx ready 1 = some cR ∧ cR.trace = none ∧ Admitted (.sampleSet gst 21) (stopS traced) ∧
    traced.trace.isSome = true ∧ traced.sample = some 10 ∧ findCtx (stopS traced) 1 = some traced ∧ findVd (stopS traced) traced.vd = some vR ∧
    1023 / 2 ^ 10 ≤ traced.sampleAt ∧ traced.sampleAt < 1024 / 2 ^ 10 ∧
    Admitted (.record gst 5 0 16384 0) logsS ∧ boundQueue logsS 1 0 = true ∧ boundQueue ready 1 0 = false ∧
    grantArea logsS gst 5 0 16384 = some 0 ∧ Admitted (.replay gst 5 0x1000 0) logsS ∧ grantArea logsS gst 5 0x1000 12288 = some 0x1000 ∧
    logUsable logsS gst 0x1000 = true ∧ logUsable logsS gst 0 = false ∧
    (playing 0).replaying.find? (fun r => decide (r.ctx = 1) && r.launch.isSome) = some ⟨3, gst, 1, 0, 0x1000, some 1, [], [], 0⟩ ∧
    0 + 2 ^ 24 ≤ (playing (2 ^ 24)).clock ∧ (playing 0).clock < 0 + 2 ^ 24 ∧
    Admitted (.coeffRead gst 5 0) bigGrant ∧ targetArea bigGrant gst 5 0 512 = some 0 ∧
    Admitted (.countRead hyp0 (2 ^ 40)) bigGrant ∧ targetArea bigGrant hyp0 (2 ^ 40) 0 1088 = some (2 ^ 40) ∧
    (let s := { bigGrant with tenants := [{ tenant1 with accounts := [⟨6, 1, 2, 0⟩] }] }
     Admitted (.accountRead gst 5 0 6) s ∧ grantArea s gst 5 0 32 = some 0 ∧
      (findTenant s gst.charter).map (fun t => t.accounts.find? fun y => decide (y.num = 6)) = some (some ⟨6, 1, 2, 0⟩) ∧ 6 < 2 ^ 32) := by
  simp only [admitted_iff]; decide +kernel

/-- An entry whose thread, %tid 5, has exited. -/
def deadMem : Memory :=
  writeBytes (writeBytes (writeBytes [] 0x100C (toBytes 4 1)) 0x2000 (toBytes 4 1 ++ toBytes 4 0 ++ toBytes 4 3 ++ toBytes 4 1)) 0x4010
    (toBytes 4 0 ++ toBytes 4 5)
def play0 : Replaying := ⟨3, gst, 1, 0, 0x1000, some 1, [], [], 0⟩
theorem witness_TracesRecordingsAndTables_dead : play0 ∈ (playing 0).replaying ∧ play0.launch = some 1 ∧
    deadEntry { playing 0 with mem := deadMem, wgs := [{ g0 with exited := [5] }] } play0 1 0 = true ∧ play0.idleSince + 2 ^ 24 ≤ (playing (2 ^ 24)).clock := by
  decide +kernel

/-- A device that has spent its allowance, and one that draws nothing; the end of a span, and a cycle before. -/
def spent : VDev := { vR with drawing := true, spent := 22000 }
theorem witness_SpansShareTheBudget :
    { ready with clock := 174999 }.clock < ready.power.spanAt + 175000 ∧ ready.power.spanAt + 175000 ≤ { ready with clock := 175000 }.clock ∧
    weightSum [vR] ≠ 0 ∧ [vR] ≠ [] ∧ [vR][0]? = some vR ∧ findVd ready 1 = some vR ∧ vR.drawing = false ∧
    findVd { ready with vds := [spent] } 1 = some spent ∧ spent.drawing = true ∧
    vdOfWg { ready with vds := [spent] } g0 = some spent ∧ throttledVd spent = true := by decide +kernel

/-- Readings at each limit of R450. -/
def dirty0 : L2Line := ⟨3, 2048, 0, 0xFF, 0x30, none, 0⟩
def reading (stack : Bool) (temp : Nat) : MonitorReading := ⟨stack, 0, temp * 16, 750000, 0, 0⟩
theorem witness_ErrorsAreCountedAndContained :
    (∃ x ∈ ({ ready with l2 := [dirty0] } : State).l2, x.slice = 3 ∧ x.line = 8194 / 4 ∧ x.dirty.extractLsb' (2 * (8194 % 4)) 2 ≠ 0) ∧
    findSeat ready ⟨0, 0, 0⟩ = some t0 ∧ findSeat idle ⟨0, 0, 0⟩ = none ∧
    trips (reading false 115) = true ∧ trips (reading false 114) = false ∧ warns (reading false 95) = true ∧
    warns (reading false 94) = false ∧ trips (reading true 105) = true ∧ warns (reading true 85) = true ∧
    (reading true 105).isStack = true ∧ 105 * 16 ≤ (reading true 105).temp ∧ 45999 < 46000 ∧ 1000 ≤ 1000 := by decide +kernel

/-- The first and the fourth failure of a flit; the limits of a cluster: two errors of one register in a day. -/
def bad1 (p : Nat) : ErrEvent := ⟨.cluster 3, 0, true, false, p, 1, 0⟩
def link0 : Link := ⟨0, 0, 0, 0⟩
def twice : State := { ready with errHist := [bad1 5, bad1 5] }
theorem witness_LinksAndRetirement :
    (let s := fun n r => { ready with reqs := [wr], links := [⟨link0, some 9, n, r⟩] }
     flitOn (s 2 false) link0 (some 9) = true ∧
     (s 2 false).links.find? (fun x => decide (x.link = link0)) = some ⟨link0, some 9, 2, false⟩ ∧
     (s 3 false).links.find? (fun x => decide (x.link = link0)) = some ⟨link0, some 9, 3, false⟩ ∧
     (s 0 true).links.find? (fun x => decide (x.link = link0)) = some ⟨link0, some 9, 0, true⟩) ∧
    (∀ x ∈ ready.links, x.link ≠ link0) ∧ findReq { ready with reqs := [wr] } 9 = some wr ∧ flitOn ready link0 none = true ∧
    linkExists ⟨3, 0, 0, 12⟩ = false ∧ (⟨1, 0, 0, 0⟩ : Link) ∉ linksOf { ready with reqs := [wr] } wr ∧
    unitExists (.cluster 3) = true ∧ .cluster 3 ∉ twice.nv.retired ∧ limitPassed twice (.cluster 3) = true ∧
    unitClear twice (.cluster 3) = true ∧ unitClear twice (.cluster 0) = false ∧ .cluster 0 ∉ twice.retiring ∧
    unitClear { twice with wgs := [{ g0 with phase := .imaged }] } (.cluster 0) = true ∧
    unitClear { twice with wgs := [{ g0 with phase := .moving ⟨3, 0⟩ }] } (.cluster 3) = false ∧
    withRoods twice (dedup [.cluster 3]) = [.cluster 3] ∧ roodGone twice.nv.retired 0 = false ∧
    (∃ g ∈ twice.wgs, g.home.cluster = 0 ∧ g.phase = .running) ∧
    limitPassed { twice with errHist := [bad1 5, bad1 6] } (.cluster 3) = false ∧ unitExists (.cluster 128) = false ∧
    (∀ v ∈ [vR], 0 < v.g → 0 < v.w) ∧ sumNat ([vR].map VDev.g) ≤ 22000 := by decide +kernel

/-- A slice, a tile and a link of a route, the last seat, and a link that the mesh does not have. -/
theorem witness_RoutesStayInTheirRectangle : (15 : Nat) < 16 ∧ (3 : Nat) < 4 ∧ (1, 3) ∈ tilePath (0, 3) (2, 5) ∧
    (⟨0, 0, 3, 0⟩ : Link) ∈ routeLinks 0 (0, 3) (2, 5) ∧ (511 : Nat) < 512 := by decide +kernel

/-- Each stage of the boot; a lost route; a domain word of 22 bits. -/
theorem witness_ResetAndBoot :
    State.reset.boot.stage = 1 ∧ { State.reset.boot with stage := 5 }.stage = 5 ∧ ready.boot.stage = 6 ∧
    allRetired State.reset = false ∧ State.reset.boot.trip = false ∧ State.reset.boot.domid = 0 ∧
    portUp { State.reset.boot with domid := 4 } ⟨0, 4, 1, [], 9⟩ = true ∧ portUp { State.reset.boot with domid := 4 } ⟨0, 5, 1, [], 0⟩ = false ∧
    findVd ready 1 = some vR ∧ ctxOfVd ready 1 = some cR ∧ vR.tdisp = .run ∧ (0x3FFFFF : Word).toNat < 2 ^ 22 ∧
    (∃ r ∈ ready.boot.routes, r.dev = 3) ∧ (∀ r ∈ ready.boot.routes, r.dev ≠ 4) := by decide +kernel

/-- Good since time 0 for just a second, and for a cycle less; locked, and four seconds without a Sync. -/
def goodPtp (locked : Bool) : Ptp := ⟨0, locked, locked, some 0, 0⟩
theorem witness_ServoSessionsAndInterfaces :
    ready.boot.stage = 6 ∧ (99 : Int).natAbs < 100 ∧ 100 ≤ (-100 : Int).natAbs ∧ (-1000 : Int).natAbs ≤ 1000 ∧ 1000 < (1001 : Int).natAbs ∧
    (goodPtp false).goodSince = some 0 ∧ (goodPtp false).locked = false ∧ 0 + 1750000000 ≤ 1750000000 ∧ (goodPtp true).locked = true ∧
    (goodPtp true).lastSync + 7000000000 ≤ { ready with clock := 7000000000 }.clock ∧ ready.ptp.goodSince = none ∧
    findVd ready 1 = some vR ∧ vR.share = none ∧ { vR with share := some [1] }.share = some [1] ∧ ctxOfVd ready 1 = some cR ∧
    charterOf ready cR.charter = some charter1 ∧ vR.tenant = none ∧
    findVd { ready with vds := [{ vR with tenant := some 1 }] } 1 = some { vR with tenant := some 1 } ∧
    tdispNext .locked .start = .run := by decide +kernel

/-! ### Witnesses: what the claims say beside their main cases -/

/-- A grant that holds the page-request ring, and none. -/
theorem witness_PageRequestsEnterTheRing_granted :
    granted { one with grants := [⟨5, 1, 0, 0, 8, .rood 0⟩] } 1 0 = true ∧ granted one 1 0 = false := by decide +kernel

/-- A removed page of which a walk is under way; the page it stood for was the only one of its granule. -/
theorem witness_MappingsChangeInOrder_walk :
    walk ∈ walkS.walks ∧ walk.running = true ∧ findCtx walkS c0.id = some c0 ∧ ctxOfAsid walkS walk.asid = some c0 ∧
    (∀ x ∈ [page 0x20000 0x40000 true], x.ctx = c0.id → x.va ≤ walk.page * 65536 → walk.page * 65536 < x.va + 2 ^ x.bits →
      (fun p : Page => decide (p.va = 0x20000)) x = true) ∧ (dfr [1]).kind = .unmap (6, 0) [0x20000] := by decide +kernel

/-- A gang with no log behind it, and the stop points of its code; a thread off a safe point. -/
theorem witness_LogReplayPerformsTheEntry_off :
    safeOrdinal (logS 0x30000) (logged 0x30000 t0) 0 = none ∧
    (safeOrdinal (stopped (logged 0x30000) id scratchPlan) (logged 0x30000 t0) 0).isSome = true := by
  decide +kernel

/-- A coverage unit that goes on, and one whose context stops; an image's workgroup. -/
theorem witness_CoverageSteps_goes :
    reconGoes (coverS marked id) (marked g0) = true ∧
    reconGoes { coverS marked id with contexts := [{ c0 with stop := .stopping .evict 0 }] } (marked g0) = false ∧
    findCtx (coverS marked id) g0.ctx = some c0 ∧ c0.stop = .none ∧ c0.image = none ∧ (marked g0).phase ≠ .imaged := by
  decide +kernel

/-- No line waits for a message; one does; a workgroup in an image that may come back; a frozen context. -/
theorem witness_WorkgroupsLiveAndMove_waits :
    linesWait (placeS .accepted []) (vdHomes (placeS .accepted []) (plainVd 1)) = false ∧
    linesWait { placeS .accepted [wr] with l1 := [{ line0 with mask := 1 }] } (vdHomes one (plainVd 1)) = true ∧
    restorable one { g0 with phase := .imaged, started := false } = true ∧ ({ c0 with frozen := true } : Context).frozen = true ∧
    unperformed wr = true ∧ tilesHeld (stage id movingG id) (clusterTile 0) (clusterTile 1) = false ∧
    (∃ k ∈ routeLinks 0 (clusterTile 0) (clusterTile 1),
      tilesHeld { stage id movingG id with links := [⟨k, none, 0, true⟩] } (clusterTile 0) (clusterTile 1) = true) := by
  decide +kernel

/-- A launch that is no replay's, with no line in wait. -/
theorem witness_LaunchesCompleteIntoTheirRings_rest :
    replayOpen endS l0 = false ∧ linesWait endS (vdHomes endS vR) = false ∧
    (let m := writeBytes (writeBytes [] 0x100C (toBytes 4 1)) 0x2000 (toBytes 4 1 ++ toBytes 4 0 ++ toBytes 4 3 ++ toBytes 4 1)
     replayOpen { endS with
       replaying := [⟨3, gst, 1, 0, 0x1000, some 1, [], [], 0⟩]
       mem := m } l0 = true) := by decide +kernel

/-- Whose descriptor a set reserved bit was in: a guest's own context; the hypervisor's named one, and none. -/
theorem witness_CommandsAreAdmitted_breach :
    breachCtx ready gst = some 1 ∧ breachCtx ready hyp = some 1 ∧ breachCtx ready { hyp with ctx := 7 } = none ∧
    gst.issuer = .guest 1 ∧ findCtx ready 1 = some cR ∧
    admission ready { gst with reserved := 1 } ⟨4, .guest, false, false, true⟩ = .breach ∧
    admission ready { gst with spare := 1 } ⟨10, .guest, false, false, true⟩ = .refused 2 := by decide +kernel

/-- The engines of a device in the name of its context's tenant, and of another. -/
theorem witness_PartitionCommands_engines :
    (∀ c ∈ ready.contexts, c.vd = 1 → c.charter = hyp.charter) ∧ Admitted (.copyAssign hyp 1 [2]) ready ∧
    (let s := { ready with contexts := [{ cR with charter := 2 }], tenants := [tenant1, { tenant1 with charter := 2 }] }
     Admitted (.copyAssign hyp0 1 [2]) s ∧ ∃ c ∈ s.contexts, c.vd = 1 ∧ c.charter ≠ hyp0.charter) := by
  simp only [admitted_iff]; decide +kernel

/-- A context stopped by a freeze; a workgroup whose stop ends; a frozen engine; nothing of the block is poisoned. -/
theorem witness_ContextCommands_thaw :
    (let c := { cR with frozen := true, stop := .stopped .freeze 0 }
     Admitted (.unfreeze hyp .context) { ready with contexts := [c] } ∧ findCtx { ready with contexts := [c] } 1 = some c ∧
      c.stop = .stopped .freeze 0) ∧
    Admitted (.unfreeze hyp (.engine 0)) ready ∧ findCtx ready hyp.ctx = some cR ∧
    (let g := { g0 with stop := WgStop.stopped 1 }
     findWg { ready with wgs := [g] } 1 = some g ∧ g.stop ≠ .none ∧ g.lateTraps = [] ∧ g.heldTraps = [] ∧
      (∀ t ∈ ready.threads, t.place = .running 0) ∧ ready.records = []) ∧
    g0.stop = .none ∧ vdOfWg ready g0 = some vR ∧ throttledVd vR = false ∧
    vreadMet (qcbS 0x20000) 1 0x80000 128 = qcbS 0x20000 := by
  simp only [admitted_iff]; decide +kernel

/-- A host's write over a control block's page, and beside it; a read of the page. -/
theorem witness_PagesMigrate_blocks :
    freezeFor (migS .device none) 1 0x20040 2 0x40040 = none ∧
    (freezeFor { migS .device none with queues := [queueAt 0x20000] } 1 0x20040 2 0x40040).isSome = true ∧
    poisoned (migS .device none) 0x40040 64 = [] ∧ (acc none 64).write = none := by decide +kernel

/-- A stop whose dump is held, and one that freezes meanwhile; an image that still waits for a write, and one that does not. -/
theorem witness_ContextsStopAndResume_rest :
    (let c := { cR with stop := .stopped .dump 4, dump := some (gst, 0, 0x1000000, true) }
     findCtx (stopS c) 1 = some c ∧ vdOfCtx (stopS c) 1 = some vR ∧ c.dump = some (gst, 0, 0x1000000, true) ∧ c.frozen = false ∧
      ({ c with frozen := true } : Context).stop = .stopped .dump 4) ∧
    cR.dump = none ∧ closeWaits (stopS evicted) evicted vR = false ∧ closeWaits { stopS evicted with reqs := [wr] } evicted vR = true ∧
    (∃ r ∈ { stopS evicted with reqs := [wr] }.reqs, r.ctx = 1 ∧ unperformed r = true) ∧
    (wgsOf (stopS evicting) 1).all (enginesQuiet (stopS evicting)) = true ∧
    (let g := { g0 with phase := .imaged }
     needsSave { ready with wgs := [g] } g = true ∧ wantsImage cR = false ∧ cR.image = none ∧ cR.dest = none) ∧
    ((2 : Word).toNat > 1) ∧ (1 : Word).toNat ≤ 1 := by decide +kernel

/-- Whether a moved image stands rests on the Notary's hash of its bytes: it does where they are the bytes hashed. -/
theorem witness_ContextsStopAndResume_moved : imageStands { ready with images := [image1] } image1 = true ∧
    movedStands { ready with images := [image1] } 7 = true ∧ movedStands ready 7 = false := by
  refine ⟨?_, ?_, by decide +kernel⟩
  · exact decide_eq_true rfl
  · simp [movedStands, image1, imageStands, ready, atReady, one]; rfl

/-- Places with a corrected error, and none such; a record in the buffer; a poisoned tile word's reader. -/
theorem witness_ErrorsAreCountedAndContained_places :
    subExists .l2 0 3 = true ∧ subExists .l2 0 4 = false ∧ subExists .hbm 0 15 = true ∧ subExists .registers 0 8 = false ∧
    (let r := { rec0 (endOf 0) (some 0) with inBuffer := true }
     (recS r 0).records.find? (fun x => decide (x.id = 5) && x.inBuffer) = some r) ∧
    (reading false 115).n < 16 ∧ 16 ≤ ({ reading false 115 with n := 16 } : MonitorReading).n ∧ (3 : Nat) ≠ 0 := by decide +kernel

/-- A far access that waits at its port until the link is up. -/
theorem witness_LinksAndRetirement_ports :
    let r := { req 9 0x20040 0 (.far (.load 4)) .atPort with loc := 3 }
    let s := { ready with reqs := [r], links := [⟨⟨3, 0, 0, 0⟩, none, 0, true⟩] }
    r ∈ s.reqs ∧ r.stage = .atPort ∧ pathHeld s (fabricLinks s r.loc) = true ∧
    pathHeld { s with links := s.links.filter fun x => !decide (x.link = ⟨3, 0, 0, 0⟩) } (fabricLinks s r.loc) = false := by
  decide +kernel

/-- A tick of the domain; a replay with entries left; a third Ethernet port; a reset that reads the trip flag; a register. -/
theorem witness_StreamsTracesAndRecordings_rest :
    (let s := { ready with boot := { ready.boot with domid := 1 } }
     s.boot.domid ≠ 0 ∧ s.tick < 1) ∧ ready.boot.domid = 0 ∧
    entriesLeft { playing 0 with mem := deadMem } play0 = true ∧ entriesLeft (playing 0) play0 = false ∧
    2 ≤ ({ frameOf true 0 with port := 2 } : EthFrame).port ∧ (frameOf true 0).port < 2 ∧
    (0x100 : Nat) % 4 = 0 ∧ (31 : Nat) < 32 ∧ 0x100 + 4 ≤ 16384 ∧ { State.reset.boot with stage := 4 }.trip = false := by
  decide +kernel

/-- The invariants hold at reset and in a state from which a step goes on. -/
theorem witness_ResetLeavesAnEmptyMachine : Memory.wf [] = true ∧ Memory.wf (writeBytes [] 5 [1, 2]) = true := by decide +kernel
theorem reset_memInv : State.MemInv State.reset := by unfold State.MemInv; decide +kernel
theorem one_memInv : State.MemInv one ∧ answers (step one) = true := by
  constructor
  · unfold State.MemInv; decide +kernel
  · decide +kernel
theorem witness_EveryStepKeepsTheMemoriesCanonical : ∃ s', State.MemInv one ∧ step one = .next s' := by
  have h := one_memInv
  cases e : step one with
  | next s' => exact ⟨s', h.1, rfl⟩
  | fault f => simp [answers, e] at h
  | refused r => simp [answers, e] at h

/-! ### Single device steps, with results worked out from the spec -/

def run (i : Instr) (s : State) : State := nextState (exec i s)

/-- R372: 16 packets of room in a ring of 2^4, and not 17. -/
theorem test_submit_doorbell :
    (run (.submitDoorbell 1 0 16) (withQue (que plain4 id) ready)).queues.map (fun q => (q.tail, q.frozen)) = [(16, false)] ∧
    (run (.submitDoorbell 1 0 17) (withQue (que plain4 id) ready)).queues.map (fun q => (q.tail, q.frozen)) = [(0, true)] := by
  decide +kernel

/-- R384: a second start while a graph runs is counted. -/
theorem test_graph_start_refused :
    (run (.graphStart 1 0 0) (withQue { graphQ with judging := false } ready)).queues.map Queue.refused = [1] := by decide +kernel

/-- R377: an accepted packet passes HEAD, and its launch keeps the packet's tag. -/
theorem test_packet_intake :
    let s := run (.packetIntake 1 0) fitS
    s.queues.map Queue.head = [1] ∧ s.launches.map (fun l => l.packet.tag) = [9] ∧ s.launches.map Launch.phase = [.accepted] := by
  decide +kernel

/-- R383, R387: the end of a launch counts DONE and leaves one waiting entry, and the launch is gone. -/
theorem test_launch_end :
    let s := forgetLaunch (queueDone (withQue (que plain4 id) endS) l0 0) l0
    s.launches = [] ∧ s.wgs = [] ∧ s.queues.map (fun q => (q.done, q.waiting.length)) = [(1, 1)] := by decide +kernel

/-- R385: the successor of node 0 under OP 1 is node 1. -/
theorem test_graph_successor :
    (run (.graphSuccessor 1 0) (graphS 1 0)).queues.map Queue.nextNode = [some 1] := by decide +kernel

/-- R395: a rood that is held keeps its mode: BUSY, status 3; a free one changes. -/
theorem test_rood_mode :
    (run (.roodMode hyp 0 true) ready).out.head? = some (.response hyp 3 0) ∧
    (run (.roodMode hyp 2 true) ready).splitRoods = [2] := by decide +kernel

/-- R400: a guest may not give PARTITION commands: DENIED, status 1. -/
theorem test_partition_is_the_hypervisors : (run (.roodMode gst 2 true) ready).out.head? = some (.response gst 1 0) ∧
    (run (.roodMode gst 2 true) ready).splitRoods = [] := by decide +kernel

/-- R357: KILL marks every launch KILLED, status 13. -/
theorem test_kill : (run (.kill hyp) ready).launches.map Launch.killed = [some 13] := by decide +kernel

/-- R419: a frozen context answers BUSY; UNFREEZE lets it go on. -/
theorem test_frozen_context :
    let s := { ready with contexts := [{ cR with frozen := true }] }
    (run (.evict hyp) s).out.head? = some (.response hyp 3 0) ∧ (run (.unfreeze hyp .context) s).contexts.map Context.frozen = [false] := by
  decide +kernel

/-- R408: the one entry of the list maps 0x300000 to frame 4, readable and writable. -/
theorem test_map :
    (run (.cmdMap gst 6 0 1) (mapS 0x300000)).pages.map (fun p => (p.va, p.pa, p.readable, p.writable)) =
      [(0x20000, 0x40000, true, true), (0x300000, 0x40000, true, true)] := by decide +kernel

/-- R410: an UNMAP is DEFERRED, status 5, and leaves the page until the launch has ended. -/
theorem test_unmap_is_deferred :
    let s := { mapS 0x300000 with lists := [list1] }
    (run (.unmap gst 6 0 0 1) s).out.head? = some (.response gst 5 0) ∧ (run (.unmap gst 6 0 0 1) s).pages = s.pages := by
  decide +kernel

/-- R412: MIGRATE_OUT of a page on the device sends it to the host; of a pinned one it is PINNED, status 4. -/
theorem test_migrate_out :
    (run (.migrateOut gst 0x20040) (migS .device none)).pages.map Page.state = [.toHost] ∧
    (run (.migrateOut gst 0x20040) (migS .device (some 5))).out.head? = some (.response gst 4 0) := by decide +kernel

/-- R474: a refused read returns ones. -/
theorem test_cxl_refused : (run (.cxlMemAccess (acc none 2)) ready).out.head? = some (.cxl [0xFF, 0xFF]) ∧
    (run (.cxlMemAccess (acc none 2)) ready).cxlRefused = 1 := by decide +kernel

/-- R453: the tick falls at cycle 1,024, not at 1,023. -/
theorem test_base_tick : (run .baseTick { ready with clock := 1024 }).tick = 1 ∧ (run .baseTick { ready with clock := 1023 }).tick = 0 := by
  decide +kernel

/-- R430: ten grains of pool between weights 1 and 2 are 4 and 6: the floors 3 and 6, and the one left to the first. -/
theorem test_share_of_pool :
    [0, 1].map (shareOf 0 [{ vR with w := 1 }, { vR with num := 2, w := 2 }] 10) = [4, 6] := by decide +kernel

/-- R476: a frame with a bad FCS is counted and goes nowhere; a good one that no ring takes goes to the host's ring. -/
theorem test_frame_receive :
    (run (.frameReceive (frameOf false 0x88B5)) ringS).eth = ⟨[], 0, 1⟩ ∧
    (hostFrame ringS (frameOf true 0)).eth = ⟨[frameOf true 0], 0, 0⟩ := by
  constructor
  · decide +kernel
  · have h : ringS.eth = ⟨[], 0, 0⟩ := by decide +kernel
    simp [hostFrame, bumpFree, h]

/-- R391: the slot holds the length 60 at 0x10. -/
theorem test_frame_slot :
    readNat (run (.frameReceive (frameOf true 0x88B5)) { ringS with pages := [page 0x20000 0x40000 true, page 0x30000 0x50000 true] }).mem
      0x50010 2 = 60 := by decide +kernel

/-- R350: an uncorrectable error of a register makes it read zero. -/
theorem test_register_error :
    (run (.uncorrectableError (.register ⟨0, 0, 0⟩ 10)) (atReady (withRegs [(10, 7), (11, 8)]))).threads.map
      (fun t => (getV t 10, getV t 11)) = [(0, 8)] := by decide +kernel

/-- R440: the third failure of a flit is its third retry. -/
theorem test_flit_retry :
    (run (.flitCrcFailure link0 (some 9)) { ready with reqs := [wr], links := [⟨link0, some 9, 2, false⟩] }).links =
      [⟨link0, some 9, 3, false⟩] := by
  decide +kernel

/-- R448: a retired cluster leaves 21,880 grains. -/
theorem test_retirement : (run (.retirement [.cluster 3]) twice).power.budget = 21880 ∧
    (run (.retirement [.cluster 3]) twice).nv.retired = [.cluster 3] := by decide +kernel

/-- R446: while a workgroup uses the cluster, the first step only stops it. -/
theorem test_retirement_stops_first :
    let s := { twice with retiring := [.cluster 0] }
    (run (.retirement [.cluster 0]) s).nv.retired = [] ∧ (run (.retirement [.cluster 0]) s).retiring = [.cluster 0] ∧
    (run (.retirement [.cluster 0]) s).wgs.map Workgroup.stop = [.stopping 0] := by decide +kernel

/-- R471: stages 1 to 6 in turn, and an error ends in FAILED. -/
theorem test_boot :
    ((List.replicate 5 ()).foldl (fun s _ => run (.bootStageComplete 0 []) s) State.reset).boot.stage = 6 ∧
    (run (.bootStageComplete 1 []) State.reset).boot.stage = 15 ∧
    (run (.bootStageComplete 2 []) State.reset).boot.stage = 2 := by decide +kernel

/-- R450: 115 degrees trip the module: nothing of it is left, and the next reset says so. -/
theorem test_trip :
    let s := run (.monitorRead (reading false 115)) ready
    s.boot.stage = 0 ∧ s.threads = [] ∧ (run .coldReset s).boot.trip = true := by decide +kernel

/-- R475: the word's number and domain are in force from the next reset only. -/
theorem test_domain_word :
    let s := run (.domainWordWrite 0x00050007) ready
    (s.boot.devnum, s.boot.domid) = (0, 0) ∧ ((run .coldReset s).boot.devnum, (run .coldReset s).boot.domid) = (5, 7) := by
  decide +kernel

/-- R48: lock after a second of good offsets; more than 1 µs loses it. -/
theorem test_ptp :
    (run .ptpLock { ready with ptp := goodPtp false, clock := 1750000000 }).ptp.locked = true ∧
    (run .ptpLock { ready with ptp := goodPtp false, clock := 1749999999 }).ptp.locked = false ∧
    (run (.ptpMessage ⟨servoPort ready, true⟩ 1001) { ready with ptp := goodPtp true }).ptp.locked = false := by
  refine ⟨by decide +kernel, by decide +kernel, ?_⟩
  simp [run, nextState, exec, execPtpMessage, servoPort, ready, atReady, goodPtp]

end Sys2Proof.Tests
end

section
/-! ### The machine after reset, and what a byte written gives back (R11, R470) -/
namespace Sys2Proof.Machine

theorem reset_memInv : State.reset.MemInv := ⟨rfl, fun _ hg => absurd hg List.not_mem_nil⟩

theorem reset_agendaOk : State.reset.AgendaOk := fun _ hc => absurd hc List.not_mem_nil

theorem readByte_writeByte {m : Memory} {a c : Nat} {b : Byte} (hm : Memory.wf m = true) :
    readByte (writeByte m a b) c = if c = a then b else readByte m c := by
  split
  next e => rw [e, readByte_writeByte_self m a b hm]
  next e => exact readByte_writeByte_other m a c b (Ne.symm e)

/-- Settles O58: the state after reset, field by field, and the laws of the memory's bytes. -/
theorem resetLeavesAnEmptyMachine : Obligations.ResetLeavesAnEmptyMachine :=
  ⟨rfl, rfl, rfl, rfl, rfl, rfl, rfl, reset_memInv, reset_agendaOk,
    fun m a _ b hm => ⟨writeByte_wf m a b hm, readByte_writeByte hm⟩⟩

end Sys2Proof.Machine
end

section
/-! ### Every step keeps the memories in canonical form (R11)

One lemma for each operation of the model, named after it: where the memories are in canonical form before it, they are so
after it. The plain updates and the shared ways to compose operations come first; the others follow in the order of the
model, each from the lemmas of the operations it is made of, up to `step_memInv`. -/
namespace Sys2Proof.Machine

variable {s : State}

/-! ### The invariant, over a state and over what an operation answers -/

/-- The memories of the next state, where the outcome is one, are in canonical form. -/
inductive OutMemInv : Host.Outcome State Fault Refusal → Prop
  | next {s : State} (hs : s.MemInv) : OutMemInv (.next s)
  | fault {f : Fault} : OutMemInv (.fault f)
  | refused {r : Refusal} : OutMemInv (.refused r)

/-- The memories of the state, where there is one, are in canonical form. -/
inductive OptMemInv : Option State → Prop
  | some {s : State} (hs : s.MemInv) : OptMemInv (some s)
  | none : OptMemInv none

theorem OutMemInv.of_eq_next {o : Host.Outcome State Fault Refusal} (ho : OutMemInv o) (e : o = .next s) :
    s.MemInv := by
  subst e
  cases ho with
  | next hs => exact hs

theorem OptMemInv.of_eq_some {o : Option State} (ho : OptMemInv o) (e : o = Option.some s) : s.MemInv := by
  subst e
  cases ho with
  | some hs => exact hs

/-! ### The memories of a workgroup -/

section
variable {g : Workgroup}

theorem memWf_iff : g.memWf = true ↔ Memory.wf g.scratch = true ∧ Memory.wf g.btier = true ∧
    Memory.wf g.tiles = true ∧ Memory.wf g.rowNan = true := by
  simp [Workgroup.memWf, and_assoc]

theorem memWf_of (hscratch : Memory.wf g.scratch = true) (hbtier : Memory.wf g.btier = true)
    (htiles : Memory.wf g.tiles = true) (hrowNan : Memory.wf g.rowNan = true) : g.memWf = true :=
  memWf_iff.mpr ⟨hscratch, hbtier, htiles, hrowNan⟩

end

theorem foldl_wf {α : Type} {f : Memory → α → Memory} {xs : List α} {m : Memory} (hm : Memory.wf m = true)
    (hf : ∀ m x, Memory.wf m = true → Memory.wf (f m x) = true) : Memory.wf (xs.foldl f m) = true :=
  List.foldlRecOn (motive := fun m => Memory.wf m = true) xs f hm fun m hm x _ => hf m x hm

theorem foldl_memWf {α : Type} {f : Workgroup → α → Workgroup} {xs : List α} {g : Workgroup} (hg : g.memWf = true)
    (hf : ∀ g x, Workgroup.memWf g = true → (f g x).memWf = true) : (xs.foldl f g).memWf = true :=
  List.foldlRecOn (motive := fun g => Workgroup.memWf g = true) xs f hg fun g hg x _ => hf g x hg

/-- Only device memory and the workgroups matter. -/
theorem State.MemInv.frame {s' : State} (h : s.MemInv) (hm : s'.mem = s.mem) (hw : s'.wgs = s.wgs) : s'.MemInv := by
  unfold State.MemInv at h ⊢; rwa [hm, hw]

theorem forall_mem_updWhere {α : Type} {P : α → Prop} {p : α → Bool} {f : α → α} {xs : List α}
    (h : ∀ x ∈ xs, P x) (hf : ∀ x, P x → P (f x)) : ∀ x ∈ updWhere p f xs, P x := by
  intro y hy
  obtain ⟨x, hx, rfl⟩ := List.mem_map.mp hy
  split
  · exact hf x (h x hx)
  · exact h x hx

theorem updWg_memInv {id f} (hs : s.MemInv) (hf : ∀ g, Workgroup.memWf g = true → (f g).memWf = true) :
    (updWg s id f).MemInv := ⟨hs.1, forall_mem_updWhere hs.2 hf⟩

theorem updWgs_memInv {p f} (hs : s.MemInv) (hf : ∀ g, Workgroup.memWf g = true → (f g).memWf = true) :
    (updWgs s p f).MemInv := ⟨hs.1, forall_mem_updWhere hs.2 hf⟩

theorem foldList_memInv {α : Type} {f : State → α → State} {xs : List α} (hs : s.MemInv)
    (hf : ∀ (s : State) (x : α), s.MemInv → (f s x).MemInv) : (foldList f s xs).MemInv := by
  induction xs generalizing s with
  | nil => exact hs
  | cons x xs ih => exact ih (hf s x hs)

theorem foldl_memInv {α : Type} {f : State → α → State} {xs : List α} (hs : s.MemInv)
    (hf : ∀ (s : State) (x : α), s.MemInv → (f s x).MemInv) : (xs.foldl f s).MemInv :=
  List.foldlRecOn xs f hs fun s hs x _ => hf s x hs

theorem foldl_fst_memInv {α β : Type} {f : State × β → α → State × β} {y : State × β} {xs : List α} (hy : y.1.MemInv)
    (hf : ∀ y x, y.1.MemInv → (f y x).1.MemInv) : (xs.foldl f y).1.MemInv :=
  List.foldlRecOn (motive := fun y => y.1.MemInv) xs f hy fun y hy x _ => hf y x hy

theorem getD_memInv {o : Option State} (ho : OptMemInv o) (hs : s.MemInv) : (o.getD s).MemInv := by
  cases ho with
  | some hs' => exact hs'
  | none => exact hs

/-- Workgroups that come join the others. -/
theorem State.MemInv.append {s' : State} {gs : List Workgroup} (hs : s.MemInv) (hg : ∀ g ∈ gs, g.memWf = true)
    (hm : s'.mem = s.mem) (hw : s'.wgs = s.wgs ++ gs) : s'.MemInv := by
  refine ⟨hm ▸ hs.1, fun g h => ?_⟩
  rcases List.mem_append.mp (hw ▸ h) with h | h
  · exact hs.2 g h
  · exact hg g h

theorem physWrite_memInv {pa bs} (hs : s.MemInv) : (physWrite s pa bs).MemInv := ⟨writeBytes_wf _ _ _ hs.1, hs.2⟩

/-! ### The state's own updates, the counters, the trace and the logs -/

theorem updLaunch_memInv {id f} (hs : s.MemInv) : (updLaunch s id f).MemInv := hs.frame rfl rfl
theorem updCtx_memInv {id f} (hs : s.MemInv) : (updCtx s id f).MemInv := hs.frame rfl rfl
theorem updVd_memInv {n f} (hs : s.MemInv) : (updVd s n f).MemInv := hs.frame rfl rfl
theorem updTenant_memInv {c f} (hs : s.MemInv) : (updTenant s c f).MemInv := hs.frame rfl rfl
theorem updQueue_memInv {ctx n f} (hs : s.MemInv) : (updQueue s ctx n f).MemInv := hs.frame rfl rfl
theorem updReq_memInv {id f} (hs : s.MemInv) : (updReq s id f).MemInv := hs.frame rfl rfl
theorem updCmd_memInv {id f} (hs : s.MemInv) : (updCmd s id f).MemInv := hs.frame rfl rfl
theorem updRecord_memInv {id f} (hs : s.MemInv) : (updRecord s id f).MemInv := hs.frame rfl rfl
theorem updSlot_memInv {k f} (hs : s.MemInv) : (updSlot s k f).MemInv := hs.frame rfl rfl
theorem updThread_memInv {wg tid f} (hs : s.MemInv) : (updThread s wg tid f).MemInv := hs.frame rfl rfl
theorem updThreads_memInv {p f} (hs : s.MemInv) : (updThreads s p f).MemInv := hs.frame rfl rfl
theorem setThread_memInv {t} (hs : s.MemInv) : (setThread s t).MemInv := updThread_memInv hs
theorem dropThread_memInv {wg tid} (hs : s.MemInv) : (dropThread s wg tid).MemInv := hs.frame rfl rfl
theorem addThread_memInv {t} (hs : s.MemInv) : (addThread s t).MemInv := hs.frame rfl rfl
theorem dropReq_memInv {id} (hs : s.MemInv) : (dropReq s id).MemInv := hs.frame rfl rfl
theorem emit_memInv {o} (hs : s.MemInv) : (emit s o).MemInv := hs.frame rfl rfl
theorem bumpId_memInv (hs : s.MemInv) : (bumpId s).MemInv := hs.frame rfl rfl
theorem bumpFree_memInv (hs : s.MemInv) : (bumpFree s).MemInv := hs.frame rfl rfl

theorem vwrite_memInv {ctx va bs} (hs : s.MemInv) : (vwrite s ctx va bs).MemInv := by
  unfold vwrite
  split
  · exact physWrite_memInv hs
  · exact hs

theorem vwriteSplit_memInv {ctx va bs} (hs : s.MemInv) : (vwriteSplit s ctx va bs).MemInv := by
  unfold vwriteSplit
  extract_lets n1 s1
  have hs1 : s1.MemInv := vwrite_memInv hs
  split
  · exact vwrite_memInv hs1
  · exact hs1

theorem ringPut_memInv {base index rlog prod drops bs} (hs : s.MemInv) :
    (ringPut s base index rlog prod drops bs).1.MemInv := by
  unfold ringPut
  split
  · exact physWrite_memInv hs
  · exact physWrite_memInv (physWrite_memInv hs)

theorem bumpCounter_memInv {ctx h idx n} (hs : s.MemInv) : (bumpCounter s ctx h idx n).MemInv := updCtx_memInv hs

theorem tracePut_memInv {ctx bs} (hs : s.MemInv) : (tracePut s ctx bs).MemInv := by
  unfold tracePut
  split
  · exact hs
  · split
    · exact hs
    · exact updCtx_memInv (ringPut_memInv hs)

theorem logAppend_memInv {r order ident bs} (hs : s.MemInv) : (logAppend s r order ident bs).MemInv := by
  unfold logAppend
  extract_lets cap hit upd s1
  have hupd (s r') (hs : State.MemInv s) : (upd s r').MemInv := hs.frame rfl rfl
  clear_value upd
  split
  · split
    · exact hupd _ _ (physWrite_memInv (physWrite_memInv hs))
    · split
      · exact hupd _ _ (physWrite_memInv (physWrite_memInv hs))
      · exact hupd _ _ hs
  · split
    · exact hupd _ _ (physWrite_memInv hs)
    · exact hupd _ _ hs

theorem logFor_memInv {launch order ident bs} (hs : s.MemInv) : (logFor s launch order ident bs).MemInv := by
  unfold logFor
  split
  · exact logAppend_memInv hs
  · exact hs

theorem logDispatch_memInv {g ord tid kind detail passed} (hs : s.MemInv) :
    (logDispatch s g ord tid kind detail passed).MemInv :=
  logFor_memInv hs

theorem sramLogged_memInv {t} (hs : s.MemInv) : (sramLogged s t).1.MemInv := by
  unfold sramLogged
  split
  · exact hs
  · exact logFor_memInv hs

theorem setCore_memInv {c} (hs : s.MemInv) : (setCore s c).MemInv := hs.frame rfl rfl
theorem fileThread_memInv {t origin pos} (hs : s.MemInv) : (fileThread s t origin pos).MemInv := setThread_memInv hs

theorem fileThreads_memInv {ts origin} (hs : s.MemInv) : (fileThreads s ts origin).MemInv :=
  foldList_memInv hs fun _ _ => fileThread_memInv

theorem freeSlot_memInv {k} (hs : s.MemInv) : (freeSlot s k).MemInv := hs.frame rfl rfl

theorem refillBins_memInv {c} (hs : s.MemInv) : (refillBins s c).MemInv := by
  unfold refillBins
  refine foldList_memInv hs fun _ _ hs' => ?_
  extract_lets bins
  split
  · exact setThread_memInv hs'
  · exact hs'

theorem releaseSlot_memInv {k} (hs : s.MemInv) : (releaseSlot s k).MemInv :=
  freeSlot_memInv (updThreads_memInv (fileThreads_memInv hs))

theorem settleSlot_memInv {k} (hs : s.MemInv) : (settleSlot s k).MemInv := by
  unfold settleSlot
  split
  · exact hs
  · split
    · exact freeSlot_memInv hs
    · exact updThreads_memInv hs

theorem splitSlot_memInv {k} (hs : s.MemInv) : (splitSlot s k).MemInv := by
  unfold splitSlot
  split
  · exact hs
  · split
    · exact updThreads_memInv hs
    · exact hs

theorem sampleCore_memInv {ctx clock h core} (hs : s.MemInv) : (sampleCore ctx clock h s core).MemInv :=
  bumpFree_memInv (bumpFree_memInv (tracePut_memInv (setCore_memInv hs)))

theorem takeSample_memInv {ctx} (hs : s.MemInv) : (takeSample s ctx).MemInv := by
  unfold takeSample
  split
  · exact hs
  · split
    · exact foldList_memInv (updCtx_memInv hs) fun _ _ hs' => foldList_memInv hs' fun _ _ => sampleCore_memInv
    · exact hs

theorem takeSamples_memInv {ctx} (hs : s.MemInv) : (takeSamples s ctx).MemInv :=
  foldl_memInv hs fun _ _ => takeSample_memInv

theorem traceEvent_memInv {g kind detail ord parent mask} (hs : s.MemInv) :
    (traceEvent s g kind detail ord parent mask).MemInv := by
  unfold traceEvent
  split
  · exact hs
  · split
    · exact hs
    · split
      · exact tracePut_memInv (takeSamples_memInv hs)
      · exact hs

theorem poolWrite_memInv {r} (hs : s.MemInv) : (poolWrite s r).MemInv := by
  unfold poolWrite
  split
  · split
    · exact vwriteSplit_memInv hs
    · exact hs
  · exact hs

theorem makeRoom_memInv {cluster need fuel} (hs : s.MemInv) : (makeRoom s cluster need fuel).MemInv := by
  induction fuel generalizing s with
  | zero => exact hs
  | succ fuel ih =>
    unfold makeRoom
    split
    · exact hs
    · split
      · exact hs
      · exact ih (updRecord_memInv (poolWrite_memInv hs))

theorem settleBuffer_memInv {cluster} (hs : s.MemInv) : (settleBuffer s cluster).MemInv := makeRoom_memInv hs

theorem bufferRecord_memInv {id} (hs : s.MemInv) : (bufferRecord s id).MemInv := by
  unfold bufferRecord
  split
  · exact hs
  · split
    · exact hs
    · exact updRecord_memInv (makeRoom_memInv hs)

theorem refillRecordBins_memInv {cluster} (hs : s.MemInv) : (refillRecordBins s cluster).MemInv := by
  unfold refillRecordBins
  refine foldList_memInv hs fun _ _ hs' => ?_
  extract_lets bins
  split
  · exact updRecord_memInv hs'
  · exact hs'

theorem wakeRecord_memInv {id} (hs : s.MemInv) : (wakeRecord s id).MemInv := by
  unfold wakeRecord
  split
  · exact hs
  · split
    · exact hs
    · extract_lets s1
      have hs1 : s1.MemInv := updRecord_memInv hs
      split
      · exact refillRecordBins_memInv (bufferRecord_memInv hs1)
      · exact hs1

theorem retest_memInv {p} (hs : s.MemInv) : (retest s p).MemInv := by
  unfold retest
  refine foldList_memInv hs fun _ _ hs' => ?_
  split
  · exact wakeRecord_memInv hs'
  · exact hs'

theorem retestHeld_memInv {p} (hs : s.MemInv) : (retestHeld s p).MemInv := by
  unfold retestHeld
  refine foldList_memInv hs fun _ _ hs' => ?_
  split
  · split
    · split
      · exact fileThread_memInv hs'
      · exact hs'
    · split
      · exact fileThread_memInv hs'
      · exact hs'
  · exact hs'

theorem retestWg_memInv {wg code} (hs : s.MemInv) : (retestWg s wg code).MemInv := retestHeld_memInv (retest_memInv hs)

theorem retestCtx_memInv {ctx code} (hs : s.MemInv) : (retestCtx s ctx code).MemInv :=
  retestHeld_memInv (retest_memInv hs)

theorem wakeOldest_memInv {wg ring q} (hs : s.MemInv) : (wakeOldest s wg ring q).MemInv := by
  unfold wakeOldest
  extract_lets waits s1
  have hs1 : s1.MemInv := by
    unfold s1
    split
    · exact wakeRecord_memInv hs
    · exact hs
  exact retestHeld_memInv hs1

theorem freeHandles_memInv {wg} (hs : s.MemInv) : (freeHandles s wg).MemInv := updWg_memInv hs fun _ hg => hg

theorem writeRecord_memInv {t e held slotless} (hs : s.MemInv) : (writeRecord s t e held slotless).MemInv := by
  unfold writeRecord
  split
  · exact dropThread_memInv hs
  · extract_lets th flt slot r s1 s2 s4
    have hs1 : s1.MemInv := makeRoom_memInv (dropThread_memInv hs)
    have hs4 : s4.MemInv := logDispatch_memInv (bumpId_memInv (hs1.frame rfl rfl))
    split
    · exact wakeRecord_memInv hs4
    · exact hs4

theorem holdThread_memInv {t e} (hs : s.MemInv) : (holdThread s t e).MemInv := by
  unfold holdThread
  extract_lets ctx s1 src s2 s3
  have hs1 : s1.MemInv := by
    unfold s1
    split
    · exact hs
    · exact emit_memInv (updLaunch_memInv hs)
  have hs2 : s2.MemInv := bumpId_memInv (setThread_memInv hs1)
  have hs3 : s3.MemInv := by
    unfold s3
    split
    · exact traceEvent_memInv hs2
    · exact hs2
  exact retestHeld_memInv hs3

theorem releaseHeld_memInv {ctx fuel} (hs : s.MemInv) : (releaseHeld s ctx fuel).MemInv := by
  induction fuel generalizing s with
  | zero => exact hs
  | succ fuel ih =>
    unfold releaseHeld
    extract_lets bare held
    split
    · exact ih (updRecord_memInv hs)
    · split
      · exact ih (writeRecord_memInv hs)
      · exact hs
    · exact hs

theorem endSegment_memInv {t e} (hs : s.MemInv) : (endSegment s t e).MemInv := by
  unfold endSegment
  split
  · exact setThread_memInv hs
  · split
    · exact holdThread_memInv hs
    · exact writeRecord_memInv hs

theorem countDiscard_memInv {wg n} (hs : s.MemInv) : (countDiscard s wg n).MemInv := updWg_memInv hs fun _ hg => hg

theorem discardAtLast_memInv {wg} (hs : s.MemInv) : (discardAtLast s wg).MemInv := by
  unfold discardAtLast
  extract_lets gone dead
  split
  · exact hs
  · split
    · exact countDiscard_memInv (hs.frame rfl rfl)
    · exact hs

theorem leaveThread_memInv {t} (hs : s.MemInv) : (leaveThread s t).MemInv :=
  discardAtLast_memInv (freeHandles_memInv (updWg_memInv (dropThread_memInv hs) fun _ hg => hg))

theorem beginExit_memInv {t} (hs : s.MemInv) : (beginExit s t).MemInv := by
  unfold beginExit
  split
  · exact leaveThread_memInv hs
  · exact setThread_memInv hs

theorem dropImages_memInv {p} (hs : s.MemInv) : (dropImages s p).MemInv :=
  ⟨foldl_wf hs.1 fun _ _ hm => clearRange_wf _ _ _ hm, hs.2⟩

theorem killWgs_memInv {launch} (hs : s.MemInv) : (killWgs s launch).MemInv := by
  unfold killWgs
  extract_lets ids homes kept s1 keys s2 s3 s4 s5 s6
  have hs1 : s1.MemInv := foldList_memInv hs fun _ _ => countDiscard_memInv
  have hs3 : s3.MemInv := foldList_memInv (hs1.frame rfl rfl) fun _ _ => refillBins_memInv
  have hs5 : s5.MemInv := dropImages_memInv (foldList_memInv hs3 fun _ _ => refillRecordBins_memInv)
  have hs6 : s6.MemInv := updWgs_memInv hs5 fun _ hg =>
    have ⟨_, hbtier, htiles, hrowNan⟩ := memWf_iff.mp hg
    memWf_of nil_wf hbtier htiles hrowNan
  exact updWgs_memInv hs6 fun _ hg => memWf_of (memWf_iff.mp hg).1 nil_wf nil_wf nil_wf

theorem killLaunch_memInv {launch status code} (hs : s.MemInv) : (killLaunch s launch status code).MemInv := by
  unfold killLaunch
  split
  · exact hs
  · split
    · exact hs
    · exact releaseHeld_memInv (killWgs_memInv (updLaunch_memInv hs))

theorem killCtx_memInv {ctx status} (hs : s.MemInv) : (killCtx s ctx status).MemInv := by
  unfold killCtx
  refine foldList_memInv hs fun _ _ hs' => ?_
  split
  · exact killLaunch_memInv hs'
  · exact hs'

theorem writeTrap_memInv {g bs} (hs : s.MemInv) : (writeTrap s g bs).MemInv := by
  unfold writeTrap
  extract_lets seq s1
  have hs1 : s1.MemInv := by
    unfold s1
    split
    · exact vwrite_memInv hs
    · exact hs
  exact updLaunch_memInv (updCtx_memInv hs1)

theorem dispatchTrap_memInv {g seq inTrap} (hs : s.MemInv) : (dispatchTrap s g seq inTrap).MemInv := by
  unfold dispatchTrap
  split
  · exact killLaunch_memInv hs
  · split
    · refine foldList_memInv hs fun _ _ hs' => ?_
      split
      · exact wakeRecord_memInv hs'
      · exact hs'
    · split
      · exact hs
      · exact killLaunch_memInv hs

theorem traceEndsAt_memInv {ts wake ord} (hs : s.MemInv) : (traceEndsAt s ts wake ord).MemInv := by
  unfold traceEndsAt
  split
  · exact hs
  · extract_lets ended
    split
    · exact traceEvent_memInv hs
    · exact hs

theorem traceEnds_memInv {ts wake} (hs : s.MemInv) : (traceEnds s ts wake).MemInv := by
  unfold traceEnds
  split
  · exact hs
  · exact traceEndsAt_memInv hs

theorem putTrap_memInv {g x} (hs : s.MemInv) : (putTrap s g x).MemInv := writeTrap_memInv hs

theorem takeTrap_memInv {affected cause code detail word} (hs : s.MemInv) :
    (takeTrap s affected cause code detail word).MemInv := by
  unfold takeTrap
  split
  · exact hs
  · split
    · exact hs
    · extract_lets x seq stepTrap s0 s1 s1' s12 s2 s3
      have hs0 : s0.MemInv := by
        unfold s0
        split
        · exact putTrap_memInv hs
        · exact updWg_memInv hs fun _ hg => hg
      have hs1 : s1.MemInv := traceEvent_memInv hs0
      have hs1' : s1'.MemInv := by
        unfold s1'
        split
        · exact traceEvent_memInv hs1
        · exact hs1
      have hs2 : s2.MemInv := foldList_memInv (traceEndsAt_memInv hs1') fun _ _ => endSegment_memInv
      have hs3 : s3.MemInv := by
        unfold s3
        split
        · exact emit_memInv hs2
        · split
          · exact dispatchTrap_memInv hs2
          · exact hs2
      split
      · exact settleSlot_memInv hs3
      · exact hs3

theorem numberTrap_memInv {wg tids seq} (hs : s.MemInv) : (numberTrap s wg tids seq).MemInv := hs.frame rfl rfl

theorem releaseTrap_memInv {wg x} (hs : s.MemInv) : (releaseTrap wg s x).MemInv := by
  unfold releaseTrap
  split
  · exact hs
  · extract_lets seq s1
    have hs1 : s1.MemInv := numberTrap_memInv (putTrap_memInv hs)
    split
    · exact hs1
    · exact dispatchTrap_memInv hs1

theorem workgroupTrap_memInv {g cause detail word} (hs : s.MemInv) : (workgroupTrap s g cause detail word).1.MemInv :=
  traceEvent_memInv (writeTrap_memInv hs)

theorem setQueue_memInv {q} (hs : s.MemInv) : (setQueue s q).MemInv := vwrite_memInv (updQueue_memInv hs)

theorem withQueue_memInv {ctx q f} (hs : s.MemInv) : (withQueue s ctx q f).MemInv := by
  unfold withQueue
  split
  · exact setQueue_memInv hs
  · exact hs

theorem stopWg_memInv {why id} (hs : s.MemInv) : (stopWg why s id).MemInv := by
  unfold stopWg
  split
  · exact hs
  · split
    · exact traceEvent_memInv (updWg_memInv hs fun _ hg => hg)
    · exact hs

theorem stopCtx_memInv {why ctx} (hs : s.MemInv) : (stopCtx why s ctx).MemInv := by
  unfold stopCtx
  split
  · exact hs
  · split
    · exact foldList_memInv (updCtx_memInv hs) fun _ _ => stopWg_memInv
    · exact hs

theorem freezeQueue_memInv {ctx q} (hs : s.MemInv) : (freezeQueue s ctx q).MemInv := emit_memInv (withQueue_memInv hs)

theorem freezeCtx_memInv {ctx} (hs : s.MemInv) : (freezeCtx s ctx).MemInv := by
  unfold freezeCtx
  split
  · exact hs
  · split
    · exact hs
    · exact stopCtx_memInv (emit_memInv (updCtx_memInv hs))

theorem freezeFor_memInv {ctx va n pa} (hs : s.MemInv) : OptMemInv (freezeFor s ctx va n pa) := by
  unfold freezeFor
  split
  · refine .some ?_
    split
    · exact hs
    · exact freezeQueue_memInv hs
  · split
    · exact .some (freezeCtx_memInv hs)
    · exact .none

theorem resumeWhere_memInv {p} (hs : s.MemInv) : (resumeWhere s p).MemInv := hs.frame rfl rfl
theorem resumeCmds_memInv {ctx} (hs : s.MemInv) : (resumeCmds s ctx).MemInv := resumeWhere_memInv hs
theorem resumeAccesses_memInv {p} (hs : s.MemInv) : (resumeAccesses s p).MemInv := resumeWhere_memInv hs

theorem settleOf_memInv {t} (hs : s.MemInv) : (settleOf s t).MemInv := by
  unfold settleOf
  split
  · exact settleSlot_memInv hs
  · exact hs

theorem settleThread_memInv {wg tid} (hs : s.MemInv) : (settleThread s wg tid).MemInv := by
  unfold settleThread
  split
  · exact hs
  · extract_lets src t1
    split
    · split
      · split
        · exact takeTrap_memInv hs
        · exact settleOf_memInv (leaveThread_memInv hs)
      · exact setThread_memInv hs
    · split
      · exact settleOf_memInv (endSegment_memInv (traceEndsAt_memInv hs))
      · exact setThread_memInv hs
    · exact setThread_memInv hs

theorem runThreads_memInv {body ts} (hbody : ∀ s t, State.MemInv s → (body s t).1.MemInv) (hs : s.MemInv) :
    (runThreads body s ts).1.MemInv := by
  induction ts generalizing s with
  | nil => exact hs
  | cons t ts ih => exact ih (hbody s t hs)

theorem applyGoing_memInv {len sw r} (hs : s.MemInv) : (applyGoing len sw s r).MemInv := by
  unfold applyGoing
  split <;> exact setThread_memInv hs

theorem applyLeaving_memInv {r} (hs : s.MemInv) : (applyLeaving s r).MemInv := by
  unfold applyLeaving
  split
  · split
    · exact endSegment_memInv hs
    · exact hs
  · split
    · exact beginExit_memInv hs
    · exact hs
  · exact hs

theorem settleTurn_memInv (hs : s.MemInv) : (settleTurn s).MemInv := by
  unfold settleTurn
  split
  · exact settleSlot_memInv hs
  · exact hs

theorem splitTurn_memInv (hs : s.MemInv) : (splitTurn s).MemInv := by
  unfold splitTurn
  split
  · exact splitSlot_memInv hs
  · exact hs

theorem applyFates_memInv {i sw rs} (hs : s.MemInv) : (applyFates i sw s rs).MemInv := by
  unfold applyFates
  extract_lets s1 s2 s3 s4
  have hs1 : s1.MemInv := foldList_memInv hs fun _ _ => applyGoing_memInv
  have hs2 : s2.MemInv := by
    unfold s2
    split
    · exact takeTrap_memInv hs1
    · exact hs1
  have hs4 : s4.MemInv :=
    foldList_memInv (foldList_memInv hs2 fun _ _ => traceEnds_memInv) fun _ _ => applyLeaving_memInv
  refine settleTurn_memInv ?_
  split
  · exact splitTurn_memInv hs4
  · exact hs4

theorem perThread_memInv {i sw} {body : State → Thread → State × Thread × Fate}
    (hbody : ∀ s t, s.MemInv → (body s t).1.MemInv) (hs : s.MemInv) :
    OutMemInv (perThread i sw body s) :=
  .next (applyFates_memInv (runThreads_memInv hbody hs))

theorem mapActive_memInv {len sw f} (hs : s.MemInv) : (mapActive len sw f s).MemInv := hs.frame rfl rfl

theorem withRole_memInv {ok} {body : State → Thread → State × Thread × Fate} {t}
    (hbody : ∀ s t, s.MemInv → (body s t).1.MemInv) (hs : s.MemInv) :
    (withRole ok body s t).1.MemInv := by
  unfold withRole
  split
  · exact hbody _ _ hs
  · exact hs

/-- A body that changes the thread alone. -/
theorem perThread_same_memInv {i sw ok} {f : State → Thread → Thread × Fate} (hs : s.MemInv) :
    OutMemInv (perThread i sw (withRole ok fun s t => (s, f s t)) s) :=
  perThread_memInv (fun _ _ => withRole_memInv fun _ _ hs' => hs') hs

theorem vectorOp_memInv {i sw f} (hs : s.MemInv) : OutMemInv (vectorOp i sw f s) := by
  unfold vectorOp
  split
  · exact .next (mapActive_memInv hs)
  · exact perThread_same_memInv hs

/-! ### Floating-point forms and the gang's frame -/

theorem countNan_memInv {launch n} (hs : s.MemInv) : (countNan s launch n).MemInv := updLaunch_memInv hs
theorem illegalAll_memInv {i} (hs : s.MemInv) : OutMemInv (illegalAll i s) := perThread_memInv (fun _ _ hs' => hs') hs

theorem cvtToThread_memInv {x f t} (hs : s.MemInv) : (cvtToThread x f s t).1.MemInv := by
  unfold cvtToThread
  extract_lets v put
  split
  · exact hs
  · split
    · exact countNan_memInv hs
    · exact hs

theorem cvtFromThread_memInv {x f t} (hs : s.MemInv) : (cvtFromThread x f s t).1.MemInv := by
  unfold cvtFromThread
  extract_lets b v put
  split
  · exact hs
  · split
    · exact countNan_memInv hs
    · exact hs

theorem cvtSlot_memInv {i x} {body : SlotWord → State → Thread → State × Thread × Fate}
    (hbody : ∀ x0 s t, s.MemInv → (body x0 s t).1.MemInv) (hs : s.MemInv) :
    OutMemInv (cvtSlot i x body s) := by
  unfold cvtSlot
  extract_lets f
  split
  · exact illegalAll_memInv hs
  · exact perThread_memInv (fun _ _ => withRole_memInv (fun _ _ => hbody _ _ _)) hs

theorem bfpqThread_memInv {x f} {s0 : State} {t} (hs : s.MemInv) : (bfpqThread x f s0 s t).1.MemInv := by
  unfold bfpqThread
  split
  · exact hs
  · extract_lets b i t1
    split
    · exact countNan_memInv hs
    · exact hs

theorem bfpdqThread_memInv {x f} {s0 : State} {t} (hs : s.MemInv) : (bfpdqThread x f s0 s t).1.MemInv := by
  unfold bfpdqThread
  split
  · exact hs
  · extract_lets v
    split
    · exact countNan_memInv hs
    · exact hs

theorem bfpGang_memInv {i x body} (hbody : ∀ f s0 s t, State.MemInv s → (body f s0 s t).1.MemInv) (hs : s.MemInv) :
    OutMemInv (bfpGang i x body s) := by
  unfold bfpGang
  extract_lets f
  split
  · exact illegalAll_memInv hs
  · exact perThread_memInv (fun _ _ => withRole_memInv (fun _ _ => hbody _ _ _ _)) hs

theorem execCvtTo_memInv {x} (hs : s.MemInv) : OutMemInv (execCvtTo x s) :=
  cvtSlot_memInv (fun _ _ _ => cvtToThread_memInv) hs

theorem execCvtFrom_memInv {x} (hs : s.MemInv) : OutMemInv (execCvtFrom x s) :=
  cvtSlot_memInv (fun _ _ _ => cvtFromThread_memInv) hs

theorem execBfpq_memInv {x} (hs : s.MemInv) : OutMemInv (execBfpq x s) :=
  bfpGang_memInv (fun _ _ _ _ => bfpqThread_memInv) hs

theorem execBfpdq_memInv {x} (hs : s.MemInv) : OutMemInv (execBfpdq x s) :=
  bfpGang_memInv (fun _ _ _ _ => bfpdqThread_memInv) hs

/-! ### Control: branches, gangs, ends of threads -/

theorem braThread_memInv {x t} (hs : s.MemInv) : (braThread x s t).1.MemInv := by
  unfold braThread
  split <;> exact hs

theorem transfer_memInv {target link t} (hs : s.MemInv) : (transfer target link s t).1.MemInv := by
  unfold transfer
  split <;> exact hs

theorem execBra_memInv {x} (hs : s.MemInv) : OutMemInv (execBra x s) :=
  perThread_memInv (fun _ _ => braThread_memInv) hs

theorem execJmp_memInv {x} (hs : s.MemInv) : OutMemInv (execJmp x s) :=
  perThread_memInv (fun _ _ => transfer_memInv) hs

theorem execCall_memInv {x} (hs : s.MemInv) : OutMemInv (execCall x s) := by
  unfold execCall
  refine perThread_memInv (fun _ _ hs' => ?_) hs
  split
  · exact transfer_memInv hs'
  · exact hs'

theorem execRet_memInv {x} (hs : s.MemInv) : OutMemInv (execRet x s) :=
  perThread_memInv (fun _ _ => transfer_memInv) hs

theorem execReform_memInv {x} (hs : s.MemInv) : OutMemInv (execReform x s) := by
  unfold execReform
  split
  · exact .next (releaseSlot_memInv (mapActive_memInv hs))
  · exact .next (mapActive_memInv hs)

theorem execAwaitRing_memInv {x} (hs : s.MemInv) : OutMemInv (execAwaitRing x s) := by
  unfold execAwaitRing
  refine perThread_memInv (fun _ _ hs' => ?_) hs
  extract_lets n
  split <;> exact hs'

theorem farCheck_memInv {body : State → Thread → State × Thread × Fate} {t}
    (hbody : ∀ s t, s.MemInv → (body s t).1.MemInv) (hs : s.MemInv) :
    (farCheck body s t).1.MemInv := by
  unfold farCheck
  split
  · exact hs
  · exact hbody _ _ hs

theorem execAwaitFar_memInv {x} (hs : s.MemInv) : OutMemInv (execAwaitFar x s) :=
  perThread_memInv (fun _ _ => farCheck_memInv (fun _ _ hs2 => hs2)) hs

theorem execAwaitGd_memInv {x} (hs : s.MemInv) : OutMemInv (execAwaitGd x s) := by
  unfold execAwaitGd
  refine perThread_memInv (fun _ _ hs' => ?_) hs
  split <;> exact hs'

theorem execAwaitTmr_memInv {x} (hs : s.MemInv) : OutMemInv (execAwaitTmr x s) :=
  perThread_memInv (fun _ _ hs' => hs') hs

theorem execExit_memInv {x} (hs : s.MemInv) : OutMemInv (execExit x s) :=
  perThread_memInv (fun _ _ => farCheck_memInv (fun _ _ hs2 => hs2)) hs

theorem execAbort_memInv {x} (hs : s.MemInv) : OutMemInv (execAbort x s) := by
  unfold execAbort
  split
  · exact .next hs
  · exact .next (killLaunch_memInv hs)

theorem collective_memInv {i sw ok n f} (hs : s.MemInv) : OutMemInv (collective i sw ok n f s) := by
  unfold collective
  extract_lets bad
  split
  · exact .next (applyFates_memInv hs)
  · split
    · exact .next (mapActive_memInv hs)
    · exact .next (settleTurn_memInv (fileThreads_memInv hs))

theorem vote_memInv {i x f} (hs : s.MemInv) : OutMemInv (vote i x f s) := collective_memInv hs
theorem shuffle_memInv {i x lane} (hs : s.MemInv) : OutMemInv (shuffle i x lane s) := collective_memInv hs
theorem gred_memInv {i x ok f} (hs : s.MemInv) : OutMemInv (gred i x ok f s) := collective_memInv hs
theorem gscan_memInv {i x ok f ident} (hs : s.MemInv) : OutMemInv (gscan i x ok f ident s) := collective_memInv hs
theorem execTrap_memInv {x} (hs : s.MemInv) : OutMemInv (execTrap x s) := perThread_memInv (fun _ _ hs' => hs') hs

theorem haltThreads_memInv {ts} (hs : s.MemInv) : (haltThreads s ts).MemInv := by
  unfold haltThreads
  split
  · exact hs
  · extract_lets wgid s0 s1
    have hs0 : s0.MemInv := by
      unfold s0
      split
      · exact traceEvent_memInv (traceEnds_memInv hs)
      · exact hs
    exact settleTurn_memInv (emit_memInv (foldList_memInv hs0 fun _ _ => endSegment_memInv))

theorem execBrk_memInv {x} (hs : s.MemInv) : OutMemInv (execBrk x s) := by
  unfold execBrk
  split
  · exact .next hs
  · split
    · exact perThread_memInv (fun _ _ hs' => hs') hs
    · split
      · exact .next (haltThreads_memInv (updThreads_memInv hs))
      · exact perThread_memInv (fun _ _ hs' => hs') hs

theorem setGuard_memInv {wg n v} (hs : s.MemInv) : (setGuard s wg n v).MemInv := updWg_memInv hs fun _ hg => hg

theorem guardResolve_memInv {wg n v} (hs : s.MemInv) : (guardResolve s wg n v).MemInv := by
  unfold guardResolve
  split
  · extract_lets s1 s2
    have hs1 : s1.MemInv := setGuard_memInv hs
    exact retestWg_memInv (hs1.frame rfl rfl)
  · exact hs

theorem execGdarm_memInv {x} (hs : s.MemInv) : OutMemInv (execGdarm x s) :=
  perThread_memInv (fun _ _ hs' => setGuard_memInv (sramLogged_memInv hs')) hs

theorem execGdset_memInv {x} (hs : s.MemInv) : OutMemInv (execGdset x s) :=
  perThread_memInv (fun _ _ hs' => guardResolve_memInv (sramLogged_memInv hs')) hs

/-! ### Pages -/

theorem raiseCount_memInv {c r} (hs : s.MemInv) : (raiseCount s c r).MemInv := by
  unfold raiseCount
  split
  · exact physWrite_memInv hs
  · exact hs

theorem requestPage_memInv {ctx cluster va far} (hs : s.MemInv) : (requestPage s ctx cluster va far).MemInv := by
  unfold requestPage
  extract_lets pva kind s1
  have hs1 : s1.MemInv := by
    unfold s1
    split
    · exact hs
    · split
      · exact updCtx_memInv hs
      · split
        · exact hs
        · exact updCtx_memInv (raiseCount_memInv hs)
  exact hs1.frame rfl rfl

/-! ### Caches -/

theorem sendReq_memInv {r} (hs : s.MemInv) : (sendReq s r).MemInv := bumpId_memInv (hs.frame rfl rfl)
theorem sendCounted_memInv {r} (hs : s.MemInv) : (sendCounted s r).MemInv := bumpCounter_memInv (sendReq_memInv hs)
theorem setLine_memInv {l} (hs : s.MemInv) : (setLine s l).MemInv := hs.frame rfl rfl
theorem dropLine_memInv {l} (hs : s.MemInv) : (dropLine s l).MemInv := hs.frame rfl rfl
theorem stopFills_memInv {h p} (hs : s.MemInv) : (stopFills s h p).MemInv := hs.frame rfl rfl
theorem stopInstall_memInv {h pline} (hs : s.MemInv) : (stopInstall s h pline).MemInv := stopFills_memInv hs

theorem writeBackSectors_memInv {p l ctx wg tid} (hs : s.MemInv) : (writeBackSectors s p l ctx wg tid).1.MemInv := by
  unfold writeBackSectors
  extract_lets bytes n s1 r
  split
  · exact hs
  · exact bumpCounter_memInv (sendCounted_memInv (setLine_memInv (stopInstall_memInv hs)))

theorem writeBackLine_memInv {l ctx wg tid} (hs : s.MemInv) : (writeBackLine s l ctx wg tid).1.MemInv :=
  writeBackSectors_memInv hs

theorem invalidateLine_memInv {l ctx wg tid} (hs : s.MemInv) : (invalidateLine s l ctx wg tid).1.MemInv :=
  dropLine_memInv (stopInstall_memInv (writeBackLine_memInv hs))

theorem overLines_memInv {act ls} (hact : ∀ s l, State.MemInv s → (act s l).1.MemInv) (hs : s.MemInv) :
    (overLines act s ls).1.MemInv := by
  induction ls generalizing s with
  | nil => exact hs
  | cons l ls ih => exact ih (hact s l hs)

theorem freeWay_memInv {h vline ways ctx wg} (hs : s.MemInv) : (freeWay s h vline ways ctx wg).1.MemInv := by
  unfold freeWay
  extract_lets set
  split
  · exact hs
  · split
    · exact invalidateLine_memInv hs
    · exact hs

theorem allocLine_memInv {h ctx wg va pa ways} (hs : s.MemInv) : (allocLine s h ctx wg va pa ways).1.MemInv := by
  unfold allocLine
  extract_lets asid r l src
  have hr : r.1.MemInv := freeWay_memInv hs
  split
  · exact hs
  · split
    · exact bumpCounter_memInv (setLine_memInv hs)
    · exact hr.frame rfl rfl

theorem l1Store_memInv {h ctx wg va pa ways bs} (hs : s.MemInv) : (l1Store s h ctx wg va pa ways bs).MemInv :=
  setLine_memInv (allocLine_memInv hs)

theorem l1Fill_memInv {h ctx wg va pa ways z fwd bs} (hs : s.MemInv) : (l1Fill s h ctx wg va pa ways z fwd bs).MemInv :=
  setLine_memInv (allocLine_memInv hs)

theorem releaseObject_memInv {l g tid obj} (hs : s.MemInv) : (releaseObject s l g tid obj).1.MemInv :=
  overLines_memInv (fun _ _ => writeBackLine_memInv) hs

theorem acquireObject_memInv {l g tid obj} (hs : s.MemInv) : (acquireObject s l g tid obj).MemInv :=
  stopFills_memInv (overLines_memInv (fun _ _ => invalidateLine_memInv) hs)

theorem acquireFor_memInv {t obj} (hs : s.MemInv) : (acquireFor s t obj).MemInv := by
  unfold acquireFor
  split
  · exact acquireObject_memInv hs
  · exact hs

theorem startWalk_memInv {h ctx va} (hs : s.MemInv) : (startWalk s h ctx va).MemInv := by
  unfold startWalk
  extract_lets asid w
  split
  · exact hs
  · exact bumpCounter_memInv (hs.frame rfl rfl)

theorem dropWalks_memInv {cluster asid vas} (hs : s.MemInv) : (dropWalks s cluster asid vas).MemInv := hs.frame rfl rfl

theorem askPage_memInv {cluster asid va} (hs : s.MemInv) : (askPage s cluster asid va).MemInv := by
  unfold askPage
  split
  · split
    · exact requestPage_memInv hs
    · exact hs
  · exact hs

theorem useWalks_memInv {cluster asid vas} (hs : s.MemInv) : (useWalks s cluster asid vas).MemInv :=
  dropWalks_memInv (foldList_memInv hs fun _ _ => askPage_memInv)

theorem probeGang_memInv {h ctx vas} (hs : s.MemInv) : OptMemInv (probeGang s h ctx vas) := by
  unfold probeGang
  extract_lets waits
  split
  · exact .none
  · exact .some (foldList_memInv hs fun _ _ => startWalk_memInv)

/-! ### Loads, stores, atomics and maintenance -/

theorem deniedStore_memInv {g a} (hs : s.MemInv) : (deniedStore s g a).MemInv := by
  unfold deniedStore
  split
  · exact getD_memInv (freezeFor_memInv hs) hs
  · exact hs

theorem probedWith_memInv {use i sw ok addrs body} (huse : ∀ s x y z, State.MemInv s → (use s x y z).MemInv)
    (hbody : ∀ s t, State.MemInv s → (body s t).1.MemInv) (hs : s.MemInv) :
    OutMemInv (probedWith use i sw ok addrs body s) := by
  unfold probedWith
  split
  · exact .next hs
  · extract_lets vas
    split
    next e => exact .next ((probeGang_memInv hs).of_eq_some e)
    next =>
      exact .next (huse _ _ _ _ (applyFates_memInv (runThreads_memInv (fun _ _ => withRole_memInv hbody) hs)))

theorem probedGang_memInv {i sw ok addrs} {body : State → Thread → State × Thread × Fate}
    (hbody : ∀ s t, s.MemInv → (body s t).1.MemInv) (hs : s.MemInv) :
    OutMemInv (probedGang i sw ok addrs body s) :=
  probedWith_memInv (fun _ _ _ _ => useWalks_memInv) hbody hs

theorem globalLoad_memInv {t l g k dst va pa} (hs : s.MemInv) : (globalLoad s t l g k dst va pa).1.MemInv := by
  unfold globalLoad
  split
  · exact hs
  · extract_lets base hit got s1 fwd peer r s1'
    have hs1 : s1.MemInv := hs.frame rfl rfl
    have hs1' : s1'.MemInv := bumpCounter_memInv (stopInstall_memInv hs)
    split
    · exact sendCounted_memInv hs
    · split
      · exact bumpCounter_memInv hs1
      · clear_value fwd peer
        split
        · exact bumpCounter_memInv (sendCounted_memInv hs1')
        · exact sendCounted_memInv hs1'

theorem sendFar_memInv {t g a op} (hs : s.MemInv) : (sendFar s t g a op).MemInv := by
  unfold sendFar
  extract_lets d src r
  split
  · exact sendCounted_memInv hs
  · split
    · exact sendCounted_memInv hs
    · exact emit_memInv (sendCounted_memInv hs)

theorem farReplyPass_memInv {stop a op ok writes g t} (hs : s.MemInv) :
    (farReplyPass stop a op ok writes g s t).1.MemInv := by
  unfold farReplyPass
  split
  · split <;> exact hs
  · split
    · exact hs
    · split
      · exact hs
      · exact sendFar_memInv hs

theorem farGroupPass_memInv {stop a op ok g t} (hs : s.MemInv) : (farGroupPass stop a op ok g s t).1.MemInv := by
  unfold farGroupPass
  split
  · exact hs
  · split
    · exact hs
    · exact sendFar_memInv hs

theorem loadAt_memInv {word stop sp k dst a t} (hs : s.MemInv) : (loadAt word stop sp k dst a s t).1.MemInv := by
  unfold loadAt
  split
  · exact hs
  · extract_lets ok m src
    split
    · exact farReplyPass_memInv hs
    · split <;> exact hs
    · split
      · exact hs
      · split
        · exact hs
        · exact sendCounted_memInv hs
    · split
      · exact hs
      · split
        · exact hs
        · exact globalLoad_memInv hs

theorem globalStore_memInv {t l g va pa bs} (hs : s.MemInv) : (globalStore s t l g va pa bs).MemInv := by
  unfold globalStore
  split
  · exact sendCounted_memInv hs
  · exact l1Store_memInv hs

theorem scratchWrite_memInv {wg off bs} (hs : s.MemInv) : (scratchWrite s wg off bs).MemInv :=
  updWg_memInv hs fun _ hg =>
    have ⟨hscratch, hbtier, htiles, hrowNan⟩ := memWf_iff.mp hg
    memWf_of (writeBytes_wf _ _ _ hscratch) hbtier htiles hrowNan

theorem storeAt_memInv {word stop sp a bs t} (hs : s.MemInv) : (storeAt word stop sp a bs s t).1.MemInv := by
  unfold storeAt
  split
  · exact hs
  · extract_lets ok m src
    split
    · exact farGroupPass_memInv hs
    · split
      · exact hs
      · exact scratchWrite_memInv hs
    · split
      · exact hs
      · split
        · exact scratchWrite_memInv hs
        · exact sendCounted_memInv hs
    · split
      · exact hs
      · split
        · exact deniedStore_memInv hs
        · exact globalStore_memInv hs

theorem execLd_memInv {x} (hs : s.MemInv) : OutMemInv (execLd x s) :=
  probedGang_memInv (fun _ _ => loadAt_memInv) hs

theorem execSt_memInv {x} (hs : s.MemInv) : OutMemInv (execSt x s) :=
  probedGang_memInv (fun _ _ => storeAt_memInv) hs

theorem execLdk_memInv {x} (hs : s.MemInv) : OutMemInv (execLdk x s) :=
  probedGang_memInv (fun _ _ => loadAt_memInv) hs

theorem execStk_memInv {x} (hs : s.MemInv) : OutMemInv (execStk x s) :=
  probedGang_memInv (fun _ _ => storeAt_memInv) hs

theorem sectorOut_memInv {g tid va pa} (hs : s.MemInv) : (sectorOut s g tid va pa).MemInv := by
  unfold sectorOut
  extract_lets s0 p
  have hs0 : s0.MemInv := stopInstall_memInv hs
  split
  · exact hs0
  · extract_lets s1
    have hs1 : s1.MemInv := writeBackSectors_memInv hs0
    split
    · exact hs1
    · exact setLine_memInv hs1

theorem releaseBefore_memInv {t l g obj on} (hs : s.MemInv) : (releaseBefore s t l g obj on).1.MemInv := by
  unfold releaseBefore
  split
  · exact releaseObject_memInv hs
  · exact hs

theorem atomAt_memInv {word x xf op a operand t} (hs : s.MemInv) : (atomAt word x xf op a operand s t).1.MemInv := by
  unfold atomAt
  split
  · exact hs
  · extract_lets align ok fop bound acq
    split
    · split
      · exact farReplyPass_memInv hs
      · exact farGroupPass_memInv hs
    · split
      · exact hs
      · split
        · exact deniedStore_memInv hs
        · exact sendCounted_memInv (releaseBefore_memInv (sectorOut_memInv hs))

theorem atomGang_memInv {i x xf op} (hs : s.MemInv) : OutMemInv (atomGang i x xf op s) :=
  probedGang_memInv (fun _ _ => atomAt_memInv) hs

/-! ### Barriers, rings and waits -/

theorem stallUnless_memInv {ready} {go : State → Host.Outcome State Fault Refusal}
    (hgo : ∀ s, s.MemInv → OutMemInv (go s)) (hs : s.MemInv) :
    OutMemInv (stallUnless ready go s) := by
  unfold stallUnless
  split
  · exact hgo _ hs
  · exact .next hs

theorem relThread_memInv {a t} (hs : s.MemInv) : (relThread a s t).1.MemInv := by
  unfold relThread
  split
  · exact hs
  · exact releaseObject_memInv hs

theorem acqThread_memInv {a t} (hs : s.MemInv) : (acqThread a s t).1.MemInv := acquireFor_memInv hs

theorem execAcq_memInv {x} (hs : s.MemInv) : OutMemInv (execAcq x s) :=
  stallUnless_memInv (fun _ => perThread_memInv (fun _ _ => acqThread_memInv)) hs

theorem execRel_memInv {x} (hs : s.MemInv) : OutMemInv (execRel x s) :=
  stallUnless_memInv (fun _ hs' => perThread_memInv (fun _ _ => farCheck_memInv (fun _ _ => relThread_memInv)) hs') hs

theorem execAcqrel_memInv {x} (hs : s.MemInv) : OutMemInv (execAcqrel x s) :=
  stallUnless_memInv (fun _ hs' => perThread_memInv (fun _ _ hs2 => farCheck_memInv (fun _ _ hs3 => acqThread_memInv
    (relThread_memInv hs3)) hs2) hs') hs

theorem execFence_memInv {x} (hs : s.MemInv) : OutMemInv (execFence x s) := by
  unfold execFence
  refine stallUnless_memInv (fun _ => perThread_memInv fun _ _ hs2 => ?_) hs
  split
  · exact farCheck_memInv (fun _ _ hs3 => hs3) hs2
  · exact hs2

theorem rangeOp_memInv {i x drops} {act : Workgroup → Nat → State → L1Line → State × List Nat}
    (hact : ∀ x0 x1 s x3, s.MemInv → (act x0 x1 s x3).1.MemInv) (hs : s.MemInv) :
    OutMemInv (rangeOp i x drops act s) := by
  unfold rangeOp
  refine perThread_memInv (fun _ _ hs' => ?_) hs
  split
  · exact hs'
  · extract_lets before r s1
    have hr : r.1.MemInv := overLines_memInv (fun _ _ hs2 => hact _ _ _ _ hs2) hs'
    have hs1 : s1.MemInv := by
      unfold s1
      split
      · exact stopFills_memInv hr
      · exact hr
    exact hs1

theorem execCinv_memInv {x} (hs : s.MemInv) : OutMemInv (execCinv x s) :=
  rangeOp_memInv (fun _ _ _ _ => invalidateLine_memInv) hs

theorem execCwb_memInv {x} (hs : s.MemInv) : OutMemInv (execCwb x s) :=
  rangeOp_memInv (fun _ _ _ _ => writeBackLine_memInv) hs

theorem pfThread_memInv {x t} (hs : s.MemInv) : (pfThread x s t).1.MemInv := by
  unfold pfThread
  extract_lets a
  split
  · exact hs
  · split
    · exact sendCounted_memInv hs
    · exact hs

theorem execPf_memInv {x} (hs : s.MemInv) : OutMemInv (execPf x s) :=
  probedWith_memInv (fun _ _ _ _ => dropWalks_memInv) (fun _ _ => pfThread_memInv) hs

theorem BarSpec.send_memInv {b stop t} (hs : s.MemInv) : (BarSpec.send b stop s t).MemInv := by
  unfold BarSpec.send
  split
  · exact hs
  · split
    · exact hs
    · split
      · exact hs
      · extract_lets goes
        split
        · exact updThread_memInv (sendReq_memInv (releaseBefore_memInv hs))
        · split
          · split
            · exact updThread_memInv (sendCounted_memInv (releaseBefore_memInv hs))
            · exact hs
          · exact hs

theorem BarSpec.finish_memInv {b stop r t} (hs : s.MemInv) : (BarSpec.finish b stop r s t).1.MemInv := by
  unfold BarSpec.finish
  split
  · exact hs
  · split
    · split
      · exact acquireFor_memInv hs
      · exact hs
    · split
      · extract_lets ph
        split
        · exact acquireFor_memInv hs
        · exact hs
      · exact hs

theorem wakeBar_memInv {wg ctx glb} (hs : s.MemInv) : (wakeBar s wg ctx glb).MemInv := by
  unfold wakeBar
  split
  · exact retestCtx_memInv hs
  · exact retestWg_memInv hs

theorem scratchChange_memInv {fn operand out off t} (hs : s.MemInv) :
    (scratchChange fn operand out off s t).1.MemInv := by
  unfold scratchChange
  split
  · exact hs
  · extract_lets b res
    split
    · exact hs
    · split
      · exact hs
      · exact wakeBar_memInv (sramLogged_memInv (scratchWrite_memInv hs))

theorem BarSpec.thread_memInv {b word stop t} (hs : s.MemInv) : (BarSpec.thread b word stop s t).1.MemInv := by
  unfold BarSpec.thread
  split
  · extract_lets s1 r
    have hs1 : s1.MemInv := dropReq_memInv hs
    split
    · exact BarSpec.finish_memInv hs1
    · exact BarSpec.finish_memInv (scratchChange_memInv hs1)
  · split
    · exact hs
    · split
      · exact hs
      · split
        · split
          · exact hs
          · split
            · split <;> exact hs
            · split
              · exact deniedStore_memInv hs
              · exact hs
        · exact BarSpec.finish_memInv (scratchChange_memInv hs)

theorem barGang_memInv {i m b} (hs : s.MemInv) : OutMemInv (barGang i m b s) := by
  unfold barGang
  split
  · exact .next hs
  · extract_lets vas s1
    split
    next e => exact .next ((probeGang_memInv hs).of_eq_some e)
    next =>
      have hs1 : s1.MemInv := foldList_memInv hs fun _ _ => BarSpec.send_memInv
      have ho := perThread_memInv (i := i) (sw := m.sw) (body := fun s t => b.thread (wordOf i) m.stop s t)
        (fun _ _ => BarSpec.thread_memInv) hs1
      split
      · exact .next hs1
      · split
        next e => exact .next (useWalks_memInv (ho.of_eq_next e))
        next => exact ho

theorem acquireIngress_memInv {t r} (hs : s.MemInv) : (acquireIngress s t r).MemInv := by
  unfold acquireIngress
  split
  · exact hs
  · exact stopFills_memInv (overLines_memInv (fun _ _ => invalidateLine_memInv) hs)

theorem execAwaitIng_memInv {x} (hs : s.MemInv) : OutMemInv (execAwaitIng x s) := by
  unfold execAwaitIng
  refine perThread_memInv (fun _ _ hs' => ?_) hs
  extract_lets n
  split
  · exact hs'
  · split
    · exact acquireIngress_memInv hs'
    · exact hs'

theorem setRing_memInv {wg r} (hs : s.MemInv) : (setRing s wg r).MemInv := updWg_memInv hs fun _ hg => hg

theorem ringDone_memInv {t r} {after : State → State} {f} (hs : s.MemInv) (hafter : ∀ s, s.MemInv → (after s).MemInv) :
    (ringDone s t r after f).1.MemInv :=
  hafter _ (sramLogged_memInv (setRing_memInv hs))

theorem ringGang_memInv {i sw n} {body : Ring → State → Thread → State × Thread × Fate}
    (hbody : ∀ x0 s t, s.MemInv → (body x0 s t).1.MemInv) (hs : s.MemInv) :
    OutMemInv (ringGang i sw n body s) := by
  unfold ringGang
  refine perThread_memInv (fun _ _ hs' => ?_) hs
  split
  · exact hs'
  · exact hbody _ _ _ hs'

theorem execRinit_memInv {x} (hs : s.MemInv) : OutMemInv (execRinit x s) :=
  ringGang_memInv (fun _ _ _ hs' => ringDone_memInv hs' fun _ hs2 => retestHeld_memInv (retest_memInv hs2)) hs

theorem execRpush_memInv {x} (hs : s.MemInv) : OutMemInv (execRpush x s) := by
  unfold execRpush
  refine ringGang_memInv (fun _ _ _ hs' => ?_) hs
  extract_lets ws mine r1
  split
  · exact ringDone_memInv hs' fun _ hs2 => hs2
  · split
    · exact hs'
    · refine ringDone_memInv hs' fun _ hs2 => ?_
      extract_lets s1
      have hs1 : s1.MemInv := wakeOldest_memInv hs2
      split
      · exact wakeOldest_memInv hs1
      · exact hs1

theorem wakeAfterPop_memInv {r wg} (hs : s.MemInv) : (wakeAfterPop r wg s).MemInv := by
  unfold wakeAfterPop
  extract_lets s1
  have hs1 : s1.MemInv := by
    unfold s1
    split
    · exact wakeOldest_memInv hs
    · exact hs
  split
  · exact hs1
  · exact wakeOldest_memInv hs1

theorem execRpop_memInv {x} (hs : s.MemInv) : OutMemInv (execRpop x s) := by
  unfold execRpop
  refine ringGang_memInv (fun _ _ _ hs' => ?_) hs
  split
  · exact hs'
  · exact ringDone_memInv hs' fun _ => wakeAfterPop_memInv

theorem execRpeek_memInv {x} (hs : s.MemInv) : OutMemInv (execRpeek x s) :=
  ringGang_memInv (fun _ _ _ hs' => ringDone_memInv hs' fun _ hs2 => hs2) hs

/-! ### Logged operations at the replay -/

theorem replayAdvance_memInv {launch order ident n} (hs : s.MemInv) : (replayAdvance s launch order ident n).MemInv :=
  hs.frame rfl rfl

theorem opUsed_memInv {launch entry} (hs : s.MemInv) : (opUsed s launch entry).MemInv := by
  unfold opUsed
  split
  · split
    · exact replayAdvance_memInv hs
    · exact hs
  · exact hs

theorem startUsed_memInv {launch vcluster wgid tid kind ord} (hs : s.MemInv) :
    (startUsed s launch vcluster wgid tid kind ord).MemInv := by
  unfold startUsed
  split
  · exact hs
  · split
    · extract_lets s1
      have hs1 : s1.MemInv := replayAdvance_memInv hs
      split
      · exact hs1
      · exact hs1.frame rfl rfl
    · exact hs

/-! ### Error counts -/

theorem countError_memInv {block idx n} (hs : s.MemInv) : (countError s block idx n).MemInv := hs.frame rfl rfl
theorem commitCounts_memInv (hs : s.MemInv) : (commitCounts s).MemInv := hs.frame rfl rfl

theorem logError_memInv {code unc retires rood sub addr} (hs : s.MemInv) :
    (logError s code unc retires rood sub addr).MemInv := by
  unfold logError
  extract_lets hit
  split <;> exact hs.frame rfl rfl

theorem remember_memInv {p unc tag n} (hs : s.MemInv) : (remember s p unc tag n).MemInv := by
  unfold remember
  split
  · exact hs.frame rfl rfl
  · exact hs

theorem countData_memInv {launch n} (hs : s.MemInv) : (countData s launch n).MemInv := updLaunch_memInv hs

theorem diverge_memInv {r reason ordinal} (hs : s.MemInv) : (diverge s r reason ordinal).MemInv := by
  unfold diverge
  extract_lets s1 s2
  have hs1 : s1.MemInv := hs.frame rfl rfl
  have hs2 : s2.MemInv := by
    unfold s2
    split
    · exact killLaunch_memInv hs1
    · exact hs1
  exact emit_memInv hs2

theorem uncorrectable_memInv {launch p ordinal} (hs : s.MemInv) : (uncorrectable s launch p ordinal).MemInv := by
  unfold uncorrectable
  extract_lets s1 s1' s2
  have hs2 : s2.MemInv := logError_memInv (remember_memInv (commitCounts_memInv (countError_memInv hs)))
  split
  · exact hs2
  · extract_lets s3
    have hs3 : s3.MemInv := countData_memInv hs2
    split
    · exact diverge_memInv hs3
    · exact hs3

theorem updOwner_memInv {wg tid f} (hs : s.MemInv) : (updOwner s wg tid f).MemInv := by
  unfold updOwner
  extract_lets src
  have hsrc : src.MemInv := updThread_memInv hs
  exact hsrc.frame rfl rfl

theorem markData_memInv {wg tid ends} (hs : s.MemInv) : (markData s wg tid ends).MemInv := by
  unfold markData
  extract_lets src
  have hsrc : src.MemInv := updThread_memInv hs
  exact hsrc.frame rfl rfl

theorem threadError_memInv {wg tid p} (hs : s.MemInv) : (threadError s wg tid p).MemInv :=
  uncorrectable_memInv (markData_memInv hs)

theorem poisonMet_memInv {ctx wg tid us} (hs : s.MemInv) : (poisonMet s ctx wg tid us).MemInv :=
  foldList_memInv hs fun _ _ => threadError_memInv

theorem readMet_memInv {ctx us} (hs : s.MemInv) : (readMet s ctx us).MemInv :=
  foldList_memInv hs fun _ _ => uncorrectable_memInv

theorem vreadMet_memInv {ctx va n} (hs : s.MemInv) : (vreadMet s ctx va n).MemInv := by
  unfold vreadMet
  split
  · exact readMet_memInv hs
  · exact hs

theorem poisonUnit_memInv {u} (hs : s.MemInv) : (poisonUnit s u).MemInv := by
  unfold poisonUnit
  split
  · exact hs
  · exact hs.frame rfl rfl

/-! ### Engine instructions -/

theorem setQueueProbe_memInv {wg x} (hs : s.MemInv) : (setQueueProbe s wg x).MemInv := updWg_memInv hs fun _ hg => hg

theorem enterCmd_memInv {l g tid p reserve own} (hs : s.MemInv) : (enterCmd s l g tid p reserve own).MemInv :=
  updWg_memInv (bumpId_memInv (hs.frame rfl rfl)) fun _ hg => hg

theorem tryPush_memInv {s' : State} {l g tid p} (hs : s.MemInv) (e : tryPush s l g tid p = .ok s') : s'.MemInv := by
  unfold tryPush at e
  extract_lets qs res s1 at e
  have hs1 : s1.MemInv := foldList_memInv hs fun _ _ => setQueueProbe_memInv
  split at e
  · exact nomatch e
  · cases e
    exact enterCmd_memInv hs1

theorem markStall_memInv {qs} (hs : s.MemInv) : (markStall s qs).MemInv := by
  unfold markStall
  split
  · exact hs
  · exact updSlot_memInv hs

theorem clearStall_memInv (hs : s.MemInv) : (clearStall s).MemInv := by
  unfold clearStall
  split
  · exact hs
  · exact updSlot_memInv hs

theorem pushAll_memInv {l want ts} (hs : s.MemInv) : (pushAll l want s ts).1.MemInv := by
  induction ts generalizing s with
  | nil => exact hs
  | cons t ts ih =>
    unfold pushAll
    split
    · split
      next e => exact ih (updThread_memInv (clearStall_memInv (tryPush_memInv hs e)))
      next => exact markStall_memInv hs
    · exact ih hs

theorem stalledGang_memInv {i ok} (hs : s.MemInv) : OutMemInv (stalledGang i ok s) := by
  unfold stalledGang
  split
  · exact .next hs
  · exact .next (settleTurn_memInv (takeTrap_memInv hs))

theorem cpyGang_memInv {i x k follow} (hs : s.MemInv) : OutMemInv (cpyGang i x k follow s) := by
  unfold cpyGang
  split
  · exact .next hs
  · extract_lets fails want r
    have hr : r.1.MemInv := pushAll_memInv hs
    split
    · exact stalledGang_memInv hr
    · refine perThread_memInv (fun _ _ hs' => ?_) (clearStall_memInv hr)
      refine withRole_memInv (fun _ _ hs2 => ?_) hs'
      split
      · exact hs2
      · split <;> exact hs2

theorem leaderPush_memInv {i sw check} (hs : s.MemInv) : OutMemInv (leaderPush i sw check s) := by
  unfold leaderPush
  split
  · exact perThread_same_memInv hs
  · split
    · exact .next hs
    · split
      · exact perThread_same_memInv (clearStall_memInv hs)
      · split
        next => exact stalledGang_memInv (markStall_memInv hs)
        next e => exact perThread_same_memInv (clearStall_memInv (tryPush_memInv hs e))

theorem execMxmma_memInv {x} (hs : s.MemInv) : OutMemInv (execMxmma x s) := by
  unfold execMxmma
  split
  · exact .next hs
  · extract_lets f
    split
    · exact illegalAll_memInv hs
    · exact leaderPush_memInv hs

theorem execMxstat_memInv {x} (hs : s.MemInv) : OutMemInv (execMxstat x s) := by
  unfold execMxstat
  refine perThread_memInv (fun _ _ => withRole_memInv fun _ _ hs2 => ?_) hs
  split
  · exact hs2
  · split <;> exact hs2

theorem execTsbind_memInv {x} (hs : s.MemInv) : OutMemInv (execTsbind x s) := by
  unfold execTsbind
  split
  · exact perThread_same_memInv hs
  · split
    · exact .next hs
    · extract_lets base len reason
      split
      · exact perThread_same_memInv (updWg_memInv hs fun _ hg => hg)
      · exact perThread_same_memInv hs

theorem execTsrel_memInv {x} (hs : s.MemInv) : OutMemInv (execTsrel x s) := by
  have ho := perThread_memInv (i := .tsrel x) (sw := x.m.sw)
    (body := withRole onlyMatrix fun s t => (s, { t with handle := none }, .next))
    (fun _ _ => withRole_memInv (fun _ _ hs2 => hs2)) hs
  unfold execTsrel
  split
  next e => exact .next (freeHandles_memInv (ho.of_eq_next e))
  next => exact ho

theorem execTsq_memInv {x} (hs : s.MemInv) : OutMemInv (execTsq x s) :=
  perThread_same_memInv hs

/-! ### Messages on the mesh and at the home slices -/

theorem arrived_memInv {r} (hs : s.MemInv) : (arrived s r).MemInv := hs.frame rfl rfl
theorem finishReq_memInv {id} (hs : s.MemInv) : (finishReq s id).MemInv := hs.frame rfl rfl
theorem l2Set_memInv {slice pa f} (hs : s.MemInv) : (l2Set s slice pa f).MemInv := hs.frame rfl rfl

theorem l2Place_memInv {ctx slice pa} (hs : s.MemInv) : (l2Place s ctx slice pa).MemInv := by
  unfold l2Place
  split
  · exact hs
  · exact hs.frame rfl rfl

theorem l2Fill_memInv {ctx slice pa} (hs : s.MemInv) : (l2Fill s ctx slice pa).MemInv :=
  l2Set_memInv (l2Place_memInv hs)

theorem l2Write_memInv {ctx slice pa p} (hs : s.MemInv) : (l2Write s ctx slice pa p).MemInv :=
  l2Set_memInv (l2Place_memInv hs)

theorem performRead_memInv {r} (hs : s.MemInv) : (performRead s r).MemInv :=
  poisonMet_memInv (arrived_memInv (l2Set_memInv hs))

theorem performWrite_memInv {r bytes} (hs : s.MemInv) : (performWrite s r bytes).MemInv := by
  unfold performWrite
  extract_lets slice whole s1 s2
  have hs1 : s1.MemInv := l2Write_memInv hs
  have hs2 : s2.MemInv := by
    unfold s2
    split
    · exact foldList_memInv hs1 fun _ _ => poisonUnit_memInv
    · exact ⟨applyPatch_wf _ _ _ hs1.1, hs1.2⟩
  exact arrived_memInv hs2

theorem serveReq_memInv {r} (hs : s.MemInv) : (serveReq s r).MemInv := by
  unfold serveReq
  split
  · exact performRead_memInv hs
  · exact performRead_memInv hs
  · exact performRead_memInv hs
  · exact performWrite_memInv hs
  · split
    · exact updReq_memInv hs
    · exact arrived_memInv hs

theorem serveWaiting_memInv {id} (hs : s.MemInv) : (serveWaiting s id).MemInv := by
  unfold serveWaiting
  split
  · exact hs
  · split
    · exact serveReq_memInv hs
    · exact hs

theorem serveLine_memInv {slice pa} (hs : s.MemInv) : (serveLine s slice pa).MemInv :=
  foldList_memInv hs fun _ _ => serveWaiting_memInv

theorem execHomeSliceRequest_memInv {id} (hs : s.MemInv) : OutMemInv (execHomeSliceRequest id s) := by
  unfold execHomeSliceRequest
  split
  · exact .next hs
  · split
    · exact .next hs
    · split
      · exact .next (arrived_memInv hs)
      · exact .next (serveLine_memInv (serveReq_memInv hs))

theorem serveFetched_memInv {id} (hs : s.MemInv) : (serveFetched s id).MemInv := by
  unfold serveFetched
  split
  · exact hs
  · split
    · exact serveReq_memInv hs
    · exact hs

theorem execSliceMissFill_memInv {id} (hs : s.MemInv) : OutMemInv (execSliceMissFill id s) := by
  unfold execSliceMissFill
  split
  · exact .next hs
  · split
    · exact .next hs
    · split
      · exact .next (foldList_memInv hs fun _ _ => serveFetched_memInv)
      · exact .next (serveLine_memInv (l2Fill_memInv hs))

theorem opPerformed_memInv {wg tid ident} (hs : s.MemInv) : (opPerformed s wg tid ident).MemInv := by
  unfold opPerformed
  split
  · exact opUsed_memInv (updOwner_memInv (logFor_memInv hs))
  · exact hs

theorem sideServed_memInv {ctx slice} (hs : s.MemInv) : (sideServed s ctx slice).MemInv := by
  unfold sideServed
  split
  · exact hs.frame rfl rfl
  · exact hs

theorem unitServed_memInv {r} (hs : s.MemInv) : (unitServed s r).MemInv := sideServed_memInv hs

theorem performBar_memInv {r fn operand out} (hs : s.MemInv) : (performBar s r fn operand out).MemInv := by
  unfold performBar
  extract_lets b s1
  have hs1 : s1.MemInv := by
    unfold s1
    split
    · split
      · exact hs
      · exact wakeBar_memInv (physWrite_memInv hs)
    · exact hs
  exact poisonMet_memInv (arrived_memInv hs1)

theorem performAtom_memInv {r x op w64 operand ret} (hs : s.MemInv) : (performAtom s r x op w64 operand ret).MemInv :=
  poisonMet_memInv (arrived_memInv (physWrite_memInv hs))

theorem performUnit_memInv {r} (hs : s.MemInv) : (performUnit s r).MemInv := by
  unfold performUnit
  split
  · exact performAtom_memInv hs
  · exact performBar_memInv hs
  · exact poisonMet_memInv (arrived_memInv (physWrite_memInv hs))
  · exact hs

theorem execAtomicPerform_memInv {id} (hs : s.MemInv) : OutMemInv (execAtomicPerform id s) := by
  unfold execAtomicPerform
  split
  · exact .next hs
  · split
    · exact .next hs
    · extract_lets slice s1 s2
      have hs1 : s1.MemInv := by
        unfold s1
        split
        · exact opPerformed_memInv hs
        · exact hs
      exact .next (serveLine_memInv (performUnit_memInv (unitServed_memInv (l2Write_memInv hs1))))

theorem execPeerRequest_memInv {id} (hs : s.MemInv) : OutMemInv (execPeerRequest id s) := by
  unfold execPeerRequest
  split
  · exact .next hs
  · split
    · split
      · exact .next hs
      · split
        · exact .next (serveLine_memInv (bumpCounter_memInv (arrived_memInv hs)))
        · exact .next (bumpCounter_memInv (arrived_memInv hs))
    · exact .next hs

theorem writePending_memInv {t i ws} (hs : s.MemInv) : (writePending s t i ws).MemInv :=
  settleThread_memInv (setThread_memInv hs)

theorem trainPredictor_memInv {r reader} (hs : s.MemInv) : (trainPredictor s r reader).MemInv := by
  unfold trainPredictor
  split
  · split
    · exact hs.frame rfl rfl
    · exact hs
  · exact hs

theorem installLine_memInv {r bytes} (hs : s.MemInv) : (installLine s r bytes).MemInv := by
  unfold installLine
  split
  · exact hs
  · split
    · exact hs
    · split
      · exact l1Fill_memInv hs
      · exact hs

theorem completeLoad_memInv {r bytes} (hs : s.MemInv) : (completeLoad s r bytes).MemInv := by
  unfold completeLoad
  split
  · exact hs
  · split
    · exact hs
    · split
      · exact writePending_memInv hs
      · exact hs

theorem takeAnswer_memInv {r bytes} (hs : s.MemInv) : (takeAnswer s r bytes).MemInv := by
  unfold takeAnswer
  extract_lets s1
  have hs1 : s1.MemInv := updReq_memInv (bumpCounter_memInv hs)
  exact hs1.frame rfl rfl

theorem execLineFill_memInv {id} (hs : s.MemInv) : OutMemInv (execLineFill id s) := by
  unfold execLineFill
  split
  · exact .next hs
  · split
    · exact .next (completeLoad_memInv (finishReq_memInv (installLine_memInv (trainPredictor_memInv
        (bumpCounter_memInv hs)))))
    · exact .next (finishReq_memInv (installLine_memInv (trainPredictor_memInv (bumpCounter_memInv hs))))
    · exact .next (takeAnswer_memInv hs)
    · exact .next hs

theorem atomReturned_memInv {t i r x2 dst bytes} (hs : s.MemInv) : (atomReturned s t i r x2 dst bytes).MemInv := by
  unfold atomReturned
  extract_lets s1 s2
  have hs1 : s1.MemInv := finishReq_memInv (bumpCounter_memInv hs)
  have hs2 : s2.MemInv := by
    unfold s2
    split
    · exact acquireFor_memInv hs1
    · exact hs1
  split
  · exact writePending_memInv hs2
  · exact hs2

theorem execPendingResultWrite_memInv {k i} (hs : s.MemInv) : OutMemInv (execPendingResultWrite k i s) := by
  unfold execPendingResultWrite
  split
  · exact .next hs
  · split
    · exact .next hs
    · exact .next (writePending_memInv hs)
    · split
      · split
        · split
          · exact .next hs
          · extract_lets s1
            have hs1 : s1.MemInv := finishReq_memInv (bumpCounter_memInv hs)
            refine .next ?_
            split
            · exact writePending_memInv hs1
            · exact hs1
        · exact .next hs
      · exact .next hs
    · split
      · split
        · split
          · exact .next (atomReturned_memInv hs)
          · exact .next hs
        · exact .next hs
      · exact .next hs
    · split
      · exact .next hs
      · exact .next (writePending_memInv hs)
    · split
      · exact .next hs
      · exact .next (writePending_memInv hs)

theorem atomAcked_memInv {r} (hs : s.MemInv) : (atomAcked s r).MemInv := by
  unfold atomAcked
  split
  · split
    · exact acquireFor_memInv hs
    · exact hs
  · exact hs

theorem execWriteBackAcknowledgement_memInv {id} (hs : s.MemInv) : OutMemInv (execWriteBackAcknowledgement id s) := by
  unfold execWriteBackAcknowledgement
  split
  · exact .next hs
  · extract_lets acked
    have hacked : acked.MemInv := finishReq_memInv (bumpCounter_memInv hs)
    split
    · exact .next hacked
    · exact .next hacked
    · exact .next hacked
    · exact .next (finishReq_memInv (bumpCounter_memInv (atomAcked_memInv hs)))
    · exact .next (takeAnswer_memInv hs)
    · exact .next hs

theorem execWindowAccess_memInv {id} (hs : s.MemInv) : OutMemInv (execWindowAccess id s) := by
  unfold execWindowAccess
  split
  · exact .next hs
  · split
    · split
      · exact .next hs
      · split
        · exact .next (finishReq_memInv hs)
        · extract_lets s1
          have hs1 : s1.MemInv := bumpCounter_memInv hs
          split
          · exact .next (arrived_memInv (scratchWrite_memInv hs1))
          · exact .next (arrived_memInv hs1)
    · exact .next hs

theorem abandonOut_memInv {p} (hs : s.MemInv) : (abandonOut s p).MemInv := by
  unfold abandonOut
  extract_lets s1 s2
  have hs2 : s2.MemInv := updCtx_memInv (hs.frame rfl rfl)
  split
  · exact resumeAccesses_memInv (emit_memInv hs2)
  · exact hs2

theorem resolve_memInv {ctx va} (hs : s.MemInv) : (resolve s ctx va).1.MemInv := by
  unfold resolve
  split
  · split
    · exact abandonOut_memInv hs
    · exact hs
  · exact hs

theorem nextWalk_memInv {cluster} (hs : s.MemInv) : (nextWalk s cluster).MemInv := by
  unfold nextWalk
  split
  · split
    · exact hs.frame rfl rfl
    · exact hs
  · exact hs

theorem tlbFill_memInv {e} (hs : s.MemInv) : (tlbFill s e).MemInv := by
  unfold tlbFill
  extract_lets own n kept
  split
  · exact hs.frame rfl rfl
  · exact bumpFree_memInv (hs.frame rfl rfl)

theorem walkFlits_memInv {ctx h} (hs : s.MemInv) : (walkFlits s ctx h).MemInv :=
  bumpFree_memInv (bumpCounter_memInv (bumpCounter_memInv hs))

theorem execTableWalkComplete_memInv {cluster asid page} (hs : s.MemInv) :
    OutMemInv (execTableWalkComplete cluster asid page s) := by
  unfold execTableWalkComplete
  extract_lets is va ended
  split
  · extract_lets r s1 s2
    have hs1 : s1.MemInv := walkFlits_memInv (bumpCounter_memInv (resolve_memInv hs))
    split
    · exact .next (nextWalk_memInv (tlbFill_memInv (hs1.frame rfl rfl)))
    · exact .next (nextWalk_memInv (hs1.frame rfl rfl))
    · exact .next (nextWalk_memInv (hs1.frame rfl rfl))
  · exact .next hs

theorem execPageRequest_memInv {ctx} (hs : s.MemInv) : OutMemInv (execPageRequest ctx s) := by
  unfold execPageRequest
  split
  · exact .next hs
  · split
    · exact .next hs
    · extract_lets oldest room
      split
      · exact .next hs
      · split
        · exact .next hs
        · exact .next (updCtx_memInv (physWrite_memInv hs))

theorem performFar_memInv {ctx va op} (hs : s.MemInv) : (performFar s ctx va op).1.MemInv := by
  unfold performFar
  extract_lets r
  have hr : r.1.MemInv := resolve_memInv hs
  split
  · exact requestPage_memInv hr
  · exact hr
  · extract_lets pa
    split
    · exact getD_memInv (freezeFor_memInv hr) hr
    · split
      · exact hr
      · split
        · exact hr
        · exact physWrite_memInv hr
        · exact physWrite_memInv hr

theorem farServed_memInv {ctx va op} (hs : s.MemInv) : (farServed s ctx va op).MemInv := by
  unfold farServed
  split
  · exact sideServed_memInv hs
  · exact hs

theorem passOn_memInv {dev x} {lost : State → State} (hs : s.MemInv) (hlost : ∀ s, s.MemInv → (lost s).MemInv) :
    (passOn s dev x lost).MemInv := by
  unfold passOn
  split
  · exact emit_memInv hs
  · exact hlost _ hs

theorem execFarRequest_memInv {src} (hs : s.MemInv) : OutMemInv (execFarRequest src s) := by
  unfold execFarRequest
  split
  · split
    · exact .next hs
    · split
      · exact .next hs
      · split
        · exact .next hs
        · extract_lets slice q s1
          have hq : q.1.MemInv := performFar_memInv (farServed_memInv hs)
          have hs1 : s1.MemInv := by
            unfold s1
            split
            · exact opPerformed_memInv hq
            · exact hq
          split
          · exact .next (updReq_memInv hq)
          · exact .next (foldList_memInv (updReq_memInv hs1) fun _ _ => uncorrectable_memInv)
          · exact .next (updReq_memInv hq)
      · exact .next hs
  · split
    · exact .next (passOn_memInv hs fun _ => emit_memInv)
    · split
      · exact .next hs
      · extract_lets q
        have hq : q.1.MemInv := performFar_memInv (farServed_memInv hs)
        split
        · exact .next hq
        · exact .next (emit_memInv (foldList_memInv hq fun _ _ => uncorrectable_memInv))
        · exact .next (emit_memInv hq)
  · split
    · exact .next (passOn_memInv hs fun _ hs' => hs')
    · exact .next (hs.frame rfl rfl)

theorem farBad_memInv {r y} (hs : s.MemInv) : (farBad s r y).MemInv := by
  unfold farBad
  split
  · exact uncorrectable_memInv (bumpFree_memInv hs)
  · exact hs

theorem execFarReply_memInv {id remote} (hs : s.MemInv) : OutMemInv (execFarReply id remote s) := by
  unfold execFarReply
  split
  · exact .next hs
  · split
    · exact .next (farBad_memInv (retestWg_memInv (settleBuffer_memInv (updOwner_memInv (finishReq_memInv
        (bumpCounter_memInv hs))))))
    · exact .next hs

theorem execFarAcknowledgement_memInv {id remote} (hs : s.MemInv) : OutMemInv (execFarAcknowledgement id remote s) := by
  unfold execFarAcknowledgement
  split
  · exact .next hs
  · split
    · extract_lets s1 s2
      have hs1 : s1.MemInv := updOwner_memInv (finishReq_memInv (bumpCounter_memInv hs))
      have hs2 : s2.MemInv := by
        unfold s2
        split
        · exact markData_memInv hs1
        · exact hs1
      exact .next (farBad_memInv (settleThread_memInv (retestWg_memInv (retestWg_memInv hs2))))
    · exact .next hs

/-! ### Engine commands -/

theorem lateExited_memInv {g x} (hs : s.MemInv) : (lateExited s g x).MemInv := by
  unfold lateExited
  extract_lets r
  have hr : r.1.MemInv := workgroupTrap_memInv hs
  split
  · exact emit_memInv hr
  · exact killLaunch_memInv hr

theorem raiseLate_memInv {wg tid x} (hs : s.MemInv) : (raiseLate s wg tid x).MemInv := by
  unfold raiseLate
  split
  · exact updOwner_memInv hs
  · split
    · exact lateExited_memInv hs
    · exact updWg_memInv hs fun _ hg => hg
  · exact hs

theorem dropCmd_memInv {id} (hs : s.MemInv) : (dropCmd s id).MemInv := hs.frame rfl rfl

theorem execCopyJobStart_memInv {wg q} (hs : s.MemInv) : OutMemInv (execCopyJobStart wg q s) := by
  unfold execCopyJobStart
  split
  · extract_lets runs
    split
    · split
      · exact .next (countDiscard_memInv (dropCmd_memInv hs))
      · exact .next hs
    · split
      · exact .next (updCmd_memInv (bumpFree_memInv hs))
      · exact .next hs
    · exact .next hs
  · exact .next hs

theorem reachEnd_memInv {ctx va rd wr} (hs : s.MemInv) : (reachEnd s ctx va rd wr).1.MemInv := by
  unfold reachEnd
  extract_lets r
  split <;> exact (resolve_memInv hs)

theorem reachRange_memInv {l ctx va n wr byMode} (hs : s.MemInv) : (reachRange s l ctx va n wr byMode).1.MemInv := by
  unfold reachRange
  extract_lets rd a b
  have ha : a.1.MemInv := reachEnd_memInv hs
  split
  · split <;> exact (reachEnd_memInv ha)
  · exact ha

theorem reachAll_memInv {l ctx xs} (hs : s.MemInv) : (reachAll s l ctx xs).1.MemInv := by
  induction xs generalizing s with
  | nil => exact hs
  | cons x xs ih =>
    unfold reachAll
    extract_lets r
    have hr : r.1.MemInv := reachRange_memInv hs
    split
    · exact ih hr
    · exact hr

theorem landGranule_memInv {g m k c row off bs} (hs : s.MemInv) : (landGranule g m k c row off s bs).MemInv := by
  unfold landGranule
  split
  · exact hs
  · split
    · exact updWg_memInv hs fun _ hg =>
        have ⟨hscratch, hbtier, htiles, hrowNan⟩ := memWf_iff.mp hg
        memWf_of hscratch (writeBytes_wf _ _ _ hbtier) htiles hrowNan
    · split
      · exact vwriteSplit_memInv hs
      · exact scratchWrite_memInv hs

theorem landBytes_memInv {g m k c p data bad} (hs : s.MemInv) : (landBytes s g m k c p data bad).MemInv := by
  unfold landBytes
  refine foldList_memInv hs fun _ _ hs' => ?_
  split
  · exact hs'
  · exact landGranule_memInv hs'

theorem countChange_memInv {g m c out n} (hs : s.MemInv) : (countChange s g m c out n).MemInv := by
  unfold countChange
  extract_lets x s1
  have hs1 : s1.MemInv := by
    unfold s1
    split
    · exact sideServed_memInv hs
    · exact hs
  split
  · exact hs
  · split
    · exact wakeBar_memInv (vwrite_memInv hs1)
    · split
      · exact hs
      · exact wakeBar_memInv (scratchWrite_memInv hs)

theorem stopJob_memInv {c k va reason} (hs : s.MemInv) : (stopJob s c k va reason).MemInv :=
  raiseLate_memInv (dropCmd_memInv hs)

theorem enterFollowOn_memInv {l g c card k} (hs : s.MemInv) : (enterFollowOn s l g c card k).MemInv :=
  enterCmd_memInv (updCmd_memInv hs)

theorem readPiece_memInv {l g c k card i p} (hs : s.MemInv) : (readPiece s l g c k card i p).MemInv :=
  updCmd_memInv (foldList_memInv hs fun _ _ => uncorrectable_memInv)

theorem cutJob_memInv {c k i va reason} (hs : s.MemInv) : (cutJob s c k i va reason).MemInv := by
  unfold cutJob
  extract_lets kept stop s1
  split
  · exact stopJob_memInv hs
  · exact updCmd_memInv (hs.frame rfl rfl)

theorem landPiece_memInv {l g c k card follow i p} (hs : s.MemInv) : (landPiece s l g c k card follow i p).MemInv := by
  unfold landPiece
  extract_lets places place data m done s0 s1 pieces s2 s3 last s4 s5 s6
  have hs0 : s0.MemInv := by
    unfold s0
    split
    · exact bumpCounter_memInv hs
    · split
      · exact bumpCounter_memInv hs
      · exact hs
  have hs2 : s2.MemInv := updCmd_memInv (landBytes_memInv hs0)
  have hs3 : s3.MemInv := hs2.frame rfl rfl
  have hs4 : s4.MemInv := by
    unfold s4
    split
    · exact enterFollowOn_memInv hs3
    · exact hs3
  have hs5 : s5.MemInv := by
    unfold s5
    split
    · exact countChange_memInv hs4
    · exact hs4
  have hs6 : s6.MemInv := by
    unfold s6
    split
    · exact countChange_memInv hs5
    · exact hs5
  split
  · exact hs6
  · split
    · exact stopJob_memInv hs6
    · exact dropCmd_memInv hs6

theorem freezeEngine_memInv {g c} (hs : s.MemInv) : (freezeEngine s g c).MemInv := by
  unfold freezeEngine
  split
  · split
    · exact emit_memInv (updCmd_memInv (updVd_memInv (bumpFree_memInv hs)))
    · exact hs
  · exact hs

theorem execCopyPieceLand_memInv {cmd} (hs : s.MemInv) : OutMemInv (execCopyPieceLand cmd s) := by
  unfold execCopyPieceLand
  split
  · exact .next hs
  · split
    · extract_lets ready
      split
      · exact .next hs
      · split
        · exact .next hs
        · extract_lets r
          have hr : r.1.MemInv := reachAll_memInv hs
          split
          · exact .next (updCmd_memInv (requestPage_memInv hr))
          · exact .next (cutJob_memInv hr)
          · exact .next (freezeEngine_memInv hr)
          · refine .next (bumpFree_memInv ?_)
            split
            · exact readPiece_memInv hr
            · exact landPiece_memInv hr
    · exact .next hs

theorem reserveAt_memInv {cluster cmd piece} (hs : s.MemInv) : (reserveAt s cluster cmd piece).MemInv := by
  unfold reserveAt
  extract_lets here used mine
  split
  · split
    · split
      · exact hs.frame rfl rfl
      · exact hs
    · split
      · exact hs
      · exact hs.frame rfl rfl
  · exact hs.frame rfl rfl

theorem execChainReservation_memInv {cmd} (hs : s.MemInv) : OutMemInv (execChainReservation cmd s) := by
  unfold execChainReservation
  split
  · exact .next hs
  · split
    · extract_lets places opened
      clear_value opened
      split
      · exact .next hs
      · extract_lets sent
        clear_value sent
        split
        · refine .next (reserveAt_memInv ?_)
          split
          · exact hs
          · exact bumpCounter_memInv hs
        · exact .next hs
    · exact .next hs

theorem accCount_memInv {g bar out n} (hs : s.MemInv) : (accCount s g bar out n).MemInv := by
  unfold accCount
  split
  · exact wakeBar_memInv (scratchWrite_memInv hs)
  · exact hs

theorem setRow_memWf {l half n g i ws cnt} (hg : g.memWf = true) : (setRow l half n g i ws cnt).memWf = true :=
  have ⟨hscratch, hbtier, htiles, hrowNan⟩ := memWf_iff.mp hg
  memWf_of hscratch hbtier (writeBytes_wf _ _ _ htiles) (writeNat_wf _ _ _ _ hrowNan)

theorem matrixEffect_memInv {g l c} (hs : s.MemInv) : (matrixEffect s g l c).MemInv := by
  unfold matrixEffect
  extract_lets half bytes
  split
  · extract_lets rows
    split
    · exact raiseLate_memInv hs
    · exact updWg_memInv hs fun _ hg => foldl_memWf hg fun _ _ hg => setRow_memWf hg
  · exact updWg_memInv hs fun _ hg => foldl_memWf hg fun _ _ hg => setRow_memWf hg
  · exact accCount_memInv (updWg_memInv hs fun _ hg => foldl_memWf hg fun _ _ hg => setRow_memWf hg)
  · exact accCount_memInv (updWg_memInv hs fun _ hg =>
      have ⟨hscratch, hbtier, htiles, hrowNan⟩ := memWf_iff.mp hg
      memWf_of (foldl_wf hscratch fun _ _ hm => writeBytes_wf _ _ _ hm) hbtier htiles hrowNan)
  · exact hs

theorem execMxaCommandStart_memInv {wg half} (hs : s.MemInv) : OutMemInv (execMxaCommandStart wg half s) := by
  unfold execMxaCommandStart
  split
  · split
    · exact .next hs
    · split
      · split
        · exact .next (countDiscard_memInv (dropCmd_memInv hs))
        · exact .next hs
      · split
        · exact .next (updCmd_memInv hs)
        · exact .next hs
      · exact .next hs
  · exact .next hs

theorem execMxaCommandComplete_memInv {cmd} (hs : s.MemInv) : OutMemInv (execMxaCommandComplete cmd s) := by
  unfold execMxaCommandComplete
  split
  · exact .next hs
  · split
    · split
      · exact .next (matrixEffect_memInv (dropCmd_memInv hs))
      · exact .next (dropCmd_memInv hs)
    · exact .next hs

theorem execProbeTokenSend_memInv {wg q} (hs : s.MemInv) : OutMemInv (execProbeTokenSend wg q s) := by
  unfold execProbeTokenSend
  split
  · extract_lets x tokens
    split
    · exact .next (updWg_memInv (setQueueProbe_memInv hs) fun _ hg => hg)
    · exact .next hs
  · exact .next hs

theorem grantReserve_memInv {g q} (hs : s.MemInv) : (grantReserve s g q).MemInv := by
  unfold grantReserve
  extract_lets s1
  have hs1 : s1.MemInv := updWg_memInv hs fun _ hg => hg
  split
  · split
    · exact updRecord_memInv (wakeRecord_memInv (setRing_memInv hs1))
    · exact hs1
  · exact setQueueProbe_memInv hs1

theorem execProbeTokenReceive_memInv {wg i} (hs : s.MemInv) : OutMemInv (execProbeTokenReceive wg i s) := by
  unfold execProbeTokenReceive
  split
  · exact .next hs
  · split
    · exact .next hs
    · extract_lets rest same gone more
      have hrest : rest.MemInv := updWg_memInv hs fun _ hg => hg
      have hgone : gone.MemInv := updWg_memInv hs fun _ hg => hg
      split
      · exact .next hrest
      · split
        · split
          · refine .next ?_
            split
            · exact grantReserve_memInv hgone
            · exact hgone
          · exact .next hrest
        · split
          · exact .next hrest
          · exact .next (updWg_memInv hrest fun _ hg => hg)

/-! ### Coverage -/

theorem reconWrite_memInv {l g x y zero} (hs : s.MemInv) : (reconWrite s l g x y zero).MemInv :=
  updLaunch_memInv (updWg_memInv (vwriteSplit_memInv (foldList_memInv hs fun _ _ => uncorrectable_memInv)) fun _ hg =>
    hg)

theorem reachPoints_memInv {ctx xs} (hs : s.MemInv) : (reachPoints s ctx xs).1.MemInv := by
  induction xs generalizing s with
  | nil => exact hs
  | cons a rest ih =>
    unfold reachPoints
    extract_lets r
    have hr : r.1.MemInv := resolve_memInv hs
    split
    · exact hr
    · exact ih hr

theorem captureEnd_memInv {l g} (hs : s.MemInv) : (captureEnd s l g).MemInv := updWg_memInv hs fun _ hg => hg

theorem execReconPointWrite_memInv {wg x y} (hs : s.MemInv) : OutMemInv (execReconPointWrite wg x y s) := by
  unfold execReconPointWrite
  split
  · extract_lets t r
    have hr : r.1.MemInv := reachPoints_memInv hs
    split
    · split
      · exact .next (requestPage_memInv hr)
      · exact .next (reconWrite_memInv hr)
    · exact .next hs
  · exact .next hs

theorem countWg_memInv {wg} (hs : s.MemInv) : (countWg s wg).MemInv := by
  unfold countWg
  split
  · split
    · exact hs
    · exact updWg_memInv (updLaunch_memInv hs) fun _ hg => hg
  · exact hs

theorem countAll_memInv {launch} (hs : s.MemInv) : (countAll s launch).MemInv := by
  unfold countAll
  refine foldList_memInv hs fun _ _ hs' => ?_
  split
  · exact countWg_memInv hs'
  · exact hs'

theorem execSampleCompare_memInv {wg i} (hs : s.MemInv) : OutMemInv (execSampleCompare wg i s) := by
  unfold execSampleCompare
  split
  · split
    · split
      · split
        · exact .next (countWg_memInv (updLaunch_memInv (updWg_memInv hs fun _ hg => hg)))
        · exact .next hs
      · exact .next hs
    · exact .next hs
  · exact .next hs

theorem execUpdateInstant_memInv {launch} (hs : s.MemInv) : OutMemInv (execUpdateInstant launch s) := by
  unfold execUpdateInstant
  split
  · exact .next hs
  · split
    · exact .next hs
    · exact .next (countAll_memInv (updWgs_memInv (updLaunch_memInv hs) fun _ hg => hg))

/-! ### Launches from the device and reservations -/

theorem LnchSpec.send_memInv {x t} (hs : s.MemInv) : (LnchSpec.send x s t).MemInv := by
  unfold LnchSpec.send
  split
  · exact hs
  · split
    · exact hs
    · split
      · extract_lets s1 id
        have hs1 : s1.MemInv := by
          unfold s1
          split
          · exact writeBackSectors_memInv hs
          · exact hs
        exact updThread_memInv (sendCounted_memInv hs1)
      · exact hs

theorem lnchAppend_memInv {launch ctx q p} (hs : s.MemInv) : (lnchAppend s launch ctx q p).1.MemInv := by
  unfold lnchAppend
  split
  · exact hs
  · split
    · exact hs
    · split
      · exact hs
      · exact updLaunch_memInv hs

theorem LnchSpec.thread_memInv {x t} (hs : s.MemInv) : (LnchSpec.thread x s t).1.MemInv := by
  unfold LnchSpec.thread
  split
  · extract_lets s1
    have hs1 : s1.MemInv := dropReq_memInv hs
    split
    · exact lnchAppend_memInv hs1
    · exact hs1
  · split
    · exact hs
    · split
      · exact hs
      · split <;> exact hs

theorem execLnch_memInv {x} (hs : s.MemInv) : OutMemInv (execLnch x s) := by
  unfold execLnch
  split
  · exact .next hs
  · extract_lets y vas s1
    split
    next e => exact .next ((probeGang_memInv hs).of_eq_some e)
    next =>
      have hs1 : s1.MemInv := foldList_memInv hs fun _ _ => LnchSpec.send_memInv
      have ho := perThread_memInv (i := .lnch x) (sw := x.m.sw) (body := y.thread)
        (fun _ _ => LnchSpec.thread_memInv) hs1
      split
      · exact .next hs1
      · split
        next e => exact .next (useWalks_memInv (ho.of_eq_next e))
        next => exact ho

theorem postAt_memInv {word mode operand t} (hs : s.MemInv) : (postAt word mode operand s t).1.MemInv := by
  unfold postAt
  split
  · exact hs
  · split
    · exact hs
    · split
      · exact hs
      · split
        · exact deniedStore_memInv hs
        · exact sendCounted_memInv (sectorOut_memInv hs)

theorem postGang_memInv {i x mode} (hs : s.MemInv) : OutMemInv (postGang i x mode s) :=
  probedGang_memInv (fun _ _ => postAt_memInv) hs

theorem execWkpt_memInv {x} (hs : s.MemInv) : OutMemInv (execWkpt x s) :=
  perThread_same_memInv hs

theorem markPoint_memInv {t} (hs : s.MemInv) : (markPoint s t).MemInv := by
  unfold markPoint
  split
  · exact hs
  · split
    · exact hs
    · split
      · split
        · exact hs
        · exact updWg_memInv hs fun _ hg => hg
      · exact hs

theorem rcmarkSend_memInv {t} (hs : s.MemInv) : (rcmarkSend s t).MemInv := by
  unfold rcmarkSend
  split
  · exact hs
  · split
    · exact hs
    · exact updThread_memInv (overLines_memInv (fun _ _ => writeBackLine_memInv) hs)

theorem execRcmark_memInv {x} (hs : s.MemInv) : OutMemInv (execRcmark x s) := by
  unfold execRcmark
  extract_lets s1
  have hs1 : s1.MemInv := foldList_memInv hs fun _ _ => rcmarkSend_memInv
  split
  · exact .next hs1
  · exact perThread_memInv (fun _ _ => withRole_memInv (fun _ _ => markPoint_memInv)) hs1

theorem assaySend_memInv {t v} (hs : s.MemInv) : (assaySend s t v).MemInv := updWg_memInv hs fun _ hg => hg

theorem execAssay_memInv {x} (hs : s.MemInv) : OutMemInv (execAssay x s) := by
  unfold execAssay
  refine perThread_memInv (fun _ _ => withRole_memInv fun _ _ hs2 => ?_) hs
  split
  · exact farCheck_memInv (fun _ _ => assaySend_memInv) hs2
  · exact hs2

/-! ### Segments, traps and records -/

theorem execIllegalEncoding_memInv {w} (hs : s.MemInv) : OutMemInv (execIllegalEncoding w s) :=
  .next (takeTrap_memInv hs)

/-- What a log entry sends and does keeps the memories in canonical form. -/
def ReplaySpec.Keeps (x : ReplaySpec) : Prop :=
  (∀ s t, State.MemInv s → (x.send s t).MemInv) ∧ ∀ s t, State.MemInv s → (x.body s t).1.MemInv

theorem replayLoad_keeps {e k dst} : (replayLoad e k dst).Keeps := ⟨fun _ _ hs => hs, fun _ _ => loadAt_memInv⟩
theorem replayStore_keeps {e} : (replayStore e).Keeps := ⟨fun _ _ hs => hs, fun _ _ => storeAt_memInv⟩
theorem replayAtom_keeps {e x xf op} : (replayAtom e x xf op).Keeps := ⟨fun _ _ hs => hs, fun _ _ => atomAt_memInv⟩

theorem replayBar_keeps {e fn out} : (replayBar e fn out).Keeps :=
  ⟨fun _ _ => BarSpec.send_memInv, fun _ _ => BarSpec.thread_memInv⟩

theorem replayLnch_keeps {e x} : (replayLnch e x).Keeps :=
  ⟨fun _ _ => LnchSpec.send_memInv, fun _ _ => LnchSpec.thread_memInv⟩

theorem replayPost_keeps {e mode} : (replayPost e mode).Keeps := ⟨fun _ _ hs => hs, fun _ _ => postAt_memInv⟩

theorem replaySpec_keeps {e} : (replaySpec e).Keeps := by
  unfold replaySpec
  split
  iterate 2 exact replayLoad_keeps
  iterate 2 exact replayStore_keeps
  iterate 16 exact replayAtom_keeps
  iterate 4 exact replayBar_keeps
  · exact replayLnch_keeps
  iterate 3 exact replayPost_keeps
  · exact ⟨fun _ _ hs => hs, fun _ _ hs => hs⟩

theorem replayThread_memInv {t} (hs : s.MemInv) : (replayThread s t).1.MemInv := by
  unfold replayThread
  split
  · exact hs
  · extract_lets r
    split
    · exact replaySpec_keeps.2 _ _ hs
    · exact hs
    · exact hs

theorem applyReplay_memInv {ts rs} (hs : s.MemInv) : (applyReplay ts s rs).MemInv := by
  unfold applyReplay
  extract_lets s1 s2
  have hs1 : s1.MemInv := foldList_memInv hs fun _ _ => setThread_memInv
  have hs2 : s2.MemInv := by
    unfold s2
    split
    · exact takeTrap_memInv hs1
    · exact hs1
  exact settleTurn_memInv (foldList_memInv (traceEnds_memInv hs2) fun _ _ => applyLeaving_memInv)

theorem execLogReplay_memInv {k} (hs : s.MemInv) : OutMemInv (execLogReplay k s) := by
  unfold execLogReplay
  extract_lets s0 ts spec vas s1 ts1 r
  have hs0 : s0.MemInv := hs.frame rfl rfl
  split
  · exact .next hs0
  · split
    next e => exact .next ((probeGang_memInv hs0).of_eq_some e)
    next =>
      have hs1 : s1.MemInv := by
        refine foldList_memInv hs0 fun s' t hs' => ?_
        split
        next e =>
          obtain ⟨y, -, rfl⟩ := Option.map_eq_some_iff.mp e
          exact replaySpec_keeps.1 _ _ hs'
        next => exact hs'
      split
      · exact .next hs1
      · exact .next
          (useWalks_memInv (applyReplay_memInv (runThreads_memInv (fun _ _ => replayThread_memInv) hs1)))

theorem drawGang_memInv {k ts} (hs : s.MemInv) : (drawGang s k ts).MemInv := by
  unfold drawGang
  extract_lets c id members s1 s2 s3
  have hs1 : s1.MemInv := setCore_memInv hs
  exact refillBins_memInv (foldList_memInv (hs1.frame rfl rfl) fun _ _ => setThread_memInv)

theorem execGangDraw_memInv {k} (hs : s.MemInv) : OutMemInv (execGangDraw k s) := by
  unfold execGangDraw
  split
  · split
    · exact .next hs
    · exact .next (drawGang_memInv hs)
  · exact .next hs

theorem drainRecord_memInv {c x} (hs : s.MemInv) : (drainRecord c s x).MemInv := by
  unfold drainRecord
  extract_lets r s1
  split
  · exact hs
  · extract_lets keep t s2 s3
    have hs3 : s3.MemInv := logDispatch_memInv (fileThread_memInv (addThread_memInv (hs.frame rfl rfl)))
    split
    · exact hs3
    · exact startUsed_memInv hs3

theorem traceDrain_memInv {rs} (hs : s.MemInv) : (traceDrain s rs).MemInv := by
  unfold traceDrain
  split
  · exact hs
  · split
    · exact traceEvent_memInv hs
    · exact hs

theorem reseatHeld_memInv {r} (hs : s.MemInv) : (reseatHeld s r).MemInv := by
  unfold reseatHeld
  split
  · exact hs
  · split
    · exact updRecord_memInv hs
    · split
      · exact hs
      · split
        · exact hs
        · split
          · exact hs
          · exact holdThread_memInv (addThread_memInv (hs.frame rfl rfl))

theorem reseatBare_memInv {cluster} (hs : s.MemInv) : (reseatBare s cluster).MemInv :=
  foldList_memInv hs fun _ _ => reseatHeld_memInv

theorem execRecordDrain_memInv {k} {s0 : State} (hs : s0.MemInv) : OutMemInv (execRecordDrain k s0) := by
  unfold execRecordDrain
  extract_lets s
  have hs : s.MemInv := reseatBare_memInv hs
  split
  · exact .next hs
  · exact .next (releaseHeld_memInv (refillRecordBins_memInv (foldList_memInv (traceDrain_memInv hs) fun _ _ =>
      drainRecord_memInv)))

theorem createThread_memInv {l g k core x} (hs : s.MemInv) : (createThread l g k core s x).MemInv :=
  startUsed_memInv (logDispatch_memInv (updThread_memInv (fileThread_memInv (addThread_memInv hs))))

theorem execBlockCreate_memInv {wg} (hs : s.MemInv) : OutMemInv (execBlockCreate wg s) := by
  unfold execBlockCreate
  split
  · exact .next hs
  · split
    · extract_lets lo n tids kept s1 s2
      have hs1 : s1.MemInv := updWg_memInv hs fun _ hg => hg
      have hs2 : s2.MemInv := by
        unfold s2
        split
        · exact hs1
        · exact updLaunch_memInv hs1
      split
      · exact .next (foldList_memInv hs2 fun _ _ => createThread_memInv)
      · exact .next hs
    · exact .next hs

theorem execSeatReclaim_memInv {k} (hs : s.MemInv) : OutMemInv (execSeatReclaim k s) := by
  unfold execSeatReclaim
  extract_lets starving busy
  split
  · split
    · exact .next (updThreads_memInv hs)
    · exact .next hs
  · exact .next hs

theorem passStops_memInv {ts} (hs : s.MemInv) : (passStops s ts).MemInv := by
  unfold passStops
  refine foldList_memInv hs fun _ _ hs' => ?_
  split
  · split
    · exact hs'
    · exact setThread_memInv hs'
  · exact hs'

theorem execOverrun_memInv {k} (hs : s.MemInv) : OutMemInv (execOverrun k s) := by
  unfold execOverrun
  split
  · exact .next hs
  · split
    · split
      · extract_lets s1
        split
        · exact .next hs
        · exact .next (takeTrap_memInv (passStops_memInv hs))
      · exact .next hs
    · exact .next hs

theorem execBarrierTimeout_memInv {rid} (hs : s.MemInv) : OutMemInv (execBarrierTimeout rid s) := by
  unfold execBarrierTimeout
  split
  · exact .next hs
  · split
    · extract_lets same inTrap x src s1
      have hx : x.1.MemInv := workgroupTrap_memInv hs
      split
      · exact .next (dispatchTrap_memInv (settleBuffer_memInv (hx.frame rfl rfl)))
      · exact .next hs
    · exact .next hs

theorem execGatherTimeout_memInv {k} (hs : s.MemInv) : OutMemInv (execGatherTimeout k s) := by
  unfold execGatherTimeout
  split
  · exact .next hs
  · split
    · split
      · exact .next (dispatchTrap_memInv (refillBins_memInv (foldList_memInv (traceEnds_memInv
          (workgroupTrap_memInv hs)) fun _ _ => endSegment_memInv)))
      · exact .next hs
    · exact .next hs

theorem execTrapUnresolved_memInv {ctx} (hs : s.MemInv) : OutMemInv (execTrapUnresolved ctx s) := by
  unfold execTrapUnresolved
  split
  · exact .next hs
  · extract_lets late threadLate recordLate
    split
    · exact .next (killCtx_memInv hs)
    · exact .next hs

theorem execPoolDeadlock_memInv {ctx} (hs : s.MemInv) : OutMemInv (execPoolDeadlock ctx s) := by
  unfold execPoolDeadlock
  split
  · exact .next hs
  · split
    · split
      · exact .next (killCtx_memInv hs)
      · exact .next hs
    · exact .next hs

theorem execTimerWake_memInv {rid} (hs : s.MemInv) : OutMemInv (execTimerWake rid s) := by
  unfold execTimerWake
  extract_lets s1
  have hs1 : s1.MemInv := by
    unfold s1
    split
    · split
      · exact wakeRecord_memInv hs
      · exact hs
    · exact hs
  exact .next (retestHeld_memInv hs1)

/-! ### Placing and ends of workgroups -/

theorem performNow_memInv {id} (hs : s.MemInv) : (performNow s id).MemInv := by
  unfold performNow
  split
  · split
    · exact finishReq_memInv (bumpCounter_memInv (performWrite_memInv hs))
    · exact hs
  · exact hs

theorem flushHome_memInv {h} (hs : s.MemInv) : (flushHome s h).MemInv := by
  unfold flushHome
  extract_lets s1
  have hs1 : s1.MemInv :=
    foldList_memInv hs fun _ _ hs' => foldList_memInv (invalidateLine_memInv hs') fun _ _ => performNow_memInv
  exact hs1.frame rfl rfl

theorem boundary_memInv {v launch taken} (hs : s.MemInv) : (boundary s v launch taken).MemInv := by
  unfold boundary
  extract_lets s1 cs
  have hs1 : s1.MemInv := foldList_memInv hs fun _ _ => flushHome_memInv
  exact hs1.frame rfl rfl

theorem clearPredictor_memInv {h launch} (hs : s.MemInv) : (clearPredictor s h launch).MemInv := by
  unfold clearPredictor
  split
  · exact hs
  · exact hs.frame rfl rfl

theorem newWg_memWf {v l h wgid pos} : (newWg s v l h wgid pos).memWf = true := memWf_of nil_wf nil_wf nil_wf nil_wf

theorem placeWg_memInv {v launch h} (hs : s.MemInv) : (placeWg v launch s h).MemInv := by
  unfold placeWg
  split
  · exact hs
  · extract_lets g s1 s2 s3
    have hs1 : s1.MemInv := bumpId_memInv (clearPredictor_memInv (hs.append
      (List.forall_mem_singleton.mpr newWg_memWf) rfl rfl))
    exact traceEvent_memInv (startUsed_memInv (logDispatch_memInv (updLaunch_memInv hs1)))

theorem settleClaims_memInv {launch} (hs : s.MemInv) : (settleClaims s launch).MemInv := updLaunch_memInv hs

theorem placeAll_memInv {v launch xs} (hs : s.MemInv) : (placeAll v launch s xs).MemInv :=
  settleClaims_memInv (foldList_memInv hs fun _ _ => placeWg_memInv)

theorem endStop_memInv {id} (hs : s.MemInv) : (endStop s id).MemInv := by
  unfold endStop
  split
  · exact hs
  · split
    · exact hs
    · extract_lets s1 s2 s3 s4 s5 s6
      have hs1 : s1.MemInv := updThreads_memInv hs
      have hs5 : s5.MemInv := by
        unfold s5
        refine foldList_memInv (foldList_memInv (updWg_memInv (hs1.frame rfl rfl) fun _ hg => hg) fun _ _ =>
          releaseTrap_memInv) fun _ _ hs' => ?_
        split
        · exact lateExited_memInv hs'
        · exact hs'
      exact retestHeld_memInv (releaseHeld_memInv (foldList_memInv hs5 fun _ _ => reseatHeld_memInv))

theorem deadlineStop_memInv {v l} (hs : s.MemInv) : (deadlineStop s v l).MemInv := by
  unfold deadlineStop
  extract_lets need free among rect enough ws homes claims
  split
  · exact hs
  · exact updLaunch_memInv (foldList_memInv hs fun _ _ => stopWg_memInv)

theorem execWorkgroupPlace_memInv {launch} (hs : s.MemInv) : OutMemInv (execWorkgroupPlace launch s) := by
  unfold execWorkgroupPlace
  split
  · exact .next hs
  · split
    · exact .next hs
    · split
      · split
        · exact .next hs
        · split
          · split
            · exact .next hs
            · exact .next (placeAll_memInv (boundary_memInv hs))
          · exact .next (placeAll_memInv hs)
      · split
        · exact .next (deadlineStop_memInv hs)
        · exact .next hs

theorem prepareHome_memInv {h ctx plan} (hs : s.MemInv) : (prepareHome s h ctx plan).MemInv := by
  unfold prepareHome
  extract_lets last old same keeps gone s1 s2 changed
  have hs1 : s1.MemInv := foldList_memInv hs fun _ _ => invalidateLine_memInv
  exact bumpFree_memInv (bumpCounter_memInv (hs1.frame rfl rfl))

theorem readAgain_memInv {l} (hs : s.MemInv) : (readAgain s l).MemInv := by
  unfold readAgain
  split
  · exact hs
  · split
    · split
      · exact hs
      · exact freezeQueue_memInv hs
    · exact hs

theorem startWg_memInv {id} (hs : s.MemInv) : (startWg s id).MemInv := by
  unfold startWg
  split
  · exact hs
  · split
    · exact updWg_memInv (prepareHome_memInv (readAgain_memInv hs)) fun _ hg =>
        have ⟨_, hbtier, htiles, hrowNan⟩ := memWf_iff.mp hg
        memWf_of (writeBytes_wf _ _ _ nil_wf) hbtier htiles hrowNan
    · exact hs

theorem execWorkgroupStart_memInv {wg} (hs : s.MemInv) : OutMemInv (execWorkgroupStart wg s) := by
  unfold execWorkgroupStart
  split
  · split
    · exact .next (foldList_memInv hs fun _ _ => startWg_memInv)
    · exact .next hs
  · exact .next hs

theorem execWorkgroupEnd_memInv {wg} (hs : s.MemInv) : OutMemInv (execWorkgroupEnd wg s) := by
  unfold execWorkgroupEnd
  split
  · split
    · exact .next hs
    · extract_lets s0 s1 s2 s3 ms s4
      have hs1 : s1.MemInv := updWg_memInv (captureEnd_memInv hs) fun _ hg =>
        memWf_of (memWf_iff.mp hg).1 nil_wf nil_wf nil_wf
      have hs3 : s3.MemInv := traceEvent_memInv (updLaunch_memInv hs1)
      have hs4 : s4.MemInv := by
        unfold s4
        split
        · exact foldList_memInv hs3 fun _ _ hs' => updWg_memInv hs' fun _ hg =>
            have ⟨_, hbtier, htiles, hrowNan⟩ := memWf_iff.mp hg
            memWf_of nil_wf hbtier htiles hrowNan
        · exact hs3
      exact .next (countWg_memInv hs4)
  · exact .next hs

theorem cleanHome_memInv {g} (hs : s.MemInv) : (cleanHome s g).MemInv :=
  foldList_memInv hs fun _ _ => invalidateLine_memInv

theorem beginMove_memInv {x} (hs : s.MemInv) : (beginMove s x).MemInv := by
  unfold beginMove
  split
  · exact hs
  · extract_lets s1 s2
    have hs1 : s1.MemInv := cleanHome_memInv hs
    split
    · exact updWg_memInv (prepareHome_memInv hs1) fun _ hg => hg
    · exact refillRecordBins_memInv (updWg_memInv (hs1.frame rfl rfl) fun _ hg => hg)

theorem settleRecords_memInv {wg cluster ids} (hs : s.MemInv) : (settleRecords s wg cluster ids).MemInv :=
  refillRecordBins_memInv (foldList_memInv hs fun _ _ => bufferRecord_memInv)

theorem arriveWg_memInv {v g} (hs : s.MemInv) : (arriveWg v s g).MemInv := by
  unfold arriveWg
  split
  · extract_lets held s1 s2 s3 s4
    have hs1 : s1.MemInv := clearPredictor_memInv (hs.frame rfl rfl)
    have hs2 : s2.MemInv := by
      unfold s2
      refine updWg_memInv ?_ fun _ hg => hg
      split
      · exact prepareHome_memInv hs1
      · exact hs1
    have hs3 : s3.MemInv := by
      unfold s3
      split
      · exact traceEvent_memInv hs2
      · exact hs2
    have hs4 : s4.MemInv := settleRecords_memInv hs3
    split
    · exact endStop_memInv hs4
    · exact hs4
  · exact hs

theorem refreshSpans_memInv {launch} (hs : s.MemInv) : (refreshSpans s launch).MemInv := by
  unfold refreshSpans
  split
  · exact hs
  · exact hs.frame rfl rfl

theorem rekeyCmds_memInv {wg a b} (hs : s.MemInv) : (rekeyCmds s wg a b).MemInv := by
  unfold rekeyCmds
  split
  · exact hs
  · exact hs.frame rfl rfl

theorem rekeyHalf_memWf {a b g} (hg : g.memWf = true) : (rekeyHalf a b g).memWf = true := by
  unfold rekeyHalf
  split
  · exact hg
  · have ⟨hscratch, hbtier, _⟩ := memWf_iff.mp hg
    exact memWf_of hscratch hbtier (canonical_wf _) (canonical_wf _)

theorem restoreWg_memInv {v l x} (hs : s.MemInv) : (restoreWg v l s x).MemInv := by
  unfold restoreWg
  extract_lets sd ids s1 s2
  have hsd : sd.MemInv := dropImages_memInv (clearPredictor_memInv hs)
  have hs1 : s1.MemInv := rekeyCmds_memInv (hsd.frame rfl rfl)
  have hs2 : s2.MemInv := by
    refine updWg_memInv ?_ fun _ hg => rekeyHalf_memWf hg
    split
    · exact prepareHome_memInv hs1
    · exact hs1
  split
  · exact updWg_memInv (prepareHome_memInv hsd) fun _ hg => hg
  · exact settleRecords_memInv hs2

theorem comeBack_memInv {v l xs} (hs : s.MemInv) : (comeBack v l s xs).MemInv :=
  foldList_memInv (refreshSpans_memInv (foldList_memInv hs fun _ _ => restoreWg_memInv)) fun _ _ => endStop_memInv

theorem execWorkgroupMove_memInv {wg dest} (hs : s.MemInv) : OutMemInv (execWorkgroupMove wg dest s) := by
  unfold execWorkgroupMove
  split
  · extract_lets ctxFree xs fits live
    split
    · exact .next hs
    · split
      · exact .next (comeBack_memInv hs)
      · split
        · exact .next hs
        · split
          · exact .next (foldList_memInv hs fun _ _ => beginMove_memInv)
          · exact .next (foldList_memInv hs fun _ _ => stopWg_memInv)
  · exact .next hs

theorem execMoveComplete_memInv {wg} (hs : s.MemInv) : OutMemInv (execMoveComplete wg s) := by
  unfold execMoveComplete
  split
  · extract_lets ms
    split
    · split
      · exact .next (refreshSpans_memInv (foldList_memInv hs fun _ _ => arriveWg_memInv))
      · exact .next hs
    · split
      · exact .next (refreshSpans_memInv (foldList_memInv hs fun _ _ => arriveWg_memInv))
      · exact .next hs
  · exact .next hs

/-! ### Power -/

theorem shareOut_memInv {vs pool give} (hs : s.MemInv) : (shareOut s vs pool give).MemInv := by
  unfold shareOut
  refine foldList_memInv hs fun _ _ hs' => ?_
  split
  · exact updVd_memInv hs'
  · exact hs'

theorem setAllowances_memInv (hs : s.MemInv) : (setAllowances s).MemInv := shareOut_memInv (hs.frame rfl rfl)

theorem endDrawing_memInv {vd} (hs : s.MemInv) : (endDrawing s vd).MemInv := by
  unfold endDrawing
  split
  · exact hs
  · split
    · exact hs
    · exact shareOut_memInv (updVd_memInv hs)

theorem takeGrains_memInv {vs count less need} (hs : s.MemInv) : (takeGrains s vs count less need).1.MemInv :=
  foldList_memInv hs fun _ _ => updVd_memInv

theorem beginDrawing_memInv {vd} (hs : s.MemInv) : (beginDrawing s vd).MemInv := by
  unfold beginDrawing
  split
  · exact hs
  · split
    · exact hs
    · exact updVd_memInv (takeGrains_memInv (takeGrains_memInv hs))

theorem settleDrawing_memInv {ctx} (hs : s.MemInv) : (settleDrawing s ctx).MemInv := by
  unfold settleDrawing
  split
  · exact hs
  · split
    · exact beginDrawing_memInv hs
    · exact endDrawing_memInv hs

theorem chargeLaunch_memInv {l dyn stat} (hs : s.MemInv) : (chargeLaunch s l dyn stat).MemInv := by
  unfold chargeLaunch
  split
  · exact hs
  · exact updTenant_memInv (updLaunch_memInv hs)

theorem chargeEnded_memInv {x dyn stat} (hs : s.MemInv) : (chargeEnded s x dyn stat).MemInv := by
  unfold chargeEnded
  split
  · exact hs
  · exact updTenant_memInv hs

theorem chargeRood_memInv {span x} (hs : s.MemInv) : (chargeRood span s x).MemInv := by
  unfold chargeRood
  extract_lets e st xs ys xt wt dyn stat s0 s1 vs src
  have hs1 : s1.MemInv :=
    foldList_memInv (foldList_memInv hs fun _ _ => chargeLaunch_memInv) fun _ _ => chargeEnded_memInv
  split
  · exact hs1
  · split
    · exact hs1.frame rfl rfl
    · exact updVd_memInv hs1

theorem execSpanStart_memInv {readings} (hs : s.MemInv) : OutMemInv (execSpanStart readings s) := by
  unfold execSpanStart
  split
  · extract_lets s0 src s1 s2 src' s3
    have hs0 : s0.MemInv := foldList_memInv hs fun _ _ => chargeRood_memInv
    clear_value s0
    have hs1 : s1.MemInv := hs0.frame rfl rfl
    have hs2 : s2.MemInv := bumpFree_memInv (hs1.frame rfl rfl)
    exact .next (setAllowances_memInv (hs2.frame rfl rfl))
  · exact .next hs

/-! ### Queues and launches -/

theorem doorbell_memInv {ctx q} {act : Queue → State} (hs : s.MemInv) (hact : ∀ x0, (act x0).MemInv) :
    (doorbell s ctx q act).MemInv := by
  unfold doorbell
  split
  · exact hs
  · split
    · exact freezeCtx_memInv hs
    · split
      · split
        · exact hact _
        · exact hs
      · exact hs

theorem execSubmitDoorbell_memInv {ctx q value} (hs : s.MemInv) : OutMemInv (execSubmitDoorbell ctx q value s) := by
  unfold execSubmitDoorbell
  refine .next (doorbell_memInv hs fun _ => ?_)
  split
  · exact hs
  · split
    · exact hs
    · split
      · exact freezeQueue_memInv hs
      · exact setQueue_memInv hs

theorem execHostRingDoorbell_memInv {ctx q value} (hs : s.MemInv) : OutMemInv (execHostRingDoorbell ctx q value s) := by
  unfold execHostRingDoorbell
  refine .next (doorbell_memInv hs fun _ => ?_)
  split
  · exact setQueue_memInv hs
  · split
    · exact hs
    · exact freezeQueue_memInv hs

theorem execGraphStart_memInv {ctx q node} (hs : s.MemInv) : OutMemInv (execGraphStart ctx q node s) := by
  unfold execGraphStart
  refine .next (doorbell_memInv hs fun _ => ?_)
  split
  · exact hs
  · split
    · exact freezeQueue_memInv hs
    · split <;> exact setQueue_memInv hs

theorem queueDone_memInv {l status} (hs : s.MemInv) : (queueDone s l status).MemInv := withQueue_memInv hs
theorem raiseIrq_memInv {q vector} (hs : s.MemInv) : (raiseIrq s q vector).MemInv := emit_memInv (setQueue_memInv hs)

theorem execHostRingEntry_memInv {ctx q} (hs : s.MemInv) : OutMemInv (execHostRingEntry ctx q s) := by
  unfold execHostRingEntry
  split
  · exact .next hs
  · split
    · exact .next hs
    · split
      · exact .next hs
      · extract_lets s1 x1 s2
        have hs2 : s2.MemInv := setQueue_memInv (vwrite_memInv hs)
        refine .next ?_
        split
        · exact raiseIrq_memInv hs2
        · exact hs2

theorem execCoalescingTimeout_memInv {ctx q} (hs : s.MemInv) : OutMemInv (execCoalescingTimeout ctx q s) := by
  unfold execCoalescingTimeout
  split
  · exact .next hs
  · split
    · extract_lets t
      refine .next ?_
      split
      · exact raiseIrq_memInv hs
      · exact hs
    · exact .next hs

theorem execGraphSuccessor_memInv {ctx q} (hs : s.MemInv) : OutMemInv (execGraphSuccessor ctx q s) := by
  unfold execGraphSuccessor
  split
  · exact .next hs
  · split
    · extract_lets conf rec_ addr result x1 s0 s1
      have hs0 : s0.MemInv := vreadMet_memInv hs
      have hs1 : s1.MemInv := by
        unfold s1
        split
        · exact hs0
        · exact vreadMet_memInv hs0
      split
      · refine .next ?_
        split
        · exact hs
        · exact freezeQueue_memInv hs
      · exact .next (setQueue_memInv hs1)
    · exact .next hs

theorem refuseLaunch_memInv {q x status} (hs : s.MemInv) : (refuseLaunch s q x status).MemInv := by
  unfold refuseLaunch
  extract_lets l s1 s2 s3
  have hs1 : s1.MemInv := setQueue_memInv hs
  have hs2 : s2.MemInv := by
    unfold s2
    split
    · exact hs1
    · exact vwriteSplit_memInv hs1
  have hs3 : s3.MemInv := bumpId_memInv (queueDone_memInv hs2)
  split
  · exact hs3
  · split
    · exact emit_memInv (bumpFree_memInv (hs3.frame rfl rfl))
    · exact hs3

theorem beginRecording_memInv {l x} (hs : s.MemInv) : (beginRecording s l x).MemInv := by
  unfold beginRecording
  split
  · exact hs
  · extract_lets bs s1
    have hs1 : s1.MemInv := physWrite_memInv hs
    exact hs1.frame rfl rfl

theorem acceptLaunch_memInv {q x l} (hs : s.MemInv) : (acceptLaunch s q x l).MemInv := by
  unfold acceptLaunch
  extract_lets s1 s2 s3 s4 s5
  have hs1 : s1.MemInv := bumpId_memInv (setQueue_memInv hs)
  have hs2 : s2.MemInv := hs1.frame rfl rfl
  have hs3 : s3.MemInv := by
    unfold s3
    split
    · exact hs2
    · exact vwrite_memInv hs2
  have hs4 : s4.MemInv := beginRecording_memInv hs3
  have hs5 : s5.MemInv := by
    unfold s5
    split
    · exact hs4
    · exact hs4.frame rfl rfl
  exact settleDrawing_memInv hs5

theorem sourceMet_memInv {q x} (hs : s.MemInv) : (sourceMet s q x).MemInv := by
  unfold sourceMet
  split
  · exact readMet_memInv hs
  · exact vreadMet_memInv (vreadMet_memInv hs)
  · exact vreadMet_memInv (vreadMet_memInv hs)

theorem execPacketIntake_memInv {ctx q} (hs : s.MemInv) : OutMemInv (execPacketIntake ctx q s) := by
  unfold execPacketIntake
  split
  · exact .next hs
  · split
    · exact .next hs
    · extract_lets s1
      have hs1 : s1.MemInv := hs.frame rfl rfl
      split
      · exact .next (refuseLaunch_memInv (sourceMet_memInv hs1))
      · exact .next (acceptLaunch_memInv (sourceMet_memInv hs1))
      · exact .next (freezeQueue_memInv hs)
      · exact .next hs

theorem releaseHeldPackets_memInv {l} (hs : s.MemInv) : (releaseHeldPackets s l).MemInv := by
  unfold releaseHeldPackets
  refine foldList_memInv hs fun _ _ hs' => ?_
  split
  · exact setQueue_memInv (vwriteSplit_memInv hs')
  · exact hs'

theorem writeCoverWord_memInv {l} (hs : s.MemInv) : (writeCoverWord s l).MemInv := by
  unfold writeCoverWord
  split
  · exact hs
  · extract_lets w
    split
    · exact vwrite_memInv hs
    · exact withQueue_memInv hs

theorem closeRecording_memInv {l} (hs : s.MemInv) : (closeRecording s l).MemInv := by
  unfold closeRecording
  split
  · exact hs
  · extract_lets head dir s1 s2 s3
    have hs3 : s3.MemInv := physWrite_memInv (physWrite_memInv (physWrite_memInv hs))
    clear_value s3
    exact emit_memInv (hs3.frame rfl rfl)

theorem closeReplay_memInv {l} (hs : s.MemInv) : (closeReplay s l).MemInv := by
  unfold closeReplay
  split
  · exact hs
  · exact emit_memInv (hs.frame rfl rfl)

theorem forgetLaunch_memInv {l} (hs : s.MemInv) : (forgetLaunch s l).MemInv :=
  ⟨hs.1, fun g hg => hs.2 g (List.mem_of_mem_filter hg)⟩

theorem chargeEnd_memInv {l} (hs : s.MemInv) : (chargeEnd s l).MemInv := by
  unfold chargeEnd
  extract_lets s1 src
  have hs1 : s1.MemInv := updLaunch_memInv hs
  exact hs1.frame rfl rfl

theorem endLaunch_memInv {v l} (hs : s.MemInv) : (endLaunch s v l).MemInv :=
  settleDrawing_memInv (forgetLaunch_memInv (closeReplay_memInv (closeRecording_memInv (releaseHeldPackets_memInv
    (queueDone_memInv (vwriteSplit_memInv (chargeEnd_memInv (writeCoverWord_memInv (boundary_memInv hs)))))))))

theorem execLaunchEnd_memInv {launch} (hs : s.MemInv) : OutMemInv (execLaunchEnd launch s) := by
  unfold execLaunchEnd
  split
  · exact .next hs
  · split
    · exact .next hs
    · extract_lets mine
      split
      · exact .next hs
      · exact .next (endLaunch_memInv hs)

/-! ### The mailbox -/

theorem respond_memInv {h status result} (hs : s.MemInv) : (respond s h status result).MemInv := emit_memInv hs
theorem okay_memInv {h} (hs : s.MemInv) : (okay s h).MemInv := respond_memInv hs

theorem carryAdmitted_memInv {h} {act : State → State} {adm} (hact : ∀ s, s.MemInv → (act s).MemInv) (hs : s.MemInv) :
    (carryAdmitted h act s adm).MemInv := by
  unfold carryAdmitted
  split
  · exact hact _ hs
  · exact respond_memInv hs
  · exact respond_memInv (emit_memInv hs)
  · refine respond_memInv ?_
    split
    · exact freezeCtx_memInv hs
    · exact hs

theorem command_memInv {g h} {act : State → State} (hact : ∀ s, s.MemInv → (act s).MemInv) (hs : s.MemInv) :
    OutMemInv (command g h act s) := by
  unfold command
  split
  · exact .next hs
  · exact .next (carryAdmitted_memInv hact hs)

theorem holdCmd_memInv {i} (hs : s.MemInv) : (holdCmd s i).MemInv := hs.frame rfl rfl

theorem actOrHold_memInv {i ctx} {act : State → State} (hact : ∀ s, s.MemInv → (act s).MemInv) (hs : s.MemInv) :
    (actOrHold i ctx act s).MemInv := by
  unfold actOrHold
  split
  · exact holdCmd_memInv hs
  · exact hact _ hs

theorem ordered_memInv {i g h} {act : State → State} (hact : ∀ s, s.MemInv → (act s).MemInv) (hs : s.MemInv) :
    OutMemInv (ordered i g h act s) :=
  command_memInv (fun _ hs' => actOrHold_memInv hact hs') hs

theorem stopMembers_memInv {why id} (hs : s.MemInv) : (stopMembers why s id).MemInv := by
  unfold stopMembers
  split
  · exact foldList_memInv hs fun _ _ => stopWg_memInv
  · exact hs

theorem endStopCtx_memInv {ctx} (hs : s.MemInv) : (endStopCtx s ctx).MemInv :=
  foldList_memInv (foldList_memInv (updCtx_memInv hs) fun _ _ => endStop_memInv) fun _ _ => stopMembers_memInv

/-! ### Tenants, contexts and grants -/

theorem execRoodMode_memInv {h rood split} (hs : s.MemInv) : OutMemInv (execRoodMode h rood split s) := by
  unfold execRoodMode
  refine command_memInv (fun _ hs' => ?_) hs
  split
  · exact respond_memInv hs'
  · split
    · exact respond_memInv hs'
    · exact okay_memInv (hs'.frame rfl rfl)

theorem execVdCreate_memInv {h shape engines} (hs : s.MemInv) : OutMemInv (execVdCreate h shape engines s) := by
  unfold execVdCreate
  refine command_memInv (fun _ hs' => ?_) hs
  split
  · exact respond_memInv hs'
  · split
    · exact respond_memInv hs'
    · split
      · exact respond_memInv hs'
      · split
        · exact respond_memInv hs'
        · exact respond_memInv (hs'.frame rfl rfl)

theorem execVdDestroy_memInv {h vd} (hs : s.MemInv) : OutMemInv (execVdDestroy h vd s) := by
  unfold execVdDestroy
  refine command_memInv (fun _ hs' => ?_) hs
  split
  · exact respond_memInv hs'
  · split
    · exact respond_memInv hs'
    · exact okay_memInv (hs'.frame rfl rfl)

theorem execCopyAssign_memInv {h vd engines} (hs : s.MemInv) : OutMemInv (execCopyAssign h vd engines s) := by
  unfold execCopyAssign
  refine command_memInv (fun _ hs' => ?_) hs
  split
  · exact respond_memInv hs'
  · split
    · exact respond_memInv hs'
    · exact okay_memInv (updVd_memInv hs')

theorem execTenantCreate_memInv {h publicKey} (hs : s.MemInv) : OutMemInv (execTenantCreate h publicKey s) := by
  unfold execTenantCreate
  refine command_memInv (fun _ hs' => ?_) hs
  split
  · split
    · exact respond_memInv hs'
    · exact respond_memInv (bumpFree_memInv (bumpId_memInv (bumpId_memInv (hs'.frame rfl rfl))))
  · extract_lets session
    split
    · exact respond_memInv hs'
    · split
      · exact respond_memInv hs'
      · split
        · exact respond_memInv hs'
        · exact okay_memInv (updVd_memInv (updTenant_memInv hs'))

theorem barBroken_memInv {charter ch} (hs : s.MemInv) : (barBroken s charter ch).MemInv := hs.frame rfl rfl

theorem execCharterInstall_memInv {h bytes} (hs : s.MemInv) : OutMemInv (execCharterInstall h bytes s) := by
  unfold execCharterInstall
  refine command_memInv (fun _ hs' => ?_) hs
  split
  · exact respond_memInv hs'
  · split
    · exact okay_memInv (barBroken_memInv (updTenant_memInv hs'))
    · exact respond_memInv hs'

theorem closeRecordings_memInv {mine} (hs : s.MemInv) : (closeRecordings s mine).MemInv :=
  foldList_memInv (hs.frame rfl rfl) fun _ _ => respond_memInv

theorem removePages_memInv {ctx p} (hs : s.MemInv) : (removePages s ctx p).MemInv := by
  unfold removePages
  extract_lets asid gone s1
  have hs1 : s1.MemInv := hs.frame rfl rfl
  exact hs1.frame rfl rfl

theorem quarantineGrant_memInv {s0 : State} {g} (hs : s0.MemInv) : (quarantineGrant s0 g).MemInv := by
  unfold quarantineGrant
  extract_lets s1 s frames dev mine src
  have hs1 : s1.MemInv := removePages_memInv hs
  have hsrc : src.MemInv := closeRecordings_memInv (hs1.frame rfl rfl)
  exact hsrc.frame rfl rfl

theorem forgetAsid_memInv {asid} (hs : s.MemInv) : (forgetAsid s asid).MemInv := hs.frame rfl rfl

theorem endLaunches_memInv {ctx} (hs : s.MemInv) : (endLaunches s ctx).MemInv := by
  unfold endLaunches
  split
  · exact hs
  · refine foldList_memInv hs fun _ _ hs' => ?_
    split
    · exact endLaunch_memInv hs'
    · exact hs'

theorem refuseCxl_memInv {x} (hs : s.MemInv) : (refuseCxl s x).MemInv := by
  unfold refuseCxl
  extract_lets s1 s2
  have hs2 : s2.MemInv := emit_memInv (hs.frame rfl rfl)
  split
  · exact hs2
  · exact emit_memInv hs2

theorem refuseHeld_memInv {p} (hs : s.MemInv) : (refuseHeld s p).MemInv := by
  unfold refuseHeld
  refine foldList_memInv (hs.frame rfl rfl) fun _ _ hs' => ?_
  split
  · exact refuseCxl_memInv hs'
  · exact hs'

theorem destroyCtx_memInv {c} (hs : s.MemInv) : (destroyCtx s c).MemInv := by
  unfold destroyCtx
  extract_lets s1 gone s2 s3 s4
  have hs2 : s2.MemInv := dropImages_memInv (foldList_memInv (refuseHeld_memInv (endLaunches_memInv
    (killCtx_memInv hs))) fun _ _ => okay_memInv)
  have hs4 : s4.MemInv := foldList_memInv (forgetAsid_memInv (hs2.frame rfl rfl)) fun _ _ => quarantineGrant_memInv
  exact updVd_memInv (hs4.frame rfl rfl)

theorem execTenantTeardown_memInv {h} (hs : s.MemInv) : OutMemInv (execTenantTeardown h s) := by
  unfold execTenantTeardown
  refine command_memInv (fun _ hs' => ?_) hs
  split
  · exact respond_memInv hs'
  · split
    · exact respond_memInv hs'
    · extract_lets s0 s1
      have hs1 : s1.MemInv :=
        foldList_memInv (foldList_memInv hs' fun _ _ => destroyCtx_memInv) fun _ _ => quarantineGrant_memInv
      exact okay_memInv (hs1.frame rfl rfl)

theorem execCtxCreate_memInv {h vd prHandle prOffset prLog} (hs : s.MemInv) :
    OutMemInv (execCtxCreate h vd prHandle prOffset prLog s) := by
  unfold execCtxCreate
  refine command_memInv (fun _ hs' => ?_) hs
  split
  · split
    · exact respond_memInv hs'
    · split
      · exact respond_memInv hs'
      · split
        · exact respond_memInv hs'
        · split
          · exact respond_memInv hs'
          · exact respond_memInv (updVd_memInv (hs'.frame rfl rfl))
  · exact respond_memInv hs'

theorem execCtxDestroy_memInv {h} (hs : s.MemInv) : OutMemInv (execCtxDestroy h s) := by
  unfold execCtxDestroy
  refine command_memInv (fun _ hs' => ?_) hs
  split
  · exact okay_memInv (destroyCtx_memInv hs')
  · exact respond_memInv hs'

theorem execQueueBind_memInv {h qcb} (hs : s.MemInv) : OutMemInv (execQueueBind h qcb s) := by
  refine command_memInv (fun s hs => ?_) hs
  split
  · exact respond_memInv hs
  · extract_lets s0 c old q s1
    have hs0 : s0.MemInv := vreadMet_memInv hs
    have hs1 : s1.MemInv := by
      unfold s1
      split
      · exact hs0
      · exact hs0.frame rfl rfl
    clear_value s1
    refine iteInduction (motive := State.MemInv) (fun _ => respond_memInv hs0) fun _ => ?_
    split
    · exact respond_memInv hs0
    · exact okay_memInv (setQueue_memInv hs1)

theorem execQueueUnbind_memInv {h q} (hs : s.MemInv) : OutMemInv (execQueueUnbind h q s) := by
  unfold execQueueUnbind
  refine command_memInv (fun _ hs' => ?_) hs
  split
  · split
    · exact respond_memInv hs'
    · split
      · exact respond_memInv hs'
      · exact okay_memInv (setQueue_memInv hs')
  · exact respond_memInv hs'

theorem execQueueReload_memInv {h q} (hs : s.MemInv) : OutMemInv (execQueueReload h q s) := by
  unfold execQueueReload
  refine command_memInv (fun _ hs' => ?_) hs
  split
  · extract_lets s2 c
    have hs2 : s2.MemInv := vreadMet_memInv hs'
    split
    · exact respond_memInv hs2
    · split
      · exact respond_memInv hs2
      · exact okay_memInv (setQueue_memInv hs2)
  · exact respond_memInv hs'

theorem execUnfreeze_memInv {h m} (hs : s.MemInv) : OutMemInv (execUnfreeze h m s) := by
  unfold execUnfreeze
  refine command_memInv (fun _ hs' => ?_) hs
  split
  · split
    · exact okay_memInv (withQueue_memInv hs')
    · exact respond_memInv hs'
  · exact okay_memInv (updVd_memInv hs')
  · extract_lets s1
    have hs1 : s1.MemInv := updCtx_memInv hs'
    refine okay_memInv ?_
    split
    · exact endStopCtx_memInv hs1
    · exact endStopCtx_memInv hs1
    · exact hs1
  · exact respond_memInv hs'

theorem execKill_memInv {h} (hs : s.MemInv) : OutMemInv (execKill h s) :=
  command_memInv (fun _ hs' => okay_memInv (killCtx_memInv hs')) hs

theorem execQcbStore_memInv {ctx q off _b} (hs : s.MemInv) : OutMemInv (execQcbStore ctx q off _b s) := by
  unfold execQcbStore
  split
  · split
    · exact .next (freezeQueue_memInv hs)
    · exact .next hs
  · exact .next hs

/-! ### Mapping lists -/

theorem addGrant_memInv {h k f src} (hs : s.MemInv) : (addGrant s h k f src).MemInv :=
  respond_memInv (bumpId_memInv (hs.frame rfl rfl))

theorem grantAct_memInv {h k src} (hs : s.MemInv) : (grantAct h k src s).MemInv := by
  unfold grantAct
  split
  · exact respond_memInv hs
  · split
    · split
      · exact respond_memInv hs
      · split
        · exact respond_memInv hs
        · split
          · exact respond_memInv hs
          · exact bumpFree_memInv (addGrant_memInv hs)
    · split
      · exact addGrant_memInv hs
      · exact respond_memInv hs
    · split
      · exact addGrant_memInv hs
      · exact respond_memInv hs

theorem execFrameGrant_memInv {h k src} (hs : s.MemInv) : OutMemInv (execFrameGrant h k src s) :=
  ordered_memInv (fun _ => grantAct_memInv) hs

theorem defer_memInv {h k} (hs : s.MemInv) : (defer s h k).MemInv := respond_memInv (hs.frame rfl rfl)

theorem revokeAct_memInv {h handle} (hs : s.MemInv) : (revokeAct h handle s).MemInv := by
  unfold revokeAct
  split
  · exact respond_memInv hs
  · split
    · exact respond_memInv hs
    · split
      · exact defer_memInv hs
      · exact okay_memInv (quarantineGrant_memInv hs)

theorem execFrameRevoke_memInv {h handle} (hs : s.MemInv) : OutMemInv (execFrameRevoke h handle s) :=
  ordered_memInv (fun _ => revokeAct_memInv) hs

theorem supply_memInv {ctx lo n} (hs : s.MemInv) : (supply s ctx lo n).MemInv := by
  unfold supply
  extract_lets s1
  have hs1 : s1.MemInv := updCtx_memInv hs
  exact retestCtx_memInv (hs1.frame rfl rfl)

theorem mapAct_memInv {h handle off count} (hs : s.MemInv) : (mapAct h handle off count s).MemInv := by
  unfold mapAct
  split
  · exact respond_memInv hs
  · split
    · exact respond_memInv hs
    · extract_lets s' es s1
      have hs' : s'.MemInv := readMet_memInv hs
      split
      · exact respond_memInv hs'
      · exact okay_memInv (foldList_memInv (hs'.frame rfl rfl) fun _ _ => supply_memInv)

theorem execCmdMap_memInv {h handle off count} (hs : s.MemInv) : OutMemInv (execCmdMap h handle off count s) :=
  ordered_memInv (fun _ => mapAct_memInv) hs

theorem unmapAct_memInv {h handle off first count} (hs : s.MemInv) : (unmapAct h handle off first count s).MemInv := by
  unfold unmapAct
  split
  · exact respond_memInv hs
  · split
    · exact respond_memInv hs
    · exact defer_memInv hs

theorem execUnmap_memInv {h handle off first count} (hs : s.MemInv) :
    OutMemInv (execUnmap h handle off first count s) :=
  ordered_memInv (fun _ => unmapAct_memInv) hs

theorem applyDeferred_memInv {d} (hs : s.MemInv) : (applyDeferred s d).MemInv := by
  unfold applyDeferred
  split
  · exact removePages_memInv hs
  · split
    · exact quarantineGrant_memInv hs
    · exact hs

theorem execDeferredChangeApply_memInv {ctx} (hs : s.MemInv) : OutMemInv (execDeferredChangeApply ctx s) := by
  unfold execDeferredChangeApply
  split
  · exact .next hs
  · split
    · exact .next hs
    · exact .next (resumeCmds_memInv (okay_memInv (applyDeferred_memInv (hs.frame rfl rfl))))

theorem violateAct_memInv {h va} (hs : s.MemInv) : (violateAct h va s).MemInv := by
  unfold violateAct
  extract_lets pva
  split
  · exact respond_memInv hs
  · extract_lets s1
    have hs1 : s1.MemInv := updCtx_memInv hs
    exact okay_memInv (retestCtx_memInv (hs1.frame rfl rfl))

theorem execViolate_memInv {h va} (hs : s.MemInv) : OutMemInv (execViolate h va s) :=
  ordered_memInv (fun _ => violateAct_memInv) hs

theorem updPage_memInv {ctx va f} (hs : s.MemInv) : (updPage s ctx va f).MemInv := hs.frame rfl rfl

theorem precedence_memInv {p} (hs : s.MemInv) : (precedence s p).MemInv := by
  unfold precedence
  extract_lets s1
  have hs1 : s1.MemInv := updCtx_memInv (updPage_memInv hs)
  split
  · exact emit_memInv hs1
  · exact hs1

theorem flushPage_memInv {p} (hs : s.MemInv) : (flushPage s p).MemInv :=
  foldList_memInv hs fun _ _ hs' => invalidateLine_memInv (stopInstall_memInv hs')

theorem migrateOutAct_memInv {acted h va} (hs : s.MemInv) : (migrateOutAct acted h va s).MemInv := by
  unfold migrateOutAct
  split
  · exact respond_memInv hs
  · split
    · exact respond_memInv hs
    · split
      · split
        · exact respond_memInv (emit_memInv (updCtx_memInv hs))
        · exact okay_memInv (updPage_memInv (flushPage_memInv (hs.frame rfl rfl)))
      · refine holdCmd_memInv ?_
        split
        · exact hs
        · exact precedence_memInv hs
      · exact okay_memInv hs
      · exact okay_memInv hs

theorem execMigrateOut_memInv {h va} (hs : s.MemInv) : OutMemInv (execMigrateOut h va s) :=
  ordered_memInv (fun _ => migrateOutAct_memInv) hs

theorem copyPhys_memInv {src dst n} (hs : s.MemInv) : (copyPhys s src dst n).MemInv :=
  ⟨foldl_wf (clearRange_wf _ _ _ hs.1) fun _ _ hm => writeByte_wf _ _ _ hm, hs.2⟩

theorem execMigrationCopyComplete_memInv {ctx va} (hs : s.MemInv) : OutMemInv (execMigrationCopyComplete ctx va s) := by
  unfold execMigrationCopyComplete
  split
  · exact .next hs
  · split
    · extract_lets s1 s2
      have hs2 : s2.MemInv := resumeAccesses_memInv (supply_memInv (updPage_memInv (copyPhys_memInv hs)))
      refine .next ?_
      split
      · exact hs2
      · exact resumeCmds_memInv hs2
    · split
      · exact .next hs
      · exact .next (refuseHeld_memInv (updPage_memInv (copyPhys_memInv hs)))
    · exact .next hs
    · exact .next hs

theorem execMigrationPinExpiry_memInv {ctx va} (hs : s.MemInv) : OutMemInv (execMigrationPinExpiry ctx va s) := by
  unfold execMigrationPinExpiry
  split
  · exact .next hs
  · split
    · exact .next (updPage_memInv hs)
    · exact .next hs

theorem execCxlMemAccess_memInv {x} (hs : s.MemInv) : OutMemInv (execCxlMemAccess x s) := by
  unfold execCxlMemAccess
  split
  · exact .next (refuseCxl_memInv hs)
  · split
    · exact .next (refuseCxl_memInv hs)
    · split
      · extract_lets pa
        split
        · split
          next e => exact .next (refuseCxl_memInv ((freezeFor_memInv hs).of_eq_some e))
          next => exact .next (physWrite_memInv hs)
        · exact .next (emit_memInv (readMet_memInv hs))
      · exact .next (holdCmd_memInv (precedence_memInv hs))
      · exact .next (holdCmd_memInv hs)
      · exact .next (refuseCxl_memInv hs)

theorem execQuarantineScrubComplete_memInv {frame} (hs : s.MemInv) :
    OutMemInv (execQuarantineScrubComplete frame s) := by
  unfold execQuarantineScrubComplete
  split
  · exact .next ⟨clearRange_wf _ _ _ hs.1, hs.2⟩
  · exact .next hs

theorem runHeld_memInv {c} (hs : s.MemInv) : OutMemInv (runHeld c s) := by
  unfold runHeld
  split
  · exact .next (actOrHold_memInv (fun _ => grantAct_memInv) hs)
  · exact .next (actOrHold_memInv (fun _ => revokeAct_memInv) hs)
  · exact .next (actOrHold_memInv (fun _ => mapAct_memInv) hs)
  · exact .next (actOrHold_memInv (fun _ => unmapAct_memInv) hs)
  · exact .next (actOrHold_memInv (fun _ => violateAct_memInv) hs)
  · exact .next (actOrHold_memInv (fun _ => migrateOutAct_memInv) hs)
  · exact execCxlMemAccess_memInv hs

/-! ### Stops, images and moves -/

theorem recordHeld_memInv {t} (hs : s.MemInv) : (recordHeld s t).MemInv := by
  unfold recordHeld
  split
  · exact writeRecord_memInv hs
  · exact hs

theorem freeChains_memInv {wg} (hs : s.MemInv) : (freeChains s wg).MemInv := hs.frame rfl rfl

theorem completeStop_memInv {s0 : State} {id} (hs : s0.MemInv) : (completeStop s0 id).MemInv :=
  updWg_memInv (foldList_memInv (freeChains_memInv hs) fun _ _ => recordHeld_memInv) fun _ hg => hg

theorem unbufferRecords_memInv {wg} (hs : s.MemInv) : (unbufferRecords s wg).MemInv := hs.frame rfl rfl

theorem storeImage_memInv {x} (hs : s.MemInv) : (storeImage s x).MemInv := by
  unfold storeImage
  extract_lets src
  have hsrc : src.MemInv := physWrite_memInv hs
  exact hsrc.frame rfl rfl

theorem dropImage_memInv {x} (hs : s.MemInv) : (dropImage s x).MemInv := dropImages_memInv hs

theorem imageWg_memInv {id} (hs : s.MemInv) : (imageWg s id).MemInv := by
  unfold imageWg
  split
  · split
    · refine refillRecordBins_memInv ?_
      refine unbufferRecords_memInv ?_
      refine updWg_memInv ?_ fun _ hg => hg
      split
      · exact cleanHome_memInv hs
      · exact hs
    · exact hs
  · exact hs

theorem imageWgs_memInv {ms} (hs : s.MemInv) : (imageWgs s ms).MemInv :=
  foldList_memInv (foldList_memInv hs fun _ _ => cleanHome_memInv) fun _ _ => imageWg_memInv

theorem saveWg_memInv {v g} (hs : s.MemInv) : (saveWg v s g).MemInv := by
  unfold saveWg
  extract_lets body image
  split <;> exact storeImage_memInv (bumpFree_memInv (bumpId_memInv hs))

theorem vacate_memInv {v l ms} (hs : s.MemInv) : (vacate s v l ms).MemInv := by
  unfold vacate
  extract_lets ready
  split
  · exact foldList_memInv hs fun _ _ => beginMove_memInv
  · exact imageWgs_memInv hs

theorem completeWgs_memInv {ctx} (hs : s.MemInv) : (completeWgs s ctx).MemInv := by
  unfold completeWgs
  refine foldList_memInv hs fun _ _ hs' => ?_
  split
  · extract_lets ms s1
    have hs1 : s1.MemInv := foldList_memInv hs' fun _ _ => completeStop_memInv
    split
    · split
      · split
        · exact vacate_memInv hs1
        · split
          · exact hs1
          · exact foldList_memInv hs1 fun _ _ => endStop_memInv
      · exact hs'
    · exact hs'
  · exact hs'

theorem closeCtx_memInv {c v addr} (hs : s.MemInv) : (closeCtx s c v addr).MemInv := by
  unfold closeCtx
  extract_lets x live s1 s2 s3
  have hs2 : s2.MemInv := dropImages_memInv (imageWgs_memInv (foldList_memInv (bumpFree_memInv (bumpId_memInv hs))
    fun _ _ => flushHome_memInv))
  have hs3 : s3.MemInv := by
    unfold s3
    split
    · exact emit_memInv hs2
    · exact updCtx_memInv (storeImage_memInv hs2)
  split
  · exact updCtx_memInv (respond_memInv hs3)
  · exact hs3

theorem execImageClose_memInv {ctx} (hs : s.MemInv) : OutMemInv (execImageClose ctx s) := by
  unfold execImageClose
  split
  · split
    · exact .next hs
    · split
      · split
        · exact .next hs
        · exact .next (closeCtx_memInv hs)
      · split
        · exact .next hs
        · exact .next (foldList_memInv hs fun _ _ => saveWg_memInv)
  · exact .next hs

theorem writeDump_memInv {c v area} (hs : s.MemInv) : (writeDump s c v area).MemInv := physWrite_memInv hs

theorem execDump_memInv {h handle off len word} (hs : s.MemInv) : OutMemInv (execDump h handle off len word s) := by
  unfold execDump
  refine command_memInv (fun _ hs' => ?_) hs
  split
  · split
    · exact respond_memInv hs'
    · split
      · exact respond_memInv hs'
      · split
        · exact respond_memInv hs'
        · split
          · exact respond_memInv hs'
          · exact stopCtx_memInv (updCtx_memInv (respond_memInv hs'))
  · exact respond_memInv hs'

theorem settleDump_memInv {c hold} (hs : s.MemInv) : (settleDump s c hold).MemInv := by
  unfold settleDump
  split
  · split
    · exact updCtx_memInv hs
    · split
      · exact hs
      · exact endStopCtx_memInv hs
  · exact hs

theorem completeDump_memInv {ctx} (hs : s.MemInv) : (completeDump s ctx).MemInv := by
  unfold completeDump
  split
  · split
    · exact settleDump_memInv (okay_memInv (updCtx_memInv (writeDump_memInv hs)))
    · exact hs
  · exact hs

theorem execContextStopComplete_memInv {ctx} (hs : s.MemInv) : OutMemInv (execContextStopComplete ctx s) := by
  unfold execContextStopComplete
  split
  · exact .next hs
  · split
    · exact .next (completeWgs_memInv hs)
    · exact .next hs
    · extract_lets gs s1 s2
      have hs2 : s2.MemInv := updCtx_memInv (foldList_memInv hs fun _ _ => completeStop_memInv)
      split
      · exact .next hs
      · refine .next ?_
        split
        · exact completeDump_memInv (updCtx_memInv (okay_memInv hs2))
        · exact completeDump_memInv hs2

theorem beginStop_memInv {h why dest} (hs : s.MemInv) : (beginStop s h why dest).MemInv := by
  unfold beginStop
  split
  · exact respond_memInv hs
  · extract_lets mark
    split
    · exact stopCtx_memInv (updCtx_memInv hs)
    · exact respond_memInv hs
    · split
      · exact respond_memInv hs
      · split
        · exact okay_memInv hs
        · exact updCtx_memInv (updCtx_memInv hs)

theorem execPreempt_memInv {h dest} (hs : s.MemInv) : OutMemInv (execPreempt h dest s) := by
  unfold execPreempt
  refine command_memInv (fun _ hs' => ?_) hs
  split
  · exact beginStop_memInv hs'
  · split
    · split
      · exact respond_memInv hs'
      · split
        · exact respond_memInv hs'
        · exact beginStop_memInv hs'
    · split
      · exact respond_memInv hs'
      · split
        · exact respond_memInv hs'
        · exact beginStop_memInv hs'

theorem execEvict_memInv {h} (hs : s.MemInv) : OutMemInv (execEvict h s) :=
  command_memInv (fun _ => beginStop_memInv) hs

theorem restoreCtx_memInv {v ctx} (hs : s.MemInv) : (restoreCtx s v ctx).MemInv := by
  unfold restoreCtx
  refine foldList_memInv hs fun _ _ hs' => ?_
  split
  · split
    · exact hs'
    · extract_lets ms
      split
      · exact refreshSpans_memInv (foldList_memInv hs' fun _ _ => restoreWg_memInv)
      · exact hs'
  · exact hs'

theorem adoptQueue_memInv {ctx x} (hs : s.MemInv) : (adoptQueue ctx s x).MemInv := by
  unfold adoptQueue
  split
  · exact setQueue_memInv hs
  · exact hs.frame rfl rfl

theorem adoptWg_memWf {ctx g} : (adoptWg s ctx g).memWf = true :=
  memWf_of (canonical_wf _) (canonical_wf _) (canonical_wf _) (canonical_wf _)

theorem adoptImage_memInv {c x} (hs : s.MemInv) : (adoptImage s c x).MemInv := by
  unfold adoptImage
  extract_lets n y ids s1 s2 s3 s4
  have hs1 : s1.MemInv := hs.append (List.forall_mem_map.mpr fun _ _ => adoptWg_memWf) rfl rfl
  have hs2 : s2.MemInv := foldList_memInv hs1 fun _ _ => adoptQueue_memInv
  exact bumpId_memInv (updTenant_memInv (updCtx_memInv (updVd_memInv hs2)))

theorem resumeArrived_memInv {h c v x} (hs : s.MemInv) : (resumeArrived s h c v x).MemInv := by
  unfold resumeArrived
  split
  · exact respond_memInv hs
  · exact okay_memInv (endStopCtx_memInv (restoreCtx_memInv (adoptImage_memInv hs)))

theorem execResume_memInv {h image} (hs : s.MemInv) : OutMemInv (execResume h image s) := by
  unfold execResume
  refine command_memInv (fun _ hs' => ?_) hs
  split
  · split
    · exact resumeArrived_memInv hs'
    · exact respond_memInv hs'
    · exact respond_memInv hs'
    · split
      · exact respond_memInv hs'
      · split
        · split
          · exact respond_memInv hs'
          · exact okay_memInv (endStopCtx_memInv hs')
        · split
          · exact respond_memInv hs'
          · split
            · exact respond_memInv hs'
            · exact okay_memInv (endStopCtx_memInv (restoreCtx_memInv (updCtx_memInv (dropImage_memInv hs'))))
  · exact respond_memInv hs'

theorem moveImage_memInv {x loc addr} (hs : s.MemInv) : (moveImage s x loc addr).MemInv :=
  storeImage_memInv (dropImage_memInv hs)

theorem execImagePlace_memInv {h vd cls image loc addr} (hs : s.MemInv) :
    OutMemInv (execImagePlace h vd cls image loc addr s) := by
  unfold execImagePlace
  refine command_memInv (fun _ hs' => ?_) hs
  split
  · exact respond_memInv hs'
  · split
    · split
      · exact respond_memInv hs'
      · split
        · exact respond_memInv hs'
        · exact okay_memInv (updVd_memInv hs')
    · split
      · exact respond_memInv hs'
      · split
        · exact respond_memInv hs'
        · split
          · exact respond_memInv hs'
          · split
            · exact okay_memInv (moveImage_memInv hs')
            · exact respond_memInv hs'

/-! ### Services -/

theorem execModuleLoad_memInv {h spf} (hs : s.MemInv) : OutMemInv (execModuleLoad h spf s) := by
  unfold execModuleLoad
  refine command_memInv (fun _ hs' => ?_) hs
  split
  · exact respond_memInv (hs'.frame rfl rfl)
  · exact respond_memInv (bumpId_memInv (hs'.frame rfl rfl))

theorem execModuleUnload_memInv {h handle} (hs : s.MemInv) : OutMemInv (execModuleUnload h handle s) := by
  unfold execModuleUnload
  refine command_memInv (fun _ hs' => ?_) hs
  split
  · split
    · exact okay_memInv (hs'.frame rfl rfl)
    · exact respond_memInv hs'
  · exact respond_memInv hs'

theorem execModuleTranslationComplete_memInv {handle linked native} (hs : s.MemInv) :
    OutMemInv (execModuleTranslationComplete handle linked native s) := by
  unfold execModuleTranslationComplete
  split
  · split
    · exact .next hs
    · exact .next (hs.frame rfl rfl)
  · exact .next hs

theorem debugCommand_memInv {h} {act : State → State} (hact : ∀ s, s.MemInv → (act s).MemInv) (hs : s.MemInv) :
    OutMemInv (debugCommand h act s) := by
  unfold debugCommand
  refine command_memInv (fun _ hs' => ?_) hs
  split
  · exact hact _ hs'
  · exact respond_memInv hs'

theorem execAttach_memInv {h breakpoints} (hs : s.MemInv) : OutMemInv (execAttach h breakpoints s) :=
  debugCommand_memInv (fun _ hs' => okay_memInv (updCtx_memInv hs')) hs

theorem releaseRecord_memInv {step id} (hs : s.MemInv) : (releaseRecord step s id).MemInv :=
  wakeRecord_memInv (updRecord_memInv hs)

theorem execDetach_memInv {h} (hs : s.MemInv) : OutMemInv (execDetach h s) := by
  unfold execDetach
  refine debugCommand_memInv (fun _ hs' => ?_) hs
  split
  · exact respond_memInv hs'
  · extract_lets mine s1 s2 s3 s4
    have hs1 : s1.MemInv := updCtx_memInv hs'
    exact okay_memInv (foldList_memInv (retestHeld_memInv (foldList_memInv (hs1.frame rfl rfl) fun _ _ =>
      releaseRecord_memInv)) fun _ _ => killLaunch_memInv)

theorem execRelease_memInv {h rid} (hs : s.MemInv) : OutMemInv (execRelease h rid s) := by
  unfold execRelease
  refine debugCommand_memInv (fun _ hs' => ?_) hs
  split
  · exact okay_memInv (releaseRecord_memInv hs')
  · exact respond_memInv hs'

theorem execStepCmd_memInv {h rid} (hs : s.MemInv) : OutMemInv (execStepCmd h rid s) := by
  unfold execStepCmd
  refine debugCommand_memInv (fun _ hs' => ?_) hs
  split
  · exact okay_memInv (releaseRecord_memInv hs')
  · exact respond_memInv hs'

theorem execDiscard_memInv {h rid} (hs : s.MemInv) : OutMemInv (execDiscard h rid s) := by
  unfold execDiscard
  refine debugCommand_memInv (fun _ hs' => ?_) hs
  split
  · exact okay_memInv (releaseHeld_memInv (discardAtLast_memInv (freeHandles_memInv (updWg_memInv (hs'.frame rfl rfl)
      fun _ hg => hg))))
  · exact respond_memInv hs'

theorem execPowerSet_memInv {h vd g w} (hs : s.MemInv) : OutMemInv (execPowerSet h vd g w s) := by
  unfold execPowerSet
  refine command_memInv (fun _ hs' => ?_) hs
  split
  · extract_lets others
    split
    · exact respond_memInv hs'
    · exact okay_memInv (updVd_memInv hs')
  · exact respond_memInv hs'

theorem execRingSet_memInv {h n desc} (hs : s.MemInv) : OutMemInv (execRingSet h n desc s) := by
  unfold execRingSet
  refine command_memInv (fun _ hs' => ?_) hs
  extract_lets vd
  split
  · exact respond_memInv hs'
  · split
    · exact respond_memInv hs'
    · exact okay_memInv (updVd_memInv hs')

theorem execRingClear_memInv {h n} (hs : s.MemInv) : OutMemInv (execRingClear h n s) := by
  unfold execRingClear
  refine command_memInv (fun _ hs' => ?_) hs
  extract_lets vd s1
  have hs1 : s1.MemInv := updVd_memInv hs'
  split
  · split
    · exact respond_memInv hs'
    · refine okay_memInv ?_
      split
      · exact retestCtx_memInv hs1
      · exact hs1
  · split
    · exact respond_memInv hs'
    · refine okay_memInv ?_
      split
      · exact retestCtx_memInv hs1
      · exact hs1

theorem putFrame_memInv {c v r f} (hs : s.MemInv) : (putFrame s c v r f).MemInv := by
  unfold putFrame
  extract_lets upd s1 s2
  split
  · exact updVd_memInv (vwrite_memInv hs)
  · exact retestCtx_memInv (updVd_memInv (vwrite_memInv (vwriteSplit_memInv hs)))

theorem hostFrame_memInv {f} (hs : s.MemInv) : (hostFrame s f).MemInv := bumpFree_memInv (hs.frame rfl rfl)

theorem execFrameReceive_memInv {f} (hs : s.MemInv) : OutMemInv (execFrameReceive f s) := by
  unfold execFrameReceive
  split
  · exact .next hs
  · split
    · exact .next (hs.frame rfl rfl)
    · split
      · refine .next ?_
        split
        · exact putFrame_memInv hs
        · exact hs
      · exact .next (hostFrame_memInv hs)

theorem execHostTransmit_memInv {f} (hs : s.MemInv) : OutMemInv (execHostTransmit f s) := by
  unfold execHostTransmit
  split
  · exact .next (emit_memInv hs)
  · exact .next hs

/-! ### Telemetry -/

theorem telemetry_memInv {o h} {act : State → State} (hact : ∀ s, s.MemInv → (act s).MemInv) (hs : s.MemInv) :
    OutMemInv (telemetry o h act s) :=
  command_memInv hact hs

theorem telemetryCtx_memInv {h} {act : State → State} (hact : ∀ s, s.MemInv → (act s).MemInv) (hs : s.MemInv) :
    OutMemInv (telemetryCtx h act s) :=
  command_memInv hact hs

theorem execStreamSet_memInv {h o} (hs : s.MemInv) : OutMemInv (execStreamSet h o s) := by
  unfold execStreamSet
  refine telemetry_memInv (fun _ hs' => ?_) hs
  extract_lets vd held
  split
  · exact respond_memInv hs'
  · split
    · exact respond_memInv hs'
    · split
      · exact respond_memInv hs'
      · exact respond_memInv (bumpId_memInv (hs'.frame rfl rfl))

theorem execStreamClear_memInv {h handle} (hs : s.MemInv) : OutMemInv (execStreamClear h handle s) := by
  unfold execStreamClear
  refine telemetry_memInv (fun _ hs' => ?_) hs
  split
  · exact respond_memInv hs'
  · split
    · exact respond_memInv hs'
    · exact okay_memInv (hs'.frame rfl rfl)

theorem updStream_memInv {handle f} (hs : s.MemInv) : (updStream s handle f).MemInv := hs.frame rfl rfl

theorem putStream_memInv {n clock ptp handle f} (hs : s.MemInv) : (putStream n clock ptp handle s f).MemInv := by
  unfold putStream
  split
  · exact hs
  · exact updStream_memInv (ringPut_memInv hs)

theorem latch_memInv {n clock} (hs : s.MemInv) : (latch s n clock).MemInv :=
  bumpFree_memInv (foldList_memInv (hs.frame rfl rfl) fun _ _ hs' => foldList_memInv hs' fun _ _ => putStream_memInv)

theorem execBaseTick_memInv (hs : s.MemInv) : OutMemInv (execBaseTick s) := by
  unfold execBaseTick
  split
  · exact .next (emit_memInv (latch_memInv hs))
  · exact .next hs

theorem execTickReceive_memInv {n} (hs : s.MemInv) : OutMemInv (execTickReceive n s) := by
  unfold execTickReceive
  split
  · exact .next hs
  · exact .next (latch_memInv hs)

theorem execTraceSet_memInv {h o} (hs : s.MemInv) : OutMemInv (execTraceSet h o s) := by
  unfold execTraceSet
  refine telemetryCtx_memInv (fun _ hs' => ?_) hs
  split
  · exact respond_memInv hs'
  · split
    · exact okay_memInv (updCtx_memInv hs')
    · exact respond_memInv hs'

theorem execSampleSet_memInv {h n} (hs : s.MemInv) : OutMemInv (execSampleSet h n s) := by
  unfold execSampleSet
  refine telemetryCtx_memInv (fun _ hs' => ?_) hs
  extract_lets ring
  split
  · exact okay_memInv (updCtx_memInv hs')
  · split
    · exact respond_memInv hs'
    · exact okay_memInv (updCtx_memInv hs')

theorem execSampleTick_memInv {ctx} (hs : s.MemInv) : OutMemInv (execSampleTick ctx s) := by
  unfold execSampleTick
  refine .next ?_
  split
  · exact hs
  · exact takeSample_memInv hs

theorem execRecord_memInv {h handle off len q} (hs : s.MemInv) : OutMemInv (execRecord h handle off len q s) := by
  unfold execRecord
  refine telemetryCtx_memInv (fun _ hs' => ?_) hs
  split
  · exact respond_memInv hs'
  · split
    · exact respond_memInv hs'
    · exact respond_memInv (bumpId_memInv (hs'.frame rfl rfl))

theorem execReplay_memInv {h handle off q} (hs : s.MemInv) : OutMemInv (execReplay h handle off q s) := by
  unfold execReplay
  refine telemetryCtx_memInv (fun _ hs' => ?_) hs
  split
  · exact respond_memInv hs'
  · split
    · exact respond_memInv hs'
    · exact respond_memInv (bumpId_memInv (hs'.frame rfl rfl))

theorem execReplayDivergence_memInv {ctx reason ordinal} (hs : s.MemInv) :
    OutMemInv (execReplayDivergence ctx reason ordinal s) := by
  unfold execReplayDivergence
  split
  · exact .next hs
  · extract_lets launch
    split
    · exact .next (diverge_memInv hs)
    · exact .next hs

theorem execCoeffRead_memInv {h target off} (hs : s.MemInv) : OutMemInv (execCoeffRead h target off s) := by
  unfold execCoeffRead
  refine telemetry_memInv (fun _ hs' => ?_) hs
  split
  · exact okay_memInv (physWrite_memInv hs')
  · exact respond_memInv hs'

theorem execCountRead_memInv {h target} (hs : s.MemInv) : OutMemInv (execCountRead h target s) := by
  unfold execCountRead
  refine telemetry_memInv (fun _ hs' => ?_) hs
  split
  · exact okay_memInv (physWrite_memInv hs')
  · exact respond_memInv hs'

theorem execAccountRead_memInv {h handle off account} (hs : s.MemInv) :
    OutMemInv (execAccountRead h handle off account s) := by
  unfold execAccountRead
  refine telemetry_memInv (fun _ hs' => ?_) hs
  split
  · exact okay_memInv (physWrite_memInv hs')
  · exact respond_memInv hs'

/-! ### Errors, links and retirement -/

theorem errRegister_memInv {k v} (hs : s.MemInv) : (errRegister s k v).MemInv := by
  unfold errRegister
  split
  · exact threadError_memInv (setThread_memInv hs)
  · exact hs

theorem errPredicates_memInv {k} (hs : s.MemInv) : (errPredicates s k).MemInv := by
  unfold errPredicates
  split
  · exact threadError_memInv (setThread_memInv hs)
  · exact hs

theorem errDescriptor_memInv {k i} (hs : s.MemInv) : (errDescriptor s k i).MemInv := by
  unfold errDescriptor
  split
  · exact threadError_memInv (setThread_memInv hs)
  · exact hs

theorem errGangStatus_memInv {k v} (hs : s.MemInv) : (errGangStatus s k v).MemInv := by
  unfold errGangStatus
  split
  · exact threadError_memInv (setThread_memInv hs)
  · exact hs

theorem errRecord_memInv {id word} (hs : s.MemInv) : (errRecord s id word).MemInv := by
  unfold errRecord
  split
  · exact threadError_memInv (hs.frame rfl rfl)
  · exact hs

theorem errScratch_memInv {k off} (hs : s.MemInv) : (errScratch s k off).MemInv := by
  unfold errScratch
  split
  · exact threadError_memInv (scratchWrite_memInv hs)
  · exact hs

theorem errRing_memInv {k ring word} (hs : s.MemInv) : (errRing s k ring word).MemInv := by
  unfold errRing
  split
  · exact threadError_memInv (updWg_memInv hs fun _ hg => hg)
  · exact hs

theorem zeroPending_memInv {p word} (hs : s.MemInv) : (zeroPending s p word).1.MemInv := by
  unfold zeroPending
  split
  · exact hs
  · exact hs
  · exact updReq_memInv hs
  · exact hs
  · exact hs

theorem errPending_memInv {k i word st} (hs : s.MemInv) : (errPending s k i word st).MemInv := by
  unfold errPending
  split
  · split
    · exact threadError_memInv (updThread_memInv (zeroPending_memInv hs))
    · exact hs
  · exact hs

theorem errGranule_memInv {cmd granule st place} (hs : s.MemInv) : (errGranule s cmd granule st place).MemInv := by
  unfold errGranule
  split
  · exact uncorrectable_memInv (updCmd_memInv hs)
  · exact hs

theorem errMatrix_memInv {cmd st place} (hs : s.MemInv) : (errMatrix s cmd st place).MemInv := by
  unfold errMatrix
  split
  · exact uncorrectable_memInv (markData_memInv (updCmd_memInv hs))
  · exact hs

theorem errRecon_memInv {wg x y st place} (hs : s.MemInv) : (errRecon s wg x y st place).MemInv := by
  unfold errRecon
  split
  · split
    · exact uncorrectable_memInv (reconWrite_memInv hs)
    · exact hs
  · exact hs

theorem errSector_memInv {h asid addr} (hs : s.MemInv) : (errSector s h asid addr).MemInv := by
  unfold errSector
  extract_lets hit s1
  split
  · exact uncorrectable_memInv (hs.frame rfl rfl)
  · exact hs

theorem errDirtyLine_memInv {slice unit} (hs : s.MemInv) : (errDirtyLine s slice unit).MemInv := by
  unfold errDirtyLine
  split
  · exact uncorrectable_memInv (poisonUnit_memInv hs)
  · exact hs

theorem errTag_memInv {slice line} (hs : s.MemInv) : (errTag s slice line).MemInv := by
  unfold errTag
  split
  · exact hs
  · extract_lets p s1 lost
    have hs1 : s1.MemInv := remember_memInv (hs.frame rfl rfl)
    split
    · exact uncorrectable_memInv (foldList_memInv hs1 fun _ _ => poisonUnit_memInv)
    · exact hs1

theorem execUncorrectableError_memInv {site} (hs : s.MemInv) : OutMemInv (execUncorrectableError site s) := by
  unfold execUncorrectableError
  split
  · exact .next (errRegister_memInv hs)
  · exact .next (errScratch_memInv hs)
  · exact .next (errRing_memInv hs)
  · exact .next (errPending_memInv hs)
  · exact .next (errPredicates_memInv hs)
  · exact .next (errDescriptor_memInv hs)
  · exact .next (errGangStatus_memInv hs)
  · exact .next (errRecord_memInv hs)
  · exact .next (errGranule_memInv hs)
  · exact .next (errMatrix_memInv hs)
  · exact .next (errRecon_memInv hs)
  · exact .next (errSector_memInv hs)
  · exact .next (errDirtyLine_memInv hs)
  · exact .next (errTag_memInv hs)

theorem corrected_memInv {rood sub n st} (hs : s.MemInv) : (corrected s rood sub n st).MemInv := by
  unfold corrected
  split
  · exact hs
  · extract_lets s1 u s2
    have hs1 : s1.MemInv := countError_memInv hs
    have hs2 : s2.MemInv := remember_memInv hs1
    split
    · exact hs1
    · split
      · exact logError_memInv hs2
      · exact hs2

theorem poisonMsg_memInv {k id} (hs : s.MemInv) : (poisonMsg s k id).MemInv := by
  unfold poisonMsg
  split
  · exact hs
  · extract_lets p
    split
    · exact uncorrectable_memInv (updReq_memInv hs)
    · exact uncorrectable_memInv (updReq_memInv hs)
    · exact threadError_memInv (updReq_memInv hs)
    · exact threadError_memInv (updReq_memInv hs)

theorem execFlitCrcFailure_memInv {link msg} (hs : s.MemInv) : OutMemInv (execFlitCrcFailure link msg s) := by
  unfold execFlitCrcFailure
  extract_lets old fails bad entry s1
  have hs1 : s1.MemInv := hs.frame rfl rfl
  clear_value s1
  refine iteInduction (motive := OutMemInv) (fun _ => .next hs) fun _ => ?_
  split
  · refine .next (bumpFree_memInv ?_)
    split
    · exact poisonMsg_memInv hs1
    · exact uncorrectable_memInv hs1
  · exact .next (bumpFree_memInv (countError_memInv hs1))

theorem sendWaiting_memInv {r} (hs : s.MemInv) : (sendWaiting s r).MemInv := by
  unfold sendWaiting
  split
  · split
    · exact hs
    · exact emit_memInv (updReq_memInv hs)
  · exact hs

theorem execLinkRetrainComplete_memInv {link} (hs : s.MemInv) : OutMemInv (execLinkRetrainComplete link s) :=
  .next (foldList_memInv (hs.frame rfl rfl) fun _ _ => sendWaiting_memInv)

theorem wiped_memInv (hs : s.MemInv) : (wiped s).MemInv :=
  ⟨filter_wf _ _ hs.1, fun _ hg => absurd hg List.not_mem_nil⟩

theorem trip_memInv {block} (hs : s.MemInv) : (trip s block).MemInv := by
  unfold trip
  extract_lets s1 s2 src src'
  have hs2 : s2.MemInv := wiped_memInv (commitCounts_memInv (countError_memInv hs))
  exact hs2.frame rfl rfl

theorem execMonitorRead_memInv {r} (hs : s.MemInv) : OutMemInv (execMonitorRead r s) := by
  unfold execMonitorRead
  extract_lets m s1
  have hs1 : s1.MemInv := hs.frame rfl rfl
  split
  · split
    · exact .next hs
    · split
      · exact .next (trip_memInv (bumpFree_memInv hs1))
      · split
        · exact .next (bumpFree_memInv (emit_memInv (countError_memInv hs1)))
        · exact .next hs1
  · split
    · exact .next hs
    · split
      · exact .next (trip_memInv (bumpFree_memInv hs1))
      · split
        · exact .next (bumpFree_memInv (emit_memInv (countError_memInv hs1)))
        · exact .next hs1

theorem execInputUndervoltage_memInv {millivolts microseconds} (hs : s.MemInv) :
    OutMemInv (execInputUndervoltage millivolts microseconds s) := by
  unfold execInputUndervoltage
  split
  · exact .next (trip_memInv (bumpFree_memInv hs))
  · exact .next hs

theorem moveGrant_memInv {g dst} (hs : s.MemInv) : (moveGrant s g dst).MemInv := by
  unfold moveGrant
  extract_lets n at_ s1
  have hs1 : s1.MemInv := copyPhys_memInv hs
  exact hs1.frame rfl rfl

/-- Unfolding the function alone keeps the kernel from evaluating `pickRun`. -/
theorem withdraw_of_some {rood x g f} (h : pickRun (Prod.fst x) rood (Grant.k g) = some f) :
    withdraw rood x g = (bumpFree (moveGrant x.1 g f), x.2) := by
  generalize e : withdraw = w
  delta withdraw at e
  subst e
  simp only [h]

theorem withdraw_of_none {rood x g} (h : pickRun (Prod.fst x) rood (Grant.k g) = none) :
    withdraw rood x g = (quarantineGrant x.1 g, g.ctx :: x.2) := by
  generalize e : withdraw = w
  delta withdraw at e
  subst e
  simp only [h]

theorem withdraw_memInv {rood} {x : State × List Nat} {g} (hx : x.1.MemInv) : (withdraw rood x g).1.MemInv := by
  cases h : pickRun x.1 rood g.k with
  | some f => rw [withdraw_of_some h]; exact bumpFree_memInv (moveGrant_memInv hx)
  | none => rw [withdraw_of_none h]; exact quarantineGrant_memInv hx

theorem breach_memInv {vd} (hs : s.MemInv) : (breach s vd).MemInv := by
  unfold breach
  split
  · exact hs
  · extract_lets fl s1
    have hs1 : s1.MemInv := bumpFree_memInv (emit_memInv hs)
    split
    · exact hs1
    · extract_lets s2 s3
      have hs2 : s2.MemInv := hs1.frame rfl rfl
      have hs3 : s3.MemInv := updVd_memInv hs2
      split
      · split
        · exact stopCtx_memInv hs3
        · exact updCtx_memInv hs3
        · exact updCtx_memInv hs3
      · exact hs2

theorem retireUnits_memInv {us} (hs : s.MemInv) : (retireUnits s us).MemInv := by
  unfold retireUnits
  extract_lets src s1 s2 groups x s3 vs s4 told
  have hs1 : s1.MemInv := commitCounts_memInv (hs.frame rfl rfl)
  have hx : x.1.MemInv := foldl_fst_memInv (hs1.frame rfl rfl) fun _ _ hy =>
    foldl_fst_memInv hy fun _ _ hz => withdraw_memInv hz
  exact foldList_memInv (bumpFree_memInv (hx.frame rfl rfl)) fun _ _ => breach_memInv

theorem leaveStopped_memInv {id} (hs : s.MemInv) : (leaveStopped s id).MemInv := by
  unfold leaveStopped
  split
  · extract_lets ms
    split
    · exact vacate_memInv hs
    · exact hs
  · exact hs

theorem resumeUsers_memInv {u} (hs : s.MemInv) : (resumeUsers s u).MemInv := by
  unfold resumeUsers
  refine foldList_memInv hs fun _ _ hs' => ?_
  split
  · extract_lets ms
    split
    · exact hs'
    · exact foldList_memInv hs' fun _ _ => endStop_memInv
  · exact hs'

theorem execRetirement_memInv {us} (hs : s.MemInv) : OutMemInv (execRetirement us s) := by
  unfold execRetirement
  extract_lets all rest
  split
  · split
    · exact .next (foldList_memInv (retireUnits_memInv (hs.frame rfl rfl)) fun _ _ => resumeUsers_memInv)
    · exact .next (foldList_memInv (hs.frame rfl rfl) fun _ _ hs' => foldList_memInv (foldList_memInv hs' fun _ _ =>
        stopMembers_memInv) fun _ _ => leaveStopped_memInv)
  · exact .next hs

/-! ### Firmware and the host -/

theorem moduleReset_memInv (hs : s.MemInv) : (moduleReset s).MemInv := by
  unfold moduleReset
  extract_lets s1 src src' src2
  have hs1 : s1.MemInv := wiped_memInv hs
  exact hs1.frame rfl rfl

theorem linksTrained_memInv {all} (hs : s.MemInv) : (linksTrained s all).MemInv :=
  foldList_memInv (hs.frame rfl rfl) fun _ _ => emit_memInv

theorem execBootStageComplete_memInv {err peers} (hs : s.MemInv) : OutMemInv (execBootStageComplete err peers s) := by
  unfold execBootStageComplete
  extract_lets src failed s1
  have hs1 : s1.MemInv := hs.frame rfl rfl
  split
  · exact .next hs
  · split
    · exact .next (hs.frame rfl rfl)
    · split
      · exact .next (hs.frame rfl rfl)
      · split
        · exact .next (logError_memInv hs1)
        · split
          · exact .next (linksTrained_memInv hs1)
          · exact .next hs1

theorem execFunctionLevelReset_memInv {fn} (hs : s.MemInv) : OutMemInv (execFunctionLevelReset fn s) := by
  unfold execFunctionLevelReset
  split
  · exact .next (moduleReset_memInv hs)
  · extract_lets s1 st
    have hs1 : s1.MemInv := by
      unfold s1
      split
      · exact killCtx_memInv hs
      · exact hs
    exact .next (bumpFree_memInv (updVd_memInv hs1))

theorem execDomainWordWrite_memInv {w} (hs : s.MemInv) : OutMemInv (execDomainWordWrite w s) := by
  unfold execDomainWordWrite
  extract_lets bad src
  split
  · exact .next (bumpFree_memInv hs)
  · exact .next (bumpFree_memInv (hs.frame rfl rfl))

theorem execRegisterWrite_memInv {fn off value} (hs : s.MemInv) : OutMemInv (execRegisterWrite fn off value s) := by
  unfold execRegisterWrite
  split
  · exact .next (hs.frame rfl rfl)
  · exact .next hs

theorem execRouteLost_memInv {dev} (hs : s.MemInv) : OutMemInv (execRouteLost dev s) := by
  unfold execRouteLost
  split
  · exact .next (hs.frame rfl rfl)
  · exact .next hs

theorem execPtpMessage_memInv {m offset} (hs : s.MemInv) : OutMemInv (execPtpMessage m offset s) := by
  unfold execPtpMessage
  split
  · exact .next hs
  · exact .next (hs.frame rfl rfl)

theorem execPtpLock_memInv (hs : s.MemInv) : OutMemInv (execPtpLock s) := by
  unfold execPtpLock
  split
  · split
    · exact .next (bumpFree_memInv (hs.frame rfl rfl))
    · exact .next hs
  · exact .next hs

theorem execPtpSyncTimeout_memInv (hs : s.MemInv) : OutMemInv (execPtpSyncTimeout s) := by
  unfold execPtpSyncTimeout
  split
  · exact .next (hs.frame rfl rfl)
  · exact .next hs

theorem spdmAnswer_memInv {vd code operand} (hs : s.MemInv) : (spdmAnswer s vd code operand).MemInv := by
  unfold spdmAnswer
  split
  · exact emit_memInv hs
  · exact hs

theorem execSpdmMeasurements_memInv {vd nonce} (hs : s.MemInv) : OutMemInv (execSpdmMeasurements vd nonce s) := by
  unfold execSpdmMeasurements
  split
  · exact .next (emit_memInv hs)
  · exact .next hs

theorem execSpdmKeyExchange_memInv {vd share} (hs : s.MemInv) : OutMemInv (execSpdmKeyExchange vd share s) := by
  unfold execSpdmKeyExchange
  extract_lets s1 src
  have hs1 : s1.MemInv := spdmAnswer_memInv hs
  refine .next ?_
  split
  · exact hs1.frame rfl rfl
  · exact updVd_memInv hs1

theorem execSpdmFinish_memInv {vd proof} (hs : s.MemInv) : OutMemInv (execSpdmFinish vd proof s) := by
  unfold execSpdmFinish
  extract_lets s1 ok src
  have hs1 : s1.MemInv := spdmAnswer_memInv hs
  refine .next ?_
  split
  · exact hs1.frame rfl rfl
  · exact updVd_memInv hs1

theorem execTdispMessage_memInv {vd m} (hs : s.MemInv) : OutMemInv (execTdispMessage vd m s) := by
  unfold execTdispMessage
  split
  · exact .next (emit_memInv (hs.frame rfl rfl))
  · split
    · exact .next hs
    · exact .next (emit_memInv (updVd_memInv hs))

/-! ### Integer instructions -/

theorem aluOp_memInv {m f} (hs : s.MemInv) : OutMemInv (aluOp m f s) := .next (mapActive_memInv hs)
theorem compactOp_memInv {f} (hs : s.MemInv) : OutMemInv (compactOp f s) := .next (mapActive_memInv hs)

theorem setKs_memWf {g n ws} (hg : g.memWf = true) : (setKs g n ws).memWf = true := by
  induction ws generalizing g n with
  | nil => exact hg
  | cons w ws ih => exact ih (g := setK g n w) hg

theorem movToK_memInv {x} (hs : s.MemInv) : (movToK x s).MemInv := by
  unfold movToK
  split
  · exact hs
  · exact updWg_memInv hs fun _ hg => setKs_memWf hg

theorem execMov_memInv {x} (hs : s.MemInv) : OutMemInv (execMov x s) := by
  unfold execMov
  split
  · exact .next (mapActive_memInv (movToK_memInv hs))
  · exact aluOp_memInv hs

/-! ### Every instruction -/

theorem exec_memInv {i} (hs : s.MemInv) : OutMemInv (exec i s) := by
  unfold exec
  cases i
  all_goals dsimp only
  case movC | movi | iaddC | iaddiC | isubC | imulC | andC | orC | xorC | shlC | shrC | sarC =>
    exact compactOp_memInv hs
  case faddC | fmulC | fminC | fmaxC | fadd | fsub | fmul | ffma | fnma | fmin | fmax | fminNan | fmaxNan | fabs
      | fneg | fcsgn | fclass | fcmp | frcp | frsq | fsqrt | fexp2 | flog2 | fsin | fcos | ftanh | fldexp | frndRn
      | frndRz | frndRd | frndRu | fexpof | ffract | hadd | hsub | hmul | hfma | hmin | hmax | hcmp | habs | hneg
      | cvtDirect => exact vectorOp_memInv hs
  case iadd | isub | imad | imulLo | imulHis | imulHiz | imulWds | imulWdz | mins | maxs | minz | maxz | iabs | ineg
      | sadds | saddz | divs | divz | rems | remz | logAnd | logOr | logXor | logAndn | logOrn | logXnor | logNot
      | shl | shr | sar | rol | fshl | fshr | shlI | shrI | sarI | rolI | bfxs | bfxz | bfi | popc | clz | ctz
      | brev | bperm | dot4ss | dot4zz | dot4sz | dot2s | dot2z | iaddi | movl | movh | icmp | sel | pand | por
      | pxor | pnot | p2v | v2p | lea | sread => exact aluOp_memInv hs
  case mov => exact execMov_memInv hs
  case cvtTo => exact execCvtTo_memInv hs
  case cvtFrom => exact execCvtFrom_memInv hs
  case bfpq => exact execBfpq_memInv hs
  case bfpdq => exact execBfpdq_memInv hs
  case bra => exact execBra_memInv hs
  case jmp => exact execJmp_memInv hs
  case call => exact execCall_memInv hs
  case ret => exact execRet_memInv hs
  case reform => exact execReform_memInv hs
  case awaitBar | barInit | barArr | barWait | barExp | barInval => exact barGang_memInv hs
  case awaitRing => exact execAwaitRing_memInv hs
  case awaitFar => exact execAwaitFar_memInv hs
  case awaitGd => exact execAwaitGd_memInv hs
  case awaitIng => exact execAwaitIng_memInv hs
  case awaitTmr => exact execAwaitTmr_memInv hs
  case exit => exact execExit_memInv hs
  case abort => exact execAbort_memInv hs
  case part | nop => exact .next (mapActive_memInv hs)
  case voteAny | voteAll | voteBallot | voteUeq => exact vote_memInv hs
  case shflIdx | shflUp | shflDown | shflXor => exact shuffle_memInv hs
  case gredIadd | gredMins | gredMaxs | gredAnd | gredOr | gredXor | gredFadd | gredFmax => exact gred_memInv hs
  case gscanIadd | gscanMins | gscanMaxs | gscanAnd | gscanOr | gscanXor | gscanFadd | gscanFmax =>
    exact gscan_memInv hs
  case trap => exact execTrap_memInv hs
  case brk => exact execBrk_memInv hs
  case gdarm => exact execGdarm_memInv hs
  case gdset => exact execGdset_memInv hs
  case ld => exact execLd_memInv hs
  case st => exact execSt_memInv hs
  case ldk => exact execLdk_memInv hs
  case stk => exact execStk_memInv hs
  case atomAdd | atomSub | atomMins | atomMaxs | atomMinz | atomMaxz | atomAnd | atomOr | atomxCas | atomxXchg
      | atomxIncw | atomxDecw | atomxFadd | atomxFmin | atomxFmax | atomxXor => exact atomGang_memInv hs
  case acq => exact execAcq_memInv hs
  case rel => exact execRel_memInv hs
  case acqrel => exact execAcqrel_memInv hs
  case fence => exact execFence_memInv hs
  case cinv => exact execCinv_memInv hs
  case cwb => exact execCwb_memInv hs
  case pf => exact execPf_memInv hs
  case rinit => exact execRinit_memInv hs
  case rpush => exact execRpush_memInv hs
  case rpop => exact execRpop_memInv hs
  case rpeek => exact execRpeek_memInv hs
  case cpyG2s | cpyS2g | cpyG2b | cpyS2b | cpyChain | cpyWin | cpyFill | cpyScrub | cpyxG2s | cpyxG2b | cpyxS2b
      | cpyxChain => exact cpyGang_memInv hs
  case mxmma => exact execMxmma_memInv hs
  case mxz | mxld | mxst => exact leaderPush_memInv hs
  case mxstat => exact execMxstat_memInv hs
  case tsbind => exact execTsbind_memInv hs
  case tsrel => exact execTsrel_memInv hs
  case tsq => exact execTsq_memInv hs
  case lnch => exact execLnch_memInv hs
  case post | postOr | postMaxz => exact postGang_memInv hs
  case wkpt => exact execWkpt_memInv hs
  case rcmark => exact execRcmark_memInv hs
  case assay => exact execAssay_memInv hs
  case illegalEncoding => exact execIllegalEncoding_memInv hs
  case logReplay => exact execLogReplay_memInv hs
  case gangDraw => exact execGangDraw_memInv hs
  case recordDrain => exact execRecordDrain_memInv hs
  case blockCreate => exact execBlockCreate_memInv hs
  case seatReclaim => exact execSeatReclaim_memInv hs
  case pendingResultWrite => exact execPendingResultWrite_memInv hs
  case overrun => exact execOverrun_memInv hs
  case barrierTimeout => exact execBarrierTimeout_memInv hs
  case gatherTimeout => exact execGatherTimeout_memInv hs
  case trapUnresolved => exact execTrapUnresolved_memInv hs
  case poolDeadlock => exact execPoolDeadlock_memInv hs
  case timerWake => exact execTimerWake_memInv hs
  case farRequest => exact execFarRequest_memInv hs
  case farReply => exact execFarReply_memInv hs
  case farAcknowledgement => exact execFarAcknowledgement_memInv hs
  case homeSliceRequest => exact execHomeSliceRequest_memInv hs
  case atomicPerform => exact execAtomicPerform_memInv hs
  case peerRequest => exact execPeerRequest_memInv hs
  case lineFill => exact execLineFill_memInv hs
  case tableWalkComplete => exact execTableWalkComplete_memInv hs
  case pageRequest => exact execPageRequest_memInv hs
  case copyJobStart => exact execCopyJobStart_memInv hs
  case copyPieceLand => exact execCopyPieceLand_memInv hs
  case chainReservation => exact execChainReservation_memInv hs
  case mxaCommandStart => exact execMxaCommandStart_memInv hs
  case mxaCommandComplete => exact execMxaCommandComplete_memInv hs
  case probeTokenSend => exact execProbeTokenSend_memInv hs
  case probeTokenReceive => exact execProbeTokenReceive_memInv hs
  case workgroupPlace => exact execWorkgroupPlace_memInv hs
  case workgroupStart => exact execWorkgroupStart_memInv hs
  case workgroupEnd => exact execWorkgroupEnd_memInv hs
  case workgroupMove => exact execWorkgroupMove_memInv hs
  case moveComplete => exact execMoveComplete_memInv hs
  case reconPointWrite => exact execReconPointWrite_memInv hs
  case sampleCompare => exact execSampleCompare_memInv hs
  case updateInstant => exact execUpdateInstant_memInv hs
  case launchEnd => exact execLaunchEnd_memInv hs
  case hostRingEntry => exact execHostRingEntry_memInv hs
  case coalescingTimeout => exact execCoalescingTimeout_memInv hs
  case graphSuccessor => exact execGraphSuccessor_memInv hs
  case packetIntake => exact execPacketIntake_memInv hs
  case submitDoorbell => exact execSubmitDoorbell_memInv hs
  case hostRingDoorbell => exact execHostRingDoorbell_memInv hs
  case graphStart => exact execGraphStart_memInv hs
  case qcbStore => exact execQcbStore_memInv hs
  case registerWrite => exact execRegisterWrite_memInv hs
  case roodMode => exact execRoodMode_memInv hs
  case vdCreate => exact execVdCreate_memInv hs
  case vdDestroy => exact execVdDestroy_memInv hs
  case copyAssign => exact execCopyAssign_memInv hs
  case tenantCreate => exact execTenantCreate_memInv hs
  case charterInstall => exact execCharterInstall_memInv hs
  case tenantTeardown => exact execTenantTeardown_memInv hs
  case ctxCreate => exact execCtxCreate_memInv hs
  case ctxDestroy => exact execCtxDestroy_memInv hs
  case queueBind => exact execQueueBind_memInv hs
  case queueUnbind => exact execQueueUnbind_memInv hs
  case queueReload => exact execQueueReload_memInv hs
  case unfreeze => exact execUnfreeze_memInv hs
  case kill => exact execKill_memInv hs
  case frameGrant => exact execFrameGrant_memInv hs
  case frameRevoke => exact execFrameRevoke_memInv hs
  case cmdMap => exact execCmdMap_memInv hs
  case unmap => exact execUnmap_memInv hs
  case violate => exact execViolate_memInv hs
  case migrateOut => exact execMigrateOut_memInv hs
  case preempt => exact execPreempt_memInv hs
  case resume => exact execResume_memInv hs
  case evict => exact execEvict_memInv hs
  case imagePlace => exact execImagePlace_memInv hs
  case moduleLoad => exact execModuleLoad_memInv hs
  case moduleUnload => exact execModuleUnload_memInv hs
  case ringSet => exact execRingSet_memInv hs
  case ringClear => exact execRingClear_memInv hs
  case attach => exact execAttach_memInv hs
  case detach => exact execDetach_memInv hs
  case release => exact execRelease_memInv hs
  case stepCmd => exact execStepCmd_memInv hs
  case discard => exact execDiscard_memInv hs
  case powerSet => exact execPowerSet_memInv hs
  case streamSet => exact execStreamSet_memInv hs
  case streamClear => exact execStreamClear_memInv hs
  case traceSet => exact execTraceSet_memInv hs
  case sampleSet => exact execSampleSet_memInv hs
  case dump => exact execDump_memInv hs
  case record => exact execRecord_memInv hs
  case replay => exact execReplay_memInv hs
  case coeffRead => exact execCoeffRead_memInv hs
  case countRead => exact execCountRead_memInv hs
  case accountRead => exact execAccountRead_memInv hs
  case deferredChangeApply => exact execDeferredChangeApply_memInv hs
  case migrationCopyComplete => exact execMigrationCopyComplete_memInv hs
  case migrationPinExpiry => exact execMigrationPinExpiry_memInv hs
  case cxlMemAccess => exact execCxlMemAccess_memInv hs
  case quarantineScrubComplete => exact execQuarantineScrubComplete_memInv hs
  case contextStopComplete => exact execContextStopComplete_memInv hs
  case imageClose => exact execImageClose_memInv hs
  case spanStart => exact execSpanStart_memInv hs
  case allowanceExhausted => exact .next (updVd_memInv hs)
  case monitorRead => exact execMonitorRead_memInv hs
  case inputUndervoltage => exact execInputUndervoltage_memInv hs
  case uncorrectableError => exact execUncorrectableError_memInv hs
  case correctableError | patrolScrub => exact .next (corrected_memInv hs)
  case flitCrcFailure => exact execFlitCrcFailure_memInv hs
  case linkRetrainComplete => exact execLinkRetrainComplete_memInv hs
  case retirement => exact execRetirement_memInv hs
  case countCommit => exact .next (commitCounts_memInv hs)
  case baseTick => exact execBaseTick_memInv hs
  case tickReceive => exact execTickReceive_memInv hs
  case sampleTick => exact execSampleTick_memInv hs
  case replayDivergence => exact execReplayDivergence_memInv hs
  case coldReset | warmReset => exact .next (moduleReset_memInv hs)
  case bootStageComplete => exact execBootStageComplete_memInv hs
  case functionLevelReset => exact execFunctionLevelReset_memInv hs
  case domainWordWrite => exact execDomainWordWrite_memInv hs
  case frameReceive => exact execFrameReceive_memInv hs
  case hostTransmit => exact execHostTransmit_memInv hs
  case ptpMessage => exact execPtpMessage_memInv hs
  case ptpLock => exact execPtpLock_memInv hs
  case ptpSyncTimeout => exact execPtpSyncTimeout_memInv hs
  case spdmVersion | spdmCapabilities | spdmAlgorithms | spdmCertificate | spdmChallenge =>
    exact .next (spdmAnswer_memInv hs)
  case spdmMeasurements => exact execSpdmMeasurements_memInv hs
  case spdmKeyExchange => exact execSpdmKeyExchange_memInv hs
  case spdmFinish => exact execSpdmFinish_memInv hs
  case tdispMessage => exact execTdispMessage_memInv hs
  case moduleTranslationComplete => exact execModuleTranslationComplete_memInv hs
  case routeLost => exact execRouteLost_memInv hs
  case windowAccess => exact execWindowAccess_memInv hs
  case sliceMissFill => exact execSliceMissFill_memInv hs
  case writeBackAcknowledgement => exact execWriteBackAcknowledgement_memInv hs

/-! ### Issue -/

theorem endThreads_memInv {ts wake} (hs : s.MemInv) : (endThreads s ts wake).MemInv :=
  settleTurn_memInv (foldList_memInv (traceEnds_memInv hs) fun _ _ => endSegment_memInv)

theorem takeLate_memInv {ts} (hs : s.MemInv) : OptMemInv (takeLate s ts) := by
  unfold takeLate
  split
  · exact .none
  · split
    · exact .none
    · exact .some (takeTrap_memInv hs)

theorem preIssue_memInv {k ts i} (hs : s.MemInv) : OptMemInv (preIssue s k ts i) := by
  unfold preIssue
  extract_lets stop stopping late
  have hlate : OptMemInv late := by
    unfold late
    split
    · exact takeLate_memInv hs
    · exact .none
  split
  next e => exact .some (hlate.of_eq_some e)
  next => exact .some (takeTrap_memInv hs)
  next =>
    split
    · exact .none
    · split
      · exact .some (releaseSlot_memInv hs)
      · split
        · exact .some (endThreads_memInv hs)
        · split
          · exact .some (haltThreads_memInv hs)
          · exact .some (takeTrap_memInv hs)
          · exact .some (endThreads_memInv hs)
          · exact .none

theorem logStop_memInv {ts i} (hs : s.MemInv) : OptMemInv (logStop s ts i) := by
  unfold logStop
  split
  · exact .none
  · split
    · exact .some (endThreads_memInv hs)
    · exact .some (takeTrap_memInv hs)

theorem replayIssue_memInv {ts r o} (hs : s.MemInv) (ho : OutMemInv o) : OutMemInv (replayIssue s ts r o) := by
  unfold replayIssue
  split
  next s1 =>
    split
    · exact .next (endThreads_memInv hs)
    · extract_lets ops
      split
      · split
        · exact .next (replayAdvance_memInv (ho.of_eq_next rfl))
        · exact .next hs
      · exact .next hs
      · exact ho
  next => exact ho

theorem markFirst_memInv {launch} (hs : s.MemInv) : (markFirst s launch).MemInv := updLaunch_memInv hs

theorem issueState_memInv {k} (hs : s.MemInv) : (issueState s k).MemInv := by
  unfold issueState
  split
  · exact hs
  · extract_lets s0
    have hs0 : s0.MemInv := markFirst_memInv (hs.frame rfl rfl)
    split
    · exact hs0
    · exact passStops_memInv hs0

theorem runInstr_memInv {t i} (hs : s.MemInv) : OutMemInv (runInstr s t i) := by
  unfold runInstr
  split
  · split
    · exact exec_memInv hs
    · exact replayIssue_memInv hs (exec_memInv hs)
  · exact exec_memInv hs

theorem issueChecks_memInv {s0 : State} {k ts i} (hs : s0.MemInv) : OptMemInv (issueChecks s0 k ts i) := by
  unfold issueChecks
  extract_lets s
  split
  · exact .none
  · exact preIssue_memInv (clearStall_memInv hs)

theorem afterLogs_memInv {ts} {o : Host.Outcome State Fault Refusal} (hs : s.MemInv) (ho : OutMemInv o) :
    OutMemInv (afterLogs s ts o) := by
  unfold afterLogs
  split
  · split
    · exact ho
    · exact .next (foldList_memInv hs fun _ _ => setThread_memInv)
  · exact ho

theorem issueSlot_memInv {k} (hs : s.MemInv) : OutMemInv (issueSlot k s) := by
  unfold issueSlot
  extract_lets s0
  have hs0 : s0.MemInv := issueState_memInv hs
  split
  · exact .next (settleSlot_memInv hs)
  · split
    · exact execLogReplay_memInv hs0
    · split
      next e => exact afterLogs_memInv hs0 (.next ((issueChecks_memInv hs0).of_eq_some e))
      next t ts _ _ _ _ i _ _ =>
        have hstop : OptMemInv (if midway s0 (t :: ts) then none else logStop (clearStall s0) (t :: ts) i) := by
          split
          · exact .none
          · exact logStop_memInv (clearStall_memInv hs0)
        split
        next e => exact .next (hstop.of_eq_some e)
        next => exact afterLogs_memInv hs0 (runInstr_memInv hs0)
      next => exact afterLogs_memInv hs0 (execIllegalEncoding_memInv (bumpFree_memInv hs0))

theorem issue_memInv (hs : s.MemInv) : OutMemInv (issue s) := by
  unfold issue
  split
  · exact issueSlot_memInv hs
  · exact .next hs

theorem notePass_memInv {k} (hs : s.MemInv) : (notePass s k).MemInv := setCore_memInv hs

theorem trackCounters_memInv {free n} (hs : s.MemInv) : (trackCounters free n s).MemInv :=
  foldList_memInv hs fun _ _ hs' => foldl_memInv hs' fun _ _ => bumpCounter_memInv

theorem trackStall_memWf {n g} (hg : g.memWf = true) : (trackStall s n g).memWf = true := by
  unfold trackStall
  split
  · exact hg
  · exact hg

theorem passTime_memInv (hs : s.MemInv) : (passTime s).MemInv := by
  unfold passTime
  extract_lets n src s1
  have hs1 : s1.MemInv := trackCounters_memInv (hs.frame rfl rfl)
  refine ⟨hs1.1, ?_⟩
  dsimp only
  split
  · exact List.forall_mem_map.mpr fun g hg => trackStall_memWf (hs1.2 g hg)
  · exact hs1.2

theorem advance_memInv {k} (hs : s.MemInv) : (advance k s).MemInv := by
  unfold advance
  extract_lets s1
  have hs1 : s1.MemInv := by
    unfold s1
    refine passTime_memInv ?_
    split
    · exact notePass_memInv hs
    · exact hs
  exact hs1.frame rfl rfl

theorem thenAdvance_memInv {k o} (ho : OutMemInv o) : OutMemInv (thenAdvance k o) := by
  unfold thenAdvance
  split
  · exact .next (advance_memInv (ho.of_eq_next rfl))
  · exact .fault
  · exact .refused

theorem runEvent_memInv {i} (hs : s.MemInv) : OutMemInv (runEvent i s) := by
  unfold runEvent
  split
  · split
    · exact .next hs
    · exact exec_memInv hs
  · exact .fault

/-! ### The step -/

theorem step_memInv (hs : s.MemInv) : OutMemInv (step s) := by
  unfold step
  split
  · exact thenAdvance_memInv (runHeld_memInv (hs.frame rfl rfl))
  · exact thenAdvance_memInv (runEvent_memInv (hs.frame rfl rfl))
  · exact thenAdvance_memInv (issue_memInv hs)

/-- Settles O59: the step's own lemma, which rests on one lemma for each operation of the model. -/
theorem everyStepKeepsTheMemoriesCanonical : Obligations.EveryStepKeepsTheMemoriesCanonical :=
  fun _ _ hs e => (step_memInv hs).of_eq_next e

end Sys2Proof.Machine
end

section
/-! ### Registers: pairs, groups, and the compact forms (R24, R25, R75, R76) -/
namespace Sys2Proof.Machine

variable {t : Thread} {r q d : BitVec 6}

@[simp] theorem getV_setV_self {x : Word} : getV (setV t r x) r = x := by simp [getV, setV]

theorem getV_setV_of_ne {x : Word} (h : q ≠ r) : getV (setV t r x) q = getV t q := by
  have hn : r.toNat ≠ q.toNat := fun e => h (BitVec.eq_of_toNat_eq e.symm)
  simp [getV, setV, Vector.getElem_set_ne, hn]

theorem succ_ne_self (r : BitVec 6) : r + 1 ≠ r := by bv_omega

theorem getV_setV2_low {x : BitVec 64} : getV (setV2 t r x) r = x.extractLsb' 0 32 := by
  rw [setV2, getV_setV_of_ne (succ_ne_self r).symm, getV_setV_self]

theorem getV_setV2_high {x : BitVec 64} : getV (setV2 t r x) (r + 1) = x.extractLsb' 32 32 := by
  rw [setV2, getV_setV_self]

theorem getV_setV2_of_ne {x : BitVec 64} (h : q ≠ r) (h1 : q ≠ r + 1) : getV (setV2 t r x) q = getV t q := by
  rw [setV2, getV_setV_of_ne h1, getV_setV_of_ne h]

/-- The two halves of a double word make it up. -/
theorem halves_append (x : BitVec 64) : x.extractLsb' 32 32 ++ x.extractLsb' 0 32 = x := by
  refine BitVec.eq_of_getLsbD_eq fun i hi => ?_
  rw [BitVec.getLsbD_append, BitVec.getLsbD_extractLsb', BitVec.getLsbD_extractLsb']
  by_cases h : i < 32
  · simp [h]
  · simp [h, show i - 32 < 32 by omega, show 32 + (i - 32) = i by omega]

theorem getV2_setV2_self {x : BitVec 64} : getV2 (setV2 t r x) r = x := by
  rw [getV2, getV_setV2_low, getV_setV2_high, halves_append]

theorem pairsHoldTheLowHalfFirst : Claims.PairsHoldTheLowHalfFirst := fun _ _ _ =>
  ⟨getV_setV2_low, getV_setV2_high, getV2_setV2_self, fun _ => getV_setV2_of_ne, rfl⟩

/-- A compact form's second register is one of v0 to v31 (R75). -/
theorem compactSrc_eq (d : BitVec 6) (b : BitVec 5) : CompactReg.src ⟨d, b⟩ = b.setWidth 6 :=
  BitVec.eq_of_toNat_eq (by rw [CompactReg.src, BitVec.toNat_append]; simp; omega)

/-- Each compact form runs by its own arm, over the second register of R75. -/
theorem compactFormsActAsTheLongOnes : Claims.CompactFormsActAsTheLongOnes := by
  intro d b i s
  rw [← compactSrc_eq d b]
  exact ⟨rfl, rfl, rfl, rfl, rfl, rfl, rfl, rfl, rfl, rfl, rfl, rfl⟩

/-- Settles O12: the compact forms by their arms, the pair by what a register reads after a write. -/
theorem compactFormsAndPairs : Obligations.CompactFormsAndPairs :=
  ⟨compactFormsActAsTheLongOnes, pairsHoldTheLowHalfFirst⟩

/-! ### Groups of registers -/

theorem getV_setRegs_of_notMem {ws : List (BitVec 6 × Word)} (h : q ∉ ws.map Prod.fst) :
    getV (setRegs t ws) q = getV t q := by
  induction ws generalizing t with
  | nil => rfl
  | cons w ws ih =>
    rw [List.map_cons, List.mem_cons, not_or] at h
    rw [setRegs, ih h.2, getV_setV_of_ne h.1]

theorem getV_setRegs_of_mem {ws : List (BitVec 6 × Word)} {x : Word} (hn : (ws.map Prod.fst).Nodup) (h : (q, x) ∈ ws) :
    getV (setRegs t ws) q = x := by
  induction ws generalizing t with
  | nil => cases h
  | cons w ws ih =>
    rw [List.map_cons, List.nodup_cons] at hn
    rcases List.mem_cons.mp h with rfl | h
    · rw [setRegs, getV_setRegs_of_notMem hn.1, getV_setV_self]
    · exact ih hn.2 h

theorem setRegs_changes_only_v (t : Thread) (ws : List (BitVec 6 × Word)) :
    setRegs t ws = { t with v := (setRegs t ws).v } := by
  induction ws generalizing t with
  | nil => rfl
  | cons w ws ih => rw [setRegs]; exact ih (setV t w.1 w.2)

theorem mem_groupRegs {n : Nat} : q ∈ groupRegs d n ↔ ∃ i, i < n ∧ q = d + BitVec.ofNat 6 i := by
  simp [groupRegs, eq_comm]

/-- Register numbers go round at 64, so the registers of a group differ. -/
theorem groupRegs_nodup {n : Nat} (hn : n ≤ 64) : (groupRegs d n).Nodup := by
  refine List.Nodup.map_on (fun i hi j hj e => ?_) List.nodup_range
  rw [List.mem_range] at hi hj
  bv_omega

theorem regs_le (w : Width) : w.regs ≤ 64 := by cases w <;> decide

theorem length_getGroup {n : Nat} : (getGroup t r n).length = n := by simp [getGroup, groupRegs]

/-- The words a group write pairs with their registers. -/
theorem fst_zip_group {ws : List Word} : ((groupRegs d ws.length).zip ws).map Prod.fst = groupRegs d ws.length :=
  List.map_fst_zip (by simp [groupRegs])

theorem getV_setGroup_of_ne {ws : List Word} (h : ∀ i, i < ws.length → q ≠ d + BitVec.ofNat 6 i) :
    getV (setGroup t d ws) q = getV t q := by
  refine getV_setRegs_of_notMem ?_
  rw [fst_zip_group, mem_groupRegs]
  exact fun ⟨i, hi, e⟩ => h i hi e

theorem getV_setGroup_at {ws : List Word} {i : Nat} (hn : ws.length ≤ 64) (hi : i < ws.length) :
    getV (setGroup t d ws) (d + BitVec.ofNat 6 i) = ws[i] := by
  refine getV_setRegs_of_mem (by rw [fst_zip_group]; exact groupRegs_nodup hn) ?_
  refine List.mem_iff_getElem.mpr ⟨i, by simpa [groupRegs] using hi, ?_⟩
  simp [groupRegs]

/-! ### Moves (R30, R125 to R127) -/

/-- A group copied from a group. -/
theorem copyGroup_spec (t : Thread) (r d : BitVec 6) (w : Width) :
    (∀ i, i < w.regs → getV (setGroup t d (getGroup t r w.regs)) (d + BitVec.ofNat 6 i) = getV t (r + BitVec.ofNat 6 i)) ∧
    (∀ q, (∀ i, i < w.regs → q ≠ d + BitVec.ofNat 6 i) → getV (setGroup t d (getGroup t r w.regs)) q = getV t q) ∧
    setGroup t d (getGroup t r w.regs) = { t with v := (setGroup t d (getGroup t r w.regs)).v } := by
  have hl : (getGroup t r w.regs).length = w.regs := length_getGroup
  refine ⟨fun i hi => ?_, fun q hq => ?_, setRegs_changes_only_v _ _⟩
  · rw [getV_setGroup_at (hl.le.trans (regs_le w)) (hl.symm ▸ hi)]
    simp [getGroup, groupRegs]
  · exact getV_setGroup_of_ne (by rwa [hl])

/-- A pair written word by word is the pair written. -/
theorem setGroup_pair (t : Thread) (d : BitVec 6) (lo hi : Word) : setGroup t d [lo, hi] = setV2 t d (hi ++ lo) := by
  have hlow : (hi ++ lo).extractLsb' 0 32 = lo := by rw [extract_low _ _ _ _ (by decide), extract_all]
  have hhigh : (hi ++ lo).extractLsb' 32 32 = hi := by rw [extract_high _ _ _ _ (by decide)]; exact extract_all hi
  rw [setV2, hlow, hhigh]
  simp [setGroup, groupRegs, List.range_succ, setRegs]

theorem setGroup_one (t : Thread) (d : BitVec 6) (x : Word) : setGroup t d [x] = setV t d x := by
  simp [setGroup, groupRegs, List.range_succ, setRegs]

theorem signExtend_low (i : BitVec 5) : (i.signExtend 64).extractLsb' 0 32 = i.signExtend 32 := by
  revert i; decide

theorem setWidth_word (i : BitVec 16) : i.setWidth 32 = 0#16 ++ i :=
  BitVec.eq_of_toNat_eq (by rw [BitVec.toNat_append]; simp; omega)

/-- What a register instruction of two parcels does to each active thread may be written in another way. -/
theorem eachActive_of_aluOp {i : Instr} {m : Marks} {s : State} {f g : Thread → Thread} (he : exec i s = aluOp m f s)
    (hf : ∀ t, f t = g t) : EachActive i 2 m.sw s g := by
  rw [EachActive, he, aluOp, funext hf]

theorem movesCopyTheirSource : Claims.MovesCopyTheirSource :=
  ⟨fun i _ _ _ => ⟨eachActive_of_aluOp rfl fun t => congrArg (setV t _) (setWidth_word i), rfl⟩,
    fun w r d _ _ => ⟨fun t => setGroup t d (getGroup t r w.regs), rfl, fun t => copyGroup_spec t r d w⟩,
    fun _ i _ _ _ => ⟨eachActive_of_aluOp rfl fun t => setGroup_one t _ _,
      eachActive_of_aluOp rfl fun t => setGroup_pair t _ _ _,
      eachActive_of_aluOp rfl fun t => setGroup_one t _ _,
      eachActive_of_aluOp rfl fun t => by
        rw [← halves_append (i.signExtend 64), signExtend_low]
        exact setGroup_pair t _ _ _⟩,
    fun _ _ _ _ => ⟨rfl, rfl⟩⟩

/-! ### The least element by a key -/

section
variable {α : Type} {key : α → Nat} {l : List α} {x : α}

theorem minByKey_eq_none_iff : minByKey key l = none ↔ l = [] := by
  cases l with
  | nil => simp [minByKey]
  | cons y ys =>
    simp only [minByKey, reduceCtorEq, iff_false]
    split
    · simp
    · split <;> simp

theorem minByKey_le (h : minByKey key l = some x) : ∀ y ∈ l, key x ≤ key y := by
  induction l generalizing x with
  | nil => simp
  | cons y ys ih =>
    rw [List.forall_mem_cons]
    rw [minByKey] at h
    split at h
    next hn =>
      obtain rfl := Option.some.inj h
      exact ⟨le_rfl, by simp [minByKey_eq_none_iff.mp hn]⟩
    next z hz =>
      split at h
      next hle =>
        obtain rfl := Option.some.inj h
        exact ⟨le_rfl, fun u hu => hle.trans (ih hz u hu)⟩
      next hlt =>
        obtain rfl := Option.some.inj h
        exact ⟨(not_le.mp hlt).le, ih hz⟩

/-- An element below all others, and alone in that, is the least one. -/
theorem minByKey_eq_of_least (hx : x ∈ l) (h : ∀ y ∈ l, key x ≤ key y ∧ (key y = key x → y = x)) :
    minByKey key l = some x := by
  cases e : minByKey key l with
  | none => simp [minByKey_eq_none_iff.mp e] at hx
  | some z =>
    have hz := h z (minByKey_mem e)
    rw [hz.2 (Nat.le_antisymm (minByKey_le e x hx) hz.1)]

end

/-! ### Moves to uniform registers (R30, R126) -/

/-- The leader of a gang is its thread of the lowest number. -/
theorem movToK_of_least {x : Mov} {s : State} {t : Thread} (ht : t ∈ actives s)
    (h : ∀ u ∈ actives s, t.tid ≤ u.tid ∧ (u.tid = t.tid → u = t)) :
    movToK x s = updWg s t.wg fun g => setKs g (x.d.setWidth 5) (movWords x s t) := by
  rw [movToK, leaderOf, minByKey_eq_of_least ht h]

/-- k0 to k15 cannot be named. -/
theorem movToK_dest_range {x : Mov} (hk : x.toK = true) (hw : (Instr.mov x).wf = true) : 16 ≤ x.d.toNat ∧ x.d.toNat < 32 := by
  have hc : checkMov x = none := of_decide_eq_true hw
  rw [checkMov, if_pos hk] at hc
  split at hc
  · cases hc
  · omega

theorem getGroup_one (t : Thread) (r : BitVec 6) : getGroup t r 1 = [getV t r] := by
  simp [getGroup, groupRegs, List.range_succ]

theorem getGroup_two (t : Thread) (r : BitVec 6) : getGroup t r 2 = [getV t r, getV t (r + 1)] := by
  simp [getGroup, groupRegs, List.range_succ]

theorem uniformMovesTakeTheLowestThread : Claims.UniformMovesTakeTheLowestThread := by
  refine ⟨fun r d m s t ht h => ⟨?_, ?_⟩, fun x => movToK_dest_range⟩
  · show Host.Outcome.next (mapActive 2 m.sw id (movToK ⟨.reg r, .x1, true, .x1, d, m⟩ s)) = _
    rw [movToK_of_least ht h]
    simp only [movWords, Width.regs, getGroup_one, setKs]
  · show Host.Outcome.next (mapActive 2 m.sw id (movToK ⟨.reg r, .x2, true, .x2, d, m⟩ s)) = _
    rw [movToK_of_least ht h]
    simp only [movWords, Width.regs, getGroup_two, setKs]

/-! ### Special registers (R45, R46, R127) -/

/-- The indices of a flat number in three sizes. -/
theorem indexIn_three (x y z n : Nat) : indexIn [x, y, z] n 0 = n % x ∧ indexIn [x, y, z] n 1 = n / x % y ∧
    indexIn [x, y, z] n 2 = n / (x * y) := ⟨rfl, rfl, rfl⟩

/-- Each entry of the table of R45, read at its number. -/
theorem specialRegistersGiveThePlace : Claims.SpecialRegistersGiveThePlace := by
  intro s t l g x y z gx gy gz hl hg hsize hgrid
  obtain ⟨ht0, ht1, ht2⟩ := indexIn_three x y z t.tid
  obtain ⟨hw0, hw1, hw2⟩ := indexIn_three gx gy gz g.wgid
  simp only [specialValue, hl, hg, hsize, hgrid, ht0, ht1, ht2, hw0, hw1, hw2, true_and, and_true]
  rfl

/-- Settles O11: the moves by the words they write, register by register, and the special registers by the table of R45. -/
theorem movesAndSpecialRegisters : Obligations.MovesAndSpecialRegisters :=
  ⟨movesCopyTheirSource, uniformMovesTakeTheLowestThread, specialRegistersGiveThePlace⟩

end Sys2Proof.Machine
end

section
/-! ### What a step adds around its instruction (R46, R127, R255, R281, R323, R430, R442) -/
namespace Sys2Proof.Machine

variable {s : State}

/-- Folds of steps that change a state's contexts alone change its contexts alone. -/
theorem foldList_contexts_only {α : Type} {f : State → α → State}
    (hf : ∀ s x, ∃ cs, f s x = { s with contexts := cs }) (s : State) (xs : List α) :
    ∃ cs, foldList f s xs = { s with contexts := cs } := by
  induction xs generalizing s with
  | nil => exact ⟨s.contexts, rfl⟩
  | cons x xs ih =>
    obtain ⟨cs, h⟩ := hf s x
    obtain ⟨cs', h'⟩ := ih (f s x)
    exact ⟨cs', by rw [foldList, h', h]⟩

theorem foldl_contexts_only {α : Type} {f : State → α → State}
    (hf : ∀ s x, ∃ cs, f s x = { s with contexts := cs }) (s : State) (xs : List α) :
    ∃ cs, xs.foldl f s = { s with contexts := cs } := by
  induction xs generalizing s with
  | nil => exact ⟨s.contexts, rfl⟩
  | cons x xs ih =>
    obtain ⟨cs, h⟩ := hf s x
    obtain ⟨cs', h'⟩ := ih (f s x)
    exact ⟨cs', by rw [List.foldl_cons, h', h]⟩

theorem trackCounters_contexts_only (free n : Nat) (s : State) :
    ∃ cs, trackCounters free n s = { s with contexts := cs } :=
  foldList_contexts_only (fun s _ => foldl_contexts_only (fun _ _ => ⟨_, rfl⟩) s _) s _

theorem trackStall_fullstall_only (s : State) (n : Nat) (g : Workgroup) :
    trackStall s n g = { g with counts := { g.counts with fullstall := (trackStall s n g).counts.fullstall } } := by
  unfold trackStall; split <;> rfl

/-- The stall count that the step leaves a workgroup with. -/
def stallAfter (s : State) (n : Nat) (g : Workgroup) : Nat :=
  if s.slots.any fun x => x.stall.isSome then (trackStall s n g).counts.fullstall else g.counts.fullstall

theorem stallAfter_bounds {n : Nat} {g : Workgroup} (h : g.counts.fullstall ≤ 0xFFFFFFFF) :
    g.counts.fullstall ≤ stallAfter s n g ∧ stallAfter s n g ≤ 0xFFFFFFFF ∧
      (wgStalls s g.id = false → stallAfter s n g = g.counts.fullstall) := by
  unfold stallAfter trackStall
  split
  · cases hw : wgStalls s g.id with
    | false => exact ⟨le_rfl, h, fun _ => rfl⟩
    | true => exact ⟨le_min (Nat.le_add_right _ _) h, min_le_right _ _, fun e => nomatch e⟩
  · exact ⟨le_rfl, h, fun _ => rfl⟩

/-- The workgroups after the step: each with its stall count. -/
theorem map_stallAfter (s : State) (n : Nat) :
    (if s.slots.any fun x => x.stall.isSome then s.wgs.map (trackStall s n) else s.wgs) =
      s.wgs.map fun g => { g with counts := { g.counts with fullstall := stallAfter s n g } } := by
  unfold stallAfter
  split
  · exact List.map_congr_left fun g _ => trackStall_fullstall_only s n g
  · exact (List.map_id' s.wgs).symm

theorem not_windowOver (s : State) (e : ErrEntry) :
    (!windowOver s e) = decide (s.clock < e.start + logWindow) := by
  rw [windowOver, ← decide_not]
  exact decide_eq_decide.mpr not_le

/-- The cycles that a step takes. -/
def stepCycles (s : State) : Nat := s.passCycles + Config.cycles s.freeCount

/-- What the passing of time changes. -/
theorem passTime_eq (s : State) : passTime s = { s with
    clock := s.clock + stepCycles s
    ptp := { s.ptp with time := ptpAfter s (stepCycles s) }
    freeCount := s.freeCount + 1
    passCycles := 0
    contexts := (passTime s).contexts
    replaying := (passTime s).replaying
    launches := s.launches.map (trackBusy s (stepCycles s))
    wgs := s.wgs.map fun g => { g with counts := { g.counts with fullstall := stallAfter s (stepCycles s) g } }
    vds := s.vds.map (trackPower s.freeCount (stepCycles s))
    errlog := s.errlog.filter fun e => decide (s.clock + stepCycles s < e.start + logWindow)
    out := ((s.errlog.filter fun e => decide (e.start + logWindow ≤ s.clock + stepCycles s)).map fun e =>
      .log (.error e.bytes)).reverse ++ s.out } := by
  rw [← map_stallAfter]
  unfold passTime
  extract_lets n src s1
  obtain ⟨cs, hs1⟩ : ∃ cs, s1 = { s with
      clock := s.clock + n, ptp := { s.ptp with time := ptpAfter s n }, freeCount := s.freeCount + 1, passCycles := 0
      contexts := cs } := trackCounters_contexts_only _ _ _
  clear_value s1
  subst hs1
  simp only [not_windowOver]
  rfl

theorem passTime_cores (s : State) : (passTime s).cores = s.cores := by rw [passTime_eq]

theorem advance_eq (k : Option SlotKey) (s : State) : advance k s = { s with
    clock := s.clock + stepCycles s
    ptp := { s.ptp with time := ptpAfter s (stepCycles s) }
    freeCount := s.freeCount + 1
    passCycles := 0
    cores := (advance k s).cores
    contexts := (advance k s).contexts
    replaying := (advance k s).replaying
    launches := s.launches.map (trackBusy s (stepCycles s))
    wgs := s.wgs.map fun g => { g with counts := { g.counts with fullstall := stallAfter s (stepCycles s) g } }
    vds := s.vds.map (trackPower s.freeCount (stepCycles s))
    errlog := s.errlog.filter fun e => decide (s.clock + stepCycles s < e.start + logWindow)
    out := ((s.errlog.filter fun e => decide (e.start + logWindow ≤ s.clock + stepCycles s)).map fun e =>
      .log (.error e.bytes)).reverse ++ s.out
    turn := (advance k s).turn } := by
  cases k with
  | none =>
    have hc : (advance none s).cores = s.cores := passTime_cores s
    rw [hc]
    show { passTime s with turn := (advance none s).turn } = _
    rw [passTime_eq s]
    rfl
  | some k =>
    have hc : (advance (some k) s).cores = (notePass s k).cores := passTime_cores (notePass s k)
    rw [hc]
    show { passTime (notePass s k) with turn := (advance (some k) s).turn } = _
    rw [passTime_eq (notePass s k)]
    rfl

theorem advanceOnlyPassesTime : Claims.AdvanceOnlyPassesTime := by
  intro k s
  refine ⟨s.clock + stepCycles s, ptpAfter s (stepCycles s), fun l => (trackBusy s (stepCycles s) l).busy,
    fun v => (trackPower s.freeCount (stepCycles s) v).spent, fun v => (trackPower s.freeCount (stepCycles s) v).throttled,
    stallAfter s (stepCycles s), fun g _ => stallAfter_bounds, fun v _ => ⟨Nat.le_add_right _ _, ?_, fun h => ?_⟩,
    ?_, Nat.le_add_right _ _, fun h => ?_, advance_eq k s⟩
  · unfold trackPower
    dsimp only
    split
    · exact Nat.le_add_right _ _
    · exact le_rfl
  · simp [trackPower, h]
  · rw [stepCycles]; omega
  · simp [ptpAfter, h]

/-! ### The issue of a slot (R44, R74, R212, R348) -/

theorem safeOrdinal_clearStall (s : State) (t : Thread) (pc : Nat) : safeOrdinal (clearStall s) t pc = safeOrdinal s t pc := by
  unfold clearStall
  split <;> rfl

theorem takeLate_eq_none {ts : List Thread} (h : ∀ u ∈ ts, u.late = []) : takeLate s ts = none := by
  have hf : (ts.find? fun t => !t.late.isEmpty) = none := List.find?_eq_none.mpr fun u hu => by simp [h u hu]
  rw [takeLate, hf]

/-- Off the safe points, with no late trap and no step bit, nothing acts on a gang before its instruction. -/
theorem preIssue_eq_none {k : SlotKey} {ts : List Thread} {i : Option Instr}
    (h : ∀ u ∈ ts, u.late = [] ∧ u.fl.step = false ∧ safeOrdinal s u u.pc = none) : preIssue s k ts i = none := by
  have hlate : takeLate s ts = none := takeLate_eq_none fun u hu => (h u hu).1
  have hstep : ts.filter stepped = [] := List.filter_eq_nil_iff.mpr fun u hu => by simp [stepped, (h u hu).2.1]
  have hstop : ts.any (atStop s) = false := List.any_eq_false.mpr fun u hu => by simp [atStop, (h u hu).2.2]
  simp [preIssue, hlate, hstep, hstop]

theorem issueChecks_eq_none {k : SlotKey} {ts : List Thread} {i : Option Instr}
    (h : ∀ u ∈ ts, u.late = [] ∧ u.fl.step = false ∧ safeOrdinal s u u.pc = none) : issueChecks s k ts i = none := by
  have hp : preIssue (clearStall s) k ts i = none :=
    preIssue_eq_none fun u hu => by rw [safeOrdinal_clearStall]; exact h u hu
  simp [issueChecks, hp]

theorem parcelsAt_eq (img : ModuleImage) (pc : Nat) : parcelsAt img pc = (img.code.drop pc).take 2 := by
  unfold parcelsAt
  rcases lt_or_ge pc img.code.length with h | h
  · rw [List.drop_eq_getElem_cons h, List.getElem?_eq_getElem h]
    rcases lt_or_ge (pc + 1) img.code.length with h1 | h1
    · rw [List.drop_eq_getElem_cons h1, List.getElem?_eq_getElem h1]; rfl
    · rw [List.drop_eq_nil_of_le h1, List.getElem?_eq_none h1]; rfl
  · rw [List.drop_eq_nil_of_le h, List.getElem?_eq_none h]; rfl

/-- The instruction at a thread's PC is the one that its image's parcels there decode to. -/
theorem nextInstr_of_decode {t : Thread} {img : ModuleImage} {i : Instr} {n : Nat} (himg : imageOf s t.launch = some img)
    (hd : decode ((img.code.drop t.pc).take 2) = .ok (i, n)) : nextInstr s t = some i := by
  simp only [nextInstr, instrAt, himg, parcelsAt_eq, hd]

theorem logStop_eq_none {ts : List Thread} {i : Instr} (h : ∀ u ∈ ts, u.log = none) : logStop s ts i = none := by
  have hf : ts.filter (logStops s i) = [] := List.filter_eq_nil_iff.mpr fun u hu => by simp [logStops, h u hu]
  rw [logStop, hf]

theorem afterLogs_eq_self {ts : List Thread} (o : Host.Outcome State Fault Refusal) (h : ∀ u ∈ ts, u.log = none) :
    afterLogs s ts o = o := by
  cases o with
  | next s1 =>
    have hf : ts.filter (losesLog s1) = [] := List.filter_eq_nil_iff.mpr fun u hu => by simp [losesLog, h u hu]
    rw [afterLogs, hf]
  | fault f => rfl
  | refused r => rfl

theorem runInstr_of_no_replay {t : Thread} {i : Instr} (h : replayOf s t.launch = none) : runInstr s t i = exec i s := by
  rw [runInstr, h]

theorem issueSlot_runs {k : SlotKey} {t : Thread} {ts : List Thread} {i : Instr}
    (ha : actives (issueState s k) = t :: ts) (hl : ∀ u ∈ t :: ts, u.fl.replay = false ∧ u.log = none)
    (hn : nextInstr (issueState s k) t = some i) (hr : replayOf (issueState s k) t.launch = none)
    (hc : issueChecks (issueState s k) k (t :: ts) (some i) = none) : issueSlot k s = exec i (issueState s k) := by
  have hlog : ∀ u ∈ t :: ts, u.log = none := fun u hu => (hl u hu).2
  have hdue : ((t :: ts).any fun t => (replayDueOf t).isSome) = false :=
    List.any_eq_false.mpr fun u hu => by simp [replayDueOf, hlog u hu]
  simp only [issueSlot, ha, hdue, hn, hc, logStop_eq_none hlog, ite_self, runInstr_of_no_replay hr, afterLogs_eq_self _ hlog,
    Bool.false_eq_true, if_false]

theorem isReset_iff {i : Instr} :
    isReset i = true ↔ i = .coldReset ∨ i = .warmReset ∨ i = .functionLevelReset none := by
  unfold isReset
  split
  · simp
  · simp
  · simp
  · next h1 h2 h3 => simp only [Bool.false_eq_true, false_iff]; rintro (h | h | h) <;> tauto

/-- A step of the agenda runs unless the module has tripped and it is no reset. -/
theorem step_of_event {i : Instr} {is : List Instr} (hd : s.due = []) (ha : s.agenda = i :: is) (he : encode i = none) :
    step s = thenAdvance none (if s.boot.stage = 0 ∧ isReset i = false then .next { s with agenda := is }
      else exec i { s with agenda := is }) := by
  have hev : isEvent i = true := by rw [isEvent, he]; rfl
  simp only [step, hd, ha, runEvent, hev, if_true]

theorem issueRunsTheDecodedInstruction : Claims.IssueRunsTheDecodedInstruction := by
  refine ⟨fun s k t ts img i n hd hag hk ha hl himg hdec hr hc => ?_,
    fun s k ts i h => issueChecks_eq_none fun u hu => (h u hu).2,
    fun s i is hd ha he => ⟨fun h => ?_, fun h0 h1 h2 h3 => ?_⟩⟩
  · simp only [step, hd, hag, hk, issue]
    rw [issueSlot_runs ha hl (nextInstr_of_decode himg hdec) hr hc]
  · rw [step_of_event hd ha he, if_neg]
    rintro ⟨h0, h1⟩
    rcases h with h | h
    · exact h h0
    · rw [isReset_iff.mpr h] at h1; cases h1
  · rw [step_of_event hd ha he, if_pos]
    refine ⟨h0, ?_⟩
    rw [← Bool.not_eq_true, isReset_iff]
    tauto

/-- Settles O5: the issue by what stands in its way, the passing of time field by field. -/
theorem stepRunsTheDecodedInstruction : Obligations.StepRunsTheDecodedInstruction :=
  ⟨issueRunsTheDecodedInstruction, advanceOnlyPassesTime⟩

end Sys2Proof.Machine
end

section
/-! ### Filing the threads of a slot (R159, R162, R172) -/
namespace Sys2Proof.Machine

variable {s : State} {k : SlotKey} {t : Thread}

/-- No two threads of the state have one name. -/
def OwnNames (s : State) : Prop := (s.threads.map fun t => (t.wg, t.tid)).Nodup

theorem OwnNames.eq_of_name (h : OwnNames s) (ht : t ∈ s.threads) : ∀ u ∈ s.threads, u.wg = t.wg → u.tid = t.tid → u = t :=
  fun _ hu hw hi => List.inj_on_of_nodup_map h hu ht (by rw [hw, hi])

/-- Storing a thread over the only one of its name. -/
theorem setThread_eq_map {t' : Thread} (hname : t'.wg = t.wg ∧ t'.tid = t.tid)
    (hu : ∀ u ∈ s.threads, u.wg = t.wg → u.tid = t.tid → u = t) :
    setThread s t' = { s with threads := s.threads.map fun u => if u = t then t' else u } := by
  simp only [setThread, updThread, updWhere, hname.1, hname.2]
  congr 1
  refine List.map_congr_left fun u hu' => if_congr ?_ rfl rfl
  rw [Bool.and_eq_true, decide_eq_true_eq, decide_eq_true_eq]
  exact ⟨fun ⟨hw, hi⟩ => hu u hu' hw hi, fun e => by rw [e]; exact ⟨rfl, rfl⟩⟩

/-- The other threads of a list keep their names to themselves when one is stored. -/
theorem unique_after_setThread {t' : Thread} {ts : List Thread} (hname : t'.wg = t.wg ∧ t'.tid = t.tid)
    (hnot : ∀ v ∈ ts, ¬ (t.wg = v.wg ∧ t.tid = v.tid))
    (hu : ∀ v ∈ t :: ts, ∀ u ∈ s.threads, u.wg = v.wg → u.tid = v.tid → u = v) :
    ∀ v ∈ ts, ∀ u ∈ (setThread s t').threads, u.wg = v.wg → u.tid = v.tid → u = v := by
  rw [setThread_eq_map hname (hu t List.mem_cons_self)]
  intro v hv u hu' hw hi
  obtain ⟨x, hx, rfl⟩ := List.mem_map.mp hu'
  by_cases hxt : x = t
  · rw [if_pos hxt, hname.1] at hw
    rw [if_pos hxt, hname.2] at hi
    exact absurd ⟨hw, hi⟩ (hnot v hv)
  · rw [if_neg hxt] at hw hi ⊢
    exact hu v (List.mem_cons_of_mem _ hv) x hx hw hi

/-- A thread as filing leaves it: in a seat bin or the overflow queue, with its origin and the time. -/
structure Filed (origin clock : Nat) (t t' : Thread) : Prop where
  frame : t' = { t with place := t'.place, orig := origin, filedAt := clock + 4096, binnedAt := clock }
  place : t'.place = .binned ∨ t'.place = .overflow

section
variable {origin clock : Nat} {t' : Thread}

theorem Filed.name (h : Filed origin clock t t') : t'.wg = t.wg ∧ t'.tid = t.tid := by
  rw [h.frame]; exact ⟨rfl, rfl⟩

theorem Filed.inRunning (h : Filed origin clock t t') : inRunning k t' = false := by
  rcases h.place with e | e <;> simp [Machine.inRunning, e]

theorem Filed.inWaiting (h : Filed origin clock t t') : inWaiting k t' = false := by
  rcases h.place with e | e <;> simp [Machine.inWaiting, e]

theorem Filed.inEnding (h : Filed origin clock t t') : inEnding k t' = false := by
  rcases h.place with e | e <;> simp [Machine.inEnding, e]

/-- What filing keeps and what it sets. -/
theorem Filed.fields (h : Filed origin clock t t') : t'.pc = t.pc ∧ (t'.place = .binned ∨ t'.place = .overflow) ∧
    t'.orig = origin ∧ t'.filedAt = clock + 4096 ∧ t'.v = t.v ∧ t'.p = t.p ∧ t'.g = t.g := by
  refine ⟨?_, h.place, ?_, ?_, ?_, ?_, ?_⟩ <;> rw [h.frame]

end

theorem fileThread_eq_setThread (s : State) (t : Thread) (origin : Nat) :
    ∃ t', Filed origin s.clock t t' ∧ fileThread s t origin s.clock = setThread s t' := by
  unfold fileThread
  extract_lets bins place
  refine ⟨_, ⟨rfl, ?_⟩, rfl⟩
  show place = .binned ∨ place = .overflow
  unfold place
  split
  · exact .inl rfl
  · exact .inr rfl

/-- Filing threads changes those threads alone, each in its place in the list. -/
theorem fileThreads_eq {ts : List Thread} {origin : Nat} (hnd : (ts.map fun t => (t.wg, t.tid)).Nodup)
    (hu : ∀ t ∈ ts, ∀ u ∈ s.threads, u.wg = t.wg → u.tid = t.tid → u = t) :
    ∃ g : Thread → Thread, (∀ t ∈ ts, Filed origin s.clock t (g t)) ∧
      fileThreads s ts origin = { s with threads := s.threads.map fun u => if u ∈ ts then g u else u } := by
  induction ts generalizing s with
  | nil => exact ⟨id, by simp, by simp [fileThreads, foldList]⟩
  | cons t ts ih =>
    rw [List.map_cons, List.nodup_cons] at hnd
    obtain ⟨t', hf, he⟩ := fileThread_eq_setThread s t origin
    have hother : ∀ v ∈ ts, ¬ (t.wg = v.wg ∧ t.tid = v.tid) := fun v hv e =>
      hnd.1 (List.mem_map.mpr ⟨v, hv, by rw [e.1, e.2]⟩)
    have hstep := setThread_eq_map hf.name (hu t List.mem_cons_self)
    obtain ⟨g, hg, hrest⟩ := ih (s := setThread s t') hnd.2 (unique_after_setThread hf.name hother hu)
    refine ⟨fun u => if u = t then t' else g u, fun u hm => ?_, ?_⟩
    · dsimp only
      split
      next e => rw [e]; exact hf
      next e => exact hg u ((List.mem_cons.mp hm).resolve_left e)
    · show fileThreads (fileThread s t origin s.clock) ts origin = _
      rw [he, hrest, hstep]
      simp only [List.map_map]
      congr 1
      refine List.map_congr_left fun u _ => ?_
      have hnot : t' ∉ ts := fun h => hother t' h ⟨hf.name.1.symm, hf.name.2.symm⟩
      by_cases hut : u = t
      · simp [hut, hnot]
      · simp [hut]

/-- Filing the threads of the state that satisfy a test. -/
theorem fileThreads_filter {p : Thread → Bool} {origin : Nat} (hn : OwnNames s) :
    ∃ g : Thread → Thread, (∀ t, p t = true → t ∈ s.threads → Filed origin s.clock t (g t)) ∧
      fileThreads s (s.threads.filter p) origin = { s with threads := s.threads.map fun u => if p u then g u else u } := by
  obtain ⟨g, hg, he⟩ := fileThreads_eq (s := s) (ts := s.threads.filter p) (origin := origin)
    (List.Nodup.sublist (List.filter_sublist.map _) hn) fun t ht => hn.eq_of_name (List.mem_filter.mp ht).1
  refine ⟨g, fun t hp ht => hg t (List.mem_filter.mpr ⟨ht, hp⟩), ?_⟩
  rw [he]
  congr 1
  exact List.map_congr_left fun u hu => if_congr (by simp [List.mem_filter, hu]) rfl rfl

/-! ### Reform (R159, R162) -/

/-- A thread whose segment end waits leaves its slot (R159). -/
def leaveEnding (t : Thread) : Thread :=
  { t with place := match t.place with | .ending e _ => .ending e none | x => x }

theorem inEnding_iff : inEnding k t = true ↔
    (∃ e, t.place = .ending e (some k.slot)) ∧ t.seat.cluster = k.cluster ∧ t.seat.core = k.core := by
  unfold inEnding
  rw [Bool.and_eq_true, Bool.and_eq_true, decide_eq_true_eq, decide_eq_true_eq, and_assoc]
  refine and_congr_left' ?_
  split
  next e n hp => simp [hp]
  next hp => simpa using fun e h => hp e _ h

theorem inRunning_not_waiting (h : inRunning k t = true) : inWaiting k t = false := by
  have hp : t.place = .running k.slot := by
    simp only [inRunning, Bool.and_eq_true, decide_eq_true_eq] at h; exact h.1.1
  simp [inWaiting, hp]

/-- A released slot: its fragments filed, its ending threads out of it, itself free. -/
theorem releaseSlot_eq (hn : OwnNames s) (k : SlotKey) : ∃ g : Thread → Thread,
    (∀ t ∈ s.threads, inRunning k t = true ∨ inWaiting k t = true → Filed 1 s.clock t (g t)) ∧
    releaseSlot s k = { s with
      threads := s.threads.map fun t =>
        if inRunning k t = true ∨ inWaiting k t = true then g t else if inEnding k t then leaveEnding t else t
      slots := s.slots.filter fun x => !decide (x.key = k) } := by
  obtain ⟨g, hg, he⟩ := fileThreads_filter (s := s) (p := fun t => inRunning k t || inWaiting k t) (origin := 1) hn
  refine ⟨g, fun t ht h => hg t (Bool.or_eq_true _ _ ▸ h) ht, ?_⟩
  simp only [releaseSlot, he, freeSlot, updThreads, updWhere, dropWhere, List.map_map]
  congr 1
  refine List.map_congr_left fun t ht => ?_
  simp only [Function.comp_apply, Bool.or_eq_true]
  by_cases h : inRunning k t = true ∨ inWaiting k t = true
  · rw [if_pos h, if_pos h, (hg t (Bool.or_eq_true _ _ ▸ h) ht).inEnding]; rfl
  · rw [if_neg h, if_neg h]; rfl

theorem mapActive_id_ownNames {len : Nat} {sw : Bool} (hn : OwnNames s) : OwnNames (mapActive len sw id s) := by
  have e : (mapActive len sw id s).threads.map (fun t => (t.wg, t.tid)) = s.threads.map fun t => (t.wg, t.tid) := by
    simp only [mapActive, updWhere, List.map_map]
    refine List.map_congr_left fun t _ => ?_
    rw [Function.comp_apply]
    split <;> rfl
  rw [OwnNames, e]
  exact hn

theorem isActive_of_turn (hk : s.turn = some k) : isActive s t = inRunning k t := by rw [isActive, hk]

/-- What `reform` makes of a thread of the slot or beside it. -/
def Reformed (s : State) (k : SlotKey) (t t' : Thread) : Prop :=
  if inRunning k t = true ∨ inWaiting k t = true then
    t'.pc = (if inRunning k t then t.pc + 2 else t.pc) ∧ (t'.place = .binned ∨ t'.place = .overflow) ∧
    t'.orig = 1 ∧ t'.filedAt = s.clock + 4096 ∧ t'.v = t.v ∧ t'.p = t.p ∧ t'.g = t.g
  else if inEnding k t = true then ∃ e, t.place = .ending e (some k.slot) ∧ t' = { t with place := .ending e none }
  else t' = t

/-- A thread of the slot's turn as the `reform` it retires leaves it, before the slot is released. -/
def pastReform (k : SlotKey) (sw : Bool) (t : Thread) : Thread := if inRunning k t then retire 2 sw t else t

/-- The release of the slot makes of a thread past its `reform` what R159 says. -/
theorem reformed_of_filed {sw : Bool} {f : Thread → Thread}
    (hf : inRunning k t = true ∨ inWaiting k t = true → Filed 1 s.clock (pastReform k sw t) (f (pastReform k sw t))) :
    Reformed s k t (if inRunning k (pastReform k sw t) = true ∨ inWaiting k (pastReform k sw t) = true then
        f (pastReform k sw t)
      else if inEnding k (pastReform k sw t) then leaveEnding (pastReform k sw t) else pastReform k sw t) := by
  unfold Reformed
  by_cases hr : inRunning k t = true
  · have e : pastReform k sw t = retire 2 sw t := if_pos hr
    rw [e] at hf ⊢
    rw [if_pos (Or.inl hr), if_pos hr, if_pos (.inl hr)]
    exact (hf (.inl hr)).fields
  · have e : pastReform k sw t = t := if_neg hr
    rw [e] at hf ⊢
    by_cases hw : inWaiting k t = true
    · rw [if_pos (Or.inr hw), if_neg hr, if_pos (Or.inr hw)]
      exact (hf (.inr hw)).fields
    · rw [if_neg (not_or.mpr ⟨hr, hw⟩), if_neg (not_or.mpr ⟨hr, hw⟩)]
      by_cases hend : inEnding k t = true
      · obtain ⟨⟨e, hp⟩, _⟩ := inEnding_iff.mp hend
        rw [if_pos hend, if_pos hend]
        exact ⟨e, hp, by rw [leaveEnding, hp]⟩
      · rw [if_neg hend, if_neg hend]

theorem reformFilesTheSlot : Claims.ReformFilesTheSlot := by
  intro m s k hk hn
  have hthreads : (mapActive 2 m.sw id s).threads = s.threads.map (pastReform k m.sw) :=
    List.map_congr_left fun t _ => by rw [isActive_of_turn hk]; rfl
  obtain ⟨g, hg, he⟩ := releaseSlot_eq (mapActive_id_ownNames (len := 2) (sw := m.sw) hn) k
  have hrun : exec (.reform ⟨m⟩) s = .next (releaseSlot (mapActive 2 m.sw id s) k) := by
    show execReform ⟨m⟩ s = _
    rw [execReform, hk]
  refine ⟨_, hrun, by rw [he]; rfl, by rw [he]; rfl, ?_⟩
  show List.Forall₂ (Reformed s k) _ _
  rw [he, hthreads, List.map_map, List.forall₂_map_right_iff, List.forall₂_same]
  refine fun t ht => reformed_of_filed fun h => hg _ (hthreads ▸ List.mem_map_of_mem ht) ?_
  unfold pastReform
  split
  next hr => exact .inl hr
  next => exact h

end Sys2Proof.Machine
end

section
/-! ### Collectives that trap or gather (R34, R159, R172) -/
namespace Sys2Proof.Machine

variable {s : State} {k : SlotKey} {t : Thread} {i : Instr} {sw : Bool}

/-- The fates of threads that take one trap, none of them ILLEGAL_ISSUE. -/
def allTrap (c : Nat) (ts : List Thread) : List (Thread × Fate) := ts.map fun t => (t, Fate.plain c)

theorem trapped_allTrap (c : Nat) (ts : List Thread) : trapped (allTrap c ts) = ts := by
  induction ts with
  | nil => rfl
  | cons t ts ih => exact congrArg (t :: ·) ih

theorem firstTrap_allTrap {c : Nat} (hc : c ≠ 2) {ts : List Thread} (hne : ts ≠ []) :
    firstTrap (allTrap c ts) = some (c, 0, 0) := by
  have hf : (allTrap c ts).any forbidden = false :=
    List.any_eq_false.mpr fun r hr => by
      obtain ⟨t, _, rfl⟩ := List.mem_map.mp hr
      simp [forbidden, Fate.plain, hc]
  obtain ⟨t, ts, rfl⟩ := List.exists_cons_of_ne_nil hne
  rw [firstTrap, hf]
  rfl

theorem blockedWith_allTrap (c w : Nat) (ts : List Thread) : blockedWith w (allTrap c ts) = [] := by
  induction ts with
  | nil => rfl
  | cons t ts ih => exact ih

theorem goesOn_allTrap (c : Nat) (ts : List Thread) : goesOn (allTrap c ts) = false := by
  induction ts with
  | nil => rfl
  | cons t ts ih => exact ih

/-- Threads of the state that take one trap at an instruction: the shared trap operation on them, then their slot. -/
theorem applyFates_allTrap {c : Nat} (hc : c ≠ 2) {ts : List Thread} (hne : ts ≠ []) (hn : OwnNames s)
    (hts : ∀ t ∈ ts, t ∈ s.threads) :
    applyFates i sw s (allTrap c ts) = settleTurn (takeTrap s ts c 0 0 (wordOf i)) := by
  have hgo : foldList (applyGoing (lengthOf i) sw) s (allTrap c ts) = s := by
    have hall : ∀ r ∈ allTrap c ts, applyGoing (lengthOf i) sw s r = s := fun r hr => by
      obtain ⟨t, ht, rfl⟩ := List.mem_map.mp hr
      exact setThread_self s t (hn.eq_of_name (hts t ht))
    generalize allTrap c ts = rs at hall
    induction rs with
    | nil => rfl
    | cons r rs ih =>
      rw [foldList, hall r List.mem_cons_self]
      exact ih fun r hr => hall r (List.mem_cons_of_mem _ hr)
  have hleave : ∀ s' : State, foldList applyLeaving s' (allTrap c ts) = s' := fun s' =>
    foldList_id _ _ _ fun s r hr => by
      obtain ⟨t, _, rfl⟩ := List.mem_map.mp hr
      rfl
  simp only [applyFates, hgo, firstTrap_allTrap hc hne, trapped_allTrap, goesOn_allTrap, hleave,
    traceEnds_fold _ _ fun w => blockedWith_allTrap c w ts, Bool.false_eq_true, if_false]

section
variable {n : BitVec 3} {f : Thread → Thread}

/-- A thread names an empty subgroup. -/
def emptyGroup (n : BitVec 3) (t : Thread) : Bool := decide ((subOf t n).size = 0)

/-- A collective of any role on gN, taken apart: the empty groups trap, else the gang acts whole or is filed. -/
theorem collective_anyRole (hn0 : n ≠ 0) : collective i sw anyRole n f s =
    if (actives s).any (emptyGroup n) then .next (applyFates i sw s (allTrap 3 ((actives s).filter (emptyGroup n))))
    else if (actives s).all (wholeSubgroup s n) then .next (mapActive (lengthOf i) sw f s)
    else .next (settleTurn (fileThreads s (actives s) 1)) := by
  have hbad : ∀ t : Thread, (if (!anyRole t.role) = true then some 2 else if n ≠ 0 ∧ (subOf t n).size = 0 then some 3 else none) =
      if emptyGroup n t then some 3 else none := fun t => by
    simp only [anyRole, emptyGroup, ne_eq, hn0, not_false_eq_true, true_and, Bool.not_true, Bool.false_eq_true, if_false,
      decide_eq_true_eq]
  have hsome : ∀ t : Thread, (if emptyGroup n t then some 3 else none : Option Nat).isSome = emptyGroup n t := fun t => by
    cases emptyGroup n t <;> rfl
  have hfates : ∀ ts : List Thread, (ts.filterMap fun t => (if emptyGroup n t then some 3 else none : Option Nat).map fun c =>
      (t, Fate.plain c)) = allTrap 3 (ts.filter (emptyGroup n)) := fun ts => by
    induction ts with
    | nil => rfl
    | cons t ts ih =>
      rw [List.filterMap_cons, ih]
      cases h : emptyGroup n t with
      | false => rw [List.filter_cons_of_neg (by simp [h])]; rfl
      | true => rw [List.filter_cons_of_pos h]; rfl
  simp only [collective, hbad, hsome, hfates, hn0, false_or]

end

/-! ### A gathered block's slot (R159, R172) -/

/-- The slot after its running fragment was filed: its waiting fragment of the lowest PC runs, unless a thread of it is
still ending. -/
def Gathered (s : State) (k : SlotKey) (t t' : Thread) : Prop :=
  if isActive s t = true then
    t'.pc = t.pc ∧ (t'.place = .binned ∨ t'.place = .overflow) ∧ t'.orig = 1 ∧
    t'.filedAt = s.clock + 4096 ∧ t'.v = t.v ∧ t'.p = t.p ∧ t'.g = t.g
  else if inWaiting k t = true ∧ (∀ u ∈ s.threads, inWaiting k u = true → t.pc ≤ u.pc) ∧
      (∀ u ∈ s.threads, inEnding k u = false) then t' = { t with place := .running k.slot }
  else t' = t

/-- The threads of the state once the active ones are filed. -/
def filedThreads (s : State) (g : Thread → Thread) : List Thread := s.threads.map fun u => if isActive s u then g u else u

section
variable {g : Thread → Thread} (hk : s.turn = some k)
  (hg : ∀ t, isActive s t = true → t ∈ s.threads → Filed 1 s.clock t (g t))
include hk hg

/-- The threads of the slot that wait are those that waited. -/
theorem waiting_after_filing {u : Thread} :
    u ∈ (filedThreads s g).filter (inWaiting k) ↔ u ∈ s.threads ∧ inWaiting k u = true := by
  rw [List.mem_filter]
  constructor
  · rintro ⟨hm, hw⟩
    obtain ⟨x, hx, rfl⟩ := List.mem_map.mp hm
    by_cases ha : isActive s x = true
    · rw [if_pos ha, (hg x ha hx).inWaiting] at hw; cases hw
    · rw [if_neg ha] at hw ⊢; exact ⟨hx, hw⟩
  · rintro ⟨hm, hw⟩
    have ha : ¬ isActive s u = true := fun h => by
      rw [isActive_of_turn hk] at h
      rw [inRunning_not_waiting h] at hw
      cases hw
    exact ⟨List.mem_map.mpr ⟨u, hm, if_neg ha⟩, hw⟩

/-- No thread runs in the slot, and those that end are those that ended before. -/
theorem busy_after_filing :
    ((filedThreads s g).any fun t => inRunning k t || inEnding k t) = s.threads.any (inEnding k) := by
  rw [filedThreads, List.any_map, Bool.eq_iff_iff, List.any_eq_true, List.any_eq_true]
  refine exists_congr fun u => and_congr_right fun hu => ?_
  rw [Function.comp_apply]
  by_cases ha : isActive s u = true
  · have he : inEnding k u = false := by
      rw [isActive_of_turn hk] at ha
      simp only [inRunning, Bool.and_eq_true, decide_eq_true_eq] at ha
      simp [inEnding, ha.1.1]
    rw [if_pos ha, (hg u ha hu).inRunning, (hg u ha hu).inEnding, he]; rfl
  · have hr : inRunning k u = false := by rw [← isActive_of_turn hk]; simpa using ha
    rw [if_neg ha, hr]; rfl

omit hk in
/-- What the filing alone makes of a thread that is not lifted into the slot. -/
theorem gathered_of_not_lifted {t : Thread} (ht : t ∈ s.threads)
    (hno : ¬ (inWaiting k t = true ∧ (∀ u ∈ s.threads, inWaiting k u = true → t.pc ≤ u.pc) ∧
      ∀ u ∈ s.threads, inEnding k u = false)) : Gathered s k t (if isActive s t then g t else t) := by
  unfold Gathered
  by_cases ha : isActive s t = true
  · rw [if_pos ha, if_pos ha]; exact (hg t ha ht).fields
  · rw [if_neg ha, if_neg ha, if_neg hno]

omit hk in
/-- Where no waiting fragment may run, the filing is all that happens. -/
theorem gathered_none_lifted
    (hno : ∀ t ∈ s.threads, ¬ (inWaiting k t = true ∧ ∀ u ∈ s.threads, inEnding k u = false)) :
    List.Forall₂ (Gathered s k) s.threads (filedThreads s g) := by
  rw [filedThreads, List.forall₂_map_right_iff, List.forall₂_same]
  exact fun t ht => gathered_of_not_lifted hg ht fun ⟨hw, _, hend⟩ => hno t ht ⟨hw, hend⟩

/-- The waiting fragment of the lowest PC runs. -/
theorem gathered_lifted {t0 : Thread} (h0 : t0 ∈ s.threads ∧ inWaiting k t0 = true)
    (hle : ∀ u ∈ s.threads, inWaiting k u = true → t0.pc ≤ u.pc) (hend : ∀ u ∈ s.threads, inEnding k u = false) :
    List.Forall₂ (Gathered s k) s.threads (updWhere (fun t => inWaiting k t && decide (t.pc = t0.pc))
      (fun t => { t with place := .running k.slot }) (filedThreads s g)) := by
  simp only [updWhere, filedThreads, List.map_map, List.forall₂_map_right_iff, List.forall₂_same, Function.comp_apply,
    Bool.and_eq_true, decide_eq_true_eq]
  intro t ht
  by_cases hw : inWaiting k t = true ∧ t.pc = t0.pc
  · have ha : ¬ isActive s t = true := fun h => by
      rw [isActive_of_turn hk] at h
      rw [inRunning_not_waiting h] at hw
      cases hw.1
    rw [if_neg ha, if_pos hw, Gathered, if_neg ha, if_pos ⟨hw.1, hw.2 ▸ hle, hend⟩]
  · rw [if_neg]
    · exact gathered_of_not_lifted hg ht fun h => hw ⟨h.1, Nat.le_antisymm (h.2.1 t0 h0.1 h0.2) (hle t ht h.1)⟩
    · split
      next ha => rw [(hg t ha ht).inWaiting]; exact fun h => Bool.false_ne_true h.1
      next => exact hw

/-- The slot of a filed gang goes to a waiting fragment, or is free. -/
theorem settleSlot_after_filing :
    ∃ s', settleSlot { s with threads := filedThreads s g } k = s' ∧
      s' = { s with threads := s'.threads, slots := s'.slots } ∧
      s'.slots = (if ∃ u ∈ s.threads, inWaiting k u = true ∨ inEnding k u = true then s.slots
        else s.slots.filter fun y => !decide (y.key = k)) ∧
      List.Forall₂ (Gathered s k) s.threads s'.threads := by
  unfold settleSlot
  rw [busy_after_filing hk hg]
  split
  next hend =>
    obtain ⟨e, he, hke⟩ := List.any_eq_true.mp hend
    exact ⟨_, rfl, rfl, (if_pos ⟨e, he, .inr hke⟩).symm, gathered_none_lifted hg fun t _ h =>
      Bool.false_ne_true ((h.2 e he).symm.trans hke)⟩
  next hend =>
    have hnoEnd : ∀ u ∈ s.threads, inEnding k u = false := by simpa using hend
    split
    next hmin =>
      have hnoWait : ∀ u ∈ s.threads, ¬ inWaiting k u = true := fun u hu hw => by
        have hm := (waiting_after_filing hk hg).mpr ⟨hu, hw⟩
        rw [minByKey_eq_none_iff.mp hmin] at hm
        cases hm
      refine ⟨_, rfl, rfl, (if_neg ?_).symm, gathered_none_lifted hg fun t ht h => hnoWait t ht h.1⟩
      rintro ⟨u, hu, hw | he⟩
      · exact hnoWait u hu hw
      · exact Bool.false_ne_true ((hnoEnd u hu).symm.trans he)
    next t0 hmin =>
      have h0 := (waiting_after_filing hk hg).mp (minByKey_mem hmin)
      exact ⟨_, rfl, rfl, (if_pos ⟨t0, h0.1, .inl h0.2⟩).symm, gathered_lifted hk hg h0
        (fun u hu hw => minByKey_le hmin u ((waiting_after_filing hk hg).mpr ⟨hu, hw⟩)) hnoEnd⟩

end

theorem exec_vote {mk : Vote → Instr} (h : mk ∈ [Instr.voteAny, .voteAll, .voteBallot, .voteUeq]) (x : Vote) (s : State) :
    ∃ f, exec (mk x) s = collective (mk x) x.m.sw anyRole x.g f s := by
  simp only [List.mem_cons, List.not_mem_nil, or_false] at h
  rcases h with rfl | rfl | rfl | rfl <;> exact ⟨_, rfl⟩

theorem collectivesTrapOrGather : Claims.CollectivesTrapOrGather := by
  intro mk hmk x s k ⟨hne, hpc, hn⟩ hk hg0
  obtain ⟨f, hf⟩ := exec_vote hmk x s
  rw [hf, collective_anyRole hg0]
  refine ⟨fun ⟨t, ht, hz⟩ => ?_, fun hz ⟨t, ht, hw⟩ => ?_⟩
  · have hany : (actives s).any (emptyGroup x.g) = true := List.any_eq_true.mpr ⟨t, ht, decide_eq_true hz⟩
    have hfilter : (actives s).filter (emptyGroup x.g) ≠ [] :=
      List.ne_nil_of_mem (List.mem_filter.mpr ⟨ht, decide_eq_true hz⟩)
    rw [if_pos hany, applyFates_allTrap (by decide) hfilter hn fun t ht =>
      (List.mem_filter.mp (List.mem_filter.mp ht).1).1]
    rfl
  · have hany : ¬ (actives s).any (emptyGroup x.g) = true := by
      rw [List.any_eq_true]
      rintro ⟨u, hu, he⟩
      exact hz u hu (of_decide_eq_true he)
    have hall : ¬ (actives s).all (wholeSubgroup s x.g) = true := by
      rw [List.all_eq_true]
      intro h
      rw [h t ht] at hw
      cases hw
    rw [if_neg hany, if_neg hall]
    obtain ⟨g, hg, he⟩ := fileThreads_filter (s := s) (p := isActive s) (origin := 1) hn
    have hset : settleTurn (fileThreads s (actives s) 1) =
        settleSlot { s with threads := filedThreads s g } k := by
      rw [actives, he, settleTurn]
      simp only [hk, filedThreads]
    rw [hset]
    obtain ⟨s', hs', h⟩ := settleSlot_after_filing hk hg
    exact ⟨s', congrArg _ hs', h⟩

/-- Settles O19: `reform` by the release of its slot, a collective by the three things it may do. -/
theorem collectivesAndReform : Obligations.CollectivesAndReform := ⟨reformFilesTheSlot, collectivesTrapOrGather⟩

end Sys2Proof.Machine
end

section
/-! ### Drawing a gang (R162, R163, R173, R181) -/
namespace Sys2Proof.Machine

variable {s : State} {k : SlotKey} {t : Thread}

section
variable {α : Type} {key : α → Nat} {l : List α} {x y : α}

theorem insertLeft_perm : (sortByKey.insertLeft key x l).Perm (x :: l) := by
  induction l with
  | nil => exact .refl _
  | cons y ys ih =>
    rw [sortByKey.insertLeft]
    split
    · exact .refl _
    · exact (ih.cons y).trans (.swap x y ys)

theorem sortByKey_perm : (sortByKey key l).Perm l := by
  induction l with
  | nil => exact .refl _
  | cons y ys ih => exact insertLeft_perm.trans (ih.cons y)

theorem mem_sortByKey : x ∈ sortByKey key l ↔ x ∈ l := sortByKey_perm.mem_iff

end

/-- What a slot may hold: at most 32 threads, of one PC (R163). -/
def DrawOk (ts : List Thread) : Prop := ts.length ≤ 32 ∧ ∀ t ∈ ts, ∀ u ∈ ts, t.pc = u.pc

theorem drawOk_nil : DrawOk [] := ⟨Nat.zero_le _, by simp⟩

/-- The threads that a bin gives, earliest filed first. -/
theorem drawOk_first {pc : Nat} {b : List Thread} (h : ∀ t ∈ b, t.pc = pc) : DrawOk ((sortByKey fileOrder b).take 32) := by
  have hpc : ∀ t ∈ (sortByKey fileOrder b).take 32, t.pc = pc := fun t ht =>
    h t (mem_sortByKey.mp (List.mem_of_mem_take ht))
  exact ⟨List.length_take_le 32 _, fun t ht u hu => (hpc t ht).trans (hpc u hu).symm⟩

theorem takeWhole_le (n : BitVec 3) (fuel room : Nat) (ts : List Thread) :
    (takeWhole n room ts fuel).length ≤ room ∧ ∀ t ∈ takeWhole n room ts fuel, t ∈ ts := by
  induction fuel generalizing room ts with
  | zero => simp [takeWhole]
  | succ fuel ih =>
    cases ts with
    | nil => simp [takeWhole]
    | cons t0 ts =>
      rw [takeWhole]
      split
      next hle =>
        obtain ⟨hlen, hmem⟩ := ih (room - ((t0 :: ts).filter (gatherWith n t0)).length)
          ((t0 :: ts).filter fun u => !gatherWith n t0 u)
        refine ⟨by rw [List.length_append]; omega, fun t ht => ?_⟩
        rcases List.mem_append.mp ht with h | h
        · exact (List.mem_filter.mp h).1
        · exact (List.mem_filter.mp (hmem t h)).1
      next => simp

theorem drawOk_gatherDraw {n : BitVec 3} {pc : Nat} {b : List Thread} (h : ∀ t ∈ b, t.pc = pc) : DrawOk (gatherDraw s n b) := by
  obtain ⟨hlen, hmem⟩ := takeWhole_le n 32 32 (sortByKey (gatherKey n) (b.filter (wholeInBin s n b)))
  have hpc : ∀ t ∈ gatherDraw s n b, t.pc = pc := fun t ht =>
    h t (List.mem_filter.mp (mem_sortByKey.mp (hmem t ht))).1
  exact ⟨hlen, fun t ht u hu => (hpc t ht).trans (hpc u hu).symm⟩

theorem bin_one_pc {c : CoreKey} {b : List Thread} (h : b ∈ (seatBins s c).map fun pc => binThreads s c pc) :
    ∃ pc, ∀ t ∈ b, t.pc = pc := by
  obtain ⟨pc, _, rfl⟩ := List.mem_map.mp h
  exact ⟨pc, fun t ht => by
    have h := (List.mem_filter.mp ht).2
    rw [Bool.and_eq_true, decide_eq_true_eq, decide_eq_true_eq] at h
    exact h.2⟩

theorem drawChoice_drawOk (s : State) (c : CoreKey) : DrawOk (drawChoice s c) := by
  unfold drawChoice
  extract_lets bins group gathering plain full ripe spill first
  have hfirst : ∀ b ∈ bins, DrawOk (first b) := fun b hb => by
    obtain ⟨pc, h⟩ := bin_one_pc hb
    exact drawOk_first h
  split
  next x hx =>
    have hg : x ∈ gathering := minByKey_mem hx
    obtain ⟨b, hb, hx⟩ := List.mem_filterMap.mp hg
    obtain ⟨pc, h⟩ := bin_one_pc hb
    split at hx
    next n _ =>
      dsimp only at hx
      split at hx
      · cases hx
      · obtain rfl := Option.some.inj hx
        exact drawOk_gatherDraw h
    · cases hx
  next b _ hb => exact hfirst b (List.mem_filter.mp (List.mem_filter.mp (minByKey_mem hb)).1).1
  next b _ _ hb => exact hfirst b (List.mem_filter.mp (List.mem_filter.mp (minByKey_mem hb)).1).1
  next =>
    split
    next t ht =>
      split
      · exact drawOk_first (pc := t.pc) fun u hu => by simpa using (List.mem_filter.mp hu).2
      · exact drawOk_nil
    next => exact drawOk_nil

/-- The lowest of the 16 slots of a core that holds no gang. -/
theorem freeGangSlot_lowest {c : CoreKey} {n : Nat} (h : freeGangSlot s c = some n) :
    n < 16 ∧ findSlot s ⟨c.cluster, c.core, n⟩ = none ∧ ∀ j, j < n → findSlot s ⟨c.cluster, c.core, j⟩ ≠ none := by
  rw [freeGangSlot, List.find?_range_eq_some] at h
  obtain ⟨hfree, hmem, hlow⟩ := h
  exact ⟨List.mem_range.mp hmem, by simpa using hfree, fun j hj e => by simpa [e] using hlow j hj⟩

/-! ### What a draw leaves (R163, R181) -/

theorem mem_setThread_of_other {u t' : Thread} (hu : u ∈ s.threads) (hne : ¬ (u.wg = t'.wg ∧ u.tid = t'.tid)) :
    u ∈ (setThread s t').threads := by
  refine List.mem_map.mpr ⟨u, hu, if_neg ?_⟩
  rwa [Bool.and_eq_true, decide_eq_true_eq, decide_eq_true_eq]

theorem foldList_keeps {α σ : Type} {P : σ → Prop} {f : σ → α → σ} {xs : List α} {s : σ} (h0 : P s)
    (hstep : ∀ s x, x ∈ xs → P s → P (f s x)) : P (foldList f s xs) := by
  induction xs generalizing s with
  | nil => exact h0
  | cons x xs ih => exact ih (hstep s x List.mem_cons_self h0) fun s y hy => hstep s y (List.mem_cons_of_mem _ hy)

/-- Threads that leave the overflow queue change, and nothing else. -/
theorem refillBins_threads_only (s : State) (c : CoreKey) : refillBins s c = { s with threads := (refillBins s c).threads } := by
  unfold refillBins
  refine foldList_keeps (P := fun s' : State => s' = { s with threads := s'.threads }) rfl fun s' t _ h => ?_
  dsimp only
  split
  · rw [h]; rfl
  · exact h

/-- A thread that shares its name with no thread of the overflow queue stays as it is. -/
theorem mem_refillBins {c : CoreKey} {u : Thread} (hu : u ∈ s.threads)
    (hother : ∀ t ∈ s.threads, t.place = .overflow → ¬ (u.wg = t.wg ∧ u.tid = t.tid)) : u ∈ (refillBins s c).threads := by
  unfold refillBins
  refine foldList_keeps (P := fun s' : State => u ∈ s'.threads) hu fun s' t ht h => ?_
  obtain ⟨hcore, hp⟩ := List.mem_filter.mp (mem_sortByKey.mp ht)
  dsimp only
  split
  · exact mem_setThread_of_other h (hother t (List.mem_filter.mp hcore).1 (of_decide_eq_true hp))
  · exact h

/-- A thread as a draw into a slot leaves it (R163, R181). -/
def drawn (k : SlotKey) (id : Word) (t : Thread) : Thread :=
  { t with place := .running k.slot, fl := { t.fl with frag := false }, gang := id }

/-- The identifier of the next draw of a core into a slot (R181). -/
def nextParent (s : State) (k : SlotKey) : Word := parentId k ((coreState s (slotCore k)).draws + 1)

/-- The slot's new entry, and the core's count of draws, after one thread is drawn. -/
def withDrawnSlot (s : State) (k : SlotKey) (t : Thread) : State :=
  let c := coreState s (slotCore k)
  let s1 := setCore s { c with draws := c.draws + 1 }
  { s1 with slots := s1.slots ++ [⟨k, nextParent s k, [t.tid], s.clock, none⟩] }

theorem drawGang_one (s : State) (k : SlotKey) (t : Thread) : drawGang s k [t] =
    refillBins (setThread (withDrawnSlot s k t) (drawn k (nextParent s k) t)) (slotCore k) := rfl

theorem drawn_mem (hn : OwnNames s) (ht : t ∈ s.threads) :
    drawn k (nextParent s k) t ∈ (drawGang s k [t]).threads := by
  have hset := setThread_eq_map (s := withDrawnSlot s k t) (t := t) (t' := drawn k (nextParent s k) t) ⟨rfl, rfl⟩ (hn.eq_of_name ht)
  rw [drawGang_one, hset]
  refine mem_refillBins (List.mem_map.mpr ⟨t, ht, if_pos rfl⟩) fun u hu hp hname => ?_
  obtain ⟨x, hx, rfl⟩ := List.mem_map.mp hu
  by_cases hxt : x = t
  · rw [if_pos hxt] at hp; cases hp
  · rw [if_neg hxt] at hname
    exact hxt (hn.eq_of_name ht x hx hname.1.symm hname.2.symm)

theorem coreState_key (s : State) (c : CoreKey) : (coreState s c).key = c := by
  unfold coreState
  split
  next x hx => simpa using List.find?_some hx
  next => rfl

theorem coreState_setCore (s : State) (c : CoreState) : coreState (setCore s c) c.key = c := by
  simp [coreState, setCore]

theorem findSlot_append_new {x : Slot} (h : findSlot s x.key = none) :
    findSlot { s with slots := s.slots ++ [x] } x.key = some x := by
  rw [findSlot] at h
  simp [findSlot, List.find?_append, h]

/-- The draw changes the slots and the cores as its first step does. -/
theorem drawGang_slots_cores (s : State) (k : SlotKey) (t : Thread) :
    (drawGang s k [t]).slots = (withDrawnSlot s k t).slots ∧ (drawGang s k [t]).cores = (withDrawnSlot s k t).cores := by
  rw [drawGang_one, refillBins_threads_only]
  exact ⟨rfl, rfl⟩

theorem drawGang_slot (hfree : findSlot s k = none) :
    findSlot (drawGang s k [t]) k = some ⟨k, nextParent s k, [t.tid], s.clock, none⟩ := by
  have h : findSlot (drawGang s k [t]) k = findSlot (withDrawnSlot s k t) k := by
    rw [findSlot, (drawGang_slots_cores s k t).1, findSlot]
  rw [h]
  exact findSlot_append_new (s := setCore s { coreState s (slotCore k) with draws := (coreState s (slotCore k)).draws + 1 })
    (x := ⟨k, nextParent s k, [t.tid], s.clock, none⟩) hfree

theorem drawGang_draws : (coreState (drawGang s k [t]) (slotCore k)).draws = (coreState s (slotCore k)).draws + 1 := by
  have h : coreState (drawGang s k [t]) (slotCore k) = coreState (withDrawnSlot s k t) (slotCore k) := by
    rw [coreState, (drawGang_slots_cores s k t).2, coreState]
  have hc := coreState_setCore s { coreState s (slotCore k) with draws := (coreState s (slotCore k)).draws + 1 }
  rw [coreState_key] at hc
  rw [h]
  exact congrArg CoreState.draws hc

theorem gangDrawFillsASlot : Claims.GangDrawFillsASlot := by
  refine ⟨fun s k => ⟨fun h => ?_, fun h => ?_, fun t ts hfree hd => ?_⟩, drawChoice_drawOk,
    fun s c n => freeGangSlot_lowest, fun s k t ht hp hn hfree =>
      ⟨⟨_, drawn_mem hn ht, rfl, rfl, rfl, rfl, rfl, rfl, rfl⟩, ⟨_, drawGang_slot hfree, rfl, rfl, rfl⟩, drawGang_draws⟩⟩
  · show execGangDraw k s = .next s
    rw [execGangDraw, if_neg h]
  · show execGangDraw k s = .next s
    rw [execGangDraw, h]
    exact ite_self _
  · show execGangDraw k s = _
    rw [execGangDraw, if_pos hfree, hd]

/-! ### Blocks and seats (R47, R252 to R254, R266) -/

theorem newThread_fresh (k : SeatKey) (g : Workgroup) (tid : Nat) (role : BitVec 2) (assay : Bool) (pc : Nat) :
    Fresh (newThread k g tid role assay pc) := by
  refine ⟨fun i => ?_, fun n hn => ?_, fun n => ?_, rfl, rfl, rfl, rfl, rfl, rfl, rfl, rfl, rfl, rfl⟩
  · simp [getV, newThread]
  · have h : ∀ n : BitVec 3, n ≠ 0 → (1#8).getLsbD n.toNat = false := by decide
    rw [getP, if_neg hn]
    exact h n hn
  · simp [subOf, newThread]

theorem blockRole_eq (l : Launch) (j : Nat) : (l.lr.roles = 0 → blockRole l j = 0) ∧
    (l.lr.roles ≠ 0 → blockRole l j = if j < l.lr.roles.toNat % 256 then 1
      else if j < l.lr.roles.toNat % 256 + l.lr.roles.toNat / 256 % 256 then 2 else 0) := by
  refine ⟨fun h => if_pos h, fun h => ?_⟩
  simp only [blockRole, field, if_neg h, Nat.reduceAdd, Nat.reduceSub, Nat.reducePow, Nat.div_one]
  rfl

theorem startDue_of_no_replay {launch vc wgid tid kind ord : Nat} (h : replayOf s launch = none) :
    startDue s launch vc wgid tid kind ord = true := by rw [startDue, h]

section
variable {wg core : Nat} {g : Workgroup} {l : Launch} {kd : KernelDecl} {seats : List Nat} (hg : findWg s wg = some g)
  (hl : findLaunch s g.launch = some l) (hk : kernelOf s g.launch = some kd) (hr : roomiest s g = some (core, seats))
include hg hl hk hr

/-- The walker creates the next block whole (R252). -/
theorem execBlockCreate_creates (hrep : replayOf s g.launch = none) (hm : mayCreate s l g = true)
    (hroom : min 32 (wgThreads g - 32 * g.blocks) ≤ seats.length) (hd : drainChoice s ⟨g.home.cluster, core⟩ = [])
    (hfull : l.full = true) : execBlockCreate wg s =
      .next (foldList (createThread l g kd core) (updWg s wg fun g => { g with blocks := g.blocks + 1 })
        (((List.range (min 32 (wgThreads g - 32 * g.blocks))).map fun j => 32 * g.blocks + j).zip seats)) := by
  simp only [execBlockCreate, hg, hl, hk, hr, startDue_of_no_replay hrep, hm, hd, hfull, decide_eq_true hroom, Bool.and_true,
    List.isEmpty_nil, if_true]

/-- Where threads may not be created, or there is no room for the block, nothing happens (R254). -/
theorem execBlockCreate_waits (h : mayCreate s l g = false ∨ seats.length < min 32 (wgThreads g - 32 * g.blocks)) :
    execBlockCreate wg s = .next s := by
  have hno : (mayCreate s l g && decide (min 32 (wgThreads g - 32 * g.blocks) ≤ seats.length)) = false := by
    rcases h with h | h
    · rw [h, Bool.false_and]
    · rw [decide_eq_false (not_le.mpr h), Bool.and_false]
  simp only [execBlockCreate, hg, hl, hk, hr, hno, Bool.false_and, Bool.false_eq_true, if_false]

end

/-- A starving record, and no gang marked yet, marks the gang drawn longest ago (R266). -/
theorem execSeatReclaim_marks {k : CoreKey} {x : Slot} {r : Record} (hr : r ∈ s.records) (hd : drains s k r = true)
    (ha : recordAged s 4 r = true)
    (hfull : ∀ g, findWg s r.th.wg = some g → ∀ c ∈ coresOf s g, mayUse s g r c = false ∨ freeSeats s ⟨k.cluster, c⟩ = [])
    (hfree : ∀ t ∈ coreThreads s k, t.fl.reclaim = false)
    (hx : minByKey Slot.drawnAt (s.slots.filter fun x => decide (slotCore x.key = k)) = some x) :
    execSeatReclaim k s = .next (updThreads s (fun t => decide (t.slot? = some x.key)) fun t =>
      { t with fl := { t.fl with reclaim := true } }) := by
  obtain ⟨g, hg⟩ : ∃ g, findWg s r.th.wg = some g := by
    cases h : findWg s r.th.wg with
    | none => rw [drains, h] at hd; cases hd
    | some g => exact ⟨g, rfl⟩
  have hall : ((coresOf s g).all fun c => !mayUse s g r c || (freeSeats s ⟨k.cluster, c⟩).isEmpty) = true :=
    List.all_eq_true.mpr fun c hc => by
      rcases hfull g hg c hc with h | h
      · rw [h]; rfl
      · rw [h, List.isEmpty_nil, Bool.or_true]
  have hbusy : ((coreThreads s k).any fun t => t.fl.reclaim) = false :=
    List.any_eq_false.mpr fun t ht => by rw [hfree t ht]; exact Bool.false_ne_true
  unfold execSeatReclaim
  extract_lets starving busy
  have hstarve : s.records.any starving = true :=
    List.any_eq_true.mpr ⟨r, hr, by simp only [starving, hd, ha, hg]; exact hall⟩
  have hgo : (s.records.any starving && !busy) = true := by
    rw [hstarve, show busy = false from hbusy]; rfl
  rw [if_pos hgo, hx]

theorem blocksAndSeats : Claims.BlocksAndSeats :=
  ⟨fun _ _ _ _ _ _ _ hg hl hk hr hrep => ⟨execBlockCreate_creates hg hl hk hr hrep, execBlockCreate_waits hg hl hk hr⟩,
    fun k g tid role assay pc => ⟨newThread_fresh k g tid role assay pc, rfl, rfl, rfl⟩, blockRole_eq,
    fun _ _ _ _ => execSeatReclaim_marks⟩

/-- Settles O40: the draw by what it chooses and what it leaves, blocks by the walker's two outcomes, and the seat reclaim. -/
theorem gangsAndBlocksAreMade : Obligations.GangsAndBlocksAreMade := ⟨gangDrawFillsASlot, blocksAndSeats⟩

end Sys2Proof.Machine
end

section
/-! ### A kill leaves the virtual devices as they are (R357)

One lemma for each operation that a kill is made of, in the order of the model. -/
namespace Sys2Proof.Machine

theorem foldList_vds {α : Type} {f : State → α → State} (hf : ∀ s x, (f s x).vds = s.vds) (s : State) (xs : List α) :
    (foldList f s xs).vds = s.vds :=
  foldList_keeps (P := fun s' : State => s'.vds = s.vds) rfl fun s' x _ h => (hf s' x).trans h

/-! ### Memory and the logs -/

@[simp] theorem vwrite_vds (s : State) (ctx va : Nat) (bs : List Byte) : (vwrite s ctx va bs).vds = s.vds := by
  unfold vwrite
  split <;> rfl

@[simp] theorem vwriteSplit_vds (s : State) (ctx va : Nat) (bs : List Byte) : (vwriteSplit s ctx va bs).vds = s.vds := by
  unfold vwriteSplit
  dsimp only
  split
  · rw [vwrite_vds, vwrite_vds]
  · rw [vwrite_vds]

@[simp] theorem logAppend_vds (s : State) (r : Recording) (order : Bool) (ident : Nat) (bs : List Byte) :
    (logAppend s r order ident bs).vds = s.vds := by
  unfold logAppend
  extract_lets cap hit upd
  have hupd (s : State) (r : Recording) : (upd s r).vds = s.vds := rfl
  clear_value upd
  split
  · split
    · exact hupd ..
    · split <;> exact hupd ..
  · split <;> exact hupd ..

@[simp] theorem logDispatch_vds (s : State) (g : Workgroup) (ord tid kind detail passed : Nat) :
    (logDispatch s g ord tid kind detail passed).vds = s.vds := by
  unfold logDispatch logFor
  split
  · exact logAppend_vds ..
  · rfl

/-! ### Records -/

@[simp] theorem poolWrite_vds (s : State) (r : Record) : (poolWrite s r).vds = s.vds := by
  unfold poolWrite
  split
  · split
    · exact vwriteSplit_vds ..
    · rfl
  · rfl

@[simp] theorem makeRoom_vds (s : State) (cluster need fuel : Nat) : (makeRoom s cluster need fuel).vds = s.vds := by
  induction fuel generalizing s with
  | zero => rfl
  | succ fuel ih =>
    unfold makeRoom
    split
    · rfl
    · split
      · rfl
      · rw [ih, updRecord_vds, poolWrite_vds]

@[simp] theorem bufferRecord_vds (s : State) (id : Nat) : (bufferRecord s id).vds = s.vds := by
  unfold bufferRecord
  split
  · rfl
  · split
    · rfl
    · exact makeRoom_vds ..

@[simp] theorem refillRecordBins_vds (s : State) (cluster : Nat) : (refillRecordBins s cluster).vds = s.vds := by
  refine foldList_vds (fun s r => ?_) _ _
  dsimp only
  split <;> rfl

@[simp] theorem wakeRecord_vds (s : State) (id : Nat) : (wakeRecord s id).vds = s.vds := by
  unfold wakeRecord
  split
  · rfl
  · split
    · rfl
    · dsimp only
      split
      · rw [refillRecordBins_vds, bufferRecord_vds, updRecord_vds]
      · rfl

@[simp] theorem writeRecord_vds (s : State) (t : Thread) (e : SegEnd) (held slotless : Bool) :
    (writeRecord s t e held slotless).vds = s.vds := by
  unfold writeRecord
  split
  · rfl
  · extract_lets th flt slot r s1 s2 s4
    have hs4 : s4.vds = s.vds := (logDispatch_vds ..).trans (makeRoom_vds ..)
    split
    · rw [wakeRecord_vds, hs4]
    · exact hs4

@[simp] theorem releaseHeld_vds (s : State) (ctx fuel : Nat) : (releaseHeld s ctx fuel).vds = s.vds := by
  induction fuel generalizing s with
  | zero => rfl
  | succ fuel ih =>
    unfold releaseHeld
    dsimp only
    split
    · rw [ih, updRecord_vds]
    · split
      · rw [ih, writeRecord_vds]
      · rfl
    · rfl

/-! ### The kill -/

@[simp] theorem refillBins_vds (s : State) (c : CoreKey) : (refillBins s c).vds = s.vds := by
  rw [refillBins_threads_only]

@[simp] theorem killWgs_vds (s : State) (launch : Nat) : (killWgs s launch).vds = s.vds := by
  unfold killWgs
  extract_lets ids homes kept s1 keys s2 s3 s4 s5 s6
  have hdiscard (s : State) (wg n : Nat) : (countDiscard s wg n).vds = s.vds := rfl
  have hs1 : s1.vds = s.vds := foldList_vds (fun s id => hdiscard s id _) _ _
  have hs3 : s3.vds = s2.vds := foldList_vds refillBins_vds _ _
  have hs4 : s4.vds = s3.vds := foldList_vds refillRecordBins_vds _ _
  exact hs4.trans (hs3.trans hs1)

@[simp] theorem killLaunch_vds (s : State) (launch status : Nat) (code : Word) :
    (killLaunch s launch status code).vds = s.vds := by
  unfold killLaunch
  split
  · rfl
  · split
    · rfl
    · dsimp only
      rw [releaseHeld_vds, killWgs_vds, updLaunch_vds]

@[simp] theorem killCtx_vds (s : State) (ctx status : Nat) : (killCtx s ctx status).vds = s.vds := by
  refine foldList_vds (fun s l => ?_) _ _
  split
  · exact killLaunch_vds ..
  · rfl

end Sys2Proof.Machine
end

section
/-! ### Resets, boot, the domain word, registers and routes (R443, R470 to R473, R475) -/
namespace Sys2Proof.Machine

variable {s : State}

/-! ### The virtual devices -/

theorem findVd_updVd {n : Nat} {f : VDev → VDev} (hf : ∀ v, (f v).num = v.num) :
    findVd (updVd s n f) n = (findVd s n).map f := by
  unfold findVd updVd updWhere
  dsimp only
  induction s.vds with
  | nil => rfl
  | cons v vs ih =>
    rw [List.map_cons]
    by_cases h : v.num = n
    · rw [List.find?_cons_of_pos (by simp [h, hf]), List.find?_cons_of_pos (by simp [h])]
      simp [h]
    · rw [List.find?_cons_of_neg (by simp [h]), List.find?_cons_of_neg (by simp [h])]
      exact ih

theorem findVd_updVd_of_find {n : Nat} {f : VDev → VDev} {v : VDev} (hf : ∀ v, (f v).num = v.num) (hv : findVd s n = some v) :
    findVd (updVd s n f) n = some (f v) := by
  rw [findVd_updVd hf, hv, Option.map_some]

/-! ### Resets (R470, R472) -/

/-- What a module reset leaves, field by field. -/
theorem moduleReset_leaves (s : State) :
    let r := moduleReset s
    r.boot.stage = 1 ∧ r.boot.err = 0 ∧ r.boot.devnum = s.boot.storedDevnum ∧ r.boot.domid = s.boot.storedDomid ∧
    r.boot.trip = s.nv.trip ∧ r.nv.trip = false ∧ r.nv.counts = s.nv.committed ∧ r.nv.retired = s.nv.retired ∧
    r.contexts = [] ∧ r.tenants = [] ∧ r.vds = [] ∧ r.launches = [] ∧ r.threads = [] ∧ r.queues = [] ∧ r.modules = [] ∧
    r.power.budget = budgetOf s.nv.retired ∧ ∀ c ∈ r.mem, 2 ^ 39 ≤ c.1 :=
  ⟨rfl, rfl, rfl, rfl, rfl, rfl, rfl, rfl, rfl, rfl, rfl, rfl, rfl, rfl, rfl, rfl,
    fun _ hc => of_decide_eq_true (List.mem_filter.mp hc).2⟩

/-- A reset of a virtual function takes its interface out of RUN (R472). -/
theorem functionLevelReset_leaves_run {v : Nat} {d : VDev} (hd : findVd s v = some d) (hrun : d.tdisp = .run) :
    Reaches (.functionLevelReset (some v)) s fun s' => ∃ d', findVd s' v = some d' ∧ d'.tdisp ≠ .run := by
  set s1 : State := match ctxOfVd s v with
    | some c => killCtx s c.id 13
    | none => s with hs1
  have hvds : findVd s1 v = some d := by
    have e : s1.vds = s.vds := by
      rw [hs1]
      split
      · exact killCtx_vds ..
      · rfl
    rw [findVd, e]
    exact hd
  obtain ⟨st, hst, hexec⟩ : ∃ st, st ≠ Tdisp.run ∧ exec (.functionLevelReset (some v)) s =
      .next (bumpFree (updVd s1 v fun d => if d.tdisp = .run then { d with tdisp := st } else d)) := by
    refine ⟨_, ?_, rfl⟩
    split <;> decide
  refine ⟨_, hexec, { d with tdisp := st }, ?_, hst⟩
  refine (findVd_updVd_of_find (fun x => ?_) hvds).trans (congrArg some (if_pos hrun))
  split <;> rfl

/-! ### Boot (R470, R471) -/

section
variable {err : Nat} {peers : List PortPeer}

theorem checkFailed_iff {stage err : Nat} : checkFailed stage err = true ↔ err = stage ∧ 1 ≤ stage ∧ stage ≤ 4 := by
  simp [checkFailed, and_assoc]

theorem boot_idle (h : s.boot.stage = 0 ∨ 5 < s.boot.stage) : Runs (.bootStageComplete err peers) s s := by
  show execBootStageComplete err peers s = _
  rw [execBootStageComplete, if_pos h]

theorem boot_check_fails (h1 : 1 ≤ s.boot.stage) (h4 : s.boot.stage ≤ 4) (he : err = s.boot.stage) :
    Runs (.bootStageComplete err peers) s { s with boot := { s.boot with stage := 15, err := err } } := by
  show execBootStageComplete err peers s = _
  rw [execBootStageComplete, if_neg (by omega), if_pos (checkFailed_iff.mpr ⟨he, h1, h4⟩)]

/-- Past the checks, a stage that is not idle completes. -/
theorem execBootStageComplete_past_check (h1 : 1 ≤ s.boot.stage) (h5 : s.boot.stage ≤ 5)
    (he : err ≠ s.boot.stage ∨ s.boot.stage = 5) :
    execBootStageComplete err peers s =
      if s.boot.stage = 4 ∧ allRetired s then .next { s with boot := { s.boot with stage := 15, err := 5 } }
      else if s.boot.stage = 4 ∧ s.boot.trip then
        .next (logError { s with boot := { s.boot with stage := s.boot.stage + 1 } } 15 true false 16 0 0)
      else if s.boot.stage = 5 then .next (linksTrained { s with boot := { s.boot with stage := s.boot.stage + 1 } } peers)
      else .next { s with boot := { s.boot with stage := s.boot.stage + 1 } } := by
  have hc : ¬ checkFailed s.boot.stage err = true := by rw [checkFailed_iff]; omega
  rw [execBootStageComplete, if_neg (by omega), if_neg hc]

theorem boot_no_rood (h4 : s.boot.stage = 4) (he : err ≠ 4) (hr : allRetired s = true) :
    Runs (.bootStageComplete err peers) s { s with boot := { s.boot with stage := 15, err := 5 } } := by
  show execBootStageComplete err peers s = _
  rw [execBootStageComplete_past_check (by omega) (by omega) (.inl (h4 ▸ he)), if_pos ⟨h4, hr⟩]

theorem boot_goes_on (h1 : 1 ≤ s.boot.stage) (h3 : s.boot.stage ≤ 3) (he : err ≠ s.boot.stage) :
    Runs (.bootStageComplete err peers) s { s with boot := { s.boot with stage := s.boot.stage + 1 } } := by
  show execBootStageComplete err peers s = _
  rw [execBootStageComplete_past_check h1 (by omega) (.inl he), if_neg (by omega), if_neg (by omega), if_neg (by omega)]

theorem boot_memory_ok (h4 : s.boot.stage = 4) (he : err ≠ 4) (hr : allRetired s = false) (ht : s.boot.trip = false) :
    Runs (.bootStageComplete err peers) s { s with boot := { s.boot with stage := 5 } } := by
  show execBootStageComplete err peers s = _
  rw [execBootStageComplete_past_check (by omega) (by omega) (.inl (h4 ▸ he)), if_neg (by simp [hr]), if_neg (by simp [ht]),
    if_neg (by omega), h4]

/-! ### The links stage (R453, R475) -/

theorem le_maxNat {l : List Nat} {x : Nat} (h : x ∈ l) : x ≤ maxNat l := by
  induction l with
  | nil => cases h
  | cons y ys ih =>
    rcases List.mem_cons.mp h with rfl | h
    · exact le_max_left ..
    · exact (ih h).trans (le_max_right ..)

/-- A route goes to its device, through the port of one of the peers. -/
theorem routeTo_spec {ps : List PortPeer} {dev : Nat} {r : Route} (h : routeTo ps dev = some r) :
    r.dev = dev ∧ ∃ p ∈ ps, p.port = r.port := by
  rw [routeTo, Option.map_eq_some_iff] at h
  obtain ⟨w, hw, rfl⟩ := h
  obtain ⟨p, hp, hw⟩ := List.mem_filterMap.mp (minByKey_mem hw)
  obtain ⟨n, _, rfl⟩ := Option.map_eq_some_iff.mp hw
  exact ⟨rfl, p, mem_sortByKey.mp hp, rfl⟩

/-- The host hears of the ports that stay down; nothing else comes of that. -/
theorem emitAll_out_only {α : Type} (f : α → Out) (s : State) (xs : List α) :
    ∃ o, foldList (fun s x => emit s (f x)) s xs = { s with out := o } :=
  foldList_keeps (P := fun s' : State => ∃ o, s' = { s with out := o }) ⟨s.out, rfl⟩ fun s' x _ ⟨o, h⟩ => ⟨f x :: o, by rw [h]; rfl⟩

/-- What the links stage leaves of the boot state and the tick. -/
theorem linksTrained_eq (s : State) (all : List PortPeer) :
    let peers := all.filter fun p => decide (p.port < fabricPorts)
    let up := peers.filter (portUp s.boot)
    let down := (peers.filter fun p => decide (s.boot.domid ≠ 0) && !portUp s.boot p).map PortPeer.port
    (linksTrained s all).tick = (if up.isEmpty then s.tick else maxNat (up.map PortPeer.tick)) ∧
    (linksTrained s all).boot = { s.boot with
      routes := ((List.range 64).filter fun d => !decide (d = s.boot.devnum)).filterMap (routeTo up)
      portsDown := if s.boot.domid = 0 then List.range fabricPorts else down } := by
  intro peers up down
  obtain ⟨o, h⟩ := emitAll_out_only (fun p => .log (.portDown p)) { s with
      tick := if up.isEmpty then s.tick else maxNat (up.map PortPeer.tick)
      boot := { s.boot with
        routes := ((List.range 64).filter fun d => !decide (d = s.boot.devnum)).filterMap (routeTo up)
        portsDown := if s.boot.domid = 0 then List.range fabricPorts else down } } down
  have e : linksTrained s all = _ := h
  rw [e]
  exact ⟨rfl, rfl⟩

/-- The last stage trains the ports: routes through the ports that came up, the others down, the tick at the domain's. -/
theorem boot_trains_links (h5 : s.boot.stage = 5) : Reaches (.bootStageComplete err peers) s fun s' => s'.boot.stage = 6 ∧
    (∀ r ∈ s'.boot.routes, r.dev ≠ s.boot.devnum ∧ r.dev < 64 ∧ ∃ p ∈ peers, p.port = r.port ∧ portUp s.boot p = true ∧
      r.port < 12) ∧
    (s.boot.domid = 0 → s'.boot.routes = [] ∧ ∀ n, n < 12 → n ∈ s'.boot.portsDown) ∧
    (∀ p ∈ peers, p.port < 12 → portUp s.boot p = true → p.tick ≤ s'.tick) ∧
    ∀ p ∈ peers, p.port < 12 → s.boot.domid ≠ 0 → portUp s.boot p = false → p.port ∈ s'.boot.portsDown := by
  obtain ⟨htick, hboot⟩ := linksTrained_eq { s with boot := { s.boot with stage := 6 } } peers
  have hmem : ∀ p, p ∈ (peers.filter fun p => decide (p.port < fabricPorts)) ↔ p ∈ peers ∧ p.port < 12 := fun p => by
    rw [List.mem_filter, decide_eq_true_eq]; rfl
  refine ⟨linksTrained { s with boot := { s.boot with stage := 6 } } peers, ?_, ?_, ?_, ?_, ?_, ?_⟩
  · show execBootStageComplete err peers s = _
    rw [execBootStageComplete_past_check (by omega) (by omega) (.inr h5), if_neg (by omega), if_neg (by omega), if_pos h5, h5]
  · rw [hboot]
  · rw [hboot]
    intro r hr
    obtain ⟨d, hd, hr⟩ := List.mem_filterMap.mp hr
    obtain ⟨rfl, p, hp, hport⟩ := routeTo_spec hr
    obtain ⟨hrange, hne⟩ := List.mem_filter.mp hd
    obtain ⟨hp, hup⟩ := List.mem_filter.mp hp
    obtain ⟨hpeer, hlt⟩ := (hmem p).mp hp
    exact ⟨by simpa using hne, List.mem_range.mp hrange, p, hpeer, hport, hup, hport ▸ hlt⟩
  · intro h0
    have hup : ∀ ps : List PortPeer, ps.filter (portUp s.boot) = [] := fun ps =>
      List.filter_eq_nil_iff.mpr fun p _ => by simp [portUp, h0]
    rw [hboot]
    refine ⟨?_, fun n hn => ?_⟩
    · refine List.filterMap_eq_nil_iff.mpr fun d _ => ?_
      show routeTo (List.filter (portUp s.boot) _) d = none
      rw [hup]
      rfl
    · show n ∈ (if s.boot.domid = 0 then List.range fabricPorts else _)
      rw [if_pos h0]
      exact List.mem_range.mpr hn
  · intro p hp hlt hup
    have hin : p ∈ (peers.filter fun p => decide (p.port < fabricPorts)).filter (portUp s.boot) :=
      List.mem_filter.mpr ⟨(hmem p).mpr ⟨hp, hlt⟩, hup⟩
    rw [htick]
    show p.tick ≤ if (List.filter (portUp s.boot) _).isEmpty then _ else maxNat (List.map _ (List.filter (portUp s.boot) _))
    rw [if_neg (by rw [List.isEmpty_iff]; exact List.ne_nil_of_mem hin)]
    exact le_maxNat (List.mem_map.mpr ⟨p, hin, rfl⟩)
  · intro p hp hlt hdom hdown
    rw [hboot]
    show p.port ∈ (if s.boot.domid = 0 then _ else List.map _ (List.filter _ _))
    rw [if_neg hdom]
    refine List.mem_map.mpr ⟨p, List.mem_filter.mpr ⟨(hmem p).mpr ⟨hp, hlt⟩, ?_⟩, rfl⟩
    have hd : portUp { s.boot with stage := 6 } p = false := hdown
    rw [hd, decide_eq_true hdom]
    rfl

end

/-! ### The domain word, registers and lost routes (R473, R475) -/

/-- A domain word whose reserved bits are zero is stored, and in force from the next reset only. -/
theorem domainWordWrite_stores {w : Word} (hw : w.toNat < 2 ^ 22) : Reaches (.domainWordWrite w) s fun s' =>
    s'.boot.storedDevnum = w.toNat / 65536 % 64 ∧ s'.boot.storedDomid = w.toNat % 65536 ∧
    s'.boot.devnum = s.boot.devnum ∧ s'.boot.domid = s.boot.domid := by
  have hbad : decide (w.toNat / 2 ^ 22 ≠ 0) = false := decide_eq_false (by rw [Nat.div_eq_of_lt hw]; exact fun h => h rfl)
  refine ⟨bumpFree { s with boot := { s.boot with storedDevnum := field w.toNat 21 16, storedDomid := field w.toNat 15 0 } },
    ?_, rfl, by simp [field], rfl, rfl⟩
  show execDomainWordWrite w s = _
  rw [execDomainWordWrite]
  dsimp only
  rw [hbad, Bool.false_and, if_neg Bool.false_ne_true]

/-- A register holds what is written to it, and no other changes. -/
theorem registerWrite_holds {fn off : Nat} {value : Word} (h4 : off % 4 = 0)
    (hb : (fn = 32 ∧ off + 4 ≤ 65536) ∨ (fn < 32 ∧ off + 4 ≤ 16384)) : Reaches (.registerWrite fn off value) s fun s' =>
      s'.registers.find? (fun r => decide (r.fn = fn) && decide (r.off = off)) = some ⟨fn, off, value⟩ ∧
      (∀ r, r.fn ≠ fn ∨ r.off ≠ off → (r ∈ s'.registers ↔ r ∈ s.registers)) ∧ s' = { s with registers := s'.registers } := by
  have hsize : off + 4 ≤ barSize fn := by
    unfold barSize
    rcases hb with ⟨h, hle⟩ | ⟨h, hle⟩
    · rw [if_pos h]; exact hle
    · rw [if_neg (by omega), if_pos h]; exact hle
  refine ⟨_, if_pos ⟨h4, hsize⟩, by simp, fun r hr => ?_, rfl⟩
  have hne : r ≠ ⟨fn, off, value⟩ := by rintro rfl; exact hr.elim (· rfl) (· rfl)
  have hkeep : (!(decide (r.fn = fn) && decide (r.off = off))) = true := by
    rcases hr with h | h <;> simp [h]
  rw [List.mem_cons, List.mem_filter, hkeep]
  exact ⟨fun h => (h.resolve_left hne).1, fun h => .inr ⟨h, rfl⟩⟩

theorem registerWrite_outside {fn off : Nat} {value : Word}
    (h : off % 4 ≠ 0 ∨ 32 < fn ∨ 65536 < off + 4 ∨ (fn < 32 ∧ 16384 < off + 4)) :
    Runs (.registerWrite fn off value) s s := by
  refine if_neg fun ⟨h4, hsize⟩ => ?_
  unfold barSize at hsize
  split at hsize
  · omega
  · split at hsize <;> omega

theorem routeLost_unknown {dev : Nat} (h : ∀ r ∈ s.boot.routes, r.dev ≠ dev) : Runs (.routeLost dev) s s :=
  if_neg (by rw [List.any_eq_true]; rintro ⟨r, hr, e⟩; exact h r hr (of_decide_eq_true e))

/-- A lost route is gone, and the far accesses on their way there are answered. -/
theorem routeLost_ends {dev : Nat} (h : ∃ r ∈ s.boot.routes, r.dev = dev) : Reaches (.routeLost dev) s fun s' =>
    (∀ r ∈ s'.boot.routes, r.dev ≠ dev) ∧
      ∀ r ∈ s'.reqs, ∀ op, r.kind = .far op → r.loc = dev → ∃ bs x ok, r.stage = .reply bs x ok := by
  obtain ⟨r0, hr0, e0⟩ := h
  refine ⟨_, if_pos (List.any_eq_true.mpr ⟨r0, hr0, decide_eq_true e0⟩), fun r hr => ?_, fun r hr op hk hl => ?_⟩
  · simpa using (List.mem_filter.mp hr).2
  · obtain ⟨q, _, rfl⟩ := List.mem_map.mp hr
    revert hk hl
    split
    next hstage => exact fun _ _ => ⟨_, _, _, hstage⟩
    next =>
      split
      · exact fun _ _ => ⟨_, _, _, rfl⟩
      next hloc => exact fun _ hl => absurd hl hloc
    next hfar _ => exact fun hk => (hfar op hk).elim

theorem resetAndBoot : Claims.ResetAndBoot :=
  ⟨fun s => ⟨rfl, rfl, rfl, moduleReset_leaves s⟩,
    fun _ _ _ => ⟨boot_idle, boot_check_fails, boot_no_rood, boot_goes_on, boot_memory_ok, boot_trains_links⟩,
    fun _ _ _ _ hd _ hrun => functionLevelReset_leaves_run hd hrun, fun _ _ => domainWordWrite_stores,
    fun _ _ _ _ => ⟨registerWrite_holds, registerWrite_outside⟩, fun _ _ => ⟨routeLost_unknown, routeLost_ends⟩⟩

end Sys2Proof.Machine
end

section
/-! ### The clock servo, SPDM and TDISP (R48, R397, R398, R473, R476) -/
namespace Sys2Proof.Machine

variable {s : State}

/-! ### The servo -/

theorem ptpMessage_elsewhere {port : Nat} {sync : Bool} {off : Int} (h : port ≠ servoPort s) :
    Runs (.ptpMessage ⟨port, sync⟩ off) s s := if_pos (.inr h)

/-- A message at the selected port: what the servo makes of its offset (R48, R476). -/
theorem ptpMessage_heard {sync : Bool} {off : Int} (h6 : s.boot.stage = 6) :
    Reaches (.ptpMessage ⟨servoPort s, sync⟩ off) s fun s' =>
      (sync = true → s'.ptp.lastSync = s.clock) ∧ (sync = false → s'.ptp.lastSync = s.ptp.lastSync) ∧
      (1000 < off.natAbs → s'.ptp.locked = false) ∧ (off.natAbs ≤ 1000 → s'.ptp.locked = s.ptp.locked) ∧
      (100 ≤ off.natAbs → s'.ptp.goodSince = none) ∧
      (off.natAbs < 100 → s'.ptp.goodSince = some (s.ptp.goodSince.getD s.clock)) := by
  refine ⟨_, if_neg (not_or.mpr ⟨not_not.mpr h6, not_not.mpr rfl⟩), fun h => ?_, fun h => ?_, fun h => ?_, fun h => ?_,
    fun h => if_neg (not_lt.mpr h), fun h => if_pos h⟩
  · exact if_pos h
  · exact if_neg (h ▸ Bool.false_ne_true)
  · show (s.ptp.locked && decide (off.natAbs ≤ 1000)) = false
    rw [decide_eq_false (not_le.mpr h), Bool.and_false]
  · show (s.ptp.locked && decide (off.natAbs ≤ 1000)) = s.ptp.locked
    rw [decide_eq_true h, Bool.and_true]

/-- After 1 s below 100 ns the servo locks; a clock that has run before runs on. -/
theorem ptpLock_locks {c : Nat} (hg : s.ptp.goodSince = some c) (hl : s.ptp.locked = false) (hc : c + 1750000000 ≤ s.clock) :
    Reaches .ptpLock s fun s' => s'.ptp.locked = true ∧ s'.ptp.everLocked = true ∧
      (s.ptp.everLocked = true → s'.ptp.time = s.ptp.time) := by
  refine ⟨bumpFree { s with ptp := { s.ptp with
      locked := true, everLocked := true, time := if s.ptp.everLocked then s.ptp.time else Config.freeTime s.freeCount } },
    ?_, rfl, rfl, fun h => if_pos h⟩
  show execPtpLock s = _
  rw [execPtpLock, hg]
  exact if_pos ⟨hl, hc⟩

theorem ptpLock_waits {c : Nat} (hg : s.ptp.goodSince = some c) (h : s.ptp.locked = true ∨ s.clock < c + 1750000000) :
    Runs .ptpLock s s := by
  show execPtpLock s = _
  rw [execPtpLock, hg]
  refine if_neg fun ⟨hl, hc⟩ => ?_
  rcases h with h | h
  · rw [h] at hl; cases hl
  · exact absurd hc (not_le.mpr h)

theorem ptpLock_no_good (hg : s.ptp.goodSince = none) : Runs .ptpLock s s := by
  show execPtpLock s = _
  rw [execPtpLock, hg]

theorem ptpSyncTimeout_loses (hl : s.ptp.locked = true) (hc : s.ptp.lastSync + 7000000000 ≤ s.clock) :
    Reaches .ptpSyncTimeout s fun s' =>
      s'.ptp.locked = false ∧ s'.ptp.everLocked = s.ptp.everLocked ∧ s'.ptp.time = s.ptp.time :=
  ⟨_, if_pos ⟨hl, hc⟩, rfl, rfl, rfl⟩

theorem ptpSyncTimeout_waits (h : s.ptp.locked = false ∨ s.clock < s.ptp.lastSync + 7000000000) :
    Runs .ptpSyncTimeout s s := by
  refine if_neg fun ⟨hl, hc⟩ => ?_
  rcases h with h | h
  · rw [h] at hl; cases hl
  · exact absurd hc (not_le.mpr h)

/-! ### SPDM and TDISP at the interface of a virtual device -/

theorem fnExists_of_findVd {vd : Nat} {v : VDev} (hv : findVd s vd = some v) : fnExists s vd = true := by
  rw [fnExists, hv]
  exact Bool.or_true _

theorem spdmAnswer_exists {vd code : Nat} {x : List Byte} (h : fnExists s vd = true) :
    spdmAnswer s vd code x = emit s (.spdm vd code (Config.spdm code x)) := if_pos h

/-- The interface of the answering device stands as it stood. -/
theorem findVd_emit (s : State) (o : Out) (vd : Nat) : findVd (emit s o) vd = findVd s vd := rfl

/-- The Notary has accepted the handshake that a share began. -/
def handshakeOk (share : Option (List Byte)) (proof : List Byte) : Bool :=
  match share with
  | some x => Config.spdmAccepts x proof
  | none => false

section
variable {vd : Nat} {v : VDev} {x : List Byte} (hne : vd ≠ 32) (hv : findVd s vd = some v)
include hne hv

theorem spdmKeyExchange_begins : Reaches (.spdmKeyExchange vd x) s fun s' =>
    findVd s' vd = some { v with share := some x } ∧ s'.out = .spdm vd 6 (Config.spdm 6 x) :: s.out := by
  refine ⟨updVd (emit s (.spdm vd 6 (Config.spdm 6 x))) vd fun v => { v with share := some x }, ?_, ?_, rfl⟩
  · show execSpdmKeyExchange vd x s = _
    rw [execSpdmKeyExchange, spdmAnswer_exists (fnExists_of_findVd hv)]
    exact congrArg _ (if_neg hne)
  · exact findVd_updVd_of_find (fun _ => rfl) hv

theorem spdmFinish_ends : Reaches (.spdmFinish vd x) s fun s' =>
    findVd s' vd = some { v with session := v.session || handshakeOk v.share x, share := none } := by
  refine ⟨updVd (emit s (.spdm vd 7 (Config.spdm 7 x))) vd fun v =>
    { v with session := v.session || handshakeOk v.share x, share := none }, ?_, ?_⟩
  · show execSpdmFinish vd x s = _
    rw [execSpdmFinish, spdmAnswer_exists (fnExists_of_findVd hv)]
    exact congrArg _ (if_neg hne)
  · exact findVd_updVd_of_find (fun _ => rfl) hv

theorem tdispMessage_moves (m : TdispMsg) : Reaches (.tdispMessage vd m) s fun s' =>
    findVd s' vd = some { v with tdisp := tdispNext v.tdisp m } ∧ s'.out = .tdisp vd (tdispNext v.tdisp m) :: s.out := by
  refine ⟨emit (updVd s vd fun v => { v with tdisp := tdispNext v.tdisp m }) (.tdisp vd (tdispNext v.tdisp m)), ?_, ?_, rfl⟩
  · show execTdispMessage vd m s = _
    rw [execTdispMessage, if_neg hne, hv]
  · rw [findVd_emit]
    exact findVd_updVd_of_find (fun _ => rfl) hv

theorem spdmFinish_with_share {y : List Byte} (hy : v.share = some y) : Reaches (.spdmFinish vd x) s fun s' =>
    ∃ v', findVd s' vd = some v' ∧ v'.share = none ∧
      (v'.session = true ↔ v.session = true ∨ Config.spdmAccepts y x = true) := by
  obtain ⟨s', he, hf⟩ := spdmFinish_ends (x := x) hne hv
  exact ⟨s', he, _, hf, rfl, by rw [hy]; exact Bool.or_eq_true _ _ ▸ Iff.rfl⟩

theorem spdmFinish_without_share (hy : v.share = none) : Reaches (.spdmFinish vd x) s fun s' => findVd s' vd = some v := by
  obtain ⟨s', he, hf⟩ := spdmFinish_ends (x := x) hne hv
  have hsame : { v with session := v.session || handshakeOk v.share x, share := none } = v := by
    rw [hy, handshakeOk, Bool.or_false, ← hy]
  exact ⟨s', he, hf.trans (congrArg some hsame)⟩

end

/-- At an interface that exists the Notary answers (R397). -/
theorem spdm_answers {vd : Nat} (x : List Byte) (h : fnExists s vd = true) :
    Runs (.spdmVersion vd) s (emit s (.spdm vd 0 (Config.spdm 0 []))) ∧
    Runs (.spdmCapabilities vd) s (emit s (.spdm vd 1 (Config.spdm 1 []))) ∧
    Runs (.spdmAlgorithms vd) s (emit s (.spdm vd 2 (Config.spdm 2 []))) ∧
    Runs (.spdmCertificate vd) s (emit s (.spdm vd 3 (Config.spdm 3 []))) ∧
    Runs (.spdmChallenge vd x) s (emit s (.spdm vd 4 (Config.spdm 4 x))) ∧
    Reaches (.spdmMeasurements vd x) s fun s' => ∃ bs, s' = emit s (.spdm vd 5 (measurements s vd ++ bs)) :=
  have answer (code : Nat) (x : List Byte) := congrArg (Host.Outcome.next (φ := Fault) (ρ := Refusal))
    (spdmAnswer_exists (code := code) (x := x) h)
  ⟨answer 0 [], answer 1 [], answer 2 [], answer 3 [], answer 4 x, _, if_pos h, _, rfl⟩

/-! ### The physical function, number 32 -/

theorem physicalFunction_exists (s : State) : fnExists s 32 = true := rfl

theorem physicalFunction_keyExchange (s : State) (x : List Byte) :
    Reaches (.spdmKeyExchange 32 x) s fun s' => s'.pf.share = some x ∧ s'.vds = s.vds := by
  refine ⟨{ emit s (.spdm 32 6 (Config.spdm 6 x)) with pf := { s.pf with share := some x } }, ?_, rfl, rfl⟩
  show execSpdmKeyExchange 32 x s = _
  rw [execSpdmKeyExchange, spdmAnswer_exists (physicalFunction_exists s)]
  rfl

theorem physicalFunction_finish {y x : List Byte} (hy : s.pf.share = some y) : Reaches (.spdmFinish 32 x) s fun s' =>
    s'.pf.share = none ∧ s'.vds = s.vds ∧
      (s'.pf.session = true ↔ s.pf.session = true ∨ Config.spdmAccepts y x = true) := by
  refine ⟨{ emit s (.spdm 32 7 (Config.spdm 7 x)) with pf := { s.pf with
    session := s.pf.session || handshakeOk s.pf.share x, share := none } }, ?_, rfl, rfl, ?_⟩
  · show execSpdmFinish 32 x s = _
    rw [execSpdmFinish, spdmAnswer_exists (physicalFunction_exists s)]
    rfl
  · show (s.pf.session || handshakeOk s.pf.share x) = true ↔ _
    rw [hy, Bool.or_eq_true]
    rfl

/-! ### Measurements, and the states of an interface -/

/-- The fourth measurement is of the charter in force for the session's tenant, before its first context too (R397). -/
theorem measurements_of_charter {vd tenant : Nat} {ch : Charter} (hch : charterOf s tenant = some ch)
    (h : (∃ v, findVd s vd = some v ∧ v.tenant = some tenant) ∨
      ((∀ v, findVd s vd = some v → v.tenant = none) ∧ ∃ c, ctxOfVd s vd = some c ∧ c.charter = tenant)) :
    measurements s vd = Config.measurement 1 ++ Config.measurement 2 ++ Config.measurement 3 ++ Config.sha384 ch.bytes := by
  have htenant : ((findVd s vd).bind VDev.tenant).or ((ctxOfVd s vd).map Context.charter) = some tenant := by
    rcases h with ⟨v, hv, ht⟩ | ⟨hnone, c, hc, rfl⟩
    · rw [hv, Option.bind_some, ht, Option.some_or]
    · have hb : (findVd s vd).bind VDev.tenant = none := Option.bind_eq_none_iff.mpr hnone
      rw [hb, hc, Option.none_or, Option.map_some]
  rw [measurements, htenant, Option.bind_some, hch]

/-- An interface comes to RUN from the locked state alone, by START (R398). -/
theorem tdispNext_run {t : Tdisp} {m : TdispMsg} (h : tdispNext t m = .run) : t = .run ∨ (t = .locked ∧ m = .start) := by
  revert h
  cases m <;> cases t <;> decide

theorem servoSessionsAndInterfaces : Claims.ServoSessionsAndInterfaces := by
  refine ⟨fun _ _ _ _ => ⟨Nat.mod_lt _ (by decide), ptpMessage_elsewhere⟩, fun _ _ _ => ptpMessage_heard,
    fun _ => ⟨fun _ => ptpLock_locks, fun _ => ptpLock_waits, ptpLock_no_good, ptpSyncTimeout_loses, ptpSyncTimeout_waits⟩,
    fun s vd v x hne hv => ?_, fun s x => ⟨?_, physicalFunction_keyExchange s x, fun _ => physicalFunction_finish,
      fun m => ⟨_, rfl, rfl, rfl, rfl⟩⟩, fun _ _ _ _ => measurements_of_charter, fun _ _ => tdispNext_run⟩
  · obtain ⟨h0, h1, h2, h3, h4, h5⟩ := spdm_answers x (fnExists_of_findVd hv)
    exact ⟨h0, h1, h2, h3, h4, h5, spdmKeyExchange_begins hne hv, fun _ => spdmFinish_with_share hne hv,
      spdmFinish_without_share hne hv, tdispMessage_moves hne hv⟩
  · obtain ⟨_, _, _, _, h4, _⟩ := spdm_answers x (physicalFunction_exists s)
    exact h4

/-- Settles O57: resets and boot stage by stage; the servo, the Notary's answers and the interfaces message by message. -/
theorem resetBootAndFirmware : Obligations.ResetBootAndFirmware := ⟨resetAndBoot, servoSessionsAndInterfaces⟩

end Sys2Proof.Machine
end

section
/-! ### Exact sums and products, and one rounding (R53 to R58, R133, R134) -/
namespace Sys2Proof.Machine

/-! ### Sums and products of finite values -/

/-- A signed magnitude as a rational number. -/
theorem num_fin (neg : Bool) (m : Nat) (e : Int) :
    (XVal.fin neg m e).num = ((if neg then -(m : Int) else m : Int) : ℚ) * (2 : ℚ) ^ e := by
  cases neg <;> simp [XVal.num]

theorem pow2_cast {k : Int} (hk : 0 ≤ k) : ((pow2 k : Nat) : ℚ) = (2 : ℚ) ^ k := by
  rw [pow2, Nat.cast_pow, Nat.cast_ofNat, ← zpow_natCast, Int.toNat_of_nonneg hk]

/-- A value brought to an exponent not above its own is the same number. -/
theorem scaled_num {neg : Bool} {m : Nat} {e lo : Int} (h : lo ≤ e) :
    (scaled neg m e lo : ℚ) * (2 : ℚ) ^ lo = (XVal.fin neg m e).num := by
  have hpow : (2 : ℚ) ^ (e - lo) * (2 : ℚ) ^ lo = (2 : ℚ) ^ e := by
    rw [← zpow_add₀ two_ne_zero, sub_add_cancel]
  cases neg <;> simp [scaled, XVal.num, pow2_cast (sub_nonneg.mpr h), mul_assoc, hpow]

theorem ofScaled_finite (x e : Int) (z : Bool) : (ofScaled x e z).finite = true := by
  rw [ofScaled]
  split <;> rfl

theorem ofScaled_num (x e : Int) (z : Bool) : (ofScaled x e z).num = (x : ℚ) * (2 : ℚ) ^ e := by
  rw [ofScaled]
  split
  next hx => simp [XVal.num, hx]
  next hx =>
    rw [num_fin]
    congr 2
    by_cases hneg : x < 0
    · simp only [decide_eq_true hneg, if_true]; omega
    · simp only [decide_eq_false hneg, Bool.false_eq_true, if_false]; omega

section
variable {a b : Bool} {m n : Nat} {e k : Int} {rm : Rnd}

theorem addX_fin_finite : (addX (.fin a m e) (.fin b n k) rm).finite = true := by
  rw [addX]
  split
  · rfl
  · exact ofScaled_finite _ _ _

theorem addX_fin_num : (addX (.fin a m e) (.fin b n k) rm).num = (XVal.fin a m e).num + (XVal.fin b n k).num := by
  rw [addX]
  split
  next hz => simp [XVal.num, hz.1, hz.2]
  next =>
    rw [ofScaled_num, Int.cast_add, add_mul, scaled_num (min_le_left e k), scaled_num (min_le_right e k)]

theorem mulX_fin_num : (mulX (.fin a m e) (.fin b n k)).num = (XVal.fin a m e).num * (XVal.fin b n k).num := by
  have hpow : (2 : ℚ) ^ (e + k) = (2 : ℚ) ^ e * (2 : ℚ) ^ k := zpow_add₀ two_ne_zero e k
  cases a <;> cases b <;> simp [mulX, XVal.num, hpow] <;> ring

end

/-- A value less itself is zero, negative only where rounding goes down (R134). -/
theorem addX_cancel_sign (m : Nat) (e : Int) (rm : Rnd) :
    negOf (addX (.fin false m e) (.fin true m e) rm) = decide (rm = .rd) := by
  rw [addX]
  split
  · rfl
  · have hsum : scaled false m e (min e e) + scaled true m e (min e e) = 0 := add_neg_cancel _
    show negOf (ofScaled (_ + _) _ _) = _
    rw [hsum]
    rfl

theorem eq_fin_of_finite {x : XVal} (h : x.finite = true) : ∃ neg m e, x = .fin neg m e := by
  cases x with
  | nan => cases h
  | inf neg => cases h
  | fin neg m e => exact ⟨neg, m, e, rfl⟩

theorem sumsAndProductsAreExact : Claims.SumsAndProductsAreExact := by
  refine ⟨fun x y rm hx hy => ?_, addX_cancel_sign, fun a b _ _ _ _ _ => by cases a <;> cases b <;> rfl,
    fun _ _ _ => rfl, fun _ _ _ => ⟨rfl, rfl⟩⟩
  obtain ⟨a, m, e, rfl⟩ := eq_fin_of_finite hx
  obtain ⟨b, n, k, rfl⟩ := eq_fin_of_finite hy
  exact ⟨addX_fin_finite, addX_fin_num, rfl, mulX_fin_num⟩

/-! ### A pattern of a format rounds to itself (R53, R58) -/

theorem roundMag_one (mode : MagMode) (n : Nat) : roundMag mode n 1 = n := by
  cases mode <;> simp [roundMag, ceilDiv, Nat.mod_one]

theorem log2Q_one {n : Nat} (hn : n ≠ 0) : log2Q n 1 = Nat.log2 n := by
  have hle : 2 ^ Nat.log2 n ≤ n := Nat.log2_self_le hn
  have h1 : Nat.log2 1 = 0 := by decide
  simp [log2Q, pow2, h1, hle]

/-- Where a value's exponent is the spacing of its format there is nothing to round away. -/
theorem codeOf_exact {k : Fmt} {mode : MagMode} {n : Nat} {e : Int} (hn : n ≠ 0) (hq : quantum k n 1 e = e) :
    codeOf k mode n 1 e = n + (e - minQ k).toNat * 2 ^ k.frac := by
  have hp : pow2 0 = 1 := rfl
  simp only [codeOf, if_neg hn, hq, sub_self, hp, Nat.mul_one, roundMag_one]

theorem quantum_subnormal {k : Fmt} {n : Nat} (hn : n ≠ 0) (hlt : n < 2 ^ k.frac) : quantum k n 1 (minQ k) = minQ k := by
  have hlog : Nat.log2 n < k.frac := (Nat.log2_lt hn).mpr hlt
  rw [quantum, log2Q_one hn]
  omega

theorem quantum_normal {k : Fmt} {m : Nat} {e : Int} (hm : m < 2 ^ k.frac) (he : minQ k ≤ e) :
    quantum k (2 ^ k.frac + m) 1 e = e := by
  have hn : 2 ^ k.frac + m ≠ 0 := by positivity
  have hlog : Nat.log2 (2 ^ k.frac + m) = k.frac := by
    rw [Nat.log2_eq_iff hn, pow_succ]
    omega
  rw [quantum, log2Q_one hn, hlog]
  omega

/-- What the six formats share: a sign bit, an exponent field and a fraction field, with a code left for NaN. -/
structure Fmt.Fields (k : Fmt) : Prop where
  bits : k.bits = 1 + (k.exp + k.frac)
  exp : 2 ≤ k.exp
  frac : 1 ≤ k.frac

theorem fields_of_mem {k : Fmt} (h : k ∈ [fp64, fp32, fp16, bf16, e4m3, e5m2]) : k.Fields := by
  simp only [List.mem_cons, List.not_mem_nil, or_false] at h
  rcases h with rfl | rfl | rfl | rfl | rfl | rfl <;> exact ⟨by decide, by decide, by decide⟩

section
variable {k : Fmt} {a : Nat}

/-- The sign of a pattern. -/
def signBit (k : Fmt) (a : Nat) : Bool := decide (a / 2 ^ (k.bits - 1) % 2 = 1)

/-- The exponent field of a pattern. -/
def expField (k : Fmt) (a : Nat) : Nat := a / 2 ^ k.frac % 2 ^ k.exp

/-- The fraction field of a pattern. -/
def fracField (k : Fmt) (a : Nat) : Nat := a % 2 ^ k.frac

theorem fracField_lt : fracField k a < 2 ^ k.frac := Nat.mod_lt _ (by positivity)

theorem expField_lt : expField k a < 2 ^ k.exp := Nat.mod_lt _ (by positivity)

/-- A pattern is its three fields. -/
theorem signed_fields (hk : k.Fields) (ha : a < 2 ^ k.bits) :
    signed k (signBit k a) (expField k a * 2 ^ k.frac + fracField k a) = a := by
  have hb : k.bits - 1 = k.frac + k.exp := by rw [hk.bits]; omega
  have hlow : a % 2 ^ (k.frac + k.exp) = fracField k a + 2 ^ k.frac * expField k a := by
    rw [pow_add, Nat.mod_mul]
    rfl
  have htop : a / 2 ^ (k.frac + k.exp) < 2 := by
    rw [Nat.div_lt_iff_lt_mul (by positivity), ← pow_succ']
    have : k.frac + k.exp + 1 = k.bits := by rw [hk.bits]; omega
    rwa [this]
  have hsplit := Nat.div_add_mod a (2 ^ (k.frac + k.exp))
  have hsign : (if signBit k a then 2 ^ (k.frac + k.exp) else 0) = 2 ^ (k.frac + k.exp) * (a / 2 ^ (k.frac + k.exp)) := by
    rw [signBit, hb]
    generalize a / 2 ^ (k.frac + k.exp) = q at htop
    interval_cases q <;> simp
  rw [hlow] at hsplit
  rw [signed, hb, hsign, mul_comm (expField k a)]
  omega

theorem decodeFp_eq (k : Fmt) (a : Nat) : decodeFp k a =
    if expField k a = 2 ^ k.exp - 1 ∧ k.inf = true then
      (if fracField k a = 0 then .inf (signBit k a) else .nan)
    else if expField k a = 2 ^ k.exp - 1 ∧ fracField k a = 2 ^ k.frac - 1 then .nan
    else if expField k a = 0 then .fin (signBit k a) (fracField k a) (minQ k)
    else .fin (signBit k a) (2 ^ k.frac + fracField k a) (minQ k + expField k a - 1) := rfl

/-- The values of the patterns (R53): NaN, infinities, subnormal and normal numbers. -/
theorem decodeFp_cases (k : Fmt) (a : Nat) :
    decodeFp k a = .nan ∨
    (k.inf = true ∧ expField k a * 2 ^ k.frac + fracField k a = infCode k ∧ decodeFp k a = .inf (signBit k a)) ∨
    (expField k a = 0 ∧ decodeFp k a = .fin (signBit k a) (fracField k a) (minQ k)) ∨
    (expField k a ≠ 0 ∧ ¬ (expField k a = 2 ^ k.exp - 1 ∧ (k.inf = true ∨ fracField k a = 2 ^ k.frac - 1)) ∧
      decodeFp k a = .fin (signBit k a) (2 ^ k.frac + fracField k a) (minQ k + expField k a - 1)) := by
  rw [decodeFp_eq]
  split
  next h =>
    split
    next hm => exact .inr (.inl ⟨h.2, by rw [hm, h.1, infCode, Nat.add_zero], rfl⟩)
    next => exact .inl rfl
  next h =>
    split
    next => exact .inl rfl
    next hnan =>
      split
      next h0 => exact .inr (.inr (.inl ⟨h0, rfl⟩))
      next h0 =>
        refine .inr (.inr (.inr ⟨h0, ?_, rfl⟩))
        rintro ⟨he, hi | hf⟩
        · exact h ⟨he, hi⟩
        · exact hnan ⟨he, hf⟩

theorem infCode_add (k : Fmt) : infCode k + 2 ^ k.frac = 2 ^ (k.exp + k.frac) := by
  rw [infCode, ← Nat.succ_mul, Nat.succ_eq_add_one, Nat.sub_add_cancel Nat.one_le_two_pow, pow_add]

theorem two_le_fracs (hk : k.Fields) : 2 ≤ 2 ^ k.frac := Nat.le_self_pow (Nat.one_le_iff_ne_zero.mp hk.frac) 2

/-- The code of a normal number is below those of NaN and the infinities. -/
theorem normal_code_le_maxCode (hk : k.Fields)
    (h : ¬ (expField k a = 2 ^ k.exp - 1 ∧ (k.inf = true ∨ fracField k a = 2 ^ k.frac - 1))) :
    expField k a * 2 ^ k.frac + fracField k a ≤ maxCode k := by
  have hE : expField k a < 2 ^ k.exp := expField_lt
  have hM : fracField k a < 2 ^ k.frac := fracField_lt
  by_cases htop : expField k a = 2 ^ k.exp - 1
  · have hinf : k.inf = false := by simpa using fun hi => h ⟨htop, .inl hi⟩
    have hfrac : fracField k a ≠ 2 ^ k.frac - 1 := fun hf => h ⟨htop, .inr hf⟩
    have hpow := infCode_add k
    rw [maxCode, hinf, htop, ← infCode]
    simp only [Bool.false_eq_true, if_false]
    omega
  · have hlow : (expField k a + 1) * 2 ^ k.frac ≤ infCode k := Nat.mul_le_mul_right _ (by omega)
    have hinf := infCode_add k
    have hfrac := two_le_fracs hk
    rw [Nat.succ_mul] at hlow
    rw [maxCode]
    split <;> omega

theorem subnormal_code_le_maxCode (hk : k.Fields) : fracField k a ≤ maxCode k := by
  have hM : fracField k a < 2 ^ k.frac := fracField_lt
  have hexp : 2 ^ 2 ≤ 2 ^ k.exp := Nat.pow_le_pow_right (by decide) hk.exp
  have hfrac := two_le_fracs hk
  have hinf : 3 * 2 ^ k.frac ≤ infCode k := Nat.mul_le_mul_right _ (by omega)
  have hall := infCode_add k
  rw [maxCode]
  split <;> omega

theorem roundQ_of_code {neg : Bool} {n : Nat} {e : Int} {rm : Rnd} {c : Nat} (hc : codeOf k (magMode rm neg) n 1 e = c)
    (hle : c ≤ maxCode k) : roundQ k neg n 1 e rm false = signed k neg c := by
  simp only [roundQ, hc, if_neg (not_lt.mpr hle)]

/-- Rounding is the identity on the format. -/
theorem roundFp_decodeFp (hk : k.Fields) (ha : a < 2 ^ k.bits) (rm : Rnd) :
    roundFp k (decodeFp k a) rm false = if decodeFp k a = .nan then canonNan k else a := by
  have hfields := signed_fields hk ha
  rcases decodeFp_cases k a with h | ⟨hinf, hcode, h⟩ | ⟨h0, h⟩ | ⟨h0, hfin, h⟩
  · rw [h, if_pos rfl]
    rfl
  · rw [h, if_neg (by simp)]
    rw [hcode] at hfields
    simpa [roundFp, infResult, hinf] using hfields
  · rw [h, if_neg (by simp)]
    have hcode : codeOf k (magMode rm (signBit k a)) (fracField k a) 1 (minQ k) = fracField k a := by
      by_cases hz : fracField k a = 0
      · rw [hz, codeOf, if_pos rfl]
      · rw [codeOf_exact hz (quantum_subnormal hz fracField_lt), sub_self, Int.toNat_zero, Nat.zero_mul, Nat.add_zero]
    rw [h0, Nat.zero_mul, Nat.zero_add] at hfields
    exact (roundQ_of_code hcode (subnormal_code_le_maxCode hk)).trans hfields
  · rw [h, if_neg (by simp)]
    have hcode : codeOf k (magMode rm (signBit k a)) (2 ^ k.frac + fracField k a) 1 (minQ k + expField k a - 1) =
        expField k a * 2 ^ k.frac + fracField k a := by
      have hexp : (minQ k + expField k a - 1 - minQ k).toNat = expField k a - 1 := by omega
      rw [codeOf_exact (by positivity) (quantum_normal fracField_lt (by omega)), hexp]
      obtain ⟨j, hj⟩ := Nat.exists_eq_succ_of_ne_zero h0
      rw [hj, Nat.succ_sub_one, Nat.succ_mul]
      omega
    exact (roundQ_of_code hcode (normal_code_le_maxCode hk hfin)).trans hfields

end

theorem representableValuesRoundToThemselves : Claims.RepresentableValuesRoundToThemselves :=
  fun _ _ rm hk ha => roundFp_decodeFp (fields_of_mem hk) ha rm

/-! ### The instructions (R133) -/

/-- A register form of the vector role is the plain change of each thread's registers in a gang that has the role. -/
theorem eachActive_of_vectorOp {i : Instr} {len : Nat} {sw : Bool} {s : State} {f g : Thread → Thread} (hv : AllVector s)
    (he : exec i s = vectorOp i sw f s) (hl : lengthOf i = len) (hf : ∀ t, f t = g t) : EachActive i len sw s g := by
  have hall : (actives s).all (fun t => onlyVector t.role) = true :=
    List.all_eq_true.mpr fun t ht => decide_eq_true (hv t ht)
  rw [EachActive, he, vectorOp, if_pos hall, hl, funext hf]

section
variable {mk : Width → BitVec 6 → BitVec 6 → BitVec 6 → Marks → Instr} (hl : ∀ w b a d m, lengthOf (mk w b a d m) = 2)
include hl

/-- A form of two sources acts on their patterns at the format of the width. -/
theorem floatForm_of_bin {f : Pat2} (he : ∀ w b a d m s, exec (mk w b a d m) s =
    vectorOp (mk w b a d m) m.sw (bin (onPat f) w a b d) s) : FloatForm mk fun k a b _ => f k a b :=
  fun _ _ _ _ _ hv => ⟨eachActive_of_vectorOp hv (he ..) (hl ..) fun _ => rfl,
    eachActive_of_vectorOp hv (he ..) (hl ..) fun _ => rfl⟩

/-- The same of a form that reads the old destination. -/
theorem floatForm_of_ter {f : Fmt → Nat → Nat → Nat → Nat} (he : ∀ w b a d m s, exec (mk w b a d m) s =
    vectorOp (mk w b a d m) m.sw (ter (onPat3 f) w a b d) s) : FloatForm mk f :=
  fun _ _ _ _ _ hv => ⟨eachActive_of_vectorOp hv (he ..) (hl ..) fun _ => rfl,
    eachActive_of_vectorOp hv (he ..) (hl ..) fun _ => rfl⟩

end

/-- Each form by its own pattern function, the compact ones over the second register of R75. -/
theorem floatFormsRoundOnce : Claims.FloatFormsRoundOnce := by
  refine ⟨fun r => ⟨floatForm_of_bin (f := faddPat r) ?_ ?_, floatForm_of_bin (f := fsubPat r) ?_ ?_,
    floatForm_of_bin (f := fmulPat r) ?_ ?_, floatForm_of_ter (f := ffmaPat false r) ?_ ?_,
    floatForm_of_ter (f := ffmaPat true r) ?_ ?_⟩, fun d b s hv => ?compact⟩
  case compact =>
    rw [← compactSrc_eq d b]
    exact ⟨eachActive_of_vectorOp hv rfl rfl fun _ => rfl, eachActive_of_vectorOp hv rfl rfl fun _ => rfl⟩
  all_goals intros; rfl

/-- Settles O14: the forms by their pattern functions, sums and products over the rationals, and rounding field by field. -/
theorem floatArithmeticRoundsOnce : Obligations.FloatArithmeticRoundsOnce :=
  ⟨floatFormsRoundOnce, sumsAndProductsAreExact, representableValuesRoundToThemselves⟩

end Sys2Proof.Machine
end

section
/-! ### Packed forms and direct conversions (R145 to R148) -/
namespace Sys2Proof.Machine

/-! ### A rounded value is a pattern of its format -/

section
variable {k : Fmt} (hk : k.Fields)
include hk

theorem signed_lt {neg : Bool} {c : Nat} (hc : c < 2 ^ (k.exp + k.frac)) : signed k neg c < 2 ^ k.bits := by
  have hb : k.bits - 1 = k.exp + k.frac := by rw [hk.bits, Nat.add_sub_cancel_left]
  rw [signed, hb, hk.bits, pow_add 2 1]
  split <;> omega

theorem infCode_lt : infCode k < 2 ^ (k.exp + k.frac) := by
  have hinf := infCode_add k
  have hfrac := two_le_fracs hk
  omega

theorem maxCode_lt : maxCode k < 2 ^ (k.exp + k.frac) := by
  have hinf := infCode_add k
  have hfrac := two_le_fracs hk
  rw [maxCode]
  split <;> omega

theorem canonNan_lt : canonNan k < 2 ^ k.bits := by
  have hinf := infCode_add k
  have hhalf : 2 * 2 ^ (k.frac - 1) = 2 ^ k.frac := by rw [← pow_succ', Nat.sub_add_cancel hk.frac]
  have hpos : 0 < 2 ^ (k.frac - 1) := by positivity
  rw [canonNan, hk.bits, pow_add 2 1]
  split <;> omega

theorem infResult_lt (neg : Bool) : infResult k neg false < 2 ^ k.bits := by
  simp only [infResult, Bool.false_eq_true, if_false]
  split
  · exact signed_lt hk (infCode_lt hk)
  · exact canonNan_lt hk

theorem roundQ_lt (neg : Bool) (n d : Nat) (e : Int) (rm : Rnd) : roundQ k neg n d e rm false < 2 ^ k.bits := by
  simp only [roundQ, Bool.false_eq_true, if_false]
  split
  · split
    · exact signed_lt hk (maxCode_lt hk)
    · exact infResult_lt hk neg
  next hc => exact signed_lt hk ((not_lt.mp hc).trans_lt (maxCode_lt hk))

theorem roundFp_lt (x : XVal) (rm : Rnd) : roundFp k x rm false < 2 ^ k.bits := by
  cases x with
  | nan => exact canonNan_lt hk
  | inf neg => exact infResult_lt hk neg
  | fin neg m e => exact roundQ_lt hk neg m 1 e rm

end

/-! ### Elements of a packed pattern -/

theorem halfFmt_fields (bf : Bool) : (halfFmt bf).Fields := by cases bf <;> exact ⟨by decide, by decide, by decide⟩

theorem halfFmt_bits (bf : Bool) : (halfFmt bf).bits = 16 := by cases bf <;> rfl

theorem half_roundFp_lt (bf : Bool) (x : XVal) : roundFp (halfFmt bf) x .rn false < 2 ^ 16 :=
  halfFmt_bits bf ▸ roundFp_lt (halfFmt_fields bf) x .rn

theorem half_lt (x e : Nat) : half x e < 2 ^ 16 := Nat.mod_lt _ (by decide)

theorem half_toNat {n : Nat} (x : BitVec n) (e : Nat) : half x.toNat e = (x.extractLsb' (16 * e) 16).toNat := by
  rw [BitVec.extractLsb'_toNat, Nat.shiftRight_eq_div_pow, half]

section
variable {f : Nat → Nat} (hf : ∀ e, f e < 2 ^ 16)
include hf

theorem extract_ofHalves_two {e : Nat} (he : e < 2) : (ofHalves 32 f).extractLsb' (16 * e) 16 = BitVec.ofNat 16 (f e) := by
  have h0 := hf 0
  have h1 := hf 1
  have hsum : (ofHalves 32 f).toNat = f 0 + 2 ^ 16 * f 1 := by
    simp [ofHalves, List.range_succ, sumNat]
    omega
  refine BitVec.eq_of_toNat_eq ?_
  rw [← half_toNat, half, hsum, BitVec.toNat_ofNat]
  interval_cases e <;> omega

theorem extract_ofHalves_four {e : Nat} (he : e < 4) : (ofHalves 64 f).extractLsb' (16 * e) 16 = BitVec.ofNat 16 (f e) := by
  have h0 := hf 0
  have h1 := hf 1
  have h2 := hf 2
  have h3 := hf 3
  have hsum : (ofHalves 64 f).toNat = f 0 + 2 ^ 16 * f 1 + 2 ^ 32 * f 2 + 2 ^ 48 * f 3 := by
    simp [ofHalves, List.range_succ, sumNat]
    omega
  refine BitVec.eq_of_toNat_eq ?_
  rw [← half_toNat, half, hsum, BitVec.toNat_ofNat]
  interval_cases e <;> omega

end

/-! ### Packed 16-bit arithmetic (R145, R146) -/

/-- Each element of three packed patterns by itself. -/
def onHalves3 (f : Nat → Nat → Nat → Nat) (n : Nat) (a b d : BitVec n) : BitVec n :=
  ofHalves n fun e => f (half a.toNat e) (half b.toNat e) (half d.toNat e)

/-- A vector form that acts on each element by `f`, where `f` gives the elements of `g`. -/
theorem packedForm_of_halves {mk : Bool → Width → BitVec 6 → BitVec 6 → BitVec 6 → Marks → Instr}
    {f g : Fmt → Nat → Nat → Nat → Nat} (hl : ∀ bf w b a d m, lengthOf (mk bf w b a d m) = 2)
    (h1 : ∀ bf b a d m s, exec (mk bf .x1 b a d m) s = vectorOp (mk bf .x1 b a d m) m.sw
      (fun t => setV t d (onHalves3 (f (halfFmt bf)) 32 (getV t a) (getV t b) (getV t d))) s)
    (h2 : ∀ bf b a d m s, exec (mk bf .x2 b a d m) s = vectorOp (mk bf .x2 b a d m) m.sw
      (fun t => setV2 t d (onHalves3 (f (halfFmt bf)) 64 (getV2 t a) (getV2 t b) (getV2 t d))) s)
    (hlt : ∀ bf x y z, x < 2 ^ 16 → y < 2 ^ 16 → f (halfFmt bf) x y z < 2 ^ 16)
    (hfg : ∀ bf x y z, x < 2 ^ 16 → f (halfFmt bf) x y z = g (halfFmt bf) x y z) : PackedForm mk g := by
  intro bf a b d m s hv
  refine ⟨_, _, eachActive_of_vectorOp hv (h1 ..) (hl ..) fun _ => rfl,
    eachActive_of_vectorOp hv (h2 ..) (hl ..) fun _ => rfl, fun t e he => ?_, fun t e he => ?_⟩
  · rw [onHalves3, extract_ofHalves_two (fun _ => hlt _ _ _ _ (half_lt _ _) (half_lt _ _)) he, hfg _ _ _ _ (half_lt _ _)]
    simp only [half_toNat]
    rfl
  · rw [onHalves3, extract_ofHalves_four (fun _ => hlt _ _ _ _ (half_lt _ _) (half_lt _ _)) he, hfg _ _ _ _ (half_lt _ _)]
    simp only [half_toNat]
    rfl

theorem isNan_iff {x : XVal} : isNan x = true ↔ x = .nan := by cases x <;> simp [isNan]

theorem fminmaxPat_eq (wantMax : Bool) (k : Fmt) (a b : Nat) : fminmaxPat wantMax false k a b =
    if decodeFp k a = .nan then (if decodeFp k b = .nan then canonNan k else b)
    else if decodeFp k b = .nan then a
    else if wantMax then (if ltSigned (decodeFp k a) (decodeFp k b) then b else a)
    else (if ltSigned (decodeFp k b) (decodeFp k a) then b else a) := by
  simp only [fminmaxPat, Bool.and_eq_true, isNan_iff]
  split_ifs <;> simp_all

theorem half_fminmax_lt (wantMax bf : Bool) {x y : Nat} (hx : x < 2 ^ 16) (hy : y < 2 ^ 16) :
    fminmaxPat wantMax false (halfFmt bf) x y < 2 ^ 16 := by
  have hnan : canonNan (halfFmt bf) < 2 ^ 16 := halfFmt_bits bf ▸ canonNan_lt (halfFmt_fields bf)
  simp only [fminmaxPat]
  split_ifs <;> assumption

theorem hcmpPat_eq (k : Fmt) (a b : Nat) : hcmpPat k a b =
    if decodeFp k a = .nan ∨ decodeFp k b = .nan then 8
    else if ltX (decodeFp k a) (decodeFp k b) then 1
    else if ltX (decodeFp k b) (decodeFp k a) then 4 else 2 := by
  simp only [hcmpPat, relX, Bool.or_eq_true, isNan_iff]
  split_ifs <;> rfl

theorem hcmpPat_lt (k : Fmt) (a b : Nat) : hcmpPat k a b < 2 ^ 16 := by
  rw [hcmpPat]
  split <;> decide

theorem half_fabsPat (bf : Bool) (x : Nat) : fabsPat (halfFmt bf) x = x % 2 ^ 15 := by rw [fabsPat, halfFmt_bits]

theorem half_fabsPat_lt (bf : Bool) (x : Nat) : fabsPat (halfFmt bf) x < 2 ^ 16 := by
  rw [half_fabsPat]
  omega

theorem half_fnegPat (bf : Bool) {x : Nat} (hx : x < 2 ^ 16) : fnegPat (halfFmt bf) x = (x + 2 ^ 15) % 2 ^ 16 := by
  rw [fnegPat, signed, halfFmt_bits]
  simp only [decide_eq_true_eq]
  split <;> omega

theorem half_fnegPat_lt (bf : Bool) {x : Nat} (hx : x < 2 ^ 16) : fnegPat (halfFmt bf) x < 2 ^ 16 := by
  rw [half_fnegPat bf hx]
  omega

/-- Each form by its function on the elements, which gives elements again. -/
theorem packedFormsActElementByElement : Claims.PackedFormsActElementByElement := by
  have rounds {bf : Bool} {x : XVal} : roundFp (halfFmt bf) x .rn false < 2 ^ 16 := half_roundFp_lt bf x
  refine ⟨packedForm_of_halves (f := fun k a b _ => faddPat .rn k a b) ?_ ?_ ?_ (fun _ _ _ _ _ _ => rounds) ?_,
    packedForm_of_halves (f := fun k a b _ => fsubPat .rn k a b) ?_ ?_ ?_ (fun _ _ _ _ _ _ => rounds) ?_,
    packedForm_of_halves (f := fun k a b _ => fmulPat .rn k a b) ?_ ?_ ?_ (fun _ _ _ _ _ _ => rounds) ?_,
    packedForm_of_halves (f := ffmaPat false .rn) ?_ ?_ ?_ (fun _ _ _ _ _ _ => rounds) ?_,
    packedForm_of_halves (f := fun k a b _ => fminmaxPat false false k a b) ?_ ?_ ?_
      (fun bf _ _ _ hx hy => half_fminmax_lt false bf hx hy) fun _ _ _ _ _ => fminmaxPat_eq false _ _ _,
    packedForm_of_halves (f := fun k a b _ => fminmaxPat true false k a b) ?_ ?_ ?_
      (fun bf _ _ _ hx hy => half_fminmax_lt true bf hx hy) fun _ _ _ _ _ => fminmaxPat_eq true _ _ _,
    packedForm_of_halves (f := fun k a b _ => hcmpPat k a b) ?_ ?_ ?_
      (fun _ _ _ _ _ _ => hcmpPat_lt _ _ _) fun _ _ _ _ _ => hcmpPat_eq _ _ _,
    packedForm_of_halves (f := fun k a _ _ => fabsPat k a) ?_ ?_ ?_
      (fun bf x _ _ _ _ => half_fabsPat_lt bf x) fun bf x _ _ _ => half_fabsPat bf x,
    packedForm_of_halves (f := fun k a _ _ => fnegPat k a) ?_ ?_ ?_
      (fun bf _ _ _ hx _ => half_fnegPat_lt bf hx) fun bf _ _ _ hx => half_fnegPat bf hx⟩
  all_goals intros; rfl

/-! ### Direct conversions (R147, R148) -/

theorem intLo_word : intLo 32 = -2 ^ 31 := by decide
theorem intHi_word : intHi 32 = 2 ^ 31 - 1 := by decide
theorem intLo_double : intLo 64 = -2 ^ 63 := by decide
theorem intHi_double : intHi 64 = 2 ^ 63 - 1 := by decide

theorem directConversions : Claims.DirectConversions := by
  intro r w a d m s hv
  have each (k : BitVec 4) {g : Thread → Thread} (h : ∀ t, cvtThread ⟨r, w, k, a, d, m⟩ t = g t) :
      EachActive (.cvtDirect ⟨r, w, k, a, d, m⟩) 2 m.sw s g := eachActive_of_vectorOp hv rfl rfl h
  refine ⟨each 0 fun _ => rfl, each 1 fun _ => rfl, each 2 fun _ => ?_, each 3 fun _ => rfl, each 4 fun _ => rfl,
    each 5 fun _ => rfl, each 6 fun _ => ?_, each 7 fun _ => rfl, each 8 fun _ => rfl, each 9 fun _ => rfl,
    each 10 fun _ => ?_, each 11 fun _ => rfl, each 12 fun _ => ?_, each 13 fun _ => rfl, fun _ _ => ⟨rfl, rfl, rfl⟩⟩
  · rw [← intLo_word, ← intHi_word]; rfl
  · rw [← intLo_double, ← intHi_double]; rfl
  · rw [← intLo_word, ← intHi_word]; rfl
  · rw [← intLo_double, ← intHi_double]; rfl

end Sys2Proof.Machine
end

section
/-! ### Slot and block conversions (R149 to R153) -/
namespace Sys2Proof.Machine

variable {s : State} {t : Thread} {sl : SlotWord}

theorem gangFormat_of_alone {f : BitVec 3} (ha : Alone s t) : gangFormat s f = formatSlot s t f := by
  rw [gangFormat, ha.1]

/-! ### One thread (R149, R150) -/

section
variable {i : Instr} {sw : Bool} {body : State → Thread → State × Thread × Fate}

theorem goesOn_of_alone {s1 : State} {t1 : Thread} (ha : Alone s t) (he : exec i s = perThread i sw body s)
    (hb : body s t = (s1, t1, .next)) (hk : KeepsGang s s1 t t1) : GoesOn i sw s s1 t1 :=
  he.trans (one_goes_on ha.1 hb hk)

theorem takesTrap_of_alone {c : Nat} (hc : c ≠ 2) (ha : Alone s t) (he : exec i s = perThread i sw body s)
    (hb : body s t = (s, t, .plain c)) : TakesTrap i s t c 0 0 :=
  he.trans (one_traps (fun h => absurd h hc) ha.1 ha.2 hb)

end

/-- A write of one register keeps the gang, whether or not a replaced NaN is counted. -/
theorem keepsGang_setV {d : BitVec 6} {x : Word} : KeepsGang s s t (setV t d x) := ⟨rfl, rfl, rfl, rfl, rfl, rfl⟩

theorem keepsGang_countNan {launch n : Nat} {d : BitVec 6} {x : Word} : KeepsGang s (countNan s launch n) t (setV t d x) :=
  ⟨rfl, rfl, rfl, rfl, rfl, rfl⟩

/-- What a conversion does with the value it reads: NaNs by the mode NANM of the slot (R150). -/
def convertValue (nanm : Nat) (v : XVal) (put : XVal → Thread) (s : State) (t : Thread) : State × Thread × Fate :=
  if isNan v && decide (nanm = 2) then (s, t, .plain 4)
  else if isNan v && decide (nanm = 1) then (countNan s t.launch 1, put posZero, .next)
  else (s, put v, .next)

section
variable {i : Instr} {sw : Bool} {body : State → Thread → State × Thread × Fate} {nanm : Nat} {v : XVal} {put : XVal → Word}
  {d : BitVec 6} (ha : Alone s t) (he : exec i s = perThread i sw body s)
  (hb : body s t = convertValue nanm v (fun v => setV t d (put v)) s t)
include ha he hb

theorem converts_value (h : v ≠ .nan ∨ nanm = 0) : GoesOn i sw s s (setV t d (put v)) := by
  refine goesOn_of_alone ha he (hb.trans ?_) keepsGang_setV
  rcases h with h | h
  · have hn : isNan v = false := Bool.eq_false_iff.mpr (mt isNan_iff.mp h)
    simp [convertValue, hn]
  · simp [convertValue, h]

theorem converts_nan_to_zero (h : v = .nan) (hm : nanm = 1) :
    GoesOn i sw s (countNan s t.launch 1) (setV t d (put posZero)) :=
  goesOn_of_alone ha he (hb.trans (by simp [convertValue, h, hm, isNan])) keepsGang_countNan

theorem converts_nan_to_trap (h : v = .nan) (hm : nanm = 2) : TakesTrap i s t 4 0 0 :=
  takesTrap_of_alone (by decide) ha he (hb.trans (by simp [convertValue, h, hm, isNan]))

end

theorem cvtToThread_eq {x : CvtSlot} : cvtToThread x sl s t = convertValue sl.nanm (decodeFp fp32 (getV t x.a).toNat)
    (fun v => setV t x.d (putElement (getV t x.d) (kindBits sl.kind) (elementIn sl.kind x.e)
      (encodeKind sl.kind v sl.rnd sl.sat))) s t := rfl

theorem cvtFromThread_eq {x : CvtSlot} : cvtFromThread x sl s t = convertValue sl.nanm
    (decodeKind sl.kind ((getV t x.a).toNat / 2 ^ (kindBits sl.kind * elementIn sl.kind x.e) % 2 ^ kindBits sl.kind))
    (fun v => setV t x.d (ofF32 v .rn)) s t := rfl

section
variable {i : Instr} {x : CvtSlot} {body : SlotWord → State → Thread → State × Thread × Fate}

theorem cvtSlot_dense (hs : gangFormat s x.f = sl) (hk : sl.kind ≠ 5) (hsp : sl.spn = 0) :
    cvtSlot i x body s = perThread i x.m.sw (withRole onlyVector (body sl)) s := by
  simp [cvtSlot, hs, hk, hsp]

theorem cvtSlot_illegal (hs : gangFormat s x.f = sl) (h : sl.kind = 5 ∨ sl.spn ≠ 0) : cvtSlot i x body s = illegalAll i s := by
  subst hs
  exact if_pos h

end

theorem withRole_vector {body : State → Thread → State × Thread × Fate} (hr : t.role = 0) :
    withRole onlyVector body s t = body s t := if_pos (decide_eq_true hr)

theorem ofF32_posZero : ofF32 posZero .rn = 0 := rfl

section
variable (f e : BitVec 3) (a d : BitVec 6) (m : Marks) (ha : Alone s t) (hr : t.role = 0) (hs : formatSlot s t f = sl)
  (hk : sl.kind ≠ 5) (hsp : sl.spn = 0)
include ha hr hs hk hsp

/-- `cvt.to` puts an element of the slot's kind in place (R149). -/
theorem cvtTo_converts :
    let x := decodeFp fp32 (getV t a).toNat
    let put := fun v => putElement (getV t d) (kindBits sl.kind) (elementIn sl.kind e) (encodeKind sl.kind v sl.rnd sl.sat)
    (x ≠ .nan ∨ sl.nanm = 0 → GoesOn (.cvtTo ⟨f, e, a, d, m⟩) m.sw s s (setV t d (put x))) ∧
    (x = .nan → sl.nanm = 1 → GoesOn (.cvtTo ⟨f, e, a, d, m⟩) m.sw s (countNan s t.launch 1) (setV t d (put posZero))) ∧
    (x = .nan → sl.nanm = 2 → TakesTrap (.cvtTo ⟨f, e, a, d, m⟩) s t 4 0 0) := by
  intro x put
  have he : exec (.cvtTo ⟨f, e, a, d, m⟩) s = perThread _ m.sw (withRole onlyVector (cvtToThread ⟨f, e, a, d, m⟩ sl)) s :=
    cvtSlot_dense ((gangFormat_of_alone ha).trans hs) hk hsp
  have hb : withRole onlyVector (cvtToThread ⟨f, e, a, d, m⟩ sl) s t =
      convertValue sl.nanm x (fun v => setV t d (put v)) s t := (withRole_vector hr).trans cvtToThread_eq
  exact ⟨converts_value (put := put) ha he hb, converts_nan_to_zero ha he hb, converts_nan_to_trap ha he hb⟩

/-- `cvt.from` reads an element of the slot's kind as FP32 (R149). -/
theorem cvtFrom_converts :
    let b := kindBits sl.kind
    let y := decodeKind sl.kind ((getV t a).toNat / 2 ^ (b * elementIn sl.kind e) % 2 ^ b)
    (y ≠ .nan ∨ sl.nanm = 0 → GoesOn (.cvtFrom ⟨f, e, a, d, m⟩) m.sw s s (setV t d (ofF32 y .rn))) ∧
    (y = .nan → sl.nanm = 1 → GoesOn (.cvtFrom ⟨f, e, a, d, m⟩) m.sw s (countNan s t.launch 1) (setV t d 0)) ∧
    (y = .nan → sl.nanm = 2 → TakesTrap (.cvtFrom ⟨f, e, a, d, m⟩) s t 4 0 0) := by
  intro b y
  have he : exec (.cvtFrom ⟨f, e, a, d, m⟩) s =
      perThread _ m.sw (withRole onlyVector (cvtFromThread ⟨f, e, a, d, m⟩ sl)) s :=
    cvtSlot_dense ((gangFormat_of_alone ha).trans hs) hk hsp
  have hb : withRole onlyVector (cvtFromThread ⟨f, e, a, d, m⟩ sl) s t =
      convertValue sl.nanm y (fun v => setV t d (ofF32 v .rn)) s t := (withRole_vector hr).trans cvtFromThread_eq
  rw [← ofF32_posZero]
  exact ⟨converts_value (put := fun v => ofF32 v .rn) ha he hb, converts_nan_to_zero (put := fun v => ofF32 v .rn) ha he hb,
    converts_nan_to_trap (put := fun v => ofF32 v .rn) ha he hb⟩

end

/-! ### Blocks (R152, R153) -/

section
variable {i : Instr} {x : Bfp} {body : SlotWord → State → State → Thread → State × Thread × Fate}

theorem bfpGang_dense (hs : gangFormat s x.f = sl) (hk : sl.kind = 5) (hsp : sl.spn = 0) :
    bfpGang i x body s = perThread i x.m.sw (withRole onlyVector (body sl s)) s := by
  simp [bfpGang, hs, hk, hsp]

theorem bfpGang_illegal (hs : gangFormat s x.f = sl) (h : sl.kind ≠ 5 ∨ sl.spn ≠ 0) : bfpGang i x body s = illegalAll i s := by
  subst hs
  exact if_pos h

end

theorem gangFormat_of_gang {f : BitVec 3} (hne : actives s ≠ []) (hs : ∀ t ∈ actives s, formatSlot s t f = sl) :
    gangFormat s f = sl := by
  obtain ⟨t, ts, e⟩ := List.exists_cons_of_ne_nil hne
  rw [gangFormat, e]
  exact hs t (e ▸ List.mem_cons_self)

/-- The element that member j of a thread's block group supplies, +0 where there is none (R152). -/
def suppliedElement (s : State) (t : Thread) (a : BitVec 6) (j : Nat) : XVal :=
  match blockThread s t j with
  | some u => decodeFp fp32 (getV u a).toNat
  | none => posZero

section
variable {a : BitVec 6} (hv : AllVector s)
include hv

/-- In a gang of the vector role the members of a block group are found among the active threads. -/
theorem blockMember_eq (t : Thread) (j : Nat) : blockMember (blockGroup s t) j = blockThread s t j := by
  rw [blockMember, blockGroup, List.find?_filter, blockThread]
  refine List.find?_congr fun u hu => ?_
  have hr : onlyVector u.role = true := decide_eq_true (hv u hu)
  simp [hr]

theorem blockElements_eq (t : Thread) (h : ∀ u ∈ actives s, decodeFp fp32 (getV u a).toNat ≠ .nan) :
    blockElements a sl (blockGroup s t) = (List.range 32).map (suppliedElement s t a) := by
  refine List.map_congr_left fun j _ => ?_
  rw [blockMember_eq hv, suppliedElement]
  cases hu : blockThread s t j with
  | none => rfl
  | some u =>
    have hn : isNan (srcF32 a u) = false := Bool.eq_false_iff.mpr (mt isNan_iff.mp (h u (List.mem_of_find?_eq_some hu)))
    simp only [hn, Bool.false_and, Bool.false_eq_true, if_false]
    rfl

theorem bfpdqValue_eq {x : Bfp} (t : Thread) : bfpdqValue x sl s t = blockElement s t x.a sl.m := by
  simp only [bfpdqValue, groupWord, blockMember_eq hv]
  rfl

/-- A block form of a gang of the vector role over a dense BFP slot, where no thread meets a NaN. -/
theorem eachActive_of_block {i : Instr} {x : Bfp} {body : SlotWord → State → State → Thread → State × Thread × Fate}
    {f : Thread → Thread} (hg : Gang s) (hs : ∀ t ∈ actives s, formatSlot s t x.f = sl) (hk : sl.kind = 5) (hsp : sl.spn = 0)
    (he : exec i s = bfpGang i x body s) (hl : lengthOf i = 2)
    (hf : ∀ t, (f t).wg = t.wg ∧ (f t).tid = t.tid ∧ (f t).place = t.place ∧ (f t).seat = t.seat ∧ (f t).pc = t.pc)
    (hb : ∀ t ∈ actives s, body sl s s t = (s, f t, .next)) : EachActive i 2 x.m.sw s f := by
  obtain ⟨hne, hpc, hnd⟩ := hg
  rw [EachActive, he, bfpGang_dense (gangFormat_of_gang hne hs) hk hsp,
    perThread_map i x.m.sw _ f s hne hpc hnd hf fun t ht => (withRole_vector (hv t ht)).trans (hb t ht), hl]

end

theorem any_nan_eq_false {v : Thread → XVal} {c : Thread → Bool} {b : Bool} (h : ∀ u ∈ actives s, v u ≠ .nan) :
    ((actives s).any fun u => c u && isNan (v u) && b) = false := by
  rw [List.any_eq_false]
  intro u hu
  have hn : isNan (v u) = false := Bool.eq_false_iff.mpr (mt isNan_iff.mp (h u hu))
  simp [hn]

theorem bfpqThread_of_no_nan {x : Bfp} (hv : AllVector s) (h : ∀ u ∈ actives s, decodeFp fp32 (getV u x.a).toNat ≠ .nan)
    (ht : t ∈ actives s) : bfpqThread x sl s s t = (s,
      (let i := t.tid % 32
      let blk := bfpQuantize ((List.range 32).map (suppliedElement s t x.a)) sl.m sl.rnd sl.sat
      setV2 t x.d (BitVec.ofInt 32 ((blk.mant[i]?).getD 0) ++
        (if i < sl.m then BitVec.ofNat 32 (mantFieldOfBlock blk sl.m / 2 ^ (32 * i))
          else if i = sl.m then BitVec.ofNat 32 (scaleOfBlock blk) else 0))), .next) := by
  have hn : isNan (srcF32 x.a t) = false := Bool.eq_false_iff.mpr (mt isNan_iff.mp (h t ht))
  have hmod : ∀ n : Nat, BitVec.ofNat 32 (n % 2 ^ 32) = BitVec.ofNat 32 n := fun n =>
    BitVec.eq_of_toNat_eq (by simp)
  rw [bfpqThread, any_nan_eq_false (v := srcF32 x.a) h]
  simp only [hn, blockElements_eq hv t h, blockWord, hmod, Bool.false_and, Bool.false_eq_true, if_false]

theorem bfpdqThread_of_no_nan {x : Bfp} (hv : AllVector s) (h : ∀ u ∈ actives s, blockElement s u x.a sl.m ≠ .nan)
    (ht : t ∈ actives s) :
    bfpdqThread x sl s s t = (s, setV t x.d (ofF32 (blockElement s t x.a sl.m) .rn), .next) := by
  have hn : isNan (blockElement s t x.a sl.m) = false := Bool.eq_false_iff.mpr (mt isNan_iff.mp (h t ht))
  have hany := any_nan_eq_false (v := bfpdqValue x sl s) (c := fun u => onlyVector u.role) (b := decide (sl.nanm = 2))
    fun u hu => bfpdqValue_eq (x := x) hv u ▸ h u hu
  rw [bfpdqThread, hany]
  simp only [bfpdqValue_eq hv, hn, Bool.false_and, Bool.false_eq_true, if_false]

theorem slotAndBlockConversions : Claims.SlotAndBlockConversions := by
  refine ⟨fun f e a d m s t sl ha hr hs hk hsp => ?slot,
    fun f a d m s sl hg hv hs hk hsp => ⟨fun h => ?_, fun h => ?_⟩, fun f e a d m s t sl ha hs => ⟨fun h => ?_, fun h => ?_⟩⟩
  case slot =>
    obtain ⟨hto, htoZero, htoTrap⟩ := cvtTo_converts f e a d m ha hr hs hk hsp
    obtain ⟨hfrom, hfromZero, hfromTrap⟩ := cvtFrom_converts f e a d m ha hr hs hk hsp
    exact ⟨hto, htoZero, htoTrap, hfrom, hfromZero, hfromTrap⟩
  · exact eachActive_of_block (x := ⟨f, a, d, m⟩) hv hg hs hk hsp rfl rfl (fun _ => ⟨rfl, rfl, rfl, rfl, rfl⟩)
      fun t ht => bfpqThread_of_no_nan hv h ht
  · exact eachActive_of_block (x := ⟨f, a, d, m⟩) hv hg hs hk hsp rfl rfl (fun _ => ⟨rfl, rfl, rfl, rfl, rfl⟩)
      fun t ht => bfpdqThread_of_no_nan hv h ht
  · have hg := (gangFormat_of_alone ha).trans hs
    exact ⟨takesTrap_of_alone (by decide) ha (cvtSlot_illegal hg h) rfl,
      takesTrap_of_alone (by decide) ha (cvtSlot_illegal hg h) rfl⟩
  · have hg := (gangFormat_of_alone ha).trans hs
    exact ⟨takesTrap_of_alone (by decide) ha (bfpGang_illegal hg h) rfl,
      takesTrap_of_alone (by decide) ha (bfpGang_illegal hg h) rfl⟩

/-- Settles O17: packed forms element by element, conversions by what each thread reads and writes. -/
theorem packedFormsAndConversions : Obligations.PackedFormsAndConversions :=
  ⟨packedFormsActElementByElement, directConversions, slotAndBlockConversions⟩

end Sys2Proof.Machine
end

section
/-! ### The frame of the register forms (R50, R77) -/
namespace Sys2Proof.Machine

variable {t t' : Thread} {d : BitVec 6} {i : Instr} {len : Nat} {sw : Bool}

/-! ### What an instruction writes of a thread -/

/-- Only the registers `ds` of the thread change. -/
def WritesRegs (ds : List (BitVec 6)) (t t' : Thread) : Prop :=
  t' = { t with v := t'.v } ∧ ∀ r, r ∉ ds → getV t' r = getV t r

/-- Only the predicates `qs` of the thread change. -/
def WritesPreds (qs : List (BitVec 3)) (t t' : Thread) : Prop :=
  t' = { t with p := t'.p } ∧ ∀ q : BitVec 3, q ∉ qs → t'.p.getLsbD q.toNat = t.p.getLsbD q.toNat

theorem WritesRegs.mono {ds ds' : List (BitVec 6)} (h : WritesRegs ds t t') (hsub : ds ⊆ ds') : WritesRegs ds' t t' :=
  ⟨h.1, fun r hr => h.2 r fun hm => hr (hsub hm)⟩

theorem setV_writes {x : Word} : WritesRegs [d] t (setV t d x) :=
  ⟨rfl, fun _ hr => getV_setV_of_ne (List.ne_of_not_mem_cons hr)⟩

theorem setV2_writes {x : BitVec 64} : WritesRegs [d, d + 1] t (setV2 t d x) :=
  ⟨rfl, fun _ hr => getV_setV2_of_ne (List.ne_of_not_mem_cons hr) (List.ne_of_not_mem_cons (List.not_mem_of_not_mem_cons hr))⟩

theorem setGroup_writes {ws : List Word} : WritesRegs (groupRegs d ws.length) t (setGroup t d ws) :=
  ⟨setRegs_changes_only_v _ _, fun _ hr => getV_setGroup_of_ne fun i hi e => hr (mem_groupRegs.mpr ⟨i, hi, e⟩)⟩

theorem setP_writes {q : BitVec 3} {b : Bool} : WritesPreds [q] t (setP t q b) := by
  rw [setP]
  split
  · exact ⟨rfl, fun _ _ => rfl⟩
  · refine ⟨rfl, fun r hr => ?_⟩
    have hne : r.toNat ≠ q.toNat := fun e => hr (List.mem_singleton.mpr (BitVec.eq_of_toNat_eq e))
    have hr8 : r.toNat < 8 := r.isLt
    have hbit : (1#8 <<< q.toNat).getLsbD r.toNat = false := by
      rw [BitVec.getLsbD_shiftLeft, BitVec.getLsbD_one]
      by_cases h : r.toNat < q.toNat
      · simp [h]
      · simp [show r.toNat - q.toNat ≠ 0 by omega]
    cases b <;> simp only [if_true, if_false, Bool.false_eq_true, BitVec.getLsbD_or, BitVec.getLsbD_and, BitVec.getLsbD_not,
      hbit, hr8, decide_true, Bool.not_false, Bool.and_true, Bool.or_false]

/-- The predicates that a mask of p1 to p7 names. -/
def maskedPreds (mask : BitVec 7) : List (BitVec 3) :=
  (List.range 7).filterMap fun i => if mask.getLsbD i then some (BitVec.ofNat 3 (i + 1)) else none

theorem maskPreds_writes {mask : BitVec 7} {a : Word} : WritesPreds (maskedPreds mask) t (maskPreds mask a t) := by
  refine ⟨rfl, fun q hq => ?_⟩
  have hbit : (mask ++ 0#1).getLsbD q.toNat = false := by
    rw [BitVec.getLsbD_append]
    by_cases h0 : q.toNat < 1
    · simp [h0]
    · have hmask : mask.getLsbD (q.toNat - 1) ≠ true := fun hm => hq <| List.mem_filterMap.mpr
        ⟨q.toNat - 1, List.mem_range.mpr (by omega), by
          rw [if_pos hm, Nat.sub_add_cancel (not_lt.mp h0), BitVec.ofNat_toNat, BitVec.setWidth_eq]⟩
      simpa [h0] using hmask
  have hq8 : q.toNat < 8 := q.isLt
  simp only [maskPreds, BitVec.getLsbD_or, BitVec.getLsbD_and, BitVec.getLsbD_not, hbit, hq8, decide_true, Bool.not_false,
    Bool.and_true, Bool.and_false, Bool.or_false]

/-! ### From one thread to the instruction -/

theorem WritesRegs.keptBut {ds : List (BitVec 6)} (h : WritesRegs ds t t') : KeptBut ds [] [] t (retire len sw t') := by
  obtain ⟨heq, hregs⟩ := h
  refine ⟨?_, hregs, fun _ _ => ?_, fun _ => ?_, fun h => absurd rfl h⟩ <;> rw [heq] <;> rfl

theorem WritesPreds.keptBut {qs : List (BitVec 3)} (h : WritesPreds qs t t') : KeptBut [] qs [] t (retire len sw t') := by
  obtain ⟨heq, hpreds⟩ := h
  refine ⟨?_, fun _ _ => ?_, hpreds, fun _ => ?_, fun h => absurd rfl h⟩ <;> rw [heq] <;> rfl

theorem pendRegs_keptBut {ws : List (BitVec 6 × Word)} (hne : ws.map Prod.fst ≠ []) :
    KeptBut [] [] (ws.map Prod.fst) t (retire len sw (pendRegs t ws)) :=
  ⟨rfl, fun _ _ => rfl, fun _ _ => rfl, fun h => absurd h hne, fun _ => ⟨ws, rfl, rfl⟩⟩

section
variable {ds : List (BitVec 6)} {qs : List (BitVec 3)} {ps : List (BitVec 6)} {f : State → Thread → Thread}

theorem registerFrame_of_mapActive (he : ∀ s, exec i s = .next (mapActive len sw (f s) s))
    (h : ∀ s t, KeptBut ds qs ps t (retire len sw (f s t))) : RegisterFrame i ds qs ps := by
  refine fun s => ⟨_, he s, rfl, ?_⟩
  rw [mapActive, updWhere, List.forall₂_map_right_iff, List.forall₂_same]
  intro t _
  split
  · exact h s t
  · rfl

theorem registerFrame_of_regs (he : ∀ s, exec i s = .next (mapActive len sw (f s) s)) (h : ∀ s t, WritesRegs ds t (f s t)) :
    RegisterFrame i ds [] [] := registerFrame_of_mapActive he fun s t => (h s t).keptBut

theorem registerFrame_of_preds (he : ∀ s, exec i s = .next (mapActive len sw (f s) s))
    (h : ∀ s t, WritesPreds qs t (f s t)) : RegisterFrame i [] qs [] := registerFrame_of_mapActive he fun s t => (h s t).keptBut

theorem registerFrame_of_setV {x : State → Thread → Word}
    (he : ∀ s, exec i s = .next (mapActive len sw (fun t => setV t d (x s t)) s)) : RegisterFrame i [d] [] [] :=
  registerFrame_of_regs (f := fun s t => setV t d (x s t)) he fun _ _ => setV_writes

theorem registerFrame_of_setP {q : BitVec 3} {b : State → Thread → Bool}
    (he : ∀ s, exec i s = .next (mapActive len sw (fun t => setP t q (b s t)) s)) : RegisterFrame i [] [q] [] :=
  registerFrame_of_preds (f := fun s t => setP t q (b s t)) he fun _ _ => setP_writes

end

/-! ### Operand widths -/

theorem one_subset_group {w : Width} : [d] ⊆ groupRegs d w.regs := by
  intro r hr
  rw [List.mem_singleton.mp hr]
  exact mem_groupRegs.mpr ⟨0, by cases w <;> decide, by simp⟩

theorem groupRegs_two : groupRegs d 2 = [d, d + 1] := by simp [groupRegs, List.range_succ]

theorem bin_writes {f : Bin} {w : Width} {a b : BitVec 6} : WritesRegs (groupRegs d w.regs) t (bin f w a b d t) := by
  have hgroup : WritesRegs (groupRegs d w.regs) t
      (setGroup t d (((getGroup t a w.regs).zip (getGroup t b w.regs)).map fun x => f 32 x.1 x.2)) := by
    simpa [length_getGroup] using setGroup_writes (t := t) (d := d)
      (ws := ((getGroup t a w.regs).zip (getGroup t b w.regs)).map fun x => f 32 x.1 x.2)
  cases w with
  | x1 => exact setV_writes.mono one_subset_group
  | x2 => exact groupRegs_two ▸ setV2_writes
  | x4 => exact hgroup
  | x8 => exact hgroup

theorem un_writes {f : Un} {w : Width} {a : BitVec 6} : WritesRegs (groupRegs d w.regs) t (un f w a d t) := by
  have hgroup : WritesRegs (groupRegs d w.regs) t (setGroup t d ((getGroup t a w.regs).map (f 32))) := by
    simpa [length_getGroup] using setGroup_writes (t := t) (d := d) (ws := (getGroup t a w.regs).map (f 32))
  cases w with
  | x1 => exact setV_writes.mono one_subset_group
  | x2 => exact groupRegs_two ▸ setV2_writes
  | x4 => exact hgroup
  | x8 => exact hgroup

/-- A form that writes one register, or a pair at x2. -/
theorem narrow_writes {w : Width} {x : Word} {y : BitVec 64} :
    WritesRegs (groupRegs d w.regs) t (match w with | .x2 => setV2 t d y | _ => setV t d x) := by
  cases w with
  | x2 => exact groupRegs_two ▸ setV2_writes
  | x1 => exact setV_writes.mono one_subset_group
  | x4 => exact setV_writes.mono one_subset_group
  | x8 => exact setV_writes.mono one_subset_group

theorem ter_writes {f : (n : Nat) → BitVec n → BitVec n → BitVec n → BitVec n} {w : Width} {a b : BitVec 6} :
    WritesRegs (groupRegs d w.regs) t (ter f w a b d t) := narrow_writes

theorem vBin_writes {f : Bin} {x : VOps} {s : State} : WritesRegs (groupRegs x.d x.wd.regs) t (vBin f x s t) :=
  narrow_writes

/-! ### The families of forms -/

/-- The forms that write a function of two sources. -/
def binForms : List (VF3 → Instr) := [.imulLo, .imulHis, .imulHiz, .mins, .maxs, .minz, .maxz, .sadds, .saddz, .logAnd,
  .logOr, .logXor, .logAndn, .logOrn, .logXnor, .shl, .shr, .sar, .rol]

theorem binForms_frame {mk : VF3 → Instr} (h : mk ∈ binForms) (x : VF3) :
    RegisterFrame (mk x) (groupRegs x.d x.w.regs) [] [] := by
  fin_cases h <;> exact registerFrame_of_regs (fun _ => rfl) fun _ _ => bin_writes

theorem funnelShifts_frame {mk : VF3 → Instr} (h : mk ∈ [Instr.fshl, .fshr]) (x : VF3) :
    RegisterFrame (mk x) (groupRegs x.d x.w.regs) [] [] := by
  fin_cases h <;> exact registerFrame_of_regs (fun _ => rfl) fun _ _ => ter_writes

theorem oneSource_frame {mk : VF2 → Instr} (h : mk ∈ [Instr.iabs, .ineg, .logNot, .popc, .clz, .ctz, .brev]) (x : VF2) :
    RegisterFrame (mk x) (groupRegs x.d x.w.regs) [] [] := by
  fin_cases h <;> exact registerFrame_of_regs (fun _ => rfl) fun _ _ => un_writes

theorem addForms_frame {mk : VOps → Instr} (h : mk ∈ [Instr.iadd, .isub, .imad]) (x : VOps) :
    RegisterFrame (mk x) (groupRegs x.d x.wd.regs) [] [] := by
  fin_cases h <;> exact registerFrame_of_regs (fun _ => rfl) fun _ _ => narrow_writes

theorem firstOf_cons_none {b : Bool} {l : List Bool} (h : firstOf (b :: l) = none) : b = true := by
  by_contra hb
  simp [firstOf, hb] at h

/-- A division is encoded at x1 and x2 alone (R112). -/
theorem division_narrow {mk : VF3 → Instr} (h : mk ∈ [Instr.divs, .divz, .rems, .remz]) {x : VF3} (hw : (mk x).wf = true) :
    narrow x.w = true := by
  fin_cases h <;> exact firstOf_cons_none (of_decide_eq_true hw)

theorem pendBin_keptBut {f : Bin} {w : Width} {a b : BitVec 6} (hw : narrow w = true) :
    KeptBut [] [] (groupRegs d w.regs) t (retire len sw (pendBin f w a b d t)) := by
  cases w with
  | x1 =>
    have hone : groupRegs d 1 = [d] := by simp [groupRegs, List.range_succ]
    rw [Width.regs, hone]
    exact pendRegs_keptBut (by simp)
  | x2 =>
    rw [Width.regs, groupRegs_two]
    exact pendRegs_keptBut (ws := pairWrites d _) (by simp [pairWrites])
  | x4 => cases hw
  | x8 => cases hw

theorem divisions_frame {mk : VF3 → Instr} (h : mk ∈ [Instr.divs, .divz, .rems, .remz]) {x : VF3} (hw : (mk x).wf = true) :
    RegisterFrame (mk x) [] [] (groupRegs x.d x.w.regs) := by
  have hn := division_narrow h hw
  fin_cases h <;> exact registerFrame_of_mapActive (fun _ => rfl) fun _ _ => pendBin_keptBut hn

theorem wordForms_frame {mk : R3 → Instr}
    (h : mk ∈ [Instr.bfxs, .bfxz, .bfi, .bperm, .dot4ss, .dot4zz, .dot4sz, .dot2s, .dot2z]) (x : R3) :
    RegisterFrame (mk x) [x.d] [] [] := by
  fin_cases h <;> exact registerFrame_of_setV fun _ => rfl

theorem wideProducts_frame {mk : R3 → Instr} (h : mk ∈ [Instr.imulWds, .imulWdz]) (x : R3) :
    RegisterFrame (mk x) [x.d, x.d + 1] [] [] := by
  fin_cases h <;> exact registerFrame_of_regs (fun _ => rfl) fun _ _ => setV2_writes

theorem compactForms_frame {mk : CompactReg → Instr}
    (h : mk ∈ [Instr.movC, .iaddC, .isubC, .imulC, .andC, .orC, .xorC, .shlC, .shrC, .sarC]) (x : CompactReg) :
    RegisterFrame (mk x) [x.d] [] [] := by
  fin_cases h <;> exact registerFrame_of_setV fun _ => rfl

theorem compactImmediates_frame {mk : CompactImm → Instr} (h : mk ∈ [Instr.movi, .iaddiC]) (x : CompactImm) :
    RegisterFrame (mk x) [x.d] [] [] := by
  fin_cases h <;> exact registerFrame_of_setV fun _ => rfl

/-- Settles O13: each family of forms by the registers or predicates that its meaning writes. -/
theorem registerFormsChangeOnlyTheirDestination : Obligations.RegisterFormsChangeOnlyTheirDestination := by
  refine ⟨fun mk h x _ => ?two, fun mk h x _ => oneSource_frame h x, fun mk h x _ => addForms_frame h x,
    fun mk h x hw => divisions_frame h hw, fun mk h x => wordForms_frame h x, fun mk h x => wideProducts_frame h x,
    fun x _ => registerFrame_of_regs (fun _ => rfl) fun _ _ => bin_writes,
    fun x => registerFrame_of_setV fun _ => rfl,
    fun x => ⟨registerFrame_of_setV fun _ => rfl, registerFrame_of_setV fun _ => rfl⟩,
    fun x => registerFrame_of_setP fun _ => rfl,
    fun x => ⟨registerFrame_of_setP fun _ => rfl, registerFrame_of_setP fun _ => rfl, registerFrame_of_setP fun _ => rfl⟩,
    fun x => registerFrame_of_setP fun _ => rfl,
    fun x => registerFrame_of_preds (fun _ => rfl) fun _ _ => maskPreds_writes,
    fun x => registerFrame_of_setV fun _ => rfl, fun mk h x => compactForms_frame h x,
    fun mk h x => compactImmediates_frame h x⟩
  rcases (List.mem_append (s := binForms) (t := [Instr.fshl, .fshr])).mp h with h | h
  · exact binForms_frame h x
  · exact funnelShifts_frame h x

end Sys2Proof.Machine
end

section
/-! ### Every instruction and step answers a next state (R72, R89, R90, R179)

One lemma for each operation that instructions share. Every meaning is a tree of choices whose leaves are next states. -/
namespace Sys2Proof.Machine

variable {s : State} {i : Instr} {m : Marks} {sw : Bool}

theorem goes_next : Goes (.next s) := ⟨s, rfl⟩

theorem goes_ite {c : Prop} {_ : Decidable c} {a b : Host.Outcome State Fault Refusal} (ha : Goes a) (hb : Goes b) :
    Goes (if c then a else b) := by
  split
  · exact ha
  · exact hb

/-! ### Shared operations -/

theorem perThread_goes {body : State → Thread → State × Thread × Fate} : Goes (perThread i sw body s) := goes_next

theorem vectorOp_goes {f : Thread → Thread} : Goes (vectorOp i sw f s) := goes_ite goes_next perThread_goes

theorem cvtSlot_goes {x : CvtSlot} {body : SlotWord → State → Thread → State × Thread × Fate} :
    Goes (cvtSlot i x body s) := goes_ite perThread_goes perThread_goes

theorem bfpGang_goes {x : Bfp} {body : SlotWord → State → State → Thread → State × Thread × Fate} :
    Goes (bfpGang i x body s) := goes_ite perThread_goes perThread_goes

theorem collective_goes {ok : BitVec 2 → Bool} {n : BitVec 3} {f : Thread → Thread} : Goes (collective i sw ok n f s) :=
  goes_ite goes_next (goes_ite goes_next goes_next)

theorem stallUnless_goes {ready : State → Thread → Bool} {go : State → Host.Outcome State Fault Refusal}
    (hgo : ∀ s, Goes (go s)) : Goes (stallUnless ready go s) := goes_ite (hgo s) goes_next

theorem command_goes {g : Gate} {h : CmdHead} {act : State → State} : Goes (command g h act s) := goes_ite goes_next goes_next

theorem probedWith_goes {use : State → Nat → Nat → List Nat → State} {ok : BitVec 2 → Bool}
    {addrs : State → Thread → List Nat} {body : State → Thread → State × Thread × Fate} :
    Goes (probedWith use i sw ok addrs body s) := by
  unfold probedWith
  split
  · exact goes_next
  · dsimp only
    split <;> exact goes_next

theorem probedGang_goes {ok : BitVec 2 → Bool} {addrs : State → Thread → List Nat}
    {body : State → Thread → State × Thread × Fate} : Goes (probedGang i sw ok addrs body s) := probedWith_goes

theorem atomGang_goes {x : Atom} {xf : Bool} {op : Nat} : Goes (atomGang i x xf op s) := probedGang_goes

theorem postGang_goes {x : R1} {mode : Nat} : Goes (postGang i x mode s) := probedGang_goes

/-- A gang's probe, the messages it sends, and what it does once they are answered. -/
theorem barGang_goes {b : BarSpec} : Goes (barGang i m b s) := by
  unfold barGang
  split
  · exact goes_next
  · dsimp only
    split
    · exact goes_next
    · exact goes_ite goes_next goes_next

theorem execLnch_goes {x : Lnch} : Goes (execLnch x s) := by
  unfold execLnch
  split
  · exact goes_next
  · dsimp only
    split
    · exact goes_next
    · exact goes_ite goes_next goes_next

theorem stalledGang_goes {ok : BitVec 2 → Bool} : Goes (stalledGang i ok s) := by
  unfold stalledGang
  split <;> exact goes_next

theorem cpyGang_goes {x : Cpy} {k : Nat} {follow : Bool} : Goes (cpyGang i x k follow s) := by
  unfold cpyGang
  split
  · exact goes_next
  · exact goes_ite stalledGang_goes perThread_goes

theorem leaderPush_goes {check : Launch → Workgroup → Thread → Except Fate Push} : Goes (leaderPush i sw check s) := by
  unfold leaderPush
  split
  · exact perThread_goes
  · split
    · exact goes_next
    · split
      · exact perThread_goes
      · split
        · exact stalledGang_goes
        · exact perThread_goes

/-! ### Instructions that choose between them -/

theorem execMxmma_goes {x : MxMma} : Goes (execMxmma x s) := by
  unfold execMxmma
  split
  · exact goes_next
  · exact goes_ite perThread_goes leaderPush_goes

theorem execTsbind_goes {x : TsBind} : Goes (execTsbind x s) := by
  unfold execTsbind
  split
  · exact perThread_goes
  · split
    · exact goes_next
    · dsimp only
      split <;> exact perThread_goes

theorem execTsrel_goes {x : M0} : Goes (execTsrel x s) := by
  unfold execTsrel
  split
  · exact goes_next
  · exact perThread_goes

theorem execRcmark_goes {x : M0} : Goes (execRcmark x s) := goes_ite goes_next perThread_goes

theorem execBrk_goes {x : M0} : Goes (execBrk x s) := by
  unfold execBrk
  split
  · exact goes_next
  · exact goes_ite perThread_goes (goes_ite goes_next perThread_goes)

theorem execRecordDrain_goes {k : CoreKey} : Goes (execRecordDrain k s) := by
  unfold execRecordDrain
  extract_lets s1
  split <;> exact goes_next

/-! ### Every instruction -/

theorem exec_goes : Goes (exec i s) := by
  cases i
  -- The meaning, or the operation it shares with others, answers a next state at once.
  case movC | movi | iaddC | iaddiC | isubC | imulC | andC | orC | xorC | shlC | shrC | sarC | iadd | isub | imad |
      imulLo | imulHis | imulHiz | imulWds | imulWdz | mins | maxs | minz | maxz | iabs | ineg | sadds | saddz |
      divs | divz | rems | remz | logAnd | logOr | logXor | logAndn | logOrn | logXnor | logNot | shl | shr | sar |
      rol | fshl | fshr | shlI | shrI | sarI | rolI | bfxs | bfxz | bfi | popc | clz | ctz | brev | bperm | dot4ss |
      dot4zz | dot4sz | dot2s | dot2z | iaddi | movl | movh | icmp | sel | pand | por | pxor | pnot | p2v | v2p |
      lea | sread | bra | jmp | call | ret | awaitRing | awaitFar | awaitGd | awaitIng | awaitTmr | exit | trap |
      gdarm | gdset | mxstat | tsq | wkpt | assay | cinv | cwb | rinit | rpush | rpop | rpeek | part | nop |
      illegalEncoding | submitDoorbell | hostRingDoorbell | graphStart | allowanceExhausted | correctableError |
      patrolScrub | linkRetrainComplete | countCommit | sampleTick | coldReset | warmReset | spdmVersion |
      spdmCapabilities | spdmAlgorithms | spdmCertificate | spdmChallenge | timerWake | spdmKeyExchange | spdmFinish
      => exact goes_next
  case faddC | fmulC | fminC | fmaxC | fadd | fsub | fmul | ffma | fnma | fmin | fmax | fminNan | fmaxNan | fabs |
      fneg | fcsgn | fclass | fcmp | frcp | frsq | fsqrt | fexp2 | flog2 | fsin | fcos | ftanh | fldexp | frndRn |
      frndRz | frndRd | frndRu | fexpof | ffract | hadd | hsub | hmul | hfma | hmin | hmax | hcmp | habs | hneg |
      cvtDirect => exact vectorOp_goes
  case cvtTo | cvtFrom => exact cvtSlot_goes
  case bfpq | bfpdq => exact bfpGang_goes
  case voteAny | voteAll | voteBallot | voteUeq | shflIdx | shflUp | shflDown | shflXor | gredIadd | gredMins |
      gredMaxs | gredAnd | gredOr | gredXor | gredFadd | gredFmax | gscanIadd | gscanMins | gscanMaxs | gscanAnd |
      gscanOr | gscanXor | gscanFadd | gscanFmax => exact collective_goes
  case awaitBar | barInit | barArr | barWait | barExp | barInval => exact barGang_goes
  case ld | st | ldk | stk =>
    dsimp only [exec]
    exact probedGang_goes
  case pf => exact probedWith_goes
  case atomAdd | atomSub | atomMins | atomMaxs | atomMinz | atomMaxz | atomAnd | atomOr | atomxCas | atomxXchg |
      atomxIncw | atomxDecw | atomxFadd | atomxFmin | atomxFmax | atomxXor => exact atomGang_goes
  case post | postOr | postMaxz => exact postGang_goes
  case acq | rel | acqrel | fence =>
    dsimp only [exec]
    exact stallUnless_goes fun _ => goes_next
  case cpyG2s | cpyS2g | cpyG2b | cpyS2b | cpyChain | cpyWin | cpyFill | cpyScrub | cpyxG2s | cpyxG2b | cpyxS2b |
      cpyxChain => exact cpyGang_goes
  case mxz | mxld | mxst => exact leaderPush_goes
  case roodMode | vdCreate | vdDestroy | copyAssign | tenantCreate | charterInstall | tenantTeardown | ctxCreate |
      ctxDestroy | queueBind | queueUnbind | queueReload | unfreeze | kill | preempt | resume | evict | imagePlace |
      moduleLoad | moduleUnload | ringSet | ringClear | powerSet | dump | frameGrant | frameRevoke | cmdMap | unmap
      | violate | migrateOut | attach | detach | release | stepCmd | discard | streamSet | streamClear | coeffRead |
      countRead | accountRead | traceSet | sampleSet | record | replay => exact command_goes
  case mxmma => exact execMxmma_goes
  case tsbind => exact execTsbind_goes
  case tsrel => exact execTsrel_goes
  case lnch => exact execLnch_goes
  case rcmark => exact execRcmark_goes
  case brk => exact execBrk_goes
  case recordDrain =>
    dsimp only [exec]
    exact execRecordDrain_goes
  -- Steps that happen or do not.
  case mov | registerWrite | quarantineScrubComplete | spanStart | inputUndervoltage | baseTick | tickReceive |
      hostTransmit | ptpMessage | ptpSyncTimeout | spdmMeasurements | routeLost | domainWordWrite =>
    exact goes_ite goes_next goes_next
  -- Threads, gangs and records: every branch of a meaning is a next state.
  case reform | abort | blockCreate | overrun | barrierTimeout | gatherTimeout | trapUnresolved | poolDeadlock |
      gangDraw | logReplay | seatReclaim =>
    dsimp only [exec, execReform, execAbort, execBlockCreate, execOverrun, execBarrierTimeout, execGatherTimeout,
      execTrapUnresolved, execPoolDeadlock, execGangDraw, execLogReplay, execSeatReclaim]
    repeat' (first | exact goes_next | split)
  -- Messages and walks.
  case pendingResultWrite | farRequest | farReply | farAcknowledgement | homeSliceRequest | atomicPerform |
      peerRequest | lineFill | pageRequest | windowAccess | sliceMissFill | writeBackAcknowledgement |
      tableWalkComplete =>
    dsimp only [exec, execPendingResultWrite, execFarRequest, execFarReply, execFarAcknowledgement,
      execHomeSliceRequest, execAtomicPerform, execPeerRequest, execLineFill, execPageRequest, execWindowAccess,
      execSliceMissFill, execWriteBackAcknowledgement, execTableWalkComplete]
    repeat' (first | exact goes_next | split)
  -- Engines and coverage.
  case copyJobStart | copyPieceLand | chainReservation | mxaCommandStart | mxaCommandComplete | probeTokenSend |
      probeTokenReceive | reconPointWrite | sampleCompare | updateInstant =>
    dsimp only [exec, execCopyJobStart, execCopyPieceLand, execChainReservation, execMxaCommandStart,
      execMxaCommandComplete, execProbeTokenSend, execProbeTokenReceive, execReconPointWrite, execSampleCompare,
      execUpdateInstant]
    repeat' (first | exact goes_next | split)
  -- Workgroups, launches and queues.
  case workgroupPlace | workgroupStart | workgroupEnd | workgroupMove | moveComplete | launchEnd | hostRingEntry |
      coalescingTimeout | graphSuccessor | packetIntake | qcbStore =>
    dsimp only [exec, execWorkgroupPlace, execWorkgroupStart, execWorkgroupEnd, execWorkgroupMove, execMoveComplete,
      execLaunchEnd, execHostRingEntry, execCoalescingTimeout, execGraphSuccessor, execPacketIntake, execQcbStore]
    repeat' (first | exact goes_next | split)
  -- Pages, contexts, modules and replays.
  case deferredChangeApply | migrationCopyComplete | migrationPinExpiry | cxlMemAccess | contextStopComplete |
      imageClose | moduleTranslationComplete | frameReceive | replayDivergence =>
    dsimp only [exec, execDeferredChangeApply, execMigrationCopyComplete, execMigrationPinExpiry, execCxlMemAccess,
      execContextStopComplete, execImageClose, execModuleTranslationComplete, execFrameReceive,
      execReplayDivergence]
    repeat' (first | exact goes_next | split)
  -- Errors, boot and interfaces.
  case uncorrectableError | monitorRead | flitCrcFailure | retirement | functionLevelReset | ptpLock | tdispMessage
      | bootStageComplete =>
    dsimp only [exec, execUncorrectableError, execMonitorRead, execFlitCrcFailure, execRetirement,
      execFunctionLevelReset, execPtpLock, execTdispMessage, execBootStageComplete]
    repeat' (first | exact goes_next | split)

/-- Settles O6: each instruction by the shared operation it is, each step of the device by the branches of its meaning. -/
theorem everyInstructionAnswersANextState : Obligations.EveryInstructionAnswersANextState := fun _ _ => exec_goes

end Sys2Proof.Machine
end

section
/-! ### The encoder and the decoder (R73 to R89)

A word is read back field by field: the fields of its low bits, the codes of its operand forms, and then, chapter by chapter
of the spec, the candidate that the decoder makes of a word that the encoder wrote. -/
namespace Sys2Proof

variable {i : Instr} {w : BitVec 32}

/-! ### Fields and codes -/

theorem extract_zero (n s l : Nat) : (0#n).extractLsb' s l = 0#l := by
  apply BitVec.eq_of_getLsbD_eq
  intro j _
  simp

theorem getLsbD_eq_unbit {n : Nat} (x : BitVec n) (k : Nat) : x.getLsbD k = unbit (x.extractLsb' k 1) := by
  simp [unbit]

theorem fields_low (op : BitVec 6) (m : Marks) :
    (low op m).extractLsb' 3 6 = op ∧ (low op m).extractLsb' 2 1 = bit m.stop ∧
      (low op m).extractLsb' 1 1 = bit m.sw ∧ (low op m).extractLsb' 0 1 = 1#1 := by
  simp (disch := omega) only [low, extract_low, extract_high, extract_all, Nat.reduceSub, and_self]

theorem marks_eq_unbit (w : BitVec 32) : marks w = ⟨unbit (w.extractLsb' 2 1), unbit (w.extractLsb' 1 1)⟩ := by
  simp only [marks, getLsbD_eq_unbit]

/-- What the fields of a word hold: those of its low bits, its single bits, and the codes of operand forms. -/
theorem fields_read_back :
    ((∀ op m, (low op m).extractLsb' 3 6 = op) ∧ (∀ op m, (low op m).extractLsb' 2 1 = bit m.stop) ∧
      (∀ op m, (low op m).extractLsb' 1 1 = bit m.sw)) ∧
    ((∀ b, unbit (bit b) = b) ∧ unbit 0#1 = false ∧ ∀ (w : BitVec 32) k, w.getLsbD k = unbit (w.extractLsb' k 1)) ∧
    ((∀ b : BSrc, BSrc.ofCode b.code = b) ∧ (∀ w : Width, Width.ofCode w.code = w) ∧ (∀ r : Rnd, Rnd.ofCode r.code = r) ∧
      (∀ c : Space, Space.ofCode c.code = c) ∧ (∀ k : Access, Access.ofCode k.code = k) ∧
      (∀ r : Ord, Ord.ofCode r.code = r) ∧ (∀ c : Scope, Scope.ofCode? c.code = some c) ∧
      (∀ c : ICond, ICond.ofCode? c.code = some c) ∧ ∀ c : FCond, FCond.ofCode? c.code = some c) :=
  ⟨⟨fun op m => (fields_low op m).1, fun op m => (fields_low op m).2.1, fun op m => (fields_low op m).2.2.1⟩,
    ⟨unbit_bit, rfl, getLsbD_eq_unbit⟩,
    BSrc.ofCode_code, Width.ofCode_code, fun r => by cases r <;> rfl, fun c => by cases c <;> rfl,
    fun k => by cases k <;> rfl, fun r => by cases r <;> rfl, fun c => by cases c <;> rfl, fun c => by cases c <;> rfl,
    fun c => by cases c <;> rfl⟩

/-! ### The candidate of an encoded word -/

theorem encode_compact (w : BitVec 16) (h : encode i = some (.c16 w)) : parse16 w = i ∧ w.getLsbD 0 = false := by
  rw [getLsbD_eq_unbit]
  cases i
  all_goals cases h
  all_goals simp (disch := omega) only [parse16, extract_low, extract_high, extract_all, Nat.reduceSub,
    BitVec.toNat_ofNat, Nat.reducePow, Nat.reduceMod, fields_read_back, and_self]

theorem encode_word_odd (h : encode i = some (.c32 w)) : w.getLsbD 0 = true := by
  rw [getLsbD_eq_unbit]
  cases i
  all_goals cases h
  all_goals
    rw [extract_low _ _ _ _ (by omega), (fields_low _ _).2.2.2]
    rfl

/-- Integer, logic, compare and move instructions (spec/04). -/
theorem parse32_encode_integer (h : encode i = some (.c32 w)) (hop : (w.extractLsb' 3 6).toNat < 19) :
    parse32 w = .ok i := by
  cases i
  all_goals cases h
  all_goals simp (disch := omega) only [extract_low, fields_read_back, BitVec.toNat_ofNat, Nat.reducePow,
    Nat.reduceMod, Nat.reduceLT] at hop
  all_goals simp (disch := omega) only [parse32, marks_eq_unbit, fields_read_back, extract_low, extract_high,
    extract_all, Nat.reduceSub, BitVec.toNat_ofNat, Nat.reducePow, Nat.reduceMod]

/-- The kind code of a direct conversion has four bits: the function field reads its highest one. -/
theorem cvt_function {n : Nat} (x : BitVec n) (k : BitVec 4) :
    ((x ++ 0#2 ++ k).extractLsb' 3 3).toNat = 0 ∨ ((x ++ 0#2 ++ k).extractLsb' 3 3).toNat = 1 := by
  have h : (x ++ 0#2 ++ k).extractLsb' 3 3 = 0#2 ++ k.extractLsb' 3 1 := by
    apply BitVec.eq_of_getLsbD_eq
    intro j hj
    simp only [BitVec.getLsbD_extractLsb', BitVec.getLsbD_append]
    interval_cases j <;> simp
  rw [h]
  generalize k.extractLsb' 3 1 = b
  revert b
  decide

/-- Floating-point instructions (spec/05). -/
theorem parse32_encode_float (h : encode i = some (.c32 w))
    (hop : 19 ≤ (w.extractLsb' 3 6).toNat ∧ (w.extractLsb' 3 6).toNat < 32) : parse32 w = .ok i := by
  cases i
  all_goals cases h
  all_goals simp (disch := omega) only [extract_low, fields_read_back, BitVec.toNat_ofNat, Nat.reducePow,
    Nat.reduceMod, Nat.reduceLT, Nat.reduceLeDiff, and_false, false_and, and_self] at hop
  all_goals simp (disch := omega) only [parse32, marks_eq_unbit, fields_read_back, extract_low, extract_high,
    extract_all, Nat.reduceSub, BitVec.toNat_ofNat, Nat.reducePow, Nat.reduceMod, BitVec.reduceEq, reduceIte]
  case cvtDirect x =>
    rcases cvt_function (0#1 ++ x.r.code ++ x.w.code) x.k with e | e
    · simp only [e]
    · simp only [e]

/-- Branches, awaits, ends of segments and votes (spec/06). -/
theorem parse32_encode_control (h : encode i = some (.c32 w))
    (hop : 32 ≤ (w.extractLsb' 3 6).toNat ∧ (w.extractLsb' 3 6).toNat < 40) : parse32 w = .ok i := by
  cases i
  all_goals cases h
  all_goals simp (disch := omega) only [extract_low, fields_read_back, BitVec.toNat_ofNat, Nat.reducePow,
    Nat.reduceMod, Nat.reduceLT, Nat.reduceLeDiff, and_false, false_and, and_self] at hop
  all_goals simp (disch := omega) only [parse32, marks_eq_unbit, fields_read_back, extract_low, extract_high,
    extract_all, extract_zero, Nat.reduceSub, BitVec.toNat_ofNat, Nat.reducePow, Nat.reduceMod]

/-- Reductions, scans, system and guard instructions (spec/06). -/
theorem parse32_encode_reduction (h : encode i = some (.c32 w))
    (hop : 40 ≤ (w.extractLsb' 3 6).toNat ∧ (w.extractLsb' 3 6).toNat < 45) : parse32 w = .ok i := by
  cases i
  all_goals cases h
  all_goals simp (disch := omega) only [extract_low, fields_read_back, BitVec.toNat_ofNat, Nat.reducePow,
    Nat.reduceMod, Nat.reduceLT, Nat.reduceLeDiff, and_false, false_and, and_self] at hop
  all_goals simp (disch := omega) only [parse32, marks_eq_unbit, fields_read_back, extract_low, extract_high,
    extract_all, extract_zero, Nat.reduceSub, BitVec.toNat_ofNat, Nat.reducePow, Nat.reduceMod]

/-- Loads, stores and atomics (spec/07). -/
theorem parse32_encode_access (h : encode i = some (.c32 w))
    (hop : 45 ≤ (w.extractLsb' 3 6).toNat ∧ (w.extractLsb' 3 6).toNat < 51) : parse32 w = .ok i := by
  cases i
  all_goals cases h
  all_goals simp (disch := omega) only [extract_low, fields_read_back, BitVec.toNat_ofNat, Nat.reducePow,
    Nat.reduceMod, Nat.reduceLT, Nat.reduceLeDiff, and_false, false_and, and_self] at hop
  all_goals simp (disch := omega) only [parse32, marks_eq_unbit, fields_read_back, extract_low, extract_high,
    extract_all, Nat.reduceSub, BitVec.toNat_ofNat, Nat.reducePow, Nat.reduceMod, Bool.false_eq_true, reduceIte]

/-- Ordering, barriers, rings and copies (spec/07, spec/08). -/
theorem parse32_encode_order (h : encode i = some (.c32 w))
    (hop : 51 ≤ (w.extractLsb' 3 6).toNat ∧ (w.extractLsb' 3 6).toNat < 55) : parse32 w = .ok i := by
  cases i
  all_goals cases h
  all_goals simp (disch := omega) only [extract_low, fields_read_back, BitVec.toNat_ofNat, Nat.reducePow,
    Nat.reduceMod, Nat.reduceLT, Nat.reduceLeDiff, and_false, false_and, and_self] at hop
  all_goals simp (disch := omega) only [parse32, marks_eq_unbit, fields_read_back, extract_low, extract_high,
    extract_all, Nat.reduceSub, BitVec.toNat_ofNat, Nat.reducePow, Nat.reduceMod]

/-- Matrix, task, launch and coverage instructions (spec/08). -/
theorem parse32_encode_engine (h : encode i = some (.c32 w)) (hop : 55 ≤ (w.extractLsb' 3 6).toNat) :
    parse32 w = .ok i := by
  cases i
  all_goals cases h
  all_goals simp (disch := omega) only [extract_low, fields_read_back, BitVec.toNat_ofNat, Nat.reducePow,
    Nat.reduceMod, Nat.reduceLeDiff] at hop
  all_goals simp (disch := omega) only [parse32, marks_eq_unbit, fields_read_back, extract_low, extract_high,
    extract_all, extract_zero, Nat.reduceSub, BitVec.toNat_ofNat, Nat.reducePow, Nat.reduceMod]

theorem parse32_of_encode (h : encode i = some (.c32 w)) : parse32 w = .ok i := by
  by_cases h1 : (w.extractLsb' 3 6).toNat < 19
  · exact parse32_encode_integer h h1
  by_cases h2 : (w.extractLsb' 3 6).toNat < 32
  · exact parse32_encode_float h ⟨not_lt.mp h1, h2⟩
  by_cases h3 : (w.extractLsb' 3 6).toNat < 40
  · exact parse32_encode_control h ⟨not_lt.mp h2, h3⟩
  by_cases h4 : (w.extractLsb' 3 6).toNat < 45
  · exact parse32_encode_reduction h ⟨not_lt.mp h3, h4⟩
  by_cases h5 : (w.extractLsb' 3 6).toNat < 51
  · exact parse32_encode_access h ⟨not_lt.mp h4, h5⟩
  by_cases h6 : (w.extractLsb' 3 6).toNat < 55
  · exact parse32_encode_order h ⟨not_lt.mp h5, h6⟩
  · exact parse32_encode_engine h (not_lt.mp h6)

end Sys2Proof
end

section
/-! ### Decoding (R73, R74, R77, R83, R89) -/
namespace Sys2Proof

variable {i : Instr} {n : Nat} {w : BitVec 32}

theorem accept_eq_ok_iff {e : Enc} {j : Instr} :
    accept e i = .ok j ↔ i = j ∧ j.wf = true ∧ encode j = some e := by
  unfold accept Instr.wf
  split
  next err h =>
    refine ⟨nofun, ?_⟩
    rintro ⟨rfl, hw, -⟩
    simp [h] at hw
  next h =>
    split
    next he =>
      constructor
      · rintro ⟨⟩
        exact ⟨rfl, by simp [h], he⟩
      · rintro ⟨rfl, -, -⟩
        rfl
    next he =>
      refine ⟨nofun, ?_⟩
      rintro ⟨rfl, -, h'⟩
      exact absurd h' he

theorem decode32_eq_ok_iff : decode32 w = .ok i ↔ parse32 w = .ok i ∧ i.wf = true ∧ encode i = some (.c32 w) := by
  unfold decode32
  split
  next err h => simp [h]
  next j h => rw [accept_eq_ok_iff, h, Except.ok.injEq]

theorem word_halves_append (w : BitVec 32) : w.extractLsb' 16 16 ++ w.extractLsb' 0 16 = w :=
  (BitVec.extractLsb'_append_extractLsb'_eq_extractLsb' rfl).trans (extract_all w)

theorem decode_of_odd {p q : Parcel} (h : p.getLsbD 0 = true) (rest : List Parcel) :
    decode (p :: q :: rest) = (decode32 (q ++ p)).map fun i => (i, 2) := by
  simp [decode, h]

theorem decode_of_even {p : Parcel} (h : p.getLsbD 0 = false) (rest : List Parcel) :
    decode (p :: rest) = (decode16 p).map fun i => (i, 1) := by
  simp only [decode, h, Bool.false_eq_true, if_false]

theorem decode_halves (h : w.getLsbD 0 = true) (rest : List Parcel) :
    decode (w.extractLsb' 0 16 :: w.extractLsb' 16 16 :: rest) = (decode32 w).map fun i => (i, 2) := by
  rw [decode_of_odd (by simpa using h), word_halves_append]

/-- Settles O2: a compact word and a 32-bit one by the candidate that the decoder makes of it. -/
theorem decodeOfEncodeIsTheInstruction : Obligations.DecodeOfEncodeIsTheInstruction := by
  intro i e rest hwf he
  cases e with
  | c16 w =>
    obtain ⟨hp, hw⟩ := encode_compact w he
    have hd : decode16 w = .ok i := accept_eq_ok_iff.mpr ⟨hp, hwf, he⟩
    exact (decode_of_even hw rest).trans (by rw [hd]; rfl)
  | c32 w =>
    have hd : decode32 w = .ok i := decode32_eq_ok_iff.mpr ⟨parse32_of_encode he, hwf, he⟩
    exact (decode_halves (encode_word_odd he) rest).trans (by rw [hd]; rfl)

/-- Settles O3: the decoder accepts a candidate that is well formed and encodes to the word it was read from. -/
theorem decodedParcelsAreTheEncoding : Obligations.DecodedParcelsAreTheEncoding := by
  intro ps i n h
  match ps with
  | [] => cases h
  | p :: rest =>
    cases hp : p.getLsbD 0 with
    | false =>
      rw [decode_of_even hp] at h
      cases hd : decode16 p with
      | error err => rw [hd] at h; cases h
      | ok j =>
        rw [hd] at h
        cases h
        obtain ⟨-, hwf, he⟩ := accept_eq_ok_iff.mp hd
        exact ⟨hwf, _, he, rfl, rfl⟩
    | true =>
      match rest with
      | [] => simp [decode, hp] at h
      | q :: rest =>
        rw [decode_of_odd hp] at h
        cases hd : decode32 (q ++ p) with
        | error err => rw [hd] at h; cases h
        | ok j =>
          rw [hd] at h
          cases h
          obtain ⟨-, hwf, he⟩ := decode32_eq_ok_iff.mp hd
          refine ⟨hwf, _, he, ?_, rfl⟩
          rw [Enc.parcels, extract_low q p 0 16 le_rfl, extract_high q p 16 16 le_rfl, extract_all, extract_all]
          rfl

/-- Settles O1: each word by its decoding. -/
theorem workedWordsDecode : Obligations.WorkedWordsDecode :=
  ⟨rfl, rfl, rfl, rfl, rfl, rfl, rfl, rfl, rfl, rfl, rfl, rfl, rfl, rfl, rfl, rfl, rfl, rfl⟩

theorem reservedMajorsAreRefused : Claims.ReservedMajorsAreRefused := by
  intro w rest hw hop
  have hp : parse32 w = .error .reservedMajor := by
    simp only [List.mem_cons, List.not_mem_nil, or_false] at hop
    rcases hop with h | h | h | h | h
    all_goals simp only [parse32, h]
  rw [decode_halves hw, decode32, hp]
  rfl

end Sys2Proof

namespace Sys2Proof.Machine
/-- Code that is no instruction reaches the execution of the illegal word, where no check stands in its way. -/
theorem issueSlot_undecodable {s : State} {k : SlotKey} {t : Thread} {ts : List Thread} (ha : actives (issueState s k) = t :: ts)
    (hl : ∀ u ∈ t :: ts, u.log = none) (hn : nextInstr (issueState s k) t = none)
    (hc : issueChecks (issueState s k) k (t :: ts) none = none) :
    issueSlot k s = exec (.illegalEncoding (badWord (issueState s k) t)) (bumpFree (issueState s k)) := by
  have hdue : ((t :: ts).any fun t => (replayDueOf t).isSome) = false :=
    List.any_eq_false.mpr fun u hu => by simp [replayDueOf, hl u hu]
  simp only [issueSlot, ha, hdue, hn, hc, afterLogs_eq_self _ hl, Bool.false_eq_true, if_false]
  rfl

theorem undecodableWordsTrap : Claims.UndecodableWordsTrap := by
  refine ⟨fun _ _ => rfl, fun s k t ts img err hd hag hk ha hl himg hdec => ⟨badWord (issueState s k) t, ?_⟩⟩
  have hn : nextInstr (issueState s k) t = none := by simp only [nextInstr, instrAt, himg, parcelsAt_eq, hdec]
  have hc : issueChecks (issueState s k) k (t :: ts) none = none := issueChecks_eq_none fun u hu => (hl u hu).2.2
  simp only [step, hd, hag, hk, issue]
  rw [issueSlot_undecodable ha (fun u hu => (hl u hu).2.1) hn hc, ← ha]
  rfl

/-- Settles O4. -/
theorem undecodableCodeTraps : Obligations.UndecodableCodeTraps := ⟨reservedMajorsAreRefused, undecodableWordsTrap⟩
end Sys2Proof.Machine
end

section
/-! ### Looking up what an update has changed -/
namespace Sys2Proof.Machine

section
variable {α : Type} {p q : α → Bool} {f g : α → α} {l : List α} {x : α}

/-- An update that keeps its own test changes the element that the test finds. -/
theorem find?_updWhere (hf : ∀ x, p x = true → p (f x) = true) : (updWhere p f l).find? p = (l.find? p).map f := by
  induction l with
  | nil => rfl
  | cons y ys ih =>
    rw [updWhere, List.map_cons]
    cases h : p y with
    | true => rw [if_pos rfl, List.find?_cons_of_pos (hf y h), List.find?_cons_of_pos h, Option.map_some]
    | false =>
      rw [if_neg Bool.false_ne_true, List.find?_cons_of_neg (by simp [h]), List.find?_cons_of_neg (by simp [h])]
      exact ih

theorem updWhere_updWhere (hf : ∀ x, p x = true → p (f x) = true) :
    updWhere p g (updWhere p f l) = updWhere p (g ∘ f) l := by
  rw [updWhere, updWhere, List.map_map]
  refine List.map_congr_left fun x _ => ?_
  rw [Function.comp_apply]
  cases h : p x with
  | true => rw [if_pos rfl, if_pos (hf x h), if_pos rfl, Function.comp_apply]
  | false => simp [h]

theorem find?_updWhere_of_find (hf : ∀ x, p x = true → p (f x) = true) (h : l.find? p = some x) :
    (updWhere p f l).find? p = some (f x) := by
  rw [find?_updWhere hf, h, Option.map_some]

end

variable {s : State}

theorem setThread_setThread {t u : Thread} (hw : u.wg = t.wg) (ht : u.tid = t.tid) :
    setThread (setThread s t) u = setThread s u := by
  simp only [setThread, updThread, hw, ht]
  rw [updWhere_updWhere (fun _ _ => by simp)]
  rfl

theorem findThread_setThread {t u : Thread} (ht : findThread s t.wg t.tid = some t) (hw : u.wg = t.wg)
    (htid : u.tid = t.tid) : findThread (setThread s u) t.wg t.tid = some u := by
  simp only [findThread, setThread, updThread, hw, htid]
  exact find?_updWhere_of_find (fun _ _ => by simp [hw, htid]) ht

end Sys2Proof.Machine
end

section
/-! ### Pending results, peers, windows and acknowledgements (R79, R192, R197, R307, R313, R318) -/
namespace Sys2Proof.Machine

variable {s : State} {id : Nat} {r : Req}

/-! ### Pending results -/

/-- A running thread only loses its park, when its last result is there. -/
theorem settleThread_of_running {t : Thread} {wg tid n : Nat} (ht : findThread s wg tid = some t)
    (hp : t.place = .running n) :
    settleThread s wg tid = setThread s { t with fl := { t.fl with park := t.fl.park && !t.pend.isEmpty } } := by
  simp only [settleThread, ht]
  cases he : t.pend.isEmpty with
  | true => simp [hp]
  | false =>
    simp only [Bool.false_eq_true, if_false, hp, Bool.not_false, Bool.and_true]
    rw [← hp]

theorem writePending_of_running {t : Thread} {i n : Nat} {ws : List (BitVec 6 × Word)}
    (ht : findThread s t.wg t.tid = some t) (hp : t.place = .running n) : writePending s t i ws =
      setThread s { setRegs t ws with
        pend := t.pend.eraseIdx i
        fl := { t.fl with park := t.fl.park && !(t.pend.eraseIdx i).isEmpty } } := by
  have hkeep := setRegs_changes_only_v t ws
  unfold writePending
  generalize (setRegs t ws).v = v at hkeep
  rw [hkeep]
  have hfind : findThread (setThread s { t with v := v, pend := t.pend.eraseIdx i }) t.wg t.tid = _ :=
    findThread_setThread ht rfl rfl
  exact (settleThread_of_running hfind hp).trans (setThread_setThread rfl rfl)

/-! ### A message that is performed and gone -/

/-- The messages that a thread stops waiting for when one is performed. -/
def endedWaits (s : State) (id : Nat) : List Nat := id :: freedBars s id

/-- A thread stops waiting for messages. -/
def unwaitAll (ids : List Nat) (t : Thread) : Thread := ids.foldl (fun t i => unwait i t) t

theorem unwaitAll_eq (ids : List Nat) (t : Thread) :
    unwaitAll ids t = { t with waits := t.waits.filter fun x => !ids.contains x } := by
  induction ids generalizing t with
  | nil => simp [unwaitAll]
  | cons i ids ih =>
    rw [unwaitAll, List.foldl_cons]
    refine (ih (unwait i t)).trans ?_
    simp only [unwait, List.filter_filter, List.contains_cons]
    congr 1
    refine List.filter_congr fun x _ => ?_
    by_cases h : x = i <;> simp [h]

theorem findThread_finishReq (wg tid : Nat) :
    findThread (finishReq s id) wg tid = (findThread s wg tid).map (unwaitAll (endedWaits s id)) := by
  simp only [findThread, finishReq, List.find?_map]
  congr 2
  funext t
  show (decide ((unwaitAll _ t).wg = wg) && decide ((unwaitAll _ t).tid = tid)) = _
  rw [unwaitAll_eq]

/-- A thread that waits for no message is as before. -/
theorem findThread_finishReq_of_no_waits {t : Thread} {wg tid : Nat} (ht : findThread s wg tid = some t)
    (hw : t.waits = []) : findThread (finishReq s id) wg tid = some t := by
  rw [findThread_finishReq, ht, Option.map_some, unwaitAll_eq, hw]
  show some { t with waits := [] } = _
  rw [← hw]

theorem findThread_bumpCounter (ctx : Nat) (h : Home) (b n wg tid : Nat) :
    findThread (bumpCounter s ctx h b n) wg tid = findThread s wg tid := rfl

/-- What is gone: the message itself, and every wait for it and for the scratch arrivals that it alone held. -/
theorem finishReq_leaves (s : State) (id : Nat) : (∀ q ∈ (finishReq s id).reqs, q.id ≠ id) ∧
    (∀ t ∈ (finishReq s id).threads, id ∉ t.waits) ∧ (finishReq s id).mem = s.mem ∧ (finishReq s id).wgs = s.wgs ∧
    ∀ q ∈ s.reqs, sliceBound q = false → q.stage = .held [id] → ∀ t ∈ (finishReq s id).threads, q.id ∉ t.waits := by
  have hwaits : ∀ t ∈ (finishReq s id).threads, ∀ n ∈ endedWaits s id, n ∉ t.waits := by
    intro t ht n hn
    obtain ⟨u, -, rfl⟩ := List.mem_map.mp ht
    show n ∉ (unwaitAll (endedWaits s id) u).waits
    simp [unwaitAll_eq, hn]
  refine ⟨fun q hq => ?_, fun t ht => hwaits t ht id List.mem_cons_self, rfl, rfl, fun q hq hb hst t ht => ?_⟩
  · obtain ⟨p, hp, rfl⟩ := List.mem_map.mp hq
    have hid : (unhold id p).id = p.id := by unfold unhold; split <;> rfl
    rw [hid]
    simpa using (List.mem_filter.mp hp).2
  · refine hwaits t ht q.id (List.mem_cons_of_mem _ (List.mem_map.mpr ⟨q, List.mem_filter.mpr ⟨hq, ?_⟩, rfl⟩))
    simp [hb, hst]

/-! ### Messages in their order -/

theorem tileNext_eq_false {q : Req} (hq : q ∈ before s r) (hb : (tileBound s q).isSome = true)
    (he : tileBound s q = tileBound s r) (hc : q.src.cluster = r.src.cluster) : tileNext s r = false := by
  rw [tileNext, Bool.and_eq_false_iff]
  exact .inr (List.all_eq_false.mpr ⟨q, hq, by rw [he] at hb; simp [hb, he, hc]⟩)

theorem fillNext_eq_false {q : Req} (hq : q ∈ before s r) (hb : (replyFrom s q).isSome = true)
    (he : replyFrom s q = replyFrom s r) (hc : q.src.cluster = r.src.cluster) : fillNext s r = false := by
  rw [fillNext, Bool.and_eq_false_iff]
  exact .inr (List.all_eq_false.mpr ⟨q, hq, by rw [he] at hb; simp [hb, he, hc]⟩)

theorem tileStep_waits (hr : findReq s id = some r) (hn : tileNext s r = false) :
    Runs (.peerRequest id) s s ∧ Runs (.windowAccess id) s s := by
  constructor
  · show execPeerRequest id s = _
    simp only [execPeerRequest, hr, hn, Bool.not_false, Bool.true_or, if_true]
    split <;> rfl
  · show execWindowAccess id s = _
    simp only [execWindowAccess, hr, hn, Bool.not_false, if_true]
    split <;> rfl

theorem replyStep_waits (hr : findReq s id = some r) (hn : fillNext s r = false) :
    Runs (.lineFill id) s s ∧ Runs (.writeBackAcknowledgement id) s s := by
  constructor
  · show execLineFill id s = _
    simp [execLineFill, hr, hn]
  · show execWriteBackAcknowledgement id s = _
    simp [execWriteBackAcknowledgement, hr, hn]

/-! ### Peers -/

theorem peerLine_eq_some {h : Home} {x : L1Line} (hx : aliasAt s h r.pa = some x) (hf : x.fwd = true)
    (hv : x.valid = 0xFF) (ha : x.asid = asidOf s r.ctx) (hp : peerAnswers s h = true) : peerLine s h r = some x := by
  simp [peerLine, hx, hf, hv, ha, hp]

theorem peerLine_eq_none {h : Home} {x : L1Line} (hx : aliasAt s h r.pa = some x)
    (hn : x.fwd = false ∨ x.valid ≠ 0xFF ∨ x.asid ≠ asidOf s r.ctx ∨ peerAnswers s h = false) :
    peerLine s h r = none := by
  rw [peerLine, hx]
  refine if_neg ?_
  simp only [Bool.and_eq_true, decide_eq_true_eq]
  rintro ⟨⟨⟨h1, h2⟩, h3⟩, h4⟩
  rcases hn with h | h | h | h
  · simp [h1] at h
  · exact h h2
  · exact h h3
  · simp [h4] at h

theorem peersWindowsAndAcknowledgements : Claims.PeersWindowsAndAcknowledgements := by
  refine ⟨fun s id r h hr hst hn => ?peer, fun s id r m n store g hr hk hst hn hg => ?window,
    fun s id r q hr hq hb he hc => tileStep_waits hr (tileNext_eq_false hq hb he hc),
    fun s id r bs x ok hr hst hn => ?ack,
    fun s id r q hr hq hb he hc => replyStep_waits hr (fillNext_eq_false hq hb he hc), finishReq_leaves⟩
  case peer =>
    intro on
    have hrun : lineBlocked s r = false → exec (.peerRequest id) s = match peerLine s h r with
        | some l => .next (serveLine (bumpCounter
            (arrived s { r with stage := .reply (readBytes l.data 0 128) none true, loc := 1000 + h.cluster }) r.ctx r.src 4 1)
            (reqSlice s r) r.pa)
        | none => .next on := by
      intro hb
      show execPeerRequest id s = _
      simp only [execPeerRequest, hr, hst, hn, hb, Bool.not_true, Bool.or_self, Bool.false_eq_true, if_false]
      rfl
    refine ⟨fun hb => ?_, fun hb ha => ?_, fun hb x hx => ⟨fun hf hv has hp => ?_, fun hno => ?_⟩⟩
    · show execPeerRequest id s = _
      simp only [execPeerRequest, hr, hst, hb, Bool.or_true, if_true]
    · have hl : peerLine s h r = none := by rw [peerLine, ha]
      rw [Runs, hrun hb, hl]
    · rw [Runs, hrun hb, peerLine_eq_some hx hf hv has hp]
    · rw [Runs, hrun hb, peerLine_eq_none hx hno]
  case window =>
    refine ⟨fun bs hbs => ?_, fun hbs => ?_⟩
    all_goals
      subst hbs
      show execWindowAccess id s = _
      simp only [execWindowAccess, hr, hk, hst, hn, hg, Bool.not_true, Bool.false_eq_true, if_false]
      rw [← hk]
      rfl
  case ack =>
    intro gone taken there
    refine ⟨fun hk => ?_, fun ⟨fn, operand, out, hk⟩ => ?_, fun ⟨q, d, hk⟩ => ?_⟩
    · show execWriteBackAcknowledgement id s = _
      rcases hk with ⟨p, hk⟩ | ⟨mode, p, hk⟩ | ⟨m, p, n, hk⟩ | ⟨hacq, e, op, w64, p, hk⟩
      · simp only [execWriteBackAcknowledgement, hr, hst, hn, hk]
        rfl
      · simp only [execWriteBackAcknowledgement, hr, hst, hn, hk]
        rfl
      · simp only [execWriteBackAcknowledgement, hr, hst, hn, hk]
        rfl
      · simp only [execWriteBackAcknowledgement, hr, hst, hn, hk, atomAcked, hacq, Bool.false_eq_true, if_false]
        rfl
    · show execWriteBackAcknowledgement id s = _
      have hid : r.id = id := by simpa using List.find?_some hr
      simp only [execWriteBackAcknowledgement, hr, hst, hn, hk, takeAnswer, hid]
      rfl
    · show execLineFill id s = _
      have hid : r.id = id := by simpa using List.find?_some hr
      simp only [execLineFill, hr, hst, hn, hk, takeAnswer, hid]
      rfl

/-! ### The line that a fill fills (R307) -/

theorem sumNat_append (xs ys : List Nat) : sumNat (xs ++ ys) = sumNat xs + sumNat ys := by
  induction xs with
  | nil => simp [sumNat]
  | cons x xs ih => rw [List.cons_append, sumNat, sumNat, ih, Nat.add_assoc]

theorem testBit_sum_bits {p : Nat → Bool} (n : Nat) :
    sumNat ((List.range n).map fun i => if p i then 2 ^ i else 0) < 2 ^ n ∧
      ∀ j, j < n → (sumNat ((List.range n).map fun i => if p i then 2 ^ i else 0)).testBit j = p j := by
  induction n with
  | zero => simp [sumNat]
  | succ n ih =>
    obtain ⟨hlt, hbit⟩ := ih
    simp only [List.range_succ, List.map_append, List.map_cons, List.map_nil, sumNat_append, sumNat, Nat.add_zero]
    generalize sumNat ((List.range n).map fun i => if p i then 2 ^ i else 0) = x at hlt hbit
    refine ⟨?_, fun j hj => ?_⟩
    · rw [pow_succ]; split <;> omega
    · rcases Nat.lt_succ_iff_lt_or_eq.mp hj with h | rfl
      · cases p n with
        | true => rw [if_pos rfl, Nat.add_comm, Nat.testBit_two_pow_add_gt h, hbit j h]
        | false => rw [if_neg Bool.false_ne_true, Nat.add_zero, hbit j h]
      · cases hp : p j with
        | true => rw [if_pos rfl, Nat.add_comm, Nat.testBit_two_pow_add_eq, Nat.testBit_lt_two_pow hlt]; rfl
        | false => rw [if_neg Bool.false_ne_true, Nat.add_zero, Nat.testBit_lt_two_pow hlt]

theorem getLsbD_bitsWhere {n j : Nat} {p : Nat → Bool} (hj : j < n) : (bitsWhere n p).getLsbD j = p j := by
  rw [bitsWhere, BitVec.getLsbD_ofNat, (testBit_sum_bits n).2 j hj]
  simp [hj]

/-- Bytes written one after another where a test holds. -/
theorem readByte_writeWhere {c : Nat → Bool} {v : Nat → Byte} {m : Memory} (hm : Memory.wf m = true) (n j : Nat) :
    Memory.wf ((List.range n).foldl (fun d i => if c i then writeByte d i (v i) else d) m) = true ∧
      readByte ((List.range n).foldl (fun d i => if c i then writeByte d i (v i) else d) m) j =
        if j < n ∧ c j = true then v j else readByte m j := by
  induction n with
  | zero => simp [hm]
  | succ n ih =>
    rw [List.range_succ, List.foldl_append, List.foldl_cons, List.foldl_nil]
    generalize (List.range n).foldl (fun d i => if c i then writeByte d i (v i) else d) m = d at ih
    obtain ⟨hwf, hread⟩ := ih
    cases hc : c n with
    | true =>
      rw [if_pos rfl]
      refine ⟨writeByte_wf _ _ _ hwf, ?_⟩
      rw [readByte_writeByte hwf, hread]
      by_cases hj : j = n
      · simp [hj, hc]
      · rw [if_neg hj]
        exact if_congr (and_congr_left fun _ => by omega) rfl rfl
    | false =>
      rw [if_neg Bool.false_ne_true]
      refine ⟨hwf, hread.trans (if_congr ?_ rfl rfl)⟩
      constructor
      · rintro ⟨h1, h2⟩
        exact ⟨by omega, h2⟩
      · rintro ⟨h1, h2⟩
        refine ⟨Nat.lt_of_le_of_ne (Nat.lt_succ_iff.mp h1) ?_, h2⟩
        rintro rfl
        rw [hc] at h2
        cases h2

theorem sectorDirty_eq_false {l : L1Line} {i : Nat} (h : ∀ j, j < 16 → l.mask.getLsbD (16 * i + j) = false) :
    sectorDirty l i = false := by
  rw [sectorDirty, List.any_eq_false]
  intro j hj
  simp [h j (List.mem_range.mp hj)]

theorem mem_setLine {l x : L1Line} (hx : x ∈ s.l1) (hh : x.home = l.home) (hp : x.pline = l.pline) :
    l ∈ (setLine s l).l1 :=
  List.mem_map.mpr ⟨x, hx, by simp [hh, hp]⟩

theorem lineFill_fills (s : State) (h : Home) (ctx wg va pa ways z : Nat) (fwd : Bool) (bs : List Byte) (x : L1Line)
    (hx : lineAt s h (asidOf s ctx) va = some x) (hwf : Memory.wf x.data = true) :
    ∃ y ∈ (l1Fill s h ctx wg va pa ways z fwd bs).l1, y.home = x.home ∧ y.pline = x.pline ∧ y.mask = x.mask ∧
      ∀ j, j < 128 →
        (x.mask.getLsbD j = true → readByte y.data j = readByte x.data j) ∧
        (x.mask.getLsbD j = false → (va % 128 < 16 * (j / 16) + 16 ∧ 16 * (j / 16) < va % 128 + z ∧ 0 < z) ∨
            (∀ i, i < 16 → x.mask.getLsbD (16 * (j / 16) + i) = false) →
          readByte y.data j = (bs[j]?).getD 0 ∧ y.valid.getLsbD (j / 16) = true) := by
  have halloc : allocLine s h ctx wg va pa ways = (s, x) := by simp only [allocLine, hx]
  have hmem : x ∈ s.l1 := List.mem_of_find?_eq_some hx
  simp only [l1Fill, halloc]
  refine ⟨_, mem_setLine hmem rfl rfl, rfl, rfl, rfl, fun j hj => ⟨fun hm => ?_, fun hm hor => ?_⟩⟩
  · dsimp only
    rw [(readByte_writeWhere hwf 128 j).2, if_neg (by simp [hm])]
  · have hfill : (decide (0 < z) && decide (va % 128 / 16 ≤ j / 16) && decide (16 * (j / 16) < va % 128 + z) ||
        !sectorDirty x (j / 16)) = true := by
      rcases hor with ⟨h1, h2, h3⟩ | hclean
      · have hle : va % 128 / 16 ≤ j / 16 := by omega
        simp [h2, h3, hle]
      · simp [sectorDirty_eq_false hclean]
    constructor
    · dsimp only
      rw [(readByte_writeWhere hwf 128 j).2, if_pos ⟨hj, by rw [hfill, hm]; rfl⟩]
    · dsimp only
      rw [getLsbD_bitsWhere (by omega), hfill, Bool.or_true]

/-! ### The step that writes a pending result -/

section
variable {k : SeatKey} {i : Nat} {t : Thread} (hs : findSeat s k = some t) (ht : findThread s t.wg t.tid = some t)
  (hw : t.waits = [])
include hs

theorem pendingValue_is_written {ws : List (BitVec 6 × Word)} (hp : t.pend[i]? = some (.value ws)) :
    Runs (.pendingResultWrite k i) s (writePending s t i ws) := by
  show execPendingResultWrite k i s = _
  simp only [execPendingResultWrite, hs, hp]

theorem tileStat_is_written {n : Nat} {cmds : List Nat} {dst : BitVec 6}
    (hp : t.pend[i]? = some (.tileStat n cmds dst)) (hc : ∀ c ∈ cmds, findCmd s c = none) :
    Runs (.pendingResultWrite k i) s (writePending s t i [(dst, tileStatWord s t n)]) := by
  have hany : (cmds.any fun c => (findCmd s c).isSome) = false := List.any_eq_false.mpr fun c h => by simp [hc c h]
  show execPendingResultWrite k i s = _
  simp only [execPendingResultWrite, hs, hp, hany, Bool.false_eq_true, if_false]

theorem tileQuery_is_written {cmds : List Nat} {dst : BitVec 6}
    (hp : t.pend[i]? = some (.tileQuery cmds dst)) (hc : ∀ c ∈ cmds, findCmd s c = none) :
    Runs (.pendingResultWrite k i) s (writePending s t i [(dst, tileQueryWord s t)]) := by
  have hany : (cmds.any fun c => (findCmd s c).isSome) = false := List.any_eq_false.mpr fun c h => by simp [hc c h]
  show execPendingResultWrite k i s = _
  simp only [execPendingResultWrite, hs, hp, hany, Bool.false_eq_true, if_false]

include ht hw

theorem windowLoad_is_written {a : Access} {va m n : Nat} {got : Patch} {dst : BitVec 6} {bs : List Byte}
    {x : Option Home} {ok : Bool} (hp : t.pend[i]? = some (.load id a va got dst)) (hr : findReq s id = some r)
    (hk : r.kind = .window m none n) (hst : r.stage = .reply bs x ok) (hn : fillNext s r = true) :
    Runs (.pendingResultWrite k i) s
      (writePending (finishReq (bumpCounter s r.ctx r.src 12 1) id) t i (loadWrites a dst bs)) := by
  have hfind : findThread (finishReq (bumpCounter s r.ctx r.src 12 1) id) t.wg t.tid = some t :=
    findThread_finishReq_of_no_waits ((findThread_bumpCounter ..).trans ht) hw
  show execPendingResultWrite k i s = _
  simp only [execPendingResultWrite, hs, hp, hr, hk, hst, hn, hfind, Bool.not_true, Bool.false_eq_true, if_false]

theorem atomValue_is_written {x2 : Bool} {dst : BitVec 6} {bs : List Byte} {x : Option Home} {ok : Bool}
    (hp : t.pend[i]? = some (.atom id x2 dst)) (hr : findReq s id = some r) (hst : r.stage = .reply bs x ok)
    (hn : fillNext s r = true) (ha : r.acquire = false) :
    Runs (.pendingResultWrite k i) s
      (writePending (finishReq (bumpCounter s r.ctx r.src 12 1) id) t i (oldWrites x2 dst bs)) := by
  have hid : r.id = id := by simpa using List.find?_some hr
  have hfind : findThread (finishReq (bumpCounter s r.ctx r.src 12 1) id) t.wg t.tid = some t :=
    findThread_finishReq_of_no_waits ((findThread_bumpCounter ..).trans ht) hw
  show execPendingResultWrite k i s = _
  simp only [execPendingResultWrite, hs, hp, hr, hst, hn, atomReturned, ha, hid, hfind, Bool.false_eq_true, if_true,
    if_false]

end

theorem trainPredictor_of_plain (hf : r.fwd = false) (reader : Option Home) : trainPredictor s r reader = s := by
  unfold trainPredictor
  split
  · simp [hf]
  · rfl

theorem installLine_of_no_install (hi : r.install = false) (bs : List Byte) : installLine s r bs = s := by
  unfold installLine
  split
  · rfl
  · split
    · rfl
    · simp [hi]

theorem lineFill_completes_load {n i va : Nat} {bs : List Byte} {x : Option Home} {ok : Bool} {t : Thread} {k : Access}
    {got : Patch} {dst : BitVec 6} (hr : findReq s id = some r) (hk : r.kind = .read n) (hst : r.stage = .reply bs x ok)
    (hn : fillNext s r = true) (hi : r.install = false) (hf : r.fwd = false) (ht : findThread s r.wg r.tid = some t)
    (hw : t.waits = []) (hl : pendingLoad t id = some i) (hp : t.pend[i]? = some (.load id k va got dst)) :
    Runs (.lineFill id) s (writePending (finishReq (bumpCounter s r.ctx r.src 12 1) id) t i
      (loadWrites k dst (loadBytes va r.pa k.size got bs))) := by
  have hid : r.id = id := by simpa using List.find?_some hr
  have hfind : findThread (finishReq (bumpCounter s r.ctx r.src 12 1) id) r.wg r.tid = some t :=
    findThread_finishReq_of_no_waits ((findThread_bumpCounter ..).trans ht) hw
  show execLineFill id s = _
  simp only [execLineFill, hr, hk, hst, hn, trainPredictor_of_plain hf, installLine_of_no_install hi, completeLoad, hfind,
    hid, hl, hp]

theorem getElem?_loadBytes {va pa z j : Nat} {got : Patch} {bytes : List Byte} (hj : j < z) :
    (loadBytes va pa z got bytes)[j]? =
      some (match patchGet got (va + j) with | some b => b | none => (bytes[(pa + j) % 128]?).getD 0) :=
  List.getElem?_map.trans (congrArg (Option.map _) (List.getElem?_range hj))

theorem pendingResultsAreWritten : Claims.PendingResultsAreWritten :=
  ⟨fun _ _ _ _ _ ht hp => writePending_of_running ht hp,
    fun t ws hn => ⟨fun _ hw => getV_setRegs_of_mem hn hw,
      fun r hr => getV_setRegs_of_notMem fun hm => by
        obtain ⟨w, hw, rfl⟩ := List.mem_map.mp hm
        exact hr w hw rfl,
      setRegs_changes_only_v t ws⟩,
    fun _ _ _ _ hs ht hw => ⟨fun _ hp => pendingValue_is_written hs hp,
      fun _ _ _ _ _ _ _ _ _ _ _ hp hr hk hst hn => windowLoad_is_written hs ht hw hp hr hk hst hn,
      fun _ _ _ _ _ _ _ hp hr hst hn ha => atomValue_is_written hs ht hw hp hr hst hn ha,
      fun _ _ _ hp hc => tileStat_is_written hs hp hc, fun _ _ hp hc => tileQuery_is_written hs hp hc⟩,
    fun _ _ _ _ _ _ _ _ _ _ _ _ _ hr hk hst hn hi hf ht hw hl hp =>
      lineFill_completes_load hr hk hst hn hi hf ht hw hl hp,
    fun s h ctx wg va pa ways z fwd bs x hx hwf _ _ => lineFill_fills s h ctx wg va pa ways z fwd bs x hx hwf,
    fun _ _ _ _ _ _ hj _ => getElem?_loadBytes hj⟩

/-- Settles O37: messages by what stands before them and what their step leaves, results by the registers they write. -/
theorem messagesAndPendingResults : Obligations.MessagesAndPendingResults :=
  ⟨peersWindowsAndAcknowledgements, pendingResultsAreWritten⟩

end Sys2Proof.Machine
end

section
/-! ### Workgroups are placed, start, end and move (R97, R167, R250, R251, R267, R302)

What the operations of a workgroup's life that act on other parts of the state leave of the workgroups: all of them. -/
namespace Sys2Proof.Machine

variable {s : State}

theorem foldList_wgs {α : Type} {f : State → α → State} (hf : ∀ s x, (f s x).wgs = s.wgs) (s : State) (xs : List α) :
    (foldList f s xs).wgs = s.wgs :=
  foldList_keeps (P := fun s' : State => s'.wgs = s.wgs) rfl fun s' x _ h => (hf s' x).trans h

/-! ### The trace (R459, R460) -/

theorem physWrite_wgs (s : State) (pa : Nat) (bs : List Byte) : (physWrite s pa bs).wgs = s.wgs := rfl

@[simp] theorem ringPut_wgs (s : State) (base index rlog prod drops : Nat) (bs : List Byte) :
    (ringPut s base index rlog prod drops bs).1.wgs = s.wgs := by
  unfold ringPut
  split
  · dsimp only
    rw [physWrite_wgs]
  · dsimp only
    rw [physWrite_wgs, physWrite_wgs]

@[simp] theorem tracePut_wgs (s : State) (ctx : Nat) (bs : List Byte) : (tracePut s ctx bs).wgs = s.wgs := by
  unfold tracePut
  split
  · rfl
  · split
    · rfl
    · dsimp only
      rw [updCtx_wgs, ringPut_wgs]

theorem takeSample_wgs (s : State) (ctx : Nat) : (takeSample s ctx).wgs = s.wgs := by
  have hcore (ctx clock : Nat) (h : Home) (s : State) (core : Nat) : (sampleCore ctx clock h s core).wgs = s.wgs :=
    tracePut_wgs ..
  unfold takeSample
  split
  · rfl
  · split
    · exact foldList_wgs (fun s h => foldList_wgs (fun s c => hcore ..) s _) _ _
    · rfl

theorem takeSamples_wgs (s : State) (ctx : Nat) : (takeSamples s ctx).wgs = s.wgs := by
  unfold takeSamples
  generalize List.range (samplesDue s ctx) = xs
  induction xs generalizing s with
  | nil => rfl
  | cons x xs ih => rw [List.foldl_cons, ih, takeSample_wgs]

@[simp] theorem traceEvent_wgs (s : State) (g : Workgroup) (kind detail : Nat) (ord parent mask : Word) :
    (traceEvent s g kind detail ord parent mask).wgs = s.wgs := by
  unfold traceEvent
  split
  · rfl
  · split
    · rfl
    · split
      · rw [tracePut_wgs, takeSamples_wgs]
      · rfl

/-! ### Records (R263, R264) -/

@[simp] theorem vwrite_wgs (s : State) (ctx va : Nat) (bs : List Byte) : (vwrite s ctx va bs).wgs = s.wgs := by
  unfold vwrite
  split <;> rfl

@[simp] theorem vwriteSplit_wgs (s : State) (ctx va : Nat) (bs : List Byte) : (vwriteSplit s ctx va bs).wgs = s.wgs := by
  unfold vwriteSplit
  dsimp only
  split
  · rw [vwrite_wgs, vwrite_wgs]
  · rw [vwrite_wgs]

@[simp] theorem poolWrite_wgs (s : State) (r : Record) : (poolWrite s r).wgs = s.wgs := by
  unfold poolWrite
  split
  · split
    · exact vwriteSplit_wgs ..
    · rfl
  · rfl

@[simp] theorem makeRoom_wgs (s : State) (cluster need fuel : Nat) : (makeRoom s cluster need fuel).wgs = s.wgs := by
  induction fuel generalizing s with
  | zero => rfl
  | succ fuel ih =>
    unfold makeRoom
    split
    · rfl
    · split
      · rfl
      · rw [ih, updRecord_wgs, poolWrite_wgs]

@[simp] theorem bufferRecord_wgs (s : State) (id : Nat) : (bufferRecord s id).wgs = s.wgs := by
  unfold bufferRecord
  split
  · rfl
  · split
    · rfl
    · exact makeRoom_wgs ..

@[simp] theorem refillRecordBins_wgs (s : State) (cluster : Nat) : (refillRecordBins s cluster).wgs = s.wgs := by
  refine foldList_wgs (fun s r => ?_) _ _
  dsimp only
  split <;> rfl

@[simp] theorem settleRecords_wgs (s : State) (wg cluster : Nat) (ids : List Nat) :
    (settleRecords s wg cluster ids).wgs = s.wgs := by
  rw [settleRecords, refillRecordBins_wgs, foldList_wgs bufferRecord_wgs]

/-! ### Banks, queues, predictors and images -/

theorem invalidateLine_wgs (s : State) (l : L1Line) (ctx wg tid : Nat) : (invalidateLine s l ctx wg tid).1.wgs = s.wgs := by
  have hsend (s : State) (r : Req) : (sendCounted s r).wgs = s.wgs := rfl
  have hset (s : State) (l : L1Line) : (setLine s l).wgs = s.wgs := rfl
  have hback : (writeBackLine s l ctx wg tid).1.wgs = s.wgs := by
    unfold writeBackLine writeBackSectors
    extract_lets bytes n s1 r
    split
    · rfl
    · exact (hsend s1 r).trans (hset ..)
  exact hback

@[simp] theorem prepareHome_wgs (s : State) (h : Home) (ctx : Nat) (plan : Word) : (prepareHome s h ctx plan).wgs = s.wgs :=
  foldList_wgs (fun _ _ => invalidateLine_wgs ..) _ _

@[simp] theorem readAgain_wgs (s : State) (l : Launch) : (readAgain s l).wgs = s.wgs := by
  have hfreeze : (freezeQueue s l.ctx l.queue).wgs = s.wgs := by
    show (withQueue s l.ctx l.queue _).wgs = s.wgs
    unfold withQueue
    split
    · exact vwrite_wgs ..
    · rfl
  unfold readAgain
  split
  · rfl
  · split
    · split
      · rfl
      · exact hfreeze
    · rfl

@[simp] theorem clearPredictor_wgs (s : State) (h : Home) (launch : Nat) : (clearPredictor s h launch).wgs = s.wgs := by
  unfold clearPredictor
  split <;> rfl

@[simp] theorem rekeyCmds_wgs (s : State) (wg a b : Nat) : (rekeyCmds s wg a b).wgs = s.wgs := by
  unfold rekeyCmds
  split <;> rfl

/-! ### Looking up a workgroup -/

theorem findWg_congr {s s' : State} (h : s'.wgs = s.wgs) (id : Nat) : findWg s' id = findWg s id := by
  unfold findWg
  rw [h]

theorem findWg_id {wg : Nat} {g : Workgroup} (hg : findWg s wg = some g) : g.id = wg := by
  simpa using List.find?_some hg

/-- A workgroup found after an update that keeps its number. -/
theorem findWg_updWg {wg : Nat} {g : Workgroup} {f : Workgroup → Workgroup} (hg : findWg s wg = some g)
    (hf : ∀ h, (f h).id = h.id) : findWg (updWg s wg f) wg = some (f g) :=
  find?_updWhere_of_find (fun x hx => by simpa [hf x] using hx) hg

/-- An update of any workgroup that keeps its number keeps what it keeps of every workgroup. -/
theorem findWg_updWg_keeps {wg id : Nat} {P : Workgroup → Prop} {f : Workgroup → Workgroup} (hf : ∀ h, (f h).id = h.id)
    (hP : ∀ h, P h → P (f h)) (hg : ∃ g, findWg s wg = some g ∧ P g) : ∃ h, findWg (updWg s id f) wg = some h ∧ P h := by
  obtain ⟨g, hg, hPg⟩ := hg
  by_cases hid : id = wg
  · subst hid
    exact ⟨f g, findWg_updWg hg hf, hP g hPg⟩
  · refine ⟨g, ?_, hPg⟩
    have hsame : ∀ x : Workgroup, decide ((if decide (x.id = id) = true then f x else x).id = wg) = decide (x.id = wg) := by
      intro x
      split
      · rw [hf]
      · rfl
    show (updWhere _ f s.wgs).find? _ = some g
    rw [updWhere, List.find?_map]
    simp only [Function.comp_def, hsame]
    rw [show s.wgs.find? (fun x => decide (x.id = wg)) = some g from hg, Option.map_some, findWg_id hg]
    simp [Ne.symm hid]

theorem countWg_keeps {wg id : Nat} {P : Workgroup → Prop} (hP : ∀ h c, P h → P { h with cover := c })
    (hg : ∃ g, findWg s wg = some g ∧ P g) : ∃ h, findWg (countWg s id) wg = some h ∧ P h := by
  unfold countWg
  split
  · split
    · exact hg
    · exact findWg_updWg_keeps (fun _ => rfl) (fun h => hP h _) hg
  · exact hg

/-! ### Placing (R250, R300) -/

section
variable {n : Nat} {l l' : Launch} {v : VDev} {hs : List Home} (hl : findLaunch s n = some l)
  (hv : vdOfCtx s l.ctx = some v) (hn : nextPlaced s v = some (l', hs))
include hl hv hn

theorem execWorkgroupPlace_of_next : execWorkgroupPlace n s =
    if l'.id ≠ n then .next s
    else if l.phase = .accepted then
      if writesUnderWay s v || linesWait s (vdHomes s v) then .next s
      else .next (placeAll v n (boundary s v n hs) hs)
    else .next (placeAll v n s hs) := by
  simp only [execWorkgroupPlace, hl, hv, hn]

theorem workgroupPlace_takes_the_homes :
    (l'.id ≠ n → Runs (.workgroupPlace n) s s) ∧
    (l'.id = n → l.phase ≠ .accepted → Runs (.workgroupPlace n) s (placeAll v n s hs)) ∧
    (l'.id = n → l.phase = .accepted → writesUnderWay s v = false → linesWait s (vdHomes s v) = false →
      Runs (.workgroupPlace n) s (placeAll v n (boundary s v n hs) hs)) ∧
    (l'.id = n → l.phase = .accepted → writesUnderWay s v = true ∨ linesWait s (vdHomes s v) = true →
      Runs (.workgroupPlace n) s s) := by
  have hrun : exec (.workgroupPlace n) s = _ := execWorkgroupPlace_of_next hl hv hn
  refine ⟨fun h => ?_, fun h hp => ?_, fun h hp hw hx => ?_, fun h hp hw => ?_⟩
  · rw [Runs, hrun, if_pos h]
  · rw [Runs, hrun, if_neg (not_not.mpr h), if_neg hp]
  · rw [Runs, hrun, if_neg (not_not.mpr h), if_pos hp, hw, hx]
    rfl
  · rw [Runs, hrun, if_neg (not_not.mpr h), if_pos hp, if_pos (Bool.or_eq_true_iff.mpr hw)]

end

theorem newWg_begins_empty (s : State) (v : VDev) (l : Launch) (h : Home) (wgid pos : Nat) :
    (∀ n : Nat, n < 16 → guardState (newWg s v l h wgid pos) n = .idle) ∧
    ∀ (n : Nat) (hn : n < 32), (newWg s v l h wgid pos).k[n] = if n < 16 then (l.lr.k[n]?).getD 0 else 0 := by
  refine ⟨fun n hn => ?_, fun n hn => ?_⟩
  · simp [guardState, newWg, hn]
  · simp [newWg]

/-! ### The start of a workgroup (R97, R204, R302) -/

theorem newRings_empty (k : KernelDecl) : (newRings k).length = k.rings.length ∧
    ∀ r ∈ newRings k, r.empty = true ∧ r.grant = none ∧ r.reserve = none := by
  refine ⟨?_, fun r hr => ?_⟩
  · rw [newRings, List.length_filterMap_eq_countP, List.countP_eq_length.mpr, List.length_range]
    intro i hi
    simp [List.mem_range.mp hi]
  · obtain ⟨i, -, hi⟩ := List.mem_filterMap.mp hr
    obtain ⟨x, -, rfl⟩ := Option.map_eq_some_iff.mp hi
    exact ⟨rfl, rfl, rfl⟩

theorem workgroupStart_runs {wg : Nat} {g : Workgroup} {l : Launch} (hg : findWg s wg = some g)
    (hl : findLaunch s g.launch = some l) : exec (.workgroupStart wg) s =
      if g.phase = .placed ∧ g.stop = .none then
        .next (foldList startWg s (((membersOf s l g).filter fun m => decide (m.phase = .placed)).map Workgroup.id))
      else .next s := by
  show execWorkgroupStart wg s = _
  simp only [execWorkgroupStart, hg, hl, Option.bind_some]

theorem startWg_starts {wg : Nat} {g : Workgroup} {l : Launch} {img : ModuleImage} {k : KernelDecl}
    (hg : findWg s wg = some g) (hl : findLaunch s g.launch = some l) (hi : imageOf s g.launch = some img)
    (hk : kernelOf s g.launch = some k) : findWg (startWg s wg) wg = some { g with
      phase := .running
      started := true
      scratch := writeBytes [] 0 (bytesOfWords img.data)
      rings := newRings k } := by
  simp only [startWg, hg, hl, hi, hk]
  refine findWg_updWg ?_ fun _ => rfl
  rw [findWg_congr (s := s) (by simp), hg]

/-! ### The end of a workgroup (R167, R251) -/

/-- What a workgroup that has ended holds no more. -/
def Emptied (g : Workgroup) : Prop :=
  g.phase = .ended ∧ g.tiles = [] ∧ g.rowNan = [] ∧ g.btier = [] ∧ g.handles = []

theorem mayEnd_iff_nothing_left {g : Workgroup} (h : mayEnd s g = true) :
    allCreated g = true ∧ (∀ t ∈ s.threads, t.wg ≠ g.id) ∧ (∀ r ∈ s.records, r.th.wg ≠ g.id) ∧
      ∀ c ∈ s.cmds, c.wg ≠ g.id := by
  simp only [mayEnd, Bool.and_eq_true, Bool.not_eq_true', List.any_eq_false, decide_eq_true_eq] at h
  obtain ⟨⟨⟨⟨⟨-, hall⟩, hthreads⟩, hrecords⟩, hcmds⟩, -⟩ := h
  exact ⟨hall, hthreads, hrecords, hcmds⟩

theorem workgroupEnd_waits {wg : Nat} {g : Workgroup} {l : Launch} (hg : findWg s wg = some g)
    (hl : findLaunch s g.launch = some l) (hm : mayEnd s g = false) : Runs (.workgroupEnd wg) s s := by
  show execWorkgroupEnd wg s = _
  simp only [execWorkgroupEnd, hg, hl, hm, Option.bind_some, Bool.not_false, if_true]

theorem workgroupEnd_empties {wg : Nat} {g : Workgroup} {l : Launch} (hg : findWg s wg = some g)
    (hl : findLaunch s g.launch = some l) (hm : mayEnd s g = true) :
    Reaches (.workgroupEnd wg) s fun s' => ∃ h, findWg s' wg = some h ∧ Emptied h ∧ (nbSize l = 0 → h.scratch = []) := by
  have hid : g.id = wg := findWg_id hg
  show ∃ s', execWorkgroupEnd wg s = .next s' ∧ _
  simp only [execWorkgroupEnd, hg, hl, hm, Option.bind_some, Bool.not_true, Bool.false_eq_true, if_false]
  refine ⟨_, rfl, countWg_keeps (P := fun h => Emptied h ∧ (nbSize l = 0 → h.scratch = [])) (fun _ _ h => h) ?_⟩
  generalize hs1 : updWg (captureEnd s l g) wg _ = s1
  generalize hs3 : traceEvent _ g 7 g.rung 0xFFFFFFFF 0 0 = s3
  obtain ⟨h, hh, hempty⟩ : ∃ h, findWg s1 wg = some h ∧ Emptied h := by
    obtain ⟨g', hg', -⟩ : ∃ g', findWg (captureEnd s l g) wg = some g' ∧ True :=
      findWg_updWg_keeps (fun _ => rfl) (fun _ _ => trivial) ⟨g, hg, trivial⟩
    subst hs1
    exact ⟨_, findWg_updWg hg' fun _ => rfl, rfl, rfl, rfl, rfl, rfl⟩
  have hh3 : findWg s3 wg = some h := by
    rw [← hh]
    refine findWg_congr ?_ wg
    rw [← hs3, traceEvent_wgs]
    rfl
  rw [hh3, Option.getD_some]
  by_cases hn : nbSize l = 0
  · have hms : membersOf s3 l h = [h] := if_pos hn
    have hhid : h.id = wg := findWg_id hh
    rw [hms, if_pos (by simp [hempty.1]), foldList, foldList, hhid]
    exact ⟨_, findWg_updWg hh3 fun _ => rfl, hempty, fun _ => rfl⟩
  · have hkeep (c : Prop) [Decidable c] : ∃ h', findWg (if c then
          foldList (fun s m => updWg s m.id fun m => { m with scratch := [] }) s3 (membersOf s3 l h) else s3) wg = some h' ∧
        Emptied h' := by
      split
      · exact foldList_keeps (P := fun s' => ∃ h, findWg s' wg = some h ∧ Emptied h) ⟨h, hh3, hempty⟩
          fun s' m _ hs' => findWg_updWg_keeps (fun _ => rfl) (fun _ hP => hP) hs'
      · exact ⟨h, hh3, hempty⟩
    obtain ⟨h', hh', hempty'⟩ := hkeep ((membersOf s3 l h).all fun m => decide (m.phase = .ended))
    exact ⟨h', hh', hempty', fun h0 => absurd h0 hn⟩

/-! ### Moves of a workgroup that is in no neighbourhood (R267, R428, R434) -/

section
variable {wg dest : Nat} {g : Workgroup} {l : Launch} {v : VDev} {c : Context} (hg : findWg s wg = some g)
  (hl : findLaunch s g.launch = some l) (hv : vdOfCtx s g.ctx = some v) (hc : findCtx s g.ctx = some c)

theorem membersOf_alone (hn : nbSize l = 0) : membersOf s l g = [g] := if_pos hn

theorem moveTargets_alone (hn : nbSize l = 0) (side : Nat) : moveTargets s l g dest side = [(g, some ⟨dest, side⟩)] := by
  rw [moveTargets, membersOf_alone hn]
  simp

include hg hl hv hc

theorem workgroupMove_of_frozen (hf : c.frozen = true) : Runs (.workgroupMove wg dest) s s := by
  show execWorkgroupMove wg dest s = _
  simp only [execWorkgroupMove, hg, hl, hv, hc, hf, Option.bind_some, Bool.not_true, Bool.and_false, Bool.not_false,
    Bool.true_or, if_true]

variable (hn : nbSize l = 0) (hstop : c.stop = .none) (hfree : c.frozen = false)
  (hat : (⟨dest, VdShape.sideNum v.shape⟩ : Home) ∈ freeHomes s v)
include hn hstop hfree hat

theorem workgroupMove_alone (hp : g.phase ≠ .ended) : exec (.workgroupMove wg dest) s =
    if restorable s g = true then .next (comeBack v l s [(g, ⟨dest, VdShape.sideNum v.shape⟩)])
    else if g.phase ≠ .running then .next s
    else if mayMove s g = true then .next (beginMove s (g, some ⟨dest, VdShape.sideNum v.shape⟩))
    else .next (stopWg 1 s wg) := by
  have hid : g.id = wg := findWg_id hg
  show execWorkgroupMove wg dest s = _
  simp only [execWorkgroupMove, hg, hl, hv, hc, hstop, hfree, Option.bind_some, moveTargets_alone hn]
  simp only [imagedWith, membersOf_alone hn, List.filter_cons, List.filter_nil, hp, decide_false, Bool.not_false,
    if_true, List.all_cons, List.all_nil, List.contains_iff_mem.mpr hat, Bool.and_true, List.any_cons, List.any_nil,
    Bool.or_false, List.isEmpty_cons, decide_true, Bool.not_true, Bool.or_self, Bool.false_eq_true, if_false,
    decide_eq_true_eq, foldList, List.map_cons, List.map_nil, hid]
  by_cases hr : restorable s g = true
  · rw [if_pos hr, if_pos hr]
    rfl
  · rw [if_neg hr, if_neg hr]
    by_cases hrun : g.phase = .running
    · simp [hrun]
    · simp [hrun]

end

theorem rekeyHalf_keeps (a b : Nat) (g : Workgroup) : (rekeyHalf a b g).id = g.id ∧ (rekeyHalf a b g).home = g.home ∧
    (rekeyHalf a b g).phase = g.phase := by
  unfold rekeyHalf
  split <;> exact ⟨rfl, rfl, rfl⟩

theorem restoreWg_brings_back {wg : Nat} {g : Workgroup} (v : VDev) (l : Launch) {at_ : Home} (hg : findWg s wg = some g)
    (hr : restorable s g = true) : ∃ h, findWg (restoreWg v l s (g, at_)) wg = some h ∧ h.home = at_ ∧
      h.phase = if g.started then .running else .placed := by
  have hid : g.id = wg := findWg_id hg
  have hp : g.phase = .imaged := by
    rw [restorable, Bool.and_eq_true, decide_eq_true_eq] at hr
    exact hr.1
  simp only [restoreWg, hp, ne_eq, not_true_eq_false, if_false, hid]
  refine ⟨_, (findWg_congr (settleRecords_wgs ..) wg).trans (findWg_updWg (g := g) ?_ fun h => (rekeyHalf_keeps ..).1),
    (rekeyHalf_keeps ..).2.1, (rekeyHalf_keeps ..).2.2⟩
  rw [← hg]
  refine findWg_congr ?_ wg
  split
  · rw [prepareHome_wgs, rekeyCmds_wgs]
    exact clearPredictor_wgs ..
  · rw [rekeyCmds_wgs]
    exact clearPredictor_wgs ..

theorem moveComplete_alone {wg : Nat} {g : Workgroup} {l : Launch} {v : VDev} {h : Home} (hg : findWg s wg = some g)
    (hl : findLaunch s g.launch = some l) (hv : vdOfCtx s g.ctx = some v) (hn : nbSize l = 0) (hp : g.phase = .moving h) :
    exec (.moveComplete wg) s =
      if (s.reqs.any fun r => unperformed r && (decide (wg = r.wg) || decide (g.home = r.src))) = true ∨
          tilesHeld s (clusterTile g.home.cluster) (clusterTile h.cluster) = true then .next s
      else .next (refreshSpans (arriveWg v s g) l.id) := by
  have hid : g.id = wg := findWg_id hg
  show execMoveComplete wg s = _
  simp only [execMoveComplete, hg, hl, hv, Option.bind_some, membersOf_alone hn, List.filter_cons, List.filter_nil, hp,
    if_true, List.any_cons, List.any_nil, Bool.or_false, hid, foldList, Bool.true_and]
  cases s.reqs.any fun r => unperformed r && (decide (wg = r.wg) || decide (g.home = r.src)) <;>
    cases tilesHeld s (clusterTile g.home.cluster) (clusterTile h.cluster) <;> simp

/-- Settles O43: the life of a workgroup, from the choice of its homes to its move. -/
theorem workgroupsLiveAndMove : Obligations.WorkgroupsLiveAndMove := by
  refine ⟨fun s n l l' v hs hl hv hn => workgroupPlace_takes_the_homes hl hv hn,
    fun s v l h wgid pos => ⟨rfl, rfl, rfl, rfl, rfl, rfl, rfl, rfl, rfl, rfl, newWg_begins_empty s v l h wgid pos⟩,
    fun s wg g l hg hl => ⟨fun hp => ?_, fun hp hs => ?_, fun img k hi hk => ?_, workgroupEnd_waits hg hl, fun hm => ?_,
      mayEnd_iff_nothing_left⟩,
    fun s wg dest g l v c hg hl hv hc hn => ⟨workgroupMove_of_frozen hg hl hv hc, fun at_ hat hs hf hfree => ?_,
      fun h hp => ?_⟩⟩
  · rw [Runs, workgroupStart_runs hg hl, if_neg fun h => hp h.1]
  · rw [Runs, workgroupStart_runs hg hl, if_pos ⟨hp, hs⟩]
  · exact ⟨_, startWg_starts hg hl hi hk, rfl, rfl, rfl, rfl, newRings_empty k⟩
  · obtain ⟨s', hs', h, hh, ⟨h1, h2, h3, h4, h5⟩, h6⟩ := workgroupEnd_empties hg hl hm
    exact ⟨s', hs', h, hh, h1, h2, h3, h4, h5, h6⟩
  · subst hat
    have hmove := workgroupMove_alone hg hl hv hc hn hs hf hfree
    have hnot : g.phase = .running → ¬ restorable s g = true := fun hp => by simp [restorable, hp]
    refine ⟨fun hp hm => ?_, fun hp hm => ?_, fun hr => ⟨?_, restoreWg_brings_back v l hg hr⟩⟩
    · rw [Runs, hmove (by simp [hp]), if_neg (hnot hp), if_neg (not_not.mpr hp), if_pos hm]
    · rw [Runs, hmove (by simp [hp]), if_neg (hnot hp), if_neg (not_not.mpr hp), if_neg (by simp [hm])]
    · have hp : g.phase ≠ .ended := fun hp => by simp [restorable, hp] at hr
      rw [Runs, hmove hp, if_pos hr]
  · have hdone := moveComplete_alone hg hl hv hn hp
    refine ⟨fun hwait => ?_, fun hperf hheld => ?_⟩
    · rw [Runs, hdone, if_pos]
      refine hwait.imp_left fun ⟨r, hr, hu, hor⟩ => List.any_eq_true.mpr ⟨r, hr, ?_⟩
      simp only [hu, Bool.true_and, Bool.or_eq_true, decide_eq_true_eq]
      exact hor.imp Eq.symm Eq.symm
    · rw [Runs, hdone, if_neg]
      rintro (hany | htile)
      · obtain ⟨r, hr, hru⟩ := List.any_eq_true.mp hany
        simp only [Bool.and_eq_true, Bool.or_eq_true, decide_eq_true_eq] at hru
        obtain ⟨hu, hor⟩ := hru
        obtain ⟨h1, h2⟩ := hperf r hr hu
        exact hor.elim (fun h => h1 h.symm) fun h => h2 h.symm
      · simp [hheld] at htile

end Sys2Proof.Machine
end

section
/-! ### Commands that are admitted (R398 to R400) -/
namespace Sys2Proof.Machine

variable {s : State} {i : Instr} {h : CmdHead} {g : Gate} {act : State → State}

theorem Admitted.passes (hadm : Admitted i s) (hg : gateOf i = some (h, g)) :
    s.boot.stage = 6 ∧ admission s h g = .admitted ∧ (g.cls = 3 ∨ g.cls = 4 → heldBack s h.ctx = false) := by
  unfold Admitted at hadm
  rw [hg] at hadm
  exact hadm

/-- The function of an admitted command acts. -/
theorem command_of_admitted (hadm : Admitted i s) (hg : gateOf i = some (h, g)) :
    command g h act s = .next (act s) := by
  obtain ⟨hstage, hpass, -⟩ := hadm.passes hg
  rw [command, hpass, if_neg (by omega), carryAdmitted]

end Sys2Proof.Machine
end

section
/-! ### Modules and debug sessions (R101, R358, R359, R393, R479) -/
namespace Sys2Proof.Machine

variable {s : State} {h : CmdHead} {n rid : Nat}

/-! ### Loading, unloading and the end of a translation (R393) -/

/-- The modules with one of them changed. -/
def withModule (s : State) (n : Nat) (f : Module → Module) : State :=
  { s with modules := s.modules.map fun x => if x.handle = n then f x else x }

theorem findModule_withModule {m : Module} {f : Module → Module} (hm : findModule s n = some m)
    (hf : ∀ x, (f x).handle = x.handle) : findModule (withModule s n f) n = some (f m) := by
  have hupd : (withModule s n f).modules = updWhere (fun x => decide (x.handle = n)) f s.modules := by
    simp only [withModule, updWhere, decide_eq_true_eq]
  rw [findModule, hupd]
  exact find?_updWhere_of_find (fun x hx => by simpa [hf x] using hx) hm

theorem moduleLoad_reuses {spf : List Byte} {m : Module} (hadm : Admitted (.moduleLoad h spf) s)
    (hm : sameModule s h.charter spf = some m) : Runs (.moduleLoad h spf) s
      (respond (withModule s m.handle fun x => { x with loaded := true }) h 0 m.handle) := by
  refine (command_of_admitted hadm rfl).trans ?_
  simp only [hm]
  rfl

theorem moduleLoad_adds {spf : List Byte} (hadm : Admitted (.moduleLoad h spf) s)
    (hm : sameModule s h.charter spf = none) : Runs (.moduleLoad h spf) s (respond (bumpId { s with
      modules := s.modules ++ [⟨s.nextId, h.charter, spf, .translating, true, emptyImage, emptyImage⟩] }) h 0
      s.nextId) := by
  refine (command_of_admitted hadm rfl).trans ?_
  simp only [hm, cmdOk]

theorem moduleUnload_unloads {m : Module} (hadm : Admitted (.moduleUnload h n) s) (hm : findModule s n = some m)
    (hc : m.charter = h.charter) (hl : m.loaded = true) : Runs (.moduleUnload h n) s
      (okay (withModule s n fun x => { x with loaded := false }) h) := by
  refine (command_of_admitted hadm rfl).trans ?_
  simp only [hm, hc, hl, and_self, if_true]
  rfl

theorem moduleUnload_of_none (hadm : Admitted (.moduleUnload h n) s) (hm : findModule s n = none) :
    Answers (.moduleUnload h n) s h 2 := by
  refine (command_of_admitted hadm rfl).trans ?_
  simp only [hm, cmdInvalid]

theorem moduleTranslationComplete_waits {m : Module} {linked native : ModuleImage} (hm : findModule s n = some m)
    (hr : (if m.state = .translating then translated linked native else none) = none) :
    Runs (.moduleTranslationComplete n linked native) s s := by
  show execModuleTranslationComplete n linked native s = _
  simp only [execModuleTranslationComplete, hm, hr]

theorem moduleTranslationComplete_ends {m : Module} {linked native : ModuleImage} {ok : Bool} (hm : findModule s n = some m)
    (hst : m.state = .translating) (hr : translated linked native = some ok) :
    Runs (.moduleTranslationComplete n linked native) s (withModule s n fun x => { x with
      state := if ok then .ready else .rejected
      linked := linked
      native := if ok then withConsumers native else emptyImage }) := by
  show execModuleTranslationComplete n linked native s = _
  simp only [execModuleTranslationComplete, hm, hst, hr, if_true]
  rfl

/-! ### What a translation keeps (R81, R98 to R101) -/

section
variable {linked native : ModuleImage}

theorem translated_of_unlawful (hk : ∃ k ∈ linked.kernels, kernelLawful linked k = false) :
    translated linked native = some false := by
  have hall : linked.kernels.all (kernelLawful linked) = false := by
    obtain ⟨k, hk, hlaw⟩ := hk
    exact List.all_eq_false.mpr ⟨k, hk, by simp [hlaw]⟩
  rw [translated, hall]
  rfl

theorem isTranslation_of_translated (ht : translated linked native = some true) : isTranslation linked native = true := by
  unfold translated at ht
  split at ht
  · cases ht
  · split at ht
    · assumption
    · split at ht <;> cases ht

/-- The parts of a translation that the obligation speaks of. -/
theorem isTranslation_keeps (ht : isTranslation linked native = true) :
    linked.data = native.data ∧ linked.kernels.length = native.kernels.length ∧
    (∀ k ∈ native.kernels, stopsSet native k (kernelLines native k) = true) ∧
    ∃ m, tableKept linked native m = true := by
  simp only [isTranslation, Bool.and_eq_true, decide_eq_true_eq, List.all_eq_true, List.any_eq_true] at ht
  obtain ⟨⟨⟨hdata, hlen⟩, hstops⟩, m, -, ⟨⟨htable, -⟩, -⟩, -⟩ := ht
  exact ⟨hdata, hlen, fun k hk => (hstops k hk).1.2, m, htable⟩

/-- The table of a translation: the linker's entries stand first, with their live masks (R98, R99). -/
theorem tableKept_keeps {m : List (Nat × Nat)} (ht : tableKept linked native m = true) :
    linked.stops.length ≤ native.stops.length ∧ (native.stops.map StopEntry.off).Nodup ∧
    (∀ e ∈ native.stops, e.flags.toNat < 32) ∧
    ∀ (i : Nat) (a b : StopEntry), linked.stops[i]? = some a → native.stops[i]? = some b → a.live = b.live := by
  unfold tableKept at ht
  extract_lets own added at ht
  simp only [Bool.and_eq_true, decide_eq_true_eq, List.all_eq_true] at ht
  obtain ⟨⟨⟨⟨⟨⟨hlen, hown⟩, -⟩, -⟩, hnodup⟩, hflags⟩, -⟩ := ht
  refine ⟨hlen, hnodup, hflags, fun i a b ha hb => ?_⟩
  have hi : i < linked.stops.length := (List.getElem?_eq_some_iff.mp ha).1
  have hzip : (linked.stops.zip own)[i]? = some (a, b) :=
    List.getElem?_zip_eq_some.mpr ⟨ha, (List.getElem?_take_of_lt hi).trans hb⟩
  obtain ⟨⟨⟨⟨⟨-, hlive⟩, -⟩, -⟩, -⟩, -⟩ := hown (a, b) (List.mem_of_getElem? hzip)
  exact hlive

theorem stopsSet_flags {k : KernelDecl} {xs : List Line} (hs : stopsSet native k xs = true) {x : Line} (hx : x ∈ xs)
    {i : Instr} (hi : x.instr = some i) :
    (canBlock i = true → flagged native 0 x = true) ∧ (loopsBack x = true → flagged native 1 x = true) := by
  simp only [stopsSet, Bool.and_eq_true, List.all_eq_true, Bool.or_eq_true, Bool.not_eq_true'] at hs
  obtain ⟨hblk, hback⟩ := hs.1 x hx
  rw [hi] at hblk
  exact ⟨fun h => hblk.resolve_left (by simp [h]), fun h => hback.resolve_left (by simp [h])⟩

end

/-! ### Debug commands (R358, R359, R479) -/

theorem debugCommand_of_admitted {i : Instr} {act : State → State} (hadm : Admitted i s)
    (hg : gateOf i = some (h, ⟨8, .guest, false, true, true⟩)) :
    debugCommand h act s = .next (if debugAllowed s h then act s else respond s h cmdDenied 0) :=
  command_of_admitted hadm hg

theorem debugCommand_denied {i : Instr} {act : State → State} (hd : debugAllowed s h = false) (hadm : Admitted i s)
    (hg : gateOf i = some (h, ⟨8, .guest, false, true, true⟩)) : debugCommand h act s = .next (respond s h 1 0) := by
  rw [debugCommand_of_admitted hadm hg, hd]
  rfl

theorem debugCommand_acts {i : Instr} {act : State → State} (hd : debugAllowed s h = true) (hadm : Admitted i s)
    (hg : gateOf i = some (h, ⟨8, .guest, false, true, true⟩)) : debugCommand h act s = .next (act s) := by
  rw [debugCommand_of_admitted hadm hg, hd]
  rfl

theorem map_threads_records_of_empty (s : State) (f : Thread → Thread) (g : Record → Record) (ht : s.threads = [])
    (hr : s.records = []) : { s with threads := s.threads.map f, records := s.records.map g } = s := by
  rw [ht, hr, List.map_nil, List.map_nil, ← ht, ← hr]

theorem trapsWaiting_of_empty {ctx : Nat} (ht : s.threads = []) (hr : s.records = []) : trapsWaiting s ctx = [] := by
  simp [trapsWaiting, ht, hr, dedup]

/-- A detach where no thread and no record is ends the session, and nothing else. -/
theorem detach_of_empty (hd : debugAllowed s h = true) (hadm : Admitted (.detach h) s) (hs : sessionOn s h.ctx = true)
    (ht : s.threads = []) (hr : s.records = []) : Runs (.detach h) s (okay (updCtx s h.ctx fun c =>
      { c with session := false, sessionAt := s.clock, breakpoints := [] }) h) := by
  refine (debugCommand_acts hd hadm rfl).trans (congrArg _ ?_)
  rw [hs]
  simp only [Bool.not_true, Bool.false_eq_true, if_false]
  rw [map_threads_records_of_empty (updCtx s h.ctx _) _ _ ht hr]
  simp only [updCtx_records, hr, List.filter_nil, List.map_nil, foldList]
  have hheld (s' : State) (p : Thread → Bool) (ht : s'.threads = []) : retestHeld s' p = s' := by
    rw [retestHeld, ht, foldList]
  rw [hheld (updCtx s h.ctx _) _ ht, trapsWaiting_of_empty (s := updCtx s h.ctx _) ht hr, foldList]

theorem debugCommands_without_record (hd : debugAllowed s h = true) (hn : sessionRecord s h rid = none) :
    (Admitted (.release h rid) s → Answers (.release h rid) s h 2) ∧
    (Admitted (.stepCmd h rid) s → Answers (.stepCmd h rid) s h 2) ∧
    (Admitted (.discard h rid) s → Answers (.discard h rid) s h 2) := by
  refine ⟨fun hadm => ?_, fun hadm => ?_, fun hadm => ?_⟩
  all_goals
    refine (debugCommand_acts hd hadm rfl).trans ?_
    simp only [hn]
    rfl

theorem debugCommands_on_record (hd : debugAllowed s h = true) {r : Record} (hr : sessionRecord s h rid = some r) :
    (Admitted (.release h rid) s → Runs (.release h rid) s (okay (releaseRecord false s rid) h)) ∧
    (Admitted (.stepCmd h rid) s → Runs (.stepCmd h rid) s (okay (releaseRecord true s rid) h)) ∧
    (Admitted (.discard h rid) s →
      let s1 := updWg { s with records := s.records.filter fun q => !decide (q.id = rid) } r.th.wg fun g =>
        { g with exited := r.th.tid :: g.exited }
      let s3 := discardAtLast (freeHandles s1 r.th.wg) r.th.wg
      Runs (.discard h rid) s (okay (releaseHeld s3 h.ctx s3.threads.length) h)) := by
  refine ⟨fun hadm => ?_, fun hadm => ?_, fun hadm => ?_⟩
  all_goals
    refine (debugCommand_acts hd hadm rfl).trans ?_
    simp only [hr]

/-- Settles O53: modules by what their steps leave and what a translation keeps, sessions by the records they act on. -/
theorem modulesAndSessions : Obligations.ModulesAndSessions := by
  refine ⟨fun s h spf hadm => ⟨fun m hm => ⟨_, moduleLoad_reuses hadm hm, rfl, List.length_map ..⟩,
      fun hm => ⟨_, moduleLoad_adds hadm hm, rfl, rfl⟩⟩,
    fun s h n hadm => ⟨fun m hm hc hl => ⟨_, moduleUnload_unloads hadm hm hc hl, rfl, findModule_withModule hm fun _ => rfl⟩,
      moduleUnload_of_none hadm⟩,
    fun s n m linked native hm => ⟨fun hst => ?_, fun hst htr => ?_, fun ok hst htr => ?_, translated_of_unlawful,
      fun ht => ?_, fun ht k hk x hx i hi => ?_⟩,
    fun s h hd bs rid => ⟨fun hadm => debugCommand_denied hd hadm rfl, fun hadm => debugCommand_denied hd hadm rfl,
      fun hadm => debugCommand_denied hd hadm rfl, fun hadm => debugCommand_denied hd hadm rfl,
      fun hadm => debugCommand_denied hd hadm rfl⟩,
    fun s h hd => ⟨fun bs hadm => debugCommand_acts hd hadm rfl, fun hadm hs => ?_,
      fun c hadm hs _ _ ht hr => detach_of_empty hd hadm hs ht hr,
      fun rid => ⟨debugCommands_without_record hd, fun r hr => debugCommands_on_record hd hr⟩⟩⟩
  · exact moduleTranslationComplete_waits hm (if_neg hst)
  · exact moduleTranslationComplete_waits hm ((if_pos hst).trans htr)
  · exact ⟨_, moduleTranslationComplete_ends hm hst htr, _, findModule_withModule hm fun _ => rfl, rfl, rfl, rfl⟩
  · obtain ⟨hdata, hlen, -, al, htable⟩ := isTranslation_keeps (isTranslation_of_translated ht)
    exact ⟨hdata.symm, hlen.symm, tableKept_keeps htable⟩
  · obtain ⟨-, -, hstops, -⟩ := isTranslation_keeps (isTranslation_of_translated ht)
    exact stopsSet_flags (hstops k hk) hx hi
  · refine (debugCommand_acts hd hadm rfl).trans ?_
    rw [hs]
    rfl

end Sys2Proof.Machine
end

section
/-! ### One rounding by value (R57, R58)

What the rounding of a magnitude n/d × 2^e leaves, as a number of units of the format at that magnitude, and what number
its code stands for. -/
namespace Sys2Proof.Machine

/-! ### Powers of two -/

theorem pow2_eq_mul (k : Int) : ((pow2 k : Nat) : ℚ) = (2 : ℚ) ^ k * (pow2 (-k) : Nat) := by
  rcases le_total 0 k with h | h
  · have hneg : pow2 (-k) = 1 := by simp [pow2, h]
    rw [pow2_cast h, hneg, Nat.cast_one, mul_one]
  · have hpos : pow2 k = 1 := by simp [pow2, h]
    rw [pow2_cast (neg_nonneg.mpr h), hpos, ← zpow_add₀ two_ne_zero, add_neg_cancel, zpow_zero, Nat.cast_one]

theorem pow2_pos (k : Int) : 0 < pow2 k := Nat.two_pow_pos _

theorem pow2_cast_pos (k : Int) : (0 : ℚ) < (pow2 k : Nat) := Nat.cast_pos.mpr (pow2_pos k)

/-- A fraction brought to another exponent. -/
theorem div_at_exponent (n d : Nat) (j : Int) :
    ((n * pow2 j : Nat) : ℚ) / ((d * pow2 (-j) : Nat) : ℚ) = (n : ℚ) / d * (2 : ℚ) ^ j := by
  have hpos := pow2_cast_pos (-j)
  rw [Nat.cast_mul, Nat.cast_mul, pow2_eq_mul j, ← mul_assoc, mul_div_mul_right _ _ hpos.ne', mul_div_right_comm]

theorem two_zpow_lt_iff {a b : Int} : (2 : ℚ) ^ a < (2 : ℚ) ^ b ↔ a < b := zpow_lt_zpow_iff_right₀ one_lt_two

theorem log2_bounds {n : Nat} (hn : n ≠ 0) : (2 : ℚ) ^ (Nat.log2 n : Int) ≤ n ∧ (n : ℚ) < (2 : ℚ) ^ ((Nat.log2 n : Int) + 1) := by
  constructor
  · rw [zpow_natCast]
    exact_mod_cast Nat.log2_self_le hn
  · have : n < 2 ^ (Nat.log2 n + 1) := Nat.lt_log2_self
    exact_mod_cast this

section
variable {n d n' d' : Nat} {e e' : Int} (hn : n ≠ 0) (hd : d ≠ 0)
include hn hd

theorem log2Q_bounds : (2 : ℚ) ^ log2Q n d ≤ (n : ℚ) / d ∧ (n : ℚ) / d < (2 : ℚ) ^ (log2Q n d + 1) := by
  obtain ⟨hn1, hn2⟩ := log2_bounds hn
  obtain ⟨hd1, hd2⟩ := log2_bounds hd
  have hdpos : (0 : ℚ) < d := by positivity
  rw [le_div_iff₀ hdpos, div_lt_iff₀ hdpos]
  unfold log2Q
  extract_lets l
  have hpos := pow2_cast_pos (-l)
  have hcmp : n * pow2 (-l) ≥ d * pow2 l ↔ (2 : ℚ) ^ l * d ≤ n := by
    rw [ge_iff_le, ← Nat.cast_le (α := ℚ), Nat.cast_mul, Nat.cast_mul, pow2_eq_mul l, ← mul_assoc,
      mul_le_mul_iff_of_pos_right hpos, mul_comm]
  have hl : (2 : ℚ) ^ (Nat.log2 n : Int) = (2 : ℚ) ^ l * (2 : ℚ) ^ (Nat.log2 d : Int) := by
    rw [← zpow_add₀ two_ne_zero, sub_add_cancel]
  have hlpos : (0 : ℚ) < (2 : ℚ) ^ l := by positivity
  split
  next h =>
    refine ⟨hcmp.mp h, ?_⟩
    calc (n : ℚ) < (2 : ℚ) ^ ((Nat.log2 n : Int) + 1) := hn2
      _ = (2 : ℚ) ^ (l + 1) * (2 : ℚ) ^ (Nat.log2 d : Int) := by
        rw [zpow_add₀ two_ne_zero, hl, zpow_add₀ two_ne_zero l]; ring
      _ ≤ (2 : ℚ) ^ (l + 1) * d := mul_le_mul_of_nonneg_left hd1 (by positivity)
  next h =>
    rw [sub_add_cancel]
    refine ⟨?_, not_le.mp (mt hcmp.mpr h)⟩
    calc (2 : ℚ) ^ (l - 1) * d ≤ (2 : ℚ) ^ (l - 1) * (2 : ℚ) ^ ((Nat.log2 d : Int) + 1) :=
          mul_le_mul_of_nonneg_left hd2.le (by positivity)
      _ = (2 : ℚ) ^ (Nat.log2 n : Int) := by rw [hl, ← zpow_add₀ two_ne_zero, ← zpow_add₀ two_ne_zero]; congr 1; ring
      _ ≤ n := hn1

/-- The exponent of a magnitude n/d × 2^e. -/
theorem log2Q_add_bounds (e : Int) : (2 : ℚ) ^ (log2Q n d + e) ≤ (n : ℚ) / d * (2 : ℚ) ^ e ∧
    (n : ℚ) / d * (2 : ℚ) ^ e < (2 : ℚ) ^ (log2Q n d + e + 1) := by
  obtain ⟨h1, h2⟩ := log2Q_bounds hn hd
  have hpos : (0 : ℚ) < (2 : ℚ) ^ e := by positivity
  rw [add_right_comm, zpow_add₀ two_ne_zero, zpow_add₀ two_ne_zero (log2Q n d + 1)]
  exact ⟨mul_le_mul_of_nonneg_right h1 hpos.le, mul_lt_mul_of_pos_right h2 hpos⟩

/-- The spacing of a format at a magnitude depends on its value alone. -/
theorem quantum_congr (k : Fmt) (hn' : n' ≠ 0) (hd' : d' ≠ 0)
    (h : (n : ℚ) / d * (2 : ℚ) ^ e = (n' : ℚ) / d' * (2 : ℚ) ^ e') : quantum k n d e = quantum k n' d' e' := by
  obtain ⟨h1, h2⟩ := log2Q_add_bounds hn hd e
  obtain ⟨h1', h2'⟩ := log2Q_add_bounds hn' hd' e'
  rw [h] at h1 h2
  have hle := two_zpow_lt_iff.mp (h1.trans_lt h2')
  have hge := two_zpow_lt_iff.mp (h1'.trans_lt h2)
  have heq : log2Q n d + e = log2Q n' d' + e' := by omega
  rw [quantum, quantum, heq]

end

/-! ### Rounding a fraction -/

theorem ceilDiv_mul (q : Nat) {d : Nat} (hd : 0 < d) : ceilDiv (q * d) d = q := by
  rw [ceilDiv, Nat.add_sub_assoc hd, Nat.mul_comm, Nat.mul_add_div hd, Nat.div_eq_of_lt (by omega), Nat.add_zero]

theorem roundMag_mul (mode : MagMode) (q : Nat) {d : Nat} (hd : 0 < d) : roundMag mode (q * d) d = q := by
  cases mode with
  | down => exact Nat.mul_div_cancel q hd
  | up => exact ceilDiv_mul q hd
  | near =>
    rw [roundMag, Nat.mul_mod_left, Nat.mul_div_cancel q hd, if_neg]
    omega

/-- Rounding to nearest is at most half a unit away, and takes the even one of two as near. -/
theorem roundMag_near (n : Nat) {d : Nat} (hd : 0 < d) :
    |(roundMag .near n d : ℚ) - (n : ℚ) / d| ≤ 1 / 2 ∧
      (|(roundMag .near n d : ℚ) - (n : ℚ) / d| = 1 / 2 → roundMag .near n d % 2 = 0) := by
  have hdq : (0 : ℚ) < d := Nat.cast_pos.mpr hd
  have hsplit : (n : ℚ) / d = (n / d : Nat) + ((n % d : Nat) : ℚ) / d := by
    rw [eq_comm, ← mul_left_inj' hdq.ne', add_mul, div_mul_cancel₀ _ hdq.ne', div_mul_cancel₀ _ hdq.ne']
    exact_mod_cast Nat.div_add_mod' n d
  have hlt : (((n % d : Nat) : ℚ)) / d < 1 := (div_lt_one hdq).mpr (Nat.cast_lt.mpr (Nat.mod_lt n hd))
  have hge : (0 : ℚ) ≤ ((n % d : Nat) : ℚ) / d := by positivity
  have hhalf : 2 * (n % d) > d ↔ 1 / 2 < ((n % d : Nat) : ℚ) / d := by
    rw [lt_div_iff₀ hdq, gt_iff_lt, ← Nat.cast_lt (α := ℚ), Nat.cast_mul]
    constructor <;> intro h <;> push_cast at h ⊢ <;> linarith
  have htie : 2 * (n % d) = d ↔ 1 / 2 = ((n % d : Nat) : ℚ) / d := by
    rw [eq_div_iff hdq.ne', ← Nat.cast_inj (R := ℚ), Nat.cast_mul]
    constructor <;> intro h <;> push_cast at h ⊢ <;> linarith
  simp only [hsplit, roundMag, hhalf, htie]
  generalize ((n % d : Nat) : ℚ) / d = f at hlt hge
  split
  next h =>
    have hf : 1 / 2 ≤ f := h.elim le_of_lt fun h => h.1.le
    have habs : |((n / d + 1 : Nat) : ℚ) - ((n / d : Nat) + f)| = 1 - f := by
      rw [Nat.cast_add, Nat.cast_one, abs_of_nonneg (by linarith)]; ring
    rw [habs]
    refine ⟨by linarith, fun he => ?_⟩
    rcases h with h | h
    · linarith
    · omega
  next h =>
    push Not at h
    have habs : |((n / d : Nat) : ℚ) - ((n / d : Nat) + f)| = f := by
      rw [sub_add_cancel_left, abs_neg, abs_of_nonneg hge]
    rw [habs]
    exact ⟨h.1, fun he => by have := h.2 he.symm; omega⟩

/-! ### The units of a rounded magnitude -/

/-- A magnitude in units of the format's spacing there, rounded. -/
def unitsOf (k : Fmt) (mode : MagMode) (n d : Nat) (e : Int) : Nat :=
  roundMag mode (n * pow2 (e - quantum k n d e)) (d * pow2 (quantum k n d e - e))

theorem codeOf_eq_units {k : Fmt} {mode : MagMode} {n d : Nat} {e : Int} (hn : n ≠ 0) :
    codeOf k mode n d e = unitsOf k mode n d e + (quantum k n d e - minQ k).toNat * 2 ^ k.frac := by
  rw [codeOf, if_neg hn]
  rfl

section
variable {k : Fmt} {n d : Nat} {e : Int} (hn : n ≠ 0) (hd : d ≠ 0)

theorem minQ_le_quantum (k : Fmt) (n d : Nat) (e : Int) : minQ k ≤ quantum k n d e := le_max_right _ _

theorem div_at_quantum (n d : Nat) (e q : Int) :
    ((n * pow2 (e - q) : Nat) : ℚ) / ((d * pow2 (q - e) : Nat) : ℚ) = (n : ℚ) / d * (2 : ℚ) ^ (e - q) := by
  rw [← div_at_exponent, neg_sub]

include hd in
theorem unitsOf_near : |(unitsOf k .near n d e : ℚ) - (n : ℚ) / d * (2 : ℚ) ^ (e - quantum k n d e)| ≤ 1 / 2 := by
  rw [← div_at_quantum]
  exact (roundMag_near _ (Nat.mul_pos (Nat.pos_of_ne_zero hd) (pow2_pos _))).1

/-- A magnitude of a whole number of units is that number. -/
theorem unitsOf_exact {mode : MagMode} {r : Nat} (hd : d ≠ 0)
    (h : (n : ℚ) / d * (2 : ℚ) ^ e = (r : ℚ) * (2 : ℚ) ^ quantum k n d e) : unitsOf k mode n d e = r := by
  have hD : 0 < d * pow2 (quantum k n d e - e) := Nat.mul_pos (Nat.pos_of_ne_zero hd) (pow2_pos _)
  have hratio := div_at_quantum n d e (quantum k n d e)
  rw [zpow_sub₀ two_ne_zero, ← mul_div_assoc, h, mul_div_cancel_right₀ _ (by positivity),
    div_eq_iff (Nat.cast_ne_zero.mpr hD.ne'), ← Nat.cast_mul, Nat.cast_inj] at hratio
  rw [unitsOf, hratio, roundMag_mul _ _ hD]

include hn hd

theorem units_lt : (n : ℚ) / d * (2 : ℚ) ^ (e - quantum k n d e) < (2 : ℚ) ^ (k.frac + 1) := by
  have h2 := (log2Q_add_bounds hn hd e).2
  have hq : log2Q n d + e + 1 ≤ k.frac + 1 + quantum k n d e := by
    have : log2Q n d + e - k.frac ≤ quantum k n d e := le_max_left _ _
    omega
  have hpow : (2 : ℚ) ^ (log2Q n d + e + 1) ≤ (2 : ℚ) ^ (k.frac + 1) * (2 : ℚ) ^ quantum k n d e := by
    rw [← zpow_natCast (2 : ℚ) (k.frac + 1), ← zpow_add₀ two_ne_zero]
    exact (zpow_le_zpow_iff_right₀ one_lt_two).mpr (by push_cast; exact hq)
  rw [zpow_sub₀ two_ne_zero, ← mul_div_assoc, div_lt_iff₀ (by positivity)]
  exact h2.trans_le hpow

/-- Above the smallest spacing the units fill the fraction. -/
theorem le_units (hq : quantum k n d e ≠ minQ k) :
    (2 : ℚ) ^ k.frac ≤ (n : ℚ) / d * (2 : ℚ) ^ (e - quantum k n d e) := by
  have h1 := (log2Q_add_bounds hn hd e).1
  have heq : log2Q n d + e = k.frac + quantum k n d e := by
    rw [quantum] at hq ⊢
    omega
  rw [heq, zpow_add₀ two_ne_zero, zpow_natCast] at h1
  rw [zpow_sub₀ two_ne_zero, ← mul_div_assoc, le_div_iff₀ (by positivity)]
  exact h1

theorem unitsOf_near_le : unitsOf k .near n d e ≤ 2 ^ (k.frac + 1) := by
  have hlt := units_lt (k := k) (e := e) hn hd
  have hnear := (abs_le.mp (unitsOf_near (k := k) (n := n) (e := e) hd)).2
  have h : (unitsOf k .near n d e : ℚ) < ((2 ^ (k.frac + 1) + 1 : Nat) : ℚ) := by push_cast; linarith
  exact Nat.lt_succ_iff.mp (Nat.cast_lt.mp h)

theorem le_unitsOf_near (hq : quantum k n d e ≠ minQ k) : 2 ^ k.frac ≤ unitsOf k .near n d e := by
  have hge := le_units hn hd hq
  have hnear := (abs_le.mp (unitsOf_near (k := k) (n := n) (e := e) hd)).1
  have h : ((2 ^ k.frac : Nat) : ℚ) < ((unitsOf k .near n d e + 1 : Nat) : ℚ) := by push_cast; linarith
  exact Nat.lt_succ_iff.mp (Nat.cast_lt.mp h)

end

/-! ### The value of a code -/

section
variable {k : Fmt} (hk : k.Fields) {neg : Bool} {c : Nat}
include hk

theorem signBit_signed (hc : c < 2 ^ (k.exp + k.frac)) : signBit k (signed k neg c) = neg := by
  have hb : k.bits - 1 = k.exp + k.frac := by rw [hk.bits, Nat.add_sub_cancel_left]
  rw [signBit, signed, hb]
  cases neg with
  | true => simp [Nat.add_div_left _ (Nat.two_pow_pos _), Nat.div_eq_of_lt hc]
  | false => simp [Nat.div_eq_of_lt hc]

theorem fields_signed (hc : c < 2 ^ (k.exp + k.frac)) :
    expField k (signed k neg c) = c / 2 ^ k.frac ∧ fracField k (signed k neg c) = c % 2 ^ k.frac := by
  have hb : k.bits - 1 = k.exp + k.frac := by rw [hk.bits, Nat.add_sub_cancel_left]
  have hdiv : c / 2 ^ k.frac < 2 ^ k.exp := by rwa [Nat.div_lt_iff_lt_mul (by positivity), ← pow_add]
  rw [expField, fracField, signed, hb, pow_add]
  cases neg with
  | true =>
    rw [if_pos rfl, Nat.mul_comm, Nat.mul_add_div (by positivity), Nat.mul_add_mod, Nat.add_mod_left, Nat.mod_eq_of_lt hdiv]
    exact ⟨rfl, rfl⟩
  | false =>
    rw [if_neg Bool.false_ne_true, Nat.zero_add, Nat.mod_eq_of_lt hdiv]
    exact ⟨rfl, rfl⟩

/-- The pattern of a code of r units at the spacing 2^(minQ + j) stands for that many. -/
theorem decodeFp_units (hinf : k.inf = true) {r j : Nat} (hr : r ≤ 2 ^ (k.frac + 1)) (hj : j ≠ 0 → 2 ^ k.frac ≤ r)
    (hle : r + j * 2 ^ k.frac ≤ maxCode k) :
    (decodeFp k (signed k neg (r + j * 2 ^ k.frac))).finite = true ∧
      (decodeFp k (signed k neg (r + j * 2 ^ k.frac))).num = (if neg then -1 else 1) * (r * (2 : ℚ) ^ (minQ k + j)) := by
  have hlt := hle.trans_lt (maxCode_lt hk)
  have hfrac : 0 < 2 ^ k.frac := by positivity
  obtain ⟨hE, hM⟩ := fields_signed (neg := neg) hk hlt
  have hS := signBit_signed (neg := neg) hk hlt
  have hfin : (r + j * 2 ^ k.frac) / 2 ^ k.frac ≠ 2 ^ k.exp - 1 := by
    intro h
    have hmul : infCode k ≤ r + j * 2 ^ k.frac := by
      rw [infCode, ← h]
      exact Nat.div_mul_le_self _ _
    have hpos : 0 < infCode k := by
      have hexp : 2 ^ 2 ≤ 2 ^ k.exp := Nat.pow_le_pow_right (by decide) hk.exp
      exact Nat.mul_pos (by omega) hfrac
    rw [maxCode, hinf, if_pos rfl] at hle
    omega
  rw [Nat.add_mul_div_right _ _ hfrac] at hE hfin
  rw [Nat.add_mul_mod_self_right] at hM
  rw [decodeFp_eq, hE, hM, hS, if_neg (fun h => hfin h.1), if_neg (fun h => hfin h.1)]
  rcases Nat.lt_or_ge r (2 ^ k.frac) with hlow | hhigh
  · have hj0 : j = 0 := by
      by_contra h
      exact absurd (hj h) (not_le.mpr hlow)
    rw [hj0, Nat.div_eq_of_lt hlow, Nat.mod_eq_of_lt hlow, if_pos rfl]
    refine ⟨rfl, ?_⟩
    simp [XVal.num]
  · rw [pow_succ] at hr
    rcases Nat.lt_or_ge r (2 * 2 ^ k.frac) with hmid | htop
    · have hdiv : r / 2 ^ k.frac = 1 := Nat.div_eq_of_lt_le (by omega) (by omega)
      have hmod : 2 ^ k.frac + r % 2 ^ k.frac = r := by
        have := Nat.div_add_mod r (2 ^ k.frac)
        rw [hdiv] at this
        omega
      have hexp : minQ k + ((1 + j : Nat) : Int) - 1 = minQ k + j := by push_cast; ring
      rw [hdiv, if_neg (by omega), hmod, hexp]
      exact ⟨rfl, by simp [XVal.num]⟩
    · have hr2 : r = 2 * 2 ^ k.frac := by omega
      have hexp : minQ k + ((2 + j : Nat) : Int) - 1 = minQ k + j + 1 := by push_cast; ring
      rw [hr2, Nat.mul_div_cancel _ hfrac, Nat.mul_mod_left, if_neg (by omega), hexp]
      refine ⟨rfl, ?_⟩
      rw [XVal.num, zpow_add_one₀ two_ne_zero]
      push_cast
      ring

/-- The value of a rounded magnitude that the format holds: its units at the spacing there. -/
theorem decodeFp_roundQ (hinf : k.inf = true) {n d : Nat} {e : Int} (hn : n ≠ 0) (hd : d ≠ 0)
    (hle : codeOf k .near n d e ≤ maxCode k) :
    (decodeFp k (roundQ k neg n d e .rn false)).finite = true ∧
      (decodeFp k (roundQ k neg n d e .rn false)).num =
        (if neg then -1 else 1) * (unitsOf k .near n d e * (2 : ℚ) ^ quantum k n d e) := by
  have hround : roundQ k neg n d e .rn false = signed k neg (codeOf k .near n d e) := by
    simp only [roundQ, magMode]
    exact if_neg (not_lt.mpr hle)
  have hq := minQ_le_quantum k n d e
  have hexp : minQ k + ((quantum k n d e - minQ k).toNat : Int) = quantum k n d e := by omega
  rw [codeOf_eq_units hn] at hle
  have h := decodeFp_units (neg := neg) hk hinf (unitsOf_near_le hn hd)
    (fun hj => le_unitsOf_near hn hd fun hq => hj (by rw [hq, sub_self, Int.toNat_zero])) hle
  rwa [hexp, ← codeOf_eq_units hn, ← hround] at h

end

/-! ### The finite values of a format -/

section
variable {k : Fmt} (hk : k.Fields) {a m : Nat} {neg : Bool} {e : Int} (h : decodeFp k a = .fin neg m e)
include hk h

/-- A finite pattern's significand, exponent and spacing. -/
theorem decodeFp_fin_bounds : m < 2 ^ (k.frac + 1) ∧ minQ k ≤ e ∧ e ≤ minQ k + 2 ^ k.exp - 2 ∧
    (e ≠ minQ k → 2 ^ k.frac ≤ m) ∧ (m ≠ 0 → quantum k m 1 e = e) := by
  have hM : fracField k a < 2 ^ k.frac := fracField_lt
  have hE : expField k a < 2 ^ k.exp := expField_lt
  have hexp : ((2 ^ k.exp : Nat) : Int) = 2 ^ k.exp := by push_cast; rfl
  rcases decodeFp_cases k a with h' | ⟨-, -, h'⟩ | ⟨-, h'⟩ | ⟨h0, -, h'⟩
  · rw [h] at h'; cases h'
  · rw [h] at h'; cases h'
  · rw [h] at h'
    obtain ⟨rfl, rfl, rfl⟩ := XVal.fin.inj h'
    rw [pow_succ]
    refine ⟨by omega, le_rfl, ?_, fun hne => absurd rfl hne, fun hm => quantum_subnormal hm hM⟩
    have : 2 ^ 2 ≤ 2 ^ k.exp := Nat.pow_le_pow_right (by decide) hk.exp
    omega
  · rw [h] at h'
    obtain ⟨rfl, rfl, rfl⟩ := XVal.fin.inj h'
    rw [pow_succ]
    exact ⟨by omega, by omega, by omega, fun _ => by omega, fun _ => quantum_normal hM (by omega)⟩

/-- A magnitude of the value of a finite pattern, of its sign, rounds to that pattern. -/
theorem roundQ_eq_of_value (ha : a < 2 ^ k.bits) (hm : m ≠ 0) {n d : Nat} {e' : Int} (hn : n ≠ 0) (hd : d ≠ 0)
    (hval : (n : ℚ) / d * (2 : ℚ) ^ e' = (m : ℚ) * (2 : ℚ) ^ e) (rm : Rnd) : roundQ k neg n d e' rm false = a := by
  obtain ⟨-, -, -, -, hq⟩ := decodeFp_fin_bounds hk h
  have hquantum : quantum k n d e' = e :=
    (quantum_congr hn hd k hm one_ne_zero (by rw [hval, Nat.cast_one, div_one])).trans (hq hm)
  have hcode (mode : MagMode) : codeOf k mode n d e' = codeOf k mode m 1 e := by
    rw [codeOf_exact hm (hq hm), codeOf_eq_units hn, hquantum, unitsOf_exact hd (by rw [hval, hquantum])]
  have hself := roundFp_decodeFp hk ha rm
  rw [h, if_neg (by simp)] at hself
  rw [← hself]
  simp only [roundFp, roundQ, hcode]

end
end Sys2Proof.Machine
end

section
/-! ### Square roots to a bit (R140, R141) -/
namespace Sys2Proof.Machine

/-! ### The integer square root -/

theorem isqrtFuel_bounds (n : Nat) {f r : Nat} (hlo : r * r ≤ n) (hhi : n < (r + 2 ^ f) * (r + 2 ^ f)) :
    isqrtFuel n f r * isqrtFuel n f r ≤ n ∧ n < (isqrtFuel n f r + 1) * (isqrtFuel n f r + 1) := by
  induction f generalizing r with
  | zero => exact ⟨hlo, hhi⟩
  | succ f ih =>
    rw [isqrtFuel]
    split
    next h => exact ih h (by rwa [add_assoc, ← two_mul, ← pow_succ'])
    next h => exact ih hlo (not_le.mp h)

theorem isqrt_eq_sqrt (n : Nat) : isqrt n = Nat.sqrt n := by
  have hlt : n < (0 + 2 ^ (Nat.log2 n / 2 + 1)) * (0 + 2 ^ (Nat.log2 n / 2 + 1)) := by
    rw [Nat.zero_add, ← pow_add]
    exact Nat.lt_log2_self.trans_le (Nat.pow_le_pow_right (by decide) (by omega))
  obtain ⟨h1, h2⟩ := isqrtFuel_bounds n (Nat.zero_le n) hlt
  exact Nat.eq_sqrt.mpr ⟨h1, h2⟩

/-! ### The root of m × 2^e, with a last bit for what is left over -/

section
variable {m : Nat} {e : Int}

/-- The reference is the root where the root is a whole number of steps 2^g, else it lies half a step above the whole
number below the root. -/
theorem sqrtMag_spec (m : Nat) (e : Int) : ∃ (r : Nat) (g : Int), (sqrtMag m e).2 = g - 1 ∧ 2 * g ≤ e - 256 ∧
    ((sqrtMag m e).1 = 2 * r ∧ (m : ℚ) * (2 : ℚ) ^ e = ((r : ℚ) * (2 : ℚ) ^ g) ^ 2 ∨
      (sqrtMag m e).1 = 2 * r + 1 ∧ ((r : ℚ) * (2 : ℚ) ^ g) ^ 2 < (m : ℚ) * (2 : ℚ) ^ e ∧
        (m : ℚ) * (2 : ℚ) ^ e < (((r + 1 : Nat) : ℚ) * (2 : ℚ) ^ g) ^ 2) := by
  unfold sqrtMag
  extract_lets sh x r
  have hsh : sh = 256 ∧ e % 2 = 0 ∨ sh = 257 ∧ e % 2 = 1 := by
    by_cases he : e % 2 = 0
    · exact .inl ⟨if_pos he, he⟩
    · exact .inr ⟨if_neg he, by omega⟩
  obtain ⟨g, hg⟩ : ∃ g : Int, e - sh = 2 * g := ⟨(e - sh) / 2, by omega⟩
  have hgap : 2 * g ≤ e - 256 := by omega
  have hval : (m : ℚ) * (2 : ℚ) ^ e = (x : ℚ) * ((2 : ℚ) ^ g) ^ 2 := by
    have he : e = (sh : Int) + 2 * g := by omega
    rw [Nat.cast_mul, Nat.cast_pow, Nat.cast_ofNat, ← zpow_natCast, ← zpow_natCast ((2 : ℚ) ^ g), ← zpow_mul, mul_assoc,
      ← zpow_add₀ two_ne_zero, mul_comm g, Nat.cast_ofNat, ← he]
  have hpos : (0 : ℚ) < ((2 : ℚ) ^ g) ^ 2 := by positivity
  have hlo : r * r ≤ x := by rw [show r = _ from isqrt_eq_sqrt x]; exact Nat.sqrt_le x
  have hhi : x < (r + 1) * (r + 1) := by rw [show r = _ from isqrt_eq_sqrt x]; exact Nat.lt_succ_sqrt x
  have hdiv : (e - sh) / 2 = g := by omega
  clear_value r x
  refine ⟨r, g, congrArg (· - 1) hdiv, hgap, ?_⟩
  rw [hval, mul_pow, mul_pow]
  by_cases h : r * r = x
  · refine .inl ⟨congrArg (2 * r + ·) (if_pos h), ?_⟩
    rw [← h]
    push_cast
    ring
  · refine .inr ⟨congrArg (2 * r + ·) (if_neg h), mul_lt_mul_of_pos_right ?_ hpos, mul_lt_mul_of_pos_right ?_ hpos⟩
    · rw [pow_two]; exact_mod_cast lt_of_le_of_ne hlo h
    · rw [pow_two]; exact_mod_cast hhi

/-- No whole number of steps lies between the reference and the root. -/
theorem sqrtMag_separates (m : Nat) (e : Int) {h : Nat} {g : Int} (hg : (sqrtMag m e).2 + 1 ≤ g) :
    (((sqrtMag m e).1 : ℚ) * (2 : ℚ) ^ (sqrtMag m e).2 ≤ (h : ℚ) * (2 : ℚ) ^ g → (m : ℚ) * (2 : ℚ) ^ e ≤ ((h : ℚ) * (2 : ℚ) ^ g) ^ 2) ∧
    ((h : ℚ) * (2 : ℚ) ^ g ≤ ((sqrtMag m e).1 : ℚ) * (2 : ℚ) ^ (sqrtMag m e).2 → ((h : ℚ) * (2 : ℚ) ^ g) ^ 2 ≤ (m : ℚ) * (2 : ℚ) ^ e) := by
  obtain ⟨r, g0, hexp, -, hroot⟩ := sqrtMag_spec m e
  rw [hexp, sub_add_cancel] at hg
  obtain ⟨i, rfl⟩ := Int.le.dest hg
  have hsteps : (h : ℚ) * (2 : ℚ) ^ (g0 + (i : Int)) = ((h * 2 ^ i : Nat) : ℚ) * (2 : ℚ) ^ g0 := by
    rw [zpow_add₀ two_ne_zero, zpow_natCast]
    push_cast
    ring
  have hhalf : ((sqrtMag m e).1 : ℚ) * (2 : ℚ) ^ (sqrtMag m e).2 = ((sqrtMag m e).1 : ℚ) / 2 * (2 : ℚ) ^ g0 := by
    rw [hexp, zpow_sub_one₀ two_ne_zero]
    ring
  have hpos : (0 : ℚ) < (2 : ℚ) ^ g0 := by positivity
  rw [hsteps, hhalf, mul_le_mul_iff_of_pos_right hpos, mul_le_mul_iff_of_pos_right hpos]
  generalize h * 2 ^ i = j
  rcases hroot with ⟨hr, hval⟩ | ⟨hr, hlo, hhi⟩
  · have hr2 : ((sqrtMag m e).1 : ℚ) / 2 = r := by rw [hr]; push_cast; ring
    rw [hr2, hval]
    exact ⟨fun hle => by gcongr, fun hle => by gcongr⟩
  · have hr2 : ((sqrtMag m e).1 : ℚ) / 2 = r + 1 / 2 := by rw [hr]; push_cast; ring
    rw [hr2]
    refine ⟨fun hle => hhi.le.trans ?_, fun hle => le_trans ?_ hlo.le⟩
    · have hj : r + 1 ≤ j := by
        have : (r : ℚ) < j := by linarith
        exact_mod_cast this
      gcongr
    · have hj : j ≤ r := by
        have : (j : ℚ) < ((r + 1 : Nat) : ℚ) := by push_cast; linarith
        exact Nat.lt_succ_iff.mp (by exact_mod_cast this)
      gcongr

section
variable {n : Nat} (hm : m ≠ 0)
include hm

/-- The reference has at least 129 digits: its whole steps are at least 2^127. -/
theorem sqrtMag_steps_ge {r : Nat} {g : Int} (hgap : 2 * g ≤ e - 256)
    (hup : (m : ℚ) * (2 : ℚ) ^ e ≤ (((r + 1 : Nat) : ℚ) * (2 : ℚ) ^ g) ^ 2) : 2 ^ 127 ≤ r := by
  by_contra hlow
  have hr1 : r + 1 ≤ 2 ^ 127 := not_le.mp hlow
  have hmpos : (1 : ℚ) ≤ m := by exact_mod_cast Nat.one_le_iff_ne_zero.mpr hm
  have hsq : (2 : ℚ) ^ e ≤ (2 : ℚ) ^ (254 + 2 * g) := by
    calc (2 : ℚ) ^ e ≤ (m : ℚ) * (2 : ℚ) ^ e := le_mul_of_one_le_left (by positivity) hmpos
      _ ≤ (((r + 1 : Nat) : ℚ) * (2 : ℚ) ^ g) ^ 2 := hup
      _ ≤ (((2 ^ 127 : Nat) : ℚ) * (2 : ℚ) ^ g) ^ 2 := by gcongr
      _ = (2 : ℚ) ^ (254 + 2 * g) := by
        rw [zpow_add₀ two_ne_zero, mul_pow, ← zpow_natCast ((2 : ℚ) ^ g), ← zpow_mul, mul_comm g]
        push_cast
        norm_num
  have := (zpow_le_zpow_iff_right₀ (one_lt_two (α := ℚ))).mp hsq
  omega

/-- The digits of the reference, and its exponent, about half that of the argument. -/
theorem sqrtMag_log2_bounds (hlt : m < 2 ^ n) : (sqrtMag m e).1 ≠ 0 ∧ 128 ≤ Nat.log2 (sqrtMag m e).1 ∧
    2 * (Nat.log2 (sqrtMag m e).1 : Int) + 2 * (sqrtMag m e).2 < n + e + 2 := by
  obtain ⟨r, g, hexp, hgap, hroot⟩ := sqrtMag_spec m e
  have hg0 : (0 : ℚ) < (2 : ℚ) ^ g := by positivity
  have hup : (m : ℚ) * (2 : ℚ) ^ e ≤ (((r + 1 : Nat) : ℚ) * (2 : ℚ) ^ g) ^ 2 := by
    rcases hroot with ⟨-, hval⟩ | ⟨-, -, hhi⟩
    · rw [hval]; gcongr; omega
    · exact hhi.le
  have hlo : ((r : ℚ) * (2 : ℚ) ^ g) ^ 2 ≤ (m : ℚ) * (2 : ℚ) ^ e := by
    rcases hroot with ⟨-, hval⟩ | ⟨-, hlo, -⟩
    · exact hval.ge
    · exact hlo.le
  have hr := sqrtMag_steps_ge hm hgap hup
  have hp2 : 2 * r ≤ (sqrtMag m e).1 ∧ (sqrtMag m e).1 ≤ 2 * r + 1 := by rcases hroot with ⟨h, -⟩ | ⟨h, -⟩ <;> omega
  rw [hexp]
  generalize (sqrtMag m e).1 = p at hp2
  have hp0 : p ≠ 0 := by omega
  refine ⟨hp0, (Nat.le_log2 hp0).mpr (by rw [pow_succ']; omega), ?_⟩
  have hmlt : (m : ℚ) < (2 : ℚ) ^ (n : Int) := by exact_mod_cast hlt
  have hplow : (2 : ℚ) ^ (Nat.log2 p : Int) ≤ p := (log2_bounds hp0).1
  have hpr : (p : ℚ) ≤ 4 * r := by exact_mod_cast (show p ≤ 4 * r by omega)
  suffices 2 * (Nat.log2 p : Int) + 2 * g < n + e + 4 by omega
  rw [← two_zpow_lt_iff]
  calc (2 : ℚ) ^ (2 * (Nat.log2 p : Int) + 2 * g) = ((2 : ℚ) ^ (Nat.log2 p : Int) * (2 : ℚ) ^ g) ^ 2 := by
        rw [← zpow_add₀ two_ne_zero, ← zpow_natCast ((2 : ℚ) ^ _), ← zpow_mul]
        congr 1
        push_cast
        ring
    _ ≤ (4 * r * (2 : ℚ) ^ g) ^ 2 := by gcongr; exact hplow.trans hpr
    _ = (2 : ℚ) ^ (4 : Int) * ((r : ℚ) * (2 : ℚ) ^ g) ^ 2 := by norm_num; ring
    _ ≤ (2 : ℚ) ^ (4 : Int) * ((m : ℚ) * (2 : ℚ) ^ e) := by gcongr
    _ < (2 : ℚ) ^ (4 : Int) * ((2 : ℚ) ^ (n : Int) * (2 : ℚ) ^ e) := by gcongr
    _ = (2 : ℚ) ^ ((n : Int) + e + 4) := by rw [mul_comm, ← zpow_add₀ two_ne_zero, ← zpow_add₀ two_ne_zero]

end

end

/-! ### The values of a format against its units -/

section
variable {k : Fmt} (hk : k.Fields) {a : Nat} {q : Int}
include hk

/-- A value is a whole number of the units 2^q, or below the least normal number that has this spacing. -/
theorem num_on_grid (hfin : (decodeFp k a).finite = true) (h0 : 0 ≤ (decodeFp k a).num) :
    (∃ j : Nat, (decodeFp k a).num = j * (2 : ℚ) ^ q) ∨
      (q ≠ minQ k ∧ (decodeFp k a).num < (2 : ℚ) ^ k.frac * (2 : ℚ) ^ q) := by
  obtain ⟨neg, m, e, hdec⟩ := eq_fin_of_finite hfin
  obtain ⟨hm, he, -, -, -⟩ := decodeFp_fin_bounds hk hdec
  have hnum : (decodeFp k a).num = (m : ℚ) * (2 : ℚ) ^ e := by
    rw [hdec] at h0 ⊢
    cases neg with
    | false => simp [XVal.num]
    | true =>
      have hz : (m : ℚ) * (2 : ℚ) ^ e = 0 := le_antisymm (by simpa [XVal.num, mul_assoc] using h0) (by positivity)
      simp [XVal.num, hz]
  rw [hnum]
  rcases le_or_gt q e with hle | hlt
  · obtain ⟨i, rfl⟩ := Int.le.dest hle
    refine .inl ⟨m * 2 ^ i, ?_⟩
    rw [zpow_add₀ two_ne_zero, zpow_natCast]
    push_cast
    ring
  · refine .inr ⟨by omega, ?_⟩
    have hm' : (m : ℚ) < (2 : ℚ) ^ k.frac * 2 := by rw [← pow_succ]; exact_mod_cast hm
    calc (m : ℚ) * (2 : ℚ) ^ e < (2 : ℚ) ^ k.frac * 2 * (2 : ℚ) ^ e := by gcongr
      _ ≤ (2 : ℚ) ^ k.frac * 2 * (2 : ℚ) ^ (q - 1) := by
        gcongr
        · exact one_le_two
        · omega
      _ = (2 : ℚ) ^ k.frac * (2 : ℚ) ^ q := by rw [zpow_sub_one₀ two_ne_zero]; ring

variable {r : Nat} (hr : q ≠ minQ k → 2 ^ k.frac ≤ r) (hfin : (decodeFp k a).finite = true)
  (h0 : 0 ≤ (decodeFp k a).num)
include hr hfin h0

/-- The next value above r units is a unit or more away. -/
theorem next_unit_le (hlt : r * (2 : ℚ) ^ q < (decodeFp k a).num) : (r + 1) * (2 : ℚ) ^ q ≤ (decodeFp k a).num := by
  have hpos : (0 : ℚ) < (2 : ℚ) ^ q := by positivity
  rcases num_on_grid hk hfin h0 with ⟨j, hj⟩ | ⟨hqm, hlow⟩
  · rw [hj] at hlt ⊢
    rw [mul_lt_mul_iff_of_pos_right hpos, Nat.cast_lt] at hlt
    gcongr
    exact_mod_cast hlt
  · have hr' : (2 : ℚ) ^ k.frac ≤ r := by exact_mod_cast hr hqm
    have : (2 : ℚ) ^ k.frac * (2 : ℚ) ^ q ≤ r * (2 : ℚ) ^ q := by gcongr
    linarith

/-- So is the next one below, but at the least normal number of a spacing. -/
theorem le_unit_before (hne : ¬ (q ≠ minQ k ∧ r = 2 ^ k.frac)) (hlt : (decodeFp k a).num < r * (2 : ℚ) ^ q) :
    (decodeFp k a).num ≤ (r - 1) * (2 : ℚ) ^ q := by
  have hpos : (0 : ℚ) < (2 : ℚ) ^ q := by positivity
  rcases num_on_grid hk hfin h0 with ⟨j, hj⟩ | ⟨hqm, hlow⟩
  · rw [hj] at hlt ⊢
    rw [mul_lt_mul_iff_of_pos_right hpos, Nat.cast_lt] at hlt
    have : ((j + 1 : Nat) : ℚ) ≤ r := by exact_mod_cast hlt
    push_cast at this
    gcongr
    linarith
  · have hr' : ((2 ^ k.frac + 1 : Nat) : ℚ) ≤ r := by
      exact_mod_cast lt_of_le_of_ne (hr hqm) fun h => hne ⟨hqm, h.symm⟩
    push_cast at hr'
    refine hlow.le.trans ?_
    gcongr
    linarith

end

/-! ### The root rounded to a format -/

section
variable {k : Fmt} {a m : Nat} {e : Int} (hk : k = fp32 ∨ k = fp64)
include hk

theorem fields_of_single_or_double : k.Fields ∧ k.inf = true := by
  rcases hk with rfl | rfl <;> exact ⟨⟨by decide, by decide, by decide⟩, rfl⟩

variable (h : decodeFp k a = .fin false m e) (hm : m ≠ 0)
include h hm

/-- The root lies within the format, and its reference is finer than the format there. -/
theorem sqrtMag_in_format : (sqrtMag m e).1 ≠ 0 ∧
    (sqrtMag m e).2 + 2 ≤ quantum k (sqrtMag m e).1 1 (sqrtMag m e).2 ∧
    codeOf k .near (sqrtMag m e).1 1 (sqrtMag m e).2 ≤ maxCode k := by
  obtain ⟨hfields, hinf⟩ := fields_of_single_or_double hk
  obtain ⟨hlt, hge, hle, -, -⟩ := decodeFp_fin_bounds hfields h
  obtain ⟨hp0, hlog, hmax⟩ := sqrtMag_log2_bounds (e := e) hm hlt
  generalize (sqrtMag m e).1 = p at *
  generalize (sqrtMag m e).2 = f at *
  have hquantum : quantum k p 1 f = max ((Nat.log2 p : Int) + f - k.frac) (minQ k) := by rw [quantum, log2Q_one hp0]
  refine ⟨hp0, ?_, ?_⟩
  · rw [hquantum]
    have : k.frac ≤ 52 := by rcases hk with rfl | rfl <;> decide
    omega
  · rw [codeOf_eq_units hp0]
    have hu := unitsOf_near_le (k := k) (e := f) hp0 one_ne_zero
    have hj : (quantum k p 1 f - minQ k).toNat + 4 ≤ 2 ^ k.exp := by
      rw [hquantum]
      rcases hk with rfl | rfl
      · simp only [minQ, fp32] at hle hmax ⊢; omega
      · simp only [minQ, fp64] at hle hmax ⊢; omega
    have hmul := Nat.mul_le_mul_right (2 ^ k.frac) hj
    have hcode := infCode_add k
    rw [maxCode, hinf, if_pos rfl]
    rw [pow_succ] at hu
    rw [Nat.add_mul, ← pow_add] at hmul
    omega

/-- The root rounded, as a number of units of its spacing: no more than half a unit from the root, above or below, and not
above the root at the least normal number of a spacing. -/
theorem sqrtPat_units : ∃ (r : Nat) (q : Int), (decodeFp k (sqrtPat k a)).finite = true ∧
    (decodeFp k (sqrtPat k a)).num = r * (2 : ℚ) ^ q ∧ (q ≠ minQ k → 2 ^ k.frac ≤ r) ∧
    (decodeFp k a).num ≤ ((r + 1 / 2) * (2 : ℚ) ^ q) ^ 2 ∧
    (1 ≤ r → ((r - 1 / 2) * (2 : ℚ) ^ q) ^ 2 ≤ (decodeFp k a).num) ∧
    (q ≠ minQ k ∧ r = 2 ^ k.frac → (r * (2 : ℚ) ^ q) ^ 2 ≤ (decodeFp k a).num) := by
  obtain ⟨hfields, hinf⟩ := fields_of_single_or_double hk
  obtain ⟨hp0, hfine, hle⟩ := sqrtMag_in_format hk h hm
  have hsqrt : sqrtPat k a = roundQ k false (sqrtMag m e).1 1 (sqrtMag m e).2 .rn false := by
    simp [sqrtPat, sqrtBits, h, hm]
  have hnum : (decodeFp k a).num = (m : ℚ) * (2 : ℚ) ^ e := by rw [h]; simp [XVal.num]
  obtain ⟨hfin, hval⟩ := decodeFp_roundQ (neg := false) hfields hinf hp0 one_ne_zero hle
  rw [← hsqrt, if_neg Bool.false_ne_true, one_mul] at hval
  rw [← hsqrt] at hfin
  refine ⟨_, _, hfin, hval, le_unitsOf_near hp0 one_ne_zero, ?_⟩
  have hnear := unitsOf_near (k := k) (n := (sqrtMag m e).1) (e := (sqrtMag m e).2) one_ne_zero
  have hfill := le_units (k := k) (e := (sqrtMag m e).2) hp0 one_ne_zero
  have hsep := fun j : Nat => sqrtMag_separates m e (h := j) (g := quantum k (sqrtMag m e).1 1 (sqrtMag m e).2 - 1) (by omega)
  rw [Nat.cast_one, div_one] at hnear hfill
  rw [hnum]
  generalize (sqrtMag m e).1 = p at *
  generalize (sqrtMag m e).2 = f at *
  generalize unitsOf k .near p 1 f = r at *
  generalize quantum k p 1 f = q at *
  have hhalf : (2 : ℚ) ^ q = 2 * (2 : ℚ) ^ (q - 1) := by rw [zpow_sub_one₀ two_ne_zero]; ring
  -- the reference in units of the spacing
  obtain ⟨x, hx⟩ : ∃ x, x = (p : ℚ) * (2 : ℚ) ^ (f - q) := ⟨_, rfl⟩
  have hpx : (p : ℚ) * (2 : ℚ) ^ f = x * (2 : ℚ) ^ q := by rw [hx, mul_assoc, ← zpow_add₀ two_ne_zero, sub_add_cancel]
  rw [← hx] at hnear hfill
  obtain ⟨hnear1, hnear2⟩ := abs_le.mp hnear
  refine ⟨?_, fun hr => ?_, fun ⟨hqm, hr⟩ => ?_⟩
  · have hj : ((2 * r + 1 : Nat) : ℚ) * (2 : ℚ) ^ (q - 1) = (r + 1 / 2) * (2 : ℚ) ^ q := by rw [hhalf]; push_cast; ring
    rw [← hj]
    refine (hsep (2 * r + 1)).1 ?_
    rw [hj, hpx]
    gcongr
    linarith
  · have hj : ((2 * r - 1 : Nat) : ℚ) * (2 : ℚ) ^ (q - 1) = (r - 1 / 2) * (2 : ℚ) ^ q := by
      rw [hhalf, Nat.cast_sub (by omega)]
      push_cast
      ring
    rw [← hj]
    refine (hsep (2 * r - 1)).2 ?_
    rw [hj, hpx]
    gcongr
    linarith
  · have hj : ((2 * r : Nat) : ℚ) * (2 : ℚ) ^ (q - 1) = r * (2 : ℚ) ^ q := by rw [hhalf]; push_cast; ring
    rw [← hj]
    refine (hsep (2 * r)).2 ?_
    rw [hj, hpx]
    gcongr
    rw [hr]
    exact_mod_cast hfill hqm

/-- `fsqrt` is the value of the format nearest to the root. -/
theorem sqrtPat_nearest : (decodeFp k (sqrtPat k a)).finite = true ∧ 0 ≤ (decodeFp k (sqrtPat k a)).num ∧
    ∀ d, (decodeFp k d).finite = true → 0 ≤ (decodeFp k d).num →
      ((decodeFp k (sqrtPat k a)).num < (decodeFp k d).num →
        (decodeFp k a).num ≤ (((decodeFp k (sqrtPat k a)).num + (decodeFp k d).num) / 2) ^ 2) ∧
      ((decodeFp k d).num < (decodeFp k (sqrtPat k a)).num →
        (((decodeFp k (sqrtPat k a)).num + (decodeFp k d).num) / 2) ^ 2 ≤ (decodeFp k a).num) := by
  obtain ⟨hfields, -⟩ := fields_of_single_or_double hk
  obtain ⟨r, q, hfin, hval, hfill, hup, hdown, hself⟩ := sqrtPat_units hk h hm
  rw [hval]
  have hr0 : (0 : ℚ) ≤ r := Nat.cast_nonneg r
  refine ⟨hfin, by positivity, fun d hd hd0 => ⟨fun hgt => hup.trans ?_, fun hlt => ?_⟩⟩
  · have hv := next_unit_le hfields hfill hd hd0 hgt
    gcongr
    linarith
  · have hr : 1 ≤ r := by
      by_contra h0
      have hzero : r = 0 := by omega
      rw [hzero, Nat.cast_zero, zero_mul] at hlt
      linarith
    by_cases hleast : q ≠ minQ k ∧ r = 2 ^ k.frac
    · refine le_trans ?_ (hself hleast)
      gcongr
      linarith
    · have hv := le_unit_before hfields hfill hd hd0 hleast hlt
      refine le_trans ?_ (hdown hr)
      gcongr
      linarith

end

end Sys2Proof.Machine
end

section
/-! ### Special functions (R140, R141) -/
namespace Sys2Proof.Machine

/-! ### Pending forms -/

theorem extract_low_word (x : BitVec 64) : x.extractLsb' 0 32 = x.setWidth 32 := by
  apply BitVec.eq_of_getLsbD_eq
  simp

theorem extract_high_word (x : BitVec 64) : x.extractLsb' 32 32 = (x >>> 32).setWidth 32 := by
  apply BitVec.eq_of_getLsbD_eq
  simp

theorem pendingFloat_of_pendUn {mk : Width → BitVec 6 → BitVec 6 → Marks → Instr} {f : Fmt → Nat → Nat}
    (hl : ∀ w a d m, lengthOf (mk w a d m) = 2)
    (he : ∀ w a d m s, exec (mk w a d m) s = vectorOp (mk w a d m) m.sw (pendUn (onPat1 f) w a d) s) :
    PendingFloat mk f := by
  refine fun a d m s hv => ⟨eachActive_of_vectorOp hv (he ..) (hl ..) fun t => rfl,
    eachActive_of_vectorOp hv (he ..) (hl ..) fun t => ?_⟩
  rw [← extract_low_word, ← extract_high_word]
  rfl

theorem pendingWord_of_vectorOp {mk : BitVec 6 → BitVec 6 → Marks → Instr} {f : Word → Word}
    (hl : ∀ a d m, lengthOf (mk a d m) = 2)
    (he : ∀ a d m s, exec (mk a d m) s = vectorOp (mk a d m) m.sw (fun t => pendRegs t [(d, f (getV t a))]) s) :
    PendingWord mk f :=
  fun _ _ _ _ hv => eachActive_of_vectorOp hv (he ..) (hl ..) fun _ => rfl

/-! ### Values whose magnitude is a power of two -/

section
variable {m m' : Nat} {e e' : Int}

/-- Whole numbers whose product with a power of two is one are powers of two. -/
theorem two_pow_of_mul_zpow_eq_one (h : (m : ℚ) * m' * (2 : ℚ) ^ e = 1) :
    ∃ i j : Nat, m = 2 ^ i ∧ m' = 2 ^ j ∧ (i : Int) + j + e = 0 := by
  have hprod : (m : ℚ) * m' = (2 : ℚ) ^ (-e) := by
    rw [zpow_neg]
    exact eq_inv_of_mul_eq_one_left h
  have hpos : (0 : ℚ) < (m : ℚ) * m' := by rw [hprod]; positivity
  have hone : 1 ≤ m * m' := by
    have : (0 : ℚ) < ((m * m' : Nat) : ℚ) := by push_cast; exact hpos
    exact Nat.cast_pos.mp this
  have he : 0 ≤ -e := by
    by_contra hneg
    have hlt : (2 : ℚ) ^ (-e) < (2 : ℚ) ^ (0 : Int) := two_zpow_lt_iff.mpr (not_le.mp hneg)
    have hge : (1 : ℚ) ≤ (m : ℚ) * m' := by exact_mod_cast hone
    rw [zpow_zero, ← hprod] at hlt
    linarith
  obtain ⟨l, hl⟩ := Int.eq_ofNat_of_zero_le he
  have hnat : m * m' = 2 ^ l := by
    rw [hl] at hprod
    exact_mod_cast hprod
  obtain ⟨i, -, rfl⟩ := (Nat.dvd_prime_pow Nat.prime_two).mp (Dvd.intro _ hnat)
  obtain ⟨j, -, rfl⟩ := (Nat.dvd_prime_pow Nat.prime_two).mp (Dvd.intro_left _ hnat)
  rw [← pow_add] at hnat
  have := Nat.pow_right_injective (le_refl 2) hnat
  exact ⟨i, j, rfl, rfl, by omega⟩

/-- A whole number times a power of two that is a power of two is one itself. -/
theorem two_pow_of_mul_zpow_eq {n : Int} (h : (m : ℚ) * (2 : ℚ) ^ e = (2 : ℚ) ^ n) : ∃ i : Nat, m = 2 ^ i ∧ (i : Int) + e = n := by
  have hone : (m : ℚ) * (1 : Nat) * (2 : ℚ) ^ (e - n) = 1 := by
    rw [zpow_sub₀ two_ne_zero, Nat.cast_one, mul_one, ← mul_div_assoc, h, div_self (by positivity)]
  obtain ⟨i, j, rfl, hj, hsum⟩ := two_pow_of_mul_zpow_eq_one hone
  have : j = 0 := by
    by_contra hne
    have := Nat.one_lt_two_pow hne
    omega
  exact ⟨i, rfl, by omega⟩

end

theorem abs_num_fin (neg : Bool) (m : Nat) (e : Int) : |(XVal.fin neg m e).num| = (m : ℚ) * (2 : ℚ) ^ e := by
  have hpos : (0 : ℚ) ≤ (m : ℚ) * (2 : ℚ) ^ e := by positivity
  rw [XVal.num, mul_assoc, abs_mul, abs_of_nonneg hpos]
  cases neg <;> simp

theorem fin_of_num_ne_zero {x : XVal} (h : x.num ≠ 0) : ∃ neg m e, x = .fin neg m e ∧ m ≠ 0 ∧
    x.num = (if neg then -1 else 1) * ((m : ℚ) * (2 : ℚ) ^ e) := by
  cases x with
  | nan => exact absurd rfl h
  | inf neg => exact absurd rfl h
  | fin neg m e =>
    refine ⟨neg, m, e, rfl, ?_, mul_assoc ..⟩
    rintro rfl
    simp [XVal.num] at h

theorem fin_of_num_pos {x : XVal} (h : 0 < x.num) : ∃ m e, x = .fin false m e ∧ m ≠ 0 ∧ x.num = (m : ℚ) * (2 : ℚ) ^ e := by
  obtain ⟨neg, m, e, rfl, hm, hnum⟩ := fin_of_num_ne_zero h.ne'
  cases neg with
  | false => exact ⟨m, e, rfl, hm, by rw [hnum, if_neg Bool.false_ne_true, one_mul]⟩
  | true =>
    rw [hnum, if_pos rfl, neg_one_mul] at h
    have : (0 : ℚ) ≤ (m : ℚ) * (2 : ℚ) ^ e := by positivity
    linarith

/-! ### frcp and frsq -/

section
variable {k : Fmt} (hk : k.Fields) {a b : Nat} (hb : b < 2 ^ k.bits)
include hk hb

/-- The reciprocal of a power of two that the format holds is exact. -/
theorem rcpPat_exact (h : (decodeFp k a).num * (decodeFp k b).num = 1) : rcpPat k a = b := by
  obtain ⟨na, ma, ea, hda, hma, hva⟩ := fin_of_num_ne_zero (left_ne_zero_of_mul_eq_one h)
  obtain ⟨nb, mb, eb, hdb, hmb, hvb⟩ := fin_of_num_ne_zero (right_ne_zero_of_mul_eq_one h)
  rw [hva, hvb] at h
  have hpa : (0 : ℚ) < (ma : ℚ) * (2 : ℚ) ^ ea := by positivity
  have hpb : (0 : ℚ) < (mb : ℚ) * (2 : ℚ) ^ eb := by positivity
  have hpos := mul_pos hpa hpb
  obtain ⟨rfl, hprod⟩ : na = nb ∧ (ma : ℚ) * (2 : ℚ) ^ ea * ((mb : ℚ) * (2 : ℚ) ^ eb) = 1 := by
    cases na <;> cases nb <;> simp at h ⊢ <;> linarith
  have hone : (ma : ℚ) * mb * (2 : ℚ) ^ (ea + eb) = 1 := by
    rw [← hprod, zpow_add₀ two_ne_zero]
    ring
  obtain ⟨i, j, rfl, -, -⟩ := two_pow_of_mul_zpow_eq_one hone
  simp only [rcpPat, rcpBits, hda, hma, if_false, Nat.log2_two_pow, if_true]
  refine roundQ_eq_of_value hk hdb hb hmb one_ne_zero hma ?_ .rn
  rw [Nat.cast_one, zpow_neg, one_div, ← mul_inv]
  exact inv_eq_of_mul_eq_one_right hprod

/-- The reciprocal square root of a power of four is exact. -/
theorem rsqPat_exact (hpos : 0 < (decodeFp k b).num) (h : (decodeFp k b).num ^ 2 * (decodeFp k a).num = 1) :
    rsqPat k a = b := by
  obtain ⟨mb, eb, hdb, hmb, hvb⟩ := fin_of_num_pos hpos
  obtain ⟨ma, ea, hda, hma, hva⟩ := fin_of_num_pos ((mul_pos_iff_of_pos_left (pow_pos hpos 2)).mp (h ▸ one_pos))
  rw [hva, hvb] at h
  have hone : ((mb ^ 2 : Nat) : ℚ) * ma * (2 : ℚ) ^ (2 * eb + ea) = 1 := by
    rw [← h, zpow_add₀ two_ne_zero, mul_comm 2 eb, zpow_mul]
    push_cast
    rw [show ((2 : ℚ) ^ eb) ^ (2 : Int) = ((2 : ℚ) ^ eb) ^ 2 from zpow_natCast _ 2]
    ring
  obtain ⟨i, j, hi, rfl, hsum⟩ := two_pow_of_mul_zpow_eq_one hone
  obtain ⟨l, -, rfl⟩ := (Nat.dvd_prime_pow Nat.prime_two).mp (Dvd.intro_left (2 ^ i / mb) (Nat.div_mul_cancel
    (hi ▸ dvd_pow_self mb two_ne_zero)))
  rw [← pow_mul] at hi
  have hil : l * 2 = i := Nat.pow_right_injective (le_refl 2) hi
  -- the even exponent, and the root of the significand that goes with it
  obtain ⟨t, ht, hexp⟩ : ∃ t : Nat, (if ea % 2 = 0 then 2 ^ j else 2 * 2 ^ j) = 2 ^ t * 2 ^ t ∧
      (t : Int) + (if ea % 2 = 0 then ea else ea - 1) / 2 = -(l + eb) := by
    by_cases he : ea % 2 = 0
    · rw [if_pos he, if_pos he]
      exact ⟨j / 2, by rw [← pow_add]; congr 1; omega, by omega⟩
    · rw [if_neg he, if_neg he, ← pow_succ']
      exact ⟨(j + 1) / 2, by rw [← pow_add]; congr 1; omega, by omega⟩
  have hround : rsqPat k a = roundQ k false 1 (2 ^ t) (-((if ea % 2 = 0 then ea else ea - 1) / 2)) .rn false := by
    simp only [rsqPat, rsqBits, hda, hma, if_false, Bool.false_eq_true, ht, isqrt_eq_sqrt, Nat.sqrt_eq, Nat.log2_two_pow,
      and_self, if_true]
  rw [hround]
  refine roundQ_eq_of_value hk hdb hb hmb one_ne_zero (by positivity) ?_ .rn
  generalize (if ea % 2 = 0 then ea else ea - 1) / 2 = c at hexp
  have hc : -c = (t : Int) + l + eb := by omega
  rw [hc, zpow_add₀ two_ne_zero, zpow_add₀ two_ne_zero, zpow_natCast, zpow_natCast]
  push_cast
  field_simp

end

/-! ### fexp2 and flog2 -/

/-- The whole number that a finite value is, as the model computes it. -/
theorem whole_of_num {m : Nat} {e : Int} {n : Nat} (h : (m : ℚ) * (2 : ℚ) ^ e = n) : m * pow2 e = n * pow2 (-e) := by
  have hpos := pow2_cast_pos (-e)
  rw [← Nat.cast_inj (R := ℚ), Nat.cast_mul, Nat.cast_mul, pow2_eq_mul e, ← mul_assoc, h]

/-- A power of two in FP32 has an exponent from -149 to 127. -/
theorem exponent_bounds {b : Nat} {n : Int} (h : (decodeFp fp32 b).num = (2 : ℚ) ^ n) : -149 ≤ n ∧ n ≤ 129 := by
  obtain ⟨m, e, hdec, hm, hval⟩ := fin_of_num_pos (h ▸ (by positivity : (0 : ℚ) < (2 : ℚ) ^ n))
  obtain ⟨hlt, hlo, hhi, -, -⟩ := decodeFp_fin_bounds (fields_of_mem (by decide)) hdec
  rw [h] at hval
  obtain ⟨i, rfl, hsum⟩ := two_pow_of_mul_zpow_eq hval.symm
  have hi : i < 24 := (Nat.pow_lt_pow_iff_right (by decide)).mp hlt
  simp only [minQ, fp32] at hlo hhi
  omega

theorem exp2_exact {a b : Word} {n : Int} (hfin : (decodeFp fp32 a.toNat).finite = true)
    (ha : (decodeFp fp32 a.toNat).num = n) (hb : (decodeFp fp32 b.toNat).num = (2 : ℚ) ^ n) :
    specialUn 0 exp2Bits a = b := by
  obtain ⟨hn1, hn2⟩ := exponent_bounds hb
  obtain ⟨mb, eb, hdb, hmb, hvb⟩ := fin_of_num_pos (hb ▸ (by positivity : (0 : ℚ) < (2 : ℚ) ^ n))
  have hround : roundQ fp32 false 1 1 n .rn false = b.toNat :=
    roundQ_eq_of_value (fields_of_mem (by decide)) hdb b.isLt hmb one_ne_zero one_ne_zero
      (by rw [← hvb, hb]; norm_num) .rn
  obtain ⟨neg, m, e, hda⟩ := eq_fin_of_finite hfin
  rw [hda] at ha
  have habs : (m : ℚ) * (2 : ℚ) ^ e = (n.natAbs : ℚ) := by
    rw [← abs_num_fin neg, ha, Nat.cast_natAbs, Int.cast_abs]
  suffices hex : exp2Bits (decodeFp fp32 a.toNat) (Config.special 0 a).toNat = b.toNat by
    rw [specialUn, hex, BitVec.ofNat_toNat, BitVec.setWidth_eq]
  have hwhole := whole_of_num habs
  rw [hda, ← hround]
  by_cases hm : m = 0
  · subst hm
    have hn0 : n = 0 := by
      rw [Nat.cast_zero, zero_mul, eq_comm, Nat.cast_eq_zero] at habs
      omega
    rw [hn0]
    rfl
  · have hdiv : m * pow2 e / pow2 (-e) = n.natAbs := by rw [hwhole, Nat.mul_div_cancel _ (pow2_pos _)]
    have hmod : m * pow2 e % pow2 (-e) = 0 := by rw [hwhole, Nat.mul_mod_left]
    have hsmall : ¬ (e ≥ 10 ∨ m * pow2 e / pow2 (-e) ≥ 300) := by
      rw [hdiv]
      rintro (he | hbig)
      · have hp : 2 ^ 10 ≤ pow2 e := Nat.pow_le_pow_right (by decide) (by omega)
        have hneg : pow2 (-e) = 1 := by rw [pow2, Int.toNat_of_nonpos (by omega), pow_zero]
        rw [hneg, mul_one] at hwhole
        have := Nat.mul_le_mul (Nat.one_le_iff_ne_zero.mpr hm) hp
        omega
      · omega
    have hsign : (if neg = true then -((n.natAbs : Nat) : Int) else (n.natAbs : Int)) = n := by
      rw [XVal.num, mul_assoc, habs] at ha
      refine Int.cast_injective (α := ℚ) ?_
      rw [← ha]
      cases neg <;> simp
    rw [hdiv] at hsmall
    simp only [exp2Bits, hm, hsmall, hmod, hdiv, hsign, if_false, if_true]

/-- A small whole number is a value of FP32. -/
theorem decodeFp_roundFp_ofInt {n : Int} (hn : n.natAbs < 2 ^ 24) : (decodeFp fp32 (roundFp fp32 (ofInt n) .rn false)).finite = true ∧
    (decodeFp fp32 (roundFp fp32 (ofInt n) .rn false)).num = n := by
  have hk : fp32.Fields := fields_of_mem (by decide)
  by_cases h0 : n = 0
  · subst h0
    have hdec : decodeFp fp32 (roundFp fp32 (ofInt 0) .rn false) = .fin false 0 (-149) := by decide
    rw [hdec]
    simp [XVal.num, XVal.finite]
  · have habs : n.natAbs ≠ 0 := Int.natAbs_ne_zero.mpr h0
    have hround : roundFp fp32 (ofInt n) .rn false = roundQ fp32 (decide (n < 0)) n.natAbs 1 0 .rn false := by
      rw [ofInt, ofScaled, if_neg h0, roundFp]
    have hlog : Nat.log2 n.natAbs < 24 := (Nat.log2_lt habs).mpr hn
    have hq : quantum fp32 n.natAbs 1 0 = (Nat.log2 n.natAbs : Int) - 23 := by
      rw [quantum, log2Q_one habs]
      simp only [fp32, minQ]
      omega
    obtain ⟨j, hj⟩ : ∃ j : Nat, quantum fp32 n.natAbs 1 0 = -(j : Int) := ⟨23 - Nat.log2 n.natAbs, by omega⟩
    have hunits : unitsOf fp32 .near n.natAbs 1 0 = n.natAbs * 2 ^ j := by
      refine unitsOf_exact one_ne_zero ?_
      rw [hj, zpow_neg, zpow_natCast]
      push_cast
      field_simp
    have hle : codeOf fp32 .near n.natAbs 1 0 ≤ maxCode fp32 := by
      rw [codeOf_eq_units habs]
      have hu := unitsOf_near_le (k := fp32) (e := 0) habs one_ne_zero
      have hmax : maxCode fp32 = 255 * 2 ^ 23 - 1 := by decide
      have hm : (quantum fp32 n.natAbs 1 0 - minQ fp32).toNat ≤ 149 := by
        rw [hj]
        simp only [fp32, minQ]
        omega
      have hf : fp32.frac = 23 := rfl
      rw [hf] at hu ⊢
      rw [hmax]
      omega
    obtain ⟨hfin, hval⟩ := decodeFp_roundQ (neg := decide (n < 0)) hk rfl habs one_ne_zero hle
    rw [hround]
    refine ⟨hfin, ?_⟩
    rw [hval, hunits, hj, zpow_neg, zpow_natCast]
    push_cast
    rw [mul_assoc, mul_inv_cancel₀ (by positivity), mul_one]
    by_cases hneg : n < 0
    · rw [if_pos (by simpa using hneg), Nat.cast_natAbs, abs_of_neg hneg]
      push_cast
      ring
    · rw [if_neg (by simpa using hneg), Nat.cast_natAbs, abs_of_nonneg (not_lt.mp hneg), one_mul]

theorem log2_exact {a : Word} {n : Int} (ha : (decodeFp fp32 a.toNat).num = (2 : ℚ) ^ n) :
    (decodeFp fp32 (specialUn 1 log2Bits a).toNat).finite = true ∧ (decodeFp fp32 (specialUn 1 log2Bits a).toNat).num = n := by
  obtain ⟨hn1, hn2⟩ := exponent_bounds ha
  obtain ⟨m, e, hda, hm, hva⟩ := fin_of_num_pos (ha ▸ (by positivity : (0 : ℚ) < (2 : ℚ) ^ n))
  rw [ha] at hva
  obtain ⟨i, rfl, hsum⟩ := two_pow_of_mul_zpow_eq hva.symm
  have hlog : (specialUn 1 log2Bits a).toNat = roundFp fp32 (ofInt n) .rn false := by
    have hbits : log2Bits (decodeFp fp32 a.toNat) (Config.special 1 a).toNat = roundFp fp32 (ofInt n) .rn false := by
      simp only [log2Bits, hda, hm, if_false, Bool.false_eq_true, Nat.log2_two_pow, if_true, ← hsum, add_comm e]
    rw [specialUn, hbits, BitVec.toNat_ofNat]
    exact Nat.mod_eq_of_lt (roundFp_lt (fields_of_mem (by decide)) _ _)
  rw [hlog]
  exact decodeFp_roundFp_ofInt (by omega)

/-! ### ftanh -/

section
variable {a : Word} (hfin : (decodeFp fp32 a.toNat).finite = true)
include hfin

/-- The hyperbolic tangent is one, with the sign of its argument, from 9 on. -/
theorem tanh_of_large (h : 9 ≤ |(decodeFp fp32 a.toNat).num|) :
    specialUn 4 (fun v n => tanhBits v a.toNat n) a =
      if 0 < (decodeFp fp32 a.toNat).num then 0x3F800000 else 0xBF800000 := by
  obtain ⟨neg, m, e, hda⟩ := eq_fin_of_finite hfin
  rw [hda, abs_num_fin] at h
  have hm : m ≠ 0 := by
    rintro rfl
    norm_num at h
  have hge : m * pow2 e ≥ 9 * pow2 (-e) := by
    have := mul_le_mul_of_nonneg_right h (pow2_cast_pos (-e)).le
    rw [mul_assoc, ← pow2_eq_mul] at this
    exact_mod_cast this
  have hbits : specialUn 4 (fun v n => tanhBits v a.toNat n) a = BitVec.ofNat 32 (roundQ fp32 neg 1 1 0 .rn false) := by
    simp only [specialUn, hda, tanhBits, hm, hge, if_false, if_true]
  rw [hbits, hda, XVal.num, mul_assoc]
  cases neg with
  | false => rw [if_neg Bool.false_ne_true, one_mul, if_pos (by linarith)]; decide
  | true => rw [if_pos rfl, if_neg (by linarith)]; decide

/-- The hyperbolic tangent of a small value is that value. -/
theorem tanh_of_small (h : |(decodeFp fp32 a.toNat).num| * 4096 < 1) :
    specialUn 4 (fun v n => tanhBits v a.toNat n) a = a := by
  obtain ⟨neg, m, e, hda⟩ := eq_fin_of_finite hfin
  rw [hda, abs_num_fin] at h
  suffices hbits : tanhBits (decodeFp fp32 a.toNat) a.toNat (Config.special 4 a).toNat = a.toNat by
    rw [specialUn, hbits, BitVec.ofNat_toNat, BitVec.setWidth_eq]
  rw [hda]
  by_cases hm : m = 0
  · have hself := roundFp_decodeFp (fields_of_mem (by decide) : fp32.Fields) a.isLt .rn
    rw [hda, if_neg (by simp), hm] at hself
    rw [hm]
    exact hself
  · have hsmall : m * pow2 (e + 12) < pow2 (-(e + 12)) := by
      have hp := pow2_cast_pos (-(e + 12))
      have hlt : (m : ℚ) * (2 : ℚ) ^ (e + 12) * (pow2 (-(e + 12)) : Nat) < 1 * (pow2 (-(e + 12)) : Nat) := by
        refine mul_lt_mul_of_pos_right ?_ hp
        rw [zpow_add₀ two_ne_zero, ← mul_assoc]
        norm_num
        exact h
      rw [mul_assoc, ← pow2_eq_mul, one_mul] at hlt
      exact_mod_cast hlt
    have hlarge : ¬ m * pow2 e ≥ 9 * pow2 (-e) := by
      intro hge
      have hp := pow2_cast_pos (-e)
      have : (9 : ℚ) * (pow2 (-e) : Nat) ≤ (m : ℚ) * (2 : ℚ) ^ e * (pow2 (-e) : Nat) := by
        rw [mul_assoc, ← pow2_eq_mul]
        exact_mod_cast hge
      have := le_of_mul_le_mul_right this hp
      linarith
    simp only [tanhBits, hm, hlarge, hsmall, if_false, if_true]

end

/-! ### The claim -/

/-- The patterns with no exact magnitude: NaN, infinities, zeros and the values below zero. -/
theorem roots_of_special_values {k : Fmt} {a : Nat} (hk : k = fp32 ∨ k = fp64) (n : Bool) :
    (decodeFp k a = .inf n → rcpPat k a = signed k n 0 ∧ rsqPat k a = (if n then canonNan k else 0) ∧
      sqrtPat k a = (if n then canonNan k else infCode k)) ∧
    ∀ e, decodeFp k a = .fin n 0 e → rcpPat k a = signed k n (infCode k) ∧ rsqPat k a = signed k n (infCode k) ∧
      sqrtPat k a = signed k n 0 := by
  have hinf := (fields_of_single_or_double hk).2
  refine ⟨fun h => ?_, fun e h => ?_⟩
  · simp only [rcpPat, rsqPat, sqrtPat, rcpBits, rsqBits, sqrtBits, h, and_self]
  · simp [rcpPat, rsqPat, sqrtPat, rcpBits, rsqBits, sqrtBits, h, infResult, hinf]

theorem specialFunctionsArePending : Claims.SpecialFunctionsArePending := by
  refine ⟨⟨rcpPat, rsqPat, sqrtPat, pendingFloat_of_pendUn (fun _ _ _ _ => rfl) fun _ _ _ _ _ => rfl,
      pendingFloat_of_pendUn (fun _ _ _ _ => rfl) fun _ _ _ _ _ => rfl,
      pendingFloat_of_pendUn (fun _ _ _ _ => rfl) fun _ _ _ _ _ => rfl, fun k a h => ?nan,
      fun k a n hk => (roots_of_special_values hk n).1, fun k a n e hk => (roots_of_special_values hk n).2 e,
      fun k a m e h hm => ?below, fun k a b hk _ hb => rcpPat_exact (fields_of_single_or_double hk).1 hb,
      fun k a b hk _ hb => rsqPat_exact (fields_of_single_or_double hk).1 hb, fun k a m e hk h => ?root⟩,
    specialUn 0 exp2Bits, specialUn 1 log2Bits, specialUn 2 (trigBits false), specialUn 3 (trigBits true),
    fun a => specialUn 4 (fun v n => tanhBits v a.toNat n) a,
    pendingWord_of_vectorOp (fun _ _ _ => rfl) fun _ _ _ _ => rfl, pendingWord_of_vectorOp (fun _ _ _ => rfl) fun _ _ _ _ => rfl,
    pendingWord_of_vectorOp (fun _ _ _ => rfl) fun _ _ _ _ => rfl, pendingWord_of_vectorOp (fun _ _ _ => rfl) fun _ _ _ _ => rfl,
    pendingWord_of_vectorOp (fun _ _ _ => rfl) fun _ _ _ _ => rfl, fun a h => ?nanWord,
    rfl, rfl, rfl, rfl, rfl, rfl, rfl, rfl, rfl, rfl, rfl, rfl, rfl, rfl, rfl, rfl, rfl, rfl, rfl, rfl, rfl,
    fun a m e h hm => ?log, fun a b n => exp2_exact, fun a n => log2_exact, fun a hfin => ⟨tanh_of_large hfin, tanh_of_small hfin⟩⟩
  case nan => simp [rcpPat, rsqPat, sqrtPat, rcpBits, rsqBits, sqrtBits, h]
  case below => simp [rsqPat, sqrtPat, rsqBits, sqrtBits, h, hm]
  case root =>
    by_cases hm : m = 0
    · have hk' := fields_of_single_or_double hk
      have hzero : sqrtPat k a = signed k false (0 + 0 * 2 ^ k.frac) := by
        rw [((roots_of_special_values hk false).2 e (hm ▸ h)).2.2, Nat.zero_mul]
      obtain ⟨hfin, hnum⟩ := decodeFp_units (neg := false) hk'.1 hk'.2 (r := 0) (j := 0) (Nat.zero_le _)
        (fun hj => absurd rfl hj) (by simp)
      rw [← hzero, Nat.cast_zero, zero_mul, mul_zero] at hnum
      rw [← hzero] at hfin
      have ha : (decodeFp k a).num = 0 := by rw [h, hm]; simp [XVal.num]
      rw [hnum, ha]
      exact ⟨hfin, le_rfl, fun d _ hd => ⟨fun _ => sq_nonneg _, fun hlt => absurd hd (not_le.mpr hlt)⟩⟩
    · exact sqrtPat_nearest hk h hm
  case nanWord =>
    have hnan : BitVec.ofNat 32 (canonNan fp32) = 0x7FC00000 := by decide
    simp only [specialUn, exp2Bits, log2Bits, trigBits, tanhBits, h, hnan, and_self]
  case log =>
    have hnan : BitVec.ofNat 32 (canonNan fp32) = 0x7FC00000 := by decide
    simp [specialUn, log2Bits, h, hm, hnan]

end Sys2Proof.Machine
end

section
/-! ### Exponent and rounding adjustment (R142 to R144) -/
namespace Sys2Proof.Machine

/-! ### fldexp -/

theorem sext_eq_toInt (b : Nat) : sext 32 b = (BitVec.ofNat 32 b).toInt := by
  rw [sext, BitVec.toInt_eq_toNat_cond, BitVec.toNat_ofNat]
  split <;> split <;> omega

section
variable {k : Fmt} (hk : k = fp32 ∨ k = fp64) {a m : Nat} {neg : Bool} {e : Int}
  (h : decodeFp k a = .fin neg m e) (hm : m ≠ 0)
include hk h hm

/-- A value of the format times 2^4000 is above every value of it. -/
theorem roundQ_of_huge : roundQ k neg m 1 (e + 4000) .rn false = signed k neg (infCode k) := by
  obtain ⟨hfields, hinf⟩ := fields_of_single_or_double hk
  obtain ⟨hlt, hge, -, -, -⟩ := decodeFp_fin_bounds hfields h
  have hcode : codeOf k .near m 1 (e + 4000) > maxCode k := by
    rw [codeOf_eq_units hm]
    have hq : 2 ^ k.exp ≤ (quantum k m 1 (e + 4000) - minQ k).toNat := by
      rw [quantum, log2Q_one hm]
      rcases hk with rfl | rfl
      · simp only [minQ, fp32] at hge ⊢; omega
      · simp only [minQ, fp64] at hge ⊢; omega
    have hmul := Nat.mul_le_mul_right (2 ^ k.frac) hq
    have hinfc := infCode_add k
    have hpos : 0 < 2 ^ k.frac := by positivity
    rw [← pow_add] at hmul
    rw [maxCode, hinf, if_pos rfl]
    omega
  simp only [roundQ, magMode, if_pos hcode, infResult, hinf, if_true, Bool.false_eq_true, if_false]

/-- A value of the format times 2^-4000 is below half of the least. -/
theorem roundQ_of_tiny : roundQ k neg m 1 (e + -4000) .rn false = signed k neg 0 := by
  obtain ⟨hfields, hinf⟩ := fields_of_single_or_double hk
  obtain ⟨hlt, hge, hle, -, -⟩ := decodeFp_fin_bounds hfields h
  have hlog : Nat.log2 m < k.frac + 1 := (Nat.log2_lt hm).mpr hlt
  have hq : quantum k m 1 (e + -4000) = minQ k := by
    rw [quantum, log2Q_one hm]
    rcases hk with rfl | rfl
    · simp only [minQ, fp32] at hle hlog ⊢; omega
    · simp only [minQ, fp64] at hle hlog ⊢; omega
  have hunits : unitsOf k .near m 1 (e + -4000) = 0 := by
    have hnum : m * pow2 (e + -4000 - minQ k) = m := by
      have : (e + -4000 - minQ k).toNat = 0 := by
        rcases hk with rfl | rfl
        · simp only [minQ, fp32] at hle ⊢; omega
        · simp only [minQ, fp64] at hle ⊢; omega
      rw [pow2, this, pow_zero, mul_one]
    have hden : 2 * m < pow2 (minQ k - (e + -4000)) := by
      have hexp : k.frac + 2 ≤ (minQ k - (e + -4000)).toNat := by
        rcases hk with rfl | rfl
        · simp only [minQ, fp32] at hle ⊢; omega
        · simp only [minQ, fp64] at hle ⊢; omega
      have hpow : 2 ^ (k.frac + 2) ≤ pow2 (minQ k - (e + -4000)) := Nat.pow_le_pow_right Nat.two_pos hexp
      rw [pow_succ] at hpow
      omega
    rw [unitsOf, hq, hnum, one_mul, roundMag, Nat.mod_eq_of_lt (by omega), Nat.div_eq_of_lt (by omega), if_neg]
    omega
  have hcode : codeOf k .near m 1 (e + -4000) = 0 := by
    rw [codeOf_eq_units hm, hunits, hq, sub_self, Int.toNat_zero, Nat.zero_mul]
  exact roundQ_of_code hcode (Nat.zero_le _)

end

theorem fldexpPat_eq {k : Fmt} (hk : k = fp32 ∨ k = fp64) (a b : Nat) :
    fldexpPat k a b = scaledPattern k a (BitVec.ofNat 32 b).toInt := by
  rw [← sext_eq_toInt, fldexpPat, scaledPattern]
  generalize sext 32 b = n
  cases h : decodeFp k a with
  | nan => rfl
  | inf neg => rfl
  | fin neg m e =>
    dsimp only
    by_cases hm : m = 0
    · rw [if_pos hm, if_pos hm]
    · rw [if_neg hm, if_neg hm, clampInt]
      by_cases hlo : n < -4000
      · rw [if_pos hlo, if_neg (by omega), if_pos hlo, roundQ_of_tiny hk h hm]
      · by_cases hhi : n > 4000
        · rw [if_neg hlo, if_pos hhi, if_pos hhi, roundQ_of_huge hk h hm]
        · rw [if_neg hlo, if_neg hhi, if_neg hhi, if_neg hlo, roundFp]

/-! ### frnd -/

/-- The magnitude of a finite value rounded to a whole number. -/
def wholeOf (rm : Rnd) (neg : Bool) (m : Nat) (e : Int) : Nat := roundMag (magMode rm neg) (m * pow2 e) (pow2 (-e))

theorem frndPat_fin {rm : Rnd} {k : Fmt} {a m : Nat} {neg : Bool} {e : Int} (h : decodeFp k a = .fin neg m e) (hm : m ≠ 0) :
    frndPat rm k a = roundFp k (.fin neg (wholeOf rm neg m e) 0) .rn false := by
  have habs : (roundIntX neg m e rm).natAbs = wholeOf rm neg m e := by
    unfold roundIntX roundInt wholeOf
    dsimp only
    split <;> omega
  simp only [frndPat, h, hm, if_false, habs, roundFp]

theorem fraction_eq (m : Nat) (e : Int) : ((m * pow2 e : Nat) : ℚ) / (pow2 (-e) : Nat) = (m : ℚ) * (2 : ℚ) ^ e := by
  have h := div_at_exponent m 1 e
  rwa [one_mul, Nat.cast_one, div_one] at h

theorem wholeOf_down {m : Nat} {e : Int} : roundMag .down (m * pow2 e) (pow2 (-e)) = ⌊(m : ℚ) * (2 : ℚ) ^ e⌋₊ := by
  rw [← fraction_eq, Nat.floor_div_eq_div]
  rfl

theorem wholeOf_up {m : Nat} {e : Int} : roundMag .up (m * pow2 e) (pow2 (-e)) = ⌈(m : ℚ) * (2 : ℚ) ^ e⌉₊ := by
  have hd := pow2_pos (-e)
  rw [← fraction_eq]
  generalize m * pow2 e = n
  generalize pow2 (-e) = d at hd
  have hdq : (0 : ℚ) < d := Nat.cast_pos.mpr hd
  refine eq_of_forall_ge_iff fun c => ?_
  rw [Nat.ceil_le, div_le_iff₀ hdq, ← Nat.cast_mul, Nat.cast_le, roundMag, ceilDiv, ← Nat.lt_succ_iff,
    Nat.div_lt_iff_lt_mul hd, Nat.succ_mul]
  omega

theorem wholeOf_near {m : Nat} {e : Int} :
    |(roundMag .near (m * pow2 e) (pow2 (-e)) : ℚ) - (m : ℚ) * (2 : ℚ) ^ e| ≤ 1 / 2 ∧
      (|(roundMag .near (m * pow2 e) (pow2 (-e)) : ℚ) - (m : ℚ) * (2 : ℚ) ^ e| = 1 / 2 →
        roundMag .near (m * pow2 e) (pow2 (-e)) % 2 = 0) := by
  rw [← fraction_eq]
  exact roundMag_near _ (pow2_pos _)

/-! ### fexpof and ffract -/

/-- The exponent of a pattern at a format (R144). -/
def exponentOf (k : Fmt) (a : Nat) : Int :=
  match decodeFp k a with
  | .fin _ m e => if m = 0 then -2 ^ (k.bits - 1) else e + Nat.log2 m
  | _ => 2 ^ (k.bits - 1) - 1

theorem fexpofOp_eq {n : Nat} (hn : n = 32 ∨ n = 64) (a : BitVec n) :
    fexpofOp n a = BitVec.ofInt n (exponentOf (fmtOf n) a.toNat) := by
  have hbits : (fmtOf n).bits = n := by rcases hn with rfl | rfl <;> rfl
  rw [fexpofOp, exponentOf, hbits]
  cases h : decodeFp (fmtOf n) a.toNat with
  | nan => rcases hn with rfl | rfl <;> decide
  | inf neg =>
    dsimp only
    rcases hn with rfl | rfl <;> decide
  | fin neg m e =>
    dsimp only
    split
    · rcases hn with rfl | rfl <;> decide
    · rfl

theorem exponentOf_bounds {k : Fmt} {a m : Nat} {neg : Bool} {e : Int} (h : decodeFp k a = .fin neg m e) (hm : m ≠ 0) :
    (2 : ℚ) ^ exponentOf k a ≤ (m : ℚ) * (2 : ℚ) ^ e ∧ (m : ℚ) * (2 : ℚ) ^ e < (2 : ℚ) ^ (exponentOf k a + 1) := by
  have hexp : exponentOf k a = Nat.log2 m + e := by simp only [exponentOf, h, hm, if_false, add_comm]
  have hbounds := log2Q_add_bounds hm one_ne_zero e
  rwa [log2Q_one hm, Nat.cast_one, div_one, ← hexp] at hbounds

theorem ffract_whole (m : Nat) (e : Int) : ((if e < 0 then m % pow2 (-e) else 0 : Nat) : ℚ) * (2 : ℚ) ^ e =
    (m : ℚ) * (2 : ℚ) ^ e - ⌊(m : ℚ) * (2 : ℚ) ^ e⌋₊ := by
  rw [← wholeOf_down, roundMag]
  split
  next he =>
    have hone : pow2 e = 1 := by rw [pow2, Int.toNat_of_nonpos he.le, pow_zero]
    have hinv : (pow2 (-e) : ℚ) * (2 : ℚ) ^ e = 1 := by
      rw [pow2_cast (by omega), ← zpow_add₀ two_ne_zero, neg_add_cancel, zpow_zero]
    rw [hone, mul_one, eq_sub_iff_add_eq]
    calc ((m % pow2 (-e) : Nat) : ℚ) * (2 : ℚ) ^ e + (m / pow2 (-e) : Nat)
        = ((m % pow2 (-e) : Nat) : ℚ) * (2 : ℚ) ^ e + (m / pow2 (-e) : Nat) * ((pow2 (-e) : ℚ) * (2 : ℚ) ^ e) := by
          rw [hinv, mul_one]
      _ = ((m % pow2 (-e) + pow2 (-e) * (m / pow2 (-e)) : Nat) : ℚ) * (2 : ℚ) ^ e := by push_cast; ring
      _ = (m : ℚ) * (2 : ℚ) ^ e := by rw [Nat.mod_add_div]
  next he =>
    have hone : pow2 (-e) = 1 := by rw [pow2, Int.toNat_of_nonpos (by omega), pow_zero]
    rw [hone, Nat.div_one, Nat.cast_zero, zero_mul, Nat.cast_mul, pow2_cast (not_lt.mp he), sub_self]

/-! ### The claim -/

/-- A form of one source acts on its patterns at the format of the width. -/
theorem floatForm_of_un {mk : Width → BitVec 6 → BitVec 6 → BitVec 6 → Marks → Instr} {f : Fmt → Nat → Nat}
    (hl : ∀ w b a d m, lengthOf (mk w b a d m) = 2) (he : ∀ w b a d m s, exec (mk w b a d m) s =
      vectorOp (mk w b a d m) m.sw (un (onPat1 f) w a d) s) : FloatForm mk fun k a _ _ => f k a :=
  fun _ _ _ _ _ hv => ⟨eachActive_of_vectorOp hv (he ..) (hl ..) fun _ => rfl,
    eachActive_of_vectorOp hv (he ..) (hl ..) fun _ => rfl⟩

theorem exponentAndRoundingAdjustment : Claims.ExponentAndRoundingAdjustment := by
  refine ⟨?ldexp, ⟨frndPat, floatForm_of_un (fun _ _ _ _ _ => rfl) fun _ _ _ _ _ _ => rfl,
      floatForm_of_un (fun _ _ _ _ _ => rfl) fun _ _ _ _ _ _ => rfl,
      floatForm_of_un (fun _ _ _ _ _ => rfl) fun _ _ _ _ _ _ => rfl,
      floatForm_of_un (fun _ _ _ _ _ => rfl) fun _ _ _ _ _ _ => rfl,
      fun rm k a h => by simp only [frndPat, h], fun rm k a n h => by simp only [frndPat, h],
      fun rm k a n e h => by simp only [frndPat, h, if_true], fun rm k a m n e h hm => ?round⟩,
    ⟨exponentOf, fun a d m s hv => ?expof, fun k a hk h => ?infinite, fun k a n e hk h => by simp only [exponentOf, h, if_true],
      fun k a m n e h hm => exponentOf_bounds h hm⟩,
    ⟨ffractPat, floatForm_of_un (fun _ _ _ _ _ => rfl) fun _ _ _ _ _ _ => rfl, fun k a h => by simp only [ffractPat, h],
      fun k a n h => by simp only [ffractPat, h],
      fun k a m n e h => ⟨_, by simp only [ffractPat, h, roundFp], ffract_whole m e⟩⟩⟩
  case ldexp =>
    have hform := floatForm_of_bin (mk := fun w b a d m => .fldexp ⟨w, b, a, d, m⟩) (f := fldexpPat)
      (fun _ _ _ _ _ => rfl) fun _ _ _ _ _ _ => rfl
    intro a b d m s hv
    obtain ⟨h1, h2⟩ := hform a b d m s hv
    simp only [fldexpPat_eq (.inl rfl), fldexpPat_eq (.inr rfl)] at h1 h2
    exact ⟨h1, h2⟩
  case round =>
    refine ⟨wholeOf rm n m e, frndPat_fin h hm, fun hmode => ?_, fun hmode => ?_, fun hmode => ?_⟩
    · have hdown : magMode rm n = .down := by rcases hmode with rfl | rfl <;> cases n <;> rfl
      rw [wholeOf, hdown, wholeOf_down]
    · have hup : magMode rm n = .up := by subst hmode; cases n <;> rfl
      rw [wholeOf, hup, wholeOf_up]
    · subst hmode
      exact wholeOf_near
  case expof =>
    constructor
    · refine eachActive_of_vectorOp hv rfl rfl fun t => ?_
      exact congrArg (setV t d) (fexpofOp_eq (.inl rfl) (getV t a))
    · refine eachActive_of_vectorOp hv rfl rfl fun t => ?_
      exact congrArg (setV2 t d) (fexpofOp_eq (.inr rfl) (getV2 t a))
  case infinite =>
    cases hdec : decodeFp k a with
    | fin neg m e => rw [hdec] at h; cases h
    | nan => simp only [exponentOf, hdec]
    | inf neg => simp only [exponentOf, hdec]

/-- Settles O16: the exact cases by the rounding of their values, the root by its halfway points. -/
theorem specialFunctionsAndAdjustment : Obligations.SpecialFunctionsAndAdjustment :=
  ⟨specialFunctionsArePending, exponentAndRoundingAdjustment⟩

end Sys2Proof.Machine
end

section
/-! ### The end of a workgroup whose launch is not there (R167, R251)

`Claims.MessageStepsComplete` asks the end of every workgroup that may end, whether or not its launch is in the state. The
step looks the launch up first, since it counts the workgroup there, and does nothing where there is none. -/
namespace Sys2Proof.Machine

theorem execWorkgroupEnd_without_launch {s : State} {wg : Nat} {g : Workgroup} (hg : findWg s wg = some g)
    (hl : findLaunch s g.launch = none) : execWorkgroupEnd wg s = .next s := by
  simp only [execWorkgroupEnd, hg, Option.bind_some, hl]

/-- A workgroup that runs, with no block to create and nothing of it left. -/
def spentWorkgroup : Workgroup where
  id := 1
  launch := 1
  ctx := 1
  wgid := 0
  home := ⟨0, 0⟩
  phase := .running
  stop := .none
  rung := 0
  hasHalf := false
  k := Vector.replicate 32 0
  guards := Vector.replicate 16 .idle
  scratch := []
  rings := []
  btier := []
  tiles := []
  rowNan := []
  handles := []
  blocks := 0
  exited := []
  counts := ⟨0, 0, 0, 0, 0⟩
  cover := ⟨0, 0, [], [], [], false, false, 0, false, []⟩
  probes := []
  queues := []
  lateTraps := []
  heldTraps := []
  vcluster := 0
  placedAt := 0
  started := true

/-- The module after reset with that workgroup, and with no launch. -/
def launchlessState : State := { State.reset with wgs := [spentWorkgroup] }

theorem spentWorkgroup_found : findWg launchlessState 1 = some spentWorkgroup := rfl

theorem spentWorkgroup_mayEnd : mayEnd launchlessState spentWorkgroup = true := by decide

theorem spentWorkgroup_stays : exec (.workgroupEnd 1) launchlessState = .next launchlessState :=
  execWorkgroupEnd_without_launch spentWorkgroup_found rfl

theorem not_messageStepsComplete : ¬ Claims.MessageStepsComplete := by
  unfold Claims.MessageStepsComplete
  rintro ⟨-, -, -, -, -, -, -, -, -, -, -, -, -, -, -, -, -, -, -, -, hend, -⟩
  obtain ⟨s', hrun, h, hfound, hended⟩ := hend launchlessState 1 spentWorkgroup spentWorkgroup_found spentWorkgroup_mayEnd
  obtain rfl : launchlessState = s' := Host.Outcome.next.inj (spentWorkgroup_stays.symm.trans hrun)
  obtain rfl : spentWorkgroup = h := Option.some.inj (spentWorkgroup_found.symm.trans hfound)
  exact absurd hended (by decide)

end Sys2Proof.Machine

namespace Sys2Proof

/-- Refutes O60: a running workgroup that may end, in a state without its launch, does not end. The step of
`workgroupEnd` answers the same state there, and the conjunct of `Claims.MessageStepsComplete` about it has no hypothesis
that the launch is found (O43 states the end of a workgroup with it). -/
theorem not_specialFunctionsComplete : ¬ Obligations.SpecialFunctionsComplete := by
  unfold Obligations.SpecialFunctionsComplete
  rintro ⟨-, -, hmessages, -⟩
  exact Machine.not_messageStepsComplete hmessages

end Sys2Proof
end

section
/-! ### Integer forms by their operations (R102, R107 to R120) -/
namespace Sys2Proof.Machine

/-! ### From an operation to its instruction -/

/-- A V form by what it writes at each of its widths. -/
theorem vForm_of_widths {mk : VOps → Instr} {f : (n : Nat) → BitVec n → BitVec n → BitVec n → BitVec n}
    (h1 : ∀ b a d m s, exec (mk ⟨b, .x1, a, .x1, d, m⟩) s =
      aluOp m (fun t => setV t d (f 32 (getV t a) (srcB s t b) (getV t d))) s)
    (h2 : ∀ b a d m s, exec (mk ⟨b, .x2, a, .x2, d, m⟩) s =
      aluOp m (fun t => setV2 t d (f 64 (getV2 t a) (srcB2 s t b) (getV2 t d))) s) : VForm mk f :=
  fun b _ _ _ _ => ⟨eachActive_of_aluOp (h1 ..) fun _ => by cases b <;> rfl,
    eachActive_of_aluOp (h2 ..) fun _ => by cases b <;> rfl⟩

theorem twoSources_of_bin {mk : VF3 → Instr} {f g : Bin} (he : ∀ x s, exec (mk x) s = aluOp x.m (bin f x.w x.a x.b x.d) s)
    (hf : ∀ n, 0 < n → ∀ a b, f n a b = g n a b) : TwoSources mk g :=
  fun _ _ d _ s => ⟨eachActive_of_aluOp (he _ s) fun t => congrArg (setV t d) (hf 32 (by decide) ..),
    eachActive_of_aluOp (he _ s) fun t => congrArg (setV2 t d) (hf 64 (by decide) ..)⟩

theorem oneSource_of_un {mk : VF2 → Instr} {f g : Un} (he : ∀ x s, exec (mk x) s = aluOp x.m (un f x.w x.a x.d) s)
    (hf : ∀ n a, f n a = g n a) : OneSource mk g :=
  fun _ d _ s => ⟨eachActive_of_aluOp (he _ s) fun t => congrArg (setV t d) (hf ..),
    eachActive_of_aluOp (he _ s) fun t => congrArg (setV2 t d) (hf ..)⟩

theorem pairWrites_eq (d : BitVec 6) (x : BitVec 64) :
    pairWrites d x = [(d, x.setWidth 32), (d + 1, (x >>> 32).setWidth 32)] := by
  rw [pairWrites, extract_low_word, extract_high_word]

theorem pendingResult_of_pendBin {mk : VF3 → Instr} {f g : Bin}
    (he : ∀ x s, exec (mk x) s = aluOp x.m (pendBin f x.w x.a x.b x.d) s) (hf : ∀ n a b, f n a b = g n a b) :
    PendingResult mk g := by
  obtain rfl : f = g := funext fun n => funext fun a => funext (hf n a)
  refine fun a b d m s => ⟨eachActive_of_aluOp (he _ s) fun t => rfl, eachActive_of_aluOp (he _ s) fun t => ?_⟩
  rw [pendBin, pairWrites_eq, pendRegs]

/-! ### Well-formed operands (R24, R84, R85, R107, R110) -/

theorem wf_iff_all {i : Instr} {l : List Bool} (h : i.check = firstOf l) : i.wf = true ↔ ∀ b ∈ l, b = true := by
  simp [Instr.wf, h, firstOf, List.all_eq_true]

theorem narrow_iff {w : Width} : narrow w = true ↔ w = .x1 ∨ w = .x2 := by cases w <;> decide

theorem aligned_iff_of_narrow {r : BitVec 6} {w : Width} (hw : w = .x1 ∨ w = .x2) :
    aligned r w = true ↔ (w = .x2 → r.toNat % 2 = 0) := by
  rcases hw with rfl | rfl <;> simp [aligned, Width.regs, Nat.mod_one]

theorem legal_iff_of_narrow {b : BSrc} {w : Width} (hw : w = .x1 ∨ w = .x2) :
    b.legal w = true ↔ match b with
      | .reg r => w = .x2 → r.toNat % 2 = 0
      | .unif k => w = .x2 → k.toNat % 2 = 0
      | .imm _ => True := by
  have hn : narrow w = true := narrow_iff.mpr hw
  cases b with
  | reg r => exact aligned_iff_of_narrow hw
  | unif k => simp [BSrc.legal, hn, imp_iff_not_or]
  | imm i => simp [BSrc.legal, hn]

theorem addForm_wf_iff {i : Instr} {x : VOps}
    (h : i.check = firstOf [x.wa = x.wd ∧ narrow x.wd, aligned x.a x.wa ∧ aligned x.d x.wd, x.b.legal x.wa]) :
    i.wf = true ↔ x.wa = x.wd ∧ (x.wd = .x1 ∨ x.wd = .x2) ∧ (x.wd = .x2 → x.a.toNat % 2 = 0 ∧ x.d.toNat % 2 = 0) ∧
      match x.b with
      | .reg r => x.wd = .x2 → r.toNat % 2 = 0
      | .unif k => x.wd = .x2 → k.toNat % 2 = 0
      | .imm _ => True := by
  simp only [wf_iff_all h, List.forall_mem_cons, List.not_mem_nil, false_implies, implies_true, and_true,
    decide_eq_true_eq, narrow_iff, and_assoc]
  refine and_congr_right fun hwa => and_congr_right fun hw => ?_
  rw [hwa, aligned_iff_of_narrow hw, aligned_iff_of_narrow hw, legal_iff_of_narrow hw, ← and_assoc, ← imp_and]

theorem even_iff {r : BitVec 6} : even r = true ↔ r.toNat % 2 = 0 := by simp [even, aligned, Width.regs]

/-! ### Sums (R107, R108, R120) -/

theorem addSubtractMultiplyAddWrap : Claims.AddSubtractMultiplyAddWrap := by
  refine ⟨vForm_of_widths ?_ ?_, vForm_of_widths ?_ ?_, vForm_of_widths ?_ ?_, ?wf⟩
  case wf => rintro mk x (rfl | rfl | rfl) <;> exact addForm_wf_iff rfl
  all_goals intros; rfl

theorem ofInt_toInt_add {n m : Nat} (a : BitVec n) (i : BitVec m) :
    BitVec.ofInt n (a.toInt + i.toInt) = a + i.signExtend n := by
  rw [BitVec.ofInt_add, BitVec.ofInt_toInt, BitVec.signExtend]

theorem addImmediateIsSignExtended : Claims.AddImmediateIsSignExtended :=
  fun _ _ d _ _ => eachActive_of_aluOp rfl fun t => congrArg (setV t d) (ofInt_toInt_add _ _).symm

theorem opLea_eq (k n : Nat) (a b : BitVec n) : opLea k n a b = a + b <<< k :=
  congrArg (a + ·) (BitVec.eq_of_toNat_eq (by rw [BitVec.toNat_ofNat, BitVec.toNat_shiftLeft, Nat.shiftLeft_eq]))

theorem leaAddsAShiftedIndex : Claims.LeaAddsAShiftedIndex :=
  fun _ _ _ d _ _ => ⟨eachActive_of_aluOp rfl fun t => congrArg (setV t d) (opLea_eq ..),
    eachActive_of_aluOp rfl fun t => congrArg (setV2 t d) (opLea_eq ..)⟩

/-- Settles O7: the V forms at their two widths, and the immediate and the shifted index as sums of words. -/
theorem integerAdditionWraps : Obligations.IntegerAdditionWraps :=
  ⟨addSubtractMultiplyAddWrap, addImmediateIsSignExtended, leaAddsAShiftedIndex⟩

end Sys2Proof.Machine
end

section
/-! ### Products, minima, saturation, division and dot products (R110 to R112, R119) -/
namespace Sys2Proof.Machine

variable {n : Nat} (a b : BitVec n)

/-! ### Products (R110) -/

theorem opMul_eq : opMul n a b = BitVec.ofInt n (a.toInt * b.toInt) := by
  rw [BitVec.ofInt_mul, BitVec.ofInt_toInt, BitVec.ofInt_toInt, opMul]

theorem opMulHiS_eq : opMulHiS n a b = BitVec.ofInt n (a.toInt * b.toInt / 2 ^ n) := by
  rw [opMulHiS, Nat.cast_pow, Nat.cast_ofNat]

theorem signExtend_mul (v : Nat) : a.signExtend v * b.signExtend v = BitVec.ofInt v (a.toInt * b.toInt) := by
  rw [BitVec.ofInt_mul, BitVec.signExtend, BitVec.signExtend]

theorem setWidth_mul_setWidth (v : Nat) : a.setWidth v * b.setWidth v = BitVec.ofNat v (a.toNat * b.toNat) := by
  rw [BitVec.ofNat_mul, BitVec.ofNat_toNat, BitVec.ofNat_toNat]

theorem multiplyKeepsTheNamedPart : Claims.MultiplyKeepsTheNamedPart :=
  ⟨twoSources_of_bin (fun _ _ => rfl) fun _ _ => opMul_eq, twoSources_of_bin (fun _ _ => rfl) fun _ _ => opMulHiS_eq,
    twoSources_of_bin (fun _ _ => rfl) fun _ _ _ _ => rfl,
    fun _ _ d _ _ => ⟨eachActive_of_aluOp rfl fun t => congrArg (setV2 t d) (signExtend_mul ..),
      eachActive_of_aluOp rfl fun t => congrArg (setV2 t d) (setWidth_mul_setWidth ..)⟩,
    fun _ => ⟨(wf_iff_all rfl).trans (by simp [even_iff]), (wf_iff_all rfl).trans (by simp [even_iff])⟩⟩

/-! ### Minima, absolute values and saturating sums (R51, R111) -/

theorem opMinS_eq : opMinS n a b = if a.sle b then a else b := by simp only [opMinS, BitVec.sle_iff_toInt_le]

theorem opMaxS_eq : opMaxS n a b = if b.sle a then a else b := by simp only [opMaxS, BitVec.sle_iff_toInt_le, ge_iff_le]

theorem opAbs_eq : opAbs n a = if a.msb then -a else a := by
  rw [opAbs, BitVec.msb_eq_toInt]
  by_cases h : a.toInt < 0
  · simp [h, BitVec.ofInt_neg]
  · simp [h]

theorem satS_eq (x : Int) : satS n x = BitVec.ofInt n (max (-2 ^ (n - 1)) (min (2 ^ (n - 1) - 1) x)) := by
  have hpos : (0 : Int) < 2 ^ (n - 1) := by positivity
  rw [satS, Nat.cast_pow, Nat.cast_ofNat]
  split
  · congr 1; omega
  · split <;> congr 1 <;> omega

theorem satZ_eq (x : Nat) : satZ n x = BitVec.ofNat n (min (2 ^ n - 1) x) := by
  rw [satZ]
  split
  · rw [Nat.min_eq_left (by omega)]
    exact BitVec.eq_of_toNat_eq (by simp)
  · rw [Nat.min_eq_right (by omega)]

theorem minMaxAbsoluteSaturate : Claims.MinMaxAbsoluteSaturate :=
  ⟨twoSources_of_bin (fun _ _ => rfl) fun _ _ => opMinS_eq, twoSources_of_bin (fun _ _ => rfl) fun _ _ => opMaxS_eq,
    twoSources_of_bin (fun _ _ => rfl) fun _ _ _ _ => rfl, twoSources_of_bin (fun _ _ => rfl) fun _ _ _ _ => rfl,
    oneSource_of_un (fun _ _ => rfl) fun _ => opAbs_eq, oneSource_of_un (fun _ _ => rfl) fun _ a => (BitVec.zero_sub a).symm,
    twoSources_of_bin (fun _ _ => rfl) fun _ _ _ _ => satS_eq _, twoSources_of_bin (fun _ _ => rfl) fun _ _ _ _ => satZ_eq _⟩

/-! ### Division (R112) -/

theorem opDivS_eq : opDivS n a b = if b = 0 then BitVec.allOnes n else a.sdiv b := by
  rw [opDivS]
  congr 1
  exact BitVec.eq_of_toInt_eq (by rw [BitVec.toInt_ofInt, BitVec.toInt_sdiv])

theorem opDivZ_eq : opDivZ n a b = if b = 0 then BitVec.allOnes n else a / b := by rw [opDivZ, BitVec.udiv_def]

theorem opRemS_eq : opRemS n a b = if b = 0 then a else a.srem b := by
  rw [opRemS, ← Int.tmod_def, ← BitVec.toInt_srem, BitVec.ofInt_toInt]

theorem opRemZ_eq : opRemZ n a b = if b = 0 then a else a % b := by rw [opRemZ, BitVec.umod_def]

theorem divisionTruncatesAndNeverTraps : Claims.DivisionTruncatesAndNeverTraps :=
  ⟨pendingResult_of_pendBin (fun _ _ => rfl) fun _ => opDivS_eq, pendingResult_of_pendBin (fun _ _ => rfl) fun _ => opDivZ_eq,
    pendingResult_of_pendBin (fun _ _ => rfl) fun _ => opRemS_eq, pendingResult_of_pendBin (fun _ _ => rfl) fun _ => opRemZ_eq⟩

/-! ### Dot products (R119) -/

/-- Sign extension of the low bits is their value as a signed number. -/
theorem sext_eq_toInt_ofNat (hn : 0 < n) (x : Nat) : sext n x = (BitVec.ofNat n x).toInt := by
  have hpow : 2 ^ n = 2 * 2 ^ (n - 1) := by rw [← pow_succ', Nat.sub_add_cancel hn]
  rw [sext, BitVec.toInt_eq_toNat_cond, BitVec.toNat_ofNat]
  exact if_congr (by omega) rfl rfl

theorem ofNat_div_two_pow {v : Nat} (a : BitVec v) (s l : Nat) :
    BitVec.ofNat l (a.toNat / 2 ^ s) = a.extractLsb' s l := by
  apply BitVec.eq_of_toNat_eq
  rw [BitVec.toNat_ofNat, BitVec.extractLsb'_toNat, Nat.shiftRight_eq_div_pow]

theorem element_signed {e : Nat} (he : 0 < e) (x : Word) (i : Nat) : element e true x i = (x.extractLsb' (e * i) e).toInt := by
  rw [element, if_pos rfl, sext_eq_toInt_ofNat he, ← ofNat_div_two_pow]
  congr 1
  exact BitVec.eq_of_toNat_eq (by simp)

theorem element_unsigned (e : Nat) (x : Word) (i : Nat) : element e false x i = ((x.extractLsb' (e * i) e).toNat : Int) := by
  rw [element, if_neg (by decide), ← ofNat_div_two_pow, BitVec.toNat_ofNat]

theorem ofInt_toInt_add_natCast (k : Nat) : BitVec.ofInt n (a.toInt + k) = BitVec.ofNat n (a.toNat + k) := by
  rw [BitVec.ofInt_add, BitVec.ofInt_toInt, BitVec.ofInt_natCast, BitVec.ofNat_add, BitVec.ofNat_toNat, BitVec.setWidth_eq]

theorem dotWord_two (e : Nat) (sa sb : Bool) (x y z : Word) : dotWord e 2 sa sb x y z = BitVec.ofInt 32 (z.toInt +
    element e sa x 0 * element e sb y 0 + element e sa x 1 * element e sb y 1) := by
  rw [dotWord]
  congr 1
  simp [List.range_succ, add_assoc]

theorem dotWord_four (e : Nat) (sa sb : Bool) (x y z : Word) : dotWord e 4 sa sb x y z = BitVec.ofInt 32 (z.toInt +
    element e sa x 0 * element e sb y 0 + element e sa x 1 * element e sb y 1 +
    element e sa x 2 * element e sb y 2 + element e sa x 3 * element e sb y 3) := by
  rw [dotWord]
  congr 1
  simp [List.range_succ, add_assoc]

theorem dotProductsAddToTheDestination : Claims.DotProductsAddToTheDestination := by
  intro a b d m s
  refine ⟨?_, ?_, ?_, ?_, ?_⟩ <;> refine eachActive_of_aluOp rfl fun t => congrArg (setV t d) ?_
  · simp only [dotWord_four, element_signed (e := 8) (by decide), Nat.reduceMul]
  · rw [dotWord_four]
    simp only [element_unsigned, Nat.reduceMul, add_assoc]
    exact_mod_cast ofInt_toInt_add_natCast _ _
  · simp only [dotWord_four, element_signed (e := 8) (by decide), element_unsigned, Nat.reduceMul]
  · simp only [dotWord_two, element_signed (e := 16) (by decide), Nat.reduceMul]
  · rw [dotWord_two]
    simp only [element_unsigned, Nat.reduceMul, add_assoc]
    exact_mod_cast ofInt_toInt_add_natCast _ _

/-- Settles O8: each operation of the model by the operation of the words that the statement names. -/
theorem multiplicationAndDivision : Obligations.MultiplicationAndDivision :=
  ⟨multiplyKeepsTheNamedPart, minMaxAbsoluteSaturate, divisionTruncatesAndNeverTraps, dotProductsAddToTheDestination⟩

end Sys2Proof.Machine
end

section
/-! ### Compares, selection and predicates (R28, R121, R122, R124) -/
namespace Sys2Proof.Machine

/-! ### Compares (R121) -/

theorem icondHolds_eq {n : Nat} (c : ICond) (signed : Bool) (a b : BitVec n) :
    icondHolds c signed a b = comparesTrue c signed a b := by
  cases c with
  | eq => exact (beq_eq_decide a b).symm
  | ne => simp only [icondHolds, comparesTrue, bne, beq_eq_decide, decide_not]
  | lt => cases signed <;> rfl
  | le => cases signed <;> rfl
  | gt => cases signed <;> rfl
  | ge => cases signed <;> rfl
  | tst => simp only [icondHolds, comparesTrue, bne, beq_eq_decide, decide_not]
  | tsn => exact (beq_eq_decide (a &&& b) 0).symm

theorem integerComparesWriteThePredicate : Claims.IntegerComparesWriteThePredicate :=
  fun _ b _ _ q _ _ => ⟨eachActive_of_aluOp rfl fun t => congrArg (setP t q) (by cases b <;> exact icondHolds_eq ..),
    eachActive_of_aluOp rfl fun t => congrArg (setP t q) (by cases b <;> exact icondHolds_eq ..)⟩

/-! ### Selection (R122) -/

theorem getP_iff {t : Thread} {n : BitVec 3} : getP t n = true ↔ n = 0 ∨ t.p.getLsbD n.toNat = true := by
  by_cases h : n = 0 <;> simp [getP, h]

theorem selectCopiesOneOfTwoGroups : Claims.SelectCopiesOneOfTwoGroups := by
  refine fun n w a b d m s => ⟨_, rfl, fun t => ?_⟩
  obtain ⟨hcopy, hothers, hframe⟩ := copyGroup_spec t (if getP t n then a else b) d w
  refine ⟨fun i hi => (hcopy i hi).trans ?_, hothers, hframe⟩
  simp only [← getP_iff]
  split <;> rfl

/-! ### Predicates (R28) -/

variable {t : Thread} {n r : BitVec 3} {b : Bool}

theorem getP_zero : getP t 0 = true := rfl

theorem setP_zero : setP t 0 b = t := rfl

theorem getP_of_ne (h : n ≠ 0) : getP t n = t.p.getLsbD n.toNat := if_neg h

theorem getP_setP_self (h : n ≠ 0) : getP (setP t n b) n = b := by
  have hbit : (1#8 <<< n.toNat).getLsbD n.toNat = true := by simp; omega
  rw [getP_of_ne h, setP, if_neg h]
  cases b <;> simp [hbit]

theorem getP_setP_of_ne (h : r ≠ n) : getP (setP t n b) r = getP t r := by
  obtain ⟨-, hpreds⟩ := setP_writes (t := t) (q := n) (b := b)
  rw [getP, getP, hpreds r (by simpa using h)]

theorem predicateZeroReadsOne : Claims.PredicateZeroReadsOne :=
  ⟨fun _ => getP_zero, fun _ _ => setP_zero, fun _ _ _ h => ⟨getP_setP_self h, fun _ hr => getP_setP_of_ne hr, setP_writes.1⟩,
    fun _ _ _ _ _ _ _ => eachActive_of_aluOp rfl fun _ => setP_zero⟩

/-! ### Predicate logic (R124) -/

theorem getLsbD_predByte (t : Thread) (i : Nat) :
    ((predByte t).setWidth 32).getLsbD i = (decide (i < 8) && getP t (BitVec.ofNat 3 i)) := by
  by_cases hi : i < 8
  · have hn : (BitVec.ofNat 3 i).toNat = i := Nat.mod_eq_of_lt hi
    by_cases h0 : i = 0
    · subst h0
      simp [predByte, getP]
    · have hne : BitVec.ofNat 3 i ≠ 0 := fun h => h0 (hn.symm.trans (congrArg BitVec.toNat h))
      simp [getP_of_ne hne, hn, predByte, hi, h0, show i < 32 by omega]
  · simp [hi, BitVec.getLsbD_of_ge _ i (not_lt.mp hi)]

theorem getP_maskPreds {mask : BitVec 7} {a : Word} (h : n ≠ 0) :
    getP (maskPreds mask a t) n = if mask.getLsbD (n.toNat - 1) then a.getLsbD n.toNat else getP t n := by
  have hpos : ¬ n.toNat < 1 := by bv_omega
  have hbit : (mask ++ 0#1).getLsbD n.toNat = mask.getLsbD (n.toNat - 1) := by
    rw [BitVec.getLsbD_append, if_neg hpos]
  have hlt : n.toNat < 8 := n.isLt
  rw [getP_of_ne h, getP_of_ne h]
  simp only [maskPreds, BitVec.getLsbD_or, BitVec.getLsbD_and, BitVec.getLsbD_not, BitVec.getLsbD_setWidth, hbit, hlt]
  cases mask.getLsbD (n.toNat - 1) <;> simp

theorem predicateLogic : Claims.PredicateLogic :=
  ⟨fun _ _ _ _ _ _ _ => ⟨rfl, rfl, rfl, rfl⟩, ⟨fun t => (predByte t).setWidth 32, fun _ _ _ => rfl, getLsbD_predByte⟩,
    fun mask a _ _ => ⟨fun t => maskPreds mask (getV t a) t, rfl, fun _ => ⟨maskPreds_writes.1, fun _ h => getP_maskPreds h⟩⟩⟩

/-- Settles O10: compares by the table of R121, selection by the group it copies, predicates by the bit each one is. -/
theorem comparesSelectAndPredicates : Obligations.ComparesSelectAndPredicates :=
  ⟨integerComparesWriteThePredicate, selectCopiesOneOfTwoGroups, predicateZeroReadsOne, predicateLogic⟩

end Sys2Proof.Machine
end

section
/-! ### Bitwise functions and shifts (R52, R113 to R115) -/
namespace Sys2Proof.Machine

/-! ### Bitwise functions, register by register (R113) -/

/-- A function of two sources that acts on a pair as on its two registers. -/
def ActsOnHalves (f : Bin) : Prop :=
  ∀ h l h' l' : Word, f 64 (h ++ l) (h' ++ l') = f 32 h h' ++ f 32 l l'

/-- The words that a bitwise form writes. -/
def groupWords (f : Bin) (w : Width) (a b : BitVec 6) (t : Thread) : List Word :=
  ((getGroup t a w.regs).zip (getGroup t b w.regs)).map fun x => f 32 x.1 x.2

theorem length_groupWords (f : Bin) (w : Width) (a b : BitVec 6) (t : Thread) : (groupWords f w a b t).length = w.regs := by
  simp [groupWords, length_getGroup]

theorem getElem_groupWords {f : Bin} {w : Width} {a b : BitVec 6} {t : Thread} {n : Nat}
    (h : n < (groupWords f w a b t).length) :
    (groupWords f w a b t)[n] = f 32 (getV t (a + BitVec.ofNat 6 n)) (getV t (b + BitVec.ofNat 6 n)) := by
  simp [groupWords, getGroup, groupRegs]

theorem bin_eq_setGroup {f : Bin} (hf : ActsOnHalves f) (w : Width) (a b d : BitVec 6) (t : Thread) :
    bin f w a b d t = setGroup t d (groupWords f w a b t) := by
  cases w with
  | x1 =>
    rw [groupWords, Width.regs, getGroup_one, getGroup_one]
    exact (setGroup_one ..).symm
  | x2 =>
    rw [bin, getV2, getV2, hf, ← setGroup_pair, groupWords, Width.regs, getGroup_two, getGroup_two]
    rfl
  | x4 => rfl
  | x8 => rfl

theorem bitwiseForm_of_bin {mk : VF3 → Instr} {f : Bin} (hf : ActsOnHalves f)
    (he : ∀ x s, exec (mk x) s = aluOp x.m (bin f x.w x.a x.b x.d) s) : BitwiseForm mk (f 32) := by
  intro w a b d m s
  refine ⟨fun t => setGroup t d (groupWords f w a b t), eachActive_of_aluOp (he _ s) (bin_eq_setGroup hf w a b d), fun t => ?_⟩
  have hlen := length_groupWords f w a b t
  refine ⟨fun n hn => ?_, fun r hr => getV_setGroup_of_ne (by rwa [hlen]), setRegs_changes_only_v ..⟩
  rw [getV_setGroup_at (hlen.le.trans (regs_le w)) (hlen.symm ▸ hn), getElem_groupWords]

/-- A form of one source is one of two sources that looks at the first alone. -/
theorem un_eq_bin (f : Un) (w : Width) (a b d : BitVec 6) (t : Thread) : un f w a d t = bin (fun n x _ => f n x) w a b d t := by
  have hgroup : ∀ n, (getGroup t a n).map (f 32) =
      ((getGroup t a n).zip (getGroup t b n)).map fun x => f 32 x.1 := fun n => by
    rw [← Function.comp_def, ← List.map_map, List.map_fst_zip (by simp only [length_getGroup, le_refl])]
  cases w with
  | x1 => rfl
  | x2 => rfl
  | x4 => exact congrArg (setGroup t d) (hgroup 4)
  | x8 => exact congrArg (setGroup t d) (hgroup 8)

theorem logicActsBitByBit : Claims.LogicActsBitByBit := by
  refine ⟨bitwiseForm_of_bin (f := opAnd) ?_ fun _ _ => rfl, bitwiseForm_of_bin (f := opOr) ?_ fun _ _ => rfl,
    bitwiseForm_of_bin (f := opXor) ?_ fun _ _ => rfl, bitwiseForm_of_bin (f := opAndn) ?_ fun _ _ => rfl,
    bitwiseForm_of_bin (f := opOrn) ?_ fun _ _ => rfl, bitwiseForm_of_bin (f := opXnor) ?_ fun _ _ => rfl,
    bitwiseForm_of_bin (f := fun n a _ => opNot n a) ?_ fun x s =>
      congrArg (fun f => aluOp x.m f s) (funext (un_eq_bin opNot x.w x.a x.b x.d))⟩
  · exact fun _ _ _ _ => BitVec.and_append
  · exact fun _ _ _ _ => BitVec.or_append
  · exact fun _ _ _ _ => BitVec.xor_append
  · exact fun _ _ _ _ => (congrArg (_ &&& ·) BitVec.not_append).trans BitVec.and_append
  · exact fun _ _ _ _ => (congrArg (_ ||| ·) BitVec.not_append).trans BitVec.or_append
  · exact fun _ _ _ _ => (congrArg (~~~·) BitVec.xor_append).trans BitVec.not_append
  · exact fun _ _ _ _ => BitVec.not_append

/-! ### Shifts, rotates and funnel shifts (R52, R114, R115) -/

theorem rolBy_eq {n k : Nat} (h : k < n) (a : BitVec n) : rolBy n a k = a.rotateLeft k := by
  rw [rolBy, BitVec.rotateLeft_def, Nat.mod_eq_of_lt h]

theorem toNat_append_eq {n m : Nat} (x : BitVec n) (y : BitVec m) : (x ++ y).toNat = x.toNat * 2 ^ m + y.toNat := by
  rw [BitVec.toNat_append, ← Nat.shiftLeft_add_eq_or_of_lt y.isLt, Nat.shiftLeft_eq]

theorem opFshl_eq (n : Nat) (a b d : BitVec n) :
    opFshl n a b d = ((d ++ a) <<< (b.toNat % n)).extractLsb' n n := by
  rw [opFshl, amount, ← toNat_append_eq, ← ofNat_div_two_pow]
  apply BitVec.eq_of_toNat_eq
  rw [BitVec.toNat_ofNat, BitVec.toNat_ofNat, BitVec.toNat_shiftLeft, Nat.shiftLeft_eq, pow_add, Nat.mod_mul_right_div_self,
    Nat.mod_mod]

theorem opFshr_eq (n : Nat) (a b d : BitVec n) :
    opFshr n a b d = ((d ++ a) >>> (b.toNat % n)).extractLsb' 0 n := by
  rw [opFshr, amount, ← toNat_append_eq, ← ofNat_div_two_pow, BitVec.toNat_ushiftRight, Nat.shiftRight_eq_div_pow, pow_zero,
    Nat.div_one]

theorem shiftAmountsAreTakenModuloTheWidth : Claims.ShiftAmountsAreTakenModuloTheWidth := by
  refine ⟨twoSources_of_bin (fun _ _ => rfl) fun _ _ _ _ => rfl, twoSources_of_bin (fun _ _ => rfl) fun _ _ _ _ => rfl,
    twoSources_of_bin (fun _ _ => rfl) fun _ _ _ _ => rfl,
    twoSources_of_bin (fun _ _ => rfl) fun _ hn _ _ => rolBy_eq (Nat.mod_lt _ hn) _,
    fun _ _ d _ _ => ⟨eachActive_of_aluOp rfl fun t => congrArg (setV t d) (opFshl_eq ..),
      eachActive_of_aluOp rfl fun t => congrArg (setV2 t d) (opFshl_eq ..),
      eachActive_of_aluOp rfl fun t => congrArg (setV t d) (opFshr_eq ..),
      eachActive_of_aluOp rfl fun t => congrArg (setV2 t d) (opFshr_eq ..)⟩, fun n _ d _ _ => ?_⟩
  have h64 : n.toNat % 64 = n.toNat := Nat.mod_eq_of_lt n.isLt
  exact ⟨rfl, rfl, rfl, eachActive_of_aluOp rfl fun t => congrArg (setV t d) (rolBy_eq (Nat.mod_lt _ (by decide)) _),
    eachActive_of_aluOp rfl fun t => congrArg (fun k => setV2 t d (shlBy 64 _ k)) h64,
    eachActive_of_aluOp rfl fun t => congrArg (fun k => setV2 t d (shrBy 64 _ k)) h64,
    eachActive_of_aluOp rfl fun t => congrArg (fun k => setV2 t d (sarBy 64 _ k)) h64,
    eachActive_of_aluOp rfl fun t => (congrArg (fun k => setV2 t d (rolBy 64 _ k)) h64).trans
      (congrArg (setV2 t d) (rolBy_eq n.isLt _))⟩

end Sys2Proof.Machine
end

section
/-! ### Bit fields, byte selection and bit counts (R116 to R118) -/
namespace Sys2Proof.Machine

/-! ### Bit fields (R116) -/

theorem fieldOf_eq (a b : Word) : fieldOf a b = (a.extractLsb' (fieldPos b) (fieldLen b)).toNat := by
  rw [fieldOf, BitVec.extractLsb'_toNat, Nat.shiftRight_eq_div_pow]

theorem bfxzWord_eq (a b : Word) : bfxzWord a b = (a.extractLsb' (fieldPos b) (fieldLen b)).setWidth 32 := by
  rw [bfxzWord, fieldOf_eq, BitVec.ofNat_toNat]

theorem signExtend_of_no_bits {n : Nat} (h : n = 0) (x : BitVec n) : x.signExtend 32 = 0 := by
  subst h
  simp [BitVec.signExtend, BitVec.of_length_zero]

theorem bfxsWord_eq (a b : Word) : bfxsWord a b = (a.extractLsb' (fieldPos b) (fieldLen b)).signExtend 32 := by
  rw [bfxsWord]
  split
  next h => exact (signExtend_of_no_bits h _).symm
  next h =>
    rw [sext_eq_toInt_ofNat (Nat.pos_of_ne_zero h), fieldOf_eq, BitVec.ofNat_toNat, BitVec.setWidth_eq, BitVec.signExtend]

theorem getLsbD_fieldMask (len pos : Nat) {i : Nat} (hi : i < 32) :
    (BitVec.ofNat 32 ((2 ^ len - 1) * 2 ^ pos)).getLsbD i = decide (pos ≤ i ∧ i < pos + len) := by
  simp only [BitVec.getLsbD_ofNat, Nat.testBit_mul_two_pow, Nat.testBit_two_pow_sub_one, hi, decide_true, Bool.true_and,
    ← Bool.decide_and]
  exact decide_eq_decide.mpr (by omega)

theorem getLsbD_shifted (a : Word) {pos i : Nat} (hp : pos ≤ i) (hi : i < 32) :
    (BitVec.ofNat 32 (a.toNat * 2 ^ pos)).getLsbD i = a.getLsbD (i - pos) := by
  simp only [BitVec.getLsbD_ofNat, Nat.testBit_mul_two_pow, hi, hp, decide_true, Bool.true_and, BitVec.testBit_toNat]

/-- Cutting the field at bit 31 takes no bit of the word from it. -/
theorem getLsbD_bfiWord (a b d : Word) {i : Nat} (hi : i < 32) : (bfiWord a b d).getLsbD i =
    if b.toNat % 32 ≤ i ∧ i < b.toNat % 32 + b.toNat / 256 % 64 then a.getLsbD (i - b.toNat % 32) else d.getLsbD i := by
  have hcut : (fieldPos b ≤ i ∧ i < fieldPos b + fieldLen b) ↔
      b.toNat % 32 ≤ i ∧ i < b.toNat % 32 + b.toNat / 256 % 64 := by
    rw [fieldLen, fieldPos]
    omega
  simp only [bfiWord, BitVec.getLsbD_or, BitVec.getLsbD_and, BitVec.getLsbD_not, getLsbD_fieldMask _ _ hi, hcut, hi,
    decide_true, Bool.true_and]
  split
  next h => simp [h, getLsbD_shifted a h.1 hi, fieldPos]
  next h => simp [h]

/-! ### Numbers from their digits -/

/-- Digits of e bits, the lowest first. -/
def digitSum (e : Nat) (c : Nat → Nat) (n : Nat) : Nat := sumNat ((List.range n).map fun i => 2 ^ (e * i) * c i)

theorem sumNat_eq_sum (xs : List Nat) : sumNat xs = xs.sum := by
  induction xs with
  | nil => rfl
  | cons x xs ih => rw [sumNat, ih, List.sum_cons]

theorem digitSum_succ (e : Nat) (c : Nat → Nat) (n : Nat) :
    digitSum e c (n + 1) = c 0 + 2 ^ e * digitSum e (fun i => c (i + 1)) n := by
  simp only [digitSum, sumNat_eq_sum, List.range_succ_eq_map, List.map_cons, List.map_map, List.sum_cons,
    ← List.sum_map_mul_left, Function.comp_def, Nat.mul_zero, pow_zero, one_mul, Nat.mul_succ, pow_add]
  congr 3
  funext i
  ring

theorem digitSum_digit {e : Nat} {c : Nat → Nat} {n j : Nat} (hc : ∀ i, c i < 2 ^ e) (hj : j < n) :
    digitSum e c n / 2 ^ (e * j) % 2 ^ e = c j := by
  induction n generalizing c j with
  | zero => omega
  | succ n ih =>
    rw [digitSum_succ]
    cases j with
    | zero => rw [Nat.mul_zero, pow_zero, Nat.div_one, Nat.add_mul_mod_self_left, Nat.mod_eq_of_lt (hc 0)]
    | succ j =>
      rw [Nat.mul_succ, add_comm (e * j), pow_add, ← Nat.div_div_eq_div_mul, Nat.add_mul_div_left _ _ (Nat.two_pow_pos e),
        Nat.div_eq_of_lt (hc 0), zero_add]
      exact ih (fun i => hc (i + 1)) (by omega)

/-- A digit of a number is a part of its bits. -/
theorem extract_digitSum {e m : Nat} {c : Nat → Nat} {n j : Nat} (hc : ∀ i, c i < 2 ^ e) (hj : j < n) (hm : e * n ≤ m) :
    (BitVec.ofNat m (digitSum e c n)).extractLsb' (e * j) e = BitVec.ofNat e (c j) := by
  have hfit : e * j + e ≤ m := (Nat.mul_le_mul_left e hj).trans hm
  rw [← digitSum_digit hc hj, ← ofNat_div_two_pow, BitVec.toNat_ofNat]
  apply BitVec.eq_of_getLsbD_eq
  intro i hi
  simp only [BitVec.getLsbD_ofNat, Nat.testBit_div_two_pow, Nat.testBit_mod_two_pow, hi, show i + e * j < m by omega,
    decide_true, Bool.true_and]

/-! ### Byte selection (R118) -/

/-- The byte that a selector of four bits names. -/
def selectedByte (a d : Word) (sel : Nat) : Nat := if sel ≥ 8 then 0 else if sel < 4 then byteOf a sel else byteOf d (sel - 4)

theorem byteOf_eq (a : Word) (i : Nat) : byteOf a i = (a.extractLsb' (8 * i) 8).toNat := by
  rw [byteOf, BitVec.extractLsb'_toNat, Nat.shiftRight_eq_div_pow, pow_mul]
  rfl

theorem selectedByte_of_lt (a d : Word) {sel : Nat} (h : sel < 8) :
    selectedByte a d sel = ((d ++ a).extractLsb' (8 * sel) 8).toNat := by
  rw [selectedByte, if_neg (by omega)]
  split
  · rw [extract_low _ _ _ _ (by omega), byteOf_eq]
  · rw [extract_high _ _ _ _ (by omega), byteOf_eq, Nat.mul_sub]

theorem selectedByte_lt (a d : Word) (sel : Nat) : selectedByte a d sel < 2 ^ 8 := by
  by_cases h : sel < 8
  · rw [selectedByte_of_lt a d h]
    exact BitVec.isLt _
  · rw [selectedByte, if_pos (by omega)]
    decide

theorem bpermWord_eq (a b d : Word) :
    bpermWord a b d = BitVec.ofNat 32 (digitSum 8 (fun i => selectedByte a d (b.toNat / 16 ^ i % 16)) 4) := by
  have hterm : ∀ i sel, (if sel ≥ 8 then 0 else 256 ^ i * if sel < 4 then byteOf a sel else byteOf d (sel - 4)) =
      2 ^ (8 * i) * selectedByte a d sel := by
    intro i sel
    simp only [selectedByte, pow_mul, mul_ite, mul_zero, Nat.reducePow]
  simp only [bpermWord, hterm]
  rfl

/-- The highest bit of a selector says whether it names a byte, its lower three which. -/
theorem selector_split (y : BitVec 4) : if y.getLsbD 3 then 8 ≤ y.toNat else y.toNat = (y.extractLsb' 0 3).toNat := by
  revert y
  decide

theorem extract_bpermWord (a b d : Word) {i : Nat} (hi : i < 4) : (bpermWord a b d).extractLsb' (8 * i) 8 =
    if b.getLsbD (4 * i + 3) then 0 else (d ++ a).extractLsb' (8 * (b.extractLsb' (4 * i) 3).toNat) 8 := by
  have hsel : b.toNat / 16 ^ i % 16 = (b.extractLsb' (4 * i) 4).toNat := by
    rw [BitVec.extractLsb'_toNat, Nat.shiftRight_eq_div_pow, pow_mul]
    rfl
  have hbit : (b.extractLsb' (4 * i) 4).getLsbD 3 = b.getLsbD (4 * i + 3) := by simp
  have hlow : (b.extractLsb' (4 * i) 4).extractLsb' 0 3 = b.extractLsb' (4 * i) 3 := by
    apply BitVec.eq_of_getLsbD_eq
    intro j hj
    simp [hj, show j < 4 by omega]
  have hsplit := selector_split (b.extractLsb' (4 * i) 4)
  rw [hbit, hlow, ← hsel] at hsplit
  rw [bpermWord_eq, extract_digitSum (fun _ => selectedByte_lt ..) hi (by decide)]
  split at hsplit
  next h => rw [if_pos h, selectedByte, if_pos hsplit]; rfl
  next h => rw [if_neg h, hsplit, selectedByte_of_lt _ _ (BitVec.isLt _), BitVec.ofNat_toNat, BitVec.setWidth_eq]

theorem bitFieldsAreCutAtBit31 : Claims.BitFieldsAreCutAtBit31 :=
  ⟨fun _ _ d _ _ => ⟨eachActive_of_aluOp rfl fun t => congrArg (setV t d) (bfxzWord_eq ..),
      eachActive_of_aluOp rfl fun t => congrArg (setV t d) (bfxsWord_eq ..)⟩,
    ⟨bfiWord, fun _ _ _ _ _ => rfl, fun a b d _ hi => getLsbD_bfiWord a b d hi⟩,
    ⟨bpermWord, fun _ _ _ _ _ => rfl, fun a b d _ hi => extract_bpermWord a b d hi⟩⟩

/-! ### Bit counts (R117) -/

section
variable {n : Nat} (a : BitVec n)

theorem length_bitsOf : (bitsOf a).length = n := by simp [bitsOf]

theorem getElem?_bitsOf {i : Nat} (hi : i < n) : (bitsOf a)[i]? = some (a.getLsbD i) := by simp [bitsOf, hi]

theorem getElem?_bitsOf_reverse {i : Nat} (hi : i < n) : (bitsOf a).reverse[i]? = some (a.getLsbD (n - 1 - i)) := by
  rw [List.getElem?_reverse (by rwa [length_bitsOf]), length_bitsOf, getElem?_bitsOf a (by omega)]

theorem length_filter_bitsOf : ((bitsOf a).filter id).length = ((List.range n).filter fun i => a.getLsbD i).length := by
  rw [bitsOf, List.filter_map, List.length_map, Function.id_comp]

end

theorem leadZeros_le (bs : List Bool) : leadZeros bs ≤ bs.length := by
  induction bs with
  | nil => exact le_rfl
  | cons b bs ih => cases b <;> simp [leadZeros, ih]

theorem getElem?_of_lt_leadZeros {bs : List Bool} {i : Nat} (h : i < leadZeros bs) : bs[i]? = some false := by
  induction bs generalizing i with
  | nil => simp [leadZeros] at h
  | cons b bs ih =>
    cases b with
    | true => simp [leadZeros] at h
    | false =>
      cases i with
      | zero => rfl
      | succ i => exact ih (by simpa [leadZeros] using h)

theorem getElem?_leadZeros {bs : List Bool} (h : leadZeros bs < bs.length) : bs[leadZeros bs]? = some true := by
  induction bs with
  | nil => simp at h
  | cons b bs ih =>
    cases b with
    | true => rfl
    | false => exact ih (by simpa [leadZeros] using h)

theorem leadZeros_bitsOf {n : Nat} (a : BitVec n) : leadZeros (bitsOf a) ≤ n ∧
    (∀ i, i < leadZeros (bitsOf a) → a.getLsbD i = false) ∧
    (leadZeros (bitsOf a) < n → a.getLsbD (leadZeros (bitsOf a)) = true) := by
  have hle : leadZeros (bitsOf a) ≤ n := (leadZeros_le _).trans_eq (length_bitsOf a)
  refine ⟨hle, fun i hi => ?_, fun hlt => ?_⟩
  · exact Option.some.inj ((getElem?_bitsOf a (hi.trans_le hle)).symm.trans (getElem?_of_lt_leadZeros hi))
  · exact Option.some.inj ((getElem?_bitsOf a hlt).symm.trans (getElem?_leadZeros (by rwa [length_bitsOf])))

theorem leadZeros_bitsOf_reverse {n : Nat} (a : BitVec n) : leadZeros (bitsOf a).reverse ≤ n ∧
    (∀ i, n - leadZeros (bitsOf a).reverse ≤ i → a.getLsbD i = false) ∧
    (leadZeros (bitsOf a).reverse < n → a.getLsbD (n - 1 - leadZeros (bitsOf a).reverse) = true) := by
  have hlen : (bitsOf a).reverse.length = n := by rw [List.length_reverse, length_bitsOf]
  have hle : leadZeros (bitsOf a).reverse ≤ n := (leadZeros_le _).trans_eq hlen
  refine ⟨hle, fun i hi => ?_, fun hlt => ?_⟩
  · by_cases hn : i < n
    · have hread := getElem?_bitsOf_reverse a (show n - 1 - i < n by omega)
      rw [getElem?_of_lt_leadZeros (by omega), show n - 1 - (n - 1 - i) = i by omega] at hread
      exact (Option.some.inj hread).symm
    · exact BitVec.getLsbD_of_ge a i (not_lt.mp hn)
  · exact Option.some.inj ((getElem?_bitsOf_reverse a hlt).symm.trans (getElem?_leadZeros (by rwa [hlen])))

theorem ofBits_eq (n : Nat) (bs : List Bool) :
    ofBits n bs = BitVec.ofNat n (digitSum 1 (fun i => ((bs[i]?).getD false).toNat) n) := by
  have hterm : ∀ i (b : Bool), (if b then 2 ^ i else 0) = 2 ^ (1 * i) * b.toNat := fun i b => by cases b <;> simp
  simp only [ofBits, hterm]
  rfl

theorem getLsbD_ofBits {n i : Nat} (bs : List Bool) (hi : i < n) : (ofBits n bs).getLsbD i = (bs[i]?).getD false := by
  have hdigit := extract_digitSum (e := 1) (c := fun i => ((bs[i]?).getD false).toNat) (m := n)
    (fun i => Bool.toNat_lt _) hi (one_mul n).le
  rw [getLsbD_eq_unbit, ofBits_eq, ← one_mul i, hdigit, one_mul]
  cases (bs[i]?).getD false <;> rfl

theorem getLsbD_opBrev {n i : Nat} (a : BitVec n) (hi : i < n) : (opBrev n a).getLsbD i = a.getLsbD (n - 1 - i) := by
  rw [opBrev, getLsbD_ofBits _ hi, getElem?_bitsOf_reverse a hi, Option.getD_some]

theorem bitCountsCountTheBits : Claims.BitCountsCountTheBits :=
  ⟨⟨fun _ a => ((bitsOf a).filter id).length, oneSource_of_un (fun _ _ => rfl) fun _ _ => rfl, fun _ => length_filter_bitsOf⟩,
    ⟨fun _ a => leadZeros (bitsOf a).reverse, oneSource_of_un (fun _ _ => rfl) fun _ _ => rfl, fun _ => leadZeros_bitsOf_reverse⟩,
    ⟨fun _ a => leadZeros (bitsOf a), oneSource_of_un (fun _ _ => rfl) fun _ _ => rfl, fun _ => leadZeros_bitsOf⟩,
    ⟨opBrev, oneSource_of_un (fun _ _ => rfl) fun _ _ => rfl, fun _ a _ => getLsbD_opBrev a⟩⟩

/-- Settles O9: bitwise forms by the registers of their groups, shifts by their amounts, fields and counts bit by bit. -/
theorem logicShiftsAndBitFields : Obligations.LogicShiftsAndBitFields :=
  ⟨logicActsBitByBit, shiftAmountsAreTakenModuloTheWidth, bitFieldsAreCutAtBit31, bitCountsCountTheBits⟩

end Sys2Proof.Machine
end

section
/-! ### Minima, signs, compares and classes (R135 to R139) -/
namespace Sys2Proof.Machine

/-! ### The order of the values -/

section
variable {a b : Bool} {m n : Nat} {e k : Int} {x y : XVal}

/-- Two finite values are ordered as the numbers they stand for. -/
theorem ltX_fin_fin : ltX (.fin a m e) (.fin b n k) = decide ((XVal.fin a m e).num < (XVal.fin b n k).num) := by
  have hpow : (0 : ℚ) < (2 : ℚ) ^ min e k := by positivity
  rw [← scaled_num (min_le_left e k), ← scaled_num (min_le_right e k)]
  exact decide_eq_decide.mpr (by rw [mul_lt_mul_iff_left₀ hpow, Int.cast_lt])

theorem ltX_inf_inf : ltX (.inf a) (.inf b) = (a && !b) := rfl
theorem ltX_inf_fin : ltX (.inf a) (.fin b n k) = a := rfl
theorem ltX_fin_inf : ltX (.fin a m e) (.inf b) = !b := rfl

theorem ltX_asymm (hx : x ≠ .nan) (hy : y ≠ .nan) (h : ltX x y = true) : ltX y x = false := by
  cases x with
  | nan => exact absurd rfl hx
  | inf a =>
    cases y with
    | nan => exact absurd rfl hy
    | inf b => cases b <;> simp_all [ltX_inf_inf]
    | fin b n k => simp_all [ltX_inf_fin, ltX_fin_inf]
  | fin a m e =>
    cases y with
    | nan => exact absurd rfl hy
    | inf b => simp_all [ltX_inf_fin, ltX_fin_inf]
    | fin b n k =>
      rw [ltX_fin_fin, decide_eq_true_eq] at h
      rw [ltX_fin_fin, decide_eq_false (not_lt_of_gt h)]

theorem eq_zero_of_isZero (h : isZero x = true) : ∃ neg e, x = .fin neg 0 e := by
  unfold isZero at h
  split at h
  next neg e => exact ⟨neg, e, rfl⟩
  next => cases h

theorem ltX_zeros (hx : isZero x = true) (hy : isZero y = true) : ltX x y = false := by
  obtain ⟨a, e, rfl⟩ := eq_zero_of_isZero hx
  obtain ⟨b, k, rfl⟩ := eq_zero_of_isZero hy
  simp [ltX_fin_fin, XVal.num]

/-- The order with -0 below +0 (R135) is one-sided. -/
theorem ltSigned_asymm (hx : x ≠ .nan) (hy : y ≠ .nan) (h : ltSigned x y = true) : ltSigned y x = false := by
  simp only [ltSigned, Bool.or_eq_true, Bool.and_eq_true] at h
  rcases h with hlt | ⟨⟨⟨hx0, hy0⟩, hneg⟩, -⟩
  · have hzeros : (isZero y && isZero x) = false := by
      by_contra hz
      simp only [Bool.not_eq_false, Bool.and_eq_true] at hz
      exact Bool.false_ne_true ((ltX_zeros hz.2 hz.1).symm.trans hlt)
    simp [ltSigned, ltX_asymm hx hy hlt, hzeros]
  · simp [ltSigned, ltX_zeros hy0 hx0, hneg]

end

/-! ### Minima and maxima (R135) -/

section
variable {k : Fmt} {a b : Nat} {prop : Bool}

theorem isNan_eq_false {x : XVal} (h : x ≠ .nan) : isNan x = false := by rwa [← Bool.not_eq_true, isNan_iff]

/-- The minimum keeps its first operand unless the second is less. -/
theorem fmin_of_numbers (ha : decodeFp k a ≠ .nan) (hb : decodeFp k b ≠ .nan) :
    fminmaxPat false prop k a b = if ltSigned (decodeFp k b) (decodeFp k a) then b else a := by
  simp [fminmaxPat, isNan_eq_false ha, isNan_eq_false hb]

theorem fmax_of_numbers (ha : decodeFp k a ≠ .nan) (hb : decodeFp k b ≠ .nan) :
    fminmaxPat true prop k a b = if ltSigned (decodeFp k a) (decodeFp k b) then b else a := by
  simp [fminmaxPat, isNan_eq_false ha, isNan_eq_false hb]

/-- The lesser and the greater of two numbers, each the pattern of an operand. -/
theorem fminmax_of_numbers (ha : decodeFp k a ≠ .nan) (hb : decodeFp k b ≠ .nan) :
    (fminmaxPat false prop k a b = a ∨ fminmaxPat false prop k a b = b) ∧
    (fminmaxPat true prop k a b = a ∨ fminmaxPat true prop k a b = b) ∧
    (ltSigned (decodeFp k a) (decodeFp k b) = true →
      fminmaxPat false prop k a b = a ∧ fminmaxPat true prop k a b = b) ∧
    (ltSigned (decodeFp k b) (decodeFp k a) = true →
      fminmaxPat false prop k a b = b ∧ fminmaxPat true prop k a b = a) := by
  rw [fmin_of_numbers ha hb, fmax_of_numbers ha hb]
  refine ⟨(ite_eq_or_eq _ _ _).symm, (ite_eq_or_eq _ _ _).symm, fun h => ?_, fun h => ?_⟩
  · simp [h, ltSigned_asymm ha hb h]
  · simp [h, ltSigned_asymm hb ha h]

/-- A form that does not propagate gives the operand that is a number. -/
theorem fminmax_of_one_nan {wantMax : Bool} (ha : decodeFp k a = .nan) (hb : decodeFp k b ≠ .nan) :
    fminmaxPat wantMax false k a b = b ∧ fminmaxPat wantMax false k b a = b := by
  simp [fminmaxPat_eq, ha, hb]

/-- A form that propagates, or two NaNs, give the canonical NaN. -/
theorem fminmax_of_nan {wantMax : Bool} (ha : decodeFp k a = .nan) (h : prop = true ∨ decodeFp k b = .nan) :
    fminmaxPat wantMax prop k a b = canonNan k ∧ fminmaxPat wantMax prop k b a = canonNan k := by
  have hnan : isNan (decodeFp k a) = true := isNan_iff.mpr ha
  cases hb : isNan (decodeFp k b) with
  | true => simp [fminmaxPat, hnan, hb]
  | false =>
    have hprop : prop = true := h.resolve_right fun hn => by rw [isNan_iff.mpr hn] at hb; cases hb
    simp [fminmaxPat, hnan, hb, hprop]

end

/-! ### Sign operations (R136) -/

/-- The pattern of a sign and a magnitude, bit by bit. -/
theorem getLsbD_signed {k : Fmt} {neg : Bool} {c i : Nat} (hc : c < 2 ^ (k.bits - 1)) (hi : i < k.bits) :
    (BitVec.ofNat k.bits (signed k neg c)).getLsbD i = if i = k.bits - 1 then neg else c.testBit i := by
  rw [BitVec.getLsbD_ofNat, decide_eq_true hi, Bool.true_and, signed]
  cases neg with
  | false =>
    simp only [Bool.false_eq_true, if_false, Nat.zero_add]
    split
    next h => rw [h, Nat.testBit_lt_two_pow hc]
    next => rfl
  | true =>
    simp only [if_true]
    split
    next h => rw [h, Nat.testBit_two_pow_add_eq, Nat.testBit_lt_two_pow hc]; rfl
    next h => exact Nat.testBit_two_pow_add_gt (by omega) _

section
variable {k : Fmt} (a b : BitVec k.bits)

/-- The bits below the sign. -/
theorem getLsbD_magnitudeMask {n i : Nat} (hi : i < n) :
    (BitVec.ofNat n (2 ^ (n - 1) - 1)).getLsbD i = decide (i < n - 1) := by
  rw [BitVec.getLsbD_ofNat, decide_eq_true hi, Bool.true_and, Nat.testBit_two_pow_sub_one]

theorem getLsbD_signMask {n i : Nat} (hi : i < n) : (BitVec.ofNat n (2 ^ (n - 1))).getLsbD i = decide (i = n - 1) := by
  rw [BitVec.getLsbD_ofNat, decide_eq_true hi, Bool.true_and, Nat.testBit_two_pow]
  exact decide_eq_decide.mpr eq_comm

theorem fabsPat_eq_signed (n : Nat) : fabsPat k n = signed k false (n % 2 ^ (k.bits - 1)) := by simp [fabsPat, signed]

theorem magnitude_lt (n : Nat) : n % 2 ^ (k.bits - 1) < 2 ^ (k.bits - 1) := Nat.mod_lt _ (by positivity)

theorem testBit_magnitude {i : Nat} (hi : i < k.bits) (h : i ≠ k.bits - 1) :
    (a.toNat % 2 ^ (k.bits - 1)).testBit i = a.getLsbD i := by
  rw [Nat.testBit_mod_two_pow, decide_eq_true (by omega), Bool.true_and]
  rfl

theorem getLsbD_sign : a.getLsbD (k.bits - 1) = decide (a.toNat ≥ 2 ^ (k.bits - 1)) := by
  rw [← BitVec.msb_eq_getLsbD_last, BitVec.msb_eq_decide]

theorem fabsPat_clears_sign : BitVec.ofNat k.bits (fabsPat k a.toNat) = a &&& BitVec.ofNat k.bits (2 ^ (k.bits - 1) - 1) := by
  refine BitVec.eq_of_getLsbD_eq fun i hi => ?_
  rw [fabsPat_eq_signed, getLsbD_signed (magnitude_lt _) hi, BitVec.getLsbD_and, getLsbD_magnitudeMask hi]
  split
  next h => simp [h]
  next h => simp [testBit_magnitude a hi h, show i < k.bits - 1 by omega]

theorem fnegPat_inverts_sign : BitVec.ofNat k.bits (fnegPat k a.toNat) = a ^^^ BitVec.ofNat k.bits (2 ^ (k.bits - 1)) := by
  refine BitVec.eq_of_getLsbD_eq fun i hi => ?_
  rw [fnegPat, getLsbD_signed (magnitude_lt _) hi, BitVec.getLsbD_xor, getLsbD_signMask hi]
  split
  next h =>
    rw [h, getLsbD_sign, decide_eq_true rfl, Bool.xor_true, ← decide_not]
    exact decide_eq_decide.mpr not_le.symm
  next h => simp [testBit_magnitude a hi h, h]

theorem fcsgnPat_copies_sign : BitVec.ofNat k.bits (fcsgnPat k a.toNat b.toNat) =
    a &&& BitVec.ofNat k.bits (2 ^ (k.bits - 1) - 1) ||| b &&& BitVec.ofNat k.bits (2 ^ (k.bits - 1)) := by
  refine BitVec.eq_of_getLsbD_eq fun i hi => ?_
  rw [fcsgnPat, getLsbD_signed (magnitude_lt _) hi, BitVec.getLsbD_or, BitVec.getLsbD_and, BitVec.getLsbD_and,
    getLsbD_magnitudeMask hi, getLsbD_signMask hi]
  split
  next h => rw [h, getLsbD_sign b]; simp
  next h => simp [testBit_magnitude a hi h, h, show i < k.bits - 1 by omega]

end

theorem floatMinMaxAndSigns : Claims.FloatMinMaxAndSigns := by
  refine ⟨⟨fminmaxPat false, fminmaxPat true, floatForm_of_bin ?_ ?_, floatForm_of_bin ?_ ?_, floatForm_of_bin ?_ ?_,
    floatForm_of_bin ?_ ?_, fun d b s hv => ?compact, fun k a b ha hb p => fminmax_of_numbers ha hb,
    fun k a b ha hb => ?oneNan, fun k a b p ha h => ?nan⟩, fun a b d m s hv => ?signs⟩
  case compact =>
    rw [← compactSrc_eq d b]
    exact ⟨eachActive_of_vectorOp hv rfl rfl fun _ => rfl, eachActive_of_vectorOp hv rfl rfl fun _ => rfl⟩
  case oneNan =>
    obtain ⟨hmin, hmin'⟩ := fminmax_of_one_nan (wantMax := false) ha hb
    obtain ⟨hmax, hmax'⟩ := fminmax_of_one_nan (wantMax := true) ha hb
    exact ⟨hmin, hmax, hmin', hmax'⟩
  case nan =>
    obtain ⟨hmin, hmin'⟩ := fminmax_of_nan (wantMax := false) ha h
    obtain ⟨hmax, hmax'⟩ := fminmax_of_nan (wantMax := true) ha h
    exact ⟨hmin, hmax, hmin', hmax'⟩
  case signs =>
    exact ⟨eachActive_of_vectorOp hv rfl rfl fun t => congrArg (setV t d) (fabsPat_clears_sign (k := fp32) _),
      eachActive_of_vectorOp hv rfl rfl fun t => congrArg (setV2 t d) (fabsPat_clears_sign (k := fp64) _),
      eachActive_of_vectorOp hv rfl rfl fun t => congrArg (setV t d) (fnegPat_inverts_sign (k := fp32) _),
      eachActive_of_vectorOp hv rfl rfl fun t => congrArg (setV2 t d) (fnegPat_inverts_sign (k := fp64) _),
      eachActive_of_vectorOp hv rfl rfl fun t => congrArg (setV t d) (fcsgnPat_copies_sign (k := fp32) _ _),
      eachActive_of_vectorOp hv rfl rfl fun t => congrArg (setV2 t d) (fcsgnPat_copies_sign (k := fp64) _ _)⟩
  all_goals intros; rfl

/-! ### Compares (R138, R139) -/

/-- The table of R138 by what the relation of the two values is. -/
theorem fcondHolds_eq_floatCompares (c : FCond) (r : Rel) :
    fcondHolds c r = floatCompares c (decide (r = .un)) (decide (r = .lt)) (decide (r = .eq)) := by
  cases c <;> cases r <;> rfl

/-- NaN compares unordered, on either side. -/
theorem fcondHolds_of_nan (c : FCond) (x : XVal) :
    fcondHolds c (relX .nan x) = floatCompares c true false false ∧
    fcondHolds c (relX x .nan) = floatCompares c true false false := by
  have hright : relX x .nan = .un := by cases x <;> rfl
  rw [hright]
  exact ⟨fcondHolds_eq_floatCompares c .un, fcondHolds_eq_floatCompares c .un⟩

theorem relX_fin_fin {a b : Bool} {m n : Nat} {e k : Int} : relX (.fin a m e) (.fin b n k) =
    if (XVal.fin a m e).num < (XVal.fin b n k).num then .lt
    else if (XVal.fin b n k).num < (XVal.fin a m e).num then .gt else .eq := by
  simp only [relX, isNan, Bool.or_self, Bool.false_eq_true, if_false, ltX_fin_fin, decide_eq_true_eq]

/-- Two finite values compare as numbers. -/
theorem fcondHolds_of_finite (c : FCond) {x y : XVal} (hx : x.finite = true) (hy : y.finite = true) :
    fcondHolds c (relX x y) = floatCompares c false (decide (x.num < y.num)) (decide (x.num = y.num)) := by
  obtain ⟨a, m, e, rfl⟩ := eq_fin_of_finite hx
  obtain ⟨b, n, k, rfl⟩ := eq_fin_of_finite hy
  rw [fcondHolds_eq_floatCompares, relX_fin_fin]
  rcases lt_trichotomy (XVal.fin a m e).num (XVal.fin b n k).num with h | h | h
  · simp [h, h.ne]
  · simp [h]
  · simp [h, h.ne', not_lt_of_gt h]

/-- An infinity lies beyond every finite value, on its side. -/
theorem fcondHolds_of_inf (c : FCond) {x : XVal} (a b : Bool) (hx : x.finite = true) :
    fcondHolds c (relX (.inf a) x) = floatCompares c false a false ∧
    fcondHolds c (relX x (.inf b)) = floatCompares c false (!b) false ∧
    fcondHolds c (relX (.inf a) (.inf b)) = floatCompares c false (a && !b) (a == b) := by
  obtain ⟨s, m, e, rfl⟩ := eq_fin_of_finite hx
  simp only [fcondHolds_eq_floatCompares]
  refine ⟨?_, ?_, ?_⟩
  · cases a <;> rfl
  · cases b <;> rfl
  · cases a <;> cases b <;> rfl

/-! ### Classes (R137) -/

section
variable {k : Fmt} {a : Nat}

/-- The magnitude of a pattern is its exponent field above its fraction field. -/
theorem magnitude_eq (hk : k.Fields) : a % 2 ^ (k.bits - 1) = expField k a * 2 ^ k.frac + fracField k a := by
  rw [hk.bits, Nat.add_sub_cancel_left, Nat.add_comm k.exp, pow_add, Nat.mod_mul, expField, fracField, Nat.add_comm, Nat.mul_comm]

theorem signBit_eq_testBit : signBit k a = a.testBit (k.bits - 1) := (Nat.testBit_eq_decide_div_mod_eq ..).symm

theorem ge_sign_eq_testBit (hk : k.Fields) (ha : a < 2 ^ k.bits) :
    decide (a ≥ 2 ^ (k.bits - 1)) = a.testBit (k.bits - 1) := by
  have hbits : k.bits - 1 + 1 = k.bits := by rw [hk.bits]; omega
  have hlt : a / 2 ^ (k.bits - 1) < 2 := by rwa [Nat.div_lt_iff_lt_mul (by positivity), ← pow_succ', hbits]
  rw [← signBit_eq_testBit, signBit, Nat.mod_eq_of_lt hlt]
  refine decide_eq_decide.mpr ?_
  rw [ge_iff_le, ← Nat.one_le_div_iff (by positivity)]
  omega

/-- The number of the class of a pattern (R137): the classes of the positive values mirror those of the negative ones. -/
def classOf (k : Fmt) (a : Nat) : Nat :=
  if decodeFp k a = .nan then (if a.testBit (k.frac - 1) then 9 else 8)
  else
    let p := if a % 2 ^ (k.bits - 1) = infCode k then 7 else if a % 2 ^ (k.bits - 1) = 0 then 4
      else if a % 2 ^ (k.bits - 1) < 2 ^ k.frac then 5 else 6
    if a.testBit (k.bits - 1) then 7 - p else p

theorem classOf_nan (h : decodeFp k a = .nan) : classOf k a = if a.testBit (k.frac - 1) then 9 else 8 := if_pos h

theorem classOf_inf (h : decodeFp k a ≠ .nan) (hm : a % 2 ^ (k.bits - 1) = infCode k) :
    classOf k a = if a.testBit (k.bits - 1) then 0 else 7 := by
  simp only [classOf, if_neg h, hm, if_true]

theorem classOf_finite (h : decodeFp k a ≠ .nan) (hm : a % 2 ^ (k.bits - 1) < infCode k) : classOf k a =
    if a % 2 ^ (k.bits - 1) = 0 then (if a.testBit (k.bits - 1) then 3 else 4)
    else if a % 2 ^ (k.bits - 1) < 2 ^ k.frac then (if a.testBit (k.bits - 1) then 2 else 5)
    else if a.testBit (k.bits - 1) then 1 else 6 := by
  simp only [classOf, if_neg h, if_neg hm.ne]
  split_ifs <;> rfl

theorem maxCode_lt_infCode (hk : k.Fields) (hinf : k.inf = true) : maxCode k < infCode k := by
  have hexp : 2 ^ 2 ≤ 2 ^ k.exp := Nat.pow_le_pow_right (by decide) hk.exp
  have hpos : 0 < infCode k := Nat.mul_pos (by omega) (by positivity)
  rw [maxCode, if_pos hinf]
  omega

/-- The class bit is that of the class. -/
theorem fclassPat_eq (hk : k.Fields) (hinf : k.inf = true) (ha : a < 2 ^ k.bits) : fclassPat k a = 2 ^ classOf k a := by
  have hmag := magnitude_eq (a := a) hk
  have hmax := maxCode_lt_infCode hk hinf
  rcases decodeFp_cases k a with h | ⟨-, hcode, h⟩ | ⟨h0, h⟩ | ⟨h0, hfin, h⟩
  · rw [classOf_nan h, Nat.testBit_eq_decide_div_mod_eq]
    simp only [fclassPat, h, decide_eq_true_eq]
    split <;> rfl
  · rw [classOf_inf (by simp [h]) (hmag.trans hcode), ← signBit_eq_testBit]
    simp only [fclassPat, h]
    split <;> rfl
  · have hle := subnormal_code_le_maxCode (a := a) hk
    rw [h0, Nat.zero_mul, Nat.zero_add] at hmag
    rw [classOf_finite (by simp [h]) (hmag ▸ hle.trans_lt hmax), hmag]
    simp only [fclassPat, h, ge_sign_eq_testBit hk ha]
    split_ifs <;> rfl
  · have hle := normal_code_le_maxCode hk hfin
    have hnormal : 2 ^ k.frac ≤ a % 2 ^ (k.bits - 1) := by
      rw [hmag]
      exact (Nat.le_mul_of_pos_left _ (Nat.pos_of_ne_zero h0)).trans (Nat.le_add_right ..)
    have hfrac := two_le_fracs hk
    rw [classOf_finite (by simp [h]) (hmag ▸ hle.trans_lt hmax), if_neg (show a % 2 ^ (k.bits - 1) ≠ 0 by omega),
      if_neg (not_lt.mpr hnormal)]
    simp only [fclassPat, h, ge_sign_eq_testBit hk ha, if_neg (show 2 ^ k.frac + fracField k a ≠ 0 by omega),
      if_neg (show ¬ 2 ^ k.frac + fracField k a < 2 ^ k.frac by omega)]
    split <;> rfl

end

theorem fclassPat_word (x : Word) : fclassPat fp32 x.toNat = 2 ^ classOf fp32 x.toNat :=
  fclassPat_eq (fields_of_mem (by decide)) rfl x.isLt

theorem fclassPat_double (x : BitVec 64) : fclassPat fp64 x.toNat = 2 ^ classOf fp64 x.toNat :=
  fclassPat_eq (fields_of_mem (by decide)) rfl x.isLt

theorem ofInt_num (x : Int) : (ofInt x).num = x := by rw [ofInt, ofScaled_num, zpow_zero, mul_one]

/-- `fcmp` by the relation of its two values, for each kind of second source; `fclass` by the class of the pattern. -/
theorem floatComparesWriteThePredicate : Claims.FloatComparesWriteThePredicate := by
  refine ⟨⟨fun c x y => fcondHolds c (relX x y), fun b a c q m s hv => ⟨?_, ?_⟩, fun c x y => fcondHolds_of_finite c,
    fun c x a b => fcondHolds_of_inf c a b, fcondHolds_of_nan⟩, fun i => by rw [ofInt_num],
    classOf, fun a d m s hv => ⟨?_, ?_⟩, fun k a _ _ => rfl⟩
  · exact eachActive_of_vectorOp hv rfl rfl fun t => by cases b <;> rfl
  · exact eachActive_of_vectorOp hv rfl rfl fun t => by cases b <;> rfl
  · exact eachActive_of_vectorOp hv rfl rfl fun t => by rw [← fclassPat_word]; rfl
  · exact eachActive_of_vectorOp hv rfl rfl fun t => by rw [← fclassPat_double]; rfl

/-- Settles O15: minima and maxima by the order of their values, signs bit by bit, compares by the relation of two values,
classes field by field. -/
theorem floatComparesAndMinima : Obligations.FloatComparesAndMinima := ⟨floatMinMaxAndSigns, floatComparesWriteThePredicate⟩

end Sys2Proof.Machine
end

section
/-! ### System and guard instructions, and the roles (R37, R128, R177, R178, R272, R358) -/
namespace Sys2Proof.Machine

variable {s s' s'' : State} {t : Thread} {i : Instr} {sw : Bool}

/-! ### Gangs all of whose threads trap -/

/-- Each thread of an issue takes a trap. -/
def EachTraps (rs : List (Thread × Fate)) : Prop := ∀ r ∈ rs, ∃ c code d, r.2 = .trap c code d

section
variable {rs : List (Thread × Fate)} {r : Thread × Fate}

theorem EachTraps.cons_iff : EachTraps (r :: rs) ↔ (∃ c code d, r = (r.1, .trap c code d)) ∧ EachTraps rs := by
  simp only [EachTraps, List.forall_mem_cons, Prod.ext_iff, true_and]

theorem EachTraps.trapped_eq (h : EachTraps rs) : trapped rs = rs.map Prod.fst := by
  induction rs with
  | nil => rfl
  | cons r rs ih =>
    obtain ⟨⟨c, code, d, hr⟩, hrs⟩ := EachTraps.cons_iff.mp h
    rw [hr, trapped, ih hrs, List.map_cons]

theorem EachTraps.goesOn_eq (h : EachTraps rs) : goesOn rs = false := by
  induction rs with
  | nil => rfl
  | cons r rs ih =>
    obtain ⟨⟨c, code, d, hr⟩, hrs⟩ := EachTraps.cons_iff.mp h
    rw [hr]
    exact ih hrs

theorem EachTraps.blockedWith_eq (h : EachTraps rs) (w : Nat) : blockedWith w rs = [] := by
  induction rs with
  | nil => rfl
  | cons r rs ih =>
    obtain ⟨⟨c, code, d, hr⟩, hrs⟩ := EachTraps.cons_iff.mp h
    rw [hr]
    exact ih hrs

/-- Threads of the state that all trap at an instruction: the shared trap operation on them, then their slot. -/
theorem applyFates_of_traps {x : Nat × Nat × BitVec 64} (h : EachTraps rs) (hx : firstTrap rs = some x) (hn : OwnNames s)
    (hmem : ∀ r ∈ rs, r.1 ∈ s.threads) :
    applyFates i sw s rs = settleTurn (takeTrap s (rs.map Prod.fst) x.1 x.2.1 x.2.2 (wordOf i)) := by
  have hgoing : foldList (applyGoing (lengthOf i) sw) s rs = s := by
    refine foldList_keeps (P := fun s' : State => s' = s) rfl fun s' r hr hs' => ?_
    obtain ⟨c, code, d, hf⟩ := h r hr
    rw [hs', applyGoing, hf]
    exact setThread_self s r.1 (hn.eq_of_name (hmem r hr))
  have hleaving : ∀ s' : State, foldList applyLeaving s' rs = s' := fun s' =>
    foldList_id _ _ _ fun s r hr => by
      obtain ⟨c, code, d, hf⟩ := h r hr
      rw [applyLeaving, hf]
  simp only [applyFates, hgoing, hx, h.trapped_eq, h.goesOn_eq, hleaving, traceEnds_fold _ _ h.blockedWith_eq,
    Bool.false_eq_true, if_false]

end

theorem runThreads_same_fate {body : State → Thread → State × Thread × Fate} {f : Fate} {ts : List Thread}
    (h : ∀ t ∈ ts, body s t = (s, t, f)) : runThreads body s ts = (s, ts.map fun t => (t, f)) := by
  induction ts with
  | nil => rfl
  | cons t ts ih =>
    simp only [runThreads, h t List.mem_cons_self, ih fun u hu => h u (List.mem_cons_of_mem _ hu), List.map_cons]

/-- ILLEGAL_ISSUE has no code and no detail. -/
theorem firstTrap_same {c code : Nat} {d : BitVec 64} {ts : List Thread} (hc : c = 2 → code = 0 ∧ d = 0) (hne : ts ≠ []) :
    firstTrap (ts.map fun t => (t, .trap c code d)) = some (c, code, d) := by
  obtain ⟨t, ts, rfl⟩ := List.exists_cons_of_ne_nil hne
  by_cases h2 : c = 2
  · obtain ⟨rfl, rfl⟩ := hc h2
    subst h2
    rfl
  · have hno : ((t :: ts).map fun t => (t, Fate.trap c code d)).any forbidden = false := by
      simp [List.any_eq_false, forbidden, h2]
    rw [firstTrap, hno]
    rfl

/-- A gang every thread of which takes one trap. -/
theorem perThread_all_trap {body : State → Thread → State × Thread × Fate} {c code : Nat} {d : BitVec 64} (hg : Gang s)
    (hc : c = 2 → code = 0 ∧ d = 0) (hb : ∀ t ∈ actives s, body s t = (s, t, .trap c code d)) :
    perThread i sw body s = .next (settleTurn (takeTrap s (actives s) c code d (wordOf i))) := by
  obtain ⟨hne, -, hn⟩ := hg
  have hall : EachTraps ((actives s).map fun t => (t, .trap c code d)) := fun r hr => by
    obtain ⟨t, -, rfl⟩ := List.mem_map.mp hr
    exact ⟨c, code, d, rfl⟩
  have hmem : ∀ r ∈ (actives s).map fun t => (t, Fate.trap c code d), r.1 ∈ s.threads := fun r hr => by
    obtain ⟨t, ht, rfl⟩ := List.mem_map.mp hr
    exact (List.mem_filter.mp ht).1
  have hfst : ((actives s).map fun t => (t, Fate.trap c code d)).map Prod.fst = actives s := by
    rw [List.map_map]
    exact List.map_id _
  simp only [perThread, runThreads_same_fate hb, applyFates_of_traps hall (firstTrap_same hc hne) hn hmem, hfst]

/-! ### Roles (R128, R272) -/

/-- A gang of another role that issues a form of the vector role takes ILLEGAL_ISSUE. -/
theorem vectorOp_forbidden {f : Thread → Thread} (hg : Gang s) (hr : ∀ t ∈ actives s, t.role ≠ 0)
    (he : exec i s = vectorOp i sw f s) :
    exec i s = .next (settleTurn (takeTrap s (actives s) 2 0 0 (wordOf i))) := by
  have hrole : ∀ t ∈ actives s, onlyVector t.role = false := fun t ht => decide_eq_false (hr t ht)
  obtain ⟨t, ht⟩ := List.exists_mem_of_ne_nil _ hg.1
  have hsome : ((actives s).all fun t => onlyVector t.role) = false := List.all_eq_false.mpr ⟨t, ht, by simp [hrole t ht]⟩
  rw [he, vectorOp, hsome]
  exact perThread_all_trap hg (fun _ => ⟨rfl, rfl⟩) fun t ht => by rw [withRole, hrole t ht]; rfl

theorem rolesForbidFloatingPoint : Claims.RolesForbidFloatingPoint := fun _ hg hr =>
  ⟨fun _ => vectorOp_forbidden hg hr rfl, fun _ => vectorOp_forbidden hg hr rfl, fun _ => vectorOp_forbidden hg hr rfl,
    fun _ => vectorOp_forbidden hg hr rfl, fun _ => vectorOp_forbidden hg hr rfl, fun _ => vectorOp_forbidden hg hr rfl⟩

/-! ### What the trace, the logs and the record buffer change -/

/-- The threads and the turn are as they were. -/
structure SameThreads (s s' : State) : Prop where
  threads : s'.threads = s.threads
  turn : s'.turn = s.turn

/-- So are the workgroups, the launches and the records: only memory and what the trace and the logs keep has changed. -/
structure SameWork (s s' : State) : Prop extends SameThreads s s' where
  wgs : s'.wgs = s.wgs
  launches : s'.launches = s.launches
  records : s'.records = s.records

theorem SameThreads.refl (s : State) : SameThreads s s := ⟨rfl, rfl⟩
theorem SameWork.refl (s : State) : SameWork s s := ⟨⟨rfl, rfl⟩, rfl, rfl, rfl⟩

theorem SameThreads.trans (h : SameThreads s s') (h' : SameThreads s' s'') : SameThreads s s'' :=
  ⟨h'.threads.trans h.threads, h'.turn.trans h.turn⟩

theorem SameWork.trans (h : SameWork s s') (h' : SameWork s' s'') : SameWork s s'' :=
  ⟨h.toSameThreads.trans h'.toSameThreads, h'.wgs.trans h.wgs, h'.launches.trans h.launches, h'.records.trans h.records⟩

theorem foldList_sameThreads {α : Type} {f : State → α → State} (hf : ∀ s x, SameThreads s (f s x)) (s : State)
    (xs : List α) : SameThreads s (foldList f s xs) :=
  foldList_keeps (P := SameThreads s) (.refl s) fun s' x _ h => h.trans (hf s' x)

theorem foldList_sameWork {α : Type} {f : State → α → State} (hf : ∀ s x, SameWork s (f s x)) (s : State) (xs : List α) :
    SameWork s (foldList f s xs) :=
  foldList_keeps (P := SameWork s) (.refl s) fun s' x _ h => h.trans (hf s' x)

theorem physWrite_sameWork (s : State) (pa : Nat) (bs : List Byte) : SameWork s (physWrite s pa bs) :=
  ⟨⟨rfl, rfl⟩, rfl, rfl, rfl⟩

theorem updCtx_sameWork (s : State) (id : Nat) (f : Context → Context) : SameWork s (updCtx s id f) :=
  ⟨⟨rfl, rfl⟩, rfl, rfl, rfl⟩

theorem tracePut_sameWork (s : State) (ctx : Nat) (bs : List Byte) : SameWork s (tracePut s ctx bs) := by
  have hring (base index rlog prod drops : Nat) : SameWork s (ringPut s base index rlog prod drops bs).1 := by
    unfold ringPut
    split
    · exact physWrite_sameWork ..
    · exact (physWrite_sameWork ..).trans (physWrite_sameWork ..)
  unfold tracePut
  split
  · exact .refl s
  · split
    · exact .refl s
    · exact (hring ..).trans (updCtx_sameWork ..)

theorem takeSample_sameWork (s : State) (ctx : Nat) : SameWork s (takeSample s ctx) := by
  have hcore (ctx clock : Nat) (h : Home) (s : State) (core : Nat) : SameWork s (sampleCore ctx clock h s core) := by
    unfold sampleCore
    extract_lets c s1
    have hs1 : SameWork s s1 := ⟨⟨rfl, rfl⟩, rfl, rfl, rfl⟩
    have hbump (s : State) : SameWork s (bumpFree (bumpFree s)) := ⟨⟨rfl, rfl⟩, rfl, rfl, rfl⟩
    exact (hs1.trans (tracePut_sameWork ..)).trans (hbump _)
  unfold takeSample
  split
  · exact .refl s
  · split
    · exact (updCtx_sameWork ..).trans (foldList_sameWork (fun s h => foldList_sameWork (hcore _ _ h) s _) _ _)
    · exact .refl s

theorem traceEvent_sameWork (s : State) (g : Workgroup) (kind detail : Nat) (ord parent mask : Word) :
    SameWork s (traceEvent s g kind detail ord parent mask) := by
  have hsamples : SameWork s (takeSamples s g.ctx) := by
    unfold takeSamples
    exact List.foldlRecOn _ _ (SameWork.refl s) fun s' h x _ => h.trans (takeSample_sameWork s' g.ctx)
  unfold traceEvent
  split
  · exact .refl s
  · split
    · exact .refl s
    · split
      · exact hsamples.trans (tracePut_sameWork ..)
      · exact .refl s

theorem traceEnds_sameWork (s : State) (ts : List Thread) (wake : Nat) : SameWork s (traceEnds s ts wake) := by
  unfold traceEnds
  split
  · exact .refl s
  · unfold traceEndsAt
    dsimp only
    split
    · exact traceEvent_sameWork ..
    · exact .refl s

theorem logDispatch_sameWork (s : State) (g : Workgroup) (ord tid kind detail passed : Nat) :
    SameWork s (logDispatch s g ord tid kind detail passed) := by
  unfold logDispatch logFor
  split
  · unfold logAppend
    extract_lets cap hit upd
    have hupd (s : State) (r : Recording) : SameWork s (upd s r) := ⟨⟨rfl, rfl⟩, rfl, rfl, rfl⟩
    clear_value upd
    split
    · split
      · exact ((physWrite_sameWork ..).trans (physWrite_sameWork ..)).trans (hupd ..)
      · split
        · exact ((physWrite_sameWork ..).trans (physWrite_sameWork ..)).trans (hupd ..)
        · exact hupd ..
    · split
      · exact (physWrite_sameWork ..).trans (hupd ..)
      · exact hupd ..
  · exact .refl s

theorem poolWrite_sameWork (s : State) (r : Record) : SameWork s (poolWrite s r) := by
  have hwrite (s : State) (ctx va : Nat) (bs : List Byte) : SameWork s (vwrite s ctx va bs) := by
    unfold vwrite
    split
    · exact physWrite_sameWork ..
    · exact .refl s
  unfold poolWrite
  split
  · split
    · unfold vwriteSplit
      dsimp only
      split
      · exact (hwrite ..).trans (hwrite ..)
      · exact hwrite ..
    · exact .refl s
  · exact .refl s

theorem updRecord_sameThreads (s : State) (id : Nat) (f : Record → Record) : SameThreads s (updRecord s id f) := ⟨rfl, rfl⟩

theorem makeRoom_sameThreads (s : State) (cluster need fuel : Nat) : SameThreads s (makeRoom s cluster need fuel) := by
  induction fuel generalizing s with
  | zero => exact .refl s
  | succ fuel ih =>
    unfold makeRoom
    split
    · exact .refl s
    · split
      · exact .refl s
      · exact ((poolWrite_sameWork ..).toSameThreads.trans (updRecord_sameThreads ..)).trans (ih _)

theorem wakeRecord_sameThreads (s : State) (id : Nat) : SameThreads s (wakeRecord s id) := by
  have hbuffer (s : State) : SameThreads s (bufferRecord s id) := by
    unfold bufferRecord
    split
    · exact .refl s
    · split
      · exact .refl s
      · exact (makeRoom_sameThreads ..).trans (updRecord_sameThreads ..)
  have hrefill (s : State) (cluster : Nat) : SameThreads s (refillRecordBins s cluster) := by
    refine foldList_sameThreads (fun s r => ?_) _ _
    dsimp only
    split
    · exact updRecord_sameThreads ..
    · exact .refl s
  unfold wakeRecord
  split
  · exact .refl s
  · split
    · exact .refl s
    · dsimp only
      split
      · exact ((updRecord_sameThreads ..).trans (hbuffer _)).trans (hrefill ..)
      · exact updRecord_sameThreads ..

theorem retest_sameThreads (s : State) (p : Record → Bool) : SameThreads s (retest s p) := by
  refine foldList_sameThreads (fun s r => ?_) _ _
  split
  · exact wakeRecord_sameThreads ..
  · exact .refl s

/-! ### Guard slots (R37, R178) -/

/-- A thread with one more synchronising operation counted (R463). -/
def countSync (t : Thread) : Thread := { t with path := { t.path with syncOps := t.path.syncOps + 1 } }

/-- An operation at the SRAM of a launch that is not recorded is counted in its thread and logged nowhere. -/
theorem sramLogged_of_notRecorded {g : Workgroup} (hg : findWg s t.wg = some g) (hr : NotRecorded s g.launch) :
    sramLogged s t = (s, countSync t) := by
  have hnone : (s.recording.find? fun r => decide (r.launch = some g.launch) && r.complete) = none :=
    List.find?_eq_none.mpr fun r hm => by simp [hr r hm]
  simp only [sramLogged, hg, logFor, hnone]
  rfl

theorem seatResumed_name (s : State) (t : Thread) (e : SegEnd) :
    (seatResumed s t e).wg = t.wg ∧ (seatResumed s t e).tid = t.tid := by
  have henter (t : Thread) : (enterTrap s t e).wg = t.wg ∧ (enterTrap s t e).tid = t.tid := by
    unfold enterTrap
    split <;> exact ⟨rfl, rfl⟩
  unfold seatResumed
  dsimp only
  split
  · split
    · exact henter _
    · exact ⟨rfl, rfl⟩
  · exact ⟨rfl, rfl⟩

/-- The thread runs in its slot alone, whose turn it is, and no other has its name. -/
structure RunsAlone (s : State) (k : SlotKey) (t : Thread) : Prop where
  turn : s.turn = some k
  mem : t ∈ s.threads
  only : ∀ u ∈ s.threads, inRunning k u = true → u = t
  name : ∀ u ∈ s.threads, u.wg = t.wg → u.tid = t.tid → u = t

section
variable {k : SlotKey}

theorem RunsAlone.congr (h : RunsAlone s k t) (hs : SameThreads s s') : RunsAlone s' k t :=
  ⟨hs.turn.trans h.turn, hs.threads ▸ h.mem, hs.threads ▸ h.only, hs.threads ▸ h.name⟩

/-- Filing another thread, one of another name, leaves the slot to the one that runs. -/
theorem RunsAlone.fileThread {u : Thread} {origin : Nat} (h : RunsAlone s k t) (hne : ¬ (t.wg = u.wg ∧ t.tid = u.tid)) :
    RunsAlone (fileThread s u origin s.clock) k t := by
  obtain ⟨u', hf, hfile⟩ := fileThread_eq_setThread s u origin
  have hne' : ¬ (t.wg = u'.wg ∧ t.tid = u'.tid) := by rwa [hf.name.1, hf.name.2]
  have hold : ∀ v ∈ (setThread s u').threads, v = u' ∨ v ∈ s.threads := fun v hv => by
    obtain ⟨x, hx, rfl⟩ := List.mem_map.mp hv
    split
    · exact .inl rfl
    · exact .inr hx
  rw [hfile]
  refine ⟨h.turn, mem_setThread_of_other h.mem hne', fun v hv hr => ?_, fun v hv hw hi => ?_⟩
  · rcases hold v hv with rfl | hv
    · rw [hf.inRunning] at hr; cases hr
    · exact h.only v hv hr
  · rcases hold v hv with rfl | hv
    · exact absurd ⟨hw.symm, hi.symm⟩ hne'
    · exact h.name v hv hw hi

/-- Threads that leave their hold are filed: the slot is left to the one that runs. -/
theorem RunsAlone.retestWg {wg code : Nat} (h : RunsAlone s k t) (hrun : inRunning k t = true) :
    RunsAlone (retestWg s wg code) k t := by
  have h' : RunsAlone (retest s fun r => decide (r.th.wg = wg) && decide (r.fin.wake = code)) k t :=
    h.congr (retest_sameThreads ..)
  unfold Machine.retestWg retestHeld
  refine foldList_keeps (P := fun s' => RunsAlone s' k t) h' fun s' u hu hs' => ?_
  split
  next e he =>
    have hne : ¬ (t.wg = u.wg ∧ t.tid = u.tid) := fun ⟨hw, hi⟩ => by
      rw [h'.name u hu hw.symm hi.symm] at he
      simp [inRunning, he] at hrun
    have hfile : RunsAlone (Machine.fileThread s' (seatResumed s' u e) 1 s'.clock) k t :=
      hs'.fileThread (by rwa [(seatResumed_name s' u e).1, (seatResumed_name s' u e).2])
    exact iteInduction (motive := fun s' => RunsAlone s' k t) (fun _ => hfile) fun _ => hs'
  next => exact hs'

end

/-- The slot is resolved and the unbound commands under it are bound (R37). -/
def resolveSlot (s : State) (wg : Nat) (n : BitVec 4) (b : Bool) : State :=
  { setGuard s wg n (if b then .isTrue else .isFalse) with cmds := s.cmds.map (bindUnder wg n.toNat b) }

section
variable {g : Workgroup} {wg : Nat} {n : BitVec 4} {b : Bool} (hg : findWg s wg = some g)
include hg

theorem guardResolve_of_armed (ha : guardState g n.toNat = .armed) :
    guardResolve s wg n b = retestWg (resolveSlot s wg n b) wg 4 := by
  simp only [guardResolve, hg, Option.map_some, ha]
  rfl

theorem guardResolve_of_not_armed (ha : guardState g n.toNat ≠ .armed) : guardResolve s wg n b = s := by
  unfold guardResolve
  rw [hg, Option.map_some]
  split
  next h => exact absurd (Option.some.inj h) ha
  next => rfl

end

/-- Arming and setting a slot, each by what the slot holds. -/
theorem guardInstructions : Claims.GuardInstructions := by
  intro n s t g ⟨ha, hu⟩ hg hr
  have hlog := sramLogged_of_notRecorded hg hr
  refine ⟨fun m => ?arm, fun i v a m => ⟨fun hn => ?ignored, fun hn => ?resolved⟩⟩
  case arm =>
    refine one_goes_on ha (s1 := setGuard s t.wg n .armed) (t1 := countSync t) ?_ ⟨rfl, rfl, rfl, rfl, rfl, rfl⟩
    simp only [hlog]
  case ignored =>
    refine one_goes_on ha (s1 := s) (t1 := countSync t) ?_ ⟨rfl, rfl, rfl, rfl, rfl, rfl⟩
    simp only [hlog, guardResolve_of_not_armed hg hn]
  case resolved =>
    obtain ⟨k, hk, hm, hrun, hone⟩ := active_one s t ha
    have halone : RunsAlone (resolveSlot s t.wg n (if i then v else decide (getV t a ≠ 0))) k t := ⟨hk, hm, hone, hu⟩
    have hafter := halone.retestWg (wg := t.wg) (code := 4) hrun
    refine perThread_one_next _ _ _ s (retestWg (resolveSlot s t.wg n _) t.wg 4) t (countSync t) k ha ?_
      hafter.turn ⟨t, hafter.mem, rfl, rfl⟩ (fun u hm hr => hafter.only u hm hr ▸ ⟨rfl, rfl⟩) hrun
    simp only [hlog, guardResolve_of_armed hg hn]

/-! ### A stop at a breakpoint (R358) -/

theorem poolUsed_congr (h : SameWork s s') (launch : Nat) : poolUsed s' launch = poolUsed s launch := by
  have hbase (l : Nat) : poolBase s' l = poolBase s l := by rw [poolBase, launchConf, findLaunch, h.launches]; rfl
  have hctx (wg : Nat) : ctxOfWg s' wg = ctxOfWg s wg := by rw [ctxOfWg, findWg, h.wgs]; rfl
  rw [poolUsed, findLaunch, h.launches, h.records]
  simp only [hbase, hctx]
  rfl

/-- Whether the pool is full is told from the records, the launches and the workgroups. -/
theorem poolFull_congr (h : SameWork s s') (launch : Nat) : poolFull s' launch = poolFull s launch := by
  have hlimit : poolLimit s' launch = poolLimit s launch := by rw [poolLimit, launchConf, findLaunch, h.launches]; rfl
  rw [poolFull, hlimit, poolUsed_congr h, poolFull]

theorem not_named_after_drop (s : State) (wg tid : Nat) :
    ∀ u ∈ (dropThread s wg tid).threads, ¬ (u.wg = wg ∧ u.tid = tid) := by
  rintro u hu ⟨hw, hi⟩
  simp [dropThread, dropWhere, hw, hi] at hu

theorem recordThread_wg (s : State) (t : Thread) (e : SegEnd) : (recordThread s t e).wg = t.wg := by rw [recordThread]
theorem recordThread_tid (s : State) (t : Thread) (e : SegEnd) : (recordThread s t e).tid = t.tid := by rw [recordThread]

/-- A halted thread waits for the session alone (R359). -/
theorem wakeHolds_of_halt {e : SegEnd} (s : State) (t : Thread) (hw : e.wake = 11) (hh : e.halt = true) :
    wakeHolds s t e = false := by
  simp only [wakeHolds, hw, hh]
  split <;> rfl

/-- The record of a thread that the session halts stands in the list as it was written, and the seat is free. -/
theorem writeRecord_of_halt {e : SegEnd} {g : Workgroup} (hg : findWg s t.wg = some g) (hw : e.wake = 11)
    (hh : e.halt = true) : (∀ u ∈ (writeRecord s t e false false).threads, ¬ (u.wg = t.wg ∧ u.tid = t.tid)) ∧
    ∃ r ∈ (writeRecord s t e false false).records, r.th = recordThread s t e ∧ ∃ flt, r.fin = { e with flt := flt } := by
  unfold writeRecord
  split
  next hnone => rw [hg] at hnone; cases hnone
  next =>
    extract_lets th flt slot r s1 s2 s4
    have hlog : SameWork s2 s4 := logDispatch_sameWork ..
    have hroom : SameThreads (dropThread s t.wg t.tid) s1 := makeRoom_sameThreads ..
    rw [wakeHolds_of_halt (e := r.fin) s4 th hw hh, if_neg Bool.false_ne_true]
    refine ⟨?_, r, ?_, rfl, flt, rfl⟩
    · rw [hlog.threads]
      show ∀ u ∈ s1.threads, _
      rw [hroom.threads]
      exact not_named_after_drop s t.wg t.tid
    · rw [hlog.records]
      exact List.mem_append_right _ (List.mem_singleton.mpr rfl)

/-- Settling a slot lets a waiting fragment run or frees the slot: records, output and the threads' names stay. -/
theorem settleTurn_keeps (s : State) : (settleTurn s).records = s.records ∧ (settleTurn s).out = s.out ∧
    ∀ u ∈ (settleTurn s).threads, ∃ v ∈ s.threads, u.wg = v.wg ∧ u.tid = v.tid := by
  have hsame : ∀ u ∈ s.threads, ∃ v ∈ s.threads, u.wg = v.wg ∧ u.tid = v.tid := fun u hu => ⟨u, hu, rfl, rfl⟩
  unfold settleTurn
  split
  · unfold settleSlot
    split
    · exact ⟨rfl, rfl, hsame⟩
    · split
      · exact ⟨rfl, rfl, hsame⟩
      · refine ⟨rfl, rfl, fun u hu => ?_⟩
        obtain ⟨v, hv, rfl⟩ := List.mem_map.mp hu
        refine ⟨v, hv, ?_⟩
        split <;> exact ⟨rfl, rfl⟩
  · exact ⟨rfl, rfl, hsame⟩

theorem endSegment_with_room {e : SegEnd} (hp : t.pend = []) (hpool : poolFull s t.launch = false) :
    endSegment s t e = writeRecord s t e false false := by
  rw [endSegment, hp, hpool]
  rfl

/-- A breakpoint's stop of one thread: the trace, the end of its segment, and the session's notice. -/
theorem haltThreads_one {g : Workgroup} {o : Nat} (hg : findWg s t.wg = some g) (ho : ordinalOf s t t.pc = some o) :
    ∃ s0, SameWork s s0 ∧ haltThreads s [t] =
      settleTurn (emit (endSegment s0 t (haltEnd s0 t)) (.stop (ctxOfWg s t.wg) o g.wgid [t.tid])) := by
  simp only [haltThreads, hg, ho, Option.getD_some, foldList, List.map_cons, List.map_nil]
  exact ⟨_, (traceEnds_sameWork ..).trans (traceEvent_sameWork ..), rfl⟩

/-- Where the pool has room its seat is free, the session is told, and the halted record is there (R358). -/
theorem haltThreads_writes_record {g : Workgroup} {o : Nat} (hg : findWg s t.wg = some g) (ho : ordinalOf s t t.pc = some o)
    (hp : t.pend = []) (hpool : poolFull s t.launch = false) :
    (∀ u ∈ (haltThreads s [t]).threads, ¬ (u.wg = t.wg ∧ u.tid = t.tid)) ∧
    (haltThreads s [t]).out.head? = some (.stop (ctxOfWg s t.wg) o g.wgid [t.tid]) ∧
    ∃ r ∈ (haltThreads s [t]).records, r.th.wg = t.wg ∧ r.th.tid = t.tid ∧ r.fin.wake = 11 ∧ r.fin.halt = true ∧
      r.fin.trapPc = t.pc := by
  obtain ⟨s0, hsame, he⟩ := haltThreads_one hg ho
  have hg0 : findWg s0 t.wg = some g := by rw [findWg, hsame.wgs]; exact hg
  rw [he, endSegment_with_room hp ((poolFull_congr hsame _).trans hpool)]
  obtain ⟨hthreads, r, hr, hth, flt, hfin⟩ := writeRecord_of_halt (t := t) (e := haltEnd s0 t) hg0 rfl rfl
  generalize writeRecord s0 t (haltEnd s0 t) false false = s1 at hthreads hr
  obtain ⟨hrecords, hout, hnames⟩ := settleTurn_keeps (emit s1 (.stop (ctxOfWg s t.wg) o g.wgid [t.tid]))
  refine ⟨fun u hu hname => ?_, by rw [hout]; rfl, r, by rw [hrecords]; exact hr,
    (congrArg Thread.wg hth).trans (recordThread_wg ..), (congrArg Thread.tid hth).trans (recordThread_tid ..),
    congrArg SegEnd.wake hfin, congrArg SegEnd.halt hfin, congrArg SegEnd.trapPc hfin⟩
  obtain ⟨v, hv, hw, hi⟩ := hnames u hu
  exact hthreads v hv ⟨hw.symm.trans hname.1, hi.symm.trans hname.2⟩

/-! ### System instructions (R177) -/

section
variable {m : Marks} (ha : actives s = [t])
include ha

theorem brk_off_safe_point (hu : ∀ u ∈ s.threads, u.wg = t.wg → u.tid = t.tid → u = t)
    (h : isSafePoint s t m.stop = false) : TakesTrap (.brk ⟨m⟩) s t 8 0 0 := by
  show execBrk ⟨m⟩ s = _
  simp only [execBrk, ha, h, Bool.not_false, if_true]
  exact one_traps (by decide) ha hu rfl

theorem brk_without_session (hu : ∀ u ∈ s.threads, u.wg = t.wg → u.tid = t.tid → u = t)
    (h : isSafePoint s t m.stop = true) (hs : sessionOn s (ctxOfWg s t.wg) = false) :
    TakesTrap (.brk ⟨m⟩) s t 6 0 0 := by
  show execBrk ⟨m⟩ s = _
  simp only [execBrk, ha, h, hs, Bool.not_true, Bool.false_eq_true, if_false]
  exact one_traps (by decide) ha hu rfl

theorem brk_with_session (h : isSafePoint s t m.stop = true) (hs : sessionOn s (ctxOfWg s t.wg) = true) :
    exec (.brk ⟨m⟩) s = .next (haltThreads (updThreads s (fun u => isActive s u && u.fl.skipBreak) (retire 2 m.sw))
      ([t].filter fun u => !u.fl.skipBreak)) := by
  show execBrk ⟨m⟩ s = _
  simp only [execBrk, ha, h, hs, Bool.not_true, Bool.false_eq_true, if_false, if_true]

theorem eq_of_isActive {u : Thread} (hu : u ∈ s.threads) (h : isActive s u = true) : u = t :=
  List.mem_singleton.mp (ha ▸ List.mem_filter.mpr ⟨hu, h⟩)

/-- A thread that the session released at the instruction passes it. -/
theorem brk_passed (h : isSafePoint s t m.stop = true) (hs : sessionOn s (ctxOfWg s t.wg) = true)
    (hk : t.fl.skipBreak = true) : EachActive (.brk ⟨m⟩) 2 m.sw s id := by
  have hpass : ∀ u ∈ s.threads, (isActive s u && u.fl.skipBreak) = isActive s u := fun u hu => by
    cases hact : isActive s u with
    | false => rfl
    | true => rw [eq_of_isActive ha hu hact, hk]; rfl
  rw [EachActive, brk_with_session ha h hs, List.filter_cons_of_neg (by simp [hk]), updThreads, updWhere_congr _ _ _ _ hpass]
  rfl

theorem brk_stops (h : isSafePoint s t m.stop = true) (hs : sessionOn s (ctxOfWg s t.wg) = true)
    (hk : t.fl.skipBreak = false) : exec (.brk ⟨m⟩) s = .next (haltThreads s [t]) := by
  have hnone : updThreads s (fun u => isActive s u && u.fl.skipBreak) (retire 2 m.sw) = s := by
    rw [updThreads, updWhere_id _ _ _ fun u hu hp => ?_]
    rw [Bool.and_eq_true] at hp
    rw [eq_of_isActive ha hu hp.1, hk] at hp
    exact absurd hp.2 Bool.false_ne_true
  rw [brk_with_session ha h hs, hnone, List.filter_cons_of_pos (by simp [hk])]
  rfl

end

/-- `trap` and `nop` over the gang; `brk` by the safe point, the session and the release that the thread may hold (R359). -/
theorem systemInstructions : Claims.SystemInstructions := by
  refine ⟨fun _ _ => rfl, fun c m s hg => perThread_all_trap hg (fun h => absurd h (by decide)) fun _ _ => rfl,
    fun m s t ⟨ha, hu⟩ => ⟨fun h => brk_off_safe_point ha hu ?_, fun hm o ho => ?_⟩⟩
  · rcases h with h | h <;> simp [isSafePoint, h]
  have hsafe : isSafePoint s t m.stop = true := by simp [isSafePoint, hm, ho]
  refine ⟨brk_without_session ha hu hsafe, brk_passed ha hsafe, fun hs hk hp hpool g hg =>
    ⟨_, brk_stops ha hsafe hs hk, haltThreads_writes_record hg ho hp hpool⟩⟩

/-- Settles O23: traps of a whole gang, a stop at a breakpoint, the guard slot by its state, and the role check. -/
theorem systemAndGuardInstructions : Obligations.SystemAndGuardInstructions :=
  ⟨systemInstructions, guardInstructions, rolesForbidFloatingPoint⟩

end Sys2Proof.Machine
end

section
/-! ### Branches and indirect transfers (R157, R158, R160, R353) -/
namespace Sys2Proof.Machine

variable {s : State} {k : SlotKey} {t : Thread} {sw : Bool}

/-! ### Where a branch goes (R157) -/

/-- What a thread does with a `bra`. -/
def branchFate (x : Bra) (t : Thread) : Fate :=
  if x.g = 0 ∨ getP t x.g ≠ x.n then .goto (afterBranch x t) else .next

theorem braThread_eq (x : Bra) (s : State) (t : Thread) : braThread x s t = (s, t, branchFate x t) := by
  have hxor : xor (getP t x.g) x.n = true ↔ getP t x.g ≠ x.n := by simp
  unfold braThread branchFate afterBranch
  by_cases h : x.g = 0 ∨ getP t x.g ≠ x.n
  · rw [if_pos (or_congr_right hxor |>.mpr h), if_pos h, if_pos h]
    rfl
  · rw [if_neg (or_congr_right hxor |>.not.mpr h), if_neg h]

theorem afterBranch_of_not_taken {x : Bra} (h : ¬ (x.g = 0 ∨ getP t x.g ≠ x.n)) : afterBranch x t = t.pc + 2 := if_neg h

/-- Taken or not, the thread retires to where the branch leaves it. -/
theorem applyGoing_branchFate (x : Bra) (s : State) (t : Thread) :
    applyGoing 2 sw s (t, branchFate x t) = setThread s (retireTo (afterBranch x t) sw t) := by
  unfold branchFate
  split
  · rfl
  next h => rw [afterBranch_of_not_taken h]; rfl

theorem branch_of_alone (x : Bra) (ha : actives s = [t]) :
    exec (.bra x) s = .next (setThread s (retireTo (afterBranch x t) x.m.sw t)) := by
  have hkeeps : KeepsGang s s t t := ⟨rfl, rfl, rfl, rfl, rfl, rfl⟩
  show perThread (.bra x) x.m.sw (braThread x) s = _
  by_cases h : x.g = 0 ∨ getP t x.g ≠ x.n
  · exact one_goes_to ha (by rw [braThread_eq, branchFate, if_pos h]) hkeeps
  · rw [one_goes_on ha (by rw [braThread_eq, branchFate, if_neg h]) hkeeps, afterBranch_of_not_taken h]
    rfl

/-! ### Threads that all go on, each to its own next PC -/

theorem runThreads_of_fates {body : State → Thread → State × Thread × Fate} {f : Thread → Fate} {ts : List Thread}
    (h : ∀ t ∈ ts, body s t = (s, t, f t)) : runThreads body s ts = (s, ts.map fun t => (t, f t)) := by
  induction ts with
  | nil => rfl
  | cons t ts ih =>
    simp only [runThreads, h t List.mem_cons_self, ih fun u hu => h u (List.mem_cons_of_mem _ hu), List.map_cons]

section
variable (x : Bra) (ts : List Thread)

theorem firstTrap_branches : firstTrap (ts.map fun t => (t, branchFate x t)) = none := by
  have hno : (ts.map fun t => (t, branchFate x t)).any forbidden = false := List.any_eq_false.mpr fun r hr => by
    obtain ⟨t, -, rfl⟩ := List.mem_map.mp hr
    unfold branchFate
    split <;> simp [forbidden]
  rw [firstTrap, hno]
  clear hno
  show lowestTrap _ = none
  induction ts with
  | nil => rfl
  | cons t ts ih =>
    rw [List.map_cons, branchFate]
    split <;> exact ih

theorem blockedWith_branches (w : Nat) : blockedWith w (ts.map fun t => (t, branchFate x t)) = [] := by
  induction ts with
  | nil => rfl
  | cons t ts ih =>
    rw [List.map_cons, branchFate]
    split <;> exact ih

theorem goesOn_branches (hne : ts ≠ []) : goesOn (ts.map fun t => (t, branchFate x t)) = true := by
  obtain ⟨t, ts, rfl⟩ := List.exists_cons_of_ne_nil hne
  rw [List.map_cons, branchFate]
  split <;> rfl

theorem applyLeaving_branches (s : State) : foldList applyLeaving s (ts.map fun t => (t, branchFate x t)) = s :=
  foldList_id _ _ _ fun s r hr => by
    obtain ⟨t, -, rfl⟩ := List.mem_map.mp hr
    unfold branchFate
    split <;> rfl

end

/-- The gang once each member stands at its next PC, before it splits. -/
def branched (x : Bra) (s : State) : State :=
  { s with threads := s.threads.map fun u => if isActive s u then retireTo (afterBranch x u) x.m.sw u else u }

theorem applyGoing_branches (x : Bra) (hn : OwnNames s) :
    foldList (applyGoing 2 x.m.sw) s ((actives s).map fun t => (t, branchFate x t)) = branched x s := by
  have hfold : ∀ (ts : List Thread) (s : State), foldList (applyGoing 2 x.m.sw) s (ts.map fun t => (t, branchFate x t)) =
      foldList (fun s t => setThread s (retireTo (afterBranch x t) x.m.sw t)) s ts := by
    intro ts
    induction ts with
    | nil => exact fun _ => rfl
    | cons t ts ih =>
      intro s
      rw [List.map_cons, foldList, applyGoing_branchFate, ih]
      rfl
  rw [hfold, setThreads_fold s (actives s) (fun t => retireTo (afterBranch x t) x.m.sw t) (fun _ => ⟨rfl, rfl⟩)
    (List.Nodup.sublist (List.filter_sublist.map _) hn) fun t ht => hn.eq_of_name (List.mem_filter.mp ht).1]
  unfold branched
  congr 1
  exact List.map_congr_left fun u hu => if_congr (by simp [actives, List.mem_filter, hu]) rfl rfl

theorem perThread_branches (x : Bra) (hg : Gang s) : exec (.bra x) s = .next (settleTurn (splitTurn (branched x s))) := by
  obtain ⟨hne, -, hn⟩ := hg
  show perThread (.bra x) x.m.sw (braThread x) s = _
  simp only [perThread, runThreads_of_fates fun t _ => braThread_eq x s t, applyFates, show lengthOf (.bra x) = 2 from rfl,
    applyGoing_branches x hn, firstTrap_branches, goesOn_branches x _ hne, applyLeaving_branches,
    traceEnds_fold _ _ (blockedWith_branches x _), if_true]

/-! ### The split (R158) -/

/-- A member of the gang that splits at a next PC: it runs on at that PC and waits at every other. -/
def splitAt (k : SlotKey) (pc : Nat) (t : Thread) : Thread :=
  { t with place := if t.pc = pc then .running k.slot else .waiting k.slot, fl := { t.fl with frag := true } }

theorem inRunning_splitAt (h : inRunning k t = true) : inRunning k (splitAt k t.pc t) = true := by
  simp only [inRunning, Bool.and_eq_true, decide_eq_true_eq] at h ⊢
  exact ⟨⟨if_pos rfl, h.1.2⟩, h.2⟩

/-- A running fragment at two PCs splits at the lowest. -/
theorem splitSlot_of_two_pcs {u v : Thread} (hu : u ∈ s.threads) (hru : inRunning k u = true) (hv : v ∈ s.threads)
    (hrv : inRunning k v = true) (hne : u.pc ≠ v.pc) :
    ∃ t0 ∈ s.threads, inRunning k t0 = true ∧ (∀ w ∈ s.threads, inRunning k w = true → t0.pc ≤ w.pc) ∧
      splitSlot s k = updThreads s (inRunning k) (splitAt k t0.pc) := by
  have hmem : ∀ {w}, w ∈ s.threads → inRunning k w = true → w ∈ s.threads.filter (inRunning k) := fun hw hr =>
    List.mem_filter.mpr ⟨hw, hr⟩
  unfold splitSlot
  split
  next hmin =>
    rw [minByKey_eq_none_iff.mp hmin] at hmem
    exact absurd (hmem hu hru) List.not_mem_nil
  next t0 hmin =>
    obtain ⟨ht0, hr0⟩ := List.mem_filter.mp (minByKey_mem hmin)
    have hany : (s.threads.any fun t => inRunning k t && !decide (t.pc = t0.pc)) = true := by
      rw [List.any_eq_true]
      by_cases hpc : u.pc = t0.pc
      · exact ⟨v, hv, by simp [hrv, hpc ▸ hne.symm]⟩
      · exact ⟨u, hu, by simp [hru, hpc]⟩
    rw [if_pos hany]
    exact ⟨t0, ht0, hr0, fun w hw hr => minByKey_le hmin w (hmem hw hr), rfl⟩

theorem inRunning_branched (x : Bra) (hk : s.turn = some k) (t : Thread) :
    inRunning k (if isActive s t then retireTo (afterBranch x t) x.m.sw t else t) = isActive s t := by
  rw [isActive_of_turn hk]
  split
  · exact inRunning_congr rfl rfl
  · rfl

theorem branchesTakeAndSplit : Claims.BranchesTakeAndSplit := by
  refine ⟨fun x s t ⟨ha, _⟩ => branch_of_alone x ha, fun x s k hg hk ⟨u, hu, v, hv, hne⟩ => ?_⟩
  have hthread : ∀ {w}, w ∈ actives s → retireTo (afterBranch x w) x.m.sw w ∈ (branched x s).threads := fun hw =>
    List.mem_map.mpr ⟨_, (List.mem_filter.mp hw).1, if_pos (List.mem_filter.mp hw).2⟩
  have hrun : ∀ {w}, w ∈ actives s → inRunning k (retireTo (afterBranch x w) x.m.sw w) = true := fun hw => by
    rw [← (List.mem_filter.mp hw).2, isActive_of_turn hk]
    exact inRunning_congr rfl rfl
  obtain ⟨t0, ht0, hr0, hle, hsplit⟩ := splitSlot_of_two_pcs (hthread hu) (hrun hu) (hthread hv) (hrun hv) hne
  have hgoes : ∃ t ∈ (splitSlot (branched x s) k).threads, inRunning k t = true := by
    rw [hsplit]
    exact ⟨_, List.mem_map.mpr ⟨t0, ht0, if_pos hr0⟩, inRunning_splitAt hr0⟩
  have hturn : (branched x s).turn = some k := hk
  have hsettled : settleTurn (splitTurn (branched x s)) = splitSlot (branched x s) k := by
    have hsplitTurn : splitTurn (branched x s) = splitSlot (branched x s) k := by simp only [splitTurn, hturn]
    rw [hsplitTurn]
    refine settleTurn_running _ fun k' hk' => ?_
    rw [hsplit] at hk'
    obtain rfl : k = k' := Option.some.inj (hk.symm.trans hk')
    exact List.any_eq_true.mpr hgoes
  refine ⟨splitSlot (branched x s) k, t0.pc, by rw [perThread_branches x hg, hsettled], by rw [hsplit]; rfl, hgoes, ?_⟩
  rw [hsplit]
  have hlow : ∀ {w}, w ∈ actives s → t0.pc ≤ afterBranch x w := fun hw => hle _ (hthread hw) (hrun hw)
  simp only [updThreads, updWhere, branched, List.map_map, List.forall₂_map_right_iff, List.forall₂_same,
    Function.comp_apply, inRunning_branched x hk]
  intro t ht
  by_cases ha : isActive s t = true
  · simp only [ha, if_true]
    exact ⟨rfl, hlow (List.mem_filter.mpr ⟨ht, ha⟩), rfl, rfl, rfl⟩
  · simp only [ha, if_false, Bool.false_eq_true]

/-! ### Indirect transfers (R160, R353) -/

section
variable {img : ModuleImage} {kd : KernelDecl} {n : Nat} (himg : imageOf s t.launch = some img)
  (hkd : kernelOf s t.launch = some kd)
include himg hkd

theorem targetOf_of_entry {e : StopEntry} (he : img.stops[n]? = some e) (hlo : kd.first ≤ e.off) (hhi : e.off < kd.last) :
    targetOf s t n = some e.off := by
  simp only [targetOf, himg, hkd, he, hlo, hhi, and_self, if_true]

theorem targetOf_of_no_entry (h : ∀ e, img.stops[n]? = some e → ¬ (kd.first ≤ e.off ∧ e.off < kd.last)) :
    targetOf s t n = none := by
  simp only [targetOf, himg, hkd]
  split
  next e he => exact if_neg (h e he)
  next => rfl

end

section
variable {r : BitVec 6} {link : Thread → Thread} {i : Instr} {body : State → Thread → State × Thread × Fate}
  (ha : Alone s t) (he : exec i s = perThread i sw body s)
include ha he

/-- A thread whose target is a safe point of its kernel goes there, out of trap state. -/
theorem transfers_to {pc : Nat} (hb : body s t = transfer r link s t) (hlink : KeepsGang s s t (link t))
    (ht : targetOf s t (getV t r).toNat = some pc) :
    exec i s = .next (setThread s (retireTo pc sw { link t with trapState := none })) := by
  rw [he]
  exact one_goes_to ha.1 (by rw [hb, transfer, ht]; rfl) ⟨rfl, rfl, hlink.wg, hlink.tid, hlink.place, hlink.seat⟩

theorem transfer_traps (hb : body s t = transfer r link s t) (ht : targetOf s t (getV t r).toNat = none) :
    TakesTrap i s t 9 0 ((getV t r).setWidth 64) :=
  he.trans (one_traps (fun h => absurd h (by decide)) ha.1 ha.2 (by rw [hb, transfer, ht]))

end

theorem indirectTransfersGoToSafePoints : Claims.IndirectTransfersGoToSafePoints := by
  intro s t img kd r m ha himg hkd
  have hself : KeepsGang s s t (id t) := ⟨rfl, rfl, rfl, rfl, rfl, rfl⟩
  refine ⟨fun e he hlo hhi => ?goes, fun hno => ?traps, fun l hl => ?unlinked⟩
  case goes =>
    have ht := targetOf_of_entry himg hkd he hlo hhi
    exact ⟨transfers_to ha rfl rfl hself ht, transfers_to ha rfl rfl hself ht, fun l o hl =>
      transfers_to (link := fun t => setV t l (BitVec.ofNat 32 o)) ha rfl (by simp only [hl]) ⟨rfl, rfl, rfl, rfl, rfl, rfl⟩ ht⟩
  case traps =>
    have ht := targetOf_of_no_entry himg hkd hno
    exact ⟨transfer_traps ha rfl rfl ht, transfer_traps ha rfl rfl ht, fun l o hl =>
      transfer_traps (link := fun t => setV t l (BitVec.ofNat 32 o)) ha rfl (by simp only [hl]) ht⟩
  case unlinked =>
    exact one_traps (by decide) ha.1 ha.2 (by simp only [hl]; rfl)

/-- Settles O18: a branch by the split of the gang at its lowest next PC, a transfer by the entry its ordinal names. -/
theorem branchesAndIndirectTransfers : Obligations.BranchesAndIndirectTransfers :=
  ⟨branchesTakeAndSplit, indirectTransfersGoToSafePoints⟩

end Sys2Proof.Machine
end

section
/-! ### Subgroups, votes, shuffles, reductions and scans (R169, R171 to R176) -/
namespace Sys2Proof.Machine

variable {s : State} {t : Thread} {i : Instr} {sw : Bool} {g : BitVec 3}

/-! ### Subgroups (R169) -/

theorem partNamesTheSubgroup : Claims.PartNamesTheSubgroup := by
  have hbase (n k : Nat) : n - n % k = n / k * k := by
    rw [Nat.mul_comm]
    exact Nat.sub_eq_of_eq_add (Nat.div_add_mod n k).symm
  intro z n m s
  show execPart ⟨z, n, m⟩ s = _
  rw [execPart]
  by_cases hz : z = 0
  · simp only [groupSize, hz, if_true]
  · have hpos : 2 ^ (z.toNat + 1) ≠ 0 := by positivity
    simp only [groupSize, hz, if_false, hpos, hbase]

/-! ### A collective that acts (R34, R172) -/

/-- A collective over whole groups, of a role that may issue it, is the plain change of each thread's registers. -/
theorem eachActive_of_collective {ok : BitVec 2 → Bool} {f h : Thread → Thread} (he : exec i s = collective i sw ok g f s)
    (hl : lengthOf i = 2) (hok : ∀ t ∈ actives s, ok t.role = true) (hc : CollectiveReady s g) (hf : ∀ t, f t = h t) :
    EachActive i 2 sw s h := by
  have hgood : ∀ t ∈ actives s, ¬ (g ≠ 0 ∧ (subOf t g).size = 0) := fun t ht hbad =>
    (hc.resolve_left hbad.1 t ht).1 hbad.2
  have hnone : ((actives s).any fun t => (if !ok t.role then some 2 else if g ≠ 0 ∧ (subOf t g).size = 0 then some 3
      else none : Option Nat).isSome) = false := List.any_eq_false.mpr fun t ht => by
    simp only [hok t ht, if_neg (hgood t ht), Bool.not_true, Bool.false_eq_true, if_false, Option.isSome_none,
      not_false_eq_true]
  have hwhole : g = 0 ∨ (actives s).all (wholeSubgroup s g) = true :=
    hc.imp_right fun h => List.all_eq_true.mpr fun t ht => (h t ht).2
  rw [EachActive, he]
  simp only [collective, hnone, hwhole, Bool.false_eq_true, if_false, if_true, hl, funext hf]

theorem anyRole_actives (s : State) : ∀ t ∈ actives s, anyRole t.role = true := fun _ _ => rfl

theorem onlyVector_actives (hv : AllVector s) : ∀ t ∈ actives s, onlyVector t.role = true := fun t ht =>
  decide_eq_true (hv t ht)

/-! ### Votes (R174) -/

theorem voteForm_of_vote {mk : Vote → Instr} {f h : List (Nat × Word) → Word} (he : ∀ x s, exec (mk x) s = vote (mk x) x f s)
    (hl : ∀ x, lengthOf (mk x) = 2) (hf : ∀ vs, f vs = h vs) : VoteForm mk h := fun _ _ _ _ _ hc =>
  eachActive_of_collective (he _ _) (hl _) (anyRole_actives _) hc fun t => congrArg (setV t _) (hf _)

section
variable (vs : List (Nat × Word))

theorem ballot_eq_sum : sumNat (vs.map fun v => if v.2 ≠ 0 then 2 ^ v.1 else 0) =
    ((vs.filter fun v => decide (v.2 ≠ 0)).map fun v => 2 ^ v.1).sum := by
  rw [sumNat_eq_sum]
  induction vs with
  | nil => rfl
  | cons v vs ih =>
    rw [List.map_cons, List.sum_cons, ih]
    by_cases h : v.2 = 0
    · rw [List.filter_cons_of_neg (by simpa using h), if_neg (not_not.mpr h), Nat.zero_add]
    · rw [List.filter_cons_of_pos (by simpa using h), if_pos h, List.map_cons, List.sum_cons]

/-- All values equal the first one exactly where any two are equal. -/
theorem all_eq_head_iff : (vs.all fun v => decide (some v.2 = vs.head?.map Prod.snd)) = true ↔
    ∀ v ∈ vs, ∀ w ∈ vs, v.2 = w.2 := by
  cases vs with
  | nil => simp
  | cons u us =>
    simp only [List.all_eq_true, decide_eq_true_eq, List.head?_cons, Option.map_some, Option.some.injEq]
    exact ⟨fun h v hv w hw => (h v hv).trans (h w hw).symm, fun h v hv => h v hv u List.mem_cons_self⟩

end

/-! ### Shuffles (R175) -/

/-- The member whose rank a shuffle names, where that is one of the subgroup. -/
def memberAt (s : State) (g : BitVec 3) (t : Thread) (j : Int) : Option (Nat × Thread) :=
  if 0 ≤ j ∧ j < (rankedSize s g t : Int) then (ranked s g t).find? fun m => decide (m.1 = j.toNat) else none

theorem find_memberAt (s : State) (g : BitVec 3) (t : Thread) (a : BitVec 6) (j : Int) :
    ((memberValues s g t a).find? fun v => decide ((v.1 : Int) = j) && decide (j < (rankedSize s g t : Int))) =
      (memberAt s g t j).map fun m => (m.1, getV m.2 a) := by
  rw [memberValues, List.find?_map, memberAt]
  congr 1
  split
  next h =>
    congr 1
    funext m
    simp only [Function.comp_apply, h.2, decide_true, Bool.and_true, decide_eq_decide]
    omega
  next h =>
    refine List.find?_eq_none.mpr fun m _ => ?_
    simp only [Function.comp_apply, Bool.and_eq_true, decide_eq_true_eq]
    omega

theorem shuffleForm_of_shuffle {mk : Shfl → Instr} {lane : Lane} (he : ∀ x s, exec (mk x) s = shuffle (mk x) x lane s)
    (hl : ∀ x, lengthOf (mk x) = 2) : ShuffleForm mk lane := fun g a b d m s hc =>
  eachActive_of_collective (he _ _) (hl _) (anyRole_actives _) hc fun t => by
    refine congrArg (setV t d) ?_
    rw [← rankedSize, find_memberAt]
    split
    next u h => rw [show memberAt s g t (lane (ownRank s g t) (getV t b).toNat) = some u from h]; rfl
    next h => rw [show memberAt s g t (lane (ownRank s g t) (getV t b).toNat) = none from h]; rfl

theorem votesAndShuffles : Claims.VotesAndShuffles := by
  refine ⟨voteForm_of_vote (f := fun vs => if vs.any fun v => decide (v.2 ≠ 0) then 1 else 0) (fun _ _ => rfl) (fun _ => rfl)
      fun vs => ?any,
    voteForm_of_vote (f := fun vs => if vs.all fun v => decide (v.2 ≠ 0) then 1 else 0) (fun _ _ => rfl) (fun _ => rfl)
      fun vs => ?all,
    voteForm_of_vote (fun _ _ => rfl) (fun _ => rfl) fun vs => congrArg _ (ballot_eq_sum vs),
    voteForm_of_vote (fun _ _ => rfl) (fun _ => rfl) fun vs => if_congr (all_eq_head_iff vs) rfl rfl,
    shuffleForm_of_shuffle (fun _ _ => rfl) fun _ => rfl, shuffleForm_of_shuffle (fun _ _ => rfl) fun _ => rfl,
    shuffleForm_of_shuffle (fun _ _ => rfl) fun _ => rfl, shuffleForm_of_shuffle (fun _ _ => rfl) fun _ => rfl⟩
  case any => exact if_congr (by simp only [List.any_eq_true, decide_eq_true_eq]) rfl rfl
  case all => exact if_congr (by simp only [List.all_eq_true, decide_eq_true_eq]) rfl rfl

/-! ### Reductions and scans (R176) -/

/-- The maximum of R176, by which of the two values is NaN. -/
theorem stepFmax_eq {n : Nat} (a b : BitVec n) : stepFmax n a b =
    if decodeFp (fmtOf n) a.toNat = .nan ∧ decodeFp (fmtOf n) b.toNat = .nan then BitVec.ofNat n (canonNan (fmtOf n))
    else if decodeFp (fmtOf n) a.toNat = .nan then b
    else if decodeFp (fmtOf n) b.toNat = .nan then a
    else if ltSigned (decodeFp (fmtOf n) a.toNat) (decodeFp (fmtOf n) b.toNat) then b else a := by
  rw [stepFmax, onPat, fminmaxPat_eq, ite_and]
  simp only [apply_ite (BitVec.ofNat n), BitVec.ofNat_toNat, BitVec.setWidth_eq, if_true]
  split_ifs <;> rfl

/-- The members whose values a scan combines for a thread, those below its own rank or up to it. -/
def scanned (s : State) (exc : Bool) (g : BitVec 3) (t : Thread) : List (Nat × Thread) :=
  (ranked s g t).filter fun m => if exc then decide (m.1 < ownRank s g t) else decide (m.1 ≤ ownRank s g t)

theorem values_scanned (s : State) (exc : Bool) (g : BitVec 3) (t : Thread) (a : BitVec 6) :
    ((memberValues s g t a).filter fun v => if exc then decide (v.1 < ownRank s g t)
      else decide (v.1 ≤ ownRank s g t)).map Prod.snd = (scanned s exc g t).map fun m => getV m.2 a := by
  rw [memberValues, List.filter_map, List.map_map]
  rfl

section
variable {role : State → Prop} {ok : BitVec 2 → Bool} (hrole : ∀ s, role s → ∀ t ∈ actives s, ok t.role = true)
include hrole

theorem reduceForm_of_gred {mk : Gred → Instr} {f : Bin} {h : (n : Nat) → BitVec n → BitVec n → BitVec n}
    (he : ∀ x s, exec (mk x) s = gred (mk x) x ok f s) (hl : ∀ x, lengthOf (mk x) = 2) (hf : ∀ n a b, f n a b = h n a b) :
    ReduceForm mk role h := by
  obtain rfl : f = h := funext fun n => funext fun a => funext fun b => hf n a b
  intro g a d m s hc hr
  refine ⟨eachActive_of_collective (he _ _) (hl _) (hrole s hr) hc fun t => congrArg (setV t d) ?_,
    eachActive_of_collective (he _ _) (hl _) (hrole s hr) hc fun t => congrArg (setV2 t d) ?_⟩
  · rw [List.map_map]
    show combine (f 32) 0 ((ranked s g t).map fun p => getV p.2 a) = _
    cases (ranked s g t).map fun p => getV p.2 a <;> rfl
  · rw [List.map_map]
    show combine (f 64) 0 ((ranked s g t).map fun p => getV2 p.2 a) = _
    cases (ranked s g t).map fun p => getV2 p.2 a <;> rfl

theorem scanForm_of_gscan {mk : Gscan → Instr} {f : Bin} {h : Word → Word → Word} {ident : Word}
    (he : ∀ x s, exec (mk x) s = gscan (mk x) x ok f ident s) (hl : ∀ x, lengthOf (mk x) = 2) (hf : ∀ a b, f 32 a b = h a b) :
    ScanForm mk role h ident := by
  obtain rfl : f 32 = h := funext fun a => funext fun b => hf a b
  intro exc g a d m s hc hr
  refine eachActive_of_collective (he _ _) (hl _) (hrole s hr) hc fun t => congrArg (setV t d) ?_
  rw [values_scanned]
  show combine (f 32) ident ((scanned s exc g t).map fun m => getV m.2 a) = _
  cases (scanned s exc g t).map fun m => getV m.2 a <;> rfl

end

theorem reductionsAndScans : Claims.ReductionsAndScans := by
  have hany (s : State) (_ : True) := anyRole_actives s
  have hvec (s : State) (h : AllVector s) := onlyVector_actives h
  exact ⟨reduceForm_of_gred hany (fun _ _ => rfl) (fun _ => rfl) fun _ _ _ => rfl,
    reduceForm_of_gred hany (fun _ _ => rfl) (fun _ => rfl) fun _ => opMinS_eq,
    reduceForm_of_gred hany (fun _ _ => rfl) (fun _ => rfl) fun _ => opMaxS_eq,
    reduceForm_of_gred hany (fun _ _ => rfl) (fun _ => rfl) fun _ _ _ => rfl,
    reduceForm_of_gred hany (fun _ _ => rfl) (fun _ => rfl) fun _ _ _ => rfl,
    reduceForm_of_gred hany (fun _ _ => rfl) (fun _ => rfl) fun _ _ _ => rfl,
    reduceForm_of_gred hvec (fun _ _ => rfl) (fun _ => rfl) fun _ _ _ => rfl,
    reduceForm_of_gred hvec (fun _ _ => rfl) (fun _ => rfl) fun _ => stepFmax_eq,
    scanForm_of_gscan hany (fun _ _ => rfl) (fun _ => rfl) fun _ _ => rfl,
    scanForm_of_gscan hany (fun _ _ => rfl) (fun _ => rfl) opMinS_eq,
    scanForm_of_gscan hany (fun _ _ => rfl) (fun _ => rfl) opMaxS_eq,
    scanForm_of_gscan hany (fun _ _ => rfl) (fun _ => rfl) fun _ _ => rfl,
    scanForm_of_gscan hany (fun _ _ => rfl) (fun _ => rfl) fun _ _ => rfl,
    scanForm_of_gscan hany (fun _ _ => rfl) (fun _ => rfl) fun _ _ => rfl,
    scanForm_of_gscan hvec (fun _ _ => rfl) (fun _ => rfl) fun _ _ => rfl,
    scanForm_of_gscan hvec (fun _ _ => rfl) (fun _ => rfl) stepFmax_eq⟩

/-- Settles O22: the subgroup's base, the votes and shuffles by the members' values, reductions and scans by their steps. -/
theorem subgroupsVotesReductionsAndScans : Obligations.SubgroupsVotesReductionsAndScans :=
  ⟨partNamesTheSubgroup, votesAndShuffles, reductionsAndScans⟩

end Sys2Proof.Machine
end

section
/-! ### Awaits (R164 to R166, R392) -/
namespace Sys2Proof.Machine

variable {s : State} {t : Thread} {i : Instr} {sw stop q : Bool} {wake operand : Nat}

/-! ### A blocking test (R164) -/

section
variable {body : State → Thread → State × Thread × Fate} (ha : Alone s t) (he : exec i s = perThread i sw body s)
include ha he

/-- A thread whose test fails at a safe point ends its segment there. -/
theorem blocks_at_safe_point (hw : wake < 10) (hstop : stop = true) (ho : (ordinalOf s t t.pc).isSome = true)
    (hb : body s t = (s, t, blockUnless false stop wake operand q s t)) : Blocks i s t wake operand q := by
  have hsafe : isSafePoint s t stop = true := by rw [isSafePoint, hstop, ho]; rfl
  have hfate : body s t = (s, t, .block wake operand q) := by rw [hb, blockUnless, hsafe]; rfl
  have hblocks := he.trans (one_blocks ha.1 hfate hw ⟨rfl, rfl, rfl, rfl, rfl, rfl⟩)
  rwa [setThread_self s t ha.2] at hblocks

/-- Off a safe point it takes NOSAFE. -/
theorem nosafe_off_safe_point (hno : stop = false ∨ ordinalOf s t t.pc = none)
    (hb : body s t = (s, t, blockUnless false stop wake operand q s t)) : TakesTrap i s t 8 0 0 := by
  have hsafe : isSafePoint s t stop = false := by rcases hno with h | h <;> simp [isSafePoint, h]
  exact he.trans (one_traps (by decide) ha.1 ha.2 (by rw [hb, blockUnless, hsafe]; rfl))

end

/-- An await by its body: where the condition holds the thread goes on, else the blocking test decides. -/
theorem awaits_of_body {mk : Marks → Instr} {body : Marks → State → Thread → State × Thread × Fate} {t1 : Thread}
    {holds : Bool} (ha : Alone s t) (hw : wake < 10) (he : ∀ m, exec (mk m) s = perThread (mk m) m.sw (body m) s)
    (hgo : holds = true → KeepsGang s s t t1 ∧ ∀ m, body m s t = (s, t1, .next))
    (hwait : holds = false → ∀ m, body m s t = (s, t, blockUnless false m.stop wake operand q s t)) :
    Awaits mk s t t1 holds wake operand q := fun m =>
  ⟨fun h => (he m).trans (one_goes_on ha.1 ((hgo h).2 m) (hgo h).1),
    fun h hstop ho => blocks_at_safe_point ha (he m) hw hstop ho (hwait h m),
    fun h hno => nosafe_off_safe_point ha (he m) hno (hwait h m)⟩

/-- An await that writes no register: the blocking test on its condition is all it does. -/
theorem awaits_of_test {mk : Marks → Instr} {body : Marks → State → Thread → State × Thread × Fate} {holds : Bool}
    (ha : Alone s t) (hw : wake < 10) (he : ∀ m, exec (mk m) s = perThread (mk m) m.sw (body m) s)
    (hb : ∀ m, body m s t = (s, t, blockUnless holds m.stop wake operand q s t)) : Awaits mk s t t holds wake operand q :=
  awaits_of_body ha hw he (fun h => ⟨⟨rfl, rfl, rfl, rfl, rfl, rfl⟩, fun m => by rw [hb, h]; rfl⟩) fun h m => by rw [hb, h]

/-! ### Rings, the far group, guard slots and clocks (R164, R165) -/

section
variable {g : Workgroup} {a : BitVec 6} (ha : Alone s t) (hg : findWg s t.wg = some g)
include ha hg

theorem awaitRing_awaits {r : Ring} (hr : findRing g ((getV t a).toNat % 256) = some r) :
    Awaits (fun m => .awaitRing ⟨q, a, m⟩) s t t (if q then !r.countsFull else !r.empty) 2 ((getV t a).toNat % 256) q :=
  awaits_of_test ha (by decide) (fun _ => rfl) fun m => by simp only [ringOf, hg, hr]

theorem awaitRing_bad_operand {m : Marks} (hr : findRing g ((getV t a).toNat % 256) = none) :
    TakesTrap (.awaitRing ⟨q, a, m⟩) s t 10 0 0 :=
  one_traps (by decide) ha.1 ha.2 (by simp only [ringOf, hg, hr]; rfl)

/-- A resolved slot gives its outcome. -/
theorem awaitGd_goes_on {n : BitVec 4} {x : Word}
    (hn : guardState g n.toNat = .isTrue ∧ x = 1 ∨ guardState g n.toNat = .isFalse ∧ x = 0) :
    Awaits (fun m => .awaitGd ⟨n, a, m⟩) s t (setV t a x) true 4 n.toNat false :=
  awaits_of_body ha (by decide) (fun _ => rfl) (fun _ => ⟨⟨rfl, rfl, rfl, rfl, rfl, rfl⟩, fun m => by
    rcases hn with ⟨hn, rfl⟩ | ⟨hn, rfl⟩ <;> simp only [hg, Option.map_some, hn]⟩) fun h => absurd h (by decide)

/-- A slot that is not resolved makes the thread wait. -/
theorem awaitGd_waits {n : BitVec 4} (hn : guardState g n.toNat = .idle ∨ guardState g n.toNat = .armed) :
    Awaits (fun m => .awaitGd ⟨n, a, m⟩) s t t false 4 n.toNat false :=
  awaits_of_test ha (by decide) (fun _ => rfl) fun m => by
    rcases hn with hn | hn <;> simp only [hg, Option.map_some, hn]

end

theorem awaitForms : Claims.AwaitForms := fun _ _ _ _ ha hg =>
  ⟨fun _ _ hr => awaitRing_awaits ha hg hr, fun _ _ hr => awaitRing_bad_operand ha hg hr,
    fun hf => awaits_of_test ha (by decide) (fun _ => rfl) fun _ => by simp only [farCheck, hf],
    fun _ hn => awaitGd_goes_on ha hg (.inl ⟨hn, rfl⟩), fun _ hn => awaitGd_goes_on ha hg (.inr ⟨hn, rfl⟩),
    fun _ hn => awaitGd_waits ha hg hn, fun _ => awaits_of_test ha (by decide) (fun _ => rfl) fun _ => rfl⟩

/-! ### Ingress rings (R165, R392) -/

theorem invalidateLine_sameThreads (s : State) (l : L1Line) (ctx wg tid : Nat) :
    SameThreads s (invalidateLine s l ctx wg tid).1 := by
  have hsend (s : State) (r : Req) (ctx n : Nat) (h : Home) : SameThreads s (bumpCounter (sendCounted s r) ctx h 2 n) :=
    ⟨rfl, rfl⟩
  have hdrop (s : State) (l : L1Line) : SameThreads s (dropLine (stopInstall s l.home l.pline) l) := ⟨rfl, rfl⟩
  refine SameThreads.trans ?_ (hdrop _ l)
  unfold writeBackLine writeBackSectors
  extract_lets bytes n s1 r
  have hs1 : SameThreads s s1 := ⟨rfl, rfl⟩
  split
  · exact .refl s
  · exact hs1.trans (hsend ..)

theorem overLines_sameThreads {act : State → L1Line → State × List Nat} (hact : ∀ s l, SameThreads s (act s l).1)
    (s : State) (ls : List L1Line) : SameThreads s (overLines act s ls).1 := by
  induction ls generalizing s with
  | nil => exact .refl s
  | cons l ls ih => exact (hact s l).trans (ih _)

/-- Acquiring a ring drops lines of the L1: threads and turn stay. -/
theorem acquireIngress_sameThreads (s : State) (t : Thread) (r : Ingress) : SameThreads s (acquireIngress s t r) := by
  have hstop (s : State) (h : Home) (p : Req → Bool) : SameThreads s (stopFills s h p) := ⟨rfl, rfl⟩
  unfold acquireIngress
  split
  · exact .refl s
  · exact (overLines_sameThreads (fun _ _ => invalidateLine_sameThreads ..) _ _).trans (hstop ..)

theorem ctxOfWg_of_find {g : Workgroup} (hg : findWg s t.wg = some g) : ctxOfWg s t.wg = g.ctx := by rw [ctxOfWg, hg]

section
variable {g : Workgroup} {r : BitVec 6} {m : Marks} (ha : Alone s t) (hg : findWg s t.wg = some g)
include ha hg

theorem awaitIng_goes_on {x : Ingress} (hx : findIngress s g.ctx ((getV t r).toNat % 256) = some x)
    (hp : x.prod % 2 ^ 32 ≠ vreadNat s g.ctx (x.desc.index + 0x40) 4) :
    GoesOn (.awaitIng ⟨r, m⟩) m.sw s (acquireIngress s t x) t := by
  have hholds : ingressHolds s g.ctx x = true := decide_eq_true hp
  obtain ⟨hthreads, hturn⟩ := acquireIngress_sameThreads s t x
  exact one_goes_on ha.1 (by simp only [ctxOfWg_of_find hg, hx, hholds, if_true]) ⟨hthreads, hturn, rfl, rfl, rfl, rfl⟩

/-- A ring with no new frame, or no ring at a number below the count, makes the thread wait. -/
theorem awaitIng_waits (h : (findIngress s g.ctx ((getV t r).toNat % 256) = none ∧
      (getV t r).toNat % 256 < ingressCount s g.ctx) ∨
    ∃ x, findIngress s g.ctx ((getV t r).toNat % 256) = some x ∧ x.prod % 2 ^ 32 = vreadNat s g.ctx (x.desc.index + 0x40) 4) :
    (m.stop = true → (ordinalOf s t t.pc).isSome = true →
      Blocks (.awaitIng ⟨r, m⟩) s t 5 ((getV t r).toNat % 256) false) ∧
    (m.stop = false ∨ ordinalOf s t t.pc = none → TakesTrap (.awaitIng ⟨r, m⟩) s t 8 0 0) := by
  suffices htest : Awaits (fun m => .awaitIng ⟨r, m⟩) s t t false 5 ((getV t r).toNat % 256) false from
    (htest m).2.imp (fun h => h rfl) fun h => h rfl
  refine awaits_of_test ha (by decide) (fun _ => rfl) fun m => ?_
  rcases h with ⟨hn, hlt⟩ | ⟨x, hx, hp⟩
  · simp only [ctxOfWg_of_find hg, hn, if_neg (Nat.not_le.mpr hlt)]
  · have hholds : ingressHolds s g.ctx x = false := decide_eq_false (not_not.mpr hp)
    simp only [ctxOfWg_of_find hg, hx, hholds, Bool.false_eq_true, if_false]

theorem awaitIng_bad_operand (hn : findIngress s g.ctx ((getV t r).toNat % 256) = none)
    (hle : ingressCount s g.ctx ≤ (getV t r).toNat % 256) : TakesTrap (.awaitIng ⟨r, m⟩) s t 10 0 0 :=
  one_traps (by decide) ha.1 ha.2 (by simp only [ctxOfWg_of_find hg, hn, if_pos hle]; rfl)

end

theorem ingressAwaits : Claims.IngressAwaits := by
  intro s t g m r ha hg
  refine ⟨awaitIng_bad_operand ha hg, fun hn hlt => awaitIng_waits ha hg (.inl ⟨hn, hlt⟩),
    fun x hx => ⟨fun hp => ?_, fun hp => awaitIng_waits ha hg (.inr ⟨x, hx, hp⟩)⟩⟩
  have hgo := awaitIng_goes_on (m := m) ha hg hx hp
  unfold acquireIngress at hgo
  rw [hg] at hgo
  exact hgo

/-- Settles O20: each await by its body, the blocking test deciding where its condition fails. -/
theorem awaitsGoOnBlockOrTrap : Obligations.AwaitsGoOnBlockOrTrap := ⟨awaitForms, ingressAwaits⟩

end Sys2Proof.Machine
end

section
/-! ### Records: where they are kept, how they wake, and how one is written (R256 to R264)

What these operations change of the state and of the records, said once for each. -/
namespace Sys2Proof.Machine

variable {s s' s'' : State} {q q' q'' r : Record} {id : Nat}

/-! ### The record buffer and the record bins (R263, R264) -/

/-- The record is as it was, but for whether it is in the buffer, since when, and in a bin. -/
def Rekept (q q' : Record) : Prop :=
  q' = { q with inBuffer := q'.inBuffer, bufferedAt := q'.bufferedAt, inBin := q'.inBin }

theorem Rekept.refl (q : Record) : Rekept q q := rfl

theorem Rekept.trans (h : Rekept q q') (h' : Rekept q' q'') : Rekept q q'' := by
  unfold Rekept at h h' ⊢
  rw [h', h]

/-- The record of one segment end, woken or not, wherever it is kept. -/
def SameEnd (q q' : Record) : Prop := q'.id = q.id ∧ q'.th = q.th ∧ q'.fin = q.fin

theorem SameEnd.refl (q : Record) : SameEnd q q := ⟨rfl, rfl, rfl⟩

theorem SameEnd.trans (h : SameEnd q q') (h' : SameEnd q' q'') : SameEnd q q'' :=
  ⟨h'.1.trans h.1, h'.2.1.trans h.2.1, h'.2.2.trans h.2.2⟩

theorem Rekept.sameEnd (h : Rekept q q') : SameEnd q q' := by
  unfold Rekept at h
  rw [h]
  exact ⟨rfl, rfl, rfl⟩

/-- Only memory has changed, and each record as a relation allows. -/
structure Rewrites (rel : Record → Record → Prop) (s s' : State) : Prop where
  frame : s' = { s with mem := s'.mem, poison := s'.poison, records := s'.records }
  records : ∃ f : Record → Record, (∀ q, rel q (f q)) ∧ s'.records = s.records.map f

section
variable {rel : Record → Record → Prop}

theorem Rewrites.refl (hrefl : ∀ q, rel q q) (s : State) : Rewrites rel s s := ⟨rfl, id, hrefl, (List.map_id _).symm⟩

theorem Rewrites.trans (htrans : ∀ q q' q'', rel q q' → rel q' q'' → rel q q'') (h : Rewrites rel s s')
    (h' : Rewrites rel s' s'') : Rewrites rel s s'' := by
  obtain ⟨f, hf, hrecords⟩ := h.records
  obtain ⟨f', hf', hrecords'⟩ := h'.records
  refine ⟨?_, f' ∘ f, fun q => htrans _ _ _ (hf q) (hf' (f q)), by rw [hrecords', hrecords, List.map_map]⟩
  calc s'' = { s' with mem := s''.mem, poison := s''.poison, records := s''.records } := h'.frame
    _ = { s with mem := s''.mem, poison := s''.poison, records := s''.records } := by rw [h.frame]

theorem Rewrites.mono {rel' : Record → Record → Prop} (himp : ∀ q q', rel q q' → rel' q q') (h : Rewrites rel s s') :
    Rewrites rel' s s' := by
  obtain ⟨f, hf, hrecords⟩ := h.records
  exact ⟨h.frame, f, fun q => himp _ _ (hf q), hrecords⟩

theorem updRecord_rewrites {f : Record → Record} (hrefl : ∀ q, rel q q) (hf : ∀ q, rel q (f q)) (s : State) (id : Nat) :
    Rewrites rel s (updRecord s id f) := by
  refine ⟨rfl, _, fun q => ?_, rfl⟩
  dsimp only
  split
  · exact hf q
  · exact hrefl q

/-- A record of which the relation keeps the number is found again. -/
theorem Rewrites.findRecord (hid : ∀ q q', rel q q' → q'.id = q.id) (h : Rewrites rel s s') (hr : findRecord s id = some r) :
    ∃ q, findRecord s' id = some q ∧ rel r q := by
  obtain ⟨f, hf, hrecords⟩ := h.records
  refine ⟨f r, ?_, hf r⟩
  have hsame : (fun q : Record => decide (q.id = id)) ∘ f = fun q => decide (q.id = id) := funext fun q => by
    rw [Function.comp_apply, hid _ _ (hf q)]
  rw [Machine.findRecord, hrecords, List.find?_map, hsame]
  exact congrArg (Option.map f) hr

end

/-- Only memory has changed, and where the records are kept. -/
abbrev Rebuffers (s s' : State) : Prop := Rewrites Rekept s s'

theorem Rebuffers.refl (s : State) : Rebuffers s s := Rewrites.refl .refl s

theorem Rebuffers.trans (h : Rebuffers s s') (h' : Rebuffers s' s'') : Rebuffers s s'' :=
  Rewrites.trans (fun _ _ _ => .trans) h h'

theorem vwrite_frame (s : State) (ctx va : Nat) (bs : List Byte) :
    vwrite s ctx va bs = { s with mem := (vwrite s ctx va bs).mem, poison := (vwrite s ctx va bs).poison } := by
  unfold vwrite
  split <;> rfl

theorem poolWrite_frame (s : State) (r : Record) :
    poolWrite s r = { s with mem := (poolWrite s r).mem, poison := (poolWrite s r).poison } := by
  unfold poolWrite
  split
  · split
    · unfold vwriteSplit
      dsimp only
      split
      · rw [vwrite_frame, vwrite_frame]
      · rw [vwrite_frame]
    · rfl
  · rfl

theorem poolWrite_rebuffers (s : State) (r : Record) : Rebuffers s (poolWrite s r) := by
  rw [poolWrite_frame]
  exact ⟨rfl, id, .refl, (List.map_id _).symm⟩

theorem makeRoom_rebuffers (s : State) (cluster need fuel : Nat) : Rebuffers s (makeRoom s cluster need fuel) := by
  induction fuel generalizing s with
  | zero => exact .refl s
  | succ fuel ih =>
    unfold makeRoom
    split
    · exact .refl s
    · split
      · exact .refl s
      next r _ =>
        have hout : Rebuffers (poolWrite s r) (updRecord (poolWrite s r) r.id fun r => { r with inBuffer := false }) :=
          updRecord_rewrites .refl (by exact fun _ => rfl) _ _
        exact ((poolWrite_rebuffers s r).trans hout).trans (ih _)

theorem bufferRecord_rebuffers (s : State) (id : Nat) : Rebuffers s (bufferRecord s id) := by
  unfold bufferRecord
  split
  · exact .refl s
  · split
    · exact .refl s
    · exact (makeRoom_rebuffers ..).trans (updRecord_rewrites .refl (by exact fun _ => rfl) _ _)

theorem refillRecordBins_rebuffers (s : State) (cluster : Nat) : Rebuffers s (refillRecordBins s cluster) := by
  refine foldList_keeps (P := Rebuffers s) (.refl s) fun s' r _ h => ?_
  dsimp only
  split
  · exact h.trans (updRecord_rewrites .refl (by exact fun _ => rfl) _ _)
  · exact h

/-! ### Waking (R258, R264) -/

/-- A record not yet woken is marked with the cycle; for the rest it changes only where records are kept. -/
theorem wakeRecord_of_asleep (hr : findRecord s id = some r) (hw : r.woken = none) :
    Rebuffers (updRecord s id fun r => { r with woken := some s.clock }) (wakeRecord s id) := by
  simp only [wakeRecord, hr, hw, Option.isSome_none, Bool.false_eq_true, if_false]
  split
  · exact (bufferRecord_rebuffers ..).trans (refillRecordBins_rebuffers ..)
  · exact .refl _

/-- Only memory has changed, where the records are kept, and which have woken. -/
abbrev KeepsEnds (s s' : State) : Prop := Rewrites SameEnd s s'

theorem KeepsEnds.refl (s : State) : KeepsEnds s s := Rewrites.refl .refl s

theorem KeepsEnds.trans (h : KeepsEnds s s') (h' : KeepsEnds s' s'') : KeepsEnds s s'' :=
  Rewrites.trans (fun _ _ _ => .trans) h h'

theorem wakeRecord_keepsEnds (s : State) (id : Nat) : KeepsEnds s (wakeRecord s id) := by
  cases hr : findRecord s id with
  | none => rw [wakeRecord, hr]; exact .refl s
  | some r =>
    cases hw : r.woken with
    | none =>
      have hmark : KeepsEnds s (updRecord s id fun r => { r with woken := some s.clock }) :=
        updRecord_rewrites .refl (by exact fun _ => ⟨rfl, rfl, rfl⟩) _ _
      exact hmark.trans ((wakeRecord_of_asleep hr hw).mono fun _ _ => Rekept.sameEnd)
    | some c =>
      simp only [wakeRecord, hr, hw, Option.isSome_some, if_true]
      exact .refl s

/-- The woken record is found with the cycle. -/
theorem findRecord_wakeRecord (hr : findRecord s id = some r) (hw : r.woken = none) :
    ∃ q, findRecord (wakeRecord s id) id = some q ∧ q.woken = some s.clock ∧ q.th = r.th := by
  have hmarked : findRecord (updRecord s id fun r => { r with woken := some s.clock }) id =
      some { r with woken := some s.clock } := find?_updWhere_of_find (fun _ h => h) hr
  obtain ⟨q, hq, hkept⟩ := (wakeRecord_of_asleep hr hw).findRecord (fun _ _ h => h.sameEnd.1) hmarked
  unfold Rekept at hkept
  exact ⟨q, hq, by rw [hkept], by rw [hkept]⟩

end Sys2Proof.Machine
end

section
/-! ### Watchdogs, timers and probe tokens (R166, R173, R270, R277 to R281, R354 to R356) -/
namespace Sys2Proof.Machine

variable {s : State} {t : Thread} {g : Workgroup} {l : Launch}

/-! ### OVERRUN (R355) -/

section
variable {k : SeatKey} {slot : SlotKey} {o : Nat} (hk : findSeat s k = some t) (hslot : t.slot? = some slot)
  (hrun : inRunning slot t = true) (ho : safeOrdinal s t t.pc = some o)

/-- The thread stands in its slot, with the count of instructions it has. -/
def Stands (slot : SlotKey) (t u : Thread) : Prop :=
  u.wg = t.wg ∧ u.tid = t.tid ∧ inRunning slot u = inRunning slot t ∧ u.path.retired = t.path.retired

/-- Noting the safe points passed leaves every thread in its slot, with its count. -/
theorem passStops_stands (hn : OwnNames s) (ht : t ∈ s.threads) :
    ∃ u ∈ (passStops s (s.threads.filter (inRunning slot))).threads, Stands slot t u := by
  unfold passStops
  refine foldList_keeps (P := fun s' : State => ∃ u ∈ s'.threads, Stands slot t u) ⟨t, ht, rfl, rfl, rfl, rfl⟩ fun s' v hv hu => ?_
  split
  · split
    · exact hu
    · obtain ⟨u, hmem, hw, hi, hstands⟩ := hu
      by_cases hname : u.wg = v.wg ∧ u.tid = v.tid
      · obtain rfl : v = t := hn.eq_of_name ht v (List.mem_filter.mp hv).1 (hname.1 ▸ hw) (hname.2 ▸ hi)
        refine ⟨_, List.mem_map.mpr ⟨u, hmem, if_pos ?_⟩, rfl, rfl, inRunning_congr rfl rfl, rfl⟩
        simp [hname]
      · exact ⟨u, mem_setThread_of_other hmem hname, hw, hi, hstands⟩
  · exact hu

theorem overrunOf_ne_nil (hn : OwnNames s) (ht : t ∈ s.threads) (hrun : inRunning slot t = true)
    (hlimit : 2 ^ 24 ≤ t.path.retired) : overrunOf (passStops s (s.threads.filter (inRunning slot))) slot ≠ [] := by
  obtain ⟨u, hu, -, -, hr, hc⟩ := passStops_stands (slot := slot) hn ht
  refine List.ne_nil_of_mem (List.mem_filter.mpr ⟨hu, ?_⟩)
  rw [hr, hrun, hc]
  exact decide_eq_true hlimit

include hk hslot ho

theorem overrun_early (h : t.path.retired < 2 ^ 24) : Runs (.overrun k) s s := by
  have hlimit : ¬ watchdogLimit ≤ t.path.retired := Nat.not_le.mpr h
  show execOverrun k s = _
  simp only [execOverrun, hk, hslot, ho, hlimit, decide_false, Bool.and_false, Bool.false_eq_true, if_false]

include hrun in
theorem overrun_traps {u : Thread} {us : List Thread} (h : 2 ^ 24 ≤ t.path.retired)
    (hover : overrunOf (passStops s (s.threads.filter (inRunning slot))) slot = u :: us) :
    Runs (.overrun k) s (takeTrap (passStops s (s.threads.filter (inRunning slot))) (u :: us) 11 0
      (BitVec.ofNat 64 u.path.retired) (wordAt (passStops s (s.threads.filter (inRunning slot))) u)) := by
  have hlimit : watchdogLimit ≤ t.path.retired := h
  show execOverrun k s = _
  simp only [execOverrun, hk, hslot, ho, hlimit, hrun, decide_true, Bool.and_self, if_true, hover]

end

/-! ### The timeouts of barriers and of gathering bins (R173, R356) -/

/-- A record waits on the object that another waits on. -/
def sameObject (g : Workgroup) (r q : Record) : Bool :=
  decide (q.th.wg = g.id) && decide (q.fin.wake = 1) && q.woken.isNone && decide (q.fin.q = r.fin.q) &&
    decide (q.fin.operand / 16 = r.fin.operand / 16)

/-- The workgroup after the trap of the records that wait on one object. -/
def barrierTrapped (s : State) (r : Record) (g : Workgroup) : State :=
  let x := workgroupTrap s g 12 0 (wordAt s r.th)
  let late := fun (q : Record) => { q with
    fin := timeoutEnd q.fin 12 q.th.pc x.2, th := { q.th with log := none, reply := none }, since := s.clock }
  dispatchTrap (settleBuffer { x.1 with records := updWhere (sameObject g r) late x.1.records } g.home.cluster) g x.2
    (s.records.any fun q => sameObject g r q && q.th.trapState.isSome)

section
variable {rid : Nat} {r : Record} (hr : findRecord s rid = some r) (hg : findWg s r.th.wg = some g)
  (hl : findLaunch s r.th.launch = some l)
include hr hg hl

theorem barrierTimeout_early (h : s.clock < r.since + barTimeout l) : Runs (.barrierTimeout rid) s s := by
  show execBarrierTimeout rid s = _
  simp only [execBarrierTimeout, hr, hg, hl, Nat.not_le.mpr h, decide_false, Bool.and_false, Bool.false_eq_true, if_false]

theorem barrierTimeout_due (hwake : r.fin.wake = 1) (hw : r.woken = none) (hstop : g.stop = .none)
    (h : r.since + barTimeout l ≤ s.clock) : exec (.barrierTimeout rid) s = .next (barrierTrapped s r g) := by
  show execBarrierTimeout rid s = _
  simp only [execBarrierTimeout, hr, hg, hl]
  exact if_pos (by simp [findWg_id hg, hwake, hw, hstop, h])

end

/-- The core after the trap of a gathering bin. -/
def gatherTrapped (s : State) (k : SeatKey) (t : Thread) (g : Workgroup) : State :=
  let bin := binThreads s ⟨k.cluster, k.core⟩ t.pc
  let x := workgroupTrap s g 13 0 (wordAt s t)
  dispatchTrap (refillBins (foldList (fun s u => endSegment s u (timeoutEnd (endAt s u 10 0 false) 13 u.pc x.2))
    (traceEnds x.1 bin 10) bin) ⟨k.cluster, k.core⟩) g x.2 (bin.any fun u => u.trapState.isSome)

section
variable {k : SeatKey} (hk : findSeat s k = some t) (hg : findWg s t.wg = some g) (hl : findLaunch s t.launch = some l)
include hk hg hl

theorem gatherTimeout_early (h : s.clock ≤ t.binnedAt + barTimeout l) : Runs (.gatherTimeout k) s s := by
  show execGatherTimeout k s = _
  simp only [execGatherTimeout, hk, hg, hl, Nat.not_lt.mpr h, decide_false, Bool.and_false, Bool.false_eq_true, if_false]

theorem gatherTimeout_due (hplace : t.place = .binned) (hgather : (gatherGroup s t).isSome = true)
    (hstop : g.stop = .none) (h : t.binnedAt + barTimeout l < s.clock) :
    exec (.gatherTimeout k) s = .next (gatherTrapped s k t g) := by
  show execGatherTimeout k s = _
  simp only [execGatherTimeout, hk, hg, hl]
  exact if_pos (by simp [hplace, hgather, hstop, h])

end

/-! ### Traps left unresolved and pool deadlocks (R270, R354, R480) -/

/-- A trap that began at a cycle has lasted its limit, in a workgroup of the context that is not stopped. -/
def trapLate (s : State) (ctx since wg : Nat) : Prop :=
  ∃ g, findWg s wg = some g ∧ g.ctx = ctx ∧ g.stop = .none ∧ since + 2 ^ 26 ≤ s.clock

/-- Some trap state, or some trap record not released, of the context has lasted its limit. -/
def trapsLate (s : State) (ctx : Nat) : Prop :=
  (∃ t b, (t ∈ s.threads ∨ ∃ r ∈ s.records, t = r.th) ∧ t.trapState = some b ∧ trapLate s ctx b t.wg) ∨
  ∃ r ∈ s.records, r.fin.wake = 10 ∧ r.woken = none ∧ trapLate s ctx r.since r.th.wg

section
variable {ctx : Nat} {c : Context} (hc : findCtx s ctx = some c)
include hc

theorem trapUnresolved_kills (hs : c.session = false) (h : trapsLate s ctx) :
    Runs (.trapUnresolved ctx) s (killCtx s ctx 9) := by
  have hlate {b wg : Nat} (h : trapLate s ctx b wg) : ∃ g, findWg s wg = some g ∧ ctxOfWg s wg = ctx ∧ g.stop = .none ∧
      b + trapLimit ≤ s.clock := by
    obtain ⟨g, hg, hctx, hstop, hb⟩ := h
    exact ⟨g, hg, by rw [ctxOfWg, hg]; exact hctx, hstop, hb⟩
  show execTrapUnresolved ctx s = _
  simp only [execTrapUnresolved, hc, hs]
  refine if_pos ?_
  rw [Bool.not_false, Bool.true_and, Bool.or_eq_true]
  refine h.imp ?_ ?_
  · rintro ⟨t, b, ht, hb, hl⟩
    obtain ⟨g, hg, hctx, hstop, hclock⟩ := hlate hl
    have hmem : t ∈ s.threads ++ s.records.map Record.th := List.mem_append.mpr (ht.imp_right fun ⟨r, hr, e⟩ =>
      List.mem_map.mpr ⟨r, hr, e.symm⟩)
    exact List.any_eq_true.mpr ⟨t, hmem, by simp [hb, hg, hctx, hstop, hclock]⟩
  · rintro ⟨r, hr, hwake, hw, hl⟩
    obtain ⟨g, hg, hctx, hstop, hclock⟩ := hlate hl
    exact List.any_eq_true.mpr ⟨r, hr, by simp [hwake, hw, hg, hctx, hstop, hclock]⟩

theorem trapUnresolved_waits (h : c.session = true ∨ ¬ trapsLate s ctx) : Runs (.trapUnresolved ctx) s s := by
  show execTrapUnresolved ctx s = _
  simp only [execTrapUnresolved, hc]
  refine if_neg fun hkill => ?_
  rw [Bool.and_eq_true, Bool.not_eq_true', Bool.or_eq_true, List.any_eq_true, List.any_eq_true] at hkill
  obtain ⟨hs, hlate⟩ := hkill
  have hgoes {b wg : Nat} {g : Workgroup} (hg : findWg s wg = some g) (hctx : ctxOfWg s wg = ctx)
      (hstop : decide (g.stop = .none) = true) (hclock : b + trapLimit ≤ s.clock) : trapLate s ctx b wg :=
    ⟨g, hg, by rwa [ctxOfWg, hg] at hctx, of_decide_eq_true hstop, hclock⟩
  refine h.resolve_left (by rw [hs]; exact Bool.false_ne_true) (hlate.imp ?_ ?_)
  · rintro ⟨t, ht, hl⟩
    have hmem : t ∈ s.threads ∨ ∃ r ∈ s.records, t = r.th := (List.mem_append.mp ht).imp_right fun h => by
      obtain ⟨r, hr, rfl⟩ := List.mem_map.mp h
      exact ⟨r, hr, rfl⟩
    split at hl
    next b hb =>
      simp only [Bool.and_eq_true, decide_eq_true_eq] at hl
      obtain ⟨⟨hctx, hclock⟩, hstop⟩ := hl
      split at hstop
      next g hg => exact ⟨t, b, hmem, hb, hgoes hg hctx hstop hclock⟩
      next => cases hstop
    next => cases hl
  · rintro ⟨r, hr, hl⟩
    simp only [Bool.and_eq_true, decide_eq_true_eq, Option.isNone_iff_eq_none] at hl
    obtain ⟨⟨hwake, hw⟩, ⟨hctx, hclock⟩, hstop⟩ := hl
    split at hstop
    next g hg => exact ⟨r, hr, hwake, hw, hgoes hg hctx hstop hclock⟩
    next => cases hstop

theorem poolDeadlock_of_none (hd : c.deadlock = none) : Runs (.poolDeadlock ctx) s s := by
  show execPoolDeadlock ctx s = _
  simp only [execPoolDeadlock, hc, hd]

theorem deadlockRests_iff : deadlockRests s c = true ↔ c.stop ≠ .none ∨ ∃ g ∈ s.wgs, g.ctx = ctx ∧ g.stop ≠ .none := by
  have hid : c.id = ctx := by simpa using List.find?_some hc
  simp only [deadlockRests, Bool.or_eq_true, decide_eq_true_eq, List.any_eq_true, Bool.and_eq_true, hid]

section
variable {d : Nat} (hd : c.deadlock = some d)
include hd

theorem poolDeadlock_waits (h : deadlockRests s c = true ∨ s.clock < d + 2 ^ 24) : Runs (.poolDeadlock ctx) s s := by
  show execPoolDeadlock ctx s = _
  simp only [execPoolDeadlock, hc, hd]
  refine if_neg fun hkill => ?_
  rw [Bool.and_eq_true, Bool.and_eq_true, Bool.not_eq_true', decide_eq_true_eq] at hkill
  obtain ⟨⟨-, hgoes⟩, hclock⟩ := hkill
  rcases h with h | h
  · rw [hgoes] at h; cases h
  · exact Nat.not_le.mpr h hclock

theorem poolDeadlock_kills (hholds : deadlockHolds s ctx = true) (hrests : ¬ deadlockRests s c = true)
    (h : d + 2 ^ 24 ≤ s.clock) : Runs (.poolDeadlock ctx) s (killCtx s ctx 10) := by
  have hlimit : d + deadlockLimit ≤ s.clock := h
  show execPoolDeadlock ctx s = _
  simp only [execPoolDeadlock, hc, hd, hholds, hrests, hlimit, decide_true, Bool.not_false, Bool.and_self, if_true]

end

end

/-! ### Timers (R166) -/

section
variable {rid : Nat} {r : Record} (hnone : ∀ t ∈ s.threads, ∀ e, t.place ≠ .held e)
include hnone

theorem retestHeld_of_none_held (p : Thread → Bool) : retestHeld s p = s := by
  refine foldList_keeps (P := fun s' : State => s' = s) rfl fun s' t ht hs' => ?_
  split
  next e he => exact absurd he (hnone t ht e)
  next => exact hs'

variable (hr : findRecord s rid = some r)
include hr

theorem timerWake_wakes (hwake : r.fin.wake = 6) (hholds : wakeHolds s r.th r.fin = true) (hw : r.woken = none) :
    Reaches (.timerWake rid) s fun s' => ∃ q, findRecord s' rid = some q ∧ q.woken = some s.clock ∧ q.th = r.th := by
  have hthreads : (wakeRecord s rid).threads = s.threads := (wakeRecord_sameThreads s rid).threads
  refine ⟨wakeRecord s rid, ?_, findRecord_wakeRecord hr hw⟩
  show execTimerWake rid s = _
  simp only [execTimerWake, hr, hwake, hholds, and_self, if_true]
  rw [retestHeld_of_none_held (hthreads ▸ hnone)]

theorem timerWake_waits (hholds : wakeHolds s r.th r.fin = false) : Runs (.timerWake rid) s s := by
  show execTimerWake rid s = _
  simp only [execTimerWake, hr, hholds, Bool.false_eq_true, and_false, if_false]
  rw [retestHeld_of_none_held hnone]

end

theorem watchdogsAndTimers : Claims.WatchdogsAndTimers := by
  refine ⟨fun s k slot t o hk hslot hrun ho => ?overrun, fun s rid r g l hr hg hl hwake hw => ?barrier,
    fun s k t g l hk hg hl hplace hgather hstop => ?gather, fun s ctx c hc => ?context,
    fun s rid r hr hwake hnone => ?timer⟩
  case overrun =>
    have ht : t ∈ s.threads := List.mem_of_find?_eq_some hk
    exact ⟨overrun_early hk hslot ho, fun h hn => overrunOf_ne_nil hn ht hrun h, fun h _ _ hover =>
      overrun_traps hk hslot hrun ho h hover⟩
  case barrier =>
    exact ⟨barrierTimeout_early hr hg hl, fun hstop h => barrierTimeout_due hr hg hl hwake hw hstop h⟩
  case gather =>
    exact ⟨gatherTimeout_early hk hg hl, fun h => gatherTimeout_due hk hg hl hplace hgather hstop h⟩
  case context =>
    refine ⟨fun hs => trapUnresolved_waits hc (.inl hs), fun hs t b g ht hb hg hctx hstop h => ?_,
      fun hs r hr g hwake hw hg hctx hstop h => ?_, fun hthreads hrecords => ?_, poolDeadlock_of_none hc,
      fun d hd hholds => ⟨fun h => ?_, fun h => poolDeadlock_waits hc hd (.inr h), fun hs hgs h => ?_⟩⟩
    · exact trapUnresolved_kills hc hs (.inl ⟨t, b, ht, hb, g, hg, hctx, hstop, h⟩)
    · exact trapUnresolved_kills hc hs (.inr ⟨r, hr, hwake, hw, g, hg, hctx, hstop, h⟩)
    · refine trapUnresolved_waits hc (.inr ?_)
      rintro (⟨t, b, ht, hb, g, hg, hctx, hstop, h⟩ | ⟨r, hr, hwake, hw, g, hg, hctx, hstop, h⟩)
      · exact (hthreads t b g ht hb hg hctx).elim (· hstop) (Nat.not_lt.mpr h)
      · exact (hrecords r hr g hwake hw hg hctx).elim (· hstop) (Nat.not_lt.mpr h)
    · exact poolDeadlock_waits hc hd (.inl ((deadlockRests_iff hc).mpr h))
    · refine poolDeadlock_kills hc hd hholds (fun hrests => ?_) h
      exact ((deadlockRests_iff hc).mp hrests).elim (· hs) fun ⟨g, hg, hctx, hstop⟩ => hstop (hgs g hg hctx)
  case timer =>
    exact ⟨fun hholds hw => timerWake_wakes hnone hr hwake hholds hw, timerWake_waits hnone hr⟩

/-! ### Probe tokens (R277 to R281) -/

section
variable {wg since : Nat} {q : QueueRef} (hg : findWg s wg = some g)
include hg

theorem probeTokenSend_sends (hb : blockedSince s wg q = some since) (hfree : reserveFree s g q = true)
    (h : max since (queueProbe g q).lastSent + 1024 ≤ s.clock) : Runs (.probeTokenSend wg q) s
      (updWg (setQueueProbe s wg { queueProbe g q with sent := (queueProbe g q).sent + 1, lastSent := s.clock }) wg
        fun h => { h with
          probes := h.probes ++ (waitEdges s g q).map (fun y => Probe.mk q ((queueProbe g q).sent + 1) y [q])
          counts := { h.counts with probesent := min (h.counts.probesent + 1) 0xFFFFFFFF } }) := by
  show execProbeTokenSend wg q s = _
  simp only [execProbeTokenSend, hg, hb, hfree, h, decide_true, Bool.and_self, if_true]
  rfl

theorem probeTokenSend_early (hb : blockedSince s wg q = some since)
    (h : s.clock < max since (queueProbe g q).lastSent + 1024) : Runs (.probeTokenSend wg q) s s := by
  show execProbeTokenSend wg q s = _
  simp only [execProbeTokenSend, hg, hb, Nat.not_le.mpr h, decide_false, Bool.and_false, Bool.false_eq_true, if_false]

end

theorem queueProbe_q (g : Workgroup) (q : QueueRef) : (queueProbe g q).q = q := by
  unfold queueProbe
  split
  next x hx => simpa using List.find?_some hx
  next => rfl

/-- A grant of a queue that is no ring marks its reserve place, and is counted. -/
theorem grantReserve_of_queue {wg : Nat} {q : QueueRef} (hg : findWg s wg = some g) (hq : ∀ n, q ≠ .ring n) :
    ∃ h, findWg (grantReserve s g q) wg = some h ∧ (queueProbe h q).granted = true ∧
      h.counts.resvgrant = min (g.counts.resvgrant + 1) 0xFFFFFFFF ∧ h.probes = g.probes := by
  obtain rfl := findWg_id hg
  have hgrant : grantReserve s g q = setQueueProbe (updWg s g.id fun g => { g with
      counts := { g.counts with resvgrant := satAdd32 g.counts.resvgrant 1 } }) g.id
      { queueProbe g q with granted := true } := by
    cases q with
    | ring n => exact absurd rfl (hq n)
    | copy n => rfl
    | matrix n => rfl
  rw [hgrant]
  refine ⟨_, findWg_updWg (findWg_updWg hg fun _ => rfl) fun _ => rfl, ?_, rfl, rfl⟩
  rw [queueProbe, List.find?_cons_of_pos (by simp [queueProbe_q])]

/-- The workgroup once every copy of a token is gone. -/
def withoutToken (p : Probe) (g : Workgroup) : Workgroup :=
  { g with probes := g.probes.filter fun x => !(decide (x.origin = p.origin) && decide (x.num = p.num)) }

section
variable {wg i : Nat} {p : Probe} (hg : findWg s wg = some g) (hp : g.probes[i]? = some p)
include hg hp

/-- A token at a queue that is not blocked is gone. -/
theorem probeTokenReceive_unblocked (hb : blockedSince s wg p.place = none) : Runs (.probeTokenReceive wg i) s
    (updWg s wg fun h => { h with probes := h.probes.eraseIdx i }) := by
  show execProbeTokenReceive wg i s = _
  simp only [execProbeTokenReceive, hg, hp, hb, Option.isNone_none, if_true]

variable (hb : blockedSince s wg p.place ≠ none)
include hb

theorem probeTokenReceive_visited (hne : p.place ≠ p.origin) (hv : p.place ∈ p.visited) : Runs (.probeTokenReceive wg i) s
    (updWg s wg fun h => { h with probes := h.probes.eraseIdx i }) := by
  have hvisited : p.visited.contains p.place = true := List.contains_iff_mem.mpr hv
  show execProbeTokenReceive wg i s = _
  simp only [execProbeTokenReceive, hg, hp, Option.isNone_iff_eq_none, hb, hne, hvisited, if_false, if_true]

theorem probeTokenReceive_forwards (hne : p.place ≠ p.origin) (hv : p.place ∉ p.visited) : Runs (.probeTokenReceive wg i) s
    (updWg (updWg s wg fun h => { h with probes := h.probes.eraseIdx i }) wg fun h => { h with
      probes := h.probes ++ (waitEdges s g p.place).map (fun y => Probe.mk p.origin p.num y (p.visited ++ [p.place])) }) := by
  have hvisited : ¬ p.visited.contains p.place = true := mt List.contains_iff_mem.mp hv
  show execProbeTokenReceive wg i s = _
  simp only [execProbeTokenReceive, hg, hp, Option.isNone_iff_eq_none, hb, hne, hvisited, if_false]
  rfl

/-- A token that is back at its origin grants the reserve place, and every copy of it is gone. -/
theorem probeTokenReceive_grants (he : p.place = p.origin) (hfree : reserveFree s g p.origin = true)
    (hnum : p.num = (queueProbe g p.origin).sent) (hring : ∀ n, p.origin ≠ .ring n) :
    Reaches (.probeTokenReceive wg i) s fun s' => ∃ h, findWg s' wg = some h ∧ (queueProbe h p.origin).granted = true ∧
      h.counts.resvgrant = min (g.counts.resvgrant + 1) 0xFFFFFFFF ∧
      ∀ x ∈ h.probes, ¬ (x.origin = p.origin ∧ x.num = p.num) := by
  have hblocked : blockedSince s wg p.origin ≠ none := he ▸ hb
  have hgone : findWg (updWg s wg (withoutToken p)) wg = some (withoutToken p g) := findWg_updWg hg fun _ => rfl
  obtain ⟨h, hh, hgranted, hcount, hprobes⟩ := grantReserve_of_queue hgone hring
  refine ⟨_, ?_, h, hh, hgranted, hcount, fun x hx => ?_⟩
  · show execProbeTokenReceive wg i s = _
    simp only [execProbeTokenReceive, hg, hp, he, Option.isNone_iff_eq_none, hblocked, if_false, if_true, hfree, hnum,
      decide_true, Bool.and_self]
    delta withoutToken at hgone
    rw [← hnum, hgone]
    rfl
  · rw [hprobes] at hx
    rintro ⟨ho, hn⟩
    simpa [ho, hn] using (List.mem_filter.mp hx).2

end

theorem probeTokensFindDeadlocks : Claims.ProbeTokensFindDeadlocks :=
  ⟨fun _ _ _ _ _ hg hb hfree => ⟨probeTokenSend_sends hg hb hfree, probeTokenSend_early hg hb⟩,
    fun _ _ _ _ _ hg hp => ⟨probeTokenReceive_unblocked hg hp, probeTokenReceive_visited hg hp,
      probeTokenReceive_forwards hg hp, fun hb => probeTokenReceive_grants hg hp hb⟩⟩

/-- Settles O42: each watchdog by the guard it tests, a timer by the wake of its record, a token by where it stands. -/
theorem watchdogsTimersAndProbes : Obligations.WatchdogsTimersAndProbes := ⟨watchdogsAndTimers, probeTokensFindDeadlocks⟩

end Sys2Proof.Machine
end

section
/-! ### The record of a segment's end (R47, R256, R259) -/
namespace Sys2Proof.Machine

variable {s s' s'' : State} {t : Thread} {e : SegEnd} {g : Workgroup}

theorem logAppend_frame (s : State) (r : Recording) (order : Bool) (ident : Nat) (bs : List Byte) :
    ∃ m p rs, logAppend s r order ident bs = { s with mem := m, poison := p, recording := rs } := by
  unfold logAppend
  extract_lets cap
  clear_value cap
  dsimp only
  split
  · split
    · exact ⟨_, _, _, rfl⟩
    · split <;> exact ⟨_, _, _, rfl⟩
  · split <;> exact ⟨_, _, _, rfl⟩

theorem logDispatch_frame (s : State) (g : Workgroup) (ord tid kind detail passed : Nat) :
    ∃ m p rs, logDispatch s g ord tid kind detail passed = { s with mem := m, poison := p, recording := rs } := by
  unfold logDispatch logFor
  split
  · exact logAppend_frame ..
  · exact ⟨_, _, _, rfl⟩

/-- The end that the record of a thread carries: FLT stands too for a far violation and for a log (R47). -/
def recordEnd (s : State) (t : Thread) (e : SegEnd) : SegEnd :=
  { e with flt := e.flt || t.farFault.isSome || (recordThread s t e).log.isSome }

/-- The thread is out of its seat and in a record: for the rest only memory and the logs have changed, and each other
record as a wake changes it. -/
structure WritesRecord (s : State) (t : Thread) (e : SegEnd) (s' : State) : Prop where
  frame : s' = { dropThread s t.wg t.tid with
    mem := s'.mem, poison := s'.poison, recording := s'.recording, nextId := s'.nextId, records := s'.records }
  written : ∃ r ∈ s'.records, r.id = s.nextId ∧ r.th = recordThread s t e ∧ r.fin = recordEnd s t e

theorem WritesRecord.then_keepsEnds (h : WritesRecord s t e s') (hk : KeepsEnds s' s'') : WritesRecord s t e s'' := by
  obtain ⟨f, hf, hrecords⟩ := hk.records
  obtain ⟨r, hr, hid, hth, hfin⟩ := h.written
  obtain ⟨hid', hth', hfin'⟩ := hf r
  refine ⟨?_, f r, by rw [hrecords]; exact List.mem_map_of_mem hr, hid'.trans hid, hth'.trans hth, hfin'.trans hfin⟩
  rw [hk.frame, h.frame]

theorem writeRecord_writes (hg : findWg s t.wg = some g) (held slotless : Bool) :
    WritesRecord s t e (writeRecord s t e held slotless) := by
  unfold writeRecord
  split
  next hnone => rw [hg] at hnone; cases hnone
  next =>
    extract_lets th flt slot r s1 s2 s4
    have hroom : Rebuffers (dropThread s t.wg t.tid) s1 := makeRoom_rebuffers ..
    have h2 : s2 = { dropThread s t.wg t.tid with
        mem := s1.mem, poison := s1.poison, records := s1.records ++ [r], nextId := s.nextId + 1 } := by
      show bumpId { s1 with records := s1.records ++ [r] } = _
      rw [hroom.frame]
      rfl
    obtain ⟨m, p, rs, hlog⟩ := logDispatch_frame s2 _ e.ord.toNat t.tid 3 e.wake t.path.passed
    have h4 : WritesRecord s t e s4 := by
      rw [show s4 = _ from hlog, h2]
      exact ⟨rfl, r, List.mem_append_right _ (List.mem_singleton.mpr rfl), rfl, rfl, rfl⟩
    split
    · exact h4.then_keepsEnds (wakeRecord_keepsEnds ..)
    · exact h4

/-- A segment that ends with nothing outstanding, with room in the pool, is a record. -/
theorem endSegment_writes (hg : findWg s t.wg = some g) (hp : t.pend = []) (hpool : poolFull s t.launch = false) :
    WritesRecord s t e (endSegment s t e) := by
  rw [endSegment_with_room hp hpool]
  exact writeRecord_writes hg false false

theorem WritesRecord.threads (h : WritesRecord s t e s') : s'.threads = (dropThread s t.wg t.tid).threads := by
  rw [h.frame]

theorem WritesRecord.wgs (h : WritesRecord s t e s') : s'.wgs = s.wgs := by rw [h.frame]; rfl
theorem WritesRecord.launches (h : WritesRecord s t e s') : s'.launches = s.launches := by rw [h.frame]; rfl
theorem WritesRecord.contexts (h : WritesRecord s t e s') : s'.contexts = s.contexts := by rw [h.frame]; rfl

/-- What a record keeps of its thread besides the registers: the log where its end has no extension 3. -/
theorem recordThread_keeps (s : State) (t : Thread) (e : SegEnd) :
    (recordThread s t e).pc = t.pc ∧ (recordThread s t e).p = t.p ∧ (recordThread s t e).g = t.g ∧
      (recordThread s t e).log = if e.ext = 3 then none else t.log := by
  simp only [recordThread, and_self]

theorem endMask_getLsbD (s : State) (t : Thread) (e : SegEnd) (i : BitVec 6) :
    (endMask s t e).getLsbD i.toNat = true ↔ e.ext = 3 ∨ (liveMask s t).getLsbD i.toNat = true := by
  by_cases hext : e.ext = 3
  · rw [endMask, if_pos hext, BitVec.getLsbD_allOnes]
    simp [hext, i.isLt]
  · rw [endMask, if_neg hext, or_iff_right hext]

/-- The record reads the registers that its end saves, and zero for the others. -/
theorem getV_recordThread (s : State) (t : Thread) (e : SegEnd) (i : BitVec 6) :
    getV (recordThread s t e) i = if e.ext = 3 ∨ (liveMask s t).getLsbD i.toNat = true then getV t i else 0 := by
  simp only [← endMask_getLsbD, getV, recordThread, maskRegs, Vector.getElem_ofFn]
  rfl

theorem segmentEndWritesARecord : Claims.SegmentEndWritesARecord := by
  intro s t g e hg hp hpool
  have hw : WritesRecord s t e (endSegment s t e) := endSegment_writes hg hp hpool
  obtain ⟨r, hr, hid, hth, hfin⟩ := hw.written
  obtain ⟨hpc, hpred, hgroups, hlog⟩ := recordThread_keeps s t e
  refine ⟨fun u hu => not_named_after_drop s t.wg t.tid u (hw.threads ▸ hu), fun u hu hne => ?_, r, hr, hid, ?_⟩
  · rw [hw.threads]
    simpa [dropThread, dropWhere, hu] using not_and_or.mp hne
  rw [hth, hfin]
  refine ⟨recordThread_wg .., recordThread_tid .., hpc, rfl, rfl, rfl, hpred, hgroups, hlog, fun hsome => ?_,
    getV_recordThread s t e⟩
  rw [recordEnd, hsome, Bool.or_true]

end Sys2Proof.Machine
end

section
/-! ### The trap record's layout and the trap entry (R180, R353) -/
namespace Sys2Proof.Machine

/-! ### The layout of the trap record (R180) -/

/-- Fields of a width and a value, one after the other. -/
def fieldBytes : List (Nat × Nat) → List Byte
  | [] => []
  | f :: fs => toBytes f.1 f.2 ++ fieldBytes fs

theorem fieldBytes_length (fs : List (Nat × Nat)) : (fieldBytes fs).length = (fs.map Prod.fst).sum := by
  induction fs with
  | nil => rfl
  | cons f fs ih => simp [fieldBytes, toBytes_length, ih]

/-- The field at the offset that the widths before it add up to. -/
theorem ofBytes_field {fs : List (Nat × Nat)} {i n x off : Nat} (hf : fs[i]? = some (n, x))
    (hoff : ((fs.take i).map Prod.fst).sum = off) : ofBytes (((fieldBytes fs).drop off).take n) = x % 256 ^ n := by
  induction fs generalizing i off with
  | nil => simp at hf
  | cons f fs ih =>
    cases i with
    | zero =>
      obtain rfl : f = (n, x) := Option.some.inj hf
      obtain rfl : 0 = off := hoff
      rw [List.drop_zero, fieldBytes, List.take_left' (toBytes_length n x), ofBytes_toBytes]
    | succ i =>
      obtain rfl : f.1 + ((fs.take i).map Prod.fst).sum = off := by simpa using hoff
      rw [fieldBytes, ← List.drop_drop, List.drop_left' (toBytes_length f.1 f.2)]
      exact ih (by simpa using hf) rfl

/-- A field that holds a bit vector of its width. -/
theorem ofBytes_word_field {fs : List (Nat × Nat)} (i : Nat) {n w off : Nat} {x : BitVec w}
    (hf : fs[i]? = some (n, x.toNat) := by rfl) (hoff : ((fs.take i).map Prod.fst).sum = off := by rfl)
    (hw : 256 ^ n = 2 ^ w := by rfl) :
    ofBytes (((fieldBytes fs).drop off).take n) = x.toNat := by
  rw [ofBytes_field hf hoff, hw, Nat.mod_eq_of_lt x.isLt]

/-- A field that holds a number modulo its width. -/
theorem ofBytes_nat_field {fs : List (Nat × Nat)} (i : Nat) {n w x off : Nat} (hf : fs[i]? = some (n, x) := by rfl)
    (hoff : ((fs.take i).map Prod.fst).sum = off := by rfl) (hw : 256 ^ n = 2 ^ w := by rfl) :
    ofBytes (((fieldBytes fs).drop off).take n) = x % 2 ^ w := by
  rw [ofBytes_field hf hoff, hw]

/-- Two bytes in the low half of a first word. -/
theorem ofBytes_first_word {a b : Nat} (fs : List (Nat × Nat)) (ha : a < 256) (hb : b < 256) :
    ofBytes (((fieldBytes ((4, a + 256 * b) :: fs)).drop 0).take 1) = a ∧
    ofBytes (((fieldBytes ((4, a + 256 * b) :: fs)).drop 1).take 1) = b ∧
    ofBytes (((fieldBytes ((4, a + 256 * b) :: fs)).drop 2).take 2) = 0 := by
  have hsplit : fieldBytes ((4, a + 256 * b) :: fs) = fieldBytes ((1, a) :: (1, b) :: (2, 0) :: fs) := by
    have hlow : BitVec.ofNat 8 (a + 256 * b) = BitVec.ofNat 8 a := by
      apply BitVec.eq_of_toNat_eq
      simp only [BitVec.toNat_ofNat]
      omega
    have hmid : (a + 256 * b) / 256 = b := by omega
    have hhigh : b / 256 = 0 := by omega
    simp [toBytes, fieldBytes, hlow, hmid, hhigh]
  rw [hsplit]
  exact ⟨(ofBytes_field (i := 0) (by rfl) (by rfl)).trans (Nat.mod_eq_of_lt ha),
    (ofBytes_field (i := 1) (by rfl) (by rfl)).trans (Nat.mod_eq_of_lt hb),
    (ofBytes_field (i := 2) (by rfl) (by rfl)).trans (Nat.zero_mod _)⟩

theorem trapBytes_eq_fieldBytes (cause code : Nat) (ord : Word) (since wgid : Nat) (seq parent fmask amask smask gsw : Word)
    (clock : Nat) (word : BitVec 32) (cluster : Nat) (detail : BitVec 64) :
    trapBytes cause code ord since wgid seq parent fmask amask smask gsw clock word cluster detail =
      fieldBytes [(4, cause + 256 * code), (4, ord.toNat), (4, since), (4, wgid), (4, seq.toNat), (4, parent.toNat),
        (4, fmask.toNat), (4, amask.toNat), (4, smask.toNat), (4, gsw.toNat), (8, clock), (4, word.toNat), (4, cluster),
        (8, detail.toNat)] := by
  simp only [trapBytes, fieldBytes, List.append_assoc, List.append_nil]

theorem trapRecordLayout : Claims.TrapRecordLayout := by
  intro cause code ord since wgid seq parent fmask amask smask gsw clock word cluster detail
  rw [trapBytes_eq_fieldBytes]
  dsimp only
  exact ⟨fieldBytes_length _, ofBytes_first_word _, ofBytes_word_field 1, ofBytes_nat_field 2,
    ofBytes_nat_field 3, ofBytes_word_field 4, ofBytes_word_field 5, ofBytes_word_field 6, ofBytes_word_field 7,
    ofBytes_word_field 8, ofBytes_word_field 9, ofBytes_nat_field 10, ofBytes_word_field 11, ofBytes_nat_field 12,
    ofBytes_word_field 13⟩

/-! ### The trap entry (R353) -/

theorem trapEntryWritesTwoRegisters : Claims.TrapEntryWritesTwoRegisters := by
  refine ⟨fun s t e kd pc hentry hk hpc => ?_, fun _ => rfl⟩
  have henter : enterTrap s t e = { t with
      pc := pc, v := (t.v.set 62 e.trapSeq).set 63 e.trapWord, trapState := some s.clock, mark := none } := by
    simp only [enterTrap, hentry, hk, hpc, Option.getD_some]
  rw [henter]
  refine ⟨rfl, ?_, ?_, rfl, rfl, fun i hi => ?_⟩
  · simp [getV]
  · simp [getV]
  · have h62 : 62 ≠ i.toNat := by omega
    have h63 : 63 ≠ i.toNat := by omega
    simp [getV, h62, h63]

end Sys2Proof.Machine
end

section
/-! ### Taking a trap (R180, R351 to R353, R480) -/
namespace Sys2Proof.Machine

variable {s s' s'' : State} {t : Thread} {g : Workgroup} {c : Context} {l : Launch} {x : HeldTrap}

/-! ### Looking up a context and a launch -/

theorem findCtx_congr (h : s'.contexts = s.contexts) (id : Nat) : findCtx s' id = findCtx s id := by rw [findCtx, h, findCtx]
theorem findLaunch_congr (h : s'.launches = s.launches) (id : Nat) : findLaunch s' id = findLaunch s id := by
  rw [findLaunch, h, findLaunch]

theorem findCtx_updCtx {id : Nat} {f : Context → Context} (hc : findCtx s id = some c) (hf : ∀ x, (f x).id = x.id) :
    findCtx (updCtx s id f) id = some (f c) :=
  find?_updWhere_of_find (fun x hx => by simpa [hf x] using hx) hc

theorem findLaunch_updLaunch {id : Nat} {f : Launch → Launch} (hl : findLaunch s id = some l)
    (hf : ∀ x, (f x).id = x.id) : findLaunch (updLaunch s id f) id = some (f l) :=
  find?_updWhere_of_find (fun x hx => by simpa [hf x] using hx) hl

/-- An update that keeps what a test reads changes what the test finds where it reaches it. -/
theorem find?_updWhere_of_kept {α : Type} {p q : α → Bool} {f : α → α} (hf : ∀ x, q (f x) = q x) (l : List α) :
    (updWhere p f l).find? q = (l.find? q).map fun x => if p x then f x else x := by
  have hq : q ∘ (fun x => if p x then f x else x) = q := funext fun x => by
    rw [Function.comp_apply]
    split
    · exact hf x
    · rfl
  rw [updWhere, List.find?_map, hq]

/-! ### Room in the pool (R263, R269) -/

/-- What tells how full the pools are is as it was: the records, whose workgroup each is, and the launches' settings. -/
structure SamePools (s s' : State) : Prop where
  records : s'.records = s.records
  ctx : ∀ wg, ctxOfWg s' wg = ctxOfWg s wg
  launches : ∀ id, (findLaunch s' id).map (fun l => (l.ctx, l.conf)) = (findLaunch s id).map fun l => (l.ctx, l.conf)

theorem poolFull_of_samePools (h : SamePools s s') (launch : Nat) : poolFull s' launch = poolFull s launch := by
  have hconf (id : Nat) : launchConf s' id = launchConf s id := by
    simpa [launchConf, Function.comp_def] using congrArg (Option.map Prod.snd) (h.launches id)
  have hbase (id : Nat) : poolBase s' id = poolBase s id := by rw [poolBase, hconf]; rfl
  have hlimit : poolLimit s' launch = poolLimit s launch := by rw [poolLimit, hconf]; rfl
  have hused : poolUsed s' launch = poolUsed s launch := by
    cases hl : findLaunch s launch with
    | none =>
      have hl' : findLaunch s' launch = none := by simpa [hl] using h.launches launch
      simp only [poolUsed, h.records, h.ctx, hbase, hl, hl']
    | some l =>
      obtain ⟨l', hl', hctx, -⟩ : ∃ l', findLaunch s' launch = some l' ∧ l'.ctx = l.ctx ∧ l'.conf = l.conf := by
        simpa [hl] using h.launches launch
      simp only [poolUsed, h.records, h.ctx, hbase, hl, hl', hctx]
  rw [poolFull, hlimit, hused, poolFull]

/-- An update of workgroups that keeps number and context keeps each number's context. -/
theorem ctxOfWg_updWg {id : Nat} {f : Workgroup → Workgroup} (hid : ∀ g, (f g).id = g.id) (hctx : ∀ g, (f g).ctx = g.ctx)
    (wg : Nat) : ctxOfWg (updWg s id f) wg = ctxOfWg s wg := by
  have hfind : findWg (updWg s id f) wg = (findWg s wg).map fun g => if decide (g.id = id) then f g else g :=
    find?_updWhere_of_kept (fun g => by rw [hid]) _
  cases hg : findWg s wg with
  | none => simp only [ctxOfWg, hfind, hg, Option.map_none]
  | some g =>
    simp only [ctxOfWg, hfind, hg, Option.map_some]
    split
    · exact hctx g
    · rfl

theorem findLaunch_updLaunch_conf {id : Nat} {f : Launch → Launch} (hid : ∀ l, (f l).id = l.id)
    (hkeep : ∀ l, ((f l).ctx, (f l).conf) = (l.ctx, l.conf)) (launch : Nat) :
    (findLaunch (updLaunch s id f) launch).map (fun l => (l.ctx, l.conf)) =
      (findLaunch s launch).map fun l => (l.ctx, l.conf) := by
  have hfind : findLaunch (updLaunch s id f) launch =
      (findLaunch s launch).map fun l => if decide (l.id = id) then f l else l :=
    find?_updWhere_of_kept (fun l => by rw [hid]) _
  rw [hfind, Option.map_map]
  refine congrArg (fun k => (findLaunch s launch).map k) (funext fun l => ?_)
  rw [Function.comp_apply]
  split
  · exact hkeep l
  · rfl

/-! ### The trap's own record (R351, R480) -/

def countSeq (c : Context) : Context := { c with trapSeq := c.trapSeq + 1 }
def countTrapRecord (l : Launch) : Launch := { l with counts := { l.counts with trapRecords := satAdd32 l.counts.trapRecords 1 } }
def withTrap (x : HeldTrap) (g : Workgroup) : Workgroup := { g with heldTraps := g.heldTraps ++ [x] }

/-- The trap's record is in the trap bin, or waits for the end of the workgroup's stop (R480). -/
def noteTrap (s : State) (g : Workgroup) (x : HeldTrap) : State :=
  if g.stop = .none then putTrap s g x else updWg s g.id (withTrap x)

theorem putTrap_frame (s : State) (g : Workgroup) (x : HeldTrap) : ∃ m p, putTrap s g x =
    updLaunch (updCtx { s with mem := m, poison := p } g.ctx countSeq) g.launch countTrapRecord := by
  unfold putTrap writeTrap
  dsimp only
  split
  · rw [vwrite_frame]; exact ⟨_, _, rfl⟩
  · exact ⟨_, _, rfl⟩

/-- A trap whose record is written or held: the counts that go up, and the workgroup that holds it. -/
structure Notes (s : State) (g : Workgroup) (c : Context) (l : Launch) (x : HeldTrap) (s' : State) : Prop where
  threads : s'.threads = s.threads
  wg : findWg s' g.id = some (if g.stop = .none then g else withTrap x g)
  ctx : findCtx s' g.ctx = some (if g.stop = .none then countSeq c else c)
  launch : findLaunch s' g.launch = some (if g.stop = .none then countTrapRecord l else l)
  pools : SamePools s s'

theorem noteTrap_notes (hg : findWg s g.id = some g) (hc : findCtx s g.ctx = some c) (hl : findLaunch s g.launch = some l)
    (x : HeldTrap) : Notes s g c l x (noteTrap s g x) := by
  by_cases hstop : g.stop = .none
  · obtain ⟨m, p, hput⟩ := putTrap_frame s g x
    rw [noteTrap, if_pos hstop, hput]
    refine ⟨rfl, by rwa [if_pos hstop], ?_, ?_, rfl, fun _ => rfl, findLaunch_updLaunch_conf (fun _ => rfl) fun _ => rfl⟩
    · rw [if_pos hstop]
      exact findCtx_updCtx (s := { s with mem := m, poison := p }) hc fun _ => rfl
    · rw [if_pos hstop]
      exact findLaunch_updLaunch hl fun _ => rfl
  · rw [noteTrap, if_neg hstop]
    refine ⟨rfl, ?_, by rwa [if_neg hstop], by rwa [if_neg hstop], rfl,
      ctxOfWg_updWg (fun _ => rfl) fun _ => rfl, fun _ => rfl⟩
    rw [if_neg hstop]
    exact findWg_updWg hg fun _ => rfl

/-! ### A context without a trace (R459) -/

theorem traceEvent_of_untraced {kind detail : Nat} {ord parent mask : Word} (hc : findCtx s g.ctx = some c)
    (ht : c.trace = none) : traceEvent s g kind detail ord parent mask = s := by
  simp only [traceEvent, hc, ht]

theorem traceEndsAt_of_untraced {wake : Nat} {ord : Word} (hg : findWg s t.wg = some g) (hc : findCtx s g.ctx = some c)
    (ht : c.trace = none) : traceEndsAt s [t] wake ord = s := by
  unfold traceEndsAt
  dsimp only
  split
  next h' hg' _ =>
    obtain rfl := Option.some.inj (hg.symm.trans hg')
    exact traceEvent_of_untraced hc ht
  next => rfl

/-! ### What follows the record of the thread (R352) -/

/-- No thread comes, workgroups, launches and contexts are as they were, and each record is there, woken or not. -/
structure Settles (s s' : State) : Prop where
  threads : ∀ u ∈ s'.threads, ∃ v ∈ s.threads, u.wg = v.wg ∧ u.tid = v.tid
  wgs : s'.wgs = s.wgs
  launches : s'.launches = s.launches
  contexts : s'.contexts = s.contexts
  records : ∀ r ∈ s.records, ∃ r' ∈ s'.records, SameEnd r r'

theorem Settles.refl (s : State) : Settles s s :=
  ⟨fun u hu => ⟨u, hu, rfl, rfl⟩, rfl, rfl, rfl, fun r hr => ⟨r, hr, .refl r⟩⟩

theorem Settles.trans (h : Settles s s') (h' : Settles s' s'') : Settles s s'' := by
  refine ⟨fun u hu => ?_, h'.wgs.trans h.wgs, h'.launches.trans h.launches, h'.contexts.trans h.contexts, fun r hr => ?_⟩
  · obtain ⟨v, hv, hw, hi⟩ := h'.threads u hu
    obtain ⟨w, hw', hvw, hvi⟩ := h.threads v hv
    exact ⟨w, hw', hw.trans hvw, hi.trans hvi⟩
  · obtain ⟨q, hq, hrq⟩ := h.records r hr
    obtain ⟨p, hp, hqp⟩ := h'.records q hq
    exact ⟨p, hp, hrq.trans hqp⟩

theorem KeepsEnds.settles (h : KeepsEnds s s') : Settles s s' := by
  obtain ⟨f, hf, hrecords⟩ := h.records
  refine ⟨fun u hu => ⟨u, ?_, rfl, rfl⟩, ?_, ?_, ?_, fun r hr => ⟨f r, ?_, hf r⟩⟩
  · rw [h.frame] at hu; exact hu
  · rw [h.frame]
  · rw [h.frame]
  · rw [h.frame]
  · rw [hrecords]; exact List.mem_map_of_mem hr

theorem settleSlot_settles (s : State) (k : SlotKey) : Settles s (settleSlot s k) := by
  unfold settleSlot
  split
  · exact .refl s
  · split
    · exact ⟨fun u hu => ⟨u, hu, rfl, rfl⟩, rfl, rfl, rfl, fun r hr => ⟨r, hr, .refl r⟩⟩
    · refine ⟨fun u hu => ?_, rfl, rfl, rfl, fun r hr => ⟨r, hr, .refl r⟩⟩
      obtain ⟨v, hv, rfl⟩ := List.mem_map.mp hu
      refine ⟨v, hv, ?_⟩
      split <;> exact ⟨rfl, rfl⟩

/-- Where a trap entry or a session takes the records, they are woken or left to it. -/
theorem dispatchTrap_keepsEnds {seq : Word} (h : trapEntryOn s g.launch = true ∨ sessionOn s g.ctx = true) :
    KeepsEnds s (dispatchTrap s g seq false) := by
  unfold dispatchTrap
  rw [if_neg Bool.false_ne_true]
  split
  · refine foldList_keeps (P := KeepsEnds s) (.refl s) fun s' r _ hs' => ?_
    split
    · exact hs'.trans (wakeRecord_keepsEnds ..)
    · exact hs'
  next hentry => rw [if_pos (h.resolve_left hentry)]; exact .refl s

/-- What is left of a trap once its thread's record is written: the session is told of a STEP trap, any other is dispatched
unless the workgroup is stopped. -/
def finishTrap (s : State) (g : Workgroup) (t : Thread) (cause : Nat) (seq : Word) (inTrap : Bool) : State :=
  let s3 := if cause = 7 then emit s (.stop g.ctx (t.path.lastStop.getD 0xFFFFFFFF) g.wgid [t.tid])
    else if g.stop = .none then dispatchTrap s g seq inTrap else s
  match t.slot? with
  | some k => settleSlot s3 k
  | none => s3

theorem finishTrap_settles {cause : Nat} {seq : Word}
    (h : g.stop = .none → trapEntryOn s g.launch = true ∨ sessionOn s g.ctx = true) :
    Settles s (finishTrap s g t cause seq false) := by
  unfold finishTrap
  extract_lets s3
  have h3 : Settles s s3 := by
    unfold s3
    split
    · exact ⟨fun u hu => ⟨u, hu, rfl, rfl⟩, rfl, rfl, rfl, fun r hr => ⟨r, hr, .refl r⟩⟩
    · split
      next hstop => exact (dispatchTrap_keepsEnds (h hstop)).settles
      next => exact .refl s
  split
  · exact h3.trans (settleSlot_settles ..)
  · exact h3

/-- The thread as its record keeps it: no longer stepped after a STEP trap (R359). -/
def stepDone (cause : Nat) (t : Thread) : Thread := { t with fl := { t.fl with step := t.fl.step && !decide (cause = 7) } }

/-- A trap of one thread in a context without a trace: its record, the end of the thread's segment, and the dispatch. -/
theorem takeTrap_one {cause code : Nat} {detail : BitVec 64} {word : BitVec 32} (hg : findWg s t.wg = some g)
    (hc : findCtx s g.ctx = some c) (hl : findLaunch s g.launch = some l) (ht : c.trace = none)
    (hx : trapOf s t [t] cause code detail word = x) :
    takeTrap s [t] cause code detail word =
      finishTrap (endSegment (noteTrap s g x) (stepDone cause t) (trapEnd (noteTrap s g x) t x c.trapSeq)) g t cause
        c.trapSeq x.inTrap := by
  have hn : Notes s g c l x (noteTrap s g x) := noteTrap_notes (findWg_id hg ▸ hg) hc hl x
  have hnote : (if g.stop = .none then putTrap s g x else updWg s g.id fun g => { g with heldTraps := g.heldTraps ++ [x] }) =
      noteTrap s g x := rfl
  have huntraced : ∀ c', findCtx (noteTrap s g x) g.ctx = some c' → c'.trace = none := fun c' hc' => by
    obtain rfl := Option.some.inj (hn.ctx.symm.trans hc')
    split <;> exact ht
  have hevent (kind detail : Nat) (ord parent mask : Word) :
      traceEvent (noteTrap s g x) g kind detail ord parent mask = noteTrap s g x :=
    traceEvent_of_untraced hn.ctx (huntraced _ hn.ctx)
  have hends (wake : Nat) (ord : Word) : traceEndsAt (noteTrap s g x) [t] wake ord = noteTrap s g x := by
    have hctx : (if g.stop = .none then g else withTrap x g).ctx = g.ctx := by split <;> rfl
    exact traceEndsAt_of_untraced (findWg_id hg ▸ hn.wg) (hctx.symm ▸ hn.ctx) (huntraced _ hn.ctx)
  simp only [takeTrap, hg, nextSeq, hc, hx, hnote, hevent, hends, foldList, ite_self, decide_eq_true_eq]
  rfl

theorem trapEntryOn_of_lr {s s' : State} {id : Nat} {l l' : Launch} (hl : findLaunch s id = some l)
    (hl' : findLaunch s' id = some l') (h : l'.lr = l.lr) : trapEntryOn s' id = trapEntryOn s id := by
  simp only [trapEntryOn, hl, hl', h]

theorem sessionOn_of_found {id : Nat} (hc : findCtx s id = some c) : sessionOn s id = c.session := by
  simp only [sessionOn, hc]

/-- Who takes the records of a trap is as it was when the trap was taken. -/
theorem Notes.dispatches (h : Notes s g c l x s') (hlaunches : s''.launches = s'.launches)
    (hcontexts : s''.contexts = s'.contexts) (hl : findLaunch s g.launch = some l)
    (htakes : trapEntryOn s g.launch = true ∨ c.session = true) :
    trapEntryOn s'' g.launch = true ∨ sessionOn s'' g.ctx = true := by
  rcases htakes with hentry | hsession
  · refine .inl ((trapEntryOn_of_lr hl ((findLaunch_congr hlaunches _).trans h.launch) ?_).trans hentry)
    split <;> rfl
  · rw [sessionOn_of_found ((findCtx_congr hcontexts _).trans h.ctx)]
    right
    split <;> exact hsession

/-- Cause and code of a trap in the first word of its record (R180). -/
theorem trapEnd_trapWord {cause code : Nat} (hcause : cause < 256) (hcode : code < 256) (hx : x.cause = cause)
    (hy : x.code = code) (seq : Word) : (trapEnd s t x seq).trapWord.toNat = cause + 256 * code := by
  show (BitVec.ofNat 32 (x.cause + 256 * x.code)).toNat = _
  rw [hx, hy, BitVec.toNat_ofNat]
  omega

theorem takingATrapSavesTheThread : Claims.TakingATrapSavesTheThread := by
  intro s t g c l cause code detail word hg hc hl hp hpool hts hcause hcode htakes ht
  obtain ⟨x, hx⟩ : ∃ x, trapOf s t [t] cause code detail word = x := ⟨_, rfl⟩
  have hin : x.inTrap = false := by subst hx; simp [trapOf, hts]
  have hwg : g.id = t.wg := findWg_id hg
  have hn : Notes s g c l x (noteTrap s g x) := noteTrap_notes (hwg ▸ hg) hc hl x
  refine ⟨_, takeTrap_one hg hc hl ht hx, ?_⟩
  rw [hin, hx]
  generalize noteTrap s g x = s0 at hn
  have hw : WritesRecord s0 (stepDone cause t) (trapEnd s0 t x c.trapSeq)
      (endSegment s0 (stepDone cause t) (trapEnd s0 t x c.trapSeq)) :=
    endSegment_writes (hwg ▸ hn.wg) hp ((poolFull_of_samePools hn.pools _).trans hpool)
  generalize endSegment s0 (stepDone cause t) (trapEnd s0 t x c.trapSeq) = s2 at hw
  have hs : Settles s2 (finishTrap s2 g t cause c.trapSeq false) :=
    finishTrap_settles fun hstop => hn.dispatches hw.launches hw.contexts hl
      (htakes.imp_right fun h => h.resolve_right (absurd hstop))
  generalize finishTrap s2 g t cause c.trapSeq false = s' at hs
  refine ⟨fun u hu hname => ?_, ⟨_, (findCtx_congr (hs.contexts.trans hw.contexts) _).trans hn.ctx, ?_⟩,
    ⟨_, (findLaunch_congr (hs.launches.trans hw.launches) _).trans hn.launch, ?_⟩,
    ⟨_, (findWg_congr (hs.wgs.trans hw.wgs) _).trans (hwg ▸ hn.wg), ?_⟩, ?_⟩
  · obtain ⟨v, hv, hvw, hvi⟩ := hs.threads u hu
    exact not_named_after_drop s0 t.wg t.tid v (hw.threads ▸ hv) ⟨hvw.symm.trans hname.1, hvi.symm.trans hname.2⟩
  · split <;> rfl
  · split <;> rfl
  · split <;> rfl
  obtain ⟨r, hr, -, hth, hfin⟩ := hw.written
  obtain ⟨r', hr', -, hth', hfin'⟩ := hs.records r hr
  obtain ⟨hpc, hpred, hgroups, hlog⟩ := recordThread_keeps s0 (stepDone cause t) (trapEnd s0 t x c.trapSeq)
  have hx1 : x.cause = cause := by rw [← hx]; rfl
  have hx2 : x.code = code := by rw [← hx]; rfl
  refine ⟨r', hr', ?_⟩
  rw [hth', hth, hfin', hfin]
  refine ⟨recordThread_wg .., recordThread_tid .., rfl, rfl, rfl, trapEnd_trapWord hcause hcode hx1 hx2 _, ?_, ?_,
    fun _ => rfl, fun i => ?_, hpred, hgroups⟩
  · simp [recordEnd, trapEnd, hx1]
  · simp [recordEnd, trapEnd, hx1]
  · rw [getV_recordThread, if_pos (.inl rfl)]
    rfl

/-- Settles O24: the trap's record, the end of the segment and the dispatch in turn; the layout by its list of fields. -/
theorem takingATrap : Obligations.TakingATrap :=
  ⟨takingATrapSavesTheThread, trapRecordLayout, trapEntryWritesTwoRegisters⟩

end Sys2Proof.Machine
end

section
/-! ### Two workgroups of one number (R357)

`Claims.AbortKillsTheLaunch` asks that after a kill every workgroup with the number of one that the launch had holds no
scratch, in every state. `killWgs` ends the workgroups by their number but clears scratch by their launch, and nothing in
the hypotheses says that two workgroups of different launches have different numbers. -/
namespace Sys2Proof.Machine

/-- A workgroup of launch 2 with the number of the one of launch 1, and a byte of scratch. -/
def namesakeWorkgroup : Workgroup := { plainWg 1 with launch := 2, scratch := [(0, 1)] }

/-- The module after reset with a running launch, its workgroup, and that workgroup's namesake. -/
def namesakeState : State :=
  { State.reset with launches := [plainLaunch 1], wgs := [plainWg 1, namesakeWorkgroup] }

/-- The kill ends the namesake and leaves it its scratch. -/
theorem namesake_keeps_scratch :
    ∃ g ∈ (killLaunch namesakeState 1 1 0).wgs, g.id = 1 ∧ g.phase = .ended ∧ g.scratch ≠ [] := by decide +kernel

theorem not_abortKillsTheLaunch : ¬ Claims.AbortKillsTheLaunch := by
  unfold Claims.AbortKillsTheLaunch
  rintro ⟨-, hkill, -⟩
  obtain ⟨s', rfl, -, hwgs⟩ := hkill namesakeState (plainLaunch 1) 1 0 rfl rfl (by decide)
  obtain ⟨-, -, -, -, hends⟩ := hwgs (plainWg 1) List.mem_cons_self rfl (by decide)
  obtain ⟨g, hg, hid, -, hscratch⟩ := namesake_keeps_scratch
  obtain ⟨-, hnone, -⟩ := hends g hg hid
  exact hscratch hnone

end Sys2Proof.Machine

namespace Sys2Proof

/-- Refutes O21: two workgroups of different launches share a number, and a kill of the one's launch ends both but leaves
the other its scratch, which the conjunct about `abort` and kills denies. -/
theorem not_segmentsEndInRecords : ¬ Obligations.SegmentsEndInRecords := by
  unfold Obligations.SegmentsEndInRecords
  rintro ⟨-, -, habort⟩
  exact Machine.not_abortKillsTheLaunch habort

end Sys2Proof
end

section
/-! ### Instructions that go through the probe (R186, R188, R189) -/
namespace Sys2Proof.Machine

variable {s s1 : State} {t t1 : Thread} {l : Launch} {g : Workgroup} {i : Instr} {sw : Bool}

theorem SameThreads.keepsGang (h : SameThreads s s1) (hw : t1.wg = t.wg := by rfl) (hi : t1.tid = t.tid := by rfl)
    (hp : t1.place = t.place := by rfl) (hs : t1.seat = t.seat := by rfl) : KeepsGang s s1 t t1 :=
  ⟨h.threads, h.turn, hw, hi, hp, hs⟩

theorem envOf_eq_some : envOf s t = some (l, g) ↔ findLaunch s t.launch = some l ∧ findWg s t.wg = some g := by
  unfold envOf
  cases findLaunch s t.launch <;> cases findWg s t.wg <;> simp

theorem StandsIn.envOf (h : StandsIn s t l g) : envOf s t = some (l, g) := envOf_eq_some.mpr h.2

theorem StandsIn.wg_id (h : StandsIn s t l g) : g.id = t.wg := findWg_id h.2.2

theorem dropWalks_nil (s : State) (cluster asid : Nat) : dropWalks s cluster asid [] = s := by
  simp only [dropWalks, List.any_nil, Bool.and_false, Bool.not_false, List.filter_true]

theorem useWalks_nil (s : State) (cluster asid : Nat) : useWalks s cluster asid [] = s := dropWalks_nil s cluster asid

theorem probeGang_nil (s : State) (h : Home) (ctx : Nat) : probeGang s h ctx [] = none := rfl

theorem probeGang_answered {h : Home} {ctx a : Nat} (hp : probeAt s h.cluster (asidOf s ctx) a ≠ .walking) :
    probeGang s h ctx [a] = none := by
  simp [probeGang, hp]

theorem probeGang_walking {h : Home} {ctx a : Nat} (hp : probeAt s h.cluster (asidOf s ctx) a = .walking) :
    probeGang s h ctx [a] = some (startWalk s h ctx a) := by
  simp [probeGang, hp, foldList]

/-- The addresses that one thread has probed. -/
theorem vas_of_alone {ok : BitVec 2 → Bool} {addrs : State → Thread → List Nat} {a : Nat} (ha : Alone s t)
    (hok : ok t.role = true) (hadd : addrs s t = [a]) :
    ((actives s).filter fun t => ok t.role).flatMap (addrs s) = [a] := by simp [ha.1, hok, hadd]

section
variable {use : State → Nat → Nat → List Nat → State} {ok : BitVec 2 → Bool} {addrs : State → Thread → List Nat}
  {body : State → Thread → State × Thread × Fate} (ha : Alone s t) (henv : envOf s t = some (l, g))
  (he : exec i s = probedWith use i sw ok addrs body s)
include ha henv he

/-- With no address to probe, the thread acts at once. -/
theorem exec_of_no_probe (huse : ∀ s c a, use s c a [] = s) (hno : ok t.role = true → addrs s t = []) :
    exec i s = perThread i sw (withRole ok body) s := by
  have hvas : ((actives s).filter fun t => ok t.role).flatMap (addrs s) = [] := by
    rw [ha.1]
    cases hok : ok t.role with
    | false => simp [hok]
    | true => simp [hok, hno hok]
  rw [he, probedWith, hvas, ha.1]
  simp only [List.head?_cons, Option.bind_some, henv, probeGang_nil, huse, perThread, ha.1]

variable {a : Nat} (hok : ok t.role = true) (hadd : addrs s t = [a])
include hok hadd

/-- With its answer there, the thread acts and the answer is used up. -/
theorem exec_of_probe (hp : probeAt s g.home.cluster (asidOf s g.ctx) a ≠ .walking)
    (hrun : perThread i sw body s = .next s1) : exec i s = .next (use s1 g.home.cluster (asidOf s g.ctx) [a]) := by
  have hbody : withRole ok body s t = body s t := if_pos hok
  have hthreads : runThreads (withRole ok body) s (actives s) = runThreads body s (actives s) := by
    simp only [ha.1, runThreads, hbody]
  rw [he, probedWith, vas_of_alone ha hok hadd, hthreads, ha.1]
  simp only [List.head?_cons, Option.bind_some, henv, probeGang_answered hp]
  rw [perThread, ha.1] at hrun
  rw [Host.Outcome.next.inj hrun]

/-- With no answer yet, it stays and asks for the walk. -/
theorem exec_of_walking (hp : probeAt s g.home.cluster (asidOf s g.ctx) a = .walking) :
    exec i s = .next (startWalk s g.home g.ctx a) := by
  rw [he, probedWith, vas_of_alone ha hok hadd, ha.1]
  simp only [List.head?_cons, Option.bind_some, henv, probeGang_walking hp]

end

/-! ### What the probe finds (R189) -/

section
variable {cluster asid a : Nat}

theorem probeAt_of_entry {e : TlbEntry} (h : tlbAt s cluster asid a = some e) :
    probeAt s cluster asid a = .ok (e.pbase + (a - e.vbase)) e.readable e.writable := by rw [probeAt, h]

theorem probeAt_walking (h : tlbAt s cluster asid a = none)
    (hw : ∀ w, walkAt s cluster asid a = some w → w.failed = none) : probeAt s cluster asid a = .walking := by
  rw [probeAt, h]
  cases hwalk : walkAt s cluster asid a with
  | none => rfl
  | some w => simp only [hw w hwalk]

theorem probeAt_missing {w : Walk} (h : tlbAt s cluster asid a = none) (hw : walkAt s cluster asid a = some w)
    (hf : w.failed = some .missing) : probeAt s cluster asid a = .missing := by simp only [probeAt, h, hw, hf]

theorem probeAt_violation {w : Walk} (h : tlbAt s cluster asid a = none) (hw : walkAt s cluster asid a = some w)
    (hf : w.failed = some .violation) : probeAt s cluster asid a = .violation := by simp only [probeAt, h, hw, hf]

end

end Sys2Proof.Machine
end

section
/-! ### Bytes, and the registers they fill (R13, R25, R190) -/
namespace Sys2Proof.Machine

variable {d : BitVec 6} {bs : List Byte}

theorem readByte_writeBytes {m : Memory} (hm : Memory.wf m = true) (a b : Nat) (bs : List Byte) :
    readByte (writeBytes m a bs) b = if a ≤ b ∧ b < a + bs.length then (bs[b - a]?).getD 0 else readByte m b := by
  induction bs generalizing m a with
  | nil => rw [if_neg (by simp)]; rfl
  | cons x xs ih =>
    rw [writeBytes, ih (writeByte_wf m a x hm), readByte_writeByte hm, List.length_cons]
    rcases Nat.lt_trichotomy b a with h | rfl | h
    · rw [if_neg (by omega), if_neg (by omega), if_neg (by omega)]
    · rw [if_neg (by omega), if_pos rfl, if_pos (by omega), Nat.sub_self]
      rfl
    · rw [if_neg (show b ≠ a by omega), show b - a = b - (a + 1) + 1 by omega, List.getElem?_cons_succ]
      exact if_congr (by omega) rfl rfl

theorem getElem?_readBytes (m : Memory) (a : Nat) {n j : Nat} (hj : j < n) :
    (readBytes m a n)[j]? = some (readByte m (a + j)) := by
  induction n generalizing a j with
  | zero => omega
  | succ n ih =>
    rw [readBytes]
    cases j with
    | zero => rfl
    | succ j => rw [List.getElem?_cons_succ, ih (a + 1) (by omega), Nat.add_right_comm, Nat.add_assoc]

/-- Bytes are those of the number they write. -/
theorem toBytes_ofBytes (bs : List Byte) : toBytes bs.length (ofBytes bs) = bs := by
  induction bs with
  | nil => rfl
  | cons b bs ih =>
    have hb : b.toNat < 256 := b.isLt
    have hlow : BitVec.ofNat 8 (b.toNat + 256 * ofBytes bs) = b := BitVec.eq_of_toNat_eq (by rw [BitVec.toNat_ofNat]; omega)
    rw [List.length_cons, toBytes, ofBytes, hlow, show (b.toNat + 256 * ofBytes bs) / 256 = ofBytes bs by omega, ih]

theorem ofBytes_lt (bs : List Byte) : ofBytes bs < 256 ^ bs.length := by
  rw [← toBytes_ofBytes bs, ofBytes_toBytes, toBytes_length]
  exact Nat.mod_lt _ (by positivity)

theorem wordsOf_length (bs : List Byte) (n : Nat) : (wordsOf bs n).length = n := by
  induction n generalizing bs with
  | zero => rfl
  | succ n ih => rw [wordsOf, List.length_cons, ih]

theorem bytesOfWords_wordsOf {n : Nat} (h : bs.length = 4 * n) : bytesOfWords (wordsOf bs n) = bs := by
  induction n generalizing bs with
  | zero => exact (List.eq_nil_of_length_eq_zero h).symm
  | succ n ih =>
    have hlen : (bs.take 4).length = 4 := by rw [List.length_take]; omega
    have hlt := ofBytes_lt (bs.take 4)
    rw [hlen] at hlt
    have hword : toBytes 4 (BitVec.ofNat 32 (ofBytes (bs.take 4))).toNat = bs.take 4 := by
      rw [BitVec.toNat_ofNat, Nat.mod_eq_of_lt (show _ < 2 ^ 32 from hlt)]
      conv_rhs => rw [← toBytes_ofBytes (bs.take 4), hlen]
    rw [wordsOf, bytesOfWords, hword, ih (by rw [List.length_drop]; omega), List.take_append_drop]

/-! ### What a load writes (R86, R190) -/

theorem ofBytes_one (b : Byte) : ofBytes [b] = b.toNat := rfl

theorem ofBytes_two (b0 b1 : Byte) : ofBytes [b0, b1] = (b1 ++ b0).toNat := by
  rw [toNat_append_eq, ofBytes, ofBytes_one]; omega

theorem ofBytes_four (b0 b1 b2 b3 : Byte) : ofBytes [b0, b1, b2, b3] = (b3 ++ b2 ++ b1 ++ b0).toNat := by
  simp only [toNat_append_eq, ofBytes]; omega

theorem ofInt_sext {n : Nat} (hn : 0 < n) (x : BitVec n) : BitVec.ofInt 32 (sext n x.toNat) = x.signExtend 32 := by
  rw [sext_eq_toInt_ofNat hn, BitVec.ofNat_toNat, BitVec.setWidth_eq]
  rfl

/-- One byte, two and four: zero- or sign-extended to the register. -/
theorem loadWrites_narrow (d : BitVec 6) (b0 b1 b2 b3 : Byte) :
    loadWrites .z8 d [b0] = [(d, b0.setWidth 32)] ∧ loadWrites .s8 d [b0] = [(d, b0.signExtend 32)] ∧
    loadWrites .z16 d [b0, b1] = [(d, (b1 ++ b0).setWidth 32)] ∧ loadWrites .s16 d [b0, b1] = [(d, (b1 ++ b0).signExtend 32)] ∧
    loadWrites .b4 d [b0, b1, b2, b3] = [(d, b3 ++ b2 ++ b1 ++ b0)] := by
  have hfour : loadWrites .b4 d [b0, b1, b2, b3] = [(d + 0#6, BitVec.ofNat 32 (ofBytes [b0, b1, b2, b3]))] := rfl
  refine ⟨?_, ?_, ?_, ?_, ?_⟩
  · rw [loadWrites, ofBytes_one, BitVec.ofNat_toNat]
  · rw [loadWrites, ofBytes_one, ofInt_sext (by decide)]
  · rw [loadWrites, ofBytes_two, BitVec.ofNat_toNat]
  · rw [loadWrites, ofBytes_two, ofInt_sext (by decide)]
  · rw [hfour, ofBytes_four, BitVec.ofNat_toNat, BitVec.add_zero]
    rfl

/-- A wide load fills its group, four bytes a register. -/
theorem loadWrites_wide {k : Access} (hk : k = .b8 ∨ k = .b16 ∨ k = .b32) (hbs : bs.length = k.size) :
    ∃ ws : List Word, loadWrites k d bs = ((List.range k.width.regs).map fun n => d + BitVec.ofNat 6 n).zip ws ∧
      ws.length = k.width.regs ∧ bytesOfWords ws = bs := by
  refine ⟨wordsOf bs k.width.regs, ?_, wordsOf_length .., bytesOfWords_wordsOf ?_⟩
  · rcases hk with rfl | rfl | rfl <;> rfl
  · rcases hk with rfl | rfl | rfl <;> exact hbs

theorem storeBytes_length (k : Access) (r : BitVec 6) (t : Thread) : (storeBytes k r t).length = k.size := by
  rw [storeBytes, List.length_take, bytesOfWords_length, length_getGroup]
  cases k <;> rfl

end Sys2Proof.Machine
end

section
/-! ### Loads and stores of one thread (R186 to R188) -/
namespace Sys2Proof.Machine

variable {s s1 : State} {t t1 : Thread} {l : Launch} {g : Workgroup} {i : Instr} {m : Marks} {c : Space} {k : Access}
  {d : BitVec 6} {a : Nat} {bs : List Byte}

theorem addr1_eq (x : Mem1) (t : Thread) : addr1 x t = m1Address x t := by
  unfold addr1 m1Address
  cases x.c <;> rfl

theorem addr2_eq (x : Mem2) (s : State) (t : Thread) : addr2 x s t = m2Address x s t := by
  have hindex (w : Word) : (if x.sx then w.signExtend 64 else w.setWidth 64).setWidth 32 = w := by
    split
    · exact BitVec.eq_of_getLsbD_eq fun i hi => by
        rw [BitVec.getLsbD_setWidth, BitVec.getLsbD_signExtend]
        simp [hi, show i < 64 by omega]
    · exact BitVec.setWidth_setWidth_of_le w (by decide)
  unfold addr2 m2Address
  dsimp only
  rw [hindex]
  cases x.c <;> rfl

/-- A load goes through the probe with its address, and its body is the load of that address. -/
theorem IsLoad.exec_eq (h : IsLoad s t i m c k d a) : ∃ addrs body,
    exec i s = probedGang i m.sw (memRole c) addrs body s ∧ addrs s t = probedAddr c a k.size true false s t ∧
      body s t = loadAt (wordOf i) m.stop c k d a s t := by
  rcases h with ⟨x, rfl, rfl, rfl, rfl, rfl, rfl⟩ | ⟨x, rfl, rfl, rfl, rfl, rfl, rfl⟩
  · exact ⟨fun s t => probedAddr x.c (addr1 x t) x.k.size true false s t,
      fun s t => loadAt (wordOf (.ld x)) x.m.stop x.c x.k x.t (addr1 x t) s t, rfl, by rw [← addr1_eq], by rw [← addr1_eq]⟩
  · exact ⟨fun s t => probedAddr x.c (addr2 x s t) x.k.size true false s t,
      fun s t => loadAt (wordOf (.ldk x)) x.m.stop x.c x.k x.t (addr2 x s t) s t, rfl, by rw [← addr2_eq], by rw [← addr2_eq]⟩

/-- A store likewise. -/
theorem IsStore.exec_eq (h : IsStore s t i m c bs a) : ∃ addrs body,
    exec i s = probedGang i m.sw (memRole c) addrs body s ∧ addrs s t = probedAddr c a bs.length false true s t ∧
      body s t = storeAt (wordOf i) m.stop c a bs s t := by
  obtain ⟨k, r, hbs, h⟩ := h
  have hbytes : bs = storeBytes k r t := by
    rw [hbs, storeBytes, getGroup, groupRegs, List.map_map]
    rfl
  rw [hbytes, storeBytes_length]
  rcases h with ⟨x, rfl, rfl, rfl, rfl, rfl, rfl⟩ | ⟨x, rfl, rfl, rfl, rfl, rfl, rfl⟩
  · exact ⟨fun s t => probedAddr x.c (addr1 x t) x.k.size false true s t,
      fun s t => storeAt (wordOf (.st x)) x.m.stop x.c (addr1 x t) (storeBytes x.k x.t t) s t, rfl, by rw [← addr1_eq],
      by rw [← addr1_eq]⟩
  · exact ⟨fun s t => probedAddr x.c (addr2 x s t) x.k.size false true s t,
      fun s t => storeAt (wordOf (.stk x)) x.m.stop x.c (addr2 x s t) (storeBytes x.k x.t t) s t, rfl, by rw [← addr2_eq],
      by rw [← addr2_eq]⟩

/-- A scratch, window or far address, and a global one that fails its checks, needs no answer of the probe. -/
theorem probedAddr_eq_nil {align : Nat} {rd wr : Bool} (henv : envOf s t = some (l, g))
    (h : c = .glb → accessOk s l g .glb a align rd wr = false) : probedAddr c a align rd wr s t = [] := by
  unfold probedAddr
  cases c <;> simp only [henv]
  rw [if_neg (by simp [h rfl])]

theorem probedAddr_of_ok {align : Nat} {rd wr : Bool} (henv : envOf s t = some (l, g))
    (h : accessOk s l g .glb a align rd wr = true) : probedAddr .glb a align rd wr s t = [a] := by
  simp only [probedAddr, henv, h, if_true]

theorem memRole_allows (hr : c = .scr ∨ t.role = 0) : memRole c t.role = true := by
  rcases hr with rfl | hr
  · rfl
  · rw [hr, memRole]; split <;> rfl

theorem memRole_forbids (hc : c ≠ .scr) (hr : t.role ≠ 0) : memRole c t.role = false := by
  rw [memRole, if_neg hc]; exact decide_eq_false hr

/-- Where no address is probed, a load or store is what its one thread does. -/
structure ActsAlone (i : Instr) (sw : Bool) (s : State) (t : Thread) (r : State × Thread × Fate) : Prop where
  alone : Alone s t
  acts : ∃ body, exec i s = perThread i sw body s ∧ body s t = r

section
variable {sw : Bool}

theorem ActsAlone.goesOn (h : ActsAlone i sw s t (s1, t1, .next)) (hk : KeepsGang s s1 t t1) : GoesOn i sw s s1 t1 := by
  obtain ⟨ha, body, he, hb⟩ := h
  exact goesOn_of_alone ha he hb hk

theorem ActsAlone.traps {cause code : Nat} {detail : BitVec 64} (h : ActsAlone i sw s t (s, t, .trap cause code detail))
    (hc : cause = 2 → code = 0 ∧ detail = 0) : TakesTrap i s t cause code detail := by
  obtain ⟨ha, body, he, hb⟩ := h
  exact he.trans (one_traps hc ha.1 ha.2 hb)

theorem ActsAlone.traps_in {cause code : Nat} {detail : BitVec 64} (h : ActsAlone i sw s t (s1, t1, .trap cause code detail))
    (hc : cause = 2 → code = 0 ∧ detail = 0) :
    exec i s = .next (settleTurn (takeTrap (setThread s1 t1) [t1] cause code detail (wordOf i))) := by
  obtain ⟨ha, body, he, hb⟩ := h
  exact he.trans (perThread_one_trap i sw body s s1 t t1 cause code detail hc ha.1 hb)

theorem ActsAlone.blocks {wake operand : Nat} {q : Bool} (h : ActsAlone i sw s t (s1, t1, .block wake operand q))
    (hw : wake < 10) (hk : KeepsGang s s1 t t1) : BlocksIn i s s1 t1 wake operand q := by
  obtain ⟨ha, body, he, hb⟩ := h
  exact he.trans (one_blocks ha.1 hb hw hk)

theorem ActsAlone.blocks_unless {stop q : Bool} {wake operand : Nat}
    (h : ActsAlone i sw s t (s, t, blockUnless false stop wake operand q s t)) (hw : wake < 10) (hstop : stop = true)
    (ho : (ordinalOf s t t.pc).isSome = true) : Blocks i s t wake operand q := by
  obtain ⟨ha, body, he, hb⟩ := h
  exact blocks_at_safe_point ha he hw hstop ho hb

end

section
variable (hs : StandsIn s t l g)
include hs

theorem actsAlone_of_no_probe {ok : BitVec 2 → Bool} {addrs : State → Thread → List Nat} {sw : Bool}
    {body : State → Thread → State × Thread × Fate} (he : exec i s = probedWith useWalks i sw ok addrs body s)
    (hok : ok t.role = true) (hno : addrs s t = []) : ActsAlone i sw s t (body s t) :=
  ⟨hs.1, _, exec_of_no_probe hs.1 hs.envOf he useWalks_nil fun _ => hno, if_pos hok⟩

theorem illegal_issue_of_role {ok : BitVec 2 → Bool} {addrs : State → Thread → List Nat} {sw : Bool}
    {body : State → Thread → State × Thread × Fate} (he : exec i s = probedWith useWalks i sw ok addrs body s)
    (hok : ok t.role = false) : TakesTrap i s t 2 0 0 := by
  have hrun := exec_of_no_probe hs.1 hs.envOf he useWalks_nil fun h => absurd h (by simp [hok])
  exact hrun.trans (one_traps (fun _ => ⟨rfl, rfl⟩) hs.1.1 hs.1.2 (if_neg (by simp [hok])))

theorem IsLoad.actsAlone (h : IsLoad s t i m c k d a) (hr : c = .scr ∨ t.role = 0)
    (hno : c = .glb → accessOk s l g .glb a k.size true false = false) :
    ActsAlone i m.sw s t (loadAt (wordOf i) m.stop c k d a s t) := by
  obtain ⟨addrs, body, he, hadd, hbody⟩ := h.exec_eq
  exact hbody ▸ actsAlone_of_no_probe hs he (memRole_allows hr) (hadd.trans (probedAddr_eq_nil hs.envOf hno))

theorem IsStore.actsAlone (h : IsStore s t i m c bs a) (hr : c = .scr ∨ t.role = 0)
    (hno : c = .glb → accessOk s l g .glb a bs.length false true = false) :
    ActsAlone i m.sw s t (storeAt (wordOf i) m.stop c a bs s t) := by
  obtain ⟨addrs, body, he, hadd, hbody⟩ := h.exec_eq
  exact hbody ▸ actsAlone_of_no_probe hs he (memRole_allows hr) (hadd.trans (probedAddr_eq_nil hs.envOf hno))

theorem IsLoad.illegal_issue (h : IsLoad s t i m c k d a) (hc : c ≠ .scr) (hr : t.role ≠ 0) : TakesTrap i s t 2 0 0 := by
  obtain ⟨addrs, body, he, -, -⟩ := h.exec_eq
  exact illegal_issue_of_role hs he (memRole_forbids hc hr)

theorem IsStore.illegal_issue (h : IsStore s t i m c bs a) (hc : c ≠ .scr) (hr : t.role ≠ 0) : TakesTrap i s t 2 0 0 := by
  obtain ⟨addrs, body, he, -, -⟩ := h.exec_eq
  exact illegal_issue_of_role hs he (memRole_forbids hc hr)

end

/-! ### Scratch and the thread's own window (R187, R190) -/

theorem accessOk_scr {align : Nat} {rd wr : Bool} :
    accessOk s l g .scr a align rd wr = true ↔ a < scratchBytes l ∧ a % align = 0 := by
  simp [accessOk, validAddr]

theorem accessOk_win {h : Workgroup} {align : Nat} {rd wr : Bool} (hm : memberOf s l g (a / 2 ^ 20) = some h)
    (hlt : a % 2 ^ 20 < scratchBytes l) (hal : a % align = 0) : accessOk s l g .win a align rd wr = true := by
  simp only [accessOk, validAddr, hm, hlt, hal, Option.isSome_some, decide_true, Bool.and_self]

theorem windowMember_eq {h : Workgroup} (hm : memberOf s l g (a / 2 ^ 20) = some h) : windowMember s l g a = h.id := by
  rw [windowMember, hm]

theorem sendCounted_sameThreads (s : State) (r : Req) : SameThreads s (sendCounted s r) := ⟨rfl, rfl⟩

section
variable (hs : StandsIn s t l g)
include hs

theorem loadAt_scr {word : BitVec 32} {stop : Bool} : loadAt word stop .scr k d a s t =
    if accessOk s l g .scr a k.size true false then
      (s, addPend t (.value (loadWrites k d (readBytes g.scratch a k.size))), .next)
    else (s, t, accessTrap a) := by
  simp only [loadAt, hs.envOf]
  cases accessOk s l g .scr a k.size true false <;> rfl

theorem storeAt_scr {word : BitVec 32} {stop : Bool} : storeAt word stop .scr a bs s t =
    if accessOk s l g .scr a bs.length false true then (scratchWrite s t.wg a bs, t, .next) else (s, t, accessTrap a) := by
  simp only [storeAt, hs.envOf, hs.wg_id]
  cases accessOk s l g .scr a bs.length false true <;> rfl

theorem loadAt_win {h : Workgroup} {word : BitVec 32} {stop : Bool} (hm : memberOf s l g (a / 2 ^ 20) = some h)
    (hlt : a % 2 ^ 20 < scratchBytes l) (hal : a % k.size = 0) : loadAt word stop .win k d a s t =
    if h.id = g.id then (s, addPend t (.value (loadWrites k d (readBytes g.scratch (a % 2 ^ 20) k.size))), .next)
    else (sendCounted s { messageOf s t g (a % 2 ^ 20) 0 (.window h.id none k.size) with loc := h.id },
      addPend t (.load s.nextId k (a % 2 ^ 20) [] d), .next) := by
  simp only [loadAt, hs.envOf, accessOk_win hm hlt hal, windowMember_eq hm]
  rfl

theorem storeAt_win {h : Workgroup} {word : BitVec 32} {stop : Bool} (hm : memberOf s l g (a / 2 ^ 20) = some h)
    (hlt : a % 2 ^ 20 < scratchBytes l) (hal : a % bs.length = 0) : storeAt word stop .win a bs s t =
    if h.id = g.id then (scratchWrite s t.wg (a % 2 ^ 20) bs, t, .next)
    else (sendCounted s { messageOf s t g (a % 2 ^ 20) 0 (.window h.id (some bs) bs.length) with loc := h.id }, t, .next) := by
  simp only [storeAt, hs.envOf, accessOk_win hm hlt hal, windowMember_eq hm, hs.wg_id]
  rfl

theorem scratchLoad (h : IsLoad s t i m .scr k d a) :
    (a < scratchBytes l ∧ a % k.size = 0 → GoesOn i m.sw s s
      { t with pend := t.pend ++ [.value (loadWrites k d (readBytes g.scratch a k.size))] }) ∧
    (¬ (a < scratchBytes l ∧ a % k.size = 0) → TakesTrap i s t 14 0 (BitVec.ofNat 64 a)) := by
  have hacts := h.actsAlone hs (.inl rfl) nofun
  rw [loadAt_scr hs] at hacts
  refine ⟨fun hok => ?_, fun hno => ?_⟩
  · rw [if_pos (accessOk_scr.mpr hok)] at hacts
    exact hacts.goesOn (SameThreads.refl s).keepsGang
  · rw [if_neg (mt accessOk_scr.mp hno)] at hacts
    exact hacts.traps nofun

theorem scratchStore (h : IsStore s t i m .scr bs a) :
    (a < scratchBytes l ∧ a % bs.length = 0 → GoesOn i m.sw s
      (updWg s t.wg fun g => { g with scratch := writeBytes g.scratch a bs }) t) ∧
    (¬ (a < scratchBytes l ∧ a % bs.length = 0) → TakesTrap i s t 14 0 (BitVec.ofNat 64 a)) := by
  have hacts := h.actsAlone hs (.inl rfl) nofun
  rw [storeAt_scr hs] at hacts
  refine ⟨fun hok => ?_, fun hno => ?_⟩
  · rw [if_pos (accessOk_scr.mpr hok)] at hacts
    exact hacts.goesOn ⟨rfl, rfl, rfl, rfl, rfl, rfl⟩
  · rw [if_neg (mt accessOk_scr.mp hno)] at hacts
    exact hacts.traps nofun

end

/-- Settles O25: a legal access by what the thread does at its scratch or sends, any other by the check it fails. -/
theorem scratchLoadsAndStores : Obligations.ScratchLoadsAndStores := by
  refine ⟨fun s t l g i m k d a hs h => scratchLoad hs h, fun s t l g i m bs a hs h => scratchStore hs h,
    fun s t l g h i m k d a hs hr hi hm hlt hal => ?load, fun s t l g h i m bs a hs hr hi hm hlt hal => ?store,
    fun mem a b bs hm => readByte_writeBytes hm a b bs,
    fun mem a n => ⟨readBytes_length mem a n, fun j => getElem?_readBytes mem a⟩, loadWrites_narrow,
    fun d k bs => loadWrites_wide⟩
  case load =>
    have hacts := hi.actsAlone hs (.inr hr) nofun
    rw [loadAt_win hs hm hlt hal] at hacts
    refine ⟨fun he => ?_, fun he => ?_⟩
    · rw [if_pos he] at hacts
      exact hacts.goesOn (SameThreads.refl s).keepsGang
    · rw [if_neg he] at hacts
      exact hacts.goesOn (sendCounted_sameThreads ..).keepsGang
  case store =>
    have hacts := hi.actsAlone hs (.inr hr) nofun
    rw [storeAt_win hs hm hlt hal] at hacts
    refine ⟨fun he => ?_, fun he => ?_⟩
    · rw [if_pos he] at hacts
      exact hacts.goesOn ⟨rfl, rfl, rfl, rfl, rfl, rfl⟩
    · rw [if_neg he] at hacts
      exact hacts.goesOn (sendCounted_sameThreads ..).keepsGang

end Sys2Proof.Machine
end

section
/-! ### What the caches and their messages change (R285, R306 to R311, R197) -/
namespace Sys2Proof.Machine

variable {s s' s'' : State}

/-- Only L1 lines, messages and their numbers, and the contexts' counters have changed. -/
def CachesOnly (s s' : State) : Prop :=
  s' = { s with l1 := s'.l1, reqs := s'.reqs, contexts := s'.contexts, nextId := s'.nextId }

theorem CachesOnly.eq (h : CachesOnly s s') :
    s' = { s with l1 := s'.l1, reqs := s'.reqs, contexts := s'.contexts, nextId := s'.nextId } := h

theorem CachesOnly.refl (s : State) : CachesOnly s s := rfl

theorem CachesOnly.trans (h : CachesOnly s s') (h' : CachesOnly s' s'') : CachesOnly s s'' := by
  unfold CachesOnly at *
  rw [h'] at ⊢
  rw [h]

theorem CachesOnly.sameThreads (h : CachesOnly s s') : SameThreads s s' := ⟨by rw [h.eq], by rw [h.eq]⟩

theorem CachesOnly.mem (h : CachesOnly s s') : s'.mem = s.mem := by rw [h.eq]

theorem CachesOnly.wgs (h : CachesOnly s s') : s'.wgs = s.wgs := by rw [h.eq]

theorem CachesOnly.launches (h : CachesOnly s s') : s'.launches = s.launches := by rw [h.eq]

theorem sendCounted_cachesOnly (s : State) (r : Req) : CachesOnly s (sendCounted s r) := rfl

theorem setLine_cachesOnly (s : State) (x : L1Line) : CachesOnly s (setLine s x) := rfl

theorem stopFills_cachesOnly (s : State) (h : Home) (p : Req → Bool) : CachesOnly s (stopFills s h p) := rfl

theorem bumpCounter_cachesOnly (s : State) (ctx : Nat) (h : Home) (n m : Nat) : CachesOnly s (bumpCounter s ctx h n m) := rfl

theorem writeBackSectors_cachesOnly (s : State) (p : Nat → Bool) (x : L1Line) (ctx wg tid : Nat) :
    CachesOnly s (writeBackSectors s p x ctx wg tid).1 := by
  unfold writeBackSectors
  extract_lets bytes n s1 r
  have hs1 : CachesOnly s s1 := (stopFills_cachesOnly s x.home _).trans (setLine_cachesOnly ..)
  split
  · exact .refl s
  · exact (hs1.trans (sendCounted_cachesOnly ..)).trans (bumpCounter_cachesOnly ..)

theorem writeBackLine_cachesOnly (s : State) (x : L1Line) (ctx wg tid : Nat) :
    CachesOnly s (writeBackLine s x ctx wg tid).1 := writeBackSectors_cachesOnly ..

theorem invalidateLine_cachesOnly (s : State) (x : L1Line) (ctx wg tid : Nat) :
    CachesOnly s (invalidateLine s x ctx wg tid).1 := (writeBackLine_cachesOnly s x ctx wg tid).trans rfl

theorem overLines_cachesOnly {act : State → L1Line → State × List Nat} (hact : ∀ s x, CachesOnly s (act s x).1)
    (s : State) (xs : List L1Line) : CachesOnly s (overLines act s xs).1 := by
  induction xs generalizing s with
  | nil => exact .refl s
  | cons x xs ih => exact (hact s x).trans (ih _)

theorem freeWay_cachesOnly (s : State) (h : Home) (vline ways ctx wg : Nat) :
    CachesOnly s (freeWay s h vline ways ctx wg).1 := by
  unfold freeWay
  dsimp only
  split
  · exact .refl s
  · split
    · exact invalidateLine_cachesOnly ..
    · exact .refl s

theorem allocLine_cachesOnly (s : State) (h : Home) (ctx wg va pa ways : Nat) :
    CachesOnly s (allocLine s h ctx wg va pa ways).1 := by
  unfold allocLine
  dsimp only
  split
  · exact .refl s
  · split
    · rfl
    · exact (freeWay_cachesOnly ..).trans rfl

theorem l1Store_cachesOnly (s : State) (h : Home) (ctx wg va pa ways : Nat) (bs : List Byte) :
    CachesOnly s (l1Store s h ctx wg va pa ways bs) := (allocLine_cachesOnly s h ctx wg va pa ways).trans rfl

theorem releaseObject_cachesOnly (s : State) (l : Launch) (g : Workgroup) (tid obj : Nat) :
    CachesOnly s (releaseObject s l g tid obj).1 := overLines_cachesOnly (fun _ _ => writeBackLine_cachesOnly ..) s _

theorem acquireObject_cachesOnly (s : State) (l : Launch) (g : Workgroup) (tid obj : Nat) :
    CachesOnly s (acquireObject s l g tid obj) :=
  (overLines_cachesOnly (fun _ _ => invalidateLine_cachesOnly ..) s _).trans rfl

theorem acquireFor_cachesOnly (s : State) (t : Thread) (obj : Nat) : CachesOnly s (acquireFor s t obj) := by
  unfold acquireFor
  split
  · exact acquireObject_cachesOnly ..
  · exact .refl s

theorem sectorOut_cachesOnly (s : State) (g : Workgroup) (tid va pa : Nat) : CachesOnly s (sectorOut s g tid va pa) := by
  unfold sectorOut
  extract_lets s0
  have hs0 : CachesOnly s s0 := stopFills_cachesOnly ..
  split
  · exact hs0
  next y =>
    extract_lets s1
    have hs1 : CachesOnly s s1 := hs0.trans (writeBackSectors_cachesOnly ..)
    split
    · exact hs1
    · exact hs1.trans (setLine_cachesOnly ..)

/-! ### A store into a line (R307) -/

theorem find?_line {xs : List L1Line} {p : L1Line → Bool} {x : L1Line} (h : xs.find? p = some x) : x ∈ xs ∧ p x = true :=
  ⟨List.mem_of_find?_eq_some h, List.find?_some h⟩

theorem l1Store_line {h : Home} {ctx wg va pa ways : Nat} {bs : List Byte} {x : L1Line}
    (hx : lineAt s h (asidOf s ctx) va = some x) : l1Store s h ctx wg va pa ways bs = setLine s { x with
      data := writeBytes x.data (va % 128) bs
      mask := x.mask ||| bitsWhere 128 fun i => decide (va % 128 ≤ i) && decide (i < va % 128 + bs.length)
      used := nextUse s h } := by
  have halloc : allocLine s h ctx wg va pa ways = (s, x) := by simp only [allocLine, hx]
  rw [l1Store, halloc]

theorem l1Store_fills {h : Home} {ctx wg va pa ways : Nat} {bs : List Byte} {x : L1Line}
    (hx : lineAt s h (asidOf s ctx) va = some x) (hwf : Memory.wf x.data = true) :
    (∀ y ∈ s.l1, ¬ (y.home = x.home ∧ y.pline = x.pline) → y ∈ (l1Store s h ctx wg va pa ways bs).l1) ∧
      ∃ y ∈ (l1Store s h ctx wg va pa ways bs).l1, y.home = x.home ∧ y.pline = x.pline ∧ y.valid = x.valid ∧
        (∀ j, j < 128 → readByte y.data j =
          if va % 128 ≤ j ∧ j < va % 128 + bs.length then (bs[j - va % 128]?).getD 0 else readByte x.data j) ∧
        ∀ j, j < 128 → y.mask.getLsbD j =
          (x.mask.getLsbD j || decide (va % 128 ≤ j ∧ j < va % 128 + bs.length)) := by
  rw [l1Store_line hx]
  refine ⟨fun y hy hne => List.mem_map.mpr ⟨y, hy, if_neg (by simpa using hne)⟩,
    _, mem_setLine (List.mem_of_find?_eq_some hx) rfl rfl, rfl, rfl, rfl, fun j _ => readByte_writeBytes hwf _ j bs,
    fun j hj => ?_⟩
  rw [BitVec.getLsbD_or, getLsbD_bitsWhere hj, Bool.decide_and]

/-! ### Patches (R307) -/

theorem patchGet_patchSet (p : Patch) (a b : Nat) (x : Byte) :
    patchGet (patchSet p a x) b = if a = b then some x else patchGet p b := by
  induction p with
  | nil => rfl
  | cons c p ih =>
    obtain ⟨y, c⟩ := c
    rw [patchSet]
    split
    · rfl
    · split
      next e =>
        subst e
        simp only [patchGet]
        split <;> rfl
      next h => 
        rw [patchGet, patchGet, ih]
        by_cases hy : y = b
        · rw [if_pos hy, if_pos hy, if_neg (by omega)]
        · rw [if_neg hy, if_neg hy]

theorem patchGet_patchBytes (p : Patch) (a : Nat) (bs : List Byte) (b : Nat) :
    patchGet (patchBytes p a bs) b = if a ≤ b ∧ b < a + bs.length then bs[b - a]? else patchGet p b := by
  induction bs generalizing p a with
  | nil => rw [if_neg (by simp)]; rfl
  | cons x xs ih =>
    rw [patchBytes, ih, patchGet_patchSet, List.length_cons]
    rcases Nat.lt_trichotomy b a with h | rfl | h
    · rw [if_neg (by omega), if_neg (by omega), if_neg (by omega)]
    · rw [if_neg (by omega), if_pos rfl, if_pos (by omega), Nat.sub_self]
      rfl
    · rw [if_neg (show a ≠ b by omega), show b - a = b - (a + 1) + 1 by omega, List.getElem?_cons_succ]
      exact if_congr (by omega) rfl rfl

end Sys2Proof.Machine
end

section
/-! ### One probed address (R188, R189) -/
namespace Sys2Proof.Machine

variable {s s1 : State} {t t1 : Thread} {l : Launch} {g : Workgroup} {i : Instr} {sw : Bool} {a : Nat}

/-- One thread acts on one global address that goes through the probe. -/
structure ActsAt (i : Instr) (sw : Bool) (s : State) (t : Thread) (g : Workgroup) (a : Nat)
    (r : State × Thread × Fate) : Prop where
  alone : Alone s t
  waits : probeAt s g.home.cluster (asidOf s g.ctx) a = .walking → exec i s = .next (startWalk s g.home g.ctx a)
  acts : ∃ body, body s t = r ∧ ∀ s', probeAt s g.home.cluster (asidOf s g.ctx) a ≠ .walking →
    perThread i sw body s = .next s' → exec i s = .next (useWalks s' g.home.cluster (asidOf s g.ctx) [a])

theorem actsAt_of_probe {ok : BitVec 2 → Bool} {addrs : State → Thread → List Nat}
    {body : State → Thread → State × Thread × Fate} (hs : StandsIn s t l g)
    (he : exec i s = probedWith useWalks i sw ok addrs body s) (hok : ok t.role = true) (hadd : addrs s t = [a]) :
    ActsAt i sw s t g a (body s t) :=
  ⟨hs.1, exec_of_walking hs.1 hs.envOf he hok hadd, body, rfl, fun _ hp hrun => exec_of_probe hs.1 hs.envOf he hok hadd hp hrun⟩

section
variable (hp : probeAt s g.home.cluster (asidOf s g.ctx) a ≠ .walking)
include hp

theorem ActsAt.goesOn (h : ActsAt i sw s t g a (s1, t1, .next)) (hk : KeepsGang s s1 t t1) :
    GoesOnAt i sw s s1 t1 g a := by
  obtain ⟨ha, -, body, hb, hrun⟩ := h
  exact hrun _ hp (one_goes_on ha.1 hb hk)

theorem ActsAt.traps (h : ActsAt i sw s t g a (s1, t, accessTrap a)) : TrapsAt i s s1 t g a 14 := by
  obtain ⟨ha, -, body, hb, hrun⟩ := h
  exact hrun _ hp (perThread_one_trap i sw body s s1 t t 14 0 _ nofun ha.1 hb)

theorem ActsAt.logs {e : LogEntry} (h : ActsAt i sw s t g a (s, t, .logged e)) :
    exec i s = .next (useWalks (setThread s { retire (lengthOf i) sw t with log := some e })
      g.home.cluster (asidOf s g.ctx) [a]) := by
  obtain ⟨ha, -, body, hb, hrun⟩ := h
  exact hrun _ hp (one_is_logged ha.1 hb (SameThreads.refl s).keepsGang)

end

/-! ### What a probed access is answered -/

section
variable {rd wr : Bool} {x : LogEntry}

theorem probeAccess_missing (h : probeAt s g.home.cluster (asidOf s g.ctx) a = .missing) :
    probeAccess s g a rd wr x = .error (.logged x) := by rw [probeAccess, h]

theorem probeAccess_violation (h : probeAt s g.home.cluster (asidOf s g.ctx) a = .violation) :
    probeAccess s g a rd wr x = .error (accessTrap a) := by rw [probeAccess, h]

theorem probe_answered {e : TlbEntry} (he : tlbAt s g.home.cluster (asidOf s g.ctx) a = some e) :
    probeAt s g.home.cluster (asidOf s g.ctx) a ≠ .walking := by
  rw [probeAt_of_entry he]; exact nofun

/-- A page at hand: the address where the page permits the access. -/
theorem probeAccess_entry {e : TlbEntry} (he : tlbAt s g.home.cluster (asidOf s g.ctx) a = some e) :
    probeAccess s g a rd wr x = if permits s g.ctx a rd wr (.ok (e.pbase + (a - e.vbase)) e.readable e.writable)
      then .ok (e.pbase + (a - e.vbase)) else .error (accessTrap a) := by
  simp only [probeAccess, probeAt_of_entry he]

theorem permits_eq_true {pa : Nat} {r w : Bool} : permits s g.ctx a rd wr (.ok pa r w) = true ↔
    (rd = true → r = true) ∧ (wr = true → w = true ∧ freezeFor s g.ctx a 1 pa = none) := by
  cases rd <;> cases wr <;> simp [permits]

theorem deniedStore_of_no_entry (h : tlbAt s g.home.cluster (asidOf s g.ctx) a = none) : deniedStore s g a = s := by
  unfold deniedStore probeAt
  rw [h]
  cases walkAt s g.home.cluster (asidOf s g.ctx) a with
  | none => rfl
  | some w =>
    cases hf : w.failed with
    | none => simp only [hf]
    | some f => cases f <;> simp only [hf]

theorem deniedStore_of_entry {e : TlbEntry} (he : tlbAt s g.home.cluster (asidOf s g.ctx) a = some e) :
    deniedStore s g a = (freezeFor s g.ctx a 1 (e.pbase + (a - e.vbase))).getD s := by
  simp only [deniedStore, probeAt_of_entry he]

/-- An access acts by what the probe answers: it is turned away, in a state of its own, or performed at the physical
address. -/
def answeredBy (denied : State) (t : Thread) (act : Nat → State × Thread × Fate) :
    Except Fate Nat → State × Thread × Fate
  | .error f => (denied, t, f)
  | .ok pa => act pa

variable {act : Nat → State × Thread × Fate}

/-- Without a page at hand: the walk is asked for, the instruction enters the operand log, or it is an ACCESS trap. -/
theorem ActsAt.unanswered (h : ActsAt i sw s t g a (answeredBy s t act (probeAccess s g a rd wr x)))
    (hn : tlbAt s g.home.cluster (asidOf s g.ctx) a = none) :
    ((∀ w, walkAt s g.home.cluster (asidOf s g.ctx) a = some w → w.failed = none) →
      exec i s = .next (startWalk s g.home g.ctx a)) ∧
    ∀ w, walkAt s g.home.cluster (asidOf s g.ctx) a = some w →
      (w.failed = some .missing → exec i s = .next (useWalks (setThread s
        { retire (lengthOf i) sw t with log := some x }) g.home.cluster (asidOf s g.ctx) [a])) ∧
      (w.failed = some .violation → TrapsAt i s s t g a 14) := by
  refine ⟨fun hw => h.waits (probeAt_walking hn hw), fun w hw => ⟨fun hf => ?_, fun hf => ?_⟩⟩
  · have hp := probeAt_missing hn hw hf
    rw [probeAccess_missing hp] at h
    exact h.logs (by rw [hp]; decide)
  · have hp := probeAt_violation hn hw hf
    rw [probeAccess_violation hp] at h
    exact h.traps (by rw [hp]; decide)

section
variable (h : ActsAt i sw s t g a (answeredBy s1 t act (probeAccess s g a rd wr x))) {e : TlbEntry}
  (he : tlbAt s g.home.cluster (asidOf s g.ctx) a = some e)
include h he

/-- A page that does not permit the access: an ACCESS trap. -/
theorem ActsAt.denied (hno : permits s g.ctx a rd wr (.ok (e.pbase + (a - e.vbase)) e.readable e.writable) ≠ true) :
    TrapsAt i s s1 t g a 14 := by
  rw [probeAccess_entry he, if_neg hno] at h
  exact h.traps (probe_answered he)

/-- A page that permits it: the access acts at the physical address. -/
theorem ActsAt.permitted (hok : permits s g.ctx a rd wr (.ok (e.pbase + (a - e.vbase)) e.readable e.writable) = true) :
    ActsAt i sw s t g a (act (e.pbase + (a - e.vbase))) := by
  rwa [probeAccess_entry he, if_pos hok] at h

end

end

end Sys2Proof.Machine
end

section
/-! ### Global loads and stores (R187 to R192, R307, R418) -/
namespace Sys2Proof.Machine

variable {s s1 : State} {t : Thread} {l : Launch} {g : Workgroup} {i : Instr} {m : Marks} {k : Access} {d : BitVec 6}
  {a pa : Nat} {bs : List Byte}

/-! ### The checks before the probe (R187, R188) -/

theorem mode_allows {mode : Nat} {rd wr : Bool} :
    (match mode with
      | 1 => !wr
      | 2 => !rd
      | 3 => !wr
      | _ => true) = true ↔ (mode = 1 → wr = false) ∧ (mode = 2 → rd = false) ∧ (mode = 3 → wr = false) := by
  split
  · simp
  · simp
  · simp
  next h1 h2 h3 => exact iff_of_true rfl ⟨fun h => absurd h h1, fun h => absurd h h2, fun h => absurd h h3⟩

theorem regionAllows_eq_true {rd wr : Bool} : regionAllows l a rd wr = true ↔
    ∀ r ∈ l.lr.regions, r.base ≤ a → a < r.base + r.size →
      (r.mode = 1 → wr = false) ∧ (r.mode = 2 → rd = false) ∧ (r.mode = 3 → wr = false) := by
  simp only [regionAllows, regionsAt, List.all_eq_true, List.mem_filter, Bool.and_eq_true, decide_eq_true_eq, and_imp]
  exact forall₄_congr fun r _ _ _ => mode_allows

theorem accessOk_glb {align : Nat} {rd wr : Bool} : accessOk s l g .glb a align rd wr = true ↔
    a < 2 ^ 52 ∧ a % align = 0 ∧
    (∀ r ∈ l.lr.regions, r.base ≤ a → a < r.base + r.size →
      (r.mode = 1 → wr = false) ∧ (r.mode = 2 → rd = false) ∧ (r.mode = 3 → wr = false)) ∧
    (wr = true → inCounterPage s g.ctx a = false ∧ inTrapBin s g.ctx a = false) := by
  rw [← regionAllows_eq_true]
  cases wr <;> simp [accessOk, validAddr, and_assoc]

/-! ### A load that passed the probe (R192, R307, R312) -/

theorem counterLoad_length (s : State) (g : Workgroup) (a : Nat) {n : Nat} (hn : n ≤ 32) :
    (counterLoad s g a n).length = n := by
  unfold counterLoad
  split
  · exact List.length_replicate
  next c _ =>
    dsimp only
    rw [List.length_take, List.length_drop, List.length_flatMap]
    simp only [toBytes_length, List.map_const', List.length_range, List.sum_replicate_nat]
    omega

theorem size_le (k : Access) : k.size ≤ 32 := by cases k <;> decide

theorem loadAt_glb {word : BitVec 32} {stop : Bool} (hs : StandsIn s t l g) : loadAt word stop .glb k d a s t =
    if accessOk s l g .glb a k.size true false then
      answeredBy s t (fun pa => ((globalLoad s t l g k d a pa).1, (globalLoad s t l g k d a pa).2, .next))
        (probeAccess s g a true false ⟨word, t.pc, BitVec.ofNat 64 a, []⟩)
    else (s, t, accessTrap a) := by
  simp only [loadAt, hs.envOf]
  cases accessOk s l g .glb a k.size true false with
  | false => rfl
  | true => cases probeAccess s g a true false ⟨word, t.pc, BitVec.ofNat 64 a, []⟩ <;> rfl

theorem storeAt_glb {word : BitVec 32} {stop : Bool} (hs : StandsIn s t l g) : storeAt word stop .glb a bs s t =
    if accessOk s l g .glb a bs.length false true then
      answeredBy (deniedStore s g a) t (fun pa => (globalStore s t l g a pa bs, t, .next))
        (probeAccess s g a false true ⟨word, t.pc, BitVec.ofNat 64 a, bs⟩)
    else (s, t, accessTrap a) := by
  simp only [storeAt, hs.envOf]
  cases accessOk s l g .glb a bs.length false true with
  | false => rfl
  | true => cases probeAccess s g a false true ⟨word, t.pc, BitVec.ofNat 64 a, bs⟩ <;> rfl

theorem IsLoad.actsAt (h : IsLoad s t i m .glb k d a) (hs : StandsIn s t l g) (hr : t.role = 0)
    (hok : accessOk s l g .glb a k.size true false = true) : ActsAt i m.sw s t g a
      (answeredBy s t (fun pa => ((globalLoad s t l g k d a pa).1, (globalLoad s t l g k d a pa).2, .next))
        (probeAccess s g a true false ⟨wordOf i, t.pc, BitVec.ofNat 64 a, []⟩)) := by
  obtain ⟨addrs, body, he, hadd, hbody⟩ := h.exec_eq
  have hacts := actsAt_of_probe hs he (memRole_allows (.inr hr)) (hadd.trans (probedAddr_of_ok hs.envOf hok))
  rwa [hbody, loadAt_glb hs, if_pos hok] at hacts

theorem IsStore.actsAt (h : IsStore s t i m .glb bs a) (hs : StandsIn s t l g) (hr : t.role = 0)
    (hok : accessOk s l g .glb a bs.length false true = true) : ActsAt i m.sw s t g a
      (answeredBy (deniedStore s g a) t (fun pa => (globalStore s t l g a pa bs, t, .next))
        (probeAccess s g a false true ⟨wordOf i, t.pc, BitVec.ofNat 64 a, bs⟩)) := by
  obtain ⟨addrs, body, he, hadd, hbody⟩ := h.exec_eq
  have hacts := actsAt_of_probe hs he (memRole_allows (.inr hr)) (hadd.trans (probedAddr_of_ok hs.envOf hok))
  rwa [hbody, storeAt_glb hs, if_pos hok] at hacts

theorem globalLoad_counter (h : inCounterPage s g.ctx a = true) :
    globalLoad s t l g k d a pa = (s, addPend t (.value (loadWrites k d (counterLoad s g a k.size)))) := by
  rw [globalLoad, if_pos h]

/-- With no L1, or in a trap bin, the read goes to the home slice. -/
theorem globalLoad_uncached (h : inCounterPage s g.ctx a = false) (hu : l1Ways l = 0 ∨ inTrapBin s g.ctx a = true) :
    globalLoad s t l g k d a pa =
      (sendCounted s (messageOf s t g a pa (.read k.size)), addPend t (.load s.nextId k a [] d)) := by
  simp only [globalLoad, h, Bool.false_eq_true, if_false, if_pos hu]
  rfl

/-- The bytes of an access that the home's L1 has, under the line's own tag or another. -/
def l1Got (s : State) (g : Workgroup) (a pa z : Nat) : Patch :=
  match lineAt s g.home (asidOf s g.ctx) a with
  | some x => lineGot x a z
  | none => match aliasAt s g.home pa with
    | some x => lineGot x a z
    | none => []

theorem lineGot_whole {x : L1Line} {z : Nat} (h : ∀ j, j < z → lineHas x ((a + j) % 128) = true) :
    lineGot x a z = (List.range z).map fun j => (a + j, readByte x.data ((a + j) % 128)) := by
  rw [lineGot, ← List.filterMap_eq_map]
  exact List.filterMap_congr fun j hj => if_pos (h j (List.mem_range.mp hj))

section
variable (hc : inCounterPage s g.ctx a = false) (hw : l1Ways l ≠ 0) (ht : inTrapBin s g.ctx a = false)
include hc hw ht

/-- The line holds every byte of the load. -/
theorem globalLoad_hit {x : L1Line} (hx : lineAt s g.home (asidOf s g.ctx) a = some x)
    (hall : ∀ j, j < k.size → lineHas x ((a + j) % 128) = true) : globalLoad s t l g k d a pa =
      (bumpCounter { s with l1 := s.l1.map fun y => if y = x then { y with used := nextUse s g.home } else y } g.ctx g.home 0 1,
        addPend t (.value (loadWrites k d ((List.range k.size).map fun j => readByte x.data ((a + j) % 128))))) := by
  have hlen : (lineGot x a k.size).length = k.size := by rw [lineGot_whole hall]; simp
  have hbytes : (lineGot x a k.size).map Prod.snd = (List.range k.size).map fun j => readByte x.data ((a + j) % 128) := by
    rw [lineGot_whole hall, List.map_map]
    rfl
  simp only [globalLoad, hc, hw, ht, Bool.false_eq_true, or_self, if_false, hx, Option.isSome_some, Bool.true_and, hlen,
    decide_true, if_true, hbytes, Option.some.injEq]

/-- Some byte of it is not there: the read goes to the peer that the predictor names for a forwardable line, else to the
home slice. -/
theorem globalLoad_miss (hmiss : lineAt s g.home (asidOf s g.ctx) a = none ∨ (l1Got s g a pa k.size).length ≠ k.size) :
    let missed := bumpCounter (stopInstall s g.home (pa / 128)) g.ctx g.home 1 1
    let asks := { messageOf s t g a pa (.read k.size) with install := true, fwd := forwardable l a }
    let trained := s.predictor.find? fun p =>
      decide (p.cluster = g.home.cluster) && decide (p.index = (field pa 14 7 ^^^ field pa 22 15))
    (forwardable l a = false ∨ trained = none → globalLoad s t l g k d a pa =
      (sendCounted missed asks, addPend t (.load s.nextId k a (l1Got s g a pa k.size) d))) ∧
    ∀ p, forwardable l a = true → trained = some p → globalLoad s t l g k d a pa =
      (bumpCounter (sendCounted missed { asks with stage := .toPeer p.peer }) g.ctx g.home 3 1,
        addPend t (.load s.nextId k a (l1Got s g a pa k.size) d)) := by
  intro missed asks trained
  have hno : ((lineAt s g.home (asidOf s g.ctx) a).isSome && decide ((l1Got s g a pa k.size).length = k.size)) ≠ true := by
    rcases hmiss with h | h <;> simp [h]
  have hsent : globalLoad s t l g k d a pa = match forwardable l a, trained with
      | true, some p => (bumpCounter (sendCounted missed { asks with stage := .toPeer p.peer }) g.ctx g.home 3 1,
          addPend t (.load s.nextId k a (l1Got s g a pa k.size) d))
      | _, _ => (sendCounted missed asks, addPend t (.load s.nextId k a (l1Got s g a pa k.size) d)) := by
    rw [globalLoad, if_neg (by simp [hc]), if_neg (by simp [hw, ht])]
    exact if_neg hno
  rw [hsent]
  refine ⟨fun h => ?_, fun p hf hp => by rw [hf, hp]⟩
  split
  next p hf hp =>
    rcases h with h | h
    · rw [hf] at h; cases h
    · rw [hp] at h; cases h
  next => rfl

end

theorem globalAccessesAreChecked : Claims.GlobalAccessesAreChecked := by
  refine ⟨fun s l g a align rd wr => accessOk_glb, fun s t l g i m c a hs => ⟨fun h hr => ?access, fun h hc hr => ?role⟩⟩
  case access =>
    rcases h with ⟨k, d, hi, hno⟩ | ⟨bs, hi, hno⟩
    · have hacts := hi.actsAlone hs (.inr hr) fun _ => hno
      rw [loadAt_glb hs, hno] at hacts
      exact hacts.traps nofun
    · have hacts := hi.actsAlone hs (.inr hr) fun _ => hno
      rw [storeAt_glb hs, hno] at hacts
      exact hacts.traps nofun
  case role =>
    rcases h with ⟨k, d, hi⟩ | ⟨bs, hi⟩
    · exact hi.illegal_issue hs hc hr
    · exact hi.illegal_issue hs hc hr

theorem globalLoadsHitOrSend : Claims.GlobalLoadsHitOrSend := by
  intro s t l g i m k d a hs hr hi hok asid
  have hacts := hi.actsAt hs hr hok
  refine ⟨fun hn => (hacts.unanswered hn).1, fun hn => (hacts.unanswered hn).2, fun e he => ?_⟩
  intro pa
  have hp := probe_answered he
  have hreads : e.readable = true → ActsAt i m.sw s t g a
      ((globalLoad s t l g k d a pa).1, (globalLoad s t l g k d a pa).2, .next) := fun hread =>
    hacts.permitted he (permits_eq_true.mpr ⟨fun _ => hread, nofun⟩)
  have hnext {s1 : State} {t1 : Thread} (hread : e.readable = true) (hl : globalLoad s t l g k d a pa = (s1, t1))
      (hk : KeepsGang s s1 t t1) : GoesOnAt i m.sw s s1 t1 g a := by
    have h := hreads hread
    rw [hl] at h
    exact h.goesOn hp hk
  refine ⟨fun hno => hacts.denied he fun h => ?_, fun hread hc => ⟨_, counterLoad_length s g a (size_le k), ?_⟩,
    fun hread hc hu => ?_, fun hread hc hw ht => ⟨fun x hx hall => ?_, fun got hgot hmiss => ?_⟩⟩
  · exact absurd ((permits_eq_true.mp h).1 rfl) (by simp [hno])
  · exact hnext hread (globalLoad_counter hc) (SameThreads.refl s).keepsGang
  · exact hnext hread (globalLoad_uncached hc hu) ⟨rfl, rfl, rfl, rfl, rfl, rfl⟩
  · exact hnext hread (globalLoad_hit hc hw ht hx hall) ⟨rfl, rfl, rfl, rfl, rfl, rfl⟩
  · have hgot' : got = l1Got s g a pa k.size := by
      rw [hgot, l1Got]
      cases lineAt s g.home asid a <;> cases aliasAt s g.home pa <;> rfl
    subst hgot'
    have hsends := globalLoad_miss (t := t) (d := d) hc hw ht hmiss
    have hsent (r : Req) : CachesOnly s
        (sendCounted (bumpCounter (stopInstall s g.home (pa / 128)) g.ctx g.home 1 1) r) :=
      ((stopFills_cachesOnly ..).trans (bumpCounter_cachesOnly ..)).trans (sendCounted_cachesOnly ..)
    exact ⟨fun h => hnext hread (hsends.1 h) (hsent _).sameThreads.keepsGang, fun p hf htr =>
      hnext hread (hsends.2 p hf htr) ((hsent _).trans (bumpCounter_cachesOnly ..)).sameThreads.keepsGang⟩

theorem globalStoresFillTheLine : Claims.GlobalStoresFillTheLine := by
  refine ⟨fun s t l g i m bs a hs hr hi hok => ?store, fun s h ctx wg va pa ways bs _ => ?line,
    fun p bs b => patchGet_patchBytes [] p bs b⟩
  case store =>
    intro asid
    have hacts := hi.actsAt hs hr hok
    have hmissing (hn : tlbAt s g.home.cluster asid a = none) := by
      have h := hacts
      rw [deniedStore_of_no_entry hn] at h
      exact h.unanswered hn
    refine ⟨fun hn => (hmissing hn).1, fun hn => (hmissing hn).2, fun e he => ?_⟩
    intro pa
    rw [deniedStore_of_entry he] at hacts
    refine ⟨fun hf hw => ?_, fun s1 hf => ?_, fun hf hw => ?_⟩
    · rw [hf] at hacts
      exact hacts.denied he fun h => absurd ((permits_eq_true.mp h).2 rfl).1 (by simp [hw])
    · rw [hf] at hacts
      exact hacts.denied he fun h => absurd (((permits_eq_true.mp h).2 rfl).2.symm.trans hf) nofun
    · have hdone := hacts.permitted he (permits_eq_true.mpr ⟨nofun, fun _ => ⟨hw, hf⟩⟩)
      rw [globalStore] at hdone
      refine ⟨fun hz => ?_, fun hz => ?_⟩
      · rw [if_pos hz] at hdone
        exact hdone.goesOn (probe_answered he) ⟨rfl, rfl, rfl, rfl, rfl, rfl⟩
      · rw [if_neg hz] at hdone
        exact hdone.goesOn (probe_answered he) (l1Store_cachesOnly ..).sameThreads.keepsGang
  case line =>
    have hkeeps := l1Store_cachesOnly s h ctx wg va pa ways bs
    exact ⟨hkeeps.mem, hkeeps.wgs, hkeeps.sameThreads.threads, fun x hx hwf => l1Store_fills hx hwf⟩

/-- Settles O26: the checks by their definition, a load and a store by what the probe answers and what the L1 holds. -/
theorem globalLoadsAndStores : Obligations.GlobalLoadsAndStores :=
  ⟨globalAccessesAreChecked, globalLoadsHitOrSend, globalStoresFillTheLine⟩

end Sys2Proof.Machine
end

section
/-! ### Atomics (R184, R195, R196) -/
namespace Sys2Proof.Machine

variable {s s1 : State} {t : Thread} {l : Launch} {g : Workgroup} {i : Instr} {x : Atom} {ext : Bool} {op : Nat}

/-! ### The sector leaves the home's L1 (R195) -/

theorem aliasAt_home {h : Home} {pa : Nat} {y : L1Line} (hy : aliasAt s h pa = some y) : y.home = h ∧ y.pline = pa / 128 := by
  simpa using List.find?_some hy

/-- The line of its place, replaced. -/
theorem aliasAt_setLine {h : Home} {pa : Nat} {y z : L1Line} (hy : aliasAt s h pa = some y) (hh : z.home = h)
    (hp : z.pline = pa / 128) : aliasAt (setLine s z) h pa = some z := by
  unfold aliasAt setLine
  rw [hh, hp]
  exact find?_updWhere_of_find (fun _ _ => by simp [hh, hp]) hy

/-- A line without one of its sectors (R195). -/
def withoutSector (n : Nat) (y : L1Line) : L1Line :=
  { y with valid := bitsWhere 8 fun i => y.valid.getLsbD i && !decide (i = n)
           mask := bitsWhere 128 fun i => y.mask.getLsbD i && !decide (i / 16 = n) }

theorem withoutSector_valid {n i : Nat} {y : L1Line} (hi : i < 8) :
    (withoutSector n y).valid.getLsbD i = (decide (i ≠ n) && y.valid.getLsbD i) := by
  rw [withoutSector, getLsbD_bitsWhere hi, Bool.and_comm, decide_not]

theorem withoutSector_mask {n i : Nat} {y : L1Line} (hi : i < 128) :
    (withoutSector n y).mask.getLsbD i = (decide (i / 16 ≠ n) && y.mask.getLsbD i) := by
  rw [withoutSector, getLsbD_bitsWhere hi, Bool.and_comm, decide_not]

/-- A cleaned sector was valid or becomes so; the other sectors of the line stay. -/
theorem cleanSectors_keeps {n i : Nat} {y : L1Line} (hn : i ≠ n) (hi : i < 8) :
    (cleanSectors (fun j => decide (j = n)) y).valid.getLsbD i = y.valid.getLsbD i := by
  rw [cleanSectors, getLsbD_bitsWhere hi, decide_eq_false hn, Bool.false_and, Bool.or_false]

theorem cleanSectors_mask {p : Nat → Bool} {i : Nat} {y : L1Line} (hi : i < 128) :
    (cleanSectors p y).mask.getLsbD i = (y.mask.getLsbD i && !p (i / 16)) := by rw [cleanSectors, getLsbD_bitsWhere hi]

/-- The bytes of a line that its mask holds. -/
theorem writtenBytes_ne_nil {y : L1Line} {n j : Nat} (hj : j < 128) (hn : j / 16 = n) (hm : y.mask.getLsbD j = true) :
    ((writtenBytes y).filter fun c => decide (c.1 % 128 / 16 = n)) ≠ [] := by
  refine List.ne_nil_of_mem (a := (128 * y.pline + j, readByte y.data j)) (List.mem_filter.mpr ⟨?_, ?_⟩)
  · exact List.mem_filterMap.mpr ⟨j, List.mem_range.mpr hj, if_pos hm⟩
  · rw [decide_eq_true_eq, Nat.mul_add_mod, Nat.mod_eq_of_lt hj, hn]

section
variable {va pa tid : Nat} {y : L1Line}

theorem sectorOut_of_none (h : aliasAt s g.home pa = none) :
    sectorOut s g tid va pa = stopInstall s g.home (pa / 128) := by
  have h0 : aliasAt (stopInstall s g.home (pa / 128)) g.home pa = none := h
  rw [sectorOut, h0]

/-- With the sector's bytes to be written back or not, the line stays without the sector. -/
theorem sectorOut_of_clean (h : aliasAt s g.home pa = some y)
    (hclean : ((writtenBytes y).filter fun c => decide (c.1 % 128 / 16 = va % 128 / 16)) = []) :
    sectorOut s g tid va pa = setLine (stopInstall s g.home (pa / 128)) (withoutSector (va % 128 / 16) y) := by
  have h0 : aliasAt (stopInstall s g.home (pa / 128)) g.home pa = some y := h
  have hback : writeBackSectors (stopInstall s g.home (pa / 128)) (fun i => decide (i = va % 128 / 16)) y g.ctx g.id tid =
      (stopInstall s g.home (pa / 128), []) := by rw [writeBackSectors, hclean]; rfl
  simp only [sectorOut, h0, hback]
  rfl

/-- The state after the write-back of the sector's dirty bytes. -/
def sectorWritten (s : State) (g : Workgroup) (tid va pa : Nat) (y : L1Line) : State :=
  (writeBackSectors (stopInstall s g.home (pa / 128)) (fun i => decide (i = va % 128 / 16)) y g.ctx g.id tid).1

section
variable (h : aliasAt s g.home pa = some y)
  (hdirty : ((writtenBytes y).filter fun c => decide (c.1 % 128 / 16 = va % 128 / 16)) ≠ [])
include h hdirty

theorem aliasAt_sectorWritten : aliasAt (sectorWritten s g tid va pa y) g.home pa =
    some (cleanSectors (fun i => decide (i = va % 128 / 16)) y) := by
  have hkept : aliasAt (stopInstall (stopInstall s g.home (pa / 128)) y.home y.pline) g.home pa = some y := h
  have hline := aliasAt_setLine (z := cleanSectors (fun i => decide (i = va % 128 / 16)) y) hkept
    (aliasAt_home h).1 (aliasAt_home h).2
  rw [sectorWritten, writeBackSectors, if_neg (by simpa using hdirty)]
  exact hline

theorem sectorWritten_sends : ∃ r ∈ (sectorWritten s g tid va pa y).reqs, r.id = s.nextId ∧ r.src = g.home ∧
    r.stage = .toHome ∧ r.kind = .write ((writtenBytes y).filter fun c => decide (c.1 % 128 / 16 = va % 128 / 16)) := by
  rw [sectorWritten, writeBackSectors, if_neg (by simpa using hdirty)]
  exact ⟨_, List.mem_append_right _ (List.mem_singleton_self _), rfl, (aliasAt_home h).1, rfl, rfl⟩

theorem sectorOut_of_dirty : sectorOut s g tid va pa = setLine (sectorWritten s g tid va pa y)
    (withoutSector (va % 128 / 16) (cleanSectors (fun i => decide (i = va % 128 / 16)) y)) := by
  have h0 : aliasAt (stopInstall s g.home (pa / 128)) g.home pa = some y := h
  have hw := aliasAt_sectorWritten (tid := tid) h hdirty
  rw [sectorWritten] at hw
  simp only [sectorOut, h0, hw]
  rfl

end

theorem sectorOut_line (h : aliasAt s g.home pa = some y) : ∃ y', aliasAt (sectorOut s g tid va pa) g.home pa = some y' ∧
    y'.data = y.data ∧
    (∀ n, n < 8 → y'.valid.getLsbD n = (decide (n ≠ va % 128 / 16) && y.valid.getLsbD n)) ∧
    ∀ n, n < 128 → y'.mask.getLsbD n = (decide (n / 16 ≠ va % 128 / 16) && y.mask.getLsbD n) := by
  obtain ⟨hhome, hpline⟩ := aliasAt_home h
  by_cases hdirty : ((writtenBytes y).filter fun c => decide (c.1 % 128 / 16 = va % 128 / 16)) = []
  · rw [sectorOut_of_clean h hdirty]
    exact ⟨_, aliasAt_setLine (s := stopInstall s g.home (pa / 128)) h hhome hpline, rfl,
      fun n hn => withoutSector_valid hn, fun n hn => withoutSector_mask hn⟩
  · rw [sectorOut_of_dirty h hdirty]
    refine ⟨_, aliasAt_setLine (aliasAt_sectorWritten h hdirty) hhome hpline, rfl, fun n hn => ?_, fun n hn => ?_⟩
    · rw [withoutSector_valid hn]
      by_cases he : n = va % 128 / 16
      · simp [he]
      · rw [cleanSectors_keeps he hn]
    · rw [withoutSector_mask hn, cleanSectors_mask hn, decide_not, ← Bool.and_assoc, Bool.and_right_comm, Bool.and_self]

theorem sectorOut_sends (h : aliasAt s g.home pa = some y)
    (hm : ∃ n, n / 16 = va % 128 / 16 ∧ y.mask.getLsbD n = true) : ∃ r ∈ (sectorOut s g tid va pa).reqs,
      r.id = s.nextId ∧ r.src = g.home ∧ r.stage = .toHome ∧
      r.kind = .write ((writtenBytes y).filter fun c => decide (c.1 % 128 / 16 = va % 128 / 16)) := by
  obtain ⟨n, hn, hm⟩ := hm
  have hdirty := writtenBytes_ne_nil (BitVec.lt_of_getLsbD hm) hn hm
  rw [sectorOut_of_dirty h hdirty]
  exact sectorWritten_sends h hdirty

end

/-! ### The instruction (R186, R188, R196) -/

/-- An atomic goes through the probe with its address, and its body acts on that address. -/
theorem IsAtomic.exec_eq (h : IsAtomic i x ext op) : exec i s = probedWith useWalks i x.m.sw onlyVector
    (fun s t => probedAddr .glb (atomAddr x t) (if x.x2 then 8 else 4) true true s t)
    (fun s t => atomAt (wordOf i) x ext op (atomAddr x t) (atomOperand x (ext && decide (op = 0)) t) s t) s := by
  simp only [IsAtomic, List.mem_cons, List.not_mem_nil, or_false, Prod.mk.injEq] at h
  rcases h with ⟨rfl, rfl, rfl⟩ | ⟨rfl, rfl, rfl⟩ | ⟨rfl, rfl, rfl⟩ | ⟨rfl, rfl, rfl⟩ | ⟨rfl, rfl, rfl⟩ | ⟨rfl, rfl, rfl⟩ |
    ⟨rfl, rfl, rfl⟩ | ⟨rfl, rfl, rfl⟩ | ⟨rfl, rfl, rfl⟩ | ⟨rfl, rfl, rfl⟩ | ⟨rfl, rfl, rfl⟩ | ⟨rfl, rfl, rfl⟩ |
    ⟨rfl, rfl, rfl⟩ | ⟨rfl, rfl, rfl⟩ | ⟨rfl, rfl, rfl⟩ | ⟨rfl, rfl, rfl⟩ <;> rfl

theorem atomOperand_eq (x : Atom) (cas : Bool) (t : Thread) : atomOperand x cas t = atomicOperand x cas t := by
  rw [atomOperand, atomicOperand, getGroup, groupRegs, List.map_map]
  rfl

/-- The message of an atomic, and what its thread waits for (R195, R196). -/
def atomicSent (x : Atom) (ext : Bool) (op : Nat) (operand : List Byte) (s : State) (t : Thread) (g : Workgroup)
    (a pa : Nat) (stage : ReqStage) (acq : Bool) : State × Thread × Fate :=
  let t1 := if x.ret then addPend t (.atom s.nextId x.x2 x.d) else t
  (sendCounted s { plainReq g.home g.ctx t.wg t.tid a pa (.atom ext op x.x2 operand x.ret) with
      stage := stage, acquire := acq },
    if acq then { t1 with waits := t1.waits ++ [s.nextId] } else t1, .next)

/-- An atomic at a physical address: its sector leaves the L1, and what it releases comes before its message (R195, R196). -/
def localAtomic (x : Atom) (ext : Bool) (op : Nat) (operand : List Byte) (s : State) (t : Thread) (l : Launch) (g : Workgroup)
    (a pa : Nat) : State × Thread × Fate :=
  let bound := !(boundRegions l a).isEmpty
  let r := releaseBefore (sectorOut s g t.tid a pa) t l g a (bound && decide (x.r = .rel ∨ x.r = .ar))
  atomicSent x ext op operand r.1 t g a pa r.2 (bound && decide (x.r = .acq ∨ x.r = .ar))

theorem atomAt_local {word : BitVec 32} {operand : List Byte} {a : Nat} (hs : StandsIn s t l g) (ha : a / 2 ^ 63 = 0) :
    atomAt word x ext op a operand s t =
      if accessOk s l g .glb a (if x.x2 then 8 else 4) true true then
        answeredBy (deniedStore s g a) t (localAtomic x ext op operand s t l g a)
          (probeAccess s g a true true ⟨word, t.pc, BitVec.ofNat 64 a, operand⟩)
      else (s, t, accessTrap a) := by
  simp only [atomAt, hs.envOf, ha, Nat.zero_ne_one, if_false]
  cases accessOk s l g .glb a (if x.x2 then 8 else 4) true true with
  | false => rfl
  | true => cases probeAccess s g a true true ⟨word, t.pc, BitVec.ofNat 64 a, operand⟩ <;> rfl

theorem onlyVector_of_role (h : t.role = 0) : onlyVector t.role = true := decide_eq_true h

theorem onlyVector_of_other (h : t.role ≠ 0) : onlyVector t.role = false := decide_eq_false h

/-- With no address probed, an atomic of the vector role is what its thread does. -/
theorem IsAtomic.actsAlone (h : IsAtomic i x ext op) (hs : StandsIn s t l g) (hr : t.role = 0)
    (hno : accessOk s l g .glb (atomicAddress x t) (if x.x2 then 8 else 4) true true = false) :
    ActsAlone i x.m.sw s t (atomAt (wordOf i) x ext op (atomicAddress x t)
      (atomicOperand x (ext && decide (op = 0)) t) s t) := by
  have hnil : probedAddr .glb (atomicAddress x t) (if x.x2 then 8 else 4) true true s t = [] :=
    probedAddr_eq_nil hs.envOf fun _ => hno
  have hacts := actsAlone_of_no_probe hs h.exec_eq (onlyVector_of_role hr) hnil
  rwa [atomOperand_eq] at hacts

theorem IsAtomic.actsAt (h : IsAtomic i x ext op) (hs : StandsIn s t l g) (hr : t.role = 0)
    (ha : atomicAddress x t / 2 ^ 63 = 0)
    (hok : accessOk s l g .glb (atomicAddress x t) (if x.x2 then 8 else 4) true true = true) :
    ActsAt i x.m.sw s t g (atomicAddress x t)
      (answeredBy (deniedStore s g (atomicAddress x t)) t
        (localAtomic x ext op (atomicOperand x (ext && decide (op = 0)) t) s t l g (atomicAddress x t))
        (probeAccess s g (atomicAddress x t) true true
          ⟨wordOf i, t.pc, BitVec.ofNat 64 (atomicAddress x t), atomicOperand x (ext && decide (op = 0)) t⟩)) := by
  have hacts := actsAt_of_probe hs h.exec_eq (onlyVector_of_role hr) (probedAddr_of_ok hs.envOf hok)
  rw [atomOperand_eq] at hacts
  change ActsAt i x.m.sw s t g (atomicAddress x t) (atomAt _ x ext op (atomicAddress x t) _ s t) at hacts
  rwa [atomAt_local hs ha, if_pos hok] at hacts

section
variable {obj : Nat} {on : Bool}

theorem releaseBefore_cachesOnly : CachesOnly s (releaseBefore s t l g obj on).1 := by
  unfold releaseBefore
  split
  · exact releaseObject_cachesOnly ..
  · exact .refl s

theorem releaseBefore_of_not (h : on = false) : releaseBefore s t l g obj on = (s, .toHome) := by
  rw [releaseBefore, if_neg (by simp [h])]

theorem releaseBefore_of_release (h : on = true) : releaseBefore s t l g obj on =
    ((releaseObject s l g t.tid obj).1, if outstandingBound s t l obj ++ (releaseObject s l g t.tid obj).2 = [] then .toHome
      else .held (outstandingBound s t l obj ++ (releaseObject s l g t.tid obj).2)) := by
  rw [releaseBefore, if_pos h]
  simp only [List.isEmpty_iff]

end

/-- The mark of an atomic that counts only where the address is bound to regions (R196). -/
theorem bound_and_iff {rs : List Region} {p : Prop} [Decidable p] : (!rs.isEmpty && decide p) = true ↔ rs ≠ [] ∧ p := by simp

/-! ### What the slice leaves (R119, R135, R195) -/

theorem atomNew_integer (n : Nat) (old b c : BitVec n) :
    atomNew false 0 n old b c = old + b ∧ atomNew false 1 n old b c = old - b ∧
    atomNew false 2 n old b c = (if old.sle b then old else b) ∧ atomNew false 3 n old b c = (if b.sle old then old else b) ∧
    atomNew false 4 n old b c = (if old ≤ b then old else b) ∧ atomNew false 5 n old b c = (if old ≥ b then old else b) ∧
    atomNew false 6 n old b c = old &&& b ∧ atomNew false 7 n old b c = old ||| b ∧
    atomNew true 0 n old b c = (if old = b then c else old) ∧ atomNew true 1 n old b c = b ∧
    atomNew true 2 n old b c = (if b ≤ old then 0 else old + 1) ∧
    atomNew true 3 n old b c = (if old = 0 ∨ b < old then b else old - 1) ∧ atomNew true 7 n old b c = old ^^^ b :=
  ⟨rfl, rfl, opMinS_eq old b, opMaxS_eq old b, rfl, rfl, rfl, rfl, rfl, rfl, rfl, rfl, rfl⟩

section
variable {n : Nat} {old b : BitVec n} (c : BitVec n)

theorem atomNew_fadd : atomNew true 4 n old b c =
    BitVec.ofNat n (roundFp (fmtOf n) (addX (decodeFp (fmtOf n) old.toNat) (decodeFp (fmtOf n) b.toNat) .rn) .rn false) := rfl

theorem atomNew_fmin : atomNew true 5 n old b c = BitVec.ofNat n (fminmaxPat false false (fmtOf n) old.toNat b.toNat) := rfl

theorem atomNew_fmax : atomNew true 6 n old b c = BitVec.ofNat n (fminmaxPat true false (fmtOf n) old.toNat b.toNat) := rfl

theorem atomNew_fminmax :
    let x := decodeFp (fmtOf n) old.toNat
    let y := decodeFp (fmtOf n) b.toNat
    (x ≠ .nan → y ≠ .nan →
      (ltSigned x y = true → atomNew true 5 n old b c = old ∧ atomNew true 6 n old b c = b) ∧
      (ltSigned y x = true → atomNew true 5 n old b c = b ∧ atomNew true 6 n old b c = old)) ∧
    (x = .nan → y ≠ .nan → atomNew true 5 n old b c = b ∧ atomNew true 6 n old b c = b) ∧
    (x ≠ .nan → y = .nan → atomNew true 5 n old b c = old ∧ atomNew true 6 n old b c = old) := by
  intro x y
  have hleft {p q : Nat} (hp : p = old.toNat) (hq : q = b.toNat) : BitVec.ofNat n p = old ∧ BitVec.ofNat n q = b := by
    rw [hp, hq, BitVec.ofNat_toNat, BitVec.ofNat_toNat, BitVec.setWidth_eq, BitVec.setWidth_eq]
    exact ⟨rfl, rfl⟩
  rw [atomNew_fmin, atomNew_fmax]
  refine ⟨fun hx hy => ⟨fun h => ?_, fun h => ?_⟩, fun hx hy => ?_, fun hx hy => ?_⟩
  · obtain ⟨hmin, hmax⟩ := (fminmax_of_numbers (prop := false) hx hy).2.2.1 h
    exact hleft hmin hmax
  · obtain ⟨hmin, hmax⟩ := (fminmax_of_numbers (prop := false) hx hy).2.2.2 h
    exact (hleft hmax hmin).symm
  · exact ⟨(hleft rfl (fminmax_of_one_nan hx hy).1).2, (hleft rfl (fminmax_of_one_nan hx hy).1).2⟩
  · exact ⟨(hleft (fminmax_of_one_nan hy hx).2 rfl).1, (hleft (fminmax_of_one_nan hy hx).2 rfl).1⟩

end

theorem oldWrites_eq {x2 : Bool} {d : BitVec 6} {bs : List Byte} (h : bs.length = if x2 then 8 else 4) :
    ∃ ws : List Word, oldWrites x2 d bs = ((List.range (if x2 then 2 else 1)).map fun n => d + BitVec.ofNat 6 n).zip ws ∧
      bytesOfWords ws = bs := by
  refine ⟨_, rfl, bytesOfWords_wordsOf ?_⟩
  cases x2 <;> exact h

/-- Settles O27: the checks and the probe like those of a load and a store, the sector by its line, the operation by the
slice's function. -/
theorem atomicsActAtTheHomeSlice : Obligations.AtomicsActAtTheHomeSlice := by
  refine ⟨fun s t l g i x ext op hs hi => ?instruction, fun s g tid va pa _ => ⟨sectorOut_of_none, fun y hy => ?sector⟩,
    atomNew_integer, fun n old b c _ => ⟨atomNew_fadd c, atomNew_fminmax c⟩, fun x2 d bs h => oldWrites_eq h⟩
  case sector =>
    exact ⟨(sectorOut_cachesOnly ..).mem, sectorOut_line hy, sectorOut_sends hy⟩
  case instruction =>
    intro a size operand asid
    refine ⟨fun hr => illegal_issue_of_role hs hi.exec_eq (onlyVector_of_other hr), fun hr ha hno => ?_, fun hr ha hok => ?_⟩
    · have hacts := hi.actsAlone hs hr hno
      rw [atomAt_local hs ha, hno] at hacts
      exact hacts.traps nofun
    have hacts := hi.actsAt hs hr ha hok
    have hmissing (hn : tlbAt s g.home.cluster asid a = none) := by
      have h := hacts
      rw [deniedStore_of_no_entry hn] at h
      exact h.unanswered hn
    refine ⟨fun hn => (hmissing hn).1, fun hn => (hmissing hn).2, fun e s1 he hf => ?_, fun e he hf => ⟨fun hno => ?_, fun hrd hwr => ?_⟩⟩
    · rw [deniedStore_of_entry he, hf] at hacts
      exact hacts.denied he fun h => absurd (((permits_eq_true.mp h).2 rfl).2.symm.trans hf) nofun
    · rw [deniedStore_of_entry he, hf] at hacts
      refine hacts.denied he fun h => ?_
      obtain ⟨hrd, hwr⟩ := permits_eq_true.mp h
      rcases hno with h | h
      · exact absurd ((hrd rfl).symm.trans h) nofun
      · exact absurd ((hwr rfl).1.symm.trans h) nofun
    · intro pa s1 rel acq s2 ids hnrel hrel q hq t1 ht1
      have hdone := hacts.permitted he (permits_eq_true.mpr ⟨fun _ => hrd, fun _ => ⟨hwr, hf⟩⟩)
      have hbefore : releaseBefore s1 t l g a (!(boundRegions l a).isEmpty && decide (x.r = .rel ∨ x.r = .ar)) =
          (s2, if ids = [] then .toHome else .held ids) := by
        by_cases h : rel
        · obtain ⟨h2, hids⟩ := hrel h
          rw [releaseBefore_of_release (bound_and_iff.mpr h), h2, hids]
        · obtain ⟨h2, hids⟩ := hnrel h
          rw [releaseBefore_of_not (Bool.eq_false_iff.mpr fun hb => h (bound_and_iff.mp hb)), h2, hids, if_pos rfl]
      have hkeeps : SameThreads s s2 := by
        have h := releaseBefore_cachesOnly (s := s1) (t := t) (l := l) (g := g) (obj := a)
          (on := !(boundRegions l a).isEmpty && decide (x.r = .rel ∨ x.r = .ar))
        rw [hbefore] at h
        exact ((sectorOut_cachesOnly ..).trans h).sameThreads
      rw [localAtomic, hbefore] at hdone
      have hq' : q = { plainReq g.home g.ctx t.wg t.tid a pa (.atom ext op x.x2 operand x.ret) with
          id := s.nextId, stage := if ids = [] then .toHome else .held ids } := hq
      have ht1' : t1 = if x.ret then addPend t (.atom s2.nextId x.x2 x.d) else t := ht1
      have hthread : t1.wg = t.wg ∧ t1.tid = t.tid ∧ t1.place = t.place ∧ t1.seat = t.seat := by
        rw [ht1']
        split <;> exact ⟨rfl, rfl, rfl, rfl⟩
      obtain ⟨hwg, htid, hplace, hseat⟩ := hthread
      have hkept (r : Req) : SameThreads s (sendCounted s2 r) := hkeeps.trans (sendCounted_cachesOnly s2 r).sameThreads
      rw [atomicSent, ← ht1'] at hdone
      refine ⟨fun hno => ?_, fun hacq => ?_⟩
      · rw [Bool.eq_false_iff.mpr fun hb => hno (bound_and_iff.mp hb)] at hdone
        rw [hq']
        exact hdone.goesOn (probe_answered he) ((hkept _).keepsGang hwg htid hplace hseat)
      · rw [bound_and_iff.mpr hacq] at hdone
        rw [hq']
        exact hdone.goesOn (probe_answered he) ((hkept _).keepsGang hwg htid hplace hseat)

end Sys2Proof.Machine
end

section
/-! ### Far accesses of a thread (R189, R193, R194, R440) -/
namespace Sys2Proof.Machine

variable {s s1 : State} {t : Thread} {l : Launch} {g : Workgroup} {i : Instr} {m : Marks} {k : Access} {d : BitVec 6}
  {bs : List Byte} {a : Nat} {sw stop ok : Bool} {op : FarOp} {x : Atom} {ext : Bool} {n : Nat}

/-! ### Sending one (R193, R440) -/

theorem sendFar_sameThreads (s : State) (t : Thread) (g : Workgroup) (a : Nat) (op : FarOp) :
    SameThreads s (sendFar s t g a op) := by
  unfold sendFar
  dsimp only
  split
  · exact (sendCounted_cachesOnly ..).sameThreads
  · split
    · exact (sendCounted_cachesOnly ..).sameThreads
    · exact ⟨rfl, rfl⟩

theorem accessOk_far {align : Nat} {rd wr : Bool} : accessOk s l g .far a align rd wr = true ↔
    a / 2 ^ 58 = 32 ∧ a % align = 0 ∧ l.far = true ∧
      (a / 2 ^ 52 % 64 = s.boot.devnum ∨ (s.boot.domid ≠ 0 ∧ ∃ r ∈ s.boot.routes, r.dev = a / 2 ^ 52 % 64)) := by
  simp [accessOk, validAddr, devicePasses, and_assoc]

/-- The flits for a device wait at its port: its link retrains (R440). -/
theorem pathHeld_fabricLinks (s : State) (dev : Nat) : pathHeld s (fabricLinks s dev) = true ↔
    dev ≠ s.boot.devnum ∧ ∃ y ∈ s.links, y.retraining = true ∧
      some y.link = (s.boot.routes.find? fun r => decide (r.dev = dev)).map fun r => (⟨3, 0, 0, r.port⟩ : Link) := by
  unfold pathHeld fabricLinks
  by_cases h : dev = s.boot.devnum
  · rw [if_pos h]
    simp [h]
  · rw [if_neg h]
    simp only [List.any_eq_true, Bool.and_eq_true, List.contains_iff_mem, Option.mem_toList,
      eq_comm (b := some _), ne_eq, h, not_false_eq_true, true_and]

theorem sendFar_reqs (s : State) (t : Thread) (g : Workgroup) (a : Nat) (op : FarOp) {held : Prop} [Decidable held]
    (hheld : pathHeld s (fabricLinks s (a / 2 ^ 52 % 64)) = true ↔ held) : (sendFar s t g a op).reqs = s.reqs ++
      [{ messageOf s t g (a % 2 ^ 52) 0 (.far op) with
        loc := a / 2 ^ 52 % 64, stage := if held then .atPort else .toHome }] := by
  unfold sendFar
  dsimp only
  split
  next hd =>
    have hno : ¬ held := fun h => by
      rw [← hheld, pathHeld_fabricLinks] at h
      exact h.1 hd
    rw [if_neg hno]
    rfl
  · split
    next h => rw [if_pos (hheld.mp h)]; rfl
    next h => rw [if_neg (mt hheld.mpr h)]; rfl

theorem sendFar_leaves (hd : a / 2 ^ 52 % 64 ≠ s.boot.devnum)
    (hheld : ¬ pathHeld s (fabricLinks s (a / 2 ^ 52 % 64)) = true) :
    (sendFar s t g a op).out = .far (a / 2 ^ 52 % 64) s.nextId (a % 2 ^ 52) op :: s.out := by
  rw [sendFar, if_neg hd, if_neg hheld]
  rfl

/-! ### Two passes and the far group (R193, R194) -/

section
variable {writes : List Byte → List (BitVec 6 × Word)}

/-- The second pass goes on with the reply's bytes. -/
theorem ActsAlone.far_reply (h : ActsAlone i sw s t (farReplyPass stop a op ok writes g s t)) {y : FarReply}
    (hy : t.reply = some y) (hv : y.violation = none) : GoesOn i sw s s { t with
      reply := none
      fl := { t.fl with derr := t.fl.derr || y.bad, dstop := t.fl.dstop || y.bad }
      pend := t.pend ++ [.value (writes y.data)] } := by
  simp only [farReplyPass, hy, hv] at h
  exact h.goesOn ⟨rfl, rfl, rfl, rfl, rfl, rfl⟩

/-- Or it takes the trap the reply carries. -/
theorem ActsAlone.far_violation (h : ActsAlone i sw s t (farReplyPass stop a op ok writes g s t)) {y : FarReply} {v : Nat}
    (hy : t.reply = some y) (hv : y.violation = some v) : exec i s = .next (settleTurn
      (takeTrap (setThread s { t with reply := none }) [{ t with reply := none }] 14 0 (BitVec.ofNat 64 v) (wordOf i))) := by
  simp only [farReplyPass, hy, hv] at h
  exact h.traps_in nofun

theorem ActsAlone.far_nosafe (h : ActsAlone i sw s t (farReplyPass stop a op ok writes g s t)) (hy : t.reply = none)
    (hno : stop = false ∨ ordinalOf s t t.pc = none) : TakesTrap i s t 8 0 0 := by
  have hsafe : isSafePoint s t stop = false := by rcases hno with h | h <;> simp [isSafePoint, h]
  simp only [farReplyPass, hy, hsafe] at h
  exact h.traps (by decide)

section
variable (h : ActsAlone i sw s t (farReplyPass stop a op ok writes g s t)) (hy : t.reply = none) (hstop : stop = true)
  (ho : (ordinalOf s t t.pc).isSome = true)
include h hy hstop ho

theorem ActsAlone.far_refused (hok : ok = false) : TakesTrap i s t 14 0 (BitVec.ofNat 64 a) := by
  have hsafe : isSafePoint s t stop = true := by rw [isSafePoint, hstop, ho]; rfl
  simp only [farReplyPass, hy, hsafe, hok] at h
  exact h.traps nofun

/-- The first pass sends its request and ends the segment. -/
theorem ActsAlone.far_sent (hok : ok = true) : BlocksIn i s (sendFar s t g a op) t 7 0 false := by
  have hsafe : isSafePoint s t stop = true := by rw [isSafePoint, hstop, ho]; rfl
  simp only [farReplyPass, hy, hsafe, hok] at h
  exact h.blocks (by decide) (sendFar_sameThreads ..).keepsGang

end

end

section
variable (h : ActsAlone i sw s t (farGroupPass stop a op ok g s t))
include h

theorem ActsAlone.far_group_refused (hok : ok = false) : TakesTrap i s t 14 0 (BitVec.ofNat 64 a) := by
  simp only [farGroupPass, hok] at h
  exact h.traps nofun

theorem ActsAlone.joins_far_group (hok : ok = true) (hroom : t.far.length < 8) :
    GoesOn i sw s (sendFar s t g a op) { t with far := t.far ++ [s.nextId] } := by
  simp only [farGroupPass, hok, Nat.not_le.mpr hroom, Bool.not_true, Bool.false_eq_true, if_false] at h
  exact h.goesOn (sendFar_sameThreads ..).keepsGang

theorem ActsAlone.far_group_full (hok : ok = true) (hfull : 8 ≤ t.far.length) (hstop : stop = true)
    (ho : (ordinalOf s t t.pc).isSome = true) : Blocks i s t 8 0 false := by
  simp only [farGroupPass, hok, hfull, Bool.not_true, Bool.false_eq_true, if_false, if_true] at h
  exact h.blocks_unless (by decide) hstop ho

end

/-! ### Far loads, stores and atomics -/

section
variable (hs : StandsIn s t l g) (hr : t.role = 0)
include hs hr

theorem IsLoad.actsFar (h : IsLoad s t i m .far k d a) : ActsAlone i m.sw s t
    (farReplyPass m.stop a (.load k.size) (accessOk s l g .far a k.size true false) (loadWrites k d) g s t) := by
  have hfar : loadAt (wordOf i) m.stop .far k d a s t = farReplyPass m.stop a (.load k.size)
      (accessOk s l g .far a k.size true false) (loadWrites k d) g s t := by simp only [loadAt, hs.envOf]
  exact hfar ▸ h.actsAlone hs (.inr hr) nofun

theorem IsStore.actsFar (h : IsStore s t i m .far bs a) : ActsAlone i m.sw s t
    (farGroupPass m.stop a (.store bs) (accessOk s l g .far a bs.length false true) g s t) := by
  have hfar : storeAt (wordOf i) m.stop .far a bs s t = farGroupPass m.stop a (.store bs)
      (accessOk s l g .far a bs.length false true) g s t := by simp only [storeAt, hs.envOf]
  exact hfar ▸ h.actsAlone hs (.inr hr) nofun

/-- The message of a far atomic (R193). -/
def farAtomic (x : Atom) (ext : Bool) (n : Nat) (t : Thread) : FarOp :=
  .atom ext n x.x2 (atomicOperand x (ext && decide (n = 0)) t)

/-- A far address is no local one: the atomic is not probed. -/
theorem IsAtomic.actsFar (h : IsAtomic i x ext n) (ha : atomicAddress x t / 2 ^ 63 = 1) : ActsAlone i x.m.sw s t
    (if x.ret then farReplyPass x.m.stop (atomicAddress x t) (farAtomic x ext n t)
      (accessOk s l g .far (atomicAddress x t) (if x.x2 then 8 else 4) true true) (oldWrites x.x2 x.d) g s t
    else farGroupPass x.m.stop (atomicAddress x t) (farAtomic x ext n t)
      (accessOk s l g .far (atomicAddress x t) (if x.x2 then 8 else 4) true true) g s t) := by
  have hlocal : accessOk s l g .glb (atomicAddress x t) (if x.x2 then 8 else 4) true true = false :=
    Bool.eq_false_iff.mpr fun hok => absurd (accessOk_glb.mp hok).1 (by omega)
  have hacts := h.actsAlone hs hr hlocal
  simp only [atomAt, hs.envOf, ha, if_true] at hacts
  exact hacts

end

theorem farInstructionsTakeTwoPasses : Claims.FarInstructionsTakeTwoPasses := by
  intro s t l g hs hr
  refine ⟨fun i m k d a hi => ?_, fun i m bs a hi => ?_, fun i x ext op hi hret => ?_, fun i x ext op hi hret => ?_,
    fun a align rd wr => accessOk_far, fun a op => ?_⟩
  · have hacts := hi.actsFar hs hr
    exact ⟨fun y hy => ⟨hacts.far_reply hy, fun v => hacts.far_violation hy⟩, hacts.far_nosafe, fun hy hstop ho =>
      ⟨hacts.far_refused hy hstop ho, hacts.far_sent hy hstop ho⟩⟩
  · have hacts := hi.actsFar hs hr
    exact ⟨hacts.far_group_refused, hacts.joins_far_group, hacts.far_group_full⟩
  · intro a size ha hok hroom
    have hacts := hi.actsFar hs hr ha
    rw [hret] at hacts
    exact ActsAlone.joins_far_group hacts hok hroom
  · intro a size ha
    have hacts := hi.actsFar hs hr ha
    rw [hret] at hacts
    exact ⟨fun y hy hv => ActsAlone.far_reply hacts hy hv, fun hy hstop ho hok => ActsAlone.far_sent hacts hy hstop ho hok⟩
  · exact ⟨sendFar_reqs s t g a op (pathHeld_fabricLinks ..), fun hd hheld =>
      sendFar_leaves hd (mt (pathHeld_fabricLinks ..).mp hheld)⟩

end Sys2Proof.Machine
end

section
/-! ### The far space at its home (R189, R193, R194, R440) -/
namespace Sys2Proof.Machine

variable {s s1 : State} {ctx va id n : Nat} {op : FarOp} {p : Page} {r : Req} {x : FarIn} {bs : List Byte}

/-! ### An access in the tables of its context -/

theorem resolve_device (hp : pageFor s ctx va = some p) (hd : p.state = .device) : resolve s ctx va = (s, .found p) := by
  simp only [resolve, hp, hd, lookup, if_true]

theorem resolve_missing (hp : pageFor s ctx va = none) (hv : ∀ v ∈ s.violations, v.ctx ≠ ctx) (hva : va < 2 ^ 52) :
    resolve s ctx va = (s, .missing 0) := by
  have hno : (s.violations.any fun x => decide (x.ctx = ctx) && decide (x.va = va / 65536 * 65536)) = false :=
    List.any_eq_false.mpr fun v hm => by simp [hv v hm]
  simp only [resolve, hp, lookup, hno, Bool.false_eq_true, if_false, hva, if_true]

theorem performFar_missing (hp : pageFor s ctx va = none) (hv : ∀ v ∈ s.violations, v.ctx ≠ ctx) (hva : va < 2 ^ 52) :
    performFar s ctx va op = (requestPage s ctx 0 va true, .waits) := by simp only [performFar, resolve_missing hp hv hva]

theorem readClean_of_clean {pa : Nat} (h : poisoned s pa n = []) : readClean s pa n = readBytes s.mem pa n := by
  simp [readClean, h]

theorem farWrites_and_freezes (hf : farWrites op = true → freezeFor s ctx va 1 n = none) :
    (farWrites op && (freezeFor s ctx va 1 n).isSome) = false := by
  cases h : farWrites op with
  | false => rfl
  | true => rw [hf h]; rfl

section
variable (hp : pageFor s ctx va = some p) (hd : p.state = .device)
include hp hd

/-- A write to what the Notary forbids freezes what it belongs to. -/
theorem performFar_frozen (hw : farWrites op = true) (hf : freezeFor s ctx va 1 (p.pa + (va - p.va)) = some s1) :
    performFar s ctx va op = (s1, .violation) := by
  simp only [performFar, resolve_device hp hd, hw, hf, Option.isSome_some, Bool.and_self, if_true, Option.getD_some]

theorem performFar_denied (hf : farWrites op = true → freezeFor s ctx va 1 (p.pa + (va - p.va)) = none)
    (hno : (farWrites op = true ∧ p.writable = false) ∨ (farReads op = true ∧ p.readable = false)) :
    performFar s ctx va op = (s, .violation) := by
  have hden : (farWrites op && !p.writable || farReads op && !p.readable) = true := by
    rcases hno with ⟨h, h'⟩ | ⟨h, h'⟩ <;> simp [h, h']
  simp only [performFar, resolve_device hp hd, farWrites_and_freezes hf, Bool.false_eq_true, if_false, hden, if_true]

theorem performFar_load (hr : p.readable = true) (hc : poisoned s (p.pa + (va - p.va)) n = []) :
    performFar s ctx va (.load n) = (s, .answer (readBytes s.mem (p.pa + (va - p.va)) n) []) := by
  simp only [performFar, resolve_device hp hd, farWrites, farReads, hr, hc, readClean_of_clean hc, Bool.false_and,
    Bool.false_or, Bool.not_true, Bool.and_false, Bool.false_eq_true, if_false]

variable (hf : freezeFor s ctx va 1 (p.pa + (va - p.va)) = none) (hw : p.writable = true)
include hf hw

theorem performFar_store : performFar s ctx va (.store bs) = (physWrite s (p.pa + (va - p.va)) bs, .answer [] []) := by
  simp only [performFar, resolve_device hp hd, farWrites, farReads, hf, hw, Option.isSome_none, Bool.false_and, Bool.and_false,
    Bool.not_true, Bool.or_self, Bool.false_eq_true, if_false]

theorem performFar_atom {e w64 : Bool} (hr : p.readable = true)
    (hc : poisoned s (p.pa + (va - p.va)) (if w64 then 8 else 4) = []) : performFar s ctx va (.atom e n w64 bs) =
      (physWrite s (p.pa + (va - p.va))
        (atomBytes e n w64 (readBytes s.mem (p.pa + (va - p.va)) (if w64 then 8 else 4)) bs),
        .answer (readBytes s.mem (p.pa + (va - p.va)) (if w64 then 8 else 4)) []) := by
  simp only [performFar, resolve_device hp hd, farWrites, farReads, hf, hw, hr, hc, readClean_of_clean hc,
    Option.isSome_none, Bool.and_false, Bool.not_true, Bool.or_self, Bool.false_eq_true, if_false]

end

/-! ### The turn of the atomic unit leaves the tables and the memory (R315) -/

theorem sideServed_eq (s : State) (ctx slice : Nat) : ∃ u, sideServed s ctx slice = { s with unitSide := u } := by
  unfold sideServed
  cases splitSide s ctx with
  | some n => exact ⟨_, rfl⟩
  | none => exact ⟨s.unitSide, rfl⟩

theorem farServed_eq (s : State) (ctx va : Nat) (op : FarOp) : ∃ u, farServed s ctx va op = { s with unitSide := u } := by
  cases op with
  | load n => exact ⟨s.unitSide, rfl⟩
  | store bs => exact ⟨s.unitSide, rfl⟩
  | atom e n w64 bs => exact sideServed_eq ..

section
variable (s ctx va op)

theorem pageFor_farServed (c a : Nat) : pageFor (farServed s ctx va op) c a = pageFor s c a := by
  obtain ⟨u, hu⟩ := farServed_eq s ctx va op
  rw [hu]
  rfl

theorem poisoned_farServed (pa n : Nat) : poisoned (farServed s ctx va op) pa n = poisoned s pa n := by
  obtain ⟨u, hu⟩ := farServed_eq s ctx va op
  rw [hu]
  rfl

theorem farServed_mem : (farServed s ctx va op).mem = s.mem := by
  obtain ⟨u, hu⟩ := farServed_eq s ctx va op
  rw [hu]

theorem farServed_reqs : (farServed s ctx va op).reqs = s.reqs := by
  obtain ⟨u, hu⟩ := farServed_eq s ctx va op
  rw [hu]

theorem farServed_recording : (farServed s ctx va op).recording = s.recording := by
  obtain ⟨u, hu⟩ := farServed_eq s ctx va op
  rw [hu]

theorem farServed_violations : (farServed s ctx va op).violations = s.violations := by
  obtain ⟨u, hu⟩ := farServed_eq s ctx va op
  rw [hu]

end

/-! ### An operation performed, where nothing is recorded (R463, R466) -/

theorem logFor_unrecorded (h : s.recording = []) (launch ident : Nat) (order : Bool) :
    logFor s launch order ident bs = s := by rw [logFor, h]; rfl

theorem replayAdvance_keeps (s : State) (launch n m : Nat) (order : Bool) :
    (replayAdvance s launch order n m).mem = s.mem ∧ (replayAdvance s launch order n m).reqs = s.reqs := ⟨rfl, rfl⟩

theorem opUsed_keeps (s : State) (launch entry : Nat) :
    (opUsed s launch entry).mem = s.mem ∧ (opUsed s launch entry).reqs = s.reqs := by
  cases hr : replayOf s launch with
  | none => simp only [opUsed, hr, and_self]
  | some r =>
    cases ho : orderList s r entry with
    | none => simp only [opUsed, hr, ho, and_self]
    | some n =>
      simp only [opUsed, hr, ho]
      exact replayAdvance_keeps ..

theorem opPerformed_keeps (h : s.recording = []) (wg tid ident : Nat) :
    (opPerformed s wg tid ident).mem = s.mem ∧ (opPerformed s wg tid ident).reqs = s.reqs := by
  unfold opPerformed
  split
  · rw [logFor_unrecorded h]
    exact opUsed_keeps ..
  · exact ⟨rfl, rfl⟩

/-! ### FAR_REQUEST of this device -/

theorem findReq_updReq {f : Req → Req} (hid : ∀ q, (f q).id = q.id) (h : findReq s id = some r) :
    findReq (updReq s id f) id = some (f r) := find?_updWhere_of_find (fun q hq => by simpa [hid] using hq) h

/-- A far access of this device that its home may perform now. -/
structure FarServes (s : State) (id : Nat) (r : Req) (op : FarOp) : Prop where
  found : findReq s id = some r
  kind : r.kind = .far op
  stage : r.stage = .toHome
  loc : r.loc = s.boot.devnum
  next : farNext s r = true
  turn : farTurn s r.ctx r.va op = true
  due : farDue s r op = true

section
variable (h : FarServes s id r op)
include h

theorem FarServes.waits (hd : performFar (farServed s r.ctx r.va op) r.ctx r.va op = (s1, .waits)) :
    Runs (.farRequest (.own id)) s (updReq s1 id fun r => { r with stage := .waitPage true }) := by
  show execFarRequest (.own id) s = _
  simp only [execFarRequest, h.found, h.kind, h.stage, h.loc, h.next, h.turn, h.due, hd, ne_eq, not_true_eq_false,
    Bool.true_eq_false, or_self, if_false]

theorem FarServes.violation (hd : performFar (farServed s r.ctx r.va op) r.ctx r.va op = (s1, .violation)) :
    Runs (.farRequest (.own id)) s (updReq s1 id fun r => { r with stage := .reply [] none false }) := by
  show execFarRequest (.own id) s = _
  simp only [execFarRequest, h.found, h.kind, h.stage, h.loc, h.next, h.turn, h.due, hd, ne_eq, not_true_eq_false,
    Bool.true_eq_false, or_self, if_false]

theorem FarServes.answers (hop : ∀ e n w64 bs, op ≠ .atom e n w64 bs)
    (hd : performFar (farServed s r.ctx r.va op) r.ctx r.va op = (s1, .answer bs [])) :
    Runs (.farRequest (.own id)) s (updReq s1 id fun r => { r with stage := .reply bs none true, bad := false }) := by
  show execFarRequest (.own id) s = _
  simp only [execFarRequest, h.found, h.kind, h.stage, h.loc, h.next, h.turn, h.due, hd, ne_eq, not_true_eq_false,
    Bool.true_eq_false, or_self, if_false]
  cases op with
  | load n => rfl
  | store bs => rfl
  | atom e n w64 bs => exact absurd rfl (hop e n w64 bs)

end

theorem FarServes.atom_answers {e w64 : Bool} {old : List Byte} (h : FarServes s id r (.atom e n w64 bs))
    (hd : performFar (farServed s r.ctx r.va (.atom e n w64 bs)) r.ctx r.va (.atom e n w64 bs) = (s1, .answer old [])) :
    Runs (.farRequest (.own id)) s (updReq (opPerformed s1 r.wg r.tid (farSlice s r.ctx r.va)) id fun r =>
      { r with stage := .reply old none true, bad := false }) := by
  show execFarRequest (.own id) s = _
  simp only [execFarRequest, h.found, h.kind, h.stage, h.loc, h.next, h.turn, h.due, hd, ne_eq, not_true_eq_false,
    Bool.true_eq_false, or_self, if_false]
  rfl

/-- What its home may not perform yet stays. -/
theorem farRequest_stays (hr : findReq s id = some r) (hk : r.kind = .far op)
    (hno : r.loc ≠ s.boot.devnum ∨ farNext s r = false ∨ farTurn s r.ctx r.va op = false ∨ farDue s r op = false) :
    Runs (.farRequest (.own id)) s s := by
  show execFarRequest (.own id) s = _
  simp only [execFarRequest, hr, hk]
  split
  next => rfl
  next heq _ =>
    cases heq
    exact if_pos hno
  next hfar _ => exact absurd rfl (hfar op)

theorem ownFarRequestsAreAnswered (h : FarServes s id r op) :
    let s0 := farServed s r.ctx r.va op
    (∀ p s1, pageFor s r.ctx r.va = some p → p.state = .device → farWrites op = true →
      freezeFor s0 r.ctx r.va 1 (p.pa + (r.va - p.va)) = some s1 → Runs (.farRequest (.own id)) s (updReq s1 id fun r =>
        { r with stage := .reply [] none false })) ∧
    (∀ p, pageFor s r.ctx r.va = some p → p.state = .device →
      freezeFor s0 r.ctx r.va 1 (p.pa + (r.va - p.va)) = none →
      let pa := p.pa + (r.va - p.va)
      (∀ n, op = .load n → p.readable = true → poisoned s pa n = [] → Runs (.farRequest (.own id)) s (updReq s id fun r =>
        { r with stage := .reply (readBytes s.mem pa n) none true, bad := false })) ∧
      (∀ bs, op = .store bs → p.writable = true → Runs (.farRequest (.own id)) s (updReq (physWrite s pa bs) id fun r =>
        { r with stage := .reply [] none true, bad := false })) ∧
      (∀ x k w64 bs, op = .atom x k w64 bs → p.readable = true → p.writable = true → s.recording = [] →
        poisoned s pa (if w64 then 8 else 4) = [] → Reaches (.farRequest (.own id)) s fun s' =>
          s'.mem = writeBytes s.mem pa (atomBytes x k w64 (readBytes s.mem pa (if w64 then 8 else 4)) bs) ∧
          findReq s' id = some { r with
            stage := .reply (readBytes s.mem pa (if w64 then 8 else 4)) none true, bad := false }) ∧
      ((farWrites op = true ∧ p.writable = false) ∨ (farReads op = true ∧ p.readable = false) →
        Runs (.farRequest (.own id)) s (updReq s0 id fun r =>
        { r with stage := .reply [] none false }))) ∧
    (pageFor s r.ctx r.va = none → (∀ v ∈ s.violations, v.ctx ≠ r.ctx) → r.va < 2 ^ 52 →
      Runs (.farRequest (.own id)) s
        (updReq (requestPage s0 r.ctx 0 r.va true) id fun r => { r with stage := .waitPage true })) := by
  intro s0
  have hpage : pageFor s0 r.ctx r.va = pageFor s r.ctx r.va := pageFor_farServed ..
  rw [← hpage]
  refine ⟨fun p s1 hp hd hw hf => h.violation (performFar_frozen hp hd hw hf), fun p hp hd hf => ?_,
    fun hp hv hva => h.waits (performFar_missing hp ?_ hva)⟩
  · intro pa
    refine ⟨fun n hop hr hc => ?load, fun bs hop hw => ?store, fun e k w64 bs hop hr hw hrec hc => ?atom, fun hno => ?denied⟩
    case load =>
      subst hop
      exact h.answers nofun (performFar_load hp hd hr hc)
    case store =>
      subst hop
      exact h.answers nofun (performFar_store hp hd hf hw)
    case atom =>
      subst hop
      rw [← poisoned_farServed s r.ctx r.va (.atom e k w64 bs)] at hc
      have hdone := performFar_atom (bs := bs) (n := k) (e := e) hp hd hf hw hr hc
      rw [farServed_mem] at hdone
      obtain ⟨hmem, hreqs⟩ := opPerformed_keeps (s := physWrite s0 pa (atomBytes e k w64
        (readBytes s.mem pa (if w64 then 8 else 4)) bs)) ((farServed_recording ..).trans hrec) r.wg r.tid
        (farSlice s r.ctx r.va)
      refine ⟨_, h.atom_answers hdone, hmem.trans ?_, findReq_updReq (fun _ => rfl) ?_⟩
      · exact congrArg (writeBytes · pa _) (farServed_mem ..)
      · rw [← h.found, findReq, hreqs]
        exact congrArg _ (farServed_reqs ..)
    case denied => exact h.violation (performFar_denied hp hd (fun _ => hf) hno)
  · rw [farServed_violations]
    exact hv

/-! ### FAR_REQUEST of another device, and what is passed on (R189, R475) -/

section
variable (hdev : x.dev = s.boot.devnum) (hturn : farTurn s x.ctx x.va x.op = true)
include hdev hturn

theorem otherFar_violation (hd : performFar (farServed s x.ctx x.va x.op) x.ctx x.va x.op = (s1, .violation)) :
    Runs (.farRequest (.other x)) s (emit s1 (.farAnswer x.va [] false)) := by
  show execFarRequest (.other x) s = _
  simp only [execFarRequest, hdev, hturn, hd, ne_eq, not_true_eq_false, if_false, Bool.not_true, Bool.false_eq_true]

theorem otherFar_answers (hd : performFar (farServed s x.ctx x.va x.op) x.ctx x.va x.op = (s1, .answer bs [])) :
    Runs (.farRequest (.other x)) s (emit s1 (.farAnswer x.va bs true)) := by
  show execFarRequest (.other x) s = _
  simp only [execFarRequest, hdev, hturn, hd, ne_eq, not_true_eq_false, if_false, Bool.not_true, Bool.false_eq_true,
    foldList]

end

theorem otherFarRequestsAreAnswered (s : State) (x : FarIn) (p : Page) (hdev : x.dev = s.boot.devnum)
    (hturn : farTurn s x.ctx x.va x.op = true) (hp : pageFor s x.ctx x.va = some p) (hd : p.state = .device) :
    let s0 := farServed s x.ctx x.va x.op
    let pa := p.pa + (x.va - p.va)
    (∀ n, x.op = .load n → p.readable = true → poisoned s pa n = [] →
      Runs (.farRequest (.other x)) s (emit s (.farAnswer x.va (readBytes s.mem pa n) true))) ∧
    (∀ bs, x.op = .store bs → p.writable = true → freezeFor s x.ctx x.va 1 pa = none →
      Runs (.farRequest (.other x)) s (emit (physWrite s pa bs) (.farAnswer x.va [] true))) ∧
    (∀ e op w64 bs, x.op = .atom e op w64 bs → p.readable = true → p.writable = true → freezeFor s0 x.ctx x.va 1 pa = none →
      poisoned s pa (if w64 then 8 else 4) = [] →
      let old := readBytes s.mem pa (if w64 then 8 else 4)
      Runs (.farRequest (.other x)) s (emit (physWrite s0 pa (atomBytes e op w64 old bs)) (.farAnswer x.va old true))) ∧
    (∀ s1, farWrites x.op = true → freezeFor s0 x.ctx x.va 1 pa = some s1 →
      Runs (.farRequest (.other x)) s (emit s1 (.farAnswer x.va [] false))) ∧
    (freezeFor s0 x.ctx x.va 1 pa = none →
      (farWrites x.op = true ∧ p.writable = false) ∨ (farReads x.op = true ∧ p.readable = false) →
      Runs (.farRequest (.other x)) s (emit s0 (.farAnswer x.va [] false))) := by
  intro s0 pa
  have hp0 : pageFor s0 x.ctx x.va = some p := (pageFor_farServed ..).trans hp
  refine ⟨fun n hop hr hc => ?load, fun bs hop hw hf => ?store, fun e k w64 bs hop hr hw hf hc => ?atom,
    fun s1 hw hf => otherFar_violation hdev hturn (performFar_frozen hp0 hd hw hf),
    fun hf hno => otherFar_violation hdev hturn (performFar_denied hp0 hd (fun _ => hf) hno)⟩
  case load =>
    refine otherFar_answers hdev hturn ?_
    rw [hop]
    exact performFar_load hp hd hr hc
  case store =>
    refine otherFar_answers hdev hturn ?_
    rw [hop]
    exact performFar_store hp hd hf hw
  case atom =>
    have hdone := performFar_atom (bs := bs) (n := k) (e := e) (w64 := w64) hp0 hd hf hw hr
      ((poisoned_farServed ..).trans hc)
    intro old
    refine otherFar_answers hdev hturn ?_
    rw [farServed_mem] at hdone
    rw [show s0 = farServed s x.ctx x.va (.atom e k w64 bs) by rw [← hop]] at hdone ⊢
    rw [hop]
    exact hdone

theorem passOn_lost {dev : Nat} {src : FarSource} {lost : State → State} (h : ∀ r ∈ s.boot.routes, r.dev ≠ dev) :
    passOn s dev src lost = lost s := by
  have hno : s.boot.routes.find? (fun r => decide (r.dev = dev)) = none :=
    List.find?_eq_none.mpr fun r hr => by simp [h r hr]
  rw [passOn, hno]

theorem passOn_sent {dev : Nat} {src : FarSource} {lost : State → State} {e : Route}
    (h : s.boot.routes.find? (fun r => decide (r.dev = dev)) = some e) :
    passOn s dev src lost = emit s (.forward e.port src) := by rw [passOn, h]

/-! ### FAR_REPLY and FAR_ACKNOWLEDGEMENT (R193, R194) -/

section
variable {remote : FarAnswer} {y : FarReply}

theorem farResult_of_reply {l : Option Home} {ok : Bool} (hst : r.stage = .reply bs l ok) : farResult s r remote =
    some ⟨bs, if ok then none else some (2 ^ 63 + 2 ^ 52 * r.loc + r.va), r.bad⟩ := by simp only [farResult, hst]

theorem farResult_atPort (hst : r.stage = .atPort) : farResult s r remote = none := by simp only [farResult, hst]

theorem farResult_of_remote (hk : r.kind = .far op) (hst : r.stage = .toHome) (hl : r.loc ≠ s.boot.devnum) :
    farResult s r (.value bs) = some ⟨bs, none, false⟩ ∧
    farResult s r .violation = some ⟨[], some (2 ^ 63 + 2 ^ 52 * r.loc + r.va), false⟩ := by
  constructor <;> simp [farResult, hst, hk, hl]

/-- A reply is no error event of its own unless the fabric poisoned it. -/
theorem farBad_of_same (h : y.bad = true → r.bad = true) : farBad s r y = s := by
  have hno : (y.bad && !r.bad) = false := by
    cases hb : y.bad with
    | false => rfl
    | true => rw [h hb]; rfl
  rw [farBad, if_neg (by simp [hno])]

section
variable (hr : findReq s id = some r) (hk : r.kind = .far op)
include hr hk

theorem farReply_held (h : linkHolds s r = true ∨ r.stage = .atPort) :
    Runs (.farReply id remote) s s ∧ Runs (.farAcknowledgement id remote) s s := by
  constructor
  · show execFarReply id remote s = _
    rcases h with h | h
    · simp only [execFarReply, hr, hk, h, Bool.or_true]
      cases farResult s r remote <;> rfl
    · simp only [execFarReply, hr, hk, farResult_atPort h]
  · show execFarAcknowledgement id remote s = _
    rcases h with h | h
    · simp only [execFarAcknowledgement, hr, hk, h, Bool.not_true, Bool.and_false]
      cases farResult s r remote <;> rfl
    · simp only [execFarAcknowledgement, hr, hk, farResult_atPort h]

variable (hl : linkHolds s r = false) (hy : farResult s r remote = some y) (hb : y.bad = true → r.bad = true)
include hl hy hb

theorem farReply_delivered (hg : inFarGroup s r = false) : Runs (.farReply id remote) s
    (retestWg (settleBuffer (updOwner (finishReq (bumpCounter s r.ctx r.src 12 1) id) r.wg r.tid fun t =>
      { t with reply := some y }) r.src.cluster) r.wg 7) := by
  show execFarReply id remote s = _
  simp only [execFarReply, hr, hk, hl, hy, hg, Bool.or_self, farBad_of_same hb]

theorem farAcknowledgement_delivered (hg : inFarGroup s r = true) (hclean : y.bad = false) :
    Runs (.farAcknowledgement id remote) s
      (settleThread (retestWg (retestWg (updOwner (finishReq (bumpCounter s r.ctx r.src 12 1) id) r.wg r.tid fun t => { t with
        far := t.far.filter fun x => !decide (x = id)
        farFault := match t.farFault with | some a => some a | none => y.violation }) r.wg 3) r.wg 8) r.wg r.tid) := by
  show execFarAcknowledgement id remote s = _
  simp only [execFarAcknowledgement, hr, hk, hl, hy, hg, hclean, Bool.not_false, Bool.and_true, farBad_of_same hb,
    Bool.false_eq_true, if_false] <;> rfl

end

end

theorem farHomesAnswer : Claims.FarHomesAnswer := by
  refine ⟨fun s id r op hr hk hst hl hn ht hd => ownFarRequestsAreAnswered ⟨hr, hk, hst, hl, hn, ht, hd⟩,
    fun s id r op => farRequest_stays, otherFarRequestsAreAnswered,
    fun s x y hx hy => ⟨fun h => ?lost, fun r h => ?other, fun r h => ?image⟩, fun s y hy => ?held,
    fun s id r op remote y hr hk => ⟨farReply_held hr hk, fun hl hy => ?reply⟩⟩
  case lost =>
    show execFarRequest (.other x) s = _
    rw [execFarRequest, if_pos hx, passOn_lost h]
  case other =>
    show execFarRequest (.other x) s = _
    rw [execFarRequest, if_pos hx, passOn_sent h]
  case image =>
    show execFarRequest (.image y) s = _
    rw [execFarRequest, if_pos hy, passOn_sent h]
  case held =>
    refine ⟨{ s with imagesIn := s.imagesIn ++ [⟨y.handle, y.roods, y.bytes, y.hash, y.ki, imageHeld y.ki y.bytes⟩] },
      ?_, rfl, _, rfl, rfl, rfl, rfl, rfl⟩
    show execFarRequest (.image y) s = _
    rw [execFarRequest, if_neg (by simp [hy])]
  case reply =>
    have hres : farResult s r remote = some y ∧ (y.bad = true → r.bad = true) := by
      rcases hy with ⟨bs, x, ok, hst, rfl⟩ | ⟨hst, hloc, ⟨bs, rfl, rfl⟩ | ⟨rfl, rfl⟩⟩
      · exact ⟨farResult_of_reply hst, fun h => h⟩
      · exact ⟨(farResult_of_remote hk hst hloc).1, nofun⟩
      · exact ⟨(farResult_of_remote (bs := []) hk hst hloc).2, nofun⟩
    exact ⟨farReply_delivered hr hk hl hres.1 hres.2, farAcknowledgement_delivered hr hk hl hres.1 hres.2⟩

/-- Settles O28: an instruction's passes by its body, a home's answer by the page of its context. -/
theorem farAccessesTakeTwoPasses : Obligations.FarAccessesTakeTwoPasses :=
  ⟨farInstructionsTakeTwoPasses, farHomesAnswer⟩

end Sys2Proof.Machine
end

section
/-! ### Releases, acquires, fences and cache maintenance (R194, R197 to R199) -/
namespace Sys2Proof.Machine

variable {s s1 : State} {t t1 : Thread} {l : Launch} {g : Workgroup} {i : Instr} {sw : Bool} {m : Marks} {r n : BitVec 6}
  {a : Nat}

/-! ### An instruction whose thread waits for its messages -/

section
variable {ready : State → Thread → Bool} {go : State → Host.Outcome State Fault Refusal} (ha : Alone s t)
include ha

theorem stallUnless_of_ready (h : ready s t = true) : stallUnless ready go s = go s := by
  rw [stallUnless, ha.1, if_pos (by simp [h])]

theorem stallUnless_stays (h : ready s t ≠ true) : stallUnless ready go s = .next s := by
  rw [stallUnless, ha.1, if_neg (by simp [h])]

theorem actsAlone_of_ready {body : State → Thread → State × Thread × Fate}
    (he : exec i s = stallUnless ready (perThread i sw body) s) (h : ready s t = true) : ActsAlone i sw s t (body s t) :=
  ⟨ha, body, he.trans (stallUnless_of_ready ha h), rfl⟩

end

/-- An earlier access of the thread to the sync word holds an acquire back. -/
theorem acqReady_iff : acqReady r s t = true ↔ ∀ q ∈ s.reqs, q.wg = t.wg → q.tid = t.tid → match q.kind with
    | .read z => ¬ (q.va < (getV2 t r).toNat + 8 ∧ (getV2 t r).toNat < q.va + z)
    | .atom _ _ _ _ _ => q.va / 8 ≠ (getV2 t r).toNat / 8
    | _ => True := by
  simp only [acqReady, ownReqs, List.all_eq_true, List.mem_filter, Bool.and_eq_true, decide_eq_true_eq, and_imp]
  refine forall₄_congr fun q _ _ _ => ?_
  cases q.kind with
  | read z => simp only [Bool.not_eq_true', Bool.and_eq_false_iff, decide_eq_false_iff_not, ← not_and_or]
  | _ => simp

theorem relReady_iff (hl : findLaunch s t.launch = some l) :
    relReady r s t = true ↔ outstandingBound s t l (getV2 t r).toNat = [] ∧ t.far = [] := by simp [relReady, hl]

theorem fenceReady_iff {sc : Scope} : ((ownReqs s t).all fun q => !fenceWaits sc q) = true ↔
    ¬ ∃ q ∈ s.reqs, q.wg = t.wg ∧ q.tid = t.tid ∧ fenceWaits sc q = true := by
  simp [ownReqs, imp_iff_not_or, or_assoc]

section
variable {body : State → Thread → State × Thread × Fate}

theorem farCheck_of_none (h : t.farFault = none) : farCheck body s t = body s t := by simp only [farCheck, h]

theorem farCheck_of_some {f : Nat} (h : t.farFault = some f) :
    farCheck body s t = (s, { t with farFault := none }, .trap 14 0 (BitVec.ofNat 64 f)) := by simp only [farCheck, h]

end

theorem exec_acqrel : exec (.acqrel ⟨r, m⟩) s = stallUnless (fun s t => relReady r s t && acqReady r s t)
    (perThread (.acqrel ⟨r, m⟩) m.sw (farCheck fun s t => acqThread r (relThread r s t).1 (relThread r s t).2.1)) s := rfl

theorem exec_fence {sc : Scope} : exec (.fence ⟨sc, m⟩) s =
    stallUnless (fun s t => ((ownReqs s t).all fun q => !fenceWaits sc q) && (sc ≠ .dm || t.far.isEmpty))
      (perThread (.fence ⟨sc, m⟩) m.sw
        (if sc = .dm then farCheck fun s t => (s, t, .next) else fun s t => (s, t, .next))) s := rfl

/-- A thread that has released an object waits for what its lines wrote back (R197). -/
def afterRelease (s : State) (t : Thread) (l : Launch) (g : Workgroup) (obj : Nat) : Thread :=
  { t with waits := t.waits ++ (releaseObject s l g t.tid obj).2 }

theorem relThread_eq (hs : StandsIn s t l g) : relThread r s t =
    ((releaseObject s l g t.tid (getV2 t r).toNat).1, afterRelease s t l g (getV2 t r).toNat, .next) := by
  simp only [relThread, hs.envOf]
  rfl

theorem acquireFor_eq (hs : StandsIn s t l g) (obj : Nat) : acquireFor s t obj = acquireObject s l g t.tid obj := by
  simp only [acquireFor, hs.2.1, hs.2.2]

section
variable (hs : StandsIn s t l g)
include hs

theorem acq_goes_on (h : acqReady r s t = true) :
    GoesOn (.acq ⟨r, m⟩) m.sw s (acquireObject s l g t.tid (getV2 t r).toNat) t := by
  have hacts := actsAlone_of_ready (i := .acq ⟨r, m⟩) hs.1 rfl h
  rw [acqThread, acquireFor_eq hs] at hacts
  exact hacts.goesOn (acquireObject_cachesOnly ..).sameThreads.keepsGang

theorem rel_goes_on (h : relReady r s t = true) (hf : t.farFault = none) : GoesOn (.rel ⟨r, m⟩) m.sw s
    (releaseObject s l g t.tid (getV2 t r).toNat).1 (afterRelease s t l g (getV2 t r).toNat) := by
  have hacts := actsAlone_of_ready (i := .rel ⟨r, m⟩) hs.1 rfl h
  rw [farCheck_of_none hf, relThread_eq hs] at hacts
  exact hacts.goesOn (releaseObject_cachesOnly ..).sameThreads.keepsGang

theorem acqrel_goes_on (h : (relReady r s t && acqReady r s t) = true) (hf : t.farFault = none) :
    GoesOn (.acqrel ⟨r, m⟩) m.sw s
      (acquireFor (releaseObject s l g t.tid (getV2 t r).toNat).1 (afterRelease s t l g (getV2 t r).toNat) (getV2 t r).toNat)
      (afterRelease s t l g (getV2 t r).toNat) := by
  have hacts := actsAlone_of_ready hs.1 (exec_acqrel (m := m)) h
  rw [farCheck_of_none hf, relThread_eq hs] at hacts
  exact hacts.goesOn ((releaseObject_cachesOnly ..).trans (acquireFor_cachesOnly ..)).sameThreads.keepsGang

end

theorem fence_acts {sc : Scope} (ha : Alone s t)
    (h : ¬ ∃ q ∈ s.reqs, q.wg = t.wg ∧ q.tid = t.tid ∧ fenceWaits sc q = true) (hfar : sc = .dm → t.far = []) :
    ActsAlone (.fence ⟨sc, m⟩) m.sw s t
      ((if sc = .dm then farCheck fun s t => (s, t, .next) else fun s t => (s, t, .next)) s t) :=
  actsAlone_of_ready ha exec_fence (by simpa [fenceReady_iff.mpr h, imp_iff_not_or] using hfar)

theorem fence_stays {sc : Scope} (ha : Alone s t)
    (h : (∃ q ∈ s.reqs, q.wg = t.wg ∧ q.tid = t.tid ∧ fenceWaits sc q = true) ∨ (sc = .dm ∧ t.far ≠ [])) :
    exec (.fence ⟨sc, m⟩) s = .next s := by
  rw [exec_fence]
  refine stallUnless_stays ha fun hready => ?_
  rw [Bool.and_eq_true, fenceReady_iff] at hready
  rcases h with h | ⟨hsc, hfar⟩
  · exact hready.1 h
  · simp [hsc, hfar] at hready

theorem releasesAcquiresAndFences : Claims.ReleasesAcquiresAndFences := by
  intro s t l g m r hs a behind
  have hbehind : acqReady r s t = true ↔ behind := acqReady_iff
  have hrel : relReady r s t = true ↔ outstandingBound s t l a = [] ∧ t.far = [] := relReady_iff hs.2.1
  refine ⟨fun h => acq_goes_on hs (hbehind.mpr h), fun h => stallUnless_stays hs.1 (mt hbehind.mp h),
    fun hout hfar hf => ⟨rel_goes_on hs (hrel.mpr ⟨hout, hfar⟩) hf, fun h => ?_⟩, fun h => ?_, fun sc => ?_⟩
  · exact acqrel_goes_on hs (by rw [hrel.mpr ⟨hout, hfar⟩, hbehind.mpr h]; rfl) hf
  · have hno : relReady r s t ≠ true := fun hready => h.elim (· (hrel.mp hready).1) (· (hrel.mp hready).2)
    exact ⟨stallUnless_stays hs.1 hno, exec_acqrel.trans (stallUnless_stays hs.1 (by simp [hno]))⟩
  · intro waits
    refine ⟨fun h hsc hfar hf => ?_, fun h hsc => ?_, fence_stays hs.1, fun f hf hfar h hsc => ?_⟩
    · have hacts := fence_acts (m := m) hs.1 h fun _ => hfar
      rw [if_pos hsc, farCheck_of_none hf] at hacts
      exact hacts.goesOn (SameThreads.refl s).keepsGang
    · have hacts := fence_acts (m := m) hs.1 h fun hdm => absurd hdm hsc
      rw [if_neg hsc] at hacts
      exact hacts.goesOn (SameThreads.refl s).keepsGang
    · have hacts := fence_acts (m := m) hs.1 h fun _ => hfar
      rw [if_pos hsc, farCheck_of_some hf] at hacts
      exact hacts.traps_in nofun

/-! ### Ranges of lines (R199, R311) -/

section
variable {x : Range} {drops : Bool} {act : Workgroup → Nat → State → L1Line → State × List Nat} {ids : List Nat}

/-- A range's operation by what becomes of its lines. -/
theorem rangeOp_goes_on (hs : StandsIn s t l g) (he : exec i s = rangeOp i x drops act s)
    (hact : ∀ s y, CachesOnly s (act g t.tid s y).1) (hx : overLines (act g t.tid) s (rangeLines x s t g) = (s1, ids)) :
    GoesOn i x.m.sw s (if drops then stopFills s1 g.home (reqIn s g.ctx (inRange x t)) else s1)
      { t with waits := t.waits ++ homeWrites s g (inRange x t) ++ ids } := by
  have hkeeps : CachesOnly s s1 := by
    have h := overLines_cachesOnly hact s (rangeLines x s t g)
    rwa [hx] at h
  have hthreads : SameThreads s (if drops then stopFills s1 g.home (reqIn s g.ctx (inRange x t)) else s1) := by
    split
    · exact (hkeeps.trans (stopFills_cachesOnly ..)).sameThreads
    · exact hkeeps.sameThreads
  exact goesOn_of_alone hs.1 he (by simp only [hs.2.2, hx]) hthreads.keepsGang

end

theorem exec_cinv {x : Range} : exec (.cinv x) s =
    rangeOp (.cinv x) x true (fun g tid s l => invalidateLine s l g.ctx g.id tid) s := rfl

theorem exec_cwb {x : Range} : exec (.cwb x) s =
    rangeOp (.cwb x) x false (fun g tid s l => writeBackLine s l g.ctx g.id tid) s := rfl

/-! ### Prefetches (R189, R199) -/

section
variable (hs : StandsIn s t l g)
include hs

theorem pf_outside (h : ¬ (getV2 t r).toNat < 2 ^ 52) : GoesOn (.pf ⟨r, m⟩) m.sw s s t := by
  have hrun := exec_of_no_probe hs.1 hs.envOf (show exec (.pf ⟨r, m⟩) s = _ from rfl) dropWalks_nil fun _ => if_neg h
  refine goesOn_of_alone hs.1 hrun ?_ (SameThreads.refl s).keepsGang
  simp only [withRole, anyRole, pfThread, hs.envOf, h, decide_false, if_true]

variable (h : (getV2 t r).toNat < 2 ^ 52)
include h

theorem pf_walks (hp : probeAt s g.home.cluster (asidOf s g.ctx) (getV2 t r).toNat = .walking) :
    exec (.pf ⟨r, m⟩) s = .next (startWalk s g.home g.ctx (getV2 t r).toNat) :=
  exec_of_walking hs.1 hs.envOf (show exec (.pf ⟨r, m⟩) s = _ from rfl) rfl (if_pos h) hp

/-- With its answer at hand, a prefetch uses up its walk; it sends nothing but for a readable page. -/
theorem pf_ends (hp : probeAt s g.home.cluster (asidOf s g.ctx) (getV2 t r).toNat ≠ .walking)
    (hb : pfThread ⟨r, m⟩ s t = (s1, t, .next)) (hk : SameThreads s s1) : exec (.pf ⟨r, m⟩) s =
      .next (dropWalks (setThread s1 (retire 2 m.sw t)) g.home.cluster (asidOf s g.ctx) [(getV2 t r).toNat]) :=
  exec_of_probe hs.1 hs.envOf (show exec (.pf ⟨r, m⟩) s = _ from rfl) rfl (if_pos h) hp
    (one_goes_on hs.1.1 hb hk.keepsGang)

theorem pf_discarded (hp : probeAt s g.home.cluster (asidOf s g.ctx) (getV2 t r).toNat ≠ .walking)
    (hno : ∀ pa w, probeAt s g.home.cluster (asidOf s g.ctx) (getV2 t r).toNat ≠ .ok pa true w) : exec (.pf ⟨r, m⟩) s =
      .next (dropWalks (setThread s (retire 2 m.sw t)) g.home.cluster (asidOf s g.ctx) [(getV2 t r).toNat]) := by
  refine pf_ends hs h hp ?_ (SameThreads.refl s)
  simp only [pfThread, hs.envOf]
  split
  next heq => exact absurd heq (hno _ _)
  next => rfl

theorem pf_sends {e : TlbEntry} (he : tlbAt s g.home.cluster (asidOf s g.ctx) (getV2 t r).toNat = some e)
    (hr : e.readable = true) : exec (.pf ⟨r, m⟩) s = .next (dropWalks (setThread
      (sendCounted s { messageOf s t g (getV2 t r).toNat (e.pbase + ((getV2 t r).toNat - e.vbase)) .prefetch with
        tid := 4096, install := decide (l1Ways l ≠ 0), fwd := forwardable l (getV2 t r).toNat }) (retire 2 m.sw t))
      g.home.cluster (asidOf s g.ctx) [(getV2 t r).toNat]) := by
  refine pf_ends hs h (probe_answered he) ?_ (sendCounted_cachesOnly ..).sameThreads
  simp only [pfThread, hs.envOf, h, decide_true, probeAt_of_entry he, hr]
  rfl

end

theorem cacheMaintenance : Claims.CacheMaintenance := by
  intro s t l g m r n hs a len overlaps lines
  refine ⟨fun s1 ids hx => ?inval, fun s1 ids hx => ?clean, ?prefetch⟩
  case inval =>
    exact rangeOp_goes_on hs exec_cinv (fun _ _ => invalidateLine_cachesOnly ..) hx
  case clean =>
    exact rangeOp_goes_on hs exec_cwb (fun _ _ => writeBackLine_cachesOnly ..) hx
  case prefetch =>
    intro ends
    refine ⟨fun h => pf_outside hs (Nat.not_lt.mpr h), fun h hn hw => pf_walks hs h (probeAt_walking hn hw),
      fun h hn ⟨w, hw, hf⟩ => ?_, fun h e he hr => ?_, fun h e he hr => pf_sends hs h he hr⟩
    · have hfound : probeAt s g.home.cluster (asidOf s g.ctx) a = .missing ∨
          probeAt s g.home.cluster (asidOf s g.ctx) a = .violation := by
        cases hfail : w.failed with
        | none => exact absurd hfail hf
        | some f => cases f with
          | missing => exact .inl (probeAt_missing hn hw hfail)
          | violation => exact .inr (probeAt_violation hn hw hfail)
      refine pf_discarded hs h (fun hp => ?_) fun pa w hp => ?_
      · rcases hfound with hf | hf <;> rw [hf] at hp <;> cases hp
      · rcases hfound with hf | hf <;> rw [hf] at hp <;> cases hp
    · refine pf_discarded hs h (probe_answered he) fun pa w hp => ?_
      rw [probeAt_of_entry he, hr] at hp
      cases hp

/-- Settles O29: what a thread waits for by its messages, what it does by the lines of its home. -/
theorem releasesFencesAndCacheMaintenance : Obligations.ReleasesFencesAndCacheMaintenance :=
  ⟨releasesAcquiresAndFences, cacheMaintenance⟩

end Sys2Proof.Machine
end

section
/-! ### Table walks and page requests (R189, R309, R347, R411) -/
namespace Sys2Proof.Machine

variable {s : State} {cluster asid page va : Nat} {c : Context} {p : Page}

/-! ### The end of a walk (R309) -/

/-- A walk of a cluster for a page of an address space. -/
def walkOf (cluster asid page : Nat) (w : Walk) : Bool :=
  decide (w.cluster = cluster) && decide (w.asid = asid) && decide (w.page = page)

theorem walkOf_iff {w : Walk} : walkOf cluster asid page w = true ↔ w.cluster = cluster ∧ w.asid = asid ∧ w.page = page := by
  simp [walkOf, and_assoc]

/-- The reads of a walk and their replies, counted. -/
def walkCounted (s : State) (c : Context) (cluster : Nat) : State :=
  walkFlits (bumpCounter s c.id ⟨cluster, ctxSide s c⟩ 6 1) c.id ⟨cluster, ctxSide s c⟩

theorem walkCounted_keeps (s : State) (c : Context) (cluster : Nat) : (walkCounted s c cluster).walks = s.walks ∧
    (walkCounted s c cluster).tlb = s.tlb ∧ (walkCounted s c cluster).mem = s.mem := ⟨rfl, rfl, rfl⟩

theorem nextWalk_keeps (s : State) (cluster : Nat) : (nextWalk s cluster).tlb = s.tlb ∧ (nextWalk s cluster).mem = s.mem := by
  unfold nextWalk
  split
  · split <;> exact ⟨rfl, rfl⟩
  · exact ⟨rfl, rfl⟩

/-- A walk that starts keeps its name and how it has ended. -/
theorem nextWalk_walks {x : Walk} (hx : x ∈ (nextWalk s cluster).walks) : ∃ y ∈ s.walks,
    x.cluster = y.cluster ∧ x.asid = y.asid ∧ x.page = y.page ∧ x.failed = y.failed := by
  have hkept (h : x ∈ s.walks) : ∃ y ∈ s.walks,
      x.cluster = y.cluster ∧ x.asid = y.asid ∧ x.page = y.page ∧ x.failed = y.failed := ⟨x, h, rfl, rfl, rfl, rfl⟩
  unfold nextWalk at hx
  split at hx
  · split at hx
    next w _ =>
      obtain ⟨y, hy, rfl⟩ := List.mem_map.mp hx
      refine ⟨y, hy, ?_⟩
      split <;> exact ⟨rfl, rfl, rfl, rfl⟩
    next => exact hkept hx
  · exact hkept hx

theorem tlbFill_keeps (s : State) (e : TlbEntry) :
    e ∈ (tlbFill s e).tlb ∧ (tlbFill s e).walks = s.walks ∧ (tlbFill s e).mem = s.mem := by
  unfold tlbFill
  extract_lets own n kept
  split
  · exact ⟨List.mem_append_right _ (List.mem_singleton_self e), rfl, rfl⟩
  · exact ⟨List.mem_append_right _ (List.mem_singleton_self e), rfl, rfl⟩

section
variable {w : Walk} (hw : w ∈ s.walks) (his : walkOf cluster asid page w = true) (hrun : w.running = true)
include hw his hrun

theorem running_walk_found : ∃ w, s.walks.find? (fun w => decide (w.cluster = cluster) && decide (w.asid = asid) &&
    decide (w.page = page) && w.running) = some w := by
  refine Option.isSome_iff_exists.mp (List.find?_isSome.mpr ⟨w, hw, ?_⟩)
  rw [Bool.and_eq_true]
  exact ⟨his, hrun⟩

variable (hc : ctxOfAsid s asid = some c)
include hc

theorem tableWalk_fills (hr : resolve s c.id (page * 65536) = (s, .found p)) :
    Runs (.tableWalkComplete cluster asid page) s (nextWalk (tlbFill
      { walkCounted s c cluster with walks := s.walks.filter fun w => !walkOf cluster asid page w }
      ⟨cluster, asid, p.va, p.bits, p.pa, p.readable, p.writable⟩) cluster) := by
  obtain ⟨w', hw'⟩ := running_walk_found hw his hrun
  show execTableWalkComplete cluster asid page s = _
  simp only [execTableWalkComplete, hw', hc, hr]
  rfl

theorem tableWalk_fails {out : Lookup} {f : WalkFail} (hr : resolve s c.id (page * 65536) = (s, out))
    (hout : (∃ k, out = .missing k ∧ f = .missing) ∨ (out = .violation ∧ f = .violation)) :
    Runs (.tableWalkComplete cluster asid page) s (nextWalk { walkCounted s c cluster with
      walks := s.walks.map fun w => if walkOf cluster asid page w then { w with running := false, failed := some f } else w }
      cluster) := by
  obtain ⟨w', hw'⟩ := running_walk_found hw his hrun
  show execTableWalkComplete cluster asid page s = _
  simp only [execTableWalkComplete, hw', hc, hr]
  rcases hout with ⟨k, rfl, rfl⟩ | ⟨rfl, rfl⟩ <;> rfl

end

/-- The walks of a page that has failed say so. -/
theorem failed_walks {f : WalkFail} {s1 : State} {x : Walk} (hx : x ∈ (nextWalk { s1 with
      walks := s.walks.map fun w => if walkOf cluster asid page w then { w with running := false, failed := some f } else w }
      cluster).walks) (hsame : x.cluster = cluster ∧ x.asid = asid ∧ x.page = page) : x.failed = some f := by
  obtain ⟨y, hy, hcl, has, hpg, hf⟩ := nextWalk_walks hx
  obtain ⟨z, hz, rfl⟩ := List.mem_map.mp hy
  rw [hf]
  rw [hcl, has, hpg] at hsame
  split
  next => rfl
  next hno =>
    rw [if_neg hno] at hsame
    exact absurd (walkOf_iff.mpr hsame) hno

/-! ### An absent page (R347, R411, R413) -/

theorem lookup_absent {ctx : Nat} (hp : pageFor s ctx (page * 65536) = none) : lookup s ctx (page * 65536) =
    if (∃ v ∈ s.violations, v.ctx = ctx ∧ v.va = page * 65536) then .violation
    else if page * 65536 < 2 ^ 52 then .missing 0 else .violation := by
  have hpage : page * 65536 / 65536 * 65536 = page * 65536 := by rw [Nat.mul_div_cancel _ (by decide)]
  have hdenied : (s.violations.any fun x => decide (x.ctx = ctx) && decide (x.va = page * 65536)) = true ↔
      ∃ v ∈ s.violations, v.ctx = ctx ∧ v.va = page * 65536 := by simp
  simp only [lookup, hp, hpage, hdenied]

theorem resolve_absent {ctx : Nat} (hp : pageFor s ctx va = none) : resolve s ctx va = (s, lookup s ctx va) := by
  simp only [resolve, hp]

theorem lookup_of_supplied {ctx : Nat} (hp : pageFor s ctx (page * 65536) = none)
    (hv : ∀ v ∈ s.violations, v.ctx = ctx → v.va ≠ page * 65536) (hva : page * 65536 < 2 ^ 52) :
    lookup s ctx (page * 65536) = .missing 0 := by
  rw [lookup_absent hp, if_neg fun ⟨v, hm, hc, ha⟩ => hv v hm hc ha, if_pos hva]

theorem walkEndsByThePage {w : Walk} (hw : w ∈ s.walks) (hcl : w.cluster = cluster) (has : w.asid = asid)
    (hpg : w.page = page) (hrun : w.running = true) (hc : ctxOfAsid s asid = some c) :
    let va := page * 65536
    let same := fun (x : Walk) => x.cluster = cluster ∧ x.asid = asid ∧ x.page = page
    (∀ p, pageFor s c.id va = some p → p.state = .device → Reaches (.tableWalkComplete cluster asid page) s fun s' =>
      (⟨cluster, asid, p.va, p.bits, p.pa, p.readable, p.writable⟩ : TlbEntry) ∈ s'.tlb ∧ (∀ x ∈ s'.walks, ¬ same x) ∧
        s'.mem = s.mem) ∧
    (pageFor s c.id va = none → (∀ v ∈ s.violations, v.ctx = c.id → v.va ≠ va) → va < 2 ^ 52 →
      Reaches (.tableWalkComplete cluster asid page) s fun s' => s'.tlb = s.tlb ∧
        ∀ x ∈ s'.walks, same x → x.failed = some .missing) ∧
    (pageFor s c.id va = none → (∃ v ∈ s.violations, v.ctx = c.id ∧ v.va = va) →
      Reaches (.tableWalkComplete cluster asid page) s fun s' => s'.tlb = s.tlb ∧
        ∀ x ∈ s'.walks, same x → x.failed = some .violation) := by
  intro va same
  have his : walkOf cluster asid page w = true := walkOf_iff.mpr ⟨hcl, has, hpg⟩
  obtain ⟨-, htlb, hmem⟩ := walkCounted_keeps s c cluster
  refine ⟨fun p hp hd => ?found, fun hp hv hva => ?missing, fun hp hv => ?violation⟩
  case found =>
    refine ⟨_, tableWalk_fills hw his hrun hc (resolve_device hp hd), ?_, fun x hx hsame => ?_, ?_⟩
    · rw [(nextWalk_keeps ..).1]
      exact (tlbFill_keeps ..).1
    · obtain ⟨y, hy, hcl, has, hpg, -⟩ := nextWalk_walks hx
      rw [(tlbFill_keeps ..).2.1] at hy
      have hno := (List.mem_filter.mp hy).2
      rw [walkOf_iff.mpr ⟨hcl ▸ hsame.1, has ▸ hsame.2.1, hpg ▸ hsame.2.2⟩] at hno
      exact absurd hno (by decide)
    · exact (nextWalk_keeps ..).2.trans (((tlbFill_keeps ..).2.2).trans hmem)
  case missing =>
    have hr := (resolve_absent hp).trans (congrArg _ (lookup_of_supplied hp hv hva))
    exact ⟨_, tableWalk_fails hw his hrun hc hr (.inl ⟨0, rfl, rfl⟩), (nextWalk_keeps ..).1.trans htlb,
      fun x hx hsame => failed_walks hx hsame⟩
  case violation =>
    have hr := (resolve_absent hp).trans (congrArg _ ((lookup_absent hp).trans (if_pos hv)))
    exact ⟨_, tableWalk_fails hw his hrun hc hr (.inr ⟨rfl, rfl⟩), (nextWalk_keeps ..).1.trans htlb,
      fun x hx hsame => failed_walks hx hsame⟩

/-! ### The instruction asks for the page it misses (R347, R411) -/

theorem raiseCount_contexts (s : State) (c : Context) (r : PageReq) : (raiseCount s c r).contexts = s.contexts := by
  unfold raiseCount
  cases r.seq <;> rfl

/-- A page that is asked for has a request. -/
theorem requestPage_asks {ctx : Nat} (hc : findCtx s ctx = some c) :
    ∃ c', findCtx (requestPage s ctx cluster va false) ctx = some c' ∧ ∃ r ∈ c'.prReqs, r.va = requestPageVa s ctx va := by
  unfold requestPage
  extract_lets pva kind s1
  suffices h : ∃ c', findCtx s1 ctx = some c' ∧ ∃ r ∈ c'.prReqs, r.va = pva from h
  unfold s1
  simp only [hc, Bool.false_eq_true, if_false, Bool.false_or]
  split
  next => exact ⟨_, findCtx_updCtx hc fun _ => rfl, _, List.mem_append_right _ (List.mem_singleton_self _), rfl⟩
  next r hr =>
    have hva : r.va = pva := by simpa using List.find?_some hr
    have hmem := List.mem_of_find?_eq_some hr
    split
    · exact ⟨c, hc, r, hmem, hva⟩
    · have hc' : findCtx (raiseCount s c r) ctx = some c := by rw [findCtx, raiseCount_contexts]; exact hc
      exact ⟨_, findCtx_updCtx hc' fun _ => rfl, _, List.mem_map.mpr ⟨r, hmem, if_pos hva⟩, hva⟩

theorem useWalks_asks (hc : ctxOfAsid s asid = some c) (hfind : findCtx s c.id = some c)
    (hp : probeAt s cluster asid va = .missing) {k : Nat} (hl : lookup s c.id va = .missing k) :
    ∃ c', findCtx (useWalks s cluster asid [va]) c.id = some c' ∧ ∃ r ∈ c'.prReqs, r.va = requestPageVa s c.id va := by
  have hask : askPage s cluster asid va = requestPage s c.id cluster va false := by
    rw [ctxOfAsid] at hc
    simp only [askPage, hc, hl]
  have huse : useWalks s cluster asid [va] = dropWalks (requestPage s c.id cluster va false) cluster asid [va] := by
    simp only [useWalks, List.filter_cons, hp, decide_true, if_true, List.filter_nil, foldList, hask]
  rw [huse]
  exact requestPage_asks hfind

theorem tableWalksFillTheTlb : Claims.TableWalksFillTheTlb := by
  refine ⟨fun s cluster asid page w c hw hcl has hpg hrun hc _ => walkEndsByThePage hw hcl has hpg hrun hc,
    fun s cluster asid page w c hc hfind => ?_⟩
  intro va hp hv hva htlb hwalk hf
  have hpage : requestPageVa s c.id va = va := by
    have hdiv : page * 65536 / 65536 * 65536 = page * 65536 := by rw [Nat.mul_div_cancel page (show 0 < 65536 by decide)]
    simp only [requestPageVa, hp]
    exact hdiv
  have hasks := useWalks_asks hc hfind (probeAt_missing htlb hwalk hf) (lookup_of_supplied hp hv hva)
  rw [hpage] at hasks
  exact ⟨hasks, rfl⟩

/-! ### PAGE_REQUEST (R11, R411) -/

/-- Every request that stands in the ring leaves it room for one more. -/
theorem ring_has_room (h : ∀ x ∈ c.prReqs, ∀ q, x.seq = some q → c.prSeq < q + 2 ^ c.prLog) :
    (match minByKey id (c.prReqs.filterMap PageReq.seq) with
      | some q => decide (c.prSeq < q + 2 ^ c.prLog)
      | none => true) = true := by
  split
  next q hq =>
    obtain ⟨x, hx, hseq⟩ := List.mem_filterMap.mp (minByKey_mem hq)
    exact decide_eq_true (h x hx q hseq)
  next => rfl

theorem pageRequestsEnterTheRing : Claims.PageRequestsEnterTheRing := by
  intro s ctx c r hc
  refine ⟨fun hno => ?_, fun hg hr hroom => ?_⟩
  · show execPageRequest ctx s = _
    simp only [execPageRequest, hc, hno, Bool.not_false, if_true]
  · show execPageRequest ctx s = _
    have hfree := ring_has_room hroom
    simp only [execPageRequest, hc, hg, hr, Bool.not_true, Bool.false_eq_true, if_false]
    exact if_neg (by rw [Bool.not_eq_true', Bool.eq_false_iff]; exact fun h => h hfree)

/-- Settles O38: a walk ends by the page it finds, a request by the room in the ring. -/
theorem translationAndPageRequests : Obligations.TranslationAndPageRequests :=
  ⟨tableWalksFillTheTlb, pageRequestsEnterTheRing⟩

end Sys2Proof.Machine
end

section
/-! ### An instruction after which others are woken (R201, R205, R258) -/
namespace Sys2Proof.Machine

variable {s s1 s' : State} {t t1 : Thread} {g : Workgroup} {i : Instr} {sw : Bool} {k : SlotKey} {r : Ring} {n : Nat}

/-- What is woken or filed leaves the slot to the thread that runs in it. -/
structure LeavesAlone (s s' : State) : Prop where
  runs : ∀ k t, inRunning k t = true → RunsAlone s k t → RunsAlone s' k t

theorem LeavesAlone.refl (s : State) : LeavesAlone s s := ⟨fun _ _ _ h => h⟩

theorem LeavesAlone.trans {s'' : State} (h : LeavesAlone s s') (h' : LeavesAlone s' s'') : LeavesAlone s s'' :=
  ⟨fun k t hr ha => h'.runs k t hr (h.runs k t hr ha)⟩

theorem SameThreads.leavesAlone (h : SameThreads s s') : LeavesAlone s s' := ⟨fun _ _ _ ha => ha.congr h⟩

theorem retestWg_leavesAlone (s : State) (wg code : Nat) : LeavesAlone s (retestWg s wg code) :=
  ⟨fun _ _ hr ha => ha.retestWg hr⟩

/-- Threads that leave their hold are filed. -/
theorem retestHeld_leavesAlone (s : State) (p : Thread → Bool) : LeavesAlone s (retestHeld s p) := by
  refine ⟨fun k t hrun h => ?_⟩
  refine foldList_keeps (P := fun s' => RunsAlone s' k t) h fun s' u hu hs' => ?_
  split
  next e he =>
    have hne : ¬ (t.wg = u.wg ∧ t.tid = u.tid) := fun ⟨hw, hi⟩ => by
      rw [h.name u hu hw.symm hi.symm] at he
      simp [inRunning, he] at hrun
    have hfile : RunsAlone (fileThread s' (seatResumed s' u e) 1 s'.clock) k t :=
      hs'.fileThread (by rwa [(seatResumed_name s' u e).1, (seatResumed_name s' u e).2])
    exact iteInduction (motive := fun s' => RunsAlone s' k t) (fun _ => hfile) fun _ => hs'
  next => exact hs'

theorem wakeOldest_leavesAlone (s : State) (wg ring : Nat) (q : Bool) : LeavesAlone s (wakeOldest s wg ring q) := by
  unfold wakeOldest
  extract_lets waits s1
  have hs1 : LeavesAlone s s1 := by
    unfold s1
    split
    · exact (wakeRecord_sameThreads ..).leavesAlone
    · exact .refl s
  exact hs1.trans (retestHeld_leavesAlone ..)

/-- A body that wakes others lets its thread go on. -/
theorem ActsAlone.goesOn_waking (h : ActsAlone i sw s t (s1, t1, .next)) (hs : LeavesAlone s s1)
    (hw : t1.wg = t.wg := by rfl) (hi : t1.tid = t.tid := by rfl) (hp : t1.place = t.place := by rfl)
    (hst : t1.seat = t.seat := by rfl) : GoesOn i sw s s1 t1 := by
  obtain ⟨⟨ha, hu⟩, body, he, hb⟩ := h
  obtain ⟨k, hk, hm, hrun, hone⟩ := active_one s t ha
  have hafter := hs.runs k t hrun ⟨hk, hm, hone, hu⟩
  refine he.trans (perThread_one_next i sw body s s1 t t1 k ha hb hafter.turn ⟨t, hafter.mem, hw.symm, hi.symm⟩
    (fun u hu hr => hafter.only u hu hr ▸ ⟨hw.symm, hi.symm⟩) ?_)
  rwa [inRunning_congr hp hst]

/-! ### Waking leaves the workgroups (R258) -/

theorem wakeRecord_wgs (s : State) (id : Nat) : (wakeRecord s id).wgs = s.wgs := by
  unfold wakeRecord
  split
  · rfl
  · split
    · rfl
    · dsimp only
      split
      · exact (refillRecordBins_wgs ..).trans (bufferRecord_wgs ..)
      · rfl

theorem retest_wgs (s : State) (p : Record → Bool) : (retest s p).wgs = s.wgs :=
  foldList_wgs (fun s _ => iteInduction (motive := fun x : State => x.wgs = s.wgs) (fun _ => wakeRecord_wgs ..) fun _ => rfl) _ _

theorem retestHeld_wgs (s : State) (p : Thread → Bool) : (retestHeld s p).wgs = s.wgs := by
  refine foldList_wgs (fun s u => ?_) _ _
  split
  · exact iteInduction (motive := fun x : State => x.wgs = s.wgs) (fun _ => rfl) fun _ => rfl
  · rfl

/-! ### Ring instructions (R204 to R206, R280) -/

section
variable {body : Ring → State → Thread → State × Thread × Fate} (ha : Alone s t) (hg : findWg s t.wg = some g)
  (he : exec i s = ringGang i sw n body s)
include ha hg he

theorem ring_undeclared (hr : findRing g n = none) : TakesTrap i s t 10 0 0 :=
  takesTrap_of_alone (by decide) ha he (by simp only [ringOf, hg, hr])

theorem ring_acts (hr : findRing g n = some r) : ActsAlone i sw s t (body r s t) :=
  ⟨ha, _, he, by simp only [ringOf, hg, hr]⟩

end

/-- A ring operation performed where nothing is recorded: the ring is replaced and the operation counted. -/
theorem ringDone_eq {after : State → State} {f : Thread → Thread} (hg : findWg s t.wg = some g)
    (hn : NotRecorded s g.launch) :
    ringDone s t r after f = (after (setRing s t.wg r), f (countSync t), .next) := by
  have hlog : sramLogged (setRing s t.wg r) t = (setRing s t.wg r, countSync t) :=
    sramLogged_of_notRecorded (findWg_updWg hg fun _ => rfl) hn
  simp only [ringDone, hlog]

theorem setRing_sameThreads (s : State) (wg : Nat) (r : Ring) : SameThreads s (setRing s wg r) := ⟨rfl, rfl⟩

theorem findRing_num (h : findRing g n = some r) : r.num = n := by simpa using List.find?_some h

theorem wakeAfterPop_leavesAlone (r : Ring) (wg : Nat) (s : State) : LeavesAlone s (wakeAfterPop r wg s) := by
  unfold wakeAfterPop
  extract_lets s1
  have hs1 : LeavesAlone s s1 :=
    iteInduction (motive := LeavesAlone s) (fun _ => wakeOldest_leavesAlone ..) fun _ => .refl s
  split
  · exact hs1
  · exact hs1.trans (wakeOldest_leavesAlone ..)

/-! ### What a push and a pop leave (R204, R205) -/

/-- An index that counts round: it turns its phase when it starts again. -/
theorem next_index {x z : Nat} (h : x < z) : (x + 1) % z = (if x + 1 = z then 0 else x + 1) ∧
    ((x + 1) % z = 0 ↔ x + 1 = z) := by
  split
  next he => exact ⟨he ▸ Nat.mod_self _, fun _ => he, fun _ => he ▸ Nat.mod_self _⟩
  next hne =>
    have hlt : (x + 1) % z = x + 1 := Nat.mod_eq_of_lt (by omega)
    exact ⟨hlt, fun h => absurd (hlt.symm.trans h) (by omega), fun h => absurd h hne⟩

theorem ringPush_places {ws : List Word} (ht : r.tail < r.size) :
    (ringPush r ws).tail = (if r.tail + 1 = r.size then 0 else r.tail + 1) ∧
    (ringPush r ws).tph = (if r.tail + 1 = r.size then !r.tph else r.tph) ∧
    (ringPush r ws).head = r.head ∧ (ringPush r ws).hph = r.hph := by
  obtain ⟨hnext, hzero⟩ := next_index ht
  exact ⟨hnext, if_congr hzero rfl rfl, rfl, rfl⟩

/-- The entry pushed into an empty ring is the one at HEAD. -/
theorem ringHead_ringPush {ws : List Word} (he : r.empty = true) : ringHead (ringPush r ws) = ws := by
  have hhead : r.tail = r.head := by
    rw [Ring.empty, Bool.and_eq_true, decide_eq_true_eq] at he
    exact he.1.symm
  rw [ringHead, ringPush]
  simp only [List.find?_cons, hhead, decide_true]

theorem ringPop_places (hres : r.reserve = none) (hh : r.head < r.size) :
    (ringPop r).head = (if r.head + 1 = r.size then 0 else r.head + 1) ∧
    (ringPop r).hph = (if r.head + 1 = r.size then !r.hph else r.hph) ∧
    (ringPop r).tail = r.tail ∧ (ringPop r).tph = r.tph ∧ (ringPop r).entries = r.entries := by
  obtain ⟨hnext, hzero⟩ := next_index hh
  have hpop : ringPop r = { r with
      head := (r.head + 1) % r.size
      hph := if (r.head + 1) % r.size = 0 then !r.hph else r.hph } := by simp only [ringPop, hres]
  rw [hpop]
  exact ⟨hnext, if_congr hzero rfl rfl, rfl, rfl, rfl⟩

/-- Settles O31: each instruction by the state of its ring; the indices by their remainders. -/
theorem stageRings : Obligations.StageRings := by
  refine ⟨fun s t g n a c m ha hg hn => ?instructions, fun r ws hres hh ht => ?places⟩
  case places =>
    obtain ⟨htail, htph, hhead, hhph⟩ := ringPush_places (ws := ws) ht
    exact ⟨htail, htph, hhead, hhph, ringHead_ringPush, ringPop_places hres hh⟩
  case instructions =>
    intro becomes group
    refine ⟨fun hr => ⟨ring_undeclared ha hg rfl hr, ring_undeclared ha hg rfl hr, ring_undeclared ha hg rfl hr,
      ring_undeclared ha hg rfl hr⟩, fun r hr => ?_⟩
    have hset (r' : Ring) : LeavesAlone s (setRing s t.wg r') := (setRing_sameThreads ..).leavesAlone
    have hinit := ring_acts (i := .rinit ⟨n, m⟩) ha hg rfl hr
    have hpush := ring_acts (i := .rpush ⟨n, a, m⟩) ha hg rfl hr
    have hpop := ring_acts (i := .rpop ⟨n, a, m⟩) ha hg rfl hr
    have hpeek := ring_acts (i := .rpeek ⟨n, c, a, m⟩) ha hg rfl hr
    simp only [ringDone_eq hg hn] at hinit hpush hpop hpeek
    refine ⟨⟨_, (retestHeld_wgs ..).trans (retest_wgs ..), hinit.goesOn_waking ?_⟩, fun hc hgr => ?_, fun hf hgr => ?_,
      fun hf hgr => ?_, fun hc hgr hstop ho => ?_, fun hem hstop ho => ?_, fun hem => ?_, ?_⟩
    · exact ((hset _).trans (retest_sameThreads ..).leavesAlone).trans (retestHeld_leavesAlone ..)
    · simp only [hc, decide_eq_false hgr, Bool.and_false, Bool.false_and, Bool.false_eq_true, if_false] at hpush
      exact hpush.goesOn_waking ((hset _).trans (wakeOldest_leavesAlone ..))
    · intro r1 s1
      simp only [hf, decide_eq_true hgr, Bool.false_and, Bool.and_false, Bool.not_true, Bool.true_and, Bool.false_eq_true,
        if_false, if_true, Bool.not_eq_true'] at hpush
      change ActsAlone _ _ s t (if r1.countsFull = false then wakeOldest s1 t.wg r.num true else s1, id (countSync t), .next)
        at hpush
      have hs1 : LeavesAlone s s1 := (hset r1).trans (wakeOldest_leavesAlone ..)
      cases hfull : r1.countsFull with
      | true =>
        rw [if_neg (by rw [hfull]; decide)] at hpush
        exact hpush.goesOn_waking hs1
      | false =>
        rw [if_pos hfull] at hpush
        exact hpush.goesOn_waking (hs1.trans (wakeOldest_leavesAlone ..))
    · simp only [hf, decide_eq_true hgr, Bool.and_self, if_true] at hpush
      exact hpush.goesOn_waking (hset _)
    · simp only [hc, decide_eq_false hgr, Bool.and_false, Bool.not_false, Bool.and_self, Bool.false_eq_true, if_false,
        if_true] at hpush
      exact hpush.blocks_unless (by decide) hstop ho
    · simp only [hem, if_true] at hpop
      exact hpop.blocks_unless (by decide) hstop ho
    · simp only [hem, Bool.false_eq_true, if_false] at hpop
      exact hpop.goesOn_waking ((hset _).trans (wakeAfterPop_leavesAlone ..))
    · cases hem : r.empty with
      | true =>
        simp only [hem, if_true] at hpeek
        exact hpeek.goesOn_waking (hset r)
      | false =>
        simp only [hem, Bool.false_eq_true, if_false] at hpeek
        exact hpeek.goesOn_waking (hset r)

end Sys2Proof.Machine
end

section
/-! ### Barrier objects (R200 to R202) -/
namespace Sys2Proof.Machine

/-! ### Phases and changes (R201, R202) -/

theorem barDone_iff {b : Bar} : b.done = true ↔ b.valid = true ∧ b.pend = 0 ∧ b.inb = 0 ∧ b.outb = 0 := by
  simp [Bar.done, and_assoc]

theorem barCheck_of_done {b : Bar} (h : b.valid = true ∧ b.pend = 0 ∧ b.inb = 0 ∧ b.outb = 0) :
    Bar.check b = { b with ph := !b.ph, gen := (b.gen + 1) % 65536, pend := b.exp } := if_pos (barDone_iff.mpr h)

theorem barCheck_of_not_done {b : Bar} (h : ¬ (b.valid = true ∧ b.pend = 0 ∧ b.inb = 0 ∧ b.outb = 0)) :
    Bar.check b = b := if_neg (mt barDone_iff.mp h)

/-- An object that is initialised counts from its arrivals. -/
theorem barInit_eq {b : Bar} {x : Word} (hx : x.toNat % 65536 ≠ 0) : Bar.init b x =
    { b with exp := x.toNat % 65536, pend := x.toNat % 65536, inb := 0, outb := 0, gen := 0, valid := true, low := 0 } :=
  barCheck_of_not_done fun h => hx h.2.1

theorem barChange_of_valid {b : Bar} (x : Word) (out : Bool) (h : b.valid = true) : barChange 0 x out b = none ∧
    barChange 1 x out b = some (Bar.check { b with pend := b.pend - x.toNat % 65536 }) ∧
    barChange 3 x false b = some (Bar.check { b with inb := b.inb + x }) ∧
    barChange 3 x true b = some (Bar.check { b with outb := b.outb + x }) ∧
    barChange 4 x out b = some { b with valid := false } :=
  ⟨if_pos (.inl h), if_pos h, if_pos h, if_pos h, if_pos h⟩

theorem barChange_of_invalid {b : Bar} (x : Word) (out : Bool) (h : b.valid = false) :
    (x.toNat % 65536 = 0 → barChange 0 x out b = none) ∧
    (x.toNat % 65536 ≠ 0 → barChange 0 x out b = some (Bar.init b x)) ∧
    ∀ fn, fn ∈ [1, 2, 3, 4] → barChange fn x out b = none := by
  refine ⟨fun hx => if_pos (.inr hx), fun hx => if_neg (by simpa [h] using hx), fun fn hfn => ?_⟩
  simp only [List.mem_cons, List.not_mem_nil, or_false] at hfn
  rcases hfn with rfl | rfl | rfl | rfl <;> simp [barChange, h]

/-! ### The object in 16 bytes (R200) -/

theorem boolNat_lt (b : Bool) : boolNat b < 2 := by cases b <;> decide

theorem decide_boolNat (b : Bool) : decide (boolNat b = 1) = b := by cases b <;> rfl

theorem barOf_barBytes {b : Bar} (he : b.exp < 65536) (hp : b.pend < 65536) (hg : b.gen < 65536) (hl : b.low < 2 ^ 14) :
    barOf (barBytes b) = b := by
  obtain ⟨exp, pend, inb, outb, ph, valid, low, gen⟩ := b
  have hi := inb.isLt
  have ho := outb.isLt
  have hph := boolNat_lt ph
  have hv := boolNat_lt valid
  dsimp only at he hp hg hl
  simp only [barOf, barBytes, ofBytes_toBytes, field, flag, Bar.mk.injEq]
  refine ⟨by omega, by omega, BitVec.eq_of_toNat_eq ?_, BitVec.eq_of_toNat_eq ?_, ?_, ?_, by omega, by omega⟩
  · rw [BitVec.toNat_ofNat]; omega
  · rw [BitVec.toNat_ofNat]; omega
  · conv_rhs => rw [← decide_boolNat ph]
    exact decide_eq_decide.mpr (by omega)
  · conv_rhs => rw [← decide_boolNat valid]
    exact decide_eq_decide.mpr (by omega)

theorem barrierObjectsCountPhases : Claims.BarrierObjectsCountPhases := by
  refine ⟨fun b x out => ⟨barChange_of_valid x out, fun h => ?_⟩, fun b => ⟨barCheck_of_done, barCheck_of_not_done⟩,
    fun b => barOf_barBytes⟩
  obtain ⟨hzero, hinit, hno⟩ := barChange_of_invalid x out h
  exact ⟨hzero, fun hx => ⟨_, (hinit hx).trans (congrArg some (barInit_eq hx)), rfl, rfl, rfl, rfl, rfl, rfl, rfl⟩, hno⟩

end Sys2Proof.Machine
end

section
/-! ### Barrier instructions (R165, R201 to R203) -/
namespace Sys2Proof.Machine

variable {s s1 : State} {t t1 : Thread} {l : Launch} {g : Workgroup} {i : Instr} {m : Marks} {b : BarSpec} {stop : Bool}

/-! ### The gang's instruction by its one thread -/

theorem actives_of_updThread {f : Thread → Thread} (ha : Alone s t) (h : SameThreads s s1) (hp : (f t).place = t.place)
    (hst : (f t).seat = t.seat) : f t ∈ actives (updThread s1 t.wg t.tid f) := by
  have hm : t ∈ s.threads ∧ isActive s t = true := 
    List.mem_filter.mp (show t ∈ actives s by rw [ha.1]; exact List.mem_singleton_self t)
  refine List.mem_filter.mpr ⟨List.mem_map.mpr ⟨t, h.threads ▸ hm.1, if_pos (by simp)⟩, ?_⟩
  have hturn : (updThread s1 t.wg t.tid f).turn = s.turn := h.turn
  have hact := hm.2
  unfold isActive at hact ⊢
  rw [hturn]
  split at hact
  · rwa [inRunning_congr hp hst]
  · cases hact

section
variable (hs : StandsIn s t l g) (he : exec i s = barGang i m b s)
include hs he

section
variable (hw : t.waits = []) (hsend : b.send m.stop s t = s)
include hw hsend

/-- With nothing to probe or send, the thread acts at once. -/
theorem bar_acts (hprobe : b.probed s t = []) : ActsAlone i m.sw s t (b.thread (wordOf i) m.stop s t) := by
  refine ⟨hs.1, fun s t => b.thread (wordOf i) m.stop s t, ?_, rfl⟩
  rw [he, barGang, hs.1.1]
  simp only [List.head?_cons, Option.bind_some, hs.envOf, List.flatMap_cons, List.flatMap_nil, hprobe, List.append_nil,
    probeGang_nil, foldList, hsend, hs.1.1, List.any_cons, List.any_nil, hw, List.isEmpty_nil, Bool.not_true, Bool.or_self,
    Bool.false_eq_true, if_false, perThread, useWalks_nil]

/-- With its answer of the probe at hand and nothing to send, too. -/
theorem bar_actsAt {a : Nat} (hprobe : b.probed s t = [a])
    (hp : probeAt s g.home.cluster (asidOf s g.ctx) a ≠ .walking) :
    ActsAt i m.sw s t g a (b.thread (wordOf i) m.stop s t) := by
  refine ⟨hs.1, fun h => absurd h hp, fun s t => b.thread (wordOf i) m.stop s t, rfl, fun s' _ hrun => ?_⟩
  rw [he, barGang, hs.1.1]
  simp only [List.head?_cons, Option.bind_some, hs.envOf, List.flatMap_cons, List.flatMap_nil, hprobe, List.append_nil,
    probeGang_answered hp, foldList, hsend, hs.1.1, List.any_cons, List.any_nil, hw, List.isEmpty_nil, Bool.not_true,
    Bool.or_self, Bool.false_eq_true, if_false, hrun]

end

/-- A thread that has sent a message stays with it. -/
theorem bar_sends {id : Nat} (hprobe : probeGang s g.home g.ctx (b.probed s t) = none) (h : SameThreads s s1)
    (hsend : b.send m.stop s t = updThread s1 t.wg t.tid fun t => { t with waits := t.waits ++ [id] }) :
    exec i s = .next (b.send m.stop s t) := by
  have hwaits : ((actives (b.send m.stop s t)).any fun t => !t.waits.isEmpty) = true := by
    rw [hsend]
    exact List.any_eq_true.mpr ⟨_, actives_of_updThread hs.1 h rfl rfl, by simp⟩
  rw [he, barGang, hs.1.1]
  simp only [List.head?_cons, Option.bind_some, hs.envOf, List.flatMap_cons, List.flatMap_nil, List.append_nil, hprobe,
    foldList, hwaits, if_true]

end

/-! ### What the instruction sends (R201) -/

/-- The message of a barrier instruction, and its thread waiting for it. -/
def barSent (b : BarSpec) (s : State) (t : Thread) (l : Launch) (g : Workgroup) (pa loc : Nat)
    (send : State → Req → State) : State :=
  let r := releaseBefore s t l g (b.obj t) (b.releases s t)
  updThread (send r.1 { plainReq g.home g.ctx t.wg t.tid (b.addr t) pa (.bar (b.fnOf t) (b.operand t) b.out) with
    stage := r.2, loc := loc }) t.wg t.tid fun t => { t with waits := t.waits ++ [r.1.nextId] }

theorem barSent_eq {pa loc : Nat} {send : State → Req → State} {q : Req}
    (hq : q = { messageOf s t g (b.addr t) pa (.bar (b.fnOf t) (b.operand t) b.out) with loc := loc })
    (hsend : ∀ s r n, send s { r with id := n } = send s r) :
    (b.releases s t = false → barSent b s t l g pa loc send = SendsBar send s s [] t q) ∧
    (b.releases s t = true → barSent b s t l g pa loc send = SendsBar send s (releaseObject s l g t.tid (b.obj t)).1
      (outstandingBound s t l (b.obj t) ++ (releaseObject s l g t.tid (b.obj t)).2) t q) := by
  subst hq
  refine ⟨fun h => ?_, fun h => ?_⟩
  · rw [barSent, releaseBefore_of_not h, SendsBar, if_pos rfl]
    exact congrArg (updThread · _ _ _) (hsend s _ s.nextId).symm
  · rw [barSent, releaseBefore_of_release h, SendsBar]
    exact congrArg (updThread · _ _ _) (hsend _ _ s.nextId).symm

theorem barSend_of_answer (h : (barReq s t).isSome = true) : b.send stop s t = s := if_pos (by simp [h])

theorem barSend_of_wrong (h : b.ok s t = false) : b.send stop s t = s := if_pos (by simp [h])

theorem barSend_off_safe_point (hf : b.fn = 2) (h : isSafePoint s t stop = false) : b.send stop s t = s :=
  if_pos (by simp [hf, h])

theorem barSend_checks (hno : barReq s t = none) (hok : b.ok s t = true)
    (hsafe : b.fn = 2 → isSafePoint s t stop = true) : ¬ ((barReq s t).isSome || !b.ok s t || (b.fn = 2 && !isSafePoint s t stop)) = true := by
  by_cases h : b.fn = 2
  · simp [hno, hok, hsafe h]
  · simp [hno, hok, h]

section
variable (hs : StandsIn s t l g)
include hs

theorem barOk_eq : b.ok s t = accessOk s l g (if b.glb then .glb else .scr) (b.addr t) 16 true (!b.await) := by
  simp only [BarSpec.ok, hs.envOf]

theorem barReleases_iff : b.releases s t = true ↔ (b.fnOf t = 1 ∨ b.fnOf t = 2) ∧ ¬ NothingBound s t l g (b.obj t) := by
  simp only [BarSpec.releases, hs.envOf, NothingBound, Bool.and_eq_true, Bool.or_eq_true, decide_eq_true_eq,
    Bool.not_eq_true', not_and_or, Bool.eq_false_iff, ne_eq, List.all_eq_true, List.isEmpty_iff]

section
variable (hno : barReq s t = none) (hok : b.ok s t = true) (hsafe : b.fn = 2 → isSafePoint s t stop = true)
include hno hok hsafe

theorem barSend_scratch (hg : b.glb = false) :
    b.send stop s t = if b.releases s t then barSent b s t l g 0 1 sendReq else s := by
  rw [BarSpec.send, if_neg (barSend_checks hno hok hsafe), hs.envOf]
  by_cases hr : b.releases s t = true
  · rw [if_pos hr]
    exact (if_neg (by simp [hr])).trans (if_pos (by simp [hg]))
  · rw [if_neg hr]
    exact if_pos (by simp [hg, hr])

theorem barSend_global (hg : b.glb = true) {e : TlbEntry}
    (he : tlbAt s g.home.cluster (asidOf s g.ctx) (b.addr t) = some e) :
    b.send stop s t = if permits s g.ctx (b.addr t) true (!b.await)
        (.ok (e.pbase + (b.addr t - e.vbase)) e.readable e.writable)
      then barSent b s t l g (e.pbase + (b.addr t - e.vbase)) 0 sendCounted else s := by
  rw [BarSpec.send, if_neg (barSend_checks hno hok hsafe), hs.envOf]
  refine (if_neg (by simp [hg])).trans ((if_neg (by simp [hg])).trans ?_)
  rw [probeAt_of_entry he]
  rfl

end

end

end Sys2Proof.Machine
end

section
/-! ### What a barrier instruction finds and does (R165, R202, R203) -/
namespace Sys2Proof.Machine

variable {s s1 : State} {t t1 : Thread} {l : Launch} {g : Workgroup} {i : Instr} {m : Marks} {b : BarSpec} {stop : Bool}
  {word : BitVec 32} {fn off : Nat} {operand : Word} {out : Bool} {q : Req} {r : BarResult}

/-- A thread blocks after others have been woken. -/
theorem ActsAlone.blocks_waking {wake n : Nat} {sw f : Bool} (h : ActsAlone i sw s t (s1, t1, .block wake n f))
    (hs : LeavesAlone s s1) (hwake : wake < 10) (hw : t1.wg = t.wg := by rfl) (hi : t1.tid = t.tid := by rfl) :
    BlocksIn i s s1 t1 wake n f := by
  obtain ⟨⟨ha, hu⟩, body, he, hb⟩ := h
  obtain ⟨k, hk, hm, hrun, hone⟩ := active_one s t ha
  have hafter := hs.runs k t hrun ⟨hk, hm, hone, hu⟩
  exact he.trans (perThread_one_block i sw body s s1 t t1 wake n f ha hb hwake ⟨t, hafter.mem, hw.symm, hi.symm⟩)

/-! ### A change of a scratch object at its bank (R201) -/

theorem barResult_of_none {b : Bar} (h : barChange fn operand out b = none) :
    barResult fn operand out b = ⟨false, b.ph, b.ph⟩ := by rw [barResult, h]

theorem barResult_of_some {b b' : Bar} (h : barChange fn operand out b = some b') :
    barResult fn operand out b = ⟨true, b.ph, b'.ph⟩ := by rw [barResult, h]

theorem barChange_read {b : Bar} (h : b.valid = true) : barChange 5 operand out b = some b := if_pos h

section
variable (hs : StandsIn s t l g)
include hs

theorem scratchChange_refused (h : barChange fn operand out (scratchBar g off) = none) :
    scratchChange fn operand out off s t = (s, t, ⟨false, (scratchBar g off).ph, (scratchBar g off).ph⟩) := by
  simp only [scratchChange, hs.2.2, h, barResult_of_none h]

theorem scratchChange_read (h : (scratchBar g off).valid = true) :
    scratchChange 5 operand out off s t = (s, t, ⟨true, (scratchBar g off).ph, (scratchBar g off).ph⟩) := by
  simp only [scratchChange, hs.2.2, barChange_read h, barResult_of_some (barChange_read h), if_true]

theorem scratchWrite_unlogged (hn : NotRecorded s g.launch) (off : Nat) (bs : List Byte) :
    sramLogged (scratchWrite s g.id off bs) t = (scratchWrite s g.id off bs, countSync t) := by
  have hkept : NotRecorded (scratchWrite s t.wg off bs) g.launch := hn
  have hwg : findWg (scratchWrite s t.wg off bs) t.wg = some { g with scratch := writeBytes g.scratch off bs } :=
    findWg_updWg hs.2.2 fun _ => rfl
  rw [hs.wg_id]
  exact sramLogged_of_notRecorded hwg hkept

theorem scratchChange_done (hn : NotRecorded s g.launch) (hfn : fn ≠ 5) {b' : Bar}
    (h : barChange fn operand out (scratchBar g off) = some b') : scratchChange fn operand out off s t =
      (objectBecomes s g off b', countSync t, ⟨true, (scratchBar g off).ph, b'.ph⟩) := by
  have hlog := scratchWrite_unlogged hs hn off (barBytes b')
  simp only [scratchChange, hs.2.2, h, barResult_of_some h, if_neg hfn, hlog]
  rfl

end

theorem objectBecomes_leavesAlone (s : State) (g : Workgroup) (off : Nat) (b : Bar) :
    LeavesAlone s (objectBecomes s g off b) :=
  have hset : SameThreads s (scratchWrite s g.id off (barBytes b)) := ⟨rfl, rfl⟩
  hset.leavesAlone.trans (retestWg_leavesAlone ..)

/-! ### What follows from the result (R165, R203) -/

theorem ofBarReply_barReply (r : BarResult) : ofBarReply (barReply r) = r := by
  obtain ⟨u, v, w⟩ := r
  cases u <;> cases v <;> cases w <;> rfl

theorem barFinish_refused (hr : r.ok = false) :
    b.finish stop r s t = (s, { t with mark := none }, accessTrap (b.addr t)) := by simp only [BarSpec.finish, hr]; rfl

section
variable (hr : r.ok = true)
include hr

theorem barFinish_change (ha : b.await = false) (hf : b.fn ≠ 2) : b.finish stop r s t = (s, t, .next) := by
  simp only [BarSpec.finish, hr, ha, if_neg hf, Bool.not_true, Bool.false_eq_true, if_false]

section
variable {ph : Bool} (ha : b.await = false) (hf : b.fn = 2) (hseen : t.mark.getD r.before = ph)
include ha hf hseen

theorem barFinish_wait_over (hph : r.after ≠ ph) :
    b.finish stop r s t = (acquireFor s t (b.obj t), { t with mark := none }, .next) := by
  subst hseen
  simp only [BarSpec.finish, hr, ha, if_pos hf, if_pos hph, Bool.not_true, Bool.false_eq_true, if_false]

theorem barFinish_wait_blocks (hph : r.after = ph) : b.finish stop r s t =
    (s, { t with mark := some ph }, .block 1 (b.addr t + if ph then 1 else 0) b.glb) := by
  subst hseen
  simp only [BarSpec.finish, hr, ha, if_pos hf, if_neg (not_not.mpr hph), Bool.not_true, Bool.false_eq_true, if_false]

end

section
variable (ha : b.await = true)
include ha

theorem barFinish_await_over (hph : r.after ≠ (b.operand t).getLsbD 0) :
    b.finish stop r s t = (acquireFor s t (b.obj t), t, .next) := by
  simp only [BarSpec.finish, hr, ha, decide_eq_true hph, if_true, Bool.not_true, Bool.false_eq_true, if_false]

theorem barFinish_await_blocks (hph : r.after = (b.operand t).getLsbD 0) : b.finish stop r s t =
    (s, t, blockUnless false stop 1 (b.addr t + if (b.operand t).getLsbD 0 then 1 else 0) b.glb s t) := by
  simp only [BarSpec.finish, hr, ha, decide_eq_false (not_not.mpr hph), if_true, Bool.not_true, Bool.false_eq_true, if_false]

end

end

/-! ### The thread, by what stands at it -/

theorem barThread_answered {bs : List Byte} (hq : barReq s t = some q) (hst : q.stage = .taken bs) :
    b.thread word stop s t = b.finish stop (ofBarReply bs) (dropReq s q.id) t := by simp only [BarSpec.thread, hq, hst]

theorem barThread_no_trap (hsafe : b.fn = 2 → isSafePoint s t stop = true) :
    ¬ (b.fn = 2 ∧ isSafePoint s t stop = false) := fun ⟨hf, h⟩ => by
  rw [hsafe hf] at h; cases h

section
variable (hno : barReq s t = none)
include hno

theorem barThread_off_safe_point (hf : b.fn = 2) (h : isSafePoint s t stop = false) :
    b.thread word stop s t = (s, t, .plain 8) := by simp only [BarSpec.thread, hno, if_pos (And.intro hf h)]

variable (hsafe : b.fn = 2 → isSafePoint s t stop = true)
include hsafe

theorem barThread_wrong (hok : b.ok s t = false) :
    b.thread word stop s t = (s, t, if b.await && !b.glb then .plain 10 else accessTrap (b.addr t)) := by
  simp only [BarSpec.thread, hno, if_neg (barThread_no_trap hsafe), hok, Bool.not_false, if_true]

variable (hok : b.ok s t = true)
include hok

theorem barThread_scratch (hg : b.glb = false) : b.thread word stop s t =
    b.finish stop (scratchChange (b.fnOf t) (b.operand t) b.out (b.addr t) s t).2.2
      (scratchChange (b.fnOf t) (b.operand t) b.out (b.addr t) s t).1
      (scratchChange (b.fnOf t) (b.operand t) b.out (b.addr t) s t).2.1 := by
  simp only [BarSpec.thread, hno, if_neg (barThread_no_trap hsafe), hok, hg, Bool.not_true, Bool.false_eq_true, if_false]

/-- A global object whose page refuses the change. -/
theorem barThread_refused (hs : StandsIn s t l g) (hg : b.glb = true) (ha : b.await = false) {e : TlbEntry}
    (he : tlbAt s g.home.cluster (asidOf s g.ctx) (b.addr t) = some e) :
    b.thread word stop s t = (deniedStore s g (b.addr t), t, accessTrap (b.addr t)) := by
  simp only [BarSpec.thread, hno, if_neg (barThread_no_trap hsafe), hok, hg, ha, hs.2.2, probeAt_of_entry he,
    Bool.not_true, Bool.not_false, Bool.and_self, Bool.false_eq_true, if_false, if_true]

end

/-! ### The address checks -/

theorem barOk_scratch (hs : StandsIn s t l g) (hg : b.glb = false) :
    b.ok s t = true ↔ b.addr t < scratchBytes l ∧ b.addr t % 16 = 0 := by rw [barOk_eq hs, hg]; exact accessOk_scr

theorem barProbed_scratch (hg : b.glb = false) : b.probed s t = [] := if_neg (by simp [hg])

theorem barProbed_wrong (hok : b.ok s t = false) : b.probed s t = [] := if_neg (by simp [hok])

theorem barProbed_answered (hq : (barReq s t).isSome = true) : b.probed s t = [] :=
  if_neg (by rw [Bool.and_eq_true, Option.isNone_iff_eq_none]; exact fun h => by simp [h.2] at hq)

theorem barProbed_global (hno : barReq s t = none) (hg : b.glb = true) (hok : b.ok s t = true) :
    b.probed s t = [b.addr t] := if_pos (by simp [hno, hg, hok])

theorem barFnOf_change (h : b.fn ≠ 2) : b.fnOf t = b.fn := if_neg fun hf => h hf.1

theorem barFnOf_first (h : b.fn = 2) (hm : t.mark = none) : b.fnOf t = 2 := (if_neg (by simp [hm])).trans h

theorem barFnOf_marked {ph : Bool} (h : b.fn = 2) (hm : t.mark = some ph) : b.fnOf t = 5 := if_pos ⟨h, by simp [hm]⟩

theorem barObj_scratch (h : b.glb = false) : b.obj t = scratchObject (b.addr t) := if_neg (by simp [h])

theorem barObj_global (h : b.glb = true) : b.obj t = b.addr t := if_pos h

section
variable (hs : StandsIn s t l g) (he : exec i s = barGang i m b s) (hw : t.waits = [])
include hs he hw

omit he hw in
theorem barReleases_of_fn (h1 : b.fnOf t ≠ 1) (h2 : b.fnOf t ≠ 2) : b.releases s t = false :=
  Bool.eq_false_iff.mpr fun h => ((barReleases_iff hs).mp h).1.elim h1 h2

/-- Off a safe point a wait takes NOSAFE. -/
theorem bar_off_safe_point (hno : barReq s t = none) (hf : b.fn = 2) (hg : b.glb = false)
    (h : isSafePoint s t m.stop = false) : ActsAlone i m.sw s t (s, t, .plain 8) := by
  have hacts := bar_acts hs he hw (barSend_off_safe_point hf h) (barProbed_scratch hg)
  rwa [barThread_off_safe_point hno hf h] at hacts

/-- With its answer there, the thread finishes. -/
theorem bar_finishes {bs : List Byte} (hq : barReq s t = some q) (hst : q.stage = .taken bs) :
    ActsAlone i m.sw s t (b.finish m.stop (ofBarReply bs) (dropReq s q.id) t) := by
  have hsome : (barReq s t).isSome = true := by rw [hq]; rfl
  have hacts := bar_acts hs he hw (barSend_of_answer hsome) (barProbed_answered hsome)
  rwa [barThread_answered hq hst] at hacts

variable (hno : barReq s t = none)
include hno

theorem bar_wrong (hsafe : b.fn = 2 → isSafePoint s t m.stop = true) (hok : b.ok s t = false) :
    ActsAlone i m.sw s t (s, t, if b.await && !b.glb then .plain 10 else accessTrap (b.addr t)) := by
  have hacts := bar_acts hs he hw (barSend_of_wrong hok) (barProbed_wrong hok)
  rwa [barThread_wrong hno hsafe hok] at hacts

section
variable (hsafe : b.fn = 2 → isSafePoint s t m.stop = true) (hok : b.ok s t = true)
include hsafe hok

/-- A scratch object with nothing to release before it is changed at once. -/
theorem bar_changes (hg : b.glb = false) (hrel : b.releases s t = false)
    (hc : scratchChange (b.fnOf t) (b.operand t) b.out (b.addr t) s t = (s1, t1, r)) :
    ActsAlone i m.sw s t (b.finish m.stop r s1 t1) := by
  have hsend : b.send m.stop s t = s := by
    rw [barSend_scratch hs hno hok hsafe hg, if_neg (by simp [hrel])]
  have hacts := bar_acts hs he hw hsend (barProbed_scratch hg)
  rwa [barThread_scratch hno hsafe hok hg, hc] at hacts

omit hw in
/-- An arrival at one with bytes to release is sent as a message. -/
theorem bar_sends_scratch (hg : b.glb = false) (hrel : b.releases s t = true) : exec i s = .next (SendsBar sendReq s
    (releaseObject s l g t.tid (b.obj t)).1 (outstandingBound s t l (b.obj t) ++ (releaseObject s l g t.tid (b.obj t)).2) t
    { messageOf s t g (b.addr t) 0 (.bar (b.fnOf t) (b.operand t) b.out) with loc := 1 }) := by
  have hsend : b.send m.stop s t = SendsBar sendReq s (releaseObject s l g t.tid (b.obj t)).1
      (outstandingBound s t l (b.obj t) ++ (releaseObject s l g t.tid (b.obj t)).2) t
      { messageOf s t g (b.addr t) 0 (.bar (b.fnOf t) (b.operand t) b.out) with loc := 1 } := by
    rw [barSend_scratch hs hno hok hsafe hg, if_pos hrel]
    exact (barSent_eq rfl fun _ _ _ => rfl).2 hrel
  have hprobe : probeGang s g.home g.ctx (b.probed s t) = none := by rw [barProbed_scratch hg]; rfl
  rw [← hsend]
  refine bar_sends hs he hprobe (s1 := sendReq (releaseObject s l g t.tid (b.obj t)).1 _) ?_ hsend
  exact (releaseObject_cachesOnly ..).sameThreads.trans ⟨rfl, rfl⟩

section
variable (hg : b.glb = true) (ha : b.await = false) {e : TlbEntry}
  (hentry : tlbAt s g.home.cluster (asidOf s g.ctx) (b.addr t) = some e)
include hg ha hentry

/-- A global object whose page refuses the change: an ACCESS trap. -/
theorem bar_refused (hp : permits s g.ctx (b.addr t) true true (.ok (e.pbase + (b.addr t - e.vbase)) e.readable e.writable)
    ≠ true) : ActsAt i m.sw s t g (b.addr t) (deniedStore s g (b.addr t), t, accessTrap (b.addr t)) := by
  have hsend : b.send m.stop s t = s := by
    rw [barSend_global hs hno hok hsafe hg hentry, if_neg (by rw [ha]; exact hp)]
  have hacts := bar_actsAt hs he hw hsend (barProbed_global hno hg hok) (probe_answered hentry)
  rwa [barThread_refused hno hsafe hok hs hg ha hentry] at hacts

omit hw in
/-- One whose page permits it is changed by a message, which waits for what the thread releases. -/
theorem bar_sends_global (hp : permits s g.ctx (b.addr t) true true (.ok (e.pbase + (b.addr t - e.vbase)) e.readable e.writable)
    = true) {s1 : State} {ids : List Nat} (hrel : (b.releases s t = false ∧ s1 = s ∧ ids = []) ∨ (b.releases s t = true ∧
      s1 = (releaseObject s l g t.tid (b.obj t)).1 ∧
      ids = outstandingBound s t l (b.obj t) ++ (releaseObject s l g t.tid (b.obj t)).2)) :
    exec i s = .next (SendsBar sendCounted s s1 ids t
      (messageOf s t g (b.addr t) (e.pbase + (b.addr t - e.vbase)) (.bar (b.fnOf t) (b.operand t) b.out))) := by
  have hsend : b.send m.stop s t = SendsBar sendCounted s s1 ids t
      (messageOf s t g (b.addr t) (e.pbase + (b.addr t - e.vbase)) (.bar (b.fnOf t) (b.operand t) b.out)) := by
    rw [barSend_global hs hno hok hsafe hg hentry, if_pos (by rw [ha]; exact hp)]
    rcases hrel with ⟨hrel, rfl, rfl⟩ | ⟨hrel, rfl, rfl⟩
    · exact (barSent_eq rfl fun _ _ _ => rfl).1 hrel
    · exact (barSent_eq rfl fun _ _ _ => rfl).2 hrel
  have hkeeps : SameThreads s s1 := by
    rcases hrel with ⟨-, rfl, -⟩ | ⟨-, rfl, -⟩
    · exact .refl s1
    · exact (releaseObject_cachesOnly ..).sameThreads
  have hprobe : probeGang s g.home g.ctx (b.probed s t) = none := by
    rw [barProbed_global hno hg hok]
    exact probeGang_answered (probe_answered hentry)
  rw [← hsend]
  exact bar_sends hs he hprobe (s1 := sendCounted s1 _) (hkeeps.trans (sendCounted_cachesOnly ..).sameThreads) hsend

end

end

end

end Sys2Proof.Machine
end

section
/-! ### The barrier instructions, one by one (R165, R202, R203) -/
namespace Sys2Proof.Machine

variable {s : State} {t : Thread} {l : Launch} {g : Workgroup} {i : Instr} {m : Marks} {b : BarSpec} {fn a : Nat}
  {glb out : Bool} {operand : Word}

/-! ### Changes -/

/-- An instruction that changes an object, by the numbers of its specification. -/
theorem IsBarChange.spec (h : IsBarChange t i m fn glb out a operand) : ∃ b : BarSpec, (∀ s, exec i s = barGang i m b s) ∧
    b.fn = fn ∧ b.glb = glb ∧ b.out = out ∧ b.addr t = a ∧ b.operand t = operand ∧ b.await = false ∧ fn ≠ 2 ∧ fn ≠ 5 := by
  obtain ⟨r, rfl, ⟨n, rfl, rfl, rfl, rfl⟩ | ⟨n, rfl, rfl, rfl, rfl⟩ | ⟨n, rfl, rfl, rfl⟩ | ⟨rfl, rfl, rfl, rfl⟩⟩ := h
  · exact ⟨barSpecOf 0 ⟨glb, n, r, m⟩, fun _ => rfl, rfl, rfl, rfl, rfl, rfl, rfl, by decide, by decide⟩
  · exact ⟨barSpecOf 1 ⟨glb, n, r, m⟩, fun _ => rfl, rfl, rfl, rfl, rfl, rfl, rfl, by decide, by decide⟩
  · exact ⟨⟨3, glb, out, barAddr glb r, fun t => getV t n, false⟩, fun _ => rfl, rfl, rfl, rfl, rfl, rfl, rfl, by decide,
      by decide⟩
  · exact ⟨⟨4, glb, false, barAddr glb r, fun _ => 0, false⟩, fun _ => rfl, rfl, rfl, rfl, rfl, rfl, rfl, by decide,
      by decide⟩

section
variable (hs : StandsIn s t l g) (hw : t.waits = []) (he : exec i s = barGang i m b s) (ha : b.await = false) (h2 : b.fn ≠ 2)
include hs hw he ha h2

theorem scratchChangesTheObject (hn : NotRecorded s g.launch) (h5 : b.fn ≠ 5) (hg : b.glb = false)
    (hno : barReq s t = none) :
    let obj := scratchObject (b.addr t)
    (b.addr t < scratchBytes l → b.addr t % 16 = 0 → b.fn ≠ 1 ∨ NothingBound s t l g obj →
      (∀ c, barChange b.fn (b.operand t) b.out (scratchBar g (b.addr t)) = some c →
        GoesOn i m.sw s (objectBecomes s g (b.addr t) c) (counted t)) ∧
      (barChange b.fn (b.operand t) b.out (scratchBar g (b.addr t)) = none → exec i s = .next (settleTurn (takeTrap
        (setThread s { t with mark := none }) [{ t with mark := none }] 14 0 (BitVec.ofNat 64 (b.addr t)) (wordOf i))))) ∧
    (b.addr t < scratchBytes l → b.addr t % 16 = 0 → b.fn = 1 → ¬ NothingBound s t l g obj →
      exec i s = .next (SendsBar sendReq s (releaseObject s l g t.tid obj).1
        (outstandingBound s t l obj ++ (releaseObject s l g t.tid obj).2) t
        { messageOf s t g (b.addr t) 0 (.bar b.fn (b.operand t) b.out) with loc := 1 })) ∧
    (¬ (b.addr t < scratchBytes l ∧ b.addr t % 16 = 0) → TakesTrap i s t 14 0 (BitVec.ofNat 64 (b.addr t))) := by
  intro obj
  have hsafe : b.fn = 2 → isSafePoint s t m.stop = true := fun h => absurd h h2
  have hfn := barFnOf_change (t := t) h2
  have hobj : b.obj t = obj := barObj_scratch hg
  refine ⟨fun hlt hal hrel => ?now, fun hlt hal h1 hb => ?message, fun hbad => ?wrong⟩
  case now =>
    have hfree : b.releases s t = false := Bool.eq_false_iff.mpr fun h => by
      obtain ⟨hf, hb⟩ := (barReleases_iff hs).mp h
      rw [hfn] at hf
      rw [hobj] at hb
      exact hrel.elim (fun h1 => hf.elim h1 h2) hb
    have hok := (barOk_scratch hs hg).mpr ⟨hlt, hal⟩
    refine ⟨fun c hc => ?_, fun hc => ?_⟩
    · rw [← hfn] at hc h5
      have hacts := bar_changes hs he hw hno hsafe hok hg hfree (scratchChange_done hs hn h5 hc)
      rw [barFinish_change rfl ha h2] at hacts
      exact hacts.goesOn_waking (objectBecomes_leavesAlone ..)
    · rw [← hfn] at hc
      have hacts := bar_changes hs he hw hno hsafe hok hg hfree (scratchChange_refused hs hc)
      rw [barFinish_refused rfl] at hacts
      exact hacts.traps_in nofun
  case message =>
    have hrel : b.releases s t = true := (barReleases_iff hs).mpr ⟨.inl (hfn.trans h1), hobj ▸ hb⟩
    have hsends := bar_sends_scratch hs he hno hsafe ((barOk_scratch hs hg).mpr ⟨hlt, hal⟩) hg hrel
    rwa [hfn, hobj] at hsends
  case wrong =>
    have hacts := bar_wrong hs he hw hno hsafe (Bool.eq_false_iff.mpr (mt (barOk_scratch hs hg).mp hbad))
    rw [ha] at hacts
    exact hacts.traps nofun

theorem globalChangeIsAMessage (hg : b.glb = true) :
    (barReq s t = none → accessOk s l g .glb (b.addr t) 16 true true = false →
      TakesTrap i s t 14 0 (BitVec.ofNat 64 (b.addr t))) ∧
    (barReq s t = none → accessOk s l g .glb (b.addr t) 16 true true = true →
      ∀ e, tlbAt s g.home.cluster (asidOf s g.ctx) (b.addr t) = some e →
        (∀ s1, freezeFor s g.ctx (b.addr t) 1 (e.pbase + (b.addr t - e.vbase)) = some s1 →
          TrapsAt i s s1 t g (b.addr t) 14) ∧
        (freezeFor s g.ctx (b.addr t) 1 (e.pbase + (b.addr t - e.vbase)) = none →
          (e.readable = false ∨ e.writable = false → TrapsAt i s s t g (b.addr t) 14) ∧
          (e.readable = true → e.writable = true →
            let q := messageOf s t g (b.addr t) (e.pbase + (b.addr t - e.vbase)) (.bar b.fn (b.operand t) b.out)
            (b.fn ≠ 1 ∨ NothingBound s t l g (b.addr t) → exec i s = .next (SendsBar sendCounted s s [] t q)) ∧
            (b.fn = 1 → ¬ NothingBound s t l g (b.addr t) → exec i s = .next (SendsBar sendCounted s
              (releaseObject s l g t.tid (b.addr t)).1
              (outstandingBound s t l (b.addr t) ++ (releaseObject s l g t.tid (b.addr t)).2) t q))))) ∧
    ∀ q bs, barReq s t = some q → q.stage = .taken bs →
      (∀ u v : Bool, bs = barReply ⟨true, u, v⟩ → GoesOn i m.sw s (dropReq s q.id) t) ∧
      ∀ u v : Bool, bs = barReply ⟨false, u, v⟩ → exec i s = .next (settleTurn (takeTrap
        (setThread (dropReq s q.id) { t with mark := none }) [{ t with mark := none }] 14 0
          (BitVec.ofNat 64 (b.addr t)) (wordOf i))) := by
  have hsafe : b.fn = 2 → isSafePoint s t m.stop = true := fun h => absurd h h2
  have hfn := barFnOf_change (t := t) h2
  have hobj : b.obj t = b.addr t := barObj_global hg
  have hok : b.ok s t = accessOk s l g .glb (b.addr t) 16 true true := by rw [barOk_eq hs, hg, ha]; rfl
  refine ⟨fun hno hacc => ?wrong, fun hno hacc e hentry => ⟨fun s1 hf => ?frozen, fun hf => ⟨fun hden => ?denied,
    fun hrd hwr => ?sent⟩⟩, fun q bs hq hst => ?answered⟩
  case wrong =>
    have hacts := bar_wrong hs he hw hno hsafe (hok.trans hacc)
    rw [ha] at hacts
    exact hacts.traps nofun
  case frozen =>
    have hacts := bar_refused hs he hw hno hsafe (hok.trans hacc) hg ha hentry fun h =>
      absurd (((permits_eq_true.mp h).2 rfl).2.symm.trans hf) nofun
    rw [deniedStore_of_entry hentry, hf] at hacts
    exact hacts.traps (probe_answered hentry)
  case denied =>
    have hacts := bar_refused hs he hw hno hsafe (hok.trans hacc) hg ha hentry fun h => by
      obtain ⟨hrd, hwr⟩ := permits_eq_true.mp h
      rcases hden with h | h
      · exact absurd ((hrd rfl).symm.trans h) nofun
      · exact absurd ((hwr rfl).1.symm.trans h) nofun
    rw [deniedStore_of_entry hentry, hf] at hacts
    exact hacts.traps (probe_answered hentry)
  case sent =>
    intro q
    have hp : permits s g.ctx (b.addr t) true true (.ok (e.pbase + (b.addr t - e.vbase)) e.readable e.writable) = true :=
      permits_eq_true.mpr ⟨fun _ => hrd, fun _ => ⟨hwr, hf⟩⟩
    have hreleases : b.releases s t = true ↔ b.fn = 1 ∧ ¬ NothingBound s t l g (b.addr t) := by
      rw [barReleases_iff hs, hfn, hobj, or_iff_left h2]
    have hsends {s1 : State} {ids : List Nat} (h) :=
      bar_sends_global (s1 := s1) (ids := ids) hs he hno hsafe (hok.trans hacc) hg ha hentry hp h
    rw [hfn, hobj] at hsends
    refine ⟨fun hrel => hsends (.inl ⟨Bool.eq_false_iff.mpr fun h => ?_, rfl, rfl⟩), fun h1 hb =>
      hsends (.inr ⟨hreleases.mpr ⟨h1, hb⟩, rfl, rfl⟩)⟩
    obtain ⟨h1, hb⟩ := hreleases.mp h
    exact hrel.elim (· h1) hb
  case answered =>
    have hacts := bar_finishes hs he hw hq hst
    refine ⟨fun u v hbs => ?_, fun u v hbs => ?_⟩
    · rw [hbs, ofBarReply_barReply, barFinish_change rfl ha h2] at hacts
      exact hacts.goesOn ⟨rfl, rfl, rfl, rfl, rfl, rfl⟩
    · rw [hbs, ofBarReply_barReply, barFinish_refused rfl] at hacts
      exact hacts.traps_in nofun

end

theorem barrierInstructionsChangeTheObject : Claims.BarrierInstructionsChangeTheObject := by
  intro s t l g i m fn out a operand hs hn hw
  refine ⟨fun hi hno => ?scratch, fun hi => ?global⟩
  case scratch =>
    obtain ⟨b, he, rfl, hg, rfl, rfl, rfl, ha, h2, h5⟩ := hi.spec
    exact scratchChangesTheObject hs hw (he s) ha h2 hn h5 hg hno
  case global =>
    obtain ⟨b, he, rfl, hg, rfl, rfl, rfl, ha, h2, h5⟩ := hi.spec
    exact globalChangeIsAMessage hs hw (he s) ha h2 hg

/-! ### Waits (R165, R203) -/

section
variable {n r : BitVec 6} (hs : StandsIn s t l g) (hw : t.waits = [])

/-- The specifications of `bar.wait` and `await.bar`. -/
def waitSpec (glb : Bool) (n r : BitVec 6) (m : Marks) : BarSpec := barSpecOf 2 ⟨glb, n, r, m⟩
def awaitSpec (glb : Bool) (n r : BitVec 6) : BarSpec := ⟨5, glb, false, barAddr glb r, fun t => getV t n, true⟩

theorem exec_barWait : exec (.barWait ⟨glb, n, r, m⟩) s = barGang (.barWait ⟨glb, n, r, m⟩) m (waitSpec glb n r m) s := rfl

theorem exec_awaitBar : exec (.awaitBar ⟨glb, n, r, m⟩) s = barGang (.awaitBar ⟨glb, n, r, m⟩) m (awaitSpec glb n r) s := rfl

theorem mark_self {ph : Bool} (h : t.mark = some ph) : { t with mark := some ph } = t := by rw [← h]

include hs hw

section
variable (hno : barReq s t = none) (hlt : (getV t r).toNat < scratchBytes l) (hal : (getV t r).toNat % 16 = 0)
include hno hlt hal

section
variable (hsafe : isSafePoint s t m.stop = true)
include hsafe

/-- The first pass of `bar.wait` with nothing to release: it arrives, and waits for the phase it saw. -/
theorem scratchWait_arrives (hn : NotRecorded s g.launch) (hm : t.mark = none)
    (hb : NothingBound s t l g (scratchObject (getV t r).toNat)) {c : Bar}
    (hc : barChange 2 (getV t n) false (scratchBar g (getV t r).toNat) = some c) :
    (c.ph ≠ (scratchBar g (getV t r).toNat).ph → GoesOn (.barWait ⟨false, n, r, m⟩) m.sw s
      (acquireFor (objectBecomes s g (getV t r).toNat c) (counted t) (scratchObject (getV t r).toNat))
      { counted t with mark := none }) ∧
    (c.ph = (scratchBar g (getV t r).toNat).ph → BlocksIn (.barWait ⟨false, n, r, m⟩) s (objectBecomes s g (getV t r).toNat c)
      { counted t with mark := some (scratchBar g (getV t r).toNat).ph } 1
      ((getV t r).toNat + if (scratchBar g (getV t r).toNat).ph then 1 else 0) false) := by
  have hok : (waitSpec false n r m).ok s t = true := (barOk_scratch hs rfl).mpr ⟨hlt, hal⟩
  have hfirst := barFnOf_first (b := waitSpec false n r m) rfl hm
  have hfree : (waitSpec false n r m).releases s t = false :=
    Bool.eq_false_iff.mpr fun h => ((barReleases_iff hs).mp h).2 hb
  have hacts := bar_changes hs exec_barWait hw hno (fun _ => hsafe) hok rfl hfree
    (hfirst ▸ scratchChange_done hs hn (by decide) hc)
  have hseen : (countSync t).mark.getD (scratchBar g (getV t r).toNat).ph = (scratchBar g (getV t r).toNat).ph := by
    rw [show (countSync t).mark = none from hm]
    rfl
  refine ⟨fun hph => ?_, fun hph => ?_⟩
  · rw [barFinish_wait_over rfl rfl rfl hseen hph] at hacts
    exact hacts.goesOn_waking ((objectBecomes_leavesAlone ..).trans (acquireFor_cachesOnly ..).sameThreads.leavesAlone)
  · rw [barFinish_wait_blocks rfl rfl rfl hseen hph] at hacts
    exact hacts.blocks_waking (objectBecomes_leavesAlone ..) (by decide)

omit hw in
/-- With something to release, its arrival is a message. -/
theorem scratchWait_sends (hm : t.mark = none) (hb : ¬ NothingBound s t l g (scratchObject (getV t r).toNat)) :
    exec (.barWait ⟨false, n, r, m⟩) s = .next (SendsBar sendReq s
      (releaseObject s l g t.tid (scratchObject (getV t r).toNat)).1
      (outstandingBound s t l (scratchObject (getV t r).toNat) ++
        (releaseObject s l g t.tid (scratchObject (getV t r).toNat)).2) t
      { messageOf s t g (getV t r).toNat 0 (.bar 2 (getV t n) false) with loc := 1 }) := by
  have hfirst := barFnOf_first (b := waitSpec false n r m) rfl hm
  have hrel : (waitSpec false n r m).releases s t = true := (barReleases_iff hs).mpr ⟨.inr hfirst, hb⟩
  have hok : (waitSpec false n r m).ok s t = true := (barOk_scratch hs rfl).mpr ⟨hlt, hal⟩
  have hsends := bar_sends_scratch hs exec_barWait hno (fun _ => hsafe) hok rfl hrel
  rw [hfirst] at hsends
  exact hsends

/-- A later pass only reads the object. -/
theorem scratchWait_reads (hv : (scratchBar g (getV t r).toNat).valid = true) {ph : Bool} (hm : t.mark = some ph) :
    ((scratchBar g (getV t r).toNat).ph ≠ ph → GoesOn (.barWait ⟨false, n, r, m⟩) m.sw s
      (acquireFor s t (scratchObject (getV t r).toNat)) { t with mark := none }) ∧
    ((scratchBar g (getV t r).toNat).ph = ph → BlocksIn (.barWait ⟨false, n, r, m⟩) s s t 1
      ((getV t r).toNat + if ph then 1 else 0) false) := by
  have hok : (waitSpec false n r m).ok s t = true := (barOk_scratch hs rfl).mpr ⟨hlt, hal⟩
  have hlater := barFnOf_marked (b := waitSpec false n r m) rfl hm
  have hfree := barReleases_of_fn (b := waitSpec false n r m) hs (by rw [hlater]; decide) (by rw [hlater]; decide)
  have hacts := bar_changes hs exec_barWait hw hno (fun _ => hsafe) hok rfl hfree (hlater ▸ scratchChange_read hs hv)
  have hseen : t.mark.getD (scratchBar g (getV t r).toNat).ph = ph := by rw [hm]; rfl
  refine ⟨fun hph => ?_, fun hph => ?_⟩
  · rw [barFinish_wait_over rfl rfl rfl hseen hph] at hacts
    exact hacts.goesOn (acquireFor_cachesOnly ..).sameThreads.keepsGang
  · rw [barFinish_wait_blocks rfl rfl rfl hseen hph, mark_self hm] at hacts
    exact hacts.blocks (by decide) (SameThreads.refl s).keepsGang

end

/-- `await.bar` reads the object and waits for the phase its operand names to be over. -/
theorem scratchAwait_reads (hv : (scratchBar g (getV t r).toNat).valid = true) :
    ((scratchBar g (getV t r).toNat).ph ≠ (getV t n).getLsbD 0 → GoesOn (.awaitBar ⟨false, n, r, m⟩) m.sw s
      (acquireFor s t (scratchObject (getV t r).toNat)) t) ∧
    ((scratchBar g (getV t r).toNat).ph = (getV t n).getLsbD 0 → m.stop = true → (ordinalOf s t t.pc).isSome = true →
      Blocks (.awaitBar ⟨false, n, r, m⟩) s t 1 ((getV t r).toNat + if (getV t n).getLsbD 0 then 1 else 0) false) := by
  have hok : (awaitSpec false n r).ok s t = true := (barOk_scratch hs rfl).mpr ⟨hlt, hal⟩
  have hfree : (awaitSpec false n r).releases s t = false :=
    barReleases_of_fn hs (by decide : (5 : Nat) ≠ 1) (by decide : (5 : Nat) ≠ 2)
  have hacts := bar_changes hs (exec_awaitBar (m := m)) hw hno nofun hok rfl hfree (scratchChange_read hs hv)
  refine ⟨fun hph => ?_, fun hph hstop ho => ?_⟩
  · rw [barFinish_await_over rfl rfl hph] at hacts
    exact hacts.goesOn (acquireFor_cachesOnly ..).sameThreads.keepsGang
  · rw [barFinish_await_blocks rfl rfl hph] at hacts
    exact hacts.blocks_unless (by decide) hstop ho

end

theorem barWait_off_safe_point (hno : barReq s t = none) (h : m.stop = false ∨ ordinalOf s t t.pc = none) :
    TakesTrap (.barWait ⟨false, n, r, m⟩) s t 8 0 0 := by
  have hsafe : isSafePoint s t m.stop = false := by rcases h with h | h <;> simp [isSafePoint, h]
  exact (bar_off_safe_point hs exec_barWait hw hno rfl rfl hsafe).traps (by decide)

/-- What a global object's answer brings: each instruction finishes by it. -/
theorem globalWait_answered {q : Req} {u v : Bool} (hq : barReq s t = some q)
    (hst : q.stage = .taken (barReply ⟨true, u, v⟩)) :
    (v ≠ t.mark.getD u → GoesOn (.barWait ⟨true, n, r, m⟩) m.sw s (acquireFor (dropReq s q.id) t (getV2 t r).toNat)
      { t with mark := none }) ∧
    (v = t.mark.getD u → BlocksIn (.barWait ⟨true, n, r, m⟩) s (dropReq s q.id) { t with mark := some (t.mark.getD u) } 1
      ((getV2 t r).toNat + if t.mark.getD u then 1 else 0) true) ∧
    (v ≠ (getV t n).getLsbD 0 → GoesOn (.awaitBar ⟨true, n, r, m⟩) m.sw s
      (acquireFor (dropReq s q.id) t (getV2 t r).toNat) t) := by
  have hwait := bar_finishes hs (exec_barWait (glb := true) (n := n) (r := r) (m := m)) hw hq hst
  have hawait := bar_finishes hs (exec_awaitBar (glb := true) (n := n) (r := r) (m := m)) hw hq hst
  rw [ofBarReply_barReply] at hwait hawait
  have hdrop : SameThreads s (dropReq s q.id) := ⟨rfl, rfl⟩
  have hacquired := hdrop.trans (acquireFor_cachesOnly (dropReq s q.id) t (getV2 t r).toNat).sameThreads
  refine ⟨fun hph => ?_, fun hph => ?_, fun hph => ?_⟩
  · rw [barFinish_wait_over rfl rfl rfl rfl hph] at hwait
    exact hwait.goesOn hacquired.keepsGang
  · rw [barFinish_wait_blocks rfl rfl rfl rfl hph] at hwait
    exact hwait.blocks (by decide) hdrop.keepsGang
  · rw [barFinish_await_over rfl rfl hph] at hawait
    exact hawait.goesOn hacquired.keepsGang

end

theorem barrierWaits : Claims.BarrierWaits := by
  intro s t l g m r n hs hn hw off b wait await
  refine ⟨fun hno hlt hal hstop ho hv => ?wait, fun hno h => barWait_off_safe_point hs hw hno h,
    fun hno hlt hal hv => scratchAwait_reads hs hw hno hlt hal hv, fun hno hbad => ?wrong, ?global⟩
  case wait =>
    have hsafe : isSafePoint s t m.stop = true := by rw [isSafePoint, hstop, ho]; rfl
    exact ⟨fun hm hb c hc => scratchWait_arrives hs hw hno hlt hal hsafe hn hm hb hc,
      fun hm hb => scratchWait_sends hs hno hlt hal hsafe hm hb,
      fun ph hm => scratchWait_reads hs hw hno hlt hal hsafe hv hm⟩
  case wrong =>
    have hok : (awaitSpec false n r).ok s t = false := Bool.eq_false_iff.mpr (mt (barOk_scratch hs rfl).mp hbad)
    exact (bar_wrong hs (exec_awaitBar (m := m)) hw hno nofun hok).traps (by decide)
  case global =>
    intro a wait await q u v hq hst
    exact globalWait_answered hs hw hq hst

/-- Settles O30: objects by their fields, the instructions by what is sent and what the object answers. -/
theorem barriersCountPhases : Obligations.BarriersCountPhases :=
  ⟨barrierObjectsCountPhases, barrierInstructionsChangeTheObject, barrierWaits⟩

end Sys2Proof.Machine
end

section
/-! ### Tiles, routes and seats (R7, R10, R21) -/
namespace Sys2Proof.Machine

theorem sliceTile_eq {n k : Nat} (hk : k < 4) :
    sliceTile (4 * n + k) = (12 * (n / 8) + 3 * roodCol n + 1, 4 * roodRow n + k) := by
  have hrood : (4 * n + k) / 4 = n := by omega
  have hdie : (4 * n + k) / 32 = n / 8 := by omega
  have hrow : (4 * n + k) % 4 = k := by omega
  rw [sliceTile, sliceTileX, sliceTileY, hrood, hdie, hrow]

/-- The number reached after some steps from a towards b. -/
def towards (a b i : Nat) : Nat := if a ≤ b then min (a + i) b else max (a - i) b

/-- How many steps lie between two numbers. -/
def stepsTo (a b : Nat) : Nat := if a ≤ b then b - a else a - b

theorem steps_eq (a b : Nat) : steps a b = (List.range (stepsTo a b)).map fun i => towards a b (i + 1) := by
  unfold steps stepsTo towards
  split
  · exact List.map_congr_left fun i hi => by rw [List.mem_range] at hi; omega
  · exact List.map_congr_left fun i hi => by rw [List.mem_range] at hi; omega

theorem towards_zero (a b : Nat) : towards a b 0 = a := by unfold towards; split <;> omega

theorem towards_end {a b i : Nat} (h : stepsTo a b ≤ i) : towards a b i = b := by
  unfold stepsTo at h
  unfold towards
  split <;> split at h <;> omega

theorem towards_between (a b i : Nat) : min a b ≤ towards a b i ∧ towards a b i ≤ max a b := by
  unfold towards
  split <;> omega

/-- A step changes the number by one, where it is not yet the last. -/
theorem towards_succ {a b i : Nat} (h : i < stepsTo a b) :
    towards a b (i + 1) = towards a b i + 1 ∨ towards a b i = towards a b (i + 1) + 1 := by
  unfold stepsTo at h
  unfold towards
  split <;> split at h <;> omega

/-- The tile of a route after some hops: along x first, then along y. -/
def tileAfter (a b : MeshTile) (i : Nat) : MeshTile := (towards a.1 b.1 i, towards a.2 b.2 (i - stepsTo a.1 b.1))

/-- The hops of a route. -/
def routeLength (a b : MeshTile) : Nat := stepsTo a.1 b.1 + stepsTo a.2 b.2

theorem tilePath_eq (a b : MeshTile) : tilePath a b = (List.range (routeLength a b + 1)).map (tileAfter a b) := by
  have hstart : tileAfter a b 0 = a := by rw [tileAfter, Nat.zero_sub, towards_zero, towards_zero]
  rw [tilePath, routeLength, List.range_succ_eq_map, List.map_cons, hstart, List.range_add, steps_eq, steps_eq, List.cons_append]
  simp only [List.map_map, List.map_append]
  congr 2
  · refine List.map_congr_left fun i hi => ?_
    have hlt : i + 1 ≤ stepsTo a.1 b.1 := List.mem_range.mp hi
    simp only [Function.comp_apply, tileAfter, Nat.succ_eq_add_one, Nat.sub_eq_zero_of_le hlt, towards_zero]
  · refine List.map_congr_left fun i _ => ?_
    have hy : stepsTo a.1 b.1 + i + 1 - stepsTo a.1 b.1 = i + 1 := by omega
    have hx : towards a.1 b.1 (stepsTo a.1 b.1 + i + 1) = b.1 := towards_end (by omega)
    simp only [Function.comp_apply, tileAfter, Nat.succ_eq_add_one, hy, hx]

theorem mem_tilePath {a b t : MeshTile} : t ∈ tilePath a b ↔ ∃ i, i ≤ routeLength a b ∧ tileAfter a b i = t := by
  simp only [tilePath_eq, List.mem_map, List.mem_range, Nat.lt_succ_iff]

/-- A route stays in the rectangle of its ends and turns once. -/
theorem tileAfter_in_rectangle (a b : MeshTile) (i : Nat) : min a.1 b.1 ≤ (tileAfter a b i).1 ∧
    (tileAfter a b i).1 ≤ max a.1 b.1 ∧ min a.2 b.2 ≤ (tileAfter a b i).2 ∧ (tileAfter a b i).2 ≤ max a.2 b.2 ∧
    ((tileAfter a b i).2 = a.2 ∨ (tileAfter a b i).1 = b.1) := by
  obtain ⟨hx1, hx2⟩ := towards_between a.1 b.1 i
  obtain ⟨hy1, hy2⟩ := towards_between a.2 b.2 (i - stepsTo a.1 b.1)
  refine ⟨hx1, hx2, hy1, hy2, ?_⟩
  rcases Nat.le_total i (stepsTo a.1 b.1) with h | h
  · exact .inl (by rw [tileAfter, Nat.sub_eq_zero_of_le h]; exact towards_zero ..)
  · exact .inr (towards_end h)

theorem ends_mem_tilePath (a b : MeshTile) : a ∈ tilePath a b ∧ b ∈ tilePath a b := by
  refine ⟨mem_tilePath.mpr ⟨0, Nat.zero_le _, ?_⟩, mem_tilePath.mpr ⟨routeLength a b, Nat.le_refl _, ?_⟩⟩
  · rw [tileAfter, Nat.zero_sub, towards_zero, towards_zero]
  · unfold tileAfter routeLength
    rw [towards_end (Nat.le_add_right ..), Nat.add_sub_cancel_left, towards_end (Nat.le_refl _)]

/-- Two tiles side by side in a row or a column. -/
def SideBySide (u v : MeshTile) : Prop :=
  (u.2 = v.2 ∧ (v.1 = u.1 + 1 ∨ u.1 = v.1 + 1)) ∨ (u.1 = v.1 ∧ (v.2 = u.2 + 1 ∨ u.2 = v.2 + 1))

theorem tileAfter_sideBySide {a b : MeshTile} {i : Nat} (h : i < routeLength a b) :
    SideBySide (tileAfter a b i) (tileAfter a b (i + 1)) := by
  unfold routeLength at h
  rcases Nat.lt_or_ge i (stepsTo a.1 b.1) with hx | hx
  · refine .inl ⟨?_, towards_succ hx⟩
    rw [tileAfter, tileAfter, Nat.sub_eq_zero_of_le (Nat.le_of_lt hx), Nat.sub_eq_zero_of_le hx]
  · refine .inr ⟨?_, ?_⟩
    · rw [tileAfter, tileAfter, towards_end hx, towards_end (Nat.le_succ_of_le hx)]
    · have hy := towards_succ (show i - stepsTo a.1 b.1 < stepsTo a.2 b.2 by omega)
      rw [← Nat.sub_add_comm hx] at hy
      exact hy

theorem mem_routeLinks {m : Nat} {a b : MeshTile} {k : Link} (hk : k ∈ routeLinks m a b) :
    ∃ i, i < routeLength a b ∧ k = hopLink m (tileAfter a b i) (tileAfter a b (i + 1)) := by
  obtain ⟨⟨u, v⟩, hm, rfl⟩ := List.mem_map.mp hk
  obtain ⟨i, hi, huv⟩ := List.mem_iff_getElem.mp hm
  rw [List.length_zip, List.length_drop, tilePath_eq, List.length_map, List.length_range] at hi
  simp only [List.getElem_zip, List.getElem_drop, tilePath_eq, List.getElem_map, List.getElem_range, Prod.mk.injEq] at huv
  exact ⟨i, by omega, by rw [huv.1, ← huv.2, Nat.add_comm 1 i]⟩

/-- The links out of a tile of a mesh, by their direction. -/
theorem linkExists_mesh {m x y : Nat} (hm : m < 2) (hx : x < 24) (hy : y < 8) :
    (linkExists ⟨m, x, y, 0⟩ = true ↔ x < 23 ∧ x ≠ 11) ∧ (linkExists ⟨m, x, y, 1⟩ = true ↔ 0 < x ∧ x ≠ 12) ∧
    (linkExists ⟨m, x, y, 2⟩ = true ↔ y < 7) ∧ (linkExists ⟨m, x, y, 3⟩ = true ↔ 0 < y) := by
  simp [linkExists, hm, hx, hy]

/-- A hop between two tiles of the module takes a link of the module. -/
theorem linkExists_hopLink {m : Nat} {u v : MeshTile} (hm : m < 2) (hu : u.1 < 24 ∧ u.2 < 8) (hv : v.1 < 24 ∧ v.2 < 8)
    (h : SideBySide u v) : linkExists (hopLink m u v) = true := by
  obtain ⟨heast, hwest, hup, hdown⟩ := linkExists_mesh hm hu.1 hu.2
  unfold SideBySide at h
  unfold hopLink
  split
  · simp [linkExists, hu.2]
  next hbridge =>
    rcases h with ⟨-, h | h⟩ | ⟨hx, h | h⟩
    · rw [if_pos (by omega), heast]
      omega
    · rw [if_neg (by omega), if_pos (by omega), hwest]
      omega
    · rw [if_neg (by omega), if_neg (by omega), if_pos (by omega), hup]
      omega
    · rw [if_neg (by omega), if_neg (by omega), if_neg (by omega), hdown]
      omega

theorem routesStayInTheirRectangle : Claims.RoutesStayInTheirRectangle := by
  refine ⟨fun n k _ hk => sliceTile_eq hk, fun a b t ht => ?_, ends_mem_tilePath,
    fun m a b k hm ha1 hb1 ha2 hb2 hk => ?_, fun q hq => ?_⟩
  · obtain ⟨i, -, rfl⟩ := mem_tilePath.mp ht
    exact tileAfter_in_rectangle a b i
  · obtain ⟨i, hi, rfl⟩ := mem_routeLinks hk
    have hin (i : Nat) : (tileAfter a b i).1 < 24 ∧ (tileAfter a b i).2 < 8 := by
      obtain ⟨-, hx, -, hy, -⟩ := tileAfter_in_rectangle a b i
      omega
    exact linkExists_hopLink hm (hin i) (hin (i + 1)) (tileAfter_sideBySide hi)
  · unfold seatLane seatGangSlot seatSlot seatLane seatGangSlot
    omega

end Sys2Proof.Machine
end

section
/-! ### Messages at a home slice (R283, R312, R315, R318, R320, R474) -/
namespace Sys2Proof.Machine

variable {s s' s'' : State} {r q : Req} {id slice pa ctx : Nat} {x : L2Line}

/-! ### What a step of a slice changes -/

/-- Only memory, slices, the unit's turn, messages, threads, records and replays have changed. -/
def SliceOnly (s s' : State) : Prop := s' = { s with
  mem := s'.mem, poison := s'.poison, l2 := s'.l2, unitSide := s'.unitSide, reqs := s'.reqs, threads := s'.threads,
  records := s'.records, replaying := s'.replaying }

theorem SliceOnly.refl (s : State) : SliceOnly s s := rfl

theorem SliceOnly.trans (h : SliceOnly s s') (h' : SliceOnly s' s'') : SliceOnly s s'' := by
  unfold SliceOnly at *
  rw [h'] at ⊢
  rw [h]

/-- The home of a message lies where it lay. -/
theorem SliceOnly.reqSlice (h : SliceOnly s s') (q : Req) : reqSlice s' q = reqSlice s q := by
  rw [h]
  rfl

theorem SliceOnly.ctxOfWg (h : SliceOnly s s') (wg : Nat) : ctxOfWg s' wg = ctxOfWg s wg := by
  rw [h]
  rfl

theorem poisonMet_nil (s : State) (ctx wg tid : Nat) : poisonMet s ctx wg tid [] = s := rfl

theorem arrived_sliceOnly (s : State) (r : Req) : SliceOnly s (arrived s r) := rfl

theorem physWrite_sliceOnly (s : State) (pa : Nat) (bs : List Byte) : SliceOnly s (physWrite s pa bs) := rfl

theorem l2Set_sliceOnly (s : State) (slice pa : Nat) (f : L2Line → L2Line) : SliceOnly s (l2Set s slice pa f) := rfl

theorem l2Place_sliceOnly (s : State) (ctx slice pa : Nat) : SliceOnly s (l2Place s ctx slice pa) := by
  unfold l2Place
  split
  · rfl
  · rfl

theorem l2Write_sliceOnly (s : State) (ctx slice pa : Nat) (p : Nat → Bool) : SliceOnly s (l2Write s ctx slice pa p) :=
  (l2Place_sliceOnly ..).trans (l2Set_sliceOnly ..)

theorem l2Fill_sliceOnly (s : State) (ctx slice pa : Nat) : SliceOnly s (l2Fill s ctx slice pa) :=
  (l2Place_sliceOnly ..).trans (l2Set_sliceOnly ..)

/-! ### A message that has arrived (R318) -/

theorem findReq_arrived (hr : r.id = id) : findReq (arrived s r) id = some r := by
  have hgone : (dropReq s r.id).reqs.find? (fun q => decide (q.id = id)) = none := by
    refine List.find?_eq_none.mpr fun q hq => ?_
    have hne := (List.mem_filter.mp hq).2
    simpa [hr] using hne
  rw [findReq, arrived, List.find?_append, hgone]
  simp [hr]

theorem mem_arrived (h : q ∈ (arrived s r).reqs) : q ∈ s.reqs ∨ q = r := by
  rcases List.mem_append.mp h with h | h
  · exact .inl (List.mem_of_mem_filter h)
  · exact .inr (List.mem_singleton.mp h)

theorem waitingAt_eq_nil : waitingAt s slice pa = [] ↔
    ∀ q ∈ s.reqs, q.stage = .missWait → reqSlice s q = slice → q.pa / 128 ≠ pa / 128 := by
  simp [waitingAt, and_imp]

/-- Where nothing waits for the line, nothing more is served. -/
theorem serveLine_of_idle (h : SliceOnly s s') (hreqs : ∀ q ∈ s'.reqs, q.stage = .missWait → q ∈ s.reqs)
    (hw : waitingAt s slice pa = []) : serveLine s' slice pa = s' := by
  have hnone : waitingAt s' slice pa = [] := waitingAt_eq_nil.mpr fun q hq hst hsl =>
    waitingAt_eq_nil.mp hw q (hreqs q hq hst) hst ((h.reqSlice q).symm.trans hsl)
  rw [serveLine, hnone]
  rfl

theorem serveLine_arrived (h : SliceOnly s s') (hreqs : s'.reqs = s.reqs) (hst : r.stage ≠ .missWait)
    (hw : waitingAt s slice pa = []) : serveLine (arrived s' r) slice pa = arrived s' r := by
  refine serveLine_of_idle (h.trans (arrived_sliceOnly ..)) (fun q hq hmiss => ?_) hw
  rcases mem_arrived hq with hq | rfl
  · exact hreqs ▸ hq
  · exact absurd hmiss hst

/-! ### The lines of a slice (R315) -/

theorem l2At_l2Set {f : L2Line → L2Line} (hs : ∀ x, (f x).slice = x.slice) (hl : ∀ x, (f x).line = x.line) :
    l2At (l2Set s slice pa f) slice pa = (l2At s slice pa).map f := by
  have hset : (l2Set s slice pa f).l2 =
      updWhere (fun x => decide (x.slice = slice) && decide (x.line = pa / 128)) f s.l2 :=
    List.map_congr_left fun x _ => by simp only [Bool.and_eq_true, decide_eq_true_eq]
  rw [l2At, hset]
  exact find?_updWhere fun x hx => by simpa [hs, hl] using hx

theorem l2Place_of_held (h : l2At s slice pa = some x) : l2Place s ctx slice pa = s :=
  if_pos (by rw [h, Option.isSome_some, Bool.or_true])

/-- A device line has a place at its slice. -/
theorem l2At_l2Place (h : pa < 2 ^ 39) : ∃ x, l2At (l2Place s ctx slice pa) slice pa = some x := by
  by_cases hheld : ∃ x, l2At s slice pa = some x
  · obtain ⟨x, hx⟩ := hheld
    exact ⟨x, by rw [l2Place_of_held hx, hx]⟩
  · have hnone : l2At s slice pa = none := Option.eq_none_iff_forall_ne_some.mpr fun x hx => hheld ⟨x, hx⟩
    have hhost : hostLine pa = false := decide_eq_false (Nat.not_le.mpr h)
    rw [l2Place, hhost, hnone, Option.isSome_none, Bool.or_self, if_neg (by decide)]
    exact ⟨_, List.find?_cons_of_pos (by simp)⟩

theorem l2Fill_whole (h : pa < 2 ^ 39) : ∃ x, l2At (l2Fill s ctx slice pa) slice pa = some x ∧ x.valid = 0xFF := by
  obtain ⟨x, hx⟩ := l2At_l2Place (s := s) (ctx := ctx) (slice := slice) h
  refine ⟨{ x with valid := 0xFF }, ?_, rfl⟩
  rw [l2Fill, l2At_l2Set (f := fun x => { x with valid := 0xFF }) (fun _ => rfl) (fun _ => rfl), hx]
  rfl

theorem getLsbD_sectorsOf_any {p : Nat → Bool} {n j : Nat} (hn : n < 8) (hj : j < 16) (h : p (16 * n + j) = true) :
    (sectorsOf p false).getLsbD n = true := by
  rw [sectorsOf, getLsbD_bitsWhere hn]
  simpa using ⟨j, hj, h⟩

/-- The line of a store: its sectors are valid or dirty besides those that were. -/
def storedLine (u : Nat) (p : Nat → Bool) (x : L2Line) : L2Line :=
  { x with used := u, valid := x.valid ||| sectorsOf p true, dirty := x.dirty ||| sectorsOf p false }

theorem l2Write_dirty (h : pa < 2 ^ 39) (p : Nat → Bool) : ∃ x, l2At (l2Write s ctx slice pa p) slice pa = some x ∧
    ∀ n j, n < 8 → j < 16 → p (16 * n + j) = true → x.dirty.getLsbD n = true := by
  obtain ⟨x, hx⟩ := l2At_l2Place (s := s) (ctx := ctx) (slice := slice) h
  have hline := l2At_l2Set (s := l2Place s ctx slice pa) (slice := slice) (pa := pa)
    (f := storedLine (l2Use (l2Place s ctx slice pa) slice) p) (fun _ => rfl) fun _ => rfl
  refine ⟨_, hline.trans (congrArg _ hx), fun n j hn hj hp => ?_⟩
  rw [storedLine, BitVec.getLsbD_or, getLsbD_sectorsOf_any hn hj hp, Bool.or_true]

theorem l2Place_keeps (s : State) (ctx slice pa : Nat) : (l2Place s ctx slice pa).mem = s.mem ∧
    (l2Place s ctx slice pa).reqs = s.reqs ∧ (l2Place s ctx slice pa).poison = s.poison := by
  unfold l2Place
  split
  · exact ⟨rfl, rfl, rfl⟩
  · exact ⟨rfl, rfl, rfl⟩

/-- A write to the lines of a slice changes neither memory nor messages. -/
theorem l2Write_keeps (s : State) (ctx slice pa : Nat) (p : Nat → Bool) : (l2Write s ctx slice pa p).mem = s.mem ∧
    (l2Write s ctx slice pa p).reqs = s.reqs ∧ (l2Write s ctx slice pa p).poison = s.poison := l2Place_keeps ..

/-- A fetch into the lines of a slice changes neither memory nor messages. -/
theorem l2Fill_keeps (s : State) (ctx slice pa : Nat) : (l2Fill s ctx slice pa).mem = s.mem ∧
    (l2Fill s ctx slice pa).reqs = s.reqs ∧ (l2Fill s ctx slice pa).poison = s.poison := l2Place_keeps ..

/-! ### A patch applied to memory (R283) -/

theorem patchGet_eq_none {p : Patch} {a : Nat} (h : a ∉ p.map Prod.fst) : patchGet p a = none := by
  induction p with
  | nil => rfl
  | cons c p ih =>
    obtain ⟨b, y⟩ := c
    rw [List.map_cons, List.mem_cons, not_or] at h
    rw [patchGet, if_neg (Ne.symm h.1), ih h.2]

/-- Memory holds the patch's bytes in place of the old ones. -/
theorem readByte_applyPatch {p : Patch} {m : Memory} (hp : (p.map Prod.fst).Nodup) (hm : Memory.wf m = true) (a : Nat) :
    readByte (applyPatch m 0 p) a = (patchGet p a).getD (readByte m a) := by
  induction p generalizing m with
  | nil => rfl
  | cons c p ih =>
    obtain ⟨b, y⟩ := c
    rw [List.map_cons, List.nodup_cons] at hp
    rw [applyPatch, Nat.add_zero, ih hp.2 (writeByte_wf m b y hm), patchGet, readByte_writeByte hm]
    by_cases hab : a = b
    · subst hab
      rw [patchGet_eq_none hp.1, if_pos rfl, if_pos rfl]
      rfl
    · rw [if_neg hab, if_neg (Ne.symm hab)]

/-! ### Reads and writes at their slice (R283, R312) -/

theorem performRead_read {n : Nat} (hk : r.kind = .read n) (hline : poisoned s (r.pa / 128 * 128) 128 = [])
    (hown : poisoned s r.pa n = []) : performRead s r = arrived
      (l2Set s (reqSlice s r) r.pa fun x => { x with
        used := l2Use s (reqSlice s r), reader := if r.fwd then some r.src else x.reader })
      { r with stage := .reply (readBytes s.mem (r.pa / 128 * 128) 128) ((l2At s (reqSlice s r) r.pa).bind L2Line.reader) true } := by
  have hread : readClean s (r.pa / 128 * 128) 128 = readBytes s.mem (r.pa / 128 * 128) 128 := readClean_of_clean hline
  unfold performRead
  simp only [readsOf, hk, hline, hown, hread, poisonMet_nil, List.isEmpty_nil, Bool.and_true]
  cases l2At s (reqSlice s r) r.pa <;> rfl

/-- The state in which a write has been performed. -/
def written (s : State) (r : Req) (bytes : Patch) : State :=
  let s1 := l2Write s r.ctx (reqSlice s r) r.pa fun i => (patchGet bytes (r.pa / 128 * 128 + i)).isSome
  { s1 with mem := applyPatch s1.mem 0 bytes, poison := s1.poison.filter fun u =>
      !((List.range 32).all fun i => (patchGet bytes (32 * u + i)).isSome) }

theorem performWrite_clean {bytes : Patch} (hb : r.bad = false) :
    performWrite s r bytes = arrived (written s r bytes) { r with stage := .reply [] none true } := by
  simp only [performWrite, hb, Bool.false_eq_true, if_false]
  rfl

theorem written_sliceOnly (s : State) (r : Req) (bytes : Patch) : SliceOnly s (written s r bytes) :=
  (l2Write_sliceOnly ..).trans rfl

/-- The lines of a slice do not depend on memory. -/
theorem l2At_with_mem (s : State) (slice pa : Nat) (m : Memory) (us : List Nat) :
    l2At { s with mem := m, poison := us } slice pa = l2At s slice pa := rfl

theorem written_dirty {bytes : Patch} (h : r.pa < 2 ^ 39) : ∃ x, l2At (written s r bytes) (reqSlice s r) r.pa = some x ∧
    ∀ n j, n < 8 → j < 16 → (patchGet bytes (r.pa / 128 * 128 + (16 * n + j))).isSome = true → x.dirty.getLsbD n = true := by
  rw [written, l2At_with_mem]
  exact l2Write_dirty h _

theorem written_keeps (s : State) (r : Req) (bytes : Patch) :
    (written s r bytes).reqs = s.reqs ∧ (written s r bytes).mem = applyPatch s.mem 0 bytes := by
  obtain ⟨hmem, hreqs, -⟩ := l2Write_keeps s r.ctx (reqSlice s r) r.pa fun i =>
    (patchGet bytes (r.pa / 128 * 128 + i)).isSome
  exact ⟨hreqs, congrArg (applyPatch · 0 bytes) hmem⟩

end Sys2Proof.Machine
end

section
/-! ### The steps of a home slice settled (R283, R312, R315, R318, R320, R474) -/
namespace Sys2Proof.Machine

variable {s s' s'' : State} {r q : Req} {id slice pa ctx n : Nat} {x : L2Line}

theorem id_of_findReq (h : findReq s id = some r) : r.id = id := by
  simpa using List.find?_some h

theorem findReq_staged (h : findReq s id = some r) (st : ReqStage) :
    findReq (arrived s' { r with stage := st }) id = some { r with stage := st } := by
  have hid : ({ r with stage := st } : Req).id = id := id_of_findReq h (r := r)
  exact findReq_arrived hid

/-! ### HOME_SLICE_REQUEST -/

theorem homeSliceRequest_stays (hr : findReq s id = some r) (ha : arrivesAtSlice s r = false) :
    Runs (.homeSliceRequest id) s s := by
  show execHomeSliceRequest id s = _
  simp only [execHomeSliceRequest, hr, ha, Bool.not_false, if_true]

theorem homeSliceRequest_waits (hr : findReq s id = some r) (ha : arrivesAtSlice s r = true)
    (hw : lineBlocked s r = true ∨ l2Ready s r = false) :
    Runs (.homeSliceRequest id) s (arrived s { r with stage := .missWait }) := by
  have hwait : (lineBlocked s r || !l2Ready s r) = true := by
    rcases hw with h | h
    · rw [h, Bool.true_or]
    · rw [h, Bool.not_false, Bool.or_true]
  show execHomeSliceRequest id s = _
  simp only [execHomeSliceRequest, hr, ha, hwait, Bool.not_true, Bool.false_eq_true, if_false, if_true]

theorem homeSliceRequest_served (hr : findReq s id = some r) (ha : arrivesAtSlice s r = true)
    (hb : lineBlocked s r = false) (hl : l2Ready s r = true) :
    Runs (.homeSliceRequest id) s (serveLine (serveReq s r) (reqSlice s r) r.pa) := by
  show execHomeSliceRequest id s = _
  simp only [execHomeSliceRequest, hr, ha, hb, hl, Bool.not_true, Bool.false_or, Bool.false_eq_true, if_false]

theorem arrivesAtSlice_iff (s : State) (r : Req) : arrivesAtSlice s r = true ↔
    r.stage = .toHome ∧ sliceBound r = true ∧ linkHolds s r = false ∧
      ∀ q ∈ before s r, sliceBound q = true → inFlight q = true → sourceTile q = sourceTile r →
        reqSlice s q ≠ reqSlice s r := by
  simp [arrivesAtSlice, and_assoc, imp_iff_not_or, or_assoc]

theorem lineBlocked_iff (s : State) (r : Req) : lineBlocked s r = true ↔ ∃ q ∈ s.reqs, q.id < r.id ∧
    sliceBound q = true ∧ notPerformed q = true ∧ q.src = r.src ∧ q.pa / 128 = r.pa / 128 ∧
    (unitOp q = false ∨ unitOp r = false ∨ (q.wg = r.wg ∧ q.tid = r.tid)) := by
  simp [lineBlocked, and_assoc, or_iff_not_imp_left]

theorem l2Ready_write {bytes : Patch} (hk : r.kind = .write bytes) : l2Ready s r = true := by
  simp only [l2Ready, hk]

theorem l2Ready_unitOp (hu : unitOp r = true) : l2Ready s r = true ↔
    ∃ x, l2At s (reqSlice s r) r.pa = some x ∧ x.valid.getLsbD (r.pa % 128 / 16) = true := by
  cases hk : r.kind
  case atom | bar | post =>
    simp only [l2Ready, hk]
    cases l2At s (reqSlice s r) r.pa <;> simp
  all_goals
    simp [unitOp, hk] at hu

theorem l2Ready_read (hk : (∃ n, r.kind = .read n) ∨ r.kind = .prefetch ∨ ∃ q d, r.kind = .packet q d) :
    l2Ready s r = true ↔ ∃ x, l2At s (reqSlice s r) r.pa = some x ∧ x.valid = 0xFF := by
  rcases hk with ⟨n, hk⟩ | hk | ⟨q, d, hk⟩
  all_goals
    simp only [l2Ready, hk]
    cases l2At s (reqSlice s r) r.pa <;> simp

theorem serveReq_read (hk : r.kind = .read n) : serveReq s r = performRead s r := by simp only [serveReq, hk]

theorem serveReq_write {bytes : Patch} (hk : r.kind = .write bytes) : serveReq s r = performWrite s r bytes := by
  simp only [serveReq, hk]

theorem serveReq_unitOp (hu : unitOp r = true) (hs : r.stage ≠ .missWait) :
    serveReq s r = arrived s { r with stage := .atHome } := by
  cases hk : r.kind
  case atom | bar | post =>
    simp only [serveReq, hk]
    exact if_neg hs
  all_goals
    simp [unitOp, hk] at hu

/-- An arriving write is performed (R283). -/
theorem homeSliceRequest_write {bytes : Patch} (hr : findReq s id = some r) (ha : arrivesAtSlice s r = true)
    (hb : lineBlocked s r = false) (hw : waitingAt s (reqSlice s r) r.pa = []) (hk : r.kind = .write bytes)
    (hgood : r.bad = false) :
    Runs (.homeSliceRequest id) s (arrived (written s r bytes) { r with stage := .reply [] none true }) := by
  have hrun := homeSliceRequest_served hr ha hb (l2Ready_write hk)
  rw [serveReq_write hk, performWrite_clean hgood,
    serveLine_arrived (written_sliceOnly s r bytes) (written_keeps s r bytes).1 (by simp) hw] at hrun
  exact hrun

/-- An arriving read of a line the slice holds whole is answered. -/
theorem homeSliceRequest_read (hr : findReq s id = some r) (ha : arrivesAtSlice s r = true)
    (hb : lineBlocked s r = false) (hw : waitingAt s (reqSlice s r) r.pa = []) (hk : r.kind = .read n)
    (hx : l2At s (reqSlice s r) r.pa = some x) (hfull : x.valid = 0xFF)
    (hline : poisoned s (r.pa / 128 * 128) 128 = []) (hown : poisoned s r.pa n = []) :
    Reaches (.homeSliceRequest id) s fun s' => s'.mem = s.mem ∧ findReq s' id =
      some { r with stage := .reply (readBytes s.mem (r.pa / 128 * 128) 128) x.reader true } := by
  have hrun := homeSliceRequest_served hr ha hb ((l2Ready_read (.inl ⟨n, hk⟩)).mpr ⟨x, hx, hfull⟩)
  rw [serveReq_read hk, performRead_read hk hline hown, hx,
    serveLine_arrived (l2Set_sliceOnly ..) rfl (by simp) hw] at hrun
  exact ⟨_, hrun, rfl, findReq_staged hr _⟩

/-- An arriving operation goes to the atomic unit. -/
theorem homeSliceRequest_unitOp (hr : findReq s id = some r) (ha : arrivesAtSlice s r = true)
    (hb : lineBlocked s r = false) (hw : waitingAt s (reqSlice s r) r.pa = []) (hu : unitOp r = true)
    (hl : l2Ready s r = true) : Runs (.homeSliceRequest id) s (arrived s { r with stage := .atHome }) := by
  have hsent : r.stage = .toHome := ((arrivesAtSlice_iff s r).mp ha).1
  have hrun := homeSliceRequest_served hr ha hb hl
  rw [serveReq_unitOp hu (by simp [hsent]), serveLine_arrived (.refl s) rfl (by simp) hw] at hrun
  exact hrun

/-! ### SLICE_MISS_FILL -/

theorem sliceMissFill_device (hr : findReq s id = some r) (hst : r.stage = .missWait) (h : r.pa < 2 ^ 39) :
    Runs (.sliceMissFill id) s (serveLine (l2Fill s r.ctx (reqSlice s r) r.pa) (reqSlice s r) r.pa) := by
  have hhost : hostLine r.pa = false := decide_eq_false (Nat.not_le.mpr h)
  show execSliceMissFill id s = _
  simp only [execSliceMissFill, hr, hst, hhost, ne_eq, not_true_eq_false, Bool.false_eq_true, if_false]

theorem sliceMissFill_host (hr : findReq s id = some r) (hst : r.stage = .missWait) (h : 2 ^ 39 ≤ r.pa) :
    Runs (.sliceMissFill id) s (foldList serveFetched s (waitingAt s (reqSlice s r) r.pa)) := by
  have hhost : hostLine r.pa = true := decide_eq_true h
  show execSliceMissFill id s = _
  simp only [execSliceMissFill, hr, hst, hhost, ne_eq, not_true_eq_false, if_false, if_true]

theorem serveWaiting_ready (hr : findReq s id = some r)
    (h : r.stage = .missWait ∧ lineBlocked s r = false ∧ l2Ready s r = true) : serveWaiting s id = serveReq s r := by
  simp only [serveWaiting, hr]
  exact if_pos h

theorem serveWaiting_unready (hr : findReq s id = some r)
    (h : ¬ (r.stage = .missWait ∧ lineBlocked s r = false ∧ l2Ready s r = true)) : serveWaiting s id = s := by
  simp only [serveWaiting, hr]
  exact if_neg h

theorem serveFetched_ready (hr : findReq s id = some r) (h : r.stage = .missWait ∧ lineBlocked s r = false) :
    serveFetched s id = serveReq s r := by
  simp only [serveFetched, hr]
  exact if_pos h

theorem serveFetched_answered (hr : findReq s id = some r) (h : r.stage ≠ .missWait) : serveFetched s id = s := by
  simp only [serveFetched, hr]
  exact if_neg fun hw => h hw.1

/-- A served message that no longer waits is not served again. -/
theorem foldList_served {f : State → Nat → State} {ids : List Nat} (hids : ∀ i ∈ ids, i = id) (hne : ids ≠ [])
    (hfirst : f s id = s') (hagain : f s' id = s') : foldList f s ids = s' := by
  cases ids with
  | nil => exact absurd rfl hne
  | cons i ids =>
    rw [hids i List.mem_cons_self, foldList, hfirst]
    have hrest : ∀ i ∈ ids, i = id := fun i hi => hids i (List.mem_cons_of_mem _ hi)
    exact foldList_keeps (P := (· = s')) rfl fun s'' i hi hs => by rw [hs, hrest i hi, hagain]

/-- The requests that wait for a line when only one request of the device waits. -/
theorem waitingAt_only (honly : ∀ q ∈ s.reqs, q.stage = .missWait → q.id = id) :
    ∀ i ∈ waitingAt s slice pa, i = id := by
  intro i hi
  obtain ⟨q, hq, rfl⟩ := List.mem_map.mp hi
  obtain ⟨hmem, hcond⟩ := List.mem_filter.mp hq
  simp only [Bool.and_eq_true, decide_eq_true_eq] at hcond
  exact honly q hmem hcond.1.1

theorem waitingAt_ne_nil (hr : findReq s id = some r) (hst : r.stage = .missWait) :
    waitingAt s (reqSlice s r) r.pa ≠ [] := fun hnil =>
  waitingAt_eq_nil.mp hnil r (List.mem_of_find?_eq_some hr) hst rfl rfl

theorem waitingAt_congr (h : SliceOnly s s') (hreqs : s'.reqs = s.reqs) : waitingAt s' slice pa = waitingAt s slice pa := by
  simp only [waitingAt, hreqs, h.reqSlice]

theorem lineBlocked_congr (hreqs : s'.reqs = s.reqs) (r : Req) : lineBlocked s' r = lineBlocked s r := by
  rw [lineBlocked, hreqs, lineBlocked]

theorem l2At_performRead_none (hk : r.kind = .read n) (hline : poisoned s (r.pa / 128 * 128) 128 = [])
    (hown : poisoned s r.pa n = []) (h : l2At s (reqSlice s r) r.pa = none) :
    l2At (performRead s r) (reqSlice s r) r.pa = none := by
  rw [performRead_read hk hline hown]
  have hset := l2At_l2Set (s := s) (slice := reqSlice s r) (pa := r.pa) (f := fun x => { x with
    used := l2Use s (reqSlice s r), reader := if r.fwd then some r.src else x.reader }) (fun _ => rfl) fun _ => rfl
  rw [h] at hset
  exact hset

/-- A read served after the fetch of its line (R312, R474). -/
theorem findReq_performRead (hr : findReq s id = some r) (hk : r.kind = .read n)
    (hline : poisoned s (r.pa / 128 * 128) 128 = []) (hown : poisoned s r.pa n = []) :
    (performRead s r).mem = s.mem ∧ ∃ reader, findReq (performRead s r) id =
      some { r with stage := .reply (readBytes s.mem (r.pa / 128 * 128) 128) reader true } := by
  rw [performRead_read hk hline hown]
  exact ⟨rfl, _, findReq_staged hr _⟩

theorem sliceMissFill_read_device (hr : findReq s id = some r) (hst : r.stage = .missWait) (hdev : r.pa < 2 ^ 39)
    (hk : r.kind = .read n) (hb : lineBlocked s r = false) (honly : ∀ q ∈ s.reqs, q.stage = .missWait → q.id = id)
    (hline : poisoned s (r.pa / 128 * 128) 128 = []) (hown : poisoned s r.pa n = []) :
    Runs (.sliceMissFill id) s (performRead (l2Fill s r.ctx (reqSlice s r) r.pa) r) := by
  obtain ⟨hmem, hreqs, hpoison⟩ := l2Fill_keeps s r.ctx (reqSlice s r) r.pa
  obtain ⟨x, hx, hfull⟩ := l2Fill_whole (s := s) (ctx := r.ctx) (slice := reqSlice s r) hdev
  have hkeeps := l2Fill_sliceOnly s r.ctx (reqSlice s r) r.pa
  have hrun := sliceMissFill_device hr hst hdev
  generalize l2Fill s r.ctx (reqSlice s r) r.pa = filled at *
  have hr' : findReq filled id = some r := by rwa [findReq, hreqs]
  have hpoisoned : ∀ a m, poisoned filled a m = poisoned s a m := fun a m => by rw [poisoned, hpoison, poisoned]
  rw [← hpoisoned] at hline hown
  have hready : l2Ready filled r = true := (l2Ready_read (.inl ⟨n, hk⟩)).mpr ⟨x, hkeeps.reqSlice r ▸ hx, hfull⟩
  obtain ⟨-, reader, hdone⟩ := findReq_performRead hr' hk hline hown
  have hserved : serveLine filled (reqSlice s r) r.pa = performRead filled r := by
    rw [serveLine, waitingAt_congr hkeeps hreqs]
    refine foldList_served (waitingAt_only honly) (waitingAt_ne_nil hr hst) ?_ ?_
    · rw [serveWaiting_ready hr' ⟨hst, (lineBlocked_congr hreqs r).trans hb, hready⟩, serveReq_read hk]
    · exact serveWaiting_unready hdone fun h => by simp at h
  rwa [hserved] at hrun

theorem sliceMissFill_read_host (hr : findReq s id = some r) (hst : r.stage = .missWait) (hhost : 2 ^ 39 ≤ r.pa)
    (hk : r.kind = .read n) (hb : lineBlocked s r = false) (honly : ∀ q ∈ s.reqs, q.stage = .missWait → q.id = id)
    (hline : poisoned s (r.pa / 128 * 128) 128 = []) (hown : poisoned s r.pa n = []) :
    Runs (.sliceMissFill id) s (performRead s r) := by
  obtain ⟨-, reader, hdone⟩ := findReq_performRead hr hk hline hown
  have hserved : foldList serveFetched s (waitingAt s (reqSlice s r) r.pa) = performRead s r := by
    refine foldList_served (waitingAt_only honly) (waitingAt_ne_nil hr hst) ?_ ?_
    · rw [serveFetched_ready hr ⟨hst, hb⟩, serveReq_read hk]
    · exact serveFetched_answered hdone (by simp)
  rw [← hserved]
  exact sliceMissFill_host hr hst hhost

/-- The read that alone waits is answered by the fetch, which keeps no line beyond the host link (R474). -/
theorem sliceMissFill_read (hr : findReq s id = some r) (hst : r.stage = .missWait) (hk : r.kind = .read n)
    (hb : lineBlocked s r = false) (honly : ∀ q ∈ s.reqs, q.stage = .missWait → q.id = id)
    (hline : poisoned s (r.pa / 128 * 128) 128 = []) (hown : poisoned s r.pa n = []) :
    Reaches (.sliceMissFill id) s fun s' => s'.mem = s.mem ∧
      (2 ^ 39 ≤ r.pa → l2At s (reqSlice s r) r.pa = none → l2At s' (reqSlice s r) r.pa = none) ∧ ∃ reader,
      findReq s' id = some { r with stage := .reply (readBytes s.mem (r.pa / 128 * 128) 128) reader true } := by
  rcases Nat.lt_or_ge r.pa (2 ^ 39) with hdev | hhost
  · obtain ⟨hmem, hreqs, hpoison⟩ := l2Fill_keeps s r.ctx (reqSlice s r) r.pa
    have hrun := sliceMissFill_read_device hr hst hdev hk hb honly hline hown
    generalize l2Fill s r.ctx (reqSlice s r) r.pa = filled at *
    have hpoisoned : ∀ a m, poisoned filled a m = poisoned s a m := fun a m => by rw [poisoned, hpoison, poisoned]
    rw [← hpoisoned] at hline hown
    obtain ⟨hmem', hdone⟩ := findReq_performRead (s := filled) (by rwa [findReq, hreqs]) hk hline hown
    rw [hmem] at hmem' hdone
    exact ⟨_, hrun, hmem', fun h => absurd hdev (Nat.not_lt.mpr h), hdone⟩
  · obtain ⟨hmem, hdone⟩ := findReq_performRead hr hk hline hown
    exact ⟨_, sliceMissFill_read_host hr hst hhost hk hb honly hline hown, hmem,
      fun _ => l2At_performRead_none hk hline hown, hdone⟩

theorem homeSlicesPerformReadsAndWrites : Claims.HomeSlicesPerformReadsAndWrites := by
  refine ⟨fun s id r hr ha => ⟨homeSliceRequest_waits hr ha, fun hb hw => ⟨?_, ?_, ?_⟩⟩,
    fun s id r hr ha => homeSliceRequest_stays hr ha, arrivesAtSlice_iff, lineBlocked_iff,
    fun s r => ⟨fun ⟨_, hk⟩ => l2Ready_write hk, l2Ready_unitOp, l2Ready_read⟩,
    fun s id r hr hst => ⟨fun h => ⟨sliceMissFill_device hr hst h, l2Fill_whole h⟩, sliceMissFill_host hr hst,
      fun n hk hb honly hline hown => sliceMissFill_read hr hst hk hb honly hline hown⟩,
    fun s id r hr => ⟨serveWaiting_ready hr, serveWaiting_unready hr⟩⟩
  case refine_1 =>
    intro bytes hk hgood hnodup hwf
    have hmem := (written_keeps s r bytes).2
    refine ⟨_, homeSliceRequest_write hr ha hb hw hk hgood, findReq_staged hr _, fun a => ?_, ?_, fun hdev => ?_⟩
    · show readByte (written s r bytes).mem a = _
      rw [hmem, readByte_applyPatch hnodup hwf]
    · show Memory.wf (written s r bytes).mem = true
      rw [hmem]
      exact applyPatch_wf _ _ _ hwf
    · exact written_dirty hdev
  case refine_2 =>
    intro n x hk hx hfull hline hown
    exact homeSliceRequest_read hr ha hb hw hk hx hfull hline hown
  case refine_3 =>
    intro hu hl
    exact homeSliceRequest_unitOp hr ha hb hw hu hl

end Sys2Proof.Machine
end

section
/-! ### The atomic unit performs one operation (R195, R202, R239, R264, R315) -/
namespace Sys2Proof.Machine

variable {s s' s'' : State} {r : Req} {id slice ctx n : Nat}

/-! ### A barrier wakes records that are all in the buffer (R264) -/

/-- From one state to another only threads and records have changed, and every record stands in the buffer. -/
def WakesBuffered (s s' : State) : Prop :=
  s' = { s with threads := s'.threads, records := s'.records } ∧ ∀ x ∈ s'.records, x.inBuffer = true

theorem WakesBuffered.refl (h : ∀ x ∈ s.records, x.inBuffer = true) : WakesBuffered s s := ⟨rfl, h⟩

theorem WakesBuffered.updRecord {f : Record → Record} (h : WakesBuffered s s')
    (hf : ∀ x, x.inBuffer = true → (f x).inBuffer = true) : WakesBuffered s (updRecord s' id f) := by
  refine ⟨?_, forall_mem_updWhere h.2 hf⟩
  rw [h.1]
  rfl

theorem WakesBuffered.setThread (h : WakesBuffered s s') (t : Thread) : WakesBuffered s (setThread s' t) := by
  refine ⟨?_, h.2⟩
  rw [h.1]
  rfl

theorem bufferRecord_of_buffered (h : ∀ x ∈ s.records, x.inBuffer = true) (id : Nat) : bufferRecord s id = s := by
  unfold bufferRecord
  split
  · rfl
  · next r hr => exact if_pos (h r (List.mem_of_find?_eq_some hr))

theorem WakesBuffered.refillRecordBins (h : WakesBuffered s s') (cluster : Nat) :
    WakesBuffered s (refillRecordBins s' cluster) := by
  unfold Machine.refillRecordBins
  refine foldList_keeps (P := WakesBuffered s) h fun s2 x _ h2 => ?_
  dsimp only
  split
  · exact h2.updRecord fun _ hx => hx
  · exact h2

theorem WakesBuffered.wakeRecord (h : WakesBuffered s s') (id : Nat) : WakesBuffered s (wakeRecord s' id) := by
  unfold Machine.wakeRecord
  split
  · exact h
  · split
    · exact h
    · extract_lets s1
      have h1 : WakesBuffered s s1 := h.updRecord fun _ hx => hx
      split
      · rw [bufferRecord_of_buffered h1.2]
        exact h1.refillRecordBins _
      · exact h1

theorem WakesBuffered.retest (h : WakesBuffered s s') (p : Record → Bool) : WakesBuffered s (retest s' p) := by
  unfold Machine.retest
  refine foldList_keeps (P := WakesBuffered s) h fun s2 x _ h2 => ?_
  split
  · exact h2.wakeRecord _
  · exact h2

theorem WakesBuffered.fileThread (h : WakesBuffered s s') (t : Thread) (origin : Nat) :
    WakesBuffered s (fileThread s' t origin s'.clock) := by
  obtain ⟨t', -, hfile⟩ := fileThread_eq_setThread s' t origin
  rw [hfile]
  exact h.setThread t'

theorem WakesBuffered.retestHeld (h : WakesBuffered s s') (p : Thread → Bool) : WakesBuffered s (retestHeld s' p) := by
  unfold Machine.retestHeld
  refine foldList_keeps (P := WakesBuffered s) h fun s2 t _ h2 => ?_
  split
  · exact iteInduction (motive := WakesBuffered s) (fun _ => h2.fileThread _ _) fun _ => h2
  · exact h2

theorem wakeBar_wakesBuffered (h : ∀ x ∈ s.records, x.inBuffer = true) (wg ctx : Nat) :
    WakesBuffered s (wakeBar s wg ctx true) := ((WakesBuffered.refl h).retest _).retestHeld _

theorem WakesBuffered.sliceOnly (h : WakesBuffered s s') : SliceOnly s s' := by
  rw [h.1]
  rfl

theorem WakesBuffered.mem_eq (h : WakesBuffered s s') : s'.mem = s.mem := by rw [h.1]

theorem WakesBuffered.reqs_eq (h : WakesBuffered s s') : s'.reqs = s.reqs := by rw [h.1]

/-! ### What precedes an operation: its entry in the order list, the turn, the line (R315, R463) -/

/-- The state the operation is performed in: memory, its poison and the messages are as they were. -/
structure ReadyState (s s' : State) : Prop where
  only : SliceOnly s s'
  mem : s'.mem = s.mem
  poison : s'.poison = s.poison
  reqs : s'.reqs = s.reqs
  buffered : (∀ x ∈ s.records, x.inBuffer = true) → ∀ x ∈ s'.records, x.inBuffer = true

theorem ReadyState.refl (s : State) : ReadyState s s := ⟨.refl s, rfl, rfl, rfl, fun h => h⟩

theorem ReadyState.trans (h : ReadyState s s') (h' : ReadyState s' s'') : ReadyState s s'' :=
  ⟨h.only.trans h'.only, h'.mem.trans h.mem, h'.poison.trans h.poison, h'.reqs.trans h.reqs,
    fun hb => h'.buffered (h.buffered hb)⟩

theorem ReadyState.poisoned (h : ReadyState s s') (a m : Nat) : poisoned s' a m = poisoned s a m := by
  rw [Machine.poisoned, h.poison, Machine.poisoned]

theorem opUsed_ready (s : State) (launch entry : Nat) : ReadyState s (opUsed s launch entry) := by
  unfold opUsed
  split
  · split
    · exact ⟨rfl, rfl, rfl, rfl, fun h => h⟩
    · exact .refl s
  · exact .refl s

theorem updOwner_ready (s : State) (wg tid : Nat) (f : Thread → Thread) : ReadyState s (updOwner s wg tid f) := by
  refine ⟨rfl, rfl, rfl, rfl, fun hb x hx => ?_⟩
  obtain ⟨y, hy, rfl⟩ := List.mem_map.mp hx
  exact iteInduction (motive := fun z : Record => z.inBuffer = true) (fun _ => hb y hy) fun _ => hb y hy

theorem opPerformed_ready (h : s.recording = []) (wg tid ident : Nat) : ReadyState s (opPerformed s wg tid ident) := by
  unfold opPerformed
  split
  · rw [logFor_unrecorded h]
    exact (updOwner_ready ..).trans (opUsed_ready ..)
  · exact .refl s

theorem l2Place_ready (s : State) (ctx slice pa : Nat) : ReadyState s (l2Place s ctx slice pa) := by
  unfold l2Place
  split
  · exact .refl s
  · exact ⟨rfl, rfl, rfl, rfl, fun h => h⟩

theorem l2Write_ready (s : State) (ctx slice pa : Nat) (p : Nat → Bool) : ReadyState s (l2Write s ctx slice pa p) :=
  (l2Place_ready ..).trans ⟨rfl, rfl, rfl, rfl, fun h => h⟩

theorem unitServed_ready (s : State) (r : Req) : ReadyState s (unitServed s r) := by
  obtain ⟨u, hu⟩ := sideServed_eq s r.ctx (reqSlice s r)
  rw [unitServed, hu]
  exact ⟨rfl, rfl, rfl, rfl, fun h => h⟩

/-- The unit performs the operation in a state whose memory and messages are those of the state before. -/
theorem atomicPerform_runs (hr : findReq s id = some r) (hn : unitNext s r = true) (hrec : s.recording = []) :
    ∃ s2, ReadyState s s2 ∧ Runs (.atomicPerform id) s (serveLine (performUnit s2 r) (reqSlice s r) r.pa) := by
  have hlog : ReadyState s (if opLogged s r then opPerformed s r.wg r.tid (reqSlice s r) else s) :=
    iteInduction (motive := ReadyState s) (fun _ => opPerformed_ready hrec ..) fun _ => .refl s
  have hline := l2Write_ready (if opLogged s r then opPerformed s r.wg r.tid (reqSlice s r) else s) r.ctx (reqSlice s r)
    r.pa fun i => decide (r.pa % 128 ≤ i) && decide (i < r.pa % 128 + unitBytes r.kind)
  refine ⟨_, (hlog.trans hline).trans (unitServed_ready _ r), ?_⟩
  show execAtomicPerform id s = _
  simp only [execAtomicPerform, hr, hn, Bool.not_true, Bool.false_eq_true, if_false]

/-- What the unit answers and leaves in memory. -/
theorem atomicPerform_reaches {bs : List Byte} {st : State} (hr : findReq s id = some r)
    (hw : waitingAt s (reqSlice s r) r.pa = []) (hkeeps : SliceOnly s st) (hreqs : st.reqs = s.reqs)
    (hrun : Runs (.atomicPerform id) s
      (serveLine (arrived st { r with stage := .reply bs none true }) (reqSlice s r) r.pa)) :
    Reaches (.atomicPerform id) s fun s' => s'.mem = st.mem ∧
      findReq s' id = some { r with stage := .reply bs none true } := by
  rw [serveLine_arrived hkeeps hreqs (by simp) hw] at hrun
  exact ⟨_, hrun, rfl, findReq_staged hr _⟩

/-! ### The operations -/

theorem performUnit_atom {e w64 ret : Bool} {op : Nat} {operand : List Byte} (hk : r.kind = .atom e op w64 operand ret)
    (hc : poisoned s r.pa (if w64 then 8 else 4) = []) :
    performUnit s r = arrived
      (physWrite s r.pa (atomBytes e op w64 (readBytes s.mem r.pa (if w64 then 8 else 4)) operand))
      { r with stage := .reply (if ret then readBytes s.mem r.pa (if w64 then 8 else 4) else []) none true } := by
  simp only [performUnit, hk, performAtom, hc, readClean_of_clean hc, poisonMet_nil]

theorem performUnit_post {mode : Nat} {operand : List Byte} (hk : r.kind = .post mode operand)
    (hc : poisoned s r.pa 8 = []) : performUnit s r = arrived
      (physWrite s r.pa (toBytes 8 (postNew mode (ofBytes (readBytes s.mem r.pa 8)) (ofBytes operand))))
      { r with stage := .reply [] none true } := by
  simp only [performUnit, hk, hc, readClean_of_clean hc, ite_self, poisonMet_nil]

/-- The state a barrier change leaves. -/
def barChanged (s : State) (r : Req) (fn : Nat) : Option Bar → State
  | some b => if fn = 5 then s else wakeBar (physWrite s r.pa (barBytes b)) r.wg r.ctx true
  | none => s

theorem performUnit_bar {fn : Nat} {operand : Word} {out : Bool} (hk : r.kind = .bar fn operand out)
    (hc : poisoned s r.pa 16 = []) : performUnit s r = arrived
      (barChanged s r fn (barChange fn operand out (barOf (readBytes s.mem r.pa 16))))
      { r with stage := .reply (barReply (barResult fn operand out (barOf (readBytes s.mem r.pa 16)))) none true } := by
  simp only [performUnit, hk, performBar, hc, readClean_of_clean hc, poisonMet_nil]
  cases barChange fn operand out (barOf (readBytes s.mem r.pa 16)) <;> rfl

theorem barChanged_read {fn : Nat} {c : Option Bar} (h : fn = 5 ∨ c = none) : barChanged s r fn c = s := by
  rcases h with h | rfl
  · cases c with
    | none => rfl
    | some b => exact if_pos h
  · rfl

theorem physWrite_buffered {pa : Nat} (hb : ∀ x ∈ s.records, x.inBuffer = true) (bs : List Byte) :
    ∀ x ∈ (physWrite s pa bs).records, x.inBuffer = true := hb

theorem physWrite_reqs (s : State) (pa : Nat) (bs : List Byte) : (physWrite s pa bs).reqs = s.reqs := rfl

theorem barChanged_written {fn : Nat} (b : Bar) (hfn : fn ≠ 5) (hb : ∀ x ∈ s.records, x.inBuffer = true) :
    WakesBuffered (physWrite s r.pa (barBytes b)) (barChanged s r fn (some b)) := by
  rw [barChanged, if_neg hfn]
  exact wakeBar_wakesBuffered (physWrite_buffered hb _) ..

theorem barChanged_keeps {fn : Nat} (c : Option Bar) (hb : ∀ x ∈ s.records, x.inBuffer = true) :
    SliceOnly s (barChanged s r fn c) ∧ (barChanged s r fn c).reqs = s.reqs := by
  by_cases h : fn = 5 ∨ c = none
  · rw [barChanged_read h]
    exact ⟨.refl s, rfl⟩
  · rw [not_or] at h
    obtain ⟨b, rfl⟩ := Option.ne_none_iff_exists'.mp h.2
    have hw := barChanged_written (r := r) b h.1 hb
    exact ⟨(physWrite_sliceOnly ..).trans hw.sliceOnly, hw.reqs_eq.trans (physWrite_reqs ..)⟩

theorem atomBytes_length (e : Bool) (op : Nat) (w64 : Bool) (old operand : List Byte) :
    (atomBytes e op w64 old operand).length = if w64 then 8 else 4 := by
  rw [atomBytes, toBytes_length]
  cases w64 <;> rfl

theorem atomicUnitPerformsOneOperation : Claims.AtomicUnitPerformsOneOperation := by
  intro s id r hr hn hrec hw
  obtain ⟨s2, h2, hrun⟩ := atomicPerform_runs hr hn hrec
  refine ⟨?_, ?_, ?_, atomBytes_length⟩
  case refine_1 =>
    intro e op w64 operand ret hk hc
    rw [← h2.poisoned] at hc
    rw [performUnit_atom hk hc, h2.mem] at hrun
    have hdone := atomicPerform_reaches hr hw (h2.only.trans (physWrite_sliceOnly ..)) h2.reqs hrun
    rwa [physWrite, h2.mem] at hdone
  case refine_2 =>
    intro fn operand out hk hc hbuf b
    rw [← h2.poisoned] at hc
    rw [performUnit_bar hk hc, h2.mem] at hrun
    obtain ⟨honly, hreqs⟩ := barChanged_keeps (r := r) (fn := fn) (barChange fn operand out b) (h2.buffered hbuf)
    obtain ⟨s', hs', hmem, hfound⟩ := atomicPerform_reaches hr hw (h2.only.trans honly) (hreqs.trans h2.reqs) hrun
    refine ⟨s', hs', hfound, fun h => ?_, fun b' hfn hb' => ?_⟩
    · rw [hmem, barChanged_read h, h2.mem]
    · rw [hmem, hb', (barChanged_written b' hfn (h2.buffered hbuf)).mem_eq, physWrite, h2.mem]
  case refine_3 =>
    intro mode operand hk hc
    rw [← h2.poisoned] at hc
    rw [performUnit_post hk hc, h2.mem] at hrun
    obtain ⟨s', hs', hmem, hfound⟩ :=
      atomicPerform_reaches hr hw (h2.only.trans (physWrite_sliceOnly ..)) h2.reqs hrun
    refine ⟨s', hs', hfound, ?_⟩
    rw [hmem, physWrite, h2.mem]

/-- Settles O36: the steps of a home slice, the operations of the atomic unit on a state whose memory and messages are
those before, and the places of slices, routes and seats. -/
theorem homeSlicesAndTheAtomicUnit : Obligations.HomeSlicesAndTheAtomicUnit :=
  ⟨homeSlicesPerformReadsAndWrites, atomicUnitPerformsOneOperation, routesStayInTheirRectangle⟩

end Sys2Proof.Machine
end
